-- ==== Sys2Proof/Word.lean ====
section
/-! DEFINITION. The plain words of the fabric: a byte, and the two integers the spec's
tables are written in. Field extraction and every other helper a test could show wrong
lives in `Machine/Bits.lean`. -/
namespace Sys2Proof

/-- A byte, as the spec's units, headers, records and memories are made of (R7). -/
abbrev Byte := BitVec 8

/-- A 64-byte command descriptor (R99, R101). -/
abbrev Descriptor := BitVec 512

end Sys2Proof
end

