-- ==== Sys2Proof/Syntax.lean ====
section
/-!
DEFINITION. The things that travel in the fabric (address words, packets, signals, link frames, management
messages) as plain data, and `Instr`, the ONE inductive of commands: one constructor for every row of
spec/opcode_table.json. A field the spec gives as an unsigned number is a `Nat`; its width is checked by
WellFormed.lean and its place in the words by Machine/Codec.lean.
-/

namespace Sys2Proof

/-- A cell (x, y) of this engine (R8, Notation). -/
structure Coord where
  x : Nat
  y : Nat
  deriving DecidableEq, Repr

/-- Address word of R26 as DEST: engine, cell and target (0 cell memory, 1 drop, 2 link port, 3 pond, 4 anycast, 5 rectangle). -/
structure Addr where
  eng : Nat
  x : Nat
  y : Nat
  tgt : Nat
  deriving DecidableEq, Repr

/-- Address word of R26 as SRC: engine, cell, issuing core; `stream` is bit [31], which R174 sets for a memory stream. -/
structure SrcAddr where
  eng : Nat
  x : Nat
  y : Nat
  core : Nat
  stream : Bool := false
  deriving DecidableEq, Repr

/-- Transfer tail (R29). -/
structure TransferTail where
  addr : Nat
  size : Nat
  rsv : Nat
  rclass : Nat
  lease : Nat
  off : Nat
  tdx : Nat
  sopx : Nat
  deriving DecidableEq, Repr

/-- Message tail (R30). -/
structure MessageTail where
  chan : Nat
  epoch : Nat
  mlen : Nat
  deriving DecidableEq, Repr

/-- Rectangle tail (R31). -/
structure RectTail where
  x1 : Nat
  y1 : Nat
  addr : Nat
  mid : Nat
  off : Nat
  size : Nat
  deriving DecidableEq, Repr

/-- Table tail (R32). -/
structure TableTail where
  tdesc : Nat
  row : Nat
  fep : Nat
  op : Nat
  fmt : Nat
  rsv : Nat
  off : Nat
  deriving DecidableEq, Repr

/-- Collective tail (R33). -/
structure CollTail where
  ctx : Nat
  epoch : Nat
  slice : Nat
  nsl : Nat
  count : Nat
  fmt : Nat
  level : Nat
  phase : Nat
  pass : Bool
  inc : Bool
  aex : Bool
  spv : Bool
  deriving DecidableEq, Repr

/-- The TYPE-dependent tail of a header unit (R29 to R33). -/
inductive Tail where
  | transfer (t : TransferTail)
  | message (t : MessageTail)
  | rect (t : RectTail)
  | table (t : TableTail)
  | coll (t : CollTail)
  deriving DecidableEq, Repr

/-- ROUTE bits of a header (R25). -/
structure RouteBits where
  phase : Nat
  express : Bool
  detour : Nat
  deriving DecidableEq, Repr

/-- A packet: the header unit of R25 and its payload bytes. `poison` says that a data unit of it is poison (R37, R43). -/
structure Packet where
  typ : Nat
  cls : Nat
  len : Nat
  hmin : Nat
  tb : Bool
  fin : Bool
  dest : Addr
  src : SrcAddr
  tag : Nat
  route : RouteBits
  bcheck : Nat
  tail : Tail
  payload : List Byte
  poison : Bool
  deriving DecidableEq, Repr

/-- BAR_ARRIVE (R150, *Barrier signals*); `two` marks the two-beat MINMAX form, whose maximum is `hi`. -/
structure BarArrive where
  bctx : Nat
  gen : Nat
  count : Nat
  rx : Nat
  ry : Nat
  value : Nat
  hi : Nat
  two : Bool
  deriving DecidableEq, Repr

/-- BAR_RELEASE (R150, *Barrier signals*). -/
structure BarRelease where
  bctx : Nat
  gen : Nat
  count : Nat
  timeout : Bool
  x0 : Nat
  y0 : Nat
  x1 : Nat
  y1 : Nat
  value : Nat
  deriving DecidableEq, Repr

/-- A tally request (R155); `op` is its SOP, 0x10 to 0x15. -/
structure TallyReq where
  op : Nat
  tag : Nat
  f : Nat
  k : Nat
  x : Nat
  y : Nat
  core : Nat
  v : Nat
  deriving DecidableEq, Repr

/-- TALLY_RSP (R155). -/
structure TallyRsp where
  tag : Nat
  x : Nat
  y : Nat
  core : Nat
  old : Nat
  deriving DecidableEq, Repr

/-- NACK signal (R144). -/
structure Nack where
  reason : Nat
  tag : Nat
  target : SrcAddr
  raiser : SrcAddr
  typ : Nat
  chan : Nat
  chstate : Nat
  var : Nat
  deriving DecidableEq, Repr

/-- DELIVERED signal (R144, *Addressed signal*). -/
structure Delivered where
  arg8 : Nat
  tag : Nat
  target : SrcAddr
  origin : SrcAddr
  arg32 : Nat
  deriving DecidableEq, Repr

/-- Key of a reservation at its granting router: (SRC cell, RSV, TAG) (R165). For a multicast call RSV holds the MID. -/
structure RsvKey where
  src : SrcAddr
  rsv : Nat
  tag : Nat
  deriving DecidableEq, Repr

/-- MRES_GRANT, the call of a combined reservation (R174). -/
structure MresGrant where
  mid : Nat
  size : Nat
  lease : Nat
  source : SrcAddr
  tag : Nat
  addr : Nat
  x : Nat
  y : Nat
  x1 : Nat
  y1 : Nat
  deriving DecidableEq, Repr

/-- MRES_ARRIVE, an answer or a merged sum of answers (R174). -/
structure MresArrive where
  mid : Nat
  phase : Nat
  reasons : Nat
  ok : Nat
  fail : Nat
  source : SrcAddr
  deriving DecidableEq, Repr

/-- A granting site: a router's landing buffer, a drop port, or a link port's transit buffer (R162, R275, R312). -/
inductive Site where
  | router (c : Coord)
  | drop (st d : Nat)
  | port (p : Nat)
  deriving DecidableEq, Repr

/-- The requester of a dictionary access (R382, R388): one core (ENG, X, Y, CORE), or the management port. -/
structure Requester where
  eng : Nat
  x : Nat
  y : Nat
  core : Nat
  mgmt : Bool
  deriving DecidableEq, Repr

/-- DICT_REQ with its assembled data (R388). `whole` is false while data segments are missing. -/
structure DictReq where
  who : Requester
  tag : Nat
  wr : Bool
  index : Nat
  sub : Nat
  eng : Nat
  node : Nat
  cell : Nat
  tlen : Nat
  toff : Nat
  tend : Bool
  value : Nat
  data : List Byte
  whole : Bool
  deriving DecidableEq, Repr

/-- DICT_RSP with its assembled data (R388); what names the access is that of its request. -/
structure DictRsp where
  who : Requester
  tag : Nat
  wr : Bool
  index : Nat
  sub : Nat
  eng : Nat
  node : Nat
  cell : Nat
  status : Nat
  detail : Nat
  tlen : Nat
  toff : Nat
  tend : Bool
  value : Nat
  data : List Byte
  whole : Bool
  deriving DecidableEq, Repr

/-- A management message as it is reassembled from MCTP packets (R392, R393). -/
structure MgmtReq where
  bytes : List Byte
  deriving DecidableEq, Repr

/-- A link frame (R304): header fields, body items of 36 bytes and the 16-byte tag. -/
structure Frame where
  kind : Nat
  enc : Bool
  kp : Bool
  nak : Bool
  seq : Nat
  ack : Nat
  txl : Nat
  body : List (List Byte)
  tag : List Byte
  deriving DecidableEq, Repr

/-- HELLO message (R316). -/
structure Hello where
  version : Nat
  features : Nat
  engine : Nat
  port : Nat
  role : Nat
  lanesOk : Nat
  conf : Nat
  state : Nat
  pair : Nat
  random : List Byte
  epub : List Byte
  rxbuf : List Nat
  deriving DecidableEq, Repr

/-- One port record of a link-state note (R321). -/
structure PortRec where
  port : Nat
  inService : Bool
  dim : Nat
  dir : Nat
  free : Bool
  relayPaired : Bool
  relayPair : Nat
  partner : Nat
  partnerPort : Nat
  deriving DecidableEq, Repr

/-- Link-state note (R321). -/
structure Note where
  origin : Nat
  state : Nat
  nseq : Nat
  ft : Nat
  ports : List PortRec
  key : List Byte
  sig : List Byte
  deriving DecidableEq, Repr

/-- The body of a TIME frame (R335). -/
structure TimeBody where
  ttx : Nat
  techo : Nat
  trx : Nat
  txStretch : Bool
  txHeld : Bool
  rxStretch : Bool
  rxHeld : Bool
  deriving DecidableEq, Repr

/-- BEACON signal (R419). -/
structure Beacon where
  seq : Nat
  step : Bool
  res : Nat
  tsend : Nat
  deriving DecidableEq, Repr

/-- HALT signal (R433). -/
structure Halt where
  group : Nat
  on : Bool
  origin : SrcAddr
  t : Nat
  deriving DecidableEq, Repr

/-- A signal as it travels on the signal net (R144). Link-local signals (CREDIT, CREDIT_SYNC, SLSYNC) name the
cell and output port that send them; their counts are those of *Link-local formats*. -/
inductive Signal where
  | barArrive (a : BarArrive)
  | barRelease (r : BarRelease)
  | tallyReq (q : TallyReq)
  | tallyRsp (q : TallyRsp)
  | int (target origin : SrcAddr) (arg32 : Nat)
  | wake (target origin : SrcAddr) (arg8 : Nat)
  | nack (n : Nack)
  | delivered (d : Delivered)
  | mresGrant (g : MresGrant)
  | mresArrive (a : MresArrive)
  | ringChange (hole : Coord) (rowByp colByp : Bool)
  | anyWin (g member : Nat) (noWinner : Bool)
  | beacon (b : Beacon)
  | halt (h : Halt)
  | dictReq (r : DictReq)
  | dictRsp (r : DictRsp)
  | credit (c : Coord) (port : Nat) (counts : List Nat)
  | creditSyncReq (c : Coord) (port : Nat)
  | creditSyncRsp (c : Coord) (port : Nat) (counts : List Nat)
  | slsync (c : Coord) (port : Nat) (counts : List Nat)
  deriving DecidableEq, Repr

/-- What the FEC says of the codewords that a frame overlaps (R304): all clean, `n` of them corrected, or one that cannot be corrected. -/
inductive Fec where
  | clean
  | corrected (n : Nat)
  | bad
  deriving DecidableEq, Repr

/-- What arrives on a link in Calm (R410). -/
inductive LinkItem where
  | packet (p : Packet)
  | signal (sg : Signal)
  | note (n : Note)
  deriving DecidableEq, Repr

/-- What the self-test of bring-up step 5 found (R443, R444): routers that failed loopback, failed link directions and
failed bypasses as (cell, port code of the driving router), and mill-race stops whose link failed, as (stop, 0 for row or 1 for column). -/
structure SelfTest where
  routers : List Coord
  links : List (Coord × Nat)
  bypasses : List (Coord × Nat)
  lanes : List (Coord × Nat)
  deriving DecidableEq, Repr

/-- The MCTP control messages that R392 supports. -/
inductive MctpControl where
  | setEndpointId (eid : Nat)
  | getEndpointId
  | getVersionSupport (typ : Nat)
  | getTypeSupport
  | getVendorSupport (selector : Nat)
  deriving DecidableEq, Repr

/-- The commands of the block: one constructor for every row of the opcode table. -/
inductive Instr where
  /-- COMMAND_PRESENT (R99). A core presents a 64-byte command descriptor at the tail of its queue, which holds up to 64 entries. -/
  | commandPresent (c : Coord) (core : Nat) (d : Descriptor)
  /-- PUT (R103). PUT FORM 0 is accepted and split into reservations of at most 16 KiB, each of which sends a RESERVE. -/
  | put (c : Coord)
  /-- GET (R171). GET FORM 0 is accepted and reserves landing space in its own router for each reservation before any GET_REQ is sent. -/
  | get (c : Coord)
  /-- PUT_SCATTER (R289). PUT FORM 1 is accepted and sends one RESERVE per row to the row's home drop, for scatter-add or scatter-max. -/
  | putScatter (c : Coord)
  /-- GET_GATHER (R283). GET FORM 1 is accepted, reserves landing space for groups of rows, and sends one GATHER_REQ per row. -/
  | getGather (c : Coord)
  /-- SEND (R106). SEND is accepted, reads MLEN bytes, and sends one SEND packet without a reservation. -/
  | send (c : Coord)
  /-- MCAST (R174). MCAST is accepted and starts one combined multicast call per reservation of at most 16 KiB. -/
  | mcast (c : Coord)
  /-- DEPOSIT (R107). DEPOSIT is accepted, checked against the armed context, verified block by block, and its slices are staged or marked to pull. -/
  | deposit (c : Coord)
  /-- SIGNAL_BAR_ARRIVE (R151). SIGNAL with SIGOP 0x20 sends a BAR_ARRIVE with COUNT 1 and holds the command until a release arrives. -/
  | signalBarArrive (c : Coord)
  /-- SIGNAL_TALLY_ADD (R156). SIGNAL TALLY_ADD sends an add request to the counter's home router. -/
  | signalTallyAdd (c : Coord)
  /-- SIGNAL_TALLY_MIN (R156). SIGNAL TALLY_MIN sends an unsigned minimum request to the counter's home router. -/
  | signalTallyMin (c : Coord)
  /-- SIGNAL_TALLY_MAX (R156). SIGNAL TALLY_MAX sends an unsigned maximum request to the counter's home router. -/
  | signalTallyMax (c : Coord)
  /-- SIGNAL_TALLY_READ (R156). SIGNAL TALLY_READ sends a read request to the counter's home router. -/
  | signalTallyRead (c : Coord)
  /-- SIGNAL_TALLY_SWAP (R156). SIGNAL TALLY_SWAP sends a swap request to the counter's home router. -/
  | signalTallySwap (c : Coord)
  /-- SIGNAL_TALLY_TAKE (R156). SIGNAL TALLY_TAKE sends a semaphore take request to the counter's home router. -/
  | signalTallyTake (c : Coord)
  /-- SIGNAL_INT (R157). SIGNAL INT sends an INT signal to a core and completes OK as soon as the signal leaves. -/
  | signalInt (c : Coord)
  /-- SIGNAL_WAKE (R157). SIGNAL WAKE sends a WAKE signal to a field and completes OK as soon as the signal leaves. -/
  | signalWake (c : Coord)
  /-- FENCE_ISSUE (R117). FENCE.ISSUE is accepted at once and completes when every earlier command of the core has reached its issue point. -/
  | fenceIssue (c : Coord)
  /-- FENCE_DONE (R117). FENCE.DONE holds its core's queue head until every earlier command of the core has its final completion. -/
  | fenceDone (c : Coord)
  /-- FENCE_CTX (R117). FENCE.CTX holds its core's queue head until every earlier deposit of the cell to (CTX, EPOCH) is final. -/
  | fenceCtx (c : Coord)
  /-- DICT_READ (R110). DICT with WR = 0 sends a DICT_REQ read at the issuing core's rights tier. -/
  | dictRead (c : Coord)
  /-- DICT_WRITE (R110). DICT with WR = 1 sends a DICT_REQ write at the issuing core's rights tier. -/
  | dictWrite (c : Coord)
  /-- WATCH_BUFFER (R111). WATCH FORM 0 reads and verifies NBLK blocks and writes one watch record per slice. -/
  | watchBuffer (c : Coord)
  /-- WATCH_CONTEXT (R111). WATCH FORM 1 attaches or detaches watch on the cell's contributions to a context epoch. -/
  | watchContext (c : Coord)
  /-- COUNTER_READ (R115). A direct operation returns the value of one completion counter. -/
  | counterRead (c : Coord) (core tag k : Nat)
  /-- BLOCKING_WAIT (R115). A blocking wait on a completion counter is answered when the target is reached; a second wait on the same counter replaces the first. -/
  | blockingWait (c : Coord) (core tag k v : Nat)
  /-- WAIT_TIMEOUT_EXPIRY (R115). WAIT_TIMEOUT passes for a blocking wait, which is answered with its TIMEOUT flag. -/
  | waitTimeoutExpiry (c : Coord) (core k : Nat)
  /-- CH_POLL (R133). A direct operation that answers at once with the channel answer word. -/
  | chPoll (c : Coord) (core tag n : Nat)
  /-- CH_WAIT (R134). A direct operation that waits for data, CLOSED with an empty ring, or RESET on a channel. -/
  | chWait (c : Coord) (core tag n : Nat)
  /-- CH_WAIT_TIMEOUT (R133). READ_TIMEOUT passes for a CH_WAIT, which is answered EMPTY. -/
  | chWaitTimeout (c : Coord) (core n : Nat)
  /-- CH_ADVANCE (R135). A direct operation that moves the reader head from h to g when the expected head matches and the new head is valid. -/
  | chAdvance (c : Coord) (core tag n h g : Nat)
  /-- INT_TAKE (R158). A direct operation that takes the oldest entry of the core's interrupt queue. -/
  | intTake (c : Coord) (core tag : Nat)
  /-- DATA_BEAT_RECEIVE (R24). A beat arrives at a router input port and is decoded, checked for protocol violations, and buffered on its lane. -/
  | dataBeatReceive (c : Coord) (port : Nat) (cw : List Byte) (side : Nat)
  /-- CREDIT_BEAT_RECEIVE (R20). A credit beat returns credits for VL0, VL1 and VL6 to VL9; a poisoned one triggers credit sync. -/
  | creditBeatReceive (c : Coord) (port : Nat) (cw : List Byte) (side : Nat)
  /-- GUST_DECISION (R81). A free output grants one eligible gust by the claim, Control and ranking steps. -/
  | gustDecision (c : Coord) (port : Nat)
  /-- CREDIT_BEAT_INSERT (R20). Credits that have waited 32 fc without an idle beat force a credit beat at the next gust boundary. -/
  | creditBeatInsert (c : Coord) (port : Nat)
  /-- ARB_WINDOW_BOUNDARY (R79). At a window boundary every requester's credit resets to its weight and the Control quota restarts. -/
  | arbWindowBoundary (c : Coord) (port : Nat)
  /-- TRADE_CLAIM_ARISE (R85). At the first fc of a slot period, the owning Trade requester receives a claim. -/
  | tradeClaimArise (c : Coord) (port : Nat)
  /-- TRADE_CLAIM_LAPSE (R85). A claim not consumed by the end of the next period lapses and is counted. -/
  | tradeClaimLapse (c : Coord) (port : Nat)
  /-- TRADE_TABLE_APPLY (R86). A committed slot table takes effect from the next period with k mod 256 = 0. -/
  | tradeTableApply (c : Coord) (port : Nat)
  /-- CREDIT_SYNC_REQ_RECEIVE (R91). The input receives a CREDIT_SYNC request and sends a marker credit beat and a reply carrying its counts. -/
  | creditSyncReqReceive (c : Coord) (port : Nat)
  /-- CREDIT_SYNC_MARKER_RECEIVE (R91). The output records its counts when the marker arrives and restores credits once the reply has also arrived. -/
  | creditSyncMarkerReceive (c : Coord) (port : Nat)
  /-- CREDIT_SYNC_RSP_RECEIVE (R91). The output takes the reply counts and restores credits once the marker has also arrived. -/
  | creditSyncRspReceive (c : Coord) (port : Nat) (counts : List Nat)
  /-- CREDIT_SYNC_RETRY (R91). A marker or reply still missing 256 fc after the request causes the request to be repeated. -/
  | creditSyncRetry (c : Coord) (port : Nat)
  /-- ROUTER_FENCE (R66). A router fenced in service starts the reclose: neighbours freeze toward it and send the NACKs of R67. -/
  | routerFence (c : Coord)
  /-- RING_CHANGE_RECEIVE (R66). A router applies a RING_CHANGE at its next gust boundary, recomputes its maps and increments its generation. -/
  | ringChangeReceive (c hole : Coord) (rowByp colByp : Bool)
  /-- RECLOSE_RELEASE (R66). Frozen neighbours release the freeze and route the held packets afresh under the new map. -/
  | recloseRelease (hole : Coord)
  /-- ANYCAST_ADVERTISE (R72). At each period start, each live member advertises by a tally max on the home field's counter. -/
  | anycastAdvertise (g : Nat)
  /-- ANYCAST_WINNER_DECODE (R72). 100 ns into the next period, the home field decodes the winner, broadcasts ANY_WIN and resets the counter. -/
  | anycastWinnerDecode (g : Nat)
  /-- ANY_WIN_RECEIVE (R73). A router caches the latest winner of an anycast group. -/
  | anyWinReceive (c : Coord) (g member : Nat) (noWinner : Bool)
  /-- SIGNAL_BEAT_RECEIVE (R141). A signal-net beat is decoded, checked and buffered, or consumed if link-local. -/
  | signalBeatReceive (c : Coord) (port : Nat) (cw : List Byte) (side : Nat)
  /-- SLSYNC_SEND (R142). Every 1,024 fc each signal input sends its cumulative credit counts in SLSYNC. -/
  | slsyncSend (c : Coord) (port : Nat)
  /-- SLSYNC_RECEIVE (R142). A signal output restores lost signal-lane credits from an SLSYNC. -/
  | slsyncReceive (c : Coord) (port : Nat) (counts : List Nat)
  /-- CREDIT_SIGNAL_SEND (R145). A data input sends a CREDIT signal 8 fc after a unit is freed, or once 4 units have been freed. -/
  | creditSignalSend (c : Coord) (port : Nat)
  /-- CREDIT_SIGNAL_RECEIVE (R145). An output adds the Bulk and Collective credits from the cumulative counts of a CREDIT signal. -/
  | creditSignalReceive (c : Coord) (port : Nat) (counts : List Nat)
  /-- BAR_ARRIVE_AT_ROOT (R153). The root counts and combines an arrival, opening the phase or releasing it COMPLETE. -/
  | barArriveAtRoot (c : Coord) (a : BarArrive)
  /-- BARRIER_PHASE_TIMEOUT (R153). The phase lease expires, and the root releases with TIMEOUT and increments GEN. -/
  | barrierPhaseTimeout (bctx : Nat)
  /-- BAR_RELEASE_RECEIVE (R154). A cell port answers every command waiting on the released barrier context. -/
  | barReleaseReceive (c : Coord) (r : BarRelease)
  /-- TALLY_REQUEST_AT_HOME (R156). The home router applies one atomic tally operation and answers with TALLY_RSP. -/
  | tallyRequestAtHome (q : TallyReq)
  /-- TALLY_RSP_RECEIVE (R156). The SIGNAL command completes OK with VALUE = OLD. -/
  | tallyRspReceive (q : TallyRsp)
  /-- INT_RECEIVE (R158). The target cell port appends an entry to the core's interrupt queue, or counts an overflow. -/
  | intReceive (c : Coord) (core origin arg32 : Nat)
  /-- WAKE_RECEIVE (R159). The field's power controller consumes a WAKE and wakes the field to the requested state. -/
  | wakeReceive (f arg8 : Nat)
  /-- NACK_RECEIVE (R132). A NACK reaching a cell is counted, entered in CH63, and ends the reservation, row or command it names. -/
  | nackReceive (n : Nack)
  /-- DELIVERED_RECEIVE (R168). A DELIVERED signal completes a SEND, or ends a source reservation with its bytes counted. -/
  | deliveredReceive (d : Delivered)
  /-- REPLY_TIMEOUT_EXPIRY (R160). A command with no reply by REPLY_TIMEOUT completes with status TIMEOUT. -/
  | replyTimeoutExpiry (c : Coord) (slot : Nat)
  /-- SEND_ADMISSION (R126). A SEND header at ejection is admitted and claims ring space, or is refused with a NACK. -/
  | sendAdmission (c : Coord) (p : Packet)
  /-- SEND_LANDING (R129). When the LAST unit arrives, the message's check is verified and the message or a void is written. -/
  | sendLanding (c : Coord) (p : Packet)
  /-- CHAN_STATE_WRITE (R136). A write of STATE moves the channel between RESET, OPEN and CLOSED by the reader lifecycle. -/
  | chanStateWrite (r : DictReq)
  /-- CHAN_HEAD_WRITE (R121). A write of HEAD acts as an unconditional CH_ADVANCE. -/
  | chanHeadWrite (r : DictReq)
  /-- RESERVE_RECEIVE (R163). A RESERVE decided at ejection takes a request-queue entry at the granting router or drop. -/
  | reserveReceive (site : Site) (p : Packet)
  /-- RESERVATION_GRANT (R165). The queue head is granted once the free grains cover it; the lease starts and a GRANT is sent. -/
  | reservationGrant (site : Site)
  /-- GRANT_RECEIVE (R168). The source sends the reservation's packets, or answers a late GRANT with RELEASE. -/
  | grantReceive (c : Coord) (p : Packet)
  /-- PUT_DATA_HEADER (R166). A data header decided before expiry lands in full; a late one is dropped with NACK LEASE. -/
  | putDataHeader (site : Site) (p : Packet)
  /-- RESERVATION_FILLED (R165). The last byte is written to cell memory, DELIVERED is sent and the grains are freed. -/
  | reservationFilled (site : Site) (key : RsvKey)
  /-- LANDING_LEASE_EXPIRY (R167). The lease of a reservation ends: grains are freed, and a FILLING reservation is NACKed LEASE. -/
  | landingLeaseExpiry (site : Site) (key : RsvKey)
  /-- RELEASE_RECEIVE (R165). A RELEASE ends a QUEUED or GRANTED reservation, and is ignored otherwise. -/
  | releaseReceive (site : Site) (p : Packet)
  /-- BULK_TIMEOUT_EXPIRY (R168). A source reservation waiting in ASKED or AWAITING ends with TIMEOUT. -/
  | bulkTimeoutExpiry (c : Coord) (rsv : Nat)
  /-- GET_REQ_RECEIVE (R171). The replier reads the bytes and sends GET_DATA packets on the requested class. -/
  | getReqReceive (site : Site) (p : Packet)
  /-- GET_DATA_RECEIVE (R171). GET_DATA lands in the requester's reservation, which ends when every byte has landed. -/
  | getDataReceive (c : Coord) (p : Packet)
  /-- MRES_GRANT_RECEIVE (R174). Each live member enters the multicast call in its request queue; holes and reset cells are answered as failed. -/
  | mresGrantReceive (c : Coord) (g : MresGrant)
  /-- MRES_ARRIVE_RECEIVE (R175). The source counts the merged answers, sending packets when PHASE 0 is complete and ending the reservation at PHASE 1. -/
  | mresArriveReceive (a : MresArrive)
  /-- CALL_LIMIT_EXPIRY (R175). A multicast call not answered in full ends with reason LEASE and no packet is sent. -/
  | callLimitExpiry (source : SrcAddr) (mid : Nat)
  /-- MCAST_DATA_RECEIVE (R175). A member lands multicast data in its matching reservation, or drops it as late. -/
  | mcastDataReceive (c : Coord) (p : Packet)
  /-- SWEEP_ORIGINATE (R222). An arc end originates its sweep half 8 fc after its contribution is available. -/
  | sweepOriginate (c : Coord) (ctx epoch slice : Nat)
  /-- SWEEP_ARRIVE (R223). A sweep reaches a member router, which merges, pulls, holds or passes the member's contribution. -/
  | sweepArrive (c : Coord) (p : Packet)
  /-- SWEEP_WAIT_BUDGET_EXPIRY (R236). When the wait budget ends without a deposit, the member is owed and the sweep goes on. -/
  | sweepWaitBudgetExpiry (c : Coord) (ctx epoch slice : Nat)
  /-- COLUMN_HALF_ORIGINATE (R224). A gathering router at a column-arc end originates its column half once its row halves are accounted. -/
  | columnHalfOriginate (c : Coord) (ctx epoch slice : Nat)
  /-- ROOT_ARRIVAL (R225). An arrival merges into the slice's ROOT slot or spill record, and the slice completes when the count reaches N. -/
  | rootArrival (c : Coord) (p : Packet)
  /-- SPILL_READ_BACK (R234). When a ROOT slot frees, the oldest spilled slice is moved into it after its CRC check. -/
  | spillReadBack (c : Coord) (ctx : Nat)
  /-- SLICE_LEASE_EXPIRY (R239). CTX_LEASE expires and the slice completes INCOMPLETE with its missing count recorded. -/
  | sliceLeaseExpiry (c : Coord) (ctx epoch slice : Nat)
  /-- ORPHAN_EXPIRY (R238). A STAGED, pull-marked or HELD slice that no sweep collects by CTX_ORPHAN is sent to the root as LATE. -/
  | orphanExpiry (c : Coord) (ctx epoch slice : Nat)
  /-- RESULT_ARRIVE (R226). A member router lands a result copy in its output area, with block checks, or forwards it. -/
  | resultArrive (c : Coord) (p : Packet)
  /-- ANCHOR_ARRIVE (R229). Anchor bytes are max-reduced at routers, and the root completes the anchor pass at count N. -/
  | anchorArrive (c : Coord) (p : Packet)
  /-- ANCHOR_PASS_ORPHAN_EXPIRY (R229). CTX_ORPHAN after the first anchor arrival, the root completes the anchor pass and broadcasts the anchors. -/
  | anchorPassOrphanExpiry (c : Coord) (ctx epoch slice : Nat)
  /-- MEMBER_DEADLINE_EXPIRY (R241). Output that has not landed 2 × CTX_LEASE after the deposit is finished INCOMPLETE with NO_RESULT. -/
  | memberDeadlineExpiry (c : Coord) (ctx epoch slice : Nat)
  /-- EXCHANGE_SEGMENT_SEND (R245). After the XBAR release, each member sends each segment as a Bulk PUT once its slices are deposited. -/
  | exchangeSegmentSend (c : Coord) (ctx epoch dst : Nat)
  /-- EXCHANGE_JOIN (R268). On the local XBAR release, the join packet rises and descends the levels and gives the system release. -/
  | exchangeJoin (ctx epoch : Nat)
  /-- LEVEL_PACKET_ARRIVE (R261). A level packet reaches a station or level root, which merges, holds, passes or completes it. -/
  | levelPacketArrive (port : Nat) (p : Packet)
  /-- STATION_CARRIER_CONVERT (R258). A station converts a staged level-0 partial to a carrier once the system anchors are known. -/
  | stationCarrierConvert (port : Nat) (ctx epoch slice : Nat)
  /-- LEVEL_WAIT_EXPIRY (R261). WAIT_ℓ ends at a station, which owes the engine and sends the half on. -/
  | levelWaitExpiry (port level : Nat) (ctx epoch slice : Nat)
  /-- LEVEL_ORPHAN_EXPIRY (R261). LEASE_ℓ / 2 ends for a STAGED or HELD level slot, which is sent as LATE. -/
  | levelOrphanExpiry (port level : Nat) (ctx epoch slice : Nat)
  /-- LEVEL_LEASE_EXPIRY (R262). LEASE_ℓ ends at a level root, which completes the slice INCOMPLETE and records LEVEL_MISSING. -/
  | levelLeaseExpiry (port level : Nat) (ctx epoch slice : Nat)
  /-- LEVEL_RESULT_DESCEND (R264). A level RESULT or system anchor is passed down the level rings to the level-0 roots. -/
  | levelResultDescend (port : Nat) (p : Packet)
  /-- GATHER_REQ_RECEIVE (R285). A home drop joins, opens or serves alone a coalescer entry for a requested row. -/
  | gatherReqReceive (st d : Nat) (p : Packet)
  /-- COALESCER_REPLY (R287). Once the row is ready and the window has elapsed, the drop fans out one GATHER_DATA per requester. -/
  | coalescerReply (st tdesc row : Nat)
  /-- GATHER_DATA_RECEIVE (R283). A row reply lands at its offset in the requester's reservation. -/
  | gatherDataReceive (c : Coord) (p : Packet)
  /-- RDATA_RECEIVE (R275). The base die returns read data for a tag, which frees the tag. -/
  | rdataReceive (st d : Nat) (tag : Nat) (cw0 cw1 : List Byte) (err parityOk : Bool)
  /-- WACK_RECEIVE (R275). The base die acknowledges a write, which frees the tag. -/
  | wackReceive (st d : Nat) (tag : Nat) (err parityOk : Bool)
  /-- TXN_TIMEOUT_EXPIRY (R276). An unanswered transaction is a strike against the drop, and its request is handled as a read error. -/
  | txnTimeoutExpiry (st d : Nat) (tag : Nat)
  /-- SCATTER_DATA_RECEIVE (R290). A scatter row is verified, admitted by epoch and merged into its accumulation entry. -/
  | scatterDataReceive (st d : Nat) (p : Packet)
  /-- TBL_CLOSE_WRITE (R292). A write to TBL_CLOSE at the lead drop starts the flush of an epoch and sends FLUSH_REQ to every drop. -/
  | tblCloseWrite (r : DictReq)
  /-- FLUSH_REQ_RECEIVE (R292). A drop opens the next epoch and waits for the earlier scatter reservations to end. -/
  | flushReqReceive (st d : Nat) (p : Packet)
  /-- FLUSH_WRITEBACK (R293). Once reservations have ended, the drop writes back each entry by RDL and WRU and answers the lead. -/
  | flushWriteback (st d : Nat) (tdesc : Nat)
  /-- FLUSH_ANSWER_RECEIVE (R292). The lead collects the drop answers and, with the last one, sets the flush status and answers the write. -/
  | flushAnswerReceive (d : Delivered)
  /-- FLUSH_LIMIT_EXPIRY (R292). The lead closes the flush with UNACKED after FLUSH_LIMIT. -/
  | flushLimitExpiry (tdesc : Nat)
  /-- MEM_STREAM_START (R295). A write of 1 to START begins a weight stream from a drop to a rectangle. -/
  | memStreamStart (r : DictReq)
  /-- DROP_FENCE (R297). A fenced drop leaves the live-drop map, homes move and its entries are lost. -/
  | dropFence (st d : Nat)
  /-- FRAME_RECEIVE (R308). A link frame's tag is verified, its ACK and NAK are taken, and a sequenced frame is accepted or discarded. -/
  | frameReceive (port : Nat) (f : Frame) (fec : Fec)
  /-- NAK_REPEAT (R308). NAK is set again when the expected frame has not arrived 2 µs later. -/
  | nakRepeat (port : Nat)
  /-- REPLAY_TIMEOUT_EXPIRY (R308). Without ACK progress, the sender retransmits every unacknowledged frame. -/
  | replayTimeoutExpiry (port : Nat)
  /-- CREDIT_UNIT_SEND (R307). A credit unit is sent after 4 DATA frames or 100 ns following a change in a count. -/
  | creditUnitSend (port : Nat)
  /-- LINK_PACKET_ENTER (R311). A packet for this engine passes the sluice and enters the fabric at a hashed gateway cell. -/
  | linkPacketEnter (port : Nat) (p : Packet)
  /-- TRANSIT_PACKET_ARRIVE (R312). A transit packet waits for transit credit toward its exit port and crosses the engine. -/
  | transitPacketArrive (port : Nat) (p : Packet)
  /-- PORT_TRAINING_START (R313). A DOWN port starts training at once after reset and then every 10 ms. -/
  | portTrainingStart (port : Nat)
  /-- TRAINING_LOCK (R314). FEC lock at a width of at least MIN_WIDTH moves the port to HELLO. -/
  | trainingLock (port own partner : Nat)
  /-- TRAINING_TIMEOUT (R313). No lock within 100 ms returns the port to DOWN. -/
  | trainingTimeout (port : Nat)
  /-- HELLO_RECEIVE (R317). The partner's HELLO is taken and versions, features, role and buffers are negotiated. -/
  | helloReceive (port : Nat) (h : Hello)
  /-- CERT_RECEIVE (R318). The partner's certificate chain and identity are checked, and PROOF is sent. -/
  | certReceive (port : Nat) (chain : List Byte)
  /-- PROOF_RECEIVE (R318). A valid PROOF leads to deriving the session keys and sending FINISH. -/
  | proofReceive (port : Nat) (sig : List Byte)
  /-- FINISH_RECEIVE (R318). A verified partner FINISH, with its own acknowledged, brings the port UP. -/
  | finishReceive (port : Nat) (mac : List Byte)
  /-- HELLO_TIMEOUT (R313). A handshake not done within 100 ms returns the port to DOWN. -/
  | helloTimeout (port : Nat)
  /-- REKEY_START (R319). After 2^REKEY_LOG frames the port sends REKEY. -/
  | rekeyStart (port : Nat) (random epub : List Byte)
  /-- REKEY_RECEIVE (R319). A received REKEY is answered, new keys are derived, and the key phase flips. -/
  | rekeyReceive (port : Nat) (random epub : List Byte)
  /-- OLD_KEY_PHASE_EXPIRY (R319). 1 ms after the first frame of the new phase, the old key phase is no longer accepted. -/
  | oldKeyPhaseExpiry (port : Nat)
  /-- HOLD_DOWN_EXPIRY (R315). HOLD_DOWN passes and a HELD_DOWN port goes to DOWN. -/
  | holdDownExpiry (port : Nat)
  /-- UP_HOLD_ELAPSED (R315). A port that has stayed UP for UP_HOLD is announced in service in the notes. -/
  | upHoldElapsed (port : Nat)
  /-- LANE_DEGRADE (R314). A lane that loses lock or passes its error ratio starts a width change while the port stays UP. -/
  | laneDegrade (port lane : Nat)
  /-- WIDTH_CHANGE_DONE (R314). The lanes retrain at the new width and the sender replays from ACK. -/
  | widthChangeDone (port : Nat)
  /-- NOTE_RECEIVE (R322). A signed link-state note is verified, stored and flooded if newer, or refused. -/
  | noteReceive (port : Nat) (n : Note)
  /-- NOTE_ORIGINATE (R322). The engine originates a note on a change or every NOTE_REFRESH, spaced by NOTE_MIN_GAP. -/
  | noteOriginate
  /-- NOTE_EXPIRY (R322). A stored note not replaced within 4 × NOTE_REFRESH expires, and its origin becomes unknown. -/
  | noteExpiry (origin : Nat)
  /-- ENGINE_ROUTE_RECOMPUTE (R324). The engine route table is recomputed after a change and applied at each router's packet boundary. -/
  | engineRouteRecompute
  /-- DEAD_TIME_EXPIRY (R331). No verified frame for DEAD_TIME takes the port DOWN with cause ABSENT. -/
  | deadTimeExpiry (port : Nat)
  /-- STALL_TIME_EXPIRY (R331). Credits or ACK standing still for STALL_TIME take the port DOWN with cause STALL. -/
  | stallTimeExpiry (port : Nat)
  /-- QUARANTINE_RELEASE (R336). Writing 0 to QUARANTINE releases the port to DOWN. -/
  | quarantineRelease (r : DictReq)
  /-- RETRAIN_FULL (R314). Writing 1 to RETRAIN orders a full retrain through DOWN with cause SOFTWARE. -/
  | retrainFull (r : DictReq)
  /-- RETRAIN_KEY_UPDATE (R319). Writing 2 to RETRAIN starts a key update. -/
  | retrainKeyUpdate (r : DictReq)
  /-- RELAY_ENABLE (R333). Writing RELAY = 1 on an UP pair stops fabric traffic and forwards items port to port. -/
  | relayEnable (r : DictReq)
  /-- RELAY_DISABLE (R313). Turning relay off returns the pair's ports from RELAY to UP. -/
  | relayDisable (r : DictReq)
  /-- TIME_FRAME_SEND (R335). Every TIME_PERIOD each port sends a TIME frame with its stamps. -/
  | timeFrameSend (port : Nat)
  /-- TIME_FRAME_RECEIVE (R420). A TIME exchange on the parent port yields an offset and rate correction for field 0's time. -/
  | timeFrameReceive (port : Nat) (t : TimeBody)
  /-- CHECK_PARTIAL_ARRIVE (R346). The primary root compares the check partial with its held partial and emits, or starts the third computation. -/
  | checkPartialArrive (c : Coord) (p : Packet)
  /-- THIRD_PARTIAL_ARRIVE (R346). The third partial settles the verdict, records strikes, and emits the result or UNRESOLVED. -/
  | thirdPartialArrive (c : Coord) (p : Packet)
  /-- CHECK_WAIT_EXPIRY (R346). No check partial within CHECK_WAIT; the held partial is emitted as SKIPPED. -/
  | checkWaitExpiry (c : Coord) (ctx epoch slice : Nat)
  /-- THIRD_WAIT_EXPIRY (R346). No third partial within THIRD_WAIT; the primary and check roots are struck and UNRESOLVED is emitted. -/
  | thirdWaitExpiry (c : Coord) (ctx epoch slice : Nat)
  /-- RECHECK_NOTICE_RECEIVE (R347). Members re-read their contributions and send them to the third millstone. -/
  | recheckNoticeReceive (c : Coord) (p : Packet)
  /-- PATTERN_REPLAY (R352). In Breeze, each millstone replays the pattern library every REPLAY_PERIOD on every live lane. -/
  | patternReplay (c : Coord)
  /-- REPLAY_NOW (R350). Writing 1 to REPLAY_NOW runs one replay of the library at the next idle fc. -/
  | replayNow (r : DictReq)
  /-- STATUS_CLEAR (R363). A W1C write of STATUS clears the bits whose cause is no longer present. -/
  | statusClear (r : DictReq)
  /-- INT_ENABLE_WRITE (R362). Writing INT_ENABLE with a bit whose STATUS is already set raises one interrupt at once. -/
  | intEnableWrite (r : DictReq)
  /-- FENCE_WRITE (R367). Writing 1 to FENCE fences a unit as if it had reached its threshold. -/
  | fenceWrite (r : DictReq)
  /-- LINK_FENCE_RELEASE (R369). Writing 0 to a fenced link port's FENCE clears its strikes and sends it to DOWN. -/
  | linkFenceRelease (r : DictReq)
  /-- RAISE_SUSPECT (R371). Writing 1 to RAISE_SUSPECT sets ENGINE_SUSPECT, which may start DRAIN. -/
  | raiseSuspect (r : DictReq)
  /-- DRAIN (R372). Writing 1 to DRAIN, or ENGINE_SUSPECT with AUTO_DRAIN, starts the drain sequence at FREEZE. -/
  | drain (r : DictReq)
  /-- DRAIN_STEP_ADVANCE (R372). When one drain step is done, the next step starts. -/
  | drainStepAdvance
  /-- DRAIN_LIMIT_EXPIRY (R372). At DRAIN_LIMIT in SETTLE, commands still outstanding complete NACKED UNREACHABLE. -/
  | drainLimitExpiry
  /-- FAULT_INJECT_ARM (R373). Writing ARM in factory mode arms injections at the next COUNT opportunities. -/
  | faultInjectArm (r : DictReq)
  /-- COMMIT (R383). Writing 1 to COMMIT runs the prepare round of the writer's group. -/
  | commit (r : DictReq)
  /-- ABANDON (R384). Writing 2 to COMMIT discards the writer's group. -/
  | abandon (r : DictReq)
  /-- COMMIT_PREPARE_DONE (R383). When every agent has answered the prepare, the group is refused or given a generation and applied. -/
  | commitPrepareDone
  /-- COMMIT_APPLY_DONE (R383). When every agent has applied the group, or COMMIT_LIMIT has passed, GENERATION advances. -/
  | commitApplyDone
  /-- COMMIT_LIMIT_EXPIRY (R383). A prepare or apply round that outlasts COMMIT_LIMIT refuses the group or records LAGGING. -/
  | commitLimitExpiry (lagging : List Nat)
  /-- GROUP_LEASE_EXPIRY (R382). An open commit group is discarded GROUP_LEASE after its first staged write. -/
  | groupLeaseExpiry (who : Requester)
  /-- DICT_REQUEST_RECEIVE (R387). The agent checks and performs a read, a LIVE, QUIET or BOOT write, or stages a COMMIT write, and replies. -/
  | dictRequestReceive (r : DictReq)
  /-- DICT_SEGMENT_TIMEOUT (R388). A request whose segments are still incomplete 10 µs after its head is dropped. -/
  | dictSegmentTimeout (f : Nat) (who : Requester) (tag : Nat)
  /-- DICT_RSP_RECEIVE (R387). A DICT reply completes the DICT command, with read data written to LADDR first. -/
  | dictRspReceive (r : DictRsp)
  /-- MGMT_REQUEST (R393). A management READ or WRITE over MCTP is served at the management port's tier and answered. -/
  | mgmtRequest (m : MgmtReq)
  /-- DEFECT_MAP_ADD (R438). A write of ADDED is stored in the non-volatile store before its reply. -/
  | defectMapAdd (r : DictReq)
  /-- FREQ_WRITE (R398). A write of FREQ stops the field's clock and relocks the PLL at the new M. -/
  | freqWrite (r : DictReq)
  /-- FREQ_RELOCK_DONE (R398). At the new lock the field's fc count restarts and the write is answered. -/
  | freqRelockDone (f : Nat)
  /-- PLL_UNLOCK (R399). A field PLL that loses lock stops the field clock and raises PLL_UNLOCK. -/
  | pllUnlock (f : Nat)
  /-- PLL_RELOCK (R399). The PLL relocks at the same M and the field resumes. -/
  | pllRelock (f : Nat)
  /-- PLL_RELOCK_FAIL (R399). A field not relocked within 100 µs stays stopped and unreachable. -/
  | pllRelockFail (f : Nat)
  /-- DROOP_STRETCH (R400). A supply droop lengthens fc for up to 64 fc and marks stamps. -/
  | droopStretch (f n : Nat)
  /-- BREEZE_ENTRY (R406). After BREEZE_IDLE idle fc, a field whose target allows it enters Breeze. -/
  | breezeEntry (f : Nat)
  /-- LULL_ENTRY (R406). After LULL_IDLE in Breeze, an unheld field with a high enough tolerance starts entering Lull. -/
  | lullEntry (f : Nat)
  /-- LULL_ENTRY_DONE (R406). Entry to Lull completes 200 ns later unless a waking cause aborts it. -/
  | lullEntryDone (f : Nat)
  /-- FIELD_WAKE (R408). A wake cause brings the field to Run within its wake time. -/
  | fieldWake (f cause : Nat)
  /-- WAKE_HOLD_EXPIRY (R408). The hold that a WAKE signal placed on the field ends after WAKE_HOLD. -/
  | wakeHoldExpiry (f : Nat)
  /-- FIELD_TOLERANCE_WRITE (R406). A write that lowers TOLERANCE below the present state wakes the field. -/
  | fieldToleranceWrite (r : DictReq)
  /-- CALM_ENTRY (R407). After CALM_IDLE with every field in Lull, the engine saves state, enters Calm and announces CALM. -/
  | calmEntry
  /-- STILL_ENTRY (R407). From Calm with ALLOW_STILL set, the engine announces DEPARTED and enters Still. -/
  | stillEntry
  /-- ENGINE_WAKE (R409). An engine wake brings every field to Run, restores saved state and originates an ACTIVE note. -/
  | engineWake (cause : Nat)
  /-- ENGINE_WAKE_WRITE (R409). Writing 1 to WAKE wakes the engine. -/
  | engineWakeWrite (r : DictReq)
  /-- ENGINE_TOLERANCE_WRITE (R407). A write that lowers the engine tolerance below the present state wakes the engine. -/
  | engineToleranceWrite (r : DictReq)
  /-- WAKE_N_FALL (R457). WAKE_N falling wakes the engine from Calm or Still. -/
  | wakeNFall
  /-- CALM_LINK_ARRIVAL (R410). In Calm, an arriving item is forwarded by relay, served at the agent, or wakes the engine. -/
  | calmLinkArrival (port : Nat) (i : LinkItem)
  /-- FANTAIL_WINDOW (R415). At each window start, field budgets are allotted to routers, with Trade reserves first. -/
  | fantailWindow (f : Nat)
  /-- FANTAIL_SHARE_RECOMPUTE (R414). Every 16 windows, field 0 recomputes the field shares from demand. -/
  | fantailShareRecompute
  /-- COMPARATOR_FIRE (R417). A comparator fires when FT reaches TIME, raising an INT and/or waking the engine. -/
  | comparatorFire (i : Nat)
  /-- COMPARATOR_TIME_WRITE (R417). A write of TIME arms the comparator. -/
  | comparatorTimeWrite (r : DictReq)
  /-- FT_SET_WRITE (R418). A write of FT_SET loads field 0's time and the next beacon steps every field. -/
  | ftSetWrite (r : DictReq)
  /-- BEACON_ORIGINATE (R419). Every BEACON_PERIOD, field 0's agent cell broadcasts a BEACON. -/
  | beaconOriginate
  /-- BEACON_RECEIVE (R419). A field computes d from the beacon and steps or slews its FT. -/
  | beaconReceive (f : Nat) (b : Beacon)
  /-- FREEZE_ALL_RINGS (R432). Writing 1 to FREEZE_ALL freezes every last-events ring of the engine. -/
  | freezeAllRings (r : DictReq)
  /-- UNFREEZE_ALL_RINGS (R432). Writing 2 to FREEZE_ALL unfreezes every ring. -/
  | unfreezeAllRings (r : DictReq)
  /-- EVENT_RING_FROZEN_WRITE (R432). A write of FROZEN freezes or unfreezes one last-events ring. -/
  | eventRingFrozenWrite (r : DictReq)
  /-- COUNTER_SELECT_WRITE (R425). A write of a select word resets the counter and starts counting the new event. -/
  | counterSelectWrite (r : DictReq)
  /-- PROBE_ACTION_WRITE (R427). A write of ACTION clears MATCHES and SAMPLES at the site's next gust boundary. -/
  | probeActionWrite (r : DictReq)
  /-- TRACE_INPUT (R428). A core hands 8 trace bytes to a chunk buffer, or loses them, or stalls. -/
  | traceInput (c : Coord) (core : Nat) (data : List Byte)
  /-- TRACE_CHUNK_SEND (R428). A chunk that is full, or FLUSH ns old, is sent to the sink as a TRACE transfer. -/
  | traceChunkSend (c : Coord) (source : Nat)
  /-- SWEEP_SAMPLE (R429). At each sample instant, each router copies its counters and writes a sweep record to the stack. -/
  | sweepSample (c : Coord)
  /-- SWEEP_ENABLE_WRITE (R431). Writing ENABLE starts the counter sweep at the next instant, or stops it after the current sample. -/
  | sweepEnableWrite (r : DictReq)
  /-- BREAKPOINT (R433). A core asserting BRK with its group enabled makes its router send HALT ON. -/
  | breakpoint (c : Coord) (core : Nat)
  /-- HALT_STATE_WRITE (R433). A write of STATE raises or releases a halt group by a HALT broadcast. -/
  | haltStateWrite (r : DictReq)
  /-- HALT_RECEIVE (R434). A router applies the newest HALT and enters or leaves HALT for its field. -/
  | haltReceive (c : Coord) (h : Halt)
  /-- COLD_BRINGUP (R436). AON_PG rising starts a cold bring-up at step AON. -/
  | coldBringup
  /-- RESTART (R437). Writing 1 to RESTART on a drained or frozen engine starts a warm bring-up. -/
  | restart (r : DictReq)
  /-- BRINGUP_AON (R441). The always-on logic counts REFCLK and starts or resumes FT. -/
  | bringupAon (refclkOk : Bool)
  /-- REFCLK_RETRY (R441). A REFCLK count outside ±1 % retries step 1 every 1 ms. -/
  | refclkRetry
  /-- BRINGUP_AGENTS (R441). The non-volatile store is read and the dictionary agents start. -/
  | bringupAgents (nvOk : Bool) (failed : List Nat)
  /-- BRINGUP_CLOCKS (R442). Fields start in staggered waves, lock their PLLs and zero their memories. -/
  | bringupClocks
  /-- FIELD_WAVE_START (R442). At its wave time a field waits for FIELD_PG and starts its PLL, failing after its limits. -/
  | fieldWaveStart (f : Nat)
  /-- BRINGUP_HOLES (R441). Routers apply the defect map and compute ring maps and HOLE_MAP. -/
  | bringupHoles
  /-- BRINGUP_SELFTEST (R444). Loopback, link and bypass self-tests add holes and fence stops. -/
  | bringupSelftest (t : SelfTest)
  /-- BRINGUP_SIGNAL (R441). Signal credits are set, a full barrier is run and beacons start. -/
  | bringupSignal (ok : Bool)
  /-- BRINGUP_IMAGE (R440). Boot-image records are applied as management writes and committed. -/
  | bringupImage
  /-- BRINGUP_DROPS (R445). Each drop reads granule 0 and is made live or excluded. -/
  | bringupDrops
  /-- BRINGUP_LINKS (R441). Enabled ports train until UP, HELD_DOWN or LINK_WAIT. -/
  | bringupLinks
  /-- BRINGUP_DONE (R446). Step DONE leaves fields in Run, unfreezes unless HOLD_FROZEN, and starts cell ports. -/
  | bringupDone
  /-- AON_PG_FALL (R453). AON_PG falling ends all operation, including any bring-up. -/
  | aonPgFall
  /-- FIELD_PG_FALL (R453). FIELD_PG falling after step 3 holds the field's routers in reset and sets PLL_UNLOCK. -/
  | fieldPgFall (f : Nat)
  /-- CELL_RESET (R450). CELL_RST_N or CELL_PG low for 16 fc abandons the cell's commands, empties its queues and resets its channels. -/
  | cellReset (c : Coord)
  /-- CELL_RESET_RELEASE (R450). At release the router resumes with counts at 0 and CH63 open. -/
  | cellResetRelease (c : Coord)
  /-- MEM_READ_ANSWER (R448). The surroundings answer a cell-memory read in order, with or without MRD_ERR. -/
  | memReadAnswer (c : Coord) (err : Bool)
  /-- MEM_WRITE_ACK (R448). MWR_ACK signals that a granule write is complete and visible. -/
  | memWriteAck (c : Coord)
  /-- LINK_LOCK_LOSS (R452). LLOCK falling is a lane's loss of lock for width change or absence. -/
  | linkLockLoss (port lane : Nat)
  /-- TEST_MODE_RISE (R458). TEST_MODE rising gives the management port FACTORY and makes the 0xF000 range present. -/
  | testModeRise
  /-- TEST_MODE_FALL (R373). TEST_MODE falling disarms every injector within 1 µs. -/
  | testModeFall
  /-- EXTEST (R461). TAP EXTEST drives the pins from the boundary register while TEST_MODE conditions hold. -/
  | extest (update : List Bool)
  /-- SAMPLE_PRELOAD (R460). TAP SAMPLE/PRELOAD samples or preloads the boundary register. -/
  | samplePreload (preload : List Bool)
  /-- IDCODE (R460). TAP IDCODE returns the 32-bit device identity. -/
  | idcode
  /-- EXTEST_PULSE (R460). TAP EXTEST_PULSE tests the AC-coupled lanes under IEEE 1149.6. -/
  | extestPulse (update : List Bool)
  /-- EXTEST_TRAIN (R460). TAP EXTEST_TRAIN drives pulse trains on the lanes under IEEE 1149.6. -/
  | extestTrain (update : List Bool)
  /-- BYPASS (R460). TAP BYPASS selects the one-bit bypass register. -/
  | bypass
  /-- LEVEL_ANCHOR_PASS_EXPIRY (R257). At LEASE_ℓ / 2 after its first anchor arrival, a level root completes its anchor pass short of n_ℓ and passes the anchors on. -/
  | levelAnchorPassExpiry (port level : Nat) (ctx epoch slice : Nat)
  /-- GATHERING_HOLD_EXPIRY (R224). A column half that a gathering router holds while its row halves are unaccounted is let go on when the wait budget ends. -/
  | gatheringHoldExpiry (c : Coord) (ctx epoch slice : Nat)
  /-- FLAP_DOUBLING_RESET (R315). After a port has stayed UP for 10 × FLAP_WINDOW, the doubling of its HOLD_DOWN resets. -/
  | flapDoublingReset (port : Nat)
  /-- MGMT_REPLY_TIMEOUT (R393). The management port answers a request TIMEOUT when its reply has not come within REPLY_TIMEOUT. -/
  | mgmtReplyTimeout (mtag : Nat)
  /-- MCTP_CONTROL_REQUEST (R392). The management port answers an MCTP control message: Set or Get Endpoint ID, Get MCTP Version Support, Get Message Type Support, or Get Vendor Defined Message Support. -/
  | mctpControlRequest (m : MctpControl)
  /-- DYNAMIC_ADDRESS_ASSIGNMENT (R459). The I3C target takes its dynamic address from an ENTDAA issued by the bus controller, using its provisioned identifier, BCR and DCR. -/
  | dynamicAddressAssignment (addr : Nat)
  /-- TAP_RESET (R460). A TAP reset selects IDCODE and returns the pins to functional drive. -/
  | tapReset
  /-- FIELD_PG_RISE (R442). During step 3 of bring-up, a field's FIELD_PG rises and the field starts its PLL. -/
  | fieldPgRise (f : Nat)
  /-- FIELD_PLL_LOCK (R441). A field PLL started in bring-up locks; the field's routers leave reset and its memories are written with zero codewords. -/
  | fieldPllLock (f : Nat)
  /-- BASE_RDY_RISE (R445). A stack's BASE_RDY rises during step 8, and each of its drops issues its RD of granule 0. -/
  | baseRdyRise (st : Nat)
  deriving DecidableEq, Repr

end Sys2Proof
end

