-- ==== Sys2Proof/Decode.lean ====
section
/-! DEFINITION. The commands that a word spells. The opcode table gives no row any bits: every row is a command of the boundary, of a
port or of a clock, and none has an encoding, so no word spells a command. The encodings the spec does give (units, headers, signals,
frames, descriptors, records) are in Machine/Codec.lean and Machine/Operands.lean. -/

namespace Sys2Proof

/-- The command that a word spells by the table's bits: none, since no row of the table gives bits. -/
def decodeTableWord (_nbits _w : Nat) : Option Instr := none

end Sys2Proof
end

