-- ==== Sys2Proof/Machine/Bits.lean ====
section
/-! DEFINITION. Bit fields of numbers, little-endian byte strings (R7), and the two containers of the state: a
sorted key map, and a byte memory in canonical form. -/

namespace Sys2Proof.Machine

/-- Bits [lo + w - 1 : lo] of `n`, as a number (R8). -/
def bits (n lo w : Nat) : Nat := n / 2 ^ lo % 2 ^ w

/-- Bit `i` of `n`. -/
def bit (n i : Nat) : Bool := n / 2 ^ i % 2 = 1

/-- 1 for true, 0 for false: how a BOOL travels in a word. -/
def b2n (b : Bool) : Nat := if b then 1 else 0

/-- Place the low `w` bits of `v` at bit `lo`; the bits of `n` there must be zero. -/
def place (n lo w v : Nat) : Nat := n + v % 2 ^ w * 2 ^ lo

/-- A word built from (low bit, width, value) fields. -/
def pack (fs : List (Nat × Nat × Nat)) : Nat := fs.foldl (fun n f => place n f.1 f.2.1 f.2.2) 0

/-- `n` with the bit `i` set. -/
def setBit (n i : Nat) : Nat := if bit n i then n else n + 2 ^ i

/-- `n` with the bit `i` cleared. -/
def clrBit (n i : Nat) : Nat := if bit n i then n - 2 ^ i else n

/-- Bytes of `n`, least significant first (R7). -/
def leBytes : Nat → Nat → List Byte
  | 0, _ => []
  | k + 1, n => BitVec.ofNat 8 n :: leBytes k (n / 256)

/-- The number a little-endian byte string holds (R7). -/
def leNat : List Byte → Nat
  | [] => 0
  | b :: bs => b.toNat + 256 * leNat bs

/-- Bytes of `n`, most significant first (for structures whose standard is big-endian, R7). -/
def beBytes (k n : Nat) : List Byte := (leBytes k n).reverse

/-- The number a big-endian byte string holds. -/
def beNat (bs : List Byte) : Nat := leNat bs.reverse

/-- `n` zero bytes. -/
def zeros (n : Nat) : List Byte := List.replicate n 0

/-- `bs` cut or zero-filled to exactly `n` bytes. -/
def padTo (n : Nat) (bs : List Byte) : List Byte := bs.take n ++ zeros (n - bs.length)

/-- Ceiling division. -/
def cdiv (a b : Nat) : Nat := (a + b - 1) / b

/-- The ASCII bytes of a string. -/
def ascii (s : String) : List Byte := s.toList.map (fun c => BitVec.ofNat 8 c.toNat)

/-- Two's complement value of the low `w` bits of `n`. -/
def toSigned (w n : Nat) : Int :=
  if n % 2 ^ w < 2 ^ (w - 1) then (n % 2 ^ w : Nat) else ((n % 2 ^ w : Nat) : Int) - ((2 ^ w : Nat) : Int)

/-- The `w`-bit two's complement word of an integer. -/
def ofSigned (w : Nat) (i : Int) : Nat := (i % ((2 ^ w : Nat) : Int)).toNat

/-- `a` is at or past `b` in the circular order of 32-bit counts: (a - b) mod 2^32 < 2^31 (R115, R383). -/
def atOrPast32 (a b : Nat) : Bool := (a + (2 ^ 32 - b % 2 ^ 32)) % 2 ^ 32 < 2 ^ 31

/-- (a - b) mod 2^32 (R113, R123). -/
def sub32 (a b : Nat) : Nat := (a + (2 ^ 32 - b % 2 ^ 32)) % 2 ^ 32

/-- (a - b) mod 256 (R91, R142, R145). -/
def sub8 (a b : Nat) : Nat := (a + (256 - b % 256)) % 256

/-- Exclusive or of the bits of `n` below bit `w`. -/
def parity : Nat → Nat → Bool
  | 0, _ => false
  | w + 1, n => (n % 2 = 1) ^^ parity w (n / 2)

/-- Replace element `i` of a list; unchanged when the list is shorter. -/
def setAt {α : Type} (l : List α) (i : Nat) (v : α) : List α := l.set i v

/-- Element `i`, or `d` past the end. -/
def nth {α : Type} (l : List α) (i : Nat) (d : α) : α := l.getD i d

/-- The least element of a list of numbers, or `d` for none. -/
def minimum (d : Nat) (l : List Nat) : Nat := l.foldl Nat.min d

/-- Insert a number in a rising list. -/
def insertSorted (n : Nat) : List Nat → List Nat
  | [] => [n]
  | m :: l => if n < m then n :: m :: l else if n = m then m :: l else m :: insertSorted n l

/-- A map from numbers to values, sorted by key and listing no default value. -/
abbrev SMap (α : Type) := List (Nat × α)

/-- The value at `k`, or `d` when it is not listed. -/
def SMap.get {α : Type} (d : α) : SMap α → Nat → α
  | [], _ => d
  | (k, v) :: m, a => if a = k then v else SMap.get d m a

/-- Set the value at `k`, keeping the keys rising and listing no value equal to `d`. -/
def SMap.put {α : Type} [DecidableEq α] (d : α) : SMap α → Nat → α → SMap α
  | [], a, v => if v = d then [] else [(a, v)]
  | (k, w) :: m, a, v =>
    if a < k then (if v = d then (k, w) :: m else (a, v) :: (k, w) :: m)
    else if a = k then (if v = d then m else (a, v) :: m)
    else (k, w) :: SMap.put d m a v

/-- Canonical form: every key above `lo`, keys strictly rising, no value equal to `d`. -/
def SMap.wfFrom {α : Type} [DecidableEq α] (d : α) : Nat → SMap α → Bool
  | _, [] => true
  | lo, (k, v) :: m => decide (lo ≤ k) && (decide (v ≠ d) && SMap.wfFrom d (k + 1) m)

/-- Canonical form of a map. -/
def SMap.wf {α : Type} [DecidableEq α] (d : α) (m : SMap α) : Bool := SMap.wfFrom d 0 m

/-- A byte memory: address and byte pairs in canonical form; an unlisted address reads as `d`. -/
abbrev Memory := List Host.Cell

/-- Canonical form of a memory whose unlisted addresses read as `d`. -/
def Memory.wf (d : Byte) (m : Memory) : Bool := SMap.wf d m

/-- `n` bytes from address `a`. -/
def Memory.readN (d : Byte) (m : Memory) (a : Nat) : Nat → List Byte
  | 0 => []
  | n + 1 => SMap.get d m a :: Memory.readN d m (a + 1) n

/-- Store a byte string at `a`. -/
def Memory.writeN (d : Byte) : Memory → Nat → List Byte → Memory
  | m, _, [] => m
  | m, a, b :: bs => Memory.writeN d (SMap.put d m a b) (a + 1) bs

/-- Drop every listed byte at or above `a` (R376: with TEND = 1 every later entry becomes empty). -/
def Memory.cut (m : Memory) (a : Nat) : Memory := m.filter (fun c => decide (c.1 < a))

end Sys2Proof.Machine
end

