-- ==== Sys2Proof/Machine/Codes.lean ====
section
/-! DEFINITION. The codes of chapters 2 and 7: the RS(35,32) unit code and its 19-byte shortening on the signal net
(R35, R36, R141), the CRC-32C block check (R39), and the odd parity of side fields (R19, R141). -/

namespace Sys2Proof.Machine

/-- Multiplication by α = 0x02 in GF(2^8) with polynomial 0x11D (R35). -/
def gfDouble (a : Nat) : Nat := if a < 128 then 2 * a else (2 * a) ^^^ 0x11D

/-- Product in GF(2^8), by the low `k` bits of the second factor. -/
def gfMulBits : Nat → Nat → Nat → Nat
  | 0, _, _ => 0
  | k + 1, a, b => (if b % 2 = 1 then a else 0) ^^^ gfMulBits k (gfDouble a) (b / 2)

/-- Product in GF(2^8) (R35). -/
def gfMul (a b : Nat) : Nat := gfMulBits 8 a b

/-- α^j. -/
def gfPow2 : Nat → Nat
  | 0 => 1
  | j + 1 => gfDouble (gfPow2 j)

/-- One division step by g(x) = x^3 + 0x07 x^2 + 0x0E x + 0x08 (R35). -/
def rsStep (r : Nat × Nat × Nat) (b : Byte) : Nat × Nat × Nat :=
  let fb := b.toNat ^^^ r.1
  (r.2.1 ^^^ gfMul fb 0x07, r.2.2 ^^^ gfMul fb 0x0E, gfMul fb 0x08)

/-- The check bytes k0, k1, k2 of a payload (R35). -/
def rsCheck (payload : List Byte) : List Byte :=
  let r := payload.foldl rsStep (0, 0, 0)
  [BitVec.ofNat 8 r.1, BitVec.ofNat 8 r.2.1, BitVec.ofNat 8 r.2.2]

/-- A payload with its check bytes: the codeword of R18 (32 bytes) or of R140 (16 bytes). -/
def rsEncode (payload : List Byte) : List Byte := payload ++ rsCheck payload

/-- The codeword as poison: its check bytes with 0x01 XORed into k1 and k2 (R37). -/
def rsPoison (payload : List Byte) : List Byte :=
  match rsCheck payload with
  | [k0, k1, k2] => payload ++ [k0, k1 ^^^ 1, k2 ^^^ 1]
  | ks => payload ++ ks

/-- The received polynomial at the point `p`, by Horner's rule. -/
def rsEval (p : Nat) (cw : List Byte) : Nat := cw.foldl (fun s b => gfMul s p ^^^ b.toNat) 0

/-- The outcome of decoding a codeword (R36). -/
inductive Decoded where
  | clean
  | poison
  | corrected (cw : List Byte)
  | bad
  deriving DecidableEq, Repr

/-- The least j below `n` with s0·α^j = s1, searched upward from `j`. -/
def rsLocate : Nat → Nat → Nat → Nat → Option Nat
  | 0, _, _, _ => none
  | n + 1, j, s0, s1 => if gfMul s0 (gfPow2 j) = s1 then some j else rsLocate n (j + 1) s0 s1

/-- The unit-code decision (R36) on a codeword of any shortened length (R141). -/
def rsDecode (cw : List Byte) : Decoded :=
  let s0 := rsEval 1 cw
  let s1 := rsEval 2 cw
  let s2 := rsEval 4 cw
  if s0 = 0 ∧ s1 = 0 ∧ s2 = 0 then .clean
  else if s0 = 0 ∧ s1 = 3 ∧ s2 = 5 then .poison
  else if s0 ≠ 0 ∧ s1 ≠ 0 ∧ s2 ≠ 0 ∧ gfMul s1 s1 = gfMul s0 s2 then
    match rsLocate cw.length 0 s0 s1 with
    | some j =>
      let i := cw.length - 1 - j
      .corrected (setAt cw i (nth cw i 0 ^^^ BitVec.ofNat 8 s0))
    | none => .bad
  else .bad

/-- The payload part of a codeword: all but the three check bytes. -/
def cwPayload (cw : List Byte) : List Byte := cw.take (cw.length - 3)

/-- One bit of the reflected CRC-32C register (R39). -/
def crcBit (r : Nat) : Nat := if r % 2 = 1 then (r / 2) ^^^ 0x82F63B78 else r / 2

/-- One byte of the CRC-32C register. -/
def crcByte (r : Nat) (b : Byte) : Nat :=
  crcBit (crcBit (crcBit (crcBit (crcBit (crcBit (crcBit (crcBit (r ^^^ b.toNat))))))))

/-- CRC-32C of a byte string (R39). -/
def crc32c (bs : List Byte) : Nat := bs.foldl crcByte 0xFFFFFFFF ^^^ 0xFFFFFFFF

/-- The parity bit that makes the XOR of `w` lower bits and itself 1 (R19, R141). -/
def oddParity (w n : Nat) : Nat := b2n (! parity w n)

/-- Side byte of a data beat (R19). -/
def sideByte (lane : Nat) (first last gust : Bool) : Nat :=
  let v := lane + 16 * b2n first + 32 * b2n last + 64 * b2n gust
  v + 128 * oddParity 7 v

/-- Side field of a signal beat (R141). -/
def sideField (lane crl : Nat) (pair : Bool) : Nat :=
  let v := lane + 16 * crl + 256 * b2n pair
  v + 512 * oddParity 9 v

end Sys2Proof.Machine
end

