-- ==== Sys2Proof/Machine/Codec.lean ====
section
/-! DEFINITION. The words of chapters 2, 5, 6 and 7: address words (R26), header units with their tails (R25, R29 to
R33), completion records (R113), ring headers (R124), NACK entries (R132), and the signals a beat carries (R144). -/

namespace Sys2Proof.Machine

/-! ### Address words (R26) -/

/-- The DEST word of an address. -/
def addrWord (a : Addr) : Nat := pack [(0, 11, a.eng), (11, 9, a.x), (20, 9, a.y), (29, 3, a.tgt)]

/-- The address a DEST word holds. -/
def addrOf (w : Nat) : Addr := ⟨bits w 0 11, bits w 11 9, bits w 20 9, bits w 29 3⟩

/-- The SRC word of an address. -/
def srcWord (a : SrcAddr) : Nat :=
  pack [(0, 11, a.eng), (11, 9, a.x), (20, 9, a.y), (29, 2, a.core), (31, 1, b2n a.stream)]

/-- The address a SRC word holds. -/
def srcAddrOf (w : Nat) : SrcAddr := ⟨bits w 0 11, bits w 11 9, bits w 20 9, bits w 29 2, bit w 31⟩

/-- The 31-bit TARGET field of an addressed signal (R144). -/
def targetOf (w : Nat) : SrcAddr := ⟨bits w 0 11, bits w 11 9, bits w 20 9, bits w 29 2, false⟩

/-! ### Packet types (R27) -/

/-- The tail formats of *Packet types*. -/
inductive TailKind where
  | transfer | message | rect | table | coll
  deriving DecidableEq, Repr

/-- Tail, permitted classes and LEN bounds of a packet type (R27); none for an undefined TYPE. -/
def pktType (t : Nat) : Option (TailKind × List Nat × Nat × Nat) :=
  if t ∈ [0x01, 0x02, 0x03, 0x04] then some (.transfer, [0], 0, 0)
  else if t ∈ [0x05, 0x06] then some (.table, [0], 0, 0)
  else if t ∈ [0x10, 0x11] then some (.transfer, [1, 3], 1, 64)
  else if t = 0x12 then some (.message, [1, 3], 1, 64)
  else if t ∈ [0x13, 0x16] then some (.rect, [1], 1, 64)
  else if t ∈ [0x14, 0x15] then some (.table, [1], 1, 64)
  else if t = 0x17 then some (.transfer, [1], 1, 64)
  else if t ∈ [0x20, 0x21, 0x22, 0x23, 0x24, 0x25] then some (.coll, [2], 1, 64)
  else none

/-- Does a header's TYPE, CLASS and LEN lie in its row of *Packet types* (R27)? -/
def pktShapeOk (typ cls len : Nat) : Bool :=
  match pktType typ with
  | some (_, cs, lo, hi) => cs.contains cls && decide (lo ≤ len) && decide (len ≤ hi)
  | none => false

/-! ### The header unit (R25, R29 to R33) -/

/-- The 96 tail bits of a header. -/
def tailBits : Tail → Nat
  | .transfer t => pack [(0, 40, t.addr), (40, 16, t.size), (56, 6, t.rsv), (62, 2, t.rclass), (64, 14, t.lease),
      (80, 9, t.off), (89, 1, t.tdx), (90, 1, t.sopx)]
  | .message t => pack [(0, 6, t.chan), (8, 8, t.epoch), (16, 12, t.mlen)]
  | .rect t => pack [(0, 9, t.x1), (9, 9, t.y1), (18, 18, t.addr), (36, 12, t.mid), (48, 9, t.off), (57, 12, t.size)]
  | .table t => pack [(0, 10, t.tdesc), (10, 36, t.row), (46, 8, t.fep), (54, 2, t.op), (56, 5, t.fmt), (61, 6, t.rsv),
      (67, 9, t.off)]
  | .coll t => pack [(0, 12, t.ctx), (12, 8, t.epoch), (20, 20, t.slice), (40, 7, t.nsl), (47, 20, t.count),
      (67, 5, t.fmt), (72, 2, t.level), (74, 1, t.phase), (75, 1, b2n t.pass), (76, 1, b2n t.inc), (77, 1, b2n t.aex),
      (78, 1, b2n t.spv)]

/-- The tail that 96 bits hold, by the tail format of the TYPE. -/
def tailOf (k : TailKind) (w : Nat) : Tail :=
  match k with
  | .transfer => .transfer ⟨bits w 0 40, bits w 40 16, bits w 56 6, bits w 62 2, bits w 64 14, bits w 80 9, bits w 89 1,
      bits w 90 1⟩
  | .message => .message ⟨bits w 0 6, bits w 8 8, bits w 16 12⟩
  | .rect => .rect ⟨bits w 0 9, bits w 9 9, bits w 18 18, bits w 36 12, bits w 48 9, bits w 57 12⟩
  | .table => .table ⟨bits w 0 10, bits w 10 36, bits w 46 8, bits w 54 2, bits w 56 5, bits w 61 6, bits w 67 9⟩
  | .coll => .coll ⟨bits w 0 12, bits w 12 8, bits w 20 20, bits w 40 7, bits w 47 20, bits w 67 5, bits w 72 2,
      bits w 74 1, bit w 75, bit w 76, bit w 77, bit w 78⟩

/-- The header unit of a packet as a 256-bit number (R25). -/
def headerBits (p : Packet) : Nat :=
  pack [(0, 6, p.typ), (6, 2, p.cls), (8, 7, p.len), (16, 4, p.hmin), (20, 1, b2n p.tb), (21, 1, b2n p.fin),
    (32, 32, addrWord p.dest), (64, 31, srcWord p.src), (96, 16, p.tag), (112, 1, p.route.phase),
    (113, 1, b2n p.route.express), (114, 2, p.route.detour), (128, 32, p.bcheck), (160, 96, tailBits p.tail)]

/-- The packet whose header unit is `w` and whose payload is `data`; none where TYPE, CLASS or LEN is not of R27. -/
def packetOf (w : Nat) (data : List Byte) (poison : Bool) : Option Packet :=
  match pktType (bits w 0 6) with
  | some (k, _) =>
    if pktShapeOk (bits w 0 6) (bits w 6 2) (bits w 8 7) then
      some ⟨bits w 0 6, bits w 6 2, bits w 8 7, bits w 16 4, bit w 20, bit w 21, addrOf (bits w 32 32),
        srcAddrOf (bits w 64 31), bits w 96 16, ⟨bits w 112 1, bit w 113, bits w 114 2⟩, bits w 128 32,
        tailOf k (bits w 160 96), data, poison⟩
    else none
  | none => none

/-- The payload units of a packet, 32 bytes each. -/
def dataUnits (payload : List Byte) : Nat → List (List Byte)
  | 0 => []
  | n + 1 => padTo 32 payload :: dataUnits (payload.drop 32) n

/-- The units of a packet in order: the header, then LEN data units. -/
def packetUnits (p : Packet) : List (List Byte) := leBytes 32 (headerBits p) :: dataUnits p.payload p.len

/-- Has the payload passed its check (R41 to R43)? False for poison. -/
def payloadOk (p : Packet) : Bool := ! p.poison && decide (crc32c p.payload = p.bcheck)

/-- The NACK reason of a payload that failed (R43): POISONED 0x0A for poison, CHECK 0x09 otherwise. -/
def payloadReason (p : Packet) : Nat := if p.poison then 0x0A else 0x09

/-! ### Records in cell memory -/

/-- A completion record (R113). -/
structure Record where
  op : Nat
  kind : Nat
  status : Nat
  utag : Nat
  slot : Nat
  reuse : Nat
  detail : Nat
  stretch : Bool
  held : Bool
  phase : Bool
  value : Nat
  ft : Nat
  deriving DecidableEq, Repr

/-- The 32 bytes of a completion record. -/
def recordBytes (r : Record) : List Byte :=
  leBytes 32 (pack [(0, 6, r.op), (6, 2, r.kind), (8, 8, r.status), (16, 16, r.utag), (32, 8, r.slot), (40, 8, r.reuse),
    (48, 8, r.detail), (56, 1, b2n r.stretch), (57, 1, b2n r.held), (63, 1, b2n r.phase), (64, 64, r.value),
    (128, 64, r.ft)])

/-- The 8 bytes of an in-ring header (R124). -/
def ringHeader (kind : Nat) (trade : Bool) (mlen foot src : Nat) : List Byte :=
  leBytes 8 (pack [(0, 2, kind), (2, 1, b2n trade), (4, 12, mlen), (16, 14, foot), (32, 32, src)])

/-! ### Signals as beats (R144, R150, R155, R158, R174, R419, R433) -/

/-- SOP of a signal (R144). -/
def sigSop : Signal → Nat
  | .credit .. => 0x01
  | .creditSyncReq .. => 0x02
  | .creditSyncRsp .. => 0x03
  | .slsync .. => 0x04
  | .nack _ => 0x08
  | .delivered _ => 0x09
  | .tallyRsp _ => 0x0A
  | .int .. => 0x0B
  | .tallyReq q => q.op
  | .dictReq _ => 0x18
  | .dictRsp _ => 0x19
  | .wake .. => 0x1C
  | .barArrive _ => 0x20
  | .barRelease _ => 0x21
  | .mresArrive _ => 0x24
  | .mresGrant _ => 0x25
  | .ringChange .. => 0x28
  | .anyWin .. => 0x29
  | .beacon _ => 0x2A
  | .halt _ => 0x2B

/-- The signal lane classes (R142, R144): 0 REQ, 1 RSP, 2 CMB, 8 link-local; none for a SOP the net does not carry. -/
def sopClass (sop : Nat) : Option Nat :=
  if sop ∈ [0x01, 0x02, 0x03, 0x04] then some 8
  else if sop ∈ [0x10, 0x11, 0x12, 0x13, 0x14, 0x15, 0x18, 0x1C] then some 0
  else if sop ∈ [0x08, 0x09, 0x0A, 0x0B, 0x19, 0x21, 0x25, 0x28, 0x29, 0x2A, 0x2B] then some 1
  else if sop ∈ [0x20, 0x24] then some 2
  else none

/-- May a signal of this SOP travel on this side-field lane (R142, R144)? SL6 and SL7 take any laned signal. -/
def sopLaneOk (sop lane : Nat) : Bool :=
  match sopClass sop with
  | some 8 => decide (lane = 8)
  | some k => decide (lane = 2 * k) || decide (lane = 2 * k + 1) || decide (lane = 6) || decide (lane = 7)
  | none => false

/-- The 31-bit TARGET word (R144). -/
def targetWord (a : SrcAddr) : Nat := pack [(0, 11, a.eng), (11, 9, a.x), (20, 9, a.y), (29, 2, a.core)]

/-- The requester word of a dictionary access (R388). -/
def requesterWord (r : Requester) : Nat := pack [(0, 11, r.eng), (11, 9, r.x), (20, 9, r.y), (29, 2, r.core)]

/-- The reply of a request, which repeats what names the access (R388). -/
def reqReply (r : DictReq) (status detail tlen value : Nat) (data : List Byte) : DictRsp :=
  ⟨r.who, r.tag, r.wr, r.index, r.sub, r.eng, r.node, r.cell, status, detail, tlen, r.toff, r.tend, value, data, true⟩

/-- The beats of a signal, 128 bits each: one or two, and the data segments of a DICT signal (R388). -/
def sigBeats : Signal → List Nat
  | .credit _ _ cs => [pack ((0, 6, 0x01) :: (List.range 4).map (fun i => (8 + 8 * i, 8, nth cs i 0)))]
  | .creditSyncReq _ _ => [0x02]
  | .creditSyncRsp _ _ cs => [pack ((0, 6, 0x03) :: (List.range 6).map (fun i => (8 + 8 * i, 8, nth cs i 0)))]
  | .slsync _ _ cs => [pack ((0, 6, 0x04) :: (List.range 8).map (fun i => (8 + 8 * i, 8, nth cs i 0)))]
  | .nack n => [pack [(0, 6, 0x08), (8, 8, n.reason), (16, 16, n.tag), (32, 31, targetWord n.target),
      (64, 32, srcWord n.raiser), (96, 6, n.typ), (102, 6, n.chan), (108, 2, n.chstate), (110, 18, n.var)]]
  | .delivered d => [pack [(0, 6, 0x09), (8, 8, d.arg8), (16, 16, d.tag), (32, 31, targetWord d.target),
      (64, 32, srcWord d.origin), (96, 32, d.arg32)]]
  | .int t o a => [pack [(0, 6, 0x0B), (32, 31, targetWord t), (64, 32, srcWord o), (96, 32, a)]]
  | .wake t o a => [pack [(0, 6, 0x1C), (8, 8, a), (32, 31, targetWord t), (64, 32, srcWord o)]]
  | .tallyReq q => [pack [(0, 6, q.op), (8, 16, q.tag), (24, 9, q.f), (33, 8, q.k), (41, 9, q.x), (50, 9, q.y),
      (59, 2, q.core), (64, 64, q.v)]]
  | .tallyRsp q => [pack [(0, 6, 0x0A), (8, 16, q.tag), (41, 9, q.x), (50, 9, q.y), (59, 2, q.core), (64, 64, q.old)]]
  | .barArrive a =>
    let h := pack [(0, 6, 0x20), (6, 12, a.bctx), (18, 8, a.gen), (26, 20, a.count), (46, 9, a.rx), (55, 9, a.ry),
      (64, 64, a.value)]
    if a.two then [h, pack [(0, 6, 0x20), (64, 64, a.hi)]] else [h]
  | .barRelease r => [pack [(0, 6, 0x21), (8, 12, r.bctx), (20, 8, r.gen), (28, 20, r.count), (48, 1, b2n r.timeout),
      (49, 9, r.x0), (58, 9, r.y0), (67, 9, r.x1), (76, 9, r.y1)], pack [(0, 6, 0x21), (64, 64, r.value)]]
  | .mresGrant g => [pack [(0, 6, 0x25), (8, 12, g.mid), (20, 15, g.size), (35, 14, g.lease), (64, 32, srcWord g.source),
      (96, 16, g.tag)], pack [(0, 6, 0x25), (8, 18, g.addr), (26, 9, g.x), (35, 9, g.y), (44, 9, g.x1), (53, 9, g.y1)]]
  | .mresArrive a => [pack [(0, 6, 0x24), (8, 12, a.mid), (20, 1, a.phase), (21, 5, a.reasons), (32, 18, a.ok),
      (50, 18, a.fail), (96, 32, srcWord a.source)]]
  | .ringChange h r k => [pack [(0, 6, 0x28), (8, 9, h.x), (17, 9, h.y), (26, 1, b2n r), (27, 1, b2n k)]]
  | .anyWin g m w => [pack [(0, 6, 0x29), (8, 8, g), (16, 8, m), (24, 1, b2n w)]]
  | .beacon b => [pack [(0, 6, 0x2A), (8, 8, b.seq), (16, 1, b2n b.step), (24, 40, b.res), (64, 64, b.tsend)]]
  | .halt h => [pack [(0, 6, 0x2B), (8, 4, h.group), (12, 1, b2n h.on), (32, 32, srcWord h.origin), (64, 64, h.t)]]
  | .dictReq r =>
    let h := pack [(0, 6, 0x18), (6, 1, b2n r.wr), (8, 16, r.tag), (24, 16, r.index), (40, 8, r.sub), (48, 16, r.node),
      (64, 31, requesterWord r.who), (95, 1, b2n r.who.mgmt), (96, 11, r.eng), (107, 18, r.cell)]
    [h, pack [(0, 6, 0x18), (6, 13, r.tlen), (35, 16, r.toff), (51, 1, b2n r.tend), (64, 64, r.value)]] ++
      (List.range (cdiv r.data.length 8)).flatMap (fun i =>
        [h + 128, pack [(0, 6, 0x18), (6, 9, i), (64, 64, leNat ((r.data.drop (8 * i)).take 8))]])
  | .dictRsp r =>
    let h := pack [(0, 6, 0x19), (6, 1, b2n r.wr), (8, 16, r.tag), (24, 16, r.index), (40, 8, r.sub), (48, 16, r.node),
      (64, 31, requesterWord r.who), (95, 1, b2n r.who.mgmt), (96, 11, r.eng), (107, 18, r.cell)]
    [h, pack [(0, 6, 0x19), (6, 13, r.tlen), (19, 8, r.status), (27, 8, r.detail), (35, 16, r.toff), (51, 1, b2n r.tend),
      (64, 64, r.value)]] ++
      (List.range (cdiv r.data.length 8)).flatMap (fun i =>
        [h + 128, pack [(0, 6, 0x19), (6, 9, i), (64, 64, leNat ((r.data.drop (8 * i)).take 8))]])

end Sys2Proof.Machine
end

