-- ==== Sys2Proof/Config.lean ====
section
/-! DEFINITION. What an implementation fixes and the values the spec leaves open. Every constant is opaque: it has no body,
so no proof can lean on a value of it. -/

namespace Sys2Proof

/-- Values that the spec leaves unstated, one for each reading of the state's counter `freeCtr` (log 1). -/
opaque Config.free64 : Nat → BitVec 64

/-- The identity private key, which never leaves the block (R318). -/
opaque Config.identityKey : Nat

/-- The private key whose public point this engine drew, for a point it sent itself: an ephemeral pair is the block's own
draw, and the row of a HELLO or a REKEY names the public half alone (R316, R319; log 116). -/
opaque Config.privateOf : List Byte → Nat

/-- The vendor's JEDEC-assigned identity in IDCODE (R460). -/
opaque Config.jedecId : BitVec 11

end Sys2Proof
end

