-- ==== Sys2Proof/Machine/Topology.lean ====
section
/-! DEFINITION. Rings, mill races and routes (chapter 3), as functions of a ring map: positions (R45, R46), holes,
bypasses and gaps (R57 to R59), detours (R60 to R62), route costs (R49), leg planning (R50, R51), and the next hop of a
header with its output port and lane (R52 to R56, R63). -/

namespace Sys2Proof.Machine

/-- A row ring or a column ring. -/
inductive Axis where
  | row | col
  deriving DecidableEq, Repr

/-- What a router knows of the rings: grid size, holes, bypasses that are unusable, and mill-race stops whose ports are fenced (R57,
R58, R444). A local bypass track is named by the even cell of its pair, the mill-race bypass across a stop by the odd cell after the
stop. -/
structure RingMap where
  nx : Nat
  ny : Nat
  holes : List Coord
  badTracks : List (Axis × Coord)
  badStops : List (Axis × Coord)
  deriving DecidableEq, Repr

/-- Ring position of coordinate `c` on a ring of `n` routers (R45); also `mpos` of R46 for stop indices. -/
def ringPos (n c : Nat) : Nat := if c % 2 = 0 then c / 2 else n - (c + 1) / 2

/-- The coordinate at ring position `p` (the inverse of R45). -/
def ringCoord (n p : Nat) : Nat := if 2 * p < n then 2 * p else 2 * (n - p) - 1

/-- Ring distance (R45). -/
def ringDist (n a b : Nat) : Nat := min ((b + n - a) % n) ((a + n - b) % n)

/-- Routers on a ring of an axis. -/
def RingMap.size (m : RingMap) : Axis → Nat
  | .row => m.nx
  | .col => m.ny

/-- Stops of a mill race of an axis (R46). -/
def RingMap.stops (m : RingMap) : Axis → Nat
  | .row => m.nx / 8
  | .col => cdiv m.ny 8

/-- The crossing axis. -/
def Axis.other : Axis → Axis
  | .row => .col
  | .col => .row

/-- The cell of coordinate `c` on ring `line` of an axis. -/
def axisCell : Axis → Nat → Nat → Coord
  | .row, line, c => ⟨c, line⟩
  | .col, line, c => ⟨line, c⟩

/-- The cell at position `p` of ring `line`. -/
def RingMap.cellAt (m : RingMap) (ax : Axis) (line p : Nat) : Coord := axisCell ax line (ringCoord (m.size ax) p)

/-- Is the cell a hole (R57)? -/
def RingMap.isHole (m : RingMap) (c : Coord) : Bool := m.holes.contains c

/-- Is the router at a ring position a hole? -/
def RingMap.deadAt (m : RingMap) (ax : Axis) (line p : Nat) : Bool := m.isHole (m.cellAt ax line p)

/-- The next position in a direction: `up` is the increasing one. -/
def nextPos (n p : Nat) (up : Bool) : Nat := if up then (p + 1) % n else (p + n - 1) % n

/-- Positions from `a` to `b` in a direction. -/
def span (n a b : Nat) (up : Bool) : Nat := if up then (b + n - a) % n else (a + n - b) % n

/-- May the bypass across the hole at position `p` be driven (R58)? The pair {2k, 2k + 1} shares one track, which serves
the lower coordinate, and a track that failed self-test serves neither. -/
def RingMap.trackServes (m : RingMap) (ax : Axis) (line p : Nat) : Bool :=
  let c := ringCoord (m.size ax) p
  ! m.badTracks.contains (ax, axisCell ax line (c / 2 * 2)) &&
    ! (decide (c % 2 = 1) && m.isHole (axisCell ax line (c - 1)))

/-- Is the hole at position `p` part of a gap (R59)? -/
def RingMap.inGap (m : RingMap) (ax : Axis) (line p : Nat) : Bool :=
  let n := m.size ax
  m.deadAt ax line p && (m.deadAt ax line (nextPos n p true) || m.deadAt ax line (nextPos n p false) ||
    ! m.trackServes ax line p)

/-- Gaps of a ring: the positions in a gap whose predecessor is not in one (R59). -/
def RingMap.gaps (m : RingMap) (ax : Axis) (line : Nat) : Nat :=
  let n := m.size ax
  ((List.range n).filter (fun p => m.inGap ax line p && ! m.inGap ax line (nextPos n p false))).length

/-- Length of the run of holes that begins after `p` in a direction. -/
def RingMap.holeRun (m : RingMap) (ax : Axis) (line : Nat) (up : Bool) : Nat → Nat → Nat
  | 0, _ => 0
  | k + 1, p =>
    let q := nextPos (m.size ax) p up
    if m.deadAt ax line q then m.holeRun ax line up k q + 1 else 0

/-- Position `k` places on from `p` in a direction. -/
def posOn (n p k : Nat) (up : Bool) : Nat := if up then (p + k) % n else (p + n - k % n) % n

/-- Does ring `h` hold no gap on the walk of `k` steps from `p` (R60)? -/
def RingMap.walkClear (m : RingMap) (ax : Axis) (h : Nat) (up : Bool) : Nat → Nat → Bool
  | 0, _ => true
  | k + 1, p =>
    let q := nextPos (m.size ax) p up
    ! m.inGap ax h q && m.walkClear ax h up k q

/-- The neighbouring ring that a detour from `pa` to `pb` uses, if any (R60): position + 1 of the crossing rings, else
position − 1. A turn detour ends at the hole itself (R62). -/
def RingMap.detourLine (m : RingMap) (ax : Axis) (line pa pb : Nat) (up turn : Bool) : Option Nat :=
  if m.deadAt ax line pa || (! turn && m.deadAt ax line pb) then none
  else
    let nc := m.size ax.other
    let lp := ringPos nc line
    let ok := fun h => ! m.deadAt ax h pa && ! m.deadAt ax h pb && m.walkClear ax h up (span (m.size ax) pa pb up) pa
    let h1 := ringCoord nc (nextPos nc lp true)
    let h2 := ringCoord nc (nextPos nc lp false)
    if ok h1 then some h1 else if ok h2 then some h2 else none

/-- One move along a ring (R49): to the next live position, over a bypass, by a detour on ring `h`, or the leg's end is
a hole reached from here; none where the direction is closed. -/
inductive Move where
  | hop (toA : Nat)
  | bypass (toA : Nat)
  | detour (toA h gap : Nat)
  | toEnd
  | closed
  deriving DecidableEq, Repr

/-- The move from `p` in a direction toward a leg's end `e` (none: a walk with no end). -/
def RingMap.move (m : RingMap) (ax : Axis) (line p : Nat) (e : Option Nat) (up : Bool) : Move :=
  let n := m.size ax
  let g := m.holeRun ax line up (n - 1) p
  if g = 0 then .hop (nextPos n p up)
  else
    let reached := match e with
      | some b => decide (span n p b up ≤ g)
      | none => false
    let pb := posOn n p (g + 1) up
    if reached then .toEnd
    else if n ≤ g + 1 then .closed
    else if g = 1 ∧ m.trackServes ax line (nextPos n p up) then .bypass pb
    else match m.detourLine ax line p pb up false with
      | some h => .detour pb h g
      | none => .closed

/-- Route cost from `p` to the leg's end `b` in a direction, none for infinite (R49); the walk is at most `k` moves.
`turn` says that the leg ends at the turn router, where a hole costs a turn detour (R62). -/
def RingMap.costWalk (m : RingMap) (ax : Axis) (line b : Nat) (up turn : Bool) : Nat → Nat → Option Nat
  | 0, _ => none
  | k + 1, p =>
    if p = b then some 0
    else match m.move ax line p (some b) up with
      | .hop q => (m.costWalk ax line b up turn k q).map (· + 2)
      | .bypass q => (m.costWalk ax line b up turn k q).map (· + 3)
      | .detour q _ g => (m.costWalk ax line b up turn k q).map (· + (12 + 2 * (g + 1)))
      | .toEnd => if turn then (m.detourLine ax line p b up true).map (fun _ => 14) else some 0
      | .closed => none

/-- `cost(ring, a, b, dir)` of R50. -/
def RingMap.cost (m : RingMap) (ax : Axis) (line a b : Nat) (up turn : Bool) : Option Nat :=
  m.costWalk ax line b up turn (m.size ax + 1) a

/-- Is the stop of a mill race at coordinate `c` live (R50)? -/
def RingMap.stopLive (m : RingMap) (ax : Axis) (line c : Nat) : Bool :=
  decide (c % 8 = 0) && ! m.isHole (axisCell ax line c) && ! m.badStops.contains (ax, axisCell ax line c)

/-- The first live stop met from `p` in a direction with its cost. -/
def RingMap.firstStop (m : RingMap) (ax : Axis) (line : Nat) (up : Bool) : Nat → Nat → Nat → Option (Nat × Nat)
  | 0, _, _ => none
  | k + 1, p, c =>
    let go := fun q w =>
      if m.stopLive ax line (ringCoord (m.size ax) q) then some (q, c + w) else m.firstStop ax line up k q (c + w)
    match m.move ax line p none up with
    | .hop q => go q 2
    | .bypass q => go q 3
    | .detour q _ g => go q (12 + 2 * (g + 1))
    | _ => none

/-- `nearest_live_stop` of R50: stop, direction and cost; ties to the increasing direction. -/
def RingMap.accessStop (m : RingMap) (ax : Axis) (line a : Nat) : Option (Nat × Bool × Nat) :=
  let n := m.size ax
  if m.stopLive ax line (ringCoord n a) then some (a, true, 0)
  else match m.firstStop ax line true n a 0, m.firstStop ax line false n a 0 with
    | some (p, c), some (q, d) => if c ≤ d then some (p, true, c) else some (q, false, d)
    | some (p, c), none => some (p, true, c)
    | none, some (q, d) => some (q, false, d)
    | none, none => none

/-- The cheaper of two stops with their costs; the first of two equals (R50: the lower position stands first). -/
def cheaper : Option (Nat × Nat) → Option (Nat × Nat) → Option (Nat × Nat)
  | some x, some y => if x.2 ≤ y.2 then some x else some y
  | some x, none => some x
  | none, y => y

/-- `exit_stop` of R50: the stop and its cost to `b`, walking up from below and down from above, which does not wrap; ties to the lower
position. `turn` is as in `costWalk`, so an exit part that ends at a hole has the cost of the turn detour (R49). A stop that no finite
exit part leaves is none. -/
def RingMap.exitStop (m : RingMap) (ax : Axis) (line b : Nat) (turn : Bool) : Option (Nat × Nat) :=
  let n := m.size ax
  let live := fun p => m.stopLive ax line (ringCoord n p)
  let with' := fun (p : Option Nat) (up : Bool) => match p with
    | some q => (m.cost ax line q b up turn).map (fun c => (q, c))
    | none => none
  if live b then some (b, 0)
  else cheaper (with' ((List.range b).reverse.find? live) true) (with' (((List.range (n - b - 1)).map (b + 1 + ·)).find? live) false)

/-- Did the mill-race bypass across the stop at coordinate `c` fail ring self-test (R58, R444)? -/
def RingMap.badMill (m : RingMap) (ax : Axis) (line c : Nat) : Bool := m.badTracks.contains (ax, axisCell ax line (c + 1))

/-- The mill position reached by one express hop from `u`, with its cost: 3, or 4 across one dead stop; none across a
mill-race gap (R49, R59). -/
def RingMap.millMove (m : RingMap) (ax : Axis) (line u : Nat) (up : Bool) : Option (Nat × Nat) :=
  let k := m.stops ax
  let a := nextPos k u up
  let b := nextPos k a up
  if m.stopLive ax line (8 * ringCoord k a) then some (a, 3)
  else if b ≠ u ∧ m.stopLive ax line (8 * ringCoord k b) ∧ ! m.badMill ax line (8 * ringCoord k a) then some (b, 4)
  else none

/-- Cost along a mill race from position `u` to `v` (R49). -/
def RingMap.millWalk (m : RingMap) (ax : Axis) (line v : Nat) (up : Bool) : Nat → Nat → Option Nat
  | 0, _ => none
  | k + 1, u =>
    if u = v then some 0
    else match m.millMove ax line u up with
      | some (w, c) => (m.millWalk ax line v up k w).map (· + c)
      | none => none

/-- `mcost` of R50, between ring positions of two stops. -/
def RingMap.mcost (m : RingMap) (ax : Axis) (line s t : Nat) (up : Bool) : Option Nat :=
  let n := m.size ax
  let k := m.stops ax
  m.millWalk ax line (ringPos k (ringCoord n t / 8)) up (k + 1) (ringPos k (ringCoord n s / 8))

/-- Is a cost less than another, infinity being the greatest? -/
def costLt : Option Nat → Option Nat → Bool
  | some a, some b => decide (a < b)
  | some _, none => true
  | none, _ => false

/-- A plan of a leg (R50). -/
inductive Plan where
  | done
  | unreachable
  | local (up : Bool)
  | express (s : Nat) (sup mup : Bool) (t : Nat)
  deriving DecidableEq, Repr

/-- EXPRESS_MIN and EXPRESS_ENABLE of 0x2011. -/
structure RouteCfg where
  expressMin : Nat
  expressEnable : Bool
  deriving DecidableEq, Repr

/-- `plan_leg` of R50. -/
def RingMap.planLeg (m : RingMap) (cfg : RouteCfg) (ax : Axis) (line a b : Nat) (turn : Bool) : Plan :=
  if a = b then .done
  else
    let up := m.cost ax line a b true turn
    let dn := m.cost ax line a b false turn
    let ldir := ! costLt dn up
    let lc := if ldir then up else dn
    match lc with
    | none => .unreachable
    | some l =>
      if ! cfg.expressEnable ∨ ringDist (m.size ax) a b < cfg.expressMin then .local ldir
      else match m.accessStop ax line a, m.exitStop ax line b turn with
        | some (s, sup, sc), some (t, tc) =>
          if s = t then .local ldir
          else
            let mu := m.mcost ax line s t true
            let md := m.mcost ax line s t false
            let mdir := ! costLt md mu
            match if mdir then mu else md with
            | some mc => if sc + 3 + mc + 3 + tc < l then .express s sup mdir t else .local ldir
            | none => .local ldir
        | _, _ => .local ldir

/-- Does the move from `p` to `q` in a direction wrap, crossing the dateline (R54)? -/
def wraps (p q : Nat) (up : Bool) : Bool := if up then decide (q < p) else decide (p < q)

/-! ### The next hop (R50 to R56, R61 to R63) -/

/-- What a router does with a header: eject it, send it by an output port on a lane with new ROUTE bits (`detours` says
that a detour starts here), or drop it with a NACK reason (R63). -/
inductive Hop where
  | eject
  | out (port lane : Nat) (r : RouteBits) (detours : Bool)
  | drop (reason : Nat)
  deriving DecidableEq, Repr

/-- The port code of an axis, mill race or not, in a direction (R76). -/
def portCode (ax : Axis) (mill up : Bool) : Nat :=
  (match ax with | .row => 0 | .col => 2) + (if mill then 4 else 0) + (if up then 0 else 1)

/-- The axis of a ring port code. -/
def portAxis (q : Nat) : Axis := if q % 4 < 2 then .row else .col

/-- The direction a packet travels that came in by a ring port: it entered from the neighbour on that side (R47). -/
def travelUp (q : Nat) : Bool := decide (q % 2 = 1)

/-- Lane of a class and half (R21, R22): half 0 is a, half 1 is b. -/
def classLane (cls half : Nat) : Nat := 2 * cls + half

/-- The start of a detour or of a hop on a local ring from position `p`, for a packet whose lane half is `half`. -/
def RingMap.startMove (m : RingMap) (ax : Axis) (line p b cls half phase : Nat) (up turn : Bool) : Hop :=
  match m.move ax line p (some b) up with
  | .hop q | .bypass q =>
    .out (portCode ax false up) (classLane cls (if wraps p q up then 1 else half)) ⟨phase, false, 0⟩ false
  | .detour _ h _ =>
    let nc := m.size ax.other
    .out (portCode ax.other false (decide (ringPos nc h = nextPos nc (ringPos nc line) true))) (8 + half)
      ⟨phase, false, 1⟩ true
  | .toEnd =>
    if turn then
      match m.detourLine ax line p b up true with
      | some h =>
        let nc := m.size ax.other
        .out (portCode ax.other false (decide (ringPos nc h = nextPos nc (ringPos nc line) true))) (8 + half)
          ⟨phase, false, 1⟩ true
      | none => .drop 7
    else .drop 6
  | .closed => .drop 7

/-- Go on with a leg on the local ring of `line` from position `p` (R50, R51). `came` is the direction of travel on
this ring, if the packet came along it; `half` is its lane half there. -/
def RingMap.legHop (m : RingMap) (cfg : RouteCfg) (ax : Axis) (line p b cls half phase : Nat) (came : Option Bool)
    (turn : Bool) : Hop :=
  let n := m.size ax
  match m.planLeg cfg ax line p b turn with
  | .done => .eject
  | .unreachable => .drop 7
  | .local up =>
    let up := match came with
      | some d => if ringDist n p b < cfg.expressMin ∧ (m.cost ax line p b d turn).isSome then d else up
      | none => up
    m.startMove ax line p b cls half phase up turn
  | .express s sup mup t =>
    if s = p then
      let k := m.stops ax
      let u := ringPos k (ringCoord n p / 8)
      match m.millMove ax line u mup with
      | some (v, _) => .out (portCode ax true mup) (classLane cls (b2n (wraps u v mup))) ⟨phase, true, 0⟩ false
      | none => .drop 7
    else if t = p then .drop 7
    else m.startMove ax line p s cls half phase sup false

/-- Go on along a mill race, or leave it at the exit stop (R52, R55). -/
def RingMap.millHop (m : RingMap) (cfg : RouteCfg) (ax : Axis) (line p b cls half phase : Nat) (up turn : Bool) : Hop :=
  let n := m.size ax
  let k := m.stops ax
  let u := ringPos k (ringCoord n p / 8)
  match m.exitStop ax line b turn with
  | some (t, _) =>
    if t = p then m.startMove ax line p b cls 1 phase (decide (p < b)) turn
    else
      let d := if (m.mcost ax line p t up).isSome then up else ! up
      match m.millMove ax line u d with
      | some (v, _) => if (m.mcost ax line p t d).isSome then
          .out (portCode ax true d) (classLane cls (if wraps u v d then 1 else half)) ⟨phase, true, 0⟩ false
        else m.legHop cfg ax line p b cls 1 phase none turn
      | none => m.legHop cfg ax line p b cls 1 phase none turn
  | none => m.legHop cfg ax line p b cls 1 phase none turn

/-- The column leg from cell `c`, begun or continued (R48). -/
def RingMap.colHop (m : RingMap) (cfg : RouteCfg) (c d : Coord) (cls half : Nat) (came : Option Bool) : Hop :=
  m.legHop cfg .col c.x (ringPos m.ny c.y) (ringPos m.ny d.y) cls half 1 came false

/-- The turn at (DEST.X, the present row): ejection, or the column leg on lane a (R48, R55). -/
def RingMap.turnHop (m : RingMap) (cfg : RouteCfg) (c d : Coord) (cls : Nat) : Hop :=
  if c = d then .eject else m.colHop cfg c d cls 0 none

/-- The direction of travel on the ring a detour left, from its map and the leg's end (R61): the direction in which the
plan from `p` goes. -/
def RingMap.planUp (m : RingMap) (cfg : RouteCfg) (ax : Axis) (line p b : Nat) (turn : Bool) : Bool :=
  match m.planLeg cfg ax line p b turn with
  | .local up => up
  | .express _ sup _ _ => sup
  | _ => true

/-- The next hop of a packet that is on a detour (R61, R62). `g` is the line of the ring it left, `c` the present cell,
`port` the input it came by, `half` 0 on VL8 and 1 on VL9. -/
def RingMap.detourHop (m : RingMap) (cfg : RouteCfg) (ax : Axis) (g : Nat) (c d : Coord) (cls half phase det port : Nat) :
    Hop :=
  let n := m.size ax
  let line := match ax with | .row => c.y | .col => c.x
  let p := match ax with | .row => ringPos n c.x | .col => ringPos n c.y
  let b := match ax with | .row => ringPos n d.x | .col => ringPos n d.y
  let turn := decide (ax = .row)
  let turnHole := turn && m.deadAt ax g b
  let nc := m.size ax.other
  if det = 3 ∨ line = g then
    -- back on the ring at pb: the packet travelled the way the gap lies behind it
    let up := if m.deadAt ax g (nextPos n p false) && ! m.deadAt ax g (nextPos n p true) then true
      else if m.deadAt ax g (nextPos n p true) && ! m.deadAt ax g (nextPos n p false) then false
      else m.planUp cfg ax g p b turn
    let gap := m.holeRun ax g (! up) (n - 1) p
    let half' := if half = 1 ∨ wraps (posOn n p (gap + 1) (! up)) p up then 1 else 0
    if p = b then (if ax = .row then m.turnHop cfg c d cls else .eject)
    else m.legHop cfg ax g p b cls half' phase (some up) turn
  else
    let up := if det = 2 then travelUp port else m.planUp cfg ax g p b turn
    if turnHole && decide (p = b) then m.turnHop cfg c d cls
    else if det = 2 ∧ ! m.deadAt ax g p then
      .out (portCode ax.other false (decide (ringPos nc g = nextPos nc (ringPos nc line) true))) (8 + half)
        ⟨phase, false, 3⟩ false
    else match m.move ax line p none up with
      | .hop _ | .bypass _ => .out (portCode ax false up) (8 + half) ⟨phase, false, 2⟩ false
      | _ => .drop 7

/-- Are two lines of a ring of `n` neighbours on the crossing rings? -/
def besides (n a b : Nat) : Bool :=
  decide (ringPos n b = nextPos n (ringPos n a) true) || decide (ringPos n b = nextPos n (ringPos n a) false)

/-- Where a header on its way has its legs: the row of its row leg and the column of its column leg, as far as the header tells them. A
packet of another engine names no row here, and a packet to a rectangle runs on many columns. -/
structure Legs where
  row : Option Nat
  col : Option Nat
  deriving DecidableEq, Repr

/-- The DETOUR part that a header with PHASE `phase` carries when it comes by ring port `port` to cell `c` on VL8 or VL9 (R61): 2 along the
neighbouring ring, 1 and 3 on the crossing ring, onto the neighbouring ring and back. None where no detour of that leg brings it here. A
leg whose ring the header does not tell cannot tell 1 from 3: there the header's own part stands. -/
def RingMap.detourPart (m : RingMap) (c : Coord) (at_ : Legs) (phase port det : Nat) : Option Nat :=
  let ax := if phase = 0 then Axis.row else Axis.col
  let here := if phase = 0 then c.y else c.x
  match if phase = 0 then at_.row else at_.col with
  | some g =>
    let near := besides (m.size ax.other) g here
    if portAxis port = ax then (if near then some 2 else none)
    else if here = g then some 3 else if near then some 1 else none
  | none => some (if portAxis port = ax then 2 else if det = 3 then 3 else 1)

/-- The ROUTE bits by the router's own computation (R52), from the port and lane a header came by, its legs, and its place: PHASE by the
axis of the port, but on a detour the header's where its leg passes here, else the other leg's; EXPRESS on a mill-race port; DETOUR by
`detourPart`. A header that no detour brings here keeps what it says. -/
def RingMap.ownRoute (m : RingMap) (c : Coord) (at_ : Legs) (r : RouteBits) (port lane : Nat) : RouteBits :=
  if port = 8 then ⟨0, false, 0⟩
  else if lane < 8 then ⟨if portAxis port = .col then 1 else 0, decide (4 ≤ port), 0⟩
  else
    match m.detourPart c at_ (r.phase % 2) port r.detour with
    | some k => ⟨r.phase % 2, decide (4 ≤ port), k⟩
    | none => match m.detourPart c at_ (1 - r.phase % 2) port r.detour with
      | some k => ⟨1 - r.phase % 2, decide (4 ≤ port), k⟩
      | none => ⟨r.phase, decide (4 ≤ port), if r.detour = 0 then 2 else r.detour⟩

/-- Do the ROUTE bits of a header agree with the router's own computation (R52)? -/
def RingMap.routeAgrees (m : RingMap) (c : Coord) (at_ : Legs) (r : RouteBits) (port lane : Nat) : Bool :=
  decide (m.ownRoute c at_ r port lane = r)

/-- The row that a row detour left, where the header does not tell it (R61): back on it, the present row; after the hop off it, the row
the port came from; on the neighbouring row, the one beside it whose gap is passed here and detours by this row, of two such the one whose
first choice this row is (R60). -/
def RingMap.leftRow (m : RingMap) (c : Coord) (det port : Nat) : Nat :=
  let n := m.ny
  let beside := fun up => ringCoord n (nextPos n (ringPos n c.y) up)
  if det = 3 then c.y
  else if det = 1 then beside (decide (port = 2))
  else
    let up := travelUp port
    let p := ringPos m.nx c.x
    let passes := fun g =>
      let back := m.holeRun .row g (! up) (m.nx - 1) p
      let pa := posOn m.nx p (back + 1) (! up)
      let ahead := m.holeRun .row g up (m.nx - 1) p
      let pb := if m.deadAt .row g p then posOn m.nx p (ahead + 1) up else p
      (m.deadAt .row g p || decide (0 < back)) && decide (m.detourLine .row g pa pb up false = some c.y)
    if passes (beside false) then beside false else beside true

/-- The next hop at cell `c` of a header toward `d` that came by an input port on a lane (R48 to R63). `row` is the row of its row leg,
SRC.Y, none for a packet of another engine, whose row leg runs on the row of its gateway cell. A hole destination on that row has no column
leg, and the live router before it on the row leg drops the packet (log 88). -/
def RingMap.nextHop (m : RingMap) (cfg : RouteCfg) (c d : Coord) (row : Option Nat) (cls : Nat) (r : RouteBits) (port lane : Nat) : Hop :=
  let r := m.ownRoute c ⟨row, some d.x⟩ r port lane
  let half := lane % 2
  if r.detour ≠ 0 then
    if r.phase = 0 then m.detourHop cfg .row (row.getD (m.leftRow c r.detour port)) c d cls half 0 r.detour port
    else m.detourHop cfg .col d.x c d cls half 1 r.detour port
  else if r.phase = 0 ∧ c.x ≠ d.x then
    let p := ringPos m.nx c.x
    let b := ringPos m.nx d.x
    let turn := ! (decide (d.y = c.y))
    if r.express then m.millHop cfg .row c.y p b cls half 0 (travelUp port) turn
    else
      let came := if port < 2 then some (travelUp port) else none
      m.legHop cfg .row c.y p b cls (if port = 8 then 0 else half) 0 came turn
  else if r.phase = 0 then m.turnHop cfg c d cls
  else if c = d then .eject
  else if r.express then m.millHop cfg .col c.x (ringPos m.ny c.y) (ringPos m.ny d.y) cls half 1 (travelUp port) false
  else m.colHop cfg c d cls half (if port = 2 ∨ port = 3 then some (travelUp port) else none)

/-- Is a live router without a usable link on both its rings (R64)? -/
def RingMap.stranded (m : RingMap) (c : Coord) : Bool :=
  let usable := fun (ax : Axis) line p up =>
    match m.move ax line p none up with
    | .hop _ | .bypass _ => true
    | _ => false
  ! m.isHole c && ! usable .row c.y (ringPos m.nx c.x) true && ! usable .row c.y (ringPos m.nx c.x) false &&
    ! usable .col c.x (ringPos m.ny c.y) true && ! usable .col c.x (ringPos m.ny c.y) false

/-- The BYPASS bits of a router (0x4010.04): bit set while the port drives its bypass (R58). -/
def RingMap.bypassBits (m : RingMap) (c : Coord) : Nat :=
  if m.isHole c then 0
  else
    let loc := fun (ax : Axis) line p up => match m.move ax line p none up with
      | .bypass _ => true
      | _ => false
    let mill := fun (ax : Axis) line (x : Nat) up =>
      m.stopLive ax line x && (match m.millMove ax line (ringPos (m.stops ax) (x / 8)) up with
        | some (_, 4) => true
        | _ => false)
    let pr := ringPos m.nx c.x
    let pc := ringPos m.ny c.y
    b2n (loc .row c.y pr true) + 2 * b2n (loc .row c.y pr false) + 4 * b2n (loc .col c.x pc true) +
      8 * b2n (loc .col c.x pc false) + 16 * b2n (mill .row c.y c.x true) + 32 * b2n (mill .row c.y c.x false) +
      64 * b2n (mill .col c.x c.y true) + 128 * b2n (mill .col c.x c.y false)

/-- Mill-race gaps of one mill race (R59): the dead stops in a gap, beside another or with a bypass that failed, whose predecessor is not
in one. -/
def RingMap.millGaps (m : RingMap) (ax : Axis) (line : Nat) : Nat :=
  let k := m.stops ax
  let dead := fun u => ! m.stopLive ax line (8 * ringCoord k u)
  let gap := fun u => dead u && (dead (nextPos k u false) || dead (nextPos k u true) || m.badMill ax line (8 * ringCoord k u))
  ((List.range k).filter (fun u => gap u && ! gap (nextPos k u false))).length

/-- The neighbour that the output port `q` of a router drives, over its bypass where it drives one (R47, R58). -/
def RingMap.neighbour (m : RingMap) (c : Coord) (q : Nat) : Option Coord :=
  let ax := portAxis q
  let up := decide (q % 2 = 0)
  let n := m.size ax
  let line := match ax with | .row => c.y | .col => c.x
  let x := match ax with | .row => c.x | .col => c.y
  if 8 ≤ q then none
  else if q < 4 then
    match m.move ax line (ringPos n x) none up with
    | .hop p | .bypass p => some (m.cellAt ax line p)
    | _ => none
  else if x % 8 = 0 then
    match m.millMove ax line (ringPos (m.stops ax) (x / 8)) up with
    | some (u, _) => some (axisCell ax line (8 * ringCoord (m.stops ax) u))
    | none => none
  else none

/-- Does the router have the port (R47, R76)? -/
def hasPort (c : Coord) (q : Nat) : Bool :=
  decide (q < 4) || decide (q = 8) || (decide (q = 4 ∨ q = 5) && decide (c.x % 8 = 0)) ||
    (decide (q = 6 ∨ q = 7) && decide (c.y % 8 = 0))

end Sys2Proof.Machine
end

