-- ==== Sys2Proof/Machine/Links.lean ====
section
/-! DEFINITION. Where link ports lie (R300), the engine system's coordinates (R320), the state of links in the stored
notes (R323), the engine route of a packet (R324, R325), and the hash that picks a port and a gateway cell (R326). -/

namespace Sys2Proof.Machine

/-- The edge of a port and its number t within the edge, from the counts of the edges (R300). -/
def portEdge : List Nat → Nat → Nat → Nat × Nat
  | [], _, p => (4, p)
  | n :: ns, e, p => if p < n then (e, p) else portEdge ns (e + 1) (p - n)

/-- Gateway cell `i` of port t of an edge: 0 top, 1 bottom, 2 left, 3 right (R300). -/
def edgeCell (gx gy e t i : Nat) : Coord :=
  match e with
  | 0 => ⟨16 + 16 * t + i, 0⟩
  | 1 => ⟨16 + 16 * t + i, gy - 1⟩
  | 2 => ⟨0, 2 + 16 * t + i⟩
  | _ => ⟨gx - 1, 2 + 16 * t + i⟩

/-- The dimension sizes that `SIZES` gives under `DIMS`: 1 for a dimension beyond it (R320). -/
def ringSizes (dims z : Nat) : List Nat := (List.range 3).map (fun d => if d < dims then bits z (12 * d) 12 else 1)

/-- Coordinates of an engine (R320). -/
def engCoords (sizes : List Nat) (e : Nat) : List Nat :=
  let d0 := nth sizes 0 1
  let d1 := nth sizes 1 1
  [e % d0, e / d0 % d1, e / (d0 * d1)]

/-- The engine with given coordinates (R320). -/
def engOf (sizes : List Nat) (c : List Nat) : Nat :=
  nth c 0 0 + nth sizes 0 1 * (nth c 1 0 + nth sizes 1 1 * nth c 2 0)

/-- What the engine route table is computed from: this engine, the dimensions, the stored notes, and this engine's own
port records (R324). -/
structure RouteView where
  self : Nat
  dims : Nat
  sizes : List Nat
  notes : List Note
  own : List PortRec
  deriving DecidableEq, Repr

/-- The view before any note (R313: every port is DISABLED). -/
def RouteView.init : RouteView := ⟨0, 0, [1, 1, 1], [], []⟩

/-- The port records of an engine: its own, or those of its stored note. -/
def RouteView.portsOf (v : RouteView) (e : Nat) : List PortRec :=
  if e = v.self then v.own else match v.notes.find? (fun n => n.origin == e) with
    | some n => n.ports
    | none => []

/-- Is a link of (d, dir) from engine `a` to `b` in service by both sides' records (R323)? -/
def RouteView.linkUp (v : RouteView) (a b d dir : Nat) : Bool :=
  (v.portsOf a).any (fun r => r.inService && ! r.free && r.dim == d && r.dir == dir && r.partner == b &&
    (v.portsOf b).any (fun q => q.port == r.partnerPort && q.inService && q.partner == a && q.partnerPort == r.port))

/-- STATE of an engine in its stored note; 4 for an unknown one. This engine is ACTIVE to itself. -/
def RouteView.stateOf (v : RouteView) (e : Nat) : Nat :=
  if e = v.self then 0 else match v.notes.find? (fun n => n.origin == e) with
    | some n => n.state
    | none => 4

/-- Is an engine passable on dimension d (R323)? -/
def RouteView.passable (v : RouteView) (e d : Nat) : Bool :=
  let st := v.stateOf e
  st == 0 || st == 2 || (st == 1 && (v.portsOf e).any (fun r => r.relayPaired && r.dim == d && ! r.free &&
    (v.portsOf e).any (fun q => q.relayPaired && q.port == r.relayPair && q.dim == d)))

/-- May a packet enter, turn in or end at an engine (R323)? -/
def RouteView.enterable (v : RouteView) (e : Nat) : Bool := v.stateOf e == 0 || v.stateOf e == 2

/-- The engine one step along dimension d from engine e; `dir` 0 is +. -/
def RouteView.stepEng (v : RouteView) (e d dir : Nat) : Nat :=
  let c := engCoords v.sizes e
  let n := nth v.sizes d 1
  let x := nth c d 0
  engOf v.sizes (setAt c d (if dir = 0 then (x + 1) % n else (x + n - 1) % n))

/-- The walk of `clear(d, dir)` from engine `e` to coordinate `x` along d (R324). -/
def RouteView.clearWalk (v : RouteView) (x d dir : Nat) : Nat → Nat → Bool
  | 0, _ => false
  | k + 1, e =>
    let e' := v.stepEng e d dir
    v.linkUp e e' d dir &&
      (if nth (engCoords v.sizes e') d 0 = x then v.enterable e' else v.passable e' d && v.clearWalk x d dir k e')

/-- `clear(d, dir)` of R324 for a packet to engine `t`. -/
def RouteView.clear (v : RouteView) (t d dir : Nat) : Bool :=
  v.clearWalk (nth (engCoords v.sizes t) d 0) d dir (nth v.sizes d 1) v.self

/-- Where a packet leaves this engine for another: a free port, or a trunk (R324). -/
inductive EngHop where
  | local
  | free (port : Nat)
  | trunk (d dir : Nat)
  | unreachable
  deriving DecidableEq, Repr

/-- `engine_next` of R324; `from` is the trunk (d, dir) role of the arrival port, if the packet arrived on a trunk. -/
def RouteView.next (v : RouteView) (t : Nat) (arr : Option (Nat × Nat)) : EngHop :=
  if t = v.self then .local
  else match v.own.find? (fun r => r.free && r.inService && r.partner == t) with
    | some r => .free r.port
    | none =>
      let cs := engCoords v.sizes v.self
      let ct := engCoords v.sizes t
      match (List.range v.dims).find? (fun d => nth cs d 0 != nth ct d 0) with
      | none => .unreachable
      | some d =>
        let n := nth v.sizes d 1
        let up := (nth ct d 0 + n - nth cs d 0) % n
        let dir := if up ≤ n - up then 0 else 1
        let dir := if v.clear t d dir then dir else 1 - dir
        if ! v.clear t d dir then .unreachable
        else if arr = some (d, dir) then .unreachable
        else .trunk d dir

/-- Engine lane b of a hop on dimension d (R325): it crosses the dateline or follows a crossing. -/
def RouteView.laneB (v : RouteView) (srcEng d dir : Nat) : Bool :=
  let c' := nth (engCoords v.sizes (v.stepEng v.self d dir)) d 0
  let cs := nth (engCoords v.sizes srcEng) d 0
  if dir = 0 then decide (c' < cs) else decide (cs < c')

/-- The hash of a flow (R326). -/
def flowHash (src : SrcAddr) (dest : Addr) : Nat :=
  crc32c (leBytes 4 (srcWord src % 2 ^ 29) ++ leBytes 4 (addrWord dest % 2 ^ 29))

/-- The in-service ports of a trunk of this engine, rising (R326). -/
def RouteView.trunkPorts (v : RouteView) (d dir : Nat) : List Nat :=
  (v.own.filter (fun r => r.inService && ! r.free && r.dim == d && r.dir == dir)).map PortRec.port

/-- The port by which a flow leaves this engine (R324, R326), with h / P for the choice of the gateway cell. -/
def RouteView.exitPort (v : RouteView) (src : SrcAddr) (dest : Addr) (arr : Option (Nat × Nat)) : Option (Nat × Nat) :=
  let h := flowHash src dest
  match v.next dest.eng arr with
  | .free p => some (p, h)
  | .trunk d dir =>
    let ps := v.trunkPorts d dir
    if ps.isEmpty then none else some (nth ps (h % ps.length) 0, h / ps.length)
  | _ => none

end Sys2Proof.Machine
end

