-- ==== Sys2Proof/Machine/Objects.lean ====
section
/-! DEFINITION. The object dictionary: every object of the spec's object tables with its type, access code, apply class,
default, range and reserved bits (R376, R377, R379 to R381), the kind of node that holds it and the tier that writes it
(R375, R396). The tables were read from the spec's own object tables, chapter by chapter. -/

namespace Sys2Proof.Machine

/-- Object types (R376). A table has a capacity and an entry size in bytes and the byte its empty entries read as. -/
inductive OTy where
  | bool
  | u (w : Nat)
  | i (w : Nat)
  | enum
  | bits
  | ft
  | table (cap ent empty : Nat)
  | str (cap : Nat)
  deriving DecidableEq, Repr

/-- Access codes (R377). -/
inductive Acc where
  | ro | rw | wo | rc | w1c
  deriving DecidableEq, Repr

/-- Apply classes (R379 to R382). -/
inductive App where
  | none | live | quiet | commit | boot
  deriving DecidableEq, Repr

/-- The stated range of a scalar. `signed n` is −n to n; `orZero lo hi` is 0 or lo to hi. -/
inductive Rng where
  | any
  | between (lo hi : Nat)
  | mult (m lo hi : Nat)
  | pow2 (lo hi : Nat)
  | oneOf (l : List Nat)
  | orZero (lo hi : Nat)
  | signed (n : Nat)
  deriving DecidableEq, Repr

/-- One subindex of an object. -/
structure ObjRow where
  sub : Nat
  ty : OTy
  acc : Acc
  app : App
  dflt : Nat
  rng : Rng
  resv : Nat
  deriving DecidableEq, Repr

/-- FAULT (common layout of R360). -/
def objFault : List ObjRow :=
  [⟨0x01, .bits, .w1c, .live, 0, .any, 0⟩,
   ⟨0x02, .bits, .ro, .none, 0, .any, 0⟩,
   ⟨0x03, .u 32, .rc, .none, 0, .any, 0⟩,
   ⟨0x04, .ft, .ro, .none, 0, .any, 0⟩,
   ⟨0x05, .ft, .ro, .none, 0, .any, 0⟩,
   ⟨0x06, .table 64 16 0, .ro, .none, 0, .any, 0⟩,
   ⟨0x07, .u 32, .rw, .live, 0, .any, 0xffe00000⟩,
   ⟨0x08, .bits, .rw, .live, 0, .any, 0⟩,
   ⟨0x09, .u 8, .ro, .none, 0, .any, 0⟩,
   ⟨0x0A, .u 64, .rc, .none, 0, .any, 0⟩,
   ⟨0x0B, .bool, .rw, .live, 0, .any, 0⟩,
   ⟨0x0C, .bits, .ro, .none, 0, .any, 0⟩,
   ⟨0x0D, .bits, .ro, .none, 0, .any, 0⟩]

/-- IDENTITY (0x1001). -/
def obj1001 : List ObjRow :=
  [⟨0x01, .u 32, .ro, .boot, 0, .any, 0⟩,
   ⟨0x02, .str 64, .ro, .boot, 0, .any, 0⟩,
   ⟨0x03, .str 64, .ro, .boot, 0, .any, 0⟩,
   ⟨0x04, .u 64, .ro, .boot, 0, .any, 0⟩]

/-- VERSIONS (0x1002). -/
def obj1002 : List ObjRow :=
  [⟨0x01, .u 16, .ro, .boot, 256, .any, 0⟩,
   ⟨0x02, .u 16, .ro, .boot, 256, .any, 0⟩,
   ⟨0x03, .u 16, .ro, .boot, 256, .any, 0⟩,
   ⟨0x04, .u 8, .ro, .boot, 0, .any, 0⟩]

/-- BUILD_CONFIG (0x1003). -/
def obj1003 : List ObjRow :=
  [⟨0x01, .u 8, .ro, .boot, 20, .any, 0⟩,
   ⟨0x02, .u 8, .ro, .boot, 16, .any, 0⟩,
   ⟨0x03, .bits, .ro, .boot, 0xffffff, .any, 0⟩,
   ⟨0x04, .u 8, .ro, .boot, 96, .any, 0⟩,
   ⟨0x05, .u 32, .ro, .boot, 0x14141c1c, .any, 0⟩,
   ⟨0x06, .u 8, .ro, .boot, 64, .any, 0⟩,
   ⟨0x07, .str 64, .ro, .boot, 0, .any, 0⟩]

/-- ID_KEY (0x1004). -/
def obj1004 : List ObjRow :=
  [⟨0x01, .table 97 97 0, .ro, .boot, 0, .any, 0⟩,
   ⟨0x02, .table 4096 1 0, .rw, .boot, 0, .any, 0⟩,
   ⟨0x03, .table 2048 1 0, .rw, .boot, 0, .any, 0⟩,
   ⟨0x04, .enum, .ro, .boot, 0, .any, 0⟩]

/-- DEFECT_MAP (0x1005). -/
def obj1005 : List ObjRow :=
  [⟨0x01, .table 12288 4 0, .ro, .boot, 0, .any, 0⟩,
   ⟨0x02, .table 4096 4 0, .rw, .boot, 0, .any, 0⟩,
   ⟨0x03, .u 32, .ro, .boot, 0, .any, 0⟩]

/-- BRINGUP (0x1008). -/
def obj1008 : List ObjRow :=
  [⟨0x01, .enum, .ro, .none, 0, .any, 0⟩,
   ⟨0x02, .enum, .ro, .none, 0, .any, 0⟩,
   ⟨0x03, .enum, .ro, .none, 0, .any, 0⟩,
   ⟨0x04, .table 40 1 0, .ro, .none, 0, .any, 0⟩,
   ⟨0x05, .table 80 8 0, .ro, .none, 0, .any, 0⟩,
   ⟨0x06, .u 32, .ro, .none, 0, .any, 0⟩,
   ⟨0x07, .u 32, .ro, .none, 0, .any, 0⟩,
   ⟨0x08, .u 8, .wo, .live, 0, .oneOf [1], 0⟩,
   ⟨0x09, .bool, .rw, .boot, 1, .any, 0⟩,
   ⟨0x0A, .u 32, .rw, .boot, 250, .between 10 10000, 0⟩,
   ⟨0x0B, .u 32, .rw, .boot, 25, .between 0 1000, 0⟩,
   ⟨0x0C, .u 32, .ro, .none, 0, .any, 0⟩,
   ⟨0x0D, .u 16, .ro, .none, 0, .any, 0⟩]

/-- COMMIT (0x2001). -/
def obj2001 : List ObjRow :=
  [⟨0x01, .u 8, .wo, .live, 0, .oneOf [1, 2], 0⟩,
   ⟨0x02, .u 8, .ro, .none, 0, .any, 0⟩,
   ⟨0x03, .u 64, .ro, .none, 0, .any, 0⟩,
   ⟨0x04, .table 40 1 0, .ro, .none, 0, .any, 0⟩]

/-- GENERATION (0x2002). -/
def obj2002 : List ObjRow :=
  [⟨0x01, .u 32, .ro, .none, 0, .any, 0⟩,
   ⟨0x02, .u 32, .ro, .none, 0, .any, 0⟩]

/-- DICT_CONFIG (0x2003). -/
def obj2003 : List ObjRow :=
  [⟨0x01, .enum, .rw, .boot, 1, .between 0 2, 0⟩,
   ⟨0x02, .enum, .rw, .live, 0, .between 0 2, 0⟩,
   ⟨0x03, .u 32, .rw, .live, 0x2710, .between 100 1000000, 0⟩,
   ⟨0x04, .u 32, .rw, .live, 200, .between 10 100000, 0⟩]

/-- HOLE_MAP (0x2010). -/
def obj2010 : List ObjRow :=
  [⟨0x01, .u 32, .ro, .none, 0, .any, 0⟩,
   ⟨0x02, .u 32, .ro, .none, 0, .any, 0⟩,
   ⟨0x03, .table 1228800 8 0, .ro, .none, 0, .any, 0⟩,
   ⟨0x04, .u 32, .ro, .none, 0, .any, 0⟩,
   ⟨0x05, .u 32, .ro, .none, 0, .any, 0⟩,
   ⟨0x06, .u 32, .ro, .none, 0, .any, 0⟩]

/-- ROUTE_CONFIG (0x2011). -/
def obj2011 : List ObjRow :=
  [⟨0x01, .u 16, .rw, .quiet, 16, .between 8 240, 0⟩,
   ⟨0x02, .bool, .rw, .quiet, 1, .any, 0⟩,
   ⟨0x03, .u 16, .rw, .commit, 0x3e8, .between 250 16000, 0⟩,
   ⟨0x04, .u 32, .ro, .none, 0, .any, 0⟩]

/-- SIGNAL_CONFIG (0x2012). -/
def obj2012 : List ObjRow :=
  [⟨0x01, .u 32, .rw, .live, 0x186a0, .between 10 10000000, 0⟩]

/-- BULK_CONFIG (0x2013). -/
def obj2013 : List ObjRow :=
  [⟨0x01, .u 16, .rw, .commit, 20, .between 1 10000, 0⟩,
   ⟨0x02, .u 16, .rw, .commit, 0x2710, .between 1 10000, 0⟩,
   ⟨0x03, .u 32, .rw, .live, 0x3e8, .between 10 10000000, 0⟩,
   ⟨0x04, .u 32, .rw, .live, 100, .between 1 10000000, 0⟩]

/-- POND_SHARES (0x2014). -/
def obj2014 : List ObjRow :=
  [⟨0x01, .u 32, .rw, .commit, 32, .any, 0xfffff000⟩,
   ⟨0x02, .u 32, .rw, .commit, 32, .any, 0xfffff000⟩,
   ⟨0x03, .u 32, .rw, .commit, 32, .any, 0xfffff000⟩,
   ⟨0x04, .u 32, .rw, .commit, 32, .any, 0xfffff000⟩,
   ⟨0x05, .u 32, .rw, .commit, 32, .any, 0xfffff000⟩,
   ⟨0x06, .u 32, .rw, .commit, 32, .any, 0xfffff000⟩,
   ⟨0x07, .u 32, .rw, .commit, 32, .any, 0xfffff000⟩,
   ⟨0x08, .u 32, .rw, .commit, 32, .any, 0xfffff000⟩,
   ⟨0x09, .u 8, .rw, .commit, 4, .between 0 32, 0⟩]

/-- ANYCAST_GROUP (0x2100). -/
def obj2100 : List ObjRow :=
  [⟨0x01, .u 8, .rw, .commit, 0, .between 0 64, 0⟩,
   ⟨0x02, .table 256 4 0, .rw, .commit, 0, .any, 0⟩,
   ⟨0x03, .u 16, .rw, .commit, 0, .any, 0⟩,
   ⟨0x04, .u 32, .ro, .none, 0, .any, 0⟩,
   ⟨0x05, .u 64, .rc, .none, 0, .any, 0⟩]

/-- BARRIER_WINDOW (0x2200). -/
def obj2200 : List ObjRow :=
  [⟨0x01, .u 16, .rw, .live, 0, .between 0 4095, 0⟩,
   ⟨0x02, .u 32, .rw, .commit, 0, .any, 0⟩,
   ⟨0x03, .table 64 8 0, .rw, .commit, 0, .any, 0⟩,
   ⟨0x04, .table 40 1 0, .rw, .commit, 0, .any, 0⟩,
   ⟨0x05, .u 8, .rw, .commit, 1, .between 1 4, 0⟩,
   ⟨0x06, .enum, .rw, .commit, 0, .between 0 4, 0⟩,
   ⟨0x07, .u 32, .rw, .commit, 0x2710, .between 1 1000000, 0⟩,
   ⟨0x08, .u 32, .ro, .none, 0, .any, 0⟩,
   ⟨0x09, .u 8, .ro, .none, 0, .any, 0⟩,
   ⟨0x0A, .enum, .ro, .none, 0, .any, 0⟩,
   ⟨0x0B, .u 32, .ro, .none, 0, .any, 0⟩,
   ⟨0x0C, .u 64, .ro, .none, 0, .any, 0⟩,
   ⟨0x0D, .u 64, .ro, .none, 0, .any, 0⟩,
   ⟨0x0E, .enum, .ro, .none, 0, .any, 0⟩,
   ⟨0x0F, .u 64, .rc, .none, 0, .any, 0⟩,
   ⟨0x10, .u 32, .rc, .none, 0, .any, 0⟩]

/-- FIELD_ARB (0x3010). -/
def obj3010 : List ObjRow :=
  [⟨0x01, .bool, .rw, .live, 0, .any, 0⟩,
   ⟨0x02, .bool, .ro, .none, 0, .any, 0⟩,
   ⟨0x03, .u 32, .ro, .none, 0, .any, 0⟩]

/-- TALLY (0x3020). -/
def obj3020 : List ObjRow :=
  [⟨0x01, .table 2048 8 0, .rw, .live, 0, .any, 0⟩,
   ⟨0x02, .u 64, .rc, .none, 0, .any, 0⟩,
   ⟨0x03, .u 64, .rc, .none, 0, .any, 0⟩]

/-- CELL_PORT (0x4000). -/
def obj4000 : List ObjRow :=
  [⟨0x01, .u 16, .ro, .none, 256, .any, 0⟩,
   ⟨0x02, .u 32, .rw, .live, 0x2710, .between 1 1000000, 0⟩,
   ⟨0x03, .u 16, .ro, .none, 0, .any, 0⟩,
   ⟨0x04, .u 64, .rc, .none, 0, .any, 0⟩,
   ⟨0x05, .u 32, .rc, .none, 0, .any, 0⟩,
   ⟨0x06, .u 32, .ro, .none, 0, .any, 0⟩,
   ⟨0x07, .u 64, .rc, .none, 0, .any, 0⟩,
   ⟨0x08, .u 32, .rc, .none, 0, .any, 0⟩]

/-- CORE_RIGHTS (0x4001). -/
def obj4001 : List ObjRow :=
  [⟨0x01, .enum, .rw, .live, 1, .between 0 2, 0⟩,
   ⟨0x02, .enum, .rw, .live, 1, .between 0 2, 0⟩,
   ⟨0x03, .enum, .rw, .live, 1, .between 0 2, 0⟩,
   ⟨0x04, .enum, .rw, .live, 1, .between 0 2, 0⟩]

/-- BCHECK_TABLE (0x4002). -/
def obj4002 : List ObjRow :=
  [⟨0x01, .u 32, .rw, .quiet, 0x3fe00, .mult 512 0 262143, 0⟩,
   ⟨0x02, .bool, .rw, .live, 1, .any, 0⟩]

/-- COMPLETION_RING (0x4004). -/
def obj4004 : List ObjRow :=
  [⟨0x01, .u 32, .rw, .quiet, 0x3c000, .mult 32 0 262143, 0⟩,
   ⟨0x02, .u 16, .rw, .quiet, 64, .pow2 64 4096, 0⟩,
   ⟨0x03, .u 32, .rw, .quiet, 0x3fd00, .mult 8 0 262143, 0⟩,
   ⟨0x04, .u 32, .ro, .none, 0, .any, 0⟩,
   ⟨0x05, .table 64 4 0, .ro, .none, 0, .any, 0⟩,
   ⟨0x06, .u 64, .rc, .none, 0, .any, 0⟩,
   ⟨0x07, .u 32, .rc, .none, 0, .any, 0⟩]

/-- INT_QUEUE (0x4008). -/
def obj4008 : List ObjRow :=
  [⟨0x01, .u 8, .ro, .none, 16, .any, 0⟩,
   ⟨0x02, .u 8, .ro, .none, 0, .any, 0⟩,
   ⟨0x03, .u 32, .rc, .none, 0, .any, 0⟩]

/-- RING_STATE (0x4010). -/
def obj4010 : List ObjRow :=
  [⟨0x01, .u 32, .ro, .none, 0, .any, 0⟩,
   ⟨0x02, .u 8, .ro, .none, 0, .any, 0⟩,
   ⟨0x03, .u 8, .ro, .none, 0, .any, 0⟩,
   ⟨0x04, .bits, .ro, .none, 0, .any, 0⟩,
   ⟨0x05, .u 64, .rc, .none, 0, .any, 0⟩,
   ⟨0x06, .u 32, .rc, .none, 0, .any, 0⟩,
   ⟨0x07, .u 32, .rc, .none, 0, .any, 0⟩,
   ⟨0x08, .u 32, .rc, .none, 0, .any, 0⟩,
   ⟨0x09, .u 32, .rc, .none, 0, .any, 0⟩]

/-- SIGNAL_STATE (0x4020). -/
def obj4020 : List ObjRow :=
  [⟨0x01, .u 64, .rc, .none, 0, .any, 0⟩,
   ⟨0x02, .u 64, .rc, .none, 0, .any, 0⟩,
   ⟨0x03, .u 32, .rc, .none, 0, .any, 0⟩,
   ⟨0x04, .u 32, .rc, .none, 0, .any, 0⟩,
   ⟨0x05, .u 64, .rc, .none, 0, .any, 0⟩,
   ⟨0x06, .u 32, .rc, .none, 0, .any, 0⟩]

/-- ARB_PORT (0x4030). -/
def obj4030 : List ObjRow :=
  [⟨0x01, .enum, .rw, .live, 0, .oneOf [0, 1], 0⟩,
   ⟨0x02, .u 16, .rw, .commit, 256, .mult 4 64 4096, 0⟩,
   ⟨0x03, .u 8, .rw, .commit, 2, .between 0 4, 0⟩,
   ⟨0x04, .u 8, .rw, .commit, 32, .between 1 255, 0⟩,
   ⟨0x05, .bool, .rw, .live, 0, .any, 0⟩,
   ⟨0x10, .u 32, .rw, .commit, 0x6088204, .any, 0xc0000000⟩,
   ⟨0x11, .u 32, .rw, .commit, 0x6088204, .any, 0xc0000000⟩,
   ⟨0x12, .u 32, .rw, .commit, 0x6088204, .any, 0xc0000000⟩,
   ⟨0x13, .u 32, .rw, .commit, 0x6088204, .any, 0xc0000000⟩,
   ⟨0x14, .u 32, .rw, .commit, 0x6088204, .any, 0xc0000000⟩,
   ⟨0x15, .u 32, .rw, .commit, 0x6088204, .any, 0xc0000000⟩,
   ⟨0x16, .u 32, .rw, .commit, 0x6088204, .any, 0xc0000000⟩,
   ⟨0x17, .u 32, .rw, .commit, 0x6088204, .any, 0xc0000000⟩,
   ⟨0x18, .u 32, .rw, .commit, 0x6088204, .any, 0xc0000000⟩]

/-- TRADE_SLOTS (0x4040). -/
def obj4040 : List ObjRow :=
  [⟨0x01, .table 256 1 15, .rw, .commit, 0, .any, 0⟩,
   ⟨0x02, .u 16, .ro, .none, 0, .any, 0⟩,
   ⟨0x03, .u 16, .ro, .none, 224, .any, 0⟩]

/-- ARB_STATUS (0x4050). -/
def obj4050 : List ObjRow :=
  [⟨0x01, .u 64, .rc, .none, 0, .any, 0⟩,
   ⟨0x02, .u 64, .rc, .none, 0, .any, 0⟩,
   ⟨0x03, .u 32, .rc, .none, 0, .any, 0⟩,
   ⟨0x04, .u 32, .rc, .none, 0, .any, 0⟩,
   ⟨0x05, .u 32, .rc, .none, 0, .any, 0⟩,
   ⟨0x06, .u 32, .rc, .none, 0, .any, 0⟩,
   ⟨0x07, .u 32, .rc, .none, 0, .any, 0⟩,
   ⟨0x08, .u 64, .rc, .none, 0, .any, 0⟩,
   ⟨0x09, .u 32, .rc, .none, 0, .any, 0⟩,
   ⟨0x0A, .bits, .ro, .none, 0, .any, 0⟩]

/-- LANDING (0x4060). -/
def obj4060 : List ObjRow :=
  [⟨0x01, .u 8, .ro, .none, 16, .any, 0⟩,
   ⟨0x02, .u 16, .ro, .none, 0, .any, 0⟩,
   ⟨0x03, .u 8, .ro, .none, 0, .any, 0⟩,
   ⟨0x04, .u 64, .rc, .none, 0, .any, 0⟩,
   ⟨0x05, .u 32, .rc, .none, 0, .any, 0⟩,
   ⟨0x06, .u 32, .rc, .none, 0, .any, 0⟩,
   ⟨0x07, .u 32, .rc, .none, 0, .any, 0⟩,
   ⟨0x08, .u 32, .rc, .none, 0, .any, 0⟩,
   ⟨0x09, .u 32, .rc, .none, 0, .any, 0⟩,
   ⟨0x0A, .u 32, .rc, .none, 0, .any, 0⟩,
   ⟨0x0B, .u 32, .rc, .none, 0, .any, 0⟩]

/-- MILLSTONE (0x4070). -/
def obj4070 : List ObjRow :=
  [⟨0x01, .bits, .w1c, .live, 0, .any, 0⟩,
   ⟨0x02, .u 64, .rc, .none, 0, .any, 0⟩,
   ⟨0x03, .u 32, .rc, .none, 0, .any, 0⟩,
   ⟨0x04, .u 32, .rc, .none, 0, .any, 0⟩,
   ⟨0x05, .u 64, .rc, .none, 0, .any, 0⟩,
   ⟨0x06, .bits, .ro, .none, 3, .any, 0⟩]

/-- POND (0x4080). -/
def obj4080 : List ObjRow :=
  [⟨0x01, .u 8, .ro, .none, 32, .any, 0⟩,
   ⟨0x02, .u 32, .ro, .none, 0, .any, 0⟩,
   ⟨0x03, .u 64, .rc, .none, 0, .any, 0⟩,
   ⟨0x04, .u 64, .rc, .none, 0, .any, 0⟩,
   ⟨0x05, .u 64, .rc, .none, 0, .any, 0⟩,
   ⟨0x06, .u 32, .rc, .none, 0, .any, 0⟩,
   ⟨0x07, .u 64, .rc, .none, 0, .any, 0⟩,
   ⟨0x08, .u 64, .rc, .none, 0, .any, 0⟩,
   ⟨0x09, .u 32, .rc, .none, 0, .any, 0⟩,
   ⟨0x0A, .u 32, .rc, .none, 0, .any, 0⟩,
   ⟨0x0B, .u 64, .ro, .none, 0, .any, 0⟩]

/-- CHAN_DESC (0x4100). -/
def obj4100 : List ObjRow :=
  [⟨0x01, .enum, .rw, .live, 0, .oneOf [0, 1, 2], 0⟩,
   ⟨0x02, .u 8, .ro, .none, 0, .any, 0⟩,
   ⟨0x03, .u 32, .rw, .quiet, 0, .mult 256 0 4294967295, 0⟩,
   ⟨0x04, .u 8, .rw, .quiet, 8, .between 8 16, 0⟩,
   ⟨0x05, .u 16, .rw, .quiet, 120, .between 8 2048, 0⟩,
   ⟨0x06, .bits, .rw, .quiet, 3, .any, 0xfffffffc⟩,
   ⟨0x07, .u 32, .rw, .quiet, 0, .any, 0x80000000⟩,
   ⟨0x08, .u 32, .rw, .quiet, 0, .any, 0⟩,
   ⟨0x09, .u 32, .rw, .live, 0, .any, 0⟩,
   ⟨0x0A, .u 32, .ro, .none, 0, .any, 0⟩,
   ⟨0x0B, .u 32, .ro, .none, 0, .any, 0⟩,
   ⟨0x0C, .u 64, .rc, .none, 0, .any, 0⟩,
   ⟨0x0D, .u 32, .rc, .none, 0, .any, 0⟩,
   ⟨0x0E, .u 32, .rc, .none, 0, .any, 0⟩]

/-- CHANNELS (0x4180). -/
def obj4180 : List ObjRow :=
  [⟨0x01, .u 32, .rw, .live, 0x3e8, .between 1 1000000, 0⟩,
   ⟨0x02, .u 16, .ro, .none, 0x2000, .any, 0⟩,
   ⟨0x03, .u 64, .rc, .none, 0, .any, 0⟩,
   ⟨0x04, .u 32, .rc, .none, 0, .any, 0⟩,
   ⟨0x05, .table 64 4 0, .ro, .none, 0, .any, 0⟩,
   ⟨0x06, .u 32, .rc, .none, 0, .any, 0⟩,
   ⟨0x07, .u 64, .rc, .none, 0, .any, 0⟩]


/-- CTX, part 1. -/
def obj5000p1 : List ObjRow :=
  [⟨0x01, .u 16, .rw, .live, 0, .between 0 4095, 0⟩,
   ⟨0x02, .enum, .rw, .commit, 1, .between 0 5, 0⟩,
   ⟨0x03, .table 64 8 0, .rw, .commit, 0, .any, 0⟩,
   ⟨0x04, .table 40 1 0, .rw, .commit, 0, .any, 0⟩,
   ⟨0x05, .enum, .rw, .commit, 0, .between 0 6, 0⟩,
   ⟨0x06, .enum, .rw, .commit, 0, .between 0 2, 0⟩,
   ⟨0x07, .u 32, .rw, .commit, 0x100101, .any, 0xe0e0e0e0⟩,
   ⟨0x08, .u 8, .rw, .commit, 0, .between 0 44, 0⟩,
   ⟨0x09, .bits, .rw, .commit, 0, .any, 0xfffffffc⟩,
   ⟨0x0A, .u 32, .rw, .commit, 148, .any, 0xfffffe00⟩,
   ⟨0x0B, .u 32, .rw, .commit, 0, .mult 8 0 262143, 0⟩,
   ⟨0x0C, .u 32, .ro, .none, 0, .any, 0⟩,
   ⟨0x0D, .u 32, .rw, .commit, 0, .between 1 1048576, 0⟩,
   ⟨0x0E, .u 32, .rw, .commit, 0, .any, 0⟩,
   ⟨0x0F, .enum, .rw, .commit, 0, .oneOf [0, 1], 0⟩,
   ⟨0x10, .u 16, .rw, .commit, 0, .any, 0⟩]

/-- CTX, part 2. -/
def obj5000p2 : List ObjRow :=
  [⟨0x11, .u 8, .rw, .commit, 0, .between 0 7, 0⟩,
   ⟨0x12, .u 32, .rw, .commit, 0x7d0, .between 0 1000000, 0⟩,
   ⟨0x13, .u 32, .rw, .commit, 20, .between 1 100000, 0⟩,
   ⟨0x14, .u 32, .rw, .commit, 0x3e8, .between 10 10000000, 0⟩,
   ⟨0x15, .u 8, .rw, .commit, 0, .oneOf [0, 4, 5, 6, 7, 8, 9, 10, 11, 12, 13, 14, 15, 16], 0⟩,
   ⟨0x16, .table 64 16 0, .rw, .commit, 0, .any, 0⟩,
   ⟨0x17, .u 32, .rw, .commit, 0, .mult 2048 0 262143, 0⟩,
   ⟨0x18, .u 32, .rw, .commit, 0, .mult 256 0 262143, 0⟩,
   ⟨0x19, .u 8, .rw, .commit, 0, .between 0 48, 0⟩,
   ⟨0x1A, .u 32, .rw, .commit, 0, .any, 0xffffff80⟩,
   ⟨0x1B, .u 32, .rw, .commit, 0, .any, 0xfffffe00⟩,
   ⟨0x1C, .u 16, .rw, .commit, 0, .between 0 4095, 0⟩,
   ⟨0x1D, .table 4096 4 0, .rw, .commit, 0, .any, 0⟩,
   ⟨0x1E, .enum, .ro, .none, 0, .any, 0⟩,
   ⟨0x1F, .u 32, .ro, .none, 0, .any, 0⟩,
   ⟨0x20, .u 32, .ro, .none, 0, .any, 0⟩]

/-- CTX, part 3. -/
def obj5000p3 : List ObjRow :=
  [⟨0x21, .table 512 8 0, .ro, .none, 0, .any, 0⟩,
   ⟨0x22, .table 512 8 0, .ro, .none, 0, .any, 0⟩,
   ⟨0x23, .u 32, .ro, .none, 0, .any, 0⟩]

/-- CTX (0x5000). -/
def obj5000 : List ObjRow := obj5000p1 ++ obj5000p2 ++ obj5000p3

/-- LEVEL_POND (0x5010). -/
def obj5010 : List ObjRow :=
  [⟨0x01, .u 16, .ro, .none, 512, .any, 0⟩,
   ⟨0x02, .u 32, .ro, .none, 0, .any, 0⟩,
   ⟨0x03, .u 64, .rc, .none, 0, .any, 0⟩,
   ⟨0x04, .u 64, .rc, .none, 0, .any, 0⟩,
   ⟨0x05, .u 64, .rc, .none, 0, .any, 0⟩,
   ⟨0x06, .u 64, .rc, .none, 0, .any, 0⟩,
   ⟨0x07, .u 32, .rc, .none, 0, .any, 0⟩,
   ⟨0x08, .u 32, .rc, .none, 0, .any, 0⟩,
   ⟨0x09, .u 32, .rc, .none, 0, .any, 0⟩,
   ⟨0x0A, .table 512 8 0, .ro, .none, 0, .any, 0⟩,
   ⟨0x0B, .u 32, .rc, .none, 0, .any, 0⟩,
   ⟨0x0C, .u 32, .rc, .none, 0, .any, 0⟩]

/-- TABLE_WINDOW (0x6000). -/
def obj6000 : List ObjRow :=
  [⟨0x01, .u 16, .rw, .live, 0, .between 0 1023, 0⟩,
   ⟨0x02, .bits, .rw, .commit, 0, .any, 0xff000000⟩,
   ⟨0x03, .u 64, .rw, .commit, 0, .any, 0⟩,
   ⟨0x04, .u 64, .rw, .commit, 0, .between 1 68719476736, 0⟩,
   ⟨0x05, .u 16, .rw, .commit, 256, .pow2 64 2048, 0⟩,
   ⟨0x06, .u 8, .rw, .commit, 0, .oneOf [0, 1, 2, 3, 4, 10, 11, 31], 0⟩,
   ⟨0x07, .u 32, .rw, .commit, 0, .any, 0xfffc0000⟩,
   ⟨0x08, .bool, .rw, .commit, 0, .any, 0⟩,
   ⟨0x09, .u 16, .rw, .commit, 250, .between 0 10000, 0⟩,
   ⟨0x0A, .enum, .ro, .none, 0, .any, 0⟩,
   ⟨0x0B, .u 8, .ro, .none, 0, .any, 0⟩,
   ⟨0x0C, .u 8, .wo, .live, 0, .any, 0⟩,
   ⟨0x0D, .u 8, .ro, .none, 255, .any, 0⟩,
   ⟨0x0E, .u 32, .ro, .none, 0, .any, 0⟩,
   ⟨0x0F, .u 64, .ro, .none, 0, .any, 0⟩,
   ⟨0x10, .u 64, .rc, .none, 0, .any, 0⟩,
   ⟨0x11, .u 64, .rc, .none, 0, .any, 0⟩]

/-- DROP_CONFIG (0x6001). -/
def obj6001 : List ObjRow :=
  [⟨0x01, .u 32, .rw, .live, 20, .between 1 1000, 0⟩,
   ⟨0x02, .u 32, .rw, .live, 0x3e8, .between 10 1000000, 0⟩]

/-- STACK_STATE (0x6010). -/
def obj6010 : List ObjRow :=
  [⟨0x01, .bits, .ro, .none, 0xffffffff, .any, 0⟩,
   ⟨0x02, .u 16, .ro, .none, 0, .any, 0⟩,
   ⟨0x03, .u 64, .rc, .none, 0, .any, 0⟩,
   ⟨0x04, .u 64, .rc, .none, 0, .any, 0⟩,
   ⟨0x05, .u 64, .rc, .none, 0, .any, 0⟩,
   ⟨0x06, .u 64, .rc, .none, 0, .any, 0⟩,
   ⟨0x07, .u 32, .ro, .none, 0, .any, 0⟩]

/-- DROP_PORT (0x6040). -/
def obj6040 : List ObjRow :=
  [⟨0x01, .u 16, .ro, .none, 0, .any, 0⟩,
   ⟨0x02, .u 64, .rc, .none, 0, .any, 0⟩,
   ⟨0x03, .u 32, .rc, .none, 0, .any, 0⟩,
   ⟨0x04, .u 32, .rc, .none, 0, .any, 0⟩,
   ⟨0x05, .u 16, .ro, .none, 0, .any, 0⟩,
   ⟨0x06, .u 32, .rc, .none, 0, .any, 0⟩,
   ⟨0x07, .u 32, .ro, .none, 0x20000, .any, 0⟩,
   ⟨0x08, .u 32, .rc, .none, 0, .any, 0⟩,
   ⟨0x09, .u 8, .ro, .none, 0, .any, 0⟩]

/-- MEM_STREAM (0x6100). -/
def obj6100 : List ObjRow :=
  [⟨0x01, .u 8, .rw, .live, 0, .between 0 23, 0⟩,
   ⟨0x02, .u 8, .rw, .live, 0, .between 0 31, 0⟩,
   ⟨0x03, .u 64, .rw, .live, 0, .mult 64 0 68719476735, 0⟩,
   ⟨0x04, .u 32, .rw, .live, 0, .between 1 262144, 0⟩,
   ⟨0x05, .u 64, .rw, .live, 0, .any, 0xfffffff000000000⟩,
   ⟨0x06, .u 32, .rw, .live, 0, .between 0 262143, 0⟩,
   ⟨0x07, .u 16, .rw, .live, 0, .between 0 10000, 0⟩,
   ⟨0x08, .u 32, .rw, .live, 0, .any, 0xffe00000⟩,
   ⟨0x09, .u 8, .wo, .live, 0, .oneOf [1], 0⟩,
   ⟨0x0A, .enum, .ro, .none, 0, .any, 0⟩,
   ⟨0x0B, .u 32, .ro, .none, 0, .any, 0⟩]

/-- LINK_SYSTEM (0x7001). -/
def obj7001 : List ObjRow :=
  [⟨0x01, .u 16, .rw, .quiet, 0, .between 0 2047, 0⟩,
   ⟨0x02, .u 8, .rw, .quiet, 0, .between 0 3, 0⟩,
   ⟨0x03, .u 64, .rw, .quiet, 0x1001001, .any, 0xfffffff000000000⟩,
   ⟨0x04, .u 64, .ro, .none, 0, .any, 0⟩,
   ⟨0x05, .table 48 48 0, .rw, .quiet, 0, .any, 0⟩,
   ⟨0x06, .table 32768 16 0, .rw, .commit, 0, .any, 0⟩,
   ⟨0x07, .u 16, .ro, .none, 256, .any, 0⟩,
   ⟨0x08, .bits, .ro, .none, 7, .any, 0⟩,
   ⟨0x09, .u 32, .ro, .none, 0, .any, 0⟩,
   ⟨0x0A, .table 2048 1 255, .ro, .none, 0, .any, 0⟩]

/-- LINK_TIMERS (0x7002). -/
def obj7002 : List ObjRow :=
  [⟨0x01, .u 32, .rw, .live, 10, .between 1 1000, 0⟩,
   ⟨0x02, .u 32, .rw, .live, 100, .between 10 100000, 0⟩,
   ⟨0x03, .u 32, .rw, .live, 5, .between 1 1000, 0⟩,
   ⟨0x04, .u 32, .rw, .live, 10, .between 0 10000, 0⟩,
   ⟨0x05, .u 8, .rw, .live, 3, .between 1 100, 0⟩,
   ⟨0x06, .u 32, .rw, .live, 0x3e8, .between 10 600000, 0⟩,
   ⟨0x07, .u 32, .rw, .live, 0x3e8, .between 10 64000, 0⟩,
   ⟨0x08, .u 32, .rw, .commit, 0x3e8, .between 100 60000, 0⟩,
   ⟨0x09, .u 32, .rw, .commit, 0x3e8, .between 100 100000, 0⟩,
   ⟨0x0A, .u 32, .rw, .live, 0x3e8, .between 100 100000, 0⟩,
   ⟨0x0B, .u 8, .rw, .live, 40, .between 32 48, 0⟩]

/-- LINK_PORT (0x7010). -/
def obj7010 : List ObjRow :=
  [⟨0x01, .u 8, .rw, .quiet, 16, .any, 0xe0⟩,
   ⟨0x02, .enum, .rw, .quiet, 0, .between 0 2, 0⟩,
   ⟨0x03, .u 8, .rw, .commit, 255, .any, 0⟩,
   ⟨0x04, .bool, .rw, .live, 0, .any, 0⟩,
   ⟨0x05, .u 8, .rw, .live, 1, .oneOf [1, 2, 4, 8], 0⟩,
   ⟨0x06, .enum, .ro, .none, 0, .any, 0⟩,
   ⟨0x07, .u 8, .ro, .none, 0, .any, 0⟩,
   ⟨0x08, .bits, .ro, .none, 0, .any, 0⟩,
   ⟨0x09, .u 32, .ro, .none, 0, .any, 0⟩,
   ⟨0x0A, .u 16, .ro, .none, 0, .any, 0⟩,
   ⟨0x0B, .bits, .ro, .none, 0, .any, 0⟩,
   ⟨0x0C, .bool, .ro, .none, 0, .any, 0⟩,
   ⟨0x0D, .enum, .ro, .none, 0, .any, 0⟩,
   ⟨0x0E, .u 8, .wo, .live, 0, .oneOf [1, 2], 0⟩,
   ⟨0x0F, .u 32, .rw, .commit, 0x88204, .any, 0xc0000000⟩]

/-- LINK_STATUS (0x7020). -/
def obj7020 : List ObjRow :=
  [⟨0x01, .u 64, .rc, .none, 0, .any, 0⟩,
   ⟨0x02, .u 64, .rc, .none, 0, .any, 0⟩,
   ⟨0x03, .u 64, .rc, .none, 0, .any, 0⟩,
   ⟨0x04, .u 64, .rc, .none, 0, .any, 0⟩,
   ⟨0x05, .u 32, .rc, .none, 0, .any, 0⟩,
   ⟨0x06, .u 64, .rc, .none, 0, .any, 0⟩,
   ⟨0x07, .u 32, .rc, .none, 0, .any, 0⟩,
   ⟨0x08, .u 32, .rc, .none, 0, .any, 0⟩,
   ⟨0x09, .u 32, .rc, .none, 0, .any, 0⟩,
   ⟨0x0A, .u 32, .rc, .none, 0, .any, 0⟩,
   ⟨0x0B, .u 32, .rc, .none, 0, .any, 0⟩,
   ⟨0x0C, .u 32, .rc, .none, 0, .any, 0⟩,
   ⟨0x0D, .u 32, .rc, .none, 0, .any, 0⟩]

/-- SLUICE (0x7030). -/
def obj7030 : List ObjRow :=
  [⟨0x01, .table 256 1 0, .rw, .commit, 0, .any, 0⟩,
   ⟨0x02, .bits, .rw, .commit, 0, .any, 0xfffffff0⟩,
   ⟨0x03, .table 64 8 0, .rw, .commit, 0, .any, 0⟩,
   ⟨0x04, .bits, .rw, .commit, 0, .any, 0xfffffff0⟩,
   ⟨0x05, .u 64, .rw, .commit, 0, .any, 0x8000000000000000⟩,
   ⟨0x06, .u 16, .rw, .commit, 0, .any, 0⟩,
   ⟨0x07, .u 16, .rw, .commit, 0, .any, 0⟩,
   ⟨0x08, .bits, .rw, .commit, 0, .any, 0xfffffff0⟩,
   ⟨0x09, .bool, .rw, .commit, 0, .any, 0⟩,
   ⟨0x0A, .u 16, .rw, .live, 64, .between 1 65535, 0⟩,
   ⟨0x0B, .u 32, .rw, .live, 0x3e8, .between 1 600000, 0⟩,
   ⟨0x0C, .u 64, .rc, .none, 0, .any, 0⟩,
   ⟨0x0D, .u 64, .ro, .none, 0, .any, 0⟩,
   ⟨0x0E, .bool, .rw, .live, 0, .oneOf [0], 0⟩]

/-- DUAL_CONFIG (0x8001). -/
def obj8001 : List ObjRow :=
  [⟨0x01, .u 32, .rw, .commit, 20, .between 1 100000, 0⟩,
   ⟨0x02, .u 32, .rw, .commit, 200, .between 10 1000000, 0⟩,
   ⟨0x03, .u 32, .rw, .commit, 0, .mult 256 0 262143, 0⟩,
   ⟨0x04, .u 8, .rw, .commit, 0, .between 0 8, 0⟩,
   ⟨0x05, .u 32, .rw, .commit, 100, .between 1 60000, 0⟩,
   ⟨0x06, .bool, .rw, .live, 1, .any, 0⟩]

/-- STRIKE_CONFIG (0x8002). -/
def obj8002 : List ObjRow :=
  [⟨0x01, .u 8, .rw, .commit, 3, .between 1 16, 0⟩,
   ⟨0x02, .u 32, .rw, .commit, 0x15180, .between 60 2592000, 0⟩]

/-- DUAL_STATUS (0x8020). -/
def obj8020 : List ObjRow :=
  [⟨0x01, .u 64, .rc, .none, 0, .any, 0⟩,
   ⟨0x02, .u 64, .rc, .none, 0, .any, 0⟩,
   ⟨0x03, .u 32, .rc, .none, 0, .any, 0⟩,
   ⟨0x04, .u 32, .rc, .none, 0, .any, 0⟩,
   ⟨0x05, .u 32, .rc, .none, 0, .any, 0⟩,
   ⟨0x06, .u 32, .rc, .none, 0, .any, 0⟩,
   ⟨0x07, .u 64, .rc, .none, 0, .any, 0⟩,
   ⟨0x08, .u 32, .rc, .none, 0, .any, 0⟩,
   ⟨0x09, .table 1024 64 0, .ro, .none, 0, .any, 0⟩,
   ⟨0x0A, .u 64, .rc, .none, 0, .any, 0⟩,
   ⟨0x0B, .u 32, .rc, .none, 0, .any, 0⟩,
   ⟨0x0C, .u 32, .rc, .none, 0, .any, 0⟩,
   ⟨0x0D, .bool, .wo, .live, 0, .oneOf [1], 0⟩]

/-- PATTERN_LIB (0x8030). -/
def obj8030 : List ObjRow :=
  [⟨0x01, .table 49664 776 0, .rw, .commit, 0, .any, 0⟩,
   ⟨0x02, .u 8, .ro, .none, 0, .any, 0⟩,
   ⟨0x03, .u 8, .ro, .none, 16, .any, 0⟩]

/-- WATCH_STATUS (0x8040). -/
def obj8040 : List ObjRow :=
  [⟨0x01, .u 8, .ro, .none, 0, .any, 0⟩,
   ⟨0x02, .u 64, .rc, .none, 0, .any, 0⟩]

/-- ENGINE_FAULT (0x8140). -/
def obj8140 : List ObjRow :=
  [⟨0x10, .enum, .ro, .none, 0, .any, 0⟩,
   ⟨0x11, .u 8, .wo, .live, 0, .oneOf [1], 0⟩,
   ⟨0x12, .bool, .rw, .live, 1, .any, 0⟩,
   ⟨0x13, .u 8, .wo, .live, 0, .oneOf [1], 0⟩,
   ⟨0x14, .enum, .ro, .none, 0, .any, 0⟩,
   ⟨0x15, .u 32, .rw, .live, 0x7d0, .between 100 100000, 0⟩,
   ⟨0x16, .table 40 1 0, .ro, .none, 0, .any, 0⟩]

/-- OBS_CONFIG (0x9000). -/
def obj9000 : List ObjRow :=
  [⟨0x01, .enum, .rw, .live, 0, .between 0 1, 0⟩,
   ⟨0x02, .u 8, .wo, .live, 0, .oneOf [1, 2], 0⟩]

/-- PROBE (0x9010). -/
def obj9010 : List ObjRow :=
  [⟨0x01, .u 8, .rw, .live, 0, .any, 0xc0⟩,
   ⟨0x02, .bits, .rw, .live, 0x3ff, .any, 0xfffffc00⟩,
   ⟨0x03, .u 8, .rw, .live, 0, .any, 0xcc⟩,
   ⟨0x04, .u 64, .rw, .live, 0, .any, 0⟩,
   ⟨0x05, .u 64, .rw, .live, 0, .any, 0⟩,
   ⟨0x06, .u 64, .rw, .live, 0, .any, 0⟩,
   ⟨0x07, .u 64, .rw, .live, 0, .any, 0⟩,
   ⟨0x08, .enum, .rw, .live, 0, .between 0 3, 0⟩,
   ⟨0x09, .u 8, .rw, .live, 0, .between 0 16, 0⟩,
   ⟨0x0A, .u 64, .ro, .none, 0, .any, 0⟩,
   ⟨0x0B, .table 384 48 0, .ro, .none, 0, .any, 0⟩,
   ⟨0x0C, .u 32, .rc, .none, 0, .any, 0⟩]

/-- EVENT_COUNTERS (0x9020). -/
def obj9020 : List ObjRow :=
  [⟨0x01, .u 32, .rw, .live, 0, .any, 0xffc00000⟩,
   ⟨0x02, .u 32, .rw, .live, 0, .any, 0xffc00000⟩,
   ⟨0x03, .u 32, .rw, .live, 0, .any, 0xffc00000⟩,
   ⟨0x04, .u 32, .rw, .live, 0, .any, 0xffc00000⟩,
   ⟨0x05, .u 32, .rw, .live, 0, .any, 0xffc00000⟩,
   ⟨0x06, .u 32, .rw, .live, 0, .any, 0xffc00000⟩,
   ⟨0x07, .u 32, .rw, .live, 0, .any, 0xffc00000⟩,
   ⟨0x08, .u 32, .rw, .live, 0, .any, 0xffc00000⟩,
   ⟨0x09, .u 32, .rw, .live, 0, .any, 0xffc00000⟩,
   ⟨0x0A, .u 32, .rw, .live, 0, .any, 0xffc00000⟩,
   ⟨0x0B, .u 32, .rw, .live, 0, .any, 0xffc00000⟩,
   ⟨0x0C, .u 32, .rw, .live, 0, .any, 0xffc00000⟩,
   ⟨0x0D, .u 32, .rw, .live, 0, .any, 0xffc00000⟩,
   ⟨0x0E, .u 32, .rw, .live, 0, .any, 0xffc00000⟩,
   ⟨0x0F, .u 32, .rw, .live, 0, .any, 0xffc00000⟩,
   ⟨0x10, .u 32, .rw, .live, 0, .any, 0xffc00000⟩,
   ⟨0x11, .table 128 8 0, .ro, .none, 0, .any, 0⟩,
   ⟨0x12, .u 32, .rc, .none, 0, .any, 0⟩,
   ⟨0x13, .u 32, .rc, .none, 0, .any, 0⟩]

/-- COUNTER_SWEEP (0x9030). -/
def obj9030 : List ObjRow :=
  [⟨0x01, .bool, .rw, .live, 0, .any, 0⟩,
   ⟨0x02, .u 32, .rw, .commit, 0xf4240, .between 1000 1000000000, 0⟩,
   ⟨0x03, .bits, .rw, .commit, 0xffff, .any, 0xffff0000⟩,
   ⟨0x04, .u 64, .rw, .commit, 0x9ff7c0000, .any, 0xfffffff000000000⟩,
   ⟨0x05, .u 8, .rw, .commit, 0, .between 0 23, 0⟩,
   ⟨0x06, .u 64, .rw, .commit, 0, .mult 64 0 68719476735, 0⟩,
   ⟨0x07, .u 64, .rw, .commit, 0, .mult 64 0 18446744073709551615, 0⟩,
   ⟨0x08, .enum, .rw, .commit, 0, .between 0 1, 0⟩,
   ⟨0x09, .ft, .rw, .commit, 0, .any, 0⟩,
   ⟨0x0A, .u 16, .ro, .none, 192, .any, 0⟩,
   ⟨0x0B, .u 32, .ro, .none, 0, .any, 0⟩,
   ⟨0x0C, .enum, .ro, .none, 0, .any, 0⟩]

/-- EVENT_RING (0x9040). -/
def obj9040 : List ObjRow :=
  [⟨0x01, .table 4096 16 0, .ro, .none, 0, .any, 0⟩,
   ⟨0x02, .u 32, .ro, .none, 0, .any, 0⟩,
   ⟨0x03, .bool, .rw, .live, 0, .any, 0⟩,
   ⟨0x04, .enum, .ro, .none, 0, .any, 0⟩,
   ⟨0x05, .bits, .rw, .live, 127, .any, 0xffffff80⟩,
   ⟨0x06, .u 32, .rc, .none, 0, .any, 0⟩,
   ⟨0x07, .bits, .rw, .live, 1, .any, 0xfffffffc⟩]

/-- CELL_DEBUG (0x9050). -/
def obj9050 : List ObjRow :=
  [⟨0x01, .u 32, .rw, .commit, 0, .any, 0⟩,
   ⟨0x02, .u 64, .rw, .commit, 0, .mult 2048 0 18446744073709551615, 0⟩,
   ⟨0x03, .u 32, .rw, .commit, 0x1000, .pow2 4096 1073741824, 0⟩,
   ⟨0x04, .bits, .rw, .live, 0, .any, 0xffffff00⟩,
   ⟨0x05, .u 32, .rw, .live, 0x2710, .between 100 1000000, 0⟩,
   ⟨0x06, .u 32, .ro, .none, 0, .any, 0⟩,
   ⟨0x07, .u 64, .rc, .none, 0, .any, 0⟩,
   ⟨0x08, .u 32, .rw, .live, 0, .any, 0xfff00000⟩]

/-- HALT_GROUP (0x9060). -/
def obj9060 : List ObjRow :=
  [⟨0x01, .table 40 1 0, .rw, .commit, 0, .any, 0⟩,
   ⟨0x02, .bool, .rw, .commit, 1, .any, 0⟩,
   ⟨0x03, .enum, .rw, .live, 0, .between 0 1, 0⟩,
   ⟨0x04, .u 32, .ro, .none, 0, .any, 0⟩,
   ⟨0x05, .u 32, .rc, .none, 0, .any, 0⟩]

/-- HALT_STATUS (0x9070). -/
def obj9070 : List ObjRow :=
  [⟨0x01, .bits, .ro, .none, 0, .any, 0⟩,
   ⟨0x02, .bool, .ro, .none, 0, .any, 0⟩,
   ⟨0x03, .u 64, .rc, .none, 0, .any, 0⟩]

/-- CLOCK_PLAN (0xA001). -/
def objA001 : List ObjRow :=
  [⟨0x01, .u 16, .rw, .quiet, 0x44c, .mult 25 400 1100, 0⟩,
   ⟨0x02, .bool, .ro, .none, 1, .any, 0⟩,
   ⟨0x03, .u 32, .rc, .none, 0, .any, 0⟩,
   ⟨0x04, .u 64, .rc, .none, 0, .any, 0⟩,
   ⟨0x05, .u 32, .rc, .none, 0, .any, 0⟩]

/-- CLKMON (0xA002). -/
def objA002 : List ObjRow :=
  [⟨0x01, .enum, .rw, .live, 0, .between 0 2, 0⟩,
   ⟨0x02, .u 16, .rw, .live, 0, .any, 0⟩,
   ⟨0x03, .u 8, .rw, .live, 1, .between 1 16, 0⟩,
   ⟨0x04, .bool, .rw, .live, 0, .any, 0⟩]

/-- FIELD_POWER (0xA010). -/
def objA010 : List ObjRow :=
  [⟨0x01, .u 32, .rw, .live, 20, .between 0 1000000000, 0⟩,
   ⟨0x02, .u 16, .rw, .live, 64, .between 16 65535, 0⟩,
   ⟨0x03, .u 32, .rw, .live, 0x4e20, .between 1000 1000000000, 0⟩,
   ⟨0x04, .u 32, .rw, .live, 0x2710, .between 0 1000000000, 0⟩,
   ⟨0x05, .enum, .ro, .none, 0, .any, 0⟩,
   ⟨0x06, .bits, .ro, .none, 0, .any, 0⟩,
   ⟨0x07, .u 64, .rc, .none, 0, .any, 0⟩,
   ⟨0x08, .enum, .ro, .none, 0, .any, 0⟩]

/-- ENGINE_POWER (0xA011). -/
def objA011 : List ObjRow :=
  [⟨0x01, .u 32, .rw, .live, 0, .between 0 1000000000, 0⟩,
   ⟨0x02, .bool, .rw, .live, 0, .any, 0⟩,
   ⟨0x03, .u 32, .rw, .live, 0x3e8, .between 100 10000000, 0⟩,
   ⟨0x04, .enum, .ro, .none, 0, .any, 0⟩,
   ⟨0x05, .u 8, .wo, .live, 0, .oneOf [1], 0⟩,
   ⟨0x06, .enum, .ro, .none, 0, .any, 0⟩,
   ⟨0x07, .u 16, .ro, .none, 0, .any, 0⟩]

/-- FANTAIL (0xA020). -/
def objA020 : List ObjRow :=
  [⟨0x01, .u 16, .rw, .live, 0x1d4c, .between 3000 12000, 0⟩,
   ⟨0x02, .u 32, .rw, .live, 0x3e8, .between 250 100000, 0⟩,
   ⟨0x03, .u 8, .rw, .live, 25, .between 0 100, 0⟩,
   ⟨0x04, .u 32, .ro, .none, 0, .any, 0⟩,
   ⟨0x05, .u 32, .ro, .none, 0, .any, 0⟩,
   ⟨0x06, .u 64, .rc, .none, 0, .any, 0⟩,
   ⟨0x07, .u 16, .ro, .none, 0, .any, 0⟩]

/-- FIELD_FANTAIL (0xA021). -/
def objA021 : List ObjRow :=
  [⟨0x01, .u 32, .rw, .live, 0, .between 0 30000, 0⟩,
   ⟨0x02, .u 64, .ro, .none, 0, .any, 0⟩,
   ⟨0x03, .u 64, .ro, .none, 0, .any, 0⟩,
   ⟨0x04, .u 64, .ro, .none, 0, .any, 0⟩,
   ⟨0x05, .u 64, .rc, .none, 0, .any, 0⟩]

/-- FABRIC_TIME (0xA030). -/
def objA030 : List ObjRow :=
  [⟨0x01, .ft, .ro, .none, 0, .any, 0⟩,
   ⟨0x02, .ft, .wo, .quiet, 0, .any, 0⟩,
   ⟨0x03, .u 32, .rw, .live, 0x2710, .between 1000 1000000, 0⟩,
   ⟨0x04, .u 16, .rw, .live, 0, .between 0 2047, 0⟩,
   ⟨0x05, .enum, .ro, .none, 0, .any, 0⟩,
   ⟨0x06, .u 8, .ro, .none, 255, .any, 0⟩,
   ⟨0x07, .i 64, .ro, .none, 0, .any, 0⟩,
   ⟨0x08, .i 32, .ro, .none, 0, .any, 0⟩,
   ⟨0x09, .u 32, .rc, .none, 0, .any, 0⟩]

/-- FIELD_TIME (0xA031). -/
def objA031 : List ObjRow :=
  [⟨0x01, .i 32, .ro, .none, 0, .any, 0⟩,
   ⟨0x02, .u 32, .rc, .none, 0, .any, 0⟩,
   ⟨0x03, .u 64, .rc, .none, 0, .any, 0⟩]

/-- LINK_TIME (0xA032). -/
def objA032 : List ObjRow :=
  [⟨0x01, .i 32, .rw, .live, 0, .signed 1000, 0⟩,
   ⟨0x02, .u 32, .ro, .none, 0, .any, 0⟩,
   ⟨0x03, .i 32, .ro, .none, 0, .any, 0⟩,
   ⟨0x04, .u 64, .rc, .none, 0, .any, 0⟩]

/-- COMPARATOR (0xA100). -/
def objA100 : List ObjRow :=
  [⟨0x01, .ft, .rw, .live, 0, .any, 0⟩,
   ⟨0x02, .u 64, .rw, .live, 0, .orZero 1000 18446744073709551615, 0⟩,
   ⟨0x03, .bits, .rw, .live, 0, .any, 0xfffffffc⟩,
   ⟨0x04, .u 32, .rw, .live, 0, .any, 0xffe00000⟩,
   ⟨0x05, .enum, .ro, .none, 0, .any, 0⟩,
   ⟨0x06, .u 32, .rc, .none, 0, .any, 0⟩,
   ⟨0x07, .u 32, .rc, .none, 0, .any, 0⟩]

/-- FAULT_INJECT (0xF010). -/
def objF010 : List ObjRow :=
  [⟨0x01, .enum, .rw, .live, 0, .between 0 9, 0⟩,
   ⟨0x02, .u 8, .rw, .live, 0, .any, 0⟩,
   ⟨0x03, .u 64, .rw, .live, 0, .any, 0⟩,
   ⟨0x04, .u 16, .rw, .live, 1, .between 1 65535, 0⟩,
   ⟨0x05, .bool, .rw, .live, 0, .any, 0⟩,
   ⟨0x06, .bool, .rw, .live, 0, .any, 0⟩,
   ⟨0x07, .u 16, .ro, .none, 0, .any, 0⟩]

/-- The objects by base index, part 1. -/
def objDir1 : List (Nat × List ObjRow) :=
  [(0x1001, obj1001), (0x1002, obj1002), (0x1003, obj1003), (0x1004, obj1004), (0x1005, obj1005), (0x1008, obj1008), (0x2001, obj2001), (0x2002, obj2002), (0x2003, obj2003), (0x2010, obj2010), (0x2011, obj2011), (0x2012, obj2012), (0x2013, obj2013), (0x2014, obj2014), (0x2100, obj2100), (0x2200, obj2200), (0x3010, obj3010), (0x3020, obj3020), (0x4000, obj4000), (0x4001, obj4001), (0x4002, obj4002), (0x4004, obj4004), (0x4008, obj4008), (0x4010, obj4010), (0x4020, obj4020)]

/-- The objects by base index, part 2. -/
def objDir2 : List (Nat × List ObjRow) :=
  [(0x4030, obj4030), (0x4040, obj4040), (0x4050, obj4050), (0x4060, obj4060), (0x4070, obj4070), (0x4080, obj4080), (0x4100, obj4100), (0x4180, obj4180), (0x5000, obj5000), (0x5010, obj5010), (0x6000, obj6000), (0x6001, obj6001), (0x6010, obj6010), (0x6040, obj6040), (0x6100, obj6100), (0x7001, obj7001), (0x7002, obj7002), (0x7010, obj7010), (0x7020, obj7020), (0x7030, obj7030), (0x8001, obj8001), (0x8002, obj8002), (0x8020, obj8020), (0x8030, obj8030), (0x8040, obj8040)]

/-- The objects by base index, part 3. -/
def objDir3 : List (Nat × List ObjRow) :=
  [(0x9000, obj9000), (0x9010, obj9010), (0x9020, obj9020), (0x9030, obj9030), (0x9040, obj9040), (0x9050, obj9050), (0x9060, obj9060), (0x9070, obj9070), (0xA001, objA001), (0xA002, objA002), (0xA010, objA010), (0xA011, objA011), (0xA020, objA020), (0xA021, objA021), (0xA030, objA030), (0xA031, objA031), (0xA032, objA032), (0xA100, objA100), (0xF010, objF010)]

/-- The fault status objects (R360): every one has the common layout, the engine's has more. -/
def objDirFault : List (Nat × List ObjRow) :=
  [(0x8100, objFault), (0x8101, objFault), (0x8110, objFault), (0x8120, objFault), (0x8130, objFault),
   (0x8140, objFault ++ obj8140)]

/-- BOOT_IMAGE (0x1006): the sixteen pages of the boot image (R439). -/
def obj1006 : List ObjRow := (List.range 16).map (fun i => ⟨i + 1, .table 4096 1 0, .rw, .boot, 0, .any, 0⟩)

/-- The whole directory of base indices (R396). -/
def objDir : List (Nat × List ObjRow) := objDir1 ++ objDir2 ++ objDir3 ++ objDirFault ++ [(0x1006, obj1006)]

/-- Select words of the event counters after bring-up (R425, *Default counter assignment*). -/
def eventSelectDefaults : List Nat :=
  [0x003FF002, 0x003FF102, 0x003FF202, 0x003FF302, 0x003FF802, 0x003FF803, 0x003FFF04, 0x003FFF05,
   0x003FFF06, 0x00000008, 0x0000000A, 0x0000000B, 0x00000009, 0x0000000F, 0x00000011, 0x00000012]

/-- The base index of an index and the instance it names: port, core, channel, group, stack, stream and the like. -/
def objBase (idx : Nat) : Nat × Nat :=
  if 0x2100 ≤ idx ∧ idx ≤ 0x21FF then (0x2100, idx - 0x2100)
  else if 0x4004 ≤ idx ∧ idx ≤ 0x4007 then (0x4004, idx - 0x4004)
  else if 0x4008 ≤ idx ∧ idx ≤ 0x400B then (0x4008, idx - 0x4008)
  else if 0x4030 ≤ idx ∧ idx ≤ 0x4038 then (0x4030, idx - 0x4030)
  else if 0x4040 ≤ idx ∧ idx ≤ 0x4048 then (0x4040, idx - 0x4040)
  else if 0x4050 ≤ idx ∧ idx ≤ 0x4058 then (0x4050, idx - 0x4050)
  else if 0x4100 ≤ idx ∧ idx ≤ 0x413F then (0x4100, idx - 0x4100)
  else if 0x6010 ≤ idx ∧ idx ≤ 0x6027 then (0x6010, idx - 0x6010)
  else if 0x6100 ≤ idx ∧ idx ≤ 0x613F then (0x6100, idx - 0x6100)
  else if 0x8101 ≤ idx ∧ idx ≤ 0x8102 then (0x8101, idx - 0x8101)
  else if 0x9010 ≤ idx ∧ idx ≤ 0x9013 then (0x9010, idx - 0x9010)
  else if 0x9060 ≤ idx ∧ idx ≤ 0x906F then (0x9060, idx - 0x9060)
  else if 0xA100 ≤ idx ∧ idx ≤ 0xA11F then (0xA100, idx - 0xA100)
  else (idx, 0)

/-- The rows of a base index; none for an index that is not listed (R396). -/
def objRows (base : Nat) : List ObjRow := (objDir.lookup base).getD []

/-- The row of an index and subindex. -/
def objRow (idx sub : Nat) : Option ObjRow := (objRows (objBase idx).1).find? (fun r => r.sub == sub)

/-- The default of an object, with the defaults that depend on the instance (R112, R121, R425). -/
def objDefault (idx sub : Nat) : Nat :=
  let b := objBase idx
  if b.1 = 0x4004 ∧ sub = 1 then 0x3C000 + 0x800 * b.2
  else if b.1 = 0x4004 ∧ sub = 3 then 0x3FD00 + 8 * b.2
  else if idx = 0x413F ∧ sub = 1 then 1
  else if idx = 0x413F ∧ sub = 3 then 0x3E000
  else if idx = 0x413F ∧ sub = 4 then 12
  else if idx = 0x9020 ∧ 1 ≤ sub ∧ sub ≤ 0x10 then nth eventSelectDefaults (sub - 1) 0
  else match objRow idx sub with
    | some r => r.dflt
    | none => 0

/-- The byte that an empty entry of a table object reads as (R376). -/
def objEmpty (idx sub : Nat) : Byte :=
  match objRow idx sub with
  | some ⟨_, .table _ _ e, _, _, _, _, _⟩ => BitVec.ofNat 8 e
  | _ => 0

/-- Bits of the value of a scalar object, by its type (R376). -/
def OTy.width : OTy → Nat
  | .bool => 1
  | .u w => w
  | .i w => w
  | .enum => 8
  | .bits => 32
  | .ft => 64
  | .table _ _ _ => 0
  | .str _ => 0

/-- A TABLE or STR, which moves bytes and not a VALUE (R376). -/
def OTy.isBlob : OTy → Bool
  | .table _ _ _ => true
  | .str _ => true
  | _ => false

/-- The kinds of node an object can be held at (R374, R375). -/
inductive NKind where
  | engine | field | cell | drop | port
  deriving DecidableEq, Repr

/-- The kinds of node that hold a subindex (R396; R150, R213 and R280 for the window objects). -/
def objKinds (base sub : Nat) : List NKind :=
  if base = 0x2200 then (if sub = 1 ∨ sub = 8 then [.engine, .cell] else if sub ≤ 7 then [.engine] else [.cell])
  else if base = 0x5000 then
    (if sub = 1 ∨ sub = 0x1F then [.engine, .cell]
     else if sub = 0x0C ∨ 0x1E ≤ sub then [.cell] else [.engine])
  else if base = 0x6000 then
    (if sub = 1 ∨ sub = 0x0A then [.engine, .drop]
     else if sub ≤ 9 then [.engine] else [.drop])
  else if base = 0x5010 then [.port]
  else if base = 0x6040 then [.drop]
  else if base < 0x3000 then [.engine]
  else if base < 0x4000 then [.field]
  else if base < 0x5000 then [.cell]
  else if base < 0x7000 then [.engine]
  else if base = 0x7001 ∨ base = 0x7002 then [.engine]
  else if base < 0x8000 then [.port]
  else if base = 0x8001 ∨ base = 0x8002 ∨ base = 0x8030 ∨ base = 0x8140 then [.engine]
  else if base = 0x8110 then [.field]
  else if base = 0x8120 then [.drop]
  else if base = 0x8130 then [.port]
  else if base < 0x9000 then [.cell]
  else if base = 0x9010 ∨ base = 0x9020 ∨ base = 0x9040 ∨ base = 0x9050 then [.cell]
  else if base = 0x9070 then [.field]
  else if base < 0xA000 then [.engine]
  else if base = 0xA001 ∨ base = 0xA010 ∨ base = 0xA021 ∨ base = 0xA031 then [.field]
  else if base = 0xA032 then [.port]
  else if base < 0xF000 then [.engine]
  else [.cell]

/-- The rights tier a write needs: 1 OPERATE, 2 OWN, 3 FACTORY (R378, R396, R424, R363, R372). -/
def objWriteTier (base sub : Nat) : Nat :=
  if base = 0x2001 ∨ base = 0x2100 ∨ base = 0x2200 then 1
  else if base < 0x3000 then 2
  else if base = 0x3010 then 2
  else if base < 0x4000 then 1
  else if base = 0x4001 ∨ base = 0x4030 ∨ base = 0x4040 then 2
  else if base = 0x6001 then 2
  else if base < 0x7000 then 1
  else if base < 0x8000 then 2
  else if base = 0x8020 ∧ sub = 0x0D then 1
  else if 0x8100 ≤ base ∧ base < 0x9000 ∧ (sub = 1 ∨ sub = 7 ∨ sub = 8) then 1
  else if base < 0x9000 then 2
  else if base = 0x9000 ∧ sub = 1 then 2
  else if base < 0xA000 then 1
  else if base < 0xF000 then 2
  else 3

/-- A node of the dictionary (R374). -/
inductive Node where
  | engine
  | field (f : Nat)
  | cell (x y : Nat)
  deriving DecidableEq, Repr

/-- The number of a node in the register file's keys. -/
def Node.key : Node → Nat
  | .engine => 0
  | .field f => 4 * f + 1
  | .cell x y => 4 * (x + 512 * y) + 2

/-- The key of a register: node, window instance, index and subindex. -/
def regKey (n : Node) (inst idx sub : Nat) : Nat := ((n.key * 8192 + inst) * 65536 + idx) * 256 + sub

end Sys2Proof.Machine
end

