-- ==== Sys2Proof/Machine/Types.lean ====
section
/-! DEFINITION. The parts of the state, chapter by chapter, as plain data. The dictionary objects themselves live in
the register file of State.lean; these structures hold what the spec gives a unit beside its objects. -/

namespace Sys2Proof.Machine

/-! ### Chapter 5: the cell port -/

/-- A blocking wait of a core on completion counter `k` for target `v` (R115). -/
structure Wait where
  k : Nat
  v : Nat
  tag : Nat
  deadline : Nat
  deriving DecidableEq, Repr

/-- A CH_WAIT of a core on channel `n` (R133, R134). -/
structure ChWait where
  n : Nat
  tag : Nat
  deadline : Nat
  deriving DecidableEq, Repr

/-- What the cell port keeps for one core: command queue (R99), records reserved and not written (R113), producer count
(R112), consumer count last read (R113), sixteen completion counters (R115), waits, interrupt queue (R158), and the time up to which the
waiting of its queue head for ring space is counted, while it waits (0x4004.06). -/
structure CoreSt where
  queue : List Nat
  held : Nat
  prod : Nat
  cons : Nat
  ctrs : SMap Nat
  waits : List Wait
  chWaits : List ChWait
  intq : List Nat
  ringAt : Option Nat
  deriving DecidableEq, Repr

/-- One row of a table-form command (R283, R288, R289): its number, home drop, reservation, landing place and outcome. -/
structure RowSt where
  j : Nat
  row : Nat
  st : Nat
  d : Nat
  rsv : Nat
  off : Nat
  phase : Nat
  outcome : Nat
  deriving DecidableEq, Repr

/-- A live command in its slot (R100): descriptor, acceptance number, ring records still
reserved (R113), progress, failures, whether it
has begun and has reached its issue point (R462), and its reply deadline. -/
structure Cmd where
  slot : Nat
  reuse : Nat
  core : Nat
  desc : Nat
  seq : Nat
  recs : Nat
  next : Nat
  bytes : Nat
  fails : List (Nat × Nat)
  srcFail : Nat
  started : Bool
  issued : Bool
  deadline : Option Nat
  rows : List RowSt
  member : Option Coord
  deriving DecidableEq, Repr

/-- States of a reservation at its source (R168); `own` is a GET's reservation in its own router (R171), `call` and
`sent` are the two phases of a multicast reservation (R175). In `reading` the number of a scatter row is taken and its index entry is being
read (R289); in `gated` it is granted and its packets wait for those of an earlier command of the same flow (R116). -/
inductive SrcSt where
  | asked | sending | awaiting | own | call | sent | reading | gated
  deriving DecidableEq, Repr

/-- What a source reservation moves: a command's bytes, a trace chunk or a sweep record that the router itself sends
(R428, R429), a segment of an exchange epoch (R245), or
transit credit of an entry port toward an exit port (R312). -/
inductive SrcUse where
  | cmd | trace | sweep
  | segment (ctx epoch dst : Nat)
  | transit (port exit lane : Nat)
  deriving DecidableEq, Repr

/-- A reservation at its source (R168, R174): the command's TAG, index, range, destination and progress; `data` holds
the bytes of a transfer whose source is the router. -/
structure SrcRsv where
  use : SrcUse
  data : List Byte
  rsv : Nat
  tag : Nat
  idx : Nat
  base : Nat
  raddr : Nat
  size : Nat
  lease : Nat
  dest : Addr
  st : SrcSt
  deadline : Nat
  got : Nat
  ok0 : Nat
  ok : Nat
  fail : Nat
  reasons : Nat
  mid : Nat
  deriving DecidableEq, Repr

/-- What a landing reservation is for (R165, R171, R174, R289, R312). -/
inductive LKind where
  | put (addr : Nat)
  | own (addr : Nat)
  | gather (addr : Nat)
  | mcast (addr : Nat) (g : MresGrant)
  | scatter (addr tdesc sop : Nat)
  | transit (lane : Nat)
  deriving DecidableEq, Repr

/-- An entry of a request queue (R163). -/
structure LReq where
  key : RsvKey
  size : Nat
  ask : Nat
  dest : Addr
  kind : LKind
  deriving DecidableEq, Repr

/-- States of a granted reservation (R165). -/
inductive LSt where
  | granted | filling | failed
  deriving DecidableEq, Repr

/-- A granted reservation: its grains in order (none for one already freed), expiry, and bytes written (R162, R165). -/
structure LRsv where
  key : RsvKey
  size : Nat
  kind : LKind
  grains : List (Option Nat)
  st : LSt
  expiry : Nat
  lease : Nat
  written : Nat
  deriving DecidableEq, Repr

/-- A landing buffer of 16 grains with its request queue (R162, R163). -/
structure Landing where
  free : List Nat
  queue : List LReq
  rsvs : List LRsv
  deriving DecidableEq, Repr

/-- The empty landing buffer. -/
def Landing.init : Landing := ⟨[0, 1, 2, 3, 4, 5, 6, 7, 8, 9, 10, 11, 12, 13, 14, 15], [], []⟩

/-- A claim of a receive ring (R127 to R130): skip bytes before it, footprint, and what became of its message. -/
structure Claim where
  skip : Nat
  foot : Nat
  at_ : Nat
  mlen : Nat
  len : Nat
  src : SrcAddr
  tag : Nat
  typ : Nat
  trade : Bool
  done : Bool
  void : Bool
  deriving DecidableEq, Repr

/-- What a read of cell memory is for (R119): a contribution pulled for a passing sweep, a packet (TYPE, CLASS, TAG, reservation number,
OFF), a reply to the GET_REQ of `who` (TAG, reservation number, OFF), the index entry of row `j` of a table command, the data of a DICT command, the buffer of a WATCH command, the staging of slice `k` of a
deposit, a spill or check-hold record, or anything else (CONS_ADDR). -/
inductive ReadUse where
  | pull (tag k : Nat)
  | pkt (typ cls tag rsv off : Nat)
  | reply (who : SrcAddr) (tag rsv off : Nat)
  | row (tag j : Nat)
  | dict (tag : Nat)
  | watch (tag : Nat)
  | stage (tag k : Nat)
  | held
  | other
  deriving DecidableEq, Repr

/-- A granule read that the surroundings have not answered (R118, R448): the granule, its use, and the bytes `lo` to `hi` of what it is read
for that it brings. -/
structure MemRead where
  gran : Nat
  use : ReadUse
  lo : Nat
  hi : Nat
  deriving DecidableEq, Repr

/-- A granule write that the surroundings have not acknowledged, with its rank at the port (R118, R119). -/
structure MemWrite where
  gran : Nat
  rank : Nat
  deriving DecidableEq, Repr

/-- Bytes of cell memory that an operation has landed from payloads that were no whole blocks (R44): the operation's key, with RSV 64 for a
whole command, and the range. -/
structure Span where
  key : RsvKey
  lo : Nat
  hi : Nat
  deriving DecidableEq, Repr

/-- A watch attachment of FORM 1 (R111, R357). -/
structure WatchAtt where
  ctx : Nat
  epoch : Nat
  waddr : Nat
  core : Nat
  count : Nat
  deriving DecidableEq, Repr

/-- A trace chunk being filled (R428): source, bytes so far, deadline of FLUSH, bytes lost before it, and the FT of its first byte
with its stamp flags. -/
structure TraceBuf where
  source : Nat
  data : List Byte
  deadline : Nat
  lost : Nat
  started : Nat
  flags : Nat
  deriving DecidableEq, Repr

/-- A packet this router injected that is not yet accounted for (R75): its flow, the hole-map generation and time of its
injection, its TAG and reservation, and whether a command of this cell produced it. -/
structure OutPkt where
  flow : Nat
  gen : Nat
  at_ : Nat
  tag : Nat
  rsv : Nat
  control : Bool
  own : Bool
  deriving DecidableEq, Repr

/-- What the cell port and the router's cell side hold for one cell. `traceWait` holds the trace bytes of a core in stall mode that
wait for a chunk buffer (R428), `pathHeld` the packets held at the path fence, each with whether a command of this cell produced it (R75), `sweepNext` the next sample number and `sweepPend` a sample that waits for the clock (R430).
`mrd` and `mwr` are the accesses at the cell-memory port in the order they are served, `portAt` is the time from which those that wait have
not been counted (R118), and `spans` the bytes landed of blocks not yet whole (R44). -/
structure CellSt where
  cores : List CoreSt
  last : Nat
  inReset : Bool
  reuse : SMap Nat
  cmds : List Cmd
  seq : Nat
  rsvs : List SrcRsv
  landing : Landing
  claims : SMap (List Claim)
  msgUsed : Nat
  mrd : List MemRead
  mwr : List MemWrite
  bad : List Nat
  watches : List WatchAtt
  trace : List TraceBuf
  traceSeq : Nat
  traceLost : SMap Nat
  traceWait : SMap (List Byte)
  sweepNext : Nat
  sweepPend : Option Nat
  sentOut : List OutPkt
  pathHeld : List (Packet × Bool)
  portAt : Nat
  spans : List Span
  deriving DecidableEq, Repr

/-- A core after reset. -/
def CoreSt.init : CoreSt := ⟨[], 0, 0, 0, [], [], [], [], none⟩

/-- A cell after reset. -/
def CellSt.init : CellSt :=
  ⟨[CoreSt.init, CoreSt.init, CoreSt.init, CoreSt.init], 3, false, [], [], 0, [], Landing.init, [], 0, [], [], [], [],
   [], 0, [], [], 0, none, [], [], 0, []⟩

/-- The answer of a direct operation (R115, R133, R158): cell, core, the caller's tag, value, and outcome code. -/
structure Answer where
  c : Coord
  core : Nat
  tag : Nat
  value : Nat
  outcome : Nat
  deriving DecidableEq, Repr

/-! ### Chapters 2 to 4: a router's data ports -/

/-- A unit in an input buffer, decoded: its payload, whether it is poison, its side flags (R19, R37), and whether its packet is one of the
copies of a rectangle (R173). No header bit tells a copy from its packet on the way to the first corner, so the model carries that beside
the beats (log 84). -/
structure BufUnit where
  data : List Byte
  poison : Bool
  first : Bool
  last : Bool
  gust : Bool
  copy : Bool
  deriving DecidableEq, Repr

/-- One output that a packet or a signal leaves by: port, output lane, ROUTE bits written in its header, units sent (R55, R77), and whether
it leaves as a copy of a rectangle or a broadcast (R147, R173). -/
structure OutLeg where
  port : Nat
  lane : Nat
  route : RouteBits
  sent : Nat
  copy : Bool
  deriving DecidableEq, Repr

/-- The packet at the head of an input lane once a gust of it has been granted: its header as a number, LEN, outputs,
units already removed from the buffer, whether the rest is discarded (R77, R93), the units ejected so far, and the outputs a hard stop has
cut it off from (R93). -/
structure CurPkt where
  hdr : Nat
  len : Nat
  legs : List OutLeg
  base : Nat
  toss : Bool
  ejected : List BufUnit
  cuts : List Nat
  deriving DecidableEq, Repr

/-- An input lane (R21, R23, R24): buffer, LEN and units of the packet being received, discarding mark, head packet,
units freed and not yet returned, their cumulative count modulo 256 (R91, R145), and when the first of them was freed. -/
structure LaneIn where
  q : List BufUnit
  rlen : Option Nat
  rgot : Nat
  drop : Bool
  cur : Option CurPkt
  freed : Nat
  cum : Nat
  freedAt : Nat
  deriving DecidableEq, Repr

/-- An empty input lane. -/
def LaneIn.init : LaneIn := ⟨[], none, 0, false, none, 0, 0, 0⟩

/-- An input port: its lanes, the lane of a gust under way, and whether its requesters are masked (R94). -/
structure PortIn where
  lanes : SMap LaneIn
  gust : Option Nat
  masked : Bool
  deriving DecidableEq, Repr

/-- An input port after reset. -/
def PortIn.init : PortIn := ⟨[], none, false⟩

/-- A Trade claim of slot period `k` (R85): whether its requester had an eligible gust, or lacked only a permit. -/
structure TradeClaim where
  k : Nat
  seen : Bool
  power : Bool
  deriving DecidableEq, Repr

/-- A requester of an output (R77, R79, R80, R85): credit C, aging step A, lane half of its last grant, and claims. -/
structure ReqSt where
  credit : Int
  age : Nat
  lastB : Bool
  claims : List TradeClaim
  deriving DecidableEq, Repr

/-- A credit sync under way (R91): its start, the counts recorded at the marker, and the counts of the reply. -/
structure SyncSt where
  start : Nat
  marker : Option (List Nat)
  reply : Option (List Nat)
  deriving DecidableEq, Repr

/-- A gust under way at an output (R23, R78): the input and lane it comes from, the output lane, and its units not yet sent. -/
structure OpenGust where
  q : Nat
  l : Nat
  lane : Nat
  left : Nat
  deriving DecidableEq, Repr

/-- A gust in the request state that a lookahead output has sampled (R95, R96): requester, input and lane, header and first unit. -/
structure Sampled where
  rid : Nat
  q : Nat
  l : Nat
  hdr : Nat
  sent : Nat
  deriving DecidableEq, Repr

/-- An output port (R77 to R96, R145): credits and owner of each lane, requesters by number 5·input + group, saturated
queue, Control grants of the window, hard stop, headers sent and not credited back (R67), cumulative credits received
in credit beats, last CREDIT counts, a credit sync, a committed slot table not yet in force (R86) and the true time from which it is, the
gust under way, the fc count of the last window boundary, the lookahead sample with the true time it was taken, one more than the last slot
period whose claim has arisen (R85), and whether a credit beat is to be inserted and a marker to be sent as the gust under way ends (R90,
R91). -/
structure OutSt where
  credits : List Nat
  owner : SMap Nat
  reqs : SMap ReqSt
  sat : List Nat
  ctrl : Nat
  quotaHit : Bool
  hardStop : Bool
  sent : SMap (List Nat)
  got : List Nat
  lastCredit : List Nat
  sync : Option SyncSt
  slots : Option (List Byte)
  slotsAt : Nat
  gust : Option OpenGust
  window : Nat
  sample : List Sampled
  sampleAt : Nat
  claimed : Nat
  insert : Bool
  marker : Bool
  deriving DecidableEq, Repr

/-- An output port after reset: 16 credits a lane. -/
def OutSt.init : OutSt :=
  ⟨[16, 16, 16, 16, 16, 16, 16, 16, 16, 16], [], [], [], 0, false, false, [], [0, 0, 0, 0, 0, 0], [0, 0, 0, 0], none, none, 0,
    none, 0, [], 0, 0, false, false⟩

/-- A signal in a signal-net buffer as its one or two beats, with the leg it is on: ROUTE bits, the cell its leg starts from (the formats
carry neither, log 30), whether it is a copy of a broadcast (R147), the outputs it has still to leave by (none: not yet worked out),
whether it has been counted as finding the combining table full (R152), and the true time at which it was written here (R419). -/
structure BufSig where
  beats : List Nat
  route : RouteBits
  org : Coord
  copy : Bool
  left : Option (List OutLeg)
  full : Bool
  at_ : Nat
  deriving DecidableEq, Repr

/-- A signal input: buffers of eight lanes (of input 8: what the cell port issues), the first beat of a two-beat signal with its lane, none
in place of a beat that was discarded, and credits returned, cumulative modulo 256 (R142). -/
structure SigIn where
  lanes : SMap (List BufSig)
  half : Option (Nat × Option Nat)
  ret : List Nat
  deriving DecidableEq, Repr

/-- A signal input after reset. -/
def SigIn.init : SigIn := ⟨[], none, [0, 0, 0, 0, 0, 0, 0, 0]⟩

/-- A signal output: credits of eight lanes, CRL credits received modulo 256, the (input, lane) last served as 8·input + lane, and its
pending link-local signals in the order they leave (R143). -/
structure SigOut where
  credits : List Nat
  got : List Nat
  last : Nat
  stage : List Signal
  deriving DecidableEq, Repr

/-- A signal output after reset: 4 credits a lane (R142), and its round (R143) begins at input 0, lane 0 (log 2). -/
def SigOut.init : SigOut := ⟨[4, 4, 4, 4, 4, 4, 4, 4], [0, 0, 0, 0, 0, 0, 0, 0], 71, []⟩

/-- An arrival waiting in a combining table (R152, R174) for output `port` on `lane`, with the leg it goes on with; the input and lane it
came by with the ROUTE bits it had there, and whether a ring change has left its way to be found afresh (R66, R146). -/
structure Waiting where
  port : Nat
  lane : Nat
  sg : Signal
  route : RouteBits
  org : Coord
  q : Nat
  ql : Nat
  came : RouteBits
  again : Bool
  deriving DecidableEq, Repr

/-- An open phase at a barrier root (R153): the end of its lease and the value combined so far (minimum and maximum for
MINMAX). -/
structure BarSt where
  deadline : Nat
  lo : Nat
  hi : Nat
  deriving DecidableEq, Repr

/-- A halt group as a router holds it: state and T of the last HALT applied (R434). -/
structure HaltSt where
  on : Bool
  t : Nat
  deriving DecidableEq, Repr

/-- What a router holds for its ports: data inputs and outputs, signal inputs and outputs, combining table, in-service
holes whose RING_CHANGE it has applied (R66), the halt groups it has seen, the cached anycast winners (R73: 0 none
yet, 1 no winner, member + 2), and the headers whose ejection has taken room at the cell or drop and that the receiver has not yet taken
(R128, R163, R284), with ROUTE 0. -/
structure RtrSt where
  ins : SMap PortIn
  outs : SMap OutSt
  sins : SMap SigIn
  souts : SMap SigOut
  comb : List Waiting
  applied : List Coord
  halts : SMap HaltSt
  wins : SMap Nat
  due : List Nat
  deriving DecidableEq, Repr

/-- A router after reset. -/
def RtrSt.init : RtrSt := ⟨[], [], [], [], [], [], [], [], []⟩

/-- A data beat on a wire, named by the input it will reach (R18), and whether its packet is a copy of a rectangle (R173, log 84). -/
structure WireBeat where
  c : Coord
  port : Nat
  cw : List Byte
  side : Nat
  copy : Bool
  deriving DecidableEq, Repr

/-- A signal beat on a wire, named by the input it will reach, with the leg of its signal and whether it is a copy of a broadcast (R140,
R147, log 30). -/
structure WireSig where
  c : Coord
  port : Nat
  cw : List Byte
  side : Nat
  route : RouteBits
  org : Coord
  copy : Bool
  deriving DecidableEq, Repr

/-- A hole of HOLE_MAP (R57): origin 0 defect map, 1 self-test, 2 fenced in service, 3 stranded; and whether a drop that was live then stood at
it, which the live-drop maps of routers lose one by one (R278). -/
structure HoleRec where
  c : Coord
  origin : Nat
  gen : Nat
  drop : Bool
  deriving DecidableEq, Repr

/-- A reclose under way (R66): the hole and the neighbours frozen toward it as (cell, port code). -/
structure Reclose where
  hole : Coord
  frozen : List (Coord × Nat)
  deriving DecidableEq, Repr

/-- A router's fantail allotment (R415), in tenths of a pJ: what is left of A and T, the charge granted and denied in
this window, and the gusts denied (header and unit). -/
structure Permit where
  a : Nat
  t : Nat
  spent : Nat
  denied : Nat
  deniedGusts : List (Nat × Nat)
  deriving DecidableEq, Repr

/-! ### Chapter 12: a drop port -/

/-- What a base-die transaction serves (R279, R283, R293, R295): a GET_REQ entry, a coalescer entry, a landed payload of a
reservation, the write-back of a table's row, the reservation `k` of stream `m`, or the drop handshake of bring-up (R445). -/
inductive TxnUse where
  | get (id : Nat)
  | row (id : Nat)
  | put (key : RsvKey)
  | flush (tdesc : Nat)
  | unlock (tdesc : Nat)
  | stream (m k : Nat)
  | boot
  deriving DecidableEq, Repr

/-- A base-die transaction (R275): code, granule, the bytes and byte mask of a write, what it serves, which granule of
that it is, its tag, its time of issue, and whether TXN_TIMEOUT has passed. -/
structure Txn where
  code : Nat
  gran : Nat
  data : List Byte
  mask : List Bool
  use : TxnUse
  i : Nat
  tag : Nat
  at_ : Nat
  late : Bool
  deriving DecidableEq, Repr

/-- A GET_REQ in the drop request queue (R279, R284): its packet, the granules read so far, whether it failed. -/
structure DropGet where
  id : Nat
  pkt : Packet
  got : List (Option (List Byte))
  sent : List Nat
  deriving DecidableEq, Repr

/-- A table descriptor in force. -/
structure Tbl where
  stackBits : Nat
  base : Nat
  rows : Nat
  rowBytes : Nat
  fmt : Nat
  scatter : Nat
  cache : Bool
  window : Nat
  deriving DecidableEq, Repr

/-- A coalescer entry, or a request served alone (`pooled` false) (R285): key, the arming held when it came (R282), granules, time opened,
joined requests; `stale` where the row has been written back, or a flush has ended, since it was read (R286). -/
structure Coal where
  id : Nat
  tdesc : Nat
  arm : Tbl
  row : Nat
  got : List (Option (List Byte))
  err : Bool
  opened : Nat
  joined : List Packet
  pooled : Bool
  shut : Bool
  held : Bool
  stale : Bool
  deriving DecidableEq, Repr

/-- A cached row (R286). -/
structure CacheRow where
  tdesc : Nat
  row : Nat
  data : List Byte
  deriving DecidableEq, Repr

/-- An accumulation entry (R290): accumulators or MAX values, element statuses, flags, rows merged, its blocks, and whether a word of it
is uncorrectable (log 120). -/
structure AccEnt where
  tdesc : Nat
  row : Nat
  epoch : Nat
  sop : Nat
  vals : List Int
  sts : List Nat
  flags : Nat
  n : Nat
  blocks : Nat
  bad : Bool := false
  deriving DecidableEq, Repr

/-- A flush at a drop (R292, R293): epoch, FLUSH_REQ, the scatter reservations granted before it, whether write-back has
begun, the row being written with its granules read and whether one could not be read, rows written, flags, and whether a written row's home was elsewhere. -/
structure DropFlush where
  tdesc : Nat
  epoch : Nat
  req : Packet
  wait : List RsvKey
  busy : Bool
  cur : Option AccEnt
  got : List (Option (List Byte))
  bad : Bool
  rows : List Nat
  flags : Nat
  lost : Bool
  remapped : Bool
  deriving DecidableEq, Repr

/-- A flush at the lead drop (R292): the drops that have not answered, the OR of the answers, rows, start and the write
to answer. -/
structure LeadFlush where
  tdesc : Nat
  epoch : Nat
  tag : Nat
  start : Nat
  open_ : List Coord
  status : Nat
  rows : Nat
  req : DictReq
  deriving DecidableEq, Repr

/-- A reservation of a memory stream (R295): bytes, phase (0 called, 1 reading and sending, 2 awaiting, 3 ended), answers,
reasons, granules read, packets sent, deadline. -/
structure StreamRsv where
  k : Nat
  base : Nat
  size : Nat
  phase : Nat
  ok0 : Nat
  fail0 : Nat
  ok1 : Nat
  fail1 : Nat
  reasons : Nat
  got : List (Option (List Byte))
  sent : List Nat
  deadline : Nat
  deriving DecidableEq, Repr

/-- A running memory stream (R295), with the TAG of its packets, which the spec does not give. -/
structure StreamSt where
  m : Nat
  tag : Nat
  rsvs : List StreamRsv
  deriving DecidableEq, Repr

/-- What a drop port holds beside its objects: landing buffer, request queue of GET_REQs, base-die transactions waiting
for a tag and outstanding, coalescer entries, hot-row cache (least recently gathered first), accumulation entries, open
epochs by table, flushes with FLUSH_REQs queued behind them, flushes it leads, granule locks, streams, the time up to which
waiting for a tag has been counted, and the tables it leads whose next flush has lost entries (R297). -/
structure DropSt where
  landing : Landing
  gets : List DropGet
  todo : List Txn
  txns : List Txn
  ents : List Coal
  cache : List CacheRow
  acc : List AccEnt
  epochs : SMap Nat
  flushes : List DropFlush
  flushQ : List Packet
  leads : List LeadFlush
  locks : List Nat
  streams : List StreamSt
  next : Nat
  waitAt : Nat
  lost : List Nat
  deriving DecidableEq, Repr

/-- A drop after bring-up. -/
def DropSt.init : DropSt := ⟨Landing.init, [], [], [], [], [], [], [], [], [], [], [], [], 0, 0, []⟩

/-! ### Chapters 9 to 11 and 14: collectives -/

/-- One anchor block: anchor byte (or the scale byte of a raw MX block), 32 values (accumulators, FP32 words or element
encodings), and 32 statuses (R193 to R195). -/
structure Blk where
  a : Nat
  vals : List Int
  sts : List Nat
  deriving DecidableEq, Repr

/-- A partial of one slice: for each anchor block what is held, with its COUNT; and the slice flags, INC as bit 5 (R193). -/
structure Part where
  cells : List (Option (Blk × Nat))
  flags : Nat
  deriving DecidableEq, Repr

/-- What a committed context keeps from its commit: the holes of that moment (R215) and the values of DUAL_CONFIG
(R340): CHECK_WAIT, THIRD_WAIT, HOLD_ADDR, HOLD_RECORDS. -/
structure ArmSt where
  holes : List Coord
  checkWait : Nat
  thirdWait : Nat
  holdAddr : Nat
  holdRecs : Nat
  deriving DecidableEq, Repr

/-- A member's deposit record of one slice (R109, R223, R343): its command's TAG, place, time of deposit, staged bytes
(a STAGED slot), declared anchors, the blocks not yet merged into the anchor pass, the value reduction and the check
reduction, whether a contribution was merged or sent at all, whether it failed, has its verdict, is taken, has its output
(INCOMPLETE, with AEX), its watch record, was refused at the root, and belongs to a command that has completed; when its bytes were last
asked of cell memory, whether they have been read (R119), and whether they are to be sent as LATE (R237) or for the third computation (R347)
once they are. -/
structure Dep where
  tag : Nat
  ctx : Nat
  epoch : Nat
  k : Nat
  addr : Nat
  at_ : Nat
  raw : Option (List Byte)
  decl : List Nat
  aLeft : List Nat
  vLeft : List Nat
  cLeft : List Nat
  sent : Bool
  failed : Bool
  verdict : Bool
  taken : Bool
  landed : Bool
  inc : Bool
  aex : Bool
  watched : Bool
  refused : Bool
  closed : Bool
  asked : Option Nat
  read : Bool
  late : Bool
  third : Bool
  deriving DecidableEq, Repr

/-- What a slot beside STAGED holds (R230): a half held at a member (`half`, a row half; `col`, a column half at a
gathering or member router), a row partial, or a root's slice. `lost` is no slot: it is a root's slice whose spill record failed its CRC,
which has still its lease to run (R234, R239). -/
inductive SlotKind where
  | half | col | row | root | lost
  deriving DecidableEq, Repr

/-- A HELD or ROOT slot, or a spilled slice in its record (R230, R234). `ph` is the computation: 0 anchor pass, 1 value
reduction, 2 check reduction, 3 third computation. `joined` says that a column half has taken the row partial; `wait` is
the end of the wait budget, 0 for none. -/
structure PSlot where
  ph : Nat
  ctx : Nat
  epoch : Nat
  k : Nat
  share : Nat
  kind : SlotKind
  part : Part
  own : Bool
  halves : Nat
  joined : Bool
  src : SrcAddr
  tag : Nat
  wait : Nat
  first : Nat
  expiry : Nat
  spill : Option Nat
  deriving DecidableEq, Repr

/-- An entry of the owed table (R236), of the value and check reductions (`ph` 1) or the anchor pass (0). -/
structure OwedEnt where
  ph : Nat
  ctx : Nat
  epoch : Nat
  k : Nat
  n : Nat
  at_ : Nat
  deriving DecidableEq, Repr

/-- What a gathering router knows of a slice's row (R224): halves accounted, whether the column half has passed, and when
the first row half arrived. -/
structure Gath where
  ph : Nat
  ctx : Nat
  epoch : Nat
  k : Nat
  halves : Nat
  passed : Bool
  first : Nat
  deriving DecidableEq, Repr

/-- A slice of an epoch. -/
structure SliceId where
  ctx : Nat
  epoch : Nat
  k : Nat
  deriving DecidableEq, Repr

/-- Anchor bytes kept with a slice (R229). -/
structure AnchEnt where
  id : SliceId
  bytes : List Nat
  deriving DecidableEq, Repr

/-- Anchor bytes that have come in pieces of a slice, none where a block is still to come (R195, R229). -/
structure AnchPart where
  id : SliceId
  cells : List (Option Nat)
  deriving DecidableEq, Repr

/-- A result of which some blocks have landed (R195, R218): the blocks that have, and the flags of their pieces. -/
structure LandPart where
  id : SliceId
  blks : List Nat
  flags : Nat
  deriving DecidableEq, Repr

/-- An output slice that has ended at its member (R109, R241): landed, INCOMPLETE, with AEX. -/
structure LandEnt where
  id : SliceId
  bytes : Bool
  inc : Bool
  aex : Bool
  deriving DecidableEq, Repr

/-- A slice in the check hold (R345, R346): its record, its state (`third`: AWAIT_THIRD), the end of its wait, what has
arrived of the check partial and of the third partial, and the number of its capture. -/
structure HoldEnt where
  id : SliceId
  recNo : Nat
  third : Bool
  deadline : Nat
  check : Part
  thirdP : Part
  element : Option Nat
  deriving DecidableEq, Repr

/-- A segment of an exchange being sent (R245): destination index, the cell it goes to, bytes reserved so far, reservations sent and ended,
failure. -/
structure SegSt where
  dst : Nat
  dest : Addr
  next : Nat
  sentN : Nat
  ended : Nat
  failed : Bool
  deriving DecidableEq, Repr

/-- An exchange epoch at a member (R245, R268): barrier generation, local release (0 waiting, 1 COMPLETE, 2 TIMEOUT), system
release (0 waiting, 1 given, 2 incomplete), segments begun. -/
structure ExSt where
  ctx : Nat
  epoch : Nat
  gen : Nat
  local_ : Nat
  system : Nat
  segs : List SegSt
  deriving DecidableEq, Repr

/-- Header fields of a Collective packet that do not depend on its payload. -/
structure CollHdr where
  typ : Nat
  dest : Addr
  src : SrcAddr
  tag : Nat
  ctx : Nat
  epoch : Nat
  level : Nat
  phase : Nat
  pass : Bool
  deriving DecidableEq, Repr

/-- A partial of slice `k` about to leave a router (R228); `late` says that it leaves as LATE. -/
structure OutPart where
  h : CollHdr
  fmt : Nat
  k : Nat
  part : Part
  late : Bool
  deriving DecidableEq, Repr

/-- A segment of an exchange that lands at a cell (R219, R245): its sender, epoch and destination index, and its reservations landed. -/
structure SegIn where
  src : SrcAddr
  ctx : Nat
  epoch : Nat
  dst : Nat
  n : Nat
  deriving DecidableEq, Repr

/-- What a router holds for collectives. `outq` holds the partials that leave while the slices of one packet are handled, none in between
(R228), `segsIn` the segments that have begun to land (R219). `done` lists (computation, slice) completed here as root; `raws` the
unconverted LATE packets that wait for the anchors of a slice they name (R237), `anchParts` and `landParts` the anchors and results that have
come in part (R195). -/
structure CollSt where
  deps : List Dep
  slots : List PSlot
  owed : List OwedEnt
  gaths : List Gath
  done : List (Nat × SliceId)
  anchors : List AnchEnt
  lands : List LandEnt
  epochs : List (Nat × Nat)
  raws : List (Nat × Packet)
  holds : List HoldEnt
  exch : List ExSt
  outq : Option (List OutPart)
  segsIn : List SegIn
  anchParts : List AnchPart
  landParts : List LandPart
  deriving DecidableEq, Repr

/-- A router that has taken part in nothing. -/
def CollSt.init : CollSt := ⟨[], [], [], [], [], [], [], [], [], [], [], none, [], [], []⟩

/-! ### Chapter 17: a field's clock, power controller and fabric time -/

/-- What a field holds beside its objects: the true time of its last lock (its fc count starts there, R398), whether its
clock is stopped and since when, whether it failed to relock (R399), its fabric-time offset from true time with the correction
still to be slewed and the rate correction, each with the time from which it runs (R418 to R421), the end of its last stretch
and every stretch since its last lock as start, end and the ns it added (R400), the start of its idle and Breeze times (R406), the end of its entry to Lull, its WAKE holds as (state, expiry) (R408),
and its fantail: budget, the allotments of its routers, charge granted and denied in the present window, demand over the share
period, and its share as a fraction (R412 to R415). `countedAt` is the time up to which its clock counts stand in the event
counters (R425); `boot` is its place in bring-up (R442): 0 not begun, 1 waiting for FIELD_PG, 2 its PLL starting, 3 ready, since
`bootAt`; `pg` is FIELD_PG. -/
structure FieldSt where
  lockTime : Nat
  stopped : Bool
  stopAt : Nat
  dead : Bool
  off : Int
  slew : Int
  slewAt : Nat
  rate : Int
  rateAt : Nat
  stretchEnd : Nat
  stretches : List (Nat × Nat × Nat)
  idleSince : Nat
  breezeSince : Nat
  lullDue : Nat
  wakeHolds : List (Nat × Nat)
  budget : Nat
  permits : SMap Permit
  demand : Nat
  shareNum : Nat
  shareDen : Nat
  overClear : Bool
  countedAt : Nat
  boot : Nat
  bootAt : Nat
  pg : Bool
  deriving DecidableEq, Repr

/-- A field before its first bring-up. -/
def FieldSt.init : FieldSt := ⟨0, false, 0, false, 0, 0, 0, 0, 0, 0, [], 0, 0, 0, [], 0, [], 0, 0, 0, false, 0, 0, 0, false⟩

/-- The offset of the field's FT from true time at time `t` (R418, R419, R421): steps, the part of a slew made so far (1 ns in 100,
after a time at half rate where it is more than 1,000 ns ahead), and what the rate correction has added. -/
def FieldSt.offAt (q : FieldSt) (t : Nat) : Int :=
  let dt : Int := (t - q.slewAt : Nat)
  let part : Int :=
    if q.slew < -1000 then
      let h := -q.slew - 1000
      if dt < 2 * h then -(dt / 2) else -h - min 1000 ((dt - 2 * h) / 100)
    else if q.slew < 0 then -(min (-q.slew) (dt / 100))
    else min q.slew (dt / 100)
  q.off + part + ((t - q.rateAt : Nat) : Int) * q.rate / 2 ^ 40

/-- The ns that stretched fc have added up to time `t` (R400): a stretch adds its part evenly over its fc. -/
def FieldSt.stretched (q : FieldSt) (t : Nat) : Nat :=
  q.stretches.foldl (fun n e => n + if e.2.1 ≤ t then e.2.2 else (t - e.1) * e.2.2 / max 1 (e.2.1 - e.1)) 0

/-- The ns that stretched fc add to fc that take `d` ns of the nominal clock from time `t` (R400). -/
def FieldSt.stretchIn (q : FieldSt) (t d : Nat) : Nat :=
  q.stretches.foldl (fun n e =>
    let whole := e.2.1 - e.1
    let plain := whole - e.2.2
    let from_ := max t e.1
    n + min (t + d + n - from_) ((e.2.1 - from_) * plain / max 1 whole) * e.2.2 / max 1 plain) 0

/-! ### Chapters 11 and 13: link ports -/

/-- A key of one direction (R305): key, IV, TXC (sender: frames sent; receiver: least count not yet passed), key phase. -/
structure KeySt where
  key : List Byte
  iv : List Byte
  count : Nat
  kp : Bool
  deriving DecidableEq, Repr

/-- The null key of R305. -/
def KeySt.null : KeySt := ⟨List.replicate 32 0, List.replicate 12 0, 0, false⟩

/-- A packet on its way out by a port: lane (class and engine lane), units placed in frames, whether it is a transit packet,
and, where relay forwards it, the port and lane whose receive buffer it leaves (R334). -/
structure TxPkt where
  pkt : Packet
  lane : Nat
  sent : Nat
  transit : Bool
  origin : Option (Nat × Nat)
  deriving DecidableEq, Repr

/-- A signal on its way out by a port: engine lane b, whether it is in transit, and how many of its signal units have gone (R306). -/
structure TxSig where
  sg : Signal
  laneB : Bool
  transit : Bool
  sent : Nat
  deriving DecidableEq, Repr

/-- An item that relay forwards, in arrival order (R334): a packet, or the one or two beats of a signal unit with their engine lane and the
port and class whose receive buffer they leave. -/
inductive RelayItem where
  | pkt (t : TxPkt)
  | unit (beats : List Nat) (laneB : Bool) (origin : Option (Nat × Nat))
  deriving DecidableEq, Repr

/-- A frame in the replay buffer (R308): its SEQ, KIND and plain body, how often it was sent, and the packets whose header
unit lies in it. -/
structure ReplayEnt where
  seq : Nat
  kind : Nat
  body : List (List Byte)
  times : Nat
  heads : List Packet
  deriving DecidableEq, Repr

/-- A message being assembled from fragments (R316). -/
structure RxMsg where
  typ : Nat
  len : Nat
  bytes : List Byte
  deriving DecidableEq, Repr

/-- A packet being received from the partner on a lane (R306): header, units so far, whether it is poisoned, and whether its units are
discarded because its header could not be used (R37). -/
structure RxPkt where
  hdr : Nat
  len : Nat
  units : List (List Byte)
  poison : Bool
  toss : Bool
  deriving DecidableEq, Repr

/-- A packet in the receive buffer, with its lane, and whether its credits are still to be returned on the link that brought it (R332). -/
structure RxEnt where
  pkt : Packet
  lane : Nat
  counted : Bool
  deriving DecidableEq, Repr

/-- What an end holds of its handshake (R316 to R319): the HELLO and CERT of both ends, its ephemeral private key, its PROOF
and the partner's, the finish key, and how far it has come. -/
structure HsSt where
  own : Option Hello
  partner : Option Hello
  partnerCert : Option (List Byte)
  leaf : List Byte
  priv : Nat
  proofOwn : List Byte
  proofPartner : Option (List Byte)
  finKey : List Byte
  finSeq : Option Nat
  finAcked : Bool
  finSeen : Bool
  deriving DecidableEq, Repr

/-- No handshake. -/
def HsSt.init : HsSt := ⟨none, none, none, [], 0, [], none, [], none, false, false⟩

/-- A key update under way (R319): the random, private key and public key of the REKEY this end has sent. -/
structure RekeySt where
  random : List Byte
  priv : Nat
  epub : List Byte
  deriving DecidableEq, Repr

/-- A transit grant: at an exit port its ledger entry, at an entry port the credit held (R312). -/
structure TransitGrant where
  key : RsvKey
  port : Nat
  lane : Nat
  units : Nat
  expiry : Nat
  deriving DecidableEq, Repr

/-- An engine's contribution at a station (R258, R261): computation (0 anchors, 1 values), level, slice, the staged partial,
its time, and whether it was merged or sent. -/
structure LvOwn where
  ph : Nat
  level : Nat
  id : SliceId
  part : Option Part
  carrier : Bool
  at_ : Nat
  sent : Bool
  deriving DecidableEq, Repr

/-- Consecutive slices of a context for which a station owes its engine (R236, R261). -/
structure LvOwed where
  ph : Nat
  level : Nat
  ctx : Nat
  epoch : Nat
  k : Nat
  n : Nat
  deriving DecidableEq, Repr

/-- A half held at a station, or a slice at a level root (R260). -/
structure LvSlot where
  ph : Nat
  level : Nat
  id : SliceId
  root : Bool
  share : Nat
  part : Part
  wait : Nat
  expiry : Nat
  src : SrcAddr
  deriving DecidableEq, Repr

/-- What a port's link pond holds (R260): contributions, slots, slices completed at a level root as (computation, level, slice),
the system anchors of slices, and the 256-entry owed table. -/
structure LvSt where
  owns : List LvOwn
  slots : List LvSlot
  done : List (Nat × Nat × SliceId)
  anchors : List AnchEnt
  owed : List LvOwed
  deriving DecidableEq, Repr

/-- What a link port holds beside its objects (chapter 13). `since` is when it entered its state; `wantNak` asks for NAK in its
next frame, `nakAt` is when it last did; `freed` and `told` are the cumulative credit counts of the 12 classes as freed and
as last sent; `credits` and `got` those of the sender; `arb` holds the transmit requesters of R310; `echo` is what the next TIME frame
echoes, `flaggedTx` the last T_TX stamps that carried a flag (R335, R420). `msgq` holds fragments of messages that wait for room in the replay
buffer (R308), `relayq` what relay forwards (R334), `rxs` the signals that wait in the receive buffer for the wake from Calm (R410),
`rxCount` the items received of each class, `dataSince` the DATA frames since the last credit unit and `freedAt` the time of the first
change since (R307); `stallAt` is the time from which items of each class have waited with their credits unchanged, `progAt` that of the last
ACK progress and `lastRx` that of the last verified frame (R331). -/
structure PortSt where
  since : Nat
  upAt : Nat
  announced : Bool
  ownLanes : Nat
  partnerLanes : Nat
  widening : Bool
  hs : HsSt
  tx : KeySt
  rx : KeySt
  rxNew : Option KeySt
  rxOld : Option (KeySt × Nat)
  rekey : Option RekeySt
  seqNext : Nat
  expect : Nat
  replay : List ReplayEnt
  ackAt : Nat
  wantNak : Bool
  nakAt : Nat
  hunt : Option Nat
  msg : Option RxMsg
  inbox : List (Nat × List Byte)
  rxLanes : SMap (Option RxPkt)
  rxq : List RxEnt
  freed : List Nat
  told : List Nat
  credits : List Nat
  got : List Nat
  txq : List TxPkt
  sigq : List TxSig
  arb : SMap ReqSt
  sat : List Nat
  ctrl : Nat
  window : Nat
  ledger : List TransitGrant
  tcred : List TransitGrant
  treq : List LReq
  viols : List Nat
  flaps : List Nat
  holdMul : Nat
  echo : Option (Nat × Nat × Bool × Bool)
  flaggedTx : List Nat
  lv : LvSt
  msgq : List (List (List Byte))
  relayq : List RelayItem
  rxs : List TxSig
  rxCount : List Nat
  dataSince : Nat
  freedAt : Nat
  stallAt : List Nat
  progAt : Nat
  lastRx : Nat
  deriving DecidableEq, Repr

/-- Twelve zero counts. -/
def counts0 : List Nat := List.replicate 12 0

/-- A port after reset. -/
def PortSt.init : PortSt :=
  ⟨0, 0, false, 0xFF, 0, false, HsSt.init, KeySt.null, KeySt.null, none, none, none, 0, 0, [], 0, false, 0, none, none, [], [],
    [], counts0, counts0, counts0, counts0, [], [], [], [], 0, 0, [], [], [], [], [], 1, none, [], ⟨[], [], [], [], []⟩, [], [], [], counts0, 0, 0,
    counts0, 0, 0⟩

/-- A frame that a port has sent. -/
structure SentFrame where
  port : Nat
  frame : Frame
  deriving DecidableEq, Repr

/-! ### Chapters 15 to 20: what the engine holds as a whole -/

/-- A stored link-state note with the time it came (R322). -/
structure NoteEnt where
  note : Note
  at_ : Nat
  deriving DecidableEq, Repr

/-- A requester's selection in a window object at a node (R150, R213, R280). -/
structure SelEnt where
  who : Requester
  node : Node
  idx : Nat
  v : Nat
  deriving DecidableEq, Repr

/-- A staged write of a commit group (R382): the object, and a scalar's `value` or the `data` of a TABLE or STR at byte `off`. -/
structure Staged where
  node : Node
  inst : Nat
  idx : Nat
  sub : Nat
  value : Nat
  blob : Bool
  off : Nat
  data : List Byte
  tend : Bool
  deriving DecidableEq, Repr

/-- An open commit group (R382): its requester, when it was opened, and its writes in order. -/
structure Group where
  who : Requester
  at_ : Nat
  writes : List Staged
  deriving DecidableEq, Repr

/-- The commit under way (R383): its group, the write that ordered it, the start of its present round, and its generation once it
has one. -/
structure Commit where
  group : Group
  req : DictReq
  start : Nat
  gen : Option Nat
  deriving DecidableEq, Repr

/-- A request at the agent of field `f` whose segments are incomplete (R388). -/
structure PartReq where
  f : Nat
  req : DictReq
  at_ : Nat
  deriving DecidableEq, Repr

/-- A management request that waits for its reply (R393): the bytes that its response repeats, and when it was sent. -/
structure MgmtOut where
  head : List Byte
  at_ : Nat
  deriving DecidableEq, Repr

/-- A TIME exchange on the parent port (R420). -/
structure Exch where
  port : Nat
  a1 : Nat
  b0 : Nat
  b1 : Nat
  a2 : Nat
  deriving DecidableEq, Repr

/-- The test access port (R460, R461): the instruction in force, whether it was turned into BYPASS for want of its condition, the
boundary register, what SAMPLE captured, the value of the data register selected, and whether the pins are driven from the
boundary register. -/
structure TapSt where
  ir : Nat
  refused : Bool
  boundary : List Bool
  captured : List Bool
  dr : Nat
  driven : Bool
  deriving DecidableEq, Repr

/-- What the engine holds beside its objects: whether AON_PG is high, the TEST_MODE pin (R458), when the present DRAIN step and
bring-up step began (R372, R441), its link-state notes: NSEQ and time of its last one, the STATE it announces, the stored ones,
and whether its coordinates count as established (R320 to R322); the dictionary: selections, groups, commits, incomplete
requests, data segments that came before their turn with their two beats and time (R388), FREQ writes to be answered at the lock (R398), management requests, what the management port has sent, its endpoint
ID and dynamic address; the engine state it wakes from, comparators whose INT waits for the wake (R417), since when the conditions of Calm have held (R407), the slices of which an injection with NO_STRIKE falsified a merge (R373), the beacon number and
whether the next one steps (R418, R419), the last fantail window counted as throttled, TIME
exchanges (R420), the first sample of the sweep and one more than the latest one begun (R429), drops that answered the handshake (R445), how often the way out of this engine has changed (R75, R324, R326), and the test access port. -/
structure EngSt where
  powered : Bool
  testMode : Bool
  drainAt : Nat
  stepAt : Nat
  nseq : Nat
  noteAt : Nat
  noteState : Nat
  notes : List NoteEnt
  discovered : Bool
  selects : List SelEnt
  groups : List Group
  commit : Option Commit
  commitQ : List DictReq
  partials : List PartReq
  segs : List (Nat × Nat × Nat)
  freqReqs : List (Nat × DictReq)
  mgmt : List MgmtOut
  mgmtSent : List (List Byte)
  eid : Nat
  dynAddr : Option Nat
  wakeFrom : Nat
  compInts : List Nat
  calmSince : Option Nat
  quiet : List SliceId
  beaconSeq : Nat
  beaconStep : Bool
  winAt : Nat
  exchanges : List Exch
  sweepFrom : Nat
  sweepLast : Nat
  bootDrops : List (Nat × Nat)
  routeGen : Nat
  tap : TapSt
  late : List (Nat × Staged)
  deriving DecidableEq, Repr

/-- The engine before power-up. -/
def EngSt.init : EngSt :=
  ⟨false, false, 0, 0, 0, 0, 0, [], false, [], [], none, [], [], [], [], [], [], 0, none, 0, [], none, [], 0, false, 0, [], 0, 0, [], 0,
    ⟨2, false, [], [], 0, false⟩, []⟩

end Sys2Proof.Machine
end

