-- ==== Sys2Proof/Machine/State.lean ====
section
/-! DEFINITION. The state of the block as plain data, the reasons a step stops, and the state after reset. Every
dictionary object has ONE home: the register file, keyed by node, window instance, index and subindex: `regs` holds the
scalars, `tabs` the bytes of the tables software writes, `recs` the entries of the tables the block writes (counters,
captures, event rings). What is not listed holds the object's default. -/

namespace Sys2Proof.Machine

/-- The licensee build options (R4): field columns, field rows, fitted stacks, ports per edge, pond KiB. -/
structure Build where
  fx : Nat
  fy : Nat
  stackMap : Nat
  linkEdges : Nat
  pondKib : Nat
  deriving DecidableEq, Repr

/-- A fault block: its node, status object, and the cell its signals and stamps name (R361, R362). -/
structure FaultBlock where
  node : Node
  idx : Nat
  cell : Coord
  deriving DecidableEq, Repr

/-- Why a command stops with a fault. -/
inductive Fault where
  /-- Raised by every meaning whose operand names a cell, core, port, field, drop, port code or other unit that the
  build does not have: the command has no receiver. Safe: nothing the hardware can do is left out. -/
  | noSuchUnit (what : String)
  deriving DecidableEq, Repr

/-- Why a command is refused. -/
inductive Refusal where
  /-- Raised by an arm of `exec` that has no meaning yet; the text is the row's mnemonic. Safe: nothing is claimed. -/
  | notModelled (mnemonic : String)
  deriving DecidableEq, Repr

/-- The state of the block and, in `cellMem`, of the cell memories it reads and writes. -/
structure State where
  build : Build
  time : Nat
  regs : SMap Nat
  tabs : SMap Memory
  recs : SMap (List Nat)
  strikes : SMap (List Nat)
  cells : SMap CellSt
  cellMem : SMap Memory
  fields : SMap FieldSt
  holes : List HoleRec
  badTracks : List (Axis × Coord)
  badStops : List (Axis × Coord)
  rtrs : SMap RtrSt
  wires : List WireBeat
  sigWires : List WireSig
  recloses : List Reclose
  fences : List FaultBlock
  bars : SMap BarSt
  route : RouteView
  armed : SMap (Option ArmSt)
  colls : SMap CollSt
  drops : SMap DropSt
  ports : SMap PortSt
  linkOut : List SentFrame
  eng : EngSt
  flight : List Packet
  sigs : List Signal
  answers : List Answer
  freeCtr : Nat
  pending : List Instr
  deriving DecidableEq, Repr

/-- The build of stepping A1: ONG-W480 (R1, R4). -/
def Build.w480 : Build := ⟨20, 16, 0x00FFFFFF, 0x14141C1C, 64⟩

/-- The block before AON_PG first rises: every object at its default, nothing queued, nothing in flight (R6, R436). -/
def State.reset : State :=
  { build := Build.w480, time := 0, regs := [], tabs := [], recs := [], strikes := [], cells := [], cellMem := [],
    fields := [], holes := [], badTracks := [], badStops := [], rtrs := [], wires := [],
    sigWires := [], recloses := [], fences := [], bars := [], route := RouteView.init, armed := [], colls := [], drops := [], ports := [], linkOut := [], eng := EngSt.init, flight := [], sigs := [], answers := [], freeCtr := 0, pending := [] }

end Sys2Proof.Machine
end

