-- ==== Sys2Proof/Machine/Ops.lean ====
section
/-! DEFINITION. The named operations every meaning is made of: units of the grid, the register file, cells and cores,
cell memory, fabric time and stamps, event counters and rings, signals, and fault events. -/

namespace Sys2Proof.Machine

/-! ### The grid (R4, R8) -/

/-- Grid columns X = 24·FX (R4). -/
def State.gx (s : State) : Nat := 24 * s.build.fx

/-- Grid rows Y = 20·FY (R4). -/
def State.gy (s : State) : Nat := 20 * s.build.fy

/-- Fields of the build, FX·FY (R5). -/
def State.nFields (s : State) : Nat := s.build.fx * s.build.fy

/-- Is the cell in the grid (R6)? -/
def State.inGrid (s : State) (c : Coord) : Bool := decide (c.x < s.gx) && decide (c.y < s.gy)

/-- The field of a cell, fy·FX + fx (R8). -/
def State.fieldOf (s : State) (c : Coord) : Nat := c.y / 20 * s.build.fx + c.x / 24

/-- The agent cell of a field (R389). -/
def State.agentCell (s : State) (f : Nat) : Coord := ⟨24 * (f % s.build.fx), 20 * (f / s.build.fx)⟩

/-- The alternate agent cell of a field (R389). -/
def State.altAgentCell (s : State) (f : Nat) : Coord := ⟨24 * (f % s.build.fx) + 23, 20 * (f / s.build.fx) + 19⟩

/-- Is the cell a hole of the engine (R57)? -/
def State.isHole (s : State) (c : Coord) : Bool := s.holes.any (fun h => h.c == c)

/-- The cell that a field's agent works from (R362, R389): its agent cell, or the alternate where that is a hole. -/
def State.agentAt (s : State) (f : Nat) : Coord := if s.isHole (s.agentCell f) then s.altAgentCell f else s.agentCell f

/-- Field columns that hold stacks, and field rows (R4). -/
def stackCols : List Nat := [2, 5, 8, 11, 14, 17]

/-- Field rows that hold stacks (R4). -/
def stackRows : List Nat := [2, 6, 9, 13]

/-- Is stack position `i` fitted (R4, R6)? -/
def State.stackFitted (s : State) (i : Nat) : Bool := decide (i < 24) && bit s.build.stackMap i

/-- Link ports of the four edges in the order top, bottom, left, right (R6, R300). -/
def State.edgePorts (s : State) : List Nat :=
  [bits s.build.linkEdges 0 8, bits s.build.linkEdges 8 8, bits s.build.linkEdges 16 8, bits s.build.linkEdges 24 8]

/-- Link ports of the build, L (R4). -/
def State.nPorts (s : State) : Nat := s.edgePorts.foldl (· + ·) 0

/-- Pond slots of a router, P / 2 KiB (R5). -/
def State.pondSlots (s : State) : Nat := s.build.pondKib / 2

/-- The key of a cell in the maps of the state. -/
def cellKey (c : Coord) : Nat := c.x + 512 * c.y

/-- The cell node of a cell (R374). -/
def cellNode (c : Coord) : Node := .cell c.x c.y

/-- All cells of a rectangle of columns and rows, row by row. -/
def rectCells (x0 y0 x1 y1 : Nat) : List Coord :=
  (List.range (y1 + 1 - y0)).flatMap (fun j => (List.range (x1 + 1 - x0)).map (fun i => ⟨x0 + i, y0 + j⟩))

/-! ### The register file -/

/-- The value in force of a scalar object. -/
def State.reg (s : State) (n : Node) (inst idx sub : Nat) : Nat :=
  SMap.get (objDefault idx sub) s.regs (regKey n inst idx sub)

/-- Set a scalar object. -/
def State.setReg (s : State) (n : Node) (inst idx sub v : Nat) : State :=
  { s with regs := SMap.put (objDefault idx sub) s.regs (regKey n inst idx sub) v }

/-- Bits of the value of an object; 64 where the object is no scalar. -/
def objWidth (idx sub : Nat) : Nat :=
  match objRow idx sub with
  | some r => if r.ty.isBlob then 64 else r.ty.width
  | none => 64

/-- Add to a counter, which wraps at its width. -/
def State.bump (s : State) (n : Node) (inst idx sub k : Nat) : State :=
  s.setReg n inst idx sub ((s.reg n inst idx sub + k) % 2 ^ objWidth idx sub)

/-- The bytes of a table that software writes. -/
def State.tab (s : State) (n : Node) (inst idx sub : Nat) : Memory := SMap.get [] s.tabs (regKey n inst idx sub)

/-- Replace the bytes of a table that software writes. -/
def State.setTab (s : State) (n : Node) (inst idx sub : Nat) (m : Memory) : State :=
  { s with tabs := SMap.put [] s.tabs (regKey n inst idx sub) m }

/-- `k` bytes of such a table from byte `a`. -/
def State.tabBytes (s : State) (n : Node) (inst idx sub a k : Nat) : List Byte :=
  Memory.readN (objEmpty idx sub) (s.tab n inst idx sub) a k

/-- The little-endian number in `k` bytes of such a table. -/
def State.tabNat (s : State) (n : Node) (inst idx sub a k : Nat) : Nat := leNat (s.tabBytes n inst idx sub a k)

/-- The entries of a table that the block writes. -/
def State.recList (s : State) (n : Node) (inst idx sub : Nat) : List Nat := SMap.get [] s.recs (regKey n inst idx sub)

/-- Replace the entries of a table that the block writes. -/
def State.setRecs (s : State) (n : Node) (inst idx sub : Nat) (l : List Nat) : State :=
  { s with recs := SMap.put [] s.recs (regKey n inst idx sub) l }

/-- Entry `i` of such a table, 0 where it is not held. -/
def State.recAt (s : State) (n : Node) (inst idx sub i : Nat) : Nat := nth (s.recList n inst idx sub) i 0

/-- Set entry `i` of such a table of `len` entries. -/
def State.setRecAt (s : State) (n : Node) (inst idx sub len i v : Nat) : State :=
  let l := s.recList n inst idx sub
  s.setRecs n inst idx sub (setAt (l ++ List.replicate (len - l.length) 0) i v)

/-- Append an entry, keeping the `cap` newest. -/
def State.pushRec (s : State) (n : Node) (inst idx sub cap v : Nat) : State :=
  let l := s.recList n inst idx sub ++ [v]
  s.setRecs n inst idx sub (l.drop (l.length - cap))

/-- Is the object staged in the group of a commit that has been ordered and not yet applied, so that it counts as in use by the
commit (R386)? -/
def State.inCommit (s : State) (idx inst : Nat) : Bool :=
  match s.eng.commit with
  | some m => m.gen.isNone && m.group.writes.any (fun w => w.idx == idx && w.inst == inst)
  | none => false

/-! ### Cells and cores -/

/-- What a cell's port holds. -/
def State.cell (s : State) (c : Coord) : CellSt := SMap.get CellSt.init s.cells (cellKey c)

/-- Replace what a cell's port holds. -/
def State.setCell (s : State) (c : Coord) (v : CellSt) : State :=
  { s with cells := SMap.put CellSt.init s.cells (cellKey c) v }

/-- Change what a cell's port holds. -/
def State.modCell (s : State) (c : Coord) (f : CellSt → CellSt) : State := s.setCell c (f (s.cell c))

/-- What the port holds for one core. -/
def CellSt.coreSt (q : CellSt) (i : Nat) : CoreSt := nth q.cores i CoreSt.init

/-- What the port of a cell holds for one core. -/
def State.core (s : State) (c : Coord) (i : Nat) : CoreSt := (s.cell c).coreSt i

/-- Change what the port holds for one core. -/
def State.modCore (s : State) (c : Coord) (i : Nat) (f : CoreSt → CoreSt) : State :=
  s.modCell c (fun q => { q with cores := setAt q.cores i (f (q.coreSt i)) })

/-- Record the answer of a direct operation. -/
def State.answer (s : State) (c : Coord) (core tag value outcome : Nat) : State :=
  { s with answers := s.answers ++ [⟨c, core, tag, value, outcome⟩] }

/-! ### Cell memory (R118, R119, R448) -/

/-- Bytes of a cell memory (256 KiB). -/
def cellBytes : Nat := 0x40000

/-- The memory of a cell. -/
def State.mem (s : State) (c : Coord) : Memory := SMap.get [] s.cellMem (cellKey c)

/-- `n` bytes of a cell's memory from offset `a`; a byte nothing has written reads 0 (DESIGN CHOICE, log 4). -/
def State.memRead (s : State) (c : Coord) (a n : Nat) : List Byte := Memory.readN 0 (s.mem c) a n

/-- The little-endian number in `n` bytes of a cell's memory. -/
def State.memNat (s : State) (c : Coord) (a n : Nat) : Nat := leNat (s.memRead c a n)

/-- The 64-byte granules that `n` bytes from `a` touch. -/
def granules (a n : Nat) : List Nat :=
  if n = 0 then [] else (List.range ((a + n - 1) / 64 + 1 - a / 64)).map (fun i => a / 64 + i)

/-- Rank of a read at the cell-memory port (R119); one that the table does not name ranks with the injection of other packets. -/
def ReadUse.rank : ReadUse → Nat
  | .pull .. | .held => 1
  | .pkt _ cls _ _ _ => if cls = 3 then 2 else 3
  | .reply .. | .row .. | .dict _ => 3
  | _ => 4

/-- An access joins those at the port (R119, R448): behind the one being served and those of its rank or a better one. -/
def portJoin {α : Type} (rank : α → Nat) (x : α) : List α → List α
  | [] => [x]
  | h :: l => h :: (l.takeWhile (fun y => decide (rank y ≤ rank x)) ++ x :: l.dropWhile (fun y => decide (rank y ≤ rank x)))

/-- The true time at which the fc after the present one of a field ends. -/
def State.nextFc (s : State) (f : Nat) : Nat := s.time + cdiv 1000 (s.reg (.field f) 0 0xA001 1)

/-- Does any access wait at the cell-memory port? -/
def CellSt.portBusy (q : CellSt) : Bool := ! q.mrd.isEmpty || ! q.mwr.isEmpty

/-- Accesses join an idle port: from the end of their own fc on they wait (R118). -/
def State.portStart (s : State) (c : Coord) : State :=
  if (s.cell c).portBusy then s else s.modCell c (fun q => { q with portAt := s.nextFc (s.fieldOf c) })

/-- Issue the granule reads of a range on the cell-memory port (R118), for a use of which it brings the bytes from `at_` on. -/
def State.issueReadAt (s : State) (c : Coord) (a n at_ : Nat) (use : ReadUse) : State :=
  (s.portStart c).modCell c (fun q => { q with
    mrd := (granules a n).foldl (fun l g =>
      portJoin (fun r => r.use.rank) ⟨g, use, at_ + (64 * g - a), at_ + min n (64 * g + 64 - a)⟩ l) q.mrd })

/-- Issue the granule reads of a range that a use begins with. -/
def State.issueRead (s : State) (c : Coord) (a n : Nat) (use : ReadUse) : State := s.issueReadAt c a n 0 use

/-- Does a range hold a granule whose last read the surroundings flagged (R119)? -/
def State.memBad (s : State) (c : Coord) (a n : Nat) : Bool :=
  (granules a n).any (fun g => (s.cell c).bad.contains g)

/-- Store bytes in a cell's memory and issue the granule writes of a rank (R119); a granule written whole is no longer flagged. -/
def State.memWriteAs (s : State) (c : Coord) (rank a : Nat) (bs : List Byte) : State :=
  let s := { s with cellMem := SMap.put [] s.cellMem (cellKey c) (Memory.writeN 0 (s.mem c) a bs) }
  (s.portStart c).modCell c (fun q => { q with
    mwr := (granules a bs.length).foldl (fun l g => portJoin MemWrite.rank ⟨g, rank⟩ l) q.mwr,
    bad := q.bad.filter (fun g => ! (decide (a ≤ 64 * g) && decide (64 * g + 64 ≤ a + bs.length))) })

/-- Store bytes in a cell's memory as the landing of a payload does (rank 2 of R119). -/
def State.memWrite (s : State) (c : Coord) (a : Nat) (bs : List Byte) : State := s.memWriteAs c 2 a bs

/-! ### Fabric time and stamps (R422) -/

/-- What a field holds. -/
def State.field (s : State) (f : Nat) : FieldSt := SMap.get FieldSt.init s.fields f

/-- Change what a field holds. -/
def State.modField (s : State) (f : Nat) (g : FieldSt → FieldSt) : State :=
  { s with fields := SMap.put FieldSt.init s.fields f (g (s.field f)) }

/-- A field's fabric time (FT, R8, R418). -/
def State.ft (s : State) (f : Nat) : Nat := (((s.time : Int) + (s.field f).offAt s.time) % ((2 ^ 64 : Nat) : Int)).toNat

/-- A field's fabric time at a true time. -/
def State.ftAt (s : State) (f t : Nat) : Nat := (((t : Int) + (s.field f).offAt t) % ((2 ^ 64 : Nat) : Int)).toNat

/-- The least number from `lo` up to `hi` that a test holds of, if it holds from some number on and of `hi`. -/
def firstFrom (test : Nat → Bool) : Nat → Nat → Nat → Nat
  | 0, _, hi => hi
  | fuel + 1, lo, hi =>
    if hi ≤ lo then hi
    else
      let m := (lo + hi) / 2
      if test m then firstFrom test fuel lo m else firstFrom test fuel (m + 1) hi

/-- The true time at which a field's fabric time reaches `g` (R164), as its clock stands: its slew runs at half rate at the slowest (R419). -/
def State.whenFt (s : State) (f g : Nat) : Nat :=
  firstFrom (fun t => decide (g ≤ s.ftAt f t)) 80 s.time (s.time + 2 * (g - s.ft f) + (g - s.ft f) / 1000 + 16)

/-- Time has come to the moment at which a field's fabric time reaches `g`. -/
def State.awaitFt (s : State) (f g : Nat) : State := if g ≤ s.ft f then s else { s with time := max s.time (s.whenFt f g) }

/-- The field clock in MHz (R397). -/
def State.freq (s : State) (f : Nat) : Nat := s.reg (.field f) 0 0xA001 1

/-- The count that a field's clock has reached at time `t`, from its last lock (R398), with what stretched fc have taken (R400). -/
def State.fcAt (s : State) (f t : Nat) : Nat :=
  (t - (s.field f).lockTime - (s.field f).stretched t) * s.freq f / 1000

/-- Count the fc that have ended since accesses began to wait at a cell-memory port, in each of which nothing was served (0x4000.07, R118).
A read of the count does so too. -/
def State.countStalls (s : State) (c : Coord) : State :=
  let q := s.cell c
  let f := s.fieldOf c
  if ! q.portBusy ∨ s.time ≤ q.portAt then s
  else (s.bump (cellNode c) 0 0x4000 7 (s.fcAt f s.time - s.fcAt f q.portAt)).modCell c (fun q => { q with portAt := s.time })

/-- Count the fc in which a core's queue head has waited for ring space up to now (0x4004.06), and whether it still waits. -/
def State.countRing (s : State) (c : Coord) (core : Nat) (still : Bool) : State :=
  let f := s.fieldOf c
  let s := match (s.core c core).ringAt with
    | some t => s.bump (cellNode c) 0 (0x4004 + core) 6 (s.fcAt f s.time - s.fcAt f t)
    | none => s
  s.modCore c core (fun k => { k with ringAt := if still then some s.time else none })

/-- A number of fc of a field in ns of its nominal clock, rounded up. -/
def State.fcNs (s : State) (f n : Nat) : Nat := cdiv (n * 1000) (s.freq f)

/-- fc the field's clock has made since its last lock (R398). -/
def State.fcCount (s : State) (f : Nat) : Nat := s.fcAt f s.time

/-- The time `n` fc of a field after time `t`, fc that are stretched among them (R400). -/
def State.fcAfter (s : State) (f t n : Nat) : Nat := t + s.fcNs f n + (s.field f).stretchIn t (s.fcNs f n)

/-- The time at which the fc count of a field is `n` (R398). -/
def State.fcTime (s : State) (f n : Nat) : Nat := s.fcAfter f (s.field f).lockTime n

/-- Does the fabric clock of a field run (R398, R399, R407, R449)? -/
def State.clockRuns (s : State) (f : Nat) : Bool :=
  ! (s.field f).stopped && ! decide (s.reg .engine 0 0xA011 4 = 1) && ! decide (s.reg .engine 0 0xA011 4 = 2)

/-- What a router's clock drives waits while the clock of its field is stopped (R12, R398, R399). -/
def State.clocked (s : State) (c : Coord) (t : State) : State := if s.clockRuns (s.fieldOf c) then t else s

/-- The power state of a field (0xA010.05): 0 RUN, 1 BREEZE, 2 LULL, 3 ENTERING, 4 WAKING. -/
def State.power (s : State) (f : Nat) : Nat := s.reg (.field f) 0 0xA010 5

/-- The stamp flag STRETCH (R422): an fc was lengthened within the last 16 fc. -/
def State.stretchFlag (s : State) (f : Nat) : Bool :=
  decide ((s.field f).stretchEnd ≠ 0) && decide (s.time < s.fcAfter f (s.field f).stretchEnd 16)

/-- The stamp flag HELD (R422): the unit's clock was stopped or gated. -/
def State.heldFlag (s : State) (f : Nat) : Bool :=
  (s.field f).stopped || decide (s.power f = 2) || decide (s.reg .engine 0 0xA011 4 = 1) ||
    decide (s.reg .engine 0 0xA011 4 = 2)

/-! ### Event counters and last-events rings (R425, R432) -/

/-- Count `k` events of code `ev` at a router, for port code `q` and lane `lane` (R425). -/
def State.countEvent (s : State) (c : Coord) (ev q lane k : Nat) : State :=
  let n := (cellNode c)
  let vals := s.recList n 0 0x9020 0x11
  let hit := fun i =>
    let w := s.reg n 0 0x9020 (1 + i)
    decide (bits w 0 8 = ev) && (decide (6 < ev) || decide (bits w 8 4 = 15) || decide (bits w 8 4 = q)) &&
      (! (decide (ev = 2) || decide (ev = 3)) || bit (bits w 12 10) lane)
  if (List.range 16).any hit then
    s.setRecs n 0 0x9020 0x11
      ((List.range 16).map (fun i => if hit i then (nth vals i 0 + k) % 2 ^ 64 else nth vals i 0))
  else s

/-- The category bit of an event code (R432, *Event codes*). -/
def eventCategory (ev : Nat) : Nat :=
  if ev = 1 ∨ ev = 0x0A then 0 else if ev = 2 then 1 else if ev = 3 ∨ ev = 4 then 2
  else if ev = 5 ∨ ev = 6 then 3 else if ev = 7 then 4 else if ev = 8 then 5 else 6

/-- Does the node of this cell hold a drop or link port, whose ring has 256 entries (R432, log 20)? Drop cells lie in
stack fields, gateway cells on an edge. -/
def State.ringCap (s : State) (c : Coord) : Nat :=
  if c.x = 0 ∨ c.y = 0 ∨ c.x + 1 = s.gx ∨ c.y + 1 = s.gy then 256
  else if stackCols.contains (c.x / 24) && stackRows.contains (c.y / 20) then 256 else 64

/-- Record an event in the last-events ring of a cell's node (R432). -/
def State.ringEvent (s : State) (c : Coord) (ev whr detail : Nat) : State :=
  let n := (cellNode c)
  let f := s.fieldOf c
  if ! bit (s.reg n 0 0x9040 5) (eventCategory ev) then s
  else if s.reg n 0 0x9040 3 = 1 then s.bump n 0 0x9040 6 1
  else
    let e := pack [(0, 64, s.ft f), (64, 8, ev), (72, 4, whr), (76, 1, b2n (s.stretchFlag f)),
      (77, 1, b2n (s.heldFlag f)), (80, 48, detail)]
    (s.pushRec n 0 0x9040 1 (s.ringCap c) e).bump n 0 0x9040 2 1

/-- Freeze the ring of a cell's node with a cause (R432). -/
def State.freezeRing (s : State) (c : Coord) (cause : Nat) : State :=
  (s.setReg (cellNode c) 0 0x9040 3 1).setReg (cellNode c) 0 0x9040 4 cause

/-! ### Signals -/

/-- The number of this engine (R26). -/
def State.engine (s : State) : Nat := s.reg .engine 0 0x7001 1

/-- Gateway cell `i` of a link port (R300). -/
def State.gatewayCell (s : State) (p i : Nat) : Coord :=
  let e := portEdge s.edgePorts 0 p
  edgeCell s.gx s.gy e.1 e.2 i

/-- The node of a link port: the gateway cell of its lane 0 (R375). -/
def State.portNode (s : State) (p : Nat) : Node := cellNode (s.gatewayCell p 0)

/-- What a link port holds. -/
def State.port (s : State) (p : Nat) : PortSt := SMap.get PortSt.init s.ports p

/-- Change what a link port holds. -/
def State.modPort (s : State) (p : Nat) (f : PortSt → PortSt) : State :=
  { s with ports := SMap.put PortSt.init s.ports p (f (s.port p)) }

/-- The party a signal that may cross engines is for, and where it comes from (R144, R306); none for every other signal. -/
def sigParties : Signal → Option (SrcAddr × Option SrcAddr)
  | .nack n => some (n.target, some n.raiser)
  | .delivered d => some (d.target, some d.origin)
  | .int t o _ => some (t, some o)
  | .wake t o _ => some (t, some o)
  | .dictReq r => some (⟨r.eng, r.cell % 512, r.cell / 512, 0, false⟩, some ⟨r.who.eng, r.who.x, r.who.y, r.who.core, false⟩)
  | .dictRsp r => some (⟨r.who.eng, r.who.x, r.who.y, r.who.core, false⟩, none)
  | _ => none

/-- Signals that stand in a port's signal queue (R312): every pair of beats of a DICT signal is one. -/
def PortSt.sigsHeld (q : PortSt) : Nat := q.sigq.foldl (fun n t => n + (cdiv (sigBeats t.sg).length 2 - t.sent)) 0

/-- A signal for another engine joins the signal queue of its exit port, on the engine lane of its hop (R306, R325, R326); none
where no route leads there (R324). `arr` is the trunk it arrived on. A transit signal that finds 256 waiting is discarded
(R312). -/
def State.exitSig (s : State) (sg : Signal) (t : SrcAddr) (o : Option SrcAddr) (arr : Option (Nat × Nat)) (transit : Bool) :
    Option State :=
  let src := o.getD ⟨s.engine, 0, 0, 0, false⟩
  match s.route.exitPort src ⟨t.eng, t.x, t.y, 0⟩ arr with
  | none => none
  | some (p, _) =>
    let b := match s.route.next t.eng arr with
      | .trunk d dir => s.route.laneB src.eng d dir
      | _ => false
    if transit && decide (256 ≤ (s.port p).sigsHeld) then
      some (s.bump (s.portNode p) 0 0x7020 0x0C 1)
    else some (s.modPort p (fun q => { q with sigq := q.sigq ++ [⟨sg, b, transit, 0⟩] }))

/-- What a router holds. -/
def State.rtr (s : State) (c : Coord) : RtrSt := SMap.get RtrSt.init s.rtrs (cellKey c)

/-- Change what a router holds. -/
def State.modRtr (s : State) (c : Coord) (f : RtrSt → RtrSt) : State :=
  { s with rtrs := SMap.put RtrSt.init s.rtrs (cellKey c) (f (s.rtr c)) }

/-- The lane pair a signal is issued on (R142): lane a of its class. -/
def issueLane (sg : Signal) : Nat := 2 * (sopClass (sigSop sg)).getD 0

/-- The buffered signals that a signal is issued as at cell `c` (R140, R388): one, or one for each pair of beats of a DICT signal. -/
def issueBeats (c : Coord) (now : Nat) (sg : Signal) : List BufSig :=
  let bs := sigBeats sg
  (List.range (cdiv bs.length 2)).map (fun i => ⟨(bs.drop (2 * i)).take 2, ⟨0, false, 0⟩, c, false, none, false, now⟩)

/-- A router issues a laned signal (R142): its beats join lane a of its class at the router's own signal input, from which the signal stage
takes them like any other. -/
def State.sendSig (s : State) (c : Coord) (sg : Signal) : State :=
  let l := issueLane sg
  s.modRtr c (fun r =>
    let i := SMap.get SigIn.init r.sins 8
    { r with sins := SMap.put SigIn.init r.sins 8 { i with
      lanes := SMap.put [] i.lanes l (SMap.get [] i.lanes l ++ issueBeats c s.time sg) } })

/-- The SRC address word of a cell and core of this engine (R26). -/
def State.srcOf (s : State) (c : Coord) (core : Nat) : SrcAddr := ⟨s.engine, c.x, c.y, core, false⟩

/-- The cell an address of this engine names. -/
def srcCell (a : SrcAddr) : Coord := ⟨a.x, a.y⟩

/-- The cell a DEST names. -/
def destCell (a : Addr) : Coord := ⟨a.x, a.y⟩

/-- Take one copy of a signal out of flight: it has been received. -/
def State.takeSig (s : State) (sg : Signal) : State := { s with sigs := s.sigs.erase sg }

/-- A header with ROUTE 0, which names a packet whatever hop it is on. -/
def bareHeader (p : Packet) : Nat := headerBits { p with route := ⟨0, false, 0⟩ }

/-- The room that the ejection of a packet took is the receiver's own account now (R128). -/
def State.takeDue (s : State) (p : Packet) : State :=
  s.modRtr ⟨p.dest.x, p.dest.y⟩ (fun r => { r with due := r.due.erase (bareHeader p) })

/-- Take one copy of a packet out of flight: it has been received. -/
def State.takePkt (s : State) (p : Packet) : State := ({ s with flight := s.flight.erase p } : State).takeDue p

/-- Raise a NACK to the source of a packet (R131, R144); a Collective packet raises none. VAR of a GATHER_REQ or GATHER_DATA is the
packet's OFF. -/
def State.raiseNack (s : State) (c : Coord) (raiser : SrcAddr) (p : Packet) (reason chstate var : Nat) : State :=
  if p.cls = 2 then s
  else
    let chan := match p.tail with
      | .transfer t => t.rsv
      | .message t => t.chan
      | .table t => t.rsv
      | _ => 0
    let var := match p.tail with
      | .table t => if p.typ = 5 ∨ p.typ = 0x14 then t.off else var
      | _ => var
    (s.sendSig c (.nack ⟨reason, p.tag, p.src, raiser, p.typ, chan, chstate, var⟩)).countEvent c 9 0 0 1

/-! ### Fault events (R360 to R362) -/

/-- The fault block of a router. -/
def routerBlock (c : Coord) : FaultBlock := ⟨(cellNode c), 0x8100, c⟩

/-- The fault block of millstone lane `i` of a router. -/
def laneBlock (c : Coord) (i : Nat) : FaultBlock := ⟨(cellNode c), 0x8101 + i, c⟩

/-- The fault block of a field. -/
def State.fieldBlock (s : State) (f : Nat) : FaultBlock := ⟨.field f, 0x8110, s.agentAt f⟩

/-- The fault block of the engine. -/
def State.engineBlock (s : State) : FaultBlock := ⟨.engine, 0x8140, s.agentAt 0⟩

/-- The node word of a node (R374). -/
def Node.word : Node → Nat
  | .engine => 0
  | .field f => 1 + 4 * f
  | .cell _ _ => 2

/-- Raise the interrupt of a fault block to its INT_TARGET, if that is VALID (R362). -/
def State.faultInt (s : State) (b : FaultBlock) : State :=
  let t := s.reg b.node 0 b.idx 7
  if bit t 20 then
    s.sendSig b.cell (.int ⟨s.engine, bits t 0 9, bits t 9 9, bits t 18 2, false⟩ (s.srcOf b.cell 0)
      (b.node.word + b.idx * 65536))
  else s

/-- An event of a cause, with the effects of R362. -/
def State.faultEvent (s : State) (b : FaultBlock) (cause whr detail : Nat) : State :=
  let n := b.node
  let f := s.fieldOf b.cell
  let old := s.reg n 0 b.idx 1
  let t := s.ft f
  let flags := b2n (s.stretchFlag f) + 2 * b2n (s.heldFlag f)
  let st := s.reg n 0 b.idx 13
  let s := (s.setReg n 0 b.idx 1 (setBit old cause)).bump n 0 b.idx 3 1
  let s := s.setReg n 0 b.idx 5 t
  let s := if old = 0 then s.setReg n 0 b.idx 4 t else s
  let s := s.setReg n 0 b.idx 13 ((if old = 0 then flags else st % 4) + 4 * flags)
  let s := if old = 0 then s.setRecs n 0 b.idx 6 [] else s
  let s := s.pushRec n 0 b.idx 6 4 (pack [(0, 5, cause), (8, 4, whr), (16, 48, detail), (64, 64, t)])
  let s := match n with
    | .cell _ _ =>
      let s := s.ringEvent b.cell 2 whr (cause + 32 * (detail % 2 ^ 43))
      if bit (s.reg n 0 0x9040 7) 0 then s.freezeRing b.cell 1 else s
    | _ => s
  if ! bit old cause && bit (s.reg n 0 b.idx 8) cause then s.faultInt b else s

/-- Set or clear the CAUSE_PRESENT bit of a live cause (R361). -/
def State.faultLive (s : State) (b : FaultBlock) (cause : Nat) (on : Bool) : State :=
  let v := s.reg b.node 0 b.idx 2
  s.setReg b.node 0 b.idx 2 (if on then setBit v cause else clrBit v cause)

/-- The SRC of a packet as the key of a reservation holds it: header SRC[31] is reserved and ignored (R8, R26), and MEM_MCAST packets
match the reservations whose SOURCE has bit 31 set (R177). -/
def keySrc (p : Packet) : SrcAddr := { p.src with stream := decide (p.typ = 0x16) }

/-- TAG and TYPE of a packet as a capture entry's DETAIL holds them (R360). -/
def pktDetail (p : Packet) : Nat := p.tag % 65536 + 65536 * (p.typ % 64)

/-- A value that the spec leaves unstated: the state's counter picks it and advances (log 1). -/
def State.fresh (s : State) : Nat × State :=
  ((Config.free64 s.freeCtr).toNat, { s with freeCtr := s.freeCtr + 1 })

/-- An armed injection of a kind at a node, if this is its next opportunity (R373): its PATTERN and NO_STRIKE. Kinds 7 to 9
name no place; kind 5 takes any. -/
def State.takeInject (s : State) (n : Node) (kind whr : Nat) : Option (Nat × Bool) × State :=
  if s.eng.testMode && decide (s.reg n 0 0xF010 5 = 1) && decide (s.reg n 0 0xF010 1 = kind) &&
      (decide (5 ≤ kind ∧ kind ≠ 6) || decide (s.reg n 0 0xF010 2 % 16 = whr)) then
    let done := s.reg n 0 0xF010 7 + 1
    let s := s.setReg n 0 0xF010 7 done
    let s := if s.reg n 0 0xF010 4 ≤ done then s.setReg n 0 0xF010 5 0 else s
    (some (s.reg n 0 0xF010 3, decide (s.reg n 0 0xF010 6 = 1)), s)
  else (none, s)

/-- Record a correction as wear on a block (R37, R141). -/
def State.wear (s : State) (b : FaultBlock) (k : Nat) : State := s.bump b.node 0 b.idx 10 k

/-- Does any fault block hold a STATUS bit, which drives FAULT_N low (R364)? -/
def State.anyFault (s : State) : Bool :=
  s.regs.any (fun kv => decide (kv.1 % 256 = 1) &&
    [0x8100, 0x8101, 0x8102, 0x8110, 0x8120, 0x8130, 0x8140].contains (kv.1 / 256 % 65536) && decide (kv.2 ≠ 0))

end Sys2Proof.Machine
end

