-- ==== Sys2Proof/Machine/Operands.lean ====
section
/-! DEFINITION. The operand forms of the cell port: the 64-byte command descriptor (R101 to R111), field by field, and
the checks of *Refusal details* that look at the descriptor alone (R34, R100, R102). -/

namespace Sys2Proof.Machine

/-- OP of a descriptor (R101): 1 PUT, 2 GET, 3 SEND, 4 MCAST, 5 DEPOSIT, 6 SIGNAL, 7 FENCE, 8 DICT, 9 WATCH. -/
def dOp (d : Nat) : Nat := bits d 0 6
/-- CLASS. -/
def dClass (d : Nat) : Nat := bits d 6 2
/-- CMPL: write a final record on success. -/
def dCmpl (d : Nat) : Bool := bit d 8
/-- TB. -/
def dTb (d : Nat) : Bool := bit d 9
/-- FORM. -/
def dForm (d : Nat) : Nat := bits d 10 2
/-- CTR: the completion counter. -/
def dCtr (d : Nat) : Nat := bits d 12 4
/-- UTAG. -/
def dUtag (d : Nat) : Nat := bits d 16 16
/-- DEST. -/
def dDest (d : Nat) : Addr := addrOf (bits d 32 32)
/-- LADDR, with the bits [103:82] that must be zero. -/
def dLaddr (d : Nat) : Nat := bits d 64 40

/-- RADDR of PUT and GET FORM 0. -/
def dRaddr (d : Nat) : Nat := bits d 128 40
/-- SIZE of PUT and GET FORM 0. -/
def dSize (d : Nat) : Nat := bits d 168 19
/-- LEASE of PUT and GET FORM 0. -/
def dLease (d : Nat) : Nat := bits d 187 14

/-- X1 of MCAST. -/
def dX1 (d : Nat) : Nat := bits d 128 9
/-- Y1 of MCAST. -/
def dY1 (d : Nat) : Nat := bits d 137 9
/-- RADDR of MCAST. -/
def dMRaddr (d : Nat) : Nat := bits d 146 18
/-- SIZE of MCAST. -/
def dMSize (d : Nat) : Nat := bits d 164 19
/-- LEASE of MCAST. -/
def dMLease (d : Nat) : Nat := bits d 183 14

/-- TDESC of the table forms. -/
def dTdesc (d : Nat) : Nat := bits d 128 10
/-- IDXADDR of the table forms. -/
def dIdx (d : Nat) : Nat := bits d 138 40
/-- NROWS of the table forms. -/
def dRows (d : Nat) : Nat := bits d 178 11
/-- SOP of the table forms. -/
def dSop (d : Nat) : Nat := bits d 189 2
/-- FEP of the table forms. -/
def dFep (d : Nat) : Nat := bits d 191 8
/-- LEASE of the table forms. -/
def dTLease (d : Nat) : Nat := bits d 199 14

/-- CHAN of SEND. -/
def dChan (d : Nat) : Nat := bits d 128 6
/-- EPOCH of SEND. -/
def dSEpoch (d : Nat) : Nat := bits d 134 8
/-- MLEN of SEND. -/
def dMlen (d : Nat) : Nat := bits d 142 12

/-- CTX of DEPOSIT, FENCE.CTX and WATCH FORM 1. -/
def dCtx (d : Nat) : Nat := bits d 128 12
/-- EPOCH of DEPOSIT, FENCE.CTX and WATCH FORM 1. -/
def dEpoch (d : Nat) : Nat := bits d 140 8
/-- SLICE of DEPOSIT. -/
def dSlice (d : Nat) : Nat := bits d 148 20
/-- NSL of DEPOSIT. -/
def dNsl (d : Nat) : Nat := bits d 168 7
/-- TAKEN of DEPOSIT. -/
def dTaken (d : Nat) : Bool := bit d 175

/-- SIGOP of SIGNAL. -/
def dSigop (d : Nat) : Nat := bits d 128 8
/-- SIGTGT of SIGNAL. -/
def dSigtgt (d : Nat) : Nat := bits d 136 32
/-- OPERAND of SIGNAL. -/
def dOperand (d : Nat) : Nat := bits d 168 64

/-- ENG of DICT. -/
def dEng (d : Nat) : Nat := bits d 128 11
/-- NODE of DICT. -/
def dNode (d : Nat) : Nat := bits d 139 16
/-- INDEX of DICT. -/
def dIndex (d : Nat) : Nat := bits d 155 16
/-- SUB of DICT. -/
def dSub (d : Nat) : Nat := bits d 171 8
/-- WR of DICT. -/
def dWr (d : Nat) : Bool := bit d 179
/-- TLEN of DICT. -/
def dTlen (d : Nat) : Nat := bits d 180 16
/-- TOFF of DICT. -/
def dToff (d : Nat) : Nat := bits d 196 16
/-- TEND of DICT. -/
def dTend (d : Nat) : Bool := bit d 212
/-- VALUE of DICT. -/
def dValue (d : Nat) : Nat := bits d 256 64

/-- Blocks of WATCH FORM 0: NBLK. -/
def dNblk (d : Nat) : Nat := bits d 128 7 + 1
/-- Element format code of WATCH FORM 0. -/
def dWfmt (d : Nat) : Nat := bits d 135 5
/-- ON of WATCH FORM 1. -/
def dOn (d : Nat) : Bool := bit d 148
/-- WADDR of WATCH. -/
def dWaddr (d : Nat) : Nat := bits d 149 40

/-- The kinds of command the accept rows of the opcode table tell apart. -/
inductive CmdKind where
  | put | get | putScatter | getGather | send | mcast | deposit
  | barArrive | tally (op : Nat) | int | wake
  | fenceIssue | fenceDone | fenceCtx | dictRead | dictWrite | watchBuffer | watchContext
  | undefined
  deriving DecidableEq, Repr

/-- The kind of a descriptor: `undefined` for an OP, FORM or SIGOP the spec does not list (R101, R157). -/
def kindOf (d : Nat) : CmdKind :=
  match dOp d, dForm d with
  | 1, 0 => .put
  | 1, 1 => .putScatter
  | 2, 0 => .get
  | 2, 1 => .getGather
  | 3, 0 => .send
  | 4, 0 => .mcast
  | 5, 0 => .deposit
  | 6, 0 =>
    if dSigop d = 0x20 then .barArrive
    else if 0x10 ≤ dSigop d ∧ dSigop d ≤ 0x15 then .tally (dSigop d)
    else if dSigop d = 0x0B then .int
    else if dSigop d = 0x1C then .wake
    else .undefined
  | 7, 0 => .fenceIssue
  | 7, 1 => .fenceDone
  | 7, 2 => .fenceCtx
  | 8, 0 => if dWr d then .dictWrite else .dictRead
  | 9, 0 => .watchBuffer
  | 9, 1 => .watchContext
  | _, _ => .undefined

/-- The first bit above the fields of a command kind, from which every descriptor bit is reserved (R103 to R111). -/
def reservedFrom : CmdKind → Nat
  | .put | .get => 201
  | .putScatter | .getGather => 213
  | .send => 154
  | .mcast => 197
  | .deposit => 176
  | .barArrive | .tally _ | .int | .wake => 232
  | .fenceIssue | .fenceDone | .fenceCtx => 148
  | .dictRead | .dictWrite => 320
  | .watchBuffer | .watchContext => 189
  | .undefined => 128

/-- Is a reserved bit set (R102)? Fields that a form holds at 0 count as reserved (log 6). -/
def reservedSet (d : Nat) : Bool :=
  let k := kindOf d
  decide (bits d 104 24 ≠ 0) || decide (d / 2 ^ reservedFrom k ≠ 0) ||
    (dTb d && ! (decide (k = .put) || decide (k = .get) || decide (k = .mcast))) ||
    (match k with
     | .dictRead | .dictWrite => decide (bits d 213 43 ≠ 0)
     | .getGather => decide (dSop d ≠ 0) || decide (dFep d ≠ 0)
     | .fenceIssue | .fenceDone => decide (bits d 128 20 ≠ 0)
     | .watchBuffer => decide (bits d 140 9 ≠ 0)
     | _ => false)

/-- Is the CLASS permitted (R101)? -/
def classOk (d : Nat) : Bool :=
  match kindOf d with
  | .put | .get | .send => decide (dClass d = 1) || decide (dClass d = 3)
  | _ => decide (dClass d = 0)

/-- Bytes of stack address space a target may name (R29). -/
def stackBytes : Nat := 2 ^ 36

/-- Does an address or size lie out of range (code 0x04)? -/
def rangeBad (s : State) (d : Nat) : Bool :=
  decide (cellBytes ≤ dLaddr d) ||
  match kindOf d with
  | .put | .get =>
    let lim := if (dDest d).tgt = 1 then stackBytes else cellBytes
    decide (dSize d = 0) || decide (262144 < dSize d) || decide (10000 < dLease d) ||
      decide (cellBytes < dLaddr d + dSize d) || decide (lim < dRaddr d + dSize d)
  | .putScatter | .getGather =>
    decide (dIdx d % 8 ≠ 0) || decide (dRows d = 0) || decide (1024 < dRows d) || decide (10000 < dTLease d) ||
      decide (cellBytes < dIdx d + 8 * dRows d)
  | .send => decide (dChan d = 63) || decide (dMlen d < 8) || decide (2048 < dMlen d) ||
      decide (cellBytes < dLaddr d + dMlen d)
  | .mcast => decide (dMSize d = 0) || decide (262144 < dMSize d) || decide (10000 < dMLease d) ||
      decide (cellBytes < dLaddr d + dMSize d) || decide (cellBytes < dMRaddr d + dMSize d)
  | .tally _ => decide (s.nFields ≤ bits (dSigtgt d) 0 9)
  | .dictRead | .dictWrite => decide (4096 < dTlen d) || decide (cellBytes < dLaddr d + dTlen d)
  | .watchBuffer => decide (cellBytes < dLaddr d + 2048 * dNblk d) || decide (cellBytes ≤ dWaddr d)
  | .watchContext => decide (cellBytes ≤ dWaddr d)
  | _ => false

/-- Is an alignment of TB = 1, of DEPOSIT or of a watched buffer missed (code 0x05)? -/
def alignBad (d : Nat) : Bool :=
  match kindOf d with
  | .put | .get => dTb d && (decide (dLaddr d % 2048 ≠ 0) || decide (dRaddr d % 2048 ≠ 0) || decide (dSize d % 2048 ≠ 0))
  | .mcast => dTb d && (decide (dLaddr d % 2048 ≠ 0) || decide (dMRaddr d % 2048 ≠ 0) || decide (dMSize d % 2048 ≠ 0))
  | .deposit => decide (dLaddr d % 2048 ≠ 0)
  | .watchBuffer => decide (dLaddr d % 2048 ≠ 0)
  | _ => false

/-- Does a TB = 1 command name the block that holds the block-check table (R40, code 0x08)? -/
def namesTable (s : State) (c : Coord) (d : Nat) : Bool :=
  let size := if kindOf d = .mcast then dMSize d else dSize d
  let blk := s.reg (cellNode c) 0 0x4002 1 / 2048
  dTb d && decide (0 < size) && decide (dLaddr d / 2048 ≤ blk) && decide (blk ≤ (dLaddr d + size - 1) / 2048)

/-- Is DEST.TGT, or DEST itself, not permitted (R101, R103, R106, R109, R172, R176, code 0x09)? A DEST that a
command needs to be 0 has this code too (DESIGN CHOICE, log 126). -/
def targetBad (s : State) (d : Nat) : Bool :=
  let a := dDest d
  match kindOf d with
  | .put | .get =>
    if dTb d then ! (decide (a.tgt = 0) || decide (a.tgt = 4)) || (decide (a.tgt = 4) && decide (256 ≤ a.x ∨ a.y ≠ 0))
    else ! (decide (a.tgt = 0) || decide (a.tgt = 1) || decide (a.tgt = 4)) ||
      (decide (a.tgt = 4) && decide (256 ≤ a.x ∨ a.y ≠ 0))
  | .send | .barArrive | .int | .wake => decide (a.tgt ≠ 0)
  | .mcast => decide (a.tgt ≠ 5) || decide (a.eng ≠ s.engine)
  | _ => decide (bits d 32 32 ≠ 0)

/-- The lowest code of *Refusal details* that the descriptor alone earns, 0 for none (R100). A SEND that names
channel 63 earns the code of a range, 0x04 (DESIGN CHOICE, log 126). -/
def descriptorCode (s : State) (c : Coord) (d : Nat) : Nat :=
  if kindOf d = .undefined ∨ (kindOf d = .putScatter ∧ 1 < dSop d) then 0x01
  else if reservedSet d then 0x02
  else if ! classOk d then 0x03
  else if rangeBad s d then 0x04
  else if alignBad d then 0x05
  else if kindOf d = .mcast ∧ (dX1 d < (dDest d).x ∨ dY1 d < (dDest d).y) then 0x06
  else if kindOf d = .deposit ∧ (dNsl d = 0 ∨ 64 < dNsl d) then 0x07
  else if (kindOf d = .put ∨ kindOf d = .get ∨ kindOf d = .mcast) ∧ namesTable s c d then 0x08
  else if targetBad s d then 0x09
  else 0

end Sys2Proof.Machine
end

