-- ==== Sys2Proof/Machine/CellOps.lean ====
section
/-! DEFINITION. The shared operations of the cell port: acceptance order and ring space (R99, R113), completion records
(R112, R114), completion counters and blocking waits (R115), live commands by TAG, and source reservations (R168). -/

namespace Sys2Proof.Machine

/-- The TAG of a command: slot and reuse count (R25, R100). -/
def Cmd.tag (m : Cmd) : Nat := m.slot + 256 * m.reuse

/-- The live command of a cell with this TAG. -/
def State.cmd? (s : State) (c : Coord) (tag : Nat) : Option Cmd := (s.cell c).cmds.find? (fun m => m.tag == tag)

/-- Change the live command with this TAG. -/
def State.modCmd (s : State) (c : Coord) (tag : Nat) (f : Cmd → Cmd) : State :=
  s.modCell c (fun q => { q with cmds := q.cmds.map (fun m => if m.tag = tag then f m else m) })

/-! ### Completion records and counters -/

/-- Append one record to a core's completion ring (R112), stamped with the field's fabric time. -/
def State.writeRecord (s : State) (c : Coord) (core op kind status utag slot reuse detail value : Nat) : State :=
  let n := cellNode c
  let f := s.fieldOf c
  let base := s.reg n 0 (0x4004 + core) 1
  let ents := s.reg n 0 (0x4004 + core) 2
  let p := (s.core c core).prod
  let r : Record := ⟨op, kind, status, utag, slot, reuse, detail, s.stretchFlag f, s.heldFlag f,
    decide (p / ents % 2 = 0), value, s.ft f⟩
  let s := s.memWriteAs c 1 (base + 32 * (p % ents)) (recordBytes r)
  s.modCore c core (fun k => { k with prod := (p + 1) % 2 ^ 32 })

/-- The value of a completion counter (R115). -/
def State.counter (s : State) (c : Coord) (core k : Nat) : Nat := SMap.get 0 (s.core c core).ctrs k

/-- Increment a completion counter and answer the wait it satisfies (R114 step 3, R115). -/
def State.incCounter (s : State) (c : Coord) (core k : Nat) : State :=
  let v := (s.counter c core k + 1) % 2 ^ 32
  let s := s.modCore c core (fun q => { q with ctrs := SMap.put 0 q.ctrs k v })
  match (s.core c core).waits.find? (fun w => w.k == k && atOrPast32 v w.v) with
  | some w =>
    (s.modCore c core (fun q => { q with waits := q.waits.filter (fun x => x.k != k) })).answer c core w.tag v 0
  | none => s

/-- The final completion of a live command (R113, R114): its slot is freed, its record written when the status is not
OK or CMPL is set, and its counter incremented. Nothing happens for a command that is no longer live. -/
def State.complete (s : State) (c : Coord) (m : Cmd) (status detail value : Nat) : State :=
  if (s.cmd? c m.tag).isNone then s
  else
    let recs := ((s.cmd? c m.tag).map Cmd.recs).getD 0
    let s := s.modCell c (fun q => { q with cmds := q.cmds.filter (fun x => x.tag != m.tag) })
    let s := s.modCore c m.core (fun k => { k with held := k.held - recs })
    let s := if status ≠ 0 ∨ dCmpl m.desc then
        s.writeRecord c m.core (dOp m.desc) 0 status (dUtag m.desc) m.slot m.reuse detail (value % 2 ^ 64)
      else s
    s.incCounter c m.core (dCtr m.desc)

/-- The taken record of a DEPOSIT with TAKEN = 1 (R109); it increments no counter. -/
def State.takenRecord (s : State) (c : Coord) (m : Cmd) : State :=
  let s := s.writeRecord c m.core (dOp m.desc) 1 0 (dUtag m.desc) m.slot m.reuse 0 0
  let s := s.modCore c m.core (fun k => { k with held := k.held - 1 })
  s.modCmd c m.tag (fun x => { x with recs := x.recs - 1 })

/-- A descriptor refused at validation (R100): no slot, one error record, the counter incremented (R114, log 7). Its record holds 0 in SLOT
and REUSE, which the rule leaves open (log 100). -/
def State.refuse (s : State) (c : Coord) (core d code : Nat) : State :=
  let s := (s.bump (cellNode c) 0 0x4000 5 1).setReg (cellNode c) 0 0x4000 6
    (dOp d + 64 * core + 256 * code)
  let s := s.writeRecord c core (dOp d) 0 0x02 (dUtag d) 0 0 code 0
  s.incCounter c core (dCtr d)

/-! ### Acceptance (R99, R113) -/

/-- Ring records a descriptor may write: two for a DEPOSIT with TAKEN = 1, one otherwise (R113). -/
def recordsOf (d : Nat) : Nat := if kindOf d = .deposit ∧ dTaken d then 2 else 1

/-- Has the core's ring space for `need` records? The consumer word is read when the space falls short; a reading past
the ring counts in BAD_CONSUMER (R113). -/
def State.ringRoom (s : State) (c : Coord) (core need : Nat) : Bool × State :=
  let n := cellNode c
  let idx := 0x4004 + core
  let ents := s.reg n 0 idx 2
  let k := s.core c core
  let used := fun q => sub32 (k.prod + k.held) q
  if used k.cons ≤ ents ∧ need ≤ ents - used k.cons then (true, s)
  else
    let a := s.reg n 0 idx 3
    let q := s.memNat c a 4
    let s := (s.issueRead c a 8 .other).modCore c core (fun k => { k with cons := q })
    if ents < used q then (false, s.bump n 0 idx 7 1)
    else (decide (need ≤ ents - used q), s)

/-- Does a FENCE.DONE or FENCE.CTX of the core that has not completed hold its queue head (R117)? -/
def State.headHeld (s : State) (c : Coord) (core : Nat) : Bool :=
  (s.cell c).cmds.any (fun m => m.core == core && (kindOf m.desc == .fenceDone || kindOf m.desc == .fenceCtx))

/-- May the cell port accept at all: bring-up DONE, not draining, cell out of reset, field in Run with its clock
running, and fewer than 256 commands outstanding (R16, R372, R408, R446)? -/
def State.portOpen (s : State) (c : Coord) : Bool :=
  let f := s.fieldOf c
  decide (s.reg .engine 0 0x1008 1 = 10) && decide (s.reg .engine 0 0x8140 0x14 = 0) && ! (s.cell c).inReset &&
    decide (s.power f = 0) && ! (s.field f).stopped && ! s.holes.any (fun h => h.c == c) && decide ((s.cell c).cmds.length < 256)

/-- The core whose head is accepted next, if any, taking the four heads in rotating order from the core after the one
last accepted; a head that cannot be accepted delays no other core (R99). A head that waits for ring space counts in
RING_STALLS. -/
def State.pickHead (s : State) (c : Coord) : Nat → Nat → Option (Nat × Nat) × State
  | 0, _ => (none, s)
  | n + 1, core =>
    let nxt := (core + 1) % 4
    match (s.core c core).queue with
    | [] => s.pickHead c n nxt
    | d :: _ =>
      if s.headHeld c core then s.pickHead c n nxt
      else
        let r := s.ringRoom c core (recordsOf d)
        if r.1 then (some (core, d), if (s.core c core).ringAt.isSome then r.2.countRing c core false else r.2)
        else (r.2.countRing c core true).pickHead c n nxt

/-- The lowest number below `n` not in the list. -/
def lowestFree (used : List Nat) : Nat → Nat → Nat
  | 0, k => k
  | n + 1, k => if used.contains k then lowestFree used n (k + 1) else k

/-- Take a slot for a valid descriptor (R100): the lowest free slot, its reuse count incremented modulo 256; the ring
records are held (R113). -/
def State.takeSlot (s : State) (c : Coord) (core d : Nat) : Cmd × State :=
  let q := s.cell c
  let slot := lowestFree (q.cmds.map Cmd.slot) 256 0
  let reuse := (SMap.get 0 q.reuse slot + 1) % 256
  let m : Cmd := ⟨slot, reuse, core, d, q.seq, recordsOf d, 0, 0, [], 0, false, false, none, [], none⟩
  let s := s.modCell c (fun q => { q with reuse := SMap.put 0 q.reuse slot reuse, cmds := q.cmds ++ [m], seq := q.seq + 1 })
  let s := s.modCore c core (fun k => { k with held := k.held + m.recs })
  let s := s.modField (s.fieldOf c) (fun q => { q with idleSince := s.time })
  (m, (s.bump (cellNode c) 0 0x4000 4 1).countEvent c 8 0 0 1)

/-- Remove the head of a core's queue and note the core as last accepted (R99). -/
def State.popHead (s : State) (c : Coord) (core : Nat) : State :=
  (s.modCore c core (fun k => { k with queue := k.queue.drop 1 })).modCell c (fun q => { q with last := core })

/-! ### Source reservations (R168) -/

/-- The source reservation of a cell with this number. -/
def State.srcRsv? (s : State) (c : Coord) (rsv : Nat) : Option SrcRsv := (s.cell c).rsvs.find? (fun r => r.rsv == rsv)

/-- Change the source reservation with this number. -/
def State.modSrcRsv (s : State) (c : Coord) (rsv : Nat) (f : SrcRsv → SrcRsv) : State :=
  s.modCell c (fun q => { q with rsvs := q.rsvs.map (fun r => if r.rsv = rsv then f r else r) })

/-- The reservation number a packet carries. -/
def rsvOf (p : Packet) : Nat :=
  match p.tail with
  | .transfer t => t.rsv
  | .table t => t.rsv
  | .rect t => t.mid
  | _ => 0

/-- Is a packet of its own cell one of a reservation's own: its RESERVE or GET_REQ, or its data (R168, R175)? -/
def SrcRsv.carries (r : SrcRsv) (p : Packet) : Bool :=
  decide (p.tag = r.tag) &&
    (match p.tail with
     | .rect t => decide (p.typ = 0x13) && decide (t.mid = r.mid) && decide (r.st = .sent ∨ r.st = .gated)
     | _ => [1, 4, 0x10, 0x15, 0x17].contains p.typ && decide (rsvOf p = r.rsv))

/-- End a source reservation: its number is free again, and no further packet of it is sent but a RELEASE, what the path fence holds
included (R168). -/
def State.endSrcRsv (s : State) (c : Coord) (rsv : Nat) : State :=
  let mine := (s.cell c).rsvs.filter (fun r => r.rsv == rsv)
  s.modCell c (fun q => { q with
    rsvs := q.rsvs.filter (fun r => r.rsv != rsv),
    pathHeld := q.pathHeld.filter (fun h => ! mine.any (fun r => r.carries h.1)) })

/-- A reservation of a command fails with a status and a NACK reason or detail (R170). -/
def State.failRsv (s : State) (c : Coord) (r : SrcRsv) (status detail : Nat) : State :=
  (s.endSrcRsv c r.rsv).modCmd c r.tag (fun m => { m with fails := m.fails ++ [(status, detail)] })

/-- The lowest free reservation number, if the cell has fewer than 64 outstanding (R16, R168). -/
def State.freeRsv? (s : State) (c : Coord) : Option Nat :=
  let used := (s.cell c).rsvs.map SrcRsv.rsv
  if used.length < 64 then some (lowestFree used 64 0) else none

/-- µs in ns. -/
def us (n : Nat) : Nat := 1000 * n

/-- The status a NACK reason gives a record: CHECK and POISONED their own, every other NACKED (R131). -/
def nackStatus (reason : Nat) : Nat := if reason = 9 then 3 else if reason = 0x0A then 4 else 1

end Sys2Proof.Machine
end

