-- ==== Sys2Proof/Machine/ChanOps.lean ====
section
/-! DEFINITION. Message channels (chapter 6): counts and space (R123, R127), admission and landing (R126 to R130), the
NACK queue (R132), reading (R133 to R135), and the reader lifecycle (R136, R137). -/

namespace Sys2Proof.Machine

/-- A subindex of a channel descriptor. -/
def State.chan (s : State) (c : Coord) (n sub : Nat) : Nat := s.reg (cellNode c) 0 (0x4100 + n) sub

/-- Set a subindex of a channel descriptor. -/
def State.setChan (s : State) (c : Coord) (n sub v : Nat) : State := s.setReg (cellNode c) 0 (0x4100 + n) sub v

/-- Ring size 2^SIZE_LOG (R121). -/
def State.chanSize (s : State) (c : Coord) (n : Nat) : Nat := 2 ^ s.chan c n 4

/-- Free space SIZE − (C − H) mod 2^32 (R123). -/
def State.chanFree (s : State) (c : Coord) (n : Nat) : Nat := s.chanSize c n - sub32 (s.chan c n 0x0B) (s.chan c n 9)

/-- Address of the byte at count `k` (R123). -/
def State.chanAddr (s : State) (c : Coord) (n k : Nat) : Nat := s.chan c n 3 + k % s.chanSize c n

/-- Claims of a channel, oldest first. -/
def State.chanClaims (s : State) (c : Coord) (n : Nat) : List Claim := SMap.get [] (s.cell c).claims n

/-- Replace the claims of a channel. -/
def State.setClaims (s : State) (c : Coord) (n : Nat) (l : List Claim) : State :=
  s.modCell c (fun q => { q with claims := SMap.put [] q.claims n l })

/-- The channel answer word (R133). -/
def State.chanWord (s : State) (c : Coord) (n : Nat) : Nat :=
  let st := s.chan c n 1
  let t := s.chan c n 0x0A
  let code := if st = 0 then 3 else if t ≠ s.chan c n 9 then 0 else if st = 2 then 2 else 1
  pack [(0, 32, t), (32, 2, code), (34, 2, st), (36, 8, s.chan c n 2)]

/-- Must a CH_WAIT be answered now (R133)? -/
def State.chanReady (s : State) (c : Coord) (n : Nat) : Bool := decide (bits (s.chanWord c n) 32 2 ≠ 1)

/-- Answer every CH_WAIT on a channel that must be answered now (R133, R134). -/
def State.answerChWaits (s : State) (c : Coord) (n : Nat) : State :=
  if ! s.chanReady c n then s
  else
    (List.range 4).foldl (fun s i =>
      let ws := (s.core c i).chWaits.filter (fun w => w.n == n)
      let s := s.modCore c i (fun k => { k with chWaits := k.chWaits.filter (fun w => w.n != n) })
      ws.foldl (fun s w => s.answer c i w.tag (s.chanWord c n) 0) s) s

/-- The address word that a router gives as itself (R144): its cell, CORE 0. -/
def State.selfAddr (s : State) (c : Coord) : SrcAddr := s.srcOf c 0

/-- Raise a NACK of this channel (R126, R131). -/
def State.chanNack (s : State) (c : Coord) (n : Nat) (p : Packet) (reason chstate var : Nat) : State :=
  (s.raiseNack c (s.selfAddr c) p reason chstate var).bump (cellNode c) 0 (0x4100 + n) 0x0D 1

/-- The first admission check that fails, as (reason, CHSTATE, VAR); none when the message is admitted (R126). -/
def State.admission (s : State) (c : Coord) (p : Packet) (t : MessageTail) : Option (Nat × Nat × Nat) :=
  let n := t.chan
  let acc := s.chan c n 6
  let msk := s.chan c n 8
  let st := s.chan c n 1
  let foot := 8 + cdiv t.mlen 8 * 8
  let room := s.chanSize c n - s.chan c n 0x0B % s.chanSize c n
  let free := s.chanFree c n
  if n = 63 ∨ bit acc (if p.cls = 3 then 1 else 0) = false ∨ srcWord p.src % 2 ^ 31 &&& msk ≠ s.chan c n 7 &&& msk then
    some (4, 0, 0)
  else if t.epoch ≠ s.chan c n 2 then some (3, 0, s.chan c n 2)
  else if st ≠ 1 then some (2, st, s.chan c n 2)
  else if t.mlen < 8 ∨ min (s.chan c n 5) 2048 < t.mlen ∨ p.len ≠ cdiv t.mlen 32 then some (5, 0, 0)
  else if (foot ≤ room ∧ foot ≤ free) ∨ (room < foot ∧ room + foot ≤ free) then none
  else some (1, 0, free)

/-- Give an admitted message its claim (R127). -/
def State.claimSpace (s : State) (c : Coord) (p : Packet) (t : MessageTail) : State :=
  let n := t.chan
  let cl := s.chan c n 0x0B
  let foot := 8 + cdiv t.mlen 8 * 8
  let room := s.chanSize c n - cl % s.chanSize c n
  let skip := if foot ≤ room then 0 else room
  let k : Claim := ⟨skip, foot, (cl + skip) % 2 ^ 32, t.mlen, p.len, p.src, p.tag, p.typ, decide (p.cls = 3), false, false⟩
  (s.setClaims c n (s.chanClaims c n ++ [k])).setChan c n 0x0B ((cl + skip + foot) % 2 ^ 32)

/-- Count data units of a SEND taken off the ring and discarded (R126). -/
def State.discardUnits (s : State) (c : Coord) (k : Nat) : State := s.bump (cellNode c) 0 0x4180 7 k

/-- The message buffer of a router, in bytes (R128). -/
def msgBuffer : Nat := 8192

/-- Decide a SEND header at ejection (R126 to R128). The packet stays in flight until its data has landed; a message
held by the message buffer waits in its lane. -/
def State.sendAdmission (s : State) (c : Coord) (p : Packet) (t : MessageTail) : State :=
  if (s.cell c).inReset then
    ((s.takePkt p).raiseNack c (s.selfAddr c) p 7 0 0).discardUnits c p.len
  else if msgBuffer < (s.cell c).msgUsed + 32 * p.len then s
  else match s.admission c p t with
    | some (reason, chstate, var) => ((s.takePkt p).chanNack c t.chan p reason chstate var).discardUnits c p.len
    | none => ((s.takeDue p).claimSpace c p t).modCell c (fun q => { q with msgUsed := q.msgUsed + 32 * p.len })

/-- Publish T over the leading run of complete claims (R130): every message sends DELIVERED, a void counts. -/
def State.publish (s : State) (c : Coord) (n : Nat) : Nat → State
  | 0 => s
  | k + 1 =>
    match s.chanClaims c n with
    | [] => s
    | cl :: rest =>
      if ! cl.done then s
      else
        let s := (s.setClaims c n rest).setChan c n 0x0A ((cl.at_ + cl.foot) % 2 ^ 32)
        let s := if cl.void then s.bump (cellNode c) 0 (0x4100 + n) 0x0E 1
          else ((s.bump (cellNode c) 0 (0x4100 + n) 0x0C 1).sendSig c
            (.delivered ⟨s.chan c n 2, cl.tag, cl.src, s.selfAddr c, 0⟩))
        s.publish c n k

/-- Publish and answer the waits (R130, R134). -/
def State.publishAll (s : State) (c : Coord) (n : Nat) : State :=
  (s.publish c n (s.chanClaims c n).length).answerChWaits c n

/-- Write the skip marker of a claim (R124, R129). -/
def State.writeSkip (s : State) (c : Coord) (n : Nat) (cl : Claim) : State :=
  if cl.skip = 0 then s
  else s.memWriteAs c 3 (s.chanAddr c n (sub32 cl.at_ cl.skip)) (ringHeader 1 false 0 (cl.skip / 8) 0)

/-- The LAST unit of an admitted message arrives (R129): the message or a void is written, then T is published. Data
whose claim has been discarded is counted and dropped. -/
def State.sendLanding (s : State) (c : Coord) (p : Packet) (t : MessageTail) : State :=
  let n := t.chan
  let s := s.takePkt p
  match (s.chanClaims c n).find? (fun k => k.src == p.src && k.tag == p.tag && ! k.done) with
  | none => s.discardUnits c p.len
  | some cl =>
    let a := s.chanAddr c n cl.at_
    let ok := payloadOk p
    let s := if ok then
        let body := (p.payload.take t.mlen) ++ zeros (cdiv t.mlen 8 * 8 - t.mlen)
        let s := s.memWriteAs c 3 (a + 8) body
        s.memWriteAs c 3 a (ringHeader 0 cl.trade t.mlen (cl.foot / 8) (srcWord cl.src))
      else
        let s := s.memWriteAs c 3 a (ringHeader 2 cl.trade t.mlen (cl.foot / 8) (srcWord cl.src))
        let s := s.chanNack c n p (payloadReason p) 0 0
        if p.poison then s else s.faultEvent (routerBlock c) 4 0 (pktDetail p)
    let s := s.writeSkip c n cl
    let s := s.modCell c (fun q => { q with msgUsed := q.msgUsed - 32 * p.len })
    let mark := fun k => if k = cl then { k with done := true, void := ! ok } else k
    (s.setClaims c n ((s.chanClaims c n).map mark)).publishAll c n

/-! ### The NACK queue (R132) -/

/-- The 32-byte CH63 entry of a NACK, with its stamp and STALE flag. -/
def State.nackEntry (s : State) (c : Coord) (k : Nack) (stale : Bool) : List Byte :=
  let f := s.fieldOf c
  let chepoch := if k.reason = 2 ∨ k.reason = 3 then bits k.var 0 8 else 0
  let aux := if k.reason = 1 ∨ k.reason = 8 ∨ k.typ = 0x05 ∨ k.typ = 0x14 then k.var else 0
  ringHeader 3 false 24 4 (srcWord k.raiser) ++
    leBytes 24 (pack [(0, 8, k.reason), (8, 6, k.typ), (16, 8, chepoch),
      (24, 2, if k.reason = 2 then k.chstate else 0), (26, 6, k.chan), (32, 16, k.tag), (48, 2, k.target.core),
      (50, 1, b2n (s.stretchFlag f)), (51, 1, b2n (s.heldFlag f)), (52, 1, b2n stale), (64, 32, aux), (128, 64, s.ft f)])

/-- Count a NACK that reaches a cell and enter it in CH63, or count it lost (R132). -/
def State.enterNack (s : State) (c : Coord) (k : Nack) : State :=
  let n := cellNode c
  let stale := (s.cmd? c k.tag).isNone
  let s := s.bump n 0 0x4180 3 1
  let s := if k.reason < 16 then
      s.setRecAt n 0 0x4180 5 16 k.reason ((s.recAt n 0 0x4180 5 k.reason + 1) % 2 ^ 32)
    else s
  if s.chan c 63 1 = 1 ∧ 32 ≤ s.chanFree c 63 then
    let t := s.chan c 63 0x0B
    let s := s.memWriteAs c 3 (s.chanAddr c 63 t) (s.nackEntry c k stale)
    let s := s.setChan c 63 0x0B ((t + 32) % 2 ^ 32)
    (s.setChan c 63 0x0A ((t + 32) % 2 ^ 32)).answerChWaits c 63
  else s.bump n 0 0x4180 4 1

/-! ### Reading and lifecycle (R133 to R137) -/

/-- The outcome of a head advance from h to g: 0 DONE, 1 MISMATCH, 2 REFUSED (R135). -/
def State.advanceCode (s : State) (c : Coord) (n h g : Nat) : Nat :=
  let hd := s.chan c n 9
  if hd ≠ h then 1
  else if g % 8 = 0 ∧ sub32 g h ≤ sub32 (s.chan c n 0x0A) h ∧ s.chan c n 1 ≠ 0 then 0 else 2

/-- CH_ADVANCE (R135): the head moves only when the outcome is DONE; a refusal counts in BAD_ADVANCE. -/
def State.chAdvance (s : State) (c : Coord) (n h g : Nat) : Nat × State :=
  match s.advanceCode c n h g with
  | 0 => (0, s.setChan c n 9 g)
  | 1 => (1, s)
  | k => (k, s.bump (cellNode c) 0 0x4180 6 1)

/-- The message NACKed when its channel enters RESET (R136): reason EPOCH with the new epoch. -/
def State.nackClaim (s : State) (c : Coord) (n : Nat) (cl : Claim) : State :=
  let s := s.sendSig c (.nack ⟨3, cl.tag, cl.src, s.selfAddr c, cl.typ, n, 0, s.chan c n 2⟩)
  (s.countEvent c 9 0 0 1).bump (cellNode c) 0 (0x4100 + n) 0x0D 1

/-- A channel enters RESET (R136): epoch + 1, counts 0, unpublished entries discarded and their messages NACKed EPOCH. -/
def State.chanReset (s : State) (c : Coord) (n : Nat) : State :=
  let cls := s.chanClaims c n
  let s := (s.setChan c n 1 0).setChan c n 2 ((s.chan c n 2 + 1) % 256)
  let s := ((s.setChan c n 9 0).setChan c n 0x0A 0).setChan c n 0x0B 0
  let freed := cls.foldl (fun a k => if k.done then a else a + 32 * k.len) 0
  let s := (s.setClaims c n []).modCell c (fun q => { q with msgUsed := q.msgUsed - freed })
  cls.foldl (fun s k => if k.void then s else s.nackClaim c n k) s

/-- Do the byte ranges overlap? -/
def overlaps (a na b nb : Nat) : Bool := decide (a < b + nb) && decide (b < a + na)

/-- May the channel be opened (R122)? -/
def State.mayOpen (s : State) (c : Coord) (n : Nat) : Bool :=
  let base := s.chan c n 3
  let size := s.chanSize c n
  decide (base + size ≤ cellBytes) && ! overlaps base size (s.reg (cellNode c) 0 0x4002 1) 512 &&
    (List.range 64).all (fun k => k == n || s.chan c k 1 == 0 || ! overlaps base size (s.chan c k 3) (s.chanSize c k)) &&
    decide (8 + cdiv (s.chan c n 5) 8 * 8 ≤ size / 2)

/-- A write of STATE by the reader lifecycle (R136): a refusal detail, or the new state. 0x14 BUSY, 0x12 RANGE (R121). Every write
of OPEN is checked by R122. -/
def State.chanStateWrite (s : State) (c : Coord) (n v : Nat) : Nat × State :=
  let st := s.chan c n 1
  if v = 0 then (0, (s.chanReset c n).answerChWaits c n)
  else if st = 0 then
    if v ≠ 1 then (0x14, s)
    else if ! s.mayOpen c n then (0x12, s)
    else (0, (((s.setChan c n 1 1).setChan c n 9 0).setChan c n 0x0A 0).setChan c n 0x0B 0)
  else if st = 2 ∧ v = 1 ∧ ! s.mayOpen c n then (0x12, s)
  else if (st = 1 ∧ v = 2) ∨ (st = 2 ∧ v = 1) then (0, (s.setChan c n 1 v).answerChWaits c n)
  else (0x14, s)

/-- A write of HEAD, an unconditional CH_ADVANCE (R121): 0x14 BUSY in RESET, 0x12 RANGE for a bad head; BUSY where both
hold (DESIGN CHOICE, log 127). -/
def State.chanHeadWrite (s : State) (c : Coord) (n g : Nat) : Nat × State :=
  let r := s.chAdvance c n (s.chan c n 9) g
  if r.1 = 0 then (0, r.2)
  else if s.chan c n 1 = 0 then (0x14, r.2) else (0x12, r.2)

/-- Every channel enters RESET at a cell reset; its CH_WAITs are dropped unanswered (R137). -/
def State.resetChannels (s : State) (c : Coord) : State :=
  (List.range 64).foldl (fun s n => s.chanReset c n) s

end Sys2Proof.Machine
end

