-- ==== Sys2Proof/Machine/Arith.lean ====
section
/-! DEFINITION. Number formats and anchored arithmetic (chapter 9): element formats and values (R182 to R186), conversion
into accumulators (R190), statuses (R201, R202), direct-mode addition and the order of MAX and MIN (R200, R203), logic
(R204), and conversion to the output (R205 to R208). Flags are a mask: 1 OVERFLOW, 2 UNDERFLOW, 4 INEXACT, 8 INVALID,
16 AEX (R210). -/

namespace Sys2Proof.Machine

/-! ### Formats (R182, R183) -/

/-- A floating-point element format: element, exponent and mantissa bits, bias, largest finite encoding, and whether it
encodes infinity and NaN. -/
structure FloatFmt where
  bits : Nat
  eb : Nat
  mb : Nat
  bias : Int
  top : Nat
  inf : Bool
  nan : Option Nat
  deriving DecidableEq, Repr

/-- The format of a code; for MX codes, that of its elements. -/
def floatFmt : Nat → Option FloatFmt
  | 0x00 => some ⟨32, 8, 23, 127, 0x7F7FFFFF, true, some 0x7FC00000⟩
  | 0x01 => some ⟨16, 8, 7, 127, 0x7F7F, true, some 0x7FC0⟩
  | 0x02 => some ⟨16, 5, 10, 15, 0x7BFF, true, some 0x7E00⟩
  | 0x03 => some ⟨8, 4, 3, 7, 0x7E, false, some 0x7F⟩
  | 0x04 => some ⟨8, 5, 2, 15, 0x7B, true, some 0x7E⟩
  | 0x05 => some ⟨8, 4, 3, 7, 0x7E, false, some 0x7F⟩
  | 0x06 => some ⟨8, 5, 2, 15, 0x7B, true, some 0x7E⟩
  | 0x07 => some ⟨6, 3, 2, 3, 0x1F, false, none⟩
  | 0x08 => some ⟨6, 2, 3, 1, 0x1F, false, none⟩
  | 0x09 => some ⟨4, 2, 1, 1, 0x7, false, none⟩
  | _ => none

/-- FP32. -/
def fp32 : FloatFmt := ⟨32, 8, 23, 127, 0x7F7FFFFF, true, some 0x7FC00000⟩

/-- Is the code an MX format? -/
def isMx (f : Nat) : Bool := decide (5 ≤ f) && decide (f ≤ 9)

/-- Is the code an integer format? -/
def isIntFmt (f : Nat) : Bool := decide (f = 0x0A) || decide (f = 0x0B)

/-- Is the code an element format? -/
def isElemFmt (f : Nat) : Bool := decide (f ≤ 0x0B)

/-- Element bits of a code. -/
def fmtBits (f : Nat) : Nat :=
  match floatFmt f with
  | some q => q.bits
  | none => if f = 0x0A then 32 else 8

/-- Elements in a slice. -/
def sliceElems (f : Nat) : Nat := if f ≤ 2 ∨ f = 0x0A then 256 else 512

/-- Anchor blocks in a slice (R185). -/
def sliceBlocks (f : Nat) : Nat := sliceElems f / 32

/-- Bytes in a slice. -/
def sliceBytes (f : Nat) : Nat := sliceElems f * fmtBits f / 8 + (if isMx f then 16 else 0)

/-- p, the precision in bits. -/
def FloatFmt.p (f : FloatFmt) : Nat := f.mb + 1

/-- emin. -/
def FloatFmt.emin (f : FloatFmt) : Int := 1 - f.bias

/-! ### Values (R184, R186) -/

/-- An element's value: (−1)^neg · m · 2^e, an infinity, or NaN. -/
inductive Val where
  | fin (neg : Bool) (m : Nat) (e : Int)
  | inf (neg : Bool)
  | nan
  deriving DecidableEq, Repr

/-- The value of an element's encoding (R184). -/
def decodeVal (f : FloatFmt) (w : Nat) : Val :=
  let s := bit w (f.bits - 1)
  let e := bits w f.mb f.eb
  let m := bits w 0 f.mb
  if e = 2 ^ f.eb - 1 ∧ f.inf then (if m = 0 then .inf s else .nan)
  else if e = 2 ^ f.eb - 1 ∧ f.nan.isSome ∧ m = 2 ^ f.mb - 1 then .nan
  else if e ≠ 0 then .fin s (2 ^ f.mb + m) ((e : Int) - f.bias - (f.mb : Int))
  else .fin s m (1 - f.bias - (f.mb : Int))

/-- e(x) of a finite non-zero value (R186). -/
def valExp (m : Nat) (e : Int) : Int := (Nat.log2 m : Int) + e

/-- An MX element's value times its block's scale (R184); scale byte 0xFF is NaN. -/
def scaleVal (scale : Nat) (v : Val) : Val :=
  if scale = 0xFF then .nan
  else match v with
    | .fin s m e => .fin s m (e + (scale : Int) - 127)
    | v => v

/-- An input element as arithmetic takes it (R201): an MX element above 2^127 becomes an infinity with flags. -/
def inputVal (v : Val) : Val × Nat :=
  match v with
  | .fin s m e => if m ≠ 0 ∧ 127 < valExp m e then (.inf s, 1 + 4) else (v, 0)
  | v => (v, 0)

/-- The values of block `j` of a slice in memory (R185), with the flags of R201. -/
def blockVals (f : Nat) (raw : List Byte) (j : Nat) : List (Val × Nat) :=
  match floatFmt f with
  | none => []
  | some q =>
    let area := if isMx f then raw.drop 16 else raw
    let blk := leNat ((area.drop (4 * q.bits * j)).take (4 * q.bits))
    let scale := (raw.getD j 0).toNat
    (List.range 32).map (fun i =>
      let v := decodeVal q (bits blk (q.bits * i) q.bits)
      inputVal (if isMx f then scaleVal scale v else v))

/-- The raw elements of block `j` of a slice. -/
def blockRaw (f : Nat) (raw : List Byte) (j : Nat) : List Nat :=
  let w := fmtBits f
  let area := if isMx f then raw.drop 16 else raw
  let blk := leNat ((area.drop (4 * w * j)).take (4 * w))
  (List.range 32).map (fun i => bits blk (w * i) w)

/-! ### Anchors and accumulators (R186, R190, R198) -/

/-- The anchor byte of an exponent: clamped below at −126 (R186). -/
def anchorByte (e : Int) : Nat := (max (-126) (min e 127) + 127).toNat

/-- The anchor E of a byte; −126 for an empty block, as conversions take it (R186). -/
def anchorExp (a : Nat) : Int := if a = 0 then -126 else (a : Int) - 127

/-- The measured anchor byte of a block: its largest e(x), 0 for none (R197). -/
def measureAnchor (vs : List (Val × Nat)) : Nat :=
  vs.foldl (fun a v => match v.1 with
    | .fin _ m e => if m = 0 then a else max a (anchorByte (valExp m e))
    | _ => a) 0

/-- m · 2^k to the nearest integer, ties to even, and whether bits were lost. -/
def roundShift (m : Nat) (k : Int) : Nat × Bool :=
  if 0 ≤ k then (m * 2 ^ k.toNat, false)
  else
    let sh := (-k).toNat
    let q := m / 2 ^ sh
    let lost := m % 2 ^ sh
    let up := decide (2 ^ (sh - 1) < lost) || (decide (lost = 2 ^ (sh - 1)) && decide (q % 2 = 1))
    (if up then q + 1 else q, decide (lost ≠ 0))

/-- Contribution of a finite value to an accumulator (R190). -/
def toAcc (neg : Bool) (m : Nat) (e : Int) (anchor F : Nat) : Int × Nat :=
  if m = 0 then (0, 0)
  else if anchor = 0 ∨ anchorExp anchor < valExp m e then
    let n : Int := ((2 ^ (F + 1) - 1 : Nat) : Int)
    (if neg then -n else n, 16 + 4)
  else
    let r := roundShift m (e + (F : Int) - anchorExp anchor)
    (if neg then -(r.1 : Int) else (r.1 : Int), if r.2 then 4 else 0)

/-- Status of a value (R193, R201): 0 normal, 1 +Inf, 2 −Inf, 3 NaN. -/
def valStatus : Val → Nat
  | .fin _ _ _ => 0
  | .inf false => 1
  | .inf true => 2
  | .nan => 3

/-- Status merge (R202), with INVALID for +Inf and −Inf. -/
def mergeStatus (a b : Nat) : Nat × Nat :=
  if a = 0 then (b, 0) else if b = 0 then (a, 0)
  else if a = 3 ∨ b = 3 then (3, 0)
  else if a = b then (a, 0) else (3, 8)

/-! ### Output conversion (R205 to R208) -/

/-- The encoding of an overflow of the output format (R206). -/
def overflowOut (f : FloatFmt) (neg rtz sat : Bool) : Nat :=
  let sign := if neg then 2 ^ (f.bits - 1) else 0
  let infw := (2 ^ f.eb - 1) * 2 ^ f.mb
  sign +
    (if f.bits = 8 then
      (if sat then f.top else if f.inf then (if rtz then f.top else infw) else 0x7F)
     else if f.inf then (if rtz then f.top else infw)
     else f.top)

/-- Does r · 2^q exceed the largest finite value of the format? -/
def aboveTop (f : FloatFmt) (r : Nat) (q : Int) : Bool :=
  match decodeVal f f.top with
  | .fin _ m e => if q ≤ e then decide (m * 2 ^ (e - q).toNat < r) else decide (m < r * 2 ^ (q - e).toNat)
  | _ => false

/-- to_output of R205: the accumulator A · 2^scale in a floating-point format, and its flags. `over` is what an overflow
returns with its flags. -/
def toOutput (A : Int) (scale : Int) (f : FloatFmt) (rtz : Bool) (isOver : Bool → Nat × Nat) : Nat × Nat :=
  if A = 0 then (0, 0)
  else
    let neg := decide (A < 0)
    let M := A.natAbs
    let e := (Nat.log2 M : Int) + scale
    let q := max e f.emin - ((f.p : Int) - 1)
    let sh := q - scale
    let rl : Nat × Nat × Nat := if sh ≤ 0 then (M * 2 ^ (-sh).toNat, 0, 0)
      else (M / 2 ^ sh.toNat, M % 2 ^ sh.toNat, sh.toNat)
    let up := ! rtz && decide (0 < rl.2.2) && (decide (2 ^ (rl.2.2 - 1) < rl.2.1) ||
      (decide (rl.2.1 = 2 ^ (rl.2.2 - 1)) && decide (rl.1 % 2 = 1)))
    let r := if up then rl.1 + 1 else rl.1
    let carry := decide (r = 2 ^ f.p)
    let r := if carry then 2 ^ (f.p - 1) else r
    let q := if carry then q + 1 else q
    let fl := if rl.2.1 ≠ 0 then (if e < f.emin then 4 + 2 else 4) else 0
    if aboveTop f r q then
      let o := isOver neg
      (o.1, fl ||| o.2)
    else
      let sign := if neg then 2 ^ (f.bits - 1) else 0
      if 2 ^ (f.p - 1) ≤ r then
        (sign + (q + (f.p : Int) - 1 + f.bias).toNat * 2 ^ f.mb + (r - 2 ^ (f.p - 1)), fl)
      else (sign + r, fl)

/-- The encoding of a status in a non-MX output format (R206); `f8` tells the 8-bit rules apart. -/
def statusOut (f : FloatFmt) (sat : Bool) (st : Nat) : Nat :=
  if st = 3 then f.nan.getD 0
  else
    let sign := if st = 2 then 2 ^ (f.bits - 1) else 0
    sign + (if f.bits = 8 then (if sat then f.top else if f.inf then (2 ^ f.eb - 1) * 2 ^ f.mb else 0x7F)
      else (2 ^ f.eb - 1) * 2 ^ f.mb)

/-- One element to a non-MX floating-point format: accumulator, its scale, status. -/
def elemOut (f : FloatFmt) (rtz sat : Bool) (A : Int) (scale : Int) (st : Nat) : Nat × Nat :=
  if st ≠ 0 then (statusOut f sat st, 0)
  else toOutput A scale f rtz (fun neg => (overflowOut f neg rtz sat, 1 + 4))

/-- Largest element exponent of an MX element format (R207). -/
def emax (f : Nat) : Int := if f = 5 then 8 else if f = 6 then 15 else if f = 7 then 4 else 2

/-- An MX output block (R207): scale byte, elements, flags. Each element is (A, scale, status). A block written as a
NaN block has no flags of the conversion of its elements (DEDUCED, log 130). -/
def mxOut (code : Nat) (f : FloatFmt) (rtz sat : Bool) (es : List (Int × Int × Nat)) : Nat × List Nat × Nat :=
  let nanBlock : List Nat := List.replicate es.length 0
  let vmax : Option Int := es.foldl (fun (a : Option Int) (x : Int × Int × Nat) =>
    if x.2.2 ≠ 0 ∨ x.1 = 0 then a
    else
      let e := valExp (Int.natAbs x.1) x.2.1
      some (match a with | some b => max b e | none => e)) none
  let wide := decide (code = 5) || decide (code = 6)
  let poisonBlock := ! wide && es.any (fun x => decide (x.2.2 = 3) || (decide (x.2.2 = 1 ∨ x.2.2 = 2) && ! sat))
  let X := match vmax with | some e => max (e - emax code) (-127) | none => -127
  let tooBig := decide (127 < X)
  if poisonBlock then (0xFF, nanBlock, if tooBig then 1 + 4 else 0)
  else if tooBig ∧ ! sat then (0xFF, nanBlock, 1 + 4)
  else
    let X := min X 127
    let one := fun (x : Int × Int × Nat) =>
      if x.2.2 = 3 then (if code = 6 then 0x7E else 0x7F, 0)
      else if x.2.2 ≠ 0 then
        (if wide then statusOut f sat x.2.2 else (if x.2.2 = 2 then 2 ^ (f.bits - 1) else 0) + f.top, 0)
      else toOutput x.1 (x.2.1 - X) f rtz (fun neg => ((if neg then 2 ^ (f.bits - 1) else 0) + f.top, 4))
    let outs := es.map one
    let scale := match vmax with | some _ => (X + 127).toNat | none => 0
    (scale, outs.map Prod.fst, outs.foldl (fun a o => a ||| o.2) (if tooBig then 1 + 4 else 0))

/-- Integer SUM to INT32 or INT8 (R208). -/
def intOut (w : Nat) (sat : Bool) (A : Int) : Nat × Nat :=
  let hi : Int := ((2 ^ (w - 1) : Nat) : Int)
  if -hi ≤ A ∧ A < hi then (ofSigned w A, 0)
  else (ofSigned w (if sat then (if A < 0 then -hi else hi - 1) else A), 1 + 4)

/-! ### FP32 partials: direct mode, MAX and MIN (R200, R203) -/

/-- An FP32 encoding of a value that FP32 holds exactly, with the flags of its input (R201). NaN is canonical. -/
def toFp32 (v : Val) : Nat :=
  match v with
  | .nan => 0x7FC00000
  | .inf neg => (if neg then 2 ^ 31 else 0) + 0x7F800000
  | .fin neg m e =>
    if m = 0 then (if neg then 2 ^ 31 else 0)
    else (toOutput (if neg then -(m : Int) else (m : Int)) e fp32 false (fun neg => (overflowOut fp32 neg false false, 5))).1

/-- One binary32 addition, rounded to nearest even (R200). -/
def fp32Add (a b : Nat) : Nat × Nat :=
  match decodeVal fp32 a, decodeVal fp32 b with
  | .nan, _ => (0x7FC00000, 8)
  | _, .nan => (0x7FC00000, 8)
  | .inf s, .inf t => if s = t then (a, 0) else (0x7FC00000, 8)
  | .inf _, _ => (a, 0)
  | _, .inf _ => (b, 0)
  | .fin s m e, .fin t n g =>
    let lo := min e g
    let x : Int := ((m * 2 ^ (e - lo).toNat : Nat) : Int)
    let y : Int := ((n * 2 ^ (g - lo).toNat : Nat) : Int)
    let sum := (if s then -x else x) + (if t then -y else y)
    if sum = 0 then (if s && t then 2 ^ 31 else 0, 0)
    else toOutput sum lo fp32 false (fun neg => (overflowOut fp32 neg false false, 1 + 4))

/-- The place of an FP32 encoding in the order of R203. -/
def fp32Key (w : Nat) : Int := if bit w 31 then -(bits w 0 31 : Int) - 1 else (bits w 0 31 : Int)

/-- MAX (true) or MIN of two FP32 encodings; a NaN operand is ignored (R203). -/
def fp32Pick (mx : Bool) (a b : Nat) : Nat :=
  match decodeVal fp32 a, decodeVal fp32 b with
  | .nan, .nan => 0x7FC00000
  | .nan, _ => b
  | _, .nan => a
  | _, _ => if mx then (if fp32Key a < fp32Key b then b else a) else (if fp32Key b < fp32Key a then b else a)

/-- An FP32 partial as (A, scale, status, negative zero) for the output conversion (R205). -/
def fp32Parts (w : Nat) : Int × Int × Nat × Bool :=
  match decodeVal fp32 w with
  | .nan => (0, 0, 3, false)
  | .inf neg => (0, 0, if neg then 2 else 1, false)
  | .fin neg m e => (if neg then -(m : Int) else (m : Int), e, 0, neg && decide (m = 0))

end Sys2Proof.Machine
end

