-- ==== Sys2Proof/Machine/Rects.lean ====
section
/-! DEFINITION. Replication in transit: the shortest arc over a run of columns or rows (R173), the copies that a router sends of what
spreads along one ring and turns off into the crossing ones (`Spread`), and the spreads of the spec: a packet to a rectangle (R173), and
the engine and rectangle broadcasts of the signal net (R147). -/

namespace Sys2Proof.Machine

/-- The shortest arc of ring positions that contains the coordinates `a` to `b`: its lowest end and its length walking
up; of two of equal length, the one whose increasing end is lower (R173). A fold makes the even and the odd coordinates
two runs, and the arc joins them over one fold or the other. -/
def rectArc (n a b : Nat) : Nat × Nat :=
  let evens := decide ((a + 1) / 2 * 2 ≤ b)
  let odds := decide (a / 2 * 2 + 1 ≤ b)
  let elo := (a + 1) / 2
  let ehi := b / 2
  let olo := ringPos n ((b + 1) / 2 * 2 - 1)
  let ohi := ringPos n (a / 2 * 2 + 1)
  if evens && odds then
    let far := ohi - elo
    let near := n - olo + ehi
    if far < near then (elo, far) else if near < far then (olo, near)
    else if ohi < ehi then (elo, far) else (olo, near)
  else if evens then (elo, ehi - elo)
  else (olo, ohi - olo)

/-- Is position `p` on an arc? -/
def onArc (n : Nat) (arc : Nat × Nat) (p : Nat) : Bool := decide (span n arc.1 p true ≤ arc.2)

/-- The end of an arc in a direction. -/
def arcEnd (n : Nat) (arc : Nat × Nat) (up : Bool) : Nat := if up then (arc.1 + arc.2) % n else arc.1

/-- A copy of a packet: output port, lane and the ROUTE bits it carries. -/
structure Copy where
  port : Nat
  lane : Nat
  route : RouteBits
  deriving DecidableEq, Repr

/-- The copy that leaves a ring for its neighbour on line `h`, on VL8 or VL9 (R61). -/
def crossCopy (m : RingMap) (ax : Axis) (line h half phase det : Nat) : Copy :=
  let nc := m.size ax.other
  ⟨portCode ax.other false (decide (ringPos nc h = nextPos nc (ringPos nc line) true)), 8 + half, ⟨phase, false, det⟩⟩

/-- A copy going on along a ring toward its end `e`; `turns` says that a hole on the way is a member column whose column
copy starts by a turn detour (R62, R173). -/
def alongCopies (m : RingMap) (ax : Axis) (line p e cls half phase : Nat) (up : Bool) (turns : Nat → Bool) : List Copy :=
  if p = e then []
  else
    let n := m.size ax
    let go := fun q => (⟨portCode ax false up, classLane cls (if wraps p q up then 1 else half), ⟨phase, false, 0⟩⟩ : Copy)
    match m.move ax line p (some e) up with
    | .hop q => [go q]
    | .bypass q =>
      let hole := nextPos n p up
      go q :: (if turns hole then (match m.detourLine ax line p hole up true with
        | some h => [crossCopy m ax line h half phase 1]
        | none => []) else [])
    | .detour _ h _ => [crossCopy m ax line h half phase 1]
    | .toEnd => (if turns e then (match m.detourLine ax line p e up true with
        | some h => [crossCopy m ax line h half phase 1]
        | none => []) else [])
    | .closed => []

/-- The rectangle a packet names: corner, far corner. -/
def rectOf (p : Packet) : Option (Nat × Nat × Nat × Nat) :=
  match p.tail with
  | .rect t => some (p.dest.x, p.dest.y, t.x1, t.y1)
  | _ => none

/-- The line of a ring of an axis that a cell lies on, and its coordinate along it. -/
def lineOf (ax : Axis) (c : Coord) : Nat :=
  match ax with
  | .row => c.y
  | .col => c.x

/-- The coordinate of a cell along a ring of an axis. -/
def coordOn (ax : Axis) (c : Coord) : Nat :=
  match ax with
  | .row => c.x
  | .col => c.y

/-- The ring position of a cell on its ring of an axis. -/
def RingMap.posOf (m : RingMap) (ax : Axis) (c : Coord) : Nat := ringPos (m.size ax) (coordOn ax c)

/-- PHASE of a leg on a ring of an axis (R52). -/
def axisPhase : Axis → Nat
  | .row => 0
  | .col => 1

/-- The directions in which copies start at cell `c` on its ring of an axis to cover an arc (R173 rule 4): toward each end of it, or from
outside the arc over it in the shorter direction. -/
def arcDirs (m : RingMap) (ax : Axis) (c : Coord) (arc : Nat × Nat) : List Bool :=
  let n := m.size ax
  let p := m.posOf ax c
  if onArc n arc p then [true, false]
  else if span n p arc.1 true ≤ span n p (arcEnd n arc true) false then [true] else [false]

/-- The copies that start at cell `c` on its ring of an axis and cover an arc (R173 rule 4). -/
def arcStart (m : RingMap) (ax : Axis) (c : Coord) (arc : Nat × Nat) (cls : Nat) : List Copy :=
  (arcDirs m ax c arc).flatMap (fun up =>
    alongCopies m ax (lineOf ax c) (m.posOf ax c) (arcEnd (m.size ax) arc up) cls 0 (axisPhase ax) up (fun _ => false))

/-- The holes that lie next on a ring from position `p` on, up to its end `e`: a copy passes them by bypass or detour, or ends at them. -/
def RingMap.holesAhead (m : RingMap) (ax : Axis) (line e : Nat) (up : Bool) : Nat → Nat → List Coord
  | 0, _ => []
  | fuel + 1, p =>
    let q := nextPos (m.size ax) p up
    if p = e ∨ ! m.deadAt ax line q then [] else m.cellAt ax line q :: m.holesAhead ax line e up fuel q

/-- What runs along one ring first and turns off into the crossing rings: the ring, the position of its start, where it ends in each
direction, the positions at which a copy turns off, the routers it is for, the copies that start at a cell of a crossing ring, where a copy
under way on one ends, and for a copy that detours beside a crossing ring (at a cell, travelling up or not) the line of the ring it left. -/
structure Spread where
  ax : Axis
  line : Nat
  start : Nat
  ends : Bool → Nat
  turns : Nat → Bool
  inside : Coord → Bool
  crossStart : Coord → List Copy
  crossEnd : Bool → Nat
  crossLine : Coord → Bool → Option Nat

/-- A copy for the cell port; `State.legsBy` gives it its lane there. -/
def ejectCopy : Copy := ⟨8, 0, ⟨0, false, 0⟩⟩

/-- The lane half of what rejoins ring `line` at position `p` travelling `up` (R55): b where it came on VL9, or where the span it skipped
holds the dateline. -/
def RingMap.rejoinHalf (m : RingMap) (ax : Axis) (line p half : Nat) (up : Bool) : Nat :=
  let n := m.size ax
  let gap := m.holeRun ax line (! up) (n - 1) p
  if half = 1 ∨ wraps (posOn n p (gap + 1) (! up)) p up then 1 else 0

/-- A copy beside the ring it left, on line `line` at position `p` (R61): back onto the ring where the hole run has ended, else on along the
neighbouring ring over its bypasses; none where that ring is closed. -/
def besideCopy (m : RingMap) (ax : Axis) (line p g half det : Nat) (up : Bool) : List Copy :=
  if det = 2 ∧ ! m.deadAt ax g p then [crossCopy m ax line g half (axisPhase ax) 3]
  else match m.move ax line p none up with
    | .hop _ | .bypass _ => [⟨portCode ax false up, 8 + half, ⟨axisPhase ax, false, 2⟩⟩]
    | _ => []

/-- The copies a router sends of what spreads (R147, R173), which came by a ring port with ROUTE bits `r`; `first` says that it starts
here. Beside the first ring a copy of a crossing ring starts over a hole at which one turns off (R62), and the copy itself goes on only
where it passes a gap. -/
def Spread.copies (x : Spread) (m : RingMap) (c : Coord) (cls half : Nat) (r : RouteBits) (port : Nat) (first : Bool) : List Copy :=
  let ax := x.ax
  let n := m.size ax
  let p := m.posOf ax c
  let along := fun d h => alongCopies m ax x.line p (x.ends d) cls h (axisPhase ax) d x.turns
  let ej := if x.inside c then [ejectCopy] else []
  let cross := if x.turns p then x.crossStart c else []
  let side := decide (span n x.start p true ≤ span n x.start (x.ends true) true)
  let up := travelUp port
  if first then ej ++ along true 0 ++ along false 0 ++ x.crossStart c
  else if r.detour = 0 ∧ portAxis port = ax then ej ++ along up half ++ cross
  else if r.detour = 0 then
    ej ++ alongCopies m ax.other (lineOf ax.other c) (m.posOf ax.other c) (x.crossEnd up) cls half (axisPhase ax.other) up (fun _ => false)
  else if r.phase = axisPhase ax then
    let d := if r.detour = 2 then up else side
    if lineOf ax c = x.line then ej ++ along d (m.rejoinHalf ax x.line p half d) ++ cross
    else
      let atop := m.deadAt ax x.line p
      let off := if atop && x.turns p then ej ++ x.crossStart c else []
      let more := ! atop || (m.inGap ax x.line p && decide (p ≠ x.ends d))
      off ++ (if more then besideCopy m ax (lineOf ax c) p x.line half r.detour d else [])
  else
    let bx := ax.other
    let q := m.posOf bx c
    if r.detour = 3 then
      let d := m.deadAt bx (lineOf bx c) (nextPos (m.size bx) q false)
      ej ++ alongCopies m bx (lineOf bx c) q (x.crossEnd d) cls (m.rejoinHalf bx (lineOf bx c) q half d)
        (axisPhase bx) d (fun _ => false)
    else match x.crossLine c up with
      | none => []
      | some g =>
        let d := if r.detour = 2 then up else m.deadAt bx g (nextPos (m.size bx) q true)
        besideCopy m bx (lineOf bx c) q g half r.detour d

/-- The crossing ring beside which a copy detours, of those at which one turns off: its hole is passed here (R60). -/
def besideLine (m : RingMap) (ax : Axis) (turns : Nat → Bool) (c : Coord) (up : Bool) : Option Nat :=
  let n := m.size ax
  let p := m.posOf ax c
  let bx := ax.other
  let q := m.posOf bx c
  (([nextPos n p true, nextPos n p false].filter turns).map (ringCoord n)).find? (fun g =>
    m.deadAt bx g q || m.deadAt bx g (nextPos (m.size bx) q true) || m.deadAt bx g (nextPos (m.size bx) q (! up)))

/-- A spread over a rectangle (R147, R173) that runs first along the ring of axis `ax` on which `c0` lies, then along the crossing rings, by
the shortest arcs. -/
def rectSpread (m : RingMap) (ax : Axis) (c0 : Coord) (x0 y0 x1 y1 cls : Nat) : Spread :=
  let n := m.size ax
  let lo := fun (a : Axis) => match a with | .row => x0 | .col => y0
  let hi := fun (a : Axis) => match a with | .row => x1 | .col => y1
  let arc := fun (a : Axis) => rectArc (m.size a) (lo a) (hi a)
  let turns := fun q => decide (lo ax ≤ ringCoord n q ∧ ringCoord n q ≤ hi ax)
  { ax := ax, line := lineOf ax c0, start := m.posOf ax c0, ends := arcEnd n (arc ax), turns := turns,
    inside := fun c => decide (x0 ≤ c.x ∧ c.x ≤ x1) && decide (y0 ≤ c.y ∧ c.y ≤ y1),
    crossStart := fun c => arcStart m ax.other c (arc ax.other) cls,
    crossEnd := arcEnd (m.size ax.other) (arc ax.other),
    crossLine := besideLine m ax turns }

/-- The members of a rectangle that are holes and that the copies leaving router `c` would have come to next (R174): those ahead of it on the
ring of axis `ax` from `c0` and on the crossing rings, where those of the first ring are left to it. The arguments are those of
`Spread.copies`. -/
def rectAhead (m : RingMap) (ax : Axis) (c0 : Coord) (x0 y0 x1 y1 : Nat) (c : Coord) (r : RouteBits) (port : Nat) (first : Bool) : List Coord :=
  let x := rectSpread m ax c0 x0 y0 x1 y1 0
  let bx := ax.other
  let n := m.size ax
  let p := m.posOf ax c
  let q := m.posOf bx c
  let up := travelUp port
  let run := fun (a : Axis) (e : Nat) (d : Bool) => m.holesAhead a (lineOf a c) e d (m.size a) (m.posOf a c)
  let along := fun d => run ax (x.ends d) d
  let cross := fun d => (run bx (x.crossEnd d) d).filter (fun h => decide (lineOf ax h ≠ x.line))
  let lo := match bx with | .row => x0 | .col => y0
  let hi := match bx with | .row => x1 | .col => y1
  let off := if x.turns p then (arcDirs m bx c (rectArc (m.size bx) lo hi)).flatMap cross else []
  let l := if first then along true ++ along false ++ off
    else if r.detour = 0 ∧ portAxis port = ax then along up ++ off
    else if r.detour = 0 then cross up
    else if r.phase = axisPhase ax then
      let d := if r.detour = 2 then up else decide (span n x.start p true ≤ span n x.start (x.ends true) true)
      if lineOf ax c = x.line then along d ++ off else if m.deadAt ax x.line p then off else []
    else if r.detour = 3 then cross (m.deadAt bx (lineOf bx c) (nextPos (m.size bx) q false))
    else []
  l.filter x.inside

/-- The end of a run both ways round a ring of `n` from position `p` (R147): the increasing copy covers ⌊n/2⌋ positions and the decreasing
one the rest, which settles a tie the rule leaves open (log 85). -/
def halfEnd (n p : Nat) (up : Bool) : Nat := posOn n p (if up then n / 2 else (n - 1) / 2) up

/-- An engine broadcast (R147): both ways round the originator's row ring, turning into both directions of every column ring. `org` is the
originator on the row, and on a column the cell where its copy turned off. -/
def engineSpread (m : RingMap) (org : Coord) (cls : Nat) : Spread :=
  { ax := .row, line := org.y, start := m.posOf .row org, ends := halfEnd m.nx (m.posOf .row org), turns := fun _ => true,
    inside := fun _ => true,
    crossStart := fun c =>
      let p := m.posOf .col c
      let dir := fun up => alongCopies m .col c.x p (halfEnd m.ny p up) cls 0 1 up (fun _ => false)
      dir true ++ dir false,
    crossEnd := halfEnd m.ny (m.posOf .col org),
    crossLine := fun _ _ => some org.x }

/-- The copies a router sends of a packet to a rectangle that came by an input port on a lane (R173); `copy` says that it is a copy and not
the packet on its way to the first corner, which takes its unicast hop. None where that hop drops it. -/
def rectCopies (m : RingMap) (cfg : RouteCfg) (c : Coord) (pk : Packet) (row : Option Nat) (port lane : Nat) (copy : Bool) :
    Option (List Copy) :=
  match rectOf pk with
  | none => none
  | some (x0, y0, x1, y1) =>
    let corner : Coord := ⟨x0, y0⟩
    if copy ∨ c = corner then
      some ((rectSpread m .row corner x0 y0 x1 y1 pk.cls).copies m c pk.cls (lane % 2)
        (m.ownRoute c ⟨none, none⟩ pk.route port lane) port (! copy))
    else
      match m.nextHop cfg c corner row pk.cls pk.route port lane with
      | .out q l r' _ => some [⟨q, l, r'⟩]
      | _ => none

end Sys2Proof.Machine
end

