-- ==== Sys2Proof/Machine/CtxOps.lean ====
section
/-! DEFINITION. A collective context as committed (R213 to R215): its members, arcs and roots (R220, R221), the slices
that are checked and by whom (R339, R341), its arithmetic (R187, R188), and the way a Collective packet takes (R226, R256). -/

namespace Sys2Proof.Machine

/-- A field of a context's record. -/
def State.ctx (s : State) (k sub : Nat) : Nat := s.reg .engine k 0x5000 sub

/-- Is a cell in an entry (X0, Y0, X1, Y1) of a table of rectangles (*RECTS*)? -/
def inRect (w : Nat) (c : Coord) : Bool :=
  decide (bits w 0 9 ≤ c.x) && decide (bits w 9 9 ≤ c.y) && decide (c.x ≤ bits w 18 9) && decide (c.y ≤ bits w 27 9)

/-- Entries held by a table that software writes: its register holds the byte count (R376). -/
def State.tabHeld (s : State) (n : Node) (inst idx sub ent : Nat) : Nat := s.reg n inst idx sub / ent

/-- The rectangles of a RECTS table. -/
def State.rectList (s : State) (n : Node) (inst idx sub : Nat) : List Nat :=
  (List.range (min 8 (s.tabHeld n inst idx sub 8))).map (fun i => s.tabNat n inst idx sub (8 * i) 8)

/-- Is a cell a member by a context's RECTS or FIELD_MAP (R150, R213)? -/
def State.memberOf (s : State) (inst idx rects maps : Nat) (c : Coord) : Bool :=
  (s.rectList .engine inst idx rects).any (fun w => inRect w c) ||
    bit (s.tabNat .engine inst idx maps (s.fieldOf c / 8) 1) (s.fieldOf c % 8)

/-- The cells of the grid. -/
def State.allCells (s : State) : List Coord := rectCells 0 0 (s.gx - 1) (s.gy - 1)

/-- Bounding rectangle (X0, Y0, X1, Y1) of a list of cells. -/
def boundingRect : List Coord → Nat × Nat × Nat × Nat
  | [] => (0, 0, 0, 0)
  | c :: cs => cs.foldl (fun r d => (min r.1 d.x, min r.2.1 d.y, max r.2.2.1 d.x, max r.2.2.2 d.y)) (c.x, c.y, c.x, c.y)

/-- The member geometry of a context: grid, rectangles, field map, and the holes of its commit. -/
structure Geo where
  nx : Nat
  ny : Nat
  fx : Nat
  rects : List Nat
  fmap : Nat
  holes : List Coord
  pattern : Nat
  seg : Bool
  rot : Nat
  root : Coord
  slices : Nat
  n : Nat
  here : Bool
  deriving DecidableEq, Repr

/-- What a commit armed for a context, if it is armed. -/
def State.arm? (s : State) (k : Nat) : Option ArmSt := SMap.get none s.armed k

/-- Does this engine's CTX_ROOT cell land the result of a REDUCE, or deposit for a BROADCAST: OUT_ENG of a context with a level map, and any
engine without one (R249, R264)? -/
def State.outHere (s : State) (k : Nat) : Bool :=
  decide (s.reg .engine k 0x5000 0x16 = 0) || decide (s.tabNat .engine k 0x5000 0x16 0 16 % 4 = 0) ||
    decide (bits (s.tabNat .engine k 0x5000 0x16 0 16) 16 11 = s.engine)

/-- The geometry of an armed context. -/
def State.geo (s : State) (k : Nat) : Geo :=
  let r := addrOf (s.ctx k 0x0E)
  ⟨s.gx, s.gy, s.build.fx, s.rectList .engine k 0x5000 3, s.tabNat .engine k 0x5000 4 0 40,
    match s.arm? k with | some a => a.holes | none => [],
    s.ctx k 2, decide (s.ctx k 0x0F = 1), s.ctx k 0x10, ⟨r.x, r.y⟩, s.ctx k 0x0D, s.ctx k 0x1F, s.outHere k⟩

/-- Is the cell a live member (R215)? -/
def Geo.member (g : Geo) (c : Coord) : Bool :=
  (g.rects.any (fun w => inRect w c) || bit g.fmap (c.y / 20 * g.fx + c.x / 24)) && ! g.holes.contains c

/-- May row `y` hold a member at all? -/
def Geo.rowHint (g : Geo) (y : Nat) : Bool :=
  g.rects.any (fun w => decide (bits w 9 9 ≤ y) && decide (y ≤ bits w 27 9)) || decide (g.fmap ≠ 0)

/-- Member columns of a row, ascending. -/
def Geo.rowMembers (g : Geo) (y : Nat) : List Nat :=
  if g.rowHint y then (List.range g.nx).filter (fun x => g.member ⟨x, y⟩) else []

/-- Rows that hold a member, ascending. -/
def Geo.rows (g : Geo) : List Nat :=
  (List.range g.ny).filter (fun y => g.rowHint y && (List.range g.nx).any (fun x => g.member ⟨x, y⟩))

/-- The members in order (R215). -/
def Geo.members (g : Geo) : List Coord := (List.range g.ny).flatMap (fun y => (g.rowMembers y).map (fun x => ⟨x, y⟩))

/-- Columns that hold a member, ascending (R221). -/
def Geo.cols (g : Geo) : List Nat := (List.range g.nx).filter (fun x => (List.range g.ny).any (fun y => g.member ⟨x, y⟩))

/-- Slices a member owns, Q (R215). -/
def Geo.q (g : Geo) : Nat := g.slices / g.n

/-- Member index j (R215). -/
def Geo.index (g : Geo) (c : Coord) : Nat := (g.members.findIdx? (· == c)).getD 0

/-- The owner's cell of a slice. -/
def Geo.owner (g : Geo) (k : Nat) : Coord := nth g.members (k / g.q) ⟨0, 0⟩

/-- The root of slice `k` (R221, R244): REDUCE_SCATTER 2 and ALLGATHER 3 their owner, BROADCAST 4 CTX_ROOT. -/
def Geo.rootOf (g : Geo) (k : Nat) : Coord :=
  if g.pattern = 2 ∨ g.pattern = 3 then g.owner k
  else if g.pattern ≠ 4 ∧ g.seg then
    let cs := g.cols
    ⟨nth cs ((k + g.rot) % cs.length) 0, g.root.y⟩
  else g.root

/-- The shortest arc that holds the given rising ring positions (R173): lowest end and length; the complement of the
largest gap, and of two the one whose increasing end is lower. -/
def minArc (n : Nat) (ps : List Nat) : Nat × Nat :=
  let arcs := (ps.zip (ps.getLastD 0 :: ps)).map (fun pq =>
    -- the arc that begins at pq.1 ends at its predecessor pq.2
    (pq.1, span n pq.1 pq.2 true))
  arcs.foldl (fun b a =>
    if a.2 < b.2 ∨ (a.2 = b.2 ∧ (a.1 + a.2) % n < (b.1 + b.2) % n) then a else b) (arcs.headD (0, 0))

/-- A sweep arc (R220): over the members' positions and the target's; a full ring is cut half the ring away. -/
def sweepArc (n target : Nat) (ps : List Nat) : Nat × Nat :=
  if ps.length = n then ((target + cdiv n 2) % n, n - 1) else minArc n ps

/-- The sweep arc of row `y` toward column `x` (R220). -/
def Geo.rowArc (g : Geo) (y x : Nat) : Nat × Nat :=
  let cs := g.rowMembers y
  sweepArc g.nx (ringPos g.nx x) ((List.range g.nx).filter (fun p => ringCoord g.nx p == x || cs.contains (ringCoord g.nx p)))

/-- The sweep arc of column `x` toward row `y` (R220): over the rows that hold members and the root's row. -/
def Geo.colArc (g : Geo) (y : Nat) : Nat × Nat :=
  let rs := g.rows
  sweepArc g.ny (ringPos g.ny y) ((List.range g.ny).filter (fun p => ringCoord g.ny p == y || rs.contains (ringCoord g.ny p)))

/-- Which way position `p` travels an arc toward `t`: up or down. -/
def arcUp (n : Nat) (arc : Nat × Nat) (p t : Nat) : Bool := decide (span n arc.1 p true < span n arc.1 t true)

/-- Is a position an end of an arc, other than the target? -/
def arcOrigin (n : Nat) (arc : Nat × Nat) (p t : Nat) : Bool :=
  decide (p ≠ t) && (decide (p = arc.1) || decide (p = (arc.1 + arc.2) % n))

/-- Row halves that reach the gathering router of row `y` on column `x` (R222). -/
def Geo.rowHalves (g : Geo) (y x : Nat) : Nat :=
  let arc := g.rowArc y x
  let t := ringPos g.nx x
  b2n (decide (t ≠ arc.1)) + b2n (decide (t ≠ (arc.1 + arc.2) % g.nx))

/-- Does a row half, a column half or a partial of another router reach the root (R225)? -/
def Geo.expects (g : Geo) (r : Coord) : Bool := decide (0 < g.rowHalves r.y r.x) || decide (0 < (g.colArc r.y).2)

/-- Slices of an epoch whose root is the cell. -/
def Geo.rooted (g : Geo) (c : Coord) : Nat :=
  if g.pattern = 2 ∨ g.pattern = 3 then (if g.member c then g.q else 0)
  else if g.pattern = 5 then 0
  else if g.pattern ≠ 4 ∧ g.seg then
    let cs := g.cols
    match cs.findIdx? (· == c.x) with
    | some i => if c.y = g.root.y then
        let j := (i + cs.length - g.rot % cs.length) % cs.length
        if j < g.slices then cdiv (g.slices - j) cs.length else 0
      else 0
    | none => 0
  else if c = g.root ∧ (g.pattern ≠ 4 ∨ g.here) then g.slices else 0

/-- Does slice `k` land at the cell (R244)? -/
def Geo.lands (g : Geo) (c : Coord) (k : Nat) : Bool :=
  if g.pattern = 0 then decide (c = g.root) && g.here
  else if g.pattern = 2 then decide (g.owner k = c)
  else if g.pattern = 5 then false
  else g.member c

/-- Slices of an epoch that land at the cell. -/
def Geo.expected (g : Geo) (c : Coord) : Nat :=
  if g.pattern = 0 then (if c = g.root ∧ g.here then g.slices else 0)
  else if g.pattern = 5 then 0
  else if ! g.member c then 0
  else if g.pattern = 2 then g.q else g.slices

/-- Position of slice `k` in the output area (R244). -/
def Geo.outPos (g : Geo) (k : Nat) : Nat := if g.pattern = 2 then k % g.q else k

/-- The roots of a context (R213, R214, R244): the root cells of a sweep, CTX_ROOT of BROADCAST, the owners of REDUCE_SCATTER and ALLGATHER;
none for EXCHANGE. -/
def Geo.roots (g : Geo) : List Coord :=
  if g.pattern = 5 then []
  else if g.pattern = 2 ∨ g.pattern = 3 then g.members
  else if g.seg ∧ g.pattern ≤ 1 then g.cols.map (fun x => ⟨x, g.root.y⟩)
  else [g.root]

/-- May the cell deposit slices `k` to `k + n − 1` (R107, R244)? -/
def Geo.mayDeposit (g : Geo) (c : Coord) (k n : Nat) : Bool :=
  decide (k + n ≤ g.slices) && g.member c &&
    (if g.pattern = 3 then decide (g.index c * g.q ≤ k) && decide (k + n ≤ (g.index c + 1) * g.q)
     else if g.pattern = 4 then decide (c = g.root) && g.here else true)

/-! ### Checked slices (R339, R341) -/

/-- Is slice `k` of an epoch checked (R339)? -/
def State.selected (s : State) (ctx epoch k : Nat) : Bool :=
  let z := s.ctx ctx 0x15
  decide (z ≠ 0) && decide ((k + (ctx * 0x9E37 + epoch * 0x79B9) % 65536) % 2 ^ z = 0)

/-- The router that takes a role meant for `c` (R341): the next live router of its field, in member order. -/
def State.roleAt (s : State) (c : Coord) : Option Coord :=
  let f := s.agentCell (s.fieldOf c)
  let cells := rectCells f.x f.y (f.x + 23) (f.y + 19)
  let i := (cells.findIdx? (· == c)).getD 0
  (cells.drop i ++ cells.take i).find? (fun d => ! s.holes.any (fun h => h.c == d))

/-- The router one rotation shift from the primary root (R341). -/
def State.rotated (s : State) (r : Coord) (i : Nat) : Option Coord :=
  let dx := if i % 4 = 0 ∨ i % 4 = 3 then 24 else s.gx - 24
  let dy := if i % 4 = 0 ∨ i % 4 = 1 then 20 else s.gy - 20
  s.roleAt ⟨(r.x + dx) % s.gx, (r.y + dy) % s.gy⟩

/-- The check root of a slice, if the slice is checked (R339, R341). -/
def State.checkRoot (s : State) (ctx epoch k : Nat) : Option Coord :=
  if s.selected ctx epoch k then s.rotated ((s.geo ctx).rootOf k) (k + epoch) else none

/-- The third millstone of a slice (R341). -/
def State.thirdMill (s : State) (ctx epoch k : Nat) : Option Coord :=
  if s.selected ctx epoch k then s.rotated ((s.geo ctx).rootOf k) (k + epoch + 1) else none

/-- The root of a computation of a slice: 0 anchor pass and 1 value reduction, 2 check reduction, 3 third computation. -/
def State.rootFor (s : State) (ph ctx epoch k : Nat) : Option Coord :=
  if ph = 2 then s.checkRoot ctx epoch k
  else if ph = 3 then s.thirdMill ctx epoch k
  else some ((s.geo ctx).rootOf k)

/-! ### The way of a Collective packet (R220, R226, R256) -/

/-- A packet's Collective tail. -/
def collTail (p : Packet) : CollTail :=
  match p.tail with
  | .coll t => t
  | _ => ⟨0, 0, 0, 0, 0, 0, 0, 0, false, false, false, false⟩

/-- Does the packet travel a sweep arc: a SWEEP, ANCHOR or CHECK of level 0 with PASS = 0 on its way to a pond (log 31)? -/
def isSweep (p : Packet) : Bool :=
  let t := collTail p
  decide (t.level = 0) && ! t.pass && decide (p.dest.tgt = 3) &&
    (decide (p.typ = 0x21) || decide (p.typ = 0x24) ||
      (decide (p.typ = 0x20) && ! (decide (p.dest.x = p.src.x) && decide (p.dest.y = p.src.y))))

/-- Is the packet a result broadcast, an anchor broadcast or a recheck notice (R226, R229, R347)? -/
def isSpread (p : Packet) (pattern : Nat) : Bool :=
  let t := collTail p
  decide (t.level = 0) && decide (p.dest.tgt = 3) && decide (p.dest.x = p.src.x) && decide (p.dest.y = p.src.y) &&
    (decide (p.typ = 0x20) || (decide (p.typ = 0x23) && (t.pass || ! (decide (pattern = 0) || decide (pattern = 2)))))

/-- The copies by which a sweep half goes on from a router toward its target, or none where it ends (R220): along its ring's sweep arc, past
gaps beside it (R61). Its ring is the row of its SRC, or the column of its DEST. -/
def Geo.sweepCopies (g : Geo) (m : RingMap) (c : Coord) (p : Packet) (r : RouteBits) (port half : Nat) : List Copy :=
  let ax := if (collTail p).phase = 0 then Axis.row else Axis.col
  let line := match ax with | .row => if r.detour = 0 then c.y else p.src.y | .col => p.dest.x
  let n := m.size ax
  let arc := match ax with | .row => g.rowArc line p.dest.x | .col => g.colArc p.dest.y
  let a := m.posOf ax c
  let b := match ax with | .row => ringPos n p.dest.x | .col => ringPos n p.dest.y
  let up := if r.detour = 2 then travelUp port else arcUp n arc a b
  if r.detour ≠ 0 ∧ lineOf ax c ≠ line then besideCopy m ax (lineOf ax c) a line half r.detour up
  else alongCopies m ax line a b 2 (if r.detour = 0 then half else m.rejoinHalf ax line a half up) (axisPhase ax) up (fun _ => false)

/-- A result broadcast as a spread (R226): along the root column over its sweep arc, turning at each member row into that row's arc, for
the member routers. `c` is the router it stands at, whose row's arc a copy on a row runs over. -/
def Geo.resultSpread (g : Geo) (m : RingMap) (root c : Coord) : Spread :=
  let turns := fun q => g.rows.contains (ringCoord m.ny q)
  { ax := .col, line := root.x, start := m.posOf .col root, ends := arcEnd m.ny (g.colArc root.y), turns := turns,
    inside := g.member,
    crossStart := fun d => arcStart m .row d (g.rowArc d.y root.x) 2,
    crossEnd := arcEnd m.nx (g.rowArc c.y root.x),
    crossLine := besideLine m .col turns }

/-- The copies of a result broadcast at a router that it reached by an input port (R226); it starts at the root's cell port. -/
def Geo.spreadCopies (g : Geo) (m : RingMap) (c : Coord) (p : Packet) (r : RouteBits) (port half : Nat) : List Copy :=
  (g.resultSpread m ((⟨p.dest.x, p.dest.y⟩ : Coord)) c).copies m c 2 half r port (decide (port = 8))

/-! ### Arithmetic of a context (R187, R188) -/

/-- The arithmetic fields of a context. -/
structure Spec where
  op : Nat
  mode : Nat
  fin : Nat
  fout : Nat
  acc : Nat
  carrier : Nat
  window : Nat
  rtz : Bool
  sat : Bool
  decl : Nat
  table : Bool
  deriving DecidableEq, Repr

/-- The window in force: 0 selects the default of R189; integers take 0. -/
def windowOf (fin f : Nat) : Nat :=
  if isIntFmt fin then 0 else if f ≠ 0 then f else if fin = 0 then 44 else if fin ≤ 2 then 24 else 10

/-- The arithmetic of a context. -/
def State.spec (s : State) (k : Nat) : Spec :=
  let fs := s.ctx k 7
  let fin := bits fs 0 5
  ⟨s.ctx k 5, s.ctx k 6, fin, bits fs 8 5, bits fs 16 5, bits fs 24 5, windowOf fin (s.ctx k 8), bit (s.ctx k 9) 0,
    bit (s.ctx k 9) 1, bits (s.ctx k 0x0A) 0 8, bit (s.ctx k 0x0A) 8⟩

/-- SUM of floating-point inputs on anchors (R189). -/
def Spec.anchored (a : Spec) : Bool := decide (a.op = 0) && decide (a.mode ≠ 2) && ! isIntFmt a.fin

/-- Does an anchor pass run (R229)? -/
def Spec.measured (a : Spec) : Bool := a.anchored && decide (a.mode = 0)

/-- Partials travel as PP: anchored and integer SUM (R187). -/
def Spec.packed (a : Spec) : Bool := a.anchored || (decide (a.op = 0) && isIntFmt a.fin)

/-- FMT of a partial on the wire (R187). -/
def Spec.wire (a : Spec) : Nat :=
  if a.packed then 0x12 else if isIntFmt a.fin ∨ a.op = 6 then a.fin else 0x00

/-- Anchor blocks of a slice. -/
def Spec.blocks (a : Spec) : Nat := sliceBlocks a.fin

/-- Accumulator bits: AC64 or AC32. -/
def Spec.accBits (a : Spec) : Nat := if a.acc = 0x10 then 64 else 32

end Sys2Proof.Machine
end

