-- ==== Sys2Proof/Machine/Piece.lean ====
section
/-! DEFINITION. Anchor blocks as millstones handle them: conversion of a contribution (R190, R200, R201), merging (R192,
R197, R203, R204), conversion to the output (R205 to R208) and to a carrier (R196), and the piece records of Collective
payloads (R194, R195, R212). -/

namespace Sys2Proof.Machine

/-! ### Contributions -/

/-- A raw block of a slice as it stands in memory: element encodings, and the scale byte of an MX block (R185). -/
def rawBlk (fmt : Nat) (raw : List Byte) (j : Nat) : Blk :=
  ⟨if isMx fmt then (raw.getD j 0).toNat else 0, (blockRaw fmt raw j).map (fun (w : Nat) => (w : Int)), List.replicate 32 0⟩

/-- The contribution of one block in its accumulators (R190, R200, R201, R203), with its flags. A NaN that a direct-mode SUM
takes in sets INVALID here (R209; DEDUCED, log 131). -/
def ownBlk (a : Spec) (raw : List Byte) (anchor j : Nat) : Blk × Nat :=
  if a.op = 6 ∨ (isIntFmt a.fin ∧ a.op ≠ 0) then (rawBlk a.fin raw j, 0)
  else if isIntFmt a.fin then
    (⟨0, (blockRaw a.fin raw j).map (toSigned (fmtBits a.fin)), List.replicate 32 0⟩, 0)
  else
    let vs := blockVals a.fin raw j
    if a.anchored then
      let one : Val × Nat → Int × Nat × Nat := fun vf =>
        match vf.1 with
        | .fin neg m e => let r := toAcc neg m e anchor a.window; (r.1, 0, r.2 ||| vf.2)
        | .nan => (0, 3, 8 ||| vf.2)
        | v => (0, valStatus v, vf.2)
      let es := vs.map one
      (⟨anchor, es.map (fun x => x.1), es.map (fun x => x.2.1)⟩, es.foldl (fun f x => f ||| x.2.2) 0)
    else
      (⟨0, vs.map (fun v => ((toFp32 v.1 : Nat) : Int)), List.replicate 32 0⟩,
        vs.foldl (fun f v => f ||| v.2 ||| (match v.1 with | .nan => (if a.op = 0 then 8 else 0) | _ => 0)) 0)

/-- Elements of a block that saturate on conversion (R190, SATURATIONS). -/
def saturations (a : Spec) (raw : List Byte) (anchor j : Nat) : Nat :=
  if a.anchored then
    ((blockVals a.fin raw j).filter (fun v => match v.1 with
      | .fin neg m e => decide ((toAcc neg m e anchor a.window).2 = 20)
      | _ => false)).length
  else 0

/-! ### Merging -/

/-- Signed or bitwise combination of integer elements (R203, R204). -/
def intCombine (op w : Nat) (x y : Int) : Int :=
  let a := x.toNat
  let b := y.toNat
  if op = 1 then (if toSigned w a < toSigned w b then y else x)
  else if op = 2 then (if toSigned w b < toSigned w a then y else x)
  else if op = 3 then ((a &&& b : Nat) : Int)
  else if op = 4 then ((a ||| b : Nat) : Int)
  else if op = 5 then ((a ^^^ b : Nat) : Int)
  else x

/-- Two partials of one block merged (R192, R197, R200, R203, R204) with the flags raised; none where their anchors
differ (R212). `ph` 0 is the anchor pass. -/
def mergeBlk (a : Spec) (ph : Nat) (x y : Blk) : Option (Blk × Nat) :=
  if ph = 0 then some (⟨max x.a y.a, [], []⟩, 0)
  else if a.packed then
    if x.a ≠ y.a then none
    else
      let st := (x.sts.zip y.sts).map (fun p => mergeStatus p.1 p.2)
      let vs := ((x.vals.zip y.vals).zip st).map (fun p => if p.2.1 = 0 then p.1.1 + p.1.2 else 0)
      some (⟨x.a, vs, st.map Prod.fst⟩, st.foldl (fun f p => f ||| p.2) 0)
  else if isIntFmt a.fin then
    some (⟨x.a, (x.vals.zip y.vals).map (fun p => intCombine a.op (fmtBits a.fin) p.1 p.2), x.sts⟩, 0)
  else if a.op = 0 then
    let rs := (x.vals.zip y.vals).map (fun p => fp32Add p.1.toNat p.2.toNat)
    some (⟨x.a, rs.map (fun r => ((r.1 : Nat) : Int)), x.sts⟩, rs.foldl (fun f r => f ||| r.2) 0)
  else if a.op = 6 then none
  else
    some (⟨x.a, (x.vals.zip y.vals).map (fun p => ((fp32Pick (decide (a.op = 1)) p.1.toNat p.2.toNat : Nat) : Int)),
      x.sts⟩, 0)

/-! ### Partials -/

/-- A partial of `n` blocks that holds nothing. -/
def emptyPart (n : Nat) : Part := ⟨List.replicate n none, 0⟩

/-- Does a partial hold nothing? -/
def Part.isEmpty (p : Part) : Bool := p.cells.all Option.isNone

/-- A slice's count: that of its last block, which travels last (log 32). -/
def Part.count (p : Part) : Nat :=
  match p.cells.getLast? with
  | some (some x) => x.2
  | _ => 0

/-- Merge a block with its count into a partial; none where the anchors differ. The flags raised are the second part. -/
def Part.add (a : Spec) (ph : Nat) (p : Part) (j : Nat) (b : Blk) (n : Nat) : Option (Part × Nat) :=
  match p.cells.getD j none with
  | none => some ({ p with cells := setAt p.cells j (some (b, n)) }, 0)
  | some x => match mergeBlk a ph x.1 b with
    | some r => some (⟨setAt p.cells j (some (r.1, x.2 + n)), p.flags ||| r.2⟩, r.2)
    | none => none

/-- Merge one partial into another, block by block; none where any anchors differ. -/
def Part.join (a : Spec) (ph : Nat) (p q : Part) : Option (Part × Nat) :=
  ((List.range q.cells.length).zip q.cells).foldl (fun acc jb =>
    match acc, jb.2 with
    | some r, some b => match r.1.add a ph jb.1 b.1 b.2 with
      | some z => some (z.1, r.2 ||| z.2)
      | none => none
    | acc, _ => acc) (some ({ p with flags := p.flags ||| q.flags }, 0))

/-- Would adding `q` take the count of any of its blocks past `n` (R240)? -/
def Part.overflows (p q : Part) (n : Nat) : Bool :=
  (p.cells.zip q.cells).any (fun xy => match xy.2 with
    | some y => decide (n < y.2 + (match xy.1 with | some x => x.2 | none => 0))
    | none => false)

/-- The block of a partial, zero where nothing is held. -/
def Part.blk (p : Part) (j : Nat) : Blk :=
  match p.cells.getD j none with
  | some x => x.1
  | none => ⟨0, List.replicate 32 0, List.replicate 32 0⟩

/-! ### Output (R205 to R208) and carriers (R196) -/

/-- One block in the output format: scale byte, element encodings, flags. `E` is its anchor, `F` the window. -/
def outBlk (a : Spec) (E : Int) (F : Nat) (b : Blk) : Blk × Nat :=
  let q := floatFmt a.fout
  match a.packed, isIntFmt a.fin, q with
  | true, true, _ =>
    let rs := b.vals.map (intOut (fmtBits a.fout) a.sat)
    (⟨0, rs.map (fun r => ((r.1 : Nat) : Int)), []⟩, rs.foldl (fun f r => f ||| r.2) 0)
  | true, false, some q =>
    let es := (b.vals.zip b.sts).map (fun v => (v.1, E - (F : Int), v.2))
    if isMx a.fout then
      let r := mxOut a.fout q a.rtz a.sat es
      (⟨r.1, r.2.1.map (fun w => ((w : Nat) : Int)), []⟩, r.2.2)
    else
      let rs := es.map (fun e => elemOut q a.rtz a.sat e.1 e.2.1 e.2.2)
      (⟨0, rs.map (fun r => ((r.1 : Nat) : Int)), []⟩, rs.foldl (fun f r => f ||| r.2) 0)
  | false, false, some q =>
    if a.op = 6 then (b, 0)
    else
      let ps := b.vals.map (fun v => fp32Parts v.toNat)
      let sign := fun (neg : Bool) => if neg then 2 ^ (q.bits - 1) else 0
      let nan := if ps.any (fun p => decide (p.2.2.1 = 3)) then 8 else 0
      if isMx a.fout then
        let r := mxOut a.fout q a.rtz a.sat (ps.map (fun p => (p.1, p.2.1, p.2.2.1)))
        (⟨r.1, (r.2.1.zip ps).map (fun w => ((w.1 + (if r.1 = 0xFF then 0 else sign w.2.2.2.2) : Nat) : Int)), []⟩,
          r.2.2 ||| nan)
      else
        let rs := ps.map (fun p =>
          let r := elemOut q a.rtz a.sat p.1 p.2.1 p.2.2.1
          (r.1 + sign p.2.2.2, r.2))
        (⟨0, rs.map (fun r => ((r.1 : Nat) : Int)), []⟩, rs.foldl (fun f r => f ||| r.2) nan)
  | _, _, _ => (b, 0)

/-- The bytes of a slice whose blocks hold element encodings of a format (R185). -/
def sliceOf (fmt : Nat) (bs : List Blk) : List Byte :=
  let w := fmtBits fmt
  let elems := bs.flatMap (fun b =>
    leBytes (4 * w) (((List.range 32).zip b.vals).foldl (fun n iv => n + iv.2.toNat % 2 ^ w * 2 ^ (w * iv.1)) 0))
  if isMx fmt then bs.map (fun b => BitVec.ofNat 8 b.a) ++ elems else elems

/-- An accumulator as a carrier mantissa of `W` bits (R196): A · 2^(E − F − E_c + W − 2), saturated past W bits. -/
def mantissa (W : Nat) (sh : Int) (A : Int) : Int × Nat :=
  let r := roundShift A.natAbs sh
  let top := 2 ^ (W - 1)
  let m := if top ≤ r.1 then top - 1 else r.1
  let fl := if top ≤ r.1 then 16 + 4 else if r.2 then 4 else 0
  (if A < 0 then -(m : Int) else (m : Int), fl)

/-- A block as a carrier on anchor byte `ec` (R196, R258). -/
def carrierBlk (W : Nat) (E : Int) (F : Nat) (ec : Nat) (b : Blk) : Blk × Nat :=
  let rs := b.vals.map (mantissa W (E - (F : Int) - anchorExp ec + (W : Int) - 2))
  (⟨ec, rs.map Prod.fst, b.sts⟩, rs.foldl (fun f r => f ||| r.2) 0)

/-- Elements of a block that saturate as it becomes a carrier (R196, R212). -/
def carrierSats (W : Nat) (E : Int) (F : Nat) (ec : Nat) (b : Blk) : Nat :=
  (b.vals.filter (fun A => bit (mantissa W (E - (F : Int) - anchorExp ec + (W : Int) - 2) A).2 4)).length

/-- A partial whose blocks become carriers, each from its own anchor with window F onto the anchor byte that `ec` gives it (R258),
with the flags that raises and the elements it saturates. -/
def carriers (W F : Nat) (ec : Nat → Blk → Nat) (part : Part) : Part × Nat × Nat :=
  let rs := (List.range part.cells.length).map (fun j => match part.cells.getD j none with
    | some x =>
      let E := anchorExp x.1.a
      let r := carrierBlk W E F (ec j x.1) x.1
      (some (r.1, x.2), r.2, carrierSats W E F (ec j x.1) x.1)
    | none => (none, 0, 0))
  let raised := rs.foldl (fun f r => f ||| r.2.1) 0
  (⟨rs.map Prod.fst, part.flags ||| raised⟩, raised, rs.foldl (fun n r => n + r.2.2) 0)

/-! ### Piece records (R194, R195) -/

/-- A piece: blocks `b0` onward of slice `k` with the slice flags. -/
structure Piece where
  k : Nat
  b0 : Nat
  blks : List Blk
  flags : Nat
  deriving DecidableEq, Repr

/-- Bits of a number. -/
def bitLen (n : Nat) : Nat := if n = 0 then 0 else Nat.log2 n + 1

/-- The least PP width of a block (R194). -/
def ppWidth (vs : List Int) : Nat :=
  vs.foldl (fun w v => max w (if v = 0 then 0 else if v < 0 then bitLen (v.natAbs - 1) + 1 else bitLen v.natAbs + 1)) 0

/-- 32 signed values of `w` bits as a little-endian bit stream. -/
def packVals (w : Nat) (vs : List Int) : List Byte :=
  leBytes (4 * w) (((List.range vs.length).zip vs).foldl (fun n iv => n + ofSigned w iv.2 * 2 ^ (w * iv.1)) 0)

/-- The special map of a block (R193). -/
def specialMap (b : Blk) : List Byte :=
  leBytes 8 (((List.range 32).zip b.sts).foldl (fun n iv => n + iv.2 % 4 * 4 ^ iv.1) 0)

/-- Does a block hold a status that is not normal? -/
def Blk.special (b : Blk) : Bool := b.sts.any (· != 0)

/-- The body of a record: anchors or scales, special maps, and values, by FMT (R195). -/
def pieceBody (fmt : Nat) (anch spv : Bool) (bs : List Blk) : List Byte :=
  let heads := bs.map (fun b => BitVec.ofNat 8 b.a)
  let maps := if spv then bs.flatMap specialMap else []
  if anch then heads
  else if fmt = 0x12 then
    heads ++ maps ++ bs.flatMap (fun b => let w := ppWidth b.vals; BitVec.ofNat 8 w :: packVals w b.vals)
  else if fmt = 0x13 ∨ fmt = 0x14 then
    heads ++ maps ++ bs.flatMap (fun b => packVals (if fmt = 0x13 then 16 else 24) b.vals)
  else sliceOf fmt bs

/-- A piece record (R195): its 8-byte header, body, and padding to a multiple of 8. -/
def pieceBytes (fmt : Nat) (anch : Bool) (k0 : Nat) (p : Piece) : List Byte :=
  let spv := decide (0x12 ≤ fmt) && ! anch && p.blks.any Blk.special
  let body := pieceBody fmt anch spv p.blks
  let len := 8 * cdiv (8 + body.length) 8
  leBytes 8 (pack [(0, 7, p.k - k0), (8, 4, p.b0), (12, 4, p.b0 + p.blks.length - 1), (16, 1, b2n spv),
    (17, 1, p.flags / 16), (18, 1, p.flags / 4), (19, 1, p.flags), (20, 1, p.flags / 8), (21, 1, p.flags / 2),
    (22, 1, p.flags / 32), (32, 16, len)]) ++ padTo (len - 8) body

/-- The flags of a record header as a mask. -/
def pieceFlags (h : Nat) : Nat :=
  b2n (bit h 19) + 2 * b2n (bit h 21) + 4 * b2n (bit h 18) + 8 * b2n (bit h 20) + 16 * b2n (bit h 17) + 32 * b2n (bit h 22)

/-- Read `n` PP blocks; none where a width passes the accumulator's or the bytes run out. -/
def readPp (acc : Nat) : Nat → List Byte → Option (List (List Int))
  | 0, _ => some []
  | n + 1, bs =>
    let w := (bs.headD 0).toNat
    let rest := bs.drop 1
    if bs.isEmpty ∨ acc < w ∨ rest.length < 4 * w then none
    else
      let v := leNat (rest.take (4 * w))
      (readPp acc n (rest.drop (4 * w))).map (fun l => (List.range 32).map (fun i => if w = 0 then 0 else toSigned w (bits v (w * i) w)) :: l)

/-- The body of a record of `n` blocks as blocks; none where it is refused (R212). -/
def readBody (a : Spec) (fmt : Nat) (anch spv : Bool) (n : Nat) (body : List Byte) : Option (List Blk) :=
  let heads := (body.take n).map BitVec.toNat
  let maps := if spv then 8 * n else 0
  let sts := (List.range n).map (fun j =>
    let m := leNat ((body.drop (n + 8 * j)).take 8)
    if spv then (List.range 32).map (fun i => bits m (2 * i) 2) else List.replicate 32 0)
  let rest := body.drop (n + maps)
  let mk3 := fun (vs : List (List Int)) => ((heads.zip vs).zip sts).map (fun h => (⟨h.1.1, h.1.2, h.2⟩ : Blk))
  if anch then
    if body.length < n ∨ heads.contains 0xFF then none else some (heads.map (fun h => ⟨h, [], []⟩))
  else if 0x12 ≤ fmt then
    if body.length < n + maps ∨ heads.contains 0xFF then none
    else if fmt = 0x12 then (readPp a.accBits n rest).map mk3
    else
      let w := if fmt = 0x13 then 16 else 24
      if rest.length < 4 * w * n then none
      else some (mk3 ((List.range n).map (fun j =>
        let v := leNat ((rest.drop (4 * w * j)).take (4 * w))
        (List.range 32).map (fun i => toSigned w (bits v (w * i) w)))))
  else
    let w := fmtBits fmt
    let hd := if isMx fmt then n else 0
    if body.length < hd + 4 * w * n then none
    else some ((List.range n).map (fun j =>
      let v := leNat ((body.drop (hd + 4 * w * j)).take (4 * w))
      ⟨if isMx fmt then nth heads j 0 else 0, (List.range 32).map (fun i => ((bits v (w * i) w : Nat) : Int)),
        List.replicate 32 0⟩))

/-- The piece records of a payload in order (R195): each with its slice, and the piece or none where it is refused. -/
def readPieces (a : Spec) (fmt : Nat) (anch : Bool) (k0 : Nat) : Nat → List Byte → List (Nat × Option Piece)
  | 0, _ => []
  | fuel + 1, bs =>
    let h := leNat (bs.take 8)
    let len := bits h 32 16
    if bs.length < 8 ∨ h = 0 then []
    else
      let k := k0 + bits h 0 7
      if len < 8 ∨ len % 8 ≠ 0 ∨ bs.length < len then [(k, none)]
      else
        let b0 := bits h 8 4
        let b1 := bits h 12 4
        let piece := if b1 < b0 ∨ a.blocks ≤ b1 then none
          else (readBody a fmt anch (bit h 16) (b1 + 1 - b0) ((bs.take len).drop 8)).map (fun l =>
            (⟨k, b0, l, pieceFlags h⟩ : Piece))
        (k, piece) :: readPieces a fmt anch k0 fuel (bs.drop len)

/-- A piece as a partial with a count. -/
def Piece.part (a : Spec) (n : Nat) (p : Piece) : Part :=
  ⟨(List.range a.blocks).map (fun j => if p.b0 ≤ j then (p.blks[j - p.b0]?).map (fun b => (b, n)) else none), p.flags⟩

/-- A partial as pieces of one count each: runs of neighbouring blocks with equal counts (R195, R228). -/
def Part.pieces (k : Nat) (p : Part) : List (Nat × Piece) :=
  (((List.range p.cells.length).zip p.cells).foldl (fun (acc : List (Nat × Piece)) jb =>
    match jb.2 with
    | none => acc
    | some x => match acc with
      | y :: rest =>
        if y.1 = x.2 ∧ y.2.b0 + y.2.blks.length = jb.1 then (y.1, { y.2 with blks := y.2.blks ++ [x.1] }) :: rest
        else (x.2, ⟨k, jb.1, [x.1], p.flags⟩) :: acc
      | [] => [(x.2, ⟨k, jb.1, [x.1], p.flags⟩)]) []).reverse

/-- Cut a piece so that each record fits one packet of 2,048 payload bytes (R195). -/
def Piece.cut (fmt : Nat) (anch : Bool) (p : Piece) : List Piece :=
  (((List.range p.blks.length).zip p.blks).foldl (fun (acc : List Piece) jb =>
    match acc with
    | y :: rest =>
      let z := { y with blks := y.blks ++ [jb.2] }
      if (pieceBytes fmt anch p.k z).length ≤ 2048 then z :: rest
      else ⟨p.k, p.b0 + jb.1, [jb.2], p.flags⟩ :: acc
    | [] => [⟨p.k, p.b0, [jb.2], p.flags⟩]) []).reverse

/-- The packet of one piece (R33, R195). -/
def piecePacket (h : CollHdr) (fmt count : Nat) (p : Piece) : Packet :=
  let anch := decide (h.typ = 0x20)
  let pl := pieceBytes fmt anch p.k p
  let n := cdiv pl.length 32
  let pl := padTo (32 * n) pl
  ⟨h.typ, 2, n, 0, false, false, h.dest, h.src, h.tag, ⟨0, false, 0⟩, crc32c pl,
    .coll ⟨h.ctx, h.epoch, p.k, 1, count, fmt, h.level, h.phase, h.pass, decide (p.flags / 32 % 2 = 1),
      decide (p.flags / 16 % 2 = 1), decide (0x12 ≤ fmt) && ! anch && p.blks.any Blk.special⟩, pl, false⟩

/-- Pack pieces of one count into packets' worths of records, each of at most 2,048 payload bytes and 64 neighbouring slices: a slice that does
not fit in the room left is split at a block (R33, R195). Pieces and packets come out newest first. -/
def packPieces (fmt : Nat) (anch : Bool) (ps : List Piece) : List (List Piece) :=
  ps.foldl (fun acc p => ((List.range p.blks.length).zip p.blks).foldl (fun (acc : List (List Piece)) jb =>
    let one : Piece := ⟨p.k, p.b0 + jb.1, [jb.2], p.flags⟩
    match acc with
    | (y :: l) :: rest =>
      let first := ((y :: l).getLastD y).k
      let cand := if y.k = p.k ∧ y.b0 + y.blks.length = p.b0 + jb.1 ∧ y.flags = p.flags then { y with blks := y.blks ++ [jb.2] } :: l
        else one :: y :: l
      if (y.k = p.k ∨ p.k = y.k + 1) ∧ p.k < first + 64 ∧ (cand.foldl (fun n z => n + (pieceBytes fmt anch first z).length) 0) ≤ 2048 then
        cand :: rest
      else [one] :: acc
    | _ => [one] :: acc) acc) []

/-- The packet of several pieces in order (R33, R195). -/
def piecesPacket (h : CollHdr) (fmt count : Nat) (ps : List Piece) : Packet :=
  let anch := decide (h.typ = 0x20)
  let k0 := (ps.head?.map Piece.k).getD 0
  let k1 := (ps.getLast?.map Piece.k).getD 0
  let pl := ps.flatMap (pieceBytes fmt anch k0)
  let n := cdiv pl.length 32
  let pl := padTo (32 * n) pl
  ⟨h.typ, 2, n, 0, false, false, h.dest, h.src, h.tag, ⟨0, false, 0⟩, crc32c pl,
    .coll ⟨h.ctx, h.epoch, k0, k1 + 1 - k0, count, fmt, h.level, h.phase, h.pass, ps.any (fun p => decide (p.flags / 32 % 2 = 1)),
      ps.any (fun p => decide (p.flags / 16 % 2 = 1)), decide (0x12 ≤ fmt) && ! anch && ps.any (fun p => p.blks.any Blk.special)⟩, pl, false⟩

/-- The packets of partials that leave together, and whether each is LATE (R195, R228): those of one header, format and count share
packets. -/
def outPackets (l : List OutPart) : List (Bool × Packet) :=
  let ps := l.flatMap (fun o => (o.part.pieces o.k).map (fun np => ((o.late, o.h, o.fmt, np.1), np.2)))
  ((ps.map Prod.fst).eraseDups).flatMap (fun key =>
    let mine := (ps.filter (fun x => decide (x.1 = key))).map Prod.snd
    ((packPieces key.2.2.1 (decide (key.2.1.typ = 0x20)) mine).reverse).map (fun w =>
      (key.1, piecesPacket key.2.1 key.2.2.1 key.2.2.2 w.reverse)))

/-- The packets of a partial: one for each count and packet's worth of blocks (R195, R228). -/
def partPackets (h : CollHdr) (fmt k : Nat) (p : Part) : List Packet :=
  (p.pieces k).flatMap (fun np => (np.2.cut fmt (decide (h.typ = 0x20))).map (piecePacket h fmt np.1))

/-- The slices of the piece records of a payload, by their headers alone (R195). -/
def recordSlices (k0 : Nat) : Nat → List Byte → List Nat
  | 0, _ => []
  | fuel + 1, bs =>
    let h := leNat (bs.take 8)
    let len := bits h 32 16
    if bs.length < 8 ∨ h = 0 then []
    else if len < 8 ∨ len % 8 ≠ 0 ∨ bs.length < len then [k0 + bits h 0 7]
    else (k0 + bits h 0 7) :: recordSlices k0 fuel (bs.drop len)

/-- The pieces of a packet, or a refusal of each where its FMT is not permitted (R183, R212). -/
def packetPieces (a : Spec) (fmts : List Nat) (p : Packet) : List (Nat × Option Piece) :=
  let t := collTail p
  if ! fmts.contains t.fmt then (recordSlices t.slice 1024 p.payload).map (fun k => (k, none))
  else readPieces a t.fmt (decide (p.typ = 0x20)) t.slice 1024 p.payload

/-! ### Records of a partial in cell memory (R193, R234) -/

/-- Bytes of one element in a slot. -/
def Spec.slotBytes (a : Spec) : Nat := if a.acc = 0x10 then 8 else if a.acc = 0x0B then 1 else 4

/-- Bytes 0 to 2,191 of a record: accumulators, special map, anchors. -/
def partImage (a : Spec) (p : Part) : List Byte :=
  let w := a.slotBytes
  let bs := (List.range a.blocks).map p.blk
  padTo 2048 (bs.flatMap (fun b => b.vals.flatMap (fun v => leBytes w (ofSigned (8 * w) v)))) ++
    padTo 128 (bs.flatMap specialMap) ++ padTo 16 (bs.map (fun b => BitVec.ofNat 8 b.a))

/-- The CRC by which two partials are compared (R345). -/
def imageCrc (a : Spec) (p : Part) : Nat :=
  crc32c (partImage a p ++ leBytes 4 p.count ++ leBytes 4 (p.flags % 32))

/-- A record of 2,304 bytes (R234): image, state fields, EXPIRY, flags, CRC. -/
def partRecord (a : Spec) (state expiry : Nat) (p : Part) : List Byte :=
  let body := partImage a p ++ leBytes 16 state ++ leBytes 8 expiry ++ leBytes 4 (p.flags % 32) ++ zeros 80
  body ++ leBytes 4 (crc32c body)

/-- Read a record back: the partial, all its blocks with the record's COUNT; none where the CRC fails (R234). -/
def readRecord (a : Spec) (bs : List Byte) : Option Part :=
  if crc32c (bs.take 2300) ≠ leNat ((bs.drop 2300).take 4) then none
  else
    let w := a.slotBytes
    let n := bits (leNat ((bs.drop 2192).take 16)) 43 20
    let val := fun i =>
      let v := leNat ((bs.drop (w * i)).take w)
      if a.packed then toSigned (8 * w) v else (v : Int)
    some ⟨(List.range a.blocks).map (fun j =>
        if n = 0 then none
        else
          let m := leNat ((bs.drop (2048 + 8 * j)).take 8)
          some (⟨(bs.getD (2176 + j) 0).toNat, (List.range 32).map (fun i => val (32 * j + i)),
            (List.range 32).map (fun i => bits m (2 * i) 2)⟩, n)),
      leNat ((bs.drop 2216).take 4)⟩

end Sys2Proof.Machine
end

