-- ==== Sys2Proof/Machine/Router.lean ====
section
/-! DEFINITION. The data ports of a router: ring map and route of a header, strikes (R365), stops (R92, R93), probes
(R426, R427), reception of beats (R24, R37, R38), credits (R20, R91, R145), and the grant of a gust (R77 to R85, R412). -/

namespace Sys2Proof.Machine

/-! ### A router and its map -/

/-- An input port of a router. -/
def State.inp (s : State) (c : Coord) (q : Nat) : PortIn := SMap.get PortIn.init (s.rtr c).ins q

/-- Change an input port. -/
def State.modIn (s : State) (c : Coord) (q : Nat) (f : PortIn → PortIn) : State :=
  s.modRtr c (fun r => { r with ins := SMap.put PortIn.init r.ins q (f (SMap.get PortIn.init r.ins q)) })

/-- An input lane. -/
def State.lane (s : State) (c : Coord) (q l : Nat) : LaneIn := SMap.get LaneIn.init (s.inp c q).lanes l

/-- Change an input lane. -/
def State.modLane (s : State) (c : Coord) (q l : Nat) (f : LaneIn → LaneIn) : State :=
  s.modIn c q (fun i => { i with lanes := SMap.put LaneIn.init i.lanes l (f (SMap.get LaneIn.init i.lanes l)) })

/-- An output port. -/
def State.outp (s : State) (c : Coord) (p : Nat) : OutSt := SMap.get OutSt.init (s.rtr c).outs p

/-- Change an output port. -/
def State.modOut (s : State) (c : Coord) (p : Nat) (f : OutSt → OutSt) : State :=
  s.modRtr c (fun r => { r with outs := SMap.put OutSt.init r.outs p (f (SMap.get OutSt.init r.outs p)) })

/-- Is a hole one of bring-up, which every router knows: of the defect map or the self-test, or fenced as stranded by then (R444)? The
count of holes at the end of the self-test is kept as instance 1 of HOLE_COUNT. -/
def State.bootHole (s : State) (h : HoleRec) : Bool := decide (h.origin ≤ 1) || decide (h.gen ≤ s.reg .engine 1 0x2010 1)

/-- The ring map a router has applied: the holes of bring-up and the ring changes since (R66). -/
def State.ringMap (s : State) (c : Coord) : RingMap :=
  ⟨s.gx, s.gy, (s.holes.filter s.bootHole).map HoleRec.c ++ (s.rtr c).applied, s.badTracks, s.badStops⟩

/-- The ring map of every hole of HOLE_MAP. -/
def State.holeMap (s : State) : RingMap := ⟨s.gx, s.gy, s.holes.map HoleRec.c, s.badTracks, s.badStops⟩

/-- The hole-map generation a router has applied (0x4010.01). -/
def State.genOf (s : State) (c : Coord) : Nat :=
  (s.holes.filter s.bootHole).length + (s.rtr c).applied.length

/-- The generation of the routes of a flow at a router: ring changes applied, and for a flow to another engine the changes of the engine
route table and of the ports and gateway cells its hash chooses from (R75, R324, R326). -/
def State.flowGen (s : State) (c : Coord) (flow : Nat) : Nat :=
  s.genOf c + (if bits flow 29 11 = s.engine then 0 else s.eng.routeGen)

/-- The way out of this engine has changed. -/
def State.routeChange (s : State) : State := { s with eng := { s.eng with routeGen := s.eng.routeGen + 1 } }

/-- ROUTE_CONFIG in force (0x2011). -/
def State.routeCfg (s : State) : RouteCfg := ⟨s.reg .engine 0 0x2011 1, decide (s.reg .engine 0 0x2011 2 = 1)⟩

/-- A subindex of LINK_PORT. -/
def State.lport (s : State) (p sub : Nat) : Nat := s.reg (s.portNode p) 0 0x7010 sub

/-- STATE of a port: 0 DISABLED, 1 DOWN, 2 TRAINING, 3 HELLO, 4 UP, 5 RELAY, 6 HELD_DOWN, 7 QUARANTINED, 8 FENCED (R313). -/
def State.portState (s : State) (p : Nat) : Nat := s.lport p 6

/-- Does a port exchange fabric items: UP or RELAY? -/
def State.portUp (s : State) (p : Nat) : Bool := decide (s.portState p = 4) || decide (s.portState p = 5)

/-- The live gateway cells of a port, by lane (R312, R326). -/
def State.liveGateways (s : State) (p : Nat) : List Coord :=
  ((List.range 8).map (s.gatewayCell p)).filter (fun c => ! s.isHole c)

/-- The gateway cell a packet for another engine is routed to (R53, R326). -/
def State.gatewayFor (s : State) (src : SrcAddr) (dest : Addr) : Option Coord :=
  match s.route.exitPort src dest none with
  | some (p, k) =>
    let gs := s.liveGateways p
    if gs.isEmpty then none else some (nth gs (k % gs.length) ⟨0, 0⟩)
  | none => none

/-- The outputs a header leaves by under a ring map (R52, R63, R173, R220, R226), or the reason it is dropped for: a unicast, a sweep half
along its arc, or the copies of what spreads. `copy` says that the packet is a copy of a rectangle. No output at all: it ends here. At the
cell port a packet keeps its class and its half of the lane (R22; log 111). -/
def State.legsBy (s : State) (m : RingMap) (c : Coord) (q l : Nat) (pk : Packet) (copy : Bool) : Except Nat (List OutLeg) :=
  let row := if pk.src.eng = s.engine then some pk.src.y else none
  let down : OutLeg := ⟨8, 2 * pk.cls + l % 2, ⟨0, false, 0⟩, 0, false⟩
  let one := fun d =>
    match m.nextHop s.routeCfg c d row pk.cls pk.route q l with
    | .eject => Except.ok [down]
    | .out p l' r _ => Except.ok [⟨p, l', r, 0, false⟩]
    | .drop n => Except.error n
  let legs := fun (cs : List Copy) (copy : Bool) => cs.map (fun k => (⟨k.port, if k.port = 8 then down.lane else k.lane, k.route, 0, copy⟩ : OutLeg))
  let r := m.ownRoute c ⟨none, none⟩ pk.route q l
  if pk.dest.eng ≠ s.engine then
    match s.gatewayFor pk.src pk.dest with
    | some g => one g
    | none => .error 7
  else if pk.cls = 2 ∧ isSweep pk then
    -- a half stops at every router whose millstone serves it
    let g := s.geo (collTail pk).ctx
    let served := g.member c || decide (c = destCell pk.dest) ||
      (decide ((collTail pk).phase = 1) && decide (c.x = pk.dest.x) && g.rows.contains c.y)
    if q ≠ 8 ∧ served ∧ (r.detour = 0 ∨ r.detour = 3) then .ok [down]
    else
      let cs := g.sweepCopies m c pk r q (l % 2)
      if cs.isEmpty then (if c = destCell pk.dest then .ok [down] else .error 7) else .ok (legs cs false)
  else if pk.cls = 2 ∧ isSpread pk (s.ctx (collTail pk).ctx 2) then
    .ok (legs ((s.geo (collTail pk).ctx).spreadCopies m c pk r q (l % 2)) false)
  else if pk.dest.tgt = 5 then
    match rectCopies m s.routeCfg c pk row q l copy with
    | some cs => .ok (legs cs (copy || decide (c = destCell pk.dest)))
    | none => match one (destCell pk.dest) with
      | .error n => .error n
      | .ok _ => .error 7
  else one (destCell pk.dest)

/-- The holes whose reclose has not yet released the freeze of an output here (R66 steps 1 to 6). -/
def State.freezing (s : State) (c : Coord) : List Coord :=
  (s.recloses.filter (fun r => r.frozen.any (fun n => n.1 == c))).map Reclose.hole

/-- The outputs a header that came by input `q` on lane `l` leaves by, or the reason it is dropped for. A packet that the map before the
reclose sends to a frozen output waits there until the release, and is then routed afresh (R66). -/
def State.legsOf (s : State) (c : Coord) (q l : Nat) (pk : Packet) (copy : Bool) : Except Nat (List OutLeg) :=
  let m := s.ringMap c
  let hs := s.freezing c
  let now := s.legsBy m c q l pk copy
  if hs.isEmpty then now
  else
    match s.legsBy { m with holes := m.holes.filter (fun h => ! hs.contains h) } c q l pk copy with
    | .ok ls => if ls.any (fun g => (s.outp c g.port).hardStop) then .ok ls else now
    | .error _ => now

/-! ### Strikes (R365) -/

/-- The fence decision of a unit (R365, R367): its FENCE reads 1, and the block waits in `fences` for its fence to be
carried out. A field and the engine are never fenced (R366). -/
def State.decideFence (s : State) (b : FaultBlock) : State :=
  let s := match b.node with
    | .cell _ _ => s.setReg b.node 0 b.idx 0x0B 1
    | _ => s
  { s with fences := s.fences ++ [b] }

/-- Record a strike: the event of its cause, and the unit's history. A unit that reaches its threshold joins `fences`,
which the command fences before it ends. Steps 1 to 9 of bring-up count no strikes (R443). -/
def State.strike (s : State) (b : FaultBlock) (cause whr detail : Nat) : State :=
  let s := s.faultEvent b cause whr detail
  let step := s.reg .engine 0 0x1008 1
  if s.reg b.node 0 b.idx 0x0B = 1 ∨ (1 ≤ step ∧ step ≤ 9) then s
  else
    let th := s.reg .engine 0 0x8002 1
    let w := s.reg .engine 0 0x8002 2 * 1000000000
    let t := s.ft (s.fieldOf b.cell)
    let key := regKey b.node 0 b.idx 0
    let all := SMap.get [] s.strikes key ++ [t]
    let hist := all.drop (all.length - th)
    let n := (hist.filter (fun x => decide (t - x ≤ w))).length
    let s := { s with strikes := SMap.put [] s.strikes key hist }
    let s := s.setReg b.node 0 b.idx 9 n
    if n = th then s.decideFence b else s

/-- Bytes of a pattern that are not zero: one is corrected, more are not (R36, R373). -/
def patBytes (pat : Nat) : Nat := ((leBytes 8 pat).filter (· != 0)).length

/-- An injection into a stored word of memory `whr` of a unit (R373 kind 4): true where the word cannot be corrected, which is a
strike of cause `cause`. -/
def State.memInject (s : State) (b : FaultBlock) (whr cause detail : Nat) : Bool × State :=
  match s.takeInject b.node 4 whr with
  | (none, s) => (false, s)
  | (some (pat, quiet), s) =>
    if patBytes pat = 0 then (false, s)
    else if patBytes pat = 1 then (false, s.wear b 1)
    else (true, if quiet then s.faultEvent b cause whr detail else s.strike b cause whr detail)

/-! ### Stops (R92, R93, R434) -/

/-- Is the router under HALT: a group in state ON names its field (R434)? -/
def State.haltOn (s : State) (c : Coord) : Bool :=
  (s.rtr c).halts.any (fun h => h.2.on && bit ((s.tabBytes .engine 0 (0x9060 + h.1) 1 0 40).getD (s.fieldOf c / 8) 0).toNat
    (s.fieldOf c % 8))

/-- STOP_STATE of an output (0x4050.0A). -/
def State.stopState (s : State) (c : Coord) (p : Nat) : Nat :=
  let o := s.outp c p
  b2n (s.reg (cellNode c) 0 (0x4030 + p) 5 = 1) + 2 * b2n (s.reg (.field (s.fieldOf c)) 0 0x3010 1 = 1) +
    4 * b2n (s.haltOn c) + 8 * b2n o.hardStop + 16 * b2n (o.owner ≠ [])

/-- May an output not begin a packet (R92)? -/
def State.frozen (s : State) (c : Coord) (p : Nat) : Bool := decide (s.stopState c p % 8 ≠ 0)

/-- Record the STOP event of an output whose STOP_STATE has changed from `old` (R432). -/
def State.noteStop (s : State) (c : Coord) (p old : Nat) : State :=
  if s.stopState c p = old then s else s.ringEvent c 3 p (s.stopState c p % 16)

/-! ### Probes and trace chunks (R426 to R428) -/

/-- Chunk buffers a cell's sources hold, by source (R428): chunks being filled, and chunks that wait for their GRANT. -/
def CellSt.chunkSources (q : CellSt) : List Nat :=
  q.trace.map TraceBuf.source ++
    (q.rsvs.filter (fun r => r.use == .trace && r.st == .asked)).map (fun r => bits (leNat (r.data.take 32)) 82 4)

/-- Put bytes in the trace chunks of a source (R428): the source's open chunk, or a new one of the 8 buffers, of which a
source holds at most 2. False where no buffer is free. With SINK 0 trace is off and the bytes go nowhere. -/
def State.traceAdd (s : State) (c : Coord) (source : Nat) (bs : List Byte) : Bool × State :=
  let q := s.cell c
  if s.reg (cellNode c) 0 0x9050 1 = 0 then (true, s)
  else match q.trace.find? (fun t => t.source == source && decide (t.data.length + bs.length ≤ 2016)) with
  | some t =>
    (true, s.modCell c (fun q => { q with trace := q.trace.map (fun u =>
      if u = t then { u with data := u.data ++ bs } else u) }))
  | none =>
    if q.chunkSources.length < 8 ∧ (q.chunkSources.filter (· == source)).length < 2 then
      let f := s.fieldOf c
      let t : TraceBuf := ⟨source, bs, s.time + s.reg (cellNode c) 0 0x9050 5, SMap.get 0 q.traceLost source, s.ft f,
        b2n (s.stretchFlag f) + 2 * b2n (s.heldFlag f)⟩
      (true, s.modCell c (fun q => { q with trace := q.trace ++ [t], traceLost := SMap.put 0 q.traceLost source 0 }))
    else (false, s)

/-- Examine a header at one probe (R426, R427): `site` is the port code, `outbound` the direction. -/
def State.probeOne (s : State) (c : Coord) (i source site : Nat) (outbound : Bool) (hdr lane : Nat) : State :=
  let n := cellNode c
  let idx := 0x9010 + i
  let act := s.reg n 0 idx 8
  let st := s.reg n 0 idx 1
  let ws := s.reg n 0 idx 3
  let word := fun k => bits hdr (64 * k) 64
  if act = 0 ∨ bits st 0 4 ≠ site ∨ bit st 4 ≠ outbound ∨ ! bit (s.reg n 0 idx 2) lane then s
  else if (word (bits ws 0 2) ^^^ s.reg n 0 idx 4) &&& s.reg n 0 idx 5 ≠ 0 then s
  else if (word (bits ws 4 2) ^^^ s.reg n 0 idx 6) &&& s.reg n 0 idx 7 ≠ 0 then s
  else
    let s := s.bump n 0 idx 0x0A 1
    if act = 1 ∨ s.reg n 0 idx 0x0A % 2 ^ s.reg n 0 idx 9 ≠ 0 then s
    else
      let f := s.fieldOf c
      let r := pack [(0, 256, hdr), (256, 64, s.ft f), (320, 4, site), (324, 4, lane), (328, 1, b2n (s.stretchFlag f)),
        (329, 1, b2n (s.heldFlag f))]
      let s := s.pushRec n 0 idx 0x0B 8 r
      if act ≠ 3 ∨ s.reg n 0 0x9050 1 = 0 then s
      else
        let t := s.traceAdd c source (leBytes 48 r)
        if t.1 then t.2 else s.bump n 0 idx 0x0C 1

/-- Examine a header at the two probes of a router. -/
def State.probe (s : State) (c : Coord) (site : Nat) (outbound : Bool) (hdr lane : Nat) : State :=
  (s.probeOne c 0 4 site outbound hdr lane).probeOne c 1 5 site outbound hdr lane

/-! ### Wakes (R70, R408) -/

/-- The cells of a field, row by row (R5). -/
def State.fieldCells (s : State) (f : Nat) : List Coord :=
  let a := s.agentCell f
  rectCells a.x a.y (a.x + 23) (a.y + 19)

/-- Bring a field's clock counts up to date (R425, HALT_FC): rc in Breeze and in Lull, fc of the clock, and fc under HALT. -/
def State.accrue (s : State) (f : Nat) : State :=
  let q := s.field f
  let p := s.power f
  let rc := s.time / 10 - q.countedAt / 10
  let runs := ! q.stopped && decide (p ≠ 2) && decide (q.boot = 3)
  let fc := if runs then s.fcAt f s.time - s.fcAt f q.countedAt else 0
  let s := s.modField f (fun q => { q with countedAt := s.time })
  let cells := s.fieldCells f
  let all := fun (s : State) ev k => if k = 0 then s else cells.foldl (fun (s : State) c => s.countEvent c ev 0 0 k) s
  let s := if p = 1 then all s 0x11 rc else if p = 2 then all s 0x12 rc else s
  let s := all s 0x14 fc
  if s.haltOn (s.agentCell f) then s.bump (.field f) 0 0x9070 3 fc else s

/-- A field's power state changes: STATE is set, and every router of the field records the POWER event (R432). -/
def State.setPower (s : State) (f st : Nat) : State :=
  let s := s.accrue f
  let s := s.setReg (.field f) 0 0xA010 5 st
  let d := st + 8 * s.reg (.field f) 0 0xA010 8
  (s.fieldCells f).foldl (fun s c => s.ringEvent c 4 0 d) s

/-- A cause wakes a sleeping field: its state becomes WAKING, and FIELD_WAKE completes it. Two causes within one wake
make one wake, whose cause is the first (R408). -/
def State.causeWake (s : State) (f cause : Nat) : State :=
  if s.reg .engine 0 0xA011 4 ≠ 0 then s
  else if s.power f = 1 ∨ s.power f = 2 ∨ s.power f = 3 then (s.setReg (.field f) 0 0xA010 8 cause).setPower f 4
  else s

/-- The wake that a header unit causes at a router of a sleeping field (R70, R408): any header from Breeze; from Lull one
that turns, is ejected, enters or leaves a mill race, or starts or ends a detour here. -/
def State.headerWake (s : State) (c : Coord) (q l : Nat) (p : Packet) (copy : Bool) : State :=
  let f := s.fieldOf c
  if s.power f = 1 then s.causeWake f 1
  else
    let straight := match s.legsOf c q l p copy with
      | .ok [g] => decide (q < 8) && decide (g.port = (if q % 2 = 0 then q + 1 else q - 1)) && (decide (l < 8) == decide (g.lane < 8))
      | _ => false
    if straight then s else s.causeWake f 2

/-! ### Credits -/

/-- Units of an input lane leave its buffer: they wait to be returned as credits (R20, R145). -/
def State.freeUnits (s : State) (c : Coord) (q l k : Nat) : State :=
  if k = 0 ∨ 8 ≤ q then s
  else s.modLane c q l (fun i => { i with freed := i.freed + k, freedAt := if i.freed = 0 then s.time else i.freedAt })

/-- The lanes that credit beats return (R20), in their order. -/
def beatLanes : List Nat := [0, 1, 6, 7, 8, 9]

/-- An output receives `k` credits on a lane: the sent units they answer leave its log (R67). -/
def OutSt.credit (o : OutSt) (l k : Nat) : OutSt :=
  { o with credits := setAt o.credits l (min 16 (nth o.credits l 0 + k)),
           sent := SMap.put [] o.sent l ((SMap.get [] o.sent l).drop k) }

/-- Put a beat on the wire of an output, toward the neighbour's opposite input (R18, R47). -/
def State.putBeat (s : State) (c : Coord) (p : Nat) (cw : List Byte) (side : Nat) (copy : Bool) : State :=
  match (s.ringMap c).neighbour c p with
  | some d => { s with wires := s.wires ++ [⟨d, if p % 2 = 0 then p + 1 else p - 1, cw, side, copy⟩] }
  | none => s

/-- Send a credit beat on an output for the buffers of the input of the same port (R20): the counts of the six lanes. -/
def State.sendCreditBeat (s : State) (c : Coord) (p : Nat) : State :=
  let ks := beatLanes.map (fun l => (s.lane c p l).freed)
  let pl := leBytes 32 (pack ((List.range 6).map (fun i => (8 * i, 8, nth ks i 0))))
  let s := beatLanes.foldl (fun s l => s.modLane c p l (fun i =>
    { i with cum := (i.cum + i.freed) % 256, freed := 0 })) s
  s.putBeat c p (rsEncode pl) (sideByte 0xE false false false) false

/-- The port at the far end of the link of port `p` (R47). -/
def facing (p : Nat) : Nat := if p % 2 = 0 then p + 1 else p - 1

/-- The place of a link-local signal in the order of R143. -/
def localRank : Signal → Nat
  | .creditSyncRsp .. => 0
  | .creditSyncReq .. => 1
  | .credit .. => 2
  | _ => 3

/-- A link-local signal waits at the signal output of port `p`, before those that leave after it (R143); `mk` names the router that the link
reaches and the port there. -/
def State.linkLocal (s : State) (c : Coord) (p : Nat) (mk : Coord → Nat → Signal) : State :=
  match (s.ringMap c).neighbour c p with
  | some d =>
    let g := mk d (facing p)
    s.modRtr c (fun r =>
      let o := SMap.get SigOut.init r.souts p
      { r with souts := SMap.put SigOut.init r.souts p { o with
        stage := o.stage.filter (fun x => localRank x ≤ localRank g) ++ g :: o.stage.filter (fun x => localRank g < localRank x) } })
  | none => s

/-- Start a credit sync of an output (R91): a CREDIT_SYNC request on the signal net. One under way begins anew
(DESIGN CHOICE, log 125). -/
def State.startSync (s : State) (c : Coord) (p : Nat) : State :=
  match (s.ringMap c).neighbour c p with
  | some _ =>
    let s := s.modOut c p (fun o => { o with sync := some ⟨s.time, none, none⟩ })
    let s := s.ringEvent c 7 p 0
    s.linkLocal c p (fun d q => .creditSyncReq d q)
  | none => s

/-- Finish a credit sync whose marker and reply have both arrived (R91 step 4). The counts of the reply beyond those recorded at the marker
are credited; the output's own counts grow by as much, so they go on from the input's, good credit beats since the marker included. The
section does not say what they become (log 91). -/
def State.finishSync (s : State) (c : Coord) (p : Nat) : State :=
  match (s.outp c p).sync with
  | some ⟨_, some m0, some rp⟩ =>
    let add := fun i => sub8 (nth rp i 0) (nth m0 i 0)
    let s := s.modOut c p (fun o =>
      { (List.range 6).foldl (fun (o : OutSt) i => o.credit (nth beatLanes i 0) (add i)) o with
        sync := none, got := (List.range 6).map (fun i => (nth o.got i 0 + add i) % 256) })
    s.bump (cellNode c) 0 (0x4050 + p) 9 1
  | _ => s

/-- A credit beat reaches input `q`, whose codeword is decoded: it credits the output of the same port (R20, R91). A beat that is
uncorrectable but not poison starts a sync too, which R91 says of a poisoned one (log 90). -/
def State.takeCreditBeat (s : State) (c : Coord) (q : Nat) (cw : List Byte) : State :=
  let take := fun (s : State) (pl : List Byte) =>
    let ks := (List.range 6).map (fun i => (pl.getD i 0).toNat)
    if ks.all (· == 0) then
      (s.modOut c q (fun o => { o with sync := o.sync.map (fun y => { y with marker := some o.got }) })).finishSync c q
    else s.modOut c q (fun o =>
      let o := (List.range 6).foldl (fun (o : OutSt) i => o.credit (nth beatLanes i 0) (nth ks i 0)) o
      { o with got := (List.range 6).map (fun i => (nth o.got i 0 + nth ks i 0) % 256) })
  match rsDecode cw with
  | .clean => take s (cwPayload cw)
  | .corrected cw' => take ((s.wear (routerBlock c) 1).countEvent c 0x0F 0 0 1) (cwPayload cw')
  | .poison => s.startSync c q
  | .bad => (s.strike (routerBlock c) 0 q 0).startSync c q

/-! ### The head of an input lane -/

/-- The header at the head of an input lane as a packet without its payload. -/
def headPacket (u : BufUnit) : Option Packet := packetOf (leNat u.data) [] false

/-- Advance the base of the head packet past units every output has sent, freeing their buffer places (R77). -/
def State.trimLane (s : State) (c : Coord) (q l : Nat) : State :=
  let i := s.lane c q l
  match i.cur with
  | none => s
  | some k =>
    let upto := if k.toss ∨ k.legs.isEmpty then k.len + 1 else minimum (k.len + 1) (k.legs.map OutLeg.sent)
    let n := min (upto - k.base) i.q.length
    let b := k.base + n
    let s := s.modLane c q l (fun i => { i with
      q := i.q.drop n,
      cur := if k.len + 1 ≤ b then none else some { k with base := b } })
    s.freeUnits c q l n

/-- The header of a packet as it leaves by a leg, with the leg's ROUTE bits (R52). -/
def outHeader (k : CurPkt) (g : OutLeg) : Nat :=
  k.hdr - bits k.hdr 112 4 * 2 ^ 112 + (g.route.phase + 2 * b2n g.route.express + 4 * g.route.detour) * 2 ^ 112

/-- A beat's worth of a packet leaves by output `p`: side byte by its place, the header with its ROUTE bits (R19, R23, R52). -/
def State.sendUnit (s : State) (c : Coord) (p : Nat) (k : CurPkt) (g : OutLeg) (n : Nat) (u : BufUnit) : State :=
  let data := if n = 0 then leBytes 32 (outHeader k g) else u.data
  let last := decide (n = k.len)
  s.putBeat c p (if u.poison then rsPoison data else rsEncode data) (sideByte g.lane (decide (n = 0)) last (last || decide (n % 4 = 3))) g.copy

/-- A packet that has been lost or dropped is in flight no more. -/
def State.lose (s : State) (p : Packet) : State :=
  { s with flight := s.flight.eraseP (fun x => decide (bareHeader x = bareHeader p)) }

/-- Is a gust from an input lane under way at an output? -/
def State.gustFrom (s : State) (c : Coord) (p q l : Nat) : Bool :=
  match (s.outp c p).gust with
  | some g => g.q == q && g.l == l
  | none => false

/-- A hard stop of output `p` cuts off the packets begun on it (R93): none of them is open on the output any more once its gust under way has
ended, and what remains of it is discarded, also after the stop. -/
def State.cutBegun (s : State) (c : Coord) (p : Nat) : State :=
  let cut := fun (k : CurPkt) => if k.legs.any (fun g => decide (g.port = p) && decide (0 < g.sent) && decide (g.sent < k.len + 1)) then
    { k with cuts := k.cuts ++ [p] } else k
  let s := s.modRtr c (fun r => { r with ins := r.ins.map (fun i => (i.1, { i.2 with
    lanes := i.2.lanes.map (fun l => (l.1, { l.2 with cur := l.2.cur.map cut })) })) })
  s.modOut c p (fun o => { o with owner := match o.gust with
    | some g => o.owner.filter (fun e => e.1 == g.lane)
    | none => [] })

/-- Settle the head of an input lane (R63, R93): a header whose route is closed here is dropped with its packet and NACKed, and one that
leaves by no output ends here; what remains of a packet that a hard stop has cut off is discarded as it arrives, once the gust under way has
ended. A packet cut off on its way to a link port is reported to its source (R332). A dropped Collective packet raises no NACK and is not
counted in DROPS (R63). -/
def State.tidyLane (s : State) (c : Coord) (q l : Nat) : Nat → State
  | 0 => s
  | fuel + 1 =>
    let s := s.trimLane c q l
    let i := s.lane c q l
    match i.cur, i.q with
    | none, u :: _ =>
      let toss := fun (s : State) (p : Packet) => s.modLane c q l (fun i => { i with cur := some ⟨leNat u.data, p.len, [], 0, true, [], []⟩ })
      match headPacket u with
      | none => s
      | some p => match s.legsOf c q l p u.copy with
        | .ok [] => (toss s p).tidyLane c q l fuel
        | .ok _ => s
        | .error n =>
          let s := (toss s p).bump (cellNode c) 0 0x4010 6 (b2n (p.cls ≠ 2))
          ((s.lose p).raiseNack c (s.srcOf c 0) p n 0 0).tidyLane c q l fuel
    | some k, _ =>
      let arrived := k.base + i.q.length
      let cut := fun (g : OutLeg) => k.cuts.contains g.port && decide (g.sent < arrived) && ! s.gustFrom c g.port q l
      let legs := k.legs.map (fun g => if cut g then { g with sent := arrived } else g)
      if legs = k.legs then s
      else
        let lost := k.legs.any (fun g => g.port == 8 && cut g) && decide (k.ejected ≠ [])
        let s := s.modLane c q l (fun i => { i with cur := some { k with legs := legs, ejected := if lost then [] else k.ejected } })
        let s := if lost then
            match packetOf k.hdr [] false with
            | some p => (s.lose p).raiseNack c (s.srcOf c 0) p 7 0 0
            | none => s
          else s
        s.tidyLane c q l fuel
    | none, [] => s

/-- The link port that a cell is a gateway of (R300). -/
def State.portOf? (s : State) (c : Coord) : Option Nat :=
  if c.x = 0 ∨ c.y = 0 ∨ c.x + 1 = s.gx ∨ c.y + 1 = s.gy then
    (List.range s.nPorts).find? (fun p => (List.range 8).any (fun i => s.gatewayCell p i == c))
  else none

/-- Units of transit packets waiting in a port's transit buffer on an engine lane (R312). -/
def PortSt.transitUnits (q : PortSt) (b : Nat) : Nat :=
  (q.txq.filter (fun t => t.transit && decide (t.lane % 2 = b))).foldl (fun n t => n + (t.pkt.len + 1 - t.sent)) 0

/-- A packet for another engine reaches its exit port (R311, R312, R332): it waits there to be sent, on the engine lane of its
hop (R325). A header that cannot be corrected as it is stored goes no further (R37). A transit packet that finds the transit buffer full is dropped with NACK LEASE; a port that is not UP or RELAY
takes nothing, and the source is told. -/
def State.exitPkt (s : State) (c : Coord) (p : Nat) (pk : Packet) : State :=
  let m : Bool × State := if pk.src.eng ≠ s.engine then s.memInject ⟨s.portNode p, 0x8130, s.gatewayCell p 0⟩ 5 0 (pktDetail pk) else (false, s)
  let s := m.2
  let pk := { pk with poison := pk.poison || m.1 }
  let q := s.port p
  let st := s.reg (s.portNode p) 0 0x7010 6
  let transit := decide (pk.src.eng ≠ s.engine)
  let b := match s.route.next pk.dest.eng none with
    | .trunk d dir => b2n (s.route.laneB pk.src.eng d dir)
    | _ => 0
  if m.1 ∧ pk.len = 0 then s
  else if st ≠ 4 ∧ st ≠ 5 then s.raiseNack c (s.srcOf c 0) pk 7 0 0
  else if transit ∧ 4096 < q.transitUnits b + pk.len + 1 then
    (s.bump (s.portNode p) 0 0x7020 0x0B 1).raiseNack c (s.srcOf c 0) pk 8 0 0
  else s.modPort p (fun q => { q with txq := q.txq ++ [⟨pk, 2 * pk.cls + b, 0, transit, none⟩] })

/-- Put a packet in the place of the copy of it that is in flight, or where there is none add it unless it has been `taken`. -/
def landInFlight (taken : Bool) (p : Packet) : List Packet → List Packet
  | [] => if taken then [] else [p]
  | x :: xs => if bareHeader x = headerBits p then p :: xs else x :: landInFlight taken p xs

/-- Does the ejection of a packet at a router take a place there (R74, R128)? -/
def State.ejectsAt (s : State) (c : Coord) (p : Packet) : Bool :=
  decide (destCell p.dest = c) && decide (p.dest.eng = s.engine) && decide (p.dest.tgt ≠ 5) && decide (p.cls ≠ 2)

/-- A packet reaches its destination (R48): it is in flight there, with its poison, in place of the copy its source
counted; one for another engine has reached its gateway cell. A packet that its receiver has taken by its header is not put back. -/
def State.arrive (s : State) (c : Coord) (hdr : Nat) (us : List BufUnit) : State :=
  match packetOf hdr ((us.drop 1).flatMap BufUnit.data) (us.any BufUnit.poison) with
  | none => s
  | some p =>
    let p := { p with route := ⟨0, false, 0⟩ }
    let taken := s.ejectsAt c p && ! (s.rtr c).due.contains (headerBits p)
    let land : State := { s with flight := landInFlight taken p s.flight }
    match s.portOf? c with
    | some k =>
      if p.dest.eng ≠ s.engine then
        ({ s with flight := s.flight.eraseP (fun x => decide (bareHeader x = headerBits p)) } : State).exitPkt c k p
      else land
    | none => land

/-! ### Units leave (R23, R55, R77) -/

/-- Does a packet of a cell carry the data of a read? A message carries no reservation, which a read notes as 64; a copy of a rectangle
carries its MID. -/
def readFor (c : Coord) (u : ReadUse) (p : Packet) : Bool :=
  match u with
  | .pkt typ _ tag rsv off => decide (srcCell p.src = c) && decide (p.typ = typ) && decide (p.tag = tag) &&
    (match p.tail with
     | .transfer t => decide (t.rsv = rsv) && decide (t.off = off)
     | .rect t => decide (t.mid = rsv) && decide (t.off = off)
     | .table t => decide (t.rsv = rsv)
     | .message _ => decide (rsv = 64)
     | _ => false)
  | .reply who tag rsv off => decide (srcCell p.src = c) && decide (p.typ = 0x11) && decide (p.tag = tag) &&
    decide (p.dest = ⟨who.eng, who.x, who.y, 0⟩) &&
    (match p.tail with
     | .transfer t => decide (t.rsv = rsv) && decide (t.off = off)
     | _ => false)
  | _ => false

/-- Units of a packet of this cell that are there to be sent, its header included: the data units before the first that is still being read
from cell memory (R78 item 2, R118). The header waits for the first data unit; where a packet of whole blocks is verified first (SRC_VERIFY),
for all of them (R103). -/
def State.unitsRead (s : State) (c : Coord) (hdr : Nat) : Nat :=
  match packetOf hdr [] false with
  | some p =>
    let whole := p.tb && (decide (p.typ = 0x10) || decide (p.typ = 0x13)) && decide (s.reg (cellNode c) 0 0x4002 2 = 1)
    (s.cell c).mrd.foldl (fun n r => if readFor c r.use p then (if whole ∨ r.lo < 32 then 0 else min n (1 + r.lo / 32)) else n) (p.len + 1)
  | none => 65

/-- The reply of a credit sync and its marker (R91 step 2): a credit beat of six zero counts on the data link, and in the same fc the counts
before it on the signal net. -/
def State.sendMarker (s : State) (c : Coord) (q : Nat) : State :=
  let counts := beatLanes.map (fun l => (s.lane c q l).cum)
  let s := (s.putBeat c q (rsEncode (zeros 32)) (sideByte 0xE false false false) false).modOut c q (fun o => { o with marker := false })
  s.linkLocal c q (fun d p => .creditSyncRsp d p counts)

/-- Credits that wait at an input, over the lanes that credit beats return. -/
def State.creditsWaiting (s : State) (c : Coord) (p : Nat) : Bool := beatLanes.any (fun l => (s.lane c p l).freed != 0)

/-- The credit beat that is inserted between two gusts (R20, R90). -/
def State.insertBeat (s : State) (c : Coord) (p : Nat) : State :=
  let s := s.modOut c p (fun o => { o with insert := false })
  if s.creditsWaiting c p then (s.sendCreditBeat c p).bump (cellNode c) 0 (0x4050 + p) 8 1 else s

/-- What an output sends in the fc after a gust (R90, R91): a marker that waits, and an inserted credit beat. -/
def State.betweenGusts (s : State) (c : Coord) (p : Nat) : State :=
  if (s.outp c p).gust.isSome then s
  else
    let s := if (s.outp c p).marker then s.sendMarker c p else s
    if (s.outp c p).insert then s.insertBeat c p else s

/-- The gust under way at an output goes on (R78): its units that are in the input buffer leave, by the link or by ejection at the cell
port. With its last unit a packet frees its output lane, and an ejected one has arrived. -/
def State.pushUnits (s : State) (c : Coord) (p : Nat) : State :=
  match (s.outp c p).gust with
  | none => s
  | some g =>
    let i := s.lane c g.q g.l
    match i.cur with
    | none => s
    | some k =>
      match k.legs.find? (fun x => x.port == p && x.lane == g.lane) with
      | none => s
      | some x =>
        let can := if g.q = 8 then min g.left (s.unitsRead c k.hdr - x.sent) else g.left
        let us := (i.q.drop (x.sent - k.base)).take can
        let n := us.length
        if n = 0 then s
        else
          let done := decide (x.sent + n = k.len + 1)
          let s := s.countEvent c 2 p x.lane n
          let s := if p = 8 then s else (us.zip (List.range n)).foldl (fun s ub => s.sendUnit c p k x (x.sent + ub.2) ub.1) s
          let s := s.modOut c p (fun o => { o with
            owner := if done ∨ (k.cuts.contains p ∧ n = g.left) then SMap.put 0 o.owner x.lane 0 else o.owner,
            gust := if n < g.left then some { g with left := g.left - n } else none,
            sent := if p = 8 then o.sent else SMap.put [] o.sent x.lane (SMap.get [] o.sent x.lane ++
              (List.range n).map (fun j => if x.sent + j = 0 then k.hdr else 0)) })
          let ej := k.ejected ++ (if p = 8 then us else [])
          let legs := k.legs.map (fun y => if y = x then { y with sent := y.sent + n } else y)
          let s := s.modLane c g.q g.l (fun i => { i with cur := some { k with legs := legs, ejected := ej } })
          let s := if p = 8 ∧ done then s.arrive c k.hdr ej else s
          (s.trimLane c g.q g.l).betweenGusts c p

/-- Settle a router after something has arrived, left or changed: the gusts under way take what has come for them, and every lane is
settled. -/
def State.tidyRouter (s : State) (c : Coord) : State :=
  s.clocked c <|
  let s := (List.range 9).foldl (fun (s : State) p => s.pushUnits c p) s
  (s.rtr c).ins.foldl (fun s i => i.2.lanes.foldl (fun s l => s.tidyLane c i.1 l.1 20) s) s

/-! ### Reception of a beat (R24, R37, R38) -/

/-- Poison filler: 32 zero bytes (R38). -/
def fillerUnit (i len : Nat) : BufUnit :=
  ⟨zeros 32, true, false, decide (i = len), decide (i % 4 = 3) || decide (i = len), false⟩

/-- End the packet being received on a lane with poison fillers, if one is open (R38). -/
def State.fillOpen (s : State) (c : Coord) (q l : Nat) : State :=
  let i := s.lane c q l
  match i.rlen with
  | none => s
  | some len =>
    let fs := (List.range (len + 1 - i.rgot)).map (fun k => fillerUnit (i.rgot + k) len)
    s.modLane c q l (fun i => { i with q := i.q ++ fs, rlen := none, rgot := 0 })

/-- DETAIL of an event about the packet being received on a lane, whose header stands in the buffer or at the head (R360); 0 for none. -/
def State.lanePkt (s : State) (c : Coord) (q l : Nat) : Nat :=
  let i := s.lane c q l
  let hdr := match i.q.reverse.find? BufUnit.first with
    | some u => headPacket u
    | none => i.cur.bind (fun k => packetOf k.hdr [] false)
  if i.rlen.isNone then 0 else (hdr.map pktDetail).getD 0

/-- A protocol violation on lane `l`, if it can be told (R24): one strike, the affected packet ended, and the lane, or
every lane without an open packet, marked as discarding. The packet concerned is that of the header `hdr`, or the one open. The section does not say whether the buffer credits of discarded units go back to
the sender: a discarded unit takes no buffer place here and returns no credit (log 86). -/
def State.violation (s : State) (c : Coord) (q : Nat) (l : Option Nat) (hdr : Option Packet) : State :=
  let detail := match hdr with
    | some p => pktDetail p
    | none => (l.map (s.lanePkt c q)).getD 0
  let s := s.strike (routerBlock c) 2 q detail
  let s := s.modIn c q (fun i => { i with gust := none })
  match l with
  | some l => (s.fillOpen c q l).modLane c q l (fun i => { i with drop := true })
  | none => (List.range 10).foldl (fun s l =>
      if (s.lane c q l).rlen.isNone then s.modLane c q l (fun i => { i with drop := true }) else s) s

/-- The lane of the packet open on a link when the side byte cannot be trusted (R24): the lane of the gust under way, or
the one lane with an open packet. -/
def State.openLane (s : State) (c : Coord) (q : Nat) : Option Nat :=
  match (s.inp c q).gust with
  | some l => some l
  | none => match (List.range 10).filter (fun l => (s.lane c q l).rlen.isSome) with
    | [l] => some l
    | _ => none

/-- Decode a codeword by the table of R36: payload, poison, and whether it can be used; wear is counted here. -/
def State.decodeUnit (s : State) (c : Coord) (cw : List Byte) : Decoded × List Byte × State :=
  match rsDecode cw with
  | .corrected cw' => (.clean, cwPayload cw', (s.wear (routerBlock c) 1).countEvent c 0x0F 0 0 1)
  | d => (d, cwPayload cw, s)

/-- Where a header has its legs, as far as it tells them (R52): a packet of another engine names no row here, and one that is replicated
runs on other columns than its DEST's. -/
def State.legsKnown (s : State) (p : Packet) : Legs :=
  ⟨if p.src.eng = s.engine ∧ p.cls ≠ 2 ∧ p.dest.tgt ≠ 5 then some p.src.y else none,
   if p.dest.eng = s.engine ∧ p.cls ≠ 2 ∧ p.dest.tgt ≠ 5 then some p.dest.x else none⟩

/-- A unit arrives on lane `l` of an input with its side flags. The units of a damaged header and after it return no credit (log 86). -/
def State.recvUnit (s : State) (c : Coord) (q l : Nat) (first last gust copy : Bool) (cw : List Byte) : State :=
  let i := s.lane c q l
  if i.rlen.isNone && ! first then
    if i.drop then s.modLane c q l (fun i => { i with drop := ! last })
    else s.violation c q (some l) none
  else if 16 ≤ i.q.length + i.freed ∨ (i.rlen.isSome ∧ first) then s.violation c q (some l) none
  else
    let s := s.countEvent c 3 q l 1
    let d := s.decodeUnit c cw
    let s := d.2.2
    let data := d.2.1
    if first then
      let s := s.modLane c q l (fun i => { i with drop := false })
      match d.1 with
      | .poison => (s.strike (routerBlock c) 0 q (((packetOf (leNat data) [] false).map pktDetail).getD 0)).modLane c q l (fun i => { i with drop := ! last })
      | .bad => (s.strike (routerBlock c) 0 q 0).modLane c q l (fun i => { i with drop := ! last })
      | _ =>
        match packetOf (leNat data) [] false with
        | none => s.violation c q (some l) none
        | some p =>
          if (l < 8 ∧ l / 2 ≠ p.cls) ∨ last ≠ decide (p.len = 0) ∨ gust ≠ decide (p.len = 0) then
            s.violation c q (some l) (some p)
          else
            let s := s.probe c q false (leNat data) l
            let s := if (s.ringMap c).routeAgrees c (s.legsKnown p) p.route q l then s else s.bump (cellNode c) 0 0x4010 7 1
            let s := s.headerWake c q l p copy
            let s := s.modIn c q (fun i => { i with gust := if gust then none else some l })
            s.modLane c q l (fun i => { i with
              q := i.q ++ [⟨data, false, true, last, gust, copy⟩],
              rlen := if p.len = 0 then none else some p.len, rgot := if p.len = 0 then 0 else 1 })
    else
      let len := i.rlen.getD 0
      if last ≠ decide (i.rgot = len) ∨ gust ≠ (decide (i.rgot = len) || decide (i.rgot % 4 = 3)) then
        s.violation c q (some l) none
      else
        let s := match d.1 with
          | .bad => s.strike (routerBlock c) 0 q (s.lanePkt c q l)
          | _ => s
        let s := s.modIn c q (fun i => { i with gust := if gust then none else some l })
        s.modLane c q l (fun i => { i with
          q := i.q ++ [⟨data, decide (d.1 ≠ .clean), false, last, gust, copy⟩],
          rlen := if last then none else some len, rgot := if last then 0 else i.rgot + 1 })

/-- Is no packet open on the link of an input (R91)? -/
def State.linkClear (s : State) (c : Coord) (q : Nat) : Bool :=
  (s.inp c q).gust.isNone && (List.range 10).all (fun l => (s.lane c q l).rlen.isNone)

/-- A beat arrives at an input (R24): side byte first, then a broken gust, then the unit or credit beat. -/
def State.beatCore (s : State) (c : Coord) (q : Nat) (cw : List Byte) (side : Nat) (copy : Bool) : State :=
  let lane := bits side 0 4
  if ! parity 8 side then
    let clear := s.linkClear c q
    let s := s.violation c q (s.openLane c q) none
    if clear then s.startSync c q else s
  else if 0xA ≤ lane ∧ lane ≤ 0xD then s.violation c q (s.openLane c q) none
  else
    let s := match (s.inp c q).gust with
      | some g => if g = lane then s else s.violation c q (some g) none
      | none => s
    if lane = 0xF then s
    else if lane = 0xE then s.takeCreditBeat c q cw
    else s.recvUnit c q lane (bit side 4) (bit side 5) (bit side 6) copy cw

/-- XOR a pattern into bytes 0 to 7 of a codeword (R373). -/
def xorBytes (pat : Nat) (cw : List Byte) : List Byte :=
  List.zipWith (· ^^^ ·) cw (leBytes 8 pat ++ zeros (cw.length - 8))

/-- The state after some work on a block, whose events stand but whose strikes do not: NO_STRIKE (R373). `s` is the state before. -/
def State.noStrikes (s after : State) (b : FaultBlock) : State :=
  let keep := fun (t : State) (sub : Nat) => t.setReg b.node 0 b.idx sub (s.reg b.node 0 b.idx sub)
  keep (keep { after with strikes := s.strikes, fences := s.fences } 9) 0x0B

/-- A beat arrives at an input, with the injections armed there (R373): into the codeword (1) of a unit, a credit beat among them (R20), the
side byte (2), or the word as it is stored in the input buffer (4). -/
def State.recvBeat (s : State) (c : Coord) (q : Nat) (cw : List Byte) (side : Nat) (copy : Bool) : State :=
  let b := routerBlock c
  let lane := bits side 0 4
  let unit := parity 8 side && (decide (lane < 0xA) || decide (lane = 0xE))
  match (if unit then s.takeInject b.node 1 q else (none, s)) with
  | (some (pat, quiet), s) =>
    let r := s.beatCore c q (xorBytes pat cw) side copy
    if quiet then s.noStrikes r b else r
  | (none, s) =>
    match s.takeInject b.node 2 q with
    | (some (pat, quiet), s) =>
      let r := s.beatCore c q cw (side ^^^ (pat % 256)) copy
      if quiet then s.noStrikes r b else r
    | (none, s) =>
      if ! parity 8 side ∨ 0xA ≤ lane then s.beatCore c q cw side copy
      else
        let detail := if bit side 4 then ((packetOf (leNat (cwPayload cw)) [] false).map pktDetail).getD 0 else s.lanePkt c q lane
        match s.memInject b 0 3 detail with
        | (false, s) => s.beatCore c q cw side copy
        | (true, s) =>
          if bit side 4 then s.modLane c q lane (fun i => { i with drop := ! bit side 5 })
          else s.beatCore c q (rsPoison (cwPayload cw)) side copy

/-! ### Room at ejection (R128, R163, R284) -/

/-- What a drop holds. -/
def State.drop (s : State) (st d : Nat) : DropSt := SMap.get DropSt.init s.drops (32 * st + d)

/-- Change what a drop holds. -/
def State.modDrop (s : State) (st d : Nat) (f : DropSt → DropSt) : State :=
  { s with drops := SMap.put DropSt.init s.drops (32 * st + d) (f (s.drop st d)) }

/-- The position and drop number of a drop cell, if the cell is one of a fitted stack (R273). -/
def State.dropAt (s : State) (c : Coord) : Option (Nat × Nat) :=
  let fx := c.x / 24
  let fy := c.y / 20
  match stackCols.findIdx? (· == fx), stackRows.findIdx? (· == fy) with
  | some cc, some rr =>
    let st := 6 * rr + cc
    let ox := c.x % 24
    let oy := c.y % 20
    if s.stackFitted st ∧ 4 ≤ ox ∧ ox ≤ 18 ∧ ox % 2 = 0 ∧ 4 ≤ oy ∧ oy ≤ 16 ∧ oy % 4 = 0 then
      some (st, 8 * ((oy - 4) / 4) + (ox - 4) / 2)
    else none
  | _, _ => none

/-- Drop request-queue entries taken (R284, 0x6040.05). -/
def DropSt.queueUsed (q : DropSt) : Nat :=
  q.gets.length + (q.ents.foldl (fun n e => n + e.joined.length) 0) + q.flushes.length + q.flushQ.length

/-! ### The grant of a gust (R77 to R85) -/

/-- The class group of a lane in fixed order (R80): 0 Detour, 1 Control, 2 Trade, 3 Collective, 4 Bulk. -/
def laneGroup (l : Nat) : Nat :=
  if 8 ≤ l then 0 else if l < 2 then 1 else if 6 ≤ l then 2 else if 4 ≤ l then 3 else 4

/-- The lanes of a group, a then b. -/
def groupLanes (g : Nat) : Nat × Nat :=
  match g with
  | 0 => (8, 9)
  | 1 => (0, 1)
  | 2 => (6, 7)
  | 3 => (4, 5)
  | _ => (2, 3)

/-- Share weight of a requester (R79, *Weight word*). -/
def State.weight (s : State) (c : Coord) (p rid : Nat) : Nat :=
  let w := s.reg (cellNode c) 0 (0x4030 + p) (0x10 + rid / 5)
  match rid % 5 with
  | 0 => bits w 24 6
  | 1 => bits w 0 6
  | 2 => bits w 18 6
  | 3 => bits w 12 6
  | _ => bits w 6 6

/-- A requester that nothing has changed since the first window boundary: C is its default weight (R79, R97). Of two eligible lanes before
its first grant it offers lane a, on which R77 is silent (log 89). -/
def reqDefault (rid : Nat) : ReqSt :=
  ⟨match rid % 5 with | 0 => 6 | 1 => 4 | 2 => 2 | _ => 8, 0, true, []⟩

/-- A requester of an output. -/
def OutSt.req (o : OutSt) (rid : Nat) : ReqSt := SMap.get (reqDefault rid) o.reqs rid

/-- Set a requester of an output. -/
def OutSt.setReq (o : OutSt) (rid : Nat) (r : ReqSt) : OutSt :=
  { o with reqs := SMap.put (reqDefault rid) o.reqs rid r }

/-- Fantail charge of units that leave by an output, in tenths of a pJ (R412). -/
def gustCharge (p k : Nat) : Nat := k * (if p < 4 then 256 else if p < 8 then 1628 else 60)

/-- A router's fantail allotment (R415). -/
def State.permit (s : State) (c : Coord) : Permit := SMap.get ⟨0, 0, 0, 0, []⟩ (s.field (s.fieldOf c)).permits (cellKey c)

/-- Change a router's fantail allotment. -/
def State.modPermit (s : State) (c : Coord) (f : Permit → Permit) : State :=
  s.modField (s.fieldOf c) (fun x => { x with
    permits := SMap.put ⟨0, 0, 0, 0, []⟩ x.permits (cellKey c) (f (SMap.get ⟨0, 0, 0, 0, []⟩ x.permits (cellKey c))) })

/-- A gust that requests an output. -/
structure Cand where
  rid : Nat
  q : Nat
  l : Nat
  cur : CurPkt
  leg : OutLeg
  k : Nat
  claim : Bool
  permit : Bool
  credit : Bool
  deriving DecidableEq, Repr

/-- The head packet of an input lane: the one begun, or the header at the head with its present route (R66, R77). -/
def State.headOf (s : State) (c : Coord) (q l : Nat) : Option CurPkt :=
  let i := s.lane c q l
  match i.cur with
  | some k => some k
  | none => match i.q with
    | u :: _ => match headPacket u with
      | some p => match s.legsOf c q l p u.copy with
        | .ok legs => some ⟨leNat u.data, p.len, legs, 0, false, [], []⟩
        | .error _ => none
      | none => none
    | [] => none

/-- What a queue or buffer at a cell is taken up by in headers whose ejection has been granted and that the receiver has not yet taken: the
headers of a TYPE and target there. -/
def State.dueOf (s : State) (c : Coord) (f : Packet → Bool) : List Packet :=
  ((s.rtr c).due.filterMap (fun h => packetOf h [] false)).filter f

/-- May a packet begin to be ejected (R78, R128, R163, R284)? A RESERVE needs a free entry in the request queue of its router, drop or port,
a GET_REQ, GATHER_REQ or FLUSH_REQ for a drop one in the drop's, a message room in the message buffer; what has been granted before counts. -/
def State.ejectRoom (s : State) (c : Coord) (hdr : Nat) : Bool :=
  match packetOf hdr [] false with
  | none => true
  | some p =>
    let drop := (s.dropAt c).map (fun x => s.drop x.1 x.2)
    let same := fun (ts : List Nat) => (s.dueOf c (fun x => ts.contains x.typ && decide (x.dest.tgt = p.dest.tgt))).length
    if p.dest.eng ≠ s.engine then (match s.portOf? c with
      | some k => decide (s.lport k 6 ≠ 5)
      | none => true)
    else if p.typ = 1 then
      let used := if p.dest.tgt = 1 then (drop.map (fun q => q.landing.queue.length)).getD 0
        else if p.dest.tgt = 2 then ((s.portOf? c).map (fun k => (s.port k).treq.length)).getD 0
        else (s.cell c).landing.queue.length
      decide (used + same [1] < 256)
    else if p.typ = 0x12 then
      let due := (s.dueOf c (fun x => decide (x.typ = 0x12))).foldl (fun n x => n + x.len) 0
      decide ((s.cell c).msgUsed + 32 * due + 32 * p.len ≤ 8192)
    else if (p.typ = 4 ∧ p.dest.tgt = 1) ∨ p.typ = 5 ∨ p.typ = 6 then
      let due := (s.dueOf c (fun x => decide ((x.typ = 4 ∧ x.dest.tgt = 1) ∨ x.typ = 5 ∨ x.typ = 6))).length
      decide ((drop.map DropSt.queueUsed).getD 0 + due < 1024)
    else true

/-- The charge of the gust of `n` units that begins at unit `sent` of a packet on input `q` (R412): 3.5 pJ more for each data unit
whose payload the millstone here merged or converted. Those leave with Collective packets of the cell port, but for COPY and for
a contribution sent on in its input format (R237). -/
def State.chargeOf (s : State) (p q hdr sent n : Nat) : Nat :=
  let t := tailOf .coll (bits hdr 160 96)
  let plain := match t with
    | .coll t =>
      let a := s.spec t.ctx
      decide (a.op = 6) || (decide (bits hdr 0 6 = 0x22) && a.anchored && decide (t.fmt = a.fin))
    | _ => true
  let data := if sent = 0 then n - 1 else n
  gustCharge p n + (if q = 8 ∧ bits hdr 6 2 = 2 ∧ plain = false then 35 * data else 0)

/-- Does the slot table in force of an output name an owner (R89)? -/
def State.hasOwner (s : State) (c : Coord) (p : Nat) : Bool :=
  ! (s.tab (cellNode c) 0 (0x4040 + p) 1).isEmpty &&
    (s.tabBytes (cellNode c) 0 (0x4040 + p) 1 0 256).any (fun b => decide (b.toNat % 16 < 9))

/-- Are enough of a gust's `n` units here, `have_` of them being in the input buffer (R78 item 2)? One is enough where the others follow on
consecutive fc; behind a slower field's clock all must be there. At the cell port a data unit must have been read. -/
def State.unitsReady (s : State) (c : Coord) (q have_ n : Nat) : Bool :=
  match (s.ringMap c).neighbour c q with
  | some d =>
    if q < 8 ∧ s.fieldOf d ≠ s.fieldOf c ∧ s.freq (s.fieldOf d) < s.freq (s.fieldOf c) then decide (n ≤ have_) else decide (1 ≤ have_)
  | none => decide (1 ≤ have_)

/-- The gust that input lane (q, l) offers to output p by items 1, 2 and 4 of R78 and its room at ejection, with its permit and credit
(items 3 and 6). In a sleeping field only what goes straight on is carried (R70), and Trade on an output whose table names an owner (R89). -/
def State.offer (s : State) (c : Coord) (p q l : Nat) : Option Cand :=
  let o := s.outp c p
  let i := s.lane c q l
  match s.headOf c q l with
  | none => none
  | some k =>
    match k.legs.find? (fun g => g.port == p && ! k.cuts.contains p && decide (g.sent < k.len + 1)) with
    | none => none
    | some g =>
      let n := min 4 (k.len + 1 - g.sent)
      let rid := 5 * q + laneGroup l
      let begin := decide (g.sent = 0)
      let straight := decide (q < 8) && decide (p = facing q)
      if ! s.unitsReady c q (k.base + i.q.length - g.sent) n then none
      else if q = 8 ∧ s.unitsRead c k.hdr ≤ g.sent then none
      else if 2 ≤ s.power (s.fieldOf c) ∧ ! (straight && k.legs.all (fun h => decide (h.port = p) || decide (k.len + 1 ≤ h.sent))) ∧ ! (decide (laneGroup l = 2) && s.hasOwner c p) then none
      else if begin ∧ SMap.get 0 o.owner g.lane ≠ 0 then none
      else if begin ∧ p = 8 ∧ ! s.ejectRoom c k.hdr then none
      else
        let claim := laneGroup l = 2 ∧ (o.req rid).claims ≠ []
        let pm := s.permit c
        let ch := s.chargeOf p q k.hdr g.sent n
        some ⟨rid, q, l, k, g, n, claim, decide (if claim then ch ≤ pm.a else ch + pm.t ≤ pm.a),
          decide (p = 8) || decide (n ≤ nth o.credits g.lane 0)⟩

/-- Is a gust's requester masked or its output stopped (R78 item 5, R83, R92 to R94)? A hard stop holds every gust, a freeze and a cell's
reset those that begin a packet; a quota committed inside a window is
compared with the count as it stands (DESIGN CHOICE, log 124); at a gateway cell whose link is down, so are packets that came by the link. -/
def State.maskedGust (s : State) (c : Coord) (p : Nat) (x : Cand) : Bool :=
  let o := s.outp c p
  let begin := decide (x.leg.sent = 0)
  let inbound := match packetOf x.cur.hdr [] false with
    | some pk => decide (pk.src.eng ≠ s.engine)
    | none => false
  o.hardStop || (decide (laneGroup x.l = 1) && decide (s.reg (cellNode c) 0 (0x4030 + p) 4 ≤ o.ctrl)) ||
    (begin && (s.frozen c p || (s.inp c x.q).masked || (decide (x.q = 8) && inbound && (s.outp c 8).hardStop)))

/-- The gusts that request an output: for each requester the head of one eligible lane, the lane its last grant did not
use when both are eligible (R77). `ok` says what eligible means. -/
def State.cands (s : State) (c : Coord) (p : Nat) (ok : Cand → Bool) : List Cand :=
  (List.range 45).filterMap (fun rid =>
    let g := groupLanes (rid % 5)
    let a := (s.offer c p (rid / 5) g.1).filter ok
    let b := (s.offer c p (rid / 5) g.2).filter ok
    match a, b with
    | some x, some y => if ((s.outp c p).req rid).lastB then some x else some y
    | some x, none => some x
    | none, y => y)

/-- Score S = C + (A << AGE_SHIFT) (R80). -/
def State.score (s : State) (c : Coord) (p rid : Nat) : Int :=
  let r := (s.outp c p).req rid
  r.credit + ((r.age * 2 ^ s.reg (cellNode c) 0 (0x4030 + p) 3 : Nat) : Int)

/-- The best of a list by a measure, the earlier of equals: candidates stand in fixed order. -/
def bestOf (m : Cand → Int) : List Cand → Option Cand
  | [] => none
  | x :: xs => match bestOf m xs with
    | some y => if m x < m y then some y else some x
    | none => some x

/-- The head of the saturated queue, or the highest score (R81 steps 2 and 3); true when from the queue. -/
def State.pickRank (s : State) (c : Coord) (p : Nat) (l : List Cand) : Option (Cand × Bool) :=
  match (s.outp c p).sat.find? (fun rid => l.any (fun x => x.rid == rid)) with
  | some rid => (l.find? (fun x => x.rid == rid)).map (fun x => (x, true))
  | none => (bestOf (fun x => s.score c p x.rid) l).map (fun x => (x, false))

/-- The decision of R81: claim step, Control step, ranking step. -/
def State.decide81 (s : State) (c : Coord) (p : Nat) (l : List Cand) : Option (Cand × Bool × Bool) :=
  let age := fun (x : Cand) => - ((minimum (2 ^ 64) (((s.outp c p).req x.rid).claims.map TradeClaim.k) : Nat) : Int)
  match bestOf age (l.filter Cand.claim) with
  | some x => some (x, true, false)
  | none =>
    let ctl := l.filter (fun x => x.rid % 5 == 1)
    (s.pickRank c p (if ctl.isEmpty then l else ctl)).map (fun x => (x.1, false, x.2))

/-- Mark the claims of the Trade requesters that had an eligible gust, or lacked only a permit (R85). -/
def State.markClaims (s : State) (c : Coord) (p : Nat) (l : List Cand) (power : Bool) : State :=
  let s := if power && l.any (fun x => x.rid % 5 == 2 && x.claim) then s.modField (s.fieldOf c) (fun q => { q with overClear := false }) else s
  (l.filter (fun x => x.rid % 5 == 2)).foldl (fun s x => s.modOut c p (fun o =>
    let r := o.req x.rid
    o.setReq x.rid { r with claims := r.claims.map (fun k =>
      if power then { k with power := true } else { k with seen := true }) })) s

/-- Aging after a decision (R80): every other eligible requester ages by one, and joins the saturated queue at 15. -/
def OutSt.ageAll (o : OutSt) (won : Nat) (l : List Cand) : OutSt :=
  l.foldl (fun o x =>
    if x.rid = won then o
    else
      let r := o.req x.rid
      if r.age = 15 then o
      else
        let o := o.setReq x.rid { r with age := r.age + 1 }
        if r.age = 14 then { o with sat := o.sat ++ [x.rid] } else o) o

/-- Account for a grant at the output (R79, R80, R83, R85): credit, age, saturated queue, claim, Control count. -/
def State.account (s : State) (c : Coord) (p : Nat) (x : Cand) (claim sat : Bool) : State :=
  let n := cellNode c
  let quota := s.reg n 0 (0x4030 + p) 4
  let ctl := decide (x.rid % 5 = 1)
  let o := s.outp c p
  let hit := ctl && decide (o.ctrl + 1 = quota) && ! o.quotaHit
  let s := s.modOut c p (fun o =>
    let r := o.req x.rid
    let cs := if claim then
        let k := minimum (2 ^ 64) (r.claims.map TradeClaim.k)
        r.claims.filter (fun t => t.k != k)
      else r.claims
    let o := o.setReq x.rid ⟨max (r.credit - (x.k : Int)) (-64), 0, decide (x.l % 2 = 1), cs⟩
    { o with sat := o.sat.filter (· != x.rid), ctrl := if ctl then o.ctrl + 1 else o.ctrl,
             quotaHit := o.quotaHit || hit })
  let s := if hit then s.bump n 0 (0x4050 + p) 5 1 else s
  let s := if claim then s.bump n 0 (0x4050 + p) 2 1 else s
  let s := if sat then s.bump n 0 (0x4050 + p) 6 1 else s
  let s := s.modField (s.fieldOf c) (fun q => { q with idleSince := s.time })
  (s.bump n 0 (0x4050 + p) 1 1).countEvent c 1 p 0 1

/-- The charge of a granted gust is taken from the router's allotment (R415). -/
def State.chargeGust (s : State) (c : Coord) (p : Nat) (x : Cand) (claim : Bool) : State :=
  let ch := s.chargeOf p x.q x.cur.hdr x.leg.sent x.k
  s.modPermit c (fun m => { m with a := m.a - ch, t := if claim then m.t - min m.t (gustCharge p 4) else m.t,
                                   spent := m.spent + ch,
                                   denied := if m.deniedGusts.contains (x.cur.hdr, x.leg.sent) then m.denied - ch else m.denied })

/-- The ejection of a packet begins at its own router: it takes its place there before those that follow it, and its room (R74, R128). -/
def State.noteDue (s : State) (c : Coord) (hdr : Nat) : State :=
  match packetOf hdr [] false with
  | some p => if s.ejectsAt c p then s.modRtr c (fun r => { r with due := r.due ++ [bareHeader p] }) else s
  | none => s

/-- Start a granted gust (R23, R55, R78): its credits are taken and its output lane is the packet's until it ends; a packet that begins here
is probed, counted and has its room taken at ejection. The units that are here leave at once. A packet that begins a detour counts in
DETOURS, one of the Trade class in TRADE_DETOURED too (R61, R68). -/
def State.startGust (s : State) (c : Coord) (p : Nat) (x : Cand) : State :=
  let hdr := x.cur.hdr
  let lane := x.leg.lane
  let s := if x.leg.sent = 0 then
      let s := s.probe c p true (outHeader x.cur x.leg) lane
      let s := s.ringEvent c 1 p (pack [(0, 16, bits hdr 96 16), (16, 6, bits hdr 0 6), (22, 4, lane), (26, 9, bits hdr 43 9),
        (35, 9, bits hdr 52 9)])
      let turnsOff := decide (x.leg.route.detour = 1) && decide (8 ≤ lane)
      let s := if turnsOff then s.bump (cellNode c) 0 0x4010 5 1 else s
      let s := if turnsOff ∧ bits hdr 6 2 = 3 then s.bump (cellNode c) 0 0x4010 8 1 else s
      if p = 8 then
        let s := s.noteDue c hdr
        s.countEvent c 7 0 0 1
      else s
    else s
  let s := s.modOut c p (fun o => { o with
    credits := if p = 8 then o.credits else setAt o.credits lane (nth o.credits lane 0 - x.k),
    owner := SMap.put 0 o.owner lane (x.q + 1),
    gust := some ⟨x.q, x.l, lane, x.k⟩ })
  let s := s.modLane c x.q x.l (fun i => { i with cur := some x.cur })
  (s.pushUnits c p).tidyLane c x.q x.l 20

/-- A gust denied for want of a permit is counted once per window (R414, R425). -/
def State.deny (s : State) (c : Coord) (p : Nat) (l : List Cand) : State :=
  l.foldl (fun s x =>
    let id := (x.cur.hdr, x.leg.sent)
    if (s.permit c).deniedGusts.contains id then s
    else s.modPermit c (fun m => { m with denied := m.denied + s.chargeOf p x.q x.cur.hdr x.leg.sent x.k, deniedGusts := m.deniedGusts ++ [id] })) s

/-- The grant of a decision (R80, R81, R85, R415): the gust starts, and the accounts of the output, its requesters and the fantail follow. -/
def State.grantGust (s : State) (c : Coord) (p : Nat) (l : List Cand) (x : Cand) (claim sat : Bool) : State :=
  let old := s.stopState c p
  let s := s.markClaims c p l false
  let s := s.account c p x claim sat
  let s := s.modOut c p (fun o => o.ageAll x.rid l)
  let s := s.chargeGust c p x claim
  (s.startGust c p x).noteStop c p old

/-- The request state that a lookahead output samples (R95): every gust that is eligible now. -/
def State.sampleNow (s : State) (c : Coord) (p : Nat) : List Sampled :=
  (s.cands c p (fun x => x.permit && x.credit && ! s.maskedGust c p x)).map (fun x => ⟨x.rid, x.q, x.l, x.cur.hdr, x.leg.sent⟩)

/-- Sample the request state of a lookahead output (R95, R96). -/
def State.sampleOut (s : State) (c : Coord) (p : Nat) : State :=
  let l := s.sampleNow c p
  s.modOut c p (fun o => { o with sample := l, sampleAt := s.time })

/-- The waits of a decision (R85, R414, R425): for credits, and for permits, where a claim that lacks only a permit is marked. -/
def State.noteWaits (s : State) (c : Coord) (p : Nat) : State :=
  let open_ := fun (x : Cand) => ! s.maskedGust c p x
  let noPermit := s.cands c p (fun x => x.credit && ! x.permit && open_ x)
  let s := if (s.cands c p (fun x => x.permit && ! x.credit && open_ x)).isEmpty then s else s.countEvent c 4 p 0 1
  let s := if noPermit.isEmpty then s else s.countEvent c 5 p 0 1
  (s.deny c p noPermit).markClaims c p noPermit true

/-- The decision of a lookahead output (R95, R96): on a sample taken no more than one fc before, else on one taken now, the gust starting one
fc later. The masks and the permit of the gust it finds are looked at again; where one fails the grant is cancelled and counted, and nothing
is charged or aged. -/
def State.lookahead (s : State) (c : Coord) (p : Nat) : State :=
  let f := s.fieldOf c
  let s := s.noteWaits c p
  let o := s.outp c p
  let held := decide (o.sample ≠ []) && decide (s.time ≤ s.fcAfter f o.sampleAt 1)
  let s := if held then s else
    let t := s.sampleOut c p
    ({ t with time := max t.time (t.fcAfter f t.time 1) } : State)
  let sample := (s.outp c p).sample
  let l := s.cands c p (fun x => x.credit && sample.contains ⟨x.rid, x.q, x.l, x.cur.hdr, x.leg.sent⟩)
  match s.decide81 c p l with
  | none => s.modOut c p (fun o => { o with sample := [] })
  | some (x, claim, sat) =>
    if x.permit ∧ ! s.maskedGust c p x then (s.grantGust c p l x claim sat).sampleOut c p
    else (s.bump (cellNode c) 0 (0x4050 + p) 7 1).sampleOut c p

/-- The decision of a tail-beat output (R81, R95), on the present request state; with none eligible there is no decision, and the waits for
credits and permits are counted (R425). -/
def State.tailBeat (s : State) (c : Coord) (p : Nat) : State :=
  let l := s.cands c p (fun x => x.permit && x.credit && ! s.maskedGust c p x)
  let s := s.noteWaits c p
  match s.decide81 c p l with
  | none => s
  | some (x, claim, sat) => s.grantGust c p l x claim sat

/-- GUST_DECISION (R57, R78, R95): an output that is free for its next gust decides by its MODE. A hole forwards nothing. -/
def State.gustDecision (s : State) (c : Coord) (p : Nat) : State :=
  if s.isHole c ∨ (s.outp c p).gust.isSome then s
  else if s.reg (cellNode c) 0 (0x4030 + p) 1 = 1 then s.lookahead c p
  else s.tailBeat c p

/-! ### Injection, with the path fence of R75 -/

/-- The flow of a packet that carries an order guarantee (R74), as a number: source router, destination router, and what the flow is of. None
for Collective and for replies that are not Trade. -/
def flowOf (p : Packet) : Option Nat :=
  let way := fun (kind : Nat) => some (pack [(0, 11, p.src.eng), (11, 9, p.src.x), (20, 9, p.src.y), (29, 11, p.dest.eng),
    (40, 9, p.dest.x), (49, 9, p.dest.y), (58, 60, kind)])
  match p.cls, p.tail with
  | 0, _ => way 0
  | 2, _ => none
  | 3, _ => way 1
  | k, .message t => way (2 + 4 * (64 * k + t.chan))
  | 1, .rect t => way (3 + 4 * (t.x1 * 512 + t.y1))
  | _, .transfer t => if p.typ = 0x10 then way (4 + 8 * (64 * p.tag + t.rsv)) else none
  | _, _ => none

/-- Put a packet into the router's cell-port input (R55): its units join lane a of its class, and it is in flight. An armed
injection goes into its BCHECK (R373 kind 5). -/
def State.inject (s : State) (c : Coord) (p : Packet) : State :=
  let x := if p.len = 0 then (none, s) else s.takeInject (cellNode c) 5 0
  let s := x.2
  let p := match x.1 with
    | some pat => { p with bcheck := p.bcheck ^^^ (pat.1 % 2 ^ 32) }
    | none => p
  let us := (List.range (p.len + 1)).zip (packetUnits p)
  let l := 2 * p.cls
  let s := { s with flight := s.flight ++ [p] }
  let s := s.modLane c 8 l (fun i => { i with q := i.q ++ us.map (fun u =>
    (⟨u.2, p.poison && decide (u.1 ≠ 0), decide (u.1 = 0), decide (u.1 = p.len), decide (u.1 = p.len) || decide (u.1 % 4 = 3), false⟩ :
      BufUnit)) })
  (s.countEvent c 3 8 l (p.len + 1)).probe c 8 false (headerBits p) l

/-- Must a packet of this flow wait at the path fence (R75)? -/
def State.fenced75 (s : State) (c : Coord) (flow : Nat) : Bool :=
  let lim := 1000 * s.reg .engine 0 0x2013 3
  (s.cell c).sentOut.any (fun o => o.flow == flow && decide (o.gen < s.flowGen c flow) &&
    (o.own || decide (s.time < o.at_ + lim)))

/-- Is a read for a packet of this reservation? -/
def SrcRsv.readBy (r : SrcRsv) (u : ReadUse) : Bool :=
  match u with
  | .pkt typ _ tag n _ => decide (tag = r.tag) &&
    (if typ = 0x13 then decide (n = r.mid) && decide (r.st = .sent ∨ r.st = .gated)
     else [0x10, 0x15].contains typ && decide (n = r.rsv) && decide (r.st ≠ .sent ∧ r.st ≠ .gated))
  | _ => false

/-- Is a packet of a reservation not yet injected: it waits at the path fence, or for its bytes (R75, R103, R168)? -/
def State.rsvHeld (s : State) (c : Coord) (r : SrcRsv) : Bool :=
  (s.cell c).pathHeld.any (fun h => r.carries h.1) || (s.cell c).mrd.any (fun m => r.readBy m.use)

/-- The units of a lane, packet by packet. -/
def splitUnits : List BufUnit → List (List BufUnit)
  | [] => []
  | u :: us =>
    if u.last then [u] :: splitUnits us
    else match splitUnits us with
      | [] => [[u]]
      | g :: gs => (u :: g) :: gs

/-- The packet whose units begin with a header. -/
def unitsPacket (g : List BufUnit) : Option Packet := g.head?.bind headPacket

/-- Take back the packets that a test names and whose header has not left its router (R119): from the cell port's lane `l` and from the path
fence (R75). They are the second part of the answer. -/
def State.retract (s : State) (c : Coord) (l : Nat) (which : Packet → Bool) : State × List Packet :=
  let i := s.lane c 8 l
  let gs := splitUnits i.q
  let begun := i.cur.any (fun k => k.legs.any (fun g => decide (0 < g.sent)))
  let keep := if begun then gs.take 1 else []
  let rest := if begun then gs.drop 1 else gs
  let hit := fun (g : List BufUnit) => (unitsPacket g).any which
  let out := (rest.filter hit).filterMap unitsPacket
  let held := (((s.cell c).pathHeld.filter (fun h => which h.1)).map Prod.fst)
  let s := s.modLane c 8 l (fun i => { i with
    q := keep.flatten ++ (rest.filter (fun g => ! hit g)).flatten,
    cur := if ! begun && (gs.head?.any hit) then none else i.cur })
  let s : State := { s with flight := out.foldl (fun l p => l.eraseP (fun x => decide (bareHeader x = bareHeader p))) s.flight }
  (s.modCell c (fun q => { q with pathHeld := q.pathHeld.filter (fun h => ! which h.1) }), out ++ held)

/-- The packets of a reservation whose header has not left are dropped, once a NACK has ended it: no further packet is sent (R168). Their
reads, which are under way, bring nothing. -/
def State.dropQueued (s : State) (c : Coord) (r : SrcRsv) : State :=
  let which := fun (p : Packet) => decide (srcCell p.src = c) && [0x10, 0x13, 0x15, 0x17].contains p.typ && r.carries p
  [2, 6].foldl (fun (s : State) l =>
    let x := s.retract c l which
    x.1.modCell c (fun q => { q with
      mrd := q.mrd.map (fun m => if x.2.any (readFor c m.use) then { m with use := .other } else m) })) s

/-- Record a packet as unaccounted for, and inject it (R75). -/
def State.injectOut (s : State) (c : Coord) (p : Packet) (flow : Nat) (own : Bool) : State :=
  let o : OutPkt := ⟨flow, s.flowGen c flow, s.time, p.tag, rsvOf p, decide (p.cls = 0), own⟩
  let lim := 1000 * s.reg .engine 0 0x2013 3
  let s := s.modCell c (fun q => { q with sentOut :=
    (q.sentOut.filter (fun o => o.own || decide (s.time < o.at_ + lim))) ++ [o] })
  s.inject c p

/-- Inject a packet, or hold it at the path fence of its flow (R75). -/
def State.sendPkt (s : State) (c : Coord) (p : Packet) (own : Bool) : State :=
  match flowOf p with
  | none => s.inject c p
  | some flow =>
    if s.fenced75 c flow ∨ (s.cell c).pathHeld.any (fun h => flowOf h.1 == some flow) then
      (s.modCell c (fun q => { q with pathHeld := q.pathHeld ++ [(p, own)] })).bump (cellNode c) 0 0x4010 9 1
    else s.injectOut c p flow own

/-- Account for packets of a reservation, or of a whole command, at the path fence (R75). -/
def State.accounted (s : State) (c : Coord) (tag : Nat) (rsv : Option Nat) (controlOnly : Bool) : State :=
  s.modCell c (fun q => { q with sentOut := q.sentOut.filter (fun o =>
    ! (o.tag == tag && (match rsv with | some r => o.rsv == r | none => true) && (! controlOnly || o.control))) })

/-- The last packet of the reservations that a test names has been injected: their timer starts now (R168). -/
def State.restartTimer (s : State) (c : Coord) (which : SrcRsv → Bool) : State :=
  let t := s.time + 1000 * s.reg .engine 0 0x2013 3
  s.modCell c (fun q => { q with rsvs := q.rsvs.map (fun r =>
    if which r ∧ ! s.rsvHeld c r ∧ (r.st = .asked ∨ r.st = .sending ∨ r.st = .sent) then
      { r with deadline := t, st := if r.st = .sending then .awaiting else r.st } else r) })

/-- Release the packets held at the path fence whose flows are accounted for (R75), in order. -/
def State.releaseHeld (s : State) (c : Coord) : State :=
  let held := (s.cell c).pathHeld
  let s := s.modCell c (fun q => { q with pathHeld := [] })
  let r := held.foldl (fun (s : State × List Packet) h =>
    match flowOf h.1 with
    | none => (s.1.inject c h.1, s.2 ++ [h.1])
    | some flow =>
      if s.1.fenced75 c flow ∨ (s.1.cell c).pathHeld.any (fun x => flowOf x.1 == some flow) then
        (s.1.modCell c (fun q => { q with pathHeld := q.pathHeld ++ [h] }), s.2)
      else (s.1.injectOut c h.1 flow h.2, s.2 ++ [h.1])) (s, [])
  r.2.foldl (fun s p => s.restartTimer c (fun q => q.carries p)) r.1

/-! ### Order within a flow (R74) -/

/-- Has the ejection of a packet begun? -/
def State.ejecting (s : State) (p : Packet) : Bool := (s.rtr (destCell p.dest)).due.contains (bareHeader p)

/-- Has a message been admitted, so that it only waits for its data to land (R127)? -/
def State.admitted (s : State) (p : Packet) : Bool :=
  match p.tail with
  | .message t => (SMap.get [] (s.cell (destCell p.dest)).claims t.chan).any (fun k => k.src == p.src && k.tag == p.tag && k.typ == p.typ)
  | _ => false

/-- Does an earlier packet of its flow have to be received before this one (R74)? What the flow has lost on its way does not come: a packet
that is being ejected waits for those that are too. A rectangle packet is received once at each member, so its order is told there
(`State.rectOvertakes`). -/
def State.overtakes (s : State) (p : Packet) : Bool :=
  match flowOf p with
  | none => false
  | some f => decide (p.dest.tgt ≠ 5) && s.flight.contains p &&
    (s.flight.takeWhile (· != p)).any (fun x => flowOf x == some f && ! s.admitted x && (s.ejecting x || ! s.ejecting p))

/-- The packets of a rectangle's reservation leave the ledger once their sender's reservation has ended (R175, R177): a member that still
receives a copy finds no reservation. -/
def State.dropCopies (s : State) (c : Coord) (typ tag mid : Nat) : State :=
  { s with flight := s.flight.filter (fun p => match p.tail with
    | .rect t => ! (decide (srcCell p.src = c) && decide (p.typ = typ) && decide (p.tag = tag) && decide (t.mid = mid))
    | _ => true) }

end Sys2Proof.Machine
end

