-- ==== Sys2Proof/Machine/LevelGeo.lean ====
section
/-! DEFINITION. The level map of a context (R249, R250), level roots, rings and arcs (R253, R254), and stations (R255). -/

namespace Sys2Proof.Machine

/-- A level entry (R249). -/
structure LvEnt where
  dim : Nat
  seg : Bool
  lo : Nat
  count : Nat
  root : Nat
  head : Nat
  wait : Nat
  lease : Nat
  deriving DecidableEq, Repr

/-- The header entry of a context's level map. -/
def State.lvHead (s : State) (ctx : Nat) : Nat := s.tabNat .engine ctx 0x5000 0x16 0 16

/-- LEVELS of a context: 0 for an empty map. -/
def State.levels (s : State) (ctx : Nat) : Nat := if s.reg .engine ctx 0x5000 0x16 = 0 then 0 else bits (s.lvHead ctx) 0 2

/-- Level entry ℓ. -/
def State.lvEnt (s : State) (ctx l : Nat) : LvEnt :=
  let w := s.tabNat .engine ctx 0x5000 0x16 (16 * l) 16
  ⟨bits w 0 2, bit w 2, bits w 8 11, bits w 20 12, bits w 32 11, bits w 43 5, bits w 64 32, bits w 96 32⟩

/-- The excluded engines of the header entry. -/
def State.lvExcl (s : State) (ctx : Nat) : List Nat :=
  let w := s.lvHead ctx
  ([64, 76, 88, 100].filter (fun b => bit w (b + 11))).map (fun b => bits w b 11)

/-- Size of a dimension, at least 1 (R320). -/
def State.dimSize (s : State) (d : Nat) : Nat := max 1 (nth s.route.sizes d 1)

/-- An engine's coordinate along a dimension. -/
def State.engCoord (s : State) (e d : Nat) : Nat := nth (engCoords s.route.sizes e) d 0

/-- Offset of an engine at a level (R250). -/
def State.lvOffset (s : State) (ctx l e : Nat) : Nat :=
  let v := s.lvEnt ctx l
  let d := s.dimSize v.dim
  (s.engCoord e v.dim + d - v.lo % d) % d

/-- The level-ℓ root coordinate of slice `k` (R253). -/
def State.rho (s : State) (ctx l k : Nat) : Nat :=
  let v := s.lvEnt ctx l
  if s.ctx ctx 2 = 4 then s.engCoord (bits (s.lvHead ctx) 16 11) v.dim
  else (v.lo + (v.root + (if v.seg then k else 0)) % max 1 v.count) % s.dimSize v.dim

/-- Does an engine take part at level ℓ in slice `k` (R253)? -/
def State.takesPart (s : State) (ctx l k e : Nat) : Bool :=
  (List.range (l - 1)).all (fun i => s.engCoord e (s.lvEnt ctx (i + 1)).dim == s.rho ctx (i + 1) k)

/-- The engine on the ring of `e` at level ℓ that is the level root of slice `k` (R253). -/
def State.levelRoot (s : State) (ctx l k e : Nat) : Nat :=
  engOf s.route.sizes (setAt (engCoords s.route.sizes e) (s.lvEnt ctx l).dim (s.rho ctx l k))

/-- Is this engine the level-ℓ root of slice `k`? -/
def State.isLevelRoot (s : State) (ctx l k : Nat) : Bool :=
  s.takesPart ctx l k s.engine && decide (s.levelRoot ctx l k s.engine = s.engine)

/-- Does an engine lie on this engine's level-ℓ ring: the same coordinates but along DIM_ℓ, and inside the arc (R253)? -/
def State.onLevelRing (s : State) (ctx l e : Nat) : Bool :=
  let v := s.lvEnt ctx l
  decide (s.lvOffset ctx l e < v.count) &&
    (List.range 3).all (fun d => d == v.dim || s.engCoord e d == s.engCoord s.engine d)

/-- Does any relay pair forward: is this engine in relay (R333)? -/
def State.anyRelay (s : State) : Bool := (List.range s.nPorts).any (fun p => decide (s.portState p = 5))

/-- Is this engine a member of its level-ℓ ring for slice `k` (R253, R272)? In relay it is of none (R269). -/
def State.levelMember (s : State) (ctx l k : Nat) : Bool :=
  ! s.anyRelay && s.takesPart ctx l k s.engine && decide (s.lvOffset ctx l s.engine < (s.lvEnt ctx l).count) &&
    ! (decide (l = 1) && (s.lvExcl ctx).contains s.engine)

/-- n_ℓ of this engine's ring (R253, R272). -/
def State.levelN (s : State) (ctx l : Nat) : Nat :=
  (s.lvEnt ctx l).count - (if l = 1 then ((s.lvExcl ctx).filter (s.onLevelRing ctx l)).eraseDups.length else 0)

/-- The arc of a level ring (R254): first coordinate and length walking up. -/
def State.levelArc (s : State) (ctx l k : Nat) : Nat × Nat :=
  let v := s.lvEnt ctx l
  let d := s.dimSize v.dim
  if v.count = d then ((s.rho ctx l k + cdiv d 2) % d, d - 1) else (v.lo, v.count - 1)

/-- Which way this engine's half travels toward the level root: up is the increasing direction (R254). -/
def State.levelUp (s : State) (ctx l k : Nat) : Bool :=
  let d := s.dimSize (s.lvEnt ctx l).dim
  arcUp d (s.levelArc ctx l k) (s.engCoord s.engine (s.lvEnt ctx l).dim) (s.rho ctx l k)

/-- Is this engine an end of the arc, other than the level root (R254)? -/
def State.levelEnd (s : State) (ctx l k : Nat) : Bool :=
  let d := s.dimSize (s.lvEnt ctx l).dim
  arcOrigin d (s.levelArc ctx l k) (s.engCoord s.engine (s.lvEnt ctx l).dim) (s.rho ctx l k)

/-- The station of this engine at level ℓ for slice `k`: port and gateway cell (R255); none without a live port. -/
def State.station (s : State) (ctx l k : Nat) : Option (Nat × Coord) :=
  let v := s.lvEnt ctx l
  let dir :=
    if s.isLevelRoot ctx l k then (if (s.levelArc ctx l k).1 = s.rho ctx l k then 0 else 1)
    else if s.levelUp ctx l k then 0 else 1
  let ps := s.route.trunkPorts v.dim dir
  if ps.isEmpty then none
  else
    let p := nth ps ((ctx + k) % ps.length) 0
    let gs := s.liveGateways p
    if gs.isEmpty then none else some (p, nth gs ((ctx + k) / ps.length % gs.length) ⟨0, 0⟩)

/-- Σ LEASE_ℓ of a context in µs (R251, R265). -/
def State.levelLeases (s : State) (ctx : Nat) : Nat :=
  (List.range (s.levels ctx)).foldl (fun n i => n + (s.lvEnt ctx (i + 1)).lease) 0

/-- The carrier anchor byte of level ℓ (R258): E_g with the headroom of the levels below, at most 127. -/
def State.carrierAnchor (s : State) (ctx l eg : Nat) : Nat :=
  let head := (List.range (l - 1)).foldl (fun n i => n + (s.lvEnt ctx (i + 1)).head) (bits (s.lvHead ctx) 8 5)
  (min 127 (anchorExp eg + (head : Int)) + 127).toNat

/-- Carrier mantissa bits W of a context: 16 or 24; 0 where it names no carrier. -/
def Spec.carrierBits (a : Spec) : Nat := if a.carrier = 0x13 then 16 else if a.carrier = 0x14 then 24 else 0

end Sys2Proof.Machine
end

