-- ==== Sys2Proof/Machine/BulkOps.lean ====
section
/-! DEFINITION. Bulk transfers and multicast (chapter 8): the landing buffer and its request queue (R162 to R167), the
reservations at their source (R168 to R170), GET (R171), anycast resolution (R73), block checks at delivery (R44), and
the combined multicast call (R174 to R176). -/

namespace Sys2Proof.Machine

/-! ### Block checks of a cell's memory (R40, R42, R44) -/

/-- Offset of the table entry of the block at `a` (R40). -/
def State.checkAddr (s : State) (c : Coord) (a : Nat) : Nat := s.reg (cellNode c) 0 0x4002 1 + 4 * (a / 2048)

/-- The stored check of the block at `a`. -/
def State.blockCheck (s : State) (c : Coord) (a : Nat) : Nat := s.memNat c (s.checkAddr c a) 4

/-- Write a check into the cell's own table (R44). -/
def State.writeCheck (s : State) (c : Coord) (a v : Nat) : State := s.memWrite c (s.checkAddr c a) (leBytes 4 v)

/-- The blocks, by offset, that a byte range touches. -/
def blocksOf (a n : Nat) : List Nat :=
  if n = 0 then [] else (List.range ((a + n - 1) / 2048 + 1 - a / 2048)).map (fun i => 2048 * (a / 2048 + i))

/-- Compute and write the check of every block that a range touches, as the block stands (R44). -/
def State.recheck (s : State) (c : Coord) (a n : Nat) : State :=
  (blocksOf a n).foldl (fun s b => s.writeCheck c b (crc32c (s.memRead c b 2048))) s

/-- Does the block at `a` agree with its table entry (R42)? -/
def State.blockGood (s : State) (c : Coord) (a : Nat) : Bool := decide (crc32c (s.memRead c a 2048) = s.blockCheck c a)

/-! ### The landing buffer (R162 to R165) -/

/-- Grains a reservation takes (R162). -/
def grainsFor (size : Nat) : Nat := cdiv size 2048

/-- Grains that a granted reservation still holds. -/
def LRsv.held (r : LRsv) : List Nat := r.grains.filterMap id

/-- Do two keys name one reservation: (SRC cell, RSV, TAG), whatever the issuing core (R165)? -/
def sameKey (a b : RsvKey) : Bool :=
  a.src.eng == b.src.eng && a.src.x == b.src.x && a.src.y == b.src.y && a.src.stream == b.src.stream && a.rsv == b.rsv &&
    a.tag == b.tag

/-- The reservation with a key, if it is granted. -/
def Landing.find (l : Landing) (k : RsvKey) : Option LRsv := l.rsvs.find? (fun r => sameKey r.key k)

/-- Is the request with a key waiting in the queue? -/
def Landing.queued (l : Landing) (k : RsvKey) : Bool := l.queue.any (fun q => sameKey q.key k)

/-- Put grains back in the free pool, lowest first. -/
def Landing.release (l : Landing) (gs : List Nat) : Landing := { l with free := gs.foldl (fun f g => insertSorted g f) l.free }

/-- End a reservation: its remaining grains are free (R165). -/
def Landing.finish (l : Landing) (k : RsvKey) : Landing :=
  match l.find k with
  | some r => { l with rsvs := l.rsvs.filter (fun x => ! sameKey x.key k) }.release r.held
  | none => l

/-- Replace a reservation. -/
def Landing.put (l : Landing) (r : LRsv) : Landing := { l with rsvs := l.rsvs.map (fun x => if x.key = r.key then r else x) }

/-- Remove a request from the queue. -/
def Landing.unqueue (l : Landing) (k : RsvKey) : Landing := { l with queue := l.queue.filter (fun q => ! sameKey q.key k) }

/-- Can the head request be granted (R163)? -/
def Landing.ready (l : Landing) : Bool :=
  match l.queue with
  | q :: _ => decide (grainsFor q.size ≤ l.free.length)
  | [] => false

/-- Grant the head request: the lowest free grains, lease and expiry (R162, R164). -/
def Landing.grant (l : Landing) (expiry lease : Nat) : Option (LRsv × Landing) :=
  match l.queue with
  | q :: rest =>
    let n := grainsFor q.size
    let r : LRsv := ⟨q.key, q.size, q.kind, (l.free.take n).map some, .granted, expiry, lease, 0⟩
    some (r, ⟨l.free.drop n, rest, l.rsvs ++ [r]⟩)
  | [] => none

/-- Grains free and asked for by nobody: G of R172. -/
def Landing.spare (l : Landing) : Nat := min 16 (l.free.length - (l.queue.foldl (fun a q => a + grainsFor q.size) 0))

/-! ### Sites -/

/-- The drop of a stack at position `d` (R273). -/
def dropCell (st d : Nat) : Coord :=
  ⟨24 * nth stackCols (st % 6) 0 + 4 + 2 * (d % 8), 20 * nth stackRows (st / 6) 0 + 4 + 4 * (d / 8)⟩

/-- The cell of a granting site. -/
def State.siteCell (s : State) : Site → Coord
  | .router c => c
  | .drop st d => dropCell st d
  | .port p => (s.liveGateways p).headD (s.gatewayCell p 0)

/-- The landing buffer of a router or drop. -/
def State.landing (s : State) : Site → Landing
  | .router c => (s.cell c).landing
  | .drop st d => (s.drop st d).landing
  | .port _ => Landing.init

/-- Change the landing buffer of a router or drop. -/
def State.modLanding (s : State) (x : Site) (f : Landing → Landing) : State :=
  match x with
  | .router c => s.modCell c (fun q => { q with landing := f q.landing })
  | .drop st d => s.modDrop st d (fun q => { q with landing := f q.landing })
  | .port _ => s

/-- Count at the LANDING object of a site's cell (R180). -/
def State.bumpLanding (s : State) (x : Site) (sub : Nat) : State := s.bump (cellNode (s.siteCell x)) 0 0x4060 sub 1

/-! ### Packets of the Control class -/

/-- The DEST of a reply to a packet's source (TGT 0). -/
def replyTo (a : SrcAddr) : Addr := ⟨a.eng, a.x, a.y, 0⟩

/-- A header-only packet with a Transfer tail. -/
def ctlPkt (typ : Nat) (tb : Bool) (dest : Addr) (src : SrcAddr) (tag : Nat) (t : TransferTail) : Packet :=
  ⟨typ, 0, 0, 0, tb, false, dest, src, tag, ⟨0, false, 0⟩, 0, .transfer t, [], false⟩

/-- A data packet: the payload is zeroed past its valid bytes and its check computed, unless TB = 1 gives a stored one
(R41). -/
def dataPkt (typ cls : Nat) (tb fin : Bool) (dest : Addr) (src : SrcAddr) (tag : Nat) (t : Tail) (data : List Byte)
    (check : Option Nat) : Packet :=
  let n := cdiv data.length 32
  let pl := padTo (32 * n) data
  ⟨typ, cls, n, 0, tb, fin, dest, src, tag, ⟨0, false, 0⟩, check.getD (crc32c pl), t, pl, false⟩

/-! ### Granting (R163, R164) -/

/-- The lease granted, in µs (R164). -/
def State.leaseFor (s : State) (ask : Nat) : Nat :=
  min (if ask = 0 then s.reg .engine 0 0x2013 1 else ask) (s.reg .engine 0 0x2013 2)

/-- Enter a request at a site (R163). -/
def State.enterQueue (s : State) (x : Site) (q : LReq) : State := s.modLanding x (fun l => { l with queue := l.queue ++ [q] })

/-- A RESERVE decided at ejection (R163, R94): a cell in reset answers NACK UNREACHABLE; a full queue keeps the packet in
its lane. -/
def State.reserveReceive (s : State) (x : Site) (kind : LKind) (p : Packet) (t : TransferTail) : State :=
  let c := s.siteCell x
  let router := match x with | .router _ => true | _ => false
  if router && (s.cell c).inReset then (s.takePkt p).raiseNack c (s.srcOf c 0) p 7 0 0
  else if 256 ≤ (s.landing x).queue.length then s
  else (s.takePkt p).enterQueue x ⟨⟨keySrc p, t.rsv, p.tag⟩, t.size, t.lease, p.dest, kind⟩

/-- Send the GRANT of a reservation (R164): ADDR is the offset of its lowest grain. -/
def State.sendGrant (s : State) (x : Site) (r : LRsv) : State :=
  let c := s.siteCell x
  let g := minimum 15 r.held
  s.sendPkt c (ctlPkt 2 false (replyTo r.key.src) (s.srcOf c 0) r.key.tag
    ⟨2048 * g, r.size, r.key.rsv, 0, r.lease, 0, 0, 0⟩) false

/-- Answer a multicast call (R174, R175). -/
def State.mresAnswer (s : State) (c : Coord) (g : MresGrant) (phase reasons ok fail : Nat) : State :=
  s.sendSig c (.mresArrive ⟨g.mid, phase, reasons, ok, fail, g.source⟩)

/-! ### Landing (R162, R166, R167) -/

/-- Drop a late packet: counted, and NACK LEASE with AUX bit 17 and its OFF to a source that is to be told (R167). -/
def State.latePkt (s : State) (x : Site) (p : Packet) (off : Nat) (nack : Bool) : State :=
  let c := s.siteCell x
  let s := (s.takePkt p).bumpLanding x 6
  if nack then s.raiseNack c (s.srcOf c 0) p 8 0 (2 ^ 17 + off) else s

/-- Is a payload misplaced in its reservation (R162)? -/
def badPlace (r : LRsv) (off size : Nat) : Bool := decide (off % 64 ≠ 0) || decide (r.size < 32 * off + size)

/-- What a router holds for collectives. -/
def State.coll (s : State) (c : Coord) : CollSt := SMap.get CollSt.init s.colls (cellKey c)

/-- Bytes of a segment: Q slices of the input format. -/
def State.segBytes (s : State) (ctx : Nat) : Nat := (s.geo ctx).q * sliceBytes (s.spec ctx).fin

/-- The segment that a landing PUT reservation belongs to, at the cell it lands at (R219): one of this engine by its source's reservation, one
of another engine by where it lands in the output of an armed EXCHANGE context (log 102). -/
def State.segmentOf (s : State) (r : LRsv) (a : Nat) : Option (Nat × Nat × Nat) :=
  let k := r.key
  if k.src.eng = s.engine then
    match (s.srcRsv? (srcCell k.src) k.rsv).filter (fun x => decide (x.tag = k.tag)) with
    | some x => match x.use with
      | .segment ctx epoch dst => some (ctx, epoch, dst)
      | _ => none
    | none => none
  else if k.tag ≠ 0 then none
  else
    (s.armed.find? (fun e => e.2.isSome && decide (s.ctx e.1 2 = 5) && decide (s.levels e.1 ≠ 0) && decide (s.ctx e.1 0x17 ≤ a) &&
      decide (a < s.ctx e.1 0x17 + s.segBytes e.1 * (2 ^ 11 * 2 ^ 11)))).map
      (fun e => (e.1, 0, (a - s.ctx e.1 0x17) / s.segBytes e.1))

/-- Where the segments of an EXCHANGE land at a cell (R245, R268), as far as they leave no bytes between them: the whole output, or the run of
the engine whose members reach offset `a`. -/
def State.exchRange (s : State) (ctx a : Nat) : Nat × Nat :=
  let o := s.ctx ctx 0x17
  let z := s.segBytes ctx
  let n := (s.geo ctx).n
  let stride := bits (s.lvHead ctx) 32 11
  let group := (List.range (s.levels ctx)).foldl (fun m i => m * (s.lvEnt ctx (i + 1)).count) 1
  if s.levels ctx = 0 then (o, o + n * z)
  else if stride ≤ n then (o, o + group * stride * z)
  else
    let b := o + (a - o) / (stride * z) * (stride * z)
    (b, b + n * z)

/-- What the operation that a reservation belongs to lands here (R44): its key, with RSV 64 for a whole command and 65 up for the output of an
EXCHANGE context, and the range of its bytes. Of a PUT from another engine the router sees its reservations, of 16 KiB each but the last, and
the FIN of its last packet: a reservation that is full and shows none goes on beyond its end, and one whose forerunner is known here began
before (log 101). -/
def State.opRange (s : State) (c : Coord) (r : LRsv) (base : Nat) (fin : Bool) : RsvKey × Nat × Nat :=
  let cmd := fun (m : Cmd) (a n : Nat) => (({ r.key with rsv := 64 } : RsvKey), a, a + (if kindOf m.desc = .getGather then dRows m.desc * n else n))
  let whole := (r.key, base, base + r.size)
  match r.kind with
  | .put _ =>
    let d := srcCell r.key.src
    match s.segmentOf r base with
    | some (ctx, epoch, _) =>
      let e := (((s.coll c).exch.find? (fun x => x.ctx == ctx)).map ExSt.epoch).getD epoch
      let w := s.exchRange ctx base
      (⟨⟨s.engine, c.x, c.y, 0, false⟩, 65 + ctx, 256 * (if r.key.src.eng = s.engine then epoch else e)⟩, w.1, w.2)
    | none =>
      if r.key.src.eng ≠ s.engine then
        let same := fun (k : RsvKey) => decide (k.src = r.key.src ∧ k.tag = r.key.tag)
        let ends := fun (x : LRsv) => match x.kind with
          | .put a => same x.key && decide (a + x.size = base)
          | _ => false
        let known := (s.landing (.router c)).rsvs.any ends ||
          (s.cell c).spans.any (fun x => same x.key && decide (x.key.rsv = 64) && decide (x.hi = base))
        ({ r.key with rsv := 64 }, (if known then base - 2048 else base), base + r.size + (if r.size = 16384 ∧ ! fin then 2048 else 0))
      else if (s.srcRsv? d r.key.rsv).any (fun x => x.use == .cmd && x.tag == r.key.tag) then
        match s.cmd? d r.key.tag with
        | some m => cmd m (dRaddr m.desc) (dSize m.desc)
        | none => whole
      else whole
  | .own _ => match s.cmd? c r.key.tag with
    | some m => cmd m (dLaddr m.desc) (dSize m.desc)
    | none => whole
  | .gather _ => match s.cmd? c r.key.tag with
    | some m => cmd m (dLaddr m.desc) (s.reg .engine (dTdesc m.desc) 0x6000 5)
    | none => whole
  | _ => whole

/-- How far landed spans reach without a gap from `a` on. -/
def reach (l : List Span) : Nat → Nat → Nat
  | 0, a => a
  | fuel + 1, a => match l.find? (fun x => decide (x.lo ≤ a ∧ a < x.hi)) with
    | some x => reach l fuel x.hi
    | none => a

/-- Note `n` bytes at `a` that landed from a payload with no block check of its own, and write the check of every block in which all that the
operation delivers has now landed (R44). Spans of an earlier command in the same slot are gone. -/
def State.noteSpan (s : State) (c : Coord) (r : LRsv) (base a n : Nat) (fin : Bool) : State :=
  let w := s.opRange c r base fin
  let old := fun (x : Span) => decide (x.key.src = w.1.src) && decide (x.key.tag % 256 = w.1.tag % 256) && decide (x.key.tag ≠ w.1.tag) &&
    (decide (x.key.rsv = w.1.rsv) || decide (x.key.rsv ≤ 64 ∧ w.1.rsv ≤ 64))
  let s := s.modCell c (fun q => { q with spans := q.spans.filter (fun x => ! old x) ++ [⟨w.1, a, a + n⟩] })
  (blocksOf a n).foldl (fun s b =>
    let mine := (s.cell c).spans.filter (fun x => decide (x.key = w.1))
    if min w.2.2 (b + 2048) ≤ reach mine (mine.length + 1) (max w.2.1 b) then
      (s.recheck c b 1).modCell c (fun q => { q with spans := q.spans.filter (fun x =>
        ! (decide (x.key = w.1) && decide (b ≤ x.lo ∧ x.hi ≤ b + 2048))) })
    else s) s

/-- Write a payload that landed at a cell: bytes, then its block check when TB = 1, else what it completes of its block; its grain is free
(R44, R162). -/
def State.landBytes (s : State) (c : Coord) (r : LRsv) (base off size : Nat) (p : Packet) : State :=
  let a := base + 32 * off
  let s := s.memWrite c a (p.payload.take size)
  let s := if p.tb then s.writeCheck c a p.bcheck else s.noteSpan c r base a size p.fin
  let g := nth r.grains (off / 64) none
  s.modLanding (.router c) (fun l =>
    (l.put { r with st := .filling, written := r.written + size, grains := setAt r.grains (off / 64) none }).release g.toList)

/-- A check failure without poison is counted at the unit that verified it (R43, R361): the router of the cell it stands at. The fault blocks
of drop ports and link ports have no such cause, and where their failures count is left open: here too (log 99). -/
def State.checkFault (s : State) (c : Coord) (p : Packet) : State :=
  if p.poison then s else s.faultEvent (routerBlock c) 4 0 (pktDetail p)

/-! ### The source side (R73, R103, R168 to R170) -/

/-- The member an anycast group resolves to at a router (R73); none when the broadcast names no winner. -/
def State.anyMember (s : State) (c : Coord) (g : Nat) : Option Coord :=
  let w := SMap.get 0 (s.rtr c).wins g
  if w = 1 ∨ s.reg .engine 0 (0x2100 + g) 1 = 0 then none
  else
    let a := addrOf (s.tabNat .engine 0 (0x2100 + g) 2 (4 * (if w = 0 then 0 else w - 2)) 4)
    some ⟨a.x, a.y⟩

/-- Does a command's DEST name nothing that exists: a cell outside the grid, an unfitted stack, an unused anycast group,
a rectangle that leaves the grid, or an engine without a route (R6, R71, R73, R102, R274, R324)? -/
def State.destMissing (s : State) (c : Coord) (d : Nat) : Bool :=
  let a := dDest d
  let k := kindOf d
  if k = .put ∨ k = .get ∨ k = .send ∨ k = .barArrive ∨ k = .int ∨ k = .wake ∨ k = .mcast then
    if a.eng ≠ s.engine then (s.route.exitPort (s.srcOf c 0) a none).isNone
    else if a.tgt = 4 then
      decide (s.reg .engine 0 (0x2100 + a.x % 256) 1 = 0) || (s.anyMember c (a.x % 256)).isNone
    else if k = .mcast then ! s.inGrid ⟨a.x, a.y⟩ || ! s.inGrid ⟨dX1 d, dY1 d⟩
    else if a.tgt = 1 then (s.dropAt ⟨a.x, a.y⟩).isNone
    else ! s.inGrid ⟨a.x, a.y⟩
  else false

/-- Where a command's packets go: its DEST, or the member that its anycast group resolved to (R73). -/
def State.targetFor (s : State) (c : Coord) (m : Cmd) : Addr :=
  let a := dDest m.desc
  if a.tgt = 4 then
    let w := m.member.getD ((s.anyMember c (a.x % 256)).getD ⟨0, 0⟩)
    ⟨s.engine, w.x, w.y, 0⟩
  else a

/-- Bytes, remote address and lease of a transfer command. -/
def transferOf (d : Nat) : Nat × Nat × Nat :=
  if kindOf d = .mcast then (dMSize d, dMRaddr d, dMLease d) else (dSize d, dRaddr d, dLease d)

/-- Reservations of a transfer (R103). -/
def rsvCount (d : Nat) : Nat := cdiv (transferOf d).1 16384

/-- BULK_TIMEOUT in ns (R168). -/
def State.bulkTimeout (s : State) : Nat := us (s.reg .engine 0 0x2013 3)

/-- A new source reservation of a command (R168). -/
def newRsv (m : Cmd) (rsv idx base raddr size lease : Nat) (dest : Addr) (st : SrcSt) (deadline : Nat) : SrcRsv :=
  ⟨.cmd, [], rsv, m.tag, idx, base, raddr, size, lease, dest, st, deadline, 0, 0, 0, 0, 0, 0⟩

/-- Add a source reservation. -/
def State.addRsv (s : State) (c : Coord) (r : SrcRsv) : State := s.modCell c (fun q => { q with rsvs := q.rsvs ++ [r] })

/-- Send a RESERVE for a reservation (R163, R168). -/
def State.sendReserve (s : State) (c : Coord) (core : Nat) (r : SrcRsv) (own : Bool) : State :=
  s.sendPkt c (ctlPkt 1 false r.dest (s.srcOf c core) r.tag ⟨r.raddr, r.size, r.rsv, 0, r.lease, 0, 0, 0⟩) own

/-! ### Acceptance order within a flow (R116) -/

/-- Do two addresses name one router? -/
def sameRouter (a b : Addr) : Bool := decide (a.eng = b.eng ∧ a.x = b.x ∧ a.y = b.y)

/-- Has a transfer command more to reserve? -/
def Cmd.opening (m : Cmd) : Bool := decide (m.next < rsvCount m.desc) && m.fails.isEmpty && decide (m.srcFail = 0)

/-- Is one of a command's reservations in a state in which packets of it are to come? -/
def State.toCome (s : State) (c : Coord) (x : Cmd) (l : List SrcSt) : Bool := (s.cell c).rsvs.any (fun r => r.tag == x.tag && l.contains r.st)

/-- May a command still inject Control packets of the flow to a router: a RESERVE or GET_REQ, or those of rows whose drop is not known yet? -/
def State.controlToCome (s : State) (c : Coord) (d : Addr) (x : Cmd) : Bool :=
  match kindOf x.desc with
  | .put => sameRouter (s.targetFor c x) d && x.opening
  | .get => sameRouter (s.targetFor c x) d && (x.opening || s.toCome c x [.gated] ||
      (s.cell c).landing.queue.any (fun q => decide (q.key.tag = x.tag) && decide (q.key.src = s.srcOf c x.core) && (match q.kind with
        | .own _ => true
        | _ => false)))
  | .putScatter | .getGather => decide (d.eng = s.engine) && (s.dropAt ⟨d.x, d.y⟩).isSome &&
      (! x.started || x.rows.any (fun r => [0, 4, 5].contains r.phase) || s.toCome c x [.reading, .gated])
  | _ => false

/-- May a command still inject Trade packets of the flow to a router? -/
def State.tradeToCome (s : State) (c : Coord) (d : Addr) (x : Cmd) : Bool :=
  decide (dClass x.desc = 3) && sameRouter (s.targetFor c x) d &&
    match kindOf x.desc with
    | .put => x.opening || s.toCome c x [.asked, .gated]
    | .send => ! x.started
    | _ => false

/-- May a command still inject multicast data of the flow to a rectangle? -/
def State.rectToCome (s : State) (c : Coord) (d : Nat) (x : Cmd) : Bool :=
  decide (kindOf x.desc = .mcast) && decide (dDest x.desc = dDest d) && decide (dX1 x.desc = dX1 d) && decide (dY1 x.desc = dY1 d) &&
    (x.opening || s.toCome c x [.call, .gated])

/-- Does an earlier command of the same core have packets of a flow to inject first (R116)? -/
def State.behind (s : State) (c : Coord) (m : Cmd) (f : Cmd → Bool) : Bool :=
  (s.cell c).cmds.any (fun x => x.core == m.core && decide (x.seq < m.seq) && f x)

/-- Must the data of a command wait for that of an earlier one (R116)? -/
def State.dataBehind (s : State) (c : Coord) (m : Cmd) : Bool :=
  match kindOf m.desc with
  | .mcast => s.behind c m (s.rectToCome c m.desc)
  | .put | .send => decide (dClass m.desc = 3) && s.behind c m (s.tradeToCome c (s.targetFor c m))
  | _ => false

/-- Open the next reservation of a PUT, GET or MCAST: one of at most 16 KiB in address order, while a number is free and
the command has not failed (R103, R168, R170, R171, R174), and a RESERVE not before the Control packets of earlier commands to the same
router (R116). False when none could be opened. SELECTIONS counts one packet resolved for each reservation
so opened (R71: DESIGN CHOICE, log 123). -/
def State.openOne (s : State) (c : Coord) (m : Cmd) : Bool × State :=
  let d := m.desc
  let (total, raddr, lease) := transferOf d
  let k := kindOf d
  if rsvCount d ≤ m.next ∨ m.fails ≠ [] ∨ m.srcFail ≠ 0 then (false, s)
  else if (dDest d).tgt = 4 ∧ m.member.isNone ∧ (s.anyMember c ((dDest d).x % 256)).isNone then
    (false, s.modCmd c m.tag (fun x => { x with fails := x.fails ++ [(1, 7)] }))
  else match s.freeRsv? c with
  | none => (false, s)
  | some rsv =>
    let base := 16384 * m.next
    let size := min 16384 (total - base)
    let dest := s.targetFor c m
    let bump := fun (s : State) => (if (dDest d).tgt = 4 then s.bump .engine 0 (0x2100 + (dDest d).x % 256) 5 1 else s).modCmd c m.tag (fun x => { x with
      next := x.next + 1,
      member := if (dDest d).tgt = 4 then some (destCell dest) else x.member })
    if k = .get then
      if 256 ≤ (s.cell c).landing.queue.length then (false, s)
      else
        let r := newRsv m rsv m.next base (raddr + base) size lease dest .own 0
        let s := (bump s).addRsv c r
        (true, s.enterQueue (.router c) ⟨⟨s.srcOf c m.core, rsv, m.tag⟩, size, lease, dest, .own (dLaddr d + base)⟩)
    else if k = .mcast then
      let mid := m.slot % 256 + 256 * m.next
      let r0 := newRsv m rsv m.next base (raddr + base) size lease dest .call (s.time + us (s.reg .engine 0 0x2013 4))
      let r := { r0 with mid := mid }
      let g : MresGrant := ⟨mid, size, lease, s.srcOf c m.core, m.tag, raddr + base, dest.x, dest.y, dX1 d, dY1 d⟩
      (true, ((bump s).addRsv c r).sendSig c (.mresGrant g))
    else if s.behind c m (s.controlToCome c dest) then (false, s)
    else
      let r := newRsv m rsv m.next base (raddr + base) size lease dest .asked (s.time + s.bulkTimeout)
      (true, ((bump s).addRsv c r).sendReserve c m.core r true)

/-- Open as many reservations of a command as can be opened. -/
def State.openAll (s : State) (c : Coord) (tag : Nat) : Nat → State
  | 0 => s
  | fuel + 1 =>
    match s.cmd? c tag with
    | none => s
    | some m =>
      let r := s.openOne c m
      if r.1 then r.2.openAll c tag fuel else r.2

/-- The RELEASE of a source reservation (R169). -/
def State.sendRelease (s : State) (c : Coord) (core : Nat) (r : SrcRsv) : State :=
  s.sendPkt c (ctlPkt 3 false r.dest (s.srcOf c core) r.tag ⟨r.raddr, r.size, r.rsv, 0, 0, 0, 0, 0⟩) true

/-- A command's own data have failed (R42, R119, R170): code 3 a block's check, 5 a read. A reservation that has sent nothing ends here; one
that has ends by DELIVERED, by its lease or by its timer (R169). -/
def State.sourceFail (s : State) (c : Coord) (r : SrcRsv) (code : Nat) (left : Bool) : State :=
  let s := s.faultEvent (routerBlock c) (if code = 5 then 5 else 4) 0 (r.tag % 65536)
  let s := if left then s else s.endSrcRsv c r.rsv
  s.modCmd c r.tag (fun m => { m with srcFail := if m.srcFail = 5 then 5 else code })

/-- Send the data packets of a reservation from packet `k` on (R103): each is verified when TB = 1, its read is issued, and it joins the
router's lane, where its units wait for the read. A failed block ends the sending with no RELEASE (R42, R169). -/
def State.sendData (s : State) (c : Coord) (m : Cmd) (r : SrcRsv) (num : Nat) (mk : Nat → Nat → Bool → List Byte → Option Nat → Packet) :
    Nat → Nat → State
  | 0, _ => s
  | fuel + 1, k =>
    let d := m.desc
    if r.size ≤ 2048 * k then s
    else
      let n := min 2048 (r.size - 2048 * k)
      let a := dLaddr d + r.base + 2048 * k
      if dTb d ∧ s.reg (cellNode c) 0 0x4002 2 = 1 ∧ ! s.blockGood c a then s.sourceFail c r 3 (decide (k ≠ 0))
      else
        let last := decide (r.size ≤ 2048 * (k + 1)) && decide (r.base + r.size = (transferOf d).1)
        let p := mk (64 * k) n last (s.memRead c a n) (if dTb d then some (s.blockCheck c a) else none)
        let s := (s.issueRead c a n (.pkt p.typ p.cls r.tag num (64 * k))).sendPkt c p true
        s.sendData c m r num mk fuel (k + 1)

/-- The packets of a reservation have been injected, or some wait at the path fence or for their bytes: its timer runs from the last
injection (R168). -/
def State.dataSent (s : State) (c : Coord) (rsv : Nat) : State :=
  s.modSrcRsv c rsv (fun r => if r.st = .awaiting ∧ s.rsvHeld c r then { r with st := .sending } else r)

/-- Send the packets of a granted PUT reservation (R103, R168): PUT_DATA with OFF and the valid bytes. -/
def State.sendPut (s : State) (c : Coord) (m : Cmd) (r : SrcRsv) : State :=
  let s := s.modSrcRsv c r.rsv (fun x => { x with st := .awaiting, deadline := s.time + s.bulkTimeout })
  let s := s.sendData c m r r.rsv (fun off n last bs chk => dataPkt 0x10 (dClass m.desc) (dTb m.desc) last r.dest (s.srcOf c m.core) r.tag
    (.transfer ⟨r.raddr + 32 * off, n, r.rsv, 0, 0, off, 0, 0⟩) bs chk) 9 0
  s.dataSent c r.rsv

/-- Send the packets of a multicast reservation (R175): MCAST_DATA on Bulk. -/
def State.sendMcast (s : State) (c : Coord) (m : Cmd) (r : SrcRsv) : State :=
  let s := s.modSrcRsv c r.rsv (fun x => { x with st := .sent, deadline := s.time + s.bulkTimeout })
  s.sendData c m r r.mid (fun off n last bs chk => dataPkt 0x13 1 (dTb m.desc) last r.dest (s.srcOf c m.core) r.tag
    (.rect ⟨dX1 m.desc, dY1 m.desc, r.raddr + 32 * off, r.mid, off, n⟩) bs chk) 9 0

/-- A granted reservation's packets leave, or wait for those of an earlier command of their flow (R116). -/
def State.dataGo (s : State) (c : Coord) (m : Cmd) (r : SrcRsv) : State :=
  if s.dataBehind c m then s.modSrcRsv c r.rsv (fun x => { x with st := .gated })
  else if kindOf m.desc = .mcast then s.sendMcast c m { r with st := .sent }
  else s.sendPut c m r

/-- Final status and detail of a transfer (R131, R170): a failure at the source first, then TIMEOUT when every failure is
one, then the lowest NACK reason. -/
def transferStatus (m : Cmd) : Nat × Nat :=
  if m.srcFail ≠ 0 then (m.srcFail, 0)
  else
    let rs := (m.fails.filter (fun f => f.1 ≠ 9)).map Prod.snd
    if m.fails.isEmpty then (0, 0)
    else if rs.isEmpty then (9, 0)
    else
      let r := minimum 255 rs
      (nackStatus r, r)

/-- Complete a PUT, GET or MCAST all of whose reservations have ended (R114, R170). -/
def State.finishTransfer (s : State) (c : Coord) (tag : Nat) : State :=
  match s.cmd? c tag with
  | none => s
  | some m =>
    let k := kindOf m.desc
    if (k = .put ∨ k = .get ∨ k = .mcast) ∧ m.started ∧ (s.cell c).rsvs.all (fun r => r.tag != tag) ∧
        (rsvCount m.desc ≤ m.next ∨ m.fails ≠ [] ∨ m.srcFail ≠ 0) then
      let st := transferStatus m
      s.complete c m st.1 st.2 m.bytes
    else s

/-- A live reservation at its source fails with a NACK reason (R168): the bytes a reclaim reports are counted. -/
def State.nackRsv (s : State) (c : Coord) (r : SrcRsv) (reason bytes : Nat) : State :=
  let s := s.failRsv c r (nackStatus reason) reason
  s.modCmd c r.tag (fun m => { m with bytes := m.bytes + bytes })

/-- A transfer of the router's own failed: a trace chunk's bytes count in DROPPED, a sweep record in SWEEP_LOST (R428,
R429). -/
def State.routerRsvFailed (s : State) (c : Coord) (r : SrcRsv) : State :=
  let s := s.endSrcRsv c r.rsv
  match r.use with
  | .trace => s.bump (cellNode c) 0 0x9050 7 (bits (leNat (r.data.take 32)) 128 11)
  | .sweep => s.bump (cellNode c) 0 0x9020 0x12 1
  | _ => s

/-- Ask for landing space for a transfer whose source is the router itself, CORE 0, no command (R428, R429, R245): `size` bytes, of which a segment's are read later. -/
def State.routerTransfer (s : State) (c : Coord) (use : SrcUse) (dest : Addr) (raddr base size : Nat) (data : List Byte) :
    Option State :=
  match s.freeRsv? c with
  | none => none
  | some rsv =>
    let r : SrcRsv := ⟨use, data, rsv, 0, 0, base, raddr, size, 0, dest, .asked, s.time + s.bulkTimeout, 0, 0, 0, 0, 0, 0⟩
    some ((s.addRsv c r).sendReserve c 0 r false)

/-- Send the packets of a granted transfer of the router's own: TRACE, or PUT_DATA. -/
def State.sendOwn (s : State) (c : Coord) (r : SrcRsv) : State :=
  let s := s.modSrcRsv c r.rsv (fun x => { x with st := .awaiting, deadline := s.time + s.bulkTimeout })
  let s := (List.range (cdiv r.data.length 2048)).foldl (fun s k =>
    let bs := (r.data.drop (2048 * k)).take 2048
    s.sendPkt c (dataPkt (if r.use = .trace then 0x17 else 0x10) 1 false (decide (r.data.length ≤ 2048 * (k + 1))) r.dest
      (s.srcOf c 0) r.tag (.transfer ⟨r.raddr + 2048 * k, bs.length, r.rsv, 0, 0, 64 * k, 0, 0⟩) bs none) false) s
  s.dataSent c r.rsv

/-- The ADDR of a GET_DATA: the target that its DEST names is the requester's cell, whose offset the replier does not know, and what the
replier sends there is stated nowhere. A cell-memory offset with the bits above zero, its value free (log 96). -/
def State.replyAddr (s : State) : Nat × State :=
  let v := s.fresh
  (v.1 % 2 ^ 18, v.2)

/-- GET_DATA packets of a GET_REQ at a remote cell (R171): each block is verified under SRC_VERIFY when TB = 1, the reads are issued, and the
packets leave on RCLASS; a failed block NACKs the request and ends it. END stands on the last packet of each GET_REQ's replies (log 95). -/
def State.replyGet (s : State) (c : Coord) (p : Packet) (t : TransferTail) : Nat → Nat → State
  | 0, _ => s
  | fuel + 1, k =>
    if t.size ≤ 2048 * k then s
    else
      let n := min 2048 (t.size - 2048 * k)
      let a := t.addr + 2048 * k
      if p.tb ∧ s.reg (cellNode c) 0 0x4002 2 = 1 ∧ ! s.blockGood c a then
        (s.faultEvent (routerBlock c) 4 0 (pktDetail p)).raiseNack c (s.srcOf c 0) p 9 0 0
      else
        let v := s.replyAddr
        let s := v.2
        let q := dataPkt 0x11 t.rclass p.tb (decide (t.size ≤ 2048 * (k + 1))) (replyTo p.src) (s.srcOf c 0) p.tag
          (.transfer ⟨v.1, n, t.rsv, 0, 0, 64 * k, 0, 0⟩) (s.memRead c a n) (if p.tb then some (s.blockCheck c a) else none)
        let s := (s.issueRead c a n (.reply p.src p.tag t.rsv (64 * k))).sendPkt c q false
        s.replyGet c p t fuel (k + 1)

end Sys2Proof.Machine
end

