-- ==== Sys2Proof/Machine/LandOps.lean ====
section
/-! DEFINITION. Landing at a cell (chapter 8): grants (R163 to R165), payloads, leases and releases at the granting router
(R165 to R167), grants and acknowledgements at the source (R168 to R170), replies to a GET (R171), and what a member and
a source of a multicast do (R174 to R177). -/

namespace Sys2Proof.Machine

/-- A packet for a cell in reset is taken off the ring and its source told (R94); none when the cell runs. -/
def State.resetDrop (s : State) (c : Coord) (p : Packet) : Option State :=
  if (s.cell c).inReset then some ((s.takePkt p).raiseNack c (s.srcOf c 0) p 7 0 0) else none

/-! ### Granting -/

/-- GET_REQ packets of its own cell that a router has in flight to one drop are not limited here: the limit of R16 stands
at the drop (R275, R284). A granted GET sends its GET_REQ (R171), after the Control packets of earlier commands to the same router (R116). -/
def State.sendGetReq (s : State) (c : Coord) (k : RsvKey) : State :=
  match s.srcRsv? c k.rsv, s.cmd? c k.tag with
  | some r, some m =>
    if s.behind c m (s.controlToCome c r.dest) then s.modSrcRsv c r.rsv (fun x => { x with st := .gated })
    else
    let s := (s.modSrcRsv c r.rsv (fun x => { x with st := .own })).modCmd c k.tag (fun x => { x with issued := decide (rsvCount m.desc ≤ x.next) })
    s.sendPkt c (ctlPkt 4 (dTb m.desc) r.dest (s.srcOf c m.core) r.tag
      ⟨r.raddr, r.size, r.rsv, dClass m.desc, 0, 0, 0, 0⟩) true
  | _, _ => s

/-- The field whose fabric time the leases of a site run on (R164). -/
def State.siteField (s : State) (x : Site) : Nat := s.fieldOf (s.siteCell x)

/-- Grant the head of a router's or drop's request queue (R163, R164): the lease starts in fabric time, and GRANT, GET_REQ or the answer
of a multicast call leaves. The rows of a granted gather are asked for by its command. -/
def State.grantHead (s : State) (x : Site) : State :=
  match (s.landing x).queue with
  | [] => s
  | q :: _ =>
    let lease := s.leaseFor q.ask
    match (s.landing x).grant (s.ft (s.siteField x) + us lease) lease with
    | none => s
    | some (r, l) =>
      let c := s.siteCell x
      let s := ((s.modLanding x (fun _ => l)).bumpLanding x 4).countEvent c 0x0E 0 0 1
      match r.kind with
      | .own _ => s.sendGetReq c r.key
      | .gather _ => s
      | .mcast _ g => s.mresAnswer c g 0 0 1 0
      | _ => s.sendGrant x r

/-- RESERVATION_GRANT (R165): the head is granted once the free grains cover it. -/
def State.reservationGrant (s : State) (x : Site) : State := if (s.landing x).ready then s.grantHead x else s

/-! ### Payloads -/

/-- What becomes of a payload by its header and its check (R162, R165, R166). -/
inductive LandCase where
  | late
  | dead
  | misplaced
  | failed (r : LRsv)
  | lands (r : LRsv)
  deriving DecidableEq, Repr

/-- The case of a payload of a reservation, decided in the present fc by the fabric time of its site (R166). -/
def State.landCase (s : State) (x : Site) (k : RsvKey) (off size : Nat) (p : Packet) : LandCase :=
  match (s.landing x).find k with
  | none => .late
  | some r =>
    if r.expiry ≤ s.ft (s.siteField x) then .late
    else if r.st = .failed then .dead
    else if badPlace r off size then .misplaced
    else if payloadOk p then .lands r
    else .failed r

/-- A reservation enters FAILED (R165). -/
def State.failLanding (s : State) (x : Site) (r : LRsv) : State := s.modLanding x (fun l => l.put { r with st := .failed })

/-- A PUT_DATA or TRACE payload at a router (R165 to R167). -/
def State.putDataCell (s : State) (c : Coord) (p : Packet) (t : TransferTail) : State :=
  let x := Site.router c
  match s.landCase x ⟨keySrc p, t.rsv, p.tag⟩ t.off t.size p with
  | .late => s.latePkt x p t.off true
  | .dead => s.takePkt p
  | .misplaced => (s.takePkt p).bumpLanding x 9
  | .failed r => (((s.takePkt p).failLanding x r).checkFault c p).raiseNack c (s.srcOf c 0) p (payloadReason p) 0 0
  | .lands r => match r.kind with
    | .put a => (s.takePkt p).landBytes c r a t.off t.size p
    | _ => s.latePkt x p t.off true

/-- DELIVERED for a PUT reservation (R169): [5:0] RSV and [20:6] the bytes written. -/
def State.sendDelivered (s : State) (x : Site) (r : LRsv) : State :=
  let c := s.siteCell x
  s.sendSig c (.delivered ⟨0, r.key.tag, r.key.src, s.srcOf c 0, r.key.rsv + 64 * r.written⟩)

/-- RESERVATION_FILLED at a router (R165, R175): its last byte is in cell memory. -/
def State.filledCell (s : State) (c : Coord) (k : RsvKey) : State :=
  let x := Site.router c
  match (s.landing x).find k with
  | none => s
  | some r =>
    if r.st = .filling ∧ r.size ≤ r.written then
      match r.kind with
      | .put _ => (s.modLanding x (fun l => l.finish k)).sendDelivered x r
      | .mcast _ g => (s.modLanding x (fun l => l.finish k)).mresAnswer c g 1 0 1 0
      | _ => s
    else s

/-- A lease that ends at a router (R165, R167, R171, R175). A reservation whose last byte has been written waits for
RESERVATION_FILLED. The GET or gather it served is answered in `endOwn`. -/
def State.expireCell (s : State) (c : Coord) (k : RsvKey) (endOwn : State → LRsv → State) : State :=
  let x := Site.router c
  match (s.landing x).find k with
  | none => s
  | some r =>
    let s := s.awaitFt (s.siteField x) r.expiry
    if r.st = .filling ∧ r.size ≤ r.written then s
    else
      let s := s.modLanding x (fun l => l.finish k)
      let s := s.ringEvent c 8 0 (k.rsv + 64 * k.tag)
      let s := if r.st = .failed then s else s.bumpLanding x 5
      match r.kind with
      | .put _ =>
        if r.st = .filling then
          (s.sendSig c (.nack ⟨8, k.tag, k.src, s.srcOf c 0, 1, k.rsv, 0, r.written⟩)).countEvent c 9 0 0 1
        else s
      | .mcast _ g => if r.st = .failed then s else s.mresAnswer c g 1 4 0 1
      | _ => endOwn s r

/-- A RELEASE at a granting site (R165). One of a FAILED reservation is ignored and counted in UNMATCHED, as one in FILLING is
(DEDUCED, log 129). -/
def State.releaseAt (s : State) (x : Site) (p : Packet) (t : TransferTail) : State :=
  let k : RsvKey := ⟨keySrc p, t.rsv, p.tag⟩
  let s := s.takePkt p
  let l := s.landing x
  if l.queued k then (s.modLanding x (fun l => l.unqueue k)).bumpLanding x 7
  else match l.find k with
    | some r => if r.st = .granted then (s.modLanding x (fun l => l.finish k)).bumpLanding x 7 else s.bumpLanding x 8
    | none => s.bumpLanding x 8

/-! ### The source (R168 to R170) -/

/-- A RELEASE that carries a GRANT's key (R168). Its ADDR is that of the reservation; where the source no longer holds the reservation no
rule says what stands there, and the value is free (log 96). -/
def State.answerRelease (s : State) (c : Coord) (p : Packet) (t : TransferTail) : State :=
  match (s.srcRsv? c t.rsv).filter (fun r => decide (r.tag = p.tag)) with
  | some r => s.sendPkt c (ctlPkt 3 false r.dest (s.srcOf c 0) p.tag ⟨r.raddr, t.size, t.rsv, 0, 0, 0, 0, 0⟩) false
  | none =>
    let v := s.replyAddr
    v.2.sendPkt c (ctlPkt 3 false (replyTo p.src) (s.srcOf c 0) p.tag ⟨v.1, t.size, t.rsv, 0, 0, 0, 0, 0⟩) false

/-- GRANT at its source (R168, R169): the packets of a reservation in ASKED leave; a late GRANT, or one of a failed
command, is answered with RELEASE. Packets that would pass those of an earlier command of their flow wait (R116). Rows of a scatter go by `rows`, segments of an exchange by `segs`. -/
def State.grantAt (s : State) (c : Coord) (p : Packet) (t : TransferTail) (rows segs : State → SrcRsv → State) : State :=
  let s := s.takePkt p
  match s.srcRsv? c t.rsv with
  | none => (s.answerRelease c p t).bump (cellNode c) 0 0x4060 8 1
  | some r =>
    if r.tag ≠ p.tag ∨ r.st ≠ .asked then (s.answerRelease c p t).bump (cellNode c) 0 0x4060 8 1
    else match r.use with
      | .trace | .sweep => s.sendOwn c r
      | .segment _ _ _ => segs s r
      | .transit _ _ _ => segs s r
      | .cmd =>
        match s.cmd? c r.tag with
        | none => (s.answerRelease c p t).endSrcRsv c r.rsv
        | some m =>
          if kindOf m.desc = .putScatter then rows s r
          else if m.fails ≠ [] ∨ m.srcFail ≠ 0 then (s.answerRelease c p t).endSrcRsv c r.rsv
          else s.dataGo c m r

/-- What the order of R116 no longer holds back goes on: the data of granted reservations, and GET_REQs. -/
def State.resumeGated (s : State) (c : Coord) (tag : Nat) : State :=
  (s.cell c).rsvs.foldl (fun (s : State) r =>
    if r.tag ≠ tag ∨ r.st ≠ .gated then s
    else match s.cmd? c tag with
      | none => s
      | some m => if kindOf m.desc = .get then s.sendGetReq c ⟨s.srcOf c m.core, r.rsv, tag⟩
        else if kindOf m.desc = .putScatter then s
        else s.dataGo c m r) s

/-- DELIVERED for a PUT reservation at its source (R168): its bytes are counted and it ends. -/
def State.deliveredRsv (s : State) (c : Coord) (r : SrcRsv) (d : Delivered) : State :=
  let n := bits d.arg32 6 15
  let s := s.accounted c r.tag (some r.rsv) false
  (s.endSrcRsv c r.rsv).modCmd c r.tag (fun m => { m with bytes := m.bytes + n })

/-- BULK_TIMEOUT of a source reservation (R168, R175). Its packets stay unaccounted for at the path fence (R75). -/
def State.timeoutRsv (s : State) (c : Coord) (r : SrcRsv) : State :=
  let s := { s with time := max s.time r.deadline }
  let s := s.bump (cellNode c) 0 0x4060 0x0A 1
  match r.use with
  | .trace | .sweep => s.routerRsvFailed c r
  | _ => s.failRsv c r 9 0

/-! ### GET (R171) -/

/-- GET_REQ at a remote cell (R171, R94). -/
def State.getReqCell (s : State) (c : Coord) (p : Packet) (t : TransferTail) : State :=
  match s.resetDrop c p with
  | some s => s
  | none => (s.takePkt p).replyGet c p t 9 0

/-- Status and detail of a failed payload (R131). -/
def payloadStatus (p : Packet) : Nat × Nat := (nackStatus (payloadReason p), payloadReason p)

/-- GET_DATA at its requester (R171): landed by R162 and R166; the reservation ends with its last byte, or with the first
payload that fails its check (R42: the requester learns of it here and no NACK leaves). The bytes landed count either way. -/
def State.getDataCell (s : State) (c : Coord) (p : Packet) (t : TransferTail) : State :=
  let x := Site.router c
  let own := (s.srcRsv? c t.rsv).filter (fun r => r.tag == p.tag && r.st == .own)
  match own with
  | none => s.latePkt x p t.off false
  | some r =>
    let k : RsvKey := ⟨s.srcOf c (((s.cmd? c r.tag).map Cmd.core).getD 0), r.rsv, r.tag⟩
    match s.landCase x k t.off t.size p with
    | .late => s.latePkt x p t.off false
    | .dead => s.takePkt p
    | .misplaced => (s.takePkt p).bumpLanding x 9
    | .failed _ =>
      let st := payloadStatus p
      let n := (((s.landing x).find k).map LRsv.written).getD 0
      let s := (((s.takePkt p).checkFault c p).modLanding x (fun l => l.finish k)).failRsv c r st.1 st.2
      s.modCmd c r.tag (fun m => { m with bytes := m.bytes + n })
    | .lands q => match q.kind with
      | .own a =>
        let s := (s.takePkt p).landBytes c q a t.off t.size p
        match (s.landing x).find k with
        | some q' =>
          if q'.size ≤ q'.written then
            let s := s.modLanding x (fun l => l.finish k)
            let s := (s.accounted c r.tag (some r.rsv) false).endSrcRsv c r.rsv
            s.modCmd c r.tag (fun m => { m with bytes := m.bytes + q'.written })
          else s
        | none => s
      | _ => s.latePkt x p t.off false

/-- The lease of a GET's reservation ends (R171): it ends with reason LEASE, and the bytes landed count. -/
def State.expireOwn (s : State) (c : Coord) (q : LRsv) : State :=
  match s.srcRsv? c q.key.rsv with
  | some r => if r.tag = q.key.tag ∧ (r.st = .own ∨ r.st = .gated) then s.nackRsv c r 8 q.written else s
  | none => s

/-! ### Multicast (R174 to R177) -/

/-- Is a member cell able to take a call: not in reset (R94, R174)? -/
def State.mresEnter (s : State) (c : Coord) (g : MresGrant) : State :=
  if (s.cell c).inReset then s.mresAnswer c g 0 2 0 1
  else if 256 ≤ (s.cell c).landing.queue.length then (s.mresAnswer c g 0 16 0 1).bump (cellNode c) 0 0x4060 0x0B 1
  else s.enterQueue (.router c) ⟨⟨g.source, g.mid, g.tag⟩, g.size, g.lease, ⟨s.engine, g.x, g.y, 5⟩, .mcast g.addr g⟩

/-- The live router that the copies of a call leave by answers for the members beyond it that are holes (R174): each as failed, reason HOLE,
in one answer. -/
def State.mresHoles (s : State) (c : Coord) (g : MresGrant) (holes : List Coord) : State :=
  if holes.isEmpty then s else s.mresAnswer c g 0 1 0 holes.length

/-- MRES_GRANT at a member (R174): it enters its queue or answers at once. -/
def State.mresGrantAt (s : State) (c : Coord) (g : MresGrant) : State := s.mresEnter c g

/-- The members of a multicast command. -/
def mcastMembers (d : Nat) : Nat := (dX1 d + 1 - (dDest d).x) * (dY1 d + 1 - (dDest d).y)

/-- NACK codes that a REASONS mask stands for (R175): HOLE, UNREACHABLE, LEASE, CHECK or POISONED, NOSPACE. A mask does not
tell CHECK from POISONED; `check` says that a CHECK was seen. -/
def reasonCodes (mask : Nat) (check : Bool) : List Nat :=
  (if bit mask 0 then [6] else []) ++ (if bit mask 1 then [7] else []) ++ (if bit mask 2 then [8] else []) ++
    (if bit mask 3 then [if check then 9 else 10] else []) ++ (if bit mask 4 then [1] else [])

/-- End a multicast reservation: its failures are recorded by the reasons of both phases (R175). VALUE counts the members that acknowledged:
of a command of several reservations the least count of any (log 98). -/
def State.endMcast (s : State) (c : Coord) (r : SrcRsv) (extra : List (Nat × Nat)) : State :=
  let s := ((s.accounted c r.tag none false).endSrcRsv c r.rsv).dropCopies c 0x13 r.tag r.mid
  let live := ((s.cell c).rsvs.filter (fun x => x.tag == r.tag)).length
  s.modCmd c r.tag (fun m => { m with
    fails := m.fails ++ (reasonCodes (r.reasons % 32) (bit r.reasons 5)).map (fun k => (nackStatus k, k)) ++ extra,
    bytes := if m.next ≤ live + 1 then r.ok else min m.bytes r.ok })

/-- The source of a call learns that a member's failure was a CHECK: no bit of MRES_ARRIVE tells it from POISONED (R174, R175, log 97). -/
def State.noteCheck (s : State) (g : MresGrant) : State :=
  s.modCell (srcCell g.source) (fun q => { q with rsvs := q.rsvs.map (fun r =>
    if r.mid = g.mid ∧ r.tag = g.tag ∧ (r.st = .call ∨ r.st = .gated ∨ r.st = .sent) then { r with reasons := r.reasons ||| 32 } else r) })

/-- MRES_ARRIVE at the source of an MCAST (R175). -/
def State.mresArriveCell (s : State) (a : MresArrive) : State :=
  let c := srcCell a.source
  match (s.cell c).rsvs.find? (fun r => r.mid == a.mid && decide (r.tag % 256 = a.mid % 256) &&
      (if a.phase = 0 then r.st == .call else [SrcSt.call, .gated, .sent].contains r.st)) with
  | none => s
  | some r =>
    match s.cmd? c r.tag with
    | none => s
    | some m =>
      let r := { r with reasons := r.reasons ||| a.reasons }
      if a.phase = 0 then
        let r := { r with ok0 := r.ok0 + a.ok, fail := r.fail + a.fail }
        let s := s.modSrcRsv c r.rsv (fun _ => r)
        if mcastMembers m.desc ≤ r.ok0 + r.fail then
          if r.ok0 ≤ r.got then s.endMcast c r [] else s.dataGo c m r
        else s
      else
        let r := { r with ok := r.ok + a.ok, got := r.got + a.ok + a.fail }
        let s := s.modSrcRsv c r.rsv (fun _ => r)
        if r.st ≠ .call ∧ r.ok0 ≤ r.got then s.endMcast c r [] else s

/-- CALL_LIMIT of an MCAST (R175): the reservation ends with reason LEASE. -/
def State.callLimitCell (s : State) (c : Coord) (mid : Nat) : State :=
  match (s.cell c).rsvs.find? (fun r => r.mid == mid && r.st == .call) with
  | none => s
  | some r => ({ s with time := max s.time r.deadline }).endMcast c r [(1, 8)]

/-- MCAST_DATA or MEM_MCAST at a member (R175, R177): landed in the reservation of (SOURCE, TAG, MID), or dropped late; a
member sends no NACK. -/
def State.mcastDataCell (s : State) (c : Coord) (p : Packet) (t : RectTail) : State :=
  let x := Site.router c
  let k : RsvKey := ⟨keySrc p, t.mid, p.tag⟩
  let late := s.bumpLanding x 6
  match s.landCase x k t.off t.size p with
  | .late => late
  | .dead => s
  | .misplaced => s.bumpLanding x 9
  | .failed r => match r.kind with
    | .mcast _ g =>
      let s := (s.failLanding x r).checkFault c p
      (if p.poison then s else s.noteCheck g).mresAnswer c g 1 8 0 1
    | _ => late
  | .lands r => match r.kind with
    | .mcast a _ => s.landBytes c r a t.off t.size p
    | _ => late

end Sys2Proof.Machine
end

