-- ==== Sys2Proof/Machine/TableOps.lean ====
section
/-! DEFINITION. Tables in stack memory (chapter 12): descriptors (R280, R281), homes (R277, R278), and the source side of gather and
scatter (R105, R283, R288, R289). -/

namespace Sys2Proof.Machine

/-! ### Descriptors and homes (R277 to R281) -/

/-- Descriptor `k` as every router holds it (R280). -/
def State.tbl (s : State) (k : Nat) : Tbl :=
  let g := fun sub => s.reg .engine k 0x6000 sub
  ⟨g 2, g 3, g 4, g 5, g 6, g 7, decide (g 8 = 1), g 9⟩

/-- Is the descriptor loaded (0x6000.02)? -/
def Tbl.loaded (t : Tbl) : Bool := decide (t.stackBits ≠ 0)

/-- The stack positions of a table, rising (R281). -/
def Tbl.list (t : Tbl) : List Nat := (List.range 24).filter (bit t.stackBits)

/-- Stack of row `r`, its local index, and its stack address (R281). -/
def Tbl.place (t : Tbl) (r : Nat) : Nat × Nat × Nat :=
  let n := max 1 t.list.length
  (nth t.list (r % n) 0, r / n, t.base + r / n * t.rowBytes)

/-- The row that a local index of a stack stands for. -/
def Tbl.global (t : Tbl) (st local_ : Nat) : Nat := local_ * t.list.length + ((t.list.findIdx? (· == st)).getD 0)

/-- Is a local row of a stack beyond the table, or the stack no part of it (R281, R285)? -/
def Tbl.beyond (t : Tbl) (st local_ : Nat) : Bool := ! t.list.contains st || decide (t.rows ≤ t.global st local_)

/-- Stack address of a local row. -/
def Tbl.addr (t : Tbl) (local_ : Nat) : Nat := t.base + local_ * t.rowBytes

/-- The live drops of a stack, rising (0x6010.01). -/
def State.liveDrops (s : State) (st : Nat) : List Nat :=
  if s.stackFitted st then (List.range 32).filter (bit (s.reg .engine 0 (0x6010 + st) 1)) else []

/-- The live drops of a stack by the map of the router at `c` (R278): it loses a drop whose cell has become a hole when it applies that ring
change, and a drop fenced alone at once. -/
def State.liveDropsAt (s : State) (c : Coord) (st : Nat) : List Nat :=
  let m := s.ringMap c
  if s.stackFitted st then (List.range 32).filter (fun d =>
    let h := dropCell st d
    ! m.isHole h && (bit (s.reg .engine 0 (0x6010 + st) 1) d || s.holes.any (fun x => x.c == h && x.drop)))
  else []

/-- `home_drop` of R277, over the live drops of the stack. -/
def homeDrop (live : List Nat) (g : Nat) : Option Nat :=
  let d := (List.range 6).foldl (fun d i => d ^^^ (g / 2 ^ (5 * i) % 32)) 0
  if live.contains d then some d
  else if live.isEmpty then none
  else some (nth live (g / 32 % live.length) 0)

/-- The home drop of a table's local row by the map of the router at `c` (R277). -/
def State.rowHome (s : State) (c : Coord) (t : Tbl) (st local_ : Nat) : Option Nat := homeDrop (s.liveDropsAt c st) (t.addr local_ / 64)

/-- The lead drop of a table (R292): drop 0 of the lowest listed stack, or that stack's lowest live drop. -/
def State.leadDrop (s : State) (t : Tbl) : Option (Nat × Nat) :=
  match t.list with
  | [] => none
  | st :: _ => (s.liveDrops st).head?.map (fun d => (st, d))

/-! ### Row commands at their source (R105, R283, R288, R289) -/

/-- Phases of a row: 0 not begun, 1 asked, 2 sent and awaiting, 3 ended; 4 its index entry is being read, 5 its request waits for the packets
of an earlier command (R116). -/
def RowSt.ended (r : RowSt) : Bool := decide (r.phase = 3)

/-- Change row `j` of a command. -/
def State.modRow (s : State) (c : Coord) (tag j : Nat) (f : RowSt → RowSt) : State :=
  s.modCmd c tag (fun m => { m with rows := m.rows.map (fun r => if r.j = j then f r else r) })

/-- A row ends with an outcome (R288). -/
def State.endRow (s : State) (c : Coord) (tag j outcome : Nat) : State :=
  s.modRow c tag j (fun r => if r.phase = 3 then r else { r with phase := 3, outcome := outcome })

/-- Read the index entry of row `j` (R105). -/
def State.readEntry (s : State) (c : Coord) (m : Cmd) (j : Nat) : State :=
  (s.issueRead c (dIdx m.desc + 8 * j) 8 (.row m.tag j)).modRow c m.tag j (fun r => { r with phase := 4 })

/-- What row `j`'s index entry says (R105): an outcome that ends it, or its row number. -/
def State.rowEntry (s : State) (c : Coord) (m : Cmd) (j : Nat) : Except Nat Nat :=
  let w := s.memNat c (dIdx m.desc + 8 * j) 8
  if bits w 36 28 ≠ 0 ∨ (s.tbl (dTdesc m.desc)).rows ≤ bits w 0 36 then .error 0xFE else .ok (bits w 0 36)

/-- The address of a row's home drop by the map of its cell port, or outcome 7 where its stack has no live drop (R277). -/
def State.rowDest (s : State) (c : Coord) (t : Tbl) (row : Nat) : Except Nat Addr :=
  let p := t.place row
  match s.rowHome c t p.1 p.2.1 with
  | some d => let c := dropCell p.1 d; .ok ⟨s.engine, c.x, c.y, 1⟩
  | none => .error 7

/-- A table command that has taken its slot lists its rows (R105). -/
def State.rowsInit (s : State) (c : Coord) (m : Cmd) : State :=
  s.modCmd c m.tag (fun m => { m with started := true, rows := (List.range (dRows m.desc)).map (fun j => ⟨j, 0, 0, 0, 0, 0, 0, 0⟩) })

/-- Begin the next scatter row, in order (R289): it takes its number, and its index entry is read. False when no number is free or no row is
left. -/
def State.scatterOne (s : State) (c : Coord) (m : Cmd) : Bool × State :=
  match m.rows.find? (fun r => r.phase == 0), s.freeRsv? c with
  | some r, some rsv =>
    let n := (s.tbl (dTdesc m.desc)).rowBytes
    let x : SrcRsv := newRsv m rsv r.j (r.j * n) 0 n (dTLease m.desc) (replyTo (s.srcOf c 0)) .reading 0
    (true, (s.addRsv c x).readEntry c m r.j)
  | _, _ => (false, s)

/-- Ask for the space of a scatter row whose index entry has been read, after the Control packets of earlier commands to the same drop
(R116, R289). -/
def State.scatterAsk (s : State) (c : Coord) (m : Cmd) (r : SrcRsv) : State :=
  let td := dTdesc m.desc
  if s.behind c m (s.controlToCome c r.dest) then s.modSrcRsv c r.rsv (fun x => { x with st := .gated })
  else
    let s := s.modSrcRsv c r.rsv (fun x => { x with st := .asked, deadline := s.time + s.bulkTimeout })
    let s := s.modRow c m.tag r.idx (fun y => { y with phase := 1 })
    s.sendPkt c (ctlPkt 1 false r.dest (s.srcOf c m.core) m.tag
      ⟨r.raddr, r.size, r.rsv, 0, dTLease m.desc, td % 512, td / 512, dSop m.desc⟩) true

/-- The index entry of scatter row `j` has been read (R289). -/
def State.scatterRow (s : State) (c : Coord) (m : Cmd) (j : Nat) : State :=
  match (s.cell c).rsvs.find? (fun r => decide (r.tag = m.tag ∧ r.idx = j ∧ r.st = .reading)) with
  | none => s
  | some r =>
    let t := s.tbl (dTdesc m.desc)
    let stop := fun o => (s.endSrcRsv c r.rsv).endRow c m.tag j o
    match s.rowEntry c m j with
    | .error o => stop o
    | .ok row => match s.rowDest c t row with
      | .error o => stop o
      | .ok dest =>
        let p := t.place row
        let r := { r with raddr := p.2.2, dest := dest }
        let s := (s.modSrcRsv c r.rsv (fun _ => r)).modRow c m.tag j (fun y => { y with row := p.2.1, st := p.1, rsv := r.rsv, phase := 5 })
        s.scatterAsk c m r

/-- The rows of a scatter that the order of R116 no longer holds back are asked for. -/
def State.scatterGo (s : State) (c : Coord) (m : Cmd) : State :=
  ((s.cell c).rsvs.filter (fun r => decide (r.tag = m.tag ∧ r.st = .gated))).foldl (fun (s : State) r => s.scatterAsk c m r) s

/-- Open as many scatter rows as can be opened. -/
def State.scatterAll (s : State) (c : Coord) (tag : Nat) : Nat → State
  | 0 => s
  | fuel + 1 =>
    match s.cmd? c tag with
    | none => s
    | some m => let r := s.scatterOne c m; if r.1 then r.2.scatterAll c tag fuel else r.2

/-- A scatter row's GRANT (R289): the row is read, and its SCATTER_DATA joins the lane. -/
def State.scatterGrant (s : State) (c : Coord) (r : SrcRsv) : State :=
  match s.cmd? c r.tag with
  | none => s
  | some m =>
    let t := s.tbl (dTdesc m.desc)
    let a := dLaddr m.desc + r.base
    let s := s.modSrcRsv c r.rsv (fun x => { x with st := .awaiting, deadline := s.time + s.bulkTimeout })
    let row := ((m.rows.find? (fun x => x.j == r.idx)).map RowSt.row).getD 0
    let s := s.modRow c r.tag r.idx (fun r => { r with phase := 2 })
    let s := (s.issueRead c a t.rowBytes (.pkt 0x15 1 r.tag r.rsv 0)).sendPkt c (dataPkt 0x15 1 false true r.dest (s.srcOf c m.core) r.tag
      (.table ⟨dTdesc m.desc, row, dFep m.desc, dSop m.desc, t.fmt, r.rsv, 0⟩) (s.memRead c a t.rowBytes) none) true
    s.dataSent c r.rsv

/-- A scatter row's reservation ends with an outcome. -/
def State.scatterEnd (s : State) (c : Coord) (r : SrcRsv) (outcome : Nat) : State :=
  ((s.accounted c r.tag (some r.rsv) false).endSrcRsv c r.rsv).endRow c r.tag r.idx outcome

/-- Rows of one gather reservation (R283). -/
def gatherGroup (t : Tbl) : Nat := max 1 (16384 / max 1 t.rowBytes)

/-- The key of a gather reservation in its own router. -/
def State.gatherKey (s : State) (c : Coord) (m : Cmd) (rsv : Nat) : RsvKey := ⟨s.srcOf c m.core, rsv, m.tag⟩

/-- Reserve landing space in the own router for the next group of a gather (R283). -/
def State.gatherOne (s : State) (c : Coord) (m : Cmd) : Bool × State :=
  let t := s.tbl (dTdesc m.desc)
  let k := gatherGroup t
  let j0 := k * m.next
  if dRows m.desc ≤ j0 then (false, s)
  else match s.freeRsv? c with
    | none => (false, s)
    | some rsv =>
      if 256 ≤ (s.cell c).landing.queue.length then (false, s)
      else
        let n := min k (dRows m.desc - j0)
        let base := j0 * t.rowBytes
        let x : SrcRsv := newRsv m rsv m.next base 0 (n * t.rowBytes) (dTLease m.desc) (replyTo (s.srcOf c 0)) .own 0
        let s := (s.addRsv c x).modCmd c m.tag (fun m => { m with
          next := m.next + 1,
          rows := m.rows.map (fun r => if j0 ≤ r.j ∧ r.j < j0 + n then { r with rsv := rsv, off := (r.j - j0) * t.rowBytes / 32 } else r) })
        (true, s.enterQueue (.router c) ⟨s.gatherKey c m rsv, n * t.rowBytes, dTLease m.desc, replyTo (s.srcOf c 0),
          .gather (dLaddr m.desc + base)⟩)

/-- Reserve for as many groups as can be reserved for. -/
def State.gatherAll (s : State) (c : Coord) (tag : Nat) : Nat → State
  | 0 => s
  | fuel + 1 =>
    match s.cmd? c tag with
    | none => s
    | some m => let r := s.gatherOne c m; if r.1 then r.2.gatherAll c tag fuel else r.2

/-- The rows of a gather reservation. -/
def Cmd.group (m : Cmd) (t : Tbl) (idx : Nat) : List RowSt := m.rows.filter (fun r => decide (r.j / gatherGroup t = idx))

/-- End a gather reservation all of whose rows have ended (R283): its grains are free. -/
def State.gatherSettle (s : State) (c : Coord) (tag rsv : Nat) : State :=
  match s.cmd? c tag, s.srcRsv? c rsv with
  | some m, some r =>
    let k := s.gatherKey c m rsv
    if r.tag ≠ tag ∨ ! (m.group (s.tbl (dTdesc m.desc)) r.idx).all RowSt.ended then s
    else ((s.modLanding (.router c) (fun l => l.finish k)).accounted c tag (some rsv) false).endSrcRsv c rsv
  | _, _ => s

/-- Read the index entries of the rows of a granted gather reservation (R283). -/
def State.gatherAsk (s : State) (c : Coord) (m : Cmd) (r : SrcRsv) : State :=
  (m.group (s.tbl (dTdesc m.desc)) r.idx).foldl (fun (s : State) row => if row.phase = 0 then s.readEntry c m row.j else s) s

/-- Ask for a row of a gather whose index entry has been read (R283): one GATHER_REQ, after the Control packets of earlier commands to the
same drop (R116). -/
def State.gatherRow (s : State) (c : Coord) (m : Cmd) (j : Nat) : State :=
  let t := s.tbl (dTdesc m.desc)
  match m.rows.find? (fun r => r.j == j) with
  | none => s
  | some row =>
    let stop := fun o => (s.endRow c m.tag j o).gatherSettle c m.tag row.rsv
    match s.rowEntry c m j with
    | .error o => stop o
    | .ok n => match s.rowDest c t n with
      | .error o => stop o
      | .ok dest =>
        if s.behind c m (s.controlToCome c dest) then s.modRow c m.tag j (fun x => { x with phase := 5 })
        else
          let p := t.place n
          let s := s.modRow c m.tag j (fun x => { x with row := p.2.1, st := p.1, phase := 2 })
          s.sendPkt c ⟨0x05, 0, 0, 0, false, false, dest, s.srcOf c m.core, m.tag, ⟨0, false, 0⟩, 0,
            .table ⟨dTdesc m.desc, p.2.1, 0, 0, t.fmt, row.rsv, row.off⟩, [], false⟩ true

/-- Go on with every gather reservation of a cell that has been granted: the entries of its rows are read, and the rows that the order of
R116 held back are asked for. -/
def State.gatherGo (s : State) (c : Coord) : State :=
  (s.cell c).rsvs.foldl (fun (s : State) r =>
    match s.cmd? c r.tag with
    | some m =>
      if kindOf m.desc = .getGather ∧ r.use = .cmd ∧ ((s.cell c).landing.find (s.gatherKey c m r.rsv)).isSome then
        let s := s.gatherAsk c m r
        ((m.group (s.tbl (dTdesc m.desc)) r.idx).filter (fun x => x.phase == 5)).foldl (fun (s : State) x => s.gatherRow c m x.j) s
      else s
    | none => s) s

/-- GATHER_DATA at its requester (R162, R283): the row lands at its OFF, or ends by its check (R42, R43). A grain is free once every row in
it has been written or has ended (R162). -/
def State.gatherData (s : State) (c : Coord) (p : Packet) (t : TableTail) : State :=
  let x := Site.router c
  let late := s.latePkt x p t.off false
  match s.cmd? c p.tag, s.srcRsv? c t.rsv with
  | some m, some r =>
    let tb := s.tbl (dTdesc m.desc)
    let B := tb.rowBytes
    if r.tag ≠ p.tag ∨ kindOf m.desc ≠ .getGather then late
    else match (s.cell c).landing.find (s.gatherKey c m r.rsv) with
      | none => late
      | some q =>
        let row := m.rows.find? (fun y => y.rsv == r.rsv && y.off == t.off && decide (y.j / gatherGroup tb = r.idx))
        if q.expiry ≤ s.ft (s.fieldOf c) then late
        else if t.off % (B / 32) ≠ 0 ∨ q.size < 32 * t.off + B then (s.takePkt p).bumpLanding x 9
        else match row with
          | none => (s.takePkt p).bumpLanding x 9
          | some y =>
            let s := s.takePkt p
            if y.phase = 3 then s
            else if ! payloadOk p then ((s.checkFault c p).endRow c m.tag y.j (payloadReason p)).gatherSettle c m.tag r.rsv
            else
              let base := match q.kind with
                | .gather a => a
                | _ => 0
              let a := base + 32 * t.off
              let s := (s.memWrite c a (p.payload.take B)).noteSpan c q base a B true
              let g := t.off / 64
              let whole := (m.group tb r.idx).all (fun z => decide (z.off / 64 ≠ g) || z.ended || decide (z.j = y.j))
              let free := if whole then nth q.grains g none else none
              let gs := if whole then setAt q.grains g none else q.grains
              let s := s.modLanding x (fun l => (l.put { q with st := .filling, written := q.written + B, grains := gs }).release free.toList)
              (s.endRow c m.tag y.j 0).gatherSettle c m.tag r.rsv
  | _, _ => late

/-- The lease of a gather's reservation ends (R171, R283): its rows that have not landed end with LEASE. -/
def State.expireGather (s : State) (c : Coord) (q : LRsv) : State :=
  match s.cmd? c q.key.tag, s.srcRsv? c q.key.rsv with
  | some m, some r =>
    let rows := (m.group (s.tbl (dTdesc m.desc)) r.idx).filter (fun y => ! y.ended)
    (rows.foldl (fun (s : State) y => s.endRow c m.tag y.j 8) s).gatherSettle c m.tag r.rsv
  | _, _ => s

/-- A NACK of a GATHER_REQ or GATHER_DATA ends the row that its RSV and OFF name (R131, R283). -/
def State.gatherNack (s : State) (c : Coord) (m : Cmd) (n : Nack) : State :=
  match m.rows.find? (fun y => decide (y.phase = 2) && y.rsv == n.chan && decide (y.off = n.var % 512)) with
  | some y => (s.endRow c m.tag y.j n.reason).gatherSettle c m.tag y.rsv
  | none => s

/-- Status and detail of a table command (R170, R288). -/
def rowsStatus (m : Cmd) : Nat × Nat :=
  let bad := (m.rows.map RowSt.outcome).filter (· ≠ 0)
  let nacks := bad.filter (fun o => decide (o < 0xFD))
  if m.srcFail = 5 then (5, 0)
  else if bad.isEmpty then (0, 0)
  else if ! nacks.isEmpty then (nackStatus (minimum 255 nacks), minimum 255 nacks)
  else if bad.contains 0xFD then (2, 1)
  else if bad.contains 0xFE then (2, 4)
  else (9, 0)

/-- Complete a table command whose rows have all ended (R288): the outcomes are written into the index list first. -/
def State.finishRows (s : State) (c : Coord) (tag : Nat) : State :=
  match s.cmd? c tag with
  | none => s
  | some m =>
    if ! (kindOf m.desc = .putScatter ∨ kindOf m.desc = .getGather) ∨ ! m.started ∨ ! m.rows.all RowSt.ended ∨
        (s.cell c).rsvs.any (fun r => r.tag == tag) then s
    else
      let s := m.rows.foldl (fun (s : State) r => s.memWrite c (dIdx m.desc + 8 * r.j + 7) [BitVec.ofNat 8 r.outcome]) s
      let st := rowsStatus m
      s.complete c m st.1 st.2 (m.rows.filter (fun r => r.outcome == 0)).length

end Sys2Proof.Machine
end

