-- ==== Sys2Proof/Machine/DropOps.lean ====
section
/-! DEFINITION. The drop port (chapter 12): base-die transactions (R275, R276, R451), plain transfers (R279), gather (R284 to R287),
scatter (R289 to R291), flushes (R292 to R294), streams (R295), and the fence of a drop (R297). -/

namespace Sys2Proof.Machine

/-- The node of a drop. -/
def dropNode (st d : Nat) : Node := cellNode (dropCell st d)

/-- The fault block of a drop. -/
def dropBlock (st d : Nat) : FaultBlock := ⟨dropNode st d, 0x8120, dropCell st d⟩

/-- Count at DROP_PORT of a drop. -/
def State.bumpDrop (s : State) (st d sub k : Nat) : State := s.bump (dropNode st d) 0 0x6040 sub k

/-- Count at STACK_STATE of a stack. -/
def State.bumpStack (s : State) (st sub k : Nat) : State := s.bump .engine 0 (0x6010 + st) sub k

/-- Is a drop live (0x6010.01)? -/
def State.dropLive (s : State) (st d : Nat) : Bool := (s.liveDrops st).contains d

/-! ### Transactions (R275, R276) -/

/-- Count the fc in which requests have waited for a tag, up to now (0x6040.02), which a read of the count does too. -/
def State.countTagWaits (s : State) (st d : Nat) : State :=
  let q := s.drop st d
  let f := s.fieldOf (dropCell st d)
  let s := if q.todo.isEmpty then s else s.bumpDrop st d 2 (s.fcAt f s.time - s.fcAt f q.waitAt)
  s.modDrop st d (fun q => { q with waitAt := s.time })

/-- Issue the transactions that wait, while tags are free: the lowest free tag each (R275). -/
def issueTxns (now : Nat) : Nat → DropSt → DropSt
  | 0, q => q
  | fuel + 1, q =>
    match q.todo with
    | [] => q
    | t :: rest =>
      if 256 ≤ q.txns.length then q
      else
        let tag := lowestFree (q.txns.map Txn.tag) 256 0
        let locks := if t.code = 3 then q.locks ++ [t.gran] else q.locks
        issueTxns now fuel { q with todo := rest, txns := q.txns ++ [{ t with tag := tag, at_ := now }], locks := locks }

/-- Hand transactions to the drop interface; those beyond the 256 tags wait. -/
def State.issue (s : State) (st d : Nat) (ts : List Txn) : State :=
  let s := s.countTagWaits st d
  s.modDrop st d (fun q => issueTxns s.time (q.todo.length + ts.length) { q with todo := q.todo ++ ts })

/-- A read or locked read of a granule. -/
def readTxn (code gran i : Nat) (use : TxnUse) : Txn := ⟨code, gran, [], [], use, i, 0, 0, false⟩

/-- The granules of `n` bytes from stack address `a`, as transactions of a read. -/
def readTxns (code a n : Nat) (use : TxnUse) : List Txn :=
  let gs := granules a n
  (List.range gs.length).map (fun i => readTxn code (nth gs i 0) i use)

/-- Granule writes of bytes at stack address `a`, with byte masks (R275). -/
def writeTxns (code a : Nat) (bs : List Byte) (i : Nat) (use : TxnUse) : List Txn :=
  (granules a bs.length).map (fun g =>
    let at_ := fun k => decide (a ≤ 64 * g + k) && decide (64 * g + k < a + bs.length)
    ⟨code, g, (List.range 64).map (fun k => if at_ k then bs.getD (64 * g + k - a) 0 else 0), (List.range 64).map at_, use, i, 0, 0, false⟩)

/-- Is any transaction of a use still to be answered? One past its timeout has been handled as a read error (R276). -/
def DropSt.busyWith (q : DropSt) (f : Txn → Bool) : Bool := q.todo.any f || q.txns.any (fun t => ! t.late && f t)

/-! ### GET_REQ (R279) -/

/-- Send the GET_DATA packets of a GET whose granules are all here (R279, R171). -/
def State.dropGetSend (s : State) (st d : Nat) (g : DropGet) : State :=
  let c := dropCell st d
  match g.pkt.tail with
  | .transfer t =>
    let n := cdiv t.size 2048
    let g0 := t.addr / 64
    let ready := fun k =>
      ! g.sent.contains k && (granules (t.addr + 2048 * k) (min 2048 (t.size - 2048 * k))).all (fun x => (nth g.got (x - g0) none).isSome)
    let ks := (List.range n).filter ready
    let all := g.got.flatMap (fun x => x.getD (zeros 64))
    let s := ks.foldl (fun (s : State) k =>
      let len := min 2048 (t.size - 2048 * k)
      let a := t.addr + 2048 * k
      let v := s.replyAddr
      v.2.sendPkt c (dataPkt 0x11 t.rclass false (decide (t.size ≤ 2048 * (k + 1))) (replyTo g.pkt.src) (s.srcOf c 0) g.pkt.tag
        (.transfer ⟨v.1, len, t.rsv, 0, 0, 64 * k, 0, 0⟩) ((all.drop (a - 64 * g0)).take len) none) false) s
    let g := { g with sent := g.sent ++ ks }
    s.modDrop st d (fun q => { q with gets :=
      if n ≤ g.sent.length then q.gets.filter (fun x => x.id != g.id) else q.gets.map (fun x => if x.id = g.id then g else x) })
  | _ => s

/-- A GET_REQ at a drop (R279, R284): the queue entry is taken and the granules are read; a full queue keeps it in its lane. -/
def State.dropGetReq (s : State) (st d : Nat) (p : Packet) (t : TransferTail) : State :=
  let c := dropCell st d
  if ! s.dropLive st d then (s.takePkt p).raiseNack c (s.srcOf c 0) p 7 0 0
  else if 1024 ≤ (s.drop st d).queueUsed then s
  else
    let id := (s.drop st d).next
    let n := (granules t.addr t.size).length
    let s := (s.takePkt p).modDrop st d (fun q => { q with next := id + 1, gets := q.gets ++ [⟨id, p, List.replicate n none, []⟩] })
    s.issue st d (readTxns 1 t.addr t.size (.get id))

/-! ### Plain PUT and scatter reservations (R279, R289) -/

/-- Accumulator bytes of an element, element bytes, and elements of a row (R290). -/
def tblElems (t : Tbl) : Nat := t.rowBytes * 8 / fmtBits t.fmt

/-- Does TBL_SCATTER allow an operation (R282)? -/
def Tbl.allows (t : Tbl) (sop : Nat) : Bool := decide (t.fmt ≠ 0x1F) && decide (sop ≤ 1) && bit t.scatter sop

/-- Is an accumulator of a format 64 bits wide (R280)? -/
def wideAcc (fmt : Nat) : Bool := decide (fmt ≤ 2) || decide (fmt = 0x0A)

/-- 256-byte blocks that an entry takes (R289, R290): none where the operation is not allowed. -/
def accBlocks (t : Tbl) (sop : Nat) : Nat :=
  if ! t.allows sop then 0
  else
    let n := tblElems t
    let w := if sop = 0 then (if wideAcc t.fmt then 8 else 4) else if isIntFmt t.fmt then fmtBits t.fmt / 8 else 4
    cdiv (n * w + cdiv n 4 + 16) 256

/-- Blocks of a drop's accumulation area that are held or reserved, of 512. -/
def State.accUsed (s : State) (st d : Nat) : Nat :=
  let q := s.drop st d
  q.acc.foldl (fun n e => n + e.blocks) 0 + q.flushes.foldl (fun n f => n + (f.cur.map AccEnt.blocks).getD 0) 0 +
    q.landing.rsvs.foldl (fun n r => n + (match r.kind with
      | .scatter _ td sop => if r.st = .granted then accBlocks (s.tbl td) sop else 0
      | _ => 0)) 0

/-- What a RESERVE at a drop is for. A RESERVE of a scatter row of descriptor 0 with SOP 0 looks like a plain one (R29): it is taken
for a row where descriptor 0 allows ADD and the RESERVE has the size and place of one of its rows (log 44). -/
def State.dropKind (s : State) (st : Nat) (t : TransferTail) : LKind :=
  let td := t.off + 512 * t.tdx
  let tb := s.tbl td
  let named := decide (td ≠ 0) || decide (t.sopx ≠ 0)
  let row0 := tb.loaded && tb.allows 0 && decide (t.size = tb.rowBytes) && decide (tb.base ≤ t.addr) &&
    decide ((t.addr - tb.base) % max 1 tb.rowBytes = 0) && ! tb.beyond st ((t.addr - tb.base) / max 1 tb.rowBytes)
  if named || row0 then .scatter t.addr td t.sopx else .put t.addr

/-- RESERVE at a drop (R279, R285, R289). -/
def State.dropReserve (s : State) (st d : Nat) (p : Packet) (t : TransferTail) : State :=
  let c := dropCell st d
  let k := s.dropKind st t
  let bad : Bool := match k with
    | .scatter a td _ =>
      let tb := s.tbl td
      ! tb.loaded || decide (a < tb.base) || tb.beyond st ((a - tb.base) / max 1 tb.rowBytes)
    | _ => false
  if (! s.dropLive st d) || bad then (s.takePkt p).raiseNack c (s.srcOf c 0) p 7 0 0
  else
    -- served where it is, though the row's home is elsewhere (R297)
    let astray : Bool := match k with
      | .scatter a td _ => s.rowHome c (s.tbl td) st ((a - (s.tbl td).base) / max 1 (s.tbl td).rowBytes) != some d
      | _ => false
    let n := (s.landing (.drop st d)).queue.length
    let t' := s.reserveReceive (.drop st d) k p t
    if astray ∧ n < 256 then t'.bumpDrop st d 8 1 else t'

/-- RESERVATION_GRANT at a drop: for a scatter row its accumulation blocks must be free too (R289). -/
def State.dropGrant (s : State) (st d : Nat) : State :=
  match (s.drop st d).landing.queue with
  | [] => s
  | q :: _ =>
    let room := match q.kind with
      | .scatter _ td sop => decide (s.accUsed st d + accBlocks (s.tbl td) sop ≤ 512)
      | _ => true
    if room && (s.landing (.drop st d)).ready then
      -- a flush waits for the reservations granted before it: not for one granted now, whatever its key (R291)
      (s.grantHead (.drop st d)).modDrop st d (fun x => { x with
        flushes := x.flushes.map (fun f => { f with wait := f.wait.filter (fun k => ! sameKey k q.key) }) })
    else s

/-- PUT_DATA at a drop (R162, R166, R279): its bytes leave by WR. -/
def State.dropPutData (s : State) (st d : Nat) (p : Packet) (t : TransferTail) : State :=
  let x := Site.drop st d
  let c := dropCell st d
  if ! s.dropLive st d then (s.takePkt p).raiseNack c (s.srcOf c 0) p 7 0 0
  else match s.landCase x ⟨keySrc p, t.rsv, p.tag⟩ t.off t.size p with
  | .late => s.latePkt x p t.off true
  | .dead => s.takePkt p
  | .misplaced => (s.takePkt p).bumpLanding x 9
  | .failed r => (((s.takePkt p).failLanding x r).checkFault c p).raiseNack c (s.srcOf c 0) p (payloadReason p) 0 0
  | .lands r =>
    let base := match r.kind with
      | .put a => a
      | .scatter a _ _ => a
      | _ => 0
    let s := (s.takePkt p).modLanding x (fun l => l.put { r with st := .filling, written := r.written + t.size })
    s.issue st d (writeTxns 2 (base + 32 * t.off) (p.payload.take t.size) (t.off / 64) (.put r.key))

/-- Is a WR of a reservation still to be answered? -/
def State.putBusy (s : State) (st d : Nat) (k : RsvKey) : Bool :=
  (s.drop st d).busyWith (fun t => match t.use with
    | .put key => sameKey key k
    | _ => false)

/-- RESERVATION_FILLED at a drop (R279): every byte has come and every WACK has returned. -/
def State.dropFilled (s : State) (st d : Nat) (k : RsvKey) : State :=
  let x := Site.drop st d
  match (s.landing x).find k with
  | none => s
  | some r =>
    if r.st = .filling ∧ r.size ≤ r.written ∧ ! s.putBusy st d k then (s.modLanding x (fun l => l.finish k)).sendDelivered x r else s

/-- LANDING_LEASE_EXPIRY at a drop (R165, R167, R279, R289). It waits until the payloads that have landed are written (R166): what a NACK
LEASE reports has been acknowledged by the base die. -/
def State.dropExpire (s : State) (st d : Nat) (k : RsvKey) : State :=
  let x := Site.drop st d
  let c := dropCell st d
  match (s.landing x).find k with
  | none => s
  | some r =>
    let s := s.awaitFt (s.siteField x) r.expiry
    if r.st = .filling ∧ (r.size ≤ r.written ∨ s.putBusy st d k) then s
    else
      let s := s.modLanding x (fun l => l.finish k)
      let s := s.ringEvent c 8 0 (k.rsv + 64 * k.tag)
      let s := if r.st = .failed then s else s.bumpLanding x 5
      if r.st = .filling then (s.sendSig c (.nack ⟨8, k.tag, k.src, s.srcOf c 0, 1, k.rsv, 0, r.written⟩)).countEvent c 9 0 0 1
      else s

/-! ### Gather (R284 to R287) -/

/-- Is a row's entry of a closing epoch waiting for write-back at a drop (R294)? -/
def State.rowWaits12 (s : State) (st d tdesc row : Nat) : Bool :=
  let q := s.drop st d
  match q.flushes.find? (fun f => f.tdesc == tdesc) with
  | some f => q.acc.any (fun e => e.tdesc == tdesc && e.row == row && e.epoch == f.epoch) ||
      (match f.cur with
       | some e => e.row == row
       | none => false)
  | none => false

/-- Coalescer entries taken at a stack (R285). -/
def State.poolUsed (s : State) (st : Nat) : Nat :=
  (List.range 32).foldl (fun n d => n + ((s.drop st d).ents.filter Coal.pooled).length) 0

/-- Start the read of an entry's row: from the hot-row cache, or by RD (R285, R286). -/
def State.coalRead (s : State) (st d : Nat) (e : Coal) : State :=
  let t := e.arm
  let hit := (s.drop st d).cache.find? (fun r => r.tdesc == e.tdesc && r.row == e.row)
  match hit with
  | some r =>
    (s.bumpStack st 5 1).modDrop st d (fun q => { q with
      cache := q.cache.filter (fun x => ! (x.tdesc == e.tdesc && x.row == e.row)) ++ [r],
      ents := q.ents.map (fun x => if x.id = e.id then
        { x with held := false, got := (List.range (t.rowBytes / 64)).map (fun i => some ((r.data.drop (64 * i)).take 64)) } else x) })
  | none =>
    let s := if t.cache then s.bumpStack st 6 1 else s
    let s := s.modDrop st d (fun q => { q with ents := q.ents.map (fun x => if x.id = e.id then { x with held := false } else x) })
    s.issue st d (readTxns 1 (t.addr e.row) t.rowBytes (.row e.id))

/-- GATHER_REQ_RECEIVE (R284, R285, R294). -/
def State.gatherReq (s : State) (st d : Nat) (p : Packet) : State :=
  let c := dropCell st d
  match p.tail with
  | .table t =>
    let tb := s.tbl t.tdesc
    if p.typ ≠ 5 then s
    else if ! s.dropLive st d ∨ ! tb.loaded ∨ tb.beyond st t.row then (s.takePkt p).raiseNack c (s.srcOf c 0) p 7 0 0
    else if 1024 ≤ (s.drop st d).queueUsed then s
    else
      let s := (s.takePkt p).bump (dropNode st d) t.tdesc 0x6000 0x10 1
      let home := decide (s.rowHome c tb st t.row = some d)
      let held := s.rowWaits12 st d t.tdesc t.row
      let hit := if home then (s.drop st d).ents.find? (fun e =>
        e.tdesc == t.tdesc && e.row == t.row && e.pooled && ! e.shut && ! e.stale && (e.held || ! held)) else none
      match hit with
      | some e =>
        (s.bumpStack st 3 1).modDrop st d (fun q => { q with
          ents := q.ents.map (fun x => if x.id = e.id then { x with joined := x.joined ++ [p] } else x) })
      | none =>
        let pooled := home && decide (s.poolUsed st < 2048)
        let s := if ! home then s.bumpDrop st d 8 1 else if pooled then s else s.bumpStack st 4 1
        let id := (s.drop st d).next
        let e : Coal := ⟨id, t.tdesc, tb, t.row, List.replicate (tb.rowBytes / 64) none, false, s.time, [p], pooled, ! pooled, held, false⟩
        let s := s.modDrop st d (fun q => { q with next := id + 1, ents := q.ents ++ [e] })
        if held then s else s.coalRead st d e
  | _ => s

/-- Keep a row in the hot-row cache of 128 KiB, the least recently gathered rows giving way (R286). -/
def State.cacheRow (s : State) (st d tdesc row : Nat) (data : List Byte) : State :=
  s.modDrop st d (fun q =>
    let l := q.cache.filter (fun x => ! (x.tdesc == tdesc && x.row == row)) ++ [(⟨tdesc, row, data⟩ : CacheRow)]
    let keep := (l.reverse.foldl (fun (acc : List CacheRow × Nat) r =>
      let n := acc.2 + r.data.length
      if n ≤ 131072 then (r :: acc.1, n) else (acc.1, 131073)) ([], 0)).1
    { q with cache := keep })

/-- Is an entry's row ready, or its read in error with every answer back? -/
def Coal.ready (e : Coal) : Bool := e.err || (! e.held && e.got.all Option.isSome)

/-- Reply to the requesters of an entry, in the order in which they joined (R287). Its row enters the cache unless the row has been written
back, or a flush of the table has ended, since (R286). -/
def State.coalReply (s : State) (st d : Nat) (e : Coal) : State :=
  let c := dropCell st d
  let t := e.arm
  let data := e.got.flatMap (fun x => x.getD (zeros 64))
  let inj := s.memInject (dropBlock st d) 3 2 ((e.joined.head?.map pktDetail).getD 0)
  let s := inj.2
  let s := if e.err then e.joined.foldl (fun (s : State) p => s.raiseNack c (s.srcOf c 0) p 0x0A 0 0) s
    else e.joined.foldl (fun (s : State) p => match p.tail with
      | .table q =>
        let r := dataPkt 0x14 1 false true (replyTo p.src) (s.srcOf c 0) p.tag (.table ⟨e.tdesc, e.row, 0, 0, t.fmt, q.rsv, q.off⟩) data none
        s.sendPkt c { r with poison := inj.1 } false
      | _ => s) s
  let s := if ! e.err ∧ ! inj.1 ∧ ! e.stale ∧ t.cache ∧ s.rowHome c t st e.row = some d then s.cacheRow st d e.tdesc e.row data else s
  s.modDrop st d (fun q => { q with ents := q.ents.filter (fun x => x.id != e.id) })

/-- COALESCER_REPLY (R285, R287): a ready entry of the row replies once its window has elapsed. -/
def State.coalescerReply (s : State) (st tdesc row : Nat) : State :=
  let found := (List.range 32).findSome? (fun d => ((s.drop st d).ents.find? (fun e =>
    e.tdesc == tdesc && e.row == row && e.ready)).map (fun e => (d, e)))
  match found with
  | none => s
  | some (d, e) =>
    let s := if e.pooled ∧ ! e.err then { s with time := max s.time (e.opened + e.arm.window) } else s
    s.coalReply st d e

/-! ### Scatter (R290, R291) -/

/-- The arithmetic of a table's operation (R280, R290): 0 SUM on the declared anchor, 1 MAX. -/
def tblSpec (t : Tbl) (sop : Nat) : Spec :=
  { op := sop, mode := if sop = 0 then 1 else 2, fin := t.fmt, fout := t.fmt, acc := if wideAcc t.fmt then 0x10 else 0x11, carrier := 0,
    window := windowOf t.fmt (bits t.scatter 2 6), rtz := bit t.scatter 16, sat := bit t.scatter 17, decl := bits t.scatter 8 8, table := false }

/-- A row's contribution, block by block (R190, R200, R201). -/
def rowBlks (t : Tbl) (sop : Nat) (raw : List Byte) : List (Blk × Nat) :=
  (List.range (tblElems t / 32)).map (fun j => ownBlk (tblSpec t sop) raw (bits t.scatter 8 8) j)

/-- An accumulation entry of contributions. -/
def entOf (tdesc row epoch sop blocks : Nat) (bs : List (Blk × Nat)) : AccEnt :=
  ⟨tdesc, row, epoch, sop, bs.flatMap (fun b => b.1.vals), bs.flatMap (fun b => b.1.sts), bs.foldl (fun f b => f ||| b.2) 0, 1, blocks, false⟩

/-- The blocks of an entry. -/
def AccEnt.blks (e : AccEnt) (t : Tbl) : List Blk :=
  (List.range (e.vals.length / 32)).map (fun j => ⟨if (tblSpec t e.sop).anchored then bits t.scatter 8 8 else 0,
    (e.vals.drop (32 * j)).take 32, (e.sts.drop (32 * j)).take 32⟩)

/-- Merge a row into its entry (R192, R202, R203, R290). -/
def AccEnt.merge (e : AccEnt) (t : Tbl) (bs : List (Blk × Nat)) : AccEnt :=
  let rs := ((e.blks t).zip bs).map (fun xy => (mergeBlk (tblSpec t e.sop) 1 xy.1 xy.2.1).getD (xy.1, 0))
  { e with vals := rs.flatMap (fun r => r.1.vals), sts := rs.flatMap (fun r => r.1.sts), n := e.n + 1,
           flags := rs.foldl (fun f r => f ||| r.2) (bs.foldl (fun f b => f ||| b.2) e.flags) }

/-- The open epoch of a table at a drop (R291). -/
def State.openEpoch (s : State) (st d tdesc : Nat) : Nat := SMap.get 0 (s.drop st d).epochs tdesc

/-- SCATTER_DATA_RECEIVE (R289 to R291). -/
def State.scatterData (s : State) (st d : Nat) (p : Packet) : State :=
  let x := Site.drop st d
  let c := dropCell st d
  match p.tail with
  | .table t =>
    let k : RsvKey := ⟨keySrc p, t.rsv, p.tag⟩
    let q := s.drop st d
    let end_ := fun (s : State) => s.modLanding x (fun l => l.finish k)
    let deliver := fun (s : State) n => s.sendSig c (.delivered ⟨0, p.tag, p.src, s.srcOf c 0, t.rsv + 64 * n⟩)
    if ! s.dropLive st d then (s.takePkt p).raiseNack c (s.srcOf c 0) p 7 0 0
    else match (s.landing x).find k with
    | none => s.latePkt x p t.off true
    | some r =>
      if r.expiry ≤ s.ft (s.siteField x) then s.latePkt x p t.off true
      else if r.st = .failed then s.takePkt p
      else if ! payloadOk p then
        (((s.takePkt p).failLanding x r).checkFault c p).raiseNack c (s.srcOf c 0) p (payloadReason p) 0 0
      else
        let s := s.takePkt p
        let tb := s.tbl t.tdesc
        let open_ := s.openEpoch st d t.tdesc
        let flush := q.flushes.find? (fun f => f.tdesc == t.tdesc)
        let closing : Bool := match flush with
          | some f => decide (t.fep = f.epoch) && f.wait.any (sameKey k)
          | none => false
        if ! (decide (t.fep = open_) || closing) then
          (end_ ((s.bumpDrop st d 6 1).raiseNack c (s.srcOf c 0) p 3 0 open_))
        else
          let ent := q.acc.find? (fun e => e.tdesc == t.tdesc && e.row == t.row && e.epoch == t.fep)
          let other : Bool := match ent with
            | some e => e.sop != t.op
            | none => false
          if ! tb.allows t.op ∨ t.fmt ≠ tb.fmt ∨ other then deliver (end_ s) 0
          else
            let bs := rowBlks tb t.op p.payload
            match ent with
            | some e =>
              if 2 ^ 18 ≤ e.n then end_ (s.raiseNack c (s.srcOf c 0) p 1 0 0)
              else
                let inj := s.memInject (dropBlock st d) 3 2 (pktDetail p)
                let s := inj.2.modDrop st d (fun q => { q with
                  acc := q.acc.map (fun y => if y = e then { e.merge tb bs with bad := e.bad || inj.1 } else y) })
                deliver (end_ (s.bump (dropNode st d) t.tdesc 0x6000 0x11 1)) tb.rowBytes
            | none =>
              let inj := s.memInject (dropBlock st d) 3 2 (pktDetail p)
              let s := inj.2.modDrop st d (fun q => { q with
                acc := q.acc ++ [{ entOf t.tdesc t.row t.fep t.op (accBlocks tb t.op) bs with bad := inj.1 }] })
              deliver (end_ (s.bump (dropNode st d) t.tdesc 0x6000 0x11 1)) tb.rowBytes
  | _ => s

/-! ### Flushes at a drop (R292 to R294) -/

/-- Change the flush of a table at a drop. -/
def State.modFlush (s : State) (st d tdesc : Nat) (f : DropFlush → DropFlush) : State :=
  s.modDrop st d (fun q => { q with flushes := q.flushes.map (fun x => if x.tdesc = tdesc then f x else x) })

/-- A drop begins the flush that a FLUSH_REQ asks for (R292 step 3): the next epoch opens, entries of the coalescer take no more
joiners, and the scatter reservations granted so far are waited for. -/
def State.flushBegin (s : State) (st d : Nat) (p : Packet) (t : TableTail) : State :=
  let wait := ((s.drop st d).landing.rsvs.filter (fun r => match r.kind with
    | .scatter _ td _ => td == t.tdesc
    | _ => false)).map LRsv.key
  s.modDrop st d (fun q => { q with
    epochs := SMap.put 0 q.epochs t.tdesc ((t.fep + 1) % 256),
    ents := q.ents.map (fun e => if e.tdesc = t.tdesc then { e with shut := true } else e),
    flushes := q.flushes ++ [⟨t.tdesc, t.fep, p, wait, false, none, [], false, [], 0, false, false⟩] })

/-- FLUSH_REQ_RECEIVE (R284, R292): a drop that is still flushing the table queues the request. -/
def State.flushReq (s : State) (st d : Nat) (p : Packet) : State :=
  let c := dropCell st d
  match p.tail with
  | .table t =>
    if p.typ ≠ 6 then s
    else if ! s.dropLive st d then (s.takePkt p).raiseNack c (s.srcOf c 0) p 7 0 0
    else if 1024 ≤ (s.drop st d).queueUsed then s
    else if (s.drop st d).flushes.any (fun f => f.tdesc == t.tdesc) then
      (s.takePkt p).modDrop st d (fun q => { q with flushQ := q.flushQ ++ [p] })
    else (s.takePkt p).flushBegin st d p t
  | _ => s

/-- The stored value of an element: its finite value, or its status (R201). -/
def storedElems (t : Tbl) (raw : List Byte) : List (Val × Nat) := (List.range (tblElems t / 32)).flatMap (blockVals t.fmt raw)

/-- One element of a SUM write-back (R293): the stored value plus the accumulator, exactly, converted once. -/
def sumElem (t : Tbl) (q : FloatFmt) (v : Val × Nat) (A : Int) (st : Nat) : Nat × Nat :=
  let a := tblSpec t 0
  let E := anchorExp (bits t.scatter 8 8)
  let lo := E - (a.window : Int)
  match v.1 with
  | .fin neg m e =>
    let base := min lo e
    let x := (if neg then -((m * 2 ^ (e - base).toNat : Nat) : Int) else ((m * 2 ^ (e - base).toNat : Nat) : Int)) +
      A * ((2 ^ (lo - base).toNat : Nat) : Int)
    let r := mergeStatus 0 st
    let y := elemOut q a.rtz a.sat x base r.1
    (y.1, y.2 ||| r.2 ||| v.2)
  | w =>
    let sv := match w with
      | .nan => 3
      | _ => valStatus w
    let r := mergeStatus sv st
    let y := elemOut q a.rtz a.sat 0 lo r.1
    (y.1, y.2 ||| r.2 ||| v.2 ||| (if sv = 3 then 8 else 0))

/-- Words of a row's elements as bytes. -/
def rowBytesOf (t : Tbl) (ws : List Nat) : List Byte := ws.flatMap (fun w => leBytes (fmtBits t.fmt / 8) w)

/-- The row that a write-back writes, with the flags it raises (R293). -/
def writeBack (t : Tbl) (e : AccEnt) (raw : List Byte) : List Byte × Nat :=
  let fin := fun (rs : List (Nat × Nat)) => (rowBytesOf t (rs.map Prod.fst), rs.foldl (fun f r => f ||| r.2) 0)
  if e.sop = 0 then
    match floatFmt t.fmt with
    | some q => fin (((storedElems t raw).zip (e.vals.zip e.sts)).map (fun x => sumElem t q x.1 x.2.1 x.2.2))
    | none =>
      let w := fmtBits t.fmt
      let ws := (List.range (tblElems t / 32)).flatMap (blockRaw t.fmt raw)
      fin ((ws.zip e.vals).map (fun x => intOut w (bit t.scatter 17) (toSigned w x.1 + x.2)))
  else
    let a := tblSpec t 1
    let rs := ((rowBlks t 1 raw).zip (e.blks t)).map (fun xy =>
      let m := (mergeBlk a 1 xy.1.1 xy.2).getD (xy.1.1, 0)
      let o := outBlk a 0 0 m.1
      (o.1.vals.map Int.toNat, o.2 ||| m.2 ||| xy.1.2))
    (rowBytesOf t (rs.flatMap Prod.fst), rs.foldl (fun f r => f ||| r.2) 0)

/-- Gathers that waited for a row's write-back read it now (R294). -/
def State.releaseRow (s : State) (st d tdesc row : Nat) : State :=
  ((s.drop st d).ents.filter (fun e => e.tdesc == tdesc && e.row == row && e.held)).foldl (fun (s : State) e => s.coalRead st d e) s

/-- The flush of a table at a drop has written every entry (R292 steps 5 and 6): the cached rows it did not write go, the lead is
answered, and the next FLUSH_REQ that waits begins. -/
def State.flushEnd (s : State) (st d : Nat) (f : DropFlush) : State :=
  let c := dropCell st d
  let n := f.rows.length
  let arg := pack [(0, 10, f.tdesc), (10, 8, f.epoch), (18, 1, f.flags), (19, 1, f.flags / 2), (20, 1, f.flags / 4), (21, 1, f.flags / 8),
    (22, 1, f.flags / 16), (23, 1, b2n f.lost), (24, 1, b2n f.remapped), (25, 2, n / 256)]
  let s := s.modDrop st d (fun q => { q with
    cache := q.cache.filter (fun r => r.tdesc != f.tdesc || f.rows.contains r.row),
    ents := q.ents.map (fun e => if e.tdesc = f.tdesc ∧ ! f.rows.contains e.row then { e with stale := true } else e),
    flushes := q.flushes.filter (fun x => x.tdesc != f.tdesc) })
  let s := s.sendSig c (.delivered ⟨n % 256, f.req.tag, f.req.src, s.srcOf c 0, arg⟩)
  match (s.drop st d).flushQ.find? (fun p => match p.tail with | .table t => t.tdesc == f.tdesc | _ => false) with
  | some p => match p.tail with
    | .table t => (s.modDrop st d (fun q => { q with flushQ := q.flushQ.erase p })).flushBegin st d p t
    | _ => s
  | none => s

/-- Write back the next entry of a flush under way, by RDL of its granules, or end the flush (R292, R293). It waits while the locks of
another table's row leave no room for those of its own: a drop holds at most 32 (R276). -/
def State.flushNext (s : State) (st d tdesc : Nat) : State :=
  match (s.drop st d).flushes.find? (fun f => f.tdesc == tdesc) with
  | none => s
  | some f =>
    let n := (s.tbl tdesc).rowBytes / 64
    let q := s.drop st d
    let locks := q.locks.length + (q.todo.filter (fun t => t.code == 3)).length
    if ! f.busy ∨ f.cur.isSome ∨ (32 < locks + n ∧ q.acc.any (fun e => e.tdesc == tdesc && e.epoch == f.epoch)) then s
    else match (s.drop st d).acc.find? (fun e => e.tdesc == tdesc && e.epoch == f.epoch) with
      | none => s.flushEnd st d f
      | some e =>
        let t := s.tbl tdesc
        let s := s.modDrop st d (fun q => { q with acc := q.acc.erase e })
        let s := s.modFlush st d tdesc (fun f => { f with
          cur := some e, got := List.replicate (t.rowBytes / 64) none, bad := false })
        s.issue st d (readTxns 3 (t.addr e.row) t.rowBytes (.flush tdesc))

/-- FLUSH_WRITEBACK (R292, R293): it begins once the scatter reservations granted before the FLUSH_REQ have ended. -/
def State.flushWriteback (s : State) (st d tdesc : Nat) : State :=
  match (s.drop st d).flushes.find? (fun f => f.tdesc == tdesc) with
  | none => s
  | some f =>
    if f.busy ∨ f.wait.any (fun k => ((s.drop st d).landing.find k).isSome) then s
    else (s.modFlush st d tdesc (fun f => { f with busy := true })).flushNext st d tdesc

/-- The granules of the row being written have all been read (R293): it is written by WRU, or unlocked with nothing written where a
read failed. -/
def State.flushWrite (s : State) (st d tdesc : Nat) (bad : Bool) : State :=
  match (s.drop st d).flushes.find? (fun f => f.tdesc == tdesc) with
  | none => s
  | some f =>
    match f.cur with
    | none => s
    | some e =>
      let t := s.tbl tdesc
      let a := t.addr e.row
      if bad || e.bad then
        let s := s.modFlush st d tdesc (fun f => { f with lost := true, flags := f.flags ||| e.flags })
        s.issue st d ((granules a t.rowBytes).map (fun g => ⟨4, g, zeros 64, List.replicate 64 false, .unlock tdesc, 0, 0, 0, false⟩))
      else
        let r := writeBack t e (f.got.flatMap (fun x => x.getD (zeros 64)))
        let home := decide (s.rowHome (dropCell st d) t st e.row = some d)
        let s := s.modFlush st d tdesc (fun f => { f with
          flags := f.flags ||| e.flags ||| r.2, rows := f.rows ++ [e.row], remapped := f.remapped || ! home })
        let s := s.modDrop st d (fun q => { q with
          cache := q.cache.map (fun x => if x.tdesc = tdesc ∧ x.row = e.row then { x with data := r.1 } else x),
          ents := q.ents.map (fun x => if x.tdesc = tdesc ∧ x.row = e.row ∧ ! x.held then { x with stale := true, shut := true } else x) })
        s.issue st d (writeTxns 4 a r.1 0 (.unlock tdesc))

/-- The last WRU of a row has been answered: gathers that waited go on, and so does the flush. -/
def State.flushRowDone (s : State) (st d tdesc : Nat) : State :=
  match (s.drop st d).flushes.find? (fun f => f.tdesc == tdesc) with
  | none => s
  | some f =>
    match f.cur with
    | none => s
    | some e =>
      let s := (s.modFlush st d tdesc (fun f => { f with cur := none })).releaseRow st d tdesc e.row
      -- the flushes that wait for locks go on first
      let others := ((s.drop st d).flushes.map DropFlush.tdesc).filter (· != tdesc)
      (others ++ [tdesc]).foldl (fun (s : State) k => s.flushNext st d k) s

/-! ### The lead of a flush (R292) -/

/-- Close an epoch of a table at its lead (R292 steps 1 and 2). -/
def State.closeEpoch (s : State) (st d tdesc e : Nat) (r : DictReq) : State :=
  let t := s.tbl tdesc
  let n := dropNode st d
  let s := ((s.setReg n tdesc 0x6000 0x0A 2).setReg .engine tdesc 0x6000 0x0A 2).setReg n tdesc 0x6000 0x0B ((e + 1) % 256)
  let f := s.fresh
  let s := f.2
  let tag := f.1 % 65536
  let c := dropCell st d
  let drops := t.list.flatMap (fun i => (s.liveDropsAt c i).map (fun k => dropCell i k))
  let lost := (s.drop st d).lost.contains tdesc
  let s := s.modDrop st d (fun q => { q with
    lost := q.lost.filter (· != tdesc), leads := q.leads ++ [⟨tdesc, e, tag, s.time, drops, if lost then 32 else 0, 0, r⟩] })
  drops.foldl (fun (s : State) k =>
    s.sendPkt c ⟨0x06, 0, 0, 0, false, false, ⟨s.engine, k.x, k.y, 1⟩, s.srcOf c 0, tag, ⟨0, false, 0⟩, 0,
      .table ⟨tdesc, 0, e, 0, t.fmt, 0, 0⟩, [], false⟩ false) s

/-- A lead ends its flush (R292 step 7); `answer` replies to the DICT write. -/
def State.leadEnd (s : State) (st d : Nat) (l : LeadFlush) (answer : State → DictReq → State) : State :=
  let n := dropNode st d
  let unacked := if l.open_.isEmpty then 0 else 128
  let s := s.modDrop st d (fun q => { q with leads := q.leads.filter (fun x => x.tdesc != l.tdesc) })
  let s := s.setReg n l.tdesc 0x6000 0x0E ((l.status ||| unacked) % 256 + 256 * l.epoch)
  let s := ((s.setReg n l.tdesc 0x6000 0x0F l.rows).setReg n l.tdesc 0x6000 0x0D l.epoch).setReg n l.tdesc 0x6000 0x0A 1
  let s := s.setReg .engine l.tdesc 0x6000 0x0A 1
  if l.req.whole then answer s l.req else s

/-- FLUSH_ANSWER_RECEIVE (R292): one drop's answer, and with the last the end of the flush. -/
def State.flushAnswer (s : State) (a : Delivered) (answer : State → DictReq → State) : State :=
  let s1 := s.takeSig (.delivered a)
  let w := a.arg32
  let tdesc := bits w 0 10
  match s.dropAt (srcCell a.target) with
  | none => s
  | some (st, d) =>
    match (s.drop st d).leads.find? (fun l => l.tdesc == tdesc && decide (l.epoch = bits w 10 8) && l.tag == a.tag &&
        l.open_.contains (srcCell a.origin)) with
    | none => s1
    | some l =>
      let l' := { l with open_ := l.open_.erase (srcCell a.origin), rows := l.rows + a.arg8 + 256 * bits w 25 2,
                         status := l.status ||| bits w 18 7 }
      if l'.open_.isEmpty then s1.leadEnd st d l' answer
      else s1.modDrop st d (fun q => { q with leads := q.leads.map (fun x => if x = l then l' else x) })

/-- FLUSH_LIMIT_EXPIRY (R292): the lead closes the flush with UNACKED. -/
def State.flushLimit (s : State) (tdesc : Nat) (answer : State → DictReq → State) : State :=
  match (List.range 768).findSome? (fun i => ((s.drop (i / 32) (i % 32)).leads.find? (fun l => l.tdesc == tdesc)).map (fun l => (i, l))) with
  | none => s
  | some (i, l) =>
    ({ s with time := max s.time (l.start + us (s.reg .engine 0 0x6001 2)) } : State).leadEnd (i / 32) (i % 32) l answer

/-! ### Memory streams (R295, R177) -/

/-- A subindex of a stream's object. -/
def State.strm (s : State) (m sub : Nat) : Nat := s.reg .engine 0 (0x6100 + m) sub

/-- The drop of a stream. -/
def State.strmDrop (s : State) (m : Nat) : Nat × Nat := (s.strm m 1, s.strm m 2)

/-- The source of a stream's calls (R177). -/
def State.strmSrc (s : State) (m : Nat) : SrcAddr :=
  let k := s.strmDrop m
  { s.srcOf (dropCell k.1 k.2) 0 with stream := true }

/-- Change the stream `m` of a drop. -/
def State.modStrm (s : State) (st d m : Nat) (f : StreamSt → StreamSt) : State :=
  s.modDrop st d (fun q => { q with streams := q.streams.map (fun x => if x.m = m then f x else x) })

/-- Change one reservation of a stream. -/
def StreamSt.modRsv (x : StreamSt) (k : Nat) (f : StreamRsv → StreamRsv) : StreamSt :=
  { x with rsvs := x.rsvs.map (fun r => if r.k = k then f r else r) }

/-- The rectangle of a stream: X, Y, X1, Y1. -/
def State.strmRect (s : State) (m : Nat) : Nat × Nat × Nat × Nat :=
  let w := s.strm m 5
  (bits w 0 9, bits w 9 9, bits w 18 9, bits w 27 9)

/-- Members of a stream's rectangle. -/
def State.strmMembers (s : State) (m : Nat) : Nat :=
  let r := s.strmRect m
  (r.2.2.1 + 1 - r.1) * (r.2.2.2 + 1 - r.2.1)

/-- Call for the next reservations of a stream, while fewer than 4 calls are outstanding (R295 step 3). -/
def State.strmCall (s : State) (st d m : Nat) : Nat → State
  | 0 => s
  | fuel + 1 =>
    match (s.drop st d).streams.find? (fun x => x.m == m) with
    | none => s
    | some x =>
      let base := 16384 * x.rsvs.length
      let size := s.strm m 4
      if size ≤ base ∨ 4 ≤ (x.rsvs.filter (fun r => r.phase == 0)).length then s
      else
        let k := x.rsvs.length
        let n := min 16384 (size - base)
        let lim := s.time + us (s.reg .engine 0 0x2013 4)
        let s := s.modStrm st d m (fun x => { x with rsvs := x.rsvs ++ [⟨k, base, n, 0, 0, 0, 0, 0, 0, [], [], lim⟩] })
        let r := s.strmRect m
        let g : MresGrant := ⟨m + 256 * k, n, s.strm m 7, s.strmSrc m, x.tag, s.strm m 6 + base, r.1, r.2.1, r.2.2.1, r.2.2.2⟩
        (s.sendSig (dropCell st d) (.mresGrant g)).strmCall st d m fuel

/-- End a stream all of whose reservations have ended (R295 step 6). -/
def State.strmEnd (s : State) (st d m : Nat) : State :=
  match (s.drop st d).streams.find? (fun x => x.m == m) with
  | none => s
  | some x =>
    if x.rsvs.length * 16384 < s.strm m 4 ∨ x.rsvs.any (fun r => r.phase != 3) then s
    else
      let least := minimum (2 ^ 18 - 1) (x.rsvs.map StreamRsv.ok1)
      let why := x.rsvs.foldl (fun f r => f ||| r.reasons) 0
      let s := s.modDrop st d (fun q => { q with streams := q.streams.filter (fun y => y.m != m) })
      let s := (s.setReg .engine 0 (0x6100 + m) 0x0A 2).setReg .engine 0 (0x6100 + m) 0x0B (least + 2 ^ 18 * (why % 32))
      let w := s.strm m 8
      let c := dropCell st d
      if bit w 20 then
        s.sendSig c (.int ⟨s.engine, bits w 0 9, bits w 9 9, bits w 18 2, false⟩ (s.srcOf c 0) ((dropNode st d).word + 65536 * (0x6100 + m)))
      else s

/-- A reservation of a stream ends; the next call follows. -/
def State.strmRsvEnd (s : State) (st d m k : Nat) (reasons : Nat) : State :=
  let s := s.modStrm st d m (fun x => x.modRsv k (fun r => { r with phase := 3, reasons := r.reasons ||| reasons }))
  let tag := ((s.drop st d).streams.find? (fun x => x.m == m)).elim 0 (fun x => x.tag)
  ((s.dropCopies (dropCell st d) 0x16 tag (m + 256 * k)).strmCall st d m 16).strmEnd st d m

/-- Start stream `m` (R295): the checks of its fields, 0 for none failed, or a refusal: 1 RANGE, 2 its drop is not live. -/
def State.strmCheck (s : State) (m : Nat) : Nat :=
  let r := s.strmRect m
  let size := s.strm m 4
  if size = 0 ∨ 262144 < size ∨ s.strm m 3 % 64 ≠ 0 ∨ stackBytes < s.strm m 3 + size ∨ 24 ≤ s.strm m 1 ∨ 32 ≤ s.strm m 2 ∨
      r.2.2.1 < r.1 ∨ r.2.2.2 < r.2.1 ∨ s.gx ≤ r.2.2.1 ∨ s.gy ≤ r.2.2.2 ∨ 10000 < s.strm m 7 ∨ cellBytes < s.strm m 6 + size then 1
  else if ! s.dropLive (s.strm m 1) (s.strm m 2) then 2
  else 0

/-- A stream begins: STATE is RUNNING and its first calls leave (R295). -/
def State.strmStart (s : State) (m : Nat) : State :=
  let k := s.strmDrop m
  let f := s.fresh
  let s := (f.2.setReg .engine 0 (0x6100 + m) 0x0A 1).modDrop k.1 k.2 (fun q => { q with streams := q.streams ++ [⟨m, f.1 % 65536, []⟩] })
  s.strmCall k.1 k.2 m 16

/-- MRES_ARRIVE at a drop that streams (R175, R295). -/
def State.strmArrive (s : State) (a : MresArrive) : State :=
  let m := a.mid % 64
  let k := a.mid / 256
  match s.dropAt (srcCell a.source) with
  | none => s
  | some (st, d) =>
    match (s.drop st d).streams.find? (fun x => x.m == m) with
    | none => s
    | some x =>
      match x.rsvs.find? (fun r => r.k == k) with
      | none => s
      | some r =>
        let why := r.reasons ||| (a.reasons % 32)
        if a.phase = 0 ∧ r.phase = 0 then
          let r := { r with ok0 := r.ok0 + a.ok, fail0 := r.fail0 + a.fail, reasons := why }
          let s := s.modStrm st d m (fun x => x.modRsv k (fun _ => r))
          if r.ok0 + r.fail0 < s.strmMembers m then s
          else if r.ok0 ≤ r.ok1 + r.fail1 then s.strmRsvEnd st d m k 0
          else
            let a0 := s.strm m 3 + r.base
            let n := (granules a0 r.size).length
            let s := s.modStrm st d m (fun x => x.modRsv k (fun r => { r with phase := 1, got := List.replicate n none }))
            (s.strmCall st d m 16).issue st d (readTxns 1 a0 r.size (.stream m k))
        else if a.phase = 1 ∧ r.phase ≠ 3 then
          let r := { r with ok1 := r.ok1 + a.ok, fail1 := r.fail1 + a.fail, reasons := why }
          let s := s.modStrm st d m (fun x => x.modRsv k (fun _ => r))
          if r.phase ≠ 0 ∧ r.ok0 ≤ r.ok1 + r.fail1 then s.strmRsvEnd st d m k 0 else s
        else s

/-- CALL_LIMIT, or BULK_TIMEOUT after the last packet, of a stream's reservation (R175). -/
def State.strmLimit (s : State) (src : SrcAddr) (mid : Nat) : State :=
  match s.dropAt (srcCell src) with
  | none => s
  | some (st, d) =>
    match ((s.drop st d).streams.find? (fun x => x.m == mid % 64)).bind (fun x => x.rsvs.find? (fun r => r.k == mid / 256)) with
    | none => s
    | some r =>
      if r.phase = 0 then ({ s with time := max s.time r.deadline } : State).strmRsvEnd st d (mid % 64) r.k 4
      else if r.phase = 2 then
        (({ s with time := max s.time r.deadline } : State).bump (dropNode st d) 0 0x4060 0x0A 1).strmRsvEnd st d (mid % 64) r.k 0
      else s

/-- Send the MEM_MCAST packets of a stream's reservation whose granules are here (R177, R295). -/
def State.strmSend (s : State) (st d m k : Nat) : State :=
  match ((s.drop st d).streams.find? (fun x => x.m == m)).bind (fun x => (x.rsvs.find? (fun r => r.k == k)).map (fun r => (x.tag, r))) with
  | none => s
  | some (tag, r) =>
    let c := dropCell st d
    let n := cdiv r.size 2048
    let a0 := s.strm m 3 + r.base
    let ready := fun j => ! r.sent.contains j && (granules (a0 + 2048 * j) (min 2048 (r.size - 2048 * j))).all (fun g =>
      (nth r.got (g - a0 / 64) none).isSome)
    -- packets leave in order
    let js := (List.range n).filter (fun j => ! r.sent.contains j && (List.range (j + 1)).all (fun i => r.sent.contains i || ready i))
    let all := r.got.flatMap (fun x => x.getD (zeros 64))
    let rect := s.strmRect m
    if r.phase = 3 then s else
    let s := js.foldl (fun (s : State) j =>
      let len := min 2048 (r.size - 2048 * j)
      s.sendPkt c (dataPkt 0x16 1 false (decide (s.strm m 4 ≤ r.base + 2048 * j + len)) ⟨s.engine, rect.1, rect.2.1, 5⟩ (s.srcOf c 0) tag
        (.rect ⟨rect.2.2.1, rect.2.2.2, s.strm m 6 + r.base + 2048 * j, m + 256 * k, 64 * j, len⟩)
        ((all.drop (a0 + 2048 * j - 64 * (a0 / 64))).take len) none) false) s
    let sent := r.sent ++ js
    s.modStrm st d m (fun x => x.modRsv k (fun r => { r with
      sent := sent, phase := if n ≤ sent.length ∧ r.phase = 1 then 2 else r.phase, deadline := s.time + s.bulkTimeout }))

/-! ### Answers of the base die (R275, R276, R451) -/

/-- A granule of a read has come, or cannot be read (`data` none): what it serves goes on (R279, R285, R293, R295). -/
def State.granIn (s : State) (st d : Nat) (t : Txn) (data : Option (List Byte)) : State :=
  let c := dropCell st d
  match t.use with
  | .get id =>
    match (s.drop st d).gets.find? (fun g => g.id == id) with
    | none => s
    | some g =>
      match data with
      | none =>
        (s.modDrop st d (fun q => { q with gets := q.gets.filter (fun x => x.id != id) })).raiseNack c (s.srcOf c 0) g.pkt 0x0A 0 0
      | some b =>
        let g := { g with got := setAt g.got t.i (some b) }
        (s.modDrop st d (fun q => { q with gets := q.gets.map (fun x => if x.id = id then g else x) })).dropGetSend st d g
  | .row id =>
    s.modDrop st d (fun q => { q with ents := q.ents.map (fun e => if e.id = id then
      (match data with
       | some b => { e with got := setAt e.got t.i (some b) }
       | none => { e with err := true, shut := true }) else e) })
  | .flush td =>
    let s := s.modFlush st d td (fun f => { f with
      got := setAt f.got t.i (some (data.getD (zeros 64))), bad := f.bad || data.isNone })
    if (s.drop st d).busyWith (fun x => x.code == 3 && x.use == .flush td) then s
    else s.flushWrite st d td ((s.drop st d).flushes.any (fun f => f.tdesc == td && f.bad))
  | .boot =>
    -- the drop has answered the handshake of bring-up, with or without ERR (R445)
    if s.reg .engine 0 0x1008 1 = 8 then { s with eng := { s.eng with bootDrops := s.eng.bootDrops ++ [(st, d)] } } else s
  | .stream m k =>
    match data with
    | none =>
      match ((s.drop st d).streams.find? (fun x => x.m == m)).bind (fun x => x.rsvs.find? (fun r => r.k == k)) with
      | some r => if r.phase = 1 then s.strmRsvEnd st d m k 8 else s
      | none => s
    | some b => (s.modStrm st d m (fun x => x.modRsv k (fun r => { r with got := setAt r.got t.i (some b) }))).strmSend st d m k
  | _ => s

/-- A write has been acknowledged, or not (`ok` false) (R279, R293). -/
def State.writeDone (s : State) (st d : Nat) (t : Txn) (ok : Bool) : State :=
  let x := Site.drop st d
  let c := dropCell st d
  match t.use with
  | .put k =>
    match (s.landing x).find k with
    | none => s
    | some r =>
      if ! ok then
        if r.st = .failed then s
        else
          ((s.failLanding x r).sendSig c (.nack ⟨0x0A, k.tag, k.src, s.srcOf c 0, 0x10, k.rsv, 0, 0⟩)).countEvent c 9 0 0 1
      else if (s.drop st d).busyWith (fun y => y.i == t.i && (match y.use with | .put key => sameKey key k | _ => false)) then s
      else
        let g := nth r.grains t.i none
        s.modLanding x (fun l => (l.put { r with grains := setAt r.grains t.i none }).release g.toList)
  | .unlock td =>
    let s := if ok then s else s.modFlush st d td (fun f => { f with lost := true })
    if (s.drop st d).busyWith (fun y => y.use == .unlock td) then s else s.flushRowDone st d td
  | _ => s

/-- Take an outstanding transaction off its tag; the transactions that wait for tags go on. -/
def State.freeTag (s : State) (st d : Nat) (t : Txn) : State :=
  let s := s.countTagWaits st d
  let s := s.modDrop st d (fun q =>
    let q := { q with txns := q.txns.filter (fun x => x.tag != t.tag), locks := if t.code = 4 ∧ ! t.late then q.locks.erase t.gran else q.locks }
    issueTxns s.time q.todo.length q)
  let late := (s.drop st d).txns.any Txn.late
  if t.late && ! late then s.faultLive (dropBlock st d) 0 false else s

/-- A response that names no held tag, or whose head cannot be trusted (R451): IF_ERROR. -/
def State.ifError (s : State) (st d : Nat) : State := s.faultEvent (dropBlock st d) 4 0 0

/-- Count an answer with ERR (R276). -/
def State.rerr (s : State) (st d tag : Nat) : State := (s.bumpDrop st d 3 1).faultEvent (dropBlock st d) 1 0 tag

/-- Decode one codeword of read data (R451): its 32 bytes, or none where it cannot be corrected. -/
def State.dropWord (s : State) (st d : Nat) (cw : List Byte) : Option (List Byte) × State :=
  match rsDecode cw with
  | .clean => (some (cwPayload cw), s)
  | .corrected cw' => (some (cwPayload cw'), s.wear (dropBlock st d) 1)
  | _ => (none, s)

/-- RDATA_RECEIVE (R275, R276, R451); an injection of kind 7 withholds the answer (R373). -/
def State.rdata (s : State) (st d tag : Nat) (cw0 cw1 : List Byte) (err parityOk : Bool) : State :=
  if ! parityOk then s.ifError st d
  else match (s.drop st d).txns.find? (fun t => t.tag == tag && (t.code == 1 || t.code == 3)) with
    | none => s.ifError st d
    | some t =>
     let inj := s.takeInject (dropNode st d) 7 0
     if inj.1.isSome then inj.2
     else
      let a := s.dropWord st d cw0
      let b := a.2.dropWord st d cw1
      let s := b.2.freeTag st d t
      match (if err then none else a.1), b.1 with
      | some x, some y => if t.late then s else s.granIn st d t (some (x ++ y))
      | _, _ => (if t.late then s.rerr st d tag else (s.rerr st d tag).granIn st d t none)

/-- WACK_RECEIVE (R275, R276, R451); an injection of kind 7 withholds the answer (R373). -/
def State.wack (s : State) (st d tag : Nat) (err parityOk : Bool) : State :=
  if ! parityOk then s.ifError st d
  else match (s.drop st d).txns.find? (fun t => t.tag == tag && (t.code == 2 || t.code == 4)) with
    | none => s.ifError st d
    | some t =>
     let inj := s.takeInject (dropNode st d) 7 0
     if inj.1.isSome then inj.2
     else
      let s := s.freeTag st d t
      let s := if err then s.rerr st d tag else s
      if t.late then s else s.writeDone st d t (! err)

/-- TXN_TIMEOUT_EXPIRY (R276): a strike; the tag stays held, and the request is handled as a read error: the lock of a WRU counts as
released, as by an answer (R293). -/
def State.txnTimeout (s : State) (st d tag : Nat) : State :=
  match (s.drop st d).txns.find? (fun t => t.tag == tag && ! t.late && t.use != .boot) with
  | none => s
  | some t =>
    let b : FaultBlock := dropBlock st d
    let s : State := { s with time := max s.time (t.at_ + us (s.reg .engine 0 0x6001 1)) }
    let s := s.modDrop st d (fun q => { q with
      txns := q.txns.map (fun x => if x.tag = tag then { x with late := true } else x),
      locks := if t.code = 4 then q.locks.erase t.gran else q.locks })
    let quiet := s.eng.testMode && decide (s.reg b.node 0 0xF010 1 = 7) && decide (s.reg b.node 0 0xF010 6 = 1)
    let s := (s.bumpDrop st d 4 1).faultLive b 0 true
    let s := if quiet then s.faultEvent b 0 0 tag else s.strike b 0 0 tag
    if t.code = 1 ∨ t.code = 3 then s.granIn st d t none else s.writeDone st d t false

/-! ### A drop is fenced (R297) -/

/-- The rows whose home has moved away leave a drop's cache (R297). -/
def State.purgeMoved (s : State) (st k : Nat) : State :=
  if (s.drop st k).cache.isEmpty then s
  else s.modDrop st k (fun q => { q with cache := q.cache.filter (fun r => s.rowHome (dropCell st k) (s.tbl r.tdesc) st r.row == some k) })

/-- A router that has applied a new map purges the cache of its drop (R278, R297). -/
def State.purgeAt (s : State) (c : Coord) : State :=
  match s.dropAt c with
  | some (st, k) => s.purgeMoved st k
  | none => s

/-- A RELEASE at a drop: one that is fenced answers UNREACHABLE (R297). -/
def State.dropRelease (s : State) (st d : Nat) (p : Packet) (t : TransferTail) : State :=
  let c := dropCell st d
  if s.dropLive st d then s.releaseAt (.drop st d) p t else (s.takePkt p).raiseNack c (s.srcOf c 0) p 7 0 0

/-- DROP_FENCE (R297, R368): it leaves the live-drop map; homes move, its entries are lost, and the tables that list the stack have
lost rows of their open and closing epochs. -/
def State.dropFenced (s : State) (st d : Nat) : State :=
  if ! s.dropLive st d then s
  else
    let b := dropBlock st d
    let s := { s with fences := s.fences.filter (fun x => x != b) }
    let tables := (List.range 1024).filter (fun k => (s.tbl k).list.contains st)
    let oldLeads := tables.map (fun k => (k, s.leadDrop (s.tbl k)))
    let s := ((s.setReg b.node 0 0x8120 0x0B 1).faultLive b 3 true).faultEvent b 3 0 0
    let s := s.faultLive b 0 false
    let had := s.drop st d
    let s := s.setReg .engine 0 (0x6010 + st) 1 (clrBit (s.reg .engine 0 (0x6010 + st) 1) d)
    let s := s.modDrop st d (fun _ => { DropSt.init with epochs := had.epochs, leads := had.leads })
    -- rows whose home has moved leave the caches
    let s := (List.range 32).foldl (fun (s : State) k => s.purgeMoved st k) s
    oldLeads.foldl (fun (s : State) kl =>
      let k := kl.1
      match kl.2, s.leadDrop (s.tbl k) with
      | some o, some n =>
        let lead := (s.drop o.1 o.2).leads.find? (fun l => l.tdesc == k)
        -- a lead that is itself fenced passes the role
        let s := if o = n then s
          else
            let move := fun (s : State) sub => s.setReg (dropNode n.1 n.2) k 0x6000 sub (s.reg (dropNode o.1 o.2) k 0x6000 sub)
            let s := [0x0A, 0x0B, 0x0D, 0x0E, 0x0F].foldl move s
            let s := s.modDrop o.1 o.2 (fun q => { q with leads := q.leads.filter (fun l => l.tdesc != k) })
            match lead with
            | some l => s.modDrop n.1 n.2 (fun q => { q with leads := q.leads ++ [l] })
            | none => s
        s.modDrop n.1 n.2 (fun q => { q with
          lost := q.lost.filter (· != k) ++ [k],
          leads := q.leads.map (fun l => if l.tdesc = k then { l with status := l.status ||| 32 } else l) })
      | _, _ => s) s

end Sys2Proof.Machine
end

