-- ==== Sys2Proof/Machine/CollOps.lean ====
section
/-! DEFINITION. Collectives on one engine (chapter 10): epochs (R216, R217), the pond (R230 to R232), contributions and
their records (R109, R237, R242, R243), sweep halves and gathering routers (R222 to R224, R235), roots, spill records and
completion (R225, R234, R239, R240), and the emission of results (R226, R244). -/

namespace Sys2Proof.Machine

/-! ### A router's collective state -/

/-- Change what a router holds for collectives. -/
def State.modColl (s : State) (c : Coord) (f : CollSt → CollSt) : State :=
  { s with colls := SMap.put CollSt.init s.colls (cellKey c) (f (s.coll c)) }

/-- The deposit record of a slice, if the cell has one whose command is not complete. -/
def State.dep? (s : State) (c : Coord) (i : SliceId) : Option Dep :=
  (s.coll c).deps.find? (fun d => d.ctx == i.ctx && d.epoch == i.epoch && d.k == i.k && ! d.closed)

/-- Change the deposit record of a slice. -/
def State.modDep (s : State) (c : Coord) (i : SliceId) (f : Dep → Dep) : State :=
  s.modColl c (fun q => { q with deps := q.deps.map (fun d =>
    if d.ctx = i.ctx ∧ d.epoch = i.epoch ∧ d.k = i.k ∧ ! d.closed then f d else d) })

/-- A slot of a router that holds a slice in a computation, of one of the kinds given. -/
def State.slot? (s : State) (c : Coord) (ph : Nat) (i : SliceId) (ks : List SlotKind) : Option PSlot :=
  (s.coll c).slots.find? (fun w => w.ph == ph && w.ctx == i.ctx && w.epoch == i.epoch && w.k == i.k && ks.contains w.kind)

/-- Free a slot. -/
def State.dropSlot (s : State) (c : Coord) (w : PSlot) : State := s.modColl c (fun q => { q with slots := q.slots.erase w })

/-- Take a slot. -/
def State.addSlot (s : State) (c : Coord) (w : PSlot) : State := s.modColl c (fun q => { q with slots := q.slots ++ [w] })

/-- Replace a slot. -/
def State.putSlot (s : State) (c : Coord) (old new : PSlot) : State :=
  s.modColl c (fun q => { q with slots := q.slots.map (fun w => if w = old then new else w) })

/-- The slice a slot holds. -/
def PSlot.id (w : PSlot) : SliceId := ⟨w.ctx, w.epoch, w.k⟩

/-- Times of a context in ns: WAIT_BUDGET, ORPHAN, LEASE (R213). -/
def State.ctxWait (s : State) (ctx : Nat) : Nat := s.ctx ctx 0x12

/-- CTX_ORPHAN in ns. -/
def State.ctxOrphan (s : State) (ctx : Nat) : Nat := us (s.ctx ctx 0x13)

/-- CTX_LEASE in ns. -/
def State.ctxLease (s : State) (ctx : Nat) : Nat := us (s.ctx ctx 0x14)

/-! ### The pond (R230 to R232) -/

/-- Does the slice stand in a slot of the pond? -/
def PSlot.inPond (w : PSlot) : Bool := w.spill.isNone && w.kind != .lost

/-- Slots that a share class holds in a router. -/
def State.shareHeld (s : State) (c : Coord) (q : Nat) : Nat :=
  ((s.coll c).slots.filter (fun w => w.inPond && w.share == q)).length +
    ((s.coll c).deps.filter (fun d => d.raw.isSome && s.ctx d.ctx 0x11 == q)).length

/-- Free slots of a router. -/
def State.freeSlots (s : State) (c : Coord) : Nat :=
  s.pondSlots - (((s.coll c).slots.filter PSlot.inPond).length +
    ((s.coll c).deps.filter (fun d => d.raw.isSome)).length)

/-- May a share class take a slot (R231, and R232 for staging)? `k` scales QUOTA, RES and HOLD_FLOOR (R260). -/
def State.mayTake (s : State) (k free : Nat) (held : Nat → Nat) (q : Nat) (staging : Bool) : Bool :=
  let w := fun r => s.reg .engine 0 0x2014 (1 + r)
  let quota := if s.build.pondKib = 32 ∧ k = 1 then min 16 (bits (w q) 0 6) else k * bits (w q) 0 6
  let need := (List.range 8).foldl (fun n r => if r = q then n else n + (k * bits (w r) 6 6 - held r)) 0
  decide (held q < quota) && decide (need < free) && (! staging || decide (k * s.reg .engine 0 0x2014 9 < free))

/-- May a context take a slot of a router's pond? -/
def State.canTake (s : State) (c : Coord) (ctx : Nat) (staging : Bool) : Bool :=
  s.mayTake 1 (s.freeSlots c) (s.shareHeld c) (s.ctx ctx 0x11) staging

/-! ### Epochs (R216, R217) -/

/-- Is an epoch finished at a node (R216)? -/
def State.epochDone (s : State) (c : Coord) (ctx epoch : Nat) : Bool :=
  let q := s.coll c
  let g := s.geo ctx
  ! q.deps.any (fun d => d.ctx == ctx && d.epoch == epoch && ! d.closed) &&
    ! q.slots.any (fun w => w.ctx == ctx && w.epoch == epoch) &&
    ! q.holds.any (fun h => h.id.ctx == ctx && h.id.epoch == epoch) &&
    ! q.exch.any (fun x => x.ctx == ctx && x.epoch == epoch && x.local_ == 0) &&
    decide (g.rooted c ≤ (q.done.filter (fun d => d.1 == 1 && d.2.ctx == ctx && d.2.epoch == epoch)).length) &&
    decide (g.expected c ≤ (q.lands.filter (fun l => l.id.ctx == ctx && l.id.epoch == epoch)).length)

/-- Epochs of a context that have started at a node and are not finished there. -/
def State.openEpochs (s : State) (c : Coord) (ctx : Nat) : List Nat :=
  (((s.coll c).epochs.filter (fun e => e.1 == ctx)).map Prod.snd).filter (fun e => ! s.epochDone c ctx e)

/-- CTX_STATE at a node (R213, R217): its register holds 3 once FAILED. -/
def State.ctxState (s : State) (c : Coord) (ctx : Nat) : Nat :=
  if s.reg (cellNode c) ctx 0x5000 0x1E = 3 then 3
  else if ! (s.openEpochs c ctx).isEmpty then 2
  else if (s.arm? ctx).isSome then
    let g := s.geo ctx
    let r := boundingRect (g.members ++ g.roots)
    if s.ctx ctx 0x15 ≠ 0 ∨ (r.1 ≤ c.x ∧ r.2.1 ≤ c.y ∧ c.x ≤ r.2.2.1 ∧ c.y ≤ r.2.2.2) then 1 else 0
  else 0

/-- Has an epoch of a context, half the range away from the epoch that begins, ended (R217)? -/
def epochOld (ctx epoch x e : Nat) : Bool := decide (x = ctx) && decide (64 ≤ sub8 epoch e) && decide (sub8 epoch e < 192)

/-- An epoch starts at a node with the first deposit or packet of it (R217): a root clears CTX_FLAGS and CTX_INCOMPLETE
(R210), which for a context with a level map may be the root of a level. What was kept of epochs half the range away has ended,
and goes. -/
def State.beginEpoch (s : State) (c : Coord) (ctx epoch : Nat) : State :=
  if (s.coll c).epochs.contains (ctx, epoch) then s
  else
    let old := epochOld ctx epoch
    let s : State := { s with eng := { s.eng with quiet := s.eng.quiet.filter (fun i => ! old i.ctx i.epoch) } }
    let s := s.modColl c (fun q => { q with
      epochs := q.epochs.filter (fun e => ! old e.1 e.2) ++ [(ctx, epoch)],
      done := q.done.filter (fun d => ! old d.2.ctx d.2.epoch),
      anchors := q.anchors.filter (fun d => ! old d.id.ctx d.id.epoch),
      anchParts := q.anchParts.filter (fun d => ! old d.id.ctx d.id.epoch),
      landParts := q.landParts.filter (fun d => ! old d.id.ctx d.id.epoch),
      lands := q.lands.filter (fun d => ! old d.id.ctx d.id.epoch),
      gaths := q.gaths.filter (fun d => ! old d.ctx d.epoch),
      exch := q.exch.filter (fun d => ! old d.ctx d.epoch),
      deps := q.deps.filter (fun d => ! (old d.ctx d.epoch && d.closed)) })
    if 0 < (s.geo ctx).rooted c ∨ 0 < s.levels ctx then
      (s.setReg (cellNode c) ctx 0x5000 0x0C 0).setReg (cellNode c) ctx 0x5000 0x20 0
    else s

/-! ### What is recorded (R240, R243) -/

/-- One more failure event or unkept absence in CTX_STATUS; cause 0 leaves the cause field as it is (R213). -/
def State.ctxFailure (s : State) (c : Coord) (ctx cause : Nat) : State :=
  let v := s.reg (cellNode c) ctx 0x5000 0x23
  s.setReg (cellNode c) ctx 0x5000 0x23
    ((if cause = 0 then bits v 0 8 else cause) + 256 * min (bits v 8 24 + 1) 0xFFFFFF)

/-- An entry of CTX_ABSENT, or a count where the table is full (R243). -/
def State.absent (s : State) (c : Coord) (i : SliceId) (reason : Nat) : State :=
  if 64 ≤ (s.recList (cellNode c) i.ctx 0x5000 0x22).length then s.ctxFailure c i.ctx 0
  else s.pushRec (cellNode c) i.ctx 0x5000 0x22 64 (i.k + 2 ^ 20 * i.epoch + 2 ^ 28 * reason)

/-- The flags that conversions and merges raise at a millstone (R210). -/
def State.millFlags (s : State) (c : Coord) (fl : Nat) : State :=
  s.setReg (cellNode c) 0 0x4070 1 (s.reg (cellNode c) 0 0x4070 1 ||| fl % 32)

/-- Pieces refused by R212. -/
def State.refusePiece (s : State) (c : Coord) (anchors : Bool) : State :=
  let s := s.bump (cellNode c) 0 0x4070 3 1
  if anchors then s.bump (cellNode c) 0 0x4070 4 1 else s

/-! ### Merging at a millstone (R192, R211, R373) -/

/-- The lane that merges block `j` (R211, R344): lane `j` mod 2, or the live one. -/
def State.laneFor (s : State) (c : Coord) (j : Nat) : Nat :=
  let l := s.reg (cellNode c) 0 0x4070 6
  if l = 2 then 1 else if l = 1 then 0 else j % 2

/-- XOR a pattern into an element of a block's result. -/
def xorBlk (a : Spec) (b : Blk) (e pat : Nat) : Blk :=
  let w := if a.packed then a.accBits else if isIntFmt a.fin then fmtBits a.fin else 32
  let v := (ofSigned w (b.vals.getD e 0)) ^^^ (pat % 2 ^ w)
  { b with vals := setAt b.vals e (if a.packed then toSigned w v else (v : Int)) }

/-- Merge one partial into another at a router's millstone; an armed injection goes into the result of its lane (R373), at an
element that the spec does not name. A slice falsified with NO_STRIKE set is noted, so that the MISMATCH it leads to is no strike (log 138). None where
anchors differ. -/
def State.mergeIn (s : State) (c : Coord) (ph : Nat) (i : SliceId) (p q : Part) : Option (Part × State) :=
  let a := s.spec i.ctx
  match p.join a ph q with
  | none => none
  | some z =>
    let s := s.millFlags c z.2
    let both := (List.range a.blocks).filter (fun j => (p.cells.getD j none).isSome && (q.cells.getD j none).isSome)
    some (both.foldl (fun (r : Part × State) j =>
      let x := r.2.takeInject (cellNode c) 6 (s.laneFor c j)
      match x.1, r.1.cells.getD j none with
      | some pat, some b =>
        let e := x.2.fresh
        ({ r.1 with cells := setAt r.1.cells j (some (xorBlk a b.1 (e.1 % 32) pat.1, b.2)) },
          if pat.2 then { e.2 with eng := { e.2.eng with quiet := e.2.eng.quiet ++ [i] } } else e.2)
      | _, _ => (r.1, x.2)) (z.1, s))

/-- Count a piece record merged at a millstone (0x4070.02). -/
def State.merged (s : State) (c : Coord) : State := s.bump (cellNode c) 0 0x4070 2 1

/-! ### A member's records (R109) -/

/-- After a change to the deposits of a command: its taken record when every slice is taken, and its final record when
every slice is finished too (R109). The final record waits for the taken one (log 33). -/
def State.depProgress (s : State) (c : Coord) (tag : Nat) : State :=
  match s.cmd? c tag with
  | none => s
  | some m =>
    if kindOf m.desc ≠ .deposit then s
    else
      let ds := (s.coll c).deps.filter (fun d => d.tag == tag && ! d.closed)
      if ! ds.all Dep.taken then s
      else
        let s := if dTaken m.desc ∧ m.recs = 2 then s.takenRecord c m else s
        let lands := fun (d : Dep) => (s.geo d.ctx).lands c d.k
        if ! ds.all (fun d => d.landed || ! lands d) then s
        else
          let inc := min 127 (ds.filter Dep.inc).length
          let aex := min 127 (ds.filter Dep.aex).length
          let s := s.modColl c (fun q => { q with deps := q.deps.map (fun d =>
            if d.tag = tag then { d with closed := true, raw := none } else d) })
          s.complete c m (if inc + aex = 0 then 0 else 0x0A) 0 (inc + 128 * aex)

/-- Note on a deposit record that no input byte of it is needed any more: it is staged and read, merged, sent or failed, and a
checked slice has its verdict, which a failed contribution waits for too (R109, R343). Where a watch is attached, its record is written
first (R358). -/
def State.noteTaken (s : State) (c : Coord) (i : SliceId) : State :=
  match s.dep? c i with
  | none => s
  | some d =>
    let unseen := ! d.watched && (s.cell c).watches.any (fun w => w.ctx == i.ctx && w.epoch == i.epoch)
    let free := ((d.raw.isSome && d.read && ! unseen) || d.vLeft.isEmpty || d.failed) &&
      (d.verdict || (s.checkRoot i.ctx i.epoch i.k).isNone)
    if free ∧ ! d.taken then (s.modDep c i (fun d => { d with taken := true })).depProgress c d.tag else s

/-- A contribution has failed (R242): its slot is free, and the absence recorded. -/
def State.failDep (s : State) (c : Coord) (i : SliceId) (reason : Nat) : State :=
  ((s.absent c i reason).modDep c i (fun d => { d with failed := true, raw := none, aLeft := [], vLeft := [], cLeft := [] })).noteTaken c i

/-- The bytes of a contribution that has been read: staged, or in cell memory. -/
def State.depBytes (s : State) (c : Coord) (d : Dep) : List Byte :=
  match d.raw with
  | some b => b
  | none => s.memRead c d.addr (sliceBytes (s.spec d.ctx).fin)

/-- Issue the reads of a contribution, unless they are out or in (R119, R233): at rank 1, or at rank 4 to stage it. `pulled` says that it is
pulled for a passing sweep, which PULLS counts (R232). -/
def State.askOwn (s : State) (c : Coord) (i : SliceId) (staged pulled : Bool) : State :=
  match s.dep? c i with
  | none => s
  | some d =>
    if d.read ∨ d.asked.isSome then s
    else
      let s := if pulled then s.bump (cellNode c) 0 0x4080 4 1 else s
      (s.issueRead c d.addr (sliceBytes (s.spec d.ctx).fin) (if staged then .stage d.tag i.k else .pull d.tag i.k)).modDep c i
        (fun d => { d with asked := some s.time })

/-- The anchors a router converts a slice on (R197, R198): declared bytes, or the broadcast ones it keeps; none while they
are not known. -/
def State.anchorsAt (s : State) (c : Coord) (i : SliceId) : Option (List Nat) :=
  let a := s.spec i.ctx
  if ! a.anchored then some (List.replicate a.blocks 0)
  else if a.measured then ((s.coll c).anchors.find? (fun e => e.id == i)).map AnchEnt.bytes
  else match s.dep? c i with
    | some d => some (if a.table then d.decl else List.replicate a.blocks a.decl)
    | none => some (List.replicate a.blocks a.decl)

/-- Blocks of a contribution not yet merged into a computation. -/
def Dep.left (d : Dep) (ph : Nat) : List Nat := if ph = 0 then d.aLeft else if ph = 1 then d.vLeft else d.cLeft

/-- Take blocks of a contribution out of a computation's list. One that is in no slot is read again for the next computation (R229). -/
def Dep.minus (d : Dep) (ph : Nat) (js : List Nat) : Dep :=
  let f := fun (l : List Nat) => l.filter (fun j => ! js.contains j)
  let d := if ph = 0 then { d with aLeft := f d.aLeft }
    else if ph = 1 then { d with vLeft := f d.vLeft, sent := true, raw := if (f d.vLeft).isEmpty then none else d.raw }
    else { d with cLeft := f d.cLeft, sent := true }
  if d.raw.isNone ∧ (d.left ph).isEmpty then { d with asked := none, read := false } else d

/-- SUM of squares and counts of a contribution for its watch record (R357), as 32 bytes. -/
def watchRecord (fmt k epoch ctx : Nat) (raw : List Byte) : List Byte :=
  let n := sliceBlocks fmt
  if isIntFmt fmt then
    let w := fmtBits fmt
    let ms := ((List.range n).flatMap (blockRaw fmt raw)).map (fun x => (toSigned w x).natAbs)
    let big := ms.foldl max 0
    let es : Int := if big = 0 then 0 else 2 * (Nat.log2 big : Int) + 1
    let sq := (ms.filter (· != 0)).map (fun m => roundShift (m * m) (44 - es))
    leBytes 32 (pack [(0, 20, k), (20, 8, epoch), (28, 12, ctx), (40, 5, fmt), (45, 1, b2n (sq.any Prod.snd)),
      (64, 16, (ms.filter (· != 0)).length), (128, 32, big),
      (160, 64, if big = 0 then 0 else sq.foldl (fun a r => a + r.1) 0),
      (224, 16, if big = 0 then 0 else ofSigned 16 (es - 44))])
  else
    let vs := (List.range n).flatMap (blockVals fmt raw)
    let fins := vs.filterMap (fun v => match v.1 with | .fin _ m e => if m = 0 then none else some (m, e) | _ => none)
    let big := fins.foldl (fun (b : Option (Nat × Int)) x => match b with
      | none => some x
      | some y =>
        let lo := min x.2 y.2
        if y.1 * 2 ^ (y.2 - lo).toNat < x.1 * 2 ^ (x.2 - lo).toNat then some x else b) none
    let nans := (vs.filter (fun v => decide (v.1 = .nan))).length
    let infs := (vs.filter (fun v => match v.1 with | .inf _ => true | _ => false)).length
    match big with
    | none => leBytes 32 (pack [(0, 20, k), (20, 8, epoch), (28, 12, ctx), (40, 5, fmt), (80, 16, nans), (96, 16, infs)])
    | some b =>
      let es : Int := 2 * valExp b.1 b.2 + 1
      let sq := fins.map (fun x => roundShift (x.1 * x.1) (2 * x.2 + 44 - es))
      leBytes 32 (pack [(0, 20, k), (20, 8, epoch), (28, 12, ctx), (40, 5, fmt), (45, 1, b2n (sq.any Prod.snd)),
        (64, 16, fins.length), (80, 16, nans), (96, 16, infs), (128, 32, toFp32 (.fin false b.1 b.2)),
        (160, 64, sq.foldl (fun a r => a + r.1) 0), (224, 16, ofSigned 16 (es - 44))])

/-- The watch records of a contribution's first conversion (R358). -/
def State.watchDep (s : State) (c : Coord) (i : SliceId) (raw : List Byte) : State :=
  match s.dep? c i with
  | none => s
  | some d =>
    let ws := (s.cell c).watches.filter (fun w => w.ctx == i.ctx && w.epoch == i.epoch)
    if d.watched then s
    else
      let s := s.modDep c i (fun d => { d with watched := true })
      ws.foldl (fun s w =>
        (s.memWriteAs c 4 (w.waddr + 32 * i.k) (watchRecord (s.spec i.ctx).fin i.k i.epoch i.ctx raw)).bump (cellNode c) 0 0x8040 2 1) s

/-- The contribution of the given blocks of a member in a computation, from its bytes, with COUNT 1 (R190, R197); none while its anchors are
not known. The blocks leave the computation's list. -/
def State.takeBytes (s : State) (c : Coord) (ph : Nat) (i : SliceId) (js : List Nat) (raw : List Byte) : Option Part × State :=
  let a := s.spec i.ctx
  match ph, s.anchorsAt c i with
  | _ + 1, none => (none, s)
  | _, known =>
    let anch := known.getD []
    let own := fun j => if ph = 0 then ((⟨measureAnchor (blockVals a.fin raw j), [], []⟩ : Blk), 0)
      else ownBlk a raw (nth anch j 0) j
    let part : Part := ⟨(List.range a.blocks).map (fun j => if js.contains j then some ((own j).1, 1) else none),
      js.foldl (fun f j => f ||| (own j).2) 0⟩
    let s := if ph = 0 then s
      else
        let s := s.bump (cellNode c) 0 0x4070 5 (js.foldl (fun n j => n + saturations a raw (nth anch j 0) j) 0)
        (s.millFlags c part.flags).watchDep c i raw
    (some part, (s.modDep c i (fun d => d.minus ph js)).noteTaken c i)

/-- The contribution of the given blocks of a member in a computation; none while it has not been read. -/
def State.takeOwn (s : State) (c : Coord) (ph : Nat) (i : SliceId) (js : List Nat) : Option Part × State :=
  match s.dep? c i with
  | some d => if d.read then s.takeBytes c ph i js (s.depBytes c d) else (none, s)
  | none => (none, s)

/-! ### Where a member stands for a slice -/

/-- A member's contribution to a computation at its router: `pending`; `absent` with none deposited; `stall` while its
anchors are not known; `unread` while its bytes have not come from cell memory; `reset` with its cell in reset; `isOver` for nothing (more)
to merge. -/
inductive OwnSt where
  | pending | absent | stall | unread | reset | isOver
  deriving DecidableEq, Repr

/-- Is there a contribution to wait for? -/
def OwnSt.lacks : OwnSt → Bool
  | .absent | .stall | .unread => true
  | _ => false

/-- Does the owed table name the slice (R236)? The check reduction shares the value reduction's entry (R343). -/
def State.isOwed (s : State) (c : Coord) (ph : Nat) (i : SliceId) : Bool :=
  (s.coll c).owed.any (fun o => o.ph == min ph 1 && o.ctx == i.ctx && o.epoch == i.epoch && decide (o.k ≤ i.k) &&
    decide (i.k < o.k + o.n))

/-- Where the member at a router stands for a slice in a computation (R223, R235). -/
def State.ownState (s : State) (c : Coord) (ph : Nat) (i : SliceId) : OwnSt :=
  if ! (s.geo i.ctx).member c ∨ s.isHole c then .isOver
  else if s.isOwed c ph i then .isOver
  else match s.dep? c i with
    | some d =>
      if (d.left ph).isEmpty ∨ d.late then .isOver
      else if ph ≠ 0 ∧ (s.anchorsAt c i).isNone then .stall
      else if d.read then .pending
      else .unread
    | none =>
      if (s.coll c).deps.any (fun d => d.ctx == i.ctx && d.epoch == i.epoch && d.k == i.k) then .isOver
      else if (s.cell c).inReset then .reset else .absent

/-- Owe a member for a slice (R236): consecutive slices share an entry, and the oldest of 256 goes when the table is
full. -/
def State.owe (s : State) (c : Coord) (ph : Nat) (i : SliceId) : State :=
  let p := min ph 1
  let q := s.coll c
  let s := s.bump (cellNode c) 0 0x4080 7 1
  match q.owed.find? (fun o => o.ph == p && o.ctx == i.ctx && o.epoch == i.epoch && o.k + o.n == i.k) with
  | some o => s.modColl c (fun q => { q with owed := q.owed.map (fun x => if x = o then { x with n := x.n + 1 } else x) })
  | none =>
    let s := if 256 ≤ q.owed.length then s.bump (cellNode c) 0 0x4080 7 1 else s
    s.modColl c (fun q => { q with owed := q.owed.drop (q.owed.length - 255) ++ [⟨p, i.ctx, i.epoch, i.k, 1, s.time⟩] })

/-! ### Emission (R33, R195, R228) -/

/-- TYPE of a sweep packet of a computation. -/
def sweepType (ph : Nat) : Nat := if ph = 0 then 0x20 else if ph = 1 then 0x21 else 0x24

/-- FMT of a computation's packets. -/
def Spec.fmtOf (a : Spec) (ph : Nat) : Nat := if ph = 0 then a.fin else a.wire

/-- Send a Collective packet, a LATE counted in LATES_SENT (R232). -/
def State.sendColl (s : State) (c : Coord) (late : Bool) (pk : Packet) : State :=
  (if late then s.bump (cellNode c) 0 0x4080 8 1 else s).sendPkt c pk false

/-- Send a partial as packets from a router, `late` as LATE; while the slices of one packet are handled, with the others that leave then
(R228). -/
def State.sendLate (s : State) (c : Coord) (late : Bool) (h : CollHdr) (fmt k : Nat) (p : Part) : State :=
  match (s.coll c).outq with
  | some l => s.modColl c (fun q => { q with outq := some (l ++ [⟨h, fmt, k, p, late⟩]) })
  | none => (partPackets h fmt k p).foldl (fun s pk => s.sendColl c late pk) s

/-- Send a partial that is no LATE. -/
def State.sendPart (s : State) (c : Coord) (h : CollHdr) (fmt k : Nat) (p : Part) : State := s.sendLate c false h fmt k p

/-- Handle the slices of one packet: what leaves with equal headers, formats and counts leaves in common packets (R228). -/
def State.together (s : State) (c : Coord) (f : State → State) : State :=
  let s := f (s.modColl c (fun q => { q with outq := some [] }))
  let l := ((s.coll c).outq).getD []
  (outPackets l).foldl (fun s x => s.sendColl c x.1 x.2) (s.modColl c (fun q => { q with outq := none }))

/-- The pond of a cell as a DEST (TGT 3). -/
def State.pondAddr (s : State) (d : Coord) : Addr := ⟨s.engine, d.x, d.y, 3⟩

/-- Send a partial on along its sweep arc: phase 0 toward the gathering router, 1 toward the root. -/
def State.sweepOn (s : State) (c : Coord) (ph : Nat) (i : SliceId) (p : Part) (src : SrcAddr) (tag phase : Nat) : State :=
  match s.rootFor ph i.ctx i.epoch i.k with
  | none => s
  | some r =>
    if p.isEmpty then s
    else
      let d : Coord := if phase = 0 then ⟨r.x, c.y⟩ else r
      s.sendPart c ⟨sweepType ph, s.pondAddr d, src, tag, i.ctx, i.epoch, 0, phase, false⟩ ((s.spec i.ctx).fmtOf ph) i.k p

/-- Send a partial straight to the root of its computation (R233 rung 3, R237): LATE, or with PASS = 1. A LATE of the
anchor pass or the check reduction travels with PASS = 1 too (log 31). -/
def State.toRoot (s : State) (c : Coord) (ph : Nat) (i : SliceId) (p : Part) (src : SrcAddr) (tag : Nat) (late : Bool)
    (fmt : Nat) : State :=
  match s.rootFor ph i.ctx i.epoch i.k with
  | none => s
  | some r =>
    if p.isEmpty then s
    else
      let s := if late then s else s.bump (cellNode c) 0 0x4080 5 1
      let typ := if ph = 1 ∧ late then 0x22 else sweepType ph
      s.sendLate c late ⟨typ, s.pondAddr r, src, tag, i.ctx, i.epoch, 0, 1, ! (late && decide (ph = 1))⟩ fmt i.k p

/-- Send what is left of a contribution to the anchor pass as LATE (R229, R237). -/
def State.lateAnchors (s : State) (c : Coord) (i : SliceId) (d : Dep) (raw : List Byte) : State :=
  if d.aLeft.isEmpty ∨ (s.anchorsAt c i).isSome then s.modDep c i (fun d => { d with aLeft := [] })
  else
    let r := s.takeBytes c 0 i d.aLeft raw
    match r.1 with
    | some p => r.2.toRoot c 0 i p (s.srcOf c 0) d.tag true (s.spec i.ctx).fin
    | none => r.2

/-- Send a member's contribution as LATE with COUNT 1 (R237, R238, R242): what is left of it, to the root of each computation; unconverted
where its anchors are not known. One that has not been read is read first. -/
def State.lateOwn (s : State) (c : Coord) (i : SliceId) : State :=
  match s.dep? c i with
  | none => s
  | some d =>
    if ! d.read then (s.askOwn c i false false).modDep c i (fun d => { d with late := true })
    else
      let a := s.spec i.ctx
      let raw := s.depBytes c d
      [1, 2].foldl (fun s ph =>
        match s.dep? c i with
        | none => s
        | some d =>
          if (d.left ph).isEmpty then s
          else if (s.anchorsAt c i).isSome then
            let r := s.takeBytes c ph i (d.left ph) raw
            match r.1 with
            | some p => r.2.toRoot c ph i p (s.srcOf c 0) d.tag true a.wire
            | none => r.2
          else
            let p : Part := ⟨(List.range a.blocks).map (fun j => some (rawBlk a.fin raw j, 1)), 0⟩
            let s := (s.watchDep c i raw).toRoot c ph i p (s.srcOf c 0) d.tag true a.fin
            (s.modDep c i (fun d => d.minus ph (d.left ph))).noteTaken c i) (s.lateAnchors c i d raw)

/-! ### Completion (R225, R226, R239, R244) -/

/-- A completed slice's result leaves its root by the table *Patterns* (R244): one RESULT packet, poison for UNRESOLVED
(R346). -/
def State.sendResult (s : State) (c : Coord) (i : SliceId) (fmt n : Nat) (bs : List Blk) (flags : Nat) (poison : Bool) : State :=
  let g := s.geo i.ctx
  let d := if g.pattern = 0 then g.root else c
  let h : CollHdr := ⟨0x23, s.pondAddr d, s.srcOf c 0, 0, i.ctx, i.epoch, 0, 0, false⟩
  s.sendPkt c { piecePacket h fmt n ⟨i.k, 0, bs, flags⟩ with poison := poison } false

/-- What completing a slice records at its root (R210, R239). -/
def State.noteDone (s : State) (c : Coord) (i : SliceId) (flags : Nat) (inc : Bool) (missing : Nat) : State :=
  let n := cellNode c
  let w := s.reg n i.ctx 0x5000 0x0C
  let aex := if flags / 16 % 2 = 1 then min (bits w 16 16 + 1) 0xFFFF else bits w 16 16
  let s := s.setReg n i.ctx 0x5000 0x0C ((bits w 0 16 ||| flags % 32) + 2 ^ 16 * aex)
  if inc then (s.bump n i.ctx 0x5000 0x20 1).pushRec n i.ctx 0x5000 0x21 64 (i.k + 2 ^ 20 * i.epoch + 2 ^ 28 * missing)
  else s

/-- The anchor E of block `j` of a completed partial: its own, or that of the slice where nothing was merged. -/
def State.anchorOf (s : State) (c : Coord) (i : SliceId) (p : Part) (j : Nat) : Int :=
  match p.cells.getD j none with
  | some x => anchorExp x.1.a
  | none => match s.anchorsAt c i with
    | some l => anchorExp (nth l j 0)
    | none => -126

/-- Convert and emit a completed slice (R205, R225); with a level map its partial goes to the level-1 station (R258). -/
def State.emitSlice (s : State) (c : Coord) (i : SliceId) (p : Part) : State :=
  let a := s.spec i.ctx
  let n := (s.geo i.ctx).n
  let inc := decide (p.flags / 32 % 2 = 1)
  if s.levels i.ctx ≠ 0 then
    let s := s.noteDone c i p.flags inc (n - p.count)
    match if s.levelMember i.ctx 1 i.k then s.station i.ctx 1 i.k else none with
    | some (_, d) =>
      -- a block nothing was merged into holds zeros on the slice's anchors
      let full : Part := ⟨(List.range a.blocks).map (fun j => match p.cells.getD j none with
        | some x => some (x.1, p.count)
        | none => some ({ p.blk j with a := (match s.anchorsAt c i with | some l => nth l j 0 | none => 0) }, p.count)), p.flags⟩
      s.sendPart c ⟨0x21, ⟨s.engine, d.x, d.y, 2⟩, s.srcOf c 0, 0, i.ctx, i.epoch, 0, 0, false⟩ a.wire i.k full
    | none => s
  else
    let rs := (List.range a.blocks).map (fun j => outBlk a (s.anchorOf c i p j) a.window (p.blk j))
    let raised := rs.foldl (fun f r => f ||| r.2) 0
    let flags := p.flags ||| raised
    let s := (s.millFlags c raised).noteDone c i flags inc (n - p.count)
    s.sendResult c i a.fout p.count (rs.map Prod.fst) flags false

/-- Broadcast the anchors of a slice from its root (R226, R229), or the system anchors that descended (R264). -/
def State.spreadAnchors (s : State) (c : Coord) (i : SliceId) (bytes : List Nat) (n flags : Nat) : State :=
  let h : CollHdr := ⟨0x20, s.pondAddr c, s.srcOf c 0, 0, i.ctx, i.epoch, 0, 0, false⟩
  let s := s.modColl c (fun q => { q with anchors := q.anchors.filter (fun e => e.id != i) ++ [⟨i, bytes⟩] })
  s.sendPkt c (piecePacket h (s.spec i.ctx).fin n ⟨i.k, 0, bytes.map (fun b => ⟨b, [], []⟩), flags⟩) false

/-- Strip a slice's capture from the check hold's view: the first free hold record of a router (R345). -/
def State.freeHold (s : State) (c : Coord) (ctx : Nat) : Option Nat :=
  match s.arm? ctx with
  | none => none
  | some m => (List.range m.holdRecs).find? (fun r => ! (s.coll c).holds.any (fun h => h.recNo == r))

/-- The record of a root's slice, with the state fields of its slot and the fabric time at which its lease ends (R234). -/
def State.slotRecord (s : State) (c : Coord) (w : PSlot) (p : Part) : List Byte :=
  let state := pack [(0, 3, 3), (3, 12, w.ctx), (15, 8, w.epoch), (23, 20, w.k), (43, 20, p.count), (63, 1, b2n w.own),
    (64, 2, w.halves), (66, 3, w.share)]
  partRecord (s.spec w.ctx) state (s.ft (s.fieldOf c) + (w.expiry - s.time)) p

/-- The first step of R345: a checked slice that completes normally goes to the check hold; any other is emitted. -/
def State.holdOrEmit (s : State) (c : Coord) (w : PSlot) (p : Part) : State :=
  let i := w.id
  let n := cellNode c
  if ! s.selected i.ctx i.epoch i.k then s.emitSlice c i p
  else
    let s := s.bump n 0 0x8020 1 1
    match s.checkRoot i.ctx i.epoch i.k, s.freeHold c i.ctx, s.arm? i.ctx with
    | some _, some r, some m =>
      if p.flags / 32 % 2 = 1 then (s.bump n 0 0x8020 3 1).emitSlice c i p
      else
        let s := s.memWrite c (m.holdAddr + 2304 * r) (s.slotRecord c w p)
        let due := s.time + us m.checkWait
        s.modColl c (fun q => { q with holds := q.holds ++ [⟨i, r, false, due, emptyPart (s.spec i.ctx).blocks, emptyPart (s.spec i.ctx).blocks, none⟩] })
    | _, _, _ => (s.bump n 0 0x8020 3 1).emitSlice c i p

/-- A whole partial leaves a check root or a third millstone for the primary root (R342, R347). -/
def State.toPrimary (s : State) (c : Coord) (i : SliceId) (p : Part) : State :=
  let a := s.spec i.ctx
  let full : Part := ⟨(List.range a.blocks).map (fun j => some (p.blk j, p.count)), p.flags⟩
  s.sendPart c ⟨0x24, s.pondAddr ((s.geo i.ctx).rootOf i.k), s.srcOf c 0, 0, i.ctx, i.epoch, 0, 1, true⟩ a.wire i.k full

/-- A slice completes at the root of a computation (R229, R239, R342, R347), as its slot held it. `inc`: by its lease. -/
def State.finishRoot (s : State) (c : Coord) (w : PSlot) (inc : Bool) : State :=
  let ph := w.ph
  let i := w.id
  let p := if inc then { w.part with flags := w.part.flags ||| 32 } else w.part
  let s := s.modColl c (fun q => { q with done := q.done ++ [(ph, i)] })
  match ph with
  | 0 =>
    let bytes := (List.range (s.spec i.ctx).blocks).map (fun j => (p.blk j).a)
    let s := s.spreadAnchors c i bytes p.count 0
    if s.levels i.ctx ≠ 0 then
      match s.station i.ctx 1 i.k with
      | some (_, d) =>
        s.sendPart c ⟨0x20, ⟨s.engine, d.x, d.y, 2⟩, s.srcOf c 0, 0, i.ctx, i.epoch, 1, 0, false⟩ (s.spec i.ctx).fin i.k
          ⟨bytes.map (fun b => some (⟨b, [], []⟩, 1)), 0⟩
      | none => s
    else s
  | 1 => s.holdOrEmit c w p
  | 2 => (s.bump (cellNode c) 0 0x8020 7 1).toPrimary c i p
  | _ => (s.bump (cellNode c) 0 0x8020 8 1).toPrimary c i p

/-! ### Roots and spill records (R225, R234, R239, R240) -/

/-- The place of spill record `r` of a context. -/
def State.spillAddr (s : State) (ctx r : Nat) : Nat := s.ctx ctx 0x18 + 2304 * r

/-- Write a spilled slice into its record (R234). -/
def State.spillWrite (s : State) (c : Coord) (w : PSlot) (p : Part) (r : Nat) : State :=
  s.memWrite c (s.spillAddr w.ctx r) (s.slotRecord c w p)

/-- Read a spilled slice's record back; none where its CRC fails or the read is bad (R234). -/
def State.spillRead (s : State) (c : Coord) (ctx r : Nat) : Option Part × State :=
  let a := s.spillAddr ctx r
  let s := s.issueRead c a 2304 .held
  (if s.memBad c a 2304 then none else readRecord (s.spec ctx) (s.memRead c a 2304), s)

/-- The counts of a partial alone, without its blocks: the record of a spilled slice holds one COUNT for all of them (R234). -/
def Part.counts (p : Part) : Part := { p with cells := p.cells.map (fun x => x.map (fun y => (⟨0, [], []⟩, y.2))) }

/-- A record's partial with the counts of its blocks; a block that nothing has been merged into is none. -/
def Part.recount (p q : Part) : Part :=
  { p with cells := (List.range q.cells.length).map (fun j => (q.cells.getD j none).map (fun y => (p.blk j, y.2))) }

/-- A root's slice whose record failed its check: its contents are gone and its record is free, and its lease runs on (R234, R239, R242);
what arrives later merges into the slice afresh (DEDUCED, log 137). -/
def State.loseRoot (s : State) (c : Coord) (w : PSlot) : State :=
  s.putSlot c w { w with kind := .lost, spill := none, part := emptyPart (s.spec w.ctx).blocks, own := false }

/-- What a root's slot or record holds, as a slot: a record that fails its check is freed with its contents (R234). -/
def State.rootSlot (s : State) (c : Coord) (ph : Nat) (i : SliceId) : Option PSlot × State :=
  match s.slot? c ph i [.root] with
  | none => (none, s)
  | some w => match w.spill with
    | none => (some w, s)
    | some r =>
      let x := s.spillRead c i.ctx r
      match x.1 with
      | some p => (some { w with part := p.recount w.part }, x.2)
      | none => (none, x.2.loseRoot c w)

/-- Keep a root's slice in its slot or record. `old` is the slot as listed. -/
def State.keepRoot (s : State) (c : Coord) (old new : PSlot) : State :=
  match new.spill with
  | none => s.putSlot c old new
  | some r => (s.spillWrite c new new.part r).putSlot c old { new with part := new.part.counts }

/-- NACK LEASE for a Collective packet refused at its root (R240). -/
def State.collNack (s : State) (c : Coord) (p : Packet) : State :=
  (s.sendSig c (.nack ⟨8, p.tag, p.src, s.srcOf c 0, p.typ, 0, 0, 0⟩)).countEvent c 9 0 0 1

/-- A free spill record of a context at its root. -/
def State.freeSpill (s : State) (c : Coord) (ctx : Nat) : Option Nat :=
  (List.range (s.ctx ctx 0x19)).find? (fun r => ! (s.coll c).slots.any (fun w => w.ctx == ctx && w.spill == some r))

/-- Merge the root's own contribution into its slice, where it is a member with one pending (R225). -/
def State.rootOwn (s : State) (c : Coord) (ph : Nat) (i : SliceId) : State :=
  if ph = 3 then s
  else if s.ownState c ph i = .unread then s.askOwn c i false false
  else if s.ownState c ph i ≠ .pending then s
  else match s.slot? c ph i [.root], s.dep? c i with
    | some old, some d =>
      let x := s.rootSlot c ph i
      match x.1 with
      | none => x.2
      | some w =>
        let r := x.2.takeOwn c ph i (d.left ph)
        match r.1 with
        | none => r.2
        | some p => match r.2.mergeIn c ph i w.part p with
          | some z => z.2.keepRoot c old { w with part := z.1, own := true }
          | none => (r.2.refusePiece c true).absent c i 4
    | _, _ => s

/-- Complete a root's slice when its count has reached N (R239). -/
def State.rootCheck (s : State) (c : Coord) (ph : Nat) (i : SliceId) : State :=
  match s.slot? c ph i [.root] with
  | none => s
  | some old =>
    let x := s.rootSlot c ph i
    match x.1 with
    | none => x.2
    | some w =>
      if w.part.count = (s.geo i.ctx).n ∧ w.part.cells.all Option.isSome then
        (x.2.dropSlot c old).finishRoot c w false
      else x.2

/-- Open a root's slice with its first arrival: a ROOT slot, or a spill record (R230, R233 rung 4), which a check root and a third millstone
do not have (R342, R347). None where neither is free: the arrival waits in its lane. A slice whose record was lost keeps its lease. -/
def State.openRoot (s : State) (c : Coord) (ph : Nat) (i : SliceId) (src : SrcAddr) : Option State :=
  let a := s.spec i.ctx
  let life := if ph = 0 then s.ctxOrphan i.ctx else s.ctxLease i.ctx
  let old := s.slot? c ph i [.lost]
  let w : PSlot := ⟨ph, i.ctx, i.epoch, i.k, s.ctx i.ctx 0x11, .root, emptyPart a.blocks, false, 0, false, src, 0, 0,
    s.time, (old.map PSlot.expiry).getD (s.time + life), none⟩
  let bare := match old with
    | some o => s.dropSlot c o
    | none => s
  if s.canTake c i.ctx false then some (bare.addSlot c w)
  else match (if 2 ≤ ph then none else s.freeSpill c i.ctx) with
    | some r =>
      let w := { w with spill := some r }
      some (((bare.bump (cellNode c) 0 0x4080 6 1).addSlot c w).spillWrite c w (emptyPart a.blocks) r)
    | none => none

/-- An arrival at the root of a computation (R225, R240), where HALVES counts the column halves (log 103): refused after completion or past N, merged otherwise. None where
it must wait in its lane. -/
def State.rootMerge (s : State) (c : Coord) (ph : Nat) (i : SliceId) (q : Part) (p : Packet) : Option State :=
  let s := s.beginEpoch c i.ctx i.epoch
  if (s.coll c).done.contains (ph, i) then
    let s := if ph = 3 then s else s.bump (cellNode c) 0 0x4080 9 1
    some (if ph = 0 ∨ ph = 3 then s else s.collNack c p)
  else
    let opened := match s.slot? c ph i [.root] with
      | some _ => some s
      | none => (s.openRoot c ph i p.src).map (fun (s : State) => s.rootOwn c ph i)
    match opened with
    | none => none
    | some s =>
      let x := s.rootSlot c ph i
      let again := match x.1 with
        | some _ => some x.2
        | none => x.2.openRoot c ph i p.src
      match again with
      | none => none
      | some s => match (s.rootSlot c ph i).1, s.slot? c ph i [.root] with
        | some w, some old =>
          if w.part.overflows q (s.geo i.ctx).n then some (s.ctxFailure c i.ctx 2)
          else match s.mergeIn c ph i w.part q with
            | none => some (s.refusePiece c true)
            | some z =>
              let half := isSweep p && decide ((collTail p).phase = 1) && (q.cells.getLastD none).isSome
              let s := (z.2.merged c).keepRoot c old { w with part := z.1, halves := min 3 (w.halves + b2n half) }
              some (s.rootCheck c ph i)
        | _, _ => some s

/-- The part that a piece carries at a root: converted where it arrived in its input format (R237). None while the
slice's anchors are not known. -/
def State.pieceAt (s : State) (c : Coord) (ph : Nat) (i : SliceId) (fmt n : Nat) (pc : Piece) : Option (Part × State) :=
  let a := s.spec i.ctx
  let q := pc.part a n
  if ph = 0 ∨ fmt = a.wire then some (q, s)
  else match s.anchorsAt c i with
    | none => none
    | some anch =>
      let conv := fun (j : Nat) (b : Blk) =>
        let bytes := sliceOf a.fin [b]
        let raw := if isMx a.fin then padTo 16 (bytes.take 1) ++ bytes.drop 1 else bytes
        let r := ownBlk a raw (nth anch j 0) 0
        (r.1, r.2, saturations a raw (nth anch j 0) 0)
      let cells := (List.range a.blocks).map (fun j => match q.cells.getD j none with
        | some x => let r := conv j x.1; (some (r.1, x.2), r.2.1, r.2.2)
        | none => (none, 0, 0))
      let fl := cells.foldl (fun f x => f ||| x.2.1) 0
      let s := (s.millFlags c fl).bump (cellNode c) 0 0x4070 5 (cells.foldl (fun k x => k + x.2.2) 0)
      some (⟨cells.map Prod.fst, q.flags ||| fl⟩, s)

/-! ### Sweeps at members and gathering routers (R222 to R224, R235) -/

/-- What a gathering router knows of a slice's row. -/
def State.gath (s : State) (c : Coord) (ph : Nat) (i : SliceId) : Gath :=
  ((s.coll c).gaths.find? (fun g => g.ph == ph && g.ctx == i.ctx && g.epoch == i.epoch && g.k == i.k)).getD
    ⟨ph, i.ctx, i.epoch, i.k, 0, false, 0⟩

/-- Set what a gathering router knows of a slice's row. -/
def State.setGath (s : State) (c : Coord) (x : Gath) : State :=
  s.modColl c (fun q => { q with gaths := q.gaths.filter (fun g =>
    ! (g.ph == x.ph && g.ctx == x.ctx && g.epoch == x.epoch && g.k == x.k)) ++ [x] })

/-- Is a router the gathering router of its row for a root (R221)? -/
def isGather (c root : Coord) (g : Geo) : Bool := decide (c.x = root.x) && decide (c ≠ root) && g.rows.contains c.y

/-- Merge a pending contribution into a partial that is here: the blocks the partial carries (`whole` false), or all that
is left. None where the anchors differ: the arriving partial is dropped and the contribution sent as LATE (R242). -/
def State.mergeOwn (s : State) (c : Coord) (ph : Nat) (i : SliceId) (p : Part) (whole : Bool) : Option Part × State :=
  match s.dep? c i with
  | none => (some p, s)
  | some d =>
    let js := (d.left ph).filter (fun j => whole || (p.cells.getD j none).isSome)
    if js.isEmpty then (some p, s)
    else
      -- the anchors the arriving partial must carry
      let bad := ph ≠ 0 ∧ (s.spec i.ctx).anchored ∧ js.any (fun j => match p.cells.getD j none, s.anchorsAt c i with
        | some x, some l => x.1.a != nth l j 0
        | _, _ => false)
      if bad then (none, (s.refusePiece c true).lateOwn c i)
      else
        let r := s.takeOwn c ph i js
        match r.1 with
        | none => (some p, r.2)
        | some q => match r.2.mergeIn c ph i p q with
          | some z => (some z.1, z.2)
          | none => (none, r.2.refusePiece c true)

/-- What a half joins as it comes to a router: a column half takes the held row partial at a gathering router (R224). -/
def State.passJoin (s : State) (c : Coord) (w : PSlot) (gather : Bool) : Option PSlot × State :=
  match if gather then s.slot? c w.ph w.id [.row] else none with
  | none => (some w, s)
  | some row =>
    let s := s.dropSlot c row
    match s.mergeIn c w.ph w.id row.part w.part with
    | some z => (some { w with part := z.1, joined := true }, z.2.merged c)
    | none => (some { w with part := row.part, joined := true }, s.refusePiece c true)

/-- The half takes the member's contribution; it is held while the contribution or the row halves are missing, the wait budget runs
and a slot can be had; else the member is owed and the half goes on (R223, R224, R235, R236). -/
def State.passOn (s : State) (c : Coord) (w : PSlot) (isOver gather : Bool) (root : Coord) : State :=
  let i := w.id
  let g := s.geo w.ctx
  let own := s.ownState c w.ph i
  let s := if own = .unread then s.askOwn c i false true else s
  let took := decide (own = .pending) && (match s.dep? c i with
    | some d => (d.left w.ph).any (fun j => (w.joined && gather) || (w.part.cells.getD j none).isSome)
    | none => false)
  let s := if took then s.merged c else s
  let mw := if own = .pending then s.mergeOwn c w.ph i w.part (w.joined && gather) else (some w.part, s)
  match mw.1 with
  | none => if gather then mw.2.setGath c { mw.2.gath c w.ph i with passed := true } else mw.2
  | some part =>
    let s := mw.2
    let w := { w with part := part }
    let rowsWait := gather && ! w.joined && decide ((s.gath c w.ph i).halves < g.rowHalves c.y root.x)
    let lacks := own.lacks
    let budget := s.ctxWait w.ctx
    if (lacks || rowsWait) && ! isOver && (budget != 0) && (w.wait != 0 || s.canTake c w.ctx false) then
      let end_ := if w.wait = 0 then s.time + budget else w.wait
      s.addSlot c { w with wait := end_, expiry := end_ }
    else
      let s := if lacks || decide (own = .reset) then s.owe c w.ph i else s
      let s := if own = .stall then s.lateOwn c i else s
      let s := if gather then s.setGath c { s.gath c w.ph i with passed := true } else s
      s.sweepOn c w.ph i w.part w.src w.tag (if w.kind = .col then 1 else 0)

/-- A half at a member or gathering router, held in no slot at this moment (R223, R224, R235, R236): it takes the held row
partial and the member's contribution; it is held while the contribution or the row halves are missing, the wait budget
runs and a slot can be had; and it goes on. `over`: the wait budget has ended. -/
def State.passHalf (s : State) (c : Coord) (w : PSlot) (isOver : Bool) : State :=
  match s.rootFor w.ph w.ctx w.epoch w.k with
  | none => s
  | some root =>
    let gather := decide (w.kind = .col) && isGather c root (s.geo w.ctx)
    let jw := s.passJoin c w gather
    match jw.1 with
    | none => jw.2
    | some w => jw.2.passOn c w isOver gather root

/-- A row partial at its gathering router may be waiting for its own member's deposit: its wait budget starts when both
row halves are accounted (R224). -/
def State.rowWaits (s : State) (c : Coord) (ph : Nat) (i : SliceId) (root : Coord) : State :=
  match s.slot? c ph i [.row] with
  | some w =>
    let own := s.ownState c ph i
    if own = .reset then s.owe c ph i
    else if w.wait = 0 ∧ (own = .absent ∨ own = .unread) ∧ (s.geo i.ctx).rowHalves c.y root.x ≤ (s.gath c ph i).halves then
      s.putSlot c w { w with wait := s.time + s.ctxWait i.ctx }
    else s
  | none => s

/-- The member's contribution goes into a held row partial (R224); a partial that it is refused by is dropped (R242). -/
def State.rowOwn (s : State) (c : Coord) (ph : Nat) (i : SliceId) : State :=
  match s.slot? c ph i [.row] with
  | some w =>
    if s.ownState c ph i = .unread then s.askOwn c i false true
    else if s.ownState c ph i = .pending then
      let r := s.mergeOwn c ph i w.part true
      match r.1 with
      | some p => r.2.putSlot c w { w with part := p, own := true, wait := 0 }
      | none => r.2.dropSlot c w
    else s
  | none => s

/-- A row half reaches its gathering router (R224, R233 rung 3). -/
def State.rowArrive (s : State) (c : Coord) (ph : Nat) (i : SliceId) (q : Part) (p : Packet) (root : Coord) : State :=
  let a := s.spec i.ctx
  let last := (q.cells.getLastD none).isSome
  let x := s.gath c ph i
  if x.passed then s.toRoot c ph i q p.src p.tag true (a.fmtOf ph)
  else
    let s := s.setGath c { x with halves := x.halves + b2n last, first := if x.first = 0 then s.time else x.first }
    match s.slot? c ph i [.col] with
    | some w =>
      let s := s.dropSlot c w
      match s.mergeIn c ph i w.part q with
      | some z => (z.2.merged c).passHalf c { w with part := z.1 } false
      | none => (s.refusePiece c true).passHalf c w false
    | none =>
      let s := match s.slot? c ph i [.row] with
        | some w => match s.mergeIn c ph i w.part q with
          | some z => (z.2.merged c).putSlot c w { w with part := z.1, halves := w.halves + b2n last }
          | none => s.refusePiece c true
        | none =>
          if s.canTake c i.ctx false then
            let w : PSlot := ⟨ph, i.ctx, i.epoch, i.k, s.ctx i.ctx 0x11, .row, q, false, b2n last, false, p.src, p.tag, 0,
              s.time, s.time + s.ctxOrphan i.ctx, none⟩
            s.addSlot c w
          else s.toRoot c ph i q p.src p.tag false (a.fmtOf ph)
      (s.rowOwn c ph i).rowWaits c ph i root

/-- Handle one piece of a sweep packet at a router that is not its root. -/
def State.sweepPiece (s : State) (c : Coord) (ph : Nat) (i : SliceId) (q : Part) (p : Packet) : State :=
  match s.rootFor ph i.ctx i.epoch i.k with
  | none => s
  | some root =>
    let s := s.beginEpoch c i.ctx i.epoch
    let t := collTail p
    if t.phase = 0 ∧ c.x = root.x then s.rowArrive c ph i q p root
    else
      let kind := if t.phase = 0 then SlotKind.half else SlotKind.col
      match s.slot? c ph i [kind] with
      | some w =>
        -- the rest of a slice that is held here
        let s := s.dropSlot c w
        match w.part.join (s.spec i.ctx) ph q with
        | some z => s.passHalf c { w with part := z.1 } false
        | none => (s.refusePiece c true).passHalf c w false
      | none => s.passHalf c ⟨ph, i.ctx, i.epoch, i.k, s.ctx i.ctx 0x11, kind, q, false, 0, false, p.src, p.tag, 0, s.time, 0,
          none⟩ (decide (s.ownState c ph i = .unread))

/-- The computation of a sweep packet. -/
def packetPh (p : Packet) : Nat := if p.typ = 0x20 then 0 else if p.typ = 0x24 then 2 else 1

/-- Does a sweep still wait for a contribution that is being pulled for it: one of its slices is being read, and neither the port's own time
for it nor, where the port stalls, the wait budget has passed since (R118, R233 rung 2)? -/
def State.pulling (s : State) (c : Coord) (ph : Nat) (i : SliceId) : Bool :=
  decide (s.ownState c ph i = .unread) && (match s.dep? c i with
    | some d => match d.asked with
      | some t => decide (s.time < s.fcAfter (s.fieldOf c) t (sliceBytes (s.spec i.ctx).fin / 64 + 2) + s.ctxWait i.ctx)
      | none => true
    | none => false)

/-- The slices a Collective packet names. -/
def sliceIds (t : CollTail) : List SliceId := (List.range t.nsl).map (fun j => ⟨t.ctx, t.epoch, t.slice + j⟩)

/-- A sweep packet at a router that is not the root: every piece of it, or its refusal (R212, R242). It waits in its lane while
contributions are read for it, and the wait budget over, goes on without them (R118, R233 rung 2). -/
def State.sweepAt (s : State) (c : Coord) (p : Packet) : State :=
  let t := collTail p
  let ph := packetPh p
  let a := s.spec t.ctx
  if (s.arm? t.ctx).isNone then s.takePkt p
  else if ! payloadOk p then (sliceIds t).foldl (fun s i => s.lateOwn c i) ((s.takePkt p).checkFault c p)
  else if (sliceIds t).any (s.pulling c ph) then (sliceIds t).foldl (fun s i => if s.pulling c ph i then s.askOwn c i false true else s) s
  else
    (s.takePkt p).together c (fun s => (packetPieces a [a.fmtOf ph] p).foldl (fun s kp =>
      let i : SliceId := ⟨t.ctx, t.epoch, kp.1⟩
      match kp.2 with
      | some pc => s.sweepPiece c ph i (pc.part a t.count) p
      | none => (s.refusePiece c false).lateOwn c i) s)

/-- The formats in which a partial may come to the root of a computation (R187, R195): a LATE or CHECK of a context with an anchor pass may
come unconverted (R237). -/
def Spec.rootFmts (a : Spec) (ph : Nat) (p : Packet) : List Nat :=
  if ph = 0 then [a.fin]
  else if a.measured ∧ (p.typ = 0x22 ∨ (p.typ = 0x24 ∧ (collTail p).pass)) then [a.wire, a.fin] else [a.wire]

/-- The pieces of a packet at the root of a computation, those of slice `only` alone where one is named: every piece merges, waits for its
anchors, or is refused. None where an arrival must wait in its lane (R233). -/
def State.rootPieces (s : State) (c : Coord) (ph : Nat) (only : Option Nat) (p : Packet) : Option State :=
  let t := collTail p
  let a := s.spec t.ctx
  ((packetPieces a (a.rootFmts ph p) p).filter (fun kp => only.all (fun k => k == kp.1))).foldl (fun (acc : Option State) kp =>
    acc.bind (fun s =>
      let i : SliceId := ⟨t.ctx, t.epoch, kp.1⟩
      match kp.2 with
      | none => some (s.refusePiece c false)
      | some pc => match s.pieceAt c ph i t.fmt t.count pc with
        | none => some (s.modColl c (fun q => { q with raws := q.raws.filter (fun x => x != (kp.1, p)) ++ [(kp.1, p)] }))
        | some (q, s) => s.rootMerge c ph i q p)) (some s)

/-- A packet at the root of a computation. It stays in its lane where no slot and no record is free (R233). -/
def State.rootAt (s : State) (c : Coord) (ph : Nat) (p : Packet) : State :=
  let t := collTail p
  let s1 := s.takePkt p
  if (s.arm? t.ctx).isNone then s1
  else if ! payloadOk p then s1.checkFault c p
  else (s1.rootPieces c ph none p).getD s

/-- The computation that an unconverted LATE of a slice is for at a router: the check reduction, the value reduction. -/
def State.rawPh (s : State) (c : Coord) (p : Packet) (k : Nat) : Nat :=
  if p.typ = 0x24 ∧ s.checkRoot (collTail p).ctx (collTail p).epoch k ≠ some c then 3 else packetPh p

/-- Merge the unconverted LATE packets that waited for the anchors of a slice (R237); one that finds no slot goes on waiting. -/
def State.rawsReady (s : State) (c : Coord) (i : SliceId) : State :=
  let mine := (s.coll c).raws.filter (fun x => decide (x.1 = i.k) && (collTail x.2).ctx == i.ctx && (collTail x.2).epoch == i.epoch)
  mine.foldl (fun s x =>
    ((s.modColl c (fun q => { q with raws := q.raws.filter (fun y => y != x) })).rootPieces c (s.rawPh c x.2 i.k) (some i.k) x.2).getD s) s

end Sys2Proof.Machine
end

