-- ==== Sys2Proof/Machine/CollEvents.lean ====
section
/-! DEFINITION. What happens to a slice of a collective on one engine, event by event (chapter 10): deposits (R107 to R109,
R216), origination (R222, R224), expiries (R235 to R239, R241), the anchor pass (R229), and the landing of results
(R44, R218, R219, R226, R244). -/

namespace Sys2Proof.Machine

/-! ### A contribution becomes available -/

/-- A contribution that has just become available, or whose anchors have just become known: halves and partials that wait
for it here take it, and so does the root's slice (R224, R225, R235). -/
def State.available (s : State) (c : Coord) (i : SliceId) : State :=
  [0, 1, 2].foldl (fun s ph =>
    match s.rootFor ph i.ctx i.epoch i.k with
    | none => s
    | some root =>
      let s := s.rowOwn c ph i
      let s := [SlotKind.half, SlotKind.col].foldl (fun s kind => match s.slot? c ph i [kind] with
        | some w => (s.dropSlot c w).passHalf c w false
        | none => s) s
      if c = root then (s.rootOwn c ph i).rootCheck c ph i else s) s

/-- A root that no half can reach takes its own contribution as the slice's first arrival (R225). -/
def State.rootAlone (s : State) (c : Coord) (ph : Nat) (i : SliceId) : State :=
  let own := s.ownState c ph i
  if s.rootFor ph i.ctx i.epoch i.k ≠ some c ∨ (own ≠ .pending ∧ own ≠ .unread) ∨ (s.geo i.ctx).expects c ∨
      (s.slot? c ph i [.root]).isSome ∨ (s.coll c).done.contains (ph, i) then s
  else if own = .unread then s.askOwn c i false false
  else match s.openRoot c ph i (s.srcOf c 0) with
    | some s => (s.rootOwn c ph i).rootCheck c ph i
    | none => s

/-- `rootAlone` for the anchor pass, and for the reductions once the anchors are known. -/
def State.rootsAlone (s : State) (c : Coord) (i : SliceId) : State := [0, 1, 2].foldl (fun s ph => s.rootAlone c ph i) s

/-- What waits at a root for a slot or record to free: its own contributions that are the first arrival of their slice, and unconverted
LATE packets whose anchors are known (R225, R233, R237). -/
def State.rootsRetry (s : State) (c : Coord) : State :=
  let own := ((s.coll c).deps.filter (fun d => ! d.closed && d.read && ! (d.aLeft.isEmpty && d.vLeft.isEmpty && d.cLeft.isEmpty))).map
    (fun d => (⟨d.ctx, d.epoch, d.k⟩ : SliceId))
  let s := own.foldl (fun s i => s.rootsAlone c i) s
  let raw := ((s.coll c).raws.map (fun x => (⟨(collTail x.2).ctx, (collTail x.2).epoch, x.1⟩ : SliceId))).eraseDups
  raw.foldl (fun s i => if (s.anchorsAt c i).isSome then s.rawsReady c i else s) s

/-! ### DEPOSIT (R107 to R109, R216, R232, R237, R244) -/

/-- May a context's epoch be deposited at a cell: armed for it, and not two or more epochs ahead (R216)? -/
def State.ctxTakes (s : State) (c : Coord) (ctx epoch : Nat) : Bool :=
  let arm := s.ctx ctx 0x1B
  (s.arm? ctx).isSome && (bit arm 8 || decide (bits arm 0 8 = epoch)) &&
    ! (s.openEpochs c ctx).any (fun e => decide (2 ≤ sub8 epoch e) && decide (sub8 epoch e < 128))

/-- The refusal code a DEPOSIT earns from its context (R107, R244): 0x04 past cell memory, 0x07 otherwise, 0 for none. -/
def State.depositCode (s : State) (c : Coord) (d : Nat) : Nat :=
  let ctx := dCtx d
  if (s.arm? ctx).isNone then 0
  else
    let bytes := dNsl d * sliceBytes (s.spec ctx).fin
    if cellBytes < dLaddr d + bytes then 4
    else if ! (s.geo ctx).mayDeposit c (dSlice d) (dNsl d) ∨ s.isHole c ∨ 131072 < bytes then 7
    else 0

/-- The record of one slice of an accepted DEPOSIT (R109). The declared anchors of a table are read with it (R198). -/
def State.depRecord (s : State) (c : Coord) (m : Cmd) (ctx epoch k addr : Nat) : State :=
  let a := s.spec ctx
  let g := s.geo ctx
  let i : SliceId := ⟨ctx, epoch, k⟩
  let js := List.range a.blocks
  let table := a.anchored && ! a.measured && a.table
  let off := s.ctx ctx 0x0B + k * a.blocks
  let decl := if table then (s.memRead c off a.blocks).map (fun b => min b.toNat 0xFE) else []
  let s := if table then s.issueRead c off a.blocks (.stage m.tag k) else s
  let land := (s.coll c).lands.find? (fun l => l.id == i)
  let d : Dep := ⟨m.tag, ctx, epoch, k, addr, s.time, none, decl, if a.measured then js else [],
    if g.pattern = 5 then [] else js, if g.pattern ≤ 2 ∧ (s.checkRoot ctx epoch k).isSome then js else [], decide (g.pattern = 5), false,
    land.isSome, false, land.isSome, (land.map LandEnt.inc).getD false, (land.map LandEnt.aex).getD false, false, false, false,
    none, false, false, false⟩
  s.modColl c (fun q => { q with deps := q.deps ++ [d] })

/-- ALLGATHER and BROADCAST: a deposit that has been read is the result (R244). -/
def State.emitOwn (s : State) (c : Coord) (i : SliceId) (raw : List Byte) : State :=
  let a := s.spec i.ctx
  let s := (s.modColl c (fun q => { q with done := q.done ++ [(1, i)] })).watchDep c i raw
  let s := (s.modDep c i (fun d => { d with vLeft := [], sent := true })).noteTaken c i
  let bs := (List.range a.blocks).map (rawBlk a.fin raw)
  let l := s.levels i.ctx
  if l = 0 then s.sendResult c i a.fin 1 bs 0 false
  else match s.station i.ctx l i.k with
    | some (_, e) => s.sendPkt c (piecePacket ⟨0x23, ⟨s.engine, e.x, e.y, 2⟩, s.srcOf c 0, 0, i.ctx, i.epoch, l, 0, false⟩ a.fin 1
        ⟨i.k, 0, bs, 0⟩) false
    | none => s

/-- Has a contribution nothing left to merge or send? -/
def Dep.idle (d : Dep) : Bool := d.aLeft.isEmpty && d.vLeft.isEmpty && d.cLeft.isEmpty

/-- Is every bit of a contribution's data in from cell memory? -/
def State.depIn (s : State) (c : Coord) (tag k : Nat) : Bool :=
  ! (s.cell c).mrd.any (fun r => decide (r.use = .stage tag k) || decide (r.use = .pull tag k))

/-- One slice of an accepted DEPOSIT is staged, marked to pull, or read to be sent, because it is owed, in the anchor pass too, or no sweep
runs (R229, R232, R233, R237, R244). -/
def State.depositSlice (s : State) (c : Coord) (i : SliceId) : State :=
  let g := s.geo i.ctx
  if g.pattern = 5 then s
  else if g.pattern = 3 ∨ g.pattern = 4 then s.askOwn c i false false
  else if s.isOwed c 1 i then s.lateOwn c i
  else if s.canTake c i.ctx true then
    match s.dep? c i with
    | some d =>
      let raw := s.depBytes c d
      (s.askOwn c i true false).modDep c i (fun d => { d with raw := some raw })
    | none => s
  else
    let s := s.bump (cellNode c) 0 0x4080 3 1
    let s := if (s.spec i.ctx).measured ∧ s.isOwed c 0 i ∧ (s.anchorsAt c i).isNone then s.askOwn c i false false else s
    (s.available c i).rootsAlone c i

/-- Staging takes the bytes that have come; an injected memory error fails it (R373). True where the contribution failed. -/
def State.stageRead (s : State) (c : Coord) (i : SliceId) (d : Dep) : Bool × State :=
  if d.raw.isNone then (false, s)
  else
    let x := s.memInject (routerBlock c) 1 3 (d.tag % 65536)
    if x.1 then (true, x.2.failDep c i 3)
    else
      let raw := s.depBytes c { d with raw := none }
      (false, x.2.modDep c i (fun d => { d with raw := some raw }))

/-- The bytes of a contribution have all been read (R42, R119, R233): its blocks are verified, and it is staged, sent, or merged where it is
waited for. -/
def State.depRead (s : State) (c : Coord) (tag k : Nat) : State :=
  match (s.coll c).deps.find? (fun d => d.tag == tag && d.k == k && ! d.closed) with
  | none => s
  | some d =>
    let i : SliceId := ⟨d.ctx, d.epoch, d.k⟩
    let g := s.geo d.ctx
    let n := sliceBytes (s.spec d.ctx).fin
    if d.failed ∨ d.asked.isNone ∨ d.read ∨ ! s.depIn c tag k ∨ d.idle then s
    else if (blocksOf d.addr n).any (fun b => ! s.blockGood c b) then
      let s := s.faultEvent (routerBlock c) 4 0 (tag % 65536)
      (if g.pattern = 3 ∨ g.pattern = 4 then s.modColl c (fun q => { q with done := q.done ++ [(1, i)] }) else s).failDep c i 2
    else
      let x := s.stageRead c i d
      if x.1 then x.2
      else
        let s := x.2.modDep c i (fun d => { d with read := true })
        if g.pattern = 3 ∨ g.pattern = 4 then s.emitOwn c i (s.depBytes c d)
        else if d.late then (s.modDep c i (fun d => { d with late := false })).lateOwn c i
        else if s.isOwed c 1 i then s.lateOwn c i
        else
          let s := if s.isOwed c 0 i ∧ (s.spec d.ctx).measured then s.lateAnchors c i d (s.depBytes c d) else s
          ((s.noteTaken c i).available c i).rootsAlone c i

/-- A read of a contribution was flagged (R119, R242): the contribution has failed. -/
def State.depUnread (s : State) (c : Coord) (tag k : Nat) : State :=
  match (s.coll c).deps.find? (fun d => d.tag == tag && d.k == k && ! d.closed) with
  | none => s
  | some d =>
    let i : SliceId := ⟨d.ctx, d.epoch, d.k⟩
    let g := s.geo d.ctx
    if d.failed ∨ d.read ∨ d.idle then s
    else
      let s := s.faultEvent (routerBlock c) 5 0 (tag % 65536)
      (if g.pattern = 3 ∨ g.pattern = 4 then s.modColl c (fun q => { q with done := q.done ++ [(1, i)] }) else s).failDep c i 3

/-- A DEPOSIT that has taken its slot (R107): NOCTX, or its slices in order. An EXCHANGE arrives at CTX_XBAR with the first
deposit of the epoch (R245). -/
def State.depositStart (s : State) (c : Coord) (m : Cmd) : State :=
  let d := m.desc
  let ctx := dCtx d
  let epoch := dEpoch d
  if ! s.ctxTakes c ctx epoch ∨ (s.inCommit 0x5000 ctx ∧ ! (s.openEpochs c ctx).contains epoch) then s.complete c m 6 0 0
  else
    let s := s.beginEpoch c ctx epoch
    let n := sliceBytes (s.spec ctx).fin
    let s := if s.ctx ctx 2 = 5 ∧ ! (s.coll c).exch.any (fun x => x.ctx == ctx && x.epoch == epoch) then
        let xb := s.ctx ctx 0x1C
        let root := addrOf (s.reg .engine xb 0x2200 2)
        let gen := s.reg (cellNode ⟨root.x, root.y⟩) xb 0x2200 9
        let s := s.modColl c (fun q => { q with exch := q.exch ++ [⟨ctx, epoch, gen, 0, 0, []⟩] })
        s.sendSig c (.barArrive ⟨xb, gen, 1, root.x, root.y, 0, 0, false⟩)
      else s
    let ks := List.range (dNsl d)
    let s := ks.foldl (fun s j => s.depRecord c m ctx epoch (dSlice d + j) (dLaddr d + n * j)) s
    (ks.foldl (fun s j => s.depositSlice c ⟨ctx, epoch, dSlice d + j⟩) s).depProgress c m.tag

/-! ### Origination (R222, R224) -/

/-- An arc end originates a half of a computation from its own contribution (R222). -/
def State.originate (s : State) (c : Coord) (ph : Nat) (i : SliceId) : State :=
  match s.rootFor ph i.ctx i.epoch i.k, s.dep? c i with
  | some root, some d =>
    let g := s.geo i.ctx
    let arc := g.rowArc c.y root.x
    if c.x = root.x ∨ ! arcOrigin g.nx arc (ringPos g.nx c.x) (ringPos g.nx root.x) then s
    else if s.ownState c ph i = .unread then s.askOwn c i false false
    else if s.ownState c ph i ≠ .pending then s
    else
      let r := s.takeOwn c ph i (d.left ph)
      match r.1 with
      | some p => r.2.sweepOn c ph i p (s.srcOf c 0) d.tag 0
      | none => r.2
  | _, _ => s

/-- SWEEP_ORIGINATE (R222, R229): the anchor half while the slice's anchors are not known, and then the halves of the value
and check reductions. -/
def State.sweepOriginate (s : State) (c : Coord) (i : SliceId) : State :=
  if (s.spec i.ctx).measured ∧ (s.anchorsAt c i).isNone then s.originate c 0 i
  else (s.originate c 1 i).originate c 2 i

/-- A gathering router at a column-arc end originates its column half (R224): once the row halves are accounted and its own
member is merged or owed, or at the wait budget after the first row half; a row with no half originates from its own
contribution. -/
def State.colOriginate (s : State) (c : Coord) (ph : Nat) (i : SliceId) : State :=
  match s.rootFor ph i.ctx i.epoch i.k with
  | none => s
  | some root =>
    let g := s.geo i.ctx
    let x := s.gath c ph i
    if ! isGather c root g ∨ x.passed ∨
        ! arcOrigin g.ny (g.colArc root.y) (ringPos g.ny c.y) (ringPos g.ny root.y) then s
    else
      let halves := g.rowHalves c.y root.x
      let own := s.ownState c ph i
      if halves = 0 then
        match s.dep? c i with
        | some d =>
          if own = .unread then s.askOwn c i false false
          else if own ≠ .pending then s
          else
            let r := s.takeOwn c ph i (d.left ph)
            match r.1 with
            | some p => (r.2.setGath c { x with passed := true }).sweepOn c ph i p (s.srcOf c 0) d.tag 1
            | none => r.2
        | none => s
      else if x.first = 0 then s
      else
        let ready := decide (halves ≤ x.halves) && ! own.lacks
        let s := if ready then s else { s with time := max s.time (x.first + s.ctxWait i.ctx) }
        let s := s.rowOwn c ph i
        let s := if own.lacks ∨ own = .reset then s.owe c ph i else s
        let s := s.setGath c { x with passed := true }
        match s.slot? c ph i [.row] with
        | some w => (s.dropSlot c w).sweepOn c ph i w.part w.src w.tag 1
        | none =>
          -- the row halves passed on for want of a slot: the half carries its own member's contribution alone
          match s.dep? c i with
          | some d =>
            if own ≠ .pending then s
            else
              let r := s.takeOwn c ph i (d.left ph)
              match r.1 with
              | some p => r.2.sweepOn c ph i p (s.srcOf c 0) d.tag 1
              | none => r.2
          | none => s

/-- COLUMN_HALF_ORIGINATE (R224). -/
def State.columnOriginate (s : State) (c : Coord) (i : SliceId) : State :=
  if (s.spec i.ctx).measured ∧ (s.anchorsAt c i).isNone then s.colOriginate c 0 i
  else (s.colOriginate c 1 i).colOriginate c 2 i

/-! ### Expiries (R235 to R239, R241) -/

/-- SWEEP_WAIT_BUDGET_EXPIRY and GATHERING_HOLD_EXPIRY (R224, R236): a held half goes on without what it waited for, and a
row partial owes its member. `ks` names the kinds of slot the event ends. -/
def State.waitExpiry (s : State) (c : Coord) (i : SliceId) (ks : List SlotKind) : State :=
  [0, 1, 2].foldl (fun s ph =>
    match s.slot? c ph i ks with
    | none => s
    | some w =>
      if w.wait = 0 then s
      else
        let s := { s with time := max s.time w.wait }
        if w.kind = .row then (s.putSlot c w { w with wait := 0 }).owe c ph i
        else (s.dropSlot c w).passHalf c w true) s

/-- ORPHAN_EXPIRY (R230, R238): a STAGED slice or a pull-marked deposit that no sweep has passed, and a row partial that no
column half has collected, go to the root as LATE. -/
def State.orphanExpiry (s : State) (c : Coord) (i : SliceId) : State :=
  let s := match s.dep? c i with
    | some d =>
      if d.vLeft.isEmpty ∧ d.aLeft.isEmpty ∧ d.cLeft.isEmpty then s
      else
        let s := { s with time := max s.time (d.at_ + s.ctxOrphan i.ctx) }
        (if d.raw.isSome then s.bump (cellNode c) 0 0x4080 0x0A 1 else s).lateOwn c i
    | none => s
  [0, 1, 2].foldl (fun s ph =>
    match s.slot? c ph i [.row] with
    | none => s
    | some w =>
      let s := { s with time := max s.time w.expiry }
      let s := (s.bump (cellNode c) 0 0x4080 0x0A 1).setGath c { s.gath c ph i with passed := true }
      (s.dropSlot c w).toRoot c ph i w.part w.src w.tag true ((s.spec i.ctx).fmtOf ph)) s

/-- A root's slice ends by its lease (R229, R239, R347). -/
def State.rootExpiry (s : State) (c : Coord) (ph : Nat) (i : SliceId) : State :=
  match s.slot? c ph i [.root, .lost] with
  | none => s
  | some old =>
    let s := { s with time := max s.time old.expiry }
    let x := s.rootSlot c ph i
    match x.1 with
    | some w => (x.2.dropSlot c old).finishRoot c w (ph ≠ 0)
    | none => match x.2.slot? c ph i [.lost] with
      | some w => (x.2.dropSlot c w).finishRoot c w (ph ≠ 0)
      | none => x.2

/-- SLICE_LEASE_EXPIRY (R239): the value reduction, and the check and third computations that this router roots. -/
def State.leaseExpiry (s : State) (c : Coord) (i : SliceId) : State :=
  ((s.rootExpiry c 1 i).rootExpiry c 2 i).rootExpiry c 3 i

/-- SPILL_READ_BACK (R234): the oldest spilled slice of the router moves into a ROOT slot. -/
def State.spillBack (s : State) (c : Coord) (ctx : Nat) : State :=
  match (s.coll c).slots.find? (fun w => w.ctx == ctx && w.spill.isSome) with
  | none => s
  | some w =>
    if ! s.canTake c ctx false then s
    else match w.spill with
      | some r =>
        let x := s.spillRead c ctx r
        match x.1 with
        | some p => x.2.putSlot c w { w with part := p.recount w.part, spill := none }
        | none => x.2.loseRoot c w
      | none => s

/-! ### Anchors (R229) -/

/-- Anchor bytes that a broadcast brings to a router: kept with the slice; a contribution that took no part is converted on
them (R197, R229). -/
def State.learnAnchors (s : State) (c : Coord) (i : SliceId) (bytes : List Nat) : State :=
  if (s.anchorsAt c i).isSome ∧ (s.spec i.ctx).measured then s
  else
    let s := s.modColl c (fun q => { q with anchors := q.anchors ++ [⟨i, bytes⟩] })
    ((s.available c i).rootsAlone c i).rawsReady c i

/-- A piece of a slice's anchors has come (R195): the bytes once every block's is here. -/
def State.anchorPiece (s : State) (c : Coord) (i : SliceId) (pc : Piece) : Option (List Nat) × State :=
  let n := (s.spec i.ctx).blocks
  let old := (((s.coll c).anchParts.find? (fun e => e.id == i)).map AnchPart.cells).getD (List.replicate n none)
  let new := (List.range n).map (fun j =>
    if pc.b0 ≤ j ∧ j < pc.b0 + pc.blks.length then (pc.blks[j - pc.b0]?).map Blk.a else old.getD j none)
  let whole := new.all Option.isSome
  (if whole then some (new.map (fun x => x.getD 0)) else none,
    s.modColl c (fun q => { q with anchParts := q.anchParts.filter (fun e => e.id != i) ++ (if whole then [] else [⟨i, new⟩]) }))

/-- ANCHOR_ARRIVE: a broadcast ANCHOR is kept; an ANCHOR at the root merges there; any other goes on along its sweep. -/
def State.anchorAt (s : State) (c : Coord) (p : Packet) : State :=
  let t := collTail p
  let a := s.spec t.ctx
  if isSpread p (s.ctx t.ctx 2) then
    let s := s.takePkt p
    if (s.arm? t.ctx).isNone then s
    else if ! payloadOk p then s.checkFault c p
    else (packetPieces a [a.fin] p).foldl (fun s kp => match kp.2 with
      | some pc =>
        let i : SliceId := ⟨t.ctx, t.epoch, kp.1⟩
        let x := (s.beginEpoch c t.ctx t.epoch).anchorPiece c i pc
        match x.1 with
        | some l => x.2.learnAnchors c i l
        | none => x.2
      | none => s.refusePiece c false) s
  else if s.rootFor 0 t.ctx t.epoch t.slice = some c then
    let s := s.rootAt c 0 p
    -- a completed pass frees the contributions that waited for the anchors at the root itself
    (List.range t.nsl).foldl (fun s j =>
      let i : SliceId := ⟨t.ctx, t.epoch, t.slice + j⟩
      if (s.coll c).done.contains (0, i) then ((s.available c i).rootsAlone c i).rawsReady c i else s) s
  else if isSweep p then s.sweepAt c p
  else s

/-- ANCHOR_PASS_ORPHAN_EXPIRY (R229). -/
def State.anchorExpiry (s : State) (c : Coord) (i : SliceId) : State :=
  if (s.slot? c 0 i [.root]).isNone then s
  else (((s.rootExpiry c 0 i).available c i).rootsAlone c i).rawsReady c i

/-! ### Results (R44, R218, R219, R226) -/

/-- Has every byte that an epoch's output delivers into the block at `b` landed (R44)? -/
def State.blockFilled (s : State) (c : Coord) (ctx epoch b : Nat) : Bool :=
  let g := s.geo ctx
  let so := sliceBytes (s.spec ctx).fout
  let out := s.ctx ctx 0x17
  let n := g.expected c
  let base := if g.pattern = 2 then g.index c * g.q else 0
  let i0 := (b - out) / so
  let i1 := min (n - 1) ((b + 2047 - out) / so)
  (List.range (i1 + 1 - i0)).all (fun j =>
    (s.coll c).lands.any (fun l => l.id == ⟨ctx, epoch, base + i0 + j⟩ && l.bytes))

/-- List an output slice of a member as ended. -/
def State.markLand (s : State) (c : Coord) (l : LandEnt) : State := s.modColl c (fun q => { q with lands := q.lands ++ [l] })

/-- What an ended output slice does at its member: its deposit record learns it, and CTX_NOTIFY counts the last of the epoch
(R109, R219); a REDUCE's output cell that is no member counts nothing. -/
def State.afterLand (s : State) (c : Coord) (i : SliceId) (inc aex : Bool) : State :=
  let s := s.modDep c i (fun d => { d with landed := true, inc := inc, aex := aex, verdict := true })
  let s := s.noteTaken c i
  let s : State := match s.dep? c i with
    | some d => s.depProgress c d.tag
    | none => s
  let nt := s.ctx i.ctx 0x1A
  let n := ((s.coll c).lands.filter (fun l => l.id.ctx == i.ctx && l.id.epoch == i.epoch)).length
  if bit nt 6 && (s.geo i.ctx).member c && n == (s.geo i.ctx).expected c then s.incCounter c (bits nt 0 2) (bits nt 2 4) else s

/-- An output slice ends at its member without landing, or without news of its bytes. -/
def State.noteEnded (s : State) (c : Coord) (i : SliceId) (inc aex : Bool) : State :=
  if (s.coll c).lands.any (fun l => l.id == i) then s
  else (s.markLand c ⟨i, false, inc, aex⟩).afterLand c i inc aex

/-- Where the blocks of a piece of a result lie, with their bytes (R185): elements, and for MX formats the scale bytes before them. -/
def pieceLands (fmt at_ : Nat) (pc : Piece) : List (Nat × List Byte) :=
  let bs := sliceOf fmt pc.blks
  let n := pc.blks.length
  let w := 4 * fmtBits fmt
  if isMx fmt then [(at_ + pc.b0, bs.take n), (at_ + sliceBlocks fmt + w * pc.b0, bs.drop n)] else [(at_ + w * pc.b0, bs)]

/-- A piece of a slice of a RESULT lands at a member (R195, R218): its bytes, and once every block has come the checks of the blocks it
completes (R44); the block that holds the check table is left out (R40). -/
def State.landSlice (s : State) (c : Coord) (i : SliceId) (pc : Piece) : State :=
  let a := s.spec i.ctx
  let so := sliceBytes a.fout
  let at_ := s.ctx i.ctx 0x17 + (s.geo i.ctx).outPos i.k * so
  let old := ((s.coll c).landParts.find? (fun l => l.id == i)).getD ⟨i, [], 0⟩
  let new : LandPart := ⟨i, old.blks ++ (List.range pc.blks.length).map (fun j => pc.b0 + j), old.flags ||| pc.flags⟩
  let whole := (List.range (sliceBlocks a.fout)).all new.blks.contains
  let inc := decide (new.flags / 32 % 2 = 1)
  let aex := decide (new.flags / 16 % 2 = 1)
  if (s.coll c).lands.any (fun l => l.id == i) then s
  else
    let s := (pieceLands a.fout at_ pc).foldl (fun (s : State) x => s.memWrite c x.1 x.2) s
    let s := s.modColl c (fun q => { q with landParts := q.landParts.filter (fun l => l.id != i) ++ (if whole then [] else [new]) })
    if ! whole then s
    else
      let s := s.markLand c ⟨i, true, inc, aex⟩
      let tbl := s.reg (cellNode c) 0 0x4002 1 / 2048 * 2048
      let s := (blocksOf at_ so).foldl (fun (s : State) b =>
        if b ≠ tbl ∧ s.blockFilled c i.ctx i.epoch b then s.writeCheck c b (crc32c (s.memRead c b 2048)) else s) s
      s.afterLand c i inc aex

/-- An output of a member is given up (R241, R346): NO_RESULT, and the context FAILED at the node. -/
def State.noResult (s : State) (c : Coord) (i : SliceId) : State :=
  let s := ((s.absent c i 5).ctxFailure c i.ctx 4).setReg (cellNode c) i.ctx 0x5000 0x1E 3
  s.noteEnded c i true false

/-- RESULT_ARRIVE (R226): a copy at a member lands, or ends the slice where it is UNRESOLVED; a router that is not to land it
learns the verdict only. -/
def State.resultAt (s : State) (c : Coord) (p : Packet) : State :=
  let t := collTail p
  let a := s.spec t.ctx
  let g := s.geo t.ctx
  let s := s.takePkt p
  if (s.arm? t.ctx).isNone ∨ t.pass ∨ t.level ≠ 0 then s
  else
    let s := s.beginEpoch c t.ctx t.epoch
    if (s.cell c).inReset then
      (List.range t.nsl).foldl (fun s j =>
        let i : SliceId := ⟨t.ctx, t.epoch, t.slice + j⟩
        if g.lands c i.k then s.noteEnded c i true false else s) s
    else if p.poison then
      (List.range t.nsl).foldl (fun s j =>
        let i : SliceId := ⟨t.ctx, t.epoch, t.slice + j⟩
        if t.inc ∧ g.lands c i.k then s.noResult c i else s) s
    else if ! payloadOk p then s.checkFault c p
    else
      (packetPieces a [a.fout] p).foldl (fun s kp =>
        let i : SliceId := ⟨t.ctx, t.epoch, kp.1⟩
        match kp.2 with
        | some pc => if g.lands c i.k then s.landSlice c i pc
          else (s.modDep c i (fun d => { d with verdict := true })).noteTaken c i
        | none => s.refusePiece c false) s

/-- MEMBER_DEADLINE_EXPIRY (R241, R265, R343): an output that has not landed ends INCOMPLETE; where the member has no output,
the deadline stands for the verdict of a checked slice. -/
def State.memberDeadline (s : State) (c : Coord) (i : SliceId) : State :=
  match s.dep? c i with
  | none => s
  | some d =>
    let due := d.at_ + 2 * us (s.ctx i.ctx 0x14 + s.levelLeases i.ctx)
    if (s.geo i.ctx).lands c i.k ∧ ! d.landed then ({ s with time := max s.time due }).noResult c i
    else if ! d.verdict ∧ (s.checkRoot i.ctx i.epoch i.k).isSome then
      (({ s with time := max s.time due }).modDep c i (fun d => { d with verdict := true })).noteTaken c i
    else s

/-- A NACK LEASE for a LATE or SWEEP (R240, R243): the sender's contribution is marked absent. The NACK names the deposit by
its TAG; the slice is the first of it sent to the root that raised it (log 34). -/
def State.collNacked (s : State) (c : Coord) (n : Nack) : State :=
  match (s.coll c).deps.find? (fun d => d.tag == n.tag && d.sent && ! d.refused &&
      (s.geo d.ctx).rootOf d.k == srcCell n.raiser) with
  | some d =>
    let s := s.modColl c (fun q => { q with deps := q.deps.map (fun x => if x = d then { x with refused := true } else x) })
    s.absent c ⟨d.ctx, d.epoch, d.k⟩ 1
  | none => s

/-- A cell reset at a member (R248): its pending contributions, those of an EXCHANGE among them, go, with RESET recorded, so that sweeps owe the member from now on; partials of
others stay. -/
def State.collReset (s : State) (c : Coord) : State :=
  let pending := fun (d : Dep) => ! d.closed &&
    (! (d.vLeft.isEmpty && d.aLeft.isEmpty && d.cLeft.isEmpty) || (decide (s.ctx d.ctx 2 = 5) && ! d.taken))
  let s := ((s.coll c).deps.filter pending).foldl (fun s d => s.absent c ⟨d.ctx, d.epoch, d.k⟩ 6) s
  s.modColl c (fun q => { q with deps := (q.deps.filter (fun d => ! pending d)).map (fun d =>
    if d.closed then d else { d with closed := true, raw := none }), exch := [] })

end Sys2Proof.Machine
end

