-- ==== Sys2Proof/Machine/ExchOps.lean ====
section
/-! DEFINITION. EXCHANGE (R245, R268): the segments of a member, their reservations and landing addresses, the releases that let
them go, and the end of the deposits. -/

namespace Sys2Proof.Machine

/-- The exchange epoch of a context at a member. -/
def State.exch? (s : State) (c : Coord) (ctx epoch : Nat) : Option ExSt :=
  (s.coll c).exch.find? (fun x => x.ctx == ctx && x.epoch == epoch)

/-- Change an exchange epoch. -/
def State.modExch (s : State) (c : Coord) (ctx epoch : Nat) (f : ExSt → ExSt) : State :=
  s.modColl c (fun q => { q with exch := q.exch.map (fun x => if x.ctx = ctx ∧ x.epoch = epoch then f x else x) })

/-- Change a segment that has begun. -/
def ExSt.modSeg (x : ExSt) (dst : Nat) (f : SegSt → SegSt) : ExSt :=
  { x with segs := x.segs.map (fun g => if g.dst = dst then f g else g) }

/-- Destination `i` of an exchange (R245): entry `i` of CTX_DEST_TABLE, or member `i` of an empty table; none past its end. -/
def State.segDest (s : State) (ctx i : Nat) : Option Addr :=
  let n := s.tabHeld .engine ctx 0x5000 0x1D 4
  if n = 0 then
    let d := nth (s.geo ctx).members i ⟨0, 0⟩
    some ⟨s.engine, d.x, d.y, 0⟩
  else if i < n then some (addrOf (s.tabNat .engine ctx 0x5000 0x1D (4 * i) 4))
  else none

/-- Must a segment wait for the system release: its destination lies in another engine of a context with a level map
(R268)? -/
def State.segRemote (s : State) (ctx i : Nat) : Bool :=
  match s.segDest ctx i with
  | some a => decide (a.eng ≠ s.engine) && decide (a.tgt ≠ 4) && decide (s.levels ctx ≠ 0)
  | none => false

/-- The group index b of this engine (R250). -/
def State.groupIndex (s : State) (ctx : Nat) : Nat :=
  ((List.range (s.levels ctx)).foldl (fun (r : Nat × Nat) i =>
    (r.1 + s.lvOffset ctx (i + 1) s.engine * r.2, r.2 * (s.lvEnt ctx (i + 1)).count)) (0, 1)).1

/-- Where the segment of the member at a cell lands (R244, R268). -/
def State.segBase (s : State) (c : Coord) (ctx : Nat) : Nat :=
  let j := (s.geo ctx).index c
  let k := if s.levels ctx = 0 then j else s.groupIndex ctx * bits (s.lvHead ctx) 32 11 + j
  s.ctx ctx 0x17 + k * s.segBytes ctx

/-- Where bytes `a` to `a + n − 1` of a segment lie, slice by slice (R245): the slice, its place in cell memory, its place in the range and its
bytes; none where a slice has no deposit. -/
def State.segParts (s : State) (c : Coord) (ctx epoch dst a n : Nat) : Option (List (SliceId × Nat × Nat × Nat)) :=
  let sz := sliceBytes (s.spec ctx).fin
  (List.range ((a + n - 1) / sz + 1 - a / sz)).mapM (fun j =>
    let x := a / sz + j
    let i : SliceId := ⟨ctx, epoch, dst * (s.geo ctx).q + x⟩
    (s.dep? c i).map (fun d => (i, d.addr + (a - x * sz), x * sz - a, min (a + n) ((x + 1) * sz) - max a (x * sz))))

/-- Reserve the next bytes of a segment, at most 16 KiB a time, while reservations are to be had (R245). Its bytes are read from cell memory
when their packets leave. -/
def State.segOpen (s : State) (c : Coord) (ctx epoch dst : Nat) : Nat → State
  | 0 => s
  | fuel + 1 =>
    match (s.exch? c ctx epoch).bind (fun x => x.segs.find? (fun g => g.dst == dst)) with
    | none => s
    | some g =>
      let total := s.segBytes ctx
      if g.failed ∨ total ≤ g.next ∨ (s.freeRsv? c).isNone then s
      else
        let n := min 16384 (total - g.next)
        match s.routerTransfer c (.segment ctx epoch dst) g.dest (s.segBase c ctx + g.next) g.next n [] with
        | none => s
        | some s => (s.modExch c ctx epoch (fun x => x.modSeg dst (fun g => { g with next := g.next + n }))).segOpen c ctx epoch dst fuel

/-- Has a segment ended: every byte reserved and every reservation over, or a failure with none outstanding? -/
def SegSt.isOver (g : SegSt) (total : Nat) : Bool :=
  decide (cdiv g.next 16384 ≤ g.ended) && (g.failed || decide (total ≤ g.next))

/-- The taken records of an exchange and its end (R109, R245): a deposit is taken when its segment has been sent whole, or
failed; when every segment has ended, or the barrier has timed out, every deposit of the epoch ends. -/
def State.exchSettle (s : State) (c : Coord) (ctx epoch : Nat) : State :=
  match s.exch? c ctx epoch with
  | none => s
  | some x =>
    let total := s.segBytes ctx
    let q := (s.geo ctx).q
    let seg := fun (k : Nat) => x.segs.find? (fun g => g.dst == k / q)
    let dead := fun (i : Nat) => (decide (x.system = 2) && s.segRemote ctx i) || (s.segDest ctx i).isNone
    let isOver := x.local_ == 2 ||
      (List.range (s.geo ctx).n).all (fun i => dead i || (match x.segs.find? (fun g => g.dst == i) with
        | some g => g.isOver total
        | none => false))
    -- a segment's bytes are still being read (R109)
    let reading := fun (i : Nat) => (s.cell c).rsvs.any (fun r => decide (r.use = .segment ctx epoch i) && (s.cell c).mrd.any (fun m => r.readBy m.use))
    let taken := fun (k : Nat) => x.local_ == 2 || dead (k / q) || (match seg k with
      | some g => g.failed || (decide (total ≤ g.next) && decide (cdiv total 16384 ≤ g.sentN) && ! reading (k / q))
      | none => false)
    let failed := fun (k : Nat) => x.local_ == 2 || dead (k / q) || (match seg k with
      | some g => g.failed
      | none => true)
    let mine := (s.coll c).deps.filter (fun d => d.ctx == ctx && d.epoch == epoch && ! d.closed)
    let s := s.modColl c (fun cs => { cs with deps := cs.deps.map (fun d =>
      if d.ctx = ctx ∧ d.epoch = epoch ∧ ! d.closed then
        { d with taken := d.taken || taken d.k, landed := d.landed || isOver, inc := d.inc || (isOver && failed d.k) }
      else d) })
    (mine.map Dep.tag).eraseDups.foldl (fun (s : State) t => s.depProgress c t) s

/-- EXCHANGE_SEGMENT_SEND (R245, R268): the segment for destination `dst` leaves, in the order of destinations, once its slices
are deposited and its release has come. A segment for an anycast group counts as one packet resolved (R71: DESIGN CHOICE, log 123). -/
def State.segmentSend (s : State) (c : Coord) (ctx epoch dst : Nat) : State :=
  match s.exch? c ctx epoch, s.segDest ctx dst with
  | some x, some a =>
    let g := s.geo ctx
    let j := g.index c
    let rem := s.segRemote ctx dst
    let before := (List.range (sub32 (dst + g.n) (j + 1) % g.n)).map (fun i => (j + 1 + i) % g.n)
    let ready := decide (s.ctx ctx 2 = 5) && g.member c && decide (dst < g.n) && decide (x.local_ = 1) &&
      (! rem || decide (x.system = 1)) && ! x.segs.any (fun y => y.dst == dst) &&
      (List.range g.q).all (fun i => (s.dep? c ⟨ctx, epoch, dst * g.q + i⟩).isSome) &&
      before.all (fun i => x.segs.any (fun y => y.dst == i) || s.segRemote ctx i != rem || (s.segDest ctx i).isNone)
    if ! ready then s
    else
      match if a.tgt = 4 then (s.anyMember c (a.x % 256)).map (fun m => (⟨s.engine, m.x, m.y, 0⟩ : Addr)) else some a with
      | none => (s.modExch c ctx epoch (fun x => { x with segs := x.segs ++ [⟨dst, a, 0, 0, 0, true⟩] })).exchSettle c ctx epoch
      | some to_ =>
        let s := if a.tgt = 4 then s.bump .engine 0 (0x2100 + a.x % 256) 5 1 else s
        let s := s.modExch c ctx epoch (fun x => { x with segs := x.segs ++ [⟨dst, to_, 0, 0, 0, false⟩] })
        (s.segOpen c ctx epoch dst 64).exchSettle c ctx epoch
  | _, _ => s

/-- Go on reserving for a cell's segments when reservation numbers come free. -/
def State.segmentsOn (s : State) (c : Coord) : State :=
  (s.coll c).exch.foldl (fun s x => x.segs.foldl (fun s g => s.segOpen c x.ctx x.epoch g.dst 64) s) s

/-- A reservation of a segment ends; its last failure, if any, is the segment's (R168, R245). -/
def State.segmentEnd (s : State) (c : Coord) (r : SrcRsv) (ok : Bool) : State :=
  match r.use with
  | .segment ctx epoch dst =>
    let s := (s.accounted c r.tag (some r.rsv) false).endSrcRsv c r.rsv
    let s := s.modExch c ctx epoch (fun x => x.modSeg dst (fun g => { g with ended := g.ended + 1, failed := g.failed || ! ok }))
    (s.segOpen c ctx epoch dst 64).exchSettle c ctx epoch
  | _ => s

/-- The bytes of a segment's packets have failed a check (code 3) or a read (code 5) (R42, R119): the slices they belong to are failed
contributions (R243), and so is the segment. A reservation that has sent nothing ends here. -/
def State.segmentFail (s : State) (c : Coord) (r : SrcRsv) (code : Nat) (left : Bool) (is : List SliceId) : State :=
  match r.use with
  | .segment ctx epoch dst =>
    let s := s.faultEvent (routerBlock c) (if code = 5 then 5 else 4) 0 (r.tag % 65536 + 65536 * 0x10)
    let s := is.foldl (fun s i => s.absent c i (if code = 5 then 3 else 2)) s
    if left then (s.modExch c ctx epoch (fun x => x.modSeg dst (fun g => { g with failed := true }))).exchSettle c ctx epoch
    else s.segmentEnd c r false
  | _ => s

/-- One packet of a segment's reservation from byte `o` on: the blocks its slices stand in are verified, its reads issued, and it joins the
router's lane (R42, R245). True where it could not. -/
def State.segmentPacket (s : State) (c : Coord) (r : SrcRsv) (ctx epoch dst o : Nat) : Bool × State :=
  let n := min 2048 (r.size - o)
  let ps := s.segParts c ctx epoch dst (r.base + o) n
  let bad := (ps.getD []).filter (fun p => (blocksOf p.2.1 p.2.2.2).any (fun b => ! s.blockGood c b))
  if ps.isNone ∨ ! bad.isEmpty then (true, s.segmentFail c r 3 (decide (o ≠ 0)) (bad.map Prod.fst))
  else
    let bs := (ps.getD []).flatMap (fun p => s.memRead c p.2.1 p.2.2.2)
    let s := (ps.getD []).foldl (fun (s : State) p => s.issueReadAt c p.2.1 p.2.2.2 p.2.2.1 (.pkt 0x10 1 r.tag r.rsv (o / 32))) s
    (false, s.sendPkt c (dataPkt 0x10 1 false (decide (s.segBytes ctx ≤ r.base + o + n)) r.dest (s.srcOf c 0) r.tag
      (.transfer ⟨r.raddr + o, n, r.rsv, 0, 0, o / 32, 0, 0⟩) bs none) false)

/-- A segment's reservation is granted: its packets leave. -/
def State.segmentGrant (s : State) (c : Coord) (r : SrcRsv) : State :=
  match r.use with
  | .segment ctx epoch dst =>
    let s := s.modSrcRsv c r.rsv (fun x => { x with st := .awaiting, deadline := s.time + s.bulkTimeout })
    let x := (List.range (cdiv r.size 2048)).foldl (fun (x : Bool × State) k =>
      if x.1 then x else x.2.segmentPacket c r ctx epoch dst (2048 * k)) (false, s)
    ((x.2.dataSent c r.rsv).modExch c ctx epoch (fun x => x.modSeg dst (fun g => { g with sentN := g.sentN + 1 }))).exchSettle c ctx epoch
  | _ => s

/-- A reservation of a segment has landed at a cell: with the last of the segment CTX_NOTIFY counts it (R219). -/
def State.noteSegment (s : State) (c : Coord) (k : RsvKey) : State :=
  match (s.landing (.router c)).find k with
  | none => s
  | some r => match r.kind with
    | .put a =>
      if r.st ≠ .filling ∨ r.written < r.size then s
      else match s.segmentOf r a with
        | none => s
        | some (ctx, epoch, dst) =>
          let mine := fun (x : SegIn) => decide (x.src = k.src) && decide (x.ctx = ctx) && decide (x.epoch = epoch) && decide (x.dst = dst)
          let n := (((s.coll c).segsIn.find? mine).map SegIn.n).getD 0 + 1
          let isWhole := decide (cdiv (s.segBytes ctx) 16384 ≤ n)
          let s := s.modColl c (fun q => { q with
            segsIn := q.segsIn.filter (fun x => ! mine x) ++ (if isWhole then [] else [⟨k.src, ctx, epoch, dst, n⟩]) })
          let nt := s.ctx ctx 0x1A
          if isWhole && bit nt 6 then s.incCounter c (bits nt 0 2) (bits nt 2 4) else s
    | _ => s

/-- CTX_XBAR releases at a member (R245): COMPLETE lets the local segments go, TIMEOUT ends the epoch. -/
def State.xbarRelease (s : State) (c : Coord) (r : BarRelease) : State :=
  (s.coll c).exch.foldl (fun s x =>
    if s.ctx x.ctx 0x1C ≠ r.bctx ∨ x.gen ≠ r.gen ∨ x.local_ ≠ 0 then s
    else
      let s := s.modExch c x.ctx x.epoch (fun y => { y with local_ := if r.timeout then 2 else 1 })
      let s := if r.timeout then s.ctxFailure c x.ctx 3 else s
      s.exchSettle c x.ctx x.epoch) s

/-- The system release, or the news that the join is incomplete, reaches a member (R268). -/
def State.systemRelease (s : State) (c : Coord) (ctx epoch : Nat) (inc : Bool) : State :=
  match s.exch? c ctx epoch with
  | none => s
  | some x =>
    if x.system ≠ 0 then s
    else
      let s := s.modExch c ctx epoch (fun y => { y with system := if inc then 2 else 1 })
      (if inc then s.ctxFailure c ctx 3 else s).exchSettle c ctx epoch

/-- The deadline of an EXCHANGE over engines (R265): where the join has not come down to the member, the segments for other engines end
with it, as for a join that is incomplete. -/
def State.exchDeadline (s : State) (c : Coord) (i : SliceId) : State :=
  match s.dep? c i, s.exch? c i.ctx i.epoch with
  | some d, some x =>
    if s.ctx i.ctx 2 ≠ 5 ∨ s.levels i.ctx = 0 ∨ x.system ≠ 0 then s
    else ({ s with time := max s.time (d.at_ + 2 * us (s.ctx i.ctx 0x14 + s.levelLeases i.ctx)) }).systemRelease c i.ctx i.epoch true
  | _, _ => s

end Sys2Proof.Machine
end

