-- ==== Sys2Proof/Machine/Crypto.lean ====
section
/-! DEFINITION. The standard algorithms that the link layer and the image checks name (R305, R318, R321, R440): AES-256-GCM,
SHA-384, HMAC and HKDF on it, ECDSA and ECDH on P-384, and the fields of X.509 certificates that R318 checks. They are the
published standards, which the spec takes by name (PRESUMED, log 40). -/

namespace Sys2Proof.Machine

/-! ### SHA-384, HMAC, HKDF -/

/-- The largest number below 2^(b + 1) more than `r` whose `k`-th power is at most `n`, found bit by bit from bit `b − 1` down. -/
def rootFrom (k n : Nat) : Nat → Nat → Nat
  | 0, r => r
  | b + 1, r => rootFrom k n b (if (r + 2 ^ b) ^ k ≤ n then r + 2 ^ b else r)

/-- The first 64 bits of the fraction of the `k`-th root of `p`, as FIPS 180-4 defines the constants of SHA-384. -/
def rootFraction (k p : Nat) : Nat := rootFrom k (p * 2 ^ (64 * k)) 70 0 % 2 ^ 64

/-- The first 80 primes. -/
def shaPrimes : List Nat := (List.range 410).filter (fun p => decide (2 ≤ p) &&
  (List.range 21).all (fun d => decide (d < 2) || decide (p ≤ d) || decide (p % d ≠ 0)))

/-- The round constants of SHA-384: cube roots of the first 80 primes. -/
def shaK : List Nat := shaPrimes.map (rootFraction 3)

/-- The initial state of SHA-384: square roots of the ninth to the sixteenth prime. -/
def shaH : List Nat := ((shaPrimes.drop 8).take 8).map (rootFraction 2)

/-- A 64-bit rotation right. -/
def rotr64 (x n : Nat) : Nat := x / 2 ^ n + x % 2 ^ n * 2 ^ (64 - n)

/-- The XOR of a word turned right by each of the given amounts. -/
def turned (x : Nat) (rs : List Nat) : Nat := rs.foldl (fun a r => a ^^^ rotr64 x r) 0

/-- The message schedule of a block, newest first, grown by `n` words; each is made from the last sixteen. -/
def shaGrow : Nat → List Nat → List Nat
  | 0, w => w
  | n + 1, w =>
    let low := nth w 14 0
    let high := nth w 1 0
    shaGrow n (((nth w 15 0 + nth w 6 0 + (turned low [1, 8] ^^^ low / 2 ^ 7) + (turned high [19, 61] ^^^ high / 2 ^ 6)) % 2 ^ 64) :: w)

/-- One round: the words move one place on, the fifth takes the fourth's sum, the first the new sum. -/
def shaRound (h : List Nat) (kw : Nat × Nat) : List Nat :=
  let x := fun i => nth h i 0
  let choice := (x 4 &&& x 5) ^^^ ((2 ^ 64 - 1 - x 4) &&& x 6)
  let major := (x 0 &&& (x 1 ^^^ x 2)) ^^^ (x 1 &&& x 2)
  let carry := x 7 + turned (x 4) [14, 18, 41] + choice + kw.1 + kw.2
  ((carry + turned (x 0) [28, 34, 39] + major) % 2 ^ 64) :: setAt (h.take 7) 3 ((x 3 + carry) % 2 ^ 64)

/-- Take a 128-byte block into the state. -/
def shaBlock (h : List Nat) (b : List Byte) : List Nat :=
  let w := (List.range 16).map (fun i => beNat ((b.drop (8 * i)).take 8))
  let sched := (shaGrow 64 w.reverse).reverse
  let r := (shaK.zip sched).foldl shaRound h
  (h.zip r).map (fun x => (x.1 + x.2) % 2 ^ 64)

/-- `n` blocks of a padded message. -/
def shaBlocks : Nat → List Byte → List Nat → List Nat
  | 0, _, h => h
  | n + 1, m, h => shaBlocks n (m.drop 128) (shaBlock h (m.take 128))

/-- SHA-384 of a message, 48 bytes. -/
def sha384 (m : List Byte) : List Byte :=
  let z := (239 - m.length % 128) % 128
  let p := m ++ [0x80] ++ zeros (z % 128) ++ beBytes 16 (8 * m.length)
  ((shaBlocks (p.length / 128) p shaH).flatMap (beBytes 8)).take 48

/-- HMAC-SHA-384. -/
def hmac384 (key m : List Byte) : List Byte :=
  let k := padTo 128 (if 128 < key.length then sha384 key else key)
  sha384 (k.map (· ^^^ 0x5C) ++ sha384 (k.map (· ^^^ 0x36) ++ m))

/-- HKDF-SHA-384 of up to 48 bytes: extract, then the first block of expand. -/
def hkdf384 (salt ikm info : List Byte) (n : Nat) : List Byte := (hmac384 (hmac384 salt ikm) (info ++ [1])).take n

/-! ### AES-256-GCM -/

/-- The S-box of AES, entry `i` at byte `i`. -/
def aesSbox : Nat := 0x16bb54b00f2d99416842e6bf0d89a18cdf2855cee9871e9b948ed9691198f8e19e1dc186b95735610ef6034866b53e708a8bbd4b1f74dde8c6b4a61c2e2578ba08ae7a65eaf4566ca94ed58d6d37c8e779e4959162acd3c25c2406490a3a32e0db0b5ede14b8ee4688902a22dc4f816073195d643d7ea7c41744975fec130ccdd2f3ff1021dab6bcf5389d928f40a351a89f3c507f02f94585334d43fbaaefd0cf584c4a39becb6a5bb1fc20ed00d153842fe329b3d63b52a05a6e1b1a2c830975b227ebe28012079a059618c323c7041531d871f1e5a534ccf73f362693fdb7c072a49cafa2d4adf04759fa7dc982ca76abd7fe2b670130c56f6bf27b777c63

/-- The S-box of a byte. -/
def subByte (b : Nat) : Nat := bits aesSbox (8 * b) 8

/-- Doubling in the field of AES. -/
def xtime (b : Nat) : Nat := if b < 128 then 2 * b else (2 * b - 256) ^^^ 0x1B

/-- The key schedule of AES-256 as words of four bytes, newest first, grown by `n` words from index `i`. -/
def aesGrow : Nat → Nat → Nat → List (List Nat) → List (List Nat)
  | 0, _, _, w => w
  | n + 1, i, rc, w =>
    let t := nth w 0 []
    let t := if i % 8 = 0 then
        let u := (t.drop 1 ++ t.take 1).map subByte
        ((u.headD 0) ^^^ rc) :: u.drop 1
      else if i % 8 = 4 then t.map subByte else t
    let x := (List.zipWith (· ^^^ ·) (nth w 7 []) t)
    aesGrow n (i + 1) (if i % 8 = 0 then xtime rc else rc) (x :: w)

/-- The fifteen round keys of AES-256, 16 bytes each. -/
def aesKeys (key : List Nat) : List (List Nat) :=
  let w0 := (List.range 8).map (fun i => (key.drop (4 * i)).take 4)
  let ws := (aesGrow 52 8 1 w0.reverse).reverse
  (List.range 15).map (fun r => ((ws.drop (4 * r)).take 4).flatten)

/-- ShiftRows. -/
def shiftRows (s : List Nat) : List Nat := (List.range 16).map (fun i => nth s ((i + 4 * (i % 4)) % 16) 0)

/-- MixColumns of one column. -/
def mixCol (c : List Nat) : List Nat :=
  (List.range 4).map (fun i =>
    let x := fun k => nth c ((i + k) % 4) 0
    xtime (x 0) ^^^ (xtime (x 1) ^^^ x 1) ^^^ x 2 ^^^ x 3)

/-- One block through AES-256. -/
def aesBlock (ks : List (List Nat)) (b : List Nat) : List Nat :=
  let s := List.zipWith (· ^^^ ·) b (nth ks 0 [])
  let s := (List.range 13).foldl (fun s r =>
    let s := shiftRows (s.map subByte)
    let s := (List.range 4).flatMap (fun c => mixCol ((s.drop (4 * c)).take 4))
    List.zipWith (· ^^^ ·) s (nth ks (r + 1) [])) s
  List.zipWith (· ^^^ ·) (shiftRows (s.map subByte)) (nth ks 14 [])

/-- Multiplication in the field of GHASH, on blocks as big-endian numbers. -/
def ghMul (x y : Nat) : Nat :=
  ((List.range 128).foldl (fun (zv : Nat × Nat) i =>
    let z := if bit x (127 - i) then zv.1 ^^^ zv.2 else zv.1
    let v := if zv.2 % 2 = 1 then (zv.2 / 2) ^^^ (0xE1 * 2 ^ 120) else zv.2 / 2
    (z, v)) (0, y)).1

/-- GHASH of `n` 16-byte blocks. -/
def ghash (h : Nat) : Nat → List Byte → Nat → Nat
  | 0, _, y => y
  | n + 1, m, y => ghash h n (m.drop 16) (ghMul (y ^^^ beNat (padTo 16 (m.take 16))) h)

/-- Zero bytes up to a multiple of 16. -/
def pad16 (m : List Byte) : List Byte := m ++ zeros ((16 - m.length % 16) % 16)

/-- The key stream of GCM over a text: counter blocks from 2. -/
def gcmXor (ks : List (List Nat)) (iv text : List Byte) : List Byte :=
  let blocks := cdiv text.length 16
  let stream := (List.range blocks).flatMap (fun i =>
    (aesBlock ks ((iv ++ beBytes 4 (i + 2)).map BitVec.toNat)).map (BitVec.ofNat 8))
  List.zipWith (· ^^^ ·) text stream

/-- The tag of GCM over additional data and ciphertext. -/
def gcmTag (ks : List (List Nat)) (iv aad cipher : List Byte) : List Byte :=
  let h := beNat ((aesBlock ks (List.replicate 16 0)).map (BitVec.ofNat 8))
  let m := pad16 aad ++ pad16 cipher ++ beBytes 8 (8 * aad.length) ++ beBytes 8 (8 * cipher.length)
  let y := ghash h (m.length / 16) m 0
  let e := (aesBlock ks ((iv ++ beBytes 4 1).map BitVec.toNat)).map (BitVec.ofNat 8)
  List.zipWith (· ^^^ ·) (beBytes 16 y) e

/-- AES-256-GCM encryption: ciphertext and tag. -/
def gcmSeal (key iv aad plain : List Byte) : List Byte × List Byte :=
  let ks := aesKeys (key.map BitVec.toNat)
  let c := gcmXor ks iv plain
  (c, gcmTag ks iv aad c)

/-- AES-256-GCM decryption: the plaintext where the tag verifies. -/
def gcmOpen (key iv aad cipher tag : List Byte) : Option (List Byte) :=
  let ks := aesKeys (key.map BitVec.toNat)
  if gcmTag ks iv aad cipher = tag then some (gcmXor ks iv cipher) else none

/-! ### P-384 -/

/-- The prime of P-384. -/
def p384 : Nat := 2 ^ 384 - 2 ^ 128 - 2 ^ 96 + 2 ^ 32 - 1

/-- The order of P-384. -/
def n384 : Nat := 0xffffffffffffffffffffffffffffffffffffffffffffffffc7634d81f4372ddf581a0db248b0a77aecec196accc52973

/-- The coefficient b of P-384. -/
def b384 : Nat := 0xb3312fa7e23ee7e4988e056be3f82d19181d9c6efe8141120314088f5013875ac656398d8a2ed19d2a85c8edd3ec2aef

/-- The base point of P-384. -/
def g384 : Nat × Nat :=
  (0xaa87ca22be8b05378eb1c71ef320ad746e1d3b628ba79b9859f741e082542a385502f25dbf55296c3a545e3872760ab7,
    0x3617de4a96262c6f5d9e98bf9292dc29f8f41dbd289a147ce9da3113b5f0b8c00a60b1ce1d7e819d7a431d7c90ea0e5f)

/-- Modular power, `k` bits of the exponent from the top. -/
def powMod (m b e : Nat) : Nat → Nat
  | 0 => 1 % m
  | k + 1 =>
    let r := powMod m b (e / 2) k
    if e % 2 = 1 then r * r % m * b % m else r * r % m

/-- Modular inverse for a prime modulus. -/
def invMod (m x : Nat) : Nat := powMod m (x % m) (m - 2) 384

/-- Add two points; none is the point at infinity. -/
def ecAdd (a b : Option (Nat × Nat)) : Option (Nat × Nat) :=
  match a, b with
  | none, b => b
  | a, none => a
  | some (x1, y1), some (x2, y2) =>
    let p := p384
    if x1 = x2 ∧ (y1 + y2) % p = 0 then none
    else
      let l := if x1 = x2 then (3 * x1 * x1 + (p - 3)) * invMod p (2 * y1) % p
        else (y2 + p - y1) * invMod p (x2 + p - x1) % p
      let x := (l * l + 2 * p - x1 - x2) % p
      some (x, (l * (x1 + p - x) + p - y1) % p)

/-- Scalar multiple of a point, `k` bits of the scalar. -/
def ecMul (q : Option (Nat × Nat)) : Nat → Nat → Option (Nat × Nat)
  | _, 0 => none
  | e, k + 1 =>
    let r := ecMul q (e / 2) k
    let d := ecAdd r r
    if e % 2 = 1 then ecAdd d q else d

/-- A point from its uncompressed 97 bytes, if it lies on the curve. -/
def ecPoint (bs : List Byte) : Option (Nat × Nat) :=
  let x := beNat ((bs.drop 1).take 48)
  let y := beNat ((bs.drop 49).take 48)
  if bs.length = 97 ∧ bs.headD 0 = 4 ∧ x < p384 ∧ y < p384 ∧ (y * y) % p384 = (x * x * x + (p384 - 3) * x + b384) % p384 then
    some (x, y)
  else none

/-- The uncompressed bytes of a point. -/
def ecBytes (q : Option (Nat × Nat)) : List Byte :=
  match q with
  | some (x, y) => 4 :: (beBytes 48 x ++ beBytes 48 y)
  | none => zeros 97

/-- The public key of a private scalar. -/
def ecPub (d : Nat) : List Byte := ecBytes (ecMul (some g384) d 384)

/-- ECDSA P-384 with SHA-384: does (r, s) in 96 bytes sign a message under a public key? -/
def ecdsaOk (pub m sig : List Byte) : Bool :=
  let r := beNat (sig.take 48)
  let s := beNat ((sig.drop 48).take 48)
  match ecPoint pub with
  | none => false
  | some q =>
    if sig.length ≠ 96 ∨ r = 0 ∨ s = 0 ∨ n384 ≤ r ∨ n384 ≤ s then false
    else
      let w := invMod n384 s
      let z := beNat (sha384 m)
      match ecAdd (ecMul (some g384) (z * w % n384) 384) (ecMul (some q) (r * w % n384) 384) with
      | none => false
      | some (x, _) => decide (x % n384 = r)

/-- An ECDSA signature of a message under a private key, with the nonce `k`, which the standard leaves to the signer. -/
def ecdsaSign (d k : Nat) (m : List Byte) : List Byte :=
  match ecMul (some g384) k 384 with
  | none => zeros 96
  | some (x, _) =>
    let r := x % n384
    let s := invMod n384 k * (beNat (sha384 m) + r * d) % n384
    beBytes 48 r ++ beBytes 48 s

/-- The shared x-coordinate of ECDH P-384, 48 bytes. -/
def ecdh (d : Nat) (pub : List Byte) : Option (List Byte) :=
  match ecPoint pub with
  | none => none
  | some q => (ecMul (some q) d 384).map (fun r => beBytes 48 r.1)

/-! ### Certificates (R318) -/

/-- A DER element: its tag, its content, all of it, and what follows it. -/
def derNext (bs : List Byte) : Option (Nat × List Byte × List Byte × List Byte) :=
  match bs with
  | t :: l :: _ =>
    let k := if l.toNat < 128 then 0 else l.toNat - 128
    let n := if l.toNat < 128 then l.toNat else beNat ((bs.drop 2).take k)
    if 4 < k ∨ bs.length < 2 + k + n then none
    else some (t.toNat, (bs.drop (2 + k)).take n, bs.take (2 + k + n), bs.drop (2 + k + n))
  | _ => none

/-- The elements of a DER sequence's content. -/
def derList : Nat → List Byte → List (Nat × List Byte × List Byte)
  | 0, _ => []
  | k + 1, bs => match derNext bs with
    | some (t, v, all, rest) => (t, v, all) :: derList k rest
    | none => []

/-- The object identifier of ECDSA with SHA-384. -/
def oidEcdsa384 : List Byte := [0x2A, 0x86, 0x48, 0xCE, 0x3D, 0x04, 0x03, 0x03]

/-- The object identifiers of an EC public key and of P-384. -/
def oidEcKey : List Byte := [0x2A, 0x86, 0x48, 0xCE, 0x3D, 0x02, 0x01]

/-- P-384. -/
def oidP384 : List Byte := [0x2B, 0x81, 0x04, 0x00, 0x22]

/-- A DER integer as 48 bytes. -/
def derInt (bs : List Byte) : List Byte := beBytes 48 (beNat bs)

/-- What R318 needs of a certificate: the signed part, the key point, and the signature as 96 bytes; none for one that does
not carry an ECDSA P-384 key and an ECDSA P-384 signature with SHA-384. -/
def certParse (der : List Byte) : Option (List Byte × List Byte × List Byte) :=
  match derNext der with
  | some (0x30, body, _, []) =>
    match derList 4 body with
    | [(0x30, tbs, tbsAll), (0x30, alg, _), (0x03, sig, _)] =>
      let parts := derList 16 tbs
      let parts := match parts with
        | (0xA0, _, _) :: rest => rest
        | l => l
      -- serial, algorithm, issuer, validity, subject, key
      match parts.drop 5, derList 3 alg, derList 3 (match derNext (sig.drop 1) with | some (_, v, _, _) => v | none => []) with
      | (0x30, spki, _) :: _, (0x06, oid, _) :: _, [(0x02, r, _), (0x02, s, _)] =>
        match derList 3 spki with
        | [(0x30, ka, _), (0x03, key, _)] => match derList 3 ka with
          | [(0x06, o1, _), (0x06, o2, _)] =>
            if oid = oidEcdsa384 ∧ o1 = oidEcKey ∧ o2 = oidP384 then some (tbsAll, key.drop 1, derInt r ++ derInt s) else none
          | _ => none
        | _ => none
      | _, _, _ => none
    | _ => none
  | _ => none

/-- The certificates of a CERT message: up to four, each preceded by its 2-byte length (R316). -/
def certList : Nat → List Byte → Option (List (List Byte))
  | 0, bs => if bs.isEmpty then some [] else none
  | k + 1, bs =>
    if bs.isEmpty then some []
    else
      let n := leNat (bs.take 2)
      if bs.length < 2 + n ∨ n = 0 then none
      else (certList k (bs.drop (2 + n))).map (fun l => (bs.drop 2).take n :: l)

/-- A point with a given x-coordinate, the square root taken as (p + 1)/4-th power. -/
def ecLift (x : Nat) : Option (Nat × Nat) :=
  let z := (x * x * x + (p384 - 3) * x + b384) % p384
  let y := powMod p384 z ((p384 + 1) / 4) 384
  if x < p384 ∧ y * y % p384 = z then some (x, y) else none

/-- The keys under which a signature verifies a message: Q = r⁻¹(sR − zG) for each point R with x-coordinate r modulo n. -/
def ecRecover (m sig : List Byte) : List (List Byte) :=
  let r := beNat (sig.take 48)
  let s := beNat ((sig.drop 48).take 48)
  let z := beNat (sha384 m) % n384
  let w := invMod n384 r
  let zg := ecMul (some g384) ((n384 - z) * w % n384) 384
  [r, r + n384].flatMap (fun x => match ecLift x with
    | none => []
    | some (x, y) => [(x, y), (x, p384 - y)].map (fun q => ecBytes (ecAdd (ecMul (some q) (s * w % n384) 384) zg)))

/-- Is every certificate signed by the next one's key, and the last one signed by the key with digest `anchor`, or itself the
carrier of that key (R318)? -/
def chainOk (anchor : List Byte) : List (List Byte × List Byte × List Byte) → Bool
  | [] => false
  | [c] => decide (sha384 c.2.1 = anchor) || (ecRecover c.1 c.2.2).any (fun q => sha384 q == anchor && ecdsaOk q c.1 c.2.2)
  | c :: d :: rest => ecdsaOk d.2.1 c.1 c.2.2 && chainOk anchor (d :: rest)

/-- The leaf key of a CERT message whose chain verifies against the trust anchor's digest (R318). -/
def certLeaf (anchor msg : List Byte) : Option (List Byte) :=
  if 6144 < msg.length then none
  else match certList 4 msg with
    | none => none
    | some l =>
      let cs := l.filterMap certParse
      match cs with
      | c :: _ => if cs.length = l.length ∧ chainOk anchor cs then some c.2.1 else none
      | [] => none

end Sys2Proof.Machine
end

