-- ==== Sys2Proof/Machine/FaultOps.lean ====
section
/-! DEFINITION. Faults of the engine as a whole (chapter 15): ENGINE_SUSPECT (R371) and the start of DRAIN (R372), and
strikes that an injection may mask (R373). -/

namespace Sys2Proof.Machine

/-- A strike, or its event alone where an injection asked for no strike (R373). -/
def State.strikeOr (s : State) (noStrike : Bool) (b : FaultBlock) (cause whr detail : Nat) : State :=
  if noStrike then s.faultEvent b cause whr detail else s.strike b cause whr detail

/-- DRAIN starts at FREEZE (R372); a set ENGINE_SUSPECT is live from here on (R361). -/
def State.drainStart (s : State) : State :=
  let s := s.setReg .engine 0 0x8140 0x14 1
  let s := { s with eng := { s.eng with drainAt := s.time } }
  if bit (s.reg .engine 0 0x8140 1) 0 then s.faultLive s.engineBlock 0 true else s

/-- ENGINE_SUSPECT (R371): 1 UNRESOLVED, 2 FIELD, 3 SOFTWARE. A cause while the bit is set changes nothing. -/
def State.suspect (s : State) (cause : Nat) : State :=
  if bit (s.reg .engine 0 0x8140 1) 0 then s
  else
    let s := (s.faultEvent s.engineBlock 0 0 0).setReg .engine 0 0x8140 0x10 cause
    if s.reg .engine 0 0x8140 0x14 ≠ 0 then s.faultLive s.engineBlock 0 true
    else if s.reg .engine 0 0x8140 0x12 = 1 then s.drainStart
    else s

end Sys2Proof.Machine
end

