-- ==== Sys2Proof/Machine/RingOps.lean ====
section
/-! DEFINITION. What a router does beside passing gusts: inserted credit beats (R90), window boundaries and claims (R79,
R85, R86), credit sync (R91), CREDIT signals (R145), the reclose of a fenced router (R66, R67), and anycast selection
(R72, R73). -/

namespace Sys2Proof.Machine

/-! ### Credit beats, windows, claims -/

/-- CREDIT_BEAT_INSERT (R20, R90): credits that have waited 32 fc leave in an inserted credit beat, at the next gust boundary. -/
def State.creditBeatInsert (s : State) (c : Coord) (p : Nat) : State :=
  match beatLanes.filter (fun l => (s.lane c p l).freed != 0) with
  | [] => s
  | l :: ls =>
    let first := minimum (s.lane c p l).freedAt (ls.map (fun l => (s.lane c p l).freedAt))
    let s : State := { s with time := max s.time (s.fcAfter (s.fieldOf c) first 32) }
    (s.modOut c p (fun o => { o with insert := true })).betweenGusts c p

/-- A window of an output begins (R79): C := W for every requester, and the Control quota restarts. -/
def State.startWindow (s : State) (c : Coord) (p at_ : Nat) : State :=
  let share := fun rid => s.weight c p rid
  s.modOut c p (fun o =>
    let o := (List.range 45).foldl (fun (o : OutSt) rid => o.setReq rid { o.req rid with credit := (share rid : Int) }) o
    { o with ctrl := 0, quotaHit := false, window := at_ })

/-- ARB_WINDOW_BOUNDARY (R79): at the next fc whose count is a multiple of WINDOW a window begins. -/
def State.windowBoundary (s : State) (c : Coord) (p : Nat) : State :=
  let f := s.fieldOf c
  let w := s.reg (cellNode c) 0 (0x4030 + p) 2
  let last := if (s.outp c p).window ≤ s.fcCount f then (s.outp c p).window else 0
  let due := (last / w + 1) * w
  let s : State := { s with time := max s.time (s.fcTime f due) }
  s.startWindow c p (max due (s.fcCount f / w * w))

/-- The outputs of a field whose state or weights are not those of reset. -/
def State.usedOutputs (s : State) (f : Nat) : List (Coord × Nat) :=
  let ofRtr := s.rtrs.flatMap (fun e => e.2.outs.map (fun o => ((⟨e.1 % 512, e.1 / 512⟩ : Coord), o.1)))
  let ofReg := s.regs.filterMap (fun e =>
    let idx := e.1 / 256 % 65536
    let n := e.1 / 256 / 65536 / 8192
    if 0x4030 ≤ idx ∧ idx ≤ 0x4038 ∧ 0x10 ≤ e.1 % 256 ∧ n % 4 = 2 then some ((⟨n / 4 % 512, n / 4 / 512⟩ : Coord), idx - 0x4030) else none)
  ((ofRtr ++ ofReg).eraseDups).filter (fun x => decide (s.fieldOf x.1 = f))

/-- The decision-timing state of every output of a field restarts at the first fc of a new lock (R398 step 3): its count is 0, a multiple of
WINDOW and of 1,024, so a window begins, and a slot table that waits takes effect there (R79, R84, R86). -/
def State.restartOutputs (s : State) (f : Nat) : State :=
  (s.usedOutputs f).foldl (fun (s : State) x => (s.startWindow x.1 x.2 0).modOut x.1 x.2 (fun o =>
    { o with sample := [], claimed := 0, slotsAt := if o.slots.isSome then s.time else o.slotsAt })) s

/-- Owner of entry `i` of the slot table in force; 15 for none (R84). -/
def State.slotOwner (s : State) (c : Coord) (p i : Nat) : Nat :=
  bits (s.tabNat (cellNode c) 0 (0x4040 + p) 1 (i % 256) 1) 0 4

/-- TRADE_CLAIM_ARISE (R85): at the first fc of a slot period its owner receives a claim: of the period that begins now, unless its claim
has arisen, else of the next one. -/
def State.claimArise (s : State) (c : Coord) (p : Nat) : State :=
  let f := s.fieldOf c
  let now := s.fcCount f
  let k := max (cdiv now 4) (s.outp c p).claimed
  let s : State := { s with time := max s.time (s.fcTime f (4 * k)) }
  let own := s.slotOwner c p k
  let s := s.modOut c p (fun o => { o with claimed := k + 1 })
  if 8 < own then s
  else
    let rid := 5 * own + 2
    s.modOut c p (fun o => o.setReq rid { o.req rid with claims := (o.req rid).claims ++ [⟨k, false, false⟩] })

/-- TRADE_CLAIM_LAPSE (R85): the oldest claims of the output lapse at the end of the period after theirs, and are counted
by what their requester had. -/
def State.claimLapse (s : State) (c : Coord) (p : Nat) : State :=
  let all := (List.range 9).flatMap (fun i => ((s.outp c p).req (5 * i + 2)).claims)
  match all with
  | [] => s
  | t :: ts =>
    let k := minimum t.k (ts.map TradeClaim.k)
    let f := s.fieldOf c
    let s := { s with time := max s.time (s.fcTime f (4 * (k + 2))) }
    let gone := all.filter (fun t => t.k == k)
    let missed := (gone.filter TradeClaim.seen).length
    let power := (gone.filter (fun t => ! t.seen && t.power)).length
    let s := s.modOut c p (fun o => (List.range 9).foldl (fun (o : OutSt) i =>
      let r := o.req (5 * i + 2)
      o.setReq (5 * i + 2) { r with claims := r.claims.filter (fun t => t.k != k) }) o)
    (s.bump (cellNode c) 0 (0x4050 + p) 3 missed).bump (cellNode c) 0 (0x4050 + p) 4 power

/-- TRADE_TABLE_APPLY (R86): a committed slot table takes effect at the start of the period it waits for; in Lull the
router stands still, and the table waits for the wake (log 139). -/
def State.slotApply (s : State) (c : Coord) (p : Nat) : State :=
  match (if s.power (s.fieldOf c) = 2 then none else (s.outp c p).slots) with
  | some t =>
    let s : State := { s with time := max s.time (s.outp c p).slotsAt }
    let s := s.setTab (cellNode c) 0 (0x4040 + p) 1 (Memory.writeN (objEmpty 0x4040 1) [] 0 t)
    s.modOut c p (fun o => { o with slots := none })
  | none => s

/-! ### Credit sync and CREDIT signals -/

/-- CREDIT_SYNC_REQ_RECEIVE (R91 step 2): the marker and the reply leave at the next idle beat or gust boundary. -/
def State.syncRequest (s : State) (c : Coord) (q : Nat) : State := (s.modOut c q (fun o => { o with marker := true })).betweenGusts c q

/-- CREDIT_SYNC_MARKER_RECEIVE (R91 steps 3 and 4). -/
def State.syncMarker (s : State) (c : Coord) (p : Nat) : State :=
  (s.modOut c p (fun o => { o with sync := o.sync.map (fun y => { y with marker := some o.got }) })).finishSync c p

/-- CREDIT_SYNC_RSP_RECEIVE (R91 step 4). -/
def State.syncReply (s : State) (c : Coord) (p : Nat) (counts : List Nat) : State :=
  (s.modOut c p (fun o => { o with sync := o.sync.map (fun y => { y with reply := some counts }) })).finishSync c p

/-- CREDIT_SYNC_RETRY (R91): a sync not finished 256 fc after its request is asked again. A marker or reply of the earlier
request is dropped with it, since the new reply answers the new marker. -/
def State.syncRetry (s : State) (c : Coord) (p : Nat) : State :=
  match (s.outp c p).sync with
  | some y =>
    let t := max s.time (s.fcAfter (s.fieldOf c) y.start 256)
    let s := ({ s with time := t }).modOut c p (fun o => { o with sync := some ⟨t, none, none⟩ })
    s.linkLocal c p (fun d q => .creditSyncReq d q)
  | none => s

/-- The lanes whose credits CREDIT signals return (R145). -/
def sigLanes : List Nat := [2, 3, 4, 5]

/-- CREDIT_SIGNAL_SEND (R145): the cumulative counts of the input's Bulk and Collective lanes, once 4 units have been freed since the last
CREDIT or 8 fc after one was. -/
def State.creditSignal (s : State) (c : Coord) (q : Nat) : State :=
  let waiting := sigLanes.filter (fun l => (s.lane c q l).freed != 0)
  match waiting with
  | [] => s
  | l :: ls =>
    let n := waiting.foldl (fun n l => n + (s.lane c q l).freed) 0
    let first := minimum (s.lane c q l).freedAt (ls.map (fun l => (s.lane c q l).freedAt))
    let s : State := if 4 ≤ n then s else { s with time := max s.time (s.fcAfter (s.fieldOf c) first 8) }
    let s := sigLanes.foldl (fun s l => s.modLane c q l (fun i =>
      { i with cum := (i.cum + i.freed) % 256, freed := 0 })) s
    let counts := sigLanes.map (fun l => (s.lane c q l).cum)
    (s.linkLocal c q (fun d p => .credit d p counts)).bump (cellNode c) 0 0x4020 5 1

/-- CREDIT_SIGNAL_RECEIVE (R145): the new counts minus the last ones are credited. -/
def State.creditSignalAt (s : State) (c : Coord) (p : Nat) (counts : List Nat) : State :=
  s.modOut c p (fun o =>
    let o' := (List.range 4).foldl (fun (o' : OutSt) i =>
      o'.credit (nth sigLanes i 0) (sub8 (nth counts i 0) (nth o.lastCredit i 0))) o
    { o' with lastCredit := (List.range 4).map (fun i => nth counts i 0 % 256) })

/-! ### Reclose (R66, R67) -/

/-- The live routers whose port drives a cell: (neighbour, port toward it), over the map without the cell as a hole. -/
def State.towardCell (s : State) (h : Coord) : List (Coord × Nat) :=
  (List.range 8).filterMap (fun q =>
    match s.holeMap.neighbour h q with
    | some d => if hasPort h q then some (d, facing q) else none
    | none => none)

/-- Set or clear the hard stop of an output (R93). One that is set cuts off the packets begun on it. -/
def State.hardStop (s : State) (c : Coord) (p : Nat) (on : Bool) : State :=
  let old := s.stopState c p
  let s := s.modOut c p (fun o => { o with hardStop := on })
  (if on then s.cutBegun c p else s).noteStop c p old

/-- The NACKs of R67 that an upstream neighbour sends for the headers it has sent and that have not been credited. -/
def State.fenceNacks (s : State) (c : Coord) (p : Nat) : State :=
  let hdrs := ((s.outp c p).sent.flatMap Prod.snd).filter (fun h => decide (h ≠ 0))
  let s := hdrs.foldl (fun s h => match packetOf h [] false with
    | some pk => (s.lose pk).raiseNack c (s.srcOf c 0) pk 6 0 0
    | none => s) s
  s.modOut c p (fun o => { o with sent := [] })

/-- The next higher live router on a line of the grid, from a cell: row ring first, then column ring (R66). After the highest coordinate it
goes on with 0, as the ring does: the section names no originator there (log 87). -/
def State.reclosOrigin (s : State) (h : Coord) : Coord :=
  let r : Coord := ⟨(h.x + 1) % s.gx, h.y⟩
  if ! s.isHole r then r
  else (((List.range s.gy).map (fun k => (⟨h.x, (h.y + 1 + k) % s.gy⟩ : Coord))).find? (fun c => ! s.isHole c)).getD r

/-- ROW_BYP and COL_BYP of a hole: closed by a bypass on its ring (R57, R58). -/
def State.holeByp (s : State) (h : Coord) : Bool × Bool :=
  let m := s.holeMap
  (! m.inGap .row h.y (ringPos m.nx h.x), ! m.inGap .col h.x (ringPos m.ny h.y))

/-- Add a hole to HOLE_MAP (R57): its GEN is the new GENERATION. A drop of a hole of bring-up is in no map from the start (R297). -/
def State.addHole (s : State) (h : Coord) (origin : Nat) : State :=
  if s.isHole h then s
  else
    let live := match s.dropAt h with
      | some (st, d) => bit (s.reg .engine 0 (0x6010 + st) 1) d
      | none => false
    { s with holes := s.holes ++ [⟨h, origin, s.holes.length + 1, live⟩] }

/-- A cell's port abandons everything as at a cell reset (R120). -/
def State.abandonCell (s : State) (c : Coord) : State :=
  let s := s.modCell c (fun q => { q with
    cmds := [], rsvs := [],
    cores := q.cores.map (fun k => { k with queue := [], held := 0, waits := [], chWaits := [], intq := [] }) })
  s.modCell c (fun q => { q with mrd := [], mwr := [], watches := [], trace := [], sentOut := [], pathHeld := [], msgUsed := 0 })

/-- What a router that becomes a hole loses (R67, R247): the partials and contributions inside it, and the units on their way to it, whose
headers its neighbours have logged. -/
def State.loseRouter (s : State) (h : Coord) : State :=
  { s with
    colls := SMap.put CollSt.init s.colls (cellKey h) CollSt.init,
    wires := s.wires.filter (fun w => w.c != h) }

/-- What has left a router is received by its neighbours `ns` before they complete what is still open (R66 step 1, R67): a packet whose header
has left it is reported at delivery (DESIGN CHOICE, log 141). -/
def State.takeFrom (s : State) (ns : List (Coord × Nat)) : State :=
  let l := s.wires.filter (fun w => ns.contains (w.c, w.port))
  l.foldl (fun (s : State) w => s.recvBeat w.c w.port w.cw w.side w.copy)
    { s with wires := s.wires.filter (fun w => ! ns.contains (w.c, w.port)) }

/-- Steps 1 to 3 of the reclose of a router (R66, R67, R368): freeze, fillers, NACKs, the broadcast, and the hole. -/
def State.recloseStart (s : State) (h : Coord) (origin : Nat) : State :=
  let ns := s.towardCell h
  let s := ((s.addHole h origin).loseRouter h).takeFrom ns
  let s : State := { s with recloses := s.recloses ++ [⟨h, ns⟩] }
  let s := ns.foldl (fun s n =>
    let s := s.hardStop n.1 n.2 true
    let s := (List.range 10).foldl (fun s l => (s.fillOpen n.1 n.2 l).modLane n.1 n.2 l (fun i => { i with drop := false })) s
    let s := s.modIn n.1 n.2 (fun i => { i with gust := none })
    let s := s.fenceNacks n.1 n.2
    s.tidyRouter n.1) s
  let b := s.holeByp h
  let s := s.sendSig (s.reclosOrigin h) (.ringChange h b.1 b.2)
  (s.setReg (cellNode h) 0 0x8100 0x0B 1).abandonCell h

/-- The routers whose links a new hole can take away (R58, R64): those up to two places from it on its rings, and beside the router that
shares a bypass track with it, which it may have taken over. -/
def State.besideHole (s : State) (h : Coord) : List Coord :=
  let m := s.holeMap
  let on := fun (ax : Axis) (c : Coord) => [nextPos, fun n p up => nextPos n (nextPos n p up) up].flatMap (fun f =>
    [true, false].map (fun up => m.cellAt ax (lineOf ax c) (f (m.size ax) (m.posOf ax c) up)))
  on .row h ++ on .col h ++ on .row ⟨h.x ^^^ 1, h.y⟩ ++ on .col ⟨h.x, h.y ^^^ 1⟩

/-- A router is fenced and becomes a hole (R66, R368); the drop that its cell holds, if any, is fenced with it (R297). -/
def State.fenceCell (s : State) (h : Coord) (origin : Nat) : State :=
  let b := routerBlock h
  let s := { s with fences := s.fences.filter (fun x => x != b) }
  let s := ((s.setReg b.node 0 0x8100 0x0B 1).faultLive b 7 true).faultEvent b 7 0 0
  let s := s.recloseStart h origin
  let s := if (s.portOf? h).isSome then s.routeChange else s
  match s.dropAt h with
  | some _ => if s.reg (cellNode h) 0 0x8120 0x0B = 1 then s else s.decideFence (FaultBlock.mk (cellNode h) 0x8120 h)
  | none => s

/-- A router beside a new hole that is left with no usable link on either ring is fenced with ORIGIN 3 (R64), and those beside it are looked
at in turn. -/
def State.fenceStranded (s : State) (h : Coord) : Nat → State
  | 0 => s
  | fuel + 1 => (s.besideHole h).foldl (fun s c =>
      if s.isHole c ∨ ! s.holeMap.stranded c then s
      else
        let b := routerBlock c
        (((s.faultLive b 6 true).faultEvent b 6 0 0).fenceCell c 3).fenceStranded c fuel) s

/-- ROUTER_FENCE (R66, R368): a router of the grid that is no hole is fenced in service. Its drop, if it holds one, is
fenced too (R297), and a router that is left stranded is fenced by R64. -/
def State.fenceRouter (s : State) (h : Coord) : State :=
  if s.isHole h then s else (s.fenceCell h 2).fenceStranded h 16

/-- A router applies a ring change to the signals it holds (R66, R146): one with a single way out finds it afresh. -/
def RtrSt.rerouteSigs (r : RtrSt) : RtrSt :=
  let again := fun (b : BufSig) => match b.left with
    | some [g] => if g.copy then b else { b with left := none }
    | _ => b
  { r with sins := r.sins.map (fun i => (i.1, { i.2 with lanes := i.2.lanes.map (fun l => (l.1, l.2.map again)) })),
           comb := r.comb.map (fun w => { w with again := true }) }

/-- RING_CHANGE_RECEIVE (R66 step 4): the router applies the hole, and packets waiting at its inputs are routed afresh. -/
def State.ringChangeAt (s : State) (c h : Coord) : State :=
  if (s.rtr c).applied.contains h ∨ ! (s.holes.any (fun x => x.c == h && ! s.bootHole x)) then s
  else
    let s := s.modRtr c (fun r => { r.rerouteSigs with applied := r.applied ++ [h] })
    s.tidyRouter c

/-- An output that a reclose has joined to another router starts from what that router's input holds: its free places are the credits, and
its cumulative counts the last ones received. The section says what the output drives and not what it holds (log 92). -/
def State.rejoin (s : State) (c : Coord) (p : Nat) : State :=
  match (s.ringMap c).neighbour c p with
  | none => s
  | some d =>
    let q := facing p
    let places := (List.range 10).map (fun l => 16 - (s.lane d q l).q.length - (s.lane d q l).freed)
    let counts := fun (ls : List Nat) => ls.map (fun l => (s.lane d q l).cum)
    let s := s.modOut c p (fun o => { o with
      credits := places, got := counts beatLanes, lastCredit := counts sigLanes, sync := none, sent := [] })
    let i := SMap.get SigIn.init (s.rtr d).sins q
    s.modRtr c (fun r => { r with souts := SMap.put SigOut.init r.souts p { SMap.get SigOut.init r.souts p with
      credits := (List.range 8).map (fun l => 4 - (SMap.get [] i.lanes l).length), got := i.ret } })

/-- RECLOSE_RELEASE (R66 step 6): the frozen neighbours of a hole release the freeze. -/
def State.recloseRelease (s : State) (h : Coord) : State :=
  match s.recloses.find? (fun r => r.hole == h) with
  | none => s
  | some r =>
    let s := { s with recloses := s.recloses.filter (fun x => x.hole != h) }
    r.frozen.foldl (fun s n => ((s.hardStop n.1 n.2 false).rejoin n.1 n.2).tidyRouter n.1) s

/-! ### Anycast (R72, R73) -/

/-- Member `i` of an anycast group. -/
def State.anyMembers (s : State) (g : Nat) : List Coord :=
  (List.range (s.reg .engine 0 (0x2100 + g) 1)).map (fun i =>
    let a := addrOf (s.tabNat .engine 0 (0x2100 + g) 2 (4 * i) 4)
    ⟨a.x, a.y⟩)

/-- The home router of tally counter `k` of a field (R155). -/
def State.tallyHome (s : State) (f k : Nat) : Coord :=
  let a := s.agentCell f
  ⟨a.x + k % 16, a.y + k / 16⟩

/-- A tally counter's value, which TALLY holds (R156). -/
def State.tally (s : State) (f k : Nat) : Nat := s.tabNat (.field f) 0 0x3020 1 (8 * k) 8

/-- Set a tally counter. -/
def State.setTally (s : State) (f k v : Nat) : State :=
  s.setTab (.field f) 0 0x3020 1 (Memory.writeN 0 (s.tab (.field f) 0 0x3020 1) (8 * k) (leBytes 8 v))

/-- Period number ⌊FT / period⌋ of advertisement (R72). The rule does not say whose FT numbers it: field 0's does here (log 94). -/
def State.anyPeriod (s : State) : Nat := s.ft 0 / s.reg .engine 0 0x2011 3

/-- ANYCAST_ADVERTISE (R72 step 1): every live member sends its tally max to the home field's counter of this period. Whether a member whose
cell is in reset is live the rule does not say: it is not, here (log 93). -/
def State.anyAdvertise (s : State) (g : Nat) : State :=
  let ms := s.anyMembers g
  let n := s.anyPeriod
  let f := s.reg .engine 0 (0x2100 + g) 3
  ((List.range ms.length).zip ms).foldl (fun s im =>
    let c := im.2
    if s.isHole c ∨ (s.cell c).inReset then s
    else
      let r := (im.1 + ms.length - n % ms.length) % ms.length
      s.sendSig c (.tallyReq ⟨0x12, 0, f, 254 + n % 2, c.x, c.y, 0, ((s.cell c).landing.spare + 1) * 256 + (255 - r)⟩)) s

/-- ANYCAST_WINNER_DECODE (R72 steps 2 and 3): the counter of the period before is decoded, broadcast and reset. -/
def State.anyDecode (s : State) (g : Nat) : State :=
  let count := s.reg .engine 0 (0x2100 + g) 1
  let p := s.anyPeriod
  if count = 0 ∨ p = 0 then s
  else
    let n := p - 1
    let f := s.reg .engine 0 (0x2100 + g) 3
    let k := 254 + n % 2
    let v := s.tally f k
    let home := s.tallyHome f k
    let s := s.setTally f k 0
    if v = 0 then s.sendSig home (.anyWin g 0 true)
    else
      let r := 255 - v % 256
      let i := (r + n) % count
      let s := s.setReg .engine 0 (0x2100 + g) 4 (i % 256 + 256 * ((v / 256 - 1) % 256))
      s.sendSig home (.anyWin g i false)

/-- ANY_WIN_RECEIVE (R73): the router caches the latest winner. -/
def State.anyWinAt (s : State) (c : Coord) (g member : Nat) (no : Bool) : State :=
  s.modRtr c (fun r => { r with wins := SMap.put 0 r.wins g (if no then 1 else member + 2) })

end Sys2Proof.Machine
end

