-- ==== Sys2Proof/Machine/SigOps.lean ====
section
/-! DEFINITION. The signal net (chapter 7): signals read from their beats (R144), reception, forwarding and combining at a
router (R141 to R146, R152), SLSYNC (R142), barrier roots (R150 to R154), tally homes (R155, R156), and interrupts
(R158). -/

namespace Sys2Proof.Machine

/-! ### Signals from beats (R144) -/

/-- The signal that one or two beats hold; none for a link-local SOP, an unlisted one, and DICT signals, whose data
segments are assembled at their ends (R388). -/
def sigOf (a b : Nat) (two : Bool) : Option Signal :=
  match bits a 0 6 with
  | 0x08 => some (.nack ⟨bits a 8 8, bits a 16 16, targetOf (bits a 32 31), srcAddrOf (bits a 64 32), bits a 96 6,
      bits a 102 6, bits a 108 2, bits a 110 18⟩)
  | 0x09 => some (.delivered ⟨bits a 8 8, bits a 16 16, targetOf (bits a 32 31), srcAddrOf (bits a 64 32), bits a 96 32⟩)
  | 0x0A => some (.tallyRsp ⟨bits a 8 16, bits a 41 9, bits a 50 9, bits a 59 2, bits a 64 64⟩)
  | 0x0B => some (.int (targetOf (bits a 32 31)) (srcAddrOf (bits a 64 32)) (bits a 96 32))
  | 0x1C => some (.wake (targetOf (bits a 32 31)) (srcAddrOf (bits a 64 32)) (bits a 8 8))
  | 0x20 => some (.barArrive ⟨bits a 6 12, bits a 18 8, bits a 26 20, bits a 46 9, bits a 55 9, bits a 64 64,
      bits b 64 64, two⟩)
  | 0x21 => some (.barRelease ⟨bits a 8 12, bits a 20 8, bits a 28 20, bit a 48, bits a 49 9, bits a 58 9, bits a 67 9,
      bits a 76 9, bits b 64 64⟩)
  | 0x24 => some (.mresArrive ⟨bits a 8 12, bits a 20 1, bits a 21 5, bits a 32 18, bits a 50 18, srcAddrOf (bits a 96 32)⟩)
  | 0x25 => some (.mresGrant ⟨bits a 8 12, bits a 20 15, bits a 35 14, srcAddrOf (bits a 64 32), bits a 96 16, bits b 8 18,
      bits b 26 9, bits b 35 9, bits b 44 9, bits b 53 9⟩)
  | 0x28 => some (.ringChange ⟨bits a 8 9, bits a 17 9⟩ (bit a 26) (bit a 27))
  | 0x29 => some (.anyWin (bits a 8 8) (bits a 16 8) (bit a 24))
  | 0x2A => some (.beacon ⟨bits a 8 8, bit a 16, bits a 24 40, bits a 64 64⟩)
  | 0x2B => some (.halt ⟨bits a 8 4, bit a 12, srcAddrOf (bits a 32 32), bits a 64 64⟩)
  | n => if 0x10 ≤ n ∧ n ≤ 0x15 then
      some (.tallyReq ⟨n, bits a 8 16, bits a 24 9, bits a 33 8, bits a 41 9, bits a 50 9, bits a 59 2, bits a 64 64⟩)
    else none

/-- A pair of beats of a DICT signal (R388): the head with its first data starts a request or reply; a segment adds eight bytes
to the one in flight. `whole` turns true with the last of its bytes. -/
def dictPair (a b : Nat) : Option Signal :=
  let who : Requester := ⟨bits a 64 11, bits a 75 9, bits a 84 9, bits a 93 2, bit a 95⟩
  if bits a 0 6 = 0x18 then
    let n := bits b 6 13
    some (.dictReq ⟨who, bits a 8 16, bit a 6, bits a 24 16, bits a 40 8, bits a 96 11, bits a 48 16, bits a 107 18, n, bits b 35 16,
      bit b 51, bits b 64 64, [], ! (bit a 6 && decide (n ≠ 0))⟩)
  else if bits a 0 6 = 0x19 then
    let n := bits b 6 13
    some (.dictRsp ⟨who, bits a 8 16, bit a 6, bits a 24 16, bits a 40 8, bits a 96 11, bits a 48 16, bits a 107 18, bits b 19 8,
      bits b 27 8, n, bits b 35 16, bit b 51, bits b 64 64, [],
      bit a 6 || decide (n = 0)⟩)
  else none

/-- Add a data segment to the DICT signal that it belongs to, where its SEGNO is the next (R388). -/
def addSegment (a b : Nat) (sg : Signal) : Signal :=
  let bytes := leBytes 8 (bits b 64 64)
  match sg with
  | .dictReq r =>
    if ! r.whole ∧ bits a 0 6 = 0x18 ∧ r.tag = bits a 8 16 ∧ requesterWord r.who = bits a 64 31 ∧ r.data.length = 8 * bits b 6 9 then
      let d := (r.data ++ bytes).take r.tlen
      .dictReq { r with data := d, whole := decide (r.tlen ≤ d.length) }
    else sg
  | .dictRsp r =>
    if ! r.whole ∧ bits a 0 6 = 0x19 ∧ r.tag = bits a 8 16 ∧ requesterWord r.who = bits a 64 31 ∧ r.data.length = 8 * bits b 6 9 then
      let d := (r.data ++ bytes).take r.tlen
      .dictRsp { r with data := d, whole := decide (r.tlen ≤ d.length) }
    else sg
  | sg => sg

/-- The signal that a buffered one starts: read from its beats (R144, R388). -/
def BufSig.signal (b : BufSig) : Option Signal :=
  let a := nth b.beats 0 0
  if bits a 0 6 = 0x18 ∨ bits a 0 6 = 0x19 then dictPair a (nth b.beats 1 0)
  else sigOf a (nth b.beats 1 0) (decide (1 < b.beats.length))

/-- Is it a data segment of a DICT signal (R388)? -/
def BufSig.segment (b : BufSig) : Bool :=
  let a := nth b.beats 0 0
  (decide (bits a 0 6 = 0x18) || decide (bits a 0 6 = 0x19)) && bit a 7

/-- The class of a buffered signal (R142), which its SOP gives on every lane. -/
def BufSig.cls (b : BufSig) : Nat := (sopClass (bits (nth b.beats 0 0) 0 6)).getD 0

/-- The field whose agent serves a node (R374). -/
def State.nodeField (s : State) : Node → Nat
  | .engine => 0
  | .field f => f
  | .cell x y => s.fieldOf ⟨x, y⟩

/-- The cell a DICT_REQ for this engine is sent to (R388, R389): the agent cell of the node's field, or its alternate where the agent cell is
a hole. -/
def State.agentOf (s : State) (node cell : Nat) : Coord :=
  let f := match node % 4 with
    | 1 => node / 4
    | 2 => s.fieldOf ⟨cell % 512, cell / 512⟩
    | _ => 0
  s.agentAt f

/-- The cell of this engine that a signal is routed to (R144, R146), none where no route leads on; a broadcast is for every router, and its
goal is none of them. -/
def State.sigGoal (s : State) (b : BufSig) : Option Coord :=
  let a := nth b.beats 0 0
  let away := fun (sg : Signal) => match sigParties sg with
    | some (t, o) =>
      if t.eng = s.engine then none
      else some (s.gatewayFor (o.getD ⟨s.engine, b.org.x, b.org.y, 0, false⟩) ⟨t.eng, t.x, t.y, 0⟩)
    | none => none
  match b.signal.bind away with
  | some g => g
  | none => match bits a 0 6 with
    | 0x0A => some ⟨bits a 41 9, bits a 50 9⟩
    | 0x20 => some ⟨bits a 46 9, bits a 55 9⟩
    | 0x24 => some ⟨bits a 107 9, bits a 116 9⟩
    | 0x18 => some (s.agentOf (bits a 48 16) (bits a 107 18))
    | 0x19 => some ⟨bits a 75 9, bits a 84 9⟩
    | n => if 0x10 ≤ n ∧ n ≤ 0x15 then some (s.tallyHome (bits a 24 9) (bits a 33 8)) else some ⟨bits a 43 9, bits a 52 9⟩

/-! ### A router's signal ports (R141 to R146) -/

/-- A signal input. -/
def State.sin (s : State) (c : Coord) (q : Nat) : SigIn := SMap.get SigIn.init (s.rtr c).sins q

/-- Change a signal input. -/
def State.modSin (s : State) (c : Coord) (q : Nat) (f : SigIn → SigIn) : State :=
  s.modRtr c (fun r => { r with sins := SMap.put SigIn.init r.sins q (f (SMap.get SigIn.init r.sins q)) })

/-- A signal output. -/
def State.sout (s : State) (c : Coord) (p : Nat) : SigOut := SMap.get SigOut.init (s.rtr c).souts p

/-- Change a signal output. -/
def State.modSout (s : State) (c : Coord) (p : Nat) (f : SigOut → SigOut) : State :=
  s.modRtr c (fun r => { r with souts := SMap.put SigOut.init r.souts p (f (SMap.get SigOut.init r.souts p)) })

/-- The signals of an input lane. -/
def State.sigLane (s : State) (c : Coord) (q lane : Nat) : List BufSig := SMap.get [] (s.sin c q).lanes lane

/-- Replace the signals of an input lane. -/
def State.setSigLane (s : State) (c : Coord) (q lane : Nat) (l : List BufSig) : State :=
  s.modSin c q (fun i => { i with lanes := SMap.put [] i.lanes lane l })

/-- Put one signal beat on the wire of an output. -/
def State.putSigBeat (s : State) (c : Coord) (p : Nat) (cw : List Byte) (side : Nat) (route : RouteBits) (org : Coord) (copy : Bool) :
    State :=
  match (s.ringMap c).neighbour c p with
  | some d => { s with sigWires := s.sigWires ++ [⟨d, facing p, cw, side, route, org, copy⟩] }
  | none => s

/-- Free one buffer place of a signal input: its credit returns in CRL (R141, R142). -/
def State.freeSig (s : State) (c : Coord) (q lane : Nat) : State :=
  if 8 ≤ q then s
  else
    let s := s.modSin c q (fun i => { i with ret := setAt i.ret lane ((nth i.ret lane 0 + 1) % 256) })
    s.putSigBeat c q (zeros 19) (sideField 0xF lane false) ⟨0, false, 0⟩ c false

/-- A signal is discarded (R141, R144, R146). -/
def State.discardSig (s : State) (c : Coord) : State := s.bump (cellNode c) 0 0x4020 4 1

/-- Send a signal's beats on an output lane that has a credit. An output that a ring change has left with no link leads nowhere, and the
signal is discarded (R63, R146). -/
def State.emitSig (s : State) (c : Coord) (g : OutLeg) (beats : List Nat) (org : Coord) : State :=
  if ((s.ringMap c).neighbour c g.port).isNone then s.discardSig c
  else
  let s := s.modSout c g.port (fun o => { o with credits := setAt o.credits g.lane (nth o.credits g.lane 0 - 1) })
  let two := decide (1 < beats.length)
  let s := ((List.range beats.length).zip beats).foldl (fun s ib =>
    s.putSigBeat c g.port (rsEncode (leBytes 16 ib.2)) (sideField g.lane 0xF (two && decide (ib.1 = 0))) g.route org g.copy) s
  (s.bump (cellNode c) 0 0x4020 1 1).countEvent c 0x10 0 0 1

/-- Two arrivals merged (R152, R174): counts add, values combine by the VALOP, reasons are ORed. -/
def mergeArrive (valop : Nat) : Signal → Signal → Option Signal
  | .barArrive a, .barArrive b =>
    if a.bctx = b.bctx ∧ a.gen = b.gen ∧ a.two = b.two then
      let v := if a.two ∨ valop = 2 then min a.value b.value
        else if valop = 3 then max a.value b.value else (a.value + b.value) % 2 ^ 64
      some (.barArrive { a with count := a.count + b.count, value := v, hi := max a.hi b.hi })
    else none
  | .mresArrive a, .mresArrive b =>
    if a.mid = b.mid ∧ a.phase = b.phase ∧ a.source = b.source then
      some (.mresArrive { a with ok := a.ok + b.ok, fail := a.fail + b.fail, reasons := a.reasons ||| b.reasons })
    else none
  | _, _ => none

/-- VALOP of a barrier context, which every router learns when it is committed (R152). -/
def State.valop (s : State) (bctx : Nat) : Nat := s.reg .engine bctx 0x2200 6

/-! ### Where a signal goes (R146, R147) -/

/-- The data lane whose rules a signal lane follows (R142, R55): SL6 and SL7 are its detour lanes. -/
def asDataLane (l : Nat) : Nat := if l < 6 then l else l + 2

/-- The signal lane of a data lane. -/
def asSigLane (l : Nat) : Nat := if l < 8 then l else l - 2

/-- The copies of a broadcast at a router (R147): of an engine broadcast from its originator, and of a rectangle broadcast from its
originator or, for a multicast call, from the corner it is sent to first (R174). None where the signal is no broadcast, or still on its way
to that corner. -/
def State.sigSpread (s : State) (c : Coord) (q lane : Nat) (b : BufSig) : Option (List Copy) :=
  let m := s.ringMap c
  let l := asDataLane lane
  let r := m.ownRoute c ⟨none, none⟩ b.route q l
  let go := fun (x : Spread) first => some (x.copies m c b.cls (l % 2) r q first)
  match b.signal with
  | some (.ringChange ..) => go (engineSpread m b.org b.cls) (! b.copy)
  | some (.anyWin ..) => go (engineSpread m b.org b.cls) (! b.copy)
  | some (.beacon ..) => go (engineSpread m b.org b.cls) (! b.copy)
  | some (.halt ..) => go (engineSpread m b.org b.cls) (! b.copy)
  | some (.barRelease g) => go (rectSpread m .col b.org g.x0 g.y0 g.x1 g.y1 b.cls) (! b.copy)
  | some (.mresGrant g) =>
    if b.copy ∨ c = ⟨g.x, g.y⟩ then go (rectSpread m .col ⟨g.x, g.y⟩ g.x g.y g.x1 g.y1 b.cls) (! b.copy) else none
  | _ => none

/-- The outputs a buffered signal leaves by, 8 for its end here; none where it is discarded. -/
def State.sigLegs (s : State) (c : Coord) (q lane : Nat) (b : BufSig) : Option (List OutLeg) :=
  match s.sigSpread c q lane b with
  | some cs => some (cs.map (fun k => ⟨k.port, asSigLane k.lane, k.route, 0, true⟩))
  | none =>
    let goal := match b.signal with
      | some (.mresGrant g) => some ⟨g.x, g.y⟩
      | _ => s.sigGoal b
    match goal with
    | none => none
    | some d => match (s.ringMap c).nextHop s.routeCfg c d (some b.org.y) b.cls b.route q (asDataLane lane) with
      | .eject => some [⟨8, 0, ⟨0, false, 0⟩, 0, false⟩]
      | .out p l r _ => some [⟨p, asSigLane l, r, 0, false⟩]
      | .drop _ => none

/-- The cell that the leg of a copy starts from (R147): where an engine broadcast turns into a column ring, that router. -/
def legStart (c : Coord) (b : BufSig) (g : OutLeg) : Coord :=
  let eng := [0x28, 0x29, 0x2A, 0x2B].contains (bits (nth b.beats 0 0) 0 6)
  if eng ∧ g.route.phase = 1 ∧ (b.route.phase = 0 ∨ ! b.copy) then c else b.org

/-- A beacon that goes on from a router has been there for its residence, in sixteenths of a ns of the field's fc (R419). -/
def State.withResidence (s : State) (c : Coord) (q : Nat) (b : BufSig) : List Nat :=
  match b.signal with
  | some (.beacon x) =>
    if q = 8 then b.beats
    else
      let f := s.freq (s.fieldOf c)
      sigBeats (.beacon { x with res := (x.res + (s.time - b.at_) * f / 1000 * 16000 / max 1 f) % 2 ^ 40 })
  | _ => b.beats

/-! ### The signal stage (R142, R143, R152) -/

/-- Requests that stand in the queue of the agent at a cell (R389), those that still lack segments among them. -/
def State.agentWaits (s : State) (c : Coord) : Nat :=
  (s.sigs.filter (fun g => match g with
    | .dictReq r => decide (s.agentOf r.node r.cell = c)
    | _ => false)).length + (s.eng.partials.filter (fun p => decide (s.agentOf p.req.node p.req.cell = c))).length

/-- Is the engine in Calm or Still? -/
def State.asleep (s : State) : Bool := decide (s.reg .engine 0 0xA011 4 = 1) || decide (s.reg .engine 0 0xA011 4 = 2)

/-- A reply leaves an agent; in Calm and Still it takes the maintenance path, which needs no router (R390, R410). -/
def State.maintSig (s : State) (c : Coord) (sg : Signal) : State :=
  if ! s.asleep then s.sendSig c sg
  else match sigParties sg with
    | some (t, o) =>
      if t.eng = s.engine then { s with sigs := s.sigs ++ [sg] } else (s.exitSig sg t o none false).getD (s.discardSig c)
    | none => s

/-- A signal has arrived at its sink (R161): a DICT_REQ that finds 64 requests in the queue of its agent is answered at once, REFUSED with
BUSY (R389). -/
def State.sinkSig (s : State) (c : Coord) (sg : Signal) : State :=
  let keep : State := { s with sigs := s.sigs ++ [sg] }
  match sg with
  | .dictReq r =>
    if 64 ≤ s.agentWaits c then s.maintSig c (.dictRsp (reqReply r 2 0x14 0 0 [])) else keep
  | _ => keep

/-- Give a data segment to the requests and replies that have begun: those that have arrived here, or stand in the queue of the port whose
gateway cell this is. -/
def State.addSeg (s : State) (c : Coord) (a b : Nat) : State :=
  let add := fun (g : Signal) => addSegment a b g
  let grow := fun (p : PartReq) => match addSegment a b (.dictReq p.req) with
    | .dictReq r => { p with req := r }
    | _ => p
  let s : State := { s with sigs := s.sigs.map add, eng := { s.eng with partials := s.eng.partials.map grow } }
  match s.portOf? c with
  | some p => s.modPort p (fun q => { q with sigq := q.sigq.map (fun t => { t with sg := add t.sg }) })
  | none => s

/-- Is a data segment the next of what has begun? -/
def State.segFits (s : State) (c : Coord) (a b : Nat) : Bool :=
  let fits := fun (g : Signal) => addSegment a b g != g
  s.sigs.any fits || s.eng.partials.any (fun p => fits (.dictReq p.req)) ||
    (match s.portOf? c with
     | some p => (s.port p).sigq.any (fun t => fits t.sg)
     | none => false)

/-- Segments that came before their turn join as their turn comes (R388). -/
def State.addSegs (s : State) (c : Coord) : Nat → State
  | 0 => s
  | fuel + 1 => match s.eng.segs.find? (fun x => s.segFits c x.1 x.2.1) with
    | none => s
    | some x => (({ s with eng := { s.eng with segs := s.eng.segs.erase x } } : State).addSeg c x.1 x.2.1).addSegs c fuel

/-- A data segment has arrived: segments are assembled by SEGNO in whatever order they come (R388). One that came before its turn waits no
longer than a head does, 10 µs (DESIGN CHOICE, log 135). -/
def State.takeSegment (s : State) (c : Coord) (a b : Nat) : State :=
  let fresh := s.eng.segs.filter (fun x => decide (s.time ≤ x.2.2 + 10000))
  let s : State := { s with eng := { s.eng with segs := fresh ++ [(a, b, s.time)] } }
  s.addSegs c s.eng.segs.length

/-- A signal ends at a router (R144): it has arrived at its sink, or at the gateway cell of its exit port, where it joins that port's queue
(R306). The pairs of beats of a DICT signal join the request or reply they belong to. -/
def State.deliverSig (s : State) (c : Coord) (b : BufSig) : State :=
  let a := nth b.beats 0 0
  if b.segment then s.takeSegment c a (nth b.beats 1 0)
  else match b.signal with
  | none => s
  | some sg => match sigParties sg with
    | some (t, o) =>
      let s := if t.eng = s.engine then s.sinkSig c sg else (s.exitSig sg t o none false).getD (s.discardSig c)
      s.addSegs c s.eng.segs.length
    | none => { s with sigs := s.sigs ++ [sg] }

/-- The holes that a router answers for, whose copies of a multicast call would have left it (R174). -/
def State.callHoles (s : State) (c : Coord) (q lane : Nat) (b : BufSig) : State :=
  match b.signal with
  | some (.mresGrant g) =>
    let m := s.ringMap c
    let corner : Coord := ⟨g.x, g.y⟩
    if b.copy ∨ c = corner then
      s.mresHoles c g (rectAhead m .col corner g.x g.y g.x1 g.y1 c (m.ownRoute c ⟨none, none⟩ b.route q (asDataLane lane)) q (! b.copy))
    else s
  | _ => s

/-- Settle the head of an input lane: what ends here is delivered, a discarded one goes, and one with nothing left to send frees its place. -/
def State.settleSig (s : State) (c : Coord) (q lane : Nat) : Nat → State
  | 0 => s
  | fuel + 1 =>
    match s.sigLane c q lane with
    | [] => s
    | b :: rest =>
      let pop := fun (s : State) => ((s.setSigLane c q lane rest).freeSig c q lane).settleSig c q lane fuel
      match b.left with
      | some [] => pop s
      | some _ => s
      | none => match s.sigLegs c q lane b with
        | none => pop (s.discardSig c)
        | some ls =>
          let s := (if ls.any (fun g => g.port == 8) then s.deliverSig c b else s).callHoles c q lane b
          let on := ls.filter (fun g => g.port != 8)
          if on.isEmpty then pop s else s.setSigLane c q lane ({ b with left := some on } :: rest)

/-- The input lanes of a router that hold a signal, each as 8·input + lane. -/
def State.sigActive (s : State) (c : Coord) : List Nat :=
  (s.rtr c).sins.flatMap (fun i => i.2.lanes.filterMap (fun l => if l.2.isEmpty then none else some (8 * i.1 + l.1)))

/-- Settle every input lane of a router. -/
def State.settleSigs (s : State) (c : Coord) : State :=
  (s.sigActive c).foldl (fun s j => s.settleSig c (j / 8) (j % 8) ((s.sigLane c (j / 8) (j % 8)).length + 1)) s

/-- The leg by which the head of an input lane would leave by an output that has a credit for it. -/
def State.sigReady (s : State) (c : Coord) (p j : Nat) : Option OutLeg :=
  match s.sigLane c (j / 8) (j % 8) with
  | b :: _ => (b.left.getD []).find? (fun g => g.port == p && decide (0 < nth (s.sout c p).credits g.lane 0))
  | [] => none

/-- An output serves the laned signals round robin over (input, lane), passing over what lacks a credit (R143). -/
def State.serveOutput (s : State) (c : Coord) (p : Nat) : Nat → State
  | 0 => s
  | fuel + 1 =>
    let last := (s.sout c p).last
    let ready := (s.sigActive c).filter (fun j => (s.sigReady c p j).isSome)
    match ready with
    | [] => s
    | j :: js =>
      let turn := fun (k : Nat) => (k + 71 - last) % 72
      let j := js.foldl (fun a b => if turn b < turn a then b else a) j
      match s.sigReady c p j, s.sigLane c (j / 8) (j % 8) with
      | some g, b :: rest =>
        let s := s.emitSig c g (s.withResidence c (j / 8) b) (legStart c b g)
        let s := s.modSout c p (fun o => { o with last := j })
        let s := s.setSigLane c (j / 8) (j % 8) ({ b with left := b.left.map (fun l => l.erase g) } :: rest)
        (s.settleSig c (j / 8) (j % 8) (rest.length + 2)).serveOutput c p fuel
      | _, _ => s

/-- An arrival that cannot leave by its leg waits in the combining table or merges there (R152). One that finds the table full stays in its
lane, which is counted once. -/
def State.combine (s : State) (c : Coord) (q lane : Nat) (b : BufSig) (rest : List BufSig) (g : OutLeg) (sg : Signal) : State :=
  let op := match sg with | .barArrive a => s.valop a.bctx | _ => 0
  let leave := fun (s : State) => ((s.setSigLane c q lane rest).freeSig c q lane).settleSig c q lane (rest.length + 1)
  match (s.rtr c).comb.find? (fun w => ! w.again && w.port == g.port && (mergeArrive op w.sg sg).isSome) with
  | some w =>
    let m := (mergeArrive op w.sg sg).getD w.sg
    let s := s.modRtr c (fun r => { r with comb := r.comb.map (fun x => if x = w then { x with sg := m } else x) })
    leave (s.bump (cellNode c) 0 0x4020 2 1)
  | none =>
    if (s.rtr c).comb.length < 32 then
      leave (s.modRtr c (fun r => { r with comb := r.comb ++ [⟨g.port, g.lane, sg, g.route, b.org, q, lane, b.route, false⟩] }))
    else if b.full then s
    else (s.setSigLane c q lane ({ b with full := true } :: rest)).bump (cellNode c) 0 0x4020 3 1

/-- Combining arrivals at the heads of the lanes of a router that cannot leave (R152), whatever lanes they are on. -/
def State.combineHeads (s : State) (c : Coord) : State :=
  (s.sigActive c).foldl (fun s j => match s.sigLane c (j / 8) (j % 8) with
    | b :: rest => match b.left, b.signal with
      | some [g], some sg => match sg with
        | .barArrive _ => s.combine c (j / 8) (j % 8) b rest g sg
        | .mresArrive _ => s.combine c (j / 8) (j % 8) b rest g sg
        | _ => s
      | _, _ => s
    | [] => s) s

/-- Arrivals in the combining table whose way a ring change has taken find it afresh (R66, R146). -/
def State.rerouteTable (s : State) (c : Coord) : State :=
  ((s.rtr c).comb.filter Waiting.again).foldl (fun s w =>
    let b : BufSig := ⟨sigBeats w.sg, w.came, w.org, false, none, false, s.time⟩
    let drop := s.modRtr c (fun r => { r with comb := r.comb.erase w })
    match (s.sigLegs c w.q w.ql b).getD [] with
    | g :: _ =>
      if g.port = 8 then drop.deliverSig c b
      else s.modRtr c (fun r => { r with comb := r.comb.map (fun x => if x = w then
        { x with port := g.port, lane := g.lane, route := g.route, again := false } else x) })
    | [] => drop.discardSig c) s

/-- What waits in the combining table leaves as credits allow. The round robin of R143 is over inputs and lanes, and the table is neither:
it is served ahead of them (DESIGN CHOICE, log 112). -/
def State.serveTable (s : State) (c : Coord) : State :=
  (s.rtr c).comb.foldl (fun s w =>
    if 0 < nth (s.sout c w.port).credits w.lane 0 then
      let s := s.modRtr c (fun r => { r with comb := r.comb.erase w })
      s.emitSig c ⟨w.port, w.lane, w.route, 0, false⟩ (sigBeats w.sg) w.org
    else s) s

/-- A link-local signal as it leaves: SLSYNC carries the counts of that moment (R142). -/
def State.localNow (s : State) (c : Coord) (p : Nat) (sg : Signal) : Signal :=
  match sg with
  | .slsync d q _ => .slsync d q (s.sin c p).ret
  | _ => sg

/-- The pending link-local signals of an output leave before any laned one (R143). -/
def State.serveLocal (s : State) (c : Coord) (p : Nat) : State :=
  let l := (s.sout c p).stage
  if l.isEmpty then s
  else l.foldl (fun s sg => s.putSigBeat c p (rsEncode (leBytes 16 (nth (sigBeats (s.localNow c p sg)) 0 0))) (sideField 8 0xF false)
      ⟨0, false, 0⟩ c false)
    (s.modSout c p (fun o => { o with stage := [] }))

/-- Rounds of the signal stage: outputs serve, and arrivals that cannot leave combine, which lets those behind them on. -/
def State.serveRounds (s : State) (c : Coord) : Nat → State
  | 0 => s
  | fuel + 1 =>
    if (s.sigActive c).isEmpty then s
    else
      let s := (List.range 8).foldl (fun s p => s.serveOutput c p 72) s
      (s.combineHeads c).serveRounds c fuel

/-- Does a router hold a signal? -/
def RtrSt.holdsSig (r : RtrSt) : Bool :=
  r.sins.any (fun i => i.2.lanes.any (fun l => ! l.2.isEmpty)) || r.souts.any (fun o => ! o.2.stage.isEmpty) || ! r.comb.isEmpty

/-- The signal stage of a router (R143, R152). It rests while the clock of its field is stopped (R12, R398) and while the engine is in Calm
or Still (R404); a hole forwards nothing (R57). -/
def State.serveSignals (s : State) (c : Coord) : State :=
  if ! (s.rtr c).holdsSig || s.isHole c || ! s.clockRuns (s.fieldOf c) then s
  else
    let s := (List.range 8).foldl (fun s p => s.serveLocal c p) s
    let s := (s.rerouteTable c).serveTable c
    (s.settleSigs c).serveRounds c 6

/-- The signal stages of all routers run: what has been issued leaves its router, or ends there. -/
def State.serveNet (s : State) : State :=
  s.rtrs.foldl (fun s k => if k.2.holdsSig then s.serveSignals ⟨k.1 % 512, k.1 / 512⟩ else s) s

/-- A protocol violation of a signal link (R141, R144): the beat is discarded and the link struck. -/
def State.sigViolation (s : State) (c : Coord) (q : Nat) : State := (s.strike (routerBlock c) 2 q 0).discardSig c

/-- A whole signal has arrived on a lane of an input. -/
def State.takeLaned (s : State) (c : Coord) (q lane : Nat) (b : BufSig) : State :=
  if ! sopLaneOk (bits (nth b.beats 0 0) 0 6) lane then (s.sigViolation c q).freeSig c q lane
  else if 4 ≤ (s.sigLane c q lane).length then s.sigViolation c q
  else s.setSigLane c q lane (s.sigLane c q lane ++ [b])

/-- SLSYNC_RECEIVE (R142): credits that a discarded beat lost are restored. -/
def State.slsyncAt (s : State) (c : Coord) (p : Nat) (counts : List Nat) : State :=
  let o := s.sout c p
  let d := fun l => sub8 (nth counts l 0) (nth o.got l 0)
  let s := s.modSout c p (fun o => { o with
    credits := (List.range 8).map (fun l => min 4 (nth o.credits l 0 + d l)),
    got := (List.range 8).map (fun l => nth counts l 0 % 256) })
  if (List.range 8).all (fun l => d l == 0) then s else s.bump (cellNode c) 0 0x4020 6 1

/-- SLSYNC_SEND (R142): the cumulative counts of credits an input has returned. -/
def State.slsyncSend (s : State) (c : Coord) (q : Nat) : State :=
  s.linkLocal c q (fun d p => .slsync d p (s.sin c q).ret)

/-- A link-local signal acts on the link it arrives on (R143): the input's own link, whose output is the same port. -/
def State.takeLinkLocal (s : State) (c : Coord) (q w : Nat) : State :=
  let ks := fun (n : Nat) => (List.range n).map (fun i => bits w (8 + 8 * i) 8)
  match bits w 0 6 with
  | 1 => s.creditSignalAt c q (ks 4)
  | 2 => s.syncRequest c q
  | 3 => s.syncReply c q (ks 6)
  | 4 => s.slsyncAt c q (ks 8)
  | _ => s.sigViolation c q

/-- The credit that a signal beat's side byte returns (R142). -/
def State.takeCrl (s : State) (c : Coord) (q side : Nat) : State :=
  let crl := bits side 4 4
  if crl < 8 then
    s.modSout c q (fun o => { o with
      credits := setAt o.credits crl (min 4 (nth o.credits crl 0 + 1)),
      got := setAt o.got crl ((nth o.got crl 0 + 1) % 256) })
  else s

/-- A link-local signal that a command names has left its wire, with the credit that its beat returns. -/
def State.takeLocal (s : State) (c : Coord) (q : Nat) (sg : Signal) : State :=
  let cw := rsEncode (leBytes 16 (nth (sigBeats sg) 0 0))
  let at_ := fun (w : WireSig) => w.c == c && w.port == q && w.cw == cw && decide (bits w.side 0 4 = 8)
  match s.sigWires.find? at_ with
  | some w => ({ s with sigWires := s.sigWires.eraseP at_ } : State).takeCrl c q w.side
  | none => s

/-- A beat of a signal lane is lost (R141, R142): with the last beat of its signal the buffer place it was sent for is free again. -/
def State.loseBeat (s : State) (c : Coord) (q lane : Nat) (pair : Bool) : State :=
  if 8 ≤ lane then s
  else if pair then s.modSin c q (fun i => { i with half := some (lane, none) })
  else s.freeSig c q lane

/-- A beat of a signal lane with its 16 bytes of content: a signal of one beat, or one half of a signal of two (R141). A second beat that
does not follow on its lane is a violation, and its signal is lost. -/
def State.lanedBeat (s : State) (c : Coord) (q lane : Nat) (pair : Bool) (w : Nat) (route : RouteBits) (org : Coord) (copy : Bool) : State :=
  let full := fun (bs : List Nat) => (⟨bs, route, org, copy, none, false, s.time⟩ : BufSig)
  match (s.sin c q).half with
  | some (l, a) =>
    let s := s.modSin c q (fun i => { i with half := none })
    if l = lane ∧ ! pair then
      match a with
      | some a => s.takeLaned c q lane (full [a, w])
      | none => s.freeSig c q lane
    else ((s.sigViolation c q).freeSig c q l).loseBeat c q lane pair
  | none =>
    if pair then s.modSin c q (fun i => { i with half := some (lane, some w) })
    else s.takeLaned c q lane (full [w])

/-- A beat is discarded, and its signal with it: that of a first beat which waited for it, and that which it begins. -/
def State.dropBeat (s : State) (c : Coord) (q lane : Nat) (pair : Bool) : State :=
  match (s.sin c q).half with
  | some (l, _) =>
    let s := s.modSin c q (fun i => { i with half := none })
    if l = lane ∧ ! pair then s.freeSig c q lane else (s.freeSig c q l).loseBeat c q lane pair
  | none => s.loseBeat c q lane pair

/-- A beat of a signal lane that cannot be corrected is discarded, and its signal with it. -/
def State.badSigBeat (s : State) (c : Coord) (q lane : Nat) (pair : Bool) : State :=
  ((s.strike (routerBlock c) 1 q 0).discardSig c).dropBeat c q lane pair

/-- An idle beat or a link-local one comes between the two beats of a signal: the second did not follow, which is a violation, and the signal
is lost (R141). -/
def State.cutHalf (s : State) (c : Coord) (q : Nat) : State :=
  match (s.sin c q).half with
  | some (l, _) => ((s.modSin c q (fun i => { i with half := none })).sigViolation c q).freeSig c q l
  | none => s

/-- A signal beat arrives at an input (R141, R142). -/
def State.sigBeatCore (s : State) (c : Coord) (q : Nat) (cw : List Byte) (side : Nat) (route : RouteBits) (org : Coord) (copy : Bool) :
    State :=
  let lane := bits side 0 4
  let crl := bits side 4 4
  let pair := bit side 8
  if ! parity 10 side then (s.sigViolation c q).dropBeat c q 0xF false
  else if (9 ≤ lane ∧ lane ≤ 14) ∨ (8 ≤ crl ∧ crl ≤ 14) then (s.sigViolation c q).dropBeat c q lane pair
  else
    let s := s.takeCrl c q side
    let go := fun (s : State) (cw : List Byte) =>
      let w := leNat (cw.take 16)
      if lane = 0xF then s.cutHalf c q
      else if lane = 8 then (s.cutHalf c q).takeLinkLocal c q w
      else s.lanedBeat c q lane pair w route org copy
    match rsDecode cw with
    | .clean => go s cw
    | .corrected cw' => go ((s.wear (routerBlock c) 1).countEvent c 0x0F 0 0 1) cw'
    | _ => if lane = 0xF then (s.strike (routerBlock c) 1 q 0).cutHalf c q else s.badSigBeat c q lane pair

/-- A signal beat arrives: it leaves its wire, with an injection into its codeword where one is armed and it carries a signal (R373 kind 3). While the field's clock
is stopped it is held before the router (R12, R398), and at a hole it is lost (R57). -/
def State.recvSigBeat (s : State) (c : Coord) (q : Nat) (cw : List Byte) (side : Nat) : State :=
  let b := routerBlock c
  let at_ := fun (w : WireSig) => w.c == c && w.port == q && w.cw == cw && w.side == side
  if ! s.clockRuns (s.fieldOf c) then s
  else
    let wire := s.sigWires.find? at_
    let s := { s with sigWires := s.sigWires.eraseP at_ }
    let route := (wire.map WireSig.route).getD ⟨0, false, 0⟩
    let org := (wire.map WireSig.org).getD c
    let copy := (wire.map WireSig.copy).getD false
    if s.isHole c then (if bits side 0 4 < 8 ∧ ! bit side 8 then s.discardSig c else s)
    else if 8 < bits side 0 4 then s.sigBeatCore c q cw side route org copy
    else match s.takeInject b.node 3 q with
      | (none, s) => s.sigBeatCore c q cw side route org copy
      | (some (pat, quiet), s) =>
        let r := s.sigBeatCore c q (xorBytes pat cw) side route org copy
        if quiet then s.noStrikes r b else r

/-! ### Barriers (R150 to R154) -/

/-- A subindex of a barrier context at its root. -/
def State.bar (s : State) (c : Coord) (k sub : Nat) : Nat := s.reg (cellNode c) k 0x2200 sub

/-- Set a subindex of a barrier context at its root. -/
def State.setBar (s : State) (c : Coord) (k sub v : Nat) : State := s.setReg (cellNode c) k 0x2200 sub v


/-- Member cells of a barrier context. -/
def State.barMembers (s : State) (k : Nat) : List Coord := s.allCells.filter (s.memberOf k 0x2200 3 4)

/-- The phase of a barrier ends (R153): the release is broadcast and the result kept. RESULT of VALOP NONE is unstated, so
it is a free value (log 1). -/
def State.barRelease (s : State) (c : Coord) (k : Nat) (timeout : Bool) : State :=
  let b := SMap.get ⟨0, 0, 0⟩ s.bars k
  let op := s.valop k
  let r := boundingRect (s.barMembers k)
  let fs := if op = 0 then s.fresh else (0, s)
  let s := fs.2
  let res := if op = 0 then fs.1 else if op = 4 then (b.hi + 2 ^ 64 - b.lo) % 2 ^ 64 else b.lo
  let gen := s.bar c k 9
  let s := s.sendSig c (.barRelease ⟨k, gen, s.bar c k 0x0B, timeout, r.1, r.2.1, r.2.2.1, r.2.2.2, res⟩)
  let s := (s.setBar c k 0x0C (if op = 0 then fs.1 else b.lo)).setBar c k 0x0D (if op = 4 then b.hi else 0)
  let s := ((s.setBar c k 0x0E (b2n timeout)).setBar c k 0x0B 0).setBar c k 0x0A 1
  let s := s.bump (cellNode c) k 0x2200 0x0F 1
  let s := if timeout then s.setBar c k 9 ((gen + 1) % 256) else s
  { s with bars := SMap.put ⟨0, 0, 0⟩ s.bars k ⟨0, 0, 0⟩ }

/-- A signal that ends in the router of a cell: it waits while the clock of the field is stopped (R12, R398), and is discarded where the router
is a hole (R63, R146); the last live router before it counts that, here the hole's own counter (log 113). -/
def State.atRouter (s : State) (c : Coord) (sg : Signal) (run : State → State) : State :=
  if s.isHole c then (s.takeSig sg).discardSig c
  else if s.clockRuns (s.fieldOf c) then run (s.takeSig sg)
  else { s with sigs := if s.sigs.contains sg then s.sigs else s.sigs ++ [sg] }

/-- BAR_ARRIVE_AT_ROOT (R151, R153): an arrival at the root. -/
def State.barArriveRoot (s : State) (c : Coord) (a : BarArrive) : State :=
  let k := a.bctx
  let st := s.bar c k 0x0A
  let n := s.bar c k 0x0B + a.count
  if st = 0 ∨ a.gen ≠ s.bar c k 9 ∨ s.bar c k 8 < n ∨ (st = 1 ∧ s.inCommit 0x2200 k) then s.bump (cellNode c) k 0x2200 0x10 1
  else
    let b := SMap.get ⟨0, 0, 0⟩ s.bars k
    let hi := if a.two then a.hi else a.value
    let op := s.valop k
    let v := if st = 1 then (a.value, hi)
      else if op = 1 then ((b.lo + a.value) % 2 ^ 64, 0)
      else if op = 3 then (max b.lo a.value, 0)
      else (min b.lo a.value, max b.hi hi)
    let due := if st = 1 then s.time + us (s.reg .engine k 0x2200 7) else b.deadline
    let nb : BarSt := ⟨due, v.1, v.2⟩
    let s := { s with bars := SMap.put ⟨0, 0, 0⟩ s.bars k nb }
    let s := (s.setBar c k 0x0B n).setBar c k 0x0A 2
    if n = s.bar c k 8 then s.barRelease c k false else s

/-- BAR_ARRIVE_AT_ROOT (R151, R153). -/
def State.barArriveAt (s : State) (c : Coord) (a : BarArrive) : State := s.atRouter c (.barArrive a) (fun s => s.barArriveRoot c a)

/-- A barrier with no open phase. -/
def BarSt.init : BarSt := ⟨0, 0, 0⟩

/-- The root cell of a barrier context (0x2200.02). -/
def State.barRoot (s : State) (k : Nat) : Coord :=
  let a := addrOf (s.reg .engine k 0x2200 2)
  ⟨a.x, a.y⟩

/-- BARRIER_PHASE_TIMEOUT (R153). A root that has become a hole releases nothing (R57, R368), and the lease runs on fabric time (R164). -/
def State.barTimeout (s : State) (k : Nat) : State :=
  let c := s.barRoot k
  let b : BarSt := SMap.get BarSt.init s.bars k
  if s.bar c k 0x0A = 2 ∧ s.isHole c = false then ({ s with time := max s.time b.deadline }).barRelease c k true
  else s

/-- BAR_RELEASE at a cell port (R154): every waiting command of the context is answered. -/
def State.barReleaseAt (s : State) (c : Coord) (r : BarRelease) : State :=
  let ms := (s.cell c).cmds.filter (fun m => decide (kindOf m.desc = .barArrive) && m.issued &&
    decide (bits (dSigtgt m.desc) 0 12 = r.bctx))
  ms.foldl (fun s m =>
    if bits (dSigtgt m.desc) 12 8 = r.gen then
      s.complete c m (if r.timeout then 9 else 0) 0 (if s.valop r.bctx = 0 then r.count else r.value)
    else s.complete c m 2 4 0) s

/-! ### Tally counters (R155, R156) -/

/-- The new value of a tally counter (*Tally operations*). -/
def tallyNew (op c v : Nat) : Nat :=
  match op with
  | 0x10 => (c + v) % 2 ^ 64
  | 0x11 => min c v
  | 0x12 => max c v
  | 0x13 => c
  | 0x14 => v
  | _ => if v ≤ c then c - v else c

/-- One atomic operation on a tally counter, answered with OLD (R156). -/
def State.tallyOp (s : State) (q : TallyReq) : State :=
  let old := s.tally q.f q.k
  let s := (s.setTally q.f q.k (tallyNew q.op old q.v)).bump (.field q.f) 0 0x3020 2 1
  let s := if q.op = 0x15 ∧ old < q.v then s.bump (.field q.f) 0 0x3020 3 1 else s
  s.sendSig (s.tallyHome q.f q.k) (.tallyRsp ⟨q.tag, q.x, q.y, q.core, old⟩)

/-- TALLY_REQUEST_AT_HOME (R156). -/
def State.tallyAt (s : State) (q : TallyReq) : State := s.atRouter (s.tallyHome q.f q.k) (.tallyReq q) (fun s => s.tallyOp q)

/-- Is a command a tally operation? -/
def isTally (d : Nat) : Bool := match kindOf d with | .tally _ => true | _ => false

/-- TALLY_RSP_RECEIVE (R156): the SIGNAL command completes with VALUE = OLD. -/
def State.tallyRspAt (s : State) (q : TallyRsp) : State :=
  let c : Coord := ⟨q.x, q.y⟩
  match s.cmd? c q.tag with
  | some m => if isTally m.desc then s.complete c m 0 0 q.old else s
  | none => s

/-! ### Interrupts (R158) -/

/-- INT at its cell port: an entry of the core's queue, or an overflow. An interrupt to a cell that is a hole or in reset is lost (R362); the
section names no count for it, and none is kept. -/
def State.intAt (s : State) (c : Coord) (core origin arg32 : Nat) : State :=
  if s.isHole c ∨ (s.cell c).inReset then s
  else if 16 ≤ (s.core c core).intq.length then s.bump (cellNode c) 0 (0x4008 + core) 3 1
  else s.modCore c core (fun k => { k with intq := k.intq ++ [origin % 2 ^ 32 + 2 ^ 32 * (arg32 % 2 ^ 32)] })

/-- INT_TAKE (R158): the oldest entry, outcome 0, or the empty indication, outcome 1. -/
def State.intTake (s : State) (c : Coord) (core tag : Nat) : State :=
  match (s.core c core).intq with
  | e :: rest => (s.modCore c core (fun k => { k with intq := rest })).answer c core tag e 0
  | [] => s.answer c core tag 0 1

end Sys2Proof.Machine
end

