-- ==== Sys2Proof/Machine/PortOps.lean ====
section
/-! DEFINITION. A link port's states (R313, R315, R332), its frames and keys (R304, R305), sequence and replay (R308), the
transmit order (R306, R307, R310), and its violations (R330). -/

namespace Sys2Proof.Machine

/-! ### Registers and blocks of a port -/

/-- The fault block of a link port. -/
def State.linkBlock (s : State) (p : Nat) : FaultBlock := ⟨s.portNode p, 0x8130, s.gatewayCell p 0⟩

/-- Count at LINK_STATUS. -/
def State.bumpLink (s : State) (p sub k : Nat) : State := s.bump (s.portNode p) 0 0x7020 sub k

/-- A timer of LINK_TIMERS, in ns, from its unit in ns. -/
def State.linkTimer (s : State) (sub unit : Nat) : Nat := s.reg .engine 0 0x7002 sub * unit

/-- ms in ns. -/
def ms (n : Nat) : Nat := 1000000 * n

/-- The fabric time at a port. -/
def State.portFt (s : State) (p : Nat) : Nat := s.ft (s.fieldOf (s.gatewayCell p 0))

/-- The cell-port outputs of a port's gateway cells stop hard when its link goes down, and with them the gusts that begin packets it has
brought in (R93, R94, R332); they go on when it is UP again. A link that has never been up has stopped nothing (log 105). -/
def State.linkStop (s : State) (p : Nat) (on : Bool) : State :=
  ((List.range 8).map (s.gatewayCell p)).eraseDups.foldl (fun s c =>
    if (s.outp c 8).hardStop = on then s else (s.hardStop c 8 on).tidyRouter c) s

/-- A port changes state (R313, R432). -/
def State.setPortState (s : State) (p st : Nat) : State :=
  let s := if st = 4 then s.linkStop p false else s
  let s := s.setReg (s.portNode p) 0 0x7010 6 st
  let s := s.modPort p (fun q => { q with since := s.time })
  s.ringEvent (s.gatewayCell p 0) 6 0 (st + 16 * s.lport p 0x0D)

/-- The role of a trunk port as (d, dir); none for a free or disabled one (R301). -/
def State.trunkRole (s : State) (p : Nat) : Option (Nat × Nat) :=
  let r := s.lport p 1
  if bit r 3 ∨ bit r 4 then none else some (bits r 0 2, bits r 2 1)

/-- Free values as bytes: random numbers that the spec asks to be fresh (R316, R319; log 1). -/
def State.freshBytes (s : State) (n : Nat) : List Byte × State :=
  (List.range n).foldl (fun (r : List Byte × State) _ => let f := r.2.fresh; (r.1 ++ leBytes 8 f.1, f.2)) ([], s)

/-! ### Frames (R304, R305) -/

/-- The header of a frame. -/
def frameHeader (f : Frame) : List Byte :=
  leBytes 8 (pack [(0, 4, f.kind), (4, 5, f.body.length), (9, 1, b2n f.enc), (10, 1, b2n f.kp), (11, 1, b2n f.nak),
    (16, 16, f.seq), (32, 16, f.ack), (56, 8, f.txl)])

/-- The nonce of a frame: the IV XOR 32 zero bits and TXC (R305). -/
def frameNonce (iv : List Byte) (txc : Nat) : List Byte := List.zipWith (· ^^^ ·) iv (zeros 4 ++ beBytes 8 txc)

/-- Cut a body into items of 36 bytes. -/
def bodyItems : Nat → List Byte → List (List Byte)
  | 0, _ => []
  | n + 1, bs => bs.take 36 :: bodyItems n (bs.drop 36)

/-- Are bodies encrypted under the session key (R317, R318)? -/
def State.encrypts (s : State) (p : Nat) : Bool :=
  decide (s.lport p 0x0C = 1) && decide ((s.port p).tx.key ≠ KeySt.null.key)

/-- Send a frame (R305): TXC advances, the tag is made under the sending key, and NAK goes with it if it is due. Kind 8 of
FAULT_INJECT corrupts the tag (R373). -/
def State.transmit (s : State) (p kind seq : Nat) (body : List (List Byte)) : State :=
  let q := s.port p
  let enc := s.encrypts p && decide (kind ≠ 2)
  let f : Frame := ⟨kind, enc, q.tx.kp, q.wantNak, seq, q.expect, q.tx.count % 256, body, []⟩
  let plain := body.flatten
  let iv := frameNonce q.tx.iv q.tx.count
  let z := if enc then gcmSeal q.tx.key iv (frameHeader f) plain else (plain, (gcmSeal q.tx.key iv (frameHeader f ++ plain) []).2)
  let x := s.takeInject (s.portNode p) 8 0
  let tag := match x.1 with
    | some pat => List.zipWith (· ^^^ ·) z.2 (leBytes 8 pat.1 ++ zeros 8)
    | none => z.2
  let s := x.2
  let g : SentFrame := ⟨p, { f with body := bodyItems body.length z.1, tag := tag }⟩
  let s := { s with linkOut := s.linkOut ++ [g] }
  let s := (s.bumpLink p 1 1).bumpLink p 7 (b2n q.wantNak)
  s.modPort p (fun r => { r with
    tx := { r.tx with count := r.tx.count + 1 }, wantNak := false, nakAt := if q.wantNak then s.time else r.nakAt })

/-- Send a sequenced frame: it takes the next SEQ and stays for replay (R308); during a width change no frame moves (R314). -/
def State.sendSeq (s : State) (p kind : Nat) (body : List (List Byte)) (heads : List Packet) : State :=
  let q := s.port p
  let s := s.modPort p (fun r => { r with
    seqNext := (q.seqNext + 1) % 65536,
    ackAt := if q.replay.isEmpty then s.time else r.ackAt, progAt := if q.replay.isEmpty then s.time else r.progAt,
    replay := r.replay ++ [⟨q.seqNext, kind, body, 1, heads⟩] })
  if q.widening then s else s.transmit p kind q.seqNext body

/-- Send the message fragments that wait, while the replay buffer of 512 frames has room (R308) and frames move (R314). -/
def State.msgRun (s : State) (p : Nat) : Nat → State
  | 0 => s
  | fuel + 1 => match (s.port p).msgq with
    | [] => s
    | body :: rest =>
      if 512 ≤ (s.port p).replay.length ∨ (s.port p).widening then s
      else ((s.modPort p (fun q => { q with msgq := rest })).sendSeq p 3 body []).msgRun p fuel

/-- The fragments of a message (R316). -/
def fragments (mtype : Nat) (bs : List Byte) : List (List (List Byte)) :=
  (List.range (cdiv bs.length 568)).map (fun i =>
    let part := (bs.drop (568 * i)).take 568
    let nu := cdiv (8 + part.length) 36
    bodyItems nu (padTo (36 * nu) (leBytes 8 (mtype + 2 ^ 8 * bs.length + 2 ^ 24 * (568 * i)) ++ part)))

/-- Send a message in fragments (R316). -/
def State.sendMsg (s : State) (p mtype : Nat) (bs : List Byte) : State :=
  let s := s.modPort p (fun q => { q with msgq := q.msgq ++ fragments mtype bs })
  s.msgRun p (s.port p).msgq.length

/-- Items of a credit class are freed (R307). -/
def State.freeClass (s : State) (p k n : Nat) : State :=
  s.modPort p (fun q => { q with
    freed := setAt q.freed k ((nth q.freed k 0 + n) % 65536), freedAt := if q.freed = q.told then s.time else q.freedAt })

/-- Items that relay forwards free the receive buffer they came by (R334). -/
def State.freeOrigin (s : State) (o : Option (Nat × Nat)) (n : Nat) : State :=
  match o with
  | some (p, k) => s.freeClass p k n
  | none => s

/-! ### Leaving service (R315, R330 to R332) -/

/-- A port leaves this engine's routing at once (R315, R332). -/
def State.unroute (s : State) (p : Nat) : State :=
  let own := s.route.own.map (fun (r : PortRec) => if r.port = p then { r with inService := false } else r)
  let s := if own = s.route.own then s else s.routeChange
  let s := { s with route := { s.route with own := own } }
  s.modPort p (fun q => { q with announced := false })

/-- Packets open from the partner are completed with poison fillers (R38, R330, R332, R333). -/
def State.openDone (s : State) (p : Nat) : State :=
  let opened := (s.port p).rxLanes.filterMap (fun kv => match kv.2 with
    | some r => if r.toss then none
      else (packetOf r.hdr (padTo (32 * r.len) r.units.flatten) true).map (fun pk => (⟨pk, kv.1, true⟩ : RxEnt))
    | none => none)
  s.modPort p (fun q => { q with rxLanes := [], rxq := q.rxq ++ opened })

/-- The items that relay has not begun to forward, as packets. -/
def relayWaits (l : List RelayItem) : List Packet :=
  l.filterMap (fun i => match i with
    | .pkt t => if t.sent = 0 then some t.pkt else none
    | .unit .. => none)

/-- What a port that stops carrying traffic does (R332): packets whose header the partner has not acknowledged, and packets
still waiting, are reported to their sources; packets open from the partner are completed with poison fillers. -/
def State.portDrop (s : State) (p : Nat) : State :=
  let q := s.port p
  let c := s.gatewayCell p 0
  let lost := q.replay.flatMap ReplayEnt.heads ++ (q.txq.filter (fun t => t.sent == 0)).map TxPkt.pkt ++ relayWaits q.relayq
  let s := lost.foldl (fun s pk => s.raiseNack c (s.srcOf c 0) pk 7 0 0) s
  let s := q.relayq.foldl (fun (s : State) i => match i with
    | .pkt t => s.freeOrigin t.origin (t.pkt.len + 1 - t.sent)
    | .unit _ _ o => s.freeOrigin o 1) s
  (s.openDone p).modPort p (fun r => { r with
    replay := [], txq := [], sigq := [], msgq := [], relayq := [], msg := none, inbox := [], hunt := none,
    wantNak := false, nakAt := 0, widening := false })

/-- A port whose link is gone reports what it loses and clears its link layer (R332). What stands in its receive buffer returns no credit
on the next link. -/
def State.portClear (s : State) (p : Nat) : State :=
  (s.portDrop p).modPort p (fun r => { r with
    rxNew := none, rxOld := none, rekey := none, hs := HsSt.init,
    tx := KeySt.null, rx := KeySt.null, seqNext := 0, expect := 0,
    rxq := r.rxq.map (fun e => { e with counted := false }), rxs := [] })

/-- A port that leaves UP or RELAY (R315, R332, R361): its fault block records it unless software asked for it, and it counts
toward FLAP_LIMIT. The answer says that it flaps. -/
def State.leftService (s : State) (p cause : Nat) : Bool × State :=
  if ! s.portUp p then (false, s)
  else
    let b := s.linkBlock p
    let s := s.linkStop p true
    let s := if cause = 13 then s else (s.faultLive b 1 true).faultEvent b 1 0 0
    let w := s.linkTimer 6 1000000
    let s := s.modPort p (fun q => { q with flaps := q.flaps.filter (fun t => decide (s.time < t + w)) ++ [s.time] })
    (decide (s.reg .engine 0 0x7002 5 < (s.port p).flaps.length), s)

/-- A port goes to `st` with a DOWN_CAUSE (R332); one that flaps goes to HELD_DOWN with cause FLAP, and doubles its next hold, up
to 64 s (R315). -/
def State.portDown (s : State) (p st cause : Nat) : State :=
  let l := s.leftService p cause
  let s := ((if l.1 then l.2.setReg (s.portNode p) 0 0x7010 0x0D 11 else l.2.setReg (s.portNode p) 0 0x7010 0x0D cause).portClear p).unroute p
  let s := s.setReg (s.portNode p) 0 0x7010 4 0
  if l.1 ∧ st = 1 then s.setPortState p 6 else s.setPortState p st

/-- A full retrain (R314, R332): through DOWN. -/
def State.retrain (s : State) (p cause : Nat) : State := (s.bumpLink p 9 1).portDown p 1 cause

/-- How long a HELD_DOWN port is held, in ns (R315). -/
def State.holdTime (s : State) (p : Nat) : Nat :=
  if s.lport p 0x0D = 11 then min (ms 64000) (s.linkTimer 7 1000000 * (s.port p).holdMul) else s.linkTimer 7 1000000

/-- A violation of a port (R329, R330): counted, recorded, and at QUAR_LIMIT within QUAR_WINDOW the port is quarantined. It keeps its keys and
sequence numbers, by which it goes on to acknowledge what it discards. The
check order of an event that is no sluice check is not stated (log 1). -/
def State.violationAt (s : State) (p check eng typ : Nat) : State :=
  let n := s.portNode p
  let w := ms (s.reg n 0 0x7030 0x0B)
  let s := s.bump n 0 0x7030 0x0C 1
  let s := s.setReg n 0 0x7030 0x0D (pack [(0, 8, check), (8, 11, eng), (19, 6, typ), (25, 39, s.portFt p)])
  let s := s.modPort p (fun q => { q with viols := q.viols.filter (fun t => decide (s.time < t + w)) ++ [s.time] })
  if s.reg n 0 0x7030 0x0A ≤ (s.port p).viols.length ∧ s.portState p ≠ 7 ∧ s.portState p ≠ 8 then
    let b := s.linkBlock p
    let l := s.leftService p 5
    let s := (((l.2.setReg n 0 0x7010 0x0D 5).portDrop p).unroute p).setPortState p 7
    let s := s.setReg n 0 0x7030 0x0E 1
    (s.faultLive b 2 true).faultEvent b 2 0 0
  else s

/-- The event code of a violation that no sluice check names. -/
def State.violationEvent (s : State) (p : Nat) : State :=
  let f := s.fresh
  f.2.violationAt p (f.1 % 256) (bits (s.lport p 9) 0 11) 0

/-- A protocol violation in a verified frame (R330): counted, and the port retrains with cause VIOLATION. -/
def State.linkViolation (s : State) (p : Nat) : State :=
  let s := s.violationEvent p
  if s.portUp p ∨ s.portState p = 3 then s.retrain p 5 else s

/-! ### Acknowledgement and replay (R308, R309) -/

/-- Take the ACK of a verified frame. -/
def State.takeAck (s : State) (p ack : Nat) : State :=
  let q := s.port p
  match q.replay with
  | [] => s
  | e :: _ =>
    let k := (ack + 65536 - e.seq) % 65536
    if k = 0 ∨ q.replay.length < k then s
    else s.modPort p (fun r =>
      let done := match r.hs.finSeq with
        | some n => decide ((n + 65536 - e.seq) % 65536 < k)
        | none => false
      { r with replay := r.replay.drop k, ackAt := s.time, progAt := s.time, hs := { r.hs with finAcked := r.hs.finAcked || done } })

/-- Retransmit every unacknowledged frame in order; one sent 8 times retrains the port with cause REPLAY. -/
def State.retransmit (s : State) (p : Nat) : State :=
  if (s.port p).widening then s
  else if (s.port p).replay.any (fun e => decide (8 ≤ e.times)) then s.retrain p 3
  else
    let l := (s.port p).replay
    let s := s.modPort p (fun q => { q with replay := q.replay.map (fun e => { e with times := e.times + 1 }), ackAt := s.time })
    l.foldl (fun s e => (s.transmit p e.kind e.seq e.body).bumpLink p 6 1) s

/-! ### The transmit side (R306, R307, R310) -/

/-- The credit class of a signal on an engine lane (R307). -/
def sigClass (sg : Signal) (b : Bool) : Nat := (if sopClass (sigSop sg) = some 0 then 8 else 10) + b2n b

/-- A 36-byte item: a codeword and its side byte (R306). -/
def linkItem (payload : List Byte) (poison : Bool) (lane code : Nat) : List Byte :=
  let v := lane + 16 * code
  (if poison then rsPoison payload else rsEncode payload) ++ [BitVec.ofNat 8 (v + 128 * oddParity 7 v)]

/-- The signal units of one signal (R306): a two-beat signal, or each pair of beats of a DICT signal, travels whole. -/
def sigUnits (t : TxSig) : List (List Byte) :=
  let bs := sigBeats t.sg
  if bs.length = 1 then [linkItem (leBytes 16 (nth bs 0 0) ++ zeros 16) false 0xA (b2n t.laneB)]
  else (List.range (bs.length / 2)).map (fun i =>
    linkItem (leBytes 16 (nth bs (2 * i) 0) ++ leBytes 16 (nth bs (2 * i + 1) 0)) false 0xA (6 + b2n t.laneB))

/-- Take a credit of a class. -/
def PortSt.spend (q : PortSt) (k n : Nat) : PortSt := { q with credits := setAt q.credits k (nth q.credits k 0 - n) }

/-- Two single-beat signals share a unit where both have their credits (R306). -/
def pairUnit (x y : TxSig) : List Byte :=
  let code := match x.laneB, y.laneB with
    | false, false => 2
    | true, false => 3
    | false, true => 4
    | true, true => 5
  linkItem (leBytes 16 (nth (sigBeats x.sg) 0 0) ++ leBytes 16 (nth (sigBeats y.sg) 0 0)) false 0xA code

/-- Have all the bytes of a signal come? A DICT signal is assembled from its segments (R388). -/
def allHere : Signal → Bool
  | .dictReq r => r.whole
  | .dictRsp r => r.whole
  | _ => true

/-- May a signal go: it is whole, and its class has a credit (R310 step 2)? -/
def PortSt.sigGoes (q : PortSt) (t : TxSig) : Bool := allHere t.sg && decide (1 ≤ nth q.credits (sigClass t.sg t.laneB) 0)

/-- The next signal unit: of the first signal whose class has a credit, two single-beat signals together where the next of them has one too.
Every pair of beats of a DICT signal is a signal of its own, with its own credit (R306, R388, R310 step 2). -/
def PortSt.nextSig (q : PortSt) : Option (List Byte × PortSt) :=
  let single := fun (t : TxSig) => decide ((sigBeats t.sg).length = 1)
  match q.sigq.find? q.sigGoes with
  | none => none
  | some x =>
    let us := sigUnits x
    let q1 := q.spend (sigClass x.sg x.laneB) 1
    if x.sent + 1 < us.length then
      some (us.getD x.sent [], { q1 with sigq := q1.sigq.map (fun t => if t = x then { x with sent := x.sent + 1 } else t) })
    else
      let q2 := { q1 with sigq := q1.sigq.erase x }
      match (if single x then q2.sigq.find? (fun t => single t && q2.sigGoes t) else none) with
      | some y => some (pairUnit x y, ({ q2 with sigq := q2.sigq.erase y }).spend (sigClass y.sg y.laneB) 1)
      | none => some (us.getD x.sent [], q2)

/-- Share weight of a class on a link (R310): group 1 Control, 2 Trade, 3 Collective, 4 Bulk of the weight word. -/
def State.linkWeight (s : State) (p g : Nat) : Nat :=
  let w := s.lport p 0x0F
  match g with
  | 1 => bits w 0 6
  | 2 => bits w 18 6
  | 3 => bits w 12 6
  | _ => bits w 6 6

/-- A transmit requester. -/
def PortSt.req (q : PortSt) (g : Nat) : ReqSt := SMap.get (reqDefault g) q.arb g

/-- Set a transmit requester. -/
def PortSt.setReq (q : PortSt) (g : Nat) (r : ReqSt) : PortSt := { q with arb := SMap.put (reqDefault g) q.arb g r }

/-- The gust that a class offers: the first packet of one of its lanes, the lane the last grant did not use when both have one
and the credits (R23, R77). -/
def PortSt.offer (q : PortSt) (g : Nat) : Option (TxPkt × Nat) :=
  let ls := groupLanes g
  let one := fun (l : Nat) => (q.txq.find? (fun t => t.lane == l)).bind (fun t =>
    let n := min 4 (t.pkt.len + 1 - t.sent)
    if n ≤ nth q.credits l 0 then some (t, n) else none)
  match one ls.1, one ls.2 with
  | some x, some y => if (q.req g).lastB then some x else some y
  | some x, none => some x
  | none, y => y

/-- Score of a class (R80). -/
def PortSt.score (q : PortSt) (g : Nat) : Int := (q.req g).credit + (((q.req g).age * 2 ^ objDefault 0x4030 3 : Nat) : Int)

/-- A window boundary of the transmit side (R79, R310). -/
def State.linkWindow (s : State) (p : Nat) : State :=
  s.modPort p (fun q => { [1, 2, 3, 4].foldl (fun (q : PortSt) g => q.setReq g { q.req g with credit := (s.linkWeight p g : Int) }) q with
    ctrl := 0, window := 0 })

/-- The class granted next, by the Control and ranking steps of R81: the head of the saturated queue, or the highest score,
the first of equals in fixed order. -/
def PortSt.pick (q : PortSt) : Option Nat :=
  let quota := objDefault 0x4030 4
  let gs := [1, 2, 3, 4].filter (fun g => (q.offer g).isSome && (g != 1 || decide (q.ctrl < quota)))
  if gs.contains 1 then some 1
  else match q.sat.find? gs.contains with
    | some g => some g
    | none => gs.foldl (fun (b : Option Nat) g => match b with
      | none => some g
      | some x => if q.score x < q.score g then some g else b) none

/-- Units `a` to `a + n − 1` of a packet as items on its lane. -/
def pktItems (t : TxPkt) (n : Nat) : List (List Byte) :=
  let us := packetUnits t.pkt
  (List.range n).map (fun i =>
    let k := t.sent + i
    linkItem (us.getD k []) (t.pkt.poison && decide (k ≠ 0)) t.lane
      (b2n (decide (k = 0)) + 2 * b2n (decide (k = t.pkt.len)) + 4 * b2n (decide (k = t.pkt.len) || decide (k % 4 = 3))))

/-- Grant a gust of a class: its items, the packet if its header goes with it, and what remains (R80, R310). -/
def PortSt.grant (q : PortSt) (g : Nat) : List (List Byte) × List Packet × PortSt :=
  match q.offer g with
  | none => ([], [], q)
  | some (t, n) =>
    let others := [1, 2, 3, 4].filter (fun x => x != g && (q.offer x).isSome)
    let r := q.req g
    let q1 := (q.spend t.lane n).setReq g ⟨max (r.credit - (n : Int)) (-64), 0, decide (t.lane % 2 = 1), []⟩
    let q2 := others.foldl (fun (q : PortSt) x =>
      let y := q.req x
      if y.age = 15 then q
      else
        let q := q.setReq x { y with age := y.age + 1 }
        if y.age = 14 then { q with sat := q.sat ++ [x] } else q) q1
    let rest := if t.sent + n = t.pkt.len + 1 then q2.txq.erase t
      else q2.txq.map (fun x => if x = t then { x with sent := x.sent + n } else x)
    (pktItems t n, if t.sent = 0 then [t.pkt] else [],
      { q2 with txq := rest, sat := q2.sat.filter (· != g), ctrl := q2.ctrl + b2n (decide (g = 1)), window := q2.window + n })

/-- The headers that a frame carries are events of the port's ring (R432). -/
def State.headEvents (s : State) (p : Nat) (heads : List Packet) : State :=
  heads.foldl (fun s pk => s.ringEvent (s.gatewayCell p 0) 1 0 (pack [(0, 16, pk.tag), (16, 6, pk.typ),
    (22, 4, 2 * pk.cls), (26, 9, pk.dest.x), (35, 9, pk.dest.y)])) s

/-- The next gust or signal unit that relay forwards: the items of the pair's transmit queue go in arrival order (R334), so that one whose
credit is lacking holds those after it (DEDUCED, log 132), each as its credit
is held, and the credit it took at the receiving port returns as it leaves. -/
def State.relayStep (s : State) (p room : Nat) : Option ((List (List Byte) × List Packet) × State) :=
  let q := s.port p
  match q.relayq with
  | [] => none
  | .unit bs b o :: rest =>
    let k := (if sopClass (bits (nth bs 0 0) 0 6) = some 0 then 8 else 10) + b2n b
    if nth q.credits k 0 = 0 ∨ room = 0 then none
    else
      let second := if bs.length = 1 then zeros 16 else leBytes 16 (nth bs 1 0)
      let it := linkItem (leBytes 16 (nth bs 0 0) ++ second) false 0xA ((if bs.length = 1 then 0 else 6) + b2n b)
      some (([it], []), (s.modPort p (fun q => ({ q with relayq := rest } : PortSt).spend k 1)).freeOrigin o 1)
  | .pkt t :: rest =>
    let n := min 4 (t.pkt.len + 1 - t.sent)
    if nth q.credits t.lane 0 < n ∨ room < n then none
    else
      let left := if t.sent + n = t.pkt.len + 1 then rest else .pkt { t with sent := t.sent + n } :: rest
      some ((pktItems t n, if t.sent = 0 then [t.pkt] else []),
        (s.modPort p (fun q => ({ q with relayq := left } : PortSt).spend t.lane n)).freeOrigin t.origin n)

/-- One turn of filling a frame of up to 16 items with signals, gusts, and what relay forwards (R310, R334): whether it goes on, what the
frame holds, and the state. A masked Control class goes on in the next window. -/
def State.fillStep (s : State) (p : Nat) (items : List (List Byte)) (heads : List Packet) :
    Bool × List (List Byte) × List Packet × State :=
  let s := if 256 ≤ (s.port p).window then s.linkWindow p else s
  let q := s.port p
  match (if items.length < 16 then q.nextSig else none) with
  | some (u, q') => (true, items ++ [u], heads, s.modPort p (fun _ => q'))
  | none =>
    let s := if q.pick.isNone ∧ (q.offer 1).isSome then s.linkWindow p else s
    match (s.port p).pick with
    | none => match s.relayStep p (16 - items.length) with
      | none => (false, items, heads, s)
      | some x => (true, items ++ x.1.1, heads ++ x.1.2, x.2.headEvents p x.1.2)
    | some g =>
      let x := (s.port p).grant g
      if 16 < items.length + x.1.length then (false, items, heads, s)
      else (true, items ++ x.1, heads ++ x.2.1, (s.modPort p (fun _ => x.2.2)).headEvents p x.2.1)

/-- A frame is filled until a unit does not fit or none is left (R310). -/
def State.fillFrame (s : State) (p : Nat) : Nat → List (List Byte) → List Packet → List (List Byte) × List Packet × State
  | 0, items, heads => (items, heads, s)
  | fuel + 1, items, heads =>
    let r := s.fillStep p items heads
    if r.1 then r.2.2.2.fillFrame p fuel r.2.1 r.2.2.1 else r.2

/-- Is a credit unit due (R307): a count has changed, and 4 DATA frames have passed since the last one or 100 ns since the change? -/
def State.creditDue (s : State) (p : Nat) : Bool :=
  let q := s.port p
  decide (q.freed ≠ q.told) && (decide (4 ≤ q.dataSince) || decide (q.freedAt + 100 ≤ s.time))

/-- A credit unit that is due goes first in a frame (R307, R310 step 1): the cumulative counts of freed items. -/
def State.creditItem (s : State) (p : Nat) : List (List Byte) × State :=
  if s.creditDue p then
    let payload := leBytes 32 (pack ((List.range 12).map (fun i => (16 * i, 16, nth (s.port p).freed i 0))))
    ([linkItem payload false 0xE 0], s.modPort p (fun r => { r with told := r.freed, dataSince := 0 }))
  else ([], s)

/-- Does an item of a credit class wait at a port? -/
def PortSt.waits (q : PortSt) (k : Nat) : Bool :=
  q.txq.any (fun t => t.lane == k) || q.sigq.any (fun t => sigClass t.sg t.laneB == k) ||
    q.relayq.any (fun i => match i with
      | .pkt t => t.lane == k
      | .unit bs b _ => (if sopClass (bits (nth bs 0 0) 0 6) = some 0 then 8 else 10) + b2n b == k)

/-- The time from which each class has had items waiting begins when none waits (R331). -/
def State.stallMark (s : State) (p : Nat) : State :=
  s.modPort p (fun q => { q with stallAt := (List.range 12).map (fun k => if q.waits k then nth q.stallAt k 0 else s.time) })

/-- Send DATA frames while items wait that may go and the replay buffer of 512 frames has room (R308, R310). -/
def State.linkRun (s : State) (p : Nat) : Nat → State
  | 0 => s
  | fuel + 1 =>
    let s := s.msgRun p (s.port p).msgq.length
    if ! s.portUp p ∨ (s.port p).widening ∨ 512 ≤ (s.port p).replay.length then s
    else
      let c := s.creditItem p
      let r := c.2.fillFrame p 32 c.1 []
      if r.1.isEmpty then r.2.2.stallMark p
      else ((r.2.2.sendSeq p 1 r.1 r.2.1).modPort p (fun q => { q with dataSince := if c.1.isEmpty then q.dataSince + 1 else 0 })).linkRun
        p fuel

/-- A NAK goes in the next frame (R308); where no frame with items leaves, that is an IDLE frame, which a sender with nothing else to
send sends at once (R304). The IDLE frames that carry no NAK are not told one by one (log 14). -/
def State.idleNak (s : State) (p : Nat) : State :=
  if (s.port p).wantNak ∧ ! (s.port p).widening ∧ (s.portUp p ∨ s.portState p = 3) then s.transmit p 2 0 [] else s

/-- CREDIT_UNIT_SEND (R307): counts that have changed go in a credit unit, which a DATA frame carries first; with no other item to send the
frame holds only it. -/
def State.creditUnit (s : State) (p : Nat) : State :=
  let q := s.port p
  if ! s.portUp p ∨ q.freed = q.told then s
  else
    let s : State := if 4 ≤ q.dataSince then s else { s with time := max s.time (q.freedAt + 100) }
    s.linkRun p 512

end Sys2Proof.Machine
end

