-- ==== Sys2Proof/Machine/LinkOps.lean ====
section
/-! DEFINITION. The handshake (R316 to R319), link-state notes and the route table (R320 to R324), sluices (R327 to R329), and
what a port does with frames and items from its partner (R306 to R308, R311, R312, R330, R334, R335). -/

namespace Sys2Proof.Machine

/-! ### HELLO (R313, R314, R316, R317) -/

/-- The 192 bytes of a HELLO. -/
def helloBytes (h : Hello) : List Byte :=
  leBytes 2 h.version ++ leBytes 4 h.features ++ leBytes 2 h.engine ++ leBytes 1 h.port ++ leBytes 1 h.role ++ leBytes 1 h.lanesOk ++
    leBytes 1 h.conf ++ leBytes 1 h.state ++ leBytes 1 h.pair ++ zeros 2 ++ padTo 32 h.random ++ padTo 97 h.epub ++ zeros 7 ++
    h.rxbuf.flatMap (leBytes 2) ++ zeros 16

/-- The receive buffer of each credit class (R307). -/
def defaultBuf : List Nat := [256, 256, 4096, 4096, 2048, 2048, 512, 512, 256, 256, 256, 256]

/-- The certificate chain of this engine, in the CERT form (R316, *Identity key object*): the copy in force since bring-up (R381),
which the register file keeps as instance 1. -/
def State.certChain (s : State) : List Byte :=
  s.tabBytes .engine 1 0x1004 2 0 (s.tabHeld .engine 1 0x1004 2 1) ++ s.tabBytes .engine 1 0x1004 3 0 (s.tabHeld .engine 1 0x1004 3 1)

/-- A port enters HELLO: sequence numbers, credits and keys start afresh, and HELLO and CERT leave under the null key (R305,
R318, R332). -/
def State.enterHello (s : State) (p : Nat) : State :=
  let rnd := s.freshBytes 4
  let k := rnd.2.freshBytes 6
  let priv := leNat k.1 % (n384 - 1) + 1
  let s := k.2
  let r := s.lport p 1
  let conf := s.lport p 2
  let h : Hello := ⟨s.reg .engine 0 0x7001 7, s.reg .engine 0 0x7001 8, s.engine, p, r % 16, (s.port p).ownLanes,
    if conf = 2 then 3 else conf, min s.eng.noteState 2, s.lport p 3, rnd.1, ecPub priv, defaultBuf⟩
  let s := s.modPort p (fun q => { q with
    hs := { HsSt.init with own := some h, priv := priv }, tx := KeySt.null, rx := KeySt.null, rxNew := none, rxOld := none,
    rekey := none, seqNext := 0, expect := 0, replay := [], freed := counts0, told := counts0, credits := counts0, got := counts0,
    msg := none, inbox := [], hunt := none, wantNak := false, nakAt := 0, rxLanes := [], widening := false, msgq := [],
    rxCount := counts0, dataSince := 0, stallAt := List.replicate 12 s.time, progAt := s.time, lastRx := s.time,
    rxq := q.rxq.map (fun e => { e with counted := false }) })
  ((s.setReg (s.portNode p) 0 0x7010 0x0C 0).setPortState p 3 |>.sendMsg p 1 (helloBytes h)).sendMsg p 2 s.certChain

/-- PORT_TRAINING_START (R313): a DOWN port trains, unless DRAIN has taken the engine out of service and no relay pair names the
port, or the engine is in Still (R407). -/
def State.trainingStart (s : State) (p : Nat) : State :=
  let out := decide (s.reg .engine 0 0x8140 0x14 ≠ 0) && decide (s.lport p 3 = 0xFF)
  if s.portState p = 1 ∧ ! out ∧ s.reg .engine 0 0xA011 4 ≠ 2 then s.setPortState p 2 else s

/-- The width that a good-lane mask gives (R314): 8, 4, 2, 1, or 0. -/
def widthOf (mask : Nat) : Nat :=
  if mask % 256 = 255 then 8
  else if mask % 16 = 15 ∨ mask / 16 % 16 = 15 then 4
  else if [0, 1, 2, 3].any (fun i => mask / 4 ^ i % 4 == 3) then 2
  else if mask % 256 ≠ 0 then 1 else 0

/-- The width for a pair of LANES_OK masks under a FEATURES word: widths 2 and 1 need NARROW, and none below MIN_WIDTH is taken. -/
def State.widthFor (s : State) (p feats mask : Nat) : Nat :=
  let w := widthOf mask
  if (w < 4 ∧ ! bit feats 2) ∨ w < s.lport p 5 then 0 else w

/-- The lanes of a port whose gateway cells are alive: a hole's lane is lost to its port (R368). -/
def State.liveLanes (s : State) (p : Nat) : Nat :=
  (List.range 8).foldl (fun m i => if s.isHole (s.gatewayCell p i) then m else setBit m i) 0

/-- TRAINING_LOCK (R313, R314). The partner's FEATURES are not known before its HELLO, which looks at NARROW again (log 114). -/
def State.trainingLock (s : State) (p own partner : Nat) : State :=
  let mask := ((own % 256) &&& s.liveLanes p) &&& (partner % 256)
  let w := s.widthFor p (s.reg .engine 0 0x7001 8) mask
  if s.portState p ≠ 2 ∨ w = 0 then s
  else
    let n := s.portNode p
    let s := s.modPort p (fun q => { q with ownLanes := (own % 256) &&& s.liveLanes p, partnerLanes := partner % 256 })
    ((s.setReg n 0 0x7010 7 w).setReg n 0 0x7010 8 mask).enterHello p

/-- TRAINING_TIMEOUT (R313). -/
def State.trainingTimeout (s : State) (p : Nat) : State :=
  if s.portState p = 2 then ({ s with time := max s.time ((s.port p).since + ms 100) } : State).portDown p 1 12 else s

/-- HELLO_TIMEOUT (R313): the port goes to DOWN; DOWN_CAUSE has no code for it and keeps its value (log 41). -/
def State.helloTimeout (s : State) (p : Nat) : State :=
  if s.portState p = 3 then ({ s with time := max s.time ((s.port p).since + ms 100) } : State).portDown p 1 (s.lport p 0x0D)
  else s

/-- A refusal of the handshake (R318): HELD_DOWN with its cause, and a violation (R330). -/
def State.hsRefuse (s : State) (p cause : Nat) : State :=
  let s := s.violationEvent p
  if s.portState p = 7 then s.setReg (s.portNode p) 0 0x7010 0x0D cause else s.portDown p 6 cause

/-- The two ends by their randoms: is this end L, the lower, comparing byte 16 of HELLO first (R318)? -/
def lowerFirst (a b : List Byte) : Bool := decide (beNat a < beNat b)

/-- TH of a handshake (R318). -/
def State.hsHash (s : State) (p : Nat) : List Byte :=
  match (s.port p).hs.own, (s.port p).hs.partner, (s.port p).hs.partnerCert with
  | some a, some b, some c =>
    if lowerFirst a.random b.random then sha384 (helloBytes a ++ helloBytes b ++ s.certChain ++ c)
    else sha384 (helloBytes b ++ helloBytes a ++ c ++ s.certChain)
  | _, _, _ => []

/-- What a PROOF signs, or a FINISH begins with. -/
def proofText (label : String) (random th : List Byte) : List Byte := ascii label ++ random ++ th

/-- Entry of ENGINE_MAP for an engine (16 bytes). -/
def State.engineMap (s : State) (e : Nat) : List Byte := s.tabBytes .engine 0 0x7001 6 (16 * e) 16

/-- Does a leaf key belong to an engine number (R318, R322)? -/
def State.identityOk (s : State) (e : Nat) (key : List Byte) : Bool := decide ((sha384 key).take 16 = s.engineMap e)

/-- Is the partner's engine the one that the port's role names (R301)? -/
def State.roleOk (s : State) (p partner : Nat) : Bool :=
  match s.trunkRole p with
  | none => true
  | some (d, dir) => decide ((RouteView.stepEng { s.route with
      self := s.engine, sizes := ringSizes (s.reg .engine 0 0x7001 2) (s.reg .engine 0 0x7001 3) } s.engine d dir) = partner)

/-- The checks of a handshake once HELLO and CERT of the partner are here (R317, R318 step 2), and PROOF. A width of 2 or 1 that training
took, to a partner without NARROW, is none the port may have (R314): it trains again (log 114). -/
def State.hsCheck (s : State) (p : Nat) : State :=
  let q := s.port p
  match q.hs.own, q.hs.partner, q.hs.partnerCert with
  | some a, some b, some cert =>
    let feats := a.features &&& b.features
    let encWanted := bit a.conf 0 || bit b.conf 0 || bit a.conf 1 || bit b.conf 1
    if a.version / 256 ≠ b.version / 256 then s.hsRefuse p 6
    else if bit a.conf 1 ∧ ! bit feats 0 then s.hsRefuse p 7
    else if b.rxbuf.any (· == 0) then s.hsRefuse p 7
    else if s.lport p 7 < 4 ∧ ! bit feats 2 then s.portDown p 1 12
    else if ! s.roleOk p b.engine then s.hsRefuse p 8
    else match certLeaf (s.tabBytes .engine 0 0x7001 5 0 48) cert with
      | none => s.hsRefuse p 9
      | some leaf =>
        if ! s.identityOk b.engine leaf then s.hsRefuse p 10
        else
          let n := s.portNode p
          let s := (s.setReg n 0 0x7010 9 (b.engine + 2048 * (b.port % 128))).setReg n 0 0x7010 0x0A (min a.version b.version)
          let s := (s.setReg n 0 0x7010 0x0B feats).setReg n 0 0x7010 0x0C (b2n (encWanted && bit feats 0))
          let r := s.freshBytes 6
          let sig := ecdsaSign Config.identityKey (leNat r.1 % (n384 - 1) + 1) (proofText "ong1 proof" a.random (r.2.hsHash p))
          let s := r.2.modPort p (fun q => { q with
            credits := b.rxbuf, hs := { q.hs with leaf := leaf, proofOwn := sig } })
          s.sendMsg p 3 sig
  | _, _, _ => s

/-- A message of the handshake outside HELLO is out of order (R316): a protocol violation of a port in service. -/
def State.outOfOrder (s : State) (p : Nat) : State := if s.portUp p then s.linkViolation p else s

/-- HELLO_RECEIVE (R317, R318): equal randoms restart the handshake. -/
def State.helloAt (s : State) (p : Nat) (h : Hello) : State :=
  if s.portState p ≠ 3 then s.outOfOrder p
  else if (s.port p).hs.partner.isSome then s.linkViolation p
  else
    let s := s.modPort p (fun q => { q with inbox := q.inbox.erase (1, helloBytes h) })
    if (s.port p).hs.own.any (fun a => a.random == h.random) then s.enterHello p
    else (s.modPort p (fun q => { q with hs := { q.hs with partner := some h } })).hsCheck p

/-- CERT_RECEIVE (R318). -/
def State.certAt (s : State) (p : Nat) (chain : List Byte) : State :=
  if s.portState p ≠ 3 then s.outOfOrder p
  else if (s.port p).hs.partner.isNone ∨ (s.port p).hs.partnerCert.isSome then s.linkViolation p
  else
    let s := s.modPort p (fun q => { q with inbox := q.inbox.erase (2, chain), hs := { q.hs with partnerCert := some chain } })
    s.hsCheck p

/-- The session keys of an end from the shared point and both randoms (R318 step 4): its sending and receiving key, and the
finish key. -/
def sessionKeys (z own partner : List Byte) (kp : Bool) : KeySt × KeySt × List Byte :=
  let l := lowerFirst own partner
  let salt := if l then own ++ partner else partner ++ own
  let lo : KeySt := ⟨hkdf384 salt z (ascii "ong1 key lo") 32, hkdf384 salt z (ascii "ong1 iv lo") 12, 0, kp⟩
  let hi : KeySt := ⟨hkdf384 salt z (ascii "ong1 key hi") 32, hkdf384 salt z (ascii "ong1 iv hi") 12, 0, kp⟩
  (if l then lo else hi, if l then hi else lo, hkdf384 salt z (ascii "ong1 finish") 48)

/-- The FINISH value of an end (R318 step 5). -/
def finishMac (key random th proofL proofH : List Byte) : List Byte :=
  hmac384 key (proofText "ong1 finish" random th ++ proofL ++ proofH)

/-- PROOF_RECEIVE (R318 step 4): a valid PROOF leads to the session keys and FINISH. -/
def State.proofAt (s : State) (p : Nat) (sig : List Byte) : State :=
  let q := s.port p
  if s.portState p ≠ 3 then s.outOfOrder p
  else match q.hs.own, q.hs.partner with
    | some a, some b =>
      if q.hs.leaf.isEmpty ∨ q.hs.proofPartner.isSome then s.linkViolation p
      else
        let s := s.modPort p (fun q => { q with inbox := q.inbox.erase (3, sig) })
        let th := s.hsHash p
        match ecdsaOk q.hs.leaf (proofText "ong1 proof" b.random th) sig, ecdh q.hs.priv b.epub with
        | true, some z =>
          let k := sessionKeys z a.random b.random false
          let l := lowerFirst a.random b.random
          let mac := finishMac k.2.2 a.random th (if l then q.hs.proofOwn else sig) (if l then sig else q.hs.proofOwn)
          let s := s.modPort p (fun q => { q with
            tx := k.1, rxNew := some k.2.1,
            hs := { q.hs with proofPartner := some sig, finKey := k.2.2, finSeq := some q.seqNext } })
          s.sendMsg p 4 mac
        | _, _ => s.hsRefuse p 9
    | _, _ => s.linkViolation p

/-- The port is UP once the partner's FINISH has verified and its own is acknowledged (R318 step 6). -/
def State.tryUp (s : State) (p : Nat) : State :=
  let q := s.port p
  if s.portState p = 3 ∧ q.hs.finSeen ∧ q.hs.finAcked then
    let s := (s.setPortState p 4).modPort p (fun q => { q with upAt := s.time, announced := false })
    let s := s.faultLive (s.linkBlock p) 1 false
    if (s.trunkRole p).isSome then { s with eng := { s.eng with discovered := true } } else s
  else s

/-- FINISH_RECEIVE (R318 step 5): from here on the receiver accepts the session key only. -/
def State.finishAt (s : State) (p : Nat) (mac : List Byte) : State :=
  let q := s.port p
  if s.portState p ≠ 3 then s.outOfOrder p
  else match q.hs.own, q.hs.partner, q.hs.proofPartner with
    | some a, some b, some sig =>
      let s := s.modPort p (fun q => { q with inbox := q.inbox.erase (4, mac) })
      let l := lowerFirst a.random b.random
      if mac ≠ finishMac q.hs.finKey b.random (s.hsHash p) (if l then q.hs.proofOwn else sig) (if l then sig else q.hs.proofOwn) then
        s.hsRefuse p 9
      else
        let s := s.modPort p (fun q => { q with rx := q.rxNew.getD q.rx, rxNew := none, hs := { q.hs with finSeen := true } })
        s.tryUp p
    | _, _, _ => s.linkViolation p

/-! ### Key update (R319) -/

/-- Start a key update: REKEY leaves with a fresh random and key pair. A row that names the public values leaves the private key of that
public point to the engine that made it. -/
def State.sendRekey (s : State) (p : Nat) (pub : Option (List Byte × List Byte)) : State :=
  let r := s.freshBytes 4
  let k := r.2.freshBytes 6
  let priv := leNat k.1 % (n384 - 1) + 1
  let rk : RekeySt := match pub with
    | some x => ⟨x.1, Config.privateOf x.2, x.2⟩
    | none => ⟨r.1, priv, ecPub priv⟩
  (k.2.modPort p (fun q => { q with rekey := some rk })).sendMsg p 0x12 (padTo 32 rk.random ++ padTo 97 rk.epub)

/-- A key update starts (R319). -/
def State.rekeyStart (s : State) (p : Nat) (pub : Option (List Byte × List Byte)) : State :=
  if ! s.portUp p ∨ (s.port p).rekey.isSome then s else s.sendRekey p pub

/-- REKEY_START (R319): a key update at the expiry of 2^REKEY_LOG frames under the current key. -/
def State.rekeyExpiry (s : State) (p : Nat) (random epub : List Byte) : State :=
  if (s.port p).tx.count < 2 ^ s.reg .engine 0 0x7002 0x0B then s else s.rekeyStart p (some (random, epub))

/-- REKEY_RECEIVE (R319): answered if this end has not sent its own; both derive the new keys, and the next frame goes under the
new key with KP inverted. -/
def State.rekeyAt (s : State) (p : Nat) (random epub : List Byte) : State :=
  if s.portState p = 3 then s.linkViolation p
  else if ! s.portUp p then s
  else
    let s := s.modPort p (fun q => { q with inbox := q.inbox.erase (0x12, padTo 32 random ++ padTo 97 epub) })
    let s := if (s.port p).rekey.isSome then s else s.sendRekey p none
    match (s.port p).rekey with
    | none => s
    | some rk => match ecdh rk.priv epub with
      | none => s.linkViolation p
      | some z =>
        let kp := ! (s.port p).tx.kp
        let k := sessionKeys z rk.random random kp
        s.modPort p (fun q => { q with tx := k.1, rxNew := some k.2.1, rekey := none })

/-- OLD_KEY_PHASE_EXPIRY (R319). -/
def State.oldKeyEnd (s : State) (p : Nat) : State :=
  match (s.port p).rxOld with
  | some (_, due) => ({ s with time := max s.time due } : State).modPort p (fun q => { q with rxOld := none })
  | none => s

/-! ### Notes and the route table (R321 to R324) -/

/-- The bytes of a note before its signature (R321). -/
def noteBytes (n : Note) : List Byte :=
  leBytes 2 (n.origin % 2048) ++ leBytes 1 n.state ++ leBytes 1 n.ports.length ++ leBytes 4 n.nseq ++ leBytes 8 n.ft ++
    n.ports.flatMap (fun r => leBytes 8 (pack [(0, 7, r.port), (7, 1, b2n r.inService), (8, 2, r.dim), (10, 1, r.dir),
      (11, 1, b2n r.free), (12, 1, b2n r.relayPaired), (13, 7, r.relayPair), (20, 11, r.partner), (31, 7, r.partnerPort)])) ++
    padTo 97 n.key

/-- This engine's port records (R321, R334, R372): every port with a role; in relay and after a drain the unpaired ones are out of service. -/
def State.ownRecs (s : State) : List PortRec :=
  ((List.range s.nPorts).filter (fun p => ! bit (s.lport p 1) 4)).map (fun p =>
    let r := s.lport p 1
    let pair := s.lport p 3
    let serving := s.portUp p && (s.port p).announced && (decide (s.eng.noteState ≠ 1 ∧ s.reg .engine 0 0x8140 0x14 < 4) || decide (pair ≠ 0xFF))
    ⟨p, serving, bits r 0 2, bits r 2 1, bit r 3, decide (pair ≠ 0xFF), if pair = 0xFF then 0 else pair, bits (s.lport p 9) 0 11,
      bits (s.lport p 9) 11 7⟩)

/-- NOTE_ORIGINATE (R322): the next note leaves on every port in service, at least NOTE_MIN_GAP after the last unless at once. -/
def State.originate322 (s : State) (atOnce : Bool) : State :=
  let gap := us (s.reg .engine 0 0x7002 9)
  let s := if atOnce ∨ s.eng.nseq = 0 then s else { s with time := max s.time (s.eng.noteAt + gap) }
  let r := s.freshBytes 6
  let s := r.2
  let n : Note := ⟨s.engine, s.eng.noteState, s.eng.nseq + 1, s.ft 0, s.ownRecs, ecPub Config.identityKey, []⟩
  let n := { n with sig := ecdsaSign Config.identityKey (leNat r.1 % (n384 - 1) + 1) (noteBytes n) }
  let s := { s with eng := { s.eng with nseq := s.eng.nseq + 1, noteAt := s.time } }
  let ports := (List.range s.nPorts).filter (fun p => s.portUp p && (s.port p).announced)
  ports.foldl (fun s p => s.sendMsg p 0x10 (noteBytes n ++ padTo 96 n.sig)) s

/-- NOTE_RECEIVE (R322). -/
def State.noteAt322 (s : State) (p : Nat) (n : Note) : State :=
  if s.portState p = 3 then s.linkViolation p
  else if ! s.portUp p then s
  else
    let s := s.modPort p (fun q => { q with inbox := q.inbox.erase (0x10, noteBytes n ++ padTo 96 n.sig) })
    if ! ecdsaOk n.key (noteBytes n) n.sig ∨ ! s.identityOk n.origin n.key then
      (s.bumpLink p 0x0D 1).violationEvent p
    else if n.origin = s.engine then
      if s.eng.nseq < n.nseq then ({ s with eng := { s.eng with nseq := n.nseq } } : State).originate322 true else s
    else
      let newer := match s.eng.notes.find? (fun e => e.note.origin == n.origin) with
        | some e => decide (e.note.nseq < n.nseq)
        | none => true
      if ! newer then s
      else
        let ent : NoteEnt := ⟨n, s.time⟩
        let notes := s.eng.notes.filter (fun e => e.note.origin != n.origin) ++ [ent]
        let s := { s with eng := { s.eng with notes := notes, discovered := true } }
        (s.ownRecs.filter (fun r => r.inService && r.port != p)).foldl (fun s r =>
          s.sendMsg r.port 0x10 (noteBytes n ++ padTo 96 n.sig)) s

/-- NOTE_EXPIRY (R322). -/
def State.noteExpiry (s : State) (origin : Nat) : State :=
  match s.eng.notes.find? (fun e => e.note.origin == origin) with
  | none => s
  | some e =>
    let s := { s with time := max s.time (e.at_ + ms (4 * s.reg .engine 0 0x7002 8)) }
    { s with eng := { s.eng with notes := s.eng.notes.filter (fun x => x.note.origin != origin) } }

/-- ENGINE_ROUTE_RECOMPUTE (R324): the table that routers apply is computed from the stored notes and this engine's own
ports. A change of it is a route change for R75. -/
def State.routeRecompute (s : State) : State :=
  let dims := s.reg .engine 0 0x7001 2
  let view : RouteView := ⟨s.engine, dims, ringSizes dims (s.reg .engine 0 0x7001 3), s.eng.notes.map NoteEnt.note, s.ownRecs⟩
  let s := if view = s.route then s else s.routeChange
  ({ s with route := view } : State).bump .engine 0 0x7001 9 1

/-! ### Sluices (R327 to R329) -/

/-- Is an item consistent with dimension order on its arrival port (R328 check 1)? -/
def State.dimOrder (s : State) (p src dst : Nat) : Bool :=
  let z := s.route.sizes
  match s.trunkRole p with
  | none => decide (src = bits (s.lport p 9) 0 11)
  | some (d, _) =>
    let me := engCoords z s.engine
    (List.range 3).all (fun i =>
      if i < d then nth me i 0 == nth (engCoords z dst) i 0
      else if d < i then nth me i 0 == nth (engCoords z src) i 0 else true)

/-- May an engine be a source at a port (ENG_ALLOW)? -/
def State.engAllowed (s : State) (p e : Nat) : Bool := bit (s.tabNat (s.portNode p) 0 0x7030 1 (e / 8) 1) (e % 8)

/-- The sluice's decision on a packet (R328): the check that fails first, if any. -/
def State.sluicePkt (s : State) (p : Nat) (pk : Packet) : Option Nat :=
  let n := s.portNode p
  let g := fun sub => s.reg n 0 0x7030 sub
  if ! s.engAllowed p pk.src.eng ∨ ! s.dimOrder p pk.src.eng pk.dest.eng then some 1
  else if ! bit (g 2) pk.cls then some 2
  else if pk.dest.eng ≠ s.engine then (if g 9 = 1 then none else some 3)
  else if ! ((s.rectList n 0 0x7030 3).any (fun w => inRect w (destCell pk.dest))) ∨ 4 ≤ pk.dest.tgt ∨ ! bit (g 4) pk.dest.tgt then some 4
  else match pk.tail with
    | .message t => if bit (g 5) t.chan then none else some 5
    | .coll t => if g 6 ≤ t.ctx ∧ t.ctx ≤ g 7 then none else some 6
    | _ => none

/-- The bit of SIGNALS that a signal needs (R328 check 7). -/
def sigGroup : Signal → Nat
  | .int .. => 1
  | .wake .. => 2
  | .dictReq _ => 3
  | _ => 0

/-- The half of check 1 that looks at the destination alone (R328): on a trunk port of dimension d this engine equals it below d. -/
def State.dimBelow (s : State) (p dst : Nat) : Bool :=
  match s.trunkRole p with
  | none => true
  | some (d, _) => (List.range d).all (fun i =>
      nth (engCoords s.route.sizes s.engine) i 0 == nth (engCoords s.route.sizes dst) i 0)

/-- The sluice's decision on a signal. A DICT_RSP names no origin, so that check 1 has only its destination to look at (log 42). -/
def State.sluiceSig (s : State) (p : Nat) (sg : Signal) (t : SrcAddr) (o : Option SrcAddr) : Option Nat :=
  let ok := match o with
    | some a => s.engAllowed p a.eng && s.dimOrder p a.eng t.eng
    | none => s.dimBelow p t.eng
  if ! ok then some 1
  else if t.eng = s.engine ∧ ! bit (s.reg (s.portNode p) 0 0x7030 8) (sigGroup sg) then some 7
  else none

/-! ### Items from the partner (R306, R311, R312, R330, R334) -/

/-- The engine lane of an item that relay sends on by a port (R334): one that crosses the dateline moves to lane b. -/
def State.relayLane (s : State) (p lane : Nat) : Nat :=
  match s.trunkRole p with
  | none => lane
  | some (d, dir) =>
    let x := nth (engCoords s.route.sizes s.engine) d 0
    let n := nth s.route.sizes d 1
    if (dir = 0 ∧ x + 1 = n) ∨ (dir = 1 ∧ x = 0) then lane / 2 * 2 + 1 else lane

/-- An item goes to the transmit queue of a port's pair (R334). -/
def State.relayPut (s : State) (p : Nat) (i : RelayItem) : State :=
  s.modPort (s.lport p 3) (fun q => { q with relayq := q.relayq ++ [i] })

/-- A packet as relay forwards it from a port (R334). -/
def State.relayPkt (s : State) (p lane : Nat) (pk : Packet) (o : Option (Nat × Nat)) : State :=
  s.relayPut p (.pkt ⟨pk, s.relayLane (s.lport p 3) lane, 0, false, o⟩)

/-- A signal unit as relay forwards it from a port (R334). -/
def State.relaySig (s : State) (p : Nat) (beats : List Nat) (b : Bool) (o : Option (Nat × Nat)) : State :=
  s.relayPut p (.unit beats (decide (s.relayLane (s.lport p 3) (b2n b) % 2 = 1)) o)

/-- A whole packet has come by a port: in relay it joins the pair's transmit queue and its credits return as it leaves; otherwise
it waits in the receive buffer. -/
def State.rxPacket (s : State) (p lane : Nat) (pk : Packet) : State :=
  if s.portState p = 5 then s.relayPkt p lane pk (some (p, lane))
  else s.modPort p (fun q => { q with rxq := q.rxq ++ [⟨pk, lane, true⟩] })

/-- A pair of beats, or a beat, from a port joins the signal net at its lowest live gateway cell, on lane a of its class (R142, R144). -/
def State.enterSig (s : State) (p : Nat) (beats : List Nat) : State :=
  let c := s.siteCell (.port p)
  let l := 2 * (sopClass (bits (nth beats 0 0) 0 6)).getD 0
  s.setSigLane c 8 l (s.sigLane c 8 l ++ [⟨beats, ⟨0, false, 0⟩, c, false, none, false, s.time⟩])

/-- A signal that the sluice refuses is discarded, counted and recorded (R329). -/
def State.sluiceSigDrop (s : State) (p k : Nat) (sg : Signal) (o : Option SrcAddr) : State :=
  s.violationAt p k ((o.map SrcAddr.eng).getD 0) (sigSop sg)

/-- Does a transit item cross by the relay pair of its entry port without waking the engine (R410)? -/
def State.calmPair (s : State) (p : Nat) (src : SrcAddr) (dest : Addr) : Bool :=
  let r := s.lport p 3
  decide (r ≠ 0xFF) && (match s.route.exitPort src dest (s.trunkRole p) with
    | some (q, _) => decide (q = r)
    | none => false)

/-- A data segment of a DICT signal has come by a port (R306, R388): it is decided as a signal of its head's operation (R327), and follows its
head, to the queue of another port, where that has room (R312), or into the signal net. -/
def State.rxSegment (s : State) (p a b : Nat) (laneB : Bool) : State :=
  let k := (if sopClass (bits a 0 6) = some 0 then 8 else 10) + b2n laneB
  let fits := fun (l : List TxSig) => l.any (fun t => addSegment a b t.sg != t.sg)
  let join := fun (l : List TxSig) => l.map (fun t => { t with sg := addSegment a b t.sg })
  if s.portState p = 5 then s.relaySig p [a, b] laneB (some (p, k))
  else if fits (s.port p).rxs then s.modPort p (fun q => { q with rxs := join q.rxs })
  else match (dictPair a b).bind (fun sg => (sigParties sg).map (fun x => (sg, x))) with
    | none => s.freeClass p k 1
    | some (sg, t, o) =>
      if s.reg .engine 0 0xA011 4 = 1 ∧ t.eng ≠ s.engine ∧ s.calmPair p (o.getD ⟨s.engine, 0, 0, 0, false⟩) ⟨t.eng, t.x, t.y, 0⟩ then
        s.relaySig p [a, b] laneB (some (p, k))
      else
        let s := s.freeClass p k 1
        match s.sluiceSig p sg t o with
        | some k => s.sluiceSigDrop p k sg o
        | none =>
          if s.reg .engine 0 0xA011 4 ≠ 0 ∧ t.eng = s.engine then s.takeSegment (s.agentOf (bits a 48 16) (bits a 107 18)) a b
          else match s.ports.find? (fun e => fits e.2.sigq) with
          | none => s.enterSig p [a, b]
          | some (x, q) =>
            if 256 ≤ q.sigsHeld then s.bump (s.portNode x) 0 0x7020 0x0C 1
            else s.modPort x (fun q => { q with sigq := join q.sigq })

/-- Beats by the pairs in which signal units carry them (R306). -/
def beatPairs : List Nat → List (List Nat)
  | a :: b :: l => [a, b] :: beatPairs l
  | [a] => [[a]]
  | [] => []

/-- A signal that has come by a port and passed its receive buffer is decided by the sluice, and goes on into this engine or to its exit port
(R311, R312, R329). -/
def State.sigEnter (s : State) (p : Nat) (sg : Signal) : State :=
  match sigParties sg with
  | none => s
  | some (t, o) =>
    match s.sluiceSig p sg t o with
    | some k => s.sluiceSigDrop p k sg o
    | none =>
      if t.eng = s.engine then (beatPairs (sigBeats sg)).foldl (fun s bs => s.enterSig p bs) s
      else match s.exitSig sg t o (s.trunkRole p) true with
        | some s => s
        | none => s.bump (s.portNode p) 0 0x4020 4 1

/-- A signal has come by a port: with one pair of beats of a DICT signal. In relay it joins the pair's transmit queue (R334), and in Calm it
waits in the receive buffer until it is decided (R410). -/
def State.rxSignal (s : State) (p : Nat) (sg : Signal) (b : Bool) : State :=
  if s.portState p = 5 then s.relaySig p ((sigBeats sg).take 2) b (some (p, sigClass sg b))
  else if s.reg .engine 0 0xA011 4 ≠ 0 then s.modPort p (fun q => { q with rxs := q.rxs ++ [⟨sg, b, false, 0⟩] })
  else (s.freeClass p (sigClass sg b) 1).sigEnter p sg

/-- The signals that waited in the receive buffer in Calm go on as the engine is awake (R410). -/
def State.rxsEnter (s : State) (p : Nat) : State :=
  let l := (s.port p).rxs
  l.foldl (fun (s : State) t => (s.freeClass p (sigClass t.sg t.laneB) (beatPairs (sigBeats t.sg)).length).sigEnter p t.sg)
    (s.modPort p (fun q => { q with rxs := [] }))

/-- The signals of a signal unit with their lanes, or none where its code disagrees with its beats (R306). -/
def unitSignals (code a b : Nat) : Option (List (Signal × Bool)) :=
  let ok := fun (sg : Signal) => (sigParties sg).isSome
  if code = 6 ∨ code = 7 then (dictPair a b).map (fun sg => [(sg, decide (code = 7))])
  else if code = 0 ∨ code = 1 then
    if b ≠ 0 then none
    else match sigOf a 0 false with
      | some sg => if ok sg then some [(sg, decide (code = 1))] else none
      | none => none
  else match sigOf a 0 false, sigOf b 0 false with
    | some x, some y => if ok x && ok y then some [(x, decide (code = 3 ∨ code = 5)), (y, decide (code = 4 ∨ code = 5))] else none
    | _, _ => none

/-- One more item of a credit class is received, where the partner had a credit for it (R307): it may have sent as many as the buffer holds
beyond what it has been told of. -/
def State.takeClass (s : State) (p k : Nat) : Option State :=
  let q := s.port p
  if (nth q.rxCount k 0 + 65536 - nth q.told k 0) % 65536 < nth defaultBuf k 0 then
    some (s.modPort p (fun q => { q with rxCount := setAt q.rxCount k ((nth q.rxCount k 0 + 1) % 65536) }))
  else none

/-- A unit of a packet from a link, its credit taken: it begins a packet on its lane or continues the one under way there; what cannot be
used goes up to its LAST unit (R37, R306). -/
def State.rxUnit (s : State) (p lane : Nat) (first last unusable : Bool) (data : List Byte) : Option State :=
  let put := fun (s : State) (r : Option RxPkt) => s.modPort p (fun q => { q with rxLanes := SMap.put none q.rxLanes lane r })
  match SMap.get none (s.port p).rxLanes lane with
  | none =>
    if ! first then none
    else if unusable then some ((if last then s else put s (some ⟨0, 0, [], true, true⟩)).freeClass p lane 1)
    else match packetOf (leNat data) [] false with
      | none => none
      | some pk =>
        if pk.cls ≠ lane / 2 ∨ last ≠ decide (pk.len = 0) then none
        else if pk.len = 0 then some (s.rxPacket p lane pk)
        else some (put s (some ⟨leNat data, pk.len, [], false, false⟩))
  | some r =>
    if first then none
    else if r.toss then some ((if last then put s none else s).freeClass p lane 1)
    else if last ≠ decide (r.units.length + 1 = r.len) then none
    else
      let r := { r with units := r.units ++ [data], poison := r.poison || unusable }
      if last then match packetOf r.hdr r.units.flatten r.poison with
        | some pk => some ((put s none).rxPacket p lane pk)
        | none => some ((put s none).freeClass p lane (r.len + 1))
      else some (put s (some r))

/-- One item of a verified DATA frame; none for a protocol violation (R306, R307, R330). A header unit that cannot be used is discarded with
the units that follow it, up to LAST (R37), and they free their places. A signal unit that cannot be read does not tell its class, and frees
none (log 115). -/
def State.rxItem (s : State) (p : Nat) (item : List Byte) : Option State :=
  let side := (item.getD 35 0).toNat
  let lane := bits side 0 4
  let code := bits side 4 3
  let d := rsDecode (item.take 35)
  let data := match d with
    | .corrected cw => cwPayload cw
    | _ => cwPayload (item.take 35)
  let s := match d with
    | .corrected _ => s.wear (s.linkBlock p) 1
    | .bad => s.wear (s.linkBlock p) 1
    | _ => s
  let unusable := match d with
    | .bad => true
    | .poison => true
    | _ => false
  if item.length ≠ 36 ∨ ! parity 8 side then none
  else if lane = 0xE then
    if code ≠ 0 then none
    else if unusable then some s
    else
      let w := leNat data
      let new := (List.range 12).map (fun i => bits w (16 * i) 16)
      some (s.modPort p (fun q => { q with
        credits := (List.range 12).map (fun i => nth q.credits i 0 + (nth new i 0 + 65536 - nth q.got i 0) % 65536), got := new,
        stallAt := (List.range 12).map (fun i => if nth new i 0 = nth q.got i 0 then nth q.stallAt i 0 else s.time) }))
  else if lane = 0xA then
    if unusable then some s
    else
      let a := leNat (data.take 16)
      let b := leNat (data.drop 16)
      if (code = 6 ∨ code = 7) ∧ bit a 7 then
        if bits a 0 6 = 0x18 ∨ bits a 0 6 = 0x19 then
          (s.takeClass p ((if bits a 0 6 = 0x18 then 8 else 10) + b2n (decide (code = 7)))).map (fun s =>
            s.rxSegment p a b (decide (code = 7)))
        else none
      else (unitSignals code a b).bind (fun l => l.foldl (fun (o : Option State) x =>
        o.bind (fun s => (s.takeClass p (sigClass x.1 x.2)).map (fun s => s.rxSignal p x.1 x.2))) (some s))
  else if 8 ≤ lane then none
  else
    match s.takeClass p lane with
    | none => none
    | some s => s.rxUnit p lane (bit side 4) (bit side 5) unusable data

/-- The items of a DATA frame: all of them, or a violation that discards them (R330). -/
def State.rxData (s : State) (p : Nat) (items : List (List Byte)) : State :=
  match items.foldl (fun (o : Option State) i => o.bind (fun s => s.rxItem p i)) (some s) with
  | some s => s
  | none => s.linkViolation p

/-- A fragment of a message (R316): a whole message waits for its own command. A message with an unlisted MTYPE is a violation. -/
def State.rxMsg (s : State) (p : Nat) (body : List Byte) : State :=
  let w := leNat (body.take 8)
  let typ := bits w 0 8
  let len := bits w 8 16
  let off := bits w 24 16
  let q := s.port p
  let have_ := match q.msg with
    | some m => m
    | none => (⟨typ, len, []⟩ : RxMsg)
  if ! [1, 2, 3, 4, 0x10, 0x12].contains typ ∨ 8192 < len ∨ have_.typ ≠ typ ∨ have_.len ≠ len ∨ off ≠ have_.bytes.length then
    s.linkViolation p
  else
    let bs := (have_.bytes ++ body.drop 8).take len
    if bs.length = len then s.modPort p (fun q => { q with msg := none, inbox := q.inbox ++ [(typ, bs)] })
    else s.modPort p (fun q => { q with msg := some ⟨typ, len, bs⟩ })

/-- The least TXC of a receiving key that agrees with TXL (R305). -/
def KeySt.txc (k : KeySt) (txl : Nat) : Nat := k.count + (txl + 256 - k.count % 256) % 256

/-- Open a frame under a key: its plain items (R305). -/
def openFrame (k : KeySt) (f : Frame) : Option (List (List Byte)) :=
  let iv := frameNonce k.iv (k.txc f.txl)
  let body := f.body.flatten
  if f.enc then (gcmOpen k.key iv (frameHeader f) body f.tag).map (bodyItems f.body.length)
  else (gcmOpen k.key iv (frameHeader f ++ body) [] f.tag).map (fun _ => f.body)

/-- The frame under one of the receiver's keys, with the keys as they stand afterwards (R305, R318, R319). -/
def PortSt.openAny (q : PortSt) (f : Frame) (hello : Bool) (now : Nat) : Option (List (List Byte) × PortSt) :=
  let upd := fun (k : KeySt) => { k with count := k.txc f.txl + 1 }
  match (if q.rx.kp = f.kp then openFrame q.rx f else none) with
  | some b => some (b, { q with rx := upd q.rx })
  | none => match q.rxNew.bind (fun k => if k.kp = f.kp then (openFrame k f).map (fun b => (b, k)) else none) with
    | some (b, k) =>
      if hello then some (b, { q with rxNew := some (upd k) })
      else some (b, { q with rxOld := some (q.rx, now + ms 1), rx := upd k, rxNew := none })
    | none => match q.rxOld.bind (fun k => if k.1.kp = f.kp then (openFrame k.1 f).map (fun b => (b, k)) else none) with
      | some (b, k) => some (b, { q with rxOld := some (upd k.1, k.2) })
      | none => none

/-- Is a frame's header well formed (R304)? -/
def frameOk (f : Frame) : Bool :=
  let n := f.body.length
  if f.kind = 1 ∨ f.kind = 3 then decide (1 ≤ n) && decide (n ≤ 16)
  else if f.kind = 2 then decide (n = 0) else decide (f.kind = 4) && decide (n = 1)

/-- A block boundary of a hunt held no frame that restores alignment, as each FRAME_RECEIVE of a
hunt is one (DESIGN CHOICE, log 134); at 1,024 of them the port retrains (R304). -/
def State.huntOn (s : State) (p n : Nat) : State :=
  if 1024 ≤ n + 1 then s.retrain p 4 else s.modPort p (fun q => { q with hunt := some (n + 1) })

/-- A frame overlaps a codeword that cannot be corrected: it is dropped, and a hunt begins or goes on (R304, R331). -/
def State.frameBad (s : State) (p : Nat) : State :=
  let s := (s.bumpLink p 4 1).wear (s.linkBlock p) 1
  match (s.port p).hunt with
  | some n => s.huntOn p n
  | none => (s.bumpLink p 8 1).modPort p (fun q => { q with hunt := some 0 })

/-- A verified frame is acted on (R308): ACK and NAK of every one, and a sequenced frame where it is the one expected. A quarantined port
acknowledges what it discards, in IDLE frames (R330). -/
def State.frameTaken (s : State) (p : Nat) (f : Frame) (items : List (List Byte)) : State :=
  let st := s.portState p
  let s := (s.takeAck p f.ack).tryUp p
  let s := if f.nak then s.retransmit p else s
  if f.kind = 2 ∨ f.kind = 4 then s
  else
    let e := (s.port p).expect
    if f.seq = e then
      let s := s.modPort p (fun q => { q with expect := (e + 1) % 65536, nakAt := 0 })
      if st = 7 then s.transmit p 2 0 []
      else if f.kind = 1 then (if s.portUp p then s.rxData p items else s.linkViolation p)
      else s.rxMsg p items.flatten
    else if (e + 65536 - f.seq) % 65536 ≤ 512 then s
    else s.modPort p (fun q => { q with wantNak := true })

/-- FRAME_RECEIVE (R304, R305, R308, R330). During a width change no frame moves (R314). A frame whose tag verifies and whose header is not
well formed is a protocol violation, and in a hunt restores no alignment. -/
def State.frameAt (s : State) (p : Nat) (f : Frame) (fec : Fec) : State :=
  let st := s.portState p
  let q := s.port p
  if ! (st = 3 ∨ st = 4 ∨ st = 5 ∨ st = 7) ∨ q.widening then s
  else match fec with
  | .bad => s.frameBad p
  | .clean | .corrected _ =>
    let s := match fec with
      | .corrected n => s.bumpLink p 3 n
      | .clean | .bad => s
    match q.openAny f (decide (st = 3)) s.time, q.hunt with
    | none, some n => s.huntOn p n
    | none, none => (s.bumpLink p 5 1).violationEvent p
    | some (items, q'), hunt =>
      if ! frameOk f then match hunt with
        | some n => s.huntOn p n
        | none => ((s.modPort p (fun _ => { q' with lastRx := s.time })).bumpLink p 2 1).linkViolation p
      else ((s.modPort p (fun _ => { q' with hunt := none, lastRx := s.time })).bumpLink p 2 1).frameTaken p f items

/-- NAK_REPEAT (R308): NAK goes again when the expected frame has not come 2 µs later. -/
def State.nakRepeat (s : State) (p : Nat) : State :=
  let q := s.port p
  if q.nakAt = 0 ∨ ! (s.portUp p ∨ s.portState p = 3) then s
  else ({ s with time := max s.time (q.nakAt + 2000) } : State).modPort p (fun q => { q with wantNak := true })

/-- REPLAY_TIMEOUT_EXPIRY (R308). -/
def State.replayTimeout (s : State) (p : Nat) : State :=
  let q := s.port p
  if q.replay.isEmpty then s
  else ({ s with time := max s.time (q.ackAt + s.linkTimer 3 1000) } : State).retransmit p

/-! ### Entry of packets (R311, R312, R326, R329, R372) -/

/-- The live gateway cell of a port at which a flow enters (R326). -/
def State.entryCell (s : State) (p : Nat) (pk : Packet) : Coord :=
  let n := match s.trunkRole p with
    | some (d, dir) => max 1 (s.route.trunkPorts d dir).length
    | none => 1
  let gs := s.liveGateways p
  nth gs (flowHash pk.src pk.dest / n % max 1 gs.length) (s.gatewayCell p 0)

/-- Take a packet out of a port's receive buffer: its credits return (R311). -/
def State.rxTake (s : State) (p : Nat) (pk : Packet) : State :=
  match (s.port p).rxq.find? (fun e => e.pkt == pk) with
  | some e =>
    let s := s.modPort p (fun q => { q with rxq := q.rxq.erase e })
    if e.counted then s.freeClass p e.lane (pk.len + 1) else s
  | none => s

/-- May a packet leave the receive buffer of a port: it is in service and not in relay, which lets nothing enter the fabric (R334), or the
packet was in the buffer as the port left service (R332 step 4)? -/
def State.mayEnter (s : State) (p : Nat) (pk : Packet) : Bool :=
  decide (s.reg .engine 0 0xA011 4 = 0) &&
    (decide (s.portState p = 4) || (decide (s.portState p ≠ 5) && (s.port p).rxq.any (fun e => e.pkt == pk)))

/-- A packet refused by the sluice (R329). -/
def State.sluiceDrop (s : State) (p k : Nat) (pk : Packet) : State :=
  let c := s.gatewayCell p 0
  let s := s.violationAt p k pk.src.eng pk.typ
  if k = 1 then s else s.raiseNack c (s.srcOf c 0) pk 4 0 0

/-- Transit credit that an entry port holds toward an exit port and engine lane (R312), by the fabric time of the port. -/
def State.transitCredit (s : State) (p exit lane : Nat) : Nat :=
  ((s.port p).tcred.filter (fun g => g.port == exit && g.lane == lane && decide (s.portFt p < g.expiry))).foldl (fun n g => n + g.units) 0

/-- Ask for transit credit (R312): RESERVE to the exit port's lowest live gateway cell, at most 4 grants outstanding. -/
def State.askTransit (s : State) (p exit lane : Nat) : State :=
  let c := s.siteCell (.port p)
  let use := SrcUse.transit p exit lane
  let open_ := ((s.cell c).rsvs.filter (fun r => r.use == use)).length +
    ((s.port p).tcred.filter (fun g => g.port == exit && g.lane == lane && decide (s.portFt p < g.expiry))).length
  match (if open_ < 4 then s.freeRsv? c else none) with
  | none => s
  | some n =>
    let d := s.siteCell (.port exit)
    let r : SrcRsv := ⟨use, [], n, 0, 0, 0, lane, 32 * 512, 0, ⟨s.engine, d.x, d.y, 2⟩, .asked, s.time + s.bulkTimeout, 0, 0, 0, 0, 0, 0⟩
    (s.addRsv c r).sendReserve c 0 r false

/-- Spend transit credit, the oldest grant first. -/
def spendCredit (exit lane now : Nat) : Nat → List TransitGrant → List TransitGrant
  | _, [] => []
  | n, g :: gs =>
    if g.port = exit ∧ g.lane = lane ∧ now < g.expiry then
      let k := min n g.units
      { g with units := g.units - k } :: spendCredit exit lane now (n - k) gs
    else g :: spendCredit exit lane now n gs

/-- The grant of transit credit reaches the entry port (R312). -/
def State.transitGrant (s : State) (c : Coord) (r : SrcRsv) (t : TransferTail) : State :=
  match r.use with
  | .transit p exit lane =>
    let g : TransitGrant := ⟨⟨s.srcOf c 0, r.rsv, r.tag⟩, exit, lane, t.size / 32, s.portFt p + us t.lease⟩
    (s.endSrcRsv c r.rsv).modPort p (fun q => { q with tcred := q.tcred.filter (fun g => decide (s.portFt p < g.expiry)) ++ [g] })
  | _ => s

/-- TRANSIT_PACKET_ARRIVE (R312, R324, R328): it waits in the receive buffer until the credit toward its exit covers it. -/
def State.transitAt (s : State) (p : Nat) (pk : Packet) : State :=
  let c := s.gatewayCell p 0
  if ! s.mayEnter p pk ∨ pk.dest.eng = s.engine then s
  else match s.sluicePkt p pk with
    | some k => (s.rxTake p pk).sluiceDrop p k pk
    | none =>
      match s.route.exitPort pk.src pk.dest (s.trunkRole p) with
      | none => (s.rxTake p pk).raiseNack c (s.srcOf c 0) pk 7 0 0
      | some (exit, _) =>
        let lane := match s.route.next pk.dest.eng (s.trunkRole p) with
          | .trunk d dir => b2n (s.route.laneB pk.src.eng d dir)
          | _ => 0
        let have_ := s.transitCredit p exit lane
        if have_ < pk.len + 1 then
          let s := if (s.port p).rxq.any (fun e => e.pkt == pk) then s
            else s.modPort p (fun q => { q with rxq := q.rxq ++ [⟨pk, 2 * pk.cls, false⟩] })
          s.askTransit p exit lane
        else
          let s := s.rxTake p pk
          let s := s.modPort p (fun q => { q with tcred := spendCredit exit lane (s.portFt p) (pk.len + 1) q.tcred })
          let wait := (s.port p).rxq.any (fun e => decide (e.pkt.dest.eng ≠ s.engine) &&
            (s.route.exitPort e.pkt.src e.pkt.dest (s.trunkRole p)).any (fun x => x.1 == exit))
          let s := if have_ - (pk.len + 1) < 256 ∧ wait then
              s.askTransit p exit lane else s
          s.sendPkt (s.entryCell p pk) pk false

/-! ### The exit side of transit credit (R312, R163 to R165) -/

/-- Units that a port has granted on an engine lane. -/
def State.transitOut (s : State) (p lane : Nat) : Nat :=
  ((s.port p).ledger.filter (fun g => g.lane == lane)).foldl (fun n g => n + g.units) 0

/-- RESERVE at a link port. -/
def State.transitReserve (s : State) (p : Nat) (pk : Packet) (t : TransferTail) : State :=
  if 256 ≤ (s.port p).treq.length then s
  else
    let r : LReq := ⟨⟨keySrc pk, t.rsv, pk.tag⟩, t.size, t.lease, pk.dest, .transit (t.addr % 2)⟩
    (s.takePkt pk).modPort p (fun q => { q with treq := q.treq ++ [r] })

/-- The head request of a port is granted while its grants stay within 2,048 units of the lane (R312), with the default lease. -/
def State.transitGive (s : State) (p : Nat) : State :=
  match (s.port p).treq with
  | [] => s
  | r :: rest =>
    let lane := match r.kind with
      | .transit l => l
      | _ => 0
    let units := r.size / 32
    if 2048 < s.transitOut p lane + units then s
    else
      let lease := s.leaseFor 0
      let c := s.siteCell (.port p)
      let g : TransitGrant := ⟨r.key, p, lane, units, s.portFt p + us lease⟩
      let s := s.modPort p (fun q => { q with treq := rest, ledger := q.ledger ++ [g] })
      s.sendPkt c (ctlPkt 2 false (replyTo r.key.src) (s.srcOf c 0) r.key.tag ⟨0, r.size, r.key.rsv, 0, lease, 0, 0, 0⟩) false

/-- A transit lease ends: its units return to the ledger (R312). -/
def State.transitExpiry (s : State) (p : Nat) (k : RsvKey) : State :=
  match (s.port p).ledger.find? (fun g => sameKey g.key k) with
  | none => s
  | some g =>
    let s := s.awaitFt (s.fieldOf (s.gatewayCell p 0)) g.expiry
    (s.modPort p (fun q => { q with ledger := q.ledger.erase g })).ringEvent (s.gatewayCell p 0) 8 0 (k.tag + 2 ^ 16 * k.rsv + 2 ^ 22 * 3)

/-- A RELEASE at a link port (R165). -/
def State.transitRelease (s : State) (p : Nat) (pk : Packet) (t : TransferTail) : State :=
  let k : RsvKey := ⟨keySrc pk, t.rsv, pk.tag⟩
  (s.takePkt pk).modPort p (fun q => { q with
    treq := q.treq.filter (fun r => ! sameKey r.key k), ledger := q.ledger.filter (fun g => ! sameKey g.key k) })

/-! ### Timers of a port in service -/

/-- HOLD_DOWN_EXPIRY (R315). -/
def State.holdEnd (s : State) (p : Nat) : State :=
  if s.portState p ≠ 6 then s
  else
    let s := { s with time := max s.time ((s.port p).since + s.holdTime p) }
    let s := if s.lport p 0x0D = 11 then s.modPort p (fun q => { q with holdMul := min 64000 (2 * q.holdMul) }) else s
    s.setPortState p 1

/-- UP_HOLD_ELAPSED (R315): the port is announced in service. -/
def State.upHold (s : State) (p : Nat) : State :=
  if ! s.portUp p then s
  else
    let s := { s with time := max s.time ((s.port p).upAt + s.linkTimer 4 1000000) }
    s.modPort p (fun q => { q with announced := true })

/-- FLAP_DOUBLING_RESET (R315). -/
def State.flapReset (s : State) (p : Nat) : State :=
  if ! s.portUp p then s
  else
    let s := { s with time := max s.time ((s.port p).upAt + 10 * s.linkTimer 6 1000000) }
    s.modPort p (fun q => { q with holdMul := 1 })

/-- A lane of an UP port is lost (R314, R452): a width change, or DOWN with ABSENT where no width is left (R331). -/
def State.laneLost (s : State) (p lane : Nat) : State :=
  if ! s.portUp p ∨ 8 ≤ lane then s
  else
    let mask := clrBit (s.lport p 8) lane
    let n := s.portNode p
    let w := s.widthFor p (s.lport p 0x0B) mask
    if mask = s.lport p 8 then s
    else if w = 0 then s.portDown p 1 1
    else
      let s := s.modPort p (fun q => { q with ownLanes := clrBit q.ownLanes lane, widening := true })
      ((s.setReg n 0 0x7010 8 mask).setReg n 0 0x7010 7 w).bumpLink p 0x0A 1

/-- WIDTH_CHANGE_DONE (R314): the lanes are back, and the sender replays from ACK. -/
def State.widthDone (s : State) (p : Nat) : State :=
  if ! s.portUp p ∨ ! (s.port p).widening then s
  else (s.modPort p (fun q => { q with widening := false })).retransmit p

/-- DEAD_TIME_EXPIRY (R331): DEAD_TIME has passed since the last verified frame. -/
def State.deadTime (s : State) (p : Nat) : State :=
  if s.portUp p then
    ({ s with time := max s.time ((s.port p).lastRx + s.linkTimer 1 1000) } : State).portDown p 1 1
  else s

/-- When the waits of a port have lasted STALL_TIME (R331): of frames without ACK progress, and of each class whose items wait with their
credits unchanged. -/
def State.stallDues (s : State) (p : Nat) : List Nat :=
  let q := s.port p
  let t := s.linkTimer 2 1000
  (if q.replay.isEmpty then [] else [q.progAt + t]) ++ ((List.range 12).filter q.waits).map (fun k => nth q.stallAt k 0 + t)

/-- STALL_TIME_EXPIRY (R331): of a port with nothing that waits there is none. -/
def State.stallTime (s : State) (p : Nat) : State :=
  match s.stallDues p with
  | [] => s
  | d :: ds => if s.portUp p then ({ s with time := max s.time (minimum d ds) } : State).portDown p 1 2 else s

/-! ### Relay (R333, R334) -/

/-- Turn relay on for the pair of a port, both UP (R333): open packets are completed by poison, transit credit is dropped, and
both ports forward. -/
def State.relayOn (s : State) (p : Nat) : State :=
  let r := s.lport p 3
  [p, r].foldl (fun (s : State) x =>
    let s := s.openDone x
    let c := s.gatewayCell x 0
    let lost := ((s.port x).txq.filter (fun t => t.sent == 0)).map TxPkt.pkt
    let s := lost.foldl (fun s pk => s.raiseNack c (s.srcOf c 0) pk 7 0 0) s
    let s := s.modPort x (fun q => { q with
      txq := (q.txq.filter (fun t => decide (0 < t.sent))).map (fun t => { t with pkt := { t.pkt with poison := true } }), tcred := [] })
    (s.setReg (s.portNode x) 0 0x7010 4 1).setPortState x 5) s

/-- Turn relay off: the pair's ports return to UP (R313). -/
def State.relayOff (s : State) (p : Nat) : State :=
  [p, s.lport p 3].foldl (fun s x =>
    let s := s.setReg (s.portNode x) 0 0x7010 4 0
    if s.portState x = 5 then s.setPortState x 4 else s) s

/-- May relay be turned on at a port: it has a pair, and both are UP? -/
def State.relayReady (s : State) (p : Nat) : Bool :=
  let r := s.lport p 3
  decide (r ≠ 0xFF) && decide (r < s.nPorts) && decide (s.portState p = 4) && decide (s.portState r = 4)

/-! ### Time frames (R335) -/

/-- TIME_FRAME_SEND (R335). -/
def State.timeSend (s : State) (p : Nat) : State :=
  if ! s.portUp p ∨ ! bit (s.lport p 0x0B) 1 ∨ (s.port p).widening then s
  else
    let f := s.fieldOf (s.gatewayCell p 0)
    let t := s.portFt p
    let e := (s.port p).echo
    let body := leBytes 36 (pack [(0, 64, t), (64, 64, match e with | some x => x.1 | none => 0), (128, 64, match e with | some x => x.2.1 | none => 0),
      (192, 1, b2n (s.stretchFlag f)), (193, 1, b2n (s.heldFlag f)), (194, 1, match e with | some x => b2n x.2.2.1 | none => 0),
      (195, 1, match e with | some x => b2n x.2.2.2 | none => 0)])
    let s := if s.stretchFlag f ∨ s.heldFlag f then
        s.modPort p (fun q => { q with flaggedTx := (q.flaggedTx ++ [t]).drop (q.flaggedTx.length + 1 - 8) })
      else s
    s.transmit p 4 0 [body]

end Sys2Proof.Machine
end

