-- ==== Sys2Proof/Machine/LevelOps.lean ====
section
/-! DEFINITION. Collectives across engines (R252 to R272): level packets at the edge of an engine, link ponds, contributions and
carriers, halves on engine rings, level roots and their completion, the descent of results and system anchors, and the join of
an EXCHANGE. -/

namespace Sys2Proof.Machine

/-! ### Arithmetic of the levels (R251, R258, R259) -/

/-- Do partials cross the levels as carriers: a SUM on anchors that names one (R251, R258)? -/
def Spec.carried (a : Spec) : Bool := a.anchored && decide (a.carrierBits ≠ 0)

/-- The arithmetic by which stations merge: AC64 for carriers (R258). -/
def State.lvSpec (s : State) (ctx : Nat) : Spec :=
  let a := s.spec ctx
  if a.carried then { a with acc := 0x10 } else a

/-- FMTs that a level packet of a computation may carry (R258). -/
def Spec.lvFmts (a : Spec) (ph : Nat) : List Nat :=
  if ph = 0 then [a.fin] else if a.carried then [0x12, a.carrier] else [a.wire]

/-- FMT of a partial that leaves a station: an unmerged carrier keeps its own, a merged one travels as PP (R258). -/
def Spec.lvFmt (a : Spec) (ph : Nat) (p : Part) : Nat :=
  if ph = 0 then a.fin
  else if ! a.carried then a.wire
  else if p.cells.all (fun x => match x with | some y => decide (y.2 ≤ 1) | none => true) then a.carrier else 0x12

/-- The blocks of a slice that a level root waits for: one for the join of an EXCHANGE (R268). -/
def State.lvBlocks (s : State) (ctx : Nat) : List Nat := if s.ctx ctx 2 = 5 then [0] else List.range (s.spec ctx).blocks

/-- Engine contributions merged into a partial: the least count of its blocks. -/
def State.lvCount (s : State) (ctx : Nat) (p : Part) : Nat :=
  minimum (2 ^ 20) ((s.lvBlocks ctx).map (fun j => match p.cells.getD j none with | some x => x.2 | none => 0))

/-! ### The link pond (R260) -/

/-- Change what a port's link pond holds. -/
def State.modLv (s : State) (p : Nat) (f : LvSt → LvSt) : State := s.modPort p (fun q => { q with lv := f q.lv })

/-- Slots of 2 KiB that one partial takes: two for 512 elements in AC64 (R258). -/
def State.lvWeight (s : State) (ctx : Nat) : Nat :=
  let a := s.spec ctx
  if a.carried ∧ a.blocks = 16 then 2 else 1

/-- Slots that a share class holds in a link pond. -/
def State.lvHeld (s : State) (p q : Nat) : Nat :=
  let v := (s.port p).lv
  (v.slots.filter (fun w => w.share == q)).foldl (fun n w => n + s.lvWeight w.id.ctx) 0 +
    (v.owns.filter (fun o => o.part.isSome && s.ctx o.id.ctx 0x11 == q)).foldl (fun n o => n + s.lvWeight o.id.ctx) 0

/-- FREE slots of a link pond. -/
def State.lvFree (s : State) (p : Nat) : Nat := 512 - ((List.range 8).foldl (fun n q => n + s.lvHeld p q) 0)

/-- May a context take a slot of a link pond: R231 and R232 with QUOTA, RES and HOLD_FLOOR times 16 (R260)? -/
def State.lvCan (s : State) (p ctx : Nat) (staging : Bool) : Bool :=
  let q := s.ctx ctx 0x11
  let more := s.lvWeight ctx - 1
  s.mayTake 16 (s.lvFree p - more) (fun r => s.lvHeld p r + (if r = q then more else 0)) q staging

/-- A counter of LEVEL_POND. -/
def State.bumpLv (s : State) (p sub : Nat) : State := s.bump (s.portNode p) 0 0x5010 sub 1

/-- The contribution that a station holds or knows of. -/
def State.lvOwn? (s : State) (p ph l : Nat) (i : SliceId) : Option LvOwn :=
  (s.port p).lv.owns.find? (fun o => o.ph == ph && o.level == l && o.id == i)

/-- Does a station owe its engine for a slice (R236, R261)? -/
def State.lvIsOwed (s : State) (p ph l : Nat) (i : SliceId) : Bool :=
  (s.port p).lv.owed.any (fun o => o.ph == ph && o.level == l && o.ctx == i.ctx && o.epoch == i.epoch && decide (o.k ≤ i.k) &&
    decide (i.k < o.k + o.n))

/-- Owe an engine for a slice (R236, R261): consecutive slices share an entry, and the oldest of 256 goes, counted, when the table
is full. -/
def State.lvOwe (s : State) (p ph l : Nat) (i : SliceId) : State :=
  let v := (s.port p).lv
  let s := s.bumpLv p 5
  match v.owed.find? (fun o => o.ph == ph && o.level == l && o.ctx == i.ctx && o.epoch == i.epoch && o.k + o.n == i.k) with
  | some o => s.modLv p (fun v => { v with owed := v.owed.map (fun x => if x = o then { x with n := x.n + 1 } else x) })
  | none =>
    let s := if 256 ≤ v.owed.length then s.bumpLv p 5 else s
    s.modLv p (fun v => { v with owed := v.owed.drop (v.owed.length - 255) ++ [⟨ph, l, i.ctx, i.epoch, i.k, 1⟩] })

/-- A level packet or system anchors of an epoch reach a station: what its link pond kept of epochs half the range away has ended,
and goes, so that their numbers can be used again (R217, R257, R262). What holds a slot stays until its own lease. -/
def State.lvBegin (s : State) (p ctx epoch : Nat) : State :=
  let old := epochOld ctx epoch
  s.modLv p (fun v => { v with
    owns := v.owns.filter (fun o => ! (old o.id.ctx o.id.epoch && o.part.isNone)),
    done := v.done.filter (fun d => ! old d.2.2.ctx d.2.2.epoch),
    anchors := v.anchors.filter (fun d => ! old d.id.ctx d.id.epoch),
    owed := v.owed.filter (fun o => ! old o.ctx o.epoch) })

/-- Set the contribution of a slice at a station. -/
def State.setLvOwn (s : State) (p : Nat) (o : LvOwn) : State :=
  s.modLv p (fun v => { v with owns := v.owns.filter (fun x => ! (x.ph == o.ph && x.level == o.level && x.id == o.id)) ++ [o] })

/-- A held half, or a root's slice, of a link pond. -/
def State.lvSlot? (s : State) (p ph l : Nat) (i : SliceId) (root : Bool) : Option LvSlot :=
  (s.port p).lv.slots.find? (fun w => w.ph == ph && w.level == l && w.id == i && w.root == root)

/-- Free a slot of a link pond. -/
def State.dropLv (s : State) (p : Nat) (w : LvSlot) : State := s.modLv p (fun v => { v with slots := v.slots.erase w })

/-- Take a slot of a link pond. -/
def State.addLv (s : State) (p : Nat) (w : LvSlot) : State := s.modLv p (fun v => { v with slots := v.slots ++ [w] })

/-- The system anchors of a slice that a station knows: delivered, or declared and carried by the partial itself (R257). -/
def State.lvAnchors (s : State) (p : Nat) (i : SliceId) : Option (List Nat) :=
  ((s.port p).lv.anchors.find? (fun e => e.id == i)).map AnchEnt.bytes

/-- WAIT of a level in ns. -/
def State.lvWait (s : State) (ctx l : Nat) : Nat := (s.lvEnt ctx l).wait

/-- LEASE of a level in ns. -/
def State.lvLease (s : State) (ctx l : Nat) : Nat := us (s.lvEnt ctx l).lease

/-! ### Departure (R255, R256, R271) -/

/-- The station cell of a port for a slice, in a packet's SRC. -/
def State.lvCell (s : State) (p l : Nat) (i : SliceId) : Coord :=
  match s.station i.ctx l i.k with
  | some (q, c) => if q = p then c else s.gatewayCell p 0
  | none => s.gatewayCell p 0

/-- Count a slot whose lease ended while its station's field was frozen (0x5010.0C, R434). -/
def State.noteHaltHeld (s : State) (p l : Nat) (i : SliceId) : State :=
  let c := s.lvCell p l i
  if s.haltOn c ∨ s.reg (.field (s.fieldOf c)) 0 0x3010 1 = 1 then s.bumpLv p 0x0C else s

/-- Do link ponds no longer hold anything, as DRAIN has run their part and relay follows (R270)? -/
def State.lvDraining (s : State) : Bool := decide (2 ≤ s.reg .engine 0 0x8140 0x14)

/-- Where a packet for the level root of a slice goes: another engine by engine routing, or this engine's own station. -/
def State.lvRootAddr (s : State) (l : Nat) (i : SliceId) : Addr :=
  let e := s.levelRoot i.ctx l i.k s.engine
  match s.station i.ctx l i.k with
  | some (_, d) => if e = s.engine then ⟨e, d.x, d.y, 2⟩ else ⟨e, 0, 0, 3⟩
  | none => ⟨e, 0, 0, 3⟩

/-- Put a level packet in the transmit queue of a port, or of another live port of the trunk where it is down (R256, R271). -/
def State.lvQueue (s : State) (p dim dir : Nat) (pk : Packet) : State :=
  let b := b2n (s.route.laneB pk.src.eng dim dir)
  let up := fun q => decide (s.portState q = 4)
  let q := if up p then some p
    else
      let ps := (s.route.trunkPorts dim dir).filter up
      if ps.isEmpty then none else some (nth ps (flowHash pk.src pk.dest % ps.length) 0)
  match q with
  | some q => s.modPort q (fun x => { x with txq := x.txq ++ [⟨pk, 4 + b, 0, false, none⟩] })
  | none => s

/-- A half goes on from its station through the station's own port (R256). -/
def State.lvOnward (s : State) (p ph l : Nat) (i : SliceId) (part : Part) (src : SrcAddr) : State :=
  if part.isEmpty then s
  else
    let v := s.lvEnt i.ctx l
    let dir := if s.levelUp i.ctx l i.k then 0 else 1
    let h : CollHdr := ⟨sweepType ph, ⟨s.levelRoot i.ctx l i.k s.engine, 0, 0, 3⟩, src, 0, i.ctx, i.epoch, l, 0, false⟩
    (partPackets h ((s.spec i.ctx).lvFmt ph part) i.k part).foldl (fun s pk => s.lvQueue p v.dim dir pk) s

/-- A partial goes to its level root by engine routing: LATE, or PASS (R256, R260). -/
def State.lvToRoot (s : State) (p ph l : Nat) (i : SliceId) (part : Part) (src : SrcAddr) (late : Bool) : State :=
  if part.isEmpty then s
  else
    let s := s.bumpLv p (if late then 6 else 4)
    let typ := if ph = 1 ∧ late then 0x22 else sweepType ph
    let h : CollHdr := ⟨typ, s.lvRootAddr l i, src, 0, i.ctx, i.epoch, l, 0, ! (late && decide (ph = 1))⟩
    s.sendPart (s.lvCell p l i) h ((s.spec i.ctx).lvFmt ph part) i.k part

/-- A level-0 partial that is not yet a carrier goes to its level root as LATE in its own format (R237, R260, R261), for the root to
convert (log 106). Its LEVEL stays 0, the level whose partial it is, and shows the root that it is no carrier. -/
def State.lvRawLate (s : State) (p : Nat) (i : SliceId) (part : Part) : State :=
  let c := s.lvCell p 1 i
  (s.bumpLv p 6).sendPart c ⟨0x22, s.lvRootAddr 1 i, s.srcOf c 0, 0, i.ctx, i.epoch, 0, 0, false⟩ (s.spec i.ctx).wire i.k part

/-! ### Carriers (R258) -/

/-- A level-0 partial as carriers on E_c,1 (R258): the engine's anchors and window, on the system anchors. -/
def State.toCarrier (s : State) (ctx : Nat) (part : Part) (eg : Nat → Nat) : Part × Nat × Nat :=
  let a := s.spec ctx
  carriers a.carrierBits a.window (fun j _ => s.carrierAnchor ctx 1 (eg j)) part

/-- A level's sum as carriers of the next level (R258): from E_c,ℓ with window W − 2. -/
def State.nextCarrier (s : State) (ctx l : Nat) (part : Part) : Part × Nat × Nat :=
  let a := s.spec ctx
  carriers a.carrierBits (a.carrierBits - 2)
    (fun _ b => (min 127 (anchorExp b.a + ((s.lvEnt ctx l).head : Int)) + 127).toNat) part

/-- What a conversion to carriers leaves at a station: CONVERSIONS of its port (0x5010.03), and FLAGS and SATURATIONS of the
millstone of its cell (R210, R212, log 110). -/
def State.lvConverted (s : State) (p l : Nat) (i : SliceId) (r : Part × Nat × Nat) : State :=
  let c := s.lvCell p l i
  ((s.bumpLv p 3).millFlags c r.2.1).bump (cellNode c) 0 0x4070 5 r.2.2

/-- Merge two partials at a station by the millstone of its cell (R192, R210, R212, R258). -/
def State.lvJoin (s : State) (p ph l : Nat) (i : SliceId) (x y : Part) : Option (Part × State) :=
  let c := s.lvCell p l i
  (x.join (s.lvSpec i.ctx) ph y).map (fun z => (z.1, (s.millFlags c z.2).merged c))

/-- The system anchors by which a station converts a level-0 partial (R257, R258): delivered, or declared and carried by the partial
itself. -/
def State.lvEg (s : State) (p : Nat) (i : SliceId) (q : Part) : Option (Nat → Nat) :=
  if (s.spec i.ctx).measured then (s.lvAnchors p i).map (fun l j => nth l j 0) else some (fun j => (q.blk j).a)

/-- An engine's contribution goes to its level root as LATE (R237, R260, R261): converted where it can be. -/
def State.lvOwnLate (s : State) (p ph l : Nat) (i : SliceId) (q : Part) (raw : Bool) : State :=
  if ! raw then s.lvToRoot p ph l i q (s.srcOf (s.lvCell p l i) 0) true
  else match s.lvEg p i q with
    | some eg =>
      let r := s.toCarrier i.ctx q eg
      (s.lvConverted p l i r).lvToRoot p ph l i r.1 (s.srcOf (s.lvCell p l i) 0) true
    | none => s.lvRawLate p i q

/-! ### The descent (R257, R264) -/

/-- Send a descending packet both ways along this engine's level-ℓ ring from its root: to each end of the arc (R264). -/
def State.ringSend (s : State) (l : Nat) (pk : Packet) : State :=
  let t := collTail pk
  let v := s.lvEnt t.ctx l
  let arc := s.levelArc t.ctx l t.slice
  let rho := s.rho t.ctx l t.slice
  let d := s.dimSize v.dim
  let eng := fun (x : Nat) => engOf s.route.sizes (setAt (engCoords s.route.sizes s.engine) v.dim x)
  [(0, (arc.1 + arc.2) % d), (1, arc.1)].foldl (fun (s : State) de =>
    let ps := s.route.trunkPorts v.dim de.1
    if de.2 = rho ∨ ps.isEmpty then s
    else
      let p := nth ps ((t.ctx + t.slice) % ps.length) 0
      let c := s.gatewayCell p 0
      s.lvQueue p v.dim de.1 { pk with dest := ⟨eng de.2, 0, 0, 3⟩, src := s.srcOf c 0, tail := .coll { t with level := l } }) s

/-- The ports of the stations that this engine holds for a slice: those of its levels, and every port whose link pond still holds
the slice from before its station moved (R255). -/
def State.lvPorts (s : State) (i : SliceId) : List Nat :=
  let now := ((List.range (s.levels i.ctx)).filter (fun l => s.takesPart i.ctx (l + 1) i.k s.engine)).filterMap
    (fun l => (s.station i.ctx (l + 1) i.k).map Prod.fst)
  let held := (List.range s.nPorts).filter (fun p =>
    let v := (s.port p).lv
    v.owns.any (fun o => o.id == i && o.part.isSome) || v.slots.any (fun w => w.id == i))
  (now ++ held).eraseDups

/-- Deliver system anchors to every station that this engine holds for the slice (R257). -/
def State.lvLearn (s : State) (i : SliceId) (bytes : List Nat) : State :=
  (s.lvPorts i).foldl (fun (s : State) p => (s.lvBegin p i.ctx i.epoch).modLv p (fun v =>
    if v.anchors.any (fun e => e.id == i) then v else { v with anchors := v.anchors ++ [⟨i, bytes⟩] })) s

/-- What this engine does with a packet that descends on level ℓ (R264): the next ring down, which it roots, or its level-0
root. `from_` is the cell it is sent from. -/
def State.descend (s : State) (from_ : Coord) (pk : Packet) : Nat → State
  | 0 => s
  | l + 1 =>
    let t := collTail pk
    if l = 0 then
      let r := (s.geo t.ctx).rootOf t.slice
      s.sendPkt from_ { pk with dest := ⟨s.engine, r.x, r.y, 3⟩, src := s.srcOf from_ 0, tail := .coll { t with level := 1 } } false
    else (s.ringSend l pk).descend from_ pk l

/-- A packet descends at this engine on level ℓ, with its anchors learnt first (R257, R264): a payload that fails its check, or
that holds another format, gives the stations nothing (R42, R183). -/
def State.takeDescent (s : State) (from_ : Coord) (pk : Packet) (l : Nat) : State :=
  let t := collTail pk
  let s := if pk.typ ≠ 0x20 ∨ s.ctx t.ctx 2 = 5 then s
    else if ! payloadOk pk then s.checkFault from_ pk
    else (packetPieces (s.lvSpec t.ctx) [(s.spec t.ctx).fin] pk).foldl (fun s kp => match kp.2 with
      | some pc =>
        let i : SliceId := ⟨t.ctx, t.epoch, kp.1⟩
        let x := s.anchorPiece from_ i pc
        match x.1 with
        | some l => x.2.lvLearn i l
        | none => x.2
      | none => s.refusePiece from_ false) s
  s.descend from_ pk l

/-- The engine that REDUCE delivers to, or BROADCAST starts from (R249). -/
def State.outEng (s : State) (ctx : Nat) : Nat := bits (s.lvHead ctx) 16 11

/-- The top-level root sends a completed slice or the system anchors (R257, R259, R264). -/
def State.lvTop (s : State) (p : Nat) (ph : Nat) (i : SliceId) (part : Part) : State :=
  let a := s.spec i.ctx
  let L := s.levels i.ctx
  let c := s.lvCell p L i
  let n := s.lvCount i.ctx part
  if ph = 0 then
    let bytes := (s.lvBlocks i.ctx).map (fun j => (part.blk j).a)
    let h : CollHdr := ⟨0x20, ⟨s.engine, 0, 0, 3⟩, s.srcOf c 0, 0, i.ctx, i.epoch, L, 0, false⟩
    let pk := piecePacket h a.fin n ⟨i.k, 0, bytes.map (fun b => ⟨b, [], []⟩), part.flags⟩
    (s.ringSend L pk).takeDescent c pk L
  else
    let rs := (List.range a.blocks).map (fun j =>
      if a.carried then
        let ea := match part.cells.getD j none with
          | some x => x.1.a
          | none => match s.lvAnchors p i with
            | some l => s.carrierAnchor i.ctx L (nth l j 0)
            | none => 0
        outBlk a (anchorExp ea) (a.carrierBits - 2) (part.blk j)
      else outBlk a (anchorExp (part.blk j).a) a.window (part.blk j))
    let raised := rs.foldl (fun f r => f ||| r.2) 0
    let flags := part.flags ||| raised
    let s := (s.millFlags c raised).noteDone c i flags false 0
    let toA : Addr := if s.ctx i.ctx 2 = 0 then
        (if s.outEng i.ctx = s.engine then s.pondAddr (s.geo i.ctx).root else ⟨s.outEng i.ctx, 0, 0, 3⟩)
      else ⟨s.engine, 0, 0, 3⟩
    let h : CollHdr := ⟨0x23, toA, s.srcOf c 0, 0, i.ctx, i.epoch, L, 0, false⟩
    let pk := piecePacket h a.fout n ⟨i.k, 0, rs.map Prod.fst, flags⟩
    if s.ctx i.ctx 2 = 0 then s.sendPkt c pk false
    else (s.ringSend L pk).takeDescent c pk L

/-! ### Completion at a level root (R258, R259, R262, R263) -/

/-- A slice completes at its level-ℓ root: it rises as a contribution to the next level, or is the system result. The root ORs the
flags of a value into CTX_FLAGS at its station's node (R210). -/
def State.lvFinish (s : State) (p ph l : Nat) (i : SliceId) (part : Part) (byLease : Bool) : State :=
  let a := s.spec i.ctx
  let n := s.lvCount i.ctx part
  let short := byLease && (decide (ph = 1) || decide (s.ctx i.ctx 2 = 5))
  let s := s.modLv p (fun v => { v with done := v.done ++ [(ph, l, i)] })
  let s := if short then
      (s.bumpLv p 9).pushRec (s.portNode p) 0 0x5010 0x0A 64
        (pack [(0, 20, i.k), (20, 8, i.epoch), (28, 2, l), (30, 12, i.ctx), (42, 12, s.levelN i.ctx l - n)])
    else s
  let part := if short then { part with flags := part.flags ||| 32 } else part
  if s.levels i.ctx ≤ l then s.lvTop p ph i part
  else
    match s.station i.ctx (l + 1) i.k with
    | none => s
    | some (_, d) =>
      let c := s.lvCell p l i
      let r := if ph = 1 ∧ a.carried then s.nextCarrier i.ctx l part else (part, 0, 0)
      let up := r.1
      let s := if ph = 1 ∧ a.carried then s.lvConverted p l i r else s
      let s := if ph = 1 then s.noteDone c i up.flags false 0 else s
      let one : Part := ⟨up.cells.map (fun x => x.map (fun y => (y.1, 1))), up.flags⟩
      let h : CollHdr := ⟨sweepType ph, ⟨s.engine, d.x, d.y, 2⟩, s.srcOf c 0, 0, i.ctx, i.epoch, if ph = 0 then l + 1 else l, 0, false⟩
      s.sendPart c h (if ph = 0 then a.fin else if a.carried then a.carrier else a.wire) i.k one

/-- A root slot of a link pond, with the end of its lease (R257, R260). -/
def State.lvRootSlot (s : State) (ph l : Nat) (i : SliceId) (src : SrcAddr) : LvSlot :=
  let life := if ph = 0 ∧ s.ctx i.ctx 2 ≠ 5 then s.lvLease i.ctx l / 2 else s.lvLease i.ctx l
  ⟨ph, l, i, true, s.ctx i.ctx 0x11, emptyPart (s.spec i.ctx).blocks, 0, s.time + life, src⟩

/-- Complete a level root's slice when its count has reached n_ℓ (R262). -/
def State.lvCheck (s : State) (p ph l : Nat) (i : SliceId) : State :=
  match s.lvSlot? p ph l i true with
  | none => s
  | some w =>
    if s.levelN i.ctx l ≤ s.lvCount i.ctx w.part then (s.dropLv p w).lvFinish p ph l i w.part false else s

/-- Merge a partial into a level root's slice (R262, R240): refused after completion or past n_ℓ, and discarded once DRAIN has
discarded the slice (R270). None where no slot is free: the arrival waits in its lane. `pk` is the packet to refuse, if it came by
one. -/
def State.lvRootMerge (s : State) (p ph l : Nat) (i : SliceId) (q : Part) (src : SrcAddr) (pk : Option Packet) : Option State :=
  let c := s.lvCell p l i
  if s.lvDraining then some s
  else if (s.port p).lv.done.contains (ph, l, i) then
    let s := s.bumpLv p 7
    some (match pk with
      | some pk => if ph = 0 then s else s.collNack c pk
      | none => s)
  else
    let w := s.lvSlot? p ph l i true
    if w.isNone ∧ ! s.lvCan p i.ctx false then none
    else
      let old := w.getD (s.lvRootSlot ph l i src)
      if old.part.overflows q (s.levelN i.ctx l) then some (s.ctxFailure c i.ctx 2)
      else match s.lvJoin p ph l i old.part q with
        | none => some (s.refusePiece c true)
        | some z =>
          let s := if w.isSome then z.2.dropLv p old else z.2
          some ((s.addLv p { old with part := z.1 }).lvCheck p ph l i)

/-! ### Contributions and halves at a station (R258, R260, R261) -/

/-- Is a contribution ready to merge: staged, and a carrier where carriers are used? -/
def State.lvReady (s : State) (o : LvOwn) : Bool :=
  o.part.isSome && (decide (o.ph = 0) || o.carrier || ! (s.spec o.id.ctx).carried)

/-- The contribution is missing at a station (R260, R261): hold the half, or owe the engine and send it on; one that finds no slot
goes to the root as PASS. A draining engine holds nothing more (R270). -/
def State.lvLack (s : State) (p : Nat) (w : LvSlot) (isOver : Bool) : State :=
  let i := w.id
  let budget := s.lvWait i.ctx w.level
  let owe := fun (s : State) => s.lvOwe p w.ph w.level i
  if isOver ∨ budget = 0 ∨ s.lvDraining then (owe s).lvOnward p w.ph w.level i w.part w.src
  else if w.wait = 0 ∧ ! s.lvCan p i.ctx false then (owe s).lvToRoot p w.ph w.level i w.part w.src false
  else
    let end_ := if w.wait = 0 then s.time + budget else w.wait
    s.addLv p { w with wait := end_, expiry := s.time + s.lvLease i.ctx w.level / 2 }

/-- A half at a station, held in no slot at this moment (R261): it takes the engine's contribution, is held while that is missing
and the wait runs, or goes on. One that cannot be held goes on as PASS (R260). -/
def State.lvHalf (s : State) (p : Nat) (w : LvSlot) (isOver : Bool) : State :=
  let i := w.id
  let own := s.lvOwn? p w.ph w.level i
  let go := fun (s : State) (part : Part) => s.lvOnward p w.ph w.level i part w.src
  if ! s.levelMember i.ctx w.level i.k then go s w.part
  else match own with
    | some o =>
      if s.lvReady o then
        let s := s.setLvOwn p { o with part := none, sent := true }
        match o.part with
        | none => go s w.part
        | some q => match s.lvJoin p w.ph w.level i w.part q with
          | some z => go z.2 z.1
          | none => ((s.refusePiece (s.lvCell p w.level i) true).lvToRoot p w.ph w.level i q (s.srcOf (s.lvCell p w.level i) 0) true)
      else if o.sent ∨ s.lvIsOwed p w.ph w.level i then go s w.part
      else s.lvLack p w isOver
    | none => if s.lvIsOwed p w.ph w.level i then go s w.part else s.lvLack p w isOver

/-! ### A contribution at its station (R258, R260, R261) -/

/-- A contribution that has just become ready: the level root merges it, a half that waits takes it, an arc end originates its half,
and an owed engine sends it as LATE (R261). What was staged before the engine went into relay waits for the orphan rule (R269). -/
def State.lvAvail (s : State) (p ph l : Nat) (i : SliceId) : State :=
  if ! s.levelMember i.ctx l i.k then s
  else match s.lvOwn? p ph l i with
  | none => s
  | some o =>
    if ! s.lvReady o then s
    else
      match o.part with
      | none => s
      | some q =>
        let c := s.lvCell p l i
        let used := s.setLvOwn p { o with part := none, sent := true }
        if s.isLevelRoot i.ctx l i.k then
          match used.lvRootMerge p ph l i q (s.srcOf c 0) none with
          | some s => s
          | none => s
        else if s.lvIsOwed p ph l i then used.lvToRoot p ph l i q (s.srcOf c 0) true
        else match s.lvSlot? p ph l i false with
          | some w => (s.dropLv p w).lvHalf p w false
          | none => if s.levelEnd i.ctx l i.k then used.lvOnward p ph l i q (s.srcOf c 0) else s

/-- Turn a staged level-0 partial into a carrier, once the system anchors are known or where they are declared (R258). -/
def State.lvConvert (s : State) (p : Nat) (i : SliceId) : State :=
  match s.lvOwn? p 1 1 i with
  | some o =>
    match o.part with
    | some q =>
      match s.lvEg p i q with
      | some eg =>
        if o.carrier ∨ ! (s.spec i.ctx).carried then s
        else
          let r := s.toCarrier i.ctx q eg
          ((s.lvConverted p 1 i r).setLvOwn p { o with part := some r.1, carrier := true }).lvAvail p 1 1 i
      | none => s
    | none => s
  | none => s

/-- The engine's own contribution reaches its station at a level (R258, R260, R261): staged, or merged at once at a root; one that
cannot be staged goes to the root as LATE, as does that of an engine owed or draining (R237, R270). None where it must wait in its
lane. An engine that is no member of the ring contributes nothing (R269, R272). -/
def State.lvStage (s : State) (p ph l : Nat) (i : SliceId) (q : Part) : Option State :=
  let a := s.spec i.ctx
  let raw := decide (ph = 1) && a.carried && decide (l = 1)
  let old := s.lvOwn? p ph l i
  let base : LvOwn := old.getD ⟨ph, l, i, none, ! raw, s.time, false⟩
  let q' : Option Part := match base.part with
    | none => some q
    | some x => (x.join (s.lvSpec i.ctx) ph q).map Prod.fst
  let root := s.isLevelRoot i.ctx l i.k
  match q' with
  | none => some (s.refusePiece (s.lvCell p l i) true)
  | some whole =>
    let sent := fun (s : State) => s.setLvOwn p { base with part := none, sent := true }
    let o := { base with part := some whole, at_ := s.time, carrier := ! raw }
    let fits := base.part.isSome || (! base.sent && s.lvCan p i.ctx true && (root || (! s.lvIsOwed p ph l i && ! s.lvDraining)))
    if ! s.levelMember i.ctx l i.k then some s
    else if ! whole.cells.all Option.isSome ∧ s.ctx i.ctx 2 ≠ 5 then
      if fits then some (s.setLvOwn p o)
      else if root then none
      else some ((sent s).lvOwnLate p ph l i whole raw)
    else if root then
      if raw then (if fits then some ((s.setLvOwn p o).lvConvert p i) else none)
      else (sent s).lvRootMerge p ph l i whole (s.srcOf (s.lvCell p l i) 0) none
    else if fits then some (let s := s.setLvOwn p o; if raw then s.lvConvert p i else s.lvAvail p ph l i)
    else some ((sent s).lvOwnLate p ph l i whole raw)

/-- Is a context armed for an epoch (R252)? -/
def State.armedFor (s : State) (ctx epoch : Nat) : Bool :=
  let arm := s.ctx ctx 0x1B
  (s.arm? ctx).isSome && (bit arm 8 || decide (bits arm 0 8 = epoch))

/-- A half arrives in packets: what is held of its slice joins it before it goes on. -/
def State.lvHalfPiece (s : State) (p ph l : Nat) (i : SliceId) (q : Part) (src : SrcAddr) : State :=
  match s.lvSlot? p ph l i false with
  | some w =>
    let s := s.dropLv p w
    match s.lvJoin p ph l i w.part q with
    | some z => z.2.lvHalf p { w with part := z.1 } false
    | none => (s.refusePiece (s.lvCell p l i) true).lvHalf p w false
  | none => s.lvHalf p ⟨ph, l, i, false, s.ctx i.ctx 0x11, q, 0, 0, src⟩ false

/-- A LATE level-0 partial that its root is to convert: LEVEL 0. -/
def rawLate (pk : Packet) : Bool := decide (pk.typ = 0x22) && decide ((collTail pk).level = 0)

/-- An arrival at a level root (R262). A level-0 partial that came unconverted becomes a carrier first, and waits in its lane while
the system anchors are unknown (R237, R258). -/
def State.lvArrive (s : State) (p l : Nat) (i : SliceId) (q : Part) (pk : Packet) : Option State :=
  let ph := packetPh pk
  if rawLate pk ∧ (s.spec i.ctx).carried then
    (s.lvEg p i q).bind (fun eg =>
      let r := s.toCarrier i.ctx q eg
      (s.lvConverted p l i r).lvRootMerge p ph l i r.1 pk.src (some pk))
  else s.lvRootMerge p ph l i q pk.src (some pk)

/-- LEVEL_PACKET_ARRIVE (R252, R256, R260 to R262): a contribution of this engine, an arrival at a level root, or a half. -/
def State.levelAt (s : State) (p : Nat) (pk : Packet) : State :=
  let t := collTail pk
  let c := s.gatewayCell p 0
  let ph := packetPh pk
  let own := decide (pk.src.eng = s.engine) && decide (pk.typ ≠ 0x22) && ! t.pass
  let l := if rawLate pk then 1 else if own ∧ pk.typ ≠ 0x20 then t.level + 1 else t.level
  let s1 := s.takePkt pk
  if pk.cls ≠ 2 ∨ ! [0x20, 0x21, 0x22].contains pk.typ then s
  else if ! s.armedFor t.ctx t.epoch ∨ l = 0 ∨ s.levels t.ctx < l then s1.bumpLv p 0x0B
  else if ! payloadOk pk then s1.checkFault c pk
  else
    let a := s.lvSpec t.ctx
    let first := (own ∧ l = 1) ∨ rawLate pk
    let fmts := if first ∧ ph = 1 then [(s.spec t.ctx).wire] else (s.spec t.ctx).lvFmts ph
    let a := if first then s.spec t.ctx else a
    let r := (packetPieces a fmts pk).foldl (fun (acc : Option State) kp =>
      match acc with
      | none => none
      | some s =>
        let i : SliceId := ⟨t.ctx, t.epoch, kp.1⟩
        let s := (s.lvBegin p t.ctx t.epoch).beginEpoch (s.lvCell p l i) t.ctx t.epoch
        match kp.2 with
        | none => some (s.refusePiece (s.lvCell p l i) false)
        | some pc =>
          if own then
            let x := s.memInject (s.linkBlock p) 4 0 (pktDetail pk)
            if x.1 then some x.2 else x.2.lvStage p ph l i (pc.part a 1)
          else if s.isLevelRoot t.ctx l i.k then s.lvArrive p l i (pc.part a t.count) pk
          else if t.pass ∨ pk.typ = 0x22 then some (s.bumpLv p 0x0B)
          else some (s.lvHalfPiece p ph l i (pc.part a t.count) pk.src)) (some s1)
    r.getD s

/-! ### Expiries (R257, R261, R262) and drain (R270) -/

/-- LEVEL_WAIT_EXPIRY (R261): the engine is owed, and the half goes on. -/
def State.lvWaitExpiry (s : State) (p l : Nat) (i : SliceId) : State :=
  [0, 1].foldl (fun (s : State) ph =>
    match s.lvSlot? p ph l i false with
    | some w =>
      if w.wait = 0 then s
      else (({ s with time := max s.time w.wait } : State).dropLv p w |>.noteHaltHeld p l i).lvHalf p w true
    | none => s) s

/-- LEVEL_ORPHAN_EXPIRY (R260, R261): a STAGED contribution or a HELD half goes to the level root as LATE, and its slot is freed. -/
def State.lvOrphan (s : State) (p l : Nat) (i : SliceId) : State :=
  let half := s.lvLease i.ctx l / 2
  [0, 1].foldl (fun (s : State) ph =>
    let s : State := match s.lvOwn? p ph l i with
      | some o =>
        match o.part with
        | some q =>
          let s := (({ s with time := max s.time (o.at_ + half) } : State).bumpLv p 8).noteHaltHeld p l i
          (s.setLvOwn p { o with part := none, sent := true }).lvOwnLate p ph l i q (! s.lvReady o)
        | none => s
      | none => s
    match s.lvSlot? p ph l i false with
    | some w =>
      let s := (({ s with time := max s.time w.expiry } : State).bumpLv p 8).noteHaltHeld p l i
      (s.dropLv p w).lvToRoot p ph l i w.part w.src true
    | none => s) s

/-- A level root's slice ends by its lease: of a value (R262) or a join (R268), or of an anchor pass (R257). -/
def State.lvRootExpiry (s : State) (p ph l : Nat) (i : SliceId) : State :=
  match s.lvSlot? p ph l i true with
  | none => s
  | some w =>
    let s := ({ s with time := max s.time w.expiry } : State).noteHaltHeld p l i
    (s.dropLv p w).lvFinish p ph l i w.part true

/-- LEVEL_LEASE_EXPIRY (R262). -/
def State.lvLeaseExpiry (s : State) (p l : Nat) (i : SliceId) : State :=
  if s.ctx i.ctx 2 = 5 then (s.lvRootExpiry p 1 l i).lvRootExpiry p 0 l i else s.lvRootExpiry p 1 l i

/-- LEVEL_ANCHOR_PASS_EXPIRY (R257). -/
def State.lvAnchorExpiry (s : State) (p l : Nat) (i : SliceId) : State :=
  if s.ctx i.ctx 2 = 5 then s else s.lvRootExpiry p 0 l i

/-- What the link ponds of a draining engine do (R270): what is staged or held goes to its level root as LATE, converted or not, and
the slices of roots are discarded. What reaches a station after that goes the same way until relay is up (`lvDraining`). -/
def State.lvDrain (s : State) : State :=
  (List.range s.nPorts).foldl (fun (s : State) p =>
    let v := (s.port p).lv
    let s := v.owns.foldl (fun (s : State) o => match o.part with
      | some q => s.lvOwnLate p o.ph o.level o.id q (! s.lvReady o)
      | none => s) s
    let s := (v.slots.filter (fun w => ! w.root)).foldl (fun (s : State) w => s.lvToRoot p w.ph w.level w.id w.part w.src true) s
    s.modLv p (fun v => { v with slots := [], owns := v.owns.map (fun o => { o with part := none, sent := true }) })) s

/-! ### The descent at ports and level-0 roots (R264, R268) -/

/-- The direction in which a descending packet travels on from the port it came by: opposite to that port's trunk. -/
def State.descentOn (s : State) (p : Nat) (pk : Packet) (l : Nat) : State :=
  let t := collTail pk
  let v := s.lvEnt t.ctx l
  match s.trunkRole p with
  | some (d, dir) =>
    if d ≠ v.dim ∨ s.engCoord pk.dest.eng v.dim = s.engCoord s.engine v.dim then s
    else
      let ps := s.route.trunkPorts v.dim (1 - dir)
      if ps.isEmpty then s else s.lvQueue (nth ps ((t.ctx + t.slice) % ps.length) 0) v.dim (1 - dir) pk
  | none => s

/-- LEVEL_RESULT_DESCEND (R257, R264): a RESULT or the system anchors that this engine's BROADCAST deposit starts, or that came by a
port along a level ring: a copy travels on along the arc, and each member of the ring takes one. -/
def State.resultDescend (s : State) (p : Nat) (pk : Packet) : State :=
  let t := collTail pk
  let s1 := s.takePkt pk
  let c := s.gatewayCell p 0
  if pk.cls ≠ 2 ∨ ! (pk.typ = 0x23 ∨ pk.typ = 0x20) ∨ t.level = 0 then s
  else if ! s.armedFor t.ctx t.epoch ∨ s.levels t.ctx < t.level then s1.bumpLv p 0x0B
  else if pk.dest.eng = s.engine ∧ pk.dest.tgt = 2 ∧ pk.src.eng = s.engine then
    (s1.ringSend t.level { pk with src := s.srcOf c 0 }).takeDescent c pk t.level
  else
    let s2 := s1.descentOn p pk t.level
    if s.levelMember t.ctx t.level t.slice then s2.takeDescent c pk t.level else s2

/-- A packet that came down the levels to a level-0 root (R264): the result is broadcast with INC and its flags as received, or lands
at CTX_ROOT of OUT_ENG; the join is delivered to the XBAR root, which broadcasts it with itself as root: the system release
(R268). -/
def State.levelDown (s : State) (c : Coord) (pk : Packet) : State :=
  let t := collTail pk
  let s1 := s.takePkt pk
  if ! s.armedFor t.ctx t.epoch then s1
  else if pk.typ = 0x23 then
    s1.sendPkt c { pk with dest := s.pondAddr c, src := s.srcOf c 0, tail := .coll { t with level := 0 } } false
  else if s.ctx t.ctx 2 = 5 then
    let r := destCell (addrOf (s.reg .engine (s.ctx t.ctx 0x1C) 0x2200 2))
    if c = r then s1.sendPkt c { pk with dest := s.pondAddr r, src := s.srcOf r 0, tail := .coll { t with level := 0 } } false
    else s1.sendPkt c { pk with dest := s.pondAddr r, src := s.srcOf c 0 } false
  else s1

/-- ANCHOR_ARRIVE (R229, R264, R268): an anchor pass of this engine, the system anchors at a level-0 root, or the system release. -/
def State.anchorArrive (s : State) (c : Coord) (pk : Packet) : State :=
  let t := collTail pk
  if t.level ≠ 0 then s.levelDown c pk
  else if s.ctx t.ctx 2 = 5 then
    if isSpread pk 5 ∧ (s.arm? t.ctx).isSome then (s.takePkt pk).systemRelease c t.ctx t.epoch t.inc else s
  else s.anchorAt c pk

/-- RESULT_ARRIVE (R226, R244, R264). -/
def State.resultArrive (s : State) (c : Coord) (pk : Packet) : State :=
  let t := collTail pk
  if t.level = 0 then s.resultAt c pk
  else if s.ctx t.ctx 2 = 0 then s.resultAt c { pk with tail := .coll { t with level := 0 } } |>.takePkt pk
  else s.levelDown c pk

/-- EXCHANGE_JOIN (R268): when CTX_XBAR has released COMPLETE, its root sends the join to the level-1 station. -/
def State.exchangeJoin (s : State) (ctx epoch : Nat) : State :=
  let r := destCell (addrOf (s.reg .engine (s.ctx ctx 0x1C) 0x2200 2))
  let i : SliceId := ⟨ctx, epoch, 0⟩
  let released := (s.geo ctx).members.any (fun m => match s.exch? m ctx epoch with
    | some x => decide (x.local_ = 1)
    | none => false)
  if s.ctx ctx 2 ≠ 5 ∨ s.levels ctx = 0 ∨ ! released ∨ (s.coll r).done.contains (9, i) then s
  else
    let s := s.modColl r (fun q => { q with done := q.done.filter (fun d => ! (decide (d.1 = 9) && epochOld ctx epoch d.2.ctx d.2.epoch)) ++ [(9, i)] })
    match s.station ctx 1 0 with
    | some (_, d) =>
      let h : CollHdr := ⟨0x20, ⟨s.engine, d.x, d.y, 2⟩, s.srcOf r 0, 0, ctx, epoch, 1, 0, false⟩
      s.sendPkt r (piecePacket h (s.spec ctx).fin 1 ⟨0, 0, [⟨1, [], []⟩], 0⟩) false
    | none => s

/-! ### Entry of packets by a port (R256, R311, R312, R328, R329) -/

/-- Where a level packet that came by a port goes inside this engine (R256, R264): a half to the station of a ring member, an
engine-routed one to the root's station, a REDUCE result to CTX_ROOT; none for any other packet. -/
def State.levelEntry (s : State) (pk : Packet) : Option Addr :=
  let t := collTail pk
  let l := if rawLate pk then 1 else t.level
  if pk.cls ≠ 2 ∨ l = 0 ∨ pk.dest.tgt ≠ 3 ∨ s.levels t.ctx < l then none
  else
    let here := decide (pk.dest.eng = s.engine)
    let station := (s.station t.ctx l t.slice).map (fun x => (⟨s.engine, x.2.x, x.2.y, 2⟩ : Addr))
    if pk.typ = 0x23 then
      if s.ctx t.ctx 2 = 0 ∧ here then some (s.pondAddr (s.geo t.ctx).root) else none
    else if here then station
    else if ! t.pass ∧ pk.typ ≠ 0x22 ∧ s.levelMember t.ctx t.level t.slice then station
    else none

/-- Is a packet a copy that descends a level ring (R264): a RESULT of a pattern that every engine lands, or anchors from the ring's
own root? -/
def State.isDescent (s : State) (pk : Packet) : Bool :=
  let t := collTail pk
  decide (pk.cls = 2) && decide (t.level ≠ 0) && decide (t.level ≤ s.levels t.ctx) && decide (pk.dest.tgt = 3) && ! t.pass &&
    ((decide (pk.typ = 0x23) && decide (s.ctx t.ctx 2 ≠ 0)) ||
      (decide (pk.typ = 0x20) && decide (pk.src.eng = s.levelRoot t.ctx t.level t.slice s.engine)))

/-- The sluice of a port for a packet that is to enter this engine, whichever engine its DEST names (R256, R328). -/
def State.entrySluice (s : State) (p : Nat) (pk : Packet) : Option Nat :=
  match s.sluicePkt p pk with
  | some k => some k
  | none =>
    let t := collTail pk
    if pk.cls = 2 ∧ pk.dest.eng ≠ s.engine ∧ ! (s.reg (s.portNode p) 0 0x7030 6 ≤ t.ctx ∧ t.ctx ≤ s.reg (s.portNode p) 0 0x7030 7) then
      some 6
    else none

/-- Is a packet that came by a port a level packet for this engine, where its context is not armed for its epoch (R252)? -/
def State.strayLevel (s : State) (pk : Packet) : Bool :=
  let t := collTail pk
  decide (pk.cls = 2) && decide (pk.dest.eng = s.engine) && decide (pk.dest.tgt = 3) && (decide (t.level ≠ 0) || rawLate pk) &&
    (! s.armedFor t.ctx t.epoch || decide (s.levels t.ctx < max 1 t.level))

/-- LINK_PACKET_ENTER (R256, R311, R326, R329, R372): past the sluice, the packet enters at the hashed gateway cell; while DRAIN runs
one for this engine is turned away (R372). A level packet enters toward its station, a descending copy waits for its own command, and
one of a context not armed for its epoch is discarded and counted (R252). -/
def State.packetEnter (s : State) (p : Nat) (pk : Packet) : State :=
  let c := s.gatewayCell p 0
  let level := s.levelEntry pk
  if ! s.mayEnter p pk ∨ (pk.dest.eng ≠ s.engine ∧ level.isNone ∧ ! s.isDescent pk) then s
  else
    let s1 := s.rxTake p pk
    match s.entrySluice p pk with
    | some k => s1.sluiceDrop p k pk
    | none =>
      if s.reg .engine 0 0x8140 0x14 ≠ 0 ∧ pk.dest.eng = s.engine then s1.raiseNack c (s.srcOf c 0) pk 7 0 0
      else if s.strayLevel pk then s1.bumpLv p 0x0B
      else if s.isDescent pk then { s1 with flight := s1.flight ++ [pk] }
      else match level with
        | some d => s1.sendPkt (s.entryCell p pk) { pk with dest := d } false
        | none => s1.sendPkt (s.entryCell p pk) pk false

/-- TRANSIT_PACKET_ARRIVE (R256, R312): a packet for another engine; one that this engine's level ring takes enters as its own. -/
def State.transitEnter (s : State) (p : Nat) (pk : Packet) : State :=
  if pk.dest.eng ≠ s.engine ∧ ((s.levelEntry pk).isSome ∨ s.isDescent pk) then s.packetEnter p pk else s.transitAt p pk

end Sys2Proof.Machine
end

