-- ==== Sys2Proof/Machine/FenceOps.lean ====
section
/-! DEFINITION. Carrying out fence decisions (R366 to R368) of millstone lanes, link ports and fields, and the landing of an
injection in a landing buffer (R373). Routers and drops have fence commands of their own. -/

namespace Sys2Proof.Machine

/-- A millstone lane is fenced (R368): its LANES bit clears; with the second lane the router is fenced. -/
def State.fenceLane (s : State) (b : FaultBlock) : State :=
  let n := b.node
  let i := b.idx - 0x8101
  let s := (s.setReg n 0 0x4070 6 (clrBit (s.reg n 0 0x4070 6) i)).faultLive b 2 true
  let s := s.faultEvent b 2 i 0
  if s.reg n 0 0x4070 6 % 4 = 0 ∧ s.reg n 0 0x8100 0x0B ≠ 1 then s.decideFence (routerBlock b.cell) else s

/-- A link port is fenced (R271, R332, R368): it is out of service, its link pond is lost, and a relay it takes part in ends.
DOWN_CAUSE, for which the spec names no code here, keeps its value (log 43). -/
def State.fencePort (s : State) (b : FaultBlock) (p : Nat) : State :=
  let s := if s.portState p = 5 then s.relayOff p else s
  let s := s.portDown p 8 (s.lport p 0x0D)
  let s := (s.setReg (s.portNode p) 0 0x7030 0x0E 0).faultLive b 2 false
  let s := s.modLv p (fun v => { v with owns := [], slots := [] })
  (s.faultLive b 3 true).faultEvent b 3 0 0

/-- A field reaches its threshold (R366): never fenced, it makes the engine suspect. -/
def State.fieldThreshold (s : State) (b : FaultBlock) : State := ((s.faultLive b 2 true).faultEvent b 2 0 0).suspect 2

/-- The link port whose fault block this is. -/
def State.blockPort (s : State) (b : FaultBlock) : Option Nat :=
  if b.idx = 0x8130 then (List.range s.nPorts).find? (fun p => decide (s.portNode p = b.node)) else none

/-- Carry out one decision. -/
def State.fenceOne (s : State) (b : FaultBlock) : State :=
  let s := { s with fences := s.fences.erase b }
  if b.idx = 0x8101 ∨ b.idx = 0x8102 then s.fenceLane b
  else if b.idx = 0x8110 then s.fieldThreshold b
  else match s.blockPort b with
    | some p => s.fencePort b p
    | none => s

/-- Is a decision one that `settle` carries out? -/
def settles (b : FaultBlock) : Bool := [0x8101, 0x8102, 0x8110, 0x8130].contains b.idx

/-- Carry out the decisions that a command has left, but for those of routers and drops, which have commands of their own. -/
def State.settle (s : State) : State := (s.fences.filter settles).foldl State.fenceOne s

/-- A payload on its way into a landing buffer, with the injection armed there (R373 kind 4, WHERE 2): in place of the packet in
flight, the one whose payload is to be handled. -/
def State.landInject (s : State) (x : Site) (p : Packet) : Packet × State :=
  let c := s.siteCell x
  let b : FaultBlock := match x with
    | .drop .. => ⟨cellNode c, 0x8120, c⟩
    | _ => routerBlock c
  let r := s.memInject b 2 (match x with | .drop .. => 2 | _ => 3) (pktDetail p)
  if r.1 then ({ p with poison := true }, r.2.takePkt p) else (p, r.2)

/-- A router is fenced (R64, R66, R368), and every gateway cell that has become a hole loses its lane to its port, which changes width
if it is up (R314). -/
def State.fenceUnit (s : State) (h : Coord) : State :=
  let t := s.fenceRouter h
  (List.range t.nPorts).foldl (fun t p => (List.range 8).foldl (fun t i =>
    let c := t.gatewayCell p i
    if s.isHole c ∨ ! t.isHole c then t
    else if t.portUp p then t.laneLost p i
    else t.modPort p (fun q => { q with ownLanes := clrBit q.ownLanes i })) t) t

end Sys2Proof.Machine
end

