-- ==== Sys2Proof/Machine/PowerOps.lean ====
section
/-! DEFINITION. Clocks, power states, the fantail and fabric time (chapter 17). -/

namespace Sys2Proof.Machine

/-! ### The field's clock (R398 to R400) -/

/-- Has bring-up reached DONE? -/
def State.inService (s : State) : Bool := decide (s.reg .engine 0 0x1008 1 = 10)

/-- Stop the clock of a field. -/
def State.stopClock (s : State) (f : Nat) : State :=
  let s := s.accrue f
  (s.setReg (.field f) 0 0xA001 2 0).modField f (fun q => { q with stopped := true, stopAt := s.time })

/-- The clock of a field runs again: its fc count, its windows, its slot periods and the decisions of its outputs start afresh, and what
waited in its routers goes on (R398 step 3, R399). Claims keep the period numbers they arose in (R85, log 109). -/
def State.startClock (s : State) (f : Nat) : State :=
  let s := s.accrue f
  let s := (s.setReg (.field f) 0 0xA001 2 1).modField f (fun q =>
    { q with stopped := false, dead := false, lockTime := s.time, countedAt := s.time, stretches := [] })
  (s.fieldCells f).foldl (fun (s : State) c => s.tidyRouter c) (s.restartOutputs f)

/-- DROOP_STRETCH (R400): an episode that lengthens `n` fc, at most 64. An episode begins when the one before has ended. By how much it
lengthens them, up to twice their nominal period, is not stated (log 1, log 118). -/
def State.droop (s : State) (f n : Nat) : State :=
  let k := min n 64
  let s := (s.bump (.field f) 0 0xA001 4 k).bump (.field f) 0 0xA001 5 1
  let s : State := { s with time := max s.time (s.field f).stretchEnd }
  let x := s.fresh
  let d := s.fcNs f k
  let extra := x.1 % (d + 1)
  x.2.modField f (fun q => { q with stretchEnd := s.time + d + extra, stretches := q.stretches ++ [(s.time, s.time + d + extra, extra)] })

/-! ### Holds and targets (R405, R406) -/

/-- Outputs of a field whose tables name an owner (0x3010.03). -/
def State.ownedOutputs (s : State) (f : Nat) : Nat :=
  (s.fieldCells f).foldl (fun n c => n + ((List.range 9).filter (s.hasOwner c)).length) 0

/-- Does a cell hold bulk work (R179)? -/
def State.bulkHeld (s : State) (c : Coord) : Bool :=
  let q := s.cell c
  ! (q.landing.rsvs.isEmpty && q.landing.queue.isEmpty && q.rsvs.isEmpty)

/-- Does a router hold collective work (R246): a slot, STAGED ones among them, a pending deposit, or a young owed entry? -/
def State.collHeld (s : State) (c : Coord) : Bool :=
  let q := s.coll c
  q.slots.any (fun w => w.kind != .lost) || q.deps.any (fun d => ! d.taken || d.raw.isSome) ||
    q.owed.any (fun e => decide (s.time < e.at_ + us (s.ctx e.ctx 0x14)))

/-- Does a drop hold work (R298)? -/
def DropSt.held (q : DropSt) : Bool :=
  ! (q.acc.isEmpty && q.ents.isEmpty && q.streams.isEmpty && q.landing.rsvs.isEmpty && q.landing.queue.isEmpty && decide (q.queueUsed = 0))

/-- HOLDS of a field (0xA010.06, R405). -/
def State.holds (s : State) (f : Nat) : Nat :=
  let cells := s.fieldCells f
  let lvs := (List.range s.nPorts).any (fun p =>
    (s.port p).lv.slots.any (fun w => decide (s.fieldOf (s.lvCell p w.level w.id) = f)) ||
      (s.port p).lv.owns.any (fun o => o.part.isSome && decide (s.fieldOf (s.lvCell p o.level o.id) = f)))
  let drops := cells.any (fun c => match s.dropAt c with
    | some (st, d) => (s.drop st d).held
    | none => false)
  b2n (decide (0 < s.ownedOutputs f)) + 2 * b2n (cells.any s.bulkHeld) + 4 * b2n (cells.any s.collHeld || lvs) +
    8 * b2n drops + 16 * b2n (! (s.field f).wakeHolds.isEmpty)

/-- The target state of a field (R406): 0 Run, 1 Breeze, 2 Lull, no deeper than its WAKE holds allow (R408). -/
def State.target (s : State) (f : Nat) : Nat :=
  let tol := s.reg (.field f) 0 0xA010 1
  let t := if 2000 ≤ tol ∧ s.holds f = 0 then 2 else if 20 ≤ tol then 1 else 0
  (s.field f).wakeHolds.foldl (fun t h => min t h.1) t

/-! ### Entering and leaving states (R406, R408) -/

/-- BREEZE_ENTRY (R406). A command that stands at the head of a core queue wakes the field at once (R408). -/
def State.breezeEntry (s : State) (f : Nat) : State :=
  if ! s.inService ∨ s.power f ≠ 0 ∨ (s.field f).stopped ∨ s.target f = 0 then s
  else
    let s : State := { s with time := max s.time (s.fcAfter f (s.field f).idleSince (s.reg (.field f) 0 0xA010 2)) }
    let s := (s.setPower f 1).modField f (fun q => { q with breezeSince := s.time })
    if (s.fieldCells f).any (fun c => (s.cell c).cores.any (fun k => ! k.queue.isEmpty)) then s.causeWake f 3 else s

/-- LULL_ENTRY (R406): 200 ns later the field is in Lull. -/
def State.lullEntry (s : State) (f : Nat) : State :=
  if s.power f ≠ 1 ∨ s.target f ≠ 2 then s
  else
    let s : State := { s with time := max s.time ((s.field f).breezeSince + s.reg (.field f) 0 0xA010 3) }
    (s.setPower f 3).modField f (fun q => { q with lullDue := s.time + 200 })

/-- LULL_ENTRY_DONE (R406). A field that has come to be held meanwhile may go no deeper than Breeze (R405), and is in Breeze again
(log 119). -/
def State.lullDone (s : State) (f : Nat) : State :=
  if s.power f ≠ 3 then s
  else
    let s : State := { s with time := max s.time (s.field f).lullDue }
    if s.target f = 2 then s.setPower f 2 else (s.setPower f 1).modField f (fun q => { q with breezeSince := s.time })

/-- A field that is waking is in Run (R408). -/
def State.wakeDone (s : State) (f : Nat) : State :=
  if s.power f ≠ 4 then s
  else
    let s := (s.setPower f 0).bump (.field f) 0 0xA010 7 1
    let s := (s.fieldCells f).foldl (fun (s : State) c => s.countEvent c 0x13 0 0 1) s
    s.modField f (fun q => { q with idleSince := s.time })

/-- FIELD_WAKE (R408): a cause of *Field wake causes* brings a sleeping field to Run; two causes make one wake, whose cause is the
first. -/
def State.fieldWake (s : State) (f cause : Nat) : State :=
  if cause = 0 ∨ 8 < cause then s else (s.causeWake f cause).wakeDone f

/-- WAKE_RECEIVE (R159, R408): the field wakes, and the signal holds it at no deeper than its ARG8 state for WAKE_HOLD after the
wake. -/
def State.wakeAt (s : State) (f arg8 : Nat) : State :=
  if 1 < arg8 then s
  else
    let p := s.power f
    let lag := if p = 0 then 0 else if p = 1 then 20 else 2000
    let h := s.time + lag + s.reg (.field f) 0 0xA010 4
    (s.modField f (fun q => { q with wakeHolds := q.wakeHolds ++ [(arg8, h)] })).causeWake f 6

/-- WAKE_HOLD_EXPIRY (R408): the hold that ends first. -/
def State.wakeHoldEnd (s : State) (f : Nat) : State :=
  match (s.field f).wakeHolds with
  | [] => s
  | h :: hs =>
    let e := hs.foldl (fun a b => if b.2 < a.2 then b else a) h
    ({ s with time := max s.time e.2 } : State).modField f (fun q => { q with wakeHolds := q.wakeHolds.erase e })

/-- Is what ends at a cell port taken now: the field is in Run or Breeze (R149), and its clock runs (R12)? -/
def State.cellAwake (s : State) (c : Coord) : Bool := decide (s.power (s.fieldOf c) < 2) && ! (s.field (s.fieldOf c)).stopped

/-- What ends at a cell port waits for the field (R12, R149), and in Lull wakes it. -/
def State.atCell (s : State) (c : Coord) (run : State → State) : State :=
  let f := s.fieldOf c
  if s.cellAwake c then run s else if s.power f = 2 ∨ s.power f = 3 then s.causeWake f 4 else s

/-- A signal that ends at a cell port is taken, or waits there until the field is awake (R12, R149, R160). -/
def State.atSig (s : State) (c : Coord) (sg : Signal) (run : State → State) : State :=
  if s.cellAwake c then run (s.takeSig sg)
  else ({ s with sigs := if s.sigs.contains sg then s.sigs else s.sigs ++ [sg] } : State).atCell c (fun s => s)

/-- A packet that ends at a router acts in its place in its flow (R74); in Lull it waits in its input buffer, and wakes the field (R70, R403). -/
def State.atEject (s : State) (c : Coord) (p : Packet) (run : State) : State :=
  let f := s.fieldOf c
  if s.overtakes p then s else if s.cellAwake c then run else if s.power f = 2 ∨ s.power f = 3 then s.causeWake f 2 else s

/-! ### Calm and Still (R404, R407, R409, R410) -/

/-- The engine's power state (0xA011.04). -/
def State.enginePower (s : State) : Nat := s.reg .engine 0 0xA011 4

/-- Fields in Lull (0xA011.07). -/
def State.fieldsInLull (s : State) : Nat := ((List.range s.nFields).filter (fun f => s.power f == 2)).length

/-- Does a cell have a command, a blocking wait or a CH_WAIT outstanding (R407)? -/
def CellSt.busy (q : CellSt) : Bool :=
  ! q.cmds.isEmpty || q.cores.any (fun k => ! (k.waits.isEmpty && k.chWaits.isEmpty))

/-- The conditions of Calm (R407), with no field that is held (R89, R179, R246, R298). -/
def State.calmReady (s : State) : Bool :=
  s.inService && decide (s.enginePower = 0) && decide (150 ≤ s.reg .engine 0 0xA011 1) &&
    decide (s.fieldsInLull = s.nFields) && ! (List.range s.nFields).any (fun f => decide (s.holds f ≠ 0)) && ! s.cells.any (fun kv => kv.2.busy) &&
    ! (List.range s.nPorts).any (fun p => decide (s.portState p = 2) || decide (s.portState p = 3)) &&
    (decide (s.reg .engine 0 0x8140 0x14 = 0) || decide (s.reg .engine 0 0x8140 0x14 = 6))

/-- A note of a new STATE (R322): 0 ACTIVE, 1 RELAY, 2 CALM, 3 DEPARTED. -/
def State.announce (s : State) (st : Nat) : State :=
  ({ s with eng := { s.eng with noteState := st } } : State).originate322 true

/-- Since when the conditions of Calm have held (R407). -/
def State.watchCalm (s : State) : State :=
  match s.calmReady, s.eng.calmSince with
  | true, none => { s with eng := { s.eng with calmSince := some s.time } }
  | false, some _ => { s with eng := { s.eng with calmSince := none } }
  | _, _ => s

/-- The clock of every field that still runs stops (R402). -/
def State.stopClocks (s : State) : State :=
  (List.range s.nFields).foldl (fun (s : State) f => if (s.field f).stopped then s else s.stopClock f) s

/-- The hot-row caches of the drops are not among what is saved (R286, R404). -/
def State.dropCaches (s : State) : State :=
  s.drops.foldl (fun (s : State) e => s.modDrop (e.1 / 32) (e.1 % 32) (fun q => { q with cache := [] })) s

/-- CALM_ENTRY (R402, R404, R407), once the conditions have held for CALM_IDLE: every router and PLL stops with its state kept, but for what
the drop ponds hold, which is not saved, and a CALM note leaves. -/
def State.calmEntry (s : State) : State :=
  if s.calmReady then
    let s : State := { s with time := max s.time (s.eng.calmSince.getD s.time + us (s.reg .engine 0 0xA011 3)) }
    ((s.stopClocks.dropCaches).setReg .engine 0 0xA011 4 1).announce 2
  else s

/-- The lanes of a port are taken down for Still (R407): it is DOWN, which is no fault of the link. -/
def State.portStill (s : State) (p : Nat) : State :=
  if s.portState p < 2 ∨ 5 < s.portState p then s
  else
    let s := if s.portUp p then s.linkStop p true else s
    (((s.portClear p).unroute p).setReg (s.portNode p) 0 0x7010 4 0).setPortState p 1

/-- STILL_ENTRY (R407): a DEPARTED note leaves on every port in service, then the lanes go down. -/
def State.stillEntry (s : State) : State :=
  if s.enginePower = 1 ∧ s.reg .engine 0 0xA011 2 = 1 ∧ 5000 ≤ s.reg .engine 0 0xA011 1 then
    let s := (s.announce 3).setReg .engine 0 0xA011 4 2
    (List.range s.nPorts).foldl (fun (s : State) p => (s.msgRun p (s.port p).msgq.length).portStill p) s
  else s

/-- A cause wakes the engine from Calm or Still, an item on a link from Calm alone (R409); ENGINE_WAKE completes it. -/
def State.causeEngine (s : State) (cause : Nat) : State :=
  let p := s.enginePower
  if p = 1 ∨ (p = 2 ∧ cause ≠ 4) then
    let s : State := { s with eng := { s.eng with wakeFrom := p } }
    (s.setReg .engine 0 0xA011 4 4).setReg .engine 0 0xA011 6 cause
  else s

/-- Send the INT of a comparator (R417). -/
def State.compInt (s : State) (i : Nat) : State :=
  let t := s.reg .engine 0 (0xA100 + i) 4
  if bit t 20 then
    let c := s.agentAt 0
    s.sendSig c (.int ⟨s.engine, bits t 0 9, bits t 9 9, bits t 18 2, false⟩ (s.srcOf c 0) ((0xA100 + i) * 65536))
  else s

/-- The PLLs of the engine lock again as it wakes (R402; a new lock, log 140), those of fields that failed or whose FREQ is being written apart. -/
def State.pllsOn (s : State) : State :=
  (List.range s.nFields).foldl (fun (s : State) f =>
    if ! (s.field f).stopped ∨ (s.field f).dead ∨ s.eng.freqReqs.any (fun q => q.1 == f) then s
    else (s.startClock f).faultLive (s.fieldBlock f) 0 false) s

/-- The engine is awake (R409): every PLL runs and every field is in Run, and what waited at the link ports enters; from Calm an ACTIVE note leaves at once, from Still once a port is in service.
INTs of comparators that fired meanwhile are sent (R417). -/
def State.engineUp (s : State) : State :=
  if s.enginePower ≠ 4 then s
  else
    let calm := decide (s.eng.wakeFrom = 1)
    let s := (s.setReg .engine 0 0xA011 4 0).pllsOn
    let s := (List.range s.nFields).foldl (fun (s : State) f => (s.causeWake f 8).wakeDone f) s
    let s := (List.range s.nPorts).foldl (fun (s : State) p => s.rxsEnter p) s
    let ints := s.eng.compInts
    let s : State := { s with eng := { s.eng with compInts := [], wakeFrom := 0, noteState := 0 } }
    let s := ints.foldl (fun (s : State) i => s.compInt i) s
    if calm then s.announce 0 else s

/-- ENGINE_WAKE (R409): causes 1 WAKE_N, 2 comparator, 3 WAKE write, 4 link arrival, 5 tolerance. -/
def State.engineWake (s : State) (cause : Nat) : State :=
  if cause = 0 ∨ 5 < cause then s else (s.causeEngine cause).engineUp

/-! ### The fantail (R412 to R415) -/

/-- LINK_DRAW in mW (R413). -/
def State.linkDraw (s : State) : Nat := 9400 * ((List.range s.nPorts).filter (fun p => s.portState p != 0)).length

/-- Σ RESERVE in mW. -/
def State.reserves (s : State) : Nat := (List.range s.nFields).foldl (fun n f => n + s.reg (.field f) 0 0xA021 1) 0

/-- E of a window, in tenths of a pJ (R413): 1 mW for 1 ns is 1 pJ. -/
def State.windowEnergy (s : State) : Nat :=
  10 * (1000 * s.reg .engine 0 0xA020 1 - s.linkDraw - s.reserves) * s.reg .engine 0 0xA020 2

/-- Divide a budget over demands by the formula of R414, with floor share m in percent: the part of demand `d` of `n` parties. -/
def shareOf (b m n d total : Nat) : Nat :=
  if n = 0 then 0 else if total = 0 then b / n else b * (m * total + (100 - m) * d * n) / (100 * n * total)

/-- B_f in tenths of a pJ (R414). -/
def State.fieldBudget (s : State) (f : Nat) : Nat :=
  let q := s.field f
  if q.shareDen = 0 then s.windowEnergy / max 1 s.nFields else s.windowEnergy * q.shareNum / q.shareDen

/-- The Trade reserve of a router for a window of `n` slot periods from period `k0` (R415 step 1). -/
def State.tradeReserve (s : State) (c : Coord) (k0 n : Nat) : Nat :=
  (List.range 9).foldl (fun t p =>
    if s.hasOwner c p then
      let b := s.tabBytes (cellNode c) 0 (0x4040 + p) 1 0 256
      let own := fun k => b2n (decide ((b.getD (k % 256) 15).toNat % 16 < 9))
      let one := (List.range 256).foldl (fun a k => a + own k) 0
      let rest := (List.range (n % 256)).foldl (fun a i => a + own (k0 + i)) 0
      t + gustCharge p 4 * (n / 256 * one + rest)
    else t) 0

/-- FANTAIL_WINDOW (R88, R414, R415): the window before is closed, and the field's budget is allotted to its routers, Trade reserves
first. THROTTLED counts a window once, for the first field that denied a gust. -/
def State.fantailWindow (s : State) (f : Nat) : State :=
  let w := s.reg .engine 0 0xA020 2
  let old := (s.field f).permits
  let cells := s.fieldCells f
  let pm := fun c => SMap.get ⟨0, 0, 0, 0, []⟩ old (cellKey c)
  let spent := cells.foldl (fun n c => n + (pm c).spent) 0
  let denied := cells.foldl (fun n c => n + (pm c).denied) 0
  let gusts := cells.foldl (fun n c => n + (pm c).deniedGusts.length) 0
  let b := s.fieldBudget f
  let k0 := s.fcCount f / 4
  let n := w * s.freq f / 4000
  let ts := cells.map (fun c => (c, s.tradeReserve c k0 n))
  let tsum := ts.foldl (fun a x => a + x.2) 0
  let short := decide (b < tsum)
  let was := decide (s.reg (.field f) 0 0x3010 2 = 1)
  let isOver := short || (was && ! (s.field f).overClear)
  let dsum := spent + denied
  let m := s.reg .engine 0 0xA020 3
  let permits := ts.foldl (fun (pm' : SMap Permit) x =>
    let d := (pm x.1).spent + (pm x.1).denied
    let a := if short then x.2 * b / tsum else x.2 + shareOf (b - tsum) m cells.length d dsum
    SMap.put ⟨0, 0, 0, 0, []⟩ pm' (cellKey x.1) ⟨a, if short then a else x.2, 0, 0, []⟩) []
  let s := s.modField f (fun q => { q with permits := permits, budget := b, demand := q.demand + dsum, overClear := true })
  let s := ((s.setReg (.field f) 0 0xA021 2 (b / 10)).setReg (.field f) 0 0xA021 3 (tsum / 10)).setReg (.field f) 0 0xA021 4 (spent / 10)
  let s := s.bump (.field f) 0 0xA021 5 gusts
  let win := s.ft 0 / w + 1
  let s := if gusts = 0 ∨ s.eng.winAt = win then s
    else ({ s with eng := { s.eng with winAt := win } } : State).bump .engine 0 0xA020 6 1
  let s := s.setReg (.field f) 0 0x3010 2 (b2n isOver)
  let s := s.faultLive (s.fieldBlock f) 1 isOver
  if isOver && ! was then s.faultEvent (s.fieldBlock f) 1 0 0 else s

/-- FANTAIL_SHARE_RECOMPUTE (R414), every 16 windows: the shares of all fields from their demand. -/
def State.shareRecompute (s : State) : State :=
  let fs := List.range s.nFields
  let total := fs.foldl (fun n f => n + (s.field f).demand) 0
  let m := s.reg .engine 0 0xA020 3
  let n := s.nFields
  fs.foldl (fun (s : State) f => s.modField f (fun q => { q with
    shareNum := if total = 0 then 1 else m * total + (100 - m) * q.demand * n,
    shareDen := if total = 0 then n else 100 * n * total, demand := 0 })) s

/-! ### The comparators (R417) -/

/-- COMPARATOR_FIRE (R417). -/
def State.compFire (s : State) (i : Nat) : State :=
  let x := 0xA100 + i
  if s.reg .engine 0 x 5 ≠ 1 then s
  else
    let t := s.reg .engine 0 x 1
    let ft := s.ft 0
    let s : State := if ft < t then { s with time := s.time + (t - ft) } else s
    let ft := s.ft 0
    let act := s.reg .engine 0 x 3
    let per := s.reg .engine 0 x 2
    let s := s.bump .engine 0 x 6 1
    let s := if per = 0 then s.setReg .engine 0 x 5 2
      else
        let k := (ft - t) / per
        (s.setReg .engine 0 x 1 ((t + per * (k + 1)) % 2 ^ 64)).bump .engine 0 x 7 k
    let asleep := decide (s.enginePower = 1) || decide (s.enginePower = 2)
    let s := if ! bit act 0 then s
      else if asleep then { s with eng := { s.eng with compInts := s.eng.compInts.filter (· != i) ++ [i] } }
      else s.compInt i
    if bit act 1 ∧ s.inService then s.causeEngine 2 else s

/-! ### Fabric time (R418 to R421) -/

/-- A quotient that need not be whole: the whole number above or below it is not stated (log 1). -/
def State.openDiv (s : State) (a : Int) (k : Nat) : Int × State :=
  if a % (k : Int) = 0 then (a / k, s)
  else
    let f := s.fresh
    (a / k + ((f.1 % 2 : Nat) : Int), f.2)

/-- Bring what a field's slew and rate have done so far into its offset. -/
def State.foldTime (s : State) (f : Nat) : State :=
  s.modField f (fun q => { q with off := q.offAt s.time, slew := 0, slewAt := s.time, rateAt := s.time })

/-- Step a field's FT by `d` (R418, R419). -/
def State.stepField (s : State) (f : Nat) (d : Int) : State :=
  let s := (s.foldTime f).modField f (fun q => { q with off := q.off + d })
  let s := s.bump (.field f) 0 0xA031 2 1
  if f = 0 then s.bump .engine 0 0xA030 9 1 else s

/-- Correct a field's FT by `d` (R419): it slews, or steps forward where d is more than 1,000 ns. -/
def State.correct (s : State) (f : Nat) (d : Int) : State :=
  if 1000 < d then s.stepField f d else (s.foldTime f).modField f (fun q => { q with slew := d })

/-- BEACON_ORIGINATE (R419): field 0's agent cell, or its alternate, broadcasts a BEACON. -/
def State.beaconOut (s : State) : State :=
  if s.enginePower = 1 ∨ s.enginePower = 2 ∨ s.reg .engine 0 0x1008 1 < 6 then s
  else
    let c := s.agentAt 0
    let b : Beacon := ⟨s.eng.beaconSeq % 256, s.eng.beaconStep, 0, s.ft 0⟩
    let s : State := { s with eng := { s.eng with beaconSeq := s.eng.beaconSeq + 1, beaconStep := false } }
    s.sendSig c (.beacon b)

/-- A number in the two's complement of an I32 object. -/
def i32 (d : Int) : Nat := (d % 2 ^ 32).toNat

/-- BEACON_RECEIVE (R419). Field 0, whose time the beacon carries, counts it and shows its d. -/
def State.beaconAt (s : State) (f : Nat) (b : Beacon) : State :=
  let r := s.openDiv (b.res : Int) 16
  let s := r.2
  let d : Int := (b.tsend : Int) + r.1 - (s.ft f : Int)
  let s := (s.bump (.field f) 0 0xA031 3 1).setReg (.field f) 0 0xA031 1 (i32 d)
  if f = 0 then s else if b.step then s.stepField f d else s.correct f d

/-- The parent port of an engine that is not the time master (R420). -/
def State.parentPort (s : State) : Option Nat :=
  let m := s.reg .engine 0 0xA030 4
  if m = s.engine then none
  else match s.route.next m none with
    | .free p => some p
    | .trunk d dir => (s.route.trunkPorts d dir).find? (fun p => bit (s.lport p 0x0B) 1)
    | _ => none

/-- TIME_STATE (0xA030.05): 0 MASTER, 1 LOCKED once an exchange of the parent port is in use, 2 ACQUIRING, 3 HOLDOVER. -/
def State.timeState (s : State) : Nat :=
  if s.reg .engine 0 0xA030 4 = s.engine then 0
  else match s.parentPort with
    | none => 3
    | some p => if s.eng.exchanges.any (fun e => e.port == p) then 1 else 2

/-- θ·2 of an exchange with ASYMMETRY `a` (R420). -/
def Exch.theta2 (e : Exch) (a : Int) : Int := ((e.b0 : Int) - e.a1) - ((e.a2 : Int) - e.b1) - a

/-- δ of an exchange (R420). -/
def Exch.delta (e : Exch) : Int := ((e.a2 : Int) - e.a1) - ((e.b1 : Int) - e.b0)

/-- The exchange of least δ, the latest of equals. -/
def bestExch : List Exch → Option Exch
  | [] => none
  | e :: es => match bestExch es with
    | some b => if e.delta < b.delta then some e else some b
    | none => some e

/-- TIME_FRAME_RECEIVE (R335, R420, R421): the frame is echoed by the next one; it completes an exchange with the last frame the partner
received. On the parent port the correction is made when the new exchange is the one in use; the rate that is then set is not
stated (log 1). -/
def State.timeFrame (s : State) (p : Nat) (t : TimeBody) : State :=
  if ! s.portUp p ∨ ! bit (s.lport p 0x0B) 1 then s
  else
    let f := s.fieldOf (s.gatewayCell p 0)
    let a2 := s.portFt p
    let st := s.stretchFlag f
    let hd := s.heldFlag f
    let s := s.modPort p (fun q => { q with echo := some (t.ttx, a2, st, hd) })
    if t.techo = 0 then s
    else
      let s := s.bump (s.portNode p) 0 0xA032 4 1
      let flagged := st || hd || t.txStretch || t.txHeld || t.rxStretch || t.rxHeld || (s.port p).flaggedTx.contains t.techo
      if s.parentPort ≠ some p ∨ flagged then s
      else
        let e : Exch := ⟨p, t.techo, t.trx, t.ttx, a2⟩
        let es := (s.eng.exchanges.filter (fun x => x.port == p)) ++ [e]
        let es := es.drop (es.length - 8)
        let s : State := { s with eng := { s.eng with exchanges := es } }
        if bestExch es ≠ some e then s
        else
          let r := s.openDiv (e.theta2 (toSigned 32 (s.reg (s.portNode p) 0 0xA032 1))) 2
          let h := r.2.openDiv e.delta 2
          let s := (h.2.setReg (s.portNode p) 0 0xA032 2 (i32 h.1)).setReg (s.portNode p) 0 0xA032 3 (i32 r.1)
          let s := s.setReg .engine 0 0xA030 7 ((r.1 % 2 ^ 64).toNat)
          let s := s.correct 0 r.1
          let k := s.fresh
          let rate := k.1 % 2 ^ 32
          let s := k.2.setReg .engine 0 0xA030 8 rate
          (List.range s.nFields).foldl (fun (s : State) g =>
            let left := (s.field g).slew
            let at_ := (s.field g).slewAt
            s.modField g (fun q => { q with
              off := q.off + ((s.time - q.rateAt : Nat) : Int) * q.rate / 2 ^ 40, slew := left, slewAt := at_,
              rate := toSigned 32 rate, rateAt := s.time })) s

end Sys2Proof.Machine
end

