-- ==== Sys2Proof/Machine/ObsOps.lean ====
section
/-! DEFINITION. Observation and debug (chapter 18): trace transport, the counter sweep, last-events rings, and HALT. -/

namespace Sys2Proof.Machine

/-! ### Trace transport (R428) -/

/-- TRACE_INPUT (R428): 8 bytes of a core whose trace is enabled join its chunk; with no buffer free they are lost, or in stall mode
they wait, and the input takes nothing more until they have gone. -/
def State.traceInput (s : State) (c : Coord) (core : Nat) (bs : List Byte) : State :=
  let mode := s.reg (cellNode c) 0 0x9050 4
  if ! bit mode core ∨ (SMap.get [] (s.cell c).traceWait core) ≠ [] then s
  else
    let bs := padTo 8 (bs.take 8)
    let r := s.traceAdd c core bs
    if r.1 then r.2
    else if bit mode (4 + core) then s.modCell c (fun q => { q with traceWait := SMap.put [] q.traceWait core bs })
    else (s.modCell c (fun q => { q with traceLost := SMap.put 0 q.traceLost core (SMap.get 0 q.traceLost core + 8) })).bump
      (cellNode c) 0 0x9050 7 8

/-- Trace bytes that wait in stall mode go on once a buffer is free. -/
def State.traceRetry (s : State) (c : Coord) : State :=
  (List.range 4).foldl (fun (s : State) k =>
    let bs := SMap.get [] (s.cell c).traceWait k
    if bs = [] then s
    else
      let r := s.traceAdd c k bs
      if r.1 then r.2.modCell c (fun q => { q with traceWait := SMap.put [] q.traceWait k [] }) else s) s

/-- The 2 KiB of a chunk: header and payload (R428). -/
def chunkBytes (c : Coord) (t : TraceBuf) (seq : Nat) : List Byte :=
  leBytes 32 (pack [(0, 64, t.started), (64, 9, c.x), (73, 9, c.y), (82, 4, t.source), (86, 2, t.flags), (96, 32, seq),
    (128, 11, t.data.length), (160, 32, t.lost)]) ++ padTo 2016 t.data

/-- TRACE_CHUNK_SEND (R428): the oldest chunk of a source, full or FLUSH old, is sent to the sink. -/
def State.traceSend (s : State) (c : Coord) (source : Nat) : State :=
  match (s.cell c).trace.find? (fun t => t.source == source) with
  | none => s
  | some t =>
    let n := cellNode c
    let s : State := if t.data.length = 2016 then s else { s with time := max s.time t.deadline }
    let seq := s.reg n 0 0x9050 6
    let size := s.reg n 0 0x9050 3
    match s.routerTransfer c .trace (addrOf (s.reg n 0 0x9050 1)) (s.reg n 0 0x9050 2 + seq * 2048 % size) 0 (chunkBytes c t seq).length (chunkBytes c t seq) with
    | none => s
    | some s => ((s.modCell c (fun q => { q with trace := q.trace.erase t })).bump n 0 0x9050 6 1).traceRetry c

/-! ### The counter sweep (R429, R430) -/

/-- A field of COUNTER_SWEEP. -/
def State.swp (s : State) (sub : Nat) : Nat := s.reg .engine 0 0x9030 sub

/-- Counters in MASK, rising. -/
def State.sweepCtrs (s : State) : List Nat := (List.range 16).filter (fun i => bit (s.swp 3) i)

/-- RLEN (R429). -/
def State.sweepLen (s : State) : Nat := cdiv (16 + 8 * s.sweepCtrs.length) 64 * 64

/-- Routers in RECT, C. -/
def State.sweepCells (s : State) : Nat :=
  let w := s.swp 4
  (bits w 18 9 + 1 - bits w 0 9) * (bits w 27 9 + 1 - bits w 9 9)

/-- Index j of a router in RECT; none outside it. -/
def State.sweepIndex (s : State) (c : Coord) : Option Nat :=
  let w := s.swp 4
  if inRect w c ∧ ! s.isHole c then some ((c.y - bits w 9 9) * (bits w 18 9 + 1 - bits w 0 9) + (c.x - bits w 0 9)) else none

/-- Copy the counters of sample `k` and send the record (R429); `held` marks one taken after a stop (R430). -/
def State.takeSample (s : State) (c : Coord) (k : Nat) (held : Bool) : State :=
  match s.sweepIndex c with
  | none => s
  | some j =>
    let f := s.fieldOf c
    let s := s.accrue f
    let vals := s.recList (cellNode c) 0 0x9020 0x11
    let hd := pack [(0, 64, s.ft f), (64, 9, c.x), (73, 9, c.y), (82, 1, b2n (s.stretchFlag f)), (83, 1, b2n (held || s.heldFlag f)),
      (96, 16, s.swp 3), (112, 16, k)]
    let data := padTo s.sweepLen (leBytes 16 hd ++ s.sweepCtrs.flatMap (fun i => leBytes 8 (nth vals i 0)))
    let live := s.liveDropsAt c (s.swp 5)
    if live.isEmpty then s.bump (cellNode c) 0 0x9020 0x12 1
    else
      let d := dropCell (s.swp 5) (nth live (j % live.length) 0)
      let a := s.swp 6 + (k * s.sweepCells + j) * s.sweepLen % max 1 (s.swp 7)
      match s.routerTransfer c .sweep ⟨s.engine, d.x, d.y, 1⟩ a 0 data.length data with
      | some s => s
      | none => s.modCell c (fun q => { q with sweepPend := some k })

/-- SWEEP_SAMPLE (R429 to R431). -/
def State.sweepSample (s : State) (c : Coord) : State :=
  match s.sweepIndex c with
  | none => s
  | some _ =>
    let k := max (s.cell c).sweepNext s.eng.sweepFrom
    let on := decide (s.swp 1 = 1)
    if ! (on || decide (k < s.eng.sweepLast)) then s
    else if s.swp 8 = 1 ∧ s.swp 7 / (s.sweepCells * s.sweepLen) ≤ k then (if on then s.setReg .engine 0 0x9030 0x0C 2 else s)
    else
      let f := s.fieldOf c
      let t := s.swp 9 + k * s.swp 2
      let s : State := { s with time := s.time + (t - s.ft f) }
      let s := s.modCell c (fun q => { q with sweepNext := k + 1 })
      if s.enginePower = 1 ∨ s.enginePower = 2 then s
      else
        let s : State := if s.eng.sweepLast ≤ k then
            ({ s with eng := { s.eng with sweepLast := k + 1 } } : State).bump .engine 0 0x9030 0x0B 1
          else s
        let unsent := (s.cell c).rsvs.any (fun r => r.use == .sweep && r.st == .asked) || (s.cell c).sweepPend.isSome
        if unsent then s.bump (cellNode c) 0 0x9020 0x13 1
        else if (s.field f).stopped ∨ 2 ≤ s.power f then s.modCell c (fun q => { q with sweepPend := some k })
        else s.takeSample c k false

/-- A sample that waited for the router's clock, or for a reservation, is taken (R430). -/
def State.sweepRetry (s : State) (c : Coord) : State :=
  match (s.cell c).sweepPend with
  | none => s
  | some k =>
    let f := s.fieldOf c
    if (s.field f).stopped ∨ 2 ≤ s.power f ∨ (s.cell c).rsvs.any (fun r => r.use == .sweep && r.st == .asked) then s
    else (s.modCell c (fun q => { q with sweepPend := none })).takeSample c k true

/-- The samples that waited for a field's clock are taken at its first fc. -/
def State.sweepResume (s : State) (f : Nat) : State :=
  (s.fieldCells f).foldl (fun (s : State) c => if (s.cell c).sweepPend.isSome then s.sweepRetry c else s) s

/-- Start or stop the sweep (R431). -/
def State.sweepEnable (s : State) (on : Bool) : State :=
  if on then
    if s.swp 1 = 1 then s
    else
      let t := s.ft 0
      let k := if t < s.swp 9 then 0 else (t - s.swp 9) / s.swp 2 + 1
      let s : State := { s with eng := { s.eng with sweepFrom := k, sweepLast := 0 } }
      (((s.setReg .engine 0 0x9030 1 1).setReg .engine 0 0x9030 0x0C 1).setReg .engine 0 0x9030 0x0B 0)
  else (s.setReg .engine 0 0x9030 1 0).setReg .engine 0 0x9030 0x0C 0

/-! ### Last-events rings (R432) -/

/-- Freeze every ring of the engine with a cause, or unfreeze it. -/
def State.allRings (s : State) (freeze : Bool) : State :=
  s.allCells.foldl (fun (s : State) c => if freeze then s.freezeRing c 4 else s.setReg (cellNode c) 0 0x9040 3 0) s

/-! ### HALT (R433, R434) -/

/-- Send a HALT broadcast. -/
def State.sendHalt (s : State) (c : Coord) (g : Nat) (on : Bool) (origin : SrcAddr) : State :=
  s.sendSig c (.halt ⟨g, on, origin, s.ft (s.fieldOf c)⟩)

/-- BREAKPOINT (R433). -/
def State.breakAt (s : State) (c : Coord) (core : Nat) : State :=
  let w := bits (s.reg (cellNode c) 0 0x9050 8) (5 * core) 5
  if bit w 4 ∧ ! (s.cell c).inReset then s.sendHalt c (w % 16) true (s.srcOf c core) else s

/-- HALT_RECEIVE (R434). -/
def State.haltAt (s : State) (c : Coord) (h : Halt) : State :=
  let cur := SMap.get (⟨false, 0⟩ : HaltSt) (s.rtr c).halts h.group
  if h.t < cur.t ∨ (h.t = cur.t ∧ cur.on ∧ ! h.on) then s
  else
    let f := s.fieldOf c
    let s := if c = s.agentCell f then s.accrue f else s
    let old := (List.range 9).map (fun p => s.stopState c p)
    let s := s.modRtr c (fun r => { r with halts := SMap.put ⟨false, 0⟩ r.halts h.group ⟨h.on, h.t⟩ })
    let s := (List.range 9).foldl (fun (s : State) p => s.noteStop c p (nth old p 0)) s
    let x := 0x9060 + h.group
    let named := bit ((s.tabBytes .engine 0 x 1 0 40).getD (f / 8) 0).toNat (f % 8)
    let s := if h.on && named && decide (s.reg .engine 0 x 2 = 1) && bit (s.reg (cellNode c) 0 0x9040 7) 1 then s.freezeRing c 3 else s
    if c = s.agentAt 0 then
      let s := (s.setReg .engine 0 x 3 (b2n h.on)).setReg .engine 0 x 4 (srcWord h.origin)
      if h.on then s.bump .engine 0 x 5 1 else s
    else s

/-- Is a field halted with no open packet (0x9070.02)? -/
def State.halted (s : State) (f : Nat) : Bool :=
  s.haltOn (s.agentAt f) && (s.fieldCells f).all (fun c => (List.range 9).all (fun p => (s.outp c p).owner.isEmpty))

/-- Groups in state ON that name a field (0x9070.01). -/
def State.haltGroups (s : State) (f : Nat) : Nat :=
  (List.range 16).foldl (fun n g =>
    let h := SMap.get (⟨false, 0⟩ : HaltSt) (s.rtr (s.agentAt f)).halts g
    if h.on && bit ((s.tabBytes .engine 0 (0x9060 + g) 1 0 40).getD (f / 8) 0).toNat (f % 8) then n + 2 ^ g else n) 0

end Sys2Proof.Machine
end

