-- ==== Sys2Proof/Machine/DictVal.lean ====
section
/-! DEFINITION. Reaching and reading an object of the dictionary: nodes (R374, R375), selections of the window objects (R150, R213,
R280), rights tiers (R378, R424), the value of every object that a unit keeps elsewhere than in the register file, and the data of
every table (R376). -/

namespace Sys2Proof.Machine

/-- The answer of an agent: STATUS, DETAIL, VALUE and read data (R387, R394). -/
structure Rsp where
  status : Nat
  detail : Nat
  value : Nat
  data : List Byte
  deriving DecidableEq, Repr

/-- An object at its node: node, selected number of a window object, index and subindex. -/
structure Obj where
  node : Node
  inst : Nat
  idx : Nat
  sub : Nat
  deriving DecidableEq, Repr

/-! ### Nodes (R374, R375) -/

/-- The cell word of a request: its carrier is LADDR or VALUE[17:0] for a core, the CELL bytes for the management port (R374). -/
def reqCell (r : DictReq) : Nat := if r.tlen = 0 ∨ r.who.mgmt then r.cell else r.value % 2 ^ 18

/-- Is a bit set that R374 requires to be zero? -/
def nodeReserved (r : DictReq) : Bool :=
  let kind := r.node % 4
  decide (bits r.node 11 5 ≠ 0) || (decide (kind ≠ 1) && decide (bits r.node 2 9 ≠ 0)) || decide (2 ^ 18 ≤ reqCell r) ||
    (decide (kind ≠ 2) && decide (reqCell r ≠ 0)) || (decide (0 < r.tlen) && ! r.who.mgmt && decide (r.value / 2 ^ 18 ≠ 0))

/-- The node that a request names, or the DETAIL that check 1 of R394 gives it. -/
def State.reqNode (s : State) (r : DictReq) : Except Nat Node :=
  let f := bits r.node 2 9
  let c : Coord := ⟨reqCell r % 512, reqCell r / 512⟩
  if nodeReserved r then .error 0x13
  else match r.node % 4 with
    | 0 => .ok .engine
    | 1 => if f < s.nFields then .ok (.field f) else .error 0x10
    | 2 => if s.inGrid c then .ok (cellNode c) else .error 0x10
    | _ => .error 0x10

/-- The cell of a cell node. -/
def nodeCell : Node → Coord
  | .cell x y => ⟨x, y⟩
  | _ => ⟨0, 0⟩

/-- The field whose agent receives a request (R388, R389); a request with no node goes to field 0. -/
def State.reqField (s : State) (r : DictReq) : Nat :=
  match s.reqNode r with
  | .ok n => s.nodeField n
  | .error _ => 0

/-- The link port whose node a cell node is (R375). -/
def State.portHere (s : State) (c : Coord) : Option Nat :=
  match s.portOf? c with
  | some p => if s.gatewayCell p 0 = c then some p else none
  | none => none

/-- The kinds of object that a node holds (R375). -/
def State.nodeKinds (s : State) : Node → List NKind
  | .engine => [.engine]
  | .field _ => [.field]
  | .cell x y => .cell :: (if (s.dropAt ⟨x, y⟩).isSome then [.drop] else []) ++ (if (s.portHere ⟨x, y⟩).isSome then [.port] else [])

/-- A requester's selection in a window object at a node, 0 before its first write (R150, R213, R280). -/
def State.selection (s : State) (w : Requester) (n : Node) (idx : Nat) : Nat :=
  match s.eng.selects.find? (fun e => e.who == w && e.node == n && e.idx == idx) with
  | some e => e.v
  | none => 0

/-- Set a requester's selection. -/
def State.setSelection (s : State) (w : Requester) (n : Node) (idx v : Nat) : State :=
  { s with eng := { s.eng with
      selects := s.eng.selects.filter (fun e => ! (e.who == w && e.node == n && e.idx == idx)) ++ [⟨w, n, idx, v⟩] } }

/-- A window object: contexts, barriers and table descriptors. -/
def isWindow (idx : Nat) : Bool := decide (idx = 0x2200) || decide (idx = 0x5000) || decide (idx = 0x6000)

/-- The object that a request names at its node. -/
def State.reqObj (s : State) (r : DictReq) (n : Node) : Obj :=
  ⟨n, if isWindow r.index ∧ 2 ≤ r.sub then s.selection r.who n r.index else 0, r.index, r.sub⟩

/-- Is the object defined at its node (R375, R373, R280, R427)? -/
def State.defined (s : State) (o : Obj) : Bool :=
  let ks := s.nodeKinds o.node
  let base := (objBase o.idx).1
  (objRow o.idx o.sub).isSome && (objKinds base o.sub).any ks.contains &&
    (decide (o.idx < 0xF000) || s.eng.testMode) &&
    (! (decide (o.idx = 0x9012) || decide (o.idx = 0x9013)) || ks.contains .drop || ks.contains .port) &&
    (match o.node with
     | .cell x y =>
       let c : Coord := ⟨x, y⟩
       if o.idx = 0x2200 ∧ o.sub ≠ 1 then decide (s.barRoot o.inst = c)
       else if o.idx = 0x6000 ∧ 0x0A ≤ o.sub ∧ o.sub ≤ 0x0F then
         decide ((s.leadDrop (s.tbl o.inst)).map (fun k => dropCell k.1 k.2) = some c)
       else true
     | _ => true)

/-! ### Rights tiers (R378, R424) -/

/-- The tier of a core of this engine: its entry in CORE_RIGHTS once written, else the DEFAULT_TIER in force since bring-up (R378). -/
def State.coreTier (s : State) (c : Coord) (core : Nat) : Nat :=
  match s.recList (cellNode c) 0 0x4001 (core + 1) with
  | v :: _ => v
  | [] => s.reg .engine 1 0x2003 1

/-- The tier at which a request acts: 0 OBSERVE, 1 OPERATE, 2 OWN, 3 FACTORY. -/
def State.tierOf (s : State) (w : Requester) : Nat :=
  if w.eng ≠ s.engine then s.reg .engine 0 0x2003 2
  else if w.mgmt then (if s.eng.testMode then 3 else 2)
  else s.coreTier ⟨w.x, w.y⟩ w.core

/-- The tier that a read needs (R378, R373, and R424 in Chavos mode). -/
def State.readTier (s : State) (w : Requester) (o : Obj) : Nat :=
  let base := (objBase o.idx).1
  let own := decide (w.eng = s.engine) && ! w.mgmt && decide (o.node = .cell w.x w.y)
  let rc : Bool := match objRow o.idx o.sub with | some q => decide (q.acc = .rc) | none => false
  let far : Bool := match o.node with | .cell _ _ => false | _ => true
  if 0xF000 ≤ o.idx then 3
  else if s.reg .engine 0 0x9000 1 = 1 ∧ (([0x9010, 0x9020, 0x9040].contains base ∧ ! own) ∨ (rc ∧ far)) then 2
  else 0

/-- The tier that a write needs (R396, R424). -/
def State.writeTier (s : State) (o : Obj) : Nat :=
  let base := (objBase o.idx).1
  let t := objWriteTier base o.sub
  if s.reg .engine 0 0x9000 1 = 1 ∧ [0x9010, 0x9030, 0x9050].contains base then max 2 t else t

/-- Does the tier of a request suffice? The certificate is written by the management port alone (R395). -/
def State.tierOk (s : State) (r : DictReq) (o : Obj) : Bool :=
  if ! r.wr then decide (s.readTier r.who o ≤ s.tierOf r.who)
  else decide (s.writeTier o ≤ s.tierOf r.who) && (decide (o.idx ≠ 0x1004) || (r.who.mgmt && decide (r.who.eng = s.engine)))

/-! ### The values that units keep (R6, R57, R99, R162, R232, R260, ...) -/

/-- Gaps of all rings of an axis. -/
def RingMap.allGaps (m : RingMap) (ax : Axis) : Nat :=
  (List.range (m.size ax.other)).foldl (fun n l => n + m.gaps ax l) 0

/-- Gaps of all mill races (R59): one at each row and column. -/
def RingMap.allMillGaps (m : RingMap) : Nat :=
  (List.range m.ny).foldl (fun n l => n + m.millGaps .row l) 0 + (List.range m.nx).foldl (fun n l => n + m.millGaps .col l) 0

/-- The hole-map generation that every live router has applied (0x2011.04). -/
def State.engineGen (s : State) : Nat :=
  minimum s.holes.length ((s.allCells.filter (fun c => ! s.isHole c)).map s.genOf)

/-- Slots of a pond by state: STAGED, HELD, ROOT (0x4080.02). -/
def State.pondStates (s : State) (c : Coord) : Nat × Nat × Nat :=
  let q := s.coll c
  let held := q.slots.filter PSlot.inPond
  ((q.deps.filter (fun d => d.raw.isSome)).length, (held.filter (fun w => w.kind != .root)).length,
    (held.filter (fun w => w.kind == .root)).length)

/-- Slots of a link pond by state: STAGED, HELD, ROOT (0x5010.02). -/
def State.lvStates (s : State) (p : Nat) : Nat × Nat × Nat :=
  let v := (s.port p).lv
  let sum := fun (l : List LvSlot) => l.foldl (fun n w => n + s.lvWeight w.id.ctx) 0
  ((v.owns.filter (fun o => o.part.isSome)).foldl (fun n o => n + s.lvWeight o.id.ctx) 0,
    sum (v.slots.filter (fun w => ! w.root)), sum (v.slots.filter LvSlot.root))

/-- Does any block of a field hold a STATUS bit (0x8140.16)? -/
def State.faultField (s : State) (f : Nat) : Bool :=
  decide (s.reg (.field f) 0 0x8110 1 ≠ 0) ||
    (s.fieldCells f).any (fun c => [0x8100, 0x8101, 0x8102, 0x8120, 0x8130].any (fun i => decide (s.reg (cellNode c) 0 i 1 ≠ 0)))

/-- DRAW_EST: charges of the last window plus fixed draws, in mW (0xA020.05). -/
def State.drawEst (s : State) : Nat :=
  let spent := (List.range s.nFields).foldl (fun n f => n + s.reg (.field f) 0 0xA021 4) 0
  spent / s.reg .engine 0 0xA020 2 + s.linkDraw + s.reserves

/-- A scalar of a cell node that the unit keeps outside the register file. -/
def State.cellValue (s : State) (c : Coord) (o : Obj) : Option Nat :=
  let b := objBase o.idx
  let q := s.cell c
  let port := (s.portHere c).getD 0
  let drop := (s.dropAt c).getD (0, 0)
  let d := s.drop drop.1 drop.2
  match b.1, o.sub with
  | 0x4000, 3 => some q.cmds.length
  | 0x4001, i => some (s.coreTier c (i - 1))
  | 0x4004, 4 => some (s.core c b.2).prod
  | 0x4008, 2 => some (s.core c b.2).intq.length
  | 0x4010, 1 => some (s.genOf c)
  | 0x4010, 2 => some ((s.ringMap c).gaps .row c.y)
  | 0x4010, 3 => some ((s.ringMap c).gaps .col c.x)
  | 0x4010, 4 => some ((s.ringMap c).bypassBits c)
  | 0x4040, 2 => some (((List.range 256).filter (fun i => decide (s.slotOwner c b.2 i ≠ 15))).length)
  | 0x4050, 0x0A => some (s.stopState c b.2)
  | 0x4060, 1 => some q.landing.free.length
  | 0x4060, 2 => some q.landing.queue.length
  | 0x4060, 3 => some q.rsvs.length
  | 0x4080, 1 => some (s.freeSlots c)
  | 0x4080, 2 => let z := s.pondStates c; some (z.1 + 256 * z.2.1 + 65536 * z.2.2)
  | 0x4080, 0x0B => some (pack ((List.range 8).map (fun k => (8 * k, 8, s.shareHeld c k))))
  | 0x5000, 0x1E => some (s.ctxState c o.inst)
  | 0x5000, 0x1F => some (if (s.arm? o.inst).isSome then (s.geo o.inst).n else 0)
  | 0x5010, 1 => some (s.lvFree port)
  | 0x5010, 2 => let z := s.lvStates port; some (z.1 + 2 ^ 10 * z.2.1 + 2 ^ 20 * z.2.2)
  | 0x6040, 1 => some d.txns.length
  | 0x6040, 5 => some d.queueUsed
  | 0x6040, 7 => some (131072 - 256 * s.accUsed drop.1 drop.2)
  | 0x6040, 9 => some d.locks.length
  | 0x8040, 1 => some q.watches.length
  | _, _ => none

/-- A scalar of the engine node that the engine keeps outside the register file. -/
def State.engineValue (s : State) (o : Obj) : Option Nat :=
  let b := objBase o.idx
  match b.1, o.sub with
  | 0x1003, 1 => some s.build.fx
  | 0x1003, 2 => some s.build.fy
  | 0x1003, 3 => some (s.build.stackMap % 2 ^ 24)
  | 0x1003, 4 => some s.nPorts
  | 0x1003, 5 => some s.build.linkEdges
  | 0x1003, 6 => some s.build.pondKib
  | 0x1005, 3 => some ((s.reg .engine 0 0x1005 1 + s.reg .engine 0 0x1005 2) / 4)
  | 0x2001, 2 => some s.eng.groups.length
  | 0x2010, 1 => some s.holes.length
  | 0x2010, 2 => some s.holes.length
  | 0x2010, 4 => some (s.holeMap.allGaps .row)
  | 0x2010, 5 => some (s.holeMap.allGaps .col)
  | 0x2010, 6 => some s.holeMap.allMillGaps
  | 0x2011, 4 => some s.engineGen
  | 0x5000, 0x1F => some (if (s.arm? o.inst).isSome then (s.geo o.inst).n else 0)
  | 0x6010, 1 => some (if s.stackFitted b.2 then s.reg .engine 0 o.idx 1 else 0)
  | 0x6010, 2 => some (s.poolUsed b.2)
  | 0x6010, 7 => some ((List.range 32).foldl (fun n d => n + 256 * s.accUsed b.2 d) 0)
  | 0x7001, 4 => some (pack [(0, 12, s.engCoord s.engine 0), (12, 12, s.engCoord s.engine 1), (24, 12, s.engCoord s.engine 2)])
  | 0x8030, 2 => some (s.reg .engine 0 0x8030 1 / 776)
  | 0x9030, 0x0A => some s.sweepLen
  | 0xA011, 7 => some s.fieldsInLull
  | 0xA020, 4 => some s.linkDraw
  | 0xA020, 5 => some s.drawEst
  | 0xA020, 7 => some (((List.range s.nFields).filter (fun f => decide (s.reg (.field f) 0 0x3010 2 = 1))).length)
  | 0xA030, 1 => some (s.ft 0)
  | 0xA030, 5 => some s.timeState
  | 0xA030, 6 => some (s.parentPort.getD 0xFF)
  | _, _ => none

/-- A scalar of a field node that the field keeps outside the register file. -/
def State.fieldValue (s : State) (f : Nat) (o : Obj) : Option Nat :=
  match o.idx, o.sub with
  | 0x3010, 3 => some (s.ownedOutputs f)
  | 0x9070, 1 => some (s.haltGroups f)
  | 0x9070, 2 => some (b2n (s.halted f))
  | 0xA010, 6 => some (s.holds f)
  | _, _ => none

/-- VALUE of a read of a signed object: its sign extension (R376). -/
def extend (ty : OTy) (v : Nat) : Nat :=
  match ty with
  | .i w => if bit v (w - 1) then v + (2 ^ 64 - 2 ^ w) else v
  | _ => v

/-- The value that a read of a scalar returns (R377, R382). -/
def State.scalar (s : State) (w : Requester) (o : Obj) : Nat :=
  let own := match o.node with
    | .engine => s.engineValue o
    | .field f => s.fieldValue f o
    | .cell x y => s.cellValue ⟨x, y⟩ o
  if isWindow o.idx ∧ o.sub = 1 then s.selection w o.node o.idx
  else match own with
    | some v => v
    | none =>
      let v := s.reg o.node o.inst o.idx o.sub
      match objRow o.idx o.sub with
      | some r => extend r.ty v
      | none => v

/-! ### The data of tables (R376) -/

/-- Entry size and capacity of a table or string, in bytes; an event ring of a router holds 64 entries, one of a drop or link port
256 (R432). -/
def State.tabShape (s : State) (o : Obj) : Nat × Nat :=
  match objRow o.idx o.sub with
  | some ⟨_, .table cap ent _, _, _, _, _, _⟩ =>
    if o.idx = 0x9040 then (ent, 16 * s.ringCap (nodeCell o.node)) else (ent, cap)
  | some ⟨_, .str cap, _, _, _, _, _⟩ => (1, cap)
  | _ => (1, 0)

/-- Entries as bytes of `ent` each. -/
def entryBytes (ent : Nat) (l : List Nat) : List Byte := l.flatMap (leBytes ent)

/-- One byte per eight fields, bit f for field f. -/
def fieldBits (n : Nat) (p : Nat → Bool) : List Byte :=
  (List.range 40).map (fun i => BitVec.ofNat 8 ((List.range 8).foldl (fun v j => if 8 * i + j < n ∧ p (8 * i + j) then v + 2 ^ j else v) 0))

/-- The strings of the identity objects, from the spec's defaults (R4, R395). -/
def strDefault (idx sub : Nat) : List Byte :=
  if idx = 0x1001 ∧ sub = 2 then ascii "ONG-W480" else if idx = 0x1003 ∧ sub = 7 then ascii "A1" else []

/-- The table of an object that the block fills (R360, R425, R432 and the tables of objects); none for a table that software
writes. -/
def State.roTable (s : State) (o : Obj) : Option (List Byte) :=
  let b := objBase o.idx
  let c := nodeCell o.node
  match b.1, o.sub with
  | 0x1004, 1 => some (ecPub Config.identityKey)
  | 0x1008, 4 => some (s.tabBytes .engine 0 0x1008 4 0 40)
  | 0x1008, 5 => some (entryBytes 8 (s.recList .engine 0 0x1008 5))
  | 0x2001, 4 => some (s.tabBytes .engine 0 0x2001 4 0 40)
  | 0x2010, 3 => some (entryBytes 8 (s.holes.map (fun h => pack [(0, 9, h.c.x), (9, 9, h.c.y), (18, 2, h.origin), (20, 1, b2n (s.holeByp h.c).1),
      (21, 1, b2n (s.holeByp h.c).2), (32, 32, h.gen)])))
  | 0x4004, 5 => some (entryBytes 4 ((List.range 16).map (s.counter c b.2)))
  | 0x7001, 0x0A => some ((List.range 2048).map (fun e =>
      match s.eng.notes.find? (fun n => n.note.origin == e) with
      | some n => BitVec.ofNat 8 n.note.state
      | none => 0xFF))
  | 0x8140, 0x16 => some (fieldBits s.nFields s.faultField)
  | _, _ =>
    match objRow o.idx o.sub with
    | some ⟨_, .table _ ent _, .ro, _, _, _, _⟩ =>
      if o.idx = 0x1005 then none else some (entryBytes ent (s.recList o.node o.inst o.idx o.sub))
    | some ⟨_, .str _, _, _, _, _, _⟩ => some (strDefault o.idx o.sub ++ s.tabBytes o.node 0 o.idx o.sub 0 (s.reg o.node 0 o.idx o.sub))
    | _ => none

/-- `n` bytes from byte `a` of the table or string of an object (R376). -/
def State.blob (s : State) (o : Obj) (a n : Nat) : List Byte :=
  match s.roTable o with
  | some l =>
    let t := (l.drop a).take n
    t ++ List.replicate (n - t.length) (objEmpty o.idx o.sub)
  | none => s.tabBytes o.node o.inst o.idx o.sub a n

end Sys2Proof.Machine
end

