-- ==== Sys2Proof/Machine/StartOps.lean ====
section
/-! DEFINITION. The start of a bring-up of either kind (R436, R437) and the bookkeeping of its steps (R441). -/

namespace Sys2Proof.Machine

/-! ### Bring-up steps (R441) -/

/-- STEP of BRINGUP (0x1008.01). -/
def State.bootStep (s : State) : Nat := s.reg .engine 0 0x1008 1

/-- Is a bring-up running? -/
def State.booting (s : State) : Bool := decide (1 ≤ s.bootStep) && decide (s.bootStep ≤ 9)

/-- Steps of this bring-up that are done, from STEP_FT. -/
def State.stepsDone (s : State) : Nat := (s.recList .engine 0 0x1008 5).length

/-- Step `k` is done: STEP_FT records the FT of field 0, and the next step starts (R441). Step 10 is entered by BRINGUP_DONE (R446). -/
def State.stepDone (s : State) (k : Nat) : State :=
  let s := s.pushRec .engine 0 0x1008 5 10 (s.ft 0)
  let s := if k < 9 then s.setReg .engine 0 0x1008 1 (k + 1) else s
  { s with eng := { s.eng with stepAt := s.time } }

/-- A step fails with a cause, naming the fields that failed (R441). -/
def State.bootFail (s : State) (cause : Nat) (fields : List Nat) : State :=
  let s := ((s.setReg .engine 0 0x1008 1 11).setReg .engine 0 0x1008 3 cause)
  s.setTab .engine 0 0x1008 4 (Memory.writeN 0 [] 0 (fieldBits s.nFields fields.contains))

/-! ### What a bring-up keeps (R436) -/

/-- The objects of the non-volatile store: ID_KEY, DEFECT_MAP and BOOT_IMAGE. -/
def nvObject (idx : Nat) : Bool := decide (idx = 0x1004) || decide (idx = 0x1005) || decide (idx = 0x1006)

/-- The other BOOT objects that software writes: DEFAULT_TIER, HOLD_FROZEN, LINK_WAIT, STAGGER. -/
def bootObject (idx sub : Nat) : Bool :=
  (decide (idx = 0x2003) && decide (sub = 1)) || (decide (idx = 0x1008) && decide (9 ≤ sub) && decide (sub ≤ 0x0B))

/-- Does a bring-up keep the register with this key? -/
def keptKey (warm : Bool) (k : Nat) : Bool :=
  let idx := k / 256 % 65536
  decide (k / 16777216 = 0) && (nvObject idx || (warm && bootObject idx (k % 256)))

/-- A field as a bring-up finds it: its power good and, on a warm one, its fabric time, which continues without a step. -/
def keptField (warm : Bool) (q : FieldSt) : FieldSt :=
  let z := { FieldSt.init with pg := q.pg }
  if warm then { z with off := q.off, slew := q.slew, slewAt := q.slewAt, rate := q.rate, rateAt := q.rateAt } else z

/-- A cell as a bring-up finds it: its sideband reset and what the surroundings flagged in its memory. -/
def keptCell (q : CellSt) : CellSt := { CellSt.init with inReset := q.inReset, bad := q.bad }

/-- The engine as a bring-up finds it: its pins and test access port; a warm one keeps the management port and the number of its last
link-state note, which the always-on domain holds. -/
def keptEng (warm : Bool) (e : EngSt) : EngSt :=
  let z := { EngSt.init with powered := true, testMode := e.testMode, tap := e.tap }
  if warm then { z with eid := e.eid, dynAddr := e.dynAddr, mgmtSent := e.mgmtSent } else z

/-- A bring-up starts (R436): every object but those kept takes its reset value, every queue is empty, and step 1 is in progress. The
surroundings, the memories of the cells and what has left the block stay as they are. -/
def State.bringupStart (s : State) (warm : Bool) : State :=
  let z := State.reset
  let z : State := { z with
    build := s.build, time := s.time, cellMem := s.cellMem, linkOut := s.linkOut, answers := s.answers, freeCtr := s.freeCtr,
    pending := s.pending,
    regs := s.regs.filter (fun e => keptKey warm e.1),
    tabs := s.tabs.filter (fun e => keptKey warm e.1),
    cells := s.cells.foldl (fun m e => SMap.put CellSt.init m e.1 (keptCell e.2)) [],
    fields := s.fields.foldl (fun m e => SMap.put FieldSt.init m e.1 (keptField warm e.2)) [],
    eng := keptEng warm s.eng }
  let z : State := { z with eng := { z.eng with stepAt := s.time } }
  (z.setReg .engine 0 0x1008 1 1).setReg .engine 0 0x1008 2 (b2n warm)

/-- May RESTART be written now (R437)? -/
def State.mayRestart (s : State) : Bool :=
  ! s.booting && (decide (s.reg .engine 0 0x8140 0x14 = 6) || (List.range s.nFields).all (fun f => decide (s.reg (.field f) 0 0x3010 1 = 1)))

/-- An accepted RESTART (R437): every link port leaves service, and a warm bring-up starts. -/
def State.restart (s : State) : State := s.bringupStart true

end Sys2Proof.Machine
end

