-- ==== Sys2Proof/Machine/DictChk.lean ====
section
/-! DEFINITION. The checks that an agent makes of each access, in the order of *Refusal reasons* (R394): node and object, tier, access
code, type, liveness, reserved bits, range, and the frozen scope of a QUIET write. -/

namespace Sys2Proof.Machine

/-- STATUS and DETAIL of a failed check: REFUSED with a DETAIL, or DENIED. -/
abbrev DictFail := Nat × Nat

/-- REFUSED with a DETAIL of *Refusal reasons*. -/
def dictRef (d : Nat) : DictFail := (2, d)

/-- Is a value within a stated range (R376)? `signed n` ranges over the sign extensions of −n to n. -/
def Rng.ok (g : Rng) (v : Nat) : Bool :=
  match g with
  | .any => true
  | .between lo hi => decide (lo ≤ v) && decide (v ≤ hi)
  | .mult m lo hi => decide (v % m = 0) && decide (lo ≤ v) && decide (v ≤ hi)
  | .pow2 lo hi => decide (lo ≤ v) && decide (v ≤ hi) && (List.range 64).any (fun i => decide (v = 2 ^ i))
  | .oneOf l => l.contains v
  | .orZero lo hi => decide (v = 0) || (decide (lo ≤ v) && decide (v ≤ hi))
  | .signed n => decide (v ≤ n) || decide (2 ^ 64 - n ≤ v)

/-- Does a scalar lie within its type and its stated range (R376)? -/
def ObjRow.valueOk (q : ObjRow) (v : Nat) : Bool :=
  (match q.ty with
   | .i w => decide (v < 2 ^ (w - 1)) || (decide (2 ^ 64 - 2 ^ (w - 1) ≤ v) && decide (v < 2 ^ 64))
   | t => decide (v < 2 ^ t.width)) && q.rng.ok v

/-- STATUS bits that a fault block defines (R361). -/
def faultMask (idx : Nat) : Nat :=
  match idx with
  | 0x8100 => 0xFF
  | 0x8101 => 7
  | 0x8102 => 7
  | 0x8110 => 7
  | 0x8120 => 0x1F
  | 0x8130 => 0xF
  | _ => 3

/-- Is this the STATUS of a fault block? -/
def isFault (idx : Nat) : Bool := [0x8100, 0x8101, 0x8102, 0x8110, 0x8120, 0x8130, 0x8140].contains idx

/-- Reserved bits of a scalar: those of its table, and the undefined bits of a fault STATUS (R363). -/
def ObjRow.reserved (q : ObjRow) (idx : Nat) : Nat :=
  if isFault idx ∧ q.sub = 1 then 0xFFFFFFFF - faultMask idx else q.resv

/-- Reserved bits of entry `i` of a level map: its header (entry 0) and its level entries (R249). -/
def levelMapReserved (i : Nat) : List (Nat × Nat) :=
  if i = 0 then [(2, 6), (13, 3), (27, 5), (43, 21), (112, 16)] else [(3, 5), (19, 1), (48, 16)]

/-- Does an entry of written table data set a reserved bit: rectangles of members (R150), defect entries (R438), slot-table entries (R84) and
level-map entries (R249)? `toff` is where the data starts in the table. -/
def dataReserved (o : Obj) (toff : Nat) (data : List Byte) : Bool :=
  let entry := fun (ent i : Nat) => leNat ((data.drop (ent * i)).take ent)
  let any := fun (ent lo w : Nat) => (List.range (data.length / ent)).any (fun i => decide (bits (entry ent i) lo w ≠ 0))
  if (o.idx = 0x2200 ∨ o.idx = 0x5000 ∨ o.idx = 0x7030) ∧ o.sub = 3 then any 8 36 28
  else if o.idx = 0x1005 then any 4 20 12
  else if 0x4040 ≤ o.idx ∧ o.idx ≤ 0x4048 then any 1 4 4
  else if o.idx = 0x5000 ∧ o.sub = 0x16 then
    (List.range (data.length / 16)).any (fun i => (levelMapReserved (toff / 16 + i)).any (fun f => decide (bits (entry 16 i) f.1 f.2 ≠ 0)))
  else false

/-! ### Ranges that depend on the state -/

/-- Product of the dimension sizes (R320). -/
def sizesProduct (dims z : Nat) : Nat := (ringSizes dims z).foldl (· * ·) 1

/-- What the cap leaves, in mW, with a new CAP or RESERVE (R413): at least 1 kW. -/
def State.capLeaves (s : State) (o : Obj) (v : Nat) : Bool :=
  let t := s.setReg o.node 0 o.idx o.sub v
  decide (t.linkDraw + t.reserves + 1000000 ≤ 1000 * t.reg .engine 0 0xA020 1)

/-- Do dimensions and sizes hold at most 2,048 engines, this one's number among them (R320)? -/
def State.ringFits (s : State) (dims z : Nat) : Bool := decide (sizesProduct dims z ≤ 2048) && decide (s.engine < sizesProduct dims z)

/-- The rules that an object's own chapter gives its value beside a fixed range: quotas of share classes (R231), CORE_RIGHTS (R378), the
completion ring (R112), the engine's place in the engine rings (R320), CAP and RESERVE (R413), CLKMON FIELD (R401), select words (R425). -/
def State.ownRange (s : State) (r : DictReq) (o : Obj) : Bool :=
  let v := r.value
  let b := objBase o.idx
  let n := o.node
  match b.1, o.sub with
  | 0x2014, i => if i ≤ 8 then decide (bits v 0 6 ≤ 32) && decide (bits v 6 6 ≤ 32) else true
  | 0x4001, _ => decide (v ≤ s.tierOf r.who)
  | 0x4004, 1 => decide (v + 32 * s.reg n 0 o.idx 2 ≤ cellBytes)
  | 0x4004, 2 => decide (s.reg n 0 o.idx 1 + 32 * v ≤ cellBytes)
  | 0x7001, 1 => decide (v < sizesProduct (s.reg n 0 0x7001 2) (s.reg n 0 0x7001 3))
  | 0x7001, 2 => s.ringFits v (s.reg n 0 0x7001 3)
  | 0x7001, 3 => ([bits v 0 12, bits v 12 12, bits v 24 12].all (fun d => decide (1 ≤ d) && decide (d ≤ 2048))) &&
      s.ringFits (s.reg n 0 0x7001 2) v
  | 0x9020, i => if 1 ≤ i ∧ i ≤ 0x10 then decide (bits v 0 8 ≤ 0x14) else true
  | 0xA002, 2 => decide (v < s.nFields)
  | 0xA020, 1 => s.capLeaves o v
  | 0xA021, 1 => s.capLeaves o v
  | _, _ => true

/-! ### Frozen scopes (R380, R120, R121, R336) -/

/-- Is a field frozen: FREEZE reads 1 and no output of it has a packet open? -/
def State.fieldFrozen (s : State) (f : Nat) : Bool :=
  decide (s.reg (.field f) 0 0x3010 1 = 1) &&
    s.rtrs.all (fun e => s.fieldOf ⟨e.1 % 512, e.1 / 512⟩ != f || e.2.outs.all (fun p => p.2.owner.isEmpty))

/-- Is a port frozen for QUIET writes: DISABLED, DOWN or HELD_DOWN (R336)? -/
def State.portFrozen (s : State) (p : Nat) : Bool := [0, 1, 6].contains (s.portState p)

/-- Is the scope of a QUIET object frozen? -/
def State.scopeFrozen (s : State) (o : Obj) : Bool :=
  let b := objBase o.idx
  let c := nodeCell o.node
  match b.1 with
  | 0x4004 => (s.cell c).cmds.all (fun m => m.core != b.2)
  | 0x4100 => decide (s.chan c b.2 1 = 0)
  | 0x7001 => (List.range s.nPorts).all s.portFrozen
  | 0x7010 => s.portFrozen ((s.portHere c).getD 0)
  | _ => match o.node with
    | .engine => (List.range s.nFields).all s.fieldFrozen
    | .field f => s.fieldFrozen f
    | .cell _ _ => s.fieldFrozen (s.fieldOf c)

/-- Is the agent or the object busy for another reason: bring-up (R443), a running stream (R295), a relock under way (R398)? -/
def State.objBusy (s : State) (r : DictReq) (o : Obj) (image : Bool) : Bool :=
  let cellNode := match o.node with | .cell _ _ => true | _ => false
  (decide (1 ≤ s.bootStep ∧ s.bootStep ≤ 4) && cellNode) ||
    (r.wr && s.booting && ! image && decide (o.idx = 0x1008) && decide (o.sub ≠ 8)) ||
    (r.wr && decide ((objBase o.idx).1 = 0x6100) && decide (o.sub ≤ 9) && decide (s.reg .engine 0 o.idx 0x0A = 1)) ||
    (r.wr && decide (o.idx = 0xA001) && s.eng.freqReqs.any (fun q => decide (o.node = .field q.1)))

/-! ### The checks in order (R394) -/

/-- Does the access code permit the operation (R377)? FENCE of a field or of the engine takes no write (R367). -/
def accessOk (q : ObjRow) (o : Obj) (wr : Bool) : Bool :=
  match q.acc with
  | .ro => ! wr
  | .rc => ! wr
  | .wo => wr
  | .rw => ! (wr && (decide (o.idx = 0x8110) || decide (o.idx = 0x8140)) && decide (o.sub = 0x0B))
  | .w1c => true

/-- Does TLEN suit the type, and TOFF (R376)? -/
def typeOk (q : ObjRow) (r : DictReq) : Bool :=
  (if q.ty.isBlob then decide (0 < r.tlen) else decide (r.tlen = 0)) &&
    (match q.ty with
     | .table _ _ _ => true
     | _ => decide (r.toff = 0))

/-- Is the node awake for this access (R390)? -/
def State.awake (s : State) (o : Obj) : Bool :=
  match s.enginePower with
  | 1 => match o.node with
    | .cell _ _ => false
    | _ => true
  | 2 => decide (o.idx / 4096 = 1) || decide (o.idx / 4096 = 10)
  | _ => true

/-- Is a write of a cell node refused because its router is a hole (R375)? -/
def State.notHere (s : State) (o : Obj) : Bool :=
  match o.node with
  | .cell x y => s.isHole ⟨x, y⟩ && ! isFault o.idx && decide (o.idx < 0xF000)
  | _ => false

/-- Do TOFF and TLEN name whole entries inside the object's capacity, and are the bytes of a written string printable (R376)? The boot
image writes a table of any size at once (R440). -/
def State.blobRange (s : State) (q : ObjRow) (r : DictReq) (o : Obj) (image : Bool) : Bool :=
  let z := s.tabShape o
  let body := (r.data.reverse.dropWhile (· == 0)).reverse
  decide (r.toff % z.1 = 0) && decide (r.tlen % z.1 = 0) && (image || decide (r.tlen ≤ 4096)) && decide (r.toff + r.tlen ≤ z.2) &&
    (match q.ty with
     | .str _ => ! r.wr || body.all (fun b => decide (0x20 ≤ b.toNat) && decide (b.toNat ≤ 0x7E))
     | _ => true)

/-- Checks 1 to 9 of R394: the object to act on, or the first failure. -/
def State.checkReq (s : State) (r : DictReq) (image : Bool) : Except DictFail Obj :=
  match s.reqNode r with
  | .error d => .error (dictRef d)
  | .ok n =>
    let o := s.reqObj r n
    match objRow o.idx o.sub with
    | none => .error (dictRef 0x10)
    | some q =>
      let blob := q.ty.isBlob
      if ! s.defined o then .error (dictRef 0x10)
      else if ! s.tierOk r o then .error (8, 0)
      else if ! accessOk q o r.wr then .error (dictRef 0x11)
      else if ! typeOk q r then .error (dictRef 0x17)
      else if r.wr ∧ s.notHere o then .error (dictRef 0x1A)
      else if ! s.awake o then .error (dictRef 0x1C)
      else if r.wr ∧ (if blob then dataReserved o r.toff r.data else decide (r.value &&& q.reserved o.idx ≠ 0)) then .error (dictRef 0x13)
      else if (if blob then ! s.blobRange q r o image else r.wr && ! (q.valueOk r.value && s.ownRange r o)) then .error (dictRef 0x12)
      else if (r.wr && decide (q.app = .quiet) && ! s.scopeFrozen o) || s.objBusy r o image then .error (dictRef 0x14)
      else .ok o

end Sys2Proof.Machine
end

