-- ==== Sys2Proof/Machine/DualOps.lean ====
section
/-! DEFINITION. Sampled dual reduction at the primary root and the third millstone (R345 to R349), and pattern replay (R351,
R352). -/

namespace Sys2Proof.Machine

/-! ### The check hold and its captures (R345, R349) -/

/-- The slice held at a router, if it is. -/
def State.hold? (s : State) (c : Coord) (i : SliceId) : Option HoldEnt := (s.coll c).holds.find? (fun h => h.id == i)

/-- Replace a held slice. -/
def State.putHold (s : State) (c : Coord) (h : HoldEnt) : State :=
  s.modColl c (fun q => { q with holds := q.holds.map (fun x => if x.id = h.id then h else x) })

/-- Free a hold record. -/
def State.dropHold (s : State) (c : Coord) (i : SliceId) : State :=
  s.modColl c (fun q => { q with holds := q.holds.filter (fun x => x.id != i) })

/-- Read a hold record back by its CRC (R345). -/
def State.holdRead (s : State) (c : Coord) (h : HoldEnt) : Option Part × State :=
  match s.arm? h.id.ctx with
  | none => (none, s)
  | some m =>
    let a := m.holdAddr + 2304 * h.recNo
    let s := s.issueRead c a 2304 .held
    (if s.memBad c a 2304 then none else readRecord (s.spec h.id.ctx) (s.memRead c a 2304), s)

/-- The lowest element whose accumulator or status differs between two partials (R349). -/
def firstDiff (a : Spec) (p q : Part) : Option Nat :=
  (List.range (32 * a.blocks)).find? (fun e =>
    let x := p.blk (e / 32)
    let y := q.blk (e / 32)
    x.vals.getD (e % 32) 0 != y.vals.getD (e % 32) 0 || nth x.sts (e % 32) 0 != nth y.sts (e % 32) 0)

/-- An element's accumulator as the 64 bits of a capture record: sign-extended, or zero-extended for MAX and MIN of FP32 (R349). -/
def capVal (a : Spec) (p : Part) (e : Option Nat) : Nat :=
  match e with
  | some e =>
    let v := (p.blk (e / 32)).vals.getD (e % 32) 0
    ofSigned 64 (if ! a.packed && isIntFmt a.fin then toSigned (fmtBits a.fin) v.toNat else v)
  | none => 0

/-- An element's status in a partial. -/
def capSt (p : Part) (e : Option Nat) : Nat :=
  match e with
  | some e => nth (p.blk (e / 32)).sts (e % 32) 0
  | none => 0

/-- The capture record of a comparison that found the images unequal (R349), pending. -/
def State.capture (s : State) (c : Coord) (i : SliceId) (p q : Part) : State :=
  let a := s.spec i.ctx
  let e := firstDiff a p q
  let word := fun (o : Option Coord) => match o with
    | some d => addrWord (s.pondAddr d)
    | none => 0
  s.pushRec (cellNode c) 0 0x8020 9 16 (pack [(0, 12, i.ctx), (12, 8, i.epoch), (20, 20, i.k), (40, 9, e.getD 0),
    (52, 2, capSt p e), (54, 2, capSt q e), (60, 1, b2n e.isNone), (64, 32, addrWord (s.pondAddr c)),
    (96, 32, word (s.checkRoot i.ctx i.epoch i.k)), (128, 32, word (s.thirdMill i.ctx i.epoch i.k)),
    (160, 32, imageCrc a p), (192, 32, imageCrc a q), (256, 64, capVal a p e), (320, 64, capVal a q e)])

/-- Complete the pending capture record of a slice at its verdict (R349). `t` is the third partial, if one arrived. -/
def State.captureEnd (s : State) (c : Coord) (i : SliceId) (verdict : Nat) (t : Option Part) : State :=
  let a := s.spec i.ctx
  let f := s.fieldOf c
  s.setRecs (cellNode c) 0 0x8020 9 ((s.recList (cellNode c) 0 0x8020 9).map (fun w =>
    if bits w 0 12 = i.ctx ∧ bits w 12 8 = i.epoch ∧ bits w 20 20 = i.k ∧ bits w 49 3 = 0 then
      let e := if bit w 60 then none else some (bits w 40 9)
      w + pack [(49, 3, verdict), (56, 2, match t with | some p => capSt p e | none => 0), (58, 1, b2n (s.stretchFlag f)),
        (59, 1, b2n (s.heldFlag f)), (224, 32, match t with | some p => imageCrc a p | none => 0),
        (384, 64, match t with | some p => capVal a p e | none => 0), (448, 64, s.ft f)]
    else w))

/-! ### Verdicts (R346, R348) -/

/-- A strike of R346 against the millstone of a router: the lane of the first differing element, or both lanes. A MISMATCH that an injection
with NO_STRIKE caused sets STATUS alone (R373). -/
def State.dualStrike (s : State) (c : Coord) (i : SliceId) (e : Option Nat) : State :=
  let quiet := s.eng.quiet.contains i
  match e with
  | some e => s.strikeOr quiet (laneBlock c (e / 32 % 2)) 0 (e / 32 % 2) 0
  | none => (s.strikeOr quiet (laneBlock c 0) 0 0 0).strikeOr quiet (laneBlock c 1) 0 1 0

/-- Strike the millstone of a router that may not exist. -/
def State.dualStrike? (s : State) (o : Option Coord) (i : SliceId) (e : Option Nat) : State :=
  match o with
  | some c => s.dualStrike c i e
  | none => s

/-- Emit UNRESOLVED (R346): a poison RESULT with INC, CTX_STATUS cause 1, CTX_STATE FAILED, and ENGINE_SUSPECT (R371). -/
def State.unresolved (s : State) (c : Coord) (i : SliceId) : State :=
  let a := s.spec i.ctx
  let n := cellNode c
  let s := s.bump n 0 0x8020 6 1
  let bs := List.replicate a.blocks (⟨0, List.replicate 32 0, List.replicate 32 0⟩ : Blk)
  let s := s.sendResult c i a.fout (s.geo i.ctx).n bs 32 true
  ((s.ctxFailure c i.ctx 1).setReg n i.ctx 0x5000 0x1E 3).suspect 1

/-- Settle a held slice: its record is free, and the held or third partial is emitted. -/
def State.settleHold (s : State) (c : Coord) (i : SliceId) (sub : Nat) (p : Part) : State :=
  (((s.dropHold c i).bump (cellNode c) 0 0x8020 sub 1).emitSlice c i p)

/-- A held slice whose record fails its CRC ends UNRESOLVED with no strike (R345). The verdict code of a capture that is
already pending is one of the two UNRESOLVED codes, unstated which (log 1). -/
def State.lostHold (s : State) (c : Coord) (i : SliceId) : State :=
  let f := s.fresh
  ((f.2.dropHold c i).captureEnd c i (3 + f.1 % 2) none).unresolved c i

/-- The THIRD_WAIT row of R346: the primary root and the check root are struck, and the slice is UNRESOLVED. -/
def State.noThird (s : State) (c : Coord) (h : HoldEnt) : State :=
  let i := h.id
  let s := (s.dropHold c i).captureEnd c i 4 none
  ((s.dualStrike c i h.element).dualStrike? (s.checkRoot i.ctx i.epoch i.k) i h.element).unresolved c i

/-- Broadcast the recheck notice (R347). -/
def State.recheckNotice (s : State) (c : Coord) (i : SliceId) : State :=
  let h : CollHdr := ⟨0x23, s.pondAddr c, s.srcOf c 0, 0, i.ctx, i.epoch, 0, 0, true⟩
  s.sendPkt c (piecePacket h 0x12 (s.geo i.ctx).n ⟨i.k, 0, [⟨0, List.replicate 32 0, List.replicate 32 0⟩], 0⟩) false

/-- The check partial of a held slice is complete (R346, rows of AWAIT_CHECK). -/
def State.checkVerdict (s : State) (c : Coord) (h : HoldEnt) : State :=
  let i := h.id
  let a := s.spec i.ctx
  let q := h.check
  let r := s.holdRead c h
  let s := r.2
  match r.1 with
  | none => s.lostHold c i
  | some p =>
    if q.flags / 32 % 2 = 1 ∨ q.count ≠ (s.geo i.ctx).n then s.settleHold c i 3 p
    else if imageCrc a p = imageCrc a q then s.settleHold c i 2 p
    else
      let due := s.time + (match s.arm? i.ctx with | some m => us m.thirdWait | none => 0)
      let h := { h with third := true, element := firstDiff a p q, deadline := due }
      let s := (s.capture c i p q).putHold c h
      match s.thirdMill i.ctx i.epoch i.k with
      | none => (s.recheckNotice c i).noThird c h
      | some _ => s.recheckNotice c i

/-- The third partial of a held slice is complete (R346, rows of AWAIT_THIRD; R347 for one that its lease completed). -/
def State.thirdVerdict (s : State) (c : Coord) (h : HoldEnt) : State :=
  let i := h.id
  let a := s.spec i.ctx
  let t := h.thirdP
  let r := s.holdRead c h
  let s := r.2
  if t.count ≠ (s.geo i.ctx).n then s.noThird c h
  else match r.1 with
    | none => s.lostHold c i
    | some p =>
      let check := s.checkRoot i.ctx i.epoch i.k
      if imageCrc a t = imageCrc a p then
        (((s.captureEnd c i 1 (some t)).dualStrike? check i h.element).settleHold c i 4 p)
      else if imageCrc a t = imageCrc a h.check then
        (((s.captureEnd c i 2 (some t)).dualStrike c i h.element).settleHold c i 5 t)
      else
        let s := (s.dropHold c i).captureEnd c i 3 (some t)
        (((s.dualStrike c i h.element).dualStrike? check i h.element).dualStrike? (s.thirdMill i.ctx i.epoch i.k) i h.element).unresolved c i

/-- One piece of a check or third partial at the primary root (R346): a slice's partial may come in several packets, and is
compared when every block of it is there. A partial after the verdict is counted. -/
def State.partialPiece (s : State) (c : Coord) (third : Bool) (i : SliceId) (q : Part) (last : Bool) : State :=
  match s.hold? c i with
  | none => if last then s.bump (cellNode c) 0 0x8020 0x0C 1 else s
  | some h =>
    if h.third ≠ third then s
    else
      let put := fun (p : Part) => match p.join (s.spec i.ctx) 1 q with
        | some z => z.1
        | none => p
      let h := if third then { h with thirdP := put h.thirdP } else { h with check := put h.check }
      let s := s.putHold c h
      if (if third then h.thirdP else h.check).cells.all Option.isSome then
        if third then s.thirdVerdict c h else s.checkVerdict c h
      else s

/-- Has the primary root completed every slice that a packet names, so that none of its partials comes too early? -/
def State.slicesDone (s : State) (c : Coord) (t : CollTail) : Bool :=
  (List.range t.nsl).all (fun j => (s.coll c).done.contains (1, ⟨t.ctx, t.epoch, t.slice + j⟩))

/-- CHECK_PARTIAL_ARRIVE and THIRD_PARTIAL_ARRIVE (R346, *Roles of CHECK packets*). A partial that comes before the primary
slice has completed waits in its lane (log 35). -/
def State.partialAt (s : State) (c : Coord) (third : Bool) (p : Packet) : State :=
  let t := collTail p
  let a := s.spec t.ctx
  let from_ := if third then s.thirdMill t.ctx t.epoch t.slice else s.checkRoot t.ctx t.epoch t.slice
  if p.typ ≠ 0x24 ∨ from_ ≠ some (srcCell p.src) ∨ s.rootFor 1 t.ctx t.epoch t.slice ≠ some c ∨ (s.arm? t.ctx).isNone ∨
      ! s.slicesDone c t then s
  else
    let s := s.takePkt p
    if ! payloadOk p then s.checkFault c p
    else (packetPieces a [a.wire] p).foldl (fun s kp => match kp.2 with
      | some pc =>
        let q := pc.part a t.count
        s.partialPiece c third ⟨t.ctx, t.epoch, kp.1⟩ q (q.cells.getLastD none).isSome
      | none => s.refusePiece c false) s

/-- CHECK_WAIT_EXPIRY (R346). -/
def State.checkWaitEnd (s : State) (c : Coord) (i : SliceId) : State :=
  match s.hold? c i with
  | none => s
  | some h =>
    if h.third then s
    else
      let r := ({ s with time := max s.time h.deadline } : State).holdRead c h
      match r.1 with
      | some p => r.2.settleHold c i 3 p
      | none => r.2.lostHold c i

/-- THIRD_WAIT_EXPIRY (R346). -/
def State.thirdWaitEnd (s : State) (c : Coord) (i : SliceId) : State :=
  match s.hold? c i with
  | none => s
  | some h => if h.third then ({ s with time := max s.time h.deadline } : State).noThird c h else s

/-- A member's second reading of a contribution for the third computation (R347) begins. -/
def State.recheckOwn (s : State) (c : Coord) (i : SliceId) : State :=
  match s.dep? c i, s.thirdMill i.ctx i.epoch i.k with
  | some d, some _ =>
    if ! d.sent ∨ d.failed then s
    else ((s.modDep c i (fun d => { d with third := true, asked := none, read := false })).askOwn c i false false)
  | _, _ => s

/-- The second reading is in (R347): verified, converted on the slice's anchors, and sent with COUNT 1. One whose read or check fails sends
nothing. -/
def State.thirdRead (s : State) (c : Coord) (tag k : Nat) (bad : Bool) : State :=
  match (s.coll c).deps.find? (fun d => d.tag == tag && d.k == k && ! d.closed) with
  | none => s
  | some d =>
    let i : SliceId := ⟨d.ctx, d.epoch, d.k⟩
    if ! d.third ∨ (! bad ∧ ! s.depIn c tag k) then s
    else
      let a := s.spec i.ctx
      let s := s.modDep c i (fun d => { d with third := false })
      match s.anchorsAt c i, s.thirdMill i.ctx i.epoch i.k with
      | some anch, some third =>
        if bad then s.faultEvent (routerBlock c) 5 0 (tag % 65536)
        else if (blocksOf d.addr (sliceBytes a.fin)).any (fun b => ! s.blockGood c b) then s.faultEvent (routerBlock c) 4 0 (tag % 65536)
        else
          let raw := s.depBytes c { d with raw := none }
          let bs := (List.range a.blocks).map (fun j => ownBlk a raw (nth anch j 0) j)
          let p : Part := ⟨bs.map (fun b => some (b.1, 1)), bs.foldl (fun f b => f ||| b.2) 0⟩
          let s := s.bump (cellNode c) 0 0x4070 5 ((List.range a.blocks).foldl (fun n j => n + saturations a raw (nth anch j 0) j) 0)
          (s.millFlags c p.flags).sendPart c ⟨0x24, s.pondAddr third, s.srcOf c 0, d.tag, i.ctx, i.epoch, 0, 1, true⟩ a.wire i.k p
      | _, _ => s

/-- RECHECK_NOTICE_RECEIVE (R347). -/
def State.recheckAt (s : State) (c : Coord) (p : Packet) : State :=
  let t := collTail p
  if p.typ ≠ 0x23 ∨ ! t.pass ∨ (s.arm? t.ctx).isNone then s
  else (List.range t.nsl).foldl (fun s j => s.recheckOwn c ⟨t.ctx, t.epoch, t.slice + j⟩) (s.takePkt p)

/-! ### Pattern replay (R351, R352) -/

/-- What a pattern of the library shows at one element of a lane (R351): width code, expected result and operand A. What the
16 built-in patterns hold is not stated: their operands are free values of the widest kind. -/
def State.patternShown (s : State) (k e : Nat) : (Nat × Nat × Nat) × State :=
  if k < 16 then
    let good := s.fresh
    let opa := good.2.fresh
    ((0, good.1, opa.1), opa.2)
  else
    let t := s.tabBytes .engine 0 0x8030 1 (776 * (k - 16)) 776
    let word := fun i => leNat ((t.drop (8 + 256 * i + 8 * e)).take 8)
    ((bits (leNat (t.take 1)) 2 2, word 2, word 0), s)

/-- A lane's value as a capture record holds it: AC32 sign-extended, FP32 zero-extended (R349). -/
def patternVal (width v : Nat) : Nat :=
  if width = 0 then v % 2 ^ 64 else if width = 1 then ofSigned 64 (toSigned 32 (v % 2 ^ 32)) else v % 2 ^ 32

/-- One pattern on one lane (R352 steps 2 and 3): an injection armed there goes into one result, at an element that the spec
does not name. Does the lane differ? -/
def State.patternLane (s : State) (c : Coord) (lane k : Nat) : Bool × State :=
  let n := cellNode c
  if ! bit (s.reg n 0 0x4070 6) lane then (false, s)
  else
    let x := s.takeInject n 6 lane
    match x.1 with
    | none => (false, x.2)
    | some pat =>
      let e := x.2.fresh
      let sh := e.2.patternShown k (e.1 % 32)
      let w := sh.1.1
      if pat.1 % (if w = 0 then 2 ^ 64 else 2 ^ 32) = 0 then (false, sh.2)
      else
        let f := sh.2.fieldOf c
        let s := sh.2.pushRec n 0 0x8020 9 16 (pack [(20, 20, k), (40, 9, e.1 % 32), (49, 3, 5), (58, 1, b2n (s.stretchFlag f)),
          (59, 1, b2n (s.heldFlag f)), (64, 32, addrWord (s.pondAddr c)), (256, 64, patternVal w (sh.1.2.1 ^^^ pat.1)),
          (320, 64, patternVal w sh.1.2.1), (384, 64, patternVal w sh.1.2.2), (448, 64, s.ft f)])
        (true, s.strikeOr pat.2 (laneBlock c lane) 1 lane 0)

/-- One replay of the library at a millstone (R352): the built-in patterns and the user entries in order, each on every live
lane, as one event (log 121). A lane that differs in any of them takes its strike and its capture record; the replay then
counts once in REPLAY_FAILS. -/
def State.replay (s : State) (c : Coord) : State :=
  let n := cellNode c
  let runs := (List.range (16 + s.tabHeld .engine 0 0x8030 1 776)).flatMap (fun k => [(k, 0), (k, 1)])
  let r := runs.foldl (fun (r : Bool × State) kl =>
    let x := r.2.patternLane c kl.2 kl.1
    (r.1 || x.1, x.2)) (false, s.bump n 0 0x8020 0x0A 1)
  if r.1 then r.2.bump n 0 0x8020 0x0B 1 else r.2

/-- PATTERN_REPLAY (R352): in Breeze, with REPLAY_ENABLE. -/
def State.patternReplay (s : State) (c : Coord) : State :=
  if s.power (s.fieldOf c) = 1 ∧ s.reg .engine 0 0x8001 6 = 1 ∧ ! s.isHole c then s.replay c else s

end Sys2Proof.Machine
end

