-- ==== Sys2Proof/Machine/DictWrite.lean ====
section
/-! DEFINITION. What an accepted LIVE, QUIET or BOOT write does (R379 to R381), object by object: those with an effect of their own,
and the plain ones, whose value is stored. -/

namespace Sys2Proof.Machine

/-- A write that is done. -/
def rspOk : Rsp := ⟨0, 0, 0, []⟩

/-- A refusal with a DETAIL. -/
def rspRef (d : Nat) : Rsp := ⟨2, d, 0, []⟩

/-- Store a scalar at its width (R376). -/
def State.storeReg (s : State) (o : Obj) (v : Nat) : State := s.setReg o.node o.inst o.idx o.sub (v % 2 ^ objWidth o.idx o.sub)

/-- Store bytes of a table from byte `a`; with TEND every later entry becomes empty (R376). The bytes held stand in the register file. -/
def State.storeBlob (s : State) (o : Obj) (a : Nat) (bs : List Byte) (tend : Bool) : State :=
  let e := objEmpty o.idx o.sub
  let n := a + bs.length
  let held := s.reg o.node o.inst o.idx o.sub
  let m := s.tab o.node o.inst o.idx o.sub
  let s := s.setTab o.node o.inst o.idx o.sub (Memory.writeN e (if tend then Memory.cut m n else m) a bs)
  s.setReg o.node o.inst o.idx o.sub (if tend then n else max held n)

/-- The cell whose signals and stamps a node's fault block names (R362). -/
def State.nodeBlock (s : State) (n : Node) (idx : Nat) : FaultBlock :=
  match n with
  | .engine => s.engineBlock
  | .field f => s.fieldBlock f
  | .cell x y => ⟨n, idx, ⟨x, y⟩⟩

/-- A W1C write of a fault STATUS (R363): bits whose cause is present are kept and shown in REFUSED_BITS. -/
def State.clearStatus (s : State) (n : Node) (idx v : Nat) : Rsp × State :=
  let old := s.reg n 0 idx 1
  let live := s.reg n 0 idx 2
  let kept := v &&& live
  let s := s.setReg n 0 idx 1 (old ^^^ (old &&& v &&& (live ^^^ 0xFFFFFFFF)))
  let s := s.setReg n 0 idx 0x0C kept
  (if kept = 0 then rspOk else rspRef 0x16, s)

/-- A write of INT_ENABLE (R362): a bit at 1 whose STATUS bit is already 1 raises one interrupt at once. -/
def State.enableInts (s : State) (n : Node) (idx v : Nat) : State :=
  let s := s.setReg n 0 idx 8 v
  if v &&& s.reg n 0 idx 1 = 0 then s else s.faultInt (s.nodeBlock n idx)

/-- A link port leaves a state that software ends: it goes to DOWN, or to DISABLED where its role is (R301, R336, R369). -/
def State.portFree (s : State) (p : Nat) : State := s.setPortState p (if bit (s.lport p 1) 4 then 0 else 1)

/-- A write of 0 to the FENCE of a fenced link port (R369). -/
def State.releasePort (s : State) (p : Nat) : State :=
  let b := s.linkBlock p
  let s := { s with strikes := SMap.put [] s.strikes (regKey b.node 0 b.idx 0) [] }
  let s := (((s.setReg b.node 0 b.idx 9 0).setReg b.node 0 b.idx 0x0B 0).faultLive b 3 false).faultLive b 2 false
  s.portFree p

/-- A write of FENCE (R367, R369). -/
def State.writeFence (s : State) (o : Obj) (v : Nat) : Rsp × State :=
  let fenced := decide (s.reg o.node 0 o.idx 0x0B = 1)
  if v = 1 then (rspOk, if fenced then s else (s.decideFence (s.nodeBlock o.node o.idx)).settle)
  else match s.portHere (nodeCell o.node) with
    | some p => if o.idx = 0x8130 then (rspOk, if fenced then s.releasePort p else s) else (rspRef 0x12, s)
    | none => (rspRef 0x12, s)

/-- A write of 0 to QUARANTINE (R336, R330). -/
def State.releaseQuarantine (s : State) (p : Nat) : State :=
  if s.portState p ≠ 7 then s
  else ((s.setReg (s.portNode p) 0 0x7030 0x0E 0).faultLive (s.linkBlock p) 2 false).portFree p

/-- A write of RETRAIN (R314, R319). -/
def State.writeRetrain (s : State) (p v : Nat) : State :=
  if v = 2 then s.rekeyStart p none
  else if 2 ≤ s.portState p ∧ s.portState p ≤ 5 then s.retrain p 13 else s

/-- A write of RELAY (R333, R313); none where the pair is not UP. -/
def State.writeRelay (s : State) (p v : Nat) : Option State :=
  if v = 0 then some (if s.portState p = 5 then s.relayOff p else s)
  else if s.portState p = 5 then some s
  else if s.relayReady p then some (s.relayOn p) else none

/-- A write of ROLE (R301, R313): a port that is no longer disabled is DOWN, a disabled one DISABLED. -/
def State.writeRole (s : State) (p v : Nat) : State :=
  let s := s.setReg (s.portNode p) 0 0x7010 1 v
  if bit v 4 then s.setPortState p 0 else if s.portState p = 0 then s.setPortState p 1 else s

/-- Change something that stops outputs of a field, and record the STOP events (R92, R432). -/
def State.restop (s : State) (cells : List Coord) (run : State → State) : State :=
  let old := cells.map (fun c => (c, (List.range 9).map (fun p => s.stopState c p)))
  old.foldl (fun (s : State) e => (List.range 9).foldl (fun (s : State) p => s.noteStop e.1 p (nth e.2 p 0)) s) (run s)

/-- A field TOLERANCE below the present state wakes the field (R406). -/
def State.writeTolerance (s : State) (f v : Nat) : State :=
  let s := s.setReg (.field f) 0 0xA010 1 v
  let level := match s.power f with
    | 1 => 1
    | 2 => 2
    | 3 => 2
    | _ => 0
  if s.target f < level then s.causeWake f 7 else s

/-- An engine TOLERANCE below the present state wakes the engine (R407, R409). -/
def State.writeEngTolerance (s : State) (v : Nat) : State :=
  let s := s.setReg .engine 0 0xA011 1 v
  let need := match s.enginePower with
    | 1 => 150
    | 2 => 5000
    | _ => 0
  if v < need then s.causeEngine 5 else s

/-- A write of FREQ (R398): the clock stops and the PLL relocks at the new M; the write is answered at the lock. -/
def State.writeFreq (s : State) (f : Nat) (r : DictReq) : State :=
  let s := (s.stopClock f).setReg (.field f) 0 0xA001 1 r.value
  { s with eng := { s.eng with freqReqs := s.eng.freqReqs ++ [(f, r)] } }

/-- The PLL of a field loses lock (R399): STATUS, and the clock stops. -/
def State.pllLoss (s : State) (f : Nat) : State :=
  if (s.field f).stopped then s
  else ((s.stopClock f).faultLive (s.fieldBlock f) 0 true).strike (s.fieldBlock f) 0 0 0

/-- A write of ARM (R373). Kind 9 takes its opportunity at once: the PLL of the node's field loses lock. -/
def State.writeArm (s : State) (n : Node) (v : Nat) : State :=
  let s := (s.setReg n 0 0xF010 5 v).setReg n 0 0xF010 7 0
  match s.takeInject n 9 0 with
  | (some (_, noStrike), t) =>
    let f := s.nodeField n
    if noStrike then
      if (t.field f).stopped then t else ((t.stopClock f).faultLive (t.fieldBlock f) 0 true).faultEvent (t.fieldBlock f) 0 0 0
    else (t.pllLoss f).settle
  | (none, t) => t

/-- A write of the select word of counter `i` (R425): the counter starts again at 0. -/
def State.writeSelect (s : State) (c : Coord) (i v : Nat) : State :=
  let s := (s.accrue (s.fieldOf c)).setReg (cellNode c) 0 0x9020 (1 + i) v
  s.setRecAt (cellNode c) 0 0x9020 0x11 16 i 0

/-- A write of a probe's ACTION (R427). -/
def State.writeAction (s : State) (o : Obj) (v : Nat) : State :=
  ((s.storeReg o v).setReg o.node 0 o.idx 0x0A 0).setRecs o.node 0 o.idx 0x0B []

/-- A write of a halt group's STATE (R433): field 0's agent cell sends HALT. -/
def State.writeHalt (s : State) (g v : Nat) : State :=
  let c := s.agentAt 0
  (s.setReg .engine 0 (0x9060 + g) 3 v).sendHalt c g (decide (v = 1)) (s.srcOf c 0)

/-- A write of FT_SET (R418): field 0 takes the value, and the next beacon steps every field. -/
def State.writeFt (s : State) (v : Nat) : State :=
  let s := s.stepField 0 ((v : Int) - (s.ft 0 : Int))
  { s with eng := { s.eng with beaconStep := true } }

/-- A write of a place in the engine rings: ENGINE, DIMS or SIZES (R320). New SIZES are yet to be established by discovery. -/
def State.writeRing (s : State) (sub v : Nat) : State :=
  let s := s.setReg .engine 0 0x7001 sub v
  let dims := s.reg .engine 0 0x7001 2
  let s : State := { s with route := { s.route with self := s.engine, dims := dims,
                                                    sizes := ringSizes dims (s.reg .engine 0 0x7001 3) } }
  if sub = 3 then { s with eng := { s.eng with discovered := false } } else s

/-- Starts a memory stream, or refuses: BUSY while a commit stages it (R386), RANGE for a bad field, an unstated detail for a drop that
is not live (R295, log 1). -/
def State.writeStart (s : State) (o : Obj) : Rsp × State :=
  let m := o.idx - 0x6100
  if s.inCommit o.idx 0 then (rspRef 0x14, s)
  else match s.strmCheck m with
    | 0 => (rspOk, s.strmStart m)
    | 1 => (rspRef 0x12, s)
    | _ => let f := s.fresh; (rspRef (f.1 % 256), f.2)

/-- A write of TBL_CLOSE at the lead drop (R292): refused with BUSY while FLUSHING, with RANGE where it is not the open epoch; accepted,
it is answered at the end of the flush. -/
def State.writeClose (s : State) (o : Obj) (r : DictReq) : Option Rsp × State :=
  match s.leadDrop (s.tbl o.inst) with
  | none => (some (rspRef 0x10), s)
  | some (st, d) =>
    if s.reg o.node o.inst 0x6000 0x0A = 2 then (some (rspRef 0x14), s)
    else if r.value ≠ s.reg o.node o.inst 0x6000 0x0B then (some (rspRef 0x12), s)
    else (none, s.closeEpoch st d o.inst r.value r)

/-- A write that RESTART accepts (R437), else BUSY. -/
def State.writeRestart (s : State) : Rsp × State := if s.mayRestart then (rspOk, s.restart) else (rspRef 0x14, s)

/-- A write of DRAIN (R372): BUSY while DRAIN runs or after DRAINED. -/
def State.writeDrain (s : State) : Rsp × State :=
  if s.reg .engine 0 0x8140 0x14 ≠ 0 then (rspRef 0x14, s) else (rspOk, s.drainStart)

/-- A write of fault status or of a fence, at any block. -/
def State.writeFault (s : State) (o : Obj) (v : Nat) : Rsp × State :=
  match o.sub with
  | 1 => s.clearStatus o.node o.idx v
  | 8 => (rspOk, s.enableInts o.node o.idx v)
  | 0x0B => s.writeFence o v
  | 0x11 => (rspOk, s.suspect 3)
  | 0x13 => s.writeDrain
  | _ => (rspOk, s.storeReg o v)

/-- A write of a table or string that is not staged (R376): a counter of TALLY is written as a SWAP (R156). -/
def State.writeBlob (s : State) (r : DictReq) (o : Obj) : Rsp × State :=
  let s := s.storeBlob o r.toff r.data r.tend
  let s := if o.idx = 0x3020 then s.bump o.node 0 0x3020 2 (r.tlen / 8) else s
  (⟨0, 0, r.tlen, []⟩, s)

/-- A scalar write at a cell node. -/
def State.writeCell (s : State) (r : DictReq) (o : Obj) : Option Rsp × State :=
  let v := r.value
  let b := objBase o.idx
  let c := nodeCell o.node
  let p := (s.portHere c).getD 0
  let ok := fun (s : State) => (some rspOk, s)
  let code := fun (x : Nat × State) => (some (if x.1 = 0 then rspOk else rspRef x.1), x.2)
  let opt := fun (x : Rsp × State) => (some x.1, x.2)
  if isFault o.idx then opt (s.writeFault o v)
  else match b.1, o.sub with
    | 0x4001, i => ok (s.setRecs o.node 0 0x4001 i [v])
    | 0x4030, 5 => ok (s.restop [c] (fun s => s.storeReg o v))
    | 0x4070, 1 => ok (s.setReg o.node 0 0x4070 1 (let w := s.reg o.node 0 0x4070 1; w ^^^ (w &&& v)))
    | 0x4100, 1 => code (s.chanStateWrite c b.2 v)
    | 0x4100, 9 => code (s.chanHeadWrite c b.2 v)
    | 0x6000, 0x0C => s.writeClose o r
    | 0x7010, 1 => ok (s.writeRole p v)
    | 0x7010, 4 => match s.writeRelay p v with
      | some t => ok t
      | none => let f := s.fresh; (some (rspRef (f.1 % 256)), f.2)
    | 0x7010, 0x0E => ok (s.writeRetrain p v)
    | 0x7030, 0x0E => ok (s.releaseQuarantine p)
    | 0x8020, 0x0D => ok (s.replay c)
    | 0x9010, 8 => ok (s.writeAction o v)
    | 0x9020, i => ok (if i ≤ 0x10 then s.writeSelect c (i - 1) v else s.storeReg o v)
    | 0x9040, 3 => ok (if v = 1 then s.freezeRing c 2 else s.setReg o.node 0 0x9040 3 0)
    | 0xF010, 5 => ok (s.writeArm o.node v)
    | _, _ => ok (s.storeReg o v)

/-- A scalar write at a field node. -/
def State.writeField (s : State) (r : DictReq) (f : Nat) (o : Obj) : Option Rsp × State :=
  let v := r.value
  let ok := fun (s : State) => (some rspOk, s)
  if isFault o.idx then let x := s.writeFault o v; (some x.1, x.2)
  else match o.idx, o.sub with
    | 0x3010, 1 => ok (s.restop (s.fieldCells f) (fun s => s.storeReg o v))
    | 0xA001, 1 => (none, s.writeFreq f r)
    | 0xA010, 1 => ok (s.writeTolerance f v)
    | _, _ => ok (s.storeReg o v)

/-- A scalar write at the engine node. -/
def State.writeEngine (s : State) (r : DictReq) (o : Obj) : Option Rsp × State :=
  let v := r.value
  let b := objBase o.idx
  let ok := fun (s : State) => (some rspOk, s)
  let opt := fun (x : Rsp × State) => (some x.1, x.2)
  if isFault o.idx then opt (s.writeFault o v)
  else match b.1, o.sub with
    | 0x1008, 8 => opt s.writeRestart
    | 0x6100, 9 => opt (s.writeStart o)
    | 0x7001, i => ok (s.writeRing i v)
    | 0x9000, 2 => ok (s.allRings (decide (v = 1)))
    | 0x9030, 1 => ok (s.sweepEnable (decide (v = 1)))
    | 0x9060, 3 => ok (s.writeHalt b.2 v)
    | 0xA011, 1 => ok (s.writeEngTolerance v)
    | 0xA011, 5 => ok (s.causeEngine 3)
    | 0xA030, 2 => ok (s.writeFt v)
    | 0xA100, 1 => ok ((s.storeReg o v).setReg .engine 0 o.idx 5 1)
    | _, _ => ok (s.storeReg o v)

/-- An accepted write that is not staged (R379 to R381): its answer, none where a later event gives it, and its effect. A write at a
cell node is recorded in the node's ring (R432). -/
def State.writeNow (s : State) (r : DictReq) (o : Obj) : Option Rsp × State :=
  let blob : Bool := match objRow o.idx o.sub with
    | some q => q.ty.isBlob
    | none => false
  let x : Option Rsp × State :=
    if isWindow o.idx ∧ o.sub = 1 then (some rspOk, s.setSelection r.who o.node o.idx r.value)
    else if blob then let y := s.writeBlob r o; (some y.1, y.2)
    else match o.node with
      | .engine => s.writeEngine r o
      | .field f => s.writeField r f o
      | .cell _ _ => s.writeCell r o
  match o.node, x.1 with
  | .cell a b, some ⟨0, _, _, _⟩ => (x.1, x.2.ringEvent ⟨a, b⟩ 9 0 (o.idx + 65536 * o.sub + 2 ^ 24 * (s.reg .engine 0 0x2002 1 % 2 ^ 24)))
  | _, _ => x

end Sys2Proof.Machine
end

