-- ==== Sys2Proof/Machine/DictCommit.lean ====
section
/-! DEFINITION. Commit groups (R382 to R386): staging, the refusal rules that a commit evaluates over the whole group (R84, R150,
R187, R198, R214, R251, R282, R333, R340, R350, R351, R413, R428, R431, R433), and what applying a group does. -/

namespace Sys2Proof.Machine

/-! ### Answers (R387, R388) -/

/-- The answer of a request, from the agent cell of its node's field (R388, R389; it names no origin, log 42). -/
def State.dictAnswer (s : State) (r : DictReq) (a : Rsp) : State :=
  let n := if r.wr then (if a.status = 0 then r.tlen else 0) else a.data.length
  s.maintSig (s.agentAt (s.reqField r)) (.dictRsp (reqReply r a.status a.detail n a.value a.data))

/-! ### Staging (R382) -/

/-- The open group of a requester. -/
def State.group? (s : State) (w : Requester) : Option Group := s.eng.groups.find? (fun g => g.who == w)

/-- Replace the open groups. -/
def State.setGroups (s : State) (gs : List Group) : State := { s with eng := { s.eng with groups := gs } }

/-- Does a staged write concern an object? -/
def Staged.of (w : Staged) (o : Obj) : Bool := decide (w.node = o.node ∧ w.inst = o.inst ∧ w.idx = o.idx ∧ w.sub = o.sub)

/-- The object of a staged write. -/
def Staged.obj (w : Staged) : Obj := ⟨w.node, w.inst, w.idx, w.sub⟩

/-- Stage a write (R382), or refuse it with GROUPS_FULL at 64 groups or 256 writes of the agent. A scalar or STR replaces an earlier
write of the same object. -/
def State.stage (s : State) (r : DictReq) (o : Obj) : Rsp × State :=
  let ty : Option OTy := (objRow o.idx o.sub).map ObjRow.ty
  let blob : Bool := match ty with | some t => t.isBlob | none => false
  let tab : Bool := match ty with | some (.table _ _ _) => true | _ => false
  let w : Staged := ⟨o.node, o.inst, o.idx, o.sub, r.value, blob, r.toff, r.data, r.tend⟩
  let old := s.group? r.who
  let g : Group := old.getD ⟨r.who, s.time, []⟩
  let kept := if tab then g.writes else g.writes.filter (fun x => ! x.of o)
  let others := s.eng.groups.filter (fun x => x.who != r.who)
  let f := s.nodeField o.node
  let mine := fun (l : List Staged) => (l.filter (fun x => decide (s.nodeField x.node = f))).length
  if (old.isNone ∧ 64 ≤ others.length) ∨ 256 ≤ others.foldl (fun n x => n + mine x.writes) (mine kept) then (rspRef 0x18, s)
  else (⟨0, 0, r.tlen, []⟩, s.setGroups (others ++ [{ g with writes := kept ++ [w] }]))

/-! ### The state that a group would produce -/

/-- One staged write over the values in force. A slot table is kept beside the one in force until the next period k with k mod 256 = 0
(R86). -/
def State.applyStaged (s : State) (w : Staged) : State :=
  if (objBase w.idx).1 = 0x4040 ∧ w.sub = 1 then
    let c := nodeCell w.node
    let p := w.idx - 0x4040
    let t := (s.outp c p).slots.getD (s.tabBytes w.node 0 w.idx 1 0 256)
    let end_ := w.off + w.data.length
    let rest := if w.tend then List.replicate (256 - end_) (objEmpty w.idx 1) else t.drop end_
    let f := s.fieldOf c
    let due := s.fcTime f ((s.fcCount f / 1024 + 1) * 1024)
    s.modOut c p (fun o => { o with slots := some ((t.take w.off ++ w.data ++ rest).take 256), slotsAt := due })
  else if w.blob then s.storeBlob w.obj w.off w.data w.tend
  else s.storeReg w.obj w.value

/-- The window numbers of an object that a group stages. -/
def Group.insts (g : Group) (idx : Nat) : List Nat := ((g.writes.filter (fun w => w.idx == idx)).map Staged.inst).eraseDups

/-- Arm a context with the values in force (R213, R215, R340): its holes, DUAL_CONFIG, and N. -/
def State.armCtx (s : State) (k : Nat) : State :=
  let g := fun sub => s.reg .engine 0 0x8001 sub
  let s : State := { s with armed := SMap.put none s.armed k (some ⟨s.holes.map HoleRec.c, g 1, g 2, g 3, g 4⟩) }
  s.setReg .engine k 0x5000 0x1F (s.geo k).members.length

/-- The values that the whole group would produce (R383), with its contexts as they would be armed. -/
def State.wouldBe (s : State) (g : Group) : State :=
  (g.insts 0x5000).foldl State.armCtx (g.writes.foldl State.applyStaged s)

/-! ### Refusal rules, by object -/

/-- The first code of a list of (condition, code) that holds, 0 for none. Code 256 stands for a refusal whose reason the spec does not
state. -/
def firstBad (l : List (Bool × Nat)) : Nat :=
  match l.find? (fun b => b.1) with
  | some b => b.2
  | none => 0

/-- Do two ranges of bytes overlap? -/
def overlap (a n b m : Nat) : Bool := decide (0 < n ∧ 0 < m ∧ a < b + m ∧ b < a + n)

/-- Does a range of a cell's memory pass its end or meet the cell's block-check table (R40)? -/
def State.badRange (s : State) (c : Coord) (a n : Nat) : Bool :=
  decide (0 < n) && (decide (cellBytes < a + n) || overlap a n (s.reg (cellNode c) 0 0x4002 1) 512)

/-- A permitted combination of R187: operation, anchor mode, formats and accumulator. -/
def Spec.permitted (a : Spec) : Bool :=
  let float := isElemFmt a.fin && ! isIntFmt a.fin
  let outFloat := isElemFmt a.fout && ! isIntFmt a.fout
  let wide := decide (sliceElems a.fin = 256)
  let same := decide (sliceElems a.fin = sliceElems a.fout)
  isElemFmt a.fin &&
  (match a.op with
   | 0 =>
     if isIntFmt a.fin then decide (a.fout = a.fin) && decide (a.acc = if a.fin = 0x0A then 0x10 else 0x11)
     else float && outFloat && same && decide (a.acc = if a.mode = 2 then 0 else if wide then 0x10 else 0x11)
   | 6 => decide (a.fout = a.fin) && decide (a.acc = a.fin)
   | n =>
     if n ≤ 2 ∧ ! isIntFmt a.fin then outFloat && same && decide (a.acc = 0)
     else isIntFmt a.fin && decide (a.fout = a.fin) && decide (a.acc = a.fin)) &&
  (decide (a.carrier = 0) || (a.anchored && (decide (a.carrier = 0x13) || decide (a.carrier = 0x14))))

/-- The window of R188, where it is not ignored. -/
def windowOk (a : Spec) (w : Nat) : Bool :=
  ! a.anchored || decide (w = 0) || (if a.acc = 0x10 then decide (12 ≤ w ∧ w ≤ 44) else decide (4 ≤ w ∧ w ≤ 12))

/-- The roots of a context by CTX_ROOT and CTX_FORM (R214, R221): none where members own the slices or in EXCHANGE. -/
def Geo.namedRoots (g : Geo) : List Coord :=
  if g.pattern = 2 ∨ g.pattern = 3 ∨ g.pattern = 5 then []
  else if g.pattern ≠ 4 ∧ g.seg then g.cols.map (fun x => (⟨x, g.root.y⟩ : Coord))
  else [g.root]

/-- Is a cell inside a bounding rectangle? -/
def inBox (r : Nat × Nat × Nat × Nat) (c : Coord) : Bool :=
  decide (r.1 ≤ c.x) && decide (r.2.1 ≤ c.y) && decide (c.x ≤ r.2.2.1) && decide (c.y ≤ r.2.2.2)

/-- Is a context RUNNING at any node (R214, R217)? -/
def State.running (s : State) (k : Nat) : Bool :=
  s.colls.any (fun e => ! (s.openEpochs ⟨e.1 % 512, e.1 / 512⟩ k).isEmpty)

/-- Bytes of a member's output area (R244). -/
def State.outBytes (s : State) (k : Nat) : Nat :=
  let g := s.geo k
  let a := s.spec k
  if g.pattern = 5 then g.n * g.q * sliceBytes a.fin
  else (if g.pattern = 2 then g.q else g.slices) * sliceBytes a.fout

/-- Reserved bits of the header and level entries (R249). -/
def State.levelReserved (s : State) (k : Nat) : Bool :=
  (List.range (s.levels k + 1)).any (fun i =>
    (levelMapReserved i).any (fun f => decide (bits (s.tabNat .engine k 0x5000 0x16 (16 * i) 16) f.1 f.2 ≠ 0)))

/-- Does a field of the level map lie outside its stated range (R249)? -/
def State.levelRange (s : State) (k : Nat) : Bool :=
  let h := s.lvHead k
  let pat := s.ctx k 2
  let n := s.levels k
  decide (18 < bits h 8 5) ||
    (! (decide (pat = 0) || decide (pat = 4)) && decide (bits h 16 11 ≠ 0)) ||
    (if pat = 5 then decide (bits h 32 11 < 1 ∨ 1024 < bits h 32 11) else decide (bits h 32 11 ≠ 0)) ||
    (List.range n).any (fun i =>
      let v := s.lvEnt k (i + 1)
      decide (v.count < 2 ∨ s.dimSize v.dim < v.count ∨ v.count ≤ v.root ∨ 1000000 < v.wait ∨ v.lease < 10 ∨ 10000000 < v.lease) ||
        (decide (i + 1 < n) && decide (11 < v.head)))

/-- Would an excluded engine of the group be a level root for some slice (R251, R253)? At level 2 and above only level-1 roots are
members. -/
def State.exclBad (s : State) (k : Nat) : Bool :=
  let v := s.lvEnt k 1
  (s.lvExcl k).any (fun e =>
    (List.range (s.levels k)).all (fun i => decide (s.lvOffset k (i + 1) e < (s.lvEnt k (i + 1)).count)) &&
    (List.range 3).all (fun d => (List.range (s.levels k)).any (fun i => decide ((s.lvEnt k (i + 1)).dim = d)) ||
      decide (s.engCoord e d = s.engCoord s.engine d)) &&
    (List.range (min (s.ctx k 0x0D) (max 1 v.count))).any (fun j => decide (s.rho k 1 j = s.engCoord e v.dim)))

/-- The refusals of R251, for a context whose level map is not empty. -/
def State.levelBad (s : State) (k : Nat) : Nat :=
  let a := s.spec k
  let pat := s.ctx k 2
  let n := s.levels k
  let dims := (List.range n).map (fun i => (s.lvEnt k (i + 1)).dim)
  let floatSum := decide (a.op = 0) && ! isIntFmt a.fin
  let groupSize := (List.range n).foldl (fun g i => g * (s.lvEnt k (i + 1)).count) 1
  firstBad [
    (! s.eng.discovered, 256),
    (s.levelReserved k, 0x13),
    (decide (n = 0) || decide (s.reg .engine k 0x5000 0x16 ≠ 16 * (n + 1)), 256),
    (dims.any (fun d => decide (s.reg .engine 0 0x7001 2 ≤ d)) || decide (dims.eraseDups.length ≠ n), 256),
    (s.levelRange k, 0x12),
    (! (List.range n).all (fun i => decide (s.lvOffset k (i + 1) s.engine < (s.lvEnt k (i + 1)).count)), 256),
    (decide (pat = 2) || decide (pat = 3), 256),
    (floatSum && decide (a.mode = 2), 256),
    (floatSum && decide (a.carrier = 0), 256),
    (decide (10000000 < s.levelLeases k + s.ctx k 0x14), 256),
    (s.exclBad k, 256),
    (decide (pat = 5) && (decide (s.reg .engine k 0x5000 0x1D = 0) || decide (bits (s.lvHead k) 32 11 < s.ctx k 0x1F) ||
      decide (cellBytes < s.ctx k 0x17 + groupSize * bits (s.lvHead k) 32 11 * s.segBytes k)), 256)]

/-- The refusals of a context (R187, R188, R198, R214, R251, R340): `s` holds the values in force, `t` those of the whole group. -/
def State.ctxBad (s t : State) (k : Nat) : Nat :=
  let g := t.geo k
  let a := t.spec k
  let root := addrOf (t.ctx k 0x0E)
  let box := boundingRect g.members
  let check := t.ctx k 0x15
  let spill := 2304 * t.ctx k 0x19
  let dests := (List.range (t.tabHeld .engine k 0x5000 0x1D 4)).map (fun i => addrOf (t.tabNat .engine k 0x5000 0x1D (4 * i) 4))
  let arm : ArmSt := (t.arm? k).getD ⟨[], 0, 0, 0, 0⟩
  firstBad [
    (s.running k, 256),
    (! a.permitted || ! windowOk a (t.ctx k 8), 256),
    (decide (t.ctx k 0x0D = 0), 0x12),
    (decide (g.n = 0), 256),
    (! g.namedRoots.all (fun c => inBox box c && ! g.holes.contains c), 256),
    (decide (root.eng ≠ s.engine) || decide (root.tgt ≠ 0) || decide (t.gy ≤ root.y) || (! g.seg && decide (t.gx ≤ root.x)), 256),
    (decide (g.pattern = 4) && ! g.member g.root, 256),
    (decide (a.op = 6) && decide (g.pattern ≤ 2), 256),
    (decide (3 ≤ g.pattern) && decide (a.op ≠ 6), 256),
    (decide (t.ctx k 0x14 < 2 * t.ctx k 0x13), 0x12),
    (decide (g.n ≠ 0) && decide (cellBytes < t.ctx k 0x17 + t.outBytes k), 256),
    (g.roots.any (fun c => t.badRange c (t.ctx k 0x18) spill), 256),
    ((decide (g.pattern = 2) || decide (g.pattern = 3) || decide (g.pattern = 5)) && decide (g.slices % g.n ≠ 0), 256),
    (decide (g.pattern = 5) && decide (1024 < g.n), 256),
    (dests.any (fun d => decide (d.tgt ≠ 0 ∧ d.tgt ≠ 4)), 256),
    (a.anchored && decide (a.mode = 1) && ! a.table && (decide (a.decl = 0) || decide (a.decl = 0xFF)), 256),
    (decide (check ≠ 0) && (decide (2 < g.pattern) || (decide (a.op = 0) && decide (a.mode = 2)) || decide (arm.holdRecs = 0) ||
      decide (t.ctx k 0x14 < 2 * (arm.checkWait + arm.thirdWait))), 256),
    (decide (t.reg .engine k 0x5000 0x16 ≠ 0) && decide (t.levelBad k ≠ 0), t.levelBad k)]

/-- The refusals of a barrier context (R150); a ROOT word with another engine or a TGT is refused too
(DEDUCED, log 128). -/
def State.barBad (s t : State) (k : Nat) : Nat :=
  let w := addrOf (t.reg .engine k 0x2200 2)
  let root := t.barRoot k
  let members := t.barMembers k
  firstBad [
    (decide (s.bar (s.barRoot k) k 0x0A = 2), 256),
    (! members.any (fun c => ! t.isHole c), 256),
    (decide (w.eng ≠ s.engine) || decide (w.tgt ≠ 0), 256),
    (t.isHole root || ! inBox (boundingRect members) root, 256)]

/-- Does any drop hold an accumulation entry, one being written back among them, or a granted scatter reservation of a descriptor
(R282)? -/
def State.tableHeld (s : State) (k : Nat) : Bool :=
  s.drops.any (fun e => e.2.acc.any (fun a => a.tdesc == k) || e.2.flushes.any (fun f => f.tdesc == k && f.cur.isSome) ||
    e.2.landing.rsvs.any (fun r => match r.kind with | .scatter _ t _ => decide (t = k) | _ => false))

/-- The refusals of a table descriptor (R282). DESIGN CHOICE (log 107): R, whose default 0 lies outside its range, is judged where the
descriptor is loaded; the anchor byte of TBL_SCATTER, whose default is 0 too, where ADD or MAX is allowed on a format that has
anchors; its window where the format has one. -/
def State.tblBad (s t : State) (k : Nat) : Nat :=
  let q := t.tbl k
  let n := q.list.length
  let anyOp := bit q.scatter 0 || bit q.scatter 1
  let float := decide (q.fmt ≠ 0x1F) && ! isIntFmt q.fmt
  let f := bits q.scatter 2 6
  let elem := fmtBits q.fmt / 8
  let decl := bits q.scatter 8 8
  firstBad [
    (decide (s.reg .engine k 0x6000 0x0A = 2), 256),
    (s.tableHeld k, 256),
    (q.list.any (fun i => ! t.stackFitted i), 256),
    (q.loaded && decide (q.rows = 0), 0x12),
    (decide (q.base % q.rowBytes ≠ 0), 0x12),
    (q.loaded && decide (2 ^ 36 < q.base + cdiv q.rows n * q.rowBytes), 256),
    (anyOp && decide (q.fmt = 0x1F), 256),
    (anyOp && decide (q.fmt ≠ 0x1F) && decide (q.rowBytes / elem % 32 ≠ 0), 256),
    (anyOp && float && (decide (decl = 0) || decide (decl = 0xFF)), 0x12),
    (decide (f ≠ 0) && decide (q.fmt ≠ 0x1F) &&
      (if q.fmt ≤ 2 ∨ q.fmt = 0x0A then decide (f < 12 ∨ 44 < f) else decide (f < 4 ∨ 12 < f)), 0x12)]

/-- The refusals of an anycast group (R72): a home field that another group with members names, and members of other engines or
targets. -/
def State.anyBad (s t : State) (i : Nat) : Nat :=
  let g := fun k sub => t.reg .engine 0 (0x2100 + k) sub
  let words := (List.range (g i 1)).map (fun j => addrOf (t.tabNat .engine 0 (0x2100 + i) 2 (4 * j) 4))
  firstBad [
    (decide (g i 1 ≠ 0) && (List.range 256).any (fun k => decide (k ≠ i) && decide (g k 1 ≠ 0) && decide (g k 3 = g i 3)), 256),
    (words.any (fun a => decide (a.eng ≠ s.engine ∨ a.tgt ≠ 0)), 256)]

/-- The refusals of a slot table (R83, R86): a reserved owner, or more than 224 entries that name one. -/
def State.slotsBad (t : State) (c : Coord) (p : Nat) : Nat :=
  let e := ((t.outp c p).slots.getD []).map (fun b => b.toNat % 16)
  firstBad [(e.any (fun o => decide (9 ≤ o ∧ o ≤ 14)), 0x13), (decide (224 < (e.filter (fun o => decide (o < 9))).length), 256)]

/-- The result of one element of a pattern: A + B modulo the width for SUM, R203 for MAX and MIN. -/
def patternResult (op width a b : Nat) : Nat :=
  let w := if width = 0 then 64 else 32
  let big := if width = 2 then fp32Pick true a b else if toSigned w a < toSigned w b then b else a
  let small := if width = 2 then fp32Pick false a b else if toSigned w b < toSigned w a then b else a
  if op = 0 then (a + b) % 2 ^ w else if op = 1 then big else small

/-- Is an entry of the pattern library wrong (R351)? -/
def patternBad (e : List Byte) : Bool :=
  let op := leNat (e.take 1)
  let width := bits op 2 2
  let word := fun (i j : Nat) => leNat ((e.drop (8 + 256 * i + 8 * j)).take 8)
  decide (op % 4 = 3) || decide (width = 3) || decide (16 ≤ op) || decide (leNat ((e.drop 2).take 6) ≠ 0) ||
    (List.range 32).any (fun j =>
      (decide (width ≠ 0) && (List.range 3).any (fun i => decide (2 ^ 32 ≤ word i j))) ||
        decide (patternResult (op % 4) width (word 0 j) (word 1 j) ≠ word 2 j))

/-- The refusals of the pattern library. -/
def State.libBad (t : State) : Nat :=
  let n := t.tabHeld .engine 0 0x8030 1 776
  firstBad [((List.range n).any (fun i => patternBad (t.tabBytes .engine 0 0x8030 1 (776 * i) 776)), 256)]

/-- The refusals of a trace sink (R428). -/
def State.sinkBad (t : State) (c : Coord) : Nat :=
  let g := fun sub => t.reg (cellNode c) 0 0x9050 sub
  let a := addrOf (g 1)
  firstBad [
    (decide (g 1 ≠ 0) && decide (1 < a.tgt), 256),
    (decide (g 1 ≠ 0) && decide (a.tgt = 0) && t.badRange ⟨a.x, a.y⟩ (g 2) (g 3), 256),
    (decide (g 1 ≠ 0) && decide (a.tgt = 1) && decide (2 ^ 36 < g 2 + g 3), 256)]

/-- The refusals of the counter sweep (R431). -/
def State.sweepBad (s t : State) : Nat :=
  let g := fun sub => t.reg .engine 0 0x9030 sub
  let r := g 4
  let cells := (bits r 18 9 + 1 - bits r 0 9) * (bits r 27 9 + 1 - bits r 9 9)
  let need := cells * t.sweepLen
  firstBad [
    (decide (s.reg .engine 0 0x9030 1 = 1), 256),
    (decide (bits r 18 9 < bits r 0 9 ∨ bits r 27 9 < bits r 9 9 ∨ t.gx ≤ bits r 18 9 ∨ t.gy ≤ bits r 27 9), 256),
    (decide (128 * g 2 < need), 256),
    (! t.stackFitted (g 5), 256),
    (decide (g 7 < need), 256),
    (decide (2 ^ 36 < g 6 + g 7), 256)]

/-- The edge of a link port (R300), by its number. -/
def State.edgeOf (s : State) (p : Nat) : Nat :=
  (s.edgePorts.foldl (fun (r : Nat × Nat × Nat) n => if p < r.2.1 + n ∧ r.2.2 = 0 then (r.1, r.2.1, 1) else
    if r.2.2 = 1 then r else (r.1 + 1, r.2.1 + n, 0)) (0, 0, 0)).1

/-- Is a relay pair refused: not a port of the same edge (R333)? -/
def State.pairBad (t : State) (p : Nat) : Bool :=
  let q := t.lport p 3
  decide (q ≠ 0xFF) && (decide (t.nPorts ≤ q) || decide (q = p) || decide (t.edgeOf p ≠ t.edgeOf q))

/-- Do the shares of a pond and its floor exceed its slots (R231)? -/
def State.sharesBad (t : State) : Bool :=
  decide (t.pondSlots < (List.range 8).foldl (fun n i => n + bits (t.reg .engine 0 0x2014 (i + 1)) 6 6) (t.reg .engine 0 0x2014 9))

/-- Does the check hold pass 256 KiB or meet a block-check table (R350)? -/
def State.holdBad (t : State) : Bool :=
  let n := 2304 * t.reg .engine 0 0x8001 4
  decide (0 < n) && t.allCells.any (fun c => t.badRange c (t.reg .engine 0 0x8001 3) n)

/-- Why a commit of `g` refuses a staged write: 0 it does not, 256 for a reason the spec does not state. `s` holds the values in force,
`t` those of the whole group. -/
def State.commitBad (s t : State) (g : Group) (w : Staged) : Nat :=
  let b := objBase w.idx
  let c := nodeCell w.node
  let staged := fun (sub : Nat) => g.writes.any (fun x => x.idx == w.idx && x.sub == sub)
  match b.1 with
  | 0x2013 => if (w.sub = 2 ∨ (w.sub = 1 ∧ ! staged 2)) ∧ t.reg .engine 0 0x2013 2 < t.reg .engine 0 0x2013 1 then 0x12 else 0
  | 0x2014 => if t.sharesBad then 256 else 0
  | 0x2100 => s.anyBad t b.2
  | 0x2200 => s.barBad t w.inst
  | 0x4040 => t.slotsBad c b.2
  | 0x5000 => s.ctxBad t w.inst
  | 0x6000 => s.tblBad t w.inst
  | 0x7010 => if w.sub = 3 ∧ t.pairBad ((s.portHere c).getD 0) then 256 else 0
  | 0x8001 => if t.holdBad then 256 else 0
  | 0x8030 => t.libBad
  | 0x9030 => s.sweepBad t
  | 0x9050 => t.sinkBad c
  | 0x9060 => if s.reg .engine 0 w.idx 3 = 1 then 0x14 else 0
  | _ => 0

/-- The first staged write that its agent refuses, and the reason. -/
def State.firstRefused (s : State) (g : Group) : Option (Staged × Nat) :=
  let t := s.wouldBe g
  (g.writes.map (fun w => (w, s.commitBad t g w))).find? (fun x => decide (x.2 ≠ 0))

/-! ### Applying a group (R385) -/

/-- A commit ends FAILED at every node (R217), and what was kept of the context's finished epochs goes. -/
def State.forgetCtx (s : State) (k : Nat) : State :=
  let low := fun (key : Nat) => decide (key % 2 ^ 24 = 0x50001E) && decide (key / 2 ^ 24 % 8192 = k)
  let id := fun (i : SliceId) => decide (i.ctx ≠ k)
  let clean : CollSt → CollSt := fun q =>
    { q with
      deps := q.deps.filter (fun d => d.ctx != k), slots := q.slots.filter (fun w => w.ctx != k),
      owed := q.owed.filter (fun e => e.ctx != k), gaths := q.gaths.filter (fun e => e.ctx != k),
      done := q.done.filter (fun d => id d.2), anchors := q.anchors.filter (fun a => id a.id),
      lands := q.lands.filter (fun l => id l.id), epochs := q.epochs.filter (fun e => e.1 != k),
      holds := q.holds.filter (fun h => id h.id), exch := q.exch.filter (fun x => x.ctx != k) }
  let cleanLv : LvSt → LvSt := fun v =>
    { owns := v.owns.filter (fun o => id o.id), slots := v.slots.filter (fun w => id w.id),
      done := v.done.filter (fun d => id d.2.2), anchors := v.anchors.filter (fun a => id a.id),
      owed := v.owed.filter (fun o => o.ctx != k) }
  let colls := (s.colls.map (fun e => (e.1, clean e.2))).filter (fun e => decide (e.2 ≠ CollSt.init))
  let ports := (s.ports.map (fun e => (e.1, ({ e.2 with lv := cleanLv e.2.lv } : PortSt)))).filter (fun e => decide (e.2 ≠ PortSt.init))
  { s with regs := s.regs.filter (fun e => ! low e.1), colls := colls, ports := ports }

/-- A barrier context is armed at its root (R150). -/
def State.armBar (s : State) (old : Coord) (k : Nat) : State :=
  let root := s.barRoot k
  let n := ((s.barMembers k).filter (fun c => ! s.isHole c)).length * s.reg .engine k 0x2200 5
  let s := if old = root then s else s.setReg (cellNode old) k 0x2200 0x0A 0
  ((s.setReg .engine k 0x2200 8 n).setReg (cellNode root) k 0x2200 8 n).setReg (cellNode root) k 0x2200 0x0A 1

/-- TBL_STATE after a commit (R280): LOADED where the table lists a stack. -/
def State.armTbl (s : State) (old : Option (Nat × Nat)) (k : Nat) : State :=
  let st := if (s.tbl k).loaded then 1 else 0
  let s := s.setReg .engine k 0x6000 0x0A st
  let s := match old with
    | some d => s.setReg (cellNode (dropCell d.1 d.2)) k 0x6000 0x0A 0
    | none => s
  match s.leadDrop (s.tbl k) with
  | some d => s.setReg (cellNode (dropCell d.1 d.2)) k 0x6000 0x0A st
  | none => s

/-- A committed anycast group has no winner until its next broadcast (R73). -/
def State.armAny (s : State) (k : Nat) : State :=
  let rs := s.rtrs.map (fun e => (e.1, ({ e.2 with wins := SMap.put 0 e.2.wins k 0 } : RtrSt)))
  { s with rtrs := rs.filter (fun e => decide (e.2 ≠ RtrSt.init)) }

/-- Apply a group: its values, and what arming a window does. Each write at a cell node is an event of its ring (R432). -/
def State.applyGroup (s : State) (g : Group) (gen : Nat) : State :=
  let old := s
  let s := g.writes.foldl State.applyStaged s
  let s := (g.insts 0x5000).foldl (fun (s : State) k => (s.forgetCtx k).armCtx k) s
  let s := (g.insts 0x2200).foldl (fun (s : State) k => s.armBar (old.barRoot k) k) s
  let s := (g.insts 0x6000).foldl (fun (s : State) k => s.armTbl (old.leadDrop (old.tbl k)) k) s
  let anys := ((g.writes.filter (fun w => decide ((objBase w.idx).1 = 0x2100))).map (fun w => w.idx - 0x2100)).eraseDups
  let s := anys.foldl State.armAny s
  (g.writes.map Staged.obj).eraseDups.foldl (fun (s : State) o => match o.node with
    | .cell x y => s.ringEvent ⟨x, y⟩ 9 0 (o.idx + 65536 * o.sub + 2 ^ 24 * (gen % 2 ^ 24))
    | _ => s) s

/-- Is a write at a node of a field whose agent lags (R383)? -/
def State.lags (s : State) (l : List Nat) (w : Staged) : Bool :=
  match w.node with
  | .engine => false
  | n => l.contains (s.nodeField n)

/-- The apply round (step 4 of R383): the fields of `l` have not answered, and their writes of the group stay late. A field that has
answered applies what it was late with before this group, in generation order. The spec gives no other sign that a field has ended a
late group (DESIGN CHOICE, log 58). -/
def State.applyRound (s : State) (g : Group) (gen : Nat) (l : List Nat) : State :=
  let due := s.eng.late.filter (fun e => ! s.lags l e.2)
  let kept := s.eng.late.filter (fun e => s.lags l e.2) ++ (g.writes.filter (s.lags l)).map (fun w => (gen, w))
  let s : State := { s with eng := { s.eng with late := kept } }
  let s := (due.map Prod.fst).eraseDups.foldl (fun (s : State) n =>
    s.applyGroup { g with writes := (due.filter (fun e => e.1 == n)).map Prod.snd } n) s
  s.applyGroup { g with writes := g.writes.filter (fun w => ! s.lags l w) } gen

/-! ### Running commits (R383, R384) -/

/-- Start the next commit that waits, refusing with NO_GROUP each whose requester has no group any more. `fuel` bounds the queue. -/
def State.nextCommit (s : State) : Nat → State
  | 0 => s
  | fuel + 1 =>
    match s.eng.commit, s.eng.commitQ with
    | none, r :: rest =>
      let s : State := { s with eng := { s.eng with commitQ := rest } }
      match s.group? r.who with
      | some g =>
        { s with eng := { s.eng with groups := s.eng.groups.filter (fun x => x.who != r.who), commit := some ⟨g, r, s.time, none⟩ } }
      | none => (s.dictAnswer r (rspRef 0x1B)).nextCommit fuel
    | _, _ => s

/-- Run what waits. -/
def State.runCommits (s : State) : State := s.nextCommit s.eng.commitQ.length

/-- An accepted write of COMMIT (R383, R384): 1 orders a commit, answered at its end; 2 abandons the group. -/
def State.writeCommit (s : State) (r : DictReq) : Option Rsp × State :=
  match s.group? r.who with
  | none => (some (rspRef 0x1B), s)
  | some _ =>
    if r.value = 1 then
      (none, ({ s with eng := { s.eng with commitQ := s.eng.commitQ ++ [r] } } : State).runCommits)
    else (some rspOk, s.setGroups (s.eng.groups.filter (fun x => x.who != r.who)))

/-- LAST_REFUSED (0x2001.03). -/
def refusedWord (w : Requester) (o : Staged) (reason : Nat) : Nat :=
  pack [(0, 16, o.idx), (16, 8, o.sub), (24, 8, reason), (32, 11, w.eng), (43, 9, w.x), (52, 9, w.y), (61, 2, w.core),
    (63, 1, b2n w.mgmt)]

/-- The commit under way ends, and the next begins. -/
def State.endCommit (s : State) : State := ({ s with eng := { s.eng with commit := none } } : State).runCommits

/-- COMMIT_PREPARE_DONE (R383 steps 1 to 3): the group is refused, or it has its generation and the apply round begins. -/
def State.commitPrepare (s : State) : State :=
  match s.eng.commit with
  | some ⟨g, r, _, none⟩ =>
    match s.firstRefused g with
    | some (w, code) =>
      let f := if code = 256 then s.fresh else (code, s)
      let s := f.2.setReg .engine 0 0x2001 3 (refusedWord r.who w (f.1 % 256))
      (s.dictAnswer r (rspRef 0x19)).endCommit
    | none =>
      let gen := (s.reg .engine 0 0x2002 2 + 1) % 2 ^ 32
      let s := s.setReg .engine 0 0x2002 2 gen
      let s := s.dictAnswer r ⟨0, 0, gen, []⟩
      { s with eng := { s.eng with commit := some ⟨g, r, s.time, some gen⟩ } }
  | _ => s

/-- Step 5 of R383: GENERATION advances, and LAGGING names the fields that did not answer. -/
def State.commitBack (s : State) (gen : Nat) (lagging : List Nat) : State :=
  let m := (List.range s.nFields).filter lagging.contains
  let s := s.setTab .engine 0 0x2001 4 (Memory.writeN (objEmpty 0x2001 4) [] 0 (fieldBits s.nFields m.contains))
  (s.setReg .engine 0 0x2002 1 gen).endCommit

/-- COMMIT_APPLY_DONE (R383): every agent has answered. -/
def State.commitApplied (s : State) : State :=
  match s.eng.commit with
  | some ⟨g, _, _, some gen⟩ => (s.applyRound g gen []).commitBack gen []
  | _ => s

/-- COMMIT_LIMIT_EXPIRY (R383): the prepare round refuses the group, the apply round records LAGGING. -/
def State.commitLimit (s : State) (lagging : List Nat) : State :=
  match s.eng.commit with
  | none => s
  | some m =>
    let s : State := { s with time := max s.time (m.start + 1000 * s.reg .engine 0 0x2003 4) }
    match m.gen with
    | none => (s.dictAnswer m.req (rspRef 0x19)).endCommit
    | some gen => (s.applyRound m.group gen lagging).commitBack gen lagging

/-- GROUP_LEASE_EXPIRY (R382): the requester's open group is discarded with no reply. -/
def State.groupLease (s : State) (w : Requester) : State :=
  match s.group? w with
  | some g =>
    ({ s with time := max s.time (g.at_ + 1000 * s.reg .engine 0 0x2003 3) } : State).setGroups
      (s.eng.groups.filter (fun x => x.who != w))
  | none => s

end Sys2Proof.Machine
end

