-- ==== Sys2Proof/Machine/DictServe.lean ====
section
/-! DEFINITION. What an agent does with a dictionary request (R374 to R390), how replies end (R387), and the management port (R392,
R393). -/

namespace Sys2Proof.Machine

/-! ### Serving a request -/

/-- Counts of fc are brought up to date as they are read: of clocks (R425), of a cell-memory port that stalls (R118), and of requests that
wait for a tag of a drop (R275). -/
def State.freshen (s : State) (o : Obj) : State :=
  let c := nodeCell o.node
  if o.idx = 0x9020 ∨ o.idx = 0x9070 then s.accrue (s.nodeField o.node)
  else if o.idx = 0x4000 ∧ o.sub = 7 then s.countStalls c
  else if 0x4004 ≤ o.idx ∧ o.idx ≤ 0x4007 ∧ o.sub = 6 ∧ (s.core c (o.idx - 0x4004)).ringAt.isSome then s.countRing c (o.idx - 0x4004) true
  else if o.idx = 0x6040 then match s.dropAt c with
    | some (st, d) => s.countTagWaits st d
    | none => s
  else s

/-- A read (R376, R377): an RC object is cleared as it is read. -/
def State.dictRead (s : State) (r : DictReq) (o : Obj) : Rsp × State :=
  let s := s.freshen o
  match objRow o.idx o.sub with
  | none => (rspRef 0x10, s)
  | some q =>
    if q.ty.isBlob then (⟨0, 0, r.tlen, s.blob o r.toff r.tlen⟩, s)
    else
      let v := s.scalar r.who o
      (⟨0, 0, v, []⟩, if q.acc = .rc then s.setReg o.node o.inst o.idx o.sub 0 else s)

/-- An accepted write, by its apply class (R379 to R383). -/
def State.dictWrite (s : State) (r : DictReq) (o : Obj) : Option Rsp × State :=
  match objRow o.idx o.sub with
  | none => (some (rspRef 0x10), s)
  | some q =>
    if o.idx = 0x2001 then s.writeCommit r
    else if q.app = .commit then let x := s.stage r o; (some x.1, x.2)
    else s.writeNow r o

/-- A request whose segments are all here leaves the partial ones (R388). -/
def State.dropPartial (s : State) (w : Requester) (tag : Nat) : State :=
  { s with eng := { s.eng with partials := s.eng.partials.filter (fun p => ! (p.req.who == w && p.req.tag == tag)) } }

/-- A request with missing segments waits; its 10 µs run from its head (R388). -/
def State.keepPartial (s : State) (r : DictReq) : State :=
  let at_ := match s.eng.partials.find? (fun p => p.req.who == r.who && p.req.tag == r.tag) with
    | some p => p.at_
    | none => s.time
  let s := s.dropPartial r.who r.tag
  { s with eng := { s.eng with partials := s.eng.partials ++ [⟨s.reqField r, r, at_⟩] } }

/-- Does a request wait at the agent, because it is for a cell node of a field that is not awake from Lull (R390, R408)? -/
def State.dictAsleep (s : State) (r : DictReq) : Option Nat :=
  match s.reqNode r with
  | .ok (.cell x y) => if s.enginePower = 0 ∧ 2 ≤ s.power (s.fieldOf ⟨x, y⟩) then some (s.fieldOf ⟨x, y⟩) else none
  | _ => none

/-- A request waits at the agent for its field, which it wakes (R408). -/
def State.dictWait (s : State) (r : DictReq) (f : Nat) : State :=
  ({ s with sigs := if s.sigs.contains (.dictReq r) then s.sigs else s.sigs ++ [.dictReq r] } : State).causeWake f 5

/-- The checks of a request, the access, and the reply. -/
def State.dictAct (s : State) (r : DictReq) : State :=
  match s.checkReq r false with
  | .error e => s.dictAnswer r ⟨e.1, e.2, 0, []⟩
  | .ok o =>
    if r.wr then
      let x := s.dictWrite r o
      match x.1 with
      | some a => x.2.dictAnswer r a
      | none => x.2
    else let x := s.dictRead r o; x.2.dictAnswer r x.1

/-- An agent serves a request (R387 to R394): the checks, the access, and the reply. A reply that a later event gives stays due. -/
def State.dictServe (s : State) (r : DictReq) : State :=
  if r.eng ≠ s.engine then s
  else if ! r.whole then (s.takeSig (.dictReq r)).keepPartial r
  else
    match s.dictAsleep r with
    | some f => (s.dropPartial r.who r.tag).dictWait r f
    | none => ((s.takeSig (.dictReq r)).dropPartial r.who r.tag).dictAct r

/-- Is the request a write of one of these subindices of an object? -/
def DictReq.writes (r : DictReq) (base : Nat) (subs : List Nat) : Bool :=
  r.wr && decide ((objBase r.index).1 = base) && subs.contains r.sub

/-- Is the request a write of a fault block's subindex (R360)? -/
def DictReq.writesFault (r : DictReq) (sub : Nat) : Bool := r.wr && isFault r.index && decide (r.sub = sub)

/-- DICT_SEGMENT_TIMEOUT (R388): a request still incomplete 10 µs after its head is dropped with no reply. -/
def State.dictSegmentEnd (s : State) (f : Nat) (w : Requester) (tag : Nat) : State :=
  match s.eng.partials.find? (fun p => p.f == f && p.req.who == w && p.req.tag == tag) with
  | some p => ({ s with time := max s.time (p.at_ + 10000) } : State).dropPartial w tag
  | none => s

/-! ### The management port (R392, R393) -/

/-- A management response (R393). -/
def mgmtResponse (head : List Byte) (status detail value : Nat) (data : List Byte) : List Byte :=
  padTo 8 head ++ leBytes 1 status ++ leBytes 1 detail ++ leBytes 2 data.length ++ zeros 4 ++ leBytes 8 value ++ data

/-- The management port sends a message. -/
def State.mgmtSend (s : State) (bs : List Byte) : State := { s with eng := { s.eng with mgmtSent := s.eng.mgmtSent ++ [bs] } }

/-- MGMT_REPLY_TIMEOUT (R393): the request of an MTAG whose reply has not come within REPLY_TIMEOUT is answered TIMEOUT. -/
def State.mgmtTimeout (s : State) (mtag : Nat) : State :=
  match s.eng.mgmt.find? (fun m => leNat ((m.head.drop 6).take 1) = mtag) with
  | some m =>
    let e := { s.eng with mgmt := s.eng.mgmt.erase m }
    let s : State := { s with eng := e, time := max s.time (m.at_ + 1000 * s.reg .engine 0 0x2012 1) }
    s.mgmtSend (mgmtResponse m.head 9 0 0 [])
  | none => s

/-- Bytes `a` to `a + n − 1` of a message as a number. -/
def msgNat (bs : List Byte) (a n : Nat) : Nat := leNat ((bs.drop a).take n)

/-- The DICT_REQ of a management request (R388, R393); its requester stands at the agent cell of field 0. -/
def State.mgmtDict (s : State) (bs : List Byte) : DictReq :=
  let c := s.agentAt 0
  let wr := decide (msgNat bs 5 1 = 2)
  let len := msgNat bs 20 2
  let data := if wr then (bs.drop 32).take len else []
  ⟨⟨s.engine, c.x, c.y, 0, true⟩, 0xFF00 + msgNat bs 6 1, wr, msgNat bs 16 2, msgNat bs 18 1, msgNat bs 8 2 % 2048, msgNat bs 10 2,
    msgNat bs 12 3, len, msgNat bs 22 2, bit (msgNat bs 7 1) 0, msgNat bs 24 8, data, ! wr || decide (len ≤ data.length)⟩

/-- The completion code and data of the answer to an MCTP control message, in the forms of the MCTP base specification (log 45); the
version entry of Get MCTP Version Support is not stated (log 1). -/
def State.mctpControl (s : State) (m : MctpControl) : State :=
  let send := fun (s : State) cmd (body : List Byte) => s.mgmtSend (zeros 2 ++ leBytes 1 cmd ++ body)
  match m with
  | .setEndpointId e =>
    let s : State := { s with eng := { s.eng with eid := e % 256 } }
    send s 1 (leBytes 2 0 ++ leBytes 1 s.eng.eid ++ leBytes 1 0)
  | .getEndpointId => send s 2 (leBytes 1 0 ++ leBytes 1 s.eng.eid ++ leBytes 2 0)
  | .getVersionSupport _ => let f := s.fresh; send f.2 4 (leBytes 1 0 ++ leBytes 1 1 ++ leBytes 4 f.1)
  | .getTypeSupport => send s 5 (leBytes 1 0 ++ leBytes 1 1 ++ leBytes 1 0x7F)
  | .getVendorSupport _ =>
    send s 6 (leBytes 1 0 ++ leBytes 1 0xFF ++ leBytes 1 1 ++ beBytes 4 (s.reg .engine 0 0x1001 1) ++ leBytes 2 0)

/-- DYNAMIC_ADDRESS_ASSIGNMENT (R459). -/
def State.mgmtAddress (s : State) (addr : Nat) : State := { s with eng := { s.eng with dynAddr := some (addr % 128) } }

/-- MGMT_REQUEST (R392, R393). A vendor message with another VENDOR is discarded; an OP that is neither READ nor WRITE is REFUSED with
ACCESS, and a ninth request with BUSY. -/
def State.mgmtRequest (s : State) (m : MgmtReq) : State :=
  let bs := m.bytes
  let head := bs.take 8
  if msgNat bs 0 1 ≠ 0x7F ∨ beNat ((bs.drop 1).take 4) ≠ s.reg .engine 0 0x1001 1 ∨ bs.length < 32 ∨ 4136 < bs.length then s
  else if msgNat bs 5 1 ≠ 1 ∧ msgNat bs 5 1 ≠ 2 then s.mgmtSend (mgmtResponse head 2 0x11 0 [])
  else if 8 ≤ s.eng.mgmt.length then s.mgmtSend (mgmtResponse head 2 0x14 0 [])
  else
    let s : State := { s with eng := { s.eng with mgmt := s.eng.mgmt ++ [⟨head, s.time⟩] } }
    let q := Signal.dictReq (s.mgmtDict bs)
    if s.asleep then s.sinkSig (s.agentAt 0) q else s.sendSig (s.agentAt 0) q

/-- A reply reaches the management port: the oldest request with its MTAG is answered. -/
def State.mgmtReply (s : State) (r : DictRsp) : State :=
  match s.eng.mgmt.find? (fun m => msgNat m.head 6 1 = r.tag - 0xFF00) with
  | some m =>
    let s : State := { s with eng := { s.eng with mgmt := s.eng.mgmt.erase m } }
    s.mgmtSend (mgmtResponse m.head r.status r.detail r.value (if r.wr then [] else r.data))
  | none => s

/-! ### Replies at a cell (R387) -/

/-- DICT_RSP_RECEIVE (R387): read data is written to LADDR, then the command completes. A reply without all its segments completes
nothing, and one whose command has ended is discarded (R160). -/
def State.dictReply (s : State) (r : DictRsp) : State :=
  if r.who.eng ≠ s.engine ∨ ! r.whole then s
  else if r.who.mgmt then s.mgmtReply r
  else
    let c : Coord := ⟨r.who.x, r.who.y⟩
    match s.cmd? c r.tag with
    | none => s
    | some m =>
      if kindOf m.desc ≠ .dictRead ∧ kindOf m.desc ≠ .dictWrite then s
      else
        let s := if ! r.wr ∧ r.status = 0 ∧ ! r.data.isEmpty then s.memWrite c (dLaddr m.desc) r.data else s
        s.complete c m r.status r.detail r.value

end Sys2Proof.Machine
end

