-- ==== Sys2Proof/Machine/BootOps.lean ====
section
/-! DEFINITION. Bring-up (chapter 19): its steps, the fields' start, the defect map, the ring self-test, the boot image, the drop
handshake and completion. -/

namespace Sys2Proof.Machine

/-- Change what the engine holds. -/
def State.modEng (s : State) (f : EngSt → EngSt) : State := { s with eng := f s.eng }

/-- Time passes to at least `t`. -/
def State.upTo (s : State) (t : Nat) : State := { s with time := max s.time t }

/-! ### Steps 1 to 3 (R441, R442) -/

/-- COLD_BRINGUP (R436): AON_PG rises. A rise of a pin that is high changes nothing. -/
def State.coldStart (s : State) : State := if s.eng.powered then s else s.bringupStart false

/-- BRINGUP_AON (R441): one count of REFCLK. On a cold bring-up every field's time starts at 0. -/
def State.bootAon (s : State) (ok : Bool) : State :=
  if s.bootStep ≠ 1 then s
  else if ! ok then (s.setReg .engine 0 0x1008 3 1).modEng (fun e => { e with stepAt := s.time })
  else
    let s := s.setReg .engine 0 0x1008 3 0
    let cold := decide (s.reg .engine 0 0x1008 2 = 0)
    let s := (List.range s.nFields).foldl (fun (s : State) f => s.modField f (fun q =>
      if cold then { q with off := -(s.time : Int), slew := 0, slewAt := s.time, rate := 0, rateAt := s.time } else q)) s
    s.stepDone 1

/-- REFCLK_RETRY (R441): 1 ms after a count that failed, step 1 is tried again. -/
def State.bootRetry (s : State) : State :=
  if s.bootStep = 1 ∧ s.reg .engine 0 0x1008 3 = 1 then
    let s := s.upTo (s.eng.stepAt + 1000000)
    s.modEng (fun e => { e with stepAt := s.time })
  else s

/-- The certificates of the non-volatile store take effect (R381); their copies in force stand as instance 1. -/
def State.loadCerts (s : State) : State :=
  [2, 3].foldl (fun (s : State) i => (s.setTab .engine 1 0x1004 i (s.tab .engine 0 0x1004 i)).setReg .engine 1 0x1004 i
    (s.reg .engine 0 0x1004 i)) s

/-- BRINGUP_AGENTS (R441, R443): the store is read and the agents start; at the start of step 3 every field's FREEZE reads 1. -/
def State.bootAgents (s : State) (nvOk : Bool) (failed : List Nat) : State :=
  if s.bootStep ≠ 2 then s
  else if ! nvOk then s.bootFail 2 []
  else if ! failed.isEmpty then s.bootFail 3 failed
  else (List.range s.nFields).foldl (fun (s : State) f => s.setReg (.field f) 0 0x3010 1 1) (s.loadCerts.stepDone 2)

/-- FIELD_WAVE_START (R442): in its wave a field waits for FIELD_PG, and then starts its PLL. The event of a field that waits marks the
end of its limit, 10 ms for FIELD_PG and 100 µs for the lock, and fails the step. -/
def State.bootWave (s : State) (f : Nat) : State :=
  let q := s.field f
  if s.bootStep ≠ 3 then s
  else match q.boot with
    | 0 =>
      let s := s.upTo (s.eng.stepAt + us (s.reg .engine 0 0x1008 0x0B) * (f / s.build.fx))
      s.modField f (fun q => { q with boot := if q.pg then 2 else 1, bootAt := s.time })
    | 1 => (s.upTo (q.bootAt + 10000000)).bootFail 4 [f]
    | 2 => (s.upTo (q.bootAt + 100000)).bootFail 5 [f]
    | _ => s

/-- FIELD_PG_RISE (R442, R453): a field that waits for it in step 3 starts its PLL; at any other time it is not acted on. -/
def State.pgRise (s : State) (f : Nat) : State :=
  s.modField f (fun q =>
    let q := { q with pg := true }
    if s.bootStep = 3 ∧ q.boot = 1 then { q with boot := 2, bootAt := s.time } else q)

/-- FIELD_PLL_LOCK (R441, R442): the field's clock runs, and its routers leave reset with every memory zero. -/
def State.bootLock (s : State) (f : Nat) : State :=
  if s.bootStep = 3 ∧ (s.field f).boot = 2 then (s.startClock f).modField f (fun q => { q with boot := 3, bootAt := s.time }) else s

/-- BRINGUP_CLOCKS (R441): step 3 is done when every field's PLL is locked. -/
def State.bootClocks (s : State) : State :=
  if s.bootStep = 3 ∧ (List.range s.nFields).all (fun f => (s.field f).boot == 3) then s.stepDone 3 else s

/-! ### Steps 4 and 5 (R438, R441, R444) -/

/-- The defect entries in force. -/
def State.defects (s : State) : List Nat :=
  [1, 2].flatMap (fun sub => (List.range (s.tabHeld .engine 0 0x1005 sub 4)).map (fun i => s.tabNat .engine 0 0x1005 sub (4 * i) 4))

/-- Add an element that is not there yet. -/
def addNew {α : Type} [BEq α] (l : List α) (x : α) : List α := if l.contains x then l else l ++ [x]

/-- One defect entry (R438); one that names no unit is counted. -/
def State.defect (s : State) (w : Nat) : State :=
  let c : Coord := ⟨bits w 0 9, bits w 9 9⟩
  let kind := bits w 18 2
  let stop := decide (c.x % 8 = 0) || decide (c.y % 8 = 0)
  if ! s.inGrid c ∨ (kind = 3 ∧ ! stop) then s.bump .engine 0 0x1008 0x0D 1
  else match kind with
    | 0 => s.addHole c 0
    | 1 => { s with badTracks := addNew s.badTracks (.row, ⟨c.x / 2 * 2, c.y⟩) }
    | 2 => { s with badTracks := addNew s.badTracks (.col, ⟨c.x, c.y / 2 * 2⟩) }
    | _ =>
      let l := if c.x % 8 = 0 then addNew s.badStops (.row, c) else s.badStops
      { s with badStops := if c.y % 8 = 0 then addNew l (.col, c) else l }

/-- The maps are recomputed in a step of bring-up: every router knows the holes so far, and drops at holes leave the live-drop maps
(R297, R441, R444). -/
def State.mapsDone (s : State) : State :=
  let s := s.setReg .engine 1 0x2010 1 s.holes.length
  (s.holes.map HoleRec.c).foldl (fun (s : State) c => match s.dropAt c with
    | some (st, d) => s.setReg .engine 0 (0x6010 + st) 1 (clrBit (s.reg .engine 0 (0x6010 + st) 1) d)
    | none => s) s

/-- BRINGUP_HOLES (R441): the defect map is applied, and every router's maps are computed. -/
def State.bootHoles (s : State) : State :=
  if s.bootStep = 4 then ((s.defects.foldl State.defect s).mapsDone).stepDone 4 else s

/-- The unusable bypass that an output of a router drives, as `badTracks` names it (R58, R444). -/
def State.bypassTrack (s : State) (c : Coord) (q : Nat) : Axis × Coord :=
  let m := s.holeMap
  let ax := portAxis q
  let line := match ax with | .row => c.y | .col => c.x
  let x := match ax with | .row => c.x | .col => c.y
  let up := decide (q % 2 = 0)
  if q < 4 then
    let h := ringCoord (m.size ax) (nextPos (m.size ax) (ringPos (m.size ax) x) up)
    (ax, axisCell ax line (h / 2 * 2))
  else
    let k := m.stops ax
    (ax, axisCell ax line (8 * ringCoord k (nextPos k (ringPos k (x / 8)) up) + 1))

/-- Routers that have no usable link become holes, one after the other (R64, R444). `fuel` bounds the rounds. -/
def State.bootStranded (s : State) : Nat → State
  | 0 => s
  | k + 1 =>
    match s.allCells.find? s.holeMap.stranded with
    | some c => (s.addHole c 3).bootStranded k
    | none => s

/-- BRINGUP_SELFTEST (R444): what the three phases found. SELFTEST_HOLES counts holes and fenced stops. -/
def State.bootSelftest (s : State) (t : SelfTest) : State :=
  if s.bootStep ≠ 5 then s
  else
    let before := s.holes.length + s.badStops.length
    let s := (t.routers.filter s.inGrid).foldl (fun (s : State) c => s.addHole c 1) s
    let s := t.links.foldl (fun (s : State) l => match s.holeMap.neighbour l.1 l.2 with
      | some d => s.addHole d 1
      | none => s) s
    let stops := (t.lanes.filter (fun l => s.inGrid l.1)).map (fun l => (if l.2 = 0 then Axis.row else Axis.col, l.1))
    let s : State := { s with badStops := stops.foldl addNew s.badStops }
    let tracks := (t.bypasses.filter (fun l => s.inGrid l.1)).map (fun l => s.bypassTrack l.1 l.2)
    let s : State := { s with badTracks := tracks.foldl addNew s.badTracks }
    let s := s.bootStranded (s.gx * s.gy)
    let s := s.setReg .engine 0 0x1008 6 (s.holes.length + s.badStops.length - before)
    s.mapsDone.stepDone 5

/-! ### Step 6 -/

/-- BRINGUP_SIGNAL (R441): the barrier released at every router and two beacons were taken, or the step fails after 1 ms. -/
def State.bootSignal (s : State) (ok : Bool) : State :=
  if s.bootStep ≠ 6 then s
  else if ok then (s.modEng (fun e => { e with beaconSeq := e.beaconSeq + 2 })).stepDone 6
  else (s.upTo (s.eng.stepAt + 1000000)).bootFail 6 []

/-! ### Step 7: the boot image (R439, R440) -/

/-- A record of the boot image. -/
structure ImageRec where
  idx : Nat
  sub : Nat
  node : Nat
  cell : Nat
  off : Nat
  value : Nat
  data : Option (List Byte)
  deriving DecidableEq, Repr

/-- The records of an image, up to one of INDEX 0 or the end of the bytes. -/
def imageRecs : Nat → List Byte → List ImageRec
  | 0, _ => []
  | k + 1, bs =>
    let h := leNat (bs.take 16)
    let len := bits h 64 16
    let size := if len = 0 then 8 else (len + 7) / 8 * 8
    let rest := bs.drop 16
    if bits h 0 16 = 0 ∨ rest.length < size then []
    else
      let r : ImageRec := ⟨bits h 0 16, bits h 16 8, bits h 24 16, bits h 40 18, bits h 80 16, if len = 0 then leNat (rest.take 8) else 0,
        if len = 0 then none else some (rest.take len)⟩
      r :: imageRecs k (rest.drop size)

/-- Do two records name the same object and node? -/
def ImageRec.same (a b : ImageRec) : Bool := decide (a.idx = b.idx ∧ a.sub = b.sub ∧ a.node = b.node ∧ a.cell = b.cell)

/-- Records in runs that form one write each: consecutive TABLE or STR records of one object, or one scalar record. -/
def imageRuns : List ImageRec → List (List ImageRec)
  | [] => []
  | r :: rs => match imageRuns rs with
    | (q :: qs) :: runs => if r.data.isSome ∧ q.data.isSome ∧ r.same q then (r :: q :: qs) :: runs else [r] :: (q :: qs) :: runs
    | runs => [r] :: runs

/-- The management write of a run: a table takes the empty value where no record gives a byte. -/
def State.imageReq (s : State) (l : List ImageRec) (r : ImageRec) : DictReq :=
  let c := s.agentAt 0
  let who : Requester := ⟨s.engine, c.x, c.y, 0, true⟩
  let req := fun (n value : Nat) (data : List Byte) (tend : Bool) =>
    (⟨who, 0, true, r.idx, r.sub, s.engine, r.node, r.cell, n, 0, tend, value, data, true⟩ : DictReq)
  match r.data with
  | none => req 0 r.value [] false
  | some _ =>
    let n := l.foldl (fun n x => max n (x.off + (x.data.getD []).length)) 0
    let e := objEmpty r.idx r.sub
    let m := l.foldl (fun m x => Memory.writeN e m x.off (x.data.getD [])) []
    req n 0 (Memory.readN e m 0 n) true

/-- Apply one run: the state, the records applied, and whether the write was refused. -/
def State.imageRun (s : State) (l : List ImageRec) : State × Bool :=
  match l with
  | [] => (s, true)
  | r :: _ =>
    let q := s.imageReq l r
    match s.checkReq q true with
    | .error _ => (s, false)
    | .ok o => match s.dictWrite q o with
      | (some a, t) => if a.status = 0 then (t, true) else (s, false)
      | (none, t) => (t, true)

/-- The group of the management port is committed after the last record (R440); a refused commit discards it. -/
def State.imageCommit (s : State) : State :=
  let c := s.agentAt 0
  let who : Requester := ⟨s.engine, c.x, c.y, 0, true⟩
  match s.group? who with
  | none => s
  | some g =>
    let s := s.setGroups (s.eng.groups.filter (fun x => x.who != who))
    match s.firstRefused g with
    | some (w, code) =>
      let f := if code = 256 then s.fresh else (code, s)
      f.2.setReg .engine 0 0x2001 3 (refusedWord who w (f.1 % 256))
    | none =>
      let gen := (s.reg .engine 0 0x2002 2 + 1) % 2 ^ 32
      ((s.setReg .engine 0 0x2002 2 gen).setReg .engine 0 0x2002 1 gen).applyGroup g gen

/-- BRINGUP_IMAGE (R440): the records are applied in order, and the group is committed. -/
def State.bootImage (s : State) : State :=
  if s.bootStep ≠ 7 then s
  else
    let bytes := (List.range 16).flatMap (fun i => s.tabBytes .engine 0 0x1006 (i + 1) 0 4096)
    let runs := imageRuns (imageRecs 2800 bytes)
    let r := runs.foldl (fun (a : State × Nat × Nat × Nat) l =>
      let x := a.1.imageRun l
      -- applied, number of the next record, number of the first refused
      (x.1, a.2.1 + (if x.2 then l.length else 0), a.2.2.1 + l.length, if ! x.2 ∧ a.2.2.2 = 0xFFFF then a.2.2.1 else a.2.2.2))
      (s, 0, 0, 0xFFFF)
    let s := r.1.setReg .engine 0 0x1008 0x0C (r.2.1 % 65536 + 65536 * (r.2.2.2 % 65536))
    s.imageCommit.stepDone 7

/-! ### Steps 8 to 10 (R445, R446) -/

/-- The drops of fitted stacks that no hole has taken. -/
def State.bootDropList (s : State) : List (Nat × Nat) :=
  ((List.range 24).filter s.stackFitted).flatMap (fun st => (s.liveDrops st).map (fun d => (st, d)))

/-- BASE_RDY_RISE (R445): each drop of the stack issues one RD of granule 0. -/
def State.baseReady (s : State) (st : Nat) : State :=
  if s.bootStep ≠ 8 then s
  else (s.liveDrops st).foldl (fun (s : State) d =>
    let q := s.drop st d
    if (q.txns ++ q.todo).any (fun t => t.use == .boot) ∨ s.eng.bootDrops.contains (st, d) then s
    else s.issue st d [readTxn 1 0 0 .boot]) s

/-- BRINGUP_DROPS (R445): a drop that has not answered is excluded, 1 ms after its RD, or at 10 ms where its stack was not ready. -/
def State.bootDrops (s : State) : State :=
  if s.bootStep ≠ 8 then s
  else
    let late := s.bootDropList.filter (fun k => ! s.eng.bootDrops.contains k)
    let asked := fun (k : Nat × Nat) => (s.drop k.1 k.2).txns.find? (fun t => t.use == .boot)
    let due := late.map (fun k => match asked k with | some t => t.at_ + 1000000 | none => s.eng.stepAt + 10000000)
    let s := due.foldl (fun (s : State) t => s.upTo t) s
    let s := late.foldl (fun (s : State) k => (s.setReg .engine 0 (0x6010 + k.1) 1 (clrBit (s.reg .engine 0 (0x6010 + k.1) 1) k.2)).bump
      .engine 0 0x1008 7 1) s
    s.stepDone 8

/-- BRINGUP_LINKS (R441): done when every enabled port is settled, or at LINK_WAIT. -/
def State.bootLinks (s : State) : State :=
  if s.bootStep ≠ 9 ∨ 9 ≤ s.stepsDone then s
  else
    let settled := (List.range s.nPorts).all (fun p => bit (s.lport p 1) 4 || decide (s.portState p = 6) ||
      (s.portUp p && (s.port p).announced))
    (if settled then s else s.upTo (s.eng.stepAt + ms (s.reg .engine 0 0x1008 0x0A))).stepDone 9

/-- BRINGUP_DONE (R446): every field is in Run, and without HOLD_FROZEN its FREEZE is cleared. DEFAULT_TIER takes effect (R381). -/
def State.bootDone (s : State) : State :=
  if s.bootStep ≠ 9 ∨ s.stepsDone ≠ 9 then s
  else
    let s := s.setReg .engine 1 0x2003 1 (s.reg .engine 0 0x2003 1)
    let s := (s.stepDone 10).setReg .engine 0 0x1008 1 10
    let fields := List.range s.nFields
    let s := fields.foldl (fun (s : State) f => s.modField f (fun q => { q with idleSince := s.time, countedAt := s.time })) s
    if s.reg .engine 0 0x1008 9 = 1 then s
    else fields.foldl (fun (s : State) f => s.restop (s.fieldCells f) (fun s => s.setReg (.field f) 0 0x3010 1 0)) s

/-- AON_PG_FALL (R436, R453): all operation ends; only the non-volatile store and what lies outside the block remain. -/
def State.powerFall (s : State) : State :=
  let s := (s.bringupStart false).setReg .engine 0 0x1008 1 0
  s.modEng (fun e => { e with powered := false })

end Sys2Proof.Machine
end

