-- ==== Sys2Proof/Machine/ResetOps.lean ====
section
/-! DEFINITION. Cell resets (R94, R120, R137, R248, R450), DRAIN (R372), the loss of a field's clock or supply (R398, R399, R453), what
arrives in Calm (R410), TEST_MODE (R373, R458) and the test access port (R460, R461). -/

namespace Sys2Proof.Machine

/-! ### Cell resets -/

/-- The packet that has begun to leave an input lane is completed with poison fillers (R38, R94): every unit that has left by no output
yet gives way to one. -/
def LaneIn.poisonOpen (l : LaneIn) : LaneIn :=
  match l.cur with
  | none => l
  | some k =>
    let n := (l.q.takeWhile (fun u => ! u.last)).length + 1
    let sent := (k.legs.map OutLeg.sent).foldl max 1
    let fill := fun (iu : Nat × BufUnit) => if k.base + iu.1 < sent then iu.2 else fillerUnit (k.base + iu.1) k.len
    { l with q := ((List.range n).zip (l.q.take n)).map fill ++ l.q.drop n }

/-- CELL_RESET (R94, R120, R137, R248, R384, R450): the cell's commands and waits are abandoned, its queues are empty, its channels enter
RESET, its pending contributions go, its commit groups are lost, and the cell port's requesters are masked. -/
def State.cellResetAt (s : State) (c : Coord) : State :=
  if (s.cell c).inReset then s
  else
    let s := (s.collReset c).resetChannels c
    let s := s.modCell c (fun q => { q with
      inReset := true, cmds := [], mrd := [], mwr := [], watches := [], pathHeld := [],
      rsvs := q.rsvs.filter (fun r => match r.use with | .trace | .sweep | .transit .. => true | _ => false),
      cores := q.cores.map (fun k => { k with queue := [], held := 0, waits := [], chWaits := [], intq := [] }) })
    let gone := fun (g : Group) => decide (g.who.eng = s.engine ∧ g.who.x = c.x ∧ g.who.y = c.y) && ! g.who.mgmt
    let s := s.setGroups (s.eng.groups.filter (fun g => ! gone g))
    s.modIn c 8 (fun i => { i with masked := true, lanes := i.lanes.map (fun l => (l.1, l.2.poisonOpen)) })

/-- CELL_RESET_RELEASE (R120, R137, R450): counts are 0 and CH63 is open. -/
def State.cellReleaseAt (s : State) (c : Coord) : State :=
  if ! (s.cell c).inReset then s
  else
    let s := s.modCell c (fun q => { q with
      inReset := false, cores := q.cores.map (fun k => { k with prod := 0, cons := 0, ctrs := [] }) })
    (s.modIn c 8 (fun i => { i with masked := false })).setChan c 63 1 1

/-! ### DRAIN (R372) -/

/-- The loaded tables with an entry of their open epoch at a live drop, whose lead is not flushing. -/
def State.drainTables (s : State) : List (Nat × Nat × Nat × Nat) :=
  ((List.range 1024).filter (fun k => (s.tbl k).loaded)).filterMap (fun k =>
    match s.leadDrop (s.tbl k) with
    | none => none
    | some (st, d) =>
      let e := s.reg (dropNode st d) k 0x6000 0x0B
      let held := (s.tbl k).list.any (fun i => (s.liveDrops i).any (fun j => (s.drop i j).acc.any (fun a => a.tdesc == k && a.epoch == e)))
      if held ∧ s.reg (dropNode st d) k 0x6000 0x0A ≠ 2 then some (k, st, d, e) else none)

/-- Close the open epoch of each such table; no write waits for the answer. -/
def State.drainFlush (s : State) : State :=
  let none_ : DictReq := ⟨⟨0, 0, 0, 0, false⟩, 0, true, 0x6000, 0x0C, 0, 0, 0, 0, 0, false, 0, [], false⟩
  s.drainTables.foldl (fun (s : State) k => s.closeEpoch k.2.1 k.2.2.1 k.1 k.2.2.2 none_) s

/-- Does any command of the engine stand in a slot? -/
def State.anyCommand (s : State) : Bool := s.cells.any (fun e => ! e.2.cmds.isEmpty)

/-- Set DRAIN_STATE; the step starts now. -/
def State.setDrain (s : State) (v : Nat) : State := (s.setReg .engine 0 0x8140 0x14 v).modEng (fun e => { e with drainAt := s.time })

/-- Every port drops its transit credit, and transit packets that have begun to leave end with poison fillers (R372 step 4). -/
def State.dropTransit (s : State) : State :=
  (List.range s.nPorts).foldl (fun (s : State) p => s.modPort p (fun q => { q with tcred := [], txq := q.txq.map (fun t =>
    if t.transit ∧ 0 < t.sent then { t with pkt := { t.pkt with poison := true } } else t) })) s

/-- DRAIN_STEP_ADVANCE (R372): a step that is done gives way to the next. In FLUSH, a table whose flush was already running is closed
once that flush has ended. -/
def State.drainAdvance (s : State) : State :=
  match s.reg .engine 0 0x8140 0x14 with
  | 1 => (s.setDrain 2).lvDrain
  | 2 => if s.anyCommand then s else (s.setDrain 3).drainFlush
  | 3 =>
    if s.drops.any (fun e => ! e.2.leads.isEmpty) then s
    else if ! s.drainTables.isEmpty then s.drainFlush
    else
      let ps := (List.range s.nPorts).filter (fun p => decide (p < s.lport p 3))
      ((ps.foldl (fun (s : State) p => if s.relayReady p then s.relayOn p else s) s).dropTransit).setDrain 4
  | 4 =>
    let s := s.modEng (fun e => { e with noteState := if s.anyRelay then 1 else 3 })
    (s.originate322 true).setDrain 5
  | 5 => ((s.setDrain 6).faultLive s.engineBlock 1 true).faultEvent s.engineBlock 1 0 0
  | _ => s

/-- DRAIN_LIMIT_EXPIRY (R372): in SETTLE, every command still outstanding completes NACKED UNREACHABLE, and blocking waits are answered
with TIMEOUT. -/
def State.drainLimitEnd (s : State) : State :=
  if s.reg .engine 0 0x8140 0x14 ≠ 2 then s
  else
    let s := s.upTo (s.eng.drainAt + us (s.reg .engine 0 0x8140 0x15))
    (s.cells.map Prod.fst).foldl (fun (s : State) k =>
      let c : Coord := ⟨k % 512, k / 512⟩
      let s := (s.cell c).cmds.foldl (fun (s : State) m => s.complete c m 1 7 0) s
      (List.range 4).foldl (fun (s : State) i =>
        let ws := (s.core c i).waits
        let s := s.modCore c i (fun q => { q with waits := [] })
        ws.foldl (fun (s : State) w => s.answer c i w.tag (s.counter c i w.k) 1) s) s) s

/-! ### A field's clock and supply (R398, R399, R453) -/

/-- A field's clock runs again after a relock (R398, R399): PLL_UNLOCK may be cleared, and a pending sample is taken (R430). -/
def State.relock (s : State) (f : Nat) : State :=
  (((s.startClock f).bump (.field f) 0 0xA001 3 1).faultLive (s.fieldBlock f) 0 false).sweepResume f

/-- FREQ_RELOCK_DONE (R398): the write of FREQ is answered. While the engine sleeps no PLL runs, so that the relock comes after its wake
(R402). -/
def State.freqDone (s : State) (f : Nat) : State :=
  let mine := s.eng.freqReqs.filter (fun q => q.1 == f)
  if mine.isEmpty ∨ s.enginePower ≠ 0 then s
  else
    let s := (s.modEng (fun e => { e with freqReqs := e.freqReqs.filter (fun q => q.1 != f) })).relock f
    mine.foldl (fun (s : State) q => s.dictAnswer q.2 rspOk) s

/-- Is a field's clock stopped by a loss of lock, and neither for a write of FREQ nor because the engine sleeps (R402)? -/
def State.unlocked (s : State) (f : Nat) : Bool :=
  decide (s.enginePower = 0) && (s.field f).stopped && ! (s.field f).dead && ! s.eng.freqReqs.any (fun q => q.1 == f)

/-- PLL_RELOCK (R399). -/
def State.pllBack (s : State) (f : Nat) : State := if s.unlocked f then s.relock f else s

/-- PLL_RELOCK_FAIL (R399): not relocked 100 µs after the loss, the field stays stopped. -/
def State.pllDead (s : State) (f : Nat) : State :=
  if s.unlocked f then (s.upTo ((s.field f).stopAt + 100000)).modField f (fun q => { q with dead := true }) else s

/-- FIELD_PG_FALL (R453): after step 3 the field's routers are held in reset and the field is unreachable, with PLL_UNLOCK set. -/
def State.pgFall (s : State) (f : Nat) : State :=
  let s := s.modField f (fun q => { q with pg := false })
  if s.bootStep < 4 then s
  else (s.pllLoss f).modField f (fun q => { q with dead := true })

/-! ### Calm (R410) -/

/-- A packet that has come in Calm (R410): it crosses by the relay bus to its pair, and its credit returns as it leaves there, or it wakes the
engine and stays in the receive buffer until the fabric takes it. -/
def State.calmPacket (s : State) (p : Nat) (pk : Packet) : State :=
  let e := (s.port p).rxq.find? (fun e => e.pkt == pk)
  if pk.dest.eng ≠ s.engine ∧ s.calmPair p pk.src pk.dest then match e with
    | some e => (s.modPort p (fun q => { q with rxq := q.rxq.erase e })).relayPkt p e.lane pk
        (if e.counted then some (p, e.lane) else none)
    | none => s.relayPkt p (2 * pk.cls) pk none
  else
    let s := if e.isSome then s else s.modPort p (fun q => { q with rxq := q.rxq ++ [⟨pk, 2 * pk.cls, false⟩] })
    s.causeEngine 4

/-- A signal that has come in Calm (R410): it crosses to the relay pair, or is a DICT_REQ that the sluice lets pass and the agent serves, or
wakes the engine and stays in the receive buffer, where it is decided as the fabric takes it (log 117). -/
def State.calmSignal (s : State) (p : Nat) (sg : Signal) : State :=
  let e := (s.port p).rxs.find? (fun t => t.sg == sg)
  let drop := fun (s : State) => match e with
    | some t => s.modPort p (fun q => { q with rxs := q.rxs.erase t })
    | none => s
  let gone := fun (s : State) => match e with
    | some t => (drop s).freeClass p (sigClass t.sg t.laneB) (beatPairs (sigBeats sg)).length
    | none => s
  let wait := (if e.isSome then s else s.modPort p (fun q => { q with rxs := q.rxs ++ [⟨sg, false, false, 0⟩] })).causeEngine 4
  match sigParties sg with
  | none => wait
  | some (t, o) =>
    if t.eng = s.engine then match sg with
      | .dictReq r => match s.sluiceSig p sg t o with
        | some k => (gone s).sluiceSigDrop p k sg o
        | none => ((gone s).dictServe r).addSegs (s.agentOf r.node r.cell) s.eng.segs.length
      | _ => wait
    else if s.calmPair p (o.getD ⟨s.engine, 0, 0, 0, false⟩) ⟨t.eng, t.x, t.y, 0⟩ then
      let b := (e.map TxSig.laneB).getD false
      (beatPairs (sigBeats sg)).foldl (fun (s : State) bs => s.relaySig p bs b (e.map (fun _ => (p, sigClass sg b)))) (drop s)
    else wait

/-- CALM_LINK_ARRIVAL (R410): forwarded by relay, served at the agent, or waking. -/
def State.calmItem (s : State) (p : Nat) (i : LinkItem) : State :=
  if s.enginePower ≠ 1 then s
  else match i with
    | .packet pk => s.calmPacket p pk
    | .signal sg => s.calmSignal p sg
    | .note n => (s.modPort p (fun q => { q with inbox := q.inbox ++ [(0x10, noteBytes n ++ padTo 96 n.sig)] })).causeEngine 4

/-! ### TEST_MODE (R373, R458) -/

/-- TEST_MODE_RISE (R458). -/
def State.testRise (s : State) : State := s.modEng (fun e => { e with testMode := true })

/-- TEST_MODE_FALL (R373, R458): every injector is disarmed. -/
def State.testFall (s : State) : State :=
  let arm := fun (k : Nat) => decide (k % 2 ^ 24 = 0xF01005)
  let s : State := { s with regs := s.regs.filter (fun e => ! arm e.1) }
  s.modEng (fun e => { e with testMode := false })

/-! ### Test access (R460, R461) -/

/-- The condition of the instructions marked TEST_MODE. -/
def State.tapAllowed (s : State) : Bool := s.eng.testMode && (List.range s.nPorts).all (fun p => [0, 1, 6].contains (s.portState p))

/-- Change the test access port. -/
def State.modTap (s : State) (f : TapSt → TapSt) : State := s.modEng (fun e => { e with tap := f e.tap })

/-- BYPASS (R460): the one-bit register, which captures 0. -/
def State.tapBypass (s : State) (refused : Bool) : State :=
  s.modTap (fun t => { t with ir := 0xFF, refused := refused, dr := 0, driven := false })

/-- EXTEST, EXTEST_PULSE or EXTEST_TRAIN: the pins are driven from the boundary register, or the instruction acts as BYPASS. -/
def State.tapDrive (s : State) (code : Nat) (update : List Bool) : State :=
  if s.tapAllowed then s.modTap (fun t => { t with ir := code, refused := false, boundary := update, driven := true })
  else s.tapBypass true

/-- SAMPLE/PRELOAD: the pins are captured, and the boundary register is preloaded. What the chain captures at each place the spec does
not state (log 1). -/
def State.tapSample (s : State) (preload : List Bool) : State :=
  let r := s.freshBytes (preload.length / 8 + 1)
  let seen := (List.range preload.length).map (fun i => bit (leNat r.1) i)
  r.2.modTap (fun t => { t with ir := 1, refused := false, boundary := preload, captured := seen, driven := false })

/-- IDCODE: version 1, part 0xB480, the vendor's identity, which the spec does not state (log 1), and 1. -/
def State.tapIdcode (s : State) : State :=
  s.modTap (fun t => { t with ir := 2, refused := false, driven := false,
                              dr := pack [(0, 1, 1), (1, 11, Config.jedecId.toNat), (12, 16, 0xB480), (28, 4, 1)] })

/-- TAP_RESET: IDCODE is selected, and the pins return to their functional drive. -/
def State.tapReset (s : State) : State := s.tapIdcode

end Sys2Proof.Machine
end

