-- ==== Sys2Proof/Machine/Pump.lean ====
section
/-! DEFINITION. How a cell port works its commands off (R99 to R117, R462): acceptance of a queue head, the start of every kind of
command, issue points and fences, the opening of reservations as numbers come free, final completions, and what is done when an
event has been handled: fence decisions are carried out, and link ports send what they hold. -/

namespace Sys2Proof.Machine

/-! ### Validation (R100) -/

/-- The lower of two refusal codes, 0 standing for none. -/
def lowCode (a b : Nat) : Nat := if a = 0 then b else if b = 0 then a else min a b

/-- Watch records of a WATCH FORM 0 (R357). -/
def watchCount (d : Nat) : Nat := dNblk d * 2048 / sliceBytes (dWfmt d)

/-- The refusal code that a descriptor earns from what its cell and its engine hold, 0 for none: a context's slices and members
(R107, R244), a destination past cell memory (R105), and watch records or attachments that do not fit (R357). -/
def State.heldCode (s : State) (c : Coord) (d : Nat) : Nat :=
  match kindOf d with
  | .deposit => s.depositCode c d
  | .putScatter | .getGather =>
    let t := s.tbl (dTdesc d)
    if t.loaded ∧ cellBytes < dLaddr d + dRows d * t.rowBytes then 4 else 0
  | .watchBuffer => if isElemFmt (dWfmt d) ∧ cellBytes < dWaddr d + 32 * watchCount d then 4 else 0
  | .watchContext =>
    if dOn d ∧ (cellBytes < dWaddr d + 32 * s.ctx (dCtx d) 0x0D ∨ 4 ≤ (s.cell c).watches.length) then 4 else 0
  | _ => 0

/-- The code that a descriptor is refused with, 0 for none (R100). A WATCH that names no element format is refused (R182), with a
detail that the spec does not state (log 1). -/
def State.refusalCode (s : State) (c : Coord) (d : Nat) : Nat × State :=
  let code := lowCode (descriptorCode s c d) (s.heldCode c d)
  if kindOf d = .watchBuffer ∧ ! isElemFmt (dWfmt d) then
    let r := s.fresh
    (lowCode code (1 + r.1 % 255), r.2)
  else (code, s)

/-! ### The commands that need no reservation (R106, R110, R111, R151 to R157) -/

/-- When a reply is due (R160). -/
def State.replyDue (s : State) : Nat := s.time + us (s.reg .engine 0 0x2012 1)

/-- The command has left and waits for its reply. -/
def State.awaitReply (s : State) (c : Coord) (m : Cmd) : State :=
  s.modCmd c m.tag (fun x => { x with started := true, issued := true, deadline := some s.replyDue })

/-- A read for a command was flagged before anything left (R119): the router records it, and the command ends with MEMERR. -/
def State.readFailed (s : State) (c : Coord) (m : Cmd) : State :=
  (s.faultEvent (routerBlock c) 5 0 (m.tag % 65536)).complete c m 5 0 0

/-- SEND (R106): the read of MLEN bytes is issued, and one packet joins the router's lane, where its units wait for them. -/
def State.sendStart (s : State) (c : Coord) (m : Cmd) : State :=
  let d := m.desc
  let s := (s.issueRead c (dLaddr d) (dMlen d) (.pkt 0x12 (dClass d) m.tag 64 0)).awaitReply c m
  s.sendPkt c (dataPkt 0x12 (dClass d) false true (dDest d) (s.srcOf c m.core) m.tag (.message ⟨dChan d, dSEpoch d, dMlen d⟩)
    (s.memRead c (dLaddr d) (dMlen d)) none) true

/-- BAR_ARRIVE (R151): COUNT 1 and the operand; two beats where the context combines by MINMAX, both values being the operand. -/
def State.barArriveStart (s : State) (c : Coord) (m : Cmd) : State :=
  let d := m.desc
  let k := bits (dSigtgt d) 0 12
  let two := decide (s.valop k = 4)
  (s.awaitReply c m).sendSig c (.barArrive ⟨k, bits (dSigtgt d) 12 8, 1, (dDest d).x, (dDest d).y, dOperand d,
    if two then dOperand d else 0, two⟩)

/-- A tally operation (R155, R156). -/
def State.tallyStart (s : State) (c : Coord) (m : Cmd) (op : Nat) : State :=
  let d := m.desc
  (s.awaitReply c m).sendSig c (.tallyReq ⟨op, m.tag, bits (dSigtgt d) 0 9, bits (dSigtgt d) 9 8, c.x, c.y, m.core, dOperand d⟩)

/-- The signal of an INT or WAKE command (R157): SIGTGT[1:0] names the core of an INT, and OPERAND its ARG32 or a WAKE's ARG8 (log 8). -/
def State.intSig (s : State) (c : Coord) (m : Cmd) : Signal :=
  let d := m.desc
  let a := dDest d
  let me := s.srcOf c m.core
  if kindOf d = .wake then .wake ⟨a.eng, a.x, a.y, 0, false⟩ me (dOperand d % 256)
  else .int ⟨a.eng, a.x, a.y, dSigtgt d % 4, false⟩ me (dOperand d % 2 ^ 32)

/-- INT and WAKE (R157): the signal joins the router's own input, and the command completes as it leaves there. -/
def State.intStart (s : State) (c : Coord) (m : Cmd) : State :=
  (s.modCmd c m.tag (fun x => { x with started := true, issued := true })).sendSig c (s.intSig c m)

/-- INT and WAKE commands of a cell whose signal has left its router (R157). Of equal signals the oldest leaves first
(log 136). -/
def State.intsLeft (s : State) (c : Coord) : List Cmd :=
  let ints := (s.cell c).cmds.filter (fun m => m.started && (decide (kindOf m.desc = .int) || decide (kindOf m.desc = .wake)))
  let beats := fun m => sigBeats (s.intSig c m)
  let held := if ints.isEmpty then [] else (s.sin c 8).lanes.flatMap (fun l => l.2.map BufSig.beats)
  ints.filter (fun m => decide ((held.filter (fun b => b == beats m)).length ≤
    (ints.filter (fun x => decide (m.seq < x.seq) && beats x == beats m)).length))

/-- Bytes that a DICT command sends (R110). -/
def dictBytes (d : Nat) : Nat := if dWr d then dTlen d else 0

/-- The request of a DICT command leaves, its data having been read (R387, R388). -/
def State.dictGo (s : State) (c : Coord) (m : Cmd) : State :=
  let d := m.desc
  let r : DictReq := ⟨⟨s.engine, c.x, c.y, m.core, false⟩, m.tag, dWr d, dIndex d, dSub d, dEng d, dNode d,
    if dTlen d = 0 then dLaddr d else dValue d % 2 ^ 18, dTlen d, dToff d, dTend d, dValue d,
    s.memRead c (dLaddr d) (dictBytes d), true⟩
  (s.awaitReply c m).sendSig c (.dictReq r)

/-- DICT (R110): what it sends is read first. -/
def State.dictStart (s : State) (c : Coord) (m : Cmd) : State :=
  if dictBytes m.desc = 0 then s.dictGo c m
  else (s.issueRead c (dLaddr m.desc) (dictBytes m.desc) (.dict m.tag)).modCmd c m.tag (fun x => { x with started := true })

/-- WATCH FORM 0 (R111, R357): its buffer is read. -/
def State.watchStart (s : State) (c : Coord) (m : Cmd) : State :=
  (s.issueRead c (dLaddr m.desc) (2048 * dNblk m.desc) (.watch m.tag)).modCmd c m.tag (fun x => { x with started := true })

/-- The buffer of a WATCH FORM 0 has been read (R111, R357): every block is verified, then the records are written. -/
def State.watchGo (s : State) (c : Coord) (m : Cmd) : State :=
  let d := m.desc
  let bytes := 2048 * dNblk d
  if ! (blocksOf (dLaddr d) bytes).all (s.blockGood c) then
    (s.faultEvent (routerBlock c) 4 0 (m.tag % 65536)).complete c m 3 0 0
  else
    let n := sliceBytes (dWfmt d)
    let s := (List.range (watchCount d)).foldl (fun (s : State) j =>
      (s.memWriteAs c 4 (dWaddr d + 32 * j) (watchRecord (dWfmt d) j 0 0 (s.memRead c (dLaddr d + n * j) n))).bump (cellNode c) 0 0x8040 2 1) s
    s.complete c m 0 0 0

/-- WATCH FORM 1 (R111, R357): a watch is attached, or those of the context epoch are detached. -/
def State.watchAttach (s : State) (c : Coord) (m : Cmd) : State :=
  let d := m.desc
  let s := s.modCell c (fun q =>
    let ws := if dOn d then q.watches ++ [⟨dCtx d, dEpoch d, dWaddr d, m.core, 0⟩]
      else q.watches.filter (fun w => ! (w.ctx == dCtx d && w.epoch == dEpoch d))
    { q with watches := ws })
  s.complete c m 0 0 0

/-! ### Starting in acceptance order (R116, R117) -/

/-- Does a FENCE.ISSUE of its core that was accepted earlier hold a command (R116)? -/
def State.fencedStart (s : State) (c : Coord) (m : Cmd) : Bool :=
  (s.cell c).cmds.any (fun x => x.core == m.core && decide (x.seq < m.seq) && decide (kindOf x.desc = .fenceIssue))

/-- Start a command that has been accepted and that no fence holds. -/
def State.startCmd (s : State) (c : Coord) (m : Cmd) : State :=
  let begun := s.modCmd c m.tag (fun x => { x with started := true })
  match kindOf m.desc with
  | .put | .get | .mcast => begun
  | .putScatter | .getGather => s.rowsInit c m
  | .send => s.sendStart c m
  | .deposit =>
    let s := begun.depositStart c m
    if s.ctx (dCtx m.desc) 2 = 5 then s.exchSettle c (dCtx m.desc) (dEpoch m.desc) else s
  | .barArrive => s.barArriveStart c m
  | .tally op => s.tallyStart c m op
  | .int | .wake => s.intStart c m
  | .dictRead | .dictWrite => s.dictStart c m
  | .watchBuffer => s.watchStart c m
  | .watchContext => s.watchAttach c m
  | .fenceIssue | .fenceDone | .fenceCtx | .undefined => begun

/-- Start the accepted commands of a cell in acceptance order. A SEND does not start before the packets of earlier commands in its flow
have been injected (R116). -/
def State.startAll (s : State) (c : Coord) : State :=
  (s.cell c).cmds.foldl (fun (s : State) m =>
    if m.started ∨ s.fencedStart c m ∨ (kindOf m.desc = .send ∧ s.dataBehind c m) then s else s.startCmd c m) s

/-! ### Issue points and fences (R117, R462) -/

/-- Is a read for a command outstanding? -/
def ReadUse.isOf (u : ReadUse) (tag : Nat) : Bool :=
  match u with
  | .pkt _ _ t _ _ => decide (t = tag)
  | .pull t _ | .row t _ | .dict t | .watch t | .stage t _ => decide (t = tag)
  | .reply .. | .held | .other => false

/-- Has a live command reached its issue point (R462)? What the path fence holds, or what is still being read, has not been injected. -/
def State.atIssue (s : State) (c : Coord) (m : Cmd) : Bool :=
  let q := s.cell c
  let all := decide (rsvCount m.desc ≤ m.next) || ! m.fails.isEmpty || decide (m.srcFail ≠ 0)
  m.started && ! q.pathHeld.any (fun h => decide (h.1.tag = m.tag ∧ h.1.src = s.srcOf c m.core)) &&
    (decide (kindOf m.desc = .deposit) || ! q.mrd.any (fun r => r.use.isOf m.tag)) &&
    match kindOf m.desc with
    | .put => all && ! q.rsvs.any (fun r => r.tag == m.tag && [SrcSt.asked, .sending, .gated].contains r.st)
    | .mcast => all && ! q.rsvs.any (fun r => r.tag == m.tag && (r.st == .call || r.st == .gated))
    | .get => all && ! q.rsvs.any (fun r => r.tag == m.tag && r.st == .gated) && ! q.landing.queue.any (fun r => r.key.tag == m.tag && (match r.kind with | .own _ => true | _ => false))
    | .putScatter | .getGather => m.rows.all (fun r => decide (r.phase = 2) || r.ended)
    | .deposit => ! (s.coll c).deps.any (fun d => d.tag == m.tag && ! d.closed && ! d.taken)
    | .fenceIssue | .fenceDone | .fenceCtx | .watchBuffer | .watchContext | .undefined => false
    | _ => m.issued

/-- Does the condition of a fence hold (R117)? -/
def State.fenceMet (s : State) (c : Coord) (m : Cmd) : Bool :=
  let q := s.cell c
  let before := q.cmds.filter (fun x => decide (x.seq < m.seq))
  match kindOf m.desc with
  | .fenceIssue => before.all (fun x => decide (x.core ≠ m.core) || s.atIssue c x)
  | .fenceDone => before.all (fun x => decide (x.core ≠ m.core))
  | .fenceCtx => before.all (fun x =>
      ! (decide (kindOf x.desc = .deposit) && decide (dCtx x.desc = dCtx m.desc) && decide (dEpoch x.desc = dEpoch m.desc)))
  | _ => false

/-- Complete the fences of a cell whose conditions hold, in acceptance order. -/
def State.fencesOn (s : State) (c : Coord) : State :=
  (s.cell c).cmds.foldl (fun (s : State) m => if s.fenceMet c m then s.complete c m 0 0 0 else s) s

/-! ### Working a cell's commands off -/

/-- Open what can be opened for one command, and complete it where it has ended. -/
def State.workCmd (s : State) (c : Coord) (tag : Nat) : State :=
  let s := (s.finishTransfer c tag).finishRows c tag
  match s.cmd? c tag with
  | none => s
  | some m =>
    if ! m.started then s
    else match kindOf m.desc with
      | .put | .get | .mcast => ((s.resumeGated c tag).openAll c tag 64).finishTransfer c tag
      | .putScatter => ((s.scatterGo c m).scatterAll c tag 1024).finishRows c tag
      | .getGather => ((s.gatherAll c tag 64).gatherGo c).finishRows c tag
      | _ => s

/-- The packets of commands that have ended are accounted for at the path fence (R75), and what it then lets go is injected. -/
def State.pathTidy (s : State) (c : Coord) : State :=
  let live := (s.cell c).cmds.map Cmd.tag
  let s := s.modCell c (fun q => { q with sentOut := q.sentOut.filter (fun o => ! o.own || live.contains o.tag) })
  if (s.cell c).pathHeld.isEmpty then s else s.releaseHeld c

/-- One round: fences, starts, and every command's own work. -/
def State.pumpRound (s : State) (c : Coord) : State :=
  let s := ((s.fencesOn c).startAll c).gatherGo c
  ((s.cell c).cmds.map Cmd.tag).foldl (fun (s : State) t => s.workCmd c t) s

/-- Rounds while fences complete. -/
def State.pumpRounds (s : State) (c : Coord) : Nat → State
  | 0 => s
  | n + 1 => (s.pumpRound c).pumpRounds c n

/-- The cell port goes on: its commands are worked off, its router's own transfers go on, and held packets are let go. A round
follows for every fence, since a fence that completes lets later commands start. -/
def State.pump (s : State) (c : Coord) : State :=
  let n := ((s.cell c).cmds.filter (fun m => decide (kindOf m.desc = .fenceIssue ∨ kindOf m.desc = .fenceDone ∨ kindOf m.desc = .fenceCtx))).length
  let s := (s.pumpRounds c (n + 2)).pathTidy c
  (((s.rootsRetry c).segmentsOn c).traceRetry c).sweepRetry c

/-- Link ports send what they hold (R310). -/
def State.linksRun (s : State) : State := s.ports.foldl (fun (s : State) e => (s.linkRun e.1 512).idleNak e.1) s

/-- INT and WAKE commands whose signals have left complete (R157), and their cells go on, until none is left. -/
def State.intsDone (s : State) : Nat → State
  | 0 => s
  | fuel + 1 =>
    let left := s.cells.filterMap (fun e =>
      let c : Coord := ⟨e.1 % 512, e.1 / 512⟩
      let l := if e.2.cmds.isEmpty then [] else s.intsLeft c
      if l.isEmpty then none else some (c, l))
    if left.isEmpty then s
    else (left.foldl (fun (s : State) x => (x.2.foldl (fun (s : State) m => s.complete x.1 m 0 0 0) s).pump x.1) s).serveNet.intsDone fuel

/-- The INT and WAKE commands of the cells. -/
def State.intCmds (s : State) : Nat :=
  s.cells.foldl (fun n e => n + (e.2.cmds.filter (fun m => decide (kindOf m.desc = .int) || decide (kindOf m.desc = .wake))).length) 0

/-- What every handled event leaves to do: fence decisions of lanes, ports and fields, the signals that move and the commands this ends, the
sending of frames, and the
watch over the conditions of Calm (R407). -/
def State.done (s : State) : State := ((s.settle.serveNet.intsDone s.intCmds).linksRun).watchCalm

/-- After an event at a cell. -/
def State.after (s : State) (c : Coord) : State := (s.pump c).done

/-! ### Acceptance (R99, R100, R102) -/

/-- A command that has its slot: NACKED UNREACHABLE, NOCTX or NODESC at once (R100, R102, R105, R107, R386), or it is worked off. -/
def State.accepted (s : State) (c : Coord) (m : Cmd) : State :=
  let d := m.desc
  let k := kindOf d
  if s.destMissing c d then s.complete c m 1 7 0
  else if k = .deposit ∧ ! s.ctxTakes c (dCtx d) (dEpoch d) then s.complete c m 6 0 0
  else if (k = .putScatter ∨ k = .getGather) ∧ (! (s.tbl (dTdesc d)).loaded ∨ s.inCommit 0x6000 (dTdesc d)) then s.complete c m 7 0 0
  else s

/-- The cell port accepts the next queue head, if it is a command of kind `k`, or one that no kind describes (R99, R100). -/
def State.accept (s : State) (c : Coord) (k : CmdKind) : State :=
  if ! s.portOpen c then s
  else
    let r := s.pickHead c 4 (((s.cell c).last + 1) % 4)
    match r.1 with
    | none => r.2
    | some (core, d) =>
      if kindOf d ≠ k ∧ kindOf d ≠ .undefined then s
      else
        let x := (r.2.popHead c core).refusalCode c d
        if x.1 ≠ 0 then x.2.refuse c core d x.1
        else
          let y := x.2.takeSlot c core d
          (y.2.accepted c y.1).after c

/-! ### Replies, NACKs and timeouts -/

/-- A reservation at its source ends with a NACK reason (R131, R168, R171, R245, R289, R312). `bytes` is what a reclaim reports. -/
def State.rsvNacked (s : State) (c : Coord) (r : SrcRsv) (reason bytes : Nat) : State :=
  let s := s.accounted c r.tag (some r.rsv) false
  match r.use with
  | .trace | .sweep => s.routerRsvFailed c r
  | .segment _ _ _ => s.segmentEnd c r false
  | .transit _ _ _ => s.endSrcRsv c r.rsv
  | .cmd =>
    match s.cmd? c r.tag with
    | none => s.endSrcRsv c r.rsv
    | some m =>
      if kindOf m.desc = .putScatter then s.scatterEnd c r reason
      else if kindOf m.desc = .get then
        let k : RsvKey := ⟨s.srcOf c m.core, r.rsv, r.tag⟩
        let n := (((s.cell c).landing.find k).map LRsv.written).getD 0
        (s.modLanding (.router c) (fun l => (l.finish k).unqueue k)).nackRsv c r reason n
      else s.nackRsv c r reason bytes

/-- A NACK that reaches its cell (R131, R132): entered in CH63, and what it names ends. Of a NACK LEASE, AUX holds the bytes written
where bit [17] is 0 (R167). -/
def State.nackCell (s : State) (c : Coord) (n : Nack) : State :=
  let s := s.enterNack c n
  let bytes := if n.reason = 8 ∧ n.typ ≠ 5 ∧ n.typ ≠ 0x14 ∧ bits n.var 17 1 = 0 then bits n.var 0 17 else 0
  if 0x20 ≤ n.typ then s.collNacked c n
  else if n.typ = 0x12 then
    match s.cmd? c n.tag with
    | some m => if kindOf m.desc = .send then s.complete c m (nackStatus n.reason) n.reason 0 else s
    | none => s
  else if n.typ = 5 then
    match s.cmd? c n.tag with
    | some m => if kindOf m.desc = .getGather then s.gatherNack c m n else s
    | none => s
  else if [1, 4, 0x10, 0x15, 0x17].contains n.typ then
    match s.srcRsv? c n.chan with
    | some r =>
      let fits := if n.typ = 4 then r.st == .own else if n.typ = 1 ∧ n.reason ≠ 8 then r.st == .asked
        else [SrcSt.asked, .gated, .sending, .awaiting].contains r.st
      if r.tag = n.tag ∧ fits then (s.dropQueued c r).rsvNacked c r n.reason bytes else s
    | none => s
  else s

/-- NACK_RECEIVE (R132). -/
def State.nackAt (s : State) (n : Nack) : State :=
  let c := srcCell n.target
  s.atSig c (.nack n) (fun s => (s.nackCell c n).after c)

/-- DELIVERED at the cell of its command (R106, R168, R289, R428). One that matches no live reservation counts in UNMATCHED (R180). -/
def State.deliveredCell (s : State) (c : Coord) (d : Delivered) : State :=
  let unmatched := s.bump (cellNode c) 0 0x4060 8 1
  let own := (s.srcRsv? c (bits d.arg32 0 6)).any (fun r => decide (r.use ≠ .cmd) && decide (r.tag = d.tag) && decide (r.st = .awaiting) &&
    decide (srcCell d.origin = destCell r.dest))
  match if own then none else s.cmd? c d.tag with
  | some m =>
    if kindOf m.desc = .send then s.complete c m 0 0 (d.arg8 % 256)
    else match s.srcRsv? c (bits d.arg32 0 6) with
      | some r =>
        if r.tag ≠ d.tag ∨ r.use ≠ .cmd ∨ r.st ≠ .awaiting then unmatched
        else if kindOf m.desc = .putScatter then s.scatterEnd c r (if bits d.arg32 6 15 = 0 then 0xFD else 0)
        else if kindOf m.desc = .put then s.deliveredRsv c r d
        else unmatched
      | none => unmatched
  | none =>
    match s.srcRsv? c (bits d.arg32 0 6) with
    | some r =>
      if r.tag ≠ d.tag ∨ r.st ≠ .awaiting then unmatched
      else match r.use with
        | .segment _ _ _ => s.segmentEnd c r true
        | .trace | .sweep => (s.accounted c r.tag (some r.rsv) false).endSrcRsv c r.rsv
        | _ => unmatched
    | none => unmatched

/-- DELIVERED_RECEIVE (R168). -/
def State.deliveredAt (s : State) (d : Delivered) : State :=
  let c := srcCell d.target
  s.atSig c (.delivered d) (fun s => (s.deliveredCell c d).after c)

/-- REPLY_TIMEOUT_EXPIRY (R160): the command in a slot that waits for a reply completes TIMEOUT. -/
def State.replyLate (s : State) (c : Coord) (slot : Nat) : State :=
  match (s.cell c).cmds.find? (fun m => m.slot == slot) with
  | none => s
  | some m =>
    match m.deadline with
    | none => s
    | some t => ((({ s with time := max s.time t } : State).complete c m 9 0 0)).after c

/-- BULK_TIMEOUT_EXPIRY of a source reservation (R168, R175, R289): it runs from when its RESERVE or its last packet left, so that one held
at the path fence, or one whose packets are still to come, has none. A reservation of a GET has no such timer (R171). -/
def State.bulkLate (s : State) (c : Coord) (rsv : Nat) : State :=
  match s.srcRsv? c rsv with
  | none => s
  | some r =>
    if [SrcSt.own, .call, .sending, .reading, .gated].contains r.st ∨ s.rsvHeld c r then s
    else
      let t : State := ({ s with time := max s.time r.deadline } : State).bump (cellNode c) 0 0x4060 0x0A 1
      let s : State := match r.use with
        | .trace | .sweep => s.timeoutRsv c r
        | .segment _ _ _ => t.segmentEnd c r false
        | .transit _ _ _ => t.endSrcRsv c r.rsv
        | .cmd =>
          if r.st = .sent then t.endMcast c r [(9, 0)]
          else match s.cmd? c r.tag with
            | some m => if kindOf m.desc = .putScatter then t.scatterEnd c r 0xFF else s.timeoutRsv c r
            | none => s.timeoutRsv c r
      s.after c

/-- GRANT_RECEIVE (R168): the RESERVE is accounted for at the path fence (R75), and what it asked for goes on. -/
def State.grantRecv (s : State) (c : Coord) (p : Packet) (t : TransferTail) : State :=
  let s := s.accounted c p.tag (some t.rsv) true
  (s.grantAt c p t (fun s r => s.scatterGrant c r) (fun s r => match r.use with
    | .transit port _ _ => (s.transitGrant c r t).linkRun port 512
    | _ => s.segmentGrant c r)).after c

end Sys2Proof.Machine
end

