-- ==== Sys2Proof/Machine/MemOps.lean ====
section
/-! DEFINITION. The answers at the cell-memory port (R118, R119, R448): what a read brings is taken by what it was issued for, and a read
whose error flag is set ends it, completes it with poison fillers, or fails the contribution. -/

namespace Sys2Proof.Machine

/-! ### Packets whose header has not left -/

/-- Is the header of the packet that a read is for still in its router? -/
def State.unleft (s : State) (c : Coord) (l : Nat) (u : ReadUse) : Bool := ! (s.retract c l (readFor c u)).2.isEmpty

/-- The begun packet of the cell port's lane `l` is completed with poison fillers in place of the units that bytes `lo` to `hi` of its payload
lie in (R38, R119). -/
def State.fillRead (s : State) (c : Coord) (l lo hi : Nat) : State :=
  match (s.lane c 8 l).cur with
  | none => s
  | some k =>
    let fill := fun (iu : Nat × BufUnit) =>
      let j := k.base + iu.1
      if 1 + lo / 32 ≤ j ∧ j < 1 + cdiv hi 32 then fillerUnit j k.len else iu.2
    let n := (k.len + 1) - k.base
    let s := s.modLane c 8 l (fun i => { i with q := ((List.range n).zip (i.q.take n)).map fill ++ i.q.drop n })
    { s with flight := s.flight.map (fun p => if bareHeader p = k.hdr then { p with poison := true } else p) }

/-! ### Flagged reads (R119) -/

/-- The source reservation of a packet's read: by RSV, or by MID for an MCAST_DATA packet. -/
def State.readRsv (s : State) (c : Coord) (typ tag n : Nat) : Option SrcRsv :=
  (s.cell c).rsvs.find? (fun r => decide (r.tag = tag ∧ (if typ = 0x13 then r.mid else r.rsv) = n))

/-- Is a packet the first of a reservation (R169)? -/
def firstOf (n : Nat) (p : Packet) : Bool :=
  match p.tail with
  | .transfer t => decide (t.rsv = n ∧ t.off = 0)
  | .rect t => decide (t.mid = n ∧ t.off = 0)
  | _ => false

/-- Does a packet belong to reservation `n`? -/
def inRsv (n : Nat) (p : Packet) : Bool := decide (rsvOf p = n)

/-- A scatter row's read was flagged before its packet left: the row ends with outcome 0x0A and its reservation is released (R119, R169). -/
def State.rowUnread (s : State) (c : Coord) (m : Cmd) (r : SrcRsv) : State :=
  let s := (s.accounted c r.tag (some r.rsv) false).sendRelease c m.core r
  let s := (s.endRow c r.tag r.idx 0x0A).endSrcRsv c r.rsv
  (s.faultEvent (routerBlock c) 5 0 (r.tag % 65536)).modCmd c r.tag (fun m => { m with srcFail := 5 })

/-- A read for a PUT, an MCAST or a segment was flagged. What has not left of the command, or of the segment's reservation, is taken back;
a PUT's reservation of which nothing has left is released (R119, R169, R245). -/
def State.dataUnread (s : State) (c : Coord) (l typ tag n : Nat) (r : SrcRsv) (back : Bool) : State :=
  let which := fun (p : Packet) => decide (srcCell p.src = c ∧ p.typ = typ ∧ p.tag = tag)
  match r.use with
  | .segment ctx epoch dst =>
    let x := if back then s.retract c l (fun p => which p && inRsv n p) else (s, [])
    let is := match s.segParts c ctx epoch dst r.base r.size with
      | some ps => ps.map Prod.fst
      | none => []
    x.1.segmentFail c r 5 (! x.2.any (firstOf n)) is
  | .cmd =>
    let x := if back then s.retract c l which else (s, [])
    let left := ! x.2.any (firstOf n)
    let s := x.1
    match s.cmd? c tag with
    | some m =>
      let s := if ! left ∧ typ = 0x10 then (s.accounted c tag (some r.rsv) false).sendRelease c m.core r else s
      s.sourceFail c r 5 left
    | none => s
  | _ => s

/-- A read for a packet was flagged: bytes `lo` to `hi` of its payload are lost (R119). -/
def State.pktUnread (s : State) (c : Coord) (u : ReadUse) (typ cls tag n lo hi : Nat) : State :=
  let l := 2 * cls
  let back := s.unleft c l u
  let s := if back then s else s.fillRead c l lo hi
  if typ = 0x12 then
    match s.cmd? c tag with
    | some m => if back then (s.retract c l (readFor c u)).1.readFailed c m else s.faultEvent (routerBlock c) 5 0 (tag % 65536)
    | none => s
  else match s.readRsv c typ tag n with
    | none => s
    | some r =>
      if typ = 0x15 then
        match s.cmd? c tag with
        | some m =>
          if back then (s.retract c l (readFor c u)).1.rowUnread c m r
          else (s.faultEvent (routerBlock c) 5 0 (tag % 65536)).modCmd c tag (fun m => { m with srcFail := 5 })
        | none => s
      else s.dataUnread c l typ tag n r back

/-- A read for a reply was flagged (R171): while its packet's header has not left, the requester is told POISONED and no further packet of
the request is sent; after that the packet is completed with fillers. -/
def State.replyUnread (s : State) (c : Coord) (u : ReadUse) (who : SrcAddr) (tag n off lo hi : Nat) : State :=
  let mine := fun (p : Packet) => decide (srcCell p.src = c ∧ p.typ = 0x11 ∧ p.tag = tag ∧ p.dest = replyTo who) &&
    (match p.tail with
     | .transfer t => decide (t.rsv = n ∧ off ≤ t.off)
     | _ => false)
  let s := s.faultEvent (routerBlock c) 5 0 (tag % 65536 + 65536 * 4)
  let req := ctlPkt 4 false ⟨s.engine, c.x, c.y, 0⟩ who tag ⟨0, 0, n, 0, 0, 0, 0, 0⟩
  [2, 4, 6].foldl (fun (s : State) l =>
    if s.unleft c l u then (s.retract c l mine).1.raiseNack c (s.srcOf c 0) req 0x0A 0 0
    else if (s.lane c 8 l).cur.any (fun k => (packetOf k.hdr [] false).any (readFor c u)) then s.fillRead c l lo hi
    else s) s

/-- A row's index entry was read with the flag set: the row ends with outcome 0x0A, and no request leaves for it (R119). -/
def State.entryUnread (s : State) (c : Coord) (tag j : Nat) : State :=
  match s.cmd? c tag, ((s.cmd? c tag).bind (fun m => m.rows.find? (fun r => r.j == j && r.phase == 4))) with
  | some m, some row =>
    let s := (s.faultEvent (routerBlock c) 5 0 (tag % 65536)).modCmd c tag (fun m => { m with srcFail := 5 })
    let s := s.endRow c tag j 0x0A
    if kindOf m.desc = .putScatter then
      match (s.cell c).rsvs.find? (fun r => decide (r.tag = tag ∧ r.idx = j ∧ r.st = .reading)) with
      | some r => s.endSrcRsv c r.rsv
      | none => s
    else s.gatherSettle c tag row.rsv
  | _, _ => s

/-- A row's index entry has been read. -/
def State.entryRead (s : State) (c : Coord) (tag j : Nat) : State :=
  match s.cmd? c tag with
  | some m =>
    if ! m.rows.any (fun r => r.j == j && r.phase == 4) then s
    else if kindOf m.desc = .putScatter then s.scatterRow c m j
    else s.gatherRow c m j
  | none => s

/-- A command whose bytes are read before it acts (R110, R111): a flagged read ends it with MEMERR, and the last good one lets it act. -/
def State.wholeRead (s : State) (c : Coord) (tag : Nat) (u : ReadUse) (err : Bool) (go : State → Cmd → State) : State :=
  match s.cmd? c tag with
  | none => s
  | some m =>
    if err then (s.modCell c (fun q => { q with mrd := q.mrd.filter (fun r => decide (r.use ≠ u)) })).readFailed c m
    else if (s.cell c).mrd.any (fun r => decide (r.use = u)) then s
    else go s m

/-- A granule for a packet has been read. With the last one of its reservation the packets have been injected, and the timer runs from here
(R168); a segment's slices are taken with their last byte (R109). -/
def State.readsIn (s : State) (c : Coord) (typ tag n : Nat) : State :=
  match s.readRsv c typ tag n with
  | none => s
  | some r =>
    let s := s.restartTimer c (fun x => decide (x.rsv = r.rsv))
    match r.use with
    | .segment ctx epoch _ => s.exchSettle c ctx epoch
    | _ => s

/-- What becomes of a read by what it was issued for. Those of CONS_ADDR, spill records and checks that the router makes for itself are told by
their granule's last answer (log 104). -/
def State.readTaken (s : State) (c : Coord) (r : MemRead) (err : Bool) : State :=
  match r.use with
  | .pull tag k | .stage tag k => (if err then s.depUnread c tag k else s.depRead c tag k).thirdRead c tag k err
  | .pkt typ cls tag n _ => if err then s.pktUnread c r.use typ cls tag n r.lo r.hi else s.readsIn c typ tag n
  | .reply who tag n off => if err then s.replyUnread c r.use who tag n off r.lo r.hi else s
  | .row tag j => if err then s.entryUnread c tag j else s.entryRead c tag j
  | .dict tag => s.wholeRead c tag r.use err (fun s m => s.dictGo c m)
  | .watch tag => s.wholeRead c tag r.use err (fun s m => s.watchGo c m)
  | .held | .other => s

/-- The surroundings answer the read that the port serves (R118, R119): a flagged one counts in RERR_COUNT. What waits behind it has its next
chance in the next fc (log 108). -/
def State.memAnswer (s : State) (c : Coord) (err : Bool) : State :=
  let s := s.countStalls c
  match (s.cell c).mrd with
  | [] => s
  | r :: rest =>
    let s := s.modCell c (fun q => { q with
      mrd := rest, portAt := s.nextFc (s.fieldOf c),
      bad := (q.bad.filter (fun g => g != r.gran)) ++ (if err then [r.gran] else []) })
    let s := if err then s.bump (cellNode c) 0 0x4000 8 1 else s
    ((s.readTaken c r err).tidyRouter c).after c

/-- The surroundings acknowledge the write that the port serves (R118). -/
def State.memAck (s : State) (c : Coord) : State :=
  (s.countStalls c).modCell c (fun q => { q with mwr := q.mwr.drop 1, portAt := s.nextFc (s.fieldOf c) })

end Sys2Proof.Machine
end

