-- ==== Sys2Proof/Machine/Guard.lean ====
section
/-! DEFINITION. The units that a command's operand must name (R4 to R6, R47, R273, R300): a command whose operand names a cell,
port, field, drop or link port that the build does not have has no receiver, and stops. -/

namespace Sys2Proof.Machine

/-- The outcome of a command. -/
abbrev Out := Host.Outcome State Fault Refusal

/-- The command acts where its unit exists. -/
def whenUnit (ok : Bool) (what : String) (t : State) : Out := if ok then .next t else .fault (.noSuchUnit what)

/-- A cell of the grid (R6). -/
def State.onCell (s : State) (c : Coord) (t : State) : Out := whenUnit (s.inGrid c) "cell" t

/-- One of the four cores of a cell (R5). -/
def State.onCore (s : State) (c : Coord) (core : Nat) (t : State) : Out := whenUnit (s.inGrid c && decide (core < 4)) "core" t

/-- A completion counter of a core (R115). -/
def State.onCtr (s : State) (c : Coord) (core k : Nat) (t : State) : Out :=
  whenUnit (s.inGrid c && decide (core < 4) && decide (k < 16)) "counter" t

/-- A channel of a cell, as a core reads it (R121, R133). -/
def State.onChan (s : State) (c : Coord) (core n : Nat) (t : State) : Out :=
  whenUnit (s.inGrid c && decide (core < 4) && decide (n < 64)) "channel" t

/-- A port of a router (R47, R76). -/
def State.onPort (s : State) (c : Coord) (q : Nat) (t : State) : Out := whenUnit (s.inGrid c && hasPort c q) "port" t

/-- A port of a router that a link joins to a neighbour: every port but the cell port. -/
def State.onLinkSide (s : State) (c : Coord) (q : Nat) (t : State) : Out :=
  whenUnit (s.inGrid c && hasPort c q && decide (q < 8)) "port" t

/-- A field (R6). -/
def State.onField (s : State) (f : Nat) (t : State) : Out := whenUnit (decide (f < s.nFields)) "field" t

/-- A drop of a fitted stack (R273). -/
def State.onDrop (s : State) (st d : Nat) (t : State) : Out := whenUnit (s.stackFitted st && decide (d < 32)) "drop" t

/-- A link port (R300). -/
def State.onLink (s : State) (p : Nat) (t : State) : Out := whenUnit (decide (p < s.nPorts)) "link port" t

/-- A router, drop or link port that grants (R163). -/
def State.onSite (s : State) (x : Site) (t : State) : Out :=
  match x with
  | .router c => s.onCell c t
  | .drop st d => s.onDrop st d t
  | .port p => s.onLink p t

end Sys2Proof.Machine
end

