-- ==== Sys2Proof/Machine/CellCmds.lean ====
section
/-! DEFINITION. The commands of the cell port (chapter 5): a core presents a descriptor, the port accepts the queue heads kind by
kind, and the direct operations on completion counters (R99 to R117). -/

namespace Sys2Proof.Machine

/-- A descriptor joins the tail of a core's queue of 64 entries; a full queue takes none (R99, R107). A command at the head of a queue
wakes its field (R408, cause 3). -/
def State.present (s : State) (c : Coord) (core d : Nat) : State :=
  if (s.cell c).inReset ∨ 64 ≤ (s.core c core).queue.length then s
  else (s.modCore c core (fun k => { k with queue := k.queue ++ [d] })).causeWake (s.fieldOf c) 3

/-- COMMAND_PRESENT (R99). -/
def execCommandPresent (c : Coord) (core : Nat) (d : Descriptor) (s : State) : Out := s.onCore c core (s.present c core d.toNat)

/-- PUT (R103, R168). -/
def execPut (c : Coord) (s : State) : Out := s.onCell c (s.accept c .put)

/-- GET (R103, R171). -/
def execGet (c : Coord) (s : State) : Out := s.onCell c (s.accept c .get)

/-- PUT_SCATTER (R105, R289). -/
def execPutScatter (c : Coord) (s : State) : Out := s.onCell c (s.accept c .putScatter)

/-- GET_GATHER (R105, R283). -/
def execGetGather (c : Coord) (s : State) : Out := s.onCell c (s.accept c .getGather)

/-- SEND (R106). -/
def execSend (c : Coord) (s : State) : Out := s.onCell c (s.accept c .send)

/-- MCAST (R103, R174). -/
def execMcast (c : Coord) (s : State) : Out := s.onCell c (s.accept c .mcast)

/-- DEPOSIT (R107 to R109). -/
def execDeposit (c : Coord) (s : State) : Out := s.onCell c (s.accept c .deposit)

/-- SIGNAL_BAR_ARRIVE (R151). -/
def execSignalBarArrive (c : Coord) (s : State) : Out := s.onCell c (s.accept c .barArrive)

/-- SIGNAL_TALLY_ADD (R156). -/
def execSignalTallyAdd (c : Coord) (s : State) : Out := s.onCell c (s.accept c (.tally 0x10))

/-- SIGNAL_TALLY_MIN (R156). -/
def execSignalTallyMin (c : Coord) (s : State) : Out := s.onCell c (s.accept c (.tally 0x11))

/-- SIGNAL_TALLY_MAX (R156). -/
def execSignalTallyMax (c : Coord) (s : State) : Out := s.onCell c (s.accept c (.tally 0x12))

/-- SIGNAL_TALLY_READ (R156). -/
def execSignalTallyRead (c : Coord) (s : State) : Out := s.onCell c (s.accept c (.tally 0x13))

/-- SIGNAL_TALLY_SWAP (R156). -/
def execSignalTallySwap (c : Coord) (s : State) : Out := s.onCell c (s.accept c (.tally 0x14))

/-- SIGNAL_TALLY_TAKE (R156). -/
def execSignalTallyTake (c : Coord) (s : State) : Out := s.onCell c (s.accept c (.tally 0x15))

/-- SIGNAL_INT (R157). -/
def execSignalInt (c : Coord) (s : State) : Out := s.onCell c (s.accept c .int)

/-- SIGNAL_WAKE (R157). -/
def execSignalWake (c : Coord) (s : State) : Out := s.onCell c (s.accept c .wake)

/-- FENCE_ISSUE (R117, R462). -/
def execFenceIssue (c : Coord) (s : State) : Out := s.onCell c (s.accept c .fenceIssue)

/-- FENCE_DONE (R117). -/
def execFenceDone (c : Coord) (s : State) : Out := s.onCell c (s.accept c .fenceDone)

/-- FENCE_CTX (R117). -/
def execFenceCtx (c : Coord) (s : State) : Out := s.onCell c (s.accept c .fenceCtx)

/-- DICT_READ (R110). -/
def execDictRead (c : Coord) (s : State) : Out := s.onCell c (s.accept c .dictRead)

/-- DICT_WRITE (R110). -/
def execDictWrite (c : Coord) (s : State) : Out := s.onCell c (s.accept c .dictWrite)

/-- WATCH_BUFFER (R111, R357). -/
def execWatchBuffer (c : Coord) (s : State) : Out := s.onCell c (s.accept c .watchBuffer)

/-- WATCH_CONTEXT (R111, R357). -/
def execWatchContext (c : Coord) (s : State) : Out := s.onCell c (s.accept c .watchContext)

/-- A direct operation of a core is served unless its cell is in reset (R120, R133). -/
def State.direct (s : State) (c : Coord) (run : State) : State := if (s.cell c).inReset then s else run

/-- COUNTER_READ (R115). -/
def execCounterRead (c : Coord) (core tag k : Nat) (s : State) : Out :=
  s.onCtr c core k (s.direct c (s.answer c core tag (s.counter c core k) 0))

/-- A blocking wait on counter `k` for `v` (R115): a wait it replaces is answered with TIMEOUT; then it is answered at once where the
counter is at or past `v`, or it waits for WAIT_TIMEOUT. -/
def State.blockingWait (s : State) (c : Coord) (core tag k v : Nat) : State :=
  let s := match (s.core c core).waits.find? (fun w => w.k == k) with
    | some w => (s.modCore c core (fun q => { q with waits := q.waits.filter (fun x => x.k != k) })).answer c core w.tag (s.counter c core k) 1
    | none => s
  let n := s.counter c core k
  if atOrPast32 n v then s.answer c core tag n 0
  else s.modCore c core (fun q => { q with waits := q.waits ++ [⟨k, v % 2 ^ 32, tag, s.time + us (s.reg (cellNode c) 0 0x4000 2)⟩] })

/-- BLOCKING_WAIT (R115). -/
def execBlockingWait (c : Coord) (core tag k v : Nat) (s : State) : Out :=
  s.onCtr c core k (s.direct c (s.blockingWait c core tag k v))

/-- A blocking wait outlasts WAIT_TIMEOUT (R115). -/
def State.waitLate (s : State) (c : Coord) (core k : Nat) : State :=
  match (s.core c core).waits.find? (fun w => w.k == k) with
  | none => s
  | some w =>
    let s : State := { s with time := max s.time w.deadline }
    (s.modCore c core (fun q => { q with waits := q.waits.filter (fun x => x.k != k) })).answer c core w.tag (s.counter c core k) 1

/-- WAIT_TIMEOUT_EXPIRY (R115). -/
def execWaitTimeoutExpiry (c : Coord) (core k : Nat) (s : State) : Out := s.onCtr c core k (s.waitLate c core k)

/-- INT_TAKE (R158). -/
def execIntTake (c : Coord) (core tag : Nat) (s : State) : Out := s.onCore c core (s.direct c (s.intTake c core tag))

end Sys2Proof.Machine
end

