-- ==== Sys2Proof/Machine/ChanCmds.lean ====
section
/-! DEFINITION. The commands of the message channels (chapter 6): the direct operations of a reading core (R133 to R135), and the
admission and landing of messages (R126 to R130). -/

namespace Sys2Proof.Machine

/-- CH_POLL (R133). -/
def execChPoll (c : Coord) (core tag n : Nat) (s : State) : Out :=
  s.onChan c core n (s.direct c (s.answer c core tag (s.chanWord c n) 0))

/-- A CH_WAIT (R133, R134): the one it replaces is answered EMPTY; then it is answered at once, or it waits for READ_TIMEOUT. -/
def State.chWait (s : State) (c : Coord) (core tag n : Nat) : State :=
  let s := match (s.core c core).chWaits.find? (fun w => w.n == n) with
    | some w => (s.modCore c core (fun q => { q with chWaits := q.chWaits.filter (fun x => x.n != n) })).answer c core w.tag (s.chanWord c n) 0
    | none => s
  if s.chanReady c n then s.answer c core tag (s.chanWord c n) 0
  else s.modCore c core (fun q => { q with chWaits := q.chWaits ++ [⟨n, tag, s.time + us (s.reg (cellNode c) 0 0x4180 1)⟩] })

/-- CH_WAIT (R134). -/
def execChWait (c : Coord) (core tag n : Nat) (s : State) : Out := s.onChan c core n (s.direct c (s.chWait c core tag n))

/-- A CH_WAIT outlasts READ_TIMEOUT (R133). -/
def State.chWaitLate (s : State) (c : Coord) (core n : Nat) : State :=
  match (s.core c core).chWaits.find? (fun w => w.n == n) with
  | none => s
  | some w =>
    let s : State := { s with time := max s.time w.deadline }
    (s.modCore c core (fun q => { q with chWaits := q.chWaits.filter (fun x => x.n != n) })).answer c core w.tag (s.chanWord c n) 0

/-- CH_WAIT_TIMEOUT (R133). -/
def execChWaitTimeout (c : Coord) (core n : Nat) (s : State) : Out := s.onChan c core n (s.chWaitLate c core n)

/-- A CH_ADVANCE, answered with the resulting H and its outcome: 0 DONE, 1 MISMATCH, 2 REFUSED (R135). -/
def State.chAdvanceOp (s : State) (c : Coord) (core tag n h g : Nat) : State :=
  let r := s.chAdvance c n (h % 2 ^ 32) (g % 2 ^ 32)
  r.2.answer c core tag (r.2.chan c n 9) r.1

/-- CH_ADVANCE (R135). -/
def execChAdvance (c : Coord) (core tag n h g : Nat) (s : State) : Out := s.onChan c core n (s.direct c (s.chAdvanceOp c core tag n h g))

/-- SEND_ADMISSION (R126). -/
def execSendAdmission (c : Coord) (p : Packet) (s : State) : Out :=
  s.onCell c (match p.typ, p.tail with
    | 0x12, .message t => s.atEject c p ((s.sendAdmission c p t).done)
    | _, _ => s)

/-- SEND_LANDING (R129). -/
def execSendLanding (c : Coord) (p : Packet) (s : State) : Out :=
  s.onCell c (match p.typ, p.tail with
    | 0x12, .message t => s.atEject c p ((s.sendLanding c p t).done)
    | _, _ => s)

/-- CHAN_STATE_WRITE (R136). -/
def execChanStateWrite (r : DictReq) (s : State) : Out :=
  .next (if r.wr ∧ 0x4100 ≤ r.index ∧ r.index ≤ 0x413F ∧ r.sub = 1 then (s.dictServe r).done else s)

/-- CHAN_HEAD_WRITE (R121). -/
def execChanHeadWrite (r : DictReq) (s : State) : Out :=
  .next (if r.wr ∧ 0x4100 ≤ r.index ∧ r.index ≤ 0x413F ∧ r.sub = 9 then (s.dictServe r).done else s)

end Sys2Proof.Machine
end

