-- ==== Sys2Proof/Machine/RouterCmds.lean ====
section
/-! DEFINITION. The commands of a router's data ports and rings (chapters 1 to 4): beats, credits, the grant of gusts, Trade claims,
credit sync, the reclose, and anycast. While the fabric clock of the router's field is stopped what arrives waits in the DCQ, and nothing that
counts fc comes due (R12, R398, R399). -/

namespace Sys2Proof.Machine

/-- Is a beat on a wire this one? -/
def WireBeat.isAt (w : WireBeat) (c : Coord) (q : Nat) (cw : List Byte) (side : Nat) : Bool :=
  w.c == c && w.port == q && w.cw == cw && w.side == side

/-- A beat leaves its wire. -/
def State.offWire (s : State) (c : Coord) (q : Nat) (cw : List Byte) (side : Nat) : State :=
  { s with wires := s.wires.eraseP (fun w => w.isAt c q cw side) }

/-- A beat arrives at an input port (R24, R36): it leaves its wire, and is checked and buffered. A hole takes in nothing (R57). -/
def State.beatIn (s : State) (c : Coord) (q : Nat) (cw : List Byte) (side : Nat) : State :=
  let copy := ((s.wires.find? (fun w => w.isAt c q cw side)).map WireBeat.copy).getD false
  let s := s.offWire c q cw side
  if s.isHole c then s else ((s.recvBeat c q cw side copy).tidyRouter c).done

/-- The marker of a credit sync, a credit beat of all zeros, leaves its wire (R91). -/
def State.offMarker (s : State) (c : Coord) (q : Nat) : State :=
  s.offWire c q (rsEncode (zeros 32)) (sideByte 0xE false false false)

/-- DATA_BEAT_RECEIVE (R24). -/
def execDataBeatReceive (c : Coord) (port : Nat) (cw : List Byte) (side : Nat) (s : State) : Out :=
  s.onLinkSide c port (s.clocked c (s.beatIn c port cw side))

/-- CREDIT_BEAT_RECEIVE (R20): a beat whose side byte names a credit beat. -/
def execCreditBeatReceive (c : Coord) (port : Nat) (cw : List Byte) (side : Nat) (s : State) : Out :=
  s.onLinkSide c port (s.clocked c (if bits side 0 4 = 0xE then s.beatIn c port cw side else s))

/-- GUST_DECISION (R81). -/
def execGustDecision (c : Coord) (port : Nat) (s : State) : Out := s.onPort c port (s.clocked c ((s.gustDecision c port).done))

/-- CREDIT_BEAT_INSERT (R20). -/
def execCreditBeatInsert (c : Coord) (port : Nat) (s : State) : Out := s.onLinkSide c port (s.clocked c (s.creditBeatInsert c port))

/-- ARB_WINDOW_BOUNDARY (R79). -/
def execArbWindowBoundary (c : Coord) (port : Nat) (s : State) : Out := s.onPort c port (s.clocked c (s.windowBoundary c port))

/-- TRADE_CLAIM_ARISE (R85). -/
def execTradeClaimArise (c : Coord) (port : Nat) (s : State) : Out := s.onPort c port (s.clocked c (s.claimArise c port))

/-- TRADE_CLAIM_LAPSE (R85). -/
def execTradeClaimLapse (c : Coord) (port : Nat) (s : State) : Out := s.onPort c port (s.clocked c (s.claimLapse c port))

/-- TRADE_TABLE_APPLY (R86). -/
def execTradeTableApply (c : Coord) (port : Nat) (s : State) : Out := s.onPort c port (s.clocked c (s.slotApply c port))

/-- CREDIT_SYNC_REQ_RECEIVE (R91). -/
def execCreditSyncReqReceive (c : Coord) (port : Nat) (s : State) : Out := s.onLinkSide c port (s.clocked c ((s.takeLocal c port (.creditSyncReq c port)).syncRequest c port))

/-- CREDIT_SYNC_MARKER_RECEIVE (R91). -/
def execCreditSyncMarkerReceive (c : Coord) (port : Nat) (s : State) : Out := s.onLinkSide c port (s.clocked c ((s.offMarker c port).syncMarker c port))

/-- CREDIT_SYNC_RSP_RECEIVE (R91). -/
def execCreditSyncRspReceive (c : Coord) (port : Nat) (counts : List Nat) (s : State) : Out :=
  s.onLinkSide c port (s.clocked c ((s.takeLocal c port (.creditSyncRsp c port counts)).syncReply c port counts))

/-- CREDIT_SYNC_RETRY (R91). -/
def execCreditSyncRetry (c : Coord) (port : Nat) (s : State) : Out := s.onLinkSide c port (s.clocked c (s.syncRetry c port))

/-- CREDIT_SIGNAL_SEND (R145). -/
def execCreditSignalSend (c : Coord) (port : Nat) (s : State) : Out := s.onLinkSide c port (s.clocked c (s.creditSignal c port))

/-- CREDIT_SIGNAL_RECEIVE (R145). -/
def execCreditSignalReceive (c : Coord) (port : Nat) (counts : List Nat) (s : State) : Out :=
  s.onLinkSide c port (s.clocked c ((s.takeLocal c port (.credit c port counts)).creditSignalAt c port counts))

/-- ROUTER_FENCE (R66): a router that has reached its threshold, that a FENCE write names, or that lost its last lane. -/
def execRouterFence (c : Coord) (s : State) : Out :=
  s.onCell c (if s.fences.contains (routerBlock c) then (s.fenceUnit c).done else s)

/-- RING_CHANGE_RECEIVE (R66, R75). -/
def execRingChangeReceive (c hole : Coord) (rowByp colByp : Bool) (s : State) : Out :=
  s.onCell c ((((((s.takeSig (.ringChange hole rowByp colByp)).ringChangeAt c hole).purgeAt c).pump c)).done)

/-- RECLOSE_RELEASE (R66). -/
def execRecloseRelease (hole : Coord) (s : State) : Out := s.onCell hole ((s.recloseRelease hole).done)

/-- An anycast group (R71). -/
def State.onGroup (_s : State) (g : Nat) (t : State) : Out := whenUnit (decide (g < 256)) "anycast group" t

/-- ANYCAST_ADVERTISE (R72). -/
def execAnycastAdvertise (g : Nat) (s : State) : Out := s.onGroup g (s.anyAdvertise g)

/-- ANYCAST_WINNER_DECODE (R72). -/
def execAnycastWinnerDecode (g : Nat) (s : State) : Out := s.onGroup g (s.anyDecode g)

/-- ANY_WIN_RECEIVE (R73). -/
def execAnyWinReceive (c : Coord) (g member : Nat) (noWinner : Bool) (s : State) : Out :=
  s.onCell c (s.anyWinAt c g member noWinner)

end Sys2Proof.Machine
end

