-- ==== Sys2Proof/Machine/SignalCmds.lean ====
section
/-! DEFINITION. The commands of the signal net (chapter 7): its beats and their credits, barriers, tally counters, interrupts, wakes,
NACK and DELIVERED at their cells, and the reply timeout. -/

namespace Sys2Proof.Machine

/-- SIGNAL_BEAT_RECEIVE (R141): its signal is buffered and goes on, or acts on its link. -/
def execSignalBeatReceive (c : Coord) (port : Nat) (cw : List Byte) (side : Nat) (s : State) : Out :=
  s.onLinkSide c port (((s.recvSigBeat c port cw side).serveSignals c).done)

/-- SLSYNC_SEND (R142). -/
def execSlsyncSend (c : Coord) (port : Nat) (s : State) : Out := s.onLinkSide c port (s.clocked c (s.slsyncSend c port))

/-- SLSYNC_RECEIVE (R142). -/
def execSlsyncReceive (c : Coord) (port : Nat) (counts : List Nat) (s : State) : Out :=
  s.onLinkSide c port (s.clocked c (((s.takeLocal c port (.slsync c port counts)).slsyncAt c port counts).serveSignals c))

/-- A barrier context (R150). -/
def State.onBarrier (_s : State) (k : Nat) (t : State) : Out := whenUnit (decide (k < 4096)) "barrier context" t

/-- BAR_ARRIVE_AT_ROOT (R151, R153). -/
def execBarArriveAtRoot (c : Coord) (a : BarArrive) (s : State) : Out :=
  whenUnit (s.inGrid c && decide (a.bctx < 4096)) "barrier root" (s.barArriveAt c a)

/-- BARRIER_PHASE_TIMEOUT (R153). -/
def execBarrierPhaseTimeout (bctx : Nat) (s : State) : Out := s.onBarrier bctx (s.barTimeout bctx)

/-- BAR_RELEASE_RECEIVE (R154, R245). -/
def execBarReleaseReceive (c : Coord) (r : BarRelease) (s : State) : Out :=
  s.onCell c (s.atSig c (.barRelease r) (fun s => ((s.barReleaseAt c r).xbarRelease c r).after c))

/-- TALLY_REQUEST_AT_HOME (R156). -/
def execTallyRequestAtHome (q : TallyReq) (s : State) : Out :=
  whenUnit (decide (q.f < s.nFields) && decide (q.k < 256) && decide (0x10 ≤ q.op) && decide (q.op ≤ 0x15)) "tally counter" (s.tallyAt q)

/-- TALLY_RSP_RECEIVE (R156). -/
def execTallyRspReceive (q : TallyRsp) (s : State) : Out :=
  s.onCell ⟨q.x, q.y⟩ (s.atSig ⟨q.x, q.y⟩ (.tallyRsp q) (fun s => (s.tallyRspAt q).after ⟨q.x, q.y⟩))

/-- An INT reaches its core's queue (R158). -/
def State.intRecv (s : State) (c : Coord) (core origin arg32 : Nat) : State :=
  s.atSig c (.int ⟨s.engine, c.x, c.y, core, false⟩ (srcAddrOf origin) arg32) (fun s => s.intAt c core origin arg32)

/-- INT_RECEIVE (R158). -/
def execIntReceive (c : Coord) (core origin arg32 : Nat) (s : State) : Out := s.onCore c core (s.intRecv c core origin arg32)

/-- A WAKE reaches its field's power controller (R159). -/
def State.wakeRecv (s : State) (f arg8 : Nat) : State :=
  let mine := fun (g : Signal) => match g with
    | .wake t _ a => decide (t.eng = s.engine) && decide (s.fieldOf ⟨t.x, t.y⟩ = f) && a == arg8
    | _ => false
  let s := match s.sigs.find? mine with
    | some g => s.takeSig g
    | none => s
  s.wakeAt f arg8

/-- WAKE_RECEIVE (R159, R408). -/
def execWakeReceive (f arg8 : Nat) (s : State) : Out := s.onField f (s.wakeRecv f arg8)

/-- NACK_RECEIVE (R132). -/
def execNackReceive (n : Nack) (s : State) : Out :=
  whenUnit (s.inGrid (srcCell n.target) && decide (n.target.eng = s.engine)) "cell" (s.nackAt n)

/-- REPLY_TIMEOUT_EXPIRY (R160). -/
def execReplyTimeoutExpiry (c : Coord) (slot : Nat) (s : State) : Out := s.onCell c (s.replyLate c slot)

/-- DELIVERED_RECEIVE (R106, R168). -/
def execDeliveredReceive (d : Delivered) (s : State) : Out :=
  whenUnit (s.inGrid (srcCell d.target) && decide (d.target.eng = s.engine)) "cell" (s.deliveredAt d)

end Sys2Proof.Machine
end

