-- ==== Sys2Proof/Machine/BulkCmds.lean ====
section
/-! DEFINITION. The commands of Bulk transfers and multicast (chapter 8) at routers, drops and link ports: requests, grants, payloads,
leases, and the combined multicast call. -/

namespace Sys2Proof.Machine

/-- A packet of a type, with a tail of the kind that `f` reads, acts at the router it ends at; another changes nothing. -/
def State.onTransfer (s : State) (c : Coord) (p : Packet) (typs : List Nat) (f : TransferTail → State) : State :=
  match p.tail with
  | .transfer t => if typs.contains p.typ then s.atEject c p (f t) else s
  | _ => s

/-- A packet at the router of a cell that runs; in reset it is discarded (R94). -/
def State.cellRuns (s : State) (c : Coord) (p : Packet) (run : State) : State := (s.resetDrop c p).getD run

/-- RESERVE at its site (R163, R279, R289, R312). -/
def State.reserveAt (s : State) (x : Site) (p : Packet) (t : TransferTail) : State :=
  match x with
  | .router _ => s.reserveReceive x (.put t.addr) p t
  | .drop st d => s.dropReserve st d p t
  | .port q => s.transitReserve q p t

/-- RESERVE_RECEIVE (R163). -/
def execReserveReceive (site : Site) (p : Packet) (s : State) : Out :=
  s.onSite site (s.onTransfer (s.siteCell site) p [1] (fun t => s.reserveAt site p t))

/-- The head request of a site is granted, if it can be (R163, R283, R289, R312). -/
def State.grantSite (s : State) (x : Site) : State :=
  match x with
  | .router c => (s.reservationGrant x).after c
  | .drop st d => (s.dropGrant st d).done
  | .port q => (s.transitGive q).done

/-- RESERVATION_GRANT (R165). -/
def execReservationGrant (site : Site) (s : State) : Out := s.onSite site (s.grantSite site)

/-- GRANT_RECEIVE (R168). A GRANT of one of the router's own transfers is taken in reset too. -/
def execGrantReceive (c : Coord) (p : Packet) (s : State) : Out :=
  s.onCell c (s.onTransfer c p [2] (fun t =>
    if (s.srcRsv? c t.rsv).isSome then s.grantRecv c p t else s.cellRuns c p (s.grantRecv c p t)))

/-- PUT_DATA or TRACE at its site (R162, R165, R166, R279). -/
def State.putDataAt (s : State) (x : Site) (p : Packet) (t : TransferTail) : State :=
  let r := s.landInject x p
  match x with
  | .router c => r.2.cellRuns c r.1 (r.2.putDataCell c r.1 t)
  | .drop st d => r.2.dropPutData st d r.1 t
  | .port _ => s

/-- PUT_DATA_HEADER (R166). -/
def execPutDataHeader (site : Site) (p : Packet) (s : State) : Out :=
  s.onSite site (s.onTransfer (s.siteCell site) p [0x10, 0x17] (fun t => (s.putDataAt site p t).done))

/-- The last byte of a reservation has been written (R165, R279). -/
def State.filledAt (s : State) (x : Site) (k : RsvKey) : State :=
  match x with
  | .router c => ((s.noteSegment c k).filledCell c k).done
  | .drop st d => (s.dropFilled st d k).done
  | .port _ => s

/-- RESERVATION_FILLED (R165). -/
def execReservationFilled (site : Site) (key : RsvKey) (s : State) : Out := s.onSite site (s.filledAt site key)

/-- The lease of a reservation ends (R167, R171, R279, R283, R312). -/
def State.leaseAt (s : State) (x : Site) (k : RsvKey) : State :=
  match x with
  | .router c =>
    (s.expireCell c k (fun s r => match r.kind with
      | .gather _ => s.expireGather c r
      | _ => s.expireOwn c r)).after c
  | .drop st d => (s.dropExpire st d k).done
  | .port q => s.transitExpiry q k

/-- LANDING_LEASE_EXPIRY (R167). -/
def execLandingLeaseExpiry (site : Site) (key : RsvKey) (s : State) : Out := s.onSite site (s.leaseAt site key)

/-- RELEASE at its site (R165). -/
def State.releaseSite (s : State) (x : Site) (p : Packet) (t : TransferTail) : State :=
  match x with
  | .router c => s.cellRuns c p (s.releaseAt x p t)
  | .drop st d => s.dropRelease st d p t
  | .port q => s.transitRelease q p t

/-- RELEASE_RECEIVE (R165). -/
def execReleaseReceive (site : Site) (p : Packet) (s : State) : Out :=
  s.onSite site (s.onTransfer (s.siteCell site) p [3] (fun t => s.releaseSite site p t))

/-- A source reservation (R16, R168). -/
def State.onRsv (s : State) (c : Coord) (rsv : Nat) (t : State) : Out := whenUnit (s.inGrid c && decide (rsv < 64)) "reservation" t

/-- BULK_TIMEOUT_EXPIRY (R168). -/
def execBulkTimeoutExpiry (c : Coord) (rsv : Nat) (s : State) : Out := s.onRsv c rsv (s.bulkLate c rsv)

/-- GET_REQ at its site (R171, R279). -/
def State.getReqAt (s : State) (x : Site) (p : Packet) (t : TransferTail) : State :=
  match x with
  | .router c => (s.getReqCell c p t).done
  | .drop st d => (s.dropGetReq st d p t).done
  | .port _ => s

/-- GET_REQ_RECEIVE (R171). -/
def execGetReqReceive (site : Site) (p : Packet) (s : State) : Out :=
  s.onSite site (s.onTransfer (s.siteCell site) p [4] (fun t => s.getReqAt site p t))

/-- GET_DATA at its requester (R171). -/
def State.getDataAt (s : State) (c : Coord) (p : Packet) (t : TransferTail) : State :=
  let r := s.landInject (.router c) p
  r.2.cellRuns c r.1 ((r.2.getDataCell c r.1 t).after c)

/-- GET_DATA_RECEIVE (R171). -/
def execGetDataReceive (c : Coord) (p : Packet) (s : State) : Out :=
  s.onCell c (s.onTransfer c p [0x11] (fun t => (s.getDataAt c p t).done))

/-- MRES_GRANT_RECEIVE (R174). -/
def execMresGrantReceive (c : Coord) (g : MresGrant) (s : State) : Out :=
  s.onCell c (if g.x ≤ c.x ∧ c.x ≤ g.x1 ∧ g.y ≤ c.y ∧ c.y ≤ g.y1 then s.atSig c (.mresGrant g) (fun s => s.mresGrantAt c g) else s)

/-- An answer reaches the source of its call: a cell, or a drop that streams (R175, R177, R295). -/
def State.mresRecv (s : State) (a : MresArrive) : State :=
  let c := srcCell a.source
  if a.source.stream then ((s.takeSig (.mresArrive a)).strmArrive a).done
  else s.atSig c (.mresArrive a) (fun s => (s.mresArriveCell a).after c)

/-- MRES_ARRIVE_RECEIVE (R175). -/
def execMresArriveReceive (a : MresArrive) (s : State) : Out := s.onCell (srcCell a.source) (s.mresRecv a)

/-- A call is not answered in full within CALL_LIMIT (R175, R295). -/
def State.callLate (s : State) (source : SrcAddr) (mid : Nat) : State :=
  let c := srcCell source
  if source.stream then (s.strmLimit source mid).done else (s.callLimitCell c mid).after c

/-- CALL_LIMIT_EXPIRY (R175). -/
def execCallLimitExpiry (source : SrcAddr) (mid : Nat) (s : State) : Out := s.onCell (srcCell source) (s.callLate source mid)

/-- Does a member's reservation still wait for a rectangle packet: its lease has not ended and the packet's grain has not landed? -/
def State.rectWaits (s : State) (c : Coord) (p : Packet) : Bool :=
  match p.tail with
  | .rect t =>
    match (s.landing (.router c)).find ⟨keySrc p, t.mid, p.tag⟩ with
    | some r => decide (r.st ≠ .failed) && decide (s.ft (s.fieldOf c) < r.expiry) && (nth r.grains (t.off / 64) none).isSome
    | none => false
  | _ => false

/-- Does an earlier packet of the rectangle's flow have to be received at this member before this one (R74)? -/
def State.rectOvertakes (s : State) (c : Coord) (p : Packet) : Bool :=
  s.flight.contains p && (s.flight.takeWhile (· != p)).any (fun x => flowOf x == flowOf p && s.rectWaits c x)

/-- MCAST_DATA or MEM_MCAST at a member (R175, R177). In reset it is discarded, and a member sends no NACK. -/
def State.mcastRecv (s : State) (c : Coord) (p : Packet) (t : RectTail) : State :=
  if (s.cell c).inReset then s
  else
    let r := s.landInject (.router c) p
    (r.2.mcastDataCell c r.1 t).done

/-- MCAST_DATA_RECEIVE (R175). -/
def execMcastDataReceive (c : Coord) (p : Packet) (s : State) : Out :=
  s.onCell c (match p.tail with
    | .rect t => if p.typ = 0x13 ∨ p.typ = 0x16 then s.atEject c p (if s.rectOvertakes c p then s else s.mcastRecv c p t) else s
    | _ => s)

end Sys2Proof.Machine
end

