-- ==== Sys2Proof/Machine/CollCmds.lean ====
section
/-! DEFINITION. The commands of Collectives (chapters 10 and 14): sweeps, roots, results, anchors, exchanges, and the dual reduction. -/

namespace Sys2Proof.Machine

/-- A slice of a context at a router (R213). -/
def State.onSlice (s : State) (c : Coord) (ctx : Nat) (t : State) : Out := whenUnit (s.inGrid c && decide (ctx < 4096)) "context" t

/-- A Collective packet of a type acts at a router; another changes nothing. -/
def onColl (c : Coord) (p : Packet) (typs : List Nat) (s t : State) : State :=
  match p.tail with
  | .coll _ => if typs.contains p.typ then s.atEject c p t else s
  | _ => s

/-- SWEEP_ORIGINATE (R222). -/
def execSweepOriginate (c : Coord) (ctx epoch slice : Nat) (s : State) : Out :=
  s.onSlice c ctx ((s.sweepOriginate c ⟨ctx, epoch, slice⟩).after c)

/-- A sweep at a member or gathering router: not at the root of its computation (R223, R224). One with PASS = 1 goes on untouched (R233). -/
def State.sweepRecv (s : State) (c : Coord) (p : Packet) : State :=
  let t := collTail p
  if t.pass ∨ s.rootFor (packetPh p) t.ctx t.epoch t.slice = some c then s else (s.sweepAt c p).after c

/-- SWEEP_ARRIVE (R223). -/
def execSweepArrive (c : Coord) (p : Packet) (s : State) : Out := s.onCell c (onColl c p [0x21, 0x24] s (s.sweepRecv c p))

/-- SWEEP_WAIT_BUDGET_EXPIRY (R236). -/
def execSweepWaitBudgetExpiry (c : Coord) (ctx epoch slice : Nat) (s : State) : Out :=
  s.onSlice c ctx ((s.waitExpiry c ⟨ctx, epoch, slice⟩ [.half, .col, .row]).after c)

/-- GATHERING_HOLD_EXPIRY (R224). -/
def execGatheringHoldExpiry (c : Coord) (ctx epoch slice : Nat) (s : State) : Out :=
  s.onSlice c ctx ((s.waitExpiry c ⟨ctx, epoch, slice⟩ [.col]).after c)

/-- COLUMN_HALF_ORIGINATE (R224). -/
def execColumnHalfOriginate (c : Coord) (ctx epoch slice : Nat) (s : State) : Out :=
  s.onSlice c ctx ((s.columnOriginate c ⟨ctx, epoch, slice⟩).after c)

/-- An arrival at the root of the value reduction, at the check root, or at the third millstone (R225, *Roles of CHECK packets*). -/
def State.rootRecv (s : State) (c : Coord) (p : Packet) : State :=
  let t := collTail p
  let primary := decide (s.rootFor 1 t.ctx t.epoch t.slice = some c)
  if p.typ = 0x24 then
    if s.checkRoot t.ctx t.epoch t.slice = some c then (s.rootAt c 2 p).after c
    else if s.thirdMill t.ctx t.epoch t.slice = some c then (s.rootAt c 3 p).after c
    else s
  else if primary then (s.rootAt c 1 p).after c
  else s

/-- ROOT_ARRIVAL (R225, R240, R342, R347). -/
def execRootArrival (c : Coord) (p : Packet) (s : State) : Out :=
  s.onCell c (onColl c p [0x21, 0x22, 0x24, 0x25] s (s.rootRecv c p))

/-- SPILL_READ_BACK (R234). -/
def execSpillReadBack (c : Coord) (ctx : Nat) (s : State) : Out := s.onSlice c ctx ((s.spillBack c ctx).after c)

/-- SLICE_LEASE_EXPIRY (R239). -/
def execSliceLeaseExpiry (c : Coord) (ctx epoch slice : Nat) (s : State) : Out :=
  s.onSlice c ctx ((s.leaseExpiry c ⟨ctx, epoch, slice⟩).after c)

/-- ORPHAN_EXPIRY (R238). -/
def execOrphanExpiry (c : Coord) (ctx epoch slice : Nat) (s : State) : Out :=
  s.onSlice c ctx ((s.orphanExpiry c ⟨ctx, epoch, slice⟩).after c)

/-- RESULT_ARRIVE (R226). -/
def execResultArrive (c : Coord) (p : Packet) (s : State) : Out := s.onCell c (onColl c p [0x23] s ((s.resultArrive c p).after c))

/-- ANCHOR_ARRIVE (R229). -/
def execAnchorArrive (c : Coord) (p : Packet) (s : State) : Out := s.onCell c (onColl c p [0x20] s ((s.anchorArrive c p).after c))

/-- ANCHOR_PASS_ORPHAN_EXPIRY (R229). -/
def execAnchorPassOrphanExpiry (c : Coord) (ctx epoch slice : Nat) (s : State) : Out :=
  s.onSlice c ctx ((s.anchorExpiry c ⟨ctx, epoch, slice⟩).after c)

/-- MEMBER_DEADLINE_EXPIRY (R241). -/
def execMemberDeadlineExpiry (c : Coord) (ctx epoch slice : Nat) (s : State) : Out :=
  s.onSlice c ctx (((s.memberDeadline c ⟨ctx, epoch, slice⟩).exchDeadline c ⟨ctx, epoch, slice⟩).after c)

/-- EXCHANGE_SEGMENT_SEND (R245). -/
def execExchangeSegmentSend (c : Coord) (ctx epoch dst : Nat) (s : State) : Out :=
  s.onSlice c ctx ((s.segmentSend c ctx epoch dst).after c)

/-- CHECK_PARTIAL_ARRIVE (R346). -/
def execCheckPartialArrive (c : Coord) (p : Packet) (s : State) : Out :=
  s.onCell c (onColl c p [0x24] s ((s.partialAt c false p).after c))

/-- THIRD_PARTIAL_ARRIVE (R346). -/
def execThirdPartialArrive (c : Coord) (p : Packet) (s : State) : Out :=
  s.onCell c (onColl c p [0x24] s ((s.partialAt c true p).after c))

/-- CHECK_WAIT_EXPIRY (R346). -/
def execCheckWaitExpiry (c : Coord) (ctx epoch slice : Nat) (s : State) : Out :=
  s.onSlice c ctx ((s.checkWaitEnd c ⟨ctx, epoch, slice⟩).after c)

/-- THIRD_WAIT_EXPIRY (R346). -/
def execThirdWaitExpiry (c : Coord) (ctx epoch slice : Nat) (s : State) : Out :=
  s.onSlice c ctx ((s.thirdWaitEnd c ⟨ctx, epoch, slice⟩).after c)

/-- RECHECK_NOTICE_RECEIVE (R347). -/
def execRecheckNoticeReceive (c : Coord) (p : Packet) (s : State) : Out :=
  s.onCell c (onColl c p [0x20, 0x21, 0x22, 0x23, 0x24, 0x25] s ((s.recheckAt c p).after c))

/-- PATTERN_REPLAY (R352). -/
def execPatternReplay (c : Coord) (s : State) : Out := s.onCell c ((s.patternReplay c).done)

/-- REPLAY_NOW (R350). -/
def execReplayNow (r : DictReq) (s : State) : Out := .next (if DictReq.writes r 0x8020 [0x0D] then (s.dictServe r).done else s)

end Sys2Proof.Machine
end

