-- ==== Sys2Proof/Machine/MemCmds.lean ====
section
/-! DEFINITION. The commands of the memory drop ports (chapter 12): gather, scatter, the memory transactions, flushes, streams, and
the fence of a drop. -/

namespace Sys2Proof.Machine

/-- A packet with a Table tail acts at the router it ends at; another changes nothing. -/
def State.onTable (s : State) (c : Coord) (p : Packet) (typ : Nat) (f : TableTail → State) : State :=
  match p.tail with
  | .table t => if p.typ = typ then s.atEject c p (f t) else s
  | _ => s

/-- GATHER_REQ_RECEIVE (R285). -/
def execGatherReqReceive (st d : Nat) (p : Packet) (s : State) : Out :=
  s.onDrop st d (s.onTable (dropCell st d) p 5 (fun _ => (s.gatherReq st d p).done))

/-- A stack (R273) and a table descriptor (R280). -/
def State.onTableAt (s : State) (st tdesc : Nat) (t : State) : Out := whenUnit (s.stackFitted st && decide (tdesc < 1024)) "stack" t

/-- COALESCER_REPLY (R287). -/
def execCoalescerReply (st tdesc row : Nat) (s : State) : Out := s.onTableAt st tdesc ((s.coalescerReply st tdesc row).done)

/-- GATHER_DATA at its requester (R283). -/
def State.gatherDataAt (s : State) (c : Coord) (p : Packet) (t : TableTail) : State :=
  let r := s.landInject (.router c) p
  r.2.cellRuns c r.1 ((r.2.gatherData c r.1 t).after c)

/-- GATHER_DATA_RECEIVE (R283). -/
def execGatherDataReceive (c : Coord) (p : Packet) (s : State) : Out :=
  s.onCell c (s.onTable c p 0x14 (fun t => (s.gatherDataAt c p t).done))

/-- A tag of a drop's memory transactions (R275). -/
def State.onTag (s : State) (st d tag : Nat) (t : State) : Out :=
  whenUnit (s.stackFitted st && decide (d < 32) && decide (tag < 256)) "tag" t

/-- RDATA_RECEIVE (R275, R276, R451). -/
def execRdataReceive (st d tag : Nat) (cw0 cw1 : List Byte) (err parityOk : Bool) (s : State) : Out :=
  s.onTag st d tag ((s.rdata st d tag cw0 cw1 err parityOk).done)

/-- WACK_RECEIVE (R275, R276, R451). -/
def execWackReceive (st d tag : Nat) (err parityOk : Bool) (s : State) : Out :=
  s.onTag st d tag ((s.wack st d tag err parityOk).done)

/-- TXN_TIMEOUT_EXPIRY (R276). -/
def execTxnTimeoutExpiry (st d tag : Nat) (s : State) : Out := s.onTag st d tag ((s.txnTimeout st d tag).done)

/-- SCATTER_DATA at its drop (R290). -/
def State.scatterDataAt (s : State) (st d : Nat) (p : Packet) : State :=
  let r := s.landInject (.drop st d) p
  (r.2.scatterData st d r.1).done

/-- SCATTER_DATA_RECEIVE (R290). -/
def execScatterDataReceive (st d : Nat) (p : Packet) (s : State) : Out :=
  s.onDrop st d (s.onTable (dropCell st d) p 0x15 (fun _ => s.scatterDataAt st d p))

/-- TBL_CLOSE_WRITE (R292). -/
def execTblCloseWrite (r : DictReq) (s : State) : Out := .next (if DictReq.writes r 0x6000 [0x0C] then (s.dictServe r).done else s)

/-- FLUSH_REQ_RECEIVE (R292). -/
def execFlushReqReceive (st d : Nat) (p : Packet) (s : State) : Out :=
  s.onDrop st d (s.onTable (dropCell st d) p 6 (fun _ => (s.flushReq st d p).done))

/-- A drop and a table descriptor. -/
def State.onDropTable (s : State) (st d tdesc : Nat) (t : State) : Out :=
  whenUnit (s.stackFitted st && decide (d < 32) && decide (tdesc < 1024)) "drop" t

/-- FLUSH_WRITEBACK (R293). -/
def execFlushWriteback (st d tdesc : Nat) (s : State) : Out := s.onDropTable st d tdesc ((s.flushWriteback st d tdesc).done)

/-- The DICT write that closed an epoch is answered (R292). -/
def answerClose (s : State) (r : DictReq) : State := s.dictAnswer r rspOk

/-- FLUSH_ANSWER_RECEIVE (R292). -/
def execFlushAnswerReceive (d : Delivered) (s : State) : Out :=
  whenUnit (s.inGrid (srcCell d.target) && decide (d.target.eng = s.engine)) "lead drop" ((s.flushAnswer d answerClose).done)

/-- FLUSH_LIMIT_EXPIRY (R292). -/
def execFlushLimitExpiry (tdesc : Nat) (s : State) : Out :=
  whenUnit (decide (tdesc < 1024)) "table" ((s.flushLimit tdesc answerClose).done)

/-- MEM_STREAM_START (R295). -/
def execMemStreamStart (r : DictReq) (s : State) : Out := .next (if DictReq.writes r 0x6100 [9] then (s.dictServe r).done else s)

/-- DROP_FENCE (R297): a drop that has reached its threshold, that a FENCE write names, or whose router was fenced. -/
def execDropFence (st d : Nat) (s : State) : Out :=
  s.onDrop st d (if s.fences.contains (dropBlock st d) then (s.dropFenced st d).done else s)

end Sys2Proof.Machine
end

