-- ==== Sys2Proof/Machine/LinkCmds.lean ====
section
/-! DEFINITION. The commands of link ports and of collectives across engines (chapters 11 and 13): level packets, frames, credits,
training, the handshake, notes, engine routing, relay, and time frames. -/

namespace Sys2Proof.Machine

/-! ### Levels (chapter 11) -/

/-- A level of a context at a link port (R249, R252). -/
def State.onLevel (s : State) (p l ctx : Nat) (t : State) : Out :=
  whenUnit (decide (p < s.nPorts) && decide (l ≤ 3) && decide (ctx < 4096)) "level" t

/-- EXCHANGE_JOIN (R268). -/
def execExchangeJoin (ctx epoch : Nat) (s : State) : Out := whenUnit (decide (ctx < 4096)) "context" ((s.exchangeJoin ctx epoch).done)

/-- LEVEL_PACKET_ARRIVE (R261). -/
def execLevelPacketArrive (port : Nat) (p : Packet) (s : State) : Out :=
  s.onLink port (onColl (s.siteCell (.port port)) p [0x20, 0x21, 0x22] s ((s.levelAt port p).done))

/-- STATION_CARRIER_CONVERT (R258). -/
def execStationCarrierConvert (port ctx epoch slice : Nat) (s : State) : Out :=
  s.onLevel port 1 ctx ((s.lvConvert port ⟨ctx, epoch, slice⟩).done)

/-- LEVEL_WAIT_EXPIRY (R261). -/
def execLevelWaitExpiry (port level ctx epoch slice : Nat) (s : State) : Out :=
  s.onLevel port level ctx ((s.lvWaitExpiry port level ⟨ctx, epoch, slice⟩).done)

/-- LEVEL_ORPHAN_EXPIRY (R261). -/
def execLevelOrphanExpiry (port level ctx epoch slice : Nat) (s : State) : Out :=
  s.onLevel port level ctx ((s.lvOrphan port level ⟨ctx, epoch, slice⟩).done)

/-- LEVEL_LEASE_EXPIRY (R262). -/
def execLevelLeaseExpiry (port level ctx epoch slice : Nat) (s : State) : Out :=
  s.onLevel port level ctx ((s.lvLeaseExpiry port level ⟨ctx, epoch, slice⟩).done)

/-- LEVEL_ANCHOR_PASS_EXPIRY (R257). -/
def execLevelAnchorPassExpiry (port level ctx epoch slice : Nat) (s : State) : Out :=
  s.onLevel port level ctx ((s.lvAnchorExpiry port level ⟨ctx, epoch, slice⟩).done)

/-- LEVEL_RESULT_DESCEND (R264). -/
def execLevelResultDescend (port : Nat) (p : Packet) (s : State) : Out :=
  s.onLink port (onColl (s.siteCell (.port port)) p [0x20, 0x23] s ((s.resultDescend port p).done))

/-! ### Frames, credits and packets (R303 to R312) -/

/-- FRAME_RECEIVE (R308). -/
def execFrameReceive (port : Nat) (f : Frame) (fec : Fec) (s : State) : Out := s.onLink port ((s.frameAt port f fec).done)

/-- NAK_REPEAT (R308). -/
def execNakRepeat (port : Nat) (s : State) : Out := s.onLink port ((s.nakRepeat port).done)

/-- REPLAY_TIMEOUT_EXPIRY (R308). -/
def execReplayTimeoutExpiry (port : Nat) (s : State) : Out := s.onLink port ((s.replayTimeout port).done)

/-- CREDIT_UNIT_SEND (R307). -/
def execCreditUnitSend (port : Nat) (s : State) : Out := s.onLink port (s.creditUnit port)

/-- LINK_PACKET_ENTER (R311). -/
def execLinkPacketEnter (port : Nat) (p : Packet) (s : State) : Out := s.onLink port ((s.packetEnter port p).done)

/-- TRANSIT_PACKET_ARRIVE (R312). -/
def execTransitPacketArrive (port : Nat) (p : Packet) (s : State) : Out := s.onLink port ((s.transitEnter port p).done)

/-! ### Training and the handshake (R313 to R319) -/

/-- Ports train once bring-up has reached its step LINKS (R441), and not while a test instruction drives the pins (R461). -/
def State.mayTrain (s : State) : Bool := (decide (s.bootStep = 9) || decide (s.bootStep = 10)) && ! s.eng.tap.driven

/-- PORT_TRAINING_START (R313). -/
def execPortTrainingStart (port : Nat) (s : State) : Out :=
  s.onLink port (if s.mayTrain then (s.trainingStart port).done else s)

/-- TRAINING_LOCK (R314). -/
def execTrainingLock (port own partner : Nat) (s : State) : Out :=
  s.onLink port (if s.mayTrain then (s.trainingLock port own partner).done else s)

/-- TRAINING_TIMEOUT (R313). -/
def execTrainingTimeout (port : Nat) (s : State) : Out := s.onLink port ((s.trainingTimeout port).done)

/-- HELLO_RECEIVE (R317). -/
def execHelloReceive (port : Nat) (h : Hello) (s : State) : Out := s.onLink port ((s.helloAt port h).done)

/-- CERT_RECEIVE (R318). -/
def execCertReceive (port : Nat) (chain : List Byte) (s : State) : Out := s.onLink port ((s.certAt port chain).done)

/-- PROOF_RECEIVE (R318). -/
def execProofReceive (port : Nat) (sig : List Byte) (s : State) : Out := s.onLink port ((s.proofAt port sig).done)

/-- FINISH_RECEIVE (R318). -/
def execFinishReceive (port : Nat) (mac : List Byte) (s : State) : Out := s.onLink port ((s.finishAt port mac).done)

/-- HELLO_TIMEOUT (R313). -/
def execHelloTimeout (port : Nat) (s : State) : Out := s.onLink port ((s.helloTimeout port).done)

/-- REKEY_START (R319). -/
def execRekeyStart (port : Nat) (random epub : List Byte) (s : State) : Out :=
  s.onLink port ((s.rekeyExpiry port random epub).done)

/-- REKEY_RECEIVE (R319). -/
def execRekeyReceive (port : Nat) (random epub : List Byte) (s : State) : Out := s.onLink port ((s.rekeyAt port random epub).done)

/-- OLD_KEY_PHASE_EXPIRY (R319). -/
def execOldKeyPhaseExpiry (port : Nat) (s : State) : Out := s.onLink port (s.oldKeyEnd port)

/-! ### A port in service (R313 to R315, R322 to R336) -/

/-- HOLD_DOWN_EXPIRY (R315). -/
def execHoldDownExpiry (port : Nat) (s : State) : Out := s.onLink port (s.holdEnd port)

/-- UP_HOLD_ELAPSED (R315). -/
def execUpHoldElapsed (port : Nat) (s : State) : Out := s.onLink port (s.upHold port)

/-- LANE_DEGRADE (R314). -/
def execLaneDegrade (port lane : Nat) (s : State) : Out :=
  whenUnit (decide (port < s.nPorts) && decide (lane < 8)) "lane" ((s.laneLost port lane).done)

/-- LINK_LOCK_LOSS (R452). -/
def execLinkLockLoss (port lane : Nat) (s : State) : Out :=
  whenUnit (decide (port < s.nPorts) && decide (lane < 8)) "lane" ((s.laneLost port lane).done)

/-- WIDTH_CHANGE_DONE (R314). -/
def execWidthChangeDone (port : Nat) (s : State) : Out := s.onLink port ((s.widthDone port).done)

/-- NOTE_RECEIVE (R322). -/
def execNoteReceive (port : Nat) (n : Note) (s : State) : Out := s.onLink port ((s.noteAt322 port n).done)

/-- NOTE_ORIGINATE (R322). -/
def execNoteOriginate (s : State) : Out := .next ((s.originate322 false).done)

/-- NOTE_EXPIRY (R322). -/
def execNoteExpiry (origin : Nat) (s : State) : Out := whenUnit (decide (origin < 2048)) "engine" (s.noteExpiry origin)

/-- ENGINE_ROUTE_RECOMPUTE (R324). -/
def execEngineRouteRecompute (s : State) : Out := .next (s.routeRecompute)

/-- DEAD_TIME_EXPIRY (R331). -/
def execDeadTimeExpiry (port : Nat) (s : State) : Out := s.onLink port ((s.deadTime port).done)

/-- STALL_TIME_EXPIRY (R331). -/
def execStallTimeExpiry (port : Nat) (s : State) : Out := s.onLink port ((s.stallTime port).done)

/-- QUARANTINE_RELEASE (R336). -/
def execQuarantineRelease (r : DictReq) (s : State) : Out :=
  .next (if DictReq.writes r 0x7030 [0x0E] ∧ r.value = 0 then (s.dictServe r).done else s)

/-- RETRAIN_FULL (R314). -/
def execRetrainFull (r : DictReq) (s : State) : Out :=
  .next (if DictReq.writes r 0x7010 [0x0E] ∧ r.value = 1 then (s.dictServe r).done else s)

/-- RETRAIN_KEY_UPDATE (R319). -/
def execRetrainKeyUpdate (r : DictReq) (s : State) : Out :=
  .next (if DictReq.writes r 0x7010 [0x0E] ∧ r.value = 2 then (s.dictServe r).done else s)

/-- RELAY_ENABLE (R333). -/
def execRelayEnable (r : DictReq) (s : State) : Out :=
  .next (if DictReq.writes r 0x7010 [4] ∧ r.value = 1 then (s.dictServe r).done else s)

/-- RELAY_DISABLE (R313). -/
def execRelayDisable (r : DictReq) (s : State) : Out :=
  .next (if DictReq.writes r 0x7010 [4] ∧ r.value = 0 then (s.dictServe r).done else s)

/-- FLAP_DOUBLING_RESET (R315). -/
def execFlapDoublingReset (port : Nat) (s : State) : Out := s.onLink port (s.flapReset port)

/-- TIME_FRAME_SEND (R335). -/
def execTimeFrameSend (port : Nat) (s : State) : Out := s.onLink port ((s.timeSend port).done)

/-- TIME_FRAME_RECEIVE (R420). -/
def execTimeFrameReceive (port : Nat) (t : TimeBody) (s : State) : Out := s.onLink port (s.timeFrame port t)

end Sys2Proof.Machine
end

