-- ==== Sys2Proof/Machine/DictCmds.lean ====
section
/-! DEFINITION. The commands of the object dictionary (chapter 16), of fault status and recovery (chapter 15), and of the management
port (chapter 16). A command that is one write of the dictionary is served as that write; a request for another object or value is
none of that command. -/

namespace Sys2Proof.Machine

/-- A request reaches the agent that serves its node (R387). -/
def State.served (s : State) (r : DictReq) : State := (s.dictServe r).done

/-- DICT_REQUEST_RECEIVE (R387). -/
def execDictRequestReceive (r : DictReq) (s : State) : Out := .next (s.served r)

/-- DICT_SEGMENT_TIMEOUT (R388). -/
def execDictSegmentTimeout (f : Nat) (who : Requester) (tag : Nat) (s : State) : Out := s.onField f (s.dictSegmentEnd f who tag)

/-- A reply reaches the requester's cell, or the management port (R387, R393). -/
def State.replyRecv (s : State) (r : DictRsp) : State :=
  let c : Coord := ⟨r.who.x, r.who.y⟩
  if r.who.mgmt then ((s.takeSig (.dictRsp r)).dictReply r).done else s.atSig c (.dictRsp r) (fun s => (s.dictReply r).after c)

/-- DICT_RSP_RECEIVE (R387). -/
def execDictRspReceive (r : DictRsp) (s : State) : Out := s.onCell ⟨r.who.x, r.who.y⟩ (s.replyRecv r)

/-! ### Fault status and recovery (chapter 15) -/

/-- STATUS_CLEAR (R363). -/
def execStatusClear (r : DictReq) (s : State) : Out := .next (if DictReq.writesFault r 1 then s.served r else s)

/-- INT_ENABLE_WRITE (R362). -/
def execIntEnableWrite (r : DictReq) (s : State) : Out := .next (if DictReq.writesFault r 8 then s.served r else s)

/-- FENCE_WRITE (R367). -/
def execFenceWrite (r : DictReq) (s : State) : Out := .next (if DictReq.writesFault r 0x0B ∧ r.value = 1 then s.served r else s)

/-- LINK_FENCE_RELEASE (R369). -/
def execLinkFenceRelease (r : DictReq) (s : State) : Out :=
  .next (if DictReq.writesFault r 0x0B ∧ r.index = 0x8130 ∧ r.value = 0 then s.served r else s)

/-- RAISE_SUSPECT (R371). -/
def execRaiseSuspect (r : DictReq) (s : State) : Out := .next (if DictReq.writes r 0x8140 [0x11] then s.served r else s)

/-- DRAIN (R372). -/
def execDrain (r : DictReq) (s : State) : Out := .next (if DictReq.writes r 0x8140 [0x13] then s.served r else s)

/-- DRAIN_STEP_ADVANCE (R372). -/
def execDrainStepAdvance (s : State) : Out := .next (s.drainAdvance.done)

/-- DRAIN_LIMIT_EXPIRY (R372). -/
def execDrainLimitExpiry (s : State) : Out := .next (s.drainLimitEnd.done)

/-- FAULT_INJECT_ARM (R373). -/
def execFaultInjectArm (r : DictReq) (s : State) : Out := .next (if DictReq.writes r 0xF010 [5] then s.served r else s)

/-! ### Commits (R382 to R386) -/

/-- COMMIT (R383). -/
def execCommit (r : DictReq) (s : State) : Out := .next (if DictReq.writes r 0x2001 [1] ∧ r.value = 1 then s.served r else s)

/-- ABANDON (R384). -/
def execAbandon (r : DictReq) (s : State) : Out := .next (if DictReq.writes r 0x2001 [1] ∧ r.value = 2 then s.served r else s)

/-- COMMIT_PREPARE_DONE (R383). -/
def execCommitPrepareDone (s : State) : Out := .next (s.commitPrepare.done)

/-- COMMIT_APPLY_DONE (R383). -/
def execCommitApplyDone (s : State) : Out := .next (s.commitApplied.done)

/-- COMMIT_LIMIT_EXPIRY (R383). -/
def execCommitLimitExpiry (lagging : List Nat) (s : State) : Out := .next ((s.commitLimit lagging).done)

/-- GROUP_LEASE_EXPIRY (R382). -/
def execGroupLeaseExpiry (who : Requester) (s : State) : Out := .next (s.groupLease who)

/-! ### The management port (R392, R393, R459) -/

/-- MGMT_REQUEST (R393). -/
def execMgmtRequest (m : MgmtReq) (s : State) : Out := .next ((s.mgmtRequest m).done)

/-- MGMT_REPLY_TIMEOUT (R393). -/
def execMgmtReplyTimeout (mtag : Nat) (s : State) : Out := .next (s.mgmtTimeout mtag)

/-- MCTP_CONTROL_REQUEST (R392). -/
def execMctpControlRequest (m : MctpControl) (s : State) : Out := .next (s.mctpControl m)

/-- DYNAMIC_ADDRESS_ASSIGNMENT (R459). -/
def execDynamicAddressAssignment (addr : Nat) (s : State) : Out := .next (s.mgmtAddress addr)

/-- DEFECT_MAP_ADD (R438). -/
def execDefectMapAdd (r : DictReq) (s : State) : Out := .next (if DictReq.writes r 0x1005 [2] then s.served r else s)

end Sys2Proof.Machine
end

