-- ==== Sys2Proof/Machine/PowerCmds.lean ====
section
/-! DEFINITION. The commands of clocks, power states and fabric time (chapter 17). -/

namespace Sys2Proof.Machine

/-- FREQ_WRITE (R398). -/
def execFreqWrite (r : DictReq) (s : State) : Out := .next (if DictReq.writes r 0xA001 [1] then s.served r else s)

/-- FREQ_RELOCK_DONE (R398). -/
def execFreqRelockDone (f : Nat) (s : State) : Out := s.onField f ((s.freqDone f).done)

/-- PLL_UNLOCK (R399). -/
def execPllUnlock (f : Nat) (s : State) : Out := s.onField f ((s.pllLoss f).done)

/-- PLL_RELOCK (R399). -/
def execPllRelock (f : Nat) (s : State) : Out := s.onField f ((s.pllBack f).done)

/-- PLL_RELOCK_FAIL (R399). -/
def execPllRelockFail (f : Nat) (s : State) : Out := s.onField f ((s.pllDead f).done)

/-- DROOP_STRETCH (R400). -/
def execDroopStretch (f n : Nat) (s : State) : Out := s.onField f (s.droop f n)

/-- BREEZE_ENTRY (R406). -/
def execBreezeEntry (f : Nat) (s : State) : Out := s.onField f (s.breezeEntry f)

/-- LULL_ENTRY (R406). -/
def execLullEntry (f : Nat) (s : State) : Out := s.onField f (s.lullEntry f)

/-- LULL_ENTRY_DONE (R406). -/
def execLullEntryDone (f : Nat) (s : State) : Out := s.onField f ((s.lullDone f).watchCalm)

/-- FIELD_WAKE (R408). -/
def execFieldWake (f cause : Nat) (s : State) : Out := s.onField f (s.fieldWake f cause)

/-- WAKE_HOLD_EXPIRY (R408). -/
def execWakeHoldExpiry (f : Nat) (s : State) : Out := s.onField f (s.wakeHoldEnd f)

/-- FIELD_TOLERANCE_WRITE (R406). -/
def execFieldToleranceWrite (r : DictReq) (s : State) : Out := .next (if DictReq.writes r 0xA010 [1] then s.served r else s)

/-- CALM_ENTRY (R407). -/
def execCalmEntry (s : State) : Out := .next (s.calmEntry.done)

/-- STILL_ENTRY (R407). -/
def execStillEntry (s : State) : Out := .next (s.stillEntry.done)

/-- ENGINE_WAKE (R409). -/
def execEngineWake (cause : Nat) (s : State) : Out := .next ((s.engineWake cause).done)

/-- ENGINE_WAKE_WRITE (R409). -/
def execEngineWakeWrite (r : DictReq) (s : State) : Out := .next (if DictReq.writes r 0xA011 [5] then s.served r else s)

/-- ENGINE_TOLERANCE_WRITE (R407). -/
def execEngineToleranceWrite (r : DictReq) (s : State) : Out := .next (if DictReq.writes r 0xA011 [1] then s.served r else s)

/-- WAKE_N_FALL (R409, R457). -/
def execWakeNFall (s : State) : Out := .next (s.causeEngine 1)

/-- CALM_LINK_ARRIVAL (R410). -/
def execCalmLinkArrival (port : Nat) (i : LinkItem) (s : State) : Out := s.onLink port ((s.calmItem port i).done)

/-- FANTAIL_WINDOW (R415). -/
def execFantailWindow (f : Nat) (s : State) : Out := s.onField f (s.fantailWindow f)

/-- FANTAIL_SHARE_RECOMPUTE (R414). -/
def execFantailShareRecompute (s : State) : Out := .next (s.shareRecompute)

/-- COMPARATOR_FIRE (R417). -/
def execComparatorFire (i : Nat) (s : State) : Out := whenUnit (decide (i < 32)) "comparator" ((s.compFire i).done)

/-- COMPARATOR_TIME_WRITE (R417). -/
def execComparatorTimeWrite (r : DictReq) (s : State) : Out := .next (if DictReq.writes r 0xA100 [1] then s.served r else s)

/-- FT_SET_WRITE (R418). -/
def execFtSetWrite (r : DictReq) (s : State) : Out := .next (if DictReq.writes r 0xA030 [2] then s.served r else s)

/-- BEACON_ORIGINATE (R419). -/
def execBeaconOriginate (s : State) : Out := .next (s.beaconOut)

/-- BEACON_RECEIVE (R419). -/
def execBeaconReceive (f : Nat) (b : Beacon) (s : State) : Out := s.onField f (s.beaconAt f b)

end Sys2Proof.Machine
end

