-- ==== Sys2Proof/Machine/ObsCmds.lean ====
section
/-! DEFINITION. The commands of observation and debug (chapter 18). -/

namespace Sys2Proof.Machine

/-- FREEZE_ALL_RINGS (R432). -/
def execFreezeAllRings (r : DictReq) (s : State) : Out :=
  .next (if DictReq.writes r 0x9000 [2] ∧ r.value = 1 then s.served r else s)

/-- UNFREEZE_ALL_RINGS (R432). -/
def execUnfreezeAllRings (r : DictReq) (s : State) : Out :=
  .next (if DictReq.writes r 0x9000 [2] ∧ r.value = 2 then s.served r else s)

/-- EVENT_RING_FROZEN_WRITE (R432). -/
def execEventRingFrozenWrite (r : DictReq) (s : State) : Out := .next (if DictReq.writes r 0x9040 [3] then s.served r else s)

/-- COUNTER_SELECT_WRITE (R425). -/
def execCounterSelectWrite (r : DictReq) (s : State) : Out :=
  .next (if DictReq.writes r 0x9020 ((List.range 16).map (· + 1)) then s.served r else s)

/-- PROBE_ACTION_WRITE (R427). -/
def execProbeActionWrite (r : DictReq) (s : State) : Out := .next (if DictReq.writes r 0x9010 [8] then s.served r else s)

/-- TRACE_INPUT (R428). -/
def execTraceInput (c : Coord) (core : Nat) (data : List Byte) (s : State) : Out := s.onCore c core (s.traceInput c core data)

/-- A chunk of a source leaves for the sink (R428); bytes in stall mode go on when its buffer is free. -/
def State.chunkSend (s : State) (c : Coord) (source : Nat) : State := (s.traceSend c source).done

/-- TRACE_CHUNK_SEND (R428). -/
def execTraceChunkSend (c : Coord) (source : Nat) (s : State) : Out := s.onCell c (s.chunkSend c source)

/-- SWEEP_SAMPLE (R429). -/
def execSweepSample (c : Coord) (s : State) : Out := s.onCell c ((s.sweepSample c).done)

/-- SWEEP_ENABLE_WRITE (R431). -/
def execSweepEnableWrite (r : DictReq) (s : State) : Out := .next (if DictReq.writes r 0x9030 [1] then s.served r else s)

/-- BREAKPOINT (R433). -/
def execBreakpoint (c : Coord) (core : Nat) (s : State) : Out := s.onCore c core (s.breakAt c core)

/-- HALT_STATE_WRITE (R433). -/
def execHaltStateWrite (r : DictReq) (s : State) : Out := .next (if DictReq.writes r 0x9060 [3] then s.served r else s)

/-- HALT_RECEIVE (R434). -/
def execHaltReceive (c : Coord) (h : Halt) (s : State) : Out := s.onCell c (s.haltAt c h)

end Sys2Proof.Machine
end

