-- ==== Sys2Proof/Machine/BootCmds.lean ====
section
/-! DEFINITION. The commands of bring-up, resets, the boundary and its pins (chapters 19 and 20). -/

namespace Sys2Proof.Machine

/-- COLD_BRINGUP (R436). -/
def execColdBringup (s : State) : Out := .next (s.coldStart)

/-- RESTART (R437). -/
def execRestart (r : DictReq) (s : State) : Out := .next (if DictReq.writes r 0x1008 [8] then s.served r else s)

/-- BRINGUP_AON (R441). -/
def execBringupAon (refclkOk : Bool) (s : State) : Out := .next (s.bootAon refclkOk)

/-- REFCLK_RETRY (R441). -/
def execRefclkRetry (s : State) : Out := .next (s.bootRetry)

/-- BRINGUP_AGENTS (R441). -/
def execBringupAgents (nvOk : Bool) (failed : List Nat) (s : State) : Out := .next (s.bootAgents nvOk failed)

/-- BRINGUP_CLOCKS (R442). -/
def execBringupClocks (s : State) : Out := .next (s.bootClocks)

/-- FIELD_WAVE_START (R442). -/
def execFieldWaveStart (f : Nat) (s : State) : Out := s.onField f (s.bootWave f)

/-- BRINGUP_HOLES (R441). -/
def execBringupHoles (s : State) : Out := .next (s.bootHoles)

/-- BRINGUP_SELFTEST (R444). -/
def execBringupSelftest (t : SelfTest) (s : State) : Out := .next (s.bootSelftest t)

/-- BRINGUP_SIGNAL (R441). -/
def execBringupSignal (ok : Bool) (s : State) : Out := .next (s.bootSignal ok)

/-- BRINGUP_IMAGE (R440). -/
def execBringupImage (s : State) : Out := .next (s.bootImage)

/-- BRINGUP_DROPS (R445). -/
def execBringupDrops (s : State) : Out := .next (s.bootDrops.done)

/-- BRINGUP_LINKS (R441). -/
def execBringupLinks (s : State) : Out := .next (s.bootLinks.done)

/-- BRINGUP_DONE (R446). -/
def execBringupDone (s : State) : Out := .next (s.bootDone.done)

/-- AON_PG_FALL (R453). -/
def execAonPgFall (s : State) : Out := .next (s.powerFall)

/-- FIELD_PG_FALL (R453). -/
def execFieldPgFall (f : Nat) (s : State) : Out := s.onField f ((s.pgFall f).done)

/-- FIELD_PG_RISE (R442). -/
def execFieldPgRise (f : Nat) (s : State) : Out := s.onField f (s.pgRise f)

/-- FIELD_PLL_LOCK (R441). -/
def execFieldPllLock (f : Nat) (s : State) : Out := s.onField f (s.bootLock f)

/-- BASE_RDY_RISE (R445). -/
def execBaseRdyRise (st : Nat) (s : State) : Out := whenUnit (s.stackFitted st) "stack" (s.baseReady st)

/-- CELL_RESET (R120, R450). -/
def execCellReset (c : Coord) (s : State) : Out := s.onCell c ((s.cellResetAt c).done)

/-- CELL_RESET_RELEASE (R450). -/
def execCellResetRelease (c : Coord) (s : State) : Out := s.onCell c (s.cellReleaseAt c)

/-- MEM_READ_ANSWER (R448). -/
def execMemReadAnswer (c : Coord) (err : Bool) (s : State) : Out := s.onCell c (s.memAnswer c err)

/-- MEM_WRITE_ACK (R448). -/
def execMemWriteAck (c : Coord) (s : State) : Out := s.onCell c (s.memAck c)

/-- TEST_MODE_RISE (R458). -/
def execTestModeRise (s : State) : Out := .next (s.testRise)

/-- TEST_MODE_FALL (R373). -/
def execTestModeFall (s : State) : Out := .next (s.testFall)

/-- EXTEST (R461). -/
def execExtest (update : List Bool) (s : State) : Out := .next (s.tapDrive 0 update)

/-- SAMPLE_PRELOAD (R460). -/
def execSamplePreload (preload : List Bool) (s : State) : Out := .next (s.tapSample preload)

/-- IDCODE (R460). -/
def execIdcode (s : State) : Out := .next (s.tapIdcode)

/-- EXTEST_PULSE (R460). -/
def execExtestPulse (update : List Bool) (s : State) : Out := .next (s.tapDrive 0x0C update)

/-- EXTEST_TRAIN (R460). -/
def execExtestTrain (update : List Bool) (s : State) : Out := .next (s.tapDrive 0x0D update)

/-- BYPASS (R460). -/
def execBypass (s : State) : Out := .next (s.tapBypass false)

/-- TAP_RESET (R460). -/
def execTapReset (s : State) : Out := .next (s.tapReset)

end Sys2Proof.Machine
end

