-- ==== Sys2Proof/Machine/Dispatch.lean ====
section
/-! DEFINITION. The meaning of every command: one direct call each. -/

namespace Sys2Proof.Machine

/-- What a command does to everything but the queue of waiting commands. -/
def exec (i : Instr) (s : State) : Host.Outcome State Fault Refusal :=
  match i with
  | .commandPresent c core d => Sys2Proof.Machine.execCommandPresent c core d s
  | .put c => Sys2Proof.Machine.execPut c s
  | .get c => Sys2Proof.Machine.execGet c s
  | .putScatter c => Sys2Proof.Machine.execPutScatter c s
  | .getGather c => Sys2Proof.Machine.execGetGather c s
  | .send c => Sys2Proof.Machine.execSend c s
  | .mcast c => Sys2Proof.Machine.execMcast c s
  | .deposit c => Sys2Proof.Machine.execDeposit c s
  | .signalBarArrive c => Sys2Proof.Machine.execSignalBarArrive c s
  | .signalTallyAdd c => Sys2Proof.Machine.execSignalTallyAdd c s
  | .signalTallyMin c => Sys2Proof.Machine.execSignalTallyMin c s
  | .signalTallyMax c => Sys2Proof.Machine.execSignalTallyMax c s
  | .signalTallyRead c => Sys2Proof.Machine.execSignalTallyRead c s
  | .signalTallySwap c => Sys2Proof.Machine.execSignalTallySwap c s
  | .signalTallyTake c => Sys2Proof.Machine.execSignalTallyTake c s
  | .signalInt c => Sys2Proof.Machine.execSignalInt c s
  | .signalWake c => Sys2Proof.Machine.execSignalWake c s
  | .fenceIssue c => Sys2Proof.Machine.execFenceIssue c s
  | .fenceDone c => Sys2Proof.Machine.execFenceDone c s
  | .fenceCtx c => Sys2Proof.Machine.execFenceCtx c s
  | .dictRead c => Sys2Proof.Machine.execDictRead c s
  | .dictWrite c => Sys2Proof.Machine.execDictWrite c s
  | .watchBuffer c => Sys2Proof.Machine.execWatchBuffer c s
  | .watchContext c => Sys2Proof.Machine.execWatchContext c s
  | .counterRead c core tag k => Sys2Proof.Machine.execCounterRead c core tag k s
  | .blockingWait c core tag k v => Sys2Proof.Machine.execBlockingWait c core tag k v s
  | .waitTimeoutExpiry c core k => Sys2Proof.Machine.execWaitTimeoutExpiry c core k s
  | .chPoll c core tag n => Sys2Proof.Machine.execChPoll c core tag n s
  | .chWait c core tag n => Sys2Proof.Machine.execChWait c core tag n s
  | .chWaitTimeout c core n => Sys2Proof.Machine.execChWaitTimeout c core n s
  | .chAdvance c core tag n h g => Sys2Proof.Machine.execChAdvance c core tag n h g s
  | .intTake c core tag => Sys2Proof.Machine.execIntTake c core tag s
  | .dataBeatReceive c port cw side => Sys2Proof.Machine.execDataBeatReceive c port cw side s
  | .creditBeatReceive c port cw side => Sys2Proof.Machine.execCreditBeatReceive c port cw side s
  | .gustDecision c port => Sys2Proof.Machine.execGustDecision c port s
  | .creditBeatInsert c port => Sys2Proof.Machine.execCreditBeatInsert c port s
  | .arbWindowBoundary c port => Sys2Proof.Machine.execArbWindowBoundary c port s
  | .tradeClaimArise c port => Sys2Proof.Machine.execTradeClaimArise c port s
  | .tradeClaimLapse c port => Sys2Proof.Machine.execTradeClaimLapse c port s
  | .tradeTableApply c port => Sys2Proof.Machine.execTradeTableApply c port s
  | .creditSyncReqReceive c port => Sys2Proof.Machine.execCreditSyncReqReceive c port s
  | .creditSyncMarkerReceive c port => Sys2Proof.Machine.execCreditSyncMarkerReceive c port s
  | .creditSyncRspReceive c port counts => Sys2Proof.Machine.execCreditSyncRspReceive c port counts s
  | .creditSyncRetry c port => Sys2Proof.Machine.execCreditSyncRetry c port s
  | .routerFence c => Sys2Proof.Machine.execRouterFence c s
  | .ringChangeReceive c hole rowByp colByp => Sys2Proof.Machine.execRingChangeReceive c hole rowByp colByp s
  | .recloseRelease hole => Sys2Proof.Machine.execRecloseRelease hole s
  | .anycastAdvertise g => Sys2Proof.Machine.execAnycastAdvertise g s
  | .anycastWinnerDecode g => Sys2Proof.Machine.execAnycastWinnerDecode g s
  | .anyWinReceive c g member noWinner => Sys2Proof.Machine.execAnyWinReceive c g member noWinner s
  | .signalBeatReceive c port cw side => Sys2Proof.Machine.execSignalBeatReceive c port cw side s
  | .slsyncSend c port => Sys2Proof.Machine.execSlsyncSend c port s
  | .slsyncReceive c port counts => Sys2Proof.Machine.execSlsyncReceive c port counts s
  | .creditSignalSend c port => Sys2Proof.Machine.execCreditSignalSend c port s
  | .creditSignalReceive c port counts => Sys2Proof.Machine.execCreditSignalReceive c port counts s
  | .barArriveAtRoot c a => Sys2Proof.Machine.execBarArriveAtRoot c a s
  | .barrierPhaseTimeout bctx => Sys2Proof.Machine.execBarrierPhaseTimeout bctx s
  | .barReleaseReceive c r => Sys2Proof.Machine.execBarReleaseReceive c r s
  | .tallyRequestAtHome q => Sys2Proof.Machine.execTallyRequestAtHome q s
  | .tallyRspReceive q => Sys2Proof.Machine.execTallyRspReceive q s
  | .intReceive c core origin arg32 => Sys2Proof.Machine.execIntReceive c core origin arg32 s
  | .wakeReceive f arg8 => Sys2Proof.Machine.execWakeReceive f arg8 s
  | .nackReceive n => Sys2Proof.Machine.execNackReceive n s
  | .deliveredReceive d => Sys2Proof.Machine.execDeliveredReceive d s
  | .replyTimeoutExpiry c slot => Sys2Proof.Machine.execReplyTimeoutExpiry c slot s
  | .sendAdmission c p => Sys2Proof.Machine.execSendAdmission c p s
  | .sendLanding c p => Sys2Proof.Machine.execSendLanding c p s
  | .chanStateWrite r => Sys2Proof.Machine.execChanStateWrite r s
  | .chanHeadWrite r => Sys2Proof.Machine.execChanHeadWrite r s
  | .reserveReceive site p => Sys2Proof.Machine.execReserveReceive site p s
  | .reservationGrant site => Sys2Proof.Machine.execReservationGrant site s
  | .grantReceive c p => Sys2Proof.Machine.execGrantReceive c p s
  | .putDataHeader site p => Sys2Proof.Machine.execPutDataHeader site p s
  | .reservationFilled site key => Sys2Proof.Machine.execReservationFilled site key s
  | .landingLeaseExpiry site key => Sys2Proof.Machine.execLandingLeaseExpiry site key s
  | .releaseReceive site p => Sys2Proof.Machine.execReleaseReceive site p s
  | .bulkTimeoutExpiry c rsv => Sys2Proof.Machine.execBulkTimeoutExpiry c rsv s
  | .getReqReceive site p => Sys2Proof.Machine.execGetReqReceive site p s
  | .getDataReceive c p => Sys2Proof.Machine.execGetDataReceive c p s
  | .mresGrantReceive c g => Sys2Proof.Machine.execMresGrantReceive c g s
  | .mresArriveReceive a => Sys2Proof.Machine.execMresArriveReceive a s
  | .callLimitExpiry source mid => Sys2Proof.Machine.execCallLimitExpiry source mid s
  | .mcastDataReceive c p => Sys2Proof.Machine.execMcastDataReceive c p s
  | .sweepOriginate c ctx epoch slice => Sys2Proof.Machine.execSweepOriginate c ctx epoch slice s
  | .sweepArrive c p => Sys2Proof.Machine.execSweepArrive c p s
  | .sweepWaitBudgetExpiry c ctx epoch slice => Sys2Proof.Machine.execSweepWaitBudgetExpiry c ctx epoch slice s
  | .columnHalfOriginate c ctx epoch slice => Sys2Proof.Machine.execColumnHalfOriginate c ctx epoch slice s
  | .rootArrival c p => Sys2Proof.Machine.execRootArrival c p s
  | .spillReadBack c ctx => Sys2Proof.Machine.execSpillReadBack c ctx s
  | .sliceLeaseExpiry c ctx epoch slice => Sys2Proof.Machine.execSliceLeaseExpiry c ctx epoch slice s
  | .orphanExpiry c ctx epoch slice => Sys2Proof.Machine.execOrphanExpiry c ctx epoch slice s
  | .resultArrive c p => Sys2Proof.Machine.execResultArrive c p s
  | .anchorArrive c p => Sys2Proof.Machine.execAnchorArrive c p s
  | .anchorPassOrphanExpiry c ctx epoch slice => Sys2Proof.Machine.execAnchorPassOrphanExpiry c ctx epoch slice s
  | .memberDeadlineExpiry c ctx epoch slice => Sys2Proof.Machine.execMemberDeadlineExpiry c ctx epoch slice s
  | .exchangeSegmentSend c ctx epoch dst => Sys2Proof.Machine.execExchangeSegmentSend c ctx epoch dst s
  | .exchangeJoin ctx epoch => Sys2Proof.Machine.execExchangeJoin ctx epoch s
  | .levelPacketArrive port p => Sys2Proof.Machine.execLevelPacketArrive port p s
  | .stationCarrierConvert port ctx epoch slice => Sys2Proof.Machine.execStationCarrierConvert port ctx epoch slice s
  | .levelWaitExpiry port level ctx epoch slice => Sys2Proof.Machine.execLevelWaitExpiry port level ctx epoch slice s
  | .levelOrphanExpiry port level ctx epoch slice => Sys2Proof.Machine.execLevelOrphanExpiry port level ctx epoch slice s
  | .levelLeaseExpiry port level ctx epoch slice => Sys2Proof.Machine.execLevelLeaseExpiry port level ctx epoch slice s
  | .levelResultDescend port p => Sys2Proof.Machine.execLevelResultDescend port p s
  | .gatherReqReceive st d p => Sys2Proof.Machine.execGatherReqReceive st d p s
  | .coalescerReply st tdesc row => Sys2Proof.Machine.execCoalescerReply st tdesc row s
  | .gatherDataReceive c p => Sys2Proof.Machine.execGatherDataReceive c p s
  | .rdataReceive st d tag cw0 cw1 err parityOk => Sys2Proof.Machine.execRdataReceive st d tag cw0 cw1 err parityOk s
  | .wackReceive st d tag err parityOk => Sys2Proof.Machine.execWackReceive st d tag err parityOk s
  | .txnTimeoutExpiry st d tag => Sys2Proof.Machine.execTxnTimeoutExpiry st d tag s
  | .scatterDataReceive st d p => Sys2Proof.Machine.execScatterDataReceive st d p s
  | .tblCloseWrite r => Sys2Proof.Machine.execTblCloseWrite r s
  | .flushReqReceive st d p => Sys2Proof.Machine.execFlushReqReceive st d p s
  | .flushWriteback st d tdesc => Sys2Proof.Machine.execFlushWriteback st d tdesc s
  | .flushAnswerReceive d => Sys2Proof.Machine.execFlushAnswerReceive d s
  | .flushLimitExpiry tdesc => Sys2Proof.Machine.execFlushLimitExpiry tdesc s
  | .memStreamStart r => Sys2Proof.Machine.execMemStreamStart r s
  | .dropFence st d => Sys2Proof.Machine.execDropFence st d s
  | .frameReceive port f fec => Sys2Proof.Machine.execFrameReceive port f fec s
  | .nakRepeat port => Sys2Proof.Machine.execNakRepeat port s
  | .replayTimeoutExpiry port => Sys2Proof.Machine.execReplayTimeoutExpiry port s
  | .creditUnitSend port => Sys2Proof.Machine.execCreditUnitSend port s
  | .linkPacketEnter port p => Sys2Proof.Machine.execLinkPacketEnter port p s
  | .transitPacketArrive port p => Sys2Proof.Machine.execTransitPacketArrive port p s
  | .portTrainingStart port => Sys2Proof.Machine.execPortTrainingStart port s
  | .trainingLock port own partner => Sys2Proof.Machine.execTrainingLock port own partner s
  | .trainingTimeout port => Sys2Proof.Machine.execTrainingTimeout port s
  | .helloReceive port h => Sys2Proof.Machine.execHelloReceive port h s
  | .certReceive port chain => Sys2Proof.Machine.execCertReceive port chain s
  | .proofReceive port sig => Sys2Proof.Machine.execProofReceive port sig s
  | .finishReceive port mac => Sys2Proof.Machine.execFinishReceive port mac s
  | .helloTimeout port => Sys2Proof.Machine.execHelloTimeout port s
  | .rekeyStart port random epub => Sys2Proof.Machine.execRekeyStart port random epub s
  | .rekeyReceive port random epub => Sys2Proof.Machine.execRekeyReceive port random epub s
  | .oldKeyPhaseExpiry port => Sys2Proof.Machine.execOldKeyPhaseExpiry port s
  | .holdDownExpiry port => Sys2Proof.Machine.execHoldDownExpiry port s
  | .upHoldElapsed port => Sys2Proof.Machine.execUpHoldElapsed port s
  | .laneDegrade port lane => Sys2Proof.Machine.execLaneDegrade port lane s
  | .widthChangeDone port => Sys2Proof.Machine.execWidthChangeDone port s
  | .noteReceive port n => Sys2Proof.Machine.execNoteReceive port n s
  | .noteOriginate => Sys2Proof.Machine.execNoteOriginate s
  | .noteExpiry origin => Sys2Proof.Machine.execNoteExpiry origin s
  | .engineRouteRecompute => Sys2Proof.Machine.execEngineRouteRecompute s
  | .deadTimeExpiry port => Sys2Proof.Machine.execDeadTimeExpiry port s
  | .stallTimeExpiry port => Sys2Proof.Machine.execStallTimeExpiry port s
  | .quarantineRelease r => Sys2Proof.Machine.execQuarantineRelease r s
  | .retrainFull r => Sys2Proof.Machine.execRetrainFull r s
  | .retrainKeyUpdate r => Sys2Proof.Machine.execRetrainKeyUpdate r s
  | .relayEnable r => Sys2Proof.Machine.execRelayEnable r s
  | .relayDisable r => Sys2Proof.Machine.execRelayDisable r s
  | .timeFrameSend port => Sys2Proof.Machine.execTimeFrameSend port s
  | .timeFrameReceive port t => Sys2Proof.Machine.execTimeFrameReceive port t s
  | .checkPartialArrive c p => Sys2Proof.Machine.execCheckPartialArrive c p s
  | .thirdPartialArrive c p => Sys2Proof.Machine.execThirdPartialArrive c p s
  | .checkWaitExpiry c ctx epoch slice => Sys2Proof.Machine.execCheckWaitExpiry c ctx epoch slice s
  | .thirdWaitExpiry c ctx epoch slice => Sys2Proof.Machine.execThirdWaitExpiry c ctx epoch slice s
  | .recheckNoticeReceive c p => Sys2Proof.Machine.execRecheckNoticeReceive c p s
  | .patternReplay c => Sys2Proof.Machine.execPatternReplay c s
  | .replayNow r => Sys2Proof.Machine.execReplayNow r s
  | .statusClear r => Sys2Proof.Machine.execStatusClear r s
  | .intEnableWrite r => Sys2Proof.Machine.execIntEnableWrite r s
  | .fenceWrite r => Sys2Proof.Machine.execFenceWrite r s
  | .linkFenceRelease r => Sys2Proof.Machine.execLinkFenceRelease r s
  | .raiseSuspect r => Sys2Proof.Machine.execRaiseSuspect r s
  | .drain r => Sys2Proof.Machine.execDrain r s
  | .drainStepAdvance => Sys2Proof.Machine.execDrainStepAdvance s
  | .drainLimitExpiry => Sys2Proof.Machine.execDrainLimitExpiry s
  | .faultInjectArm r => Sys2Proof.Machine.execFaultInjectArm r s
  | .commit r => Sys2Proof.Machine.execCommit r s
  | .abandon r => Sys2Proof.Machine.execAbandon r s
  | .commitPrepareDone => Sys2Proof.Machine.execCommitPrepareDone s
  | .commitApplyDone => Sys2Proof.Machine.execCommitApplyDone s
  | .commitLimitExpiry lagging => Sys2Proof.Machine.execCommitLimitExpiry lagging s
  | .groupLeaseExpiry who => Sys2Proof.Machine.execGroupLeaseExpiry who s
  | .dictRequestReceive r => Sys2Proof.Machine.execDictRequestReceive r s
  | .dictSegmentTimeout f who tag => Sys2Proof.Machine.execDictSegmentTimeout f who tag s
  | .dictRspReceive r => Sys2Proof.Machine.execDictRspReceive r s
  | .mgmtRequest m => Sys2Proof.Machine.execMgmtRequest m s
  | .defectMapAdd r => Sys2Proof.Machine.execDefectMapAdd r s
  | .freqWrite r => Sys2Proof.Machine.execFreqWrite r s
  | .freqRelockDone f => Sys2Proof.Machine.execFreqRelockDone f s
  | .pllUnlock f => Sys2Proof.Machine.execPllUnlock f s
  | .pllRelock f => Sys2Proof.Machine.execPllRelock f s
  | .pllRelockFail f => Sys2Proof.Machine.execPllRelockFail f s
  | .droopStretch f n => Sys2Proof.Machine.execDroopStretch f n s
  | .breezeEntry f => Sys2Proof.Machine.execBreezeEntry f s
  | .lullEntry f => Sys2Proof.Machine.execLullEntry f s
  | .lullEntryDone f => Sys2Proof.Machine.execLullEntryDone f s
  | .fieldWake f cause => Sys2Proof.Machine.execFieldWake f cause s
  | .wakeHoldExpiry f => Sys2Proof.Machine.execWakeHoldExpiry f s
  | .fieldToleranceWrite r => Sys2Proof.Machine.execFieldToleranceWrite r s
  | .calmEntry => Sys2Proof.Machine.execCalmEntry s
  | .stillEntry => Sys2Proof.Machine.execStillEntry s
  | .engineWake cause => Sys2Proof.Machine.execEngineWake cause s
  | .engineWakeWrite r => Sys2Proof.Machine.execEngineWakeWrite r s
  | .engineToleranceWrite r => Sys2Proof.Machine.execEngineToleranceWrite r s
  | .wakeNFall => Sys2Proof.Machine.execWakeNFall s
  | .calmLinkArrival port item => Sys2Proof.Machine.execCalmLinkArrival port item s
  | .fantailWindow f => Sys2Proof.Machine.execFantailWindow f s
  | .fantailShareRecompute => Sys2Proof.Machine.execFantailShareRecompute s
  | .comparatorFire k => Sys2Proof.Machine.execComparatorFire k s
  | .comparatorTimeWrite r => Sys2Proof.Machine.execComparatorTimeWrite r s
  | .ftSetWrite r => Sys2Proof.Machine.execFtSetWrite r s
  | .beaconOriginate => Sys2Proof.Machine.execBeaconOriginate s
  | .beaconReceive f b => Sys2Proof.Machine.execBeaconReceive f b s
  | .freezeAllRings r => Sys2Proof.Machine.execFreezeAllRings r s
  | .unfreezeAllRings r => Sys2Proof.Machine.execUnfreezeAllRings r s
  | .eventRingFrozenWrite r => Sys2Proof.Machine.execEventRingFrozenWrite r s
  | .counterSelectWrite r => Sys2Proof.Machine.execCounterSelectWrite r s
  | .probeActionWrite r => Sys2Proof.Machine.execProbeActionWrite r s
  | .traceInput c core data => Sys2Proof.Machine.execTraceInput c core data s
  | .traceChunkSend c source => Sys2Proof.Machine.execTraceChunkSend c source s
  | .sweepSample c => Sys2Proof.Machine.execSweepSample c s
  | .sweepEnableWrite r => Sys2Proof.Machine.execSweepEnableWrite r s
  | .breakpoint c core => Sys2Proof.Machine.execBreakpoint c core s
  | .haltStateWrite r => Sys2Proof.Machine.execHaltStateWrite r s
  | .haltReceive c h => Sys2Proof.Machine.execHaltReceive c h s
  | .coldBringup => Sys2Proof.Machine.execColdBringup s
  | .restart r => Sys2Proof.Machine.execRestart r s
  | .bringupAon refclkOk => Sys2Proof.Machine.execBringupAon refclkOk s
  | .refclkRetry => Sys2Proof.Machine.execRefclkRetry s
  | .bringupAgents nvOk failed => Sys2Proof.Machine.execBringupAgents nvOk failed s
  | .bringupClocks => Sys2Proof.Machine.execBringupClocks s
  | .fieldWaveStart f => Sys2Proof.Machine.execFieldWaveStart f s
  | .bringupHoles => Sys2Proof.Machine.execBringupHoles s
  | .bringupSelftest t => Sys2Proof.Machine.execBringupSelftest t s
  | .bringupSignal ok => Sys2Proof.Machine.execBringupSignal ok s
  | .bringupImage => Sys2Proof.Machine.execBringupImage s
  | .bringupDrops => Sys2Proof.Machine.execBringupDrops s
  | .bringupLinks => Sys2Proof.Machine.execBringupLinks s
  | .bringupDone => Sys2Proof.Machine.execBringupDone s
  | .aonPgFall => Sys2Proof.Machine.execAonPgFall s
  | .fieldPgFall f => Sys2Proof.Machine.execFieldPgFall f s
  | .cellReset c => Sys2Proof.Machine.execCellReset c s
  | .cellResetRelease c => Sys2Proof.Machine.execCellResetRelease c s
  | .memReadAnswer c err => Sys2Proof.Machine.execMemReadAnswer c err s
  | .memWriteAck c => Sys2Proof.Machine.execMemWriteAck c s
  | .linkLockLoss port lane => Sys2Proof.Machine.execLinkLockLoss port lane s
  | .testModeRise => Sys2Proof.Machine.execTestModeRise s
  | .testModeFall => Sys2Proof.Machine.execTestModeFall s
  | .extest update => Sys2Proof.Machine.execExtest update s
  | .samplePreload preload => Sys2Proof.Machine.execSamplePreload preload s
  | .idcode => Sys2Proof.Machine.execIdcode s
  | .extestPulse update => Sys2Proof.Machine.execExtestPulse update s
  | .extestTrain update => Sys2Proof.Machine.execExtestTrain update s
  | .bypass => Sys2Proof.Machine.execBypass s
  | .levelAnchorPassExpiry port level ctx epoch slice => Sys2Proof.Machine.execLevelAnchorPassExpiry port level ctx epoch slice s
  | .gatheringHoldExpiry c ctx epoch slice => Sys2Proof.Machine.execGatheringHoldExpiry c ctx epoch slice s
  | .flapDoublingReset port => Sys2Proof.Machine.execFlapDoublingReset port s
  | .mgmtReplyTimeout mtag => Sys2Proof.Machine.execMgmtReplyTimeout mtag s
  | .mctpControlRequest m => Sys2Proof.Machine.execMctpControlRequest m s
  | .dynamicAddressAssignment addr => Sys2Proof.Machine.execDynamicAddressAssignment addr s
  | .tapReset => Sys2Proof.Machine.execTapReset s
  | .fieldPgRise f => Sys2Proof.Machine.execFieldPgRise f s
  | .fieldPllLock f => Sys2Proof.Machine.execFieldPllLock f s
  | .baseRdyRise st => Sys2Proof.Machine.execBaseRdyRise st s

end Sys2Proof.Machine
end

