-- ==== Sys2Proof/Machine/Flags.lean ====
section
/-! DEFINITION. The output lines of the block as functions of the state: the external pins FAULT_N and CLKMON (R364, R401, R441,
R456, R461) and the lines of the cell boundary (R447 to R450). They are no state of their own: each follows what the state holds. -/

namespace Sys2Proof.Machine

/-- How the open-drain pin FAULT_N stands: undriven, low, released to its pull-up, or driven from the boundary register. -/
inductive FaultPin where
  | undriven | low | released | boundary
  deriving DecidableEq, Repr

/-- FAULT_N: undriven while AON_PG is low (R456); driven by the TAP under a test instruction (R461); low during bring-up until
step 10 is reached (R443); then low while any STATUS bit of the engine is 1 (R364). -/
def State.faultN (s : State) : FaultPin :=
  if ! s.eng.powered then .undriven
  else if s.eng.tap.driven then .boundary
  else if s.bootStep ≠ 10 ∨ s.anyFault then .low
  else .released

/-- CMD_READY of a core: low while its queue holds 64 commands, and while its cell is in reset (R447, R450). -/
def State.cmdReady (s : State) (c : Coord) (core : Nat) : Bool :=
  ! (s.cell c).inReset && decide ((s.core c core).queue.length < 64)

/-- IRQ of a core: high while its interrupt queue holds an entry (R158, R447), low in reset (R450). -/
def State.irq (s : State) (c : Coord) (core : Nat) : Bool :=
  ! (s.cell c).inReset && ! (s.core c core).intq.isEmpty

/-- HALT_IND of the cores of a cell: high while the router is under HALT (R434, R447), low in reset (R450). -/
def State.haltInd (s : State) (c : Coord) : Bool := ! (s.cell c).inReset && s.haltOn c

/-- TRC_READY of a core: low while its trace input, in stall mode, waits for a chunk buffer (R428, R447). -/
def State.trcReady (s : State) (c : Coord) (core : Nat) : Bool := (SMap.get [] (s.cell c).traceWait core).isEmpty

/-- The frequency of CLKMON in Hz, rounded down (log 133); `none` while the pin is held low (R401). -/
def State.clkmon (s : State) : Option Nat :=
  let f := s.reg .engine 0 0xA002 2
  let d := 2 ^ s.reg .engine 0 0xA002 3
  if ! s.eng.powered ∨ s.reg .engine 0 0xA002 4 = 0 then none
  else if s.reg .engine 0 0xA002 1 = 0 then some (100000000 / d)
  else if ! s.clockRuns f then none
  else if s.reg .engine 0 0xA002 1 = 1 then some (s.freq f * 1000000 / d)
  else some (s.freq f * 500000 / d)

end Sys2Proof.Machine
end

