-- ==== Sys2Proof/Machine/Tick.lean ====
section
/-! DEFINITION. What happens while no command waits: time goes on, and an output port whose credits wait sends them on its idle beat. -/

namespace Sys2Proof.Machine

/-- An idle output port sends a credit beat when a buffer on its link has freed (R20, R90); its field's clock must run (R449). -/
def State.idlePort (s : State) (c : Coord) (p : Nat) : State :=
  if s.creditsWaiting c p ∧ s.clockRuns (s.fieldOf c) ∧ (s.outp c p).gust = none then s.sendCreditBeat c p else s

/-- The ports of a router that hold state send the credits that wait. -/
def State.idleRouter (s : State) (c : Coord) : State := (List.range 8).foldl (fun (s : State) p => s.idlePort c p) s

/-- The cell of a coordinate key, as `SMap` keys of routers are built. -/
def coordOfKey (k : Nat) : Coord := ⟨k % 512, k / 512⟩

/-- One idle step (log 46): 1 ns passes, and every port that is idle returns its credits. -/
def State.tick (s : State) : State :=
  s.rtrs.foldl (fun (s : State) e => s.idleRouter (coordOfKey e.1)) { s with time := s.time + 1 }

end Sys2Proof.Machine
end

