-- ==== Sys2Proof/Safety.lean ====
section
/-! DEFINITION. What claims are stated in: a step that goes on, the canonical form of what the state holds, and what one step may not
change. -/

namespace Sys2Proof.Machine

/-- The command at the front completes, or the block idles: the step answers a next state. -/
def Safe (s : State) : Prop := ∃ t, step s = .next t

/-- A map whose keys rise strictly from `lo` on: every key has one entry. -/
def risingFrom {α : Type} : Nat → SMap α → Bool
  | _, [] => true
  | lo, (k, _) :: m => decide (lo ≤ k) && risingFrom (k + 1) m

/-- The cell memories in canonical form: cells strictly rising, no empty memory, and in each memory addresses strictly rising and no
byte equal to 0, as which an unlisted byte reads (log 4). -/
def State.memOk (s : State) : Bool := SMap.wf [] s.cellMem && s.cellMem.all (fun e => Memory.wf 0 e.2)

/-- The state in canonical form: the memories as above, one entry for each register, and maps of tables, cells, fields and drops that
list nothing equal to what an unlisted key reads as. -/
def State.canonical (s : State) : Bool :=
  s.memOk && risingFrom 0 s.regs && SMap.wf [] s.tabs && SMap.wf [] s.recs && SMap.wf CellSt.init s.cells &&
    SMap.wf FieldSt.init s.fields && SMap.wf DropSt.init s.drops

/-- What every step keeps: the build, and true time never going back. -/
def Keeps (s t : State) : Prop := t.build = s.build ∧ s.time ≤ t.time

end Sys2Proof.Machine
end

