-- ==== Sys2Proof/WellFormed.lean ====
section
/-! DEFINITION. Which commands are well-formed: every operand fits the field, list or range the spec gives it. A command that names a
unit the build lacks is well-formed and stops in the machine; what is checked here is the width of the operand itself. -/

namespace Sys2Proof

/-- A number fits a field of `w` bits. -/
def fits (w n : Nat) : Bool := decide (n < 2 ^ w)

/-- A list of `k` counts of 8 bits (*Link-local formats*, R91, R142, R145). -/
def countsOk (k : Nat) (cs : List Nat) : Bool := decide (cs.length = k) && cs.all (fits 8)

/-- Cell coordinates are 9 bits each (R8, R26). -/
def Coord.wf (c : Coord) : Bool := fits 9 c.x && fits 9 c.y

/-- The fields of a DEST word (R26). -/
def Addr.wf (a : Addr) : Bool := fits 11 a.eng && fits 9 a.x && fits 9 a.y && fits 3 a.tgt

/-- The fields of a SRC word (R26). -/
def SrcAddr.wf (a : SrcAddr) : Bool := fits 11 a.eng && fits 9 a.x && fits 9 a.y && fits 2 a.core

/-- The fields of a tail (R29 to R33). -/
def Tail.wf : Tail → Bool
  | .transfer t => fits 40 t.addr && fits 16 t.size && fits 6 t.rsv && fits 2 t.rclass && fits 14 t.lease && fits 9 t.off &&
      fits 1 t.tdx && fits 1 t.sopx
  | .message t => fits 6 t.chan && fits 8 t.epoch && fits 12 t.mlen
  | .rect t => fits 9 t.x1 && fits 9 t.y1 && fits 18 t.addr && fits 12 t.mid && fits 9 t.off && fits 12 t.size
  | .table t => fits 10 t.tdesc && fits 36 t.row && fits 8 t.fep && fits 2 t.op && fits 5 t.fmt && fits 6 t.rsv && fits 9 t.off
  | .coll t => fits 12 t.ctx && fits 8 t.epoch && fits 20 t.slice && fits 7 t.nsl && fits 20 t.count && fits 5 t.fmt &&
      fits 2 t.level && fits 1 t.phase

/-- The tail of a packet is of the format its TYPE gives (R27). -/
def Tail.suits (typ : Nat) : Tail → Bool
  | .transfer _ => [1, 2, 3, 4, 0x10, 0x11, 0x17].contains typ
  | .message _ => typ == 0x12
  | .rect _ => [0x13, 0x16].contains typ
  | .table _ => [5, 6, 0x14, 0x15].contains typ
  | .coll _ => [0x20, 0x21, 0x22, 0x23, 0x24, 0x25].contains typ

/-- CLASS and LEN lie in the TYPE's row of *Packet types* (R27). -/
def shapeOk (typ cls len : Nat) : Bool :=
  if typ ≤ 6 then cls == 0 && len == 0
  else decide (1 ≤ len) && decide (len ≤ 64) &&
    (if typ = 0x10 ∨ typ = 0x11 ∨ typ = 0x12 then cls == 1 || cls == 3 else if typ < 0x20 then cls == 1 else cls == 2)

/-- The header of a packet: its fields and its tail (R25, R27). -/
def Packet.headWf (p : Packet) : Bool :=
  p.tail.suits p.typ && shapeOk p.typ p.cls p.len && p.tail.wf && fits 4 p.hmin && p.dest.wf && p.src.wf && fits 16 p.tag &&
    fits 1 p.route.phase && fits 2 p.route.detour && fits 32 p.bcheck

/-- A packet: its header, and a payload of LEN units (R25, R41). -/
def Packet.wf (p : Packet) : Bool :=
  p.headWf && decide (p.payload.length ≤ 32 * p.len) && decide (32 * p.len < p.payload.length + 32)

/-- BAR_ARRIVE (R150). -/
def BarArrive.wf (a : BarArrive) : Bool :=
  fits 12 a.bctx && fits 8 a.gen && fits 20 a.count && fits 9 a.rx && fits 9 a.ry && fits 64 a.value && fits 64 a.hi

/-- BAR_RELEASE (R150). -/
def BarRelease.wf (r : BarRelease) : Bool :=
  fits 12 r.bctx && fits 8 r.gen && fits 20 r.count && fits 9 r.x0 && fits 9 r.y0 && fits 9 r.x1 && fits 9 r.y1 && fits 64 r.value

/-- A tally request: SOP 0x10 to 0x15 (R144, R155). -/
def TallyReq.wf (q : TallyReq) : Bool :=
  decide (0x10 ≤ q.op) && decide (q.op ≤ 0x15) && fits 16 q.tag && fits 9 q.f && fits 8 q.k && fits 9 q.x && fits 9 q.y &&
    fits 2 q.core && fits 64 q.v

/-- TALLY_RSP (R155). -/
def TallyRsp.wf (q : TallyRsp) : Bool := fits 16 q.tag && fits 9 q.x && fits 9 q.y && fits 2 q.core && fits 64 q.old

/-- NACK (R144): its TARGET has no bit 31. -/
def Nack.wf (n : Nack) : Bool :=
  fits 8 n.reason && fits 16 n.tag && n.target.wf && ! n.target.stream && n.raiser.wf && fits 6 n.typ && fits 6 n.chan &&
    fits 2 n.chstate && fits 18 n.var

/-- DELIVERED (R144). -/
def Delivered.wf (d : Delivered) : Bool :=
  fits 8 d.arg8 && fits 16 d.tag && d.target.wf && ! d.target.stream && d.origin.wf && fits 32 d.arg32

/-- The key of a reservation (R165): RSV, or a MID of 12 bits. -/
def RsvKey.wf (k : RsvKey) : Bool := k.src.wf && fits 12 k.rsv && fits 16 k.tag

/-- MRES_GRANT (R174). -/
def MresGrant.wf (g : MresGrant) : Bool :=
  fits 12 g.mid && fits 15 g.size && fits 14 g.lease && g.source.wf && fits 16 g.tag && fits 18 g.addr && fits 9 g.x &&
    fits 9 g.y && fits 9 g.x1 && fits 9 g.y1

/-- MRES_ARRIVE (R174). -/
def MresArrive.wf (a : MresArrive) : Bool :=
  fits 12 a.mid && fits 1 a.phase && fits 5 a.reasons && fits 18 a.ok && fits 18 a.fail && a.source.wf

/-- A granting site (R5, R273, R300). -/
def Site.wf : Site → Bool
  | .router c => c.wf
  | .drop st d => decide (st < 24) && fits 5 d
  | .port p => decide (p < 96)

/-- A requester (R388). -/
def Requester.wf (r : Requester) : Bool := fits 11 r.eng && fits 9 r.x && fits 9 r.y && fits 2 r.core

/-- DICT_REQ (R388): TLEN is 0 to 4,096, and complete data are TLEN bytes of a write. -/
def DictReq.wf (r : DictReq) : Bool :=
  r.who.wf && fits 16 r.tag && fits 16 r.index && fits 8 r.sub && fits 11 r.eng && fits 16 r.node && fits 18 r.cell &&
    decide (r.tlen ≤ 4096) && fits 16 r.toff && fits 64 r.value &&
    (! r.whole || decide (r.data.length = if r.wr then r.tlen else 0))

/-- DICT_RSP (R388). -/
def DictRsp.wf (r : DictRsp) : Bool :=
  r.who.wf && fits 16 r.tag && fits 16 r.index && fits 8 r.sub && fits 11 r.eng && fits 16 r.node && fits 18 r.cell &&
    fits 8 r.status && fits 8 r.detail && decide (r.tlen ≤ 4096) && fits 16 r.toff && fits 64 r.value && (! r.whole || decide (r.data.length = if r.wr then 0 else r.tlen))

/-- A management message: at most 4,136 bytes (R392). -/
def MgmtReq.wf (m : MgmtReq) : Bool := decide (m.bytes.length ≤ 4136)

/-- A frame (R304): fields of its header, NU items of 36 bytes as its KIND allows, a 16-byte tag. -/
def Frame.wf (f : Frame) : Bool :=
  fits 4 f.kind && fits 16 f.seq && fits 16 f.ack && fits 8 f.txl && decide (f.body.length ≤ 16) &&
    f.body.all (fun b => decide (b.length = 36)) && decide (f.tag.length = 16)

/-- HELLO (R316). -/
def Hello.wf (h : Hello) : Bool :=
  fits 16 h.version && fits 32 h.features && fits 11 h.engine && fits 8 h.port && fits 8 h.role && fits 8 h.lanesOk &&
    fits 8 h.conf && fits 8 h.state && fits 8 h.pair && decide (h.random.length = 32) && decide (h.epub.length = 97) &&
    decide (h.rxbuf.length = 12) && h.rxbuf.all (fits 16)

/-- One port record of a note (R321). -/
def PortRec.wf (p : PortRec) : Bool :=
  fits 7 p.port && fits 2 p.dim && fits 1 p.dir && fits 7 p.relayPair && fits 11 p.partner && fits 7 p.partnerPort

/-- A link-state note: up to 96 port records (R321). -/
def Note.wf (n : Note) : Bool :=
  fits 11 n.origin && fits 8 n.state && fits 32 n.nseq && fits 64 n.ft && decide (n.ports.length ≤ 96) &&
    n.ports.all PortRec.wf && decide (n.key.length = 97) && decide (n.sig.length = 96)

/-- The body of a TIME frame (R335). -/
def TimeBody.wf (t : TimeBody) : Bool := fits 64 t.ttx && fits 64 t.techo && fits 64 t.trx

/-- BEACON (R419). -/
def Beacon.wf (b : Beacon) : Bool := fits 8 b.seq && fits 40 b.res && fits 64 b.tsend

/-- HALT (R433). -/
def Halt.wf (h : Halt) : Bool := fits 4 h.group && h.origin.wf && fits 64 h.t

/-- A signal (R144). -/
def Signal.wf : Signal → Bool
  | .barArrive a => a.wf
  | .barRelease r => r.wf
  | .tallyReq q => q.wf
  | .tallyRsp q => q.wf
  | .int t o a => t.wf && ! t.stream && o.wf && fits 32 a
  | .wake t o a => t.wf && ! t.stream && o.wf && fits 8 a
  | .nack n => n.wf
  | .delivered d => d.wf
  | .mresGrant g => g.wf
  | .mresArrive a => a.wf
  | .ringChange h _ _ => h.wf
  | .anyWin g m _ => fits 8 g && fits 8 m
  | .beacon b => b.wf
  | .halt h => h.wf
  | .dictReq r => r.wf
  | .dictRsp r => r.wf
  | .credit c p cs => c.wf && decide (p < 9) && countsOk 4 cs
  | .creditSyncReq c p => c.wf && decide (p < 9)
  | .creditSyncRsp c p cs => c.wf && decide (p < 9) && countsOk 6 cs
  | .slsync c p cs => c.wf && decide (p < 9) && countsOk 8 cs

/-- What arrives on a link in Calm (R410). -/
def LinkItem.wf : LinkItem → Bool
  | .packet p => p.wf
  | .signal g => g.wf
  | .note n => n.wf

/-- The findings of the self-test (R443, R444). -/
def SelfTest.wf (t : SelfTest) : Bool :=
  t.routers.all Coord.wf && t.links.all (fun e => e.1.wf && decide (e.2 < 9)) &&
    t.bypasses.all (fun e => e.1.wf && decide (e.2 < 9)) && t.lanes.all (fun e => e.1.wf && decide (e.2 ≤ 1))

/-- An MCTP control message (R392). -/
def MctpControl.wf : MctpControl → Bool
  | .setEndpointId e => fits 8 e
  | .getEndpointId => true
  | .getVersionSupport t => fits 8 t
  | .getTypeSupport => true
  | .getVendorSupport k => fits 8 k

/-- A well-formed command. -/
def Instr.wellFormed : Instr → Bool
  | .commandPresent c core _ => c.wf && fits 2 core
  | .put c => c.wf
  | .get c => c.wf
  | .putScatter c => c.wf
  | .getGather c => c.wf
  | .send c => c.wf
  | .mcast c => c.wf
  | .deposit c => c.wf
  | .signalBarArrive c => c.wf
  | .signalTallyAdd c => c.wf
  | .signalTallyMin c => c.wf
  | .signalTallyMax c => c.wf
  | .signalTallyRead c => c.wf
  | .signalTallySwap c => c.wf
  | .signalTallyTake c => c.wf
  | .signalInt c => c.wf
  | .signalWake c => c.wf
  | .fenceIssue c => c.wf
  | .fenceDone c => c.wf
  | .fenceCtx c => c.wf
  | .dictRead c => c.wf
  | .dictWrite c => c.wf
  | .watchBuffer c => c.wf
  | .watchContext c => c.wf
  | .counterRead c core tag k => c.wf && fits 2 core && fits 8 tag && fits 4 k
  | .blockingWait c core tag k v => c.wf && fits 2 core && fits 8 tag && fits 4 k && fits 32 v
  | .waitTimeoutExpiry c core k => c.wf && fits 2 core && fits 4 k
  | .chPoll c core tag n => c.wf && fits 2 core && fits 8 tag && fits 6 n
  | .chWait c core tag n => c.wf && fits 2 core && fits 8 tag && fits 6 n
  | .chWaitTimeout c core n => c.wf && fits 2 core && fits 6 n
  | .chAdvance c core tag n h g => c.wf && fits 2 core && fits 8 tag && fits 6 n && fits 32 h && fits 32 g
  | .intTake c core tag => c.wf && fits 2 core && fits 8 tag
  | .dataBeatReceive c port cw side => c.wf && decide (port < 9) && decide (cw.length = 35) && fits 8 side
  | .creditBeatReceive c port cw side => c.wf && decide (port < 9) && decide (cw.length = 35) && fits 8 side
  | .gustDecision c port => c.wf && decide (port < 9)
  | .creditBeatInsert c port => c.wf && decide (port < 9)
  | .arbWindowBoundary c port => c.wf && decide (port < 9)
  | .tradeClaimArise c port => c.wf && decide (port < 9)
  | .tradeClaimLapse c port => c.wf && decide (port < 9)
  | .tradeTableApply c port => c.wf && decide (port < 9)
  | .creditSyncReqReceive c port => c.wf && decide (port < 9)
  | .creditSyncMarkerReceive c port => c.wf && decide (port < 9)
  | .creditSyncRspReceive c port counts => c.wf && decide (port < 9) && countsOk 6 counts
  | .creditSyncRetry c port => c.wf && decide (port < 9)
  | .routerFence c => c.wf
  | .ringChangeReceive c hole _ _ => c.wf && hole.wf
  | .recloseRelease hole => hole.wf
  | .anycastAdvertise g => fits 8 g
  | .anycastWinnerDecode g => fits 8 g
  | .anyWinReceive c g member _ => c.wf && fits 8 g && fits 8 member
  | .signalBeatReceive c port cw side => c.wf && decide (port < 9) && decide (cw.length = 19) && fits 10 side
  | .slsyncSend c port => c.wf && decide (port < 9)
  | .slsyncReceive c port counts => c.wf && decide (port < 9) && countsOk 8 counts
  | .creditSignalSend c port => c.wf && decide (port < 9)
  | .creditSignalReceive c port counts => c.wf && decide (port < 9) && countsOk 4 counts
  | .barArriveAtRoot c a => c.wf && a.wf
  | .barrierPhaseTimeout bctx => fits 12 bctx
  | .barReleaseReceive c r => c.wf && r.wf
  | .tallyRequestAtHome q => q.wf
  | .tallyRspReceive q => q.wf
  | .intReceive c core origin arg32 => c.wf && fits 2 core && fits 32 origin && fits 32 arg32
  | .wakeReceive f arg8 => fits 9 f && fits 8 arg8
  | .nackReceive n => n.wf
  | .deliveredReceive d => d.wf
  | .replyTimeoutExpiry c slot => c.wf && fits 8 slot
  | .sendAdmission c p => c.wf && p.wf
  | .sendLanding c p => c.wf && p.wf
  | .chanStateWrite r => r.wf
  | .chanHeadWrite r => r.wf
  | .reserveReceive site p => site.wf && p.wf
  | .reservationGrant site => site.wf
  | .grantReceive c p => c.wf && p.wf
  | .putDataHeader site p => site.wf && p.wf
  | .reservationFilled site key => site.wf && key.wf
  | .landingLeaseExpiry site key => site.wf && key.wf
  | .releaseReceive site p => site.wf && p.wf
  | .bulkTimeoutExpiry c rsv => c.wf && fits 6 rsv
  | .getReqReceive site p => site.wf && p.wf
  | .getDataReceive c p => c.wf && p.wf
  | .mresGrantReceive c g => c.wf && g.wf
  | .mresArriveReceive a => a.wf
  | .callLimitExpiry source mid => source.wf && fits 12 mid
  | .mcastDataReceive c p => c.wf && p.wf
  | .sweepOriginate c ctx epoch slice => c.wf && fits 12 ctx && fits 8 epoch && fits 20 slice
  | .sweepArrive c p => c.wf && p.wf
  | .sweepWaitBudgetExpiry c ctx epoch slice => c.wf && fits 12 ctx && fits 8 epoch && fits 20 slice
  | .columnHalfOriginate c ctx epoch slice => c.wf && fits 12 ctx && fits 8 epoch && fits 20 slice
  | .rootArrival c p => c.wf && p.wf
  | .spillReadBack c ctx => c.wf && fits 12 ctx
  | .sliceLeaseExpiry c ctx epoch slice => c.wf && fits 12 ctx && fits 8 epoch && fits 20 slice
  | .orphanExpiry c ctx epoch slice => c.wf && fits 12 ctx && fits 8 epoch && fits 20 slice
  | .resultArrive c p => c.wf && p.wf
  | .anchorArrive c p => c.wf && p.wf
  | .anchorPassOrphanExpiry c ctx epoch slice => c.wf && fits 12 ctx && fits 8 epoch && fits 20 slice
  | .memberDeadlineExpiry c ctx epoch slice => c.wf && fits 12 ctx && fits 8 epoch && fits 20 slice
  | .exchangeSegmentSend c ctx epoch dst => c.wf && fits 12 ctx && fits 8 epoch && fits 20 dst
  | .exchangeJoin ctx epoch => fits 12 ctx && fits 8 epoch
  | .levelPacketArrive port p => decide (port < 96) && p.wf
  | .stationCarrierConvert port ctx epoch slice => decide (port < 96) && fits 12 ctx && fits 8 epoch && fits 20 slice
  | .levelWaitExpiry port level ctx epoch slice => decide (port < 96) && fits 2 level && fits 12 ctx && fits 8 epoch && fits 20 slice
  | .levelOrphanExpiry port level ctx epoch slice => decide (port < 96) && fits 2 level && fits 12 ctx && fits 8 epoch && fits 20 slice
  | .levelLeaseExpiry port level ctx epoch slice => decide (port < 96) && fits 2 level && fits 12 ctx && fits 8 epoch && fits 20 slice
  | .levelResultDescend port p => decide (port < 96) && p.wf
  | .gatherReqReceive st d p => decide (st < 24) && fits 5 d && p.wf
  | .coalescerReply st tdesc row => decide (st < 24) && fits 10 tdesc && fits 36 row
  | .gatherDataReceive c p => c.wf && p.wf
  | .rdataReceive st d tag cw0 cw1 _ _ => decide (st < 24) && fits 5 d && fits 8 tag && decide (cw0.length = 35) && decide (cw1.length = 35)
  | .wackReceive st d tag _ _ => decide (st < 24) && fits 5 d && fits 8 tag
  | .txnTimeoutExpiry st d tag => decide (st < 24) && fits 5 d && fits 8 tag
  | .scatterDataReceive st d p => decide (st < 24) && fits 5 d && p.wf
  | .tblCloseWrite r => r.wf
  | .flushReqReceive st d p => decide (st < 24) && fits 5 d && p.wf
  | .flushWriteback st d tdesc => decide (st < 24) && fits 5 d && fits 10 tdesc
  | .flushAnswerReceive d => d.wf
  | .flushLimitExpiry tdesc => fits 10 tdesc
  | .memStreamStart r => r.wf
  | .dropFence st d => decide (st < 24) && fits 5 d
  | .frameReceive port f fec => decide (port < 96) && f.wf && (match fec with
    | .corrected n => decide (0 < n) && fits 32 n
    | .clean | .bad => true)
  | .nakRepeat port => decide (port < 96)
  | .replayTimeoutExpiry port => decide (port < 96)
  | .creditUnitSend port => decide (port < 96)
  | .linkPacketEnter port p => decide (port < 96) && p.wf
  | .transitPacketArrive port p => decide (port < 96) && p.wf
  | .portTrainingStart port => decide (port < 96)
  | .trainingLock port own partner => decide (port < 96) && fits 8 own && fits 8 partner
  | .trainingTimeout port => decide (port < 96)
  | .helloReceive port h => decide (port < 96) && h.wf
  | .certReceive port chain => decide (port < 96) && decide (chain.length ≤ 6152)
  | .proofReceive port sig => decide (port < 96) && decide (sig.length = 96)
  | .finishReceive port mac => decide (port < 96) && decide (mac.length = 48)
  | .helloTimeout port => decide (port < 96)
  | .rekeyStart port random epub => decide (port < 96) && decide (random.length = 32) && decide (epub.length = 97)
  | .rekeyReceive port random epub => decide (port < 96) && decide (random.length = 32) && decide (epub.length = 97)
  | .oldKeyPhaseExpiry port => decide (port < 96)
  | .holdDownExpiry port => decide (port < 96)
  | .upHoldElapsed port => decide (port < 96)
  | .laneDegrade port lane => decide (port < 96) && fits 3 lane
  | .widthChangeDone port => decide (port < 96)
  | .noteReceive port n => decide (port < 96) && n.wf
  | .noteOriginate => true
  | .noteExpiry origin => fits 11 origin
  | .engineRouteRecompute => true
  | .deadTimeExpiry port => decide (port < 96)
  | .stallTimeExpiry port => decide (port < 96)
  | .quarantineRelease r => r.wf
  | .retrainFull r => r.wf
  | .retrainKeyUpdate r => r.wf
  | .relayEnable r => r.wf
  | .relayDisable r => r.wf
  | .timeFrameSend port => decide (port < 96)
  | .timeFrameReceive port t => decide (port < 96) && t.wf
  | .checkPartialArrive c p => c.wf && p.wf
  | .thirdPartialArrive c p => c.wf && p.wf
  | .checkWaitExpiry c ctx epoch slice => c.wf && fits 12 ctx && fits 8 epoch && fits 20 slice
  | .thirdWaitExpiry c ctx epoch slice => c.wf && fits 12 ctx && fits 8 epoch && fits 20 slice
  | .recheckNoticeReceive c p => c.wf && p.wf
  | .patternReplay c => c.wf
  | .replayNow r => r.wf
  | .statusClear r => r.wf
  | .intEnableWrite r => r.wf
  | .fenceWrite r => r.wf
  | .linkFenceRelease r => r.wf
  | .raiseSuspect r => r.wf
  | .drain r => r.wf
  | .drainStepAdvance => true
  | .drainLimitExpiry => true
  | .faultInjectArm r => r.wf
  | .commit r => r.wf
  | .abandon r => r.wf
  | .commitPrepareDone => true
  | .commitApplyDone => true
  | .commitLimitExpiry lagging => lagging.all (fun f => fits 9 f)
  | .groupLeaseExpiry who => who.wf
  | .dictRequestReceive r => r.wf
  | .dictSegmentTimeout f who tag => fits 9 f && who.wf && fits 16 tag
  | .dictRspReceive r => r.wf
  | .mgmtRequest m => m.wf
  | .defectMapAdd r => r.wf
  | .freqWrite r => r.wf
  | .freqRelockDone f => fits 9 f
  | .pllUnlock f => fits 9 f
  | .pllRelock f => fits 9 f
  | .pllRelockFail f => fits 9 f
  | .droopStretch f n => fits 9 f && fits 7 n
  | .breezeEntry f => fits 9 f
  | .lullEntry f => fits 9 f
  | .lullEntryDone f => fits 9 f
  | .fieldWake f cause => fits 9 f && fits 8 cause
  | .wakeHoldExpiry f => fits 9 f
  | .fieldToleranceWrite r => r.wf
  | .calmEntry => true
  | .stillEntry => true
  | .engineWake cause => fits 8 cause
  | .engineWakeWrite r => r.wf
  | .engineToleranceWrite r => r.wf
  | .wakeNFall => true
  | .calmLinkArrival port i => decide (port < 96) && i.wf
  | .fantailWindow f => fits 9 f
  | .fantailShareRecompute => true
  | .comparatorFire i => fits 5 i
  | .comparatorTimeWrite r => r.wf
  | .ftSetWrite r => r.wf
  | .beaconOriginate => true
  | .beaconReceive f b => fits 9 f && b.wf
  | .freezeAllRings r => r.wf
  | .unfreezeAllRings r => r.wf
  | .eventRingFrozenWrite r => r.wf
  | .counterSelectWrite r => r.wf
  | .probeActionWrite r => r.wf
  | .traceInput c core data => c.wf && fits 2 core && decide (data.length = 8)
  | .traceChunkSend c source => c.wf && fits 4 source
  | .sweepSample c => c.wf
  | .sweepEnableWrite r => r.wf
  | .breakpoint c core => c.wf && fits 2 core
  | .haltStateWrite r => r.wf
  | .haltReceive c h => c.wf && h.wf
  | .coldBringup => true
  | .restart r => r.wf
  | .bringupAon _ => true
  | .refclkRetry => true
  | .bringupAgents _ failed => failed.all (fun f => fits 9 f)
  | .bringupClocks => true
  | .fieldWaveStart f => fits 9 f
  | .bringupHoles => true
  | .bringupSelftest t => t.wf
  | .bringupSignal _ => true
  | .bringupImage => true
  | .bringupDrops => true
  | .bringupLinks => true
  | .bringupDone => true
  | .aonPgFall => true
  | .fieldPgFall f => fits 9 f
  | .cellReset c => c.wf
  | .cellResetRelease c => c.wf
  | .memReadAnswer c _ => c.wf
  | .memWriteAck c => c.wf
  | .linkLockLoss port lane => decide (port < 96) && fits 3 lane
  | .testModeRise => true
  | .testModeFall => true
  | .extest update => decide (update.length < 65536)
  | .samplePreload preload => decide (preload.length < 65536)
  | .idcode => true
  | .extestPulse update => decide (update.length < 65536)
  | .extestTrain update => decide (update.length < 65536)
  | .bypass => true
  | .levelAnchorPassExpiry port level ctx epoch slice => decide (port < 96) && fits 2 level && fits 12 ctx && fits 8 epoch && fits 20 slice
  | .gatheringHoldExpiry c ctx epoch slice => c.wf && fits 12 ctx && fits 8 epoch && fits 20 slice
  | .flapDoublingReset port => decide (port < 96)
  | .mgmtReplyTimeout mtag => fits 8 mtag
  | .mctpControlRequest m => m.wf
  | .dynamicAddressAssignment addr => fits 7 addr
  | .tapReset => true
  | .fieldPgRise f => fits 9 f
  | .fieldPllLock f => fits 9 f
  | .baseRdyRise st => decide (st < 24)

end Sys2Proof
end

