-- ==== Sys2Proof/Certificates/Slice0/Obligations.lean ====
section
/-! DEFINITION. The statements about the model that provers close. Equations of the form `Runs c s t` say that the command completes, and
what state it leaves. -/

section
open Sys2Proof Sys2Proof.Machine

/-- The command `c` at state `s` answers the next state `t`. -/
def Runs (c : Instr) (s t : State) : Prop := exec c s = .next t

/-! ### The block and its queue -/

/-- One step takes the command at the front of the queue and runs it on the state with the queue's rest. -/
def Obligations.StepRunsFrontCommand : Prop :=
  ∀ (s : State) (c : Instr) (rest : List Instr), s.pending = c :: rest → step s = exec c { s with pending := rest }

/-- On an empty queue the block idles (the model's choice, log 46): a next state, 1 ns later, in which the cell memories, the register
file and the queues of the cells are as they were. -/
def Obligations.EmptyQueueIdles : Prop :=
  ∀ s : State, s.pending = [] → ∃ t, step s = .next t ∧ t.time = s.time + 1 ∧ t.cellMem = s.cellMem ∧ t.regs = s.regs ∧
    t.cells = s.cells ∧ t.pending = []

/-- A command whose operand names a unit that the build lacks stops, by name: cells outside the grid, cores, counters, channels, router
ports, fields, drops of unfitted stacks, and link ports (the model's choice, log 11: the spec says that such units do not exist). -/
def Obligations.MissingUnitStops : Prop :=
  (∀ s c, s.inGrid c = false → exec (.put c) s = .fault (.noSuchUnit "cell")) ∧
  (∀ s c core d, s.inGrid c = false ∨ 4 ≤ core → exec (.commandPresent c core d) s = .fault (.noSuchUnit "core")) ∧
  (∀ s c core tag k, s.inGrid c = false ∨ 4 ≤ core ∨ 16 ≤ k → exec (.counterRead c core tag k) s = .fault (.noSuchUnit "counter")) ∧
  (∀ s c core tag n, s.inGrid c = false ∨ 4 ≤ core ∨ 64 ≤ n → exec (.chPoll c core tag n) s = .fault (.noSuchUnit "channel")) ∧
  (∀ s c p, s.inGrid c = false ∨ hasPort c p = false → exec (.gustDecision c p) s = .fault (.noSuchUnit "port")) ∧
  (∀ s f, s.nFields ≤ f → exec (.breezeEntry f) s = .fault (.noSuchUnit "field")) ∧
  (∀ s st d, s.stackFitted st = false ∨ 32 ≤ d → exec (.dropFence st d) s = .fault (.noSuchUnit "drop")) ∧
  (∀ s p, s.nPorts ≤ p → exec (.trainingTimeout p) s = .fault (.noSuchUnit "link port"))

/-! ### The cell port (chapter 5) -/

/-- A descriptor joins the tail of its core's queue where the queue holds fewer than 64 and the cell is not in reset (R99). -/
def Obligations.PresentJoinsQueue : Prop :=
  ∀ (s : State) (c : Coord) (core : Nat) (d : Descriptor), s.inGrid c = true → core < 4 → (s.cell c).inReset = false →
    (s.core c core).queue.length < 64 →
    Runs (.commandPresent c core d) s
      ((s.modCore c core (fun k => { k with queue := k.queue ++ [d.toNat] })).causeWake (s.fieldOf c) 3)

/-- The rows that accept a queue head, with the kind of command each takes. -/
def acceptRows : List ((Coord → Instr) × CmdKind) :=
  [(.put, .put), (.get, .get), (.putScatter, .putScatter), (.getGather, .getGather), (.send, .send), (.mcast, .mcast),
   (.deposit, .deposit), (.signalBarArrive, .barArrive), (.signalTallyAdd, .tally 0x10), (.signalTallyMin, .tally 0x11),
   (.signalTallyMax, .tally 0x12), (.signalTallyRead, .tally 0x13), (.signalTallySwap, .tally 0x14),
   (.signalTallyTake, .tally 0x15), (.signalInt, .int), (.signalWake, .wake), (.fenceIssue, .fenceIssue),
   (.fenceDone, .fenceDone), (.fenceCtx, .fenceCtx), (.dictRead, .dictRead), (.dictWrite, .dictWrite),
   (.watchBuffer, .watchBuffer), (.watchContext, .watchContext)]

/-- A command at a queue head, with the port open and the rotation at it. Where no reason of R100 refuses it, it is accepted: it leaves its
queue, takes a slot, and is worked off (R99, R102). Where a reason refuses it, it leaves its queue and its refusal is recorded (R100). -/
def Obligations.HeadIsAcceptedOrRefused : Prop :=
  ∀ r ∈ acceptRows, ∀ (s s1 s2 : State) (c : Coord) (core d code : Nat), s.inGrid c = true → s.portOpen c = true →
    s.pickHead c 4 (((s.cell c).last + 1) % 4) = (some (core, d), s1) → kindOf d = r.2 →
    (s1.popHead c core).refusalCode c d = (code, s2) →
    (code = 0 → Runs (r.1 c) s ((((s2.takeSlot c core d).2).accepted c (s2.takeSlot c core d).1).after c)) ∧
    (code ≠ 0 → Runs (r.1 c) s (s2.refuse c core d code))

/-- The direct operations on completion counters of a cell that runs (R115), and INT_TAKE (R158). -/
def Obligations.CounterOperations : Prop :=
  (∀ s c core tag k, s.inGrid c = true → core < 4 → k < 16 → (s.cell c).inReset = false →
    Runs (.counterRead c core tag k) s (s.answer c core tag (s.counter c core k) 0)) ∧
  (∀ s c core tag k v, s.inGrid c = true → core < 4 → k < 16 → (s.cell c).inReset = false →
    (s.core c core).waits.find? (fun w => w.k == k) = none → atOrPast32 (s.counter c core k) v = true →
    Runs (.blockingWait c core tag k v) s (s.answer c core tag (s.counter c core k) 0)) ∧
  (∀ s c core tag k v, s.inGrid c = true → core < 4 → k < 16 → (s.cell c).inReset = false →
    (s.core c core).waits.find? (fun w => w.k == k) = none → atOrPast32 (s.counter c core k) v = false →
    Runs (.blockingWait c core tag k v) s (s.modCore c core (fun q => { q with
      waits := q.waits ++ [⟨k, v % 2 ^ 32, tag, s.time + us (s.reg (cellNode c) 0 0x4000 2)⟩] }))) ∧
  (∀ s c core k w, s.inGrid c = true → core < 4 → k < 16 → (s.core c core).waits.find? (fun w => w.k == k) = some w →
    ∃ t, Runs (.waitTimeoutExpiry c core k) s t ∧ w.deadline ≤ t.time ∧
      t.answers = s.answers ++ [⟨c, core, w.tag, s.counter c core k, 1⟩]) ∧
  (∀ s c core tag e rest, s.inGrid c = true → core < 4 → (s.cell c).inReset = false → (s.core c core).intq = e :: rest →
    Runs (.intTake c core tag) s ((s.modCore c core (fun k => { k with intq := rest })).answer c core tag e 0)) ∧
  (∀ s c core tag, s.inGrid c = true → core < 4 → (s.cell c).inReset = false → (s.core c core).intq = [] →
    Runs (.intTake c core tag) s (s.answer c core tag 0 1))

/-! ### Message channels (chapter 6) -/

/-- The direct operations on channels (R133, R134, R135). -/
def Obligations.ChannelOperations : Prop :=
  (∀ s c core tag n, s.inGrid c = true → core < 4 → n < 64 → (s.cell c).inReset = false →
    Runs (.chPoll c core tag n) s (s.answer c core tag (s.chanWord c n) 0)) ∧
  (∀ s c core tag n, s.inGrid c = true → core < 4 → n < 64 → (s.cell c).inReset = false →
    (s.core c core).chWaits.find? (fun w => w.n == n) = none → s.chanReady c n = true →
    Runs (.chWait c core tag n) s (s.answer c core tag (s.chanWord c n) 0)) ∧
  (∀ s c core tag n, s.inGrid c = true → core < 4 → n < 64 → (s.cell c).inReset = false →
    (s.core c core).chWaits.find? (fun w => w.n == n) = none → s.chanReady c n = false →
    Runs (.chWait c core tag n) s (s.modCore c core (fun q => { q with
      chWaits := q.chWaits ++ [⟨n, tag, s.time + us (s.reg (cellNode c) 0 0x4180 1)⟩] }))) ∧
  (∀ s c core n w, s.inGrid c = true → core < 4 → n < 64 → (s.core c core).chWaits.find? (fun w => w.n == n) = some w →
    ∃ t, Runs (.chWaitTimeout c core n) s t ∧ w.deadline ≤ t.time ∧ t.answers = s.answers ++ [⟨c, core, w.tag, s.chanWord c n, 0⟩]) ∧
  (∀ s c core tag n h g, s.canonical = true → s.inGrid c = true → core < 4 → n < 64 → (s.cell c).inReset = false →
    s.advanceCode c n (h % 2 ^ 32) (g % 2 ^ 32) = 0 →
    Runs (.chAdvance c core tag n h g) s ((s.setChan c n 9 (g % 2 ^ 32)).answer c core tag (g % 2 ^ 32) 0))

/-- The rows by which a cell receives a packet, each with a TYPE it takes and the kind of its tail. -/
def packetRows : List ((Coord → Packet → Instr) × Nat × (Tail → Bool)) :=
  let transfer := fun (t : Tail) => match t with | .transfer _ => true | _ => false
  let message := fun (t : Tail) => match t with | .message _ => true | _ => false
  let rect := fun (t : Tail) => match t with | .rect _ => true | _ => false
  let table := fun (t : Tail) => match t with | .table _ => true | _ => false
  let coll := fun (t : Tail) => match t with | .coll _ => true | _ => false
  [(fun c p => .reserveReceive (.router c) p, 1, transfer), (.grantReceive, 2, transfer), (fun c p => .releaseReceive (.router c) p, 3, transfer),
   (fun c p => .getReqReceive (.router c) p, 4, transfer), (fun c p => .putDataHeader (.router c) p, 0x10, transfer),
   (.getDataReceive, 0x11, transfer), (.sendAdmission, 0x12, message), (.sendLanding, 0x12, message), (.mcastDataReceive, 0x13, rect),
   (.gatherDataReceive, 0x14, table), (.anchorArrive, 0x20, coll), (.sweepArrive, 0x21, coll), (.rootArrival, 0x22, coll),
   (.resultArrive, 0x23, coll), (.checkPartialArrive, 0x24, coll), (.thirdPartialArrive, 0x24, coll), (.recheckNoticeReceive, 0x25, coll)]

/-- A packet that a row of `packetRows` receives waits while an earlier packet of its flow is still to be received (R74). In a field in Lull,
or on its way there, its header wakes the field with cause 2 and waits (R70, R403); where the field wakes already or its clock is stopped, it
waits. A SEND that its channel admits claims its ring space; one that lands is written and published (R126, R129). -/
def Obligations.MessagesArrive : Prop :=
  (∀ r ∈ packetRows, ∀ (s : State) (c : Coord) (p : Packet), s.inGrid c = true → p.typ = r.2.1 → r.2.2 p.tail = true →
    s.overtakes p = true → Runs (r.1 c p) s s) ∧
  (∀ r ∈ packetRows, ∀ (s : State) (c : Coord) (p : Packet), s.inGrid c = true → p.typ = r.2.1 → r.2.2 p.tail = true →
    s.overtakes p = false → s.cellAwake c = false →
    Runs (r.1 c p) s (if s.power (s.fieldOf c) = 2 ∨ s.power (s.fieldOf c) = 3 then s.causeWake (s.fieldOf c) 2 else s)) ∧
  (∀ s c p t, s.inGrid c = true → s.cellAwake c = true → s.overtakes p = false → p.typ = 0x12 → p.tail = .message t →
    (s.cell c).inReset = false → (s.cell c).msgUsed + 32 * p.len ≤ msgBuffer → s.admission c p t = none →
    Runs (.sendAdmission c p) s
      ((((s.takeDue p).claimSpace c p t).modCell c (fun q => { q with msgUsed := q.msgUsed + 32 * p.len })).done)) ∧
  (∀ s c p t k, s.inGrid c = true → s.cellAwake c = true → s.overtakes p = false → p.typ = 0x12 → p.tail = .message t →
    ((s.takePkt p).chanClaims c t.chan).find? (fun k => k.src == p.src && k.tag == p.tag && ! k.done) = some k → payloadOk p = true →
    Runs (.sendLanding c p) s ((s.sendLanding c p t).done))

/-! ### Routers (chapters 1 to 4) -/

/-- Beats leave their wire and are checked and buffered, but a hole takes in nothing (R24, R20, R57); a free output of a live router decides
on its present requests, or on the sample of its lookahead (R81, R95); credits that have waited 32 fc
leave in a credit beat inserted between gusts (R20, R90). -/
def Obligations.BeatsAndGusts : Prop :=
  (∀ s c p cw side b, s.inGrid c = true → hasPort c p = true → p < 8 → s.clockRuns (s.fieldOf c) = true → (s.offWire c p cw side).isHole c = false →
    ((s.wires.find? (fun w => w.isAt c p cw side)).map WireBeat.copy).getD false = b →
    Runs (.dataBeatReceive c p cw side) s
      (((((s.offWire c p cw side).recvBeat c p cw side b).tidyRouter c).done))) ∧
  (∀ s c p cw side, s.inGrid c = true → hasPort c p = true → p < 8 → s.clockRuns (s.fieldOf c) = true → (s.offWire c p cw side).isHole c = true →
    Runs (.dataBeatReceive c p cw side) s (s.offWire c p cw side)) ∧
  (∀ s c p cw side b, s.inGrid c = true → hasPort c p = true → p < 8 → s.clockRuns (s.fieldOf c) = true → bits side 0 4 = 0xE →
    (s.offWire c p cw side).isHole c = false →
    ((s.wires.find? (fun w => w.isAt c p cw side)).map WireBeat.copy).getD false = b →
    Runs (.creditBeatReceive c p cw side) s
      (((((s.offWire c p cw side).recvBeat c p cw side b).tidyRouter c).done))) ∧
  (∀ s c p, s.inGrid c = true → hasPort c p = true → s.clockRuns (s.fieldOf c) = true → s.isHole c = false → (s.outp c p).gust = none →
    s.reg (cellNode c) 0 (0x4030 + p) 1 = 0 → Runs (.gustDecision c p) s ((s.tailBeat c p).done)) ∧
  (∀ s c p, s.inGrid c = true → hasPort c p = true → s.clockRuns (s.fieldOf c) = true → s.isHole c = false → (s.outp c p).gust = none →
    s.reg (cellNode c) 0 (0x4030 + p) 1 = 1 → Runs (.gustDecision c p) s ((s.lookahead c p).done)) ∧
  (∀ s c p l ls, s.inGrid c = true → hasPort c p = true → p < 8 → s.clockRuns (s.fieldOf c) = true →
    beatLanes.filter (fun l => (s.lane c p l).freed != 0) = l :: ls →
    Runs (.creditBeatInsert c p) s
      ((({ s with time := max s.time (s.fcAfter (s.fieldOf c)
          (minimum (s.lane c p l).freedAt (ls.map (fun l => (s.lane c p l).freedAt))) 32) } : State).modOut c p
        (fun o => { o with insert := true })).betweenGusts c p))

/-- At a window boundary every requester's credit becomes its weight and the Control quota restarts (R79); at a slot period's start its
owner receives a claim (R85); claims lapse after the next period (R85); a committed slot table takes effect (R86). While the fabric clock is
stopped nothing comes due (R398). -/
def Obligations.ArbitrationWindows : Prop :=
  (∀ s c p, s.inGrid c = true → hasPort c p = true → s.clockRuns (s.fieldOf c) = true → Runs (.arbWindowBoundary c p) s (s.windowBoundary c p)) ∧
  (∀ s c p k own t, s.inGrid c = true → hasPort c p = true → s.clockRuns (s.fieldOf c) = true →
    k = max (cdiv (s.fcCount (s.fieldOf c)) 4) (s.outp c p).claimed → t = max s.time (s.fcTime (s.fieldOf c) (4 * k)) →
    ({ s with time := t } : State).slotOwner c p k = own → own ≤ 8 →
    Runs (.tradeClaimArise c p) s
      ((({ s with time := t } : State).modOut c p (fun o => { o with claimed := k + 1 })).modOut c p (fun o =>
        o.setReq (5 * own + 2) { o.req (5 * own + 2) with claims := (o.req (5 * own + 2)).claims ++ [⟨k, false, false⟩] }))) ∧
  (∀ s c p, s.inGrid c = true → hasPort c p = true → s.clockRuns (s.fieldOf c) = true → 
    (List.range 9).any (fun i => ! ((s.outp c p).req (5 * i + 2)).claims.isEmpty) = true →
    Runs (.tradeClaimLapse c p) s (s.claimLapse c p)) ∧
  (∀ s c p t, s.inGrid c = true → hasPort c p = true → s.clockRuns (s.fieldOf c) = true → s.power (s.fieldOf c) ≠ 2 → (s.outp c p).slots = some t →
    Runs (.tradeTableApply c p) s ((({ s with time := max s.time (s.outp c p).slotsAt } : State).setTab (cellNode c) 0 (0x4040 + p) 1 (Memory.writeN (objEmpty 0x4040 1) [] 0 t)).modOut c p
      (fun o => { o with slots := none }))) ∧
  (∀ s c p, s.inGrid c = true → hasPort c p = true → s.clockRuns (s.fieldOf c) = false →
    ∀ r ∈ ([fun c p => .gustDecision c p, fun c p => .arbWindowBoundary c p, fun c p => .tradeClaimArise c p,
        fun c p => .tradeClaimLapse c p, fun c p => .tradeTableApply c p] : List (Coord → Nat → Instr)), Runs (r c p) s s)

/-- Credit sync: a request is answered, between gusts, with a marker beat and the counts; the output records its counts at the marker and takes the reply;
what is missing is asked for again (R91). CREDIT signals carry the cumulative counts of Bulk and Collective lanes (R145). Beats of the signal
net are decoded and their signal goes on; SLSYNC carries the counts of an input and restores lost credits (R141, R142). While the fabric clock is stopped what arrives
waits (R12, R398). -/
def Obligations.CreditExchanges : Prop :=
  (∀ s c p, s.inGrid c = true → hasPort c p = true → p < 8 → s.clockRuns (s.fieldOf c) = true →
    Runs (.creditSyncReqReceive c p) s
      (((s.takeLocal c p (.creditSyncReq c p)).modOut c p (fun o => { o with marker := true })).betweenGusts c p)) ∧
  (∀ s c p, s.inGrid c = true → hasPort c p = true → p < 8 → s.clockRuns (s.fieldOf c) = true → (s.outp c p).sync.isSome = true →
    Runs (.creditSyncMarkerReceive c p) s
      (((s.offMarker c p).modOut c p (fun o => { o with sync := o.sync.map (fun y => { y with marker := some o.got }) })).finishSync
        c p)) ∧
  (∀ s c p counts, s.inGrid c = true → hasPort c p = true → p < 8 → s.clockRuns (s.fieldOf c) = true → (s.outp c p).sync.isSome = true →
    Runs (.creditSyncRspReceive c p counts) s
      (((s.takeLocal c p (.creditSyncRsp c p counts)).modOut c p
        (fun o => { o with sync := o.sync.map (fun y => { y with reply := some counts }) })).finishSync c p)) ∧
  (∀ s c p y, s.inGrid c = true → hasPort c p = true → p < 8 → s.clockRuns (s.fieldOf c) = true → (s.outp c p).sync = some y →
    Runs (.creditSyncRetry c p) s
      ((({ s with time := max s.time (s.fcAfter (s.fieldOf c) y.start 256) } : State).modOut c p
        (fun o => { o with sync := some ⟨max s.time (s.fcAfter (s.fieldOf c) y.start 256), none, none⟩ })).linkLocal c p
          (fun d q => .creditSyncReq d q))) ∧
  (∀ s c p, s.inGrid c = true → hasPort c p = true → p < 8 → s.clockRuns (s.fieldOf c) = true → sigLanes.all (fun l => (s.lane c p l).freed == 0) = false →
    Runs (.creditSignalSend c p) s (s.creditSignal c p)) ∧
  (∀ s c p counts, s.inGrid c = true → hasPort c p = true → p < 8 →
    s.clockRuns (s.fieldOf c) = true → Runs (.creditSignalReceive c p counts) s ((s.takeLocal c p (.credit c p counts)).creditSignalAt c p counts)) ∧
  (∀ s c p cw side, s.inGrid c = true → hasPort c p = true → p < 8 →
    Runs (.signalBeatReceive c p cw side) s (((s.recvSigBeat c p cw side).serveSignals c).done)) ∧
  (∀ s c p, s.inGrid c = true → hasPort c p = true → p < 8 →
    s.clockRuns (s.fieldOf c) = true → Runs (.slsyncSend c p) s (s.linkLocal c p (fun d q => .slsync d q (s.sin c p).ret))) ∧
  (∀ s c p counts, s.inGrid c = true → hasPort c p = true → p < 8 →
    s.clockRuns (s.fieldOf c) = true → Runs (.slsyncReceive c p counts) s (((s.takeLocal c p (.slsync c p counts)).slsyncAt c p counts).serveSignals c)) ∧
  (∀ s c p, s.inGrid c = true → hasPort c p = true → p < 8 → s.clockRuns (s.fieldOf c) = false →
    ∀ r ∈ ([fun c p => .creditSyncReqReceive c p, fun c p => .creditSyncMarkerReceive c p, fun c p => .creditSyncRetry c p,
        fun c p => .creditSignalSend c p, fun c p => .slsyncSend c p, fun c p => .creditBeatInsert c p] : List (Coord → Nat → Instr)),
      Runs (r c p) s s)

/-- The reclose of a fenced router: its neighbours freeze and NACK, routers apply RING_CHANGE, and the freeze is released (R66, R67). -/
def Obligations.RecloseCompletes : Prop :=
  (∀ s c, s.inGrid c = true → s.fences.contains (routerBlock c) = true → s.isHole c = false →
    Runs (.routerFence c) s ((s.fenceUnit c).done)) ∧
  (∀ s c h rb cb, s.inGrid c = true → s.holes.any (fun x => x.c == h && ! s.bootHole x) = true →
    (s.rtr c).applied.contains h = false →
    Runs (.ringChangeReceive c h rb cb) s
      ((((((s.takeSig (.ringChange h rb cb)).modRtr c (fun r => { r.rerouteSigs with applied := r.applied ++ [h] })).tidyRouter
        c).purgeAt c).pump c).done)) ∧
  (∀ s h r, s.inGrid h = true → s.recloses.find? (fun r => r.hole == h) = some r →
    Runs (.recloseRelease h) s
      ((r.frozen.foldl (fun (s : State) n => ((s.hardStop n.1 n.2 false).rejoin n.1 n.2).tidyRouter n.1)
        { s with recloses := s.recloses.filter (fun x => x.hole != h) }).done))

/-- Anycast: the members advertise by a tally maximum, the home field decodes the winner and clears the counter, and routers cache it
(R72, R73). -/
def Obligations.AnycastSelection : Prop :=
  (∀ s g, g < 256 → s.anyMembers g ≠ [] → Runs (.anycastAdvertise g) s (s.anyAdvertise g)) ∧
  (∀ s g, g < 256 → s.reg .engine 0 (0x2100 + g) 1 ≠ 0 → s.anyPeriod ≠ 0 →
    s.tally (s.reg .engine 0 (0x2100 + g) 3) (254 + (s.anyPeriod - 1) % 2) = 0 →
    Runs (.anycastWinnerDecode g) s
      ((s.setTally (s.reg .engine 0 (0x2100 + g) 3) (254 + (s.anyPeriod - 1) % 2) 0).sendSig
        (s.tallyHome (s.reg .engine 0 (0x2100 + g) 3) (254 + (s.anyPeriod - 1) % 2)) (.anyWin g 0 true))) ∧
  (∀ s g v, g < 256 → s.reg .engine 0 (0x2100 + g) 1 ≠ 0 → s.anyPeriod ≠ 0 →
    s.tally (s.reg .engine 0 (0x2100 + g) 3) (254 + (s.anyPeriod - 1) % 2) = v → v ≠ 0 →
    Runs (.anycastWinnerDecode g) s
      ((((s.setTally (s.reg .engine 0 (0x2100 + g) 3) (254 + (s.anyPeriod - 1) % 2) 0).setReg .engine 0 (0x2100 + g) 4
        ((255 - v % 256 + (s.anyPeriod - 1)) % s.reg .engine 0 (0x2100 + g) 1 % 256 + 256 * ((v / 256 - 1) % 256)))).sendSig
          (s.tallyHome (s.reg .engine 0 (0x2100 + g) 3) (254 + (s.anyPeriod - 1) % 2))
          (.anyWin g ((255 - v % 256 + (s.anyPeriod - 1)) % s.reg .engine 0 (0x2100 + g) 1) false))) ∧
  (∀ s c g member no, s.inGrid c = true →
    Runs (.anyWinReceive c g member no) s
      (s.modRtr c (fun r => { r with wins := SMap.put 0 r.wins g (if no then 1 else member + 2) })))

/-! ### The signal net (chapter 7) -/

/-- A barrier: the root counts and combines the arrivals and releases the phase when all have come or its lease ends; the release ends the
commands that wait (R151, R153, R154). -/
def Obligations.BarrierCompletes : Prop :=
  (∀ s c a, s.inGrid c = true → a.bctx < 4096 → s.bar c a.bctx 0x0A = 2 →
    a.gen = s.bar c a.bctx 9 →
    s.bar c a.bctx 0x0B + a.count ≤ s.bar c a.bctx 8 →
    s.isHole c = false → s.clockRuns (s.fieldOf c) = true →
    Runs (.barArriveAtRoot c a) s ((s.takeSig (.barArrive a)).barArriveRoot c a)) ∧
  (∀ s k, k < 4096 → s.isHole (s.barRoot k) = false → s.bar (s.barRoot k) k 0x0A = 2 →
    Runs (.barrierPhaseTimeout k) s
      (({ s with time := max s.time (SMap.get BarSt.init s.bars k).deadline } : State).barRelease (s.barRoot k) k true)) ∧
  (∀ s c r, s.inGrid c = true → s.cellAwake c = true →
    Runs (.barReleaseReceive c r) s (((((s.takeSig (.barRelease r)).barReleaseAt c r).xbarRelease c r)).after c))

/-- A tally request at its home applies its operation once and is answered with the old value, and where the home is a hole it is discarded (R146); TALLY_RSP completes its SIGNAL with that
value (R156). An INT joins its core's interrupt queue, which holds 16 entries (R158), and in a sleeping field it wakes the field and waits (R149, R408);
a WAKE is consumed by its field's power controller,
which holds the field and wakes it (R159, R408). -/
def Obligations.TallyAndInterrupts : Prop :=
  (∀ s q, q.f < s.nFields → q.k < 256 → 0x10 ≤ q.op → q.op ≤ 0x15 →
    s.isHole (s.tallyHome q.f q.k) = false → s.clockRuns (s.fieldOf (s.tallyHome q.f q.k)) = true →
    Runs (.tallyRequestAtHome q) s ((s.takeSig (.tallyReq q)).tallyOp q)) ∧
  (∀ s q, q.f < s.nFields → q.k < 256 → 0x10 ≤ q.op → q.op ≤ 0x15 → s.isHole (s.tallyHome q.f q.k) = true →
    Runs (.tallyRequestAtHome q) s ((s.takeSig (.tallyReq q)).discardSig (s.tallyHome q.f q.k))) ∧
  (∀ s q m, s.inGrid ⟨q.x, q.y⟩ = true → s.cellAwake ⟨q.x, q.y⟩ = true →
    s.cmd? ⟨q.x, q.y⟩ q.tag = some m → isTally m.desc = true →
    Runs (.tallyRspReceive q) s (((s.takeSig (.tallyRsp q)).complete ⟨q.x, q.y⟩ m 0 0 q.old).after ⟨q.x, q.y⟩)) ∧
  (∀ s c core origin arg, s.inGrid c = true → core < 4 → s.cellAwake c = true → s.isHole c = false → (s.cell c).inReset = false →
    (s.core c core).intq.length < 16 →
    Runs (.intReceive c core origin arg) s
      ((s.takeSig (.int ⟨s.engine, c.x, c.y, core, false⟩ (srcAddrOf origin) arg)).modCore c core
        (fun k => { k with intq := k.intq ++ [origin % 2 ^ 32 + 2 ^ 32 * (arg % 2 ^ 32)] }))) ∧
  (∀ s c core origin arg, s.inGrid c = true → core < 4 → s.cellAwake c = false →
    s.sigs.contains (.int ⟨s.engine, c.x, c.y, core, false⟩ (srcAddrOf origin) arg) = true →
    Runs (.intReceive c core origin arg) s
      (if s.power (s.fieldOf c) = 2 ∨ s.power (s.fieldOf c) = 3 then s.causeWake (s.fieldOf c) 4 else s)) ∧
  (∀ s f arg, f < s.nFields → arg ≤ 1 → Runs (.wakeReceive f arg) s (s.wakeRecv f arg))

/-- Replies at a cell: a NACK is entered in CH63 and ends what it names (R132), DELIVERED completes a SEND with the channel epoch
(R106, R129), a DICT reply completes its command (R387), and a command without its reply completes TIMEOUT (R160). -/
def Obligations.RepliesComplete : Prop :=
  (∀ s n, s.inGrid (srcCell n.target) = true → n.target.eng = s.engine → s.cellAwake (srcCell n.target) = true →
    Runs (.nackReceive n) s (((s.takeSig (.nack n)).nackCell (srcCell n.target) n).after (srcCell n.target))) ∧
  (∀ s d m, s.inGrid (srcCell d.target) = true → d.target.eng = s.engine →
    s.cellAwake (srcCell d.target) = true →
    s.cmd? (srcCell d.target) d.tag = some m → kindOf m.desc = .send →
    Runs (.deliveredReceive d) s
      (((s.takeSig (.delivered d)).complete (srcCell d.target) m 0 0 (d.arg8 % 256)).after (srcCell d.target))) ∧
  (∀ s r m, s.inGrid ⟨r.who.x, r.who.y⟩ = true → r.who.mgmt = false → r.who.eng = s.engine → r.whole = true →
    s.cellAwake ⟨r.who.x, r.who.y⟩ = true → s.cmd? ⟨r.who.x, r.who.y⟩ r.tag = some m →
    kindOf m.desc = .dictWrite → r.wr = true →
    Runs (.dictRspReceive r) s
      (((s.takeSig (.dictRsp r)).complete ⟨r.who.x, r.who.y⟩ m r.status r.detail r.value).after ⟨r.who.x, r.who.y⟩)) ∧
  (∀ s c slot m t, s.inGrid c = true → (s.cell c).cmds.find? (fun m => m.slot == slot) = some m → m.deadline = some t →
    Runs (.replyTimeoutExpiry c slot) s ((({ s with time := max s.time t } : State).complete c m 9 0 0).after c))

/-! ### Bulk transfers and multicast (chapter 8) -/

/-- Requests and grants: a RESERVE takes an entry of its site's request queue (R163), the head is granted when the free grains cover it
(R164), a GRANT starts the source's data (R168), a RELEASE ends a queued request (R165), and a source that waits too long ends TIMEOUT
(R168). -/
def Obligations.ReservationsProceed : Prop :=
  (∀ s c p t, s.inGrid c = true → s.cellAwake c = true → s.overtakes p = false → p.typ = 1 → p.tail = .transfer t → (s.cell c).inReset = false →
    (s.landing (.router c)).queue.length < 256 →
    Runs (.reserveReceive (.router c) p) s
      ((s.takePkt p).enterQueue (.router c) ⟨⟨keySrc p, t.rsv, p.tag⟩, t.size, t.lease, p.dest, .put t.addr⟩)) ∧
  (∀ s p pk t, p < s.nPorts → s.cellAwake (s.siteCell (.port p)) = true → s.overtakes pk = false → pk.typ = 1 → pk.tail = .transfer t → (s.port p).treq.length < 256 →
    Runs (.reserveReceive (.port p) pk) s ((s.takePkt pk).modPort p (fun q => { q with
      treq := q.treq ++ [⟨⟨keySrc pk, t.rsv, pk.tag⟩, t.size, t.lease, pk.dest, .transit (t.addr % 2)⟩] }))) ∧
  (∀ s c, s.inGrid c = true → (s.landing (.router c)).ready = true →
    Runs (.reservationGrant (.router c)) s ((s.grantHead (.router c)).after c)) ∧
  (∀ s c p t r m, s.inGrid c = true → s.cellAwake c = true → s.overtakes p = false → p.typ = 2 → p.tail = .transfer t → s.srcRsv? c t.rsv = some r → r.use = .cmd → r.tag = p.tag →
    r.st = .asked → s.cmd? c r.tag = some m → kindOf m.desc = .put → Runs (.grantReceive c p) s (s.grantRecv c p t)) ∧
  (∀ s c p t, s.inGrid c = true → s.cellAwake c = true → s.overtakes p = false → p.typ = 3 → p.tail = .transfer t → (s.cell c).inReset = false →
    ((s.takePkt p).landing (.router c)).queued ⟨keySrc p, t.rsv, p.tag⟩ = true →
    Runs (.releaseReceive (.router c) p) s
      (((s.takePkt p).modLanding (.router c) (fun l => l.unqueue ⟨keySrc p, t.rsv, p.tag⟩)).bumpLanding (.router c) 7)) ∧
  (∀ s c rsv r, s.inGrid c = true → rsv < 64 → s.srcRsv? c rsv = some r → r.st = .asked ∨ r.st = .awaiting →
    Runs (.bulkTimeoutExpiry c rsv) s (s.bulkLate c rsv))

/-- Payloads: data before expiry lands in full (R166), the last byte ends the reservation with DELIVERED (R165), a lease that ends frees
the grains (R167), a GET_REQ is answered by the replier, and GET_DATA lands in the requester's reservation (R171). -/
def Obligations.PayloadsLand : Prop :=
  (∀ s c p t r a, s.inGrid c = true → s.cellAwake c = true → s.overtakes p = false → p.typ = 0x10 → p.tail = .transfer t → (s.cell c).inReset = false →
    s.landInject (.router c) p = (p, s) → s.landCase (.router c) ⟨keySrc p, t.rsv, p.tag⟩ t.off t.size p = .lands r → r.kind = .put a →
    Runs (.putDataHeader (.router c) p) s (((s.takePkt p).landBytes c r a t.off t.size p).done)) ∧
  (∀ s c k r a, s.inGrid c = true → (s.landing (.router c)).find k = some r → r.st = .filling → r.size ≤ r.written →
    r.kind = .put a → s.segmentOf r a = none →
    Runs (.reservationFilled (.router c) k) s
      (((s.modLanding (.router c) (fun l => l.finish k)).sendDelivered (.router c) r).done)) ∧
  (∀ s u c k r a, s.inGrid c = true → (s.landing (.router c)).find k = some r → r.st = .filling → r.written < r.size → r.kind = .put a →
    u = ((((s.awaitFt (s.siteField (.router c)) r.expiry).modLanding (.router c) (fun l => l.finish k)).ringEvent c 8 0
      (k.rsv + 64 * k.tag)).bumpLanding (.router c) 5) →
    Runs (.landingLeaseExpiry (.router c) k) s
      (((u.sendSig c (.nack ⟨8, k.tag, k.src, u.srcOf c 0, 1, k.rsv, 0, r.written⟩)).countEvent c 9 0 0 1).after c)) ∧
  (∀ s p k g, p < s.nPorts → (s.port p).ledger.find? (fun g => sameKey g.key k) = some g →
    Runs (.landingLeaseExpiry (.port p) k) s
      (((s.awaitFt (s.fieldOf (s.gatewayCell p 0)) g.expiry).modPort p (fun q => { q with ledger := q.ledger.erase g })).ringEvent
        (s.gatewayCell p 0) 8 0 (k.tag + 2 ^ 16 * k.rsv + 2 ^ 22 * 3))) ∧
  (∀ s c p t, s.inGrid c = true → s.cellAwake c = true → s.overtakes p = false → p.typ = 4 → p.tail = .transfer t → (s.cell c).inReset = false →
    Runs (.getReqReceive (.router c) p) s (((s.takePkt p).replyGet c p t 9 0).done)) ∧
  (∀ s c p t r, s.inGrid c = true → s.cellAwake c = true → s.overtakes p = false → p.typ = 0x11 → p.tail = .transfer t → (s.cell c).inReset = false →
    s.landInject (.router c) p = (p, s) → s.srcRsv? c t.rsv = some r → r.tag = p.tag → r.st = .own →
    Runs (.getDataReceive c p) s (((s.getDataCell c p t).after c).done))

/-- Multicast: each member enters the call (R174), the source counts the answers and sends (R175), an unanswered call ends with LEASE, and
members land the data (R175); a packet that comes at a member before an earlier one of its rectangle that this member still waits for changes
nothing (R74; log 13). -/
def Obligations.MulticastProceeds : Prop :=
  (∀ s c g, s.inGrid c = true → g.x ≤ c.x → c.x ≤ g.x1 → g.y ≤ c.y → c.y ≤ g.y1 → s.cellAwake c = true →
    (s.cell c).inReset = false → (s.cell c).landing.queue.length < 256 →
    Runs (.mresGrantReceive c g) s
      ((s.takeSig (.mresGrant g)).enterQueue (.router c) ⟨⟨g.source, g.mid, g.tag⟩, g.size, g.lease, ⟨s.engine, g.x, g.y, 5⟩, .mcast g.addr g⟩)) ∧
  (∀ s a, s.inGrid (srcCell a.source) = true → a.source.stream = false → s.cellAwake (srcCell a.source) = true →
    Runs (.mresArriveReceive a) s (((s.takeSig (.mresArrive a)).mresArriveCell a).after (srcCell a.source))) ∧
  (∀ s src mid r, s.inGrid (srcCell src) = true → src.stream = false →
    (s.cell (srcCell src)).rsvs.find? (fun r => r.mid == mid && r.st == .call) = some r →
    Runs (.callLimitExpiry src mid) s
      ((({ s with time := max s.time r.deadline } : State).endMcast (srcCell src) r [(1, 8)]).after (srcCell src))) ∧
  (∀ s c p t r a g, s.inGrid c = true → s.cellAwake c = true → s.overtakes p = false → s.rectOvertakes c p = false → p.typ = 0x13 →
    p.tail = .rect t → (s.cell c).inReset = false → s.landInject (.router c) p = (p, s) →
    s.landCase (.router c) ⟨keySrc p, t.mid, p.tag⟩ t.off t.size p = .lands r → r.kind = .mcast a g →
    Runs (.mcastDataReceive c p) s ((s.landBytes c r a t.off t.size p).done)) ∧
  (∀ s c p t, s.inGrid c = true → s.cellAwake c = true → p.typ = 0x13 → p.tail = .rect t → s.rectOvertakes c p = true →
    Runs (.mcastDataReceive c p) s s)

/-! ### Collectives (chapters 10, 11 and 14) -/

/-- Sweeps: an arc end originates its half, a sweep at a member merges, pulls, holds or passes, a wait that ends owes the member or lets the
half go on, and a gathering router originates the column half (R222, R223, R224, R236). -/
def Obligations.SweepsProceed : Prop :=
  (∀ s c ctx e k d, s.inGrid c = true → ctx < 4096 → (s.spec ctx).measured = false → s.dep? c ⟨ctx, e, k⟩ = some d →
    s.ownState c 1 ⟨ctx, e, k⟩ = .pending →
    Runs (.sweepOriginate c ctx e k) s
      (((s.originate c 1 ⟨ctx, e, k⟩).originate c 2 ⟨ctx, e, k⟩).after c)) ∧
  (∀ s c p t, s.inGrid c = true → s.cellAwake c = true → s.overtakes p = false → p.typ = 0x21 → p.tail = .coll t → t.pass = false → s.rootFor (packetPh p) t.ctx t.epoch t.slice ≠ some c →
    (s.arm? t.ctx).isSome = true → payloadOk p = true → Runs (.sweepArrive c p) s ((s.sweepAt c p).after c)) ∧
  (∀ s c ctx e k w, s.inGrid c = true → ctx < 4096 → s.slot? c 1 ⟨ctx, e, k⟩ [.half, .col, .row] = some w → w.wait ≠ 0 →
    Runs (.sweepWaitBudgetExpiry c ctx e k) s ((s.waitExpiry c ⟨ctx, e, k⟩ [.half, .col, .row]).after c)) ∧
  (∀ s c ctx e k w, s.inGrid c = true → ctx < 4096 → s.slot? c 1 ⟨ctx, e, k⟩ [.col] = some w → w.wait ≠ 0 →
    Runs (.gatheringHoldExpiry c ctx e k) s ((s.waitExpiry c ⟨ctx, e, k⟩ [.col]).after c)) ∧
  (∀ s c ctx e k, s.inGrid c = true → ctx < 4096 → (s.spec ctx).measured = false → (s.gath c 1 ⟨ctx, e, k⟩).passed = false →
    Runs (.columnHalfOriginate c ctx e k) s
      (((s.colOriginate c 1 ⟨ctx, e, k⟩).colOriginate c 2 ⟨ctx, e, k⟩).after c))

/-- Roots: arrivals merge into their slot, spilled slices come back, leases complete slices INCOMPLETE, orphans go LATE to the root, and a member's deadline ends its slice (R225, R234, R238, R239, R241). A result copy lands or goes down a level (R226), anchors are max-reduced, and an
anchor pass that stays short is completed CTX_ORPHAN after its first arrival (R229). -/
def Obligations.RootsProceed : Prop :=
  (∀ s c p t, s.inGrid c = true → s.cellAwake c = true → s.overtakes p = false → p.typ = 0x21 → p.tail = .coll t → s.rootFor 1 t.ctx t.epoch t.slice = some c →
    (s.arm? t.ctx).isSome = true → payloadOk p = true → Runs (.rootArrival c p) s ((s.rootAt c 1 p).after c)) ∧
  (∀ s c ctx w r p s1, s.inGrid c = true → ctx < 4096 → (s.coll c).slots.find? (fun w => w.ctx == ctx && w.spill.isSome) = some w →
    s.canTake c ctx false = true → w.spill = some r → s.spillRead c ctx r = (some p, s1) →
    Runs (.spillReadBack c ctx) s ((s1.putSlot c w { w with part := p.recount w.part, spill := none }).after c)) ∧
  (∀ s c ctx e k w, s.inGrid c = true → ctx < 4096 → s.slot? c 1 ⟨ctx, e, k⟩ [.root] = some w →
    Runs (.sliceLeaseExpiry c ctx e k) s
      ((((s.rootExpiry c 1 ⟨ctx, e, k⟩).rootExpiry c 2 ⟨ctx, e, k⟩).rootExpiry c 3 ⟨ctx, e, k⟩).after c)) ∧
  (∀ s c ctx e k d, s.inGrid c = true → ctx < 4096 → s.dep? c ⟨ctx, e, k⟩ = some d → d.vLeft ≠ [] →
    Runs (.orphanExpiry c ctx e k) s ((s.orphanExpiry c ⟨ctx, e, k⟩).after c)) ∧
  (∀ s c ctx e k d, s.inGrid c = true → ctx < 4096 → s.dep? c ⟨ctx, e, k⟩ = some d → (s.geo ctx).lands c k = true → d.landed = false →
    Runs (.memberDeadlineExpiry c ctx e k) s
      (((({ s with time := max s.time (d.at_ + 2 * us (s.ctx ctx 0x14 + s.levelLeases ctx)) } : State).noResult c ⟨ctx, e, k⟩).exchDeadline c ⟨ctx, e, k⟩).after c)) ∧
  (∀ s c p t, s.inGrid c = true → s.cellAwake c = true → s.overtakes p = false → p.typ = 0x23 → p.tail = .coll t → t.level = 0 →
    Runs (.resultArrive c p) s ((s.resultAt c p).after c)) ∧
  (∀ s c p t, s.inGrid c = true → s.cellAwake c = true → s.overtakes p = false → p.typ = 0x20 → p.tail = .coll t → t.level = 0 → s.ctx t.ctx 2 ≠ 5 →
    Runs (.anchorArrive c p) s ((s.anchorAt c p).after c)) ∧
  (∀ s c ctx e k, s.inGrid c = true → ctx < 4096 → (s.slot? c 0 ⟨ctx, e, k⟩ [.root]).isSome = true →
    Runs (.anchorPassOrphanExpiry c ctx e k) s
      ((((((s.rootExpiry c 0 ⟨ctx, e, k⟩).available c ⟨ctx, e, k⟩).rootsAlone c ⟨ctx, e, k⟩).rawsReady c ⟨ctx, e, k⟩)).after c))

/-- Exchanges and the dual reduction: segments go when they are ready (R245), the join rises (R268), partials settle or wait out their
timers (R346), members answer a recheck (R347), and Breeze replays the pattern library (R352). -/
def Obligations.ExchangeAndDual : Prop :=
  (∀ s c ctx e dst x a, s.inGrid c = true → ctx < 4096 → s.exch? c ctx e = some x → x.local_ = 1 →
    s.segDest ctx dst = some a →
    Runs (.exchangeSegmentSend c ctx e dst) s ((s.segmentSend c ctx e dst).after c)) ∧
  (∀ s ctx e m x, ctx < 4096 → s.ctx ctx 2 = 5 → s.levels ctx ≠ 0 → m ∈ (s.geo ctx).members → s.exch? m ctx e = some x → x.local_ = 1 →
    Runs (.exchangeJoin ctx e) s ((s.exchangeJoin ctx e).done)) ∧
  (∀ s c p t, s.inGrid c = true → s.cellAwake c = true → s.overtakes p = false → p.typ = 0x24 → p.tail = .coll t → s.checkRoot t.ctx t.epoch t.slice = some (srcCell p.src) →
    s.rootFor 1 t.ctx t.epoch t.slice = some c → s.slicesDone c t = true →
    Runs (.checkPartialArrive c p) s ((s.partialAt c false p).after c)) ∧
  (∀ s c p t, s.inGrid c = true → s.cellAwake c = true → s.overtakes p = false → p.typ = 0x24 → p.tail = .coll t → s.thirdMill t.ctx t.epoch t.slice = some (srcCell p.src) →
    s.rootFor 1 t.ctx t.epoch t.slice = some c → s.slicesDone c t = true →
    Runs (.thirdPartialArrive c p) s ((s.partialAt c true p).after c)) ∧
  (∀ s c ctx e k h p s1, s.inGrid c = true → ctx < 4096 → s.hold? c ⟨ctx, e, k⟩ = some h → h.third = false →
    ({ s with time := max s.time h.deadline } : State).holdRead c h = (some p, s1) →
    Runs (.checkWaitExpiry c ctx e k) s ((s1.settleHold c ⟨ctx, e, k⟩ 3 p).after c)) ∧
  (∀ s c ctx e k h, s.inGrid c = true → ctx < 4096 → s.hold? c ⟨ctx, e, k⟩ = some h → h.third = true →
    Runs (.thirdWaitExpiry c ctx e k) s ((({ s with time := max s.time h.deadline } : State).noThird c h).after c)) ∧
  (∀ s c p t, s.inGrid c = true → s.cellAwake c = true → s.overtakes p = false → p.typ = 0x23 → p.tail = .coll t → t.pass = true → (s.arm? t.ctx).isSome = true →
    Runs (.recheckNoticeReceive c p) s
      (((List.range t.nsl).foldl (fun (s : State) j => s.recheckOwn c ⟨t.ctx, t.epoch, t.slice + j⟩) (s.takePkt p)).after c)) ∧
  (∀ s c, s.inGrid c = true → s.power (s.fieldOf c) = 1 → s.reg .engine 0 0x8001 6 = 1 → s.isHole c = false →
    Runs (.patternReplay c) s ((s.replay c).done))

/-- Level rings across engines: packets rise and descend, stations convert, owe and send late, and level roots end their leases
(R257, R258, R261, R262, R264). -/
def Obligations.LevelsProceed : Prop :=
  (∀ s p pk t, p < s.nPorts → s.cellAwake (s.siteCell (.port p)) = true → s.overtakes pk = false → pk.typ = 0x21 → pk.cls = 2 → pk.tail = .coll t → s.armedFor t.ctx t.epoch = true → payloadOk pk = true →
    Runs (.levelPacketArrive p pk) s ((s.levelAt p pk).done)) ∧
  (∀ s p ctx e k o q, p < s.nPorts → ctx < 4096 → s.lvOwn? p 1 1 ⟨ctx, e, k⟩ = some o → o.part = some q → o.carrier = false →
    (s.spec ctx).carried = true → (s.spec ctx).measured = false →
    Runs (.stationCarrierConvert p ctx e k) s
      ((((s.lvConverted p 1 ⟨ctx, e, k⟩ (s.toCarrier ctx q (fun j => (q.blk j).a))).setLvOwn p
        { o with part := some (s.toCarrier ctx q (fun j => (q.blk j).a)).1, carrier := true }).lvAvail p 1 1 ⟨ctx, e, k⟩).done)) ∧
  (∀ s p l ctx e k w, p < s.nPorts → l ≤ 3 → ctx < 4096 → s.lvSlot? p 1 l ⟨ctx, e, k⟩ false = some w → w.wait ≠ 0 →
    Runs (.levelWaitExpiry p l ctx e k) s ((s.lvWaitExpiry p l ⟨ctx, e, k⟩).done)) ∧
  (∀ s p l ctx e k o q, p < s.nPorts → l ≤ 3 → ctx < 4096 → s.lvOwn? p 1 l ⟨ctx, e, k⟩ = some o → o.part = some q →
    Runs (.levelOrphanExpiry p l ctx e k) s ((s.lvOrphan p l ⟨ctx, e, k⟩).done)) ∧
  (∀ s p l ctx e k w, p < s.nPorts → l ≤ 3 → ctx < 4096 → s.ctx ctx 2 ≠ 5 → s.lvSlot? p 1 l ⟨ctx, e, k⟩ true = some w →
    Runs (.levelLeaseExpiry p l ctx e k) s ((s.lvRootExpiry p 1 l ⟨ctx, e, k⟩).done)) ∧
  (∀ s p l ctx e k w, p < s.nPorts → l ≤ 3 → ctx < 4096 → s.ctx ctx 2 ≠ 5 → s.lvSlot? p 0 l ⟨ctx, e, k⟩ true = some w →
    Runs (.levelAnchorPassExpiry p l ctx e k) s ((s.lvRootExpiry p 0 l ⟨ctx, e, k⟩).done)) ∧
  (∀ s p pk t, p < s.nPorts → s.cellAwake (s.siteCell (.port p)) = true → s.overtakes pk = false → pk.typ = 0x23 → pk.cls = 2 → pk.tail = .coll t → t.level ≠ 0 → s.armedFor t.ctx t.epoch = true →
    t.level ≤ s.levels t.ctx → Runs (.levelResultDescend p pk) s ((s.resultDescend p pk).done))

/-! ### Drop ports (chapter 12) -/

/-- Tables: gathers are pooled and answered (R285, R287, R283), scatter rows merge (R290), and an epoch is closed, flushed and answered
(R292, R293). -/
def Obligations.TablesProceed : Prop :=
  (∀ s st d p t, s.stackFitted st = true → d < 32 → s.cellAwake (dropCell st d) = true → s.overtakes p = false → p.typ = 5 → p.tail = .table t → s.dropLive st d = true →
    (s.tbl t.tdesc).loaded = true → (s.tbl t.tdesc).beyond st t.row = false → (s.drop st d).queueUsed < 1024 →
    Runs (.gatherReqReceive st d p) s ((s.gatherReq st d p).done)) ∧
  (∀ s st td row d e, s.stackFitted st = true → td < 1024 → d < 32 →
    (List.range 32).findSome? (fun d => ((s.drop st d).ents.find? (fun e =>
      e.tdesc == td && e.row == row && e.ready)).map (fun e => (d, e))) = some (d, e) → e.pooled = true → e.err = false →
    Runs (.coalescerReply st td row) s
      (((({ s with time := max s.time (e.opened + e.arm.window) } : State).coalReply st d e)).done)) ∧
  (∀ s c p t m r, s.inGrid c = true → s.cellAwake c = true → s.overtakes p = false → p.typ = 0x14 → p.tail = .table t → (s.cell c).inReset = false →
    s.landInject (.router c) p = (p, s) → s.cmd? c p.tag = some m → s.srcRsv? c t.rsv = some r → r.tag = p.tag →
    kindOf m.desc = .getGather → Runs (.gatherDataReceive c p) s (((s.gatherData c p t).after c).done)) ∧
  (∀ s st d p t r, s.stackFitted st = true → d < 32 → s.cellAwake (dropCell st d) = true → s.overtakes p = false → p.typ = 0x15 → p.tail = .table t → s.landInject (.drop st d) p = (p, s) →
    (s.landing (.drop st d)).find ⟨keySrc p, t.rsv, p.tag⟩ = some r → s.ft (s.siteField (.drop st d)) < r.expiry → r.st ≠ .failed →
    Runs (.scatterDataReceive st d p) s ((s.scatterData st d p).done)) ∧
  (∀ s st d p t, s.stackFitted st = true → d < 32 → s.cellAwake (dropCell st d) = true → s.overtakes p = false → p.typ = 6 → p.tail = .table t → s.dropLive st d = true →
    (s.drop st d).queueUsed < 1024 → (s.drop st d).flushes.any (fun f => f.tdesc == t.tdesc) = false →
    Runs (.flushReqReceive st d p) s (((s.takePkt p).flushBegin st d p t).done)) ∧
  (∀ s st d td f, s.stackFitted st = true → d < 32 → td < 1024 → (s.drop st d).flushes.find? (fun f => f.tdesc == td) = some f →
    f.busy = false → f.wait.any (fun k => ((s.drop st d).landing.find k).isSome) = false →
    Runs (.flushWriteback st d td) s (((s.modFlush st d td (fun f => { f with busy := true })).flushNext st d td).done)) ∧
  (∀ s a st d l, s.inGrid (srcCell a.target) = true → a.target.eng = s.engine → s.dropAt (srcCell a.target) = some (st, d) →
    (s.drop st d).leads.find? (fun l => l.tdesc == bits a.arg32 0 10 && decide (l.epoch = bits a.arg32 10 8) && l.tag == a.tag &&
        l.open_.contains (srcCell a.origin)) = some l →
    Runs (.flushAnswerReceive a) s ((s.flushAnswer a answerClose).done)) ∧
  (∀ s td i l, td < 1024 →
    (List.range 768).findSome? (fun i => ((s.drop (i / 32) (i % 32)).leads.find? (fun l => l.tdesc == td)).map (fun l => (i, l))) =
      some (i, l) →
    Runs (.flushLimitExpiry td) s
      ((({ s with time := max s.time (l.start + us (s.reg .engine 0 0x6001 2)) } : State).leadEnd (i / 32) (i % 32) l answerClose).done))

/-- The memory transactions of a drop: read data and acknowledges free their tag (R275), an unanswered one is a strike and a read error
(R276); a fenced drop leaves the live-drop map (R297). -/
def Obligations.DropTransactions : Prop :=
  (∀ s st d tag a b err t, s.stackFitted st = true → d < 32 → tag < 256 →
    (s.drop st d).txns.find? (fun t => t.tag == tag && (t.code == 1 || t.code == 3)) = some t →
    Runs (.rdataReceive st d tag a b err true) s ((s.rdata st d tag a b err true).done)) ∧
  (∀ s st d tag t, s.stackFitted st = true → d < 32 → tag < 256 → s.eng.testMode = false →
    (s.drop st d).txns.find? (fun t => t.tag == tag && (t.code == 2 || t.code == 4)) = some t → t.late = false →
    Runs (.wackReceive st d tag false true) s (((s.freeTag st d t).writeDone st d t true).done)) ∧
  (∀ s st d tag t, s.stackFitted st = true → d < 32 → tag < 256 →
    (s.drop st d).txns.find? (fun t => t.tag == tag && ! t.late && t.use != .boot) = some t →
    Runs (.txnTimeoutExpiry st d tag) s ((s.txnTimeout st d tag).done)) ∧
  (∀ s st d, s.stackFitted st = true → d < 32 → s.fences.contains (dropBlock st d) = true → s.dropLive st d = true →
    Runs (.dropFence st d) s ((s.dropFenced st d).done))

/-! ### Link ports (chapter 13) -/

/-- Frames are verified and taken, but none moves during a width change (R314); NAK and replay repeat what is missing, credit units return buffers (R307, R308); packets pass the
sluice into the fabric or toward their exit port (R311, R312), and a level packet no armed map has is dropped and counted (R252). -/
def Obligations.FramesAndPackets : Prop :=
  (∀ s p f fec, p < s.nPorts → s.portState p = 4 → (s.port p).widening = false → fec ≠ .bad →
    Runs (.frameReceive p f fec) s ((s.frameAt p f fec).done)) ∧
  (∀ s p f, p < s.nPorts → s.portState p = 4 → (s.port p).widening = false →
    Runs (.frameReceive p f .bad) s ((s.frameBad p).done)) ∧
  (∀ s p f fec, p < s.nPorts → (s.port p).widening = true → Runs (.frameReceive p f fec) s s.done) ∧
  (∀ s p, p < s.nPorts → s.portUp p = true → (s.port p).nakAt ≠ 0 →
    Runs (.nakRepeat p) s
      ((({ s with time := max s.time ((s.port p).nakAt + 2000) } : State).modPort p (fun q => { q with wantNak := true })).done)) ∧
  (∀ s p, p < s.nPorts → (s.port p).replay ≠ [] →
    Runs (.replayTimeoutExpiry p) s
      ((({ s with time := max s.time ((s.port p).ackAt + s.linkTimer 3 1000) } : State).retransmit p).done)) ∧
  (∀ s p, p < s.nPorts → s.portUp p = true → (s.port p).freed ≠ (s.port p).told →
    Runs (.creditUnitSend p) s
      ((if 4 ≤ (s.port p).dataSince then s else ({ s with time := max s.time ((s.port p).freedAt + 100) } : State)).linkRun p 512)) ∧
  (∀ s p pk, p < s.nPorts → s.mayEnter p pk = true → pk.dest.eng = s.engine → s.levelEntry pk = none → s.isDescent pk = false →
    s.entrySluice p pk = none → s.reg .engine 0 0x8140 0x14 = 0 → s.strayLevel pk = false →
    Runs (.linkPacketEnter p pk) s (((s.rxTake p pk).sendPkt (s.entryCell p pk) pk false).done)) ∧
  (∀ s p pk, p < s.nPorts → s.mayEnter p pk = true → pk.dest.eng = s.engine → s.entrySluice p pk = none →
    s.reg .engine 0 0x8140 0x14 = 0 → s.strayLevel pk = true →
    Runs (.linkPacketEnter p pk) s (((s.rxTake p pk).bumpLv p 0x0B).done)) ∧
  (∀ s p pk, p < s.nPorts → s.portUp p = true → pk.dest.eng ≠ s.engine → s.levelEntry pk = none → s.isDescent pk = false →
    s.sluicePkt p pk = none →
    Runs (.transitPacketArrive p pk) s ((s.transitAt p pk).done))

/-- Training and the handshake: a DOWN port trains, a lock enters HELLO, the messages of the handshake are taken in order, timeouts return
the port to DOWN, and keys are updated (R313, R314, R317, R318, R319). -/
def Obligations.TrainingAndHandshake : Prop :=
  (∀ s p, p < s.nPorts → s.mayTrain = true → s.portState p = 1 → s.reg .engine 0 0x8140 0x14 = 0 → s.reg .engine 0 0xA011 4 ≠ 2 →
    Runs (.portTrainingStart p) s ((s.setPortState p 2).done)) ∧
  (∀ s p a b, p < s.nPorts → s.mayTrain = true → s.portState p = 2 →
    s.widthFor p (s.reg .engine 0 0x7001 8) (((a % 256) &&& s.liveLanes p) &&& (b % 256)) ≠ 0 →
    Runs (.trainingLock p a b) s
      (((((s.modPort p (fun q => { q with ownLanes := (a % 256) &&& s.liveLanes p, partnerLanes := b % 256 })).setReg (s.portNode p) 0
        0x7010 7 (s.widthFor p (s.reg .engine 0 0x7001 8) (((a % 256) &&& s.liveLanes p) &&& (b % 256)))).setReg (s.portNode p) 0 0x7010 8
          (((a % 256) &&& s.liveLanes p) &&& (b % 256))).enterHello p).done)) ∧
  (∀ s p, p < s.nPorts → s.portState p = 2 →
    Runs (.trainingTimeout p) s ((({ s with time := max s.time ((s.port p).since + ms 100) } : State).portDown p 1 12).done)) ∧
  (∀ s p h, p < s.nPorts → s.portState p = 3 → (s.port p).hs.partner = none →
    (s.port p).hs.own.any (fun a => a.random == h.random) = false → Runs (.helloReceive p h) s ((s.helloAt p h).done)) ∧
  (∀ s p chain, p < s.nPorts → s.portState p = 3 → (s.port p).hs.partner.isSome = true → (s.port p).hs.partnerCert = none →
    Runs (.certReceive p chain) s
      (((s.modPort p (fun q => { q with inbox := q.inbox.erase (2, chain), hs := { q.hs with partnerCert := some chain } })).hsCheck
        p).done)) ∧
  (∀ s p sig a b, p < s.nPorts → s.portState p = 3 → (s.port p).hs.own = some a → (s.port p).hs.partner = some b →
    (s.port p).hs.leaf ≠ [] → (s.port p).hs.proofPartner = none → Runs (.proofReceive p sig) s ((s.proofAt p sig).done)) ∧
  (∀ s p mac a b sig, p < s.nPorts → s.portState p = 3 → (s.port p).hs.own = some a → (s.port p).hs.partner = some b →
    (s.port p).hs.proofPartner = some sig → Runs (.finishReceive p mac) s ((s.finishAt p mac).done)) ∧
  (∀ s p, p < s.nPorts → s.portState p = 3 →
    Runs (.helloTimeout p) s
      ((({ s with time := max s.time ((s.port p).since + ms 100) } : State).portDown p 1 (s.lport p 0x0D)).done)) ∧
  (∀ s p r e, p < s.nPorts → s.portUp p = true → (s.port p).rekey = none →
    2 ^ s.reg .engine 0 0x7002 0x0B ≤ (s.port p).tx.count →
    Runs (.rekeyStart p r e) s ((s.sendRekey p (some (r, e))).done)) ∧
  (∀ s p r e, p < s.nPorts → s.portUp p = true → Runs (.rekeyReceive p r e) s ((s.rekeyAt p r e).done)) ∧
  (∀ s p k due, p < s.nPorts → (s.port p).rxOld = some (k, due) →
    Runs (.oldKeyPhaseExpiry p) s
      (({ s with time := max s.time due } : State).modPort p (fun q => { q with rxOld := none })))

/-- A port in service: holds end, a port UP long enough is announced, lanes are lost and widths change, silence and stalls take it DOWN,
but no stall comes due where nothing waits
(R313, R314, R315, R331, R452). -/
def Obligations.PortsInService : Prop :=
  (∀ s p, p < s.nPorts → s.portState p = 6 → s.lport p 0x0D ≠ 11 →
    Runs (.holdDownExpiry p) s
      (({ s with time := max s.time ((s.port p).since + s.holdTime p) } : State).setPortState p 1)) ∧
  (∀ s p, p < s.nPorts → s.portUp p = true →
    Runs (.upHoldElapsed p) s
      (({ s with time := max s.time ((s.port p).upAt + s.linkTimer 4 1000000) } : State).modPort p
        (fun q => { q with announced := true }))) ∧
  (∀ s p lane, p < s.nPorts → lane < 8 → s.portUp p = true → clrBit (s.lport p 8) lane ≠ s.lport p 8 →
    s.widthFor p (s.lport p 0x0B) (clrBit (s.lport p 8) lane) = 0 →
    Runs (.laneDegrade p lane) s ((s.portDown p 1 1).done) ∧ Runs (.linkLockLoss p lane) s ((s.portDown p 1 1).done)) ∧
  (∀ s p lane, p < s.nPorts → lane < 8 → s.portUp p = true → clrBit (s.lport p 8) lane ≠ s.lport p 8 →
    s.widthFor p (s.lport p 0x0B) (clrBit (s.lport p 8) lane) ≠ 0 →
    ∃ t, t = ((((s.modPort p (fun q => { q with ownLanes := clrBit q.ownLanes lane, widening := true })).setReg (s.portNode p) 0 0x7010 8
        (clrBit (s.lport p 8) lane)).setReg (s.portNode p) 0 0x7010 7 (s.widthFor p (s.lport p 0x0B) (clrBit (s.lport p 8) lane))).bumpLink p 0x0A 1).done ∧
      Runs (.laneDegrade p lane) s t ∧ Runs (.linkLockLoss p lane) s t) ∧
  (∀ s p, p < s.nPorts → s.portUp p = true → (s.port p).widening = true →
    Runs (.widthChangeDone p) s (((s.modPort p (fun q => { q with widening := false })).retransmit p).done)) ∧
  (∀ s p, p < s.nPorts → s.portUp p = true → 
    Runs (.deadTimeExpiry p) s
      ((({ s with time := max s.time ((s.port p).lastRx + s.linkTimer 1 1000) } : State).portDown p 1 1).done)) ∧
  (∀ s p d ds, p < s.nPorts → s.portUp p = true → s.stallDues p = d :: ds →
    Runs (.stallTimeExpiry p) s ((({ s with time := max s.time (minimum d ds) } : State).portDown p 1 2).done)) ∧
  (∀ s p, p < s.nPorts → s.stallDues p = [] → Runs (.stallTimeExpiry p) s s.done) ∧
  (∀ s p, p < s.nPorts → s.portUp p = true →
    Runs (.flapDoublingReset p) s
      (({ s with time := max s.time ((s.port p).upAt + 10 * s.linkTimer 6 1000000) } : State).modPort p
        (fun q => { q with holdMul := 1 })))

/-- Notes, engine routes and TIME frames: notes are taken, originated and expire (R322), the route table is recomputed and counted (R324),
and TIME frames carry stamps both ways (R335, R420). -/
def Obligations.NotesRoutesTime : Prop :=
  (∀ s p n, p < s.nPorts → s.portUp p = true → Runs (.noteReceive p n) s ((s.noteAt322 p n).done)) ∧
  (∀ s, Runs .noteOriginate s ((s.originate322 false).done)) ∧
  (∀ s o e, o < 2048 → s.eng.notes.find? (fun e => e.note.origin == o) = some e →
    ∃ t, Runs (.noteExpiry o) s t ∧ t.eng.notes = s.eng.notes.filter (fun x => x.note.origin != o) ∧
      e.at_ + ms (4 * s.reg .engine 0 0x7002 8) ≤ t.time) ∧
  (∀ s, ∃ t, Runs .engineRouteRecompute s t ∧ t.route.notes = s.eng.notes.map NoteEnt.note ∧ t.route.own = s.ownRecs) ∧
  (∀ s p, p < s.nPorts → s.portUp p = true → bit (s.lport p 0x0B) 1 = true → (s.port p).widening = false →
    Runs (.timeFrameSend p) s ((s.timeSend p).done)) ∧
  (∀ s p t, p < s.nPorts → s.portUp p = true → bit (s.lport p 0x0B) 1 = true →
    Runs (.timeFrameReceive p t) s (s.timeFrame p t))

/-! ### The object dictionary and the management port (chapters 15 and 16) -/

/-- The rows that are one write of the dictionary, with the writes each is. -/
def writeRows : List ((DictReq → Instr) × (DictReq → Bool)) :=
  [(.chanStateWrite, fun r => r.wr && decide (0x4100 ≤ r.index) && decide (r.index ≤ 0x413F) && decide (r.sub = 1)),
   (.chanHeadWrite, fun r => r.wr && decide (0x4100 ≤ r.index) && decide (r.index ≤ 0x413F) && decide (r.sub = 9)),
   (.replayNow, fun r => DictReq.writes r 0x8020 [0x0D]),
   (.tblCloseWrite, fun r => DictReq.writes r 0x6000 [0x0C]),
   (.memStreamStart, fun r => DictReq.writes r 0x6100 [9]),
   (.quarantineRelease, fun r => DictReq.writes r 0x7030 [0x0E] && decide (r.value = 0)),
   (.retrainFull, fun r => DictReq.writes r 0x7010 [0x0E] && decide (r.value = 1)),
   (.retrainKeyUpdate, fun r => DictReq.writes r 0x7010 [0x0E] && decide (r.value = 2)),
   (.relayEnable, fun r => DictReq.writes r 0x7010 [4] && decide (r.value = 1)),
   (.relayDisable, fun r => DictReq.writes r 0x7010 [4] && decide (r.value = 0)),
   (.statusClear, fun r => DictReq.writesFault r 1),
   (.intEnableWrite, fun r => DictReq.writesFault r 8),
   (.fenceWrite, fun r => DictReq.writesFault r 0x0B && decide (r.value = 1)),
   (.linkFenceRelease, fun r => DictReq.writesFault r 0x0B && decide (r.index = 0x8130) && decide (r.value = 0)),
   (.raiseSuspect, fun r => DictReq.writes r 0x8140 [0x11]),
   (.drain, fun r => DictReq.writes r 0x8140 [0x13]),
   (.faultInjectArm, fun r => DictReq.writes r 0xF010 [5]),
   (.commit, fun r => DictReq.writes r 0x2001 [1] && decide (r.value = 1)),
   (.abandon, fun r => DictReq.writes r 0x2001 [1] && decide (r.value = 2)),
   (.defectMapAdd, fun r => DictReq.writes r 0x1005 [2]),
   (.freqWrite, fun r => DictReq.writes r 0xA001 [1]),
   (.fieldToleranceWrite, fun r => DictReq.writes r 0xA010 [1]),
   (.engineWakeWrite, fun r => DictReq.writes r 0xA011 [5]),
   (.engineToleranceWrite, fun r => DictReq.writes r 0xA011 [1]),
   (.comparatorTimeWrite, fun r => DictReq.writes r 0xA100 [1]),
   (.ftSetWrite, fun r => DictReq.writes r 0xA030 [2]),
   (.freezeAllRings, fun r => DictReq.writes r 0x9000 [2] && decide (r.value = 1)),
   (.unfreezeAllRings, fun r => DictReq.writes r 0x9000 [2] && decide (r.value = 2)),
   (.eventRingFrozenWrite, fun r => DictReq.writes r 0x9040 [3]),
   (.counterSelectWrite, fun r => DictReq.writes r 0x9020 ((List.range 16).map (· + 1))),
   (.probeActionWrite, fun r => DictReq.writes r 0x9010 [8]),
   (.sweepEnableWrite, fun r => DictReq.writes r 0x9030 [1]),
   (.haltStateWrite, fun r => DictReq.writes r 0x9060 [3]),
   (.restart, fun r => DictReq.writes r 0x1008 [8])]

/-- A request at the agent of its node: it is taken, and no partial form of it stays (R387, R388). -/
def arrived (s : State) (r : DictReq) : State := (s.takeSig (.dictReq r)).dropPartial r.who r.tag

/-- A dictionary write that passes its checks has its effect at once. One that is answered OK sends its reply; one whose reply a later event
gives (a commit, a relock, a flush) answers nothing yet (R378 to R383, R387). One for a node of a field in Lull wakes it and waits (R408). -/
def Obligations.DictionaryWritesComplete : Prop :=
  (∀ w ∈ writeRows, ∀ (s : State) (r : DictReq) (f : Nat), w.2 r = true → r.eng = s.engine → r.whole = true →
    s.dictAsleep r = some f →
    Runs (w.1 r) s (((s.dropPartial r.who r.tag).dictWait r f).done) ∧
    Runs (.dictRequestReceive r) s (((s.dropPartial r.who r.tag).dictWait r f).done)) ∧
  ∀ w ∈ writeRows, ∀ (s : State) (r : DictReq) (o : Obj) (a : Option Rsp) (t : State), w.2 r = true → r.eng = s.engine →
    r.whole = true → s.dictAsleep r = none → (arrived s r).checkReq r false = .ok o → (arrived s r).dictWrite r o = (a, t) →
    (∀ x, a = some x → x.status = 0 →
      Runs (w.1 r) s ((t.dictAnswer r x).done) ∧ Runs (.dictRequestReceive r) s ((t.dictAnswer r x).done)) ∧
    (a = none → Runs (w.1 r) s t.done ∧ Runs (.dictRequestReceive r) s t.done)

/-- A request that a check refuses changes no object: it is answered with the reason (R378, R387, R394). A read of a scalar answers its
value, and a read of an RC object leaves it 0 (R376, R377). -/
def Obligations.DictionaryAnswers : Prop :=
  (∀ (s : State) (r : DictReq) (e : Nat × Nat), r.eng = s.engine → r.whole = true → s.dictAsleep r = none →
    (arrived s r).checkReq r false = .error e →
    Runs (.dictRequestReceive r) s (((arrived s r).dictAnswer r ⟨e.1, e.2, 0, []⟩).done)) ∧
  (∀ (s u : State) (r : DictReq) (o : Obj) (q : ObjRow), r.eng = s.engine → r.whole = true → r.wr = false → s.dictAsleep r = none →
    (arrived s r).checkReq r false = .ok o → objRow o.idx o.sub = some q → q.ty.isBlob = false → (arrived s r).freshen o = u →
    Runs (.dictRequestReceive r) s
      (((if q.acc = .rc then u.setReg o.node o.inst o.idx o.sub 0 else u).dictAnswer r ⟨0, 0, u.scalar r.who o, []⟩).done))

/-- Commits and drains go on: the prepare and apply rounds end, limits and leases end what they bound (R382, R383), incomplete requests are
dropped (R388), and DRAIN goes from step to step (R372). -/
def Obligations.CommitsAndDrain : Prop :=
  (∀ s u g r a gen, s.eng.commit = some ⟨g, r, a, none⟩ → s.firstRefused g = none → gen = (s.reg .engine 0 0x2002 2 + 1) % 2 ^ 32 →
    u = ((s.setReg .engine 0 0x2002 2 gen).dictAnswer r ⟨0, 0, gen, []⟩) →
    Runs .commitPrepareDone s (({ u with eng := { u.eng with commit := some ⟨g, r, u.time, some gen⟩ } } : State).done)) ∧
  (∀ s g r a w code, s.eng.commit = some ⟨g, r, a, none⟩ → s.firstRefused g = some (w, code) → code < 256 →
    Runs .commitPrepareDone s
      ((((s.setReg .engine 0 0x2001 3 (refusedWord r.who w code)).dictAnswer r (rspRef 0x19)).endCommit).done)) ∧
  (∀ s g r a gen, s.eng.commit = some ⟨g, r, a, some gen⟩ → Runs .commitApplyDone s (((s.applyRound g gen []).commitBack gen []).done)) ∧
  (∀ s m gen l, s.eng.commit = some m → m.gen = some gen →
    Runs (.commitLimitExpiry l) s
      (((({ s with time := max s.time (m.start + 1000 * s.reg .engine 0 0x2003 4) } : State).applyRound m.group gen l).commitBack gen l).done)) ∧
  (∀ s w g, s.group? w = some g →
    Runs (.groupLeaseExpiry w) s
      (({ s with time := max s.time (g.at_ + 1000 * s.reg .engine 0 0x2003 3) } : State).setGroups
        (s.eng.groups.filter (fun x => x.who != w)))) ∧
  (∀ s f w tag p, f < s.nFields → s.eng.partials.find? (fun p => p.f == f && p.req.who == w && p.req.tag == tag) = some p →
    Runs (.dictSegmentTimeout f w tag) s (({ s with time := max s.time (p.at_ + 10000) } : State).dropPartial w tag)) ∧
  (∀ s, s.reg .engine 0 0x8140 0x14 = 1 → Runs .drainStepAdvance s (((s.setDrain 2).lvDrain).done)) ∧
  (∀ s, s.reg .engine 0 0x8140 0x14 = 2 → Runs .drainLimitExpiry s (s.drainLimitEnd.done))

/-- The management port: requests go to the signal net (R393), an unanswered one is answered TIMEOUT (R393), MCTP control messages are
answered in the forms of the MCTP base specification (R392, log 45), and the target takes its dynamic address (R459). -/
def Obligations.ManagementPort : Prop :=
  (∀ s m, msgNat m.bytes 0 1 = 0x7F → beNat ((m.bytes.drop 1).take 4) = s.reg .engine 0 0x1001 1 → 32 ≤ m.bytes.length →
    m.bytes.length ≤ 4136 → msgNat m.bytes 5 1 = 1 ∨ msgNat m.bytes 5 1 = 2 → s.eng.mgmt.length < 8 → s.asleep = false →
    Runs (.mgmtRequest m) s
      ((({ s with eng := { s.eng with mgmt := s.eng.mgmt ++ [⟨m.bytes.take 8, s.time⟩] } } : State).sendSig (s.agentAt 0)
        (.dictReq (s.mgmtDict m.bytes))).done)) ∧
  (∀ s mtag m, s.eng.mgmt.find? (fun m => leNat ((m.head.drop 6).take 1) = mtag) = some m →
    ∃ t, Runs (.mgmtReplyTimeout mtag) s t ∧ t.eng.mgmt = s.eng.mgmt.erase m ∧
      t.eng.mgmtSent = s.eng.mgmtSent ++ [mgmtResponse m.head 9 0 0 []] ∧ m.at_ + 1000 * s.reg .engine 0 0x2012 1 ≤ t.time) ∧
  (∀ s e, ∃ t, Runs (.mctpControlRequest (.setEndpointId e)) s t ∧ t.eng.eid = e % 256) ∧
  (∀ s m, Runs (.mctpControlRequest m) s (s.mctpControl m)) ∧
  (∀ s a, ∃ t, Runs (.dynamicAddressAssignment a) s t ∧ t.eng.dynAddr = some (a % 128))

/-! ### Clocks, power and time (chapter 17) -/

/-- Field clocks: a relock ends a FREQ write (R398), an unlock stops the clock, a relock brings it back or the field stays stopped (R399),
and a droop lengthens at most 64 fc, each by at most as much again, which the marked stretch holds (R400; by how much is a free value, log 118). -/
def Obligations.FieldClocks : Prop :=
  (∀ s f, f < s.nFields → s.eng.freqReqs.filter (fun q => q.1 == f) ≠ [] → s.enginePower = 0 →
    Runs (.freqRelockDone f) s ((s.freqDone f).done)) ∧
  (∀ s f, f < s.nFields → (s.field f).stopped = false →
    Runs (.pllUnlock f) s ((((s.stopClock f).faultLive (s.fieldBlock f) 0 true).strike (s.fieldBlock f) 0 0 0).done)) ∧
  (∀ s f, f < s.nFields → s.unlocked f = true → Runs (.pllRelock f) s ((s.relock f).done)) ∧
  (∀ s f, f < s.nFields → s.unlocked f = true →
    Runs (.pllRelockFail f) s (((s.upTo ((s.field f).stopAt + 100000)).modField f (fun q => { q with dead := true })).done)) ∧
  (∀ s u f n, s.canonical = true → f < s.nFields → (s.bump (.field f) 0 0xA001 4 (min n 64)).bump (.field f) 0 0xA001 5 1 = u →
    ∃ t x, Runs (.droopStretch f n) s t ∧ t.regs = u.regs ∧ x ≤ u.fcNs f (min n 64) ∧
      (t.field f).stretchEnd = max s.time (u.field f).stretchEnd + u.fcNs f (min n 64) + x)

/-- Field power states: Run to Breeze, which a waiting command ends at once; Breeze to entering Lull and to Lull, or back to Breeze where
something holds the field by then (log 119); a wake cause brings the field to Run, and the hold of a WAKE ends (R406, R408). -/
def Obligations.FieldPowerStates : Prop :=
  (∀ s u v f, f < s.nFields → s.inService = true → s.power f = 0 → (s.field f).stopped = false → s.target f ≠ 0 →
    ({ s with time := max s.time (s.fcAfter f (s.field f).idleSince (s.reg (.field f) 0 0xA010 2)) } : State) = u →
    (u.setPower f 1).modField f (fun q => { q with breezeSince := (u.setPower f 1).time }) = v →
    Runs (.breezeEntry f) s
      (if (v.fieldCells f).any (fun c => (v.cell c).cores.any (fun k => ! k.queue.isEmpty)) then v.causeWake f 3 else v)) ∧
  (∀ s f, f < s.nFields → s.power f = 1 → s.target f = 2 →
    Runs (.lullEntry f) s ((({ s with time := max s.time ((s.field f).breezeSince + s.reg (.field f) 0 0xA010 3) } : State).setPower f
      3).modField f (fun q => { q with lullDue := max s.time ((s.field f).breezeSince + s.reg (.field f) 0 0xA010 3) + 200 }))) ∧
  (∀ s u f, f < s.nFields → s.power f = 3 →
    ({ s with time := max s.time (s.field f).lullDue } : State) = u →
    Runs (.lullEntryDone f) s
      ((if u.target f = 2 then u.setPower f 2 else (u.setPower f 1).modField f (fun q => { q with breezeSince := (u.setPower f 1).time })).watchCalm)) ∧
  (∀ s f cause, f < s.nFields → 1 ≤ cause → cause ≤ 8 → Runs (.fieldWake f cause) s ((s.causeWake f cause).wakeDone f)) ∧
  (∀ s f h hs, s.canonical = true → f < s.nFields → (s.field f).wakeHolds = h :: hs →
    ∃ t e, Runs (.wakeHoldExpiry f) s t ∧ e ∈ h :: hs ∧ (t.field f).wakeHolds = (h :: hs).erase e ∧ e.2 ≤ t.time)

/-- Engine power states: Calm once CALM_IDLE has passed, which stops the clocks and drops the drops' cached rows; Still, and the wake, which
in Still no arrival on a link causes (R407, R409, R457); what arrives in Calm (R410), and fantail's windows and shares (R414, R415). -/
def Obligations.EnginePowerStates : Prop :=
  (∀ s, s.calmReady = true → Runs .calmEntry s
    ((((({ s with time := max s.time (s.eng.calmSince.getD s.time + us (s.reg .engine 0 0xA011 3)) } : State).stopClocks.dropCaches).setReg
      .engine 0 0xA011 4 1).announce 2).done)) ∧
  (∀ s, s.enginePower = 1 → s.reg .engine 0 0xA011 2 = 1 → 5000 ≤ s.reg .engine 0 0xA011 1 → Runs .stillEntry s (s.stillEntry.done)) ∧
  (∀ s cause, 1 ≤ cause → cause ≤ 5 → s.enginePower = 1 ∨ s.enginePower = 2 →
    Runs (.engineWake cause) s (((s.causeEngine cause).engineUp).done)) ∧
  (∀ s, s.enginePower = 2 → Runs (.engineWake 4) s s.done) ∧
  (∀ s, s.canonical = true → s.enginePower = 1 ∨ s.enginePower = 2 →
    ∃ t, Runs .wakeNFall s t ∧ t.enginePower = 4 ∧ t.reg .engine 0 0xA011 6 = 1) ∧
  (∀ s p i, p < s.nPorts → s.enginePower = 1 → Runs (.calmLinkArrival p i) s ((s.calmItem p i).done)) ∧
  (∀ s f, f < s.nFields → Runs (.fantailWindow f) s (s.fantailWindow f)) ∧
  (∀ s, Runs .fantailShareRecompute s s.shareRecompute)

/-- Fabric time: an armed comparator fires and is counted (R417), and beacons leave field 0 and correct the others (R419). -/
def Obligations.FabricTime : Prop :=
  (∀ s i, i < 32 → s.reg .engine 0 (0xA100 + i) 5 = 1 → Runs (.comparatorFire i) s ((s.compFire i).done)) ∧
  (∀ s, s.enginePower = 0 → 6 ≤ s.reg .engine 0 0x1008 1 →
    ∃ t, Runs .beaconOriginate s t ∧ t.eng.beaconSeq = s.eng.beaconSeq + 1 ∧ t.eng.beaconStep = false) ∧
  (∀ s f b, f < s.nFields → Runs (.beaconReceive f b) s (s.beaconAt f b))

/-! ### Observation (chapter 18) -/

/-- Trace bytes enter a chunk buffer, chunks leave for the sink (R428), routers sample their counters (R429), and breakpoints and HALT
signals halt fields (R433, R434). -/
def Obligations.ObservationProceeds : Prop :=
  (∀ s c core data, s.inGrid c = true → core < 4 → bit (s.reg (cellNode c) 0 0x9050 4) core = true →
    SMap.get [] (s.cell c).traceWait core = [] → (s.traceAdd c core (padTo 8 (data.take 8))).1 = true →
    Runs (.traceInput c core data) s (s.traceAdd c core (padTo 8 (data.take 8))).2) ∧
  (∀ s c src t, s.inGrid c = true → (s.cell c).trace.find? (fun t => t.source == src) = some t →
    Runs (.traceChunkSend c src) s ((s.traceSend c src).done)) ∧
  (∀ s c k, s.inGrid c = true → s.sweepIndex c = some k → s.swp 1 = 1 → Runs (.sweepSample c) s ((s.sweepSample c).done)) ∧
  (∀ s c core, s.inGrid c = true → core < 4 → bit (bits (s.reg (cellNode c) 0 0x9050 8) (5 * core) 5) 4 = true →
    (s.cell c).inReset = false →
    Runs (.breakpoint c core) s
      (s.sendHalt c (bits (s.reg (cellNode c) 0 0x9050 8) (5 * core) 5 % 16) true (s.srcOf c core))) ∧
  (∀ s c h, s.inGrid c = true → (SMap.get (⟨false, 0⟩ : HaltSt) (s.rtr c).halts h.group).t < h.t →
    Runs (.haltReceive c h) s (s.haltAt c h))

/-! ### Bring-up, resets and the boundary (chapters 19 and 20) -/

/-- The steps of bring-up, each in its place, and the events of its fields, stacks and clocks (R436, R440 to R446). -/
def Obligations.BringUpSteps : Prop :=
  (∀ s, s.eng.powered = false → Runs .coldBringup s (s.bringupStart false)) ∧
  (∀ s, s.bootStep = 1 → Runs (.bringupAon true) s (s.bootAon true)) ∧
  (∀ s, s.bootStep = 1 → s.reg .engine 0 0x1008 3 = 1 → Runs .refclkRetry s (s.bootRetry)) ∧
  (∀ s, s.bootStep = 2 → Runs (.bringupAgents true []) s
    ((List.range s.nFields).foldl (fun (s : State) f => s.setReg (.field f) 0 0x3010 1 1) (s.loadCerts.stepDone 2))) ∧
  (∀ s, s.bootStep = 3 → (List.range s.nFields).all (fun f => (s.field f).boot == 3) = true →
    Runs .bringupClocks s (s.stepDone 3)) ∧
  (∀ s f, s.canonical = true → f < s.nFields → s.bootStep = 3 → (s.field f).boot = 0 → ∃ t, Runs (.fieldWaveStart f) s t ∧
    (t.field f).boot = if (s.field f).pg then 2 else 1) ∧
  (∀ s, s.bootStep = 4 → Runs .bringupHoles s (((s.defects.foldl State.defect s).mapsDone).stepDone 4)) ∧
  (∀ s x, s.bootStep = 5 → Runs (.bringupSelftest x) s (s.bootSelftest x)) ∧
  (∀ s, s.bootStep = 6 → Runs (.bringupSignal true) s
    ((s.modEng (fun e => { e with beaconSeq := e.beaconSeq + 2 })).stepDone 6)) ∧
  (∀ s, s.bootStep = 7 → Runs .bringupImage s s.bootImage) ∧
  (∀ s, s.bootStep = 8 → Runs .bringupDrops s (s.bootDrops.done)) ∧
  (∀ s, s.bootStep = 9 → s.stepsDone < 9 → Runs .bringupLinks s (s.bootLinks.done)) ∧
  (∀ s, s.bootStep = 9 → s.stepsDone = 9 → Runs .bringupDone s (s.bootDone.done)) ∧
  (∀ s f, s.canonical = true → f < s.nFields → ∃ t, Runs (.fieldPgRise f) s t ∧ (t.field f).pg = true) ∧
  (∀ s f, f < s.nFields → s.bootStep = 3 → (s.field f).boot = 2 →
    Runs (.fieldPllLock f) s ((s.startClock f).modField f (fun q => { q with boot := 3, bootAt := (s.startClock f).time }))) ∧
  (∀ s st, s.stackFitted st = true → s.bootStep = 8 → Runs (.baseRdyRise st) s (s.baseReady st))

/-- Power and reset: AON_PG falling ends all operation (R453), FIELD_PG falling takes the field (R453), a cell reset empties the cell and its
release resumes it (R120, R450), and the answers of the cell memory are taken in the order the port serves, by what each was read for, a
flagged one counted in RERR_COUNT (R118, R119), a stray one ignored (R448). -/
def Obligations.PowerAndResets : Prop :=
  (∀ s, s.canonical = true → ∃ t, Runs .aonPgFall s t ∧ t.eng.powered = false ∧ t.bootStep = 0) ∧
  (∀ s f, f < s.nFields → Runs (.fieldPgFall f) s ((s.pgFall f).done)) ∧
  (∀ s c, s.inGrid c = true → (s.cell c).inReset = false → Runs (.cellReset c) s ((s.cellResetAt c).done)) ∧
  (∀ s c, s.canonical = true → s.inGrid c = true → (s.cell c).inReset = true →
    ∃ t, Runs (.cellResetRelease c) s t ∧ (t.cell c).inReset = false ∧ t.chan c 63 1 = 1) ∧
  (∀ s u c r rest, s.inGrid c = true → s.countStalls c = u → (u.cell c).mrd = r :: rest →
    Runs (.memReadAnswer c false) s
      (((((u.modCell c (fun q =>
        { q with mrd := rest, portAt := u.nextFc (u.fieldOf c), bad := q.bad.filter (fun g => g != r.gran) ++ [] })).readTaken c r false).tidyRouter c).after c)) ∧
    Runs (.memReadAnswer c true) s
      ((((((u.modCell c (fun q =>
        { q with mrd := rest, portAt := u.nextFc (u.fieldOf c), bad := q.bad.filter (fun g => g != r.gran) ++ [r.gran] })).bump (cellNode c) 0 0x4000 8 1).readTaken c r true).tidyRouter
          c).after c))) ∧
  (∀ s u c e, s.inGrid c = true → s.countStalls c = u → (u.cell c).mrd = [] → Runs (.memReadAnswer c e) s u) ∧
  (∀ s u c, s.inGrid c = true → s.countStalls c = u →
    Runs (.memWriteAck c) s (u.modCell c (fun q => { q with mwr := q.mwr.drop 1, portAt := u.nextFc (u.fieldOf c) })))

/-- TEST_MODE and the test access port: TEST_MODE rises and falls with its injectors (R373, R458), the drive instructions take the pins
where they are allowed, IDCODE and BYPASS select their registers, and a TAP reset selects IDCODE and functional drive (R460, R461). -/
def Obligations.TestPortInstructions : Prop :=
  (∀ s, ∃ t, Runs .testModeRise s t ∧ t.eng.testMode = true) ∧
  (∀ s, ∃ t, Runs .testModeFall s t ∧ t.eng.testMode = false) ∧
  (∀ s u, s.tapAllowed = true → ∃ t, Runs (.extest u) s t ∧ t.eng.tap.driven = true ∧ t.eng.tap.boundary = u ∧ t.eng.tap.ir = 0) ∧
  (∀ s u, s.tapAllowed = true → ∃ t, Runs (.extestPulse u) s t ∧ t.eng.tap.driven = true ∧ t.eng.tap.boundary = u ∧
    t.eng.tap.ir = 0x0C) ∧
  (∀ s u, s.tapAllowed = true → ∃ t, Runs (.extestTrain u) s t ∧ t.eng.tap.driven = true ∧ t.eng.tap.boundary = u ∧
    t.eng.tap.ir = 0x0D) ∧
  (∀ s u, ∃ t, Runs (.samplePreload u) s t ∧ t.eng.tap.boundary = u ∧ t.eng.tap.driven = false) ∧
  (∀ s, ∃ t, Runs .idcode s t ∧ t.eng.tap.ir = 2 ∧ bits t.eng.tap.dr 0 1 = 1 ∧ bits t.eng.tap.dr 12 16 = 0xB480) ∧
  (∀ s, ∃ t, Runs .bypass s t ∧ t.eng.tap.ir = 0xFF ∧ t.eng.tap.driven = false) ∧
  (∀ s, ∃ t, Runs .tapReset s t ∧ t.eng.tap.ir = 2 ∧ t.eng.tap.driven = false)

/-! ### Codes and encodings (chapters 1, 2 and 7) -/

/-- Encoded units decode clean, and poison decodes as poison (R35 to R37): for every payload of 32 bytes, and clean for every signal of
16 bytes. -/
def Obligations.UnitCodeDecodes : Prop :=
  (∀ pl : List Byte, pl.length = 32 ∨ pl.length = 16 → rsDecode (rsEncode pl) = .clean) ∧
  (∀ pl : List Byte, pl.length = 32 → rsDecode (rsPoison pl) = .poison)

/-- Any one byte in error is corrected (R36, R141): of a unit's 35 bytes, and of a signal's 19. -/
def Obligations.UnitCodeCorrects : Prop :=
  ∀ (pl : List Byte) (i : Nat) (e : Byte), pl.length = 32 ∨ pl.length = 16 → i < pl.length + 3 → e ≠ 0 →
    rsDecode (setAt (rsEncode pl) i (nth (rsEncode pl) i 0 ^^^ e)) = .corrected (rsEncode pl)

/-- A header unit gives back its packet: for every packet whose header is well-formed, every field at every value its width admits
(R25 to R33). -/
def Obligations.HeaderRoundTrip : Prop :=
  ∀ p : Packet, p.headWf = true → packetOf (headerBits p) p.payload p.poison = some p

/-- The laned one-beat and two-beat signals without data segments. -/
def plainSignal : Signal → Bool
  | .credit .. | .creditSyncReq .. | .creditSyncRsp .. | .slsync .. | .dictReq _ | .dictRsp _ => false
  | .barArrive a => a.two || decide (a.hi = 0)
  | _ => true

/-- The beats of a signal give back the signal (R144, R150, R155, R174, R419, R433). -/
def Obligations.SignalRoundTrip : Prop :=
  ∀ g : Signal, g.wf = true → plainSignal g = true →
    sigOf (nth (sigBeats g) 0 0) (nth (sigBeats g) 1 0) (decide ((sigBeats g).length = 2)) = some g

/-! ### Values the rules give -/

/-- An integer SUM converts A to INT32 or INT8: exactly within the output range; otherwise OVERFLOW is set, with INEXACT as every overflow sets it (flags 1 + 4), and the output is the
range limit with A's sign under SAT, and A modulo 2^32 or 2^8 without it. No other input of the conversion exists, so RTZ has no effect. -/
def Obligations.IntegerSumOutput : Prop :=
  ∀ (w : Nat) (sat : Bool) (A : Int), w = 32 ∨ w = 8 →
    (-(2 : Int) ^ (w - 1) ≤ A ∧ A < (2 : Int) ^ (w - 1) → (intOut w sat A).2 = 0 ∧ toSigned w (intOut w sat A).1 = A) ∧
    (A < -(2 : Int) ^ (w - 1) → (intOut w true A).2 = 1 + 4 ∧ toSigned w (intOut w true A).1 = -(2 : Int) ^ (w - 1)) ∧
    ((2 : Int) ^ (w - 1) ≤ A → (intOut w true A).2 = 1 + 4 ∧ toSigned w (intOut w true A).1 = (2 : Int) ^ (w - 1) - 1) ∧
    (A < -(2 : Int) ^ (w - 1) ∨ (2 : Int) ^ (w - 1) ≤ A →
      (intOut w false A).2 = 1 + 4 ∧ ((intOut w false A).1 : Int) = A % (2 : Int) ^ w)

/-- The place of a row: the stacks of the table are the listed positions in rising order; row r lies in stack s_(r mod n) at
TBL_BASE + (r / n)·B; and the local row r / n of that stack is beyond the table exactly when r is at or past R. -/
def Obligations.RowPlace : Prop :=
  ∀ (t : Tbl) (r : Nat), t.loaded = true → t.stackBits < 2 ^ 24 →
    t.list.Pairwise (· < ·) ∧ (∀ i, i ∈ t.list ↔ bit t.stackBits i = true) ∧ 0 < t.list.length ∧
    t.place r = (nth t.list (r % t.list.length) 0, r / t.list.length, t.base + r / t.list.length * t.rowBytes) ∧
    (t.beyond (t.place r).1 (t.place r).2.1 = true ↔ t.rows ≤ r)

/-- The members of a context are its live member cells of the grid, by ascending y and then ascending x, each with its place in that order
as member index; a cell that is a hole at commit is none. With Q = CTX_SLICES / N, member j owns slices jQ to (j + 1)Q - 1. -/
def Obligations.MemberOrder : Prop :=
  ∀ g : Geo, g.members.Pairwise (fun a b => a.y < b.y ∨ (a.y = b.y ∧ a.x < b.x)) ∧
    (∀ c : Coord, c ∈ g.members ↔ c.x < g.nx ∧ c.y < g.ny ∧ g.member c = true) ∧ (∀ c ∈ g.holes, c ∉ g.members) ∧
    (∀ (j : Nat) (c : Coord), g.members[j]? = some c → g.index c = j) ∧
    (∀ (j k : Nat) (c : Coord), g.n = g.members.length → g.members[j]? = some c → j * (g.slices / g.n) ≤ k →
      k < (j + 1) * (g.slices / g.n) → g.owner k = c)

/-- A COMMIT or ABANDON by a requester with no open group is answered REFUSED (2) with NO_GROUP (0x1B) and changes nothing; an abandon
discards the requester's group and is answered OK with VALUE 0; and after the reset of a cell its requesters hold no group. -/
def Obligations.GroupsEnd : Prop :=
  (∀ (s : State) (r : DictReq), s.group? r.who = none → s.writeCommit r = (some ⟨2, 0x1B, 0, []⟩, s)) ∧
  (∀ (s : State) (r : DictReq), (s.group? r.who).isSome = true → r.value = 2 →
    ∃ t, s.writeCommit r = (some ⟨0, 0, 0, []⟩, t) ∧ t.group? r.who = none ∧
      ∀ w, w ≠ r.who → t.group? w = s.group? w) ∧
  (∀ (s : State) (c : Coord) (core : Nat), (s.cell c).inReset = false →
    (s.cellResetAt c).group? ⟨(s.cellResetAt c).engine, c.x, c.y, core, false⟩ = none)

/-- The operations of a tally counter on its old value: add modulo 2^64, unsigned minimum and maximum, read, swap, and a take that
subtracts only where the old value is at least v; each is counted in OPS (R155, R156). At a home that is a hole (R63) or whose clock stands
(R12) the counters and OPS stay. -/
def Obligations.TallyOperations : Prop :=
  (∀ (s : State) (q : TallyReq), s.canonical = true → Memory.wf 0 (s.tab (.field q.f) 0 0x3020 1) = true → q.f < s.nFields →
    q.wf = true → s.isHole (s.tallyHome q.f q.k) = false → s.clockRuns (s.fieldOf (s.tallyHome q.f q.k)) = true →
    ∃ t, Runs (.tallyRequestAtHome q) s t ∧
      t.tally q.f q.k = (if q.op = 0x10 then (s.tally q.f q.k + q.v) % 2 ^ 64 else if q.op = 0x11 then min (s.tally q.f q.k) q.v
        else if q.op = 0x12 then max (s.tally q.f q.k) q.v else if q.op = 0x13 then s.tally q.f q.k else if q.op = 0x14 then q.v
        else if q.v ≤ s.tally q.f q.k then s.tally q.f q.k - q.v else s.tally q.f q.k) ∧
      (∀ k, k < 256 → k ≠ q.k → t.tally q.f k = s.tally q.f k) ∧
      t.reg (.field q.f) 0 0x3020 2 = (s.reg (.field q.f) 0 0x3020 2 + 1) % 2 ^ 64) ∧
  (∀ (s : State) (q : TallyReq), q.wf = true → q.f < s.nFields →
    s.isHole (s.tallyHome q.f q.k) = true ∨ s.clockRuns (s.fieldOf (s.tallyHome q.f q.k)) = false →
    ∃ t, Runs (.tallyRequestAtHome q) s t ∧ t.tabs = s.tabs ∧ t.reg (.field q.f) 0 0x3020 2 = s.reg (.field q.f) 0 0x3020 2)

/-- FAULT_N: undriven while AON_PG is low (R456), low during bring-up until step 10 (R443), and from then on low exactly while some STATUS
bit of the engine is 1 (R364), unless a test instruction drives the pins (R461). -/
def Obligations.FaultPinFollowsStatus : Prop :=
  (∀ s : State, s.eng.powered = false → s.faultN = .undriven) ∧
  (∀ s : State, s.eng.powered = true → s.eng.tap.driven = false → s.bootStep ≠ 10 → s.faultN = .low) ∧
  (∀ s : State, s.eng.powered = true → s.eng.tap.driven = false → s.bootStep = 10 → (s.faultN = .low ↔ s.anyFault = true)) ∧
  (∀ (s : State) (n : Node) (idx : Nat), isFault idx = true → s.reg n 0 idx 1 ≠ 0 → s.anyFault = true)

/-- After reset (before AON_PG first rises) every object reads its default, every cell queue is empty, nothing is in flight and nothing
waits; FAULT_N is undriven. The defaults are the spec's where its tables give them, and the model's else (log 2). -/
def Obligations.ResetHoldsDefaults : Prop :=
  (∀ n inst idx sub, State.reset.reg n inst idx sub = objDefault idx sub) ∧ (∀ c core, State.reset.core c core = CoreSt.init) ∧
  (∀ c a n, State.reset.memRead c a n = zeros n) ∧ State.reset.flight = [] ∧ State.reset.sigs = [] ∧ State.reset.pending = [] ∧
  State.reset.faultN = .undriven ∧ State.reset.bootStep = 0

/-! ### Memory, frames and invariants -/

/-- A store into a cell memory: the stored bytes read back, every other byte of that memory and every byte of every other cell's memory
reads as before. A completion record is 32 bytes, stored at entry (prod mod entries) of the core's completion ring (R112): every other byte
of every cell memory reads as before. -/
def Obligations.MemoryStores : Prop :=
  (∀ (s : State) (c : Coord) (a : Nat) (bs : List Byte), s.memOk = true → (s.memWrite c a bs).memRead c a bs.length = bs) ∧
  (∀ (s : State) (c : Coord) (a b : Nat) (bs : List Byte), s.memOk = true → b < a ∨ a + bs.length ≤ b →
    (s.memWrite c a bs).memRead c b 1 = s.memRead c b 1) ∧
  (∀ (s : State) (c d : Coord) (a b : Nat) (bs : List Byte), cellKey c ≠ cellKey d →
    (s.memWrite c a bs).memRead d b 1 = s.memRead d b 1) ∧
  (∀ (s : State) (c : Coord) (core op kind st utag slot reuse detail value a : Nat) (d : Coord), s.memOk = true →
    cellKey d ≠ cellKey c ∨ a < s.reg (cellNode c) 0 (0x4004 + core) 1 +
        32 * ((s.core c core).prod % s.reg (cellNode c) 0 (0x4004 + core) 2) ∨
      s.reg (cellNode c) 0 (0x4004 + core) 1 + 32 * ((s.core c core).prod % s.reg (cellNode c) 0 (0x4004 + core) 2) + 32 ≤ a →
    (s.writeRecord c core op kind st utag slot reuse detail value).memRead d a 1 = s.memRead d a 1)

/-- The commands that store nothing in any cell memory. -/
def storesNothing : Instr → Bool
  | .counterRead .. | .blockingWait .. | .waitTimeoutExpiry .. | .chPoll .. | .chWait .. | .chWaitTimeout .. | .chAdvance .. | .intTake .. => true
  | .commandPresent .. | .arbWindowBoundary .. | .tradeClaimArise .. | .tradeClaimLapse .. | .tradeTableApply .. => true
  | .creditSyncReqReceive .. | .creditSyncMarkerReceive .. | .creditSyncRspReceive .. | .creditSyncRetry .. => true
  | .creditSignalSend .. | .creditSignalReceive .. | .creditBeatInsert .. | .slsyncSend .. => true
  | .anycastAdvertise .. | .anycastWinnerDecode .. | .anyWinReceive .. | .barArriveAtRoot .. | .barrierPhaseTimeout .. => true
  | .tallyRequestAtHome .. | .intReceive .. | .wakeReceive .. | .mresGrantReceive .. => true
  | .oldKeyPhaseExpiry .. | .holdDownExpiry .. | .upHoldElapsed .. | .flapDoublingReset .. | .noteExpiry .. | .engineRouteRecompute => true
  | .dictSegmentTimeout .. | .groupLeaseExpiry .. | .mgmtReplyTimeout .. | .mctpControlRequest .. | .dynamicAddressAssignment .. => true
  | .droopStretch .. | .breezeEntry .. | .lullEntry .. | .lullEntryDone .. | .wakeHoldExpiry .. | .wakeNFall => true
  | .fantailWindow .. | .fantailShareRecompute | .beaconOriginate | .breakpoint .. | .haltReceive .. => true
  | .coldBringup | .refclkRetry | .bringupAon .. | .fieldPgRise .. | .aonPgFall | .memWriteAck .. => true
  | .testModeRise | .testModeFall | .extest .. | .samplePreload .. | .idcode | .extestPulse .. | .extestTrain .. | .bypass | .tapReset => true
  | _ => false

/-- A command of that list that completes leaves every byte of every cell memory as it was. -/
def Obligations.NoStoreFrame : Prop :=
  ∀ (i : Instr) (s t : State), storesNothing i = true → exec i s = .next t → ∀ c a, t.memRead c a 1 = s.memRead c a 1

/-- The direct operations of a core change its waits, its interrupt queue and the answers; CH_ADVANCE also the channel's HEAD, or the count
of refused advances; a timeout also the time. Every other part of the state stays. -/
def Obligations.DirectOperationFrame : Prop :=
  (∀ (i : Instr) (s t : State) (c : Coord) (core tag k v : Nat), s.canonical = true →
    i = .counterRead c core tag k ∨ i = .blockingWait c core tag k v ∨ i = .waitTimeoutExpiry c core k ∨ i = .chPoll c core tag k ∨
      i = .chWait c core tag k ∨ i = .chWaitTimeout c core k ∨ i = .intTake c core tag →
    exec i s = .next t →
    t.regs = s.regs ∧ t.tabs = s.tabs ∧ t.recs = s.recs ∧ t.cellMem = s.cellMem ∧ t.fields = s.fields ∧ t.holes = s.holes ∧
      t.rtrs = s.rtrs ∧ t.wires = s.wires ∧ t.sigWires = s.sigWires ∧ t.bars = s.bars ∧ t.colls = s.colls ∧ t.drops = s.drops ∧
      t.ports = s.ports ∧ t.eng = s.eng ∧ t.flight = s.flight ∧ t.sigs = s.sigs ∧
      (∀ d, cellKey d ≠ cellKey c → t.cell d = s.cell d) ∧ (∀ j, j ≠ core → t.core c j = s.core c j) ∧
      (t.core c core).queue = (s.core c core).queue ∧ (t.core c core).ctrs = (s.core c core).ctrs) ∧
  (∀ (s t : State) (c : Coord) (core tag n h g : Nat), exec (.chAdvance c core tag n h g) s = .next t →
    t.cells = s.cells ∧ t.cellMem = s.cellMem ∧ t.rtrs = s.rtrs ∧ t.flight = s.flight ∧ t.sigs = s.sigs ∧ t.eng = s.eng ∧
      ∀ k, k ≠ regKey (cellNode c) 0 (0x4100 + n) 9 → k ≠ regKey (cellNode c) 0 0x4180 6 →
        ∀ d, SMap.get d t.regs k = SMap.get d s.regs k)

/-- The rows of a router's arbitration and of its cached winners change what that router holds, and with a lapse its counters and the time;
every cell, memory, drop, port, field and other router stays. -/
def Obligations.ArbitrationFrame : Prop :=
  ∀ (i : Instr) (s t : State) (c : Coord) (p g member : Nat) (no : Bool),
    i = .arbWindowBoundary c p ∨ i = .tradeClaimArise c p ∨ i = .tradeClaimLapse c p ∨ i = .anyWinReceive c g member no →
    exec i s = .next t →
    t.tabs = s.tabs ∧ t.recs = s.recs ∧ t.cells = s.cells ∧ t.cellMem = s.cellMem ∧ t.fields = s.fields ∧ t.drops = s.drops ∧
      t.ports = s.ports ∧ t.colls = s.colls ∧ t.eng = s.eng ∧ t.flight = s.flight ∧ t.sigs = s.sigs ∧ t.wires = s.wires ∧
      ∀ d, cellKey d ≠ cellKey c → t.rtr d = s.rtr d

/-- The instructions of the test access port, its reset, and the rise of TEST_MODE change the engine's pins and port and the count of free
values alone. (TEST_MODE falling is no row of this frame: it disarms injectors, R373.) -/
def Obligations.TestPortFrame : Prop :=
  ∀ (i : Instr) (s t : State) (u : List Bool),
    i = .testModeRise ∨ i = .extest u ∨ i = .samplePreload u ∨ i = .idcode ∨ i = .extestPulse u ∨ i = .extestTrain u ∨ i = .bypass ∨
      i = .tapReset → exec i s = .next t →
    t.regs = s.regs ∧ t.tabs = s.tabs ∧ t.recs = s.recs ∧ t.cells = s.cells ∧ t.cellMem = s.cellMem ∧ t.fields = s.fields ∧
      t.rtrs = s.rtrs ∧ t.colls = s.colls ∧ t.drops = s.drops ∧ t.ports = s.ports ∧ t.flight = s.flight ∧ t.sigs = s.sigs ∧
      t.time = s.time ∧ t.eng.powered = s.eng.powered ∧ t.eng.groups = s.eng.groups ∧ t.eng.notes = s.eng.notes

/-- The state after reset is in canonical form. -/
def Obligations.ResetCanonical : Prop := State.reset.canonical = true

/-- Every step keeps the canonical form of the state: memories, registers, tables and the maps of cells, fields and drops. -/
def Obligations.StepKeepsCanonical : Prop :=
  ∀ s t : State, s.canonical = true → step s = .next t → t.canonical = true

/-- Every step keeps the build and lets true time go forward only, and takes exactly the command at the front of the queue: no command puts
another one into it. -/
def Obligations.StepKeepsBuildTimeQueue : Prop :=
  ∀ s t : State, step s = .next t → Keeps s t ∧ t.pending = s.pending.tail

end
end

