-- ==== Sys2Proof/Laws/Maps.lean ====
section
/-! SUPPORT. What the two containers of the state do: a sorted map and a byte memory keep their canonical form, read back what was stored,
and leave every other key alone. -/

namespace Sys2Proof.Machine

section
variable {α : Type} [DecidableEq α] {d : α}

theorem SMap.wfFrom_mono {m : SMap α} {lo lo' : Nat} (hl : lo' ≤ lo) (h : SMap.wfFrom d lo m = true) : SMap.wfFrom d lo' m = true := by
  cases m with
  | nil => rfl
  | cons e m =>
    obtain ⟨k, v⟩ := e
    simp only [SMap.wfFrom, Bool.and_eq_true, decide_eq_true_eq] at h ⊢
    exact ⟨Nat.le_trans hl h.1, h.2⟩

/-- Storing keeps the canonical form. -/
theorem SMap.wfFrom_put {m : SMap α} {lo a : Nat} {v : α} (ha : lo ≤ a) (h : SMap.wfFrom d lo m = true) :
    SMap.wfFrom d lo (SMap.put d m a v) = true := by
  induction m generalizing lo with
  | nil =>
    simp only [SMap.put]
    split
    · rfl
    · simp_all [SMap.wfFrom]
  | cons e m ih =>
    obtain ⟨k, w⟩ := e
    simp only [SMap.wfFrom, Bool.and_eq_true, decide_eq_true_eq] at h
    simp only [SMap.put]
    split
    · split
      · simp_all [SMap.wfFrom]
      · simp only [SMap.wfFrom, Bool.and_eq_true, decide_eq_true_eq]
        exact ⟨ha, ‹_›, by omega, h.2.1, h.2.2⟩
    · split
      · split
        · exact SMap.wfFrom_mono (by omega) h.2.2
        · subst_vars
          simp only [SMap.wfFrom, Bool.and_eq_true, decide_eq_true_eq]
          exact ⟨h.1, ‹_›, h.2.2⟩
      · simp only [SMap.wfFrom, Bool.and_eq_true, decide_eq_true_eq]
        exact ⟨h.1, h.2.1, ih (by omega) h.2.2⟩

theorem SMap.wf_put {m : SMap α} {a : Nat} {v : α} (h : SMap.wf d m = true) : SMap.wf d (SMap.put d m a v) = true :=
  SMap.wfFrom_put (Nat.zero_le _) h

theorem SMap.wfFrom_filter {m : SMap α} {lo : Nat} (p : Nat × α → Bool) (h : SMap.wfFrom d lo m = true) :
    SMap.wfFrom d lo (m.filter p) = true := by
  induction m generalizing lo with
  | nil => rfl
  | cons e m ih =>
    obtain ⟨k, w⟩ := e
    simp only [SMap.wfFrom, Bool.and_eq_true, decide_eq_true_eq] at h
    simp only [List.filter_cons]
    split
    · simp only [SMap.wfFrom, Bool.and_eq_true, decide_eq_true_eq]
      exact ⟨h.1, h.2.1, ih h.2.2⟩
    · exact ih (SMap.wfFrom_mono (by omega) h.2.2)

theorem SMap.wf_filter {m : SMap α} (p : Nat × α → Bool) (h : SMap.wf d m = true) : SMap.wf d (m.filter p) = true :=
  SMap.wfFrom_filter p h

omit [DecidableEq α] in
theorem risingFrom_mono {m : SMap α} {lo lo' : Nat} (hl : lo' ≤ lo) (h : risingFrom lo m = true) : risingFrom lo' m = true := by
  cases m with
  | nil => rfl
  | cons e m =>
    obtain ⟨k, v⟩ := e
    simp only [risingFrom, Bool.and_eq_true, decide_eq_true_eq] at h ⊢
    exact ⟨Nat.le_trans hl h.1, h.2⟩

/-- Storing keeps one entry for each key. -/
theorem risingFrom_put {m : SMap α} {lo a : Nat} {v : α} (ha : lo ≤ a) (h : risingFrom lo m = true) :
    risingFrom lo (SMap.put d m a v) = true := by
  induction m generalizing lo with
  | nil =>
    simp only [SMap.put]
    split
    · rfl
    · simp_all [risingFrom]
  | cons e m ih =>
    obtain ⟨k, w⟩ := e
    simp only [risingFrom, Bool.and_eq_true, decide_eq_true_eq] at h
    simp only [SMap.put]
    split
    · split
      · simp_all [risingFrom]
      · simp only [risingFrom, Bool.and_eq_true, decide_eq_true_eq]
        exact ⟨ha, by omega, h.2⟩
    · split
      · split
        · exact risingFrom_mono (by omega) h.2
        · subst_vars
          simp only [risingFrom, Bool.and_eq_true, decide_eq_true_eq]
          exact ⟨h.1, h.2⟩
      · simp only [risingFrom, Bool.and_eq_true, decide_eq_true_eq]
        exact ⟨h.1, ih (by omega) h.2⟩

omit [DecidableEq α] in
theorem risingFrom_filter {m : SMap α} {lo : Nat} (p : Nat × α → Bool) (h : risingFrom lo m = true) :
    risingFrom lo (m.filter p) = true := by
  induction m generalizing lo with
  | nil => rfl
  | cons e m ih =>
    obtain ⟨k, w⟩ := e
    simp only [risingFrom, Bool.and_eq_true, decide_eq_true_eq] at h
    simp only [List.filter_cons]
    split
    · simp only [risingFrom, Bool.and_eq_true, decide_eq_true_eq]
      exact ⟨h.1, ih h.2⟩
    · exact ih (risingFrom_mono (by omega) h.2)

theorem SMap.wfFrom_rising {m : SMap α} {lo : Nat} (h : SMap.wfFrom d lo m = true) : risingFrom lo m = true := by
  induction m generalizing lo with
  | nil => rfl
  | cons e m ih =>
    obtain ⟨k, w⟩ := e
    simp only [SMap.wfFrom, risingFrom, Bool.and_eq_true, decide_eq_true_eq] at h ⊢
    exact ⟨h.1, ih h.2.2⟩

omit [DecidableEq α] in
/-- A key below every listed one reads as an unlisted key. -/
theorem SMap.get_lt {m : SMap α} {lo a : Nat} (h : risingFrom lo m = true) (ha : a < lo) (e : α) : SMap.get e m a = e := by
  induction m generalizing lo with
  | nil => rfl
  | cons x m ih =>
    obtain ⟨k, w⟩ := x
    simp only [risingFrom, Bool.and_eq_true, decide_eq_true_eq] at h
    simp only [SMap.get]
    rw [if_neg (by omega)]
    exact ih h.2 (by omega)

/-- What was stored reads back. -/
theorem SMap.get_put_same {m : SMap α} {lo a : Nat} {v : α} (h : risingFrom lo m = true) : SMap.get d (SMap.put d m a v) a = v := by
  induction m generalizing lo with
  | nil =>
    simp only [SMap.put]
    split
    · simp_all [SMap.get]
    · simp [SMap.get]
  | cons x m ih =>
    obtain ⟨k, w⟩ := x
    simp only [risingFrom, Bool.and_eq_true, decide_eq_true_eq] at h
    simp only [SMap.put]
    split
    · split
      · subst_vars
        simp only [SMap.get]
        rw [if_neg (by omega)]
        exact SMap.get_lt h.2 (by omega) _
      · simp [SMap.get]
    · split
      · split
        · subst_vars
          exact SMap.get_lt h.2 (by omega) _
        · simp [SMap.get]
      · simp only [SMap.get]
        rw [if_neg (by omega)]
        exact ih h.2

/-- Storing at one key leaves every other key as it was. -/
theorem SMap.get_put_other {m : SMap α} {a b : Nat} {v e : α} (hab : b ≠ a) : SMap.get e (SMap.put d m a v) b = SMap.get e m b := by
  induction m with
  | nil =>
    simp only [SMap.put]
    split
    · rfl
    · simp [SMap.get, hab]
  | cons x m ih =>
    obtain ⟨k, w⟩ := x
    simp only [SMap.put]
    split
    · split
      · rfl
      · simp [SMap.get, hab]
    · split
      · split
        · subst_vars
          simp [SMap.get, hab]
        · subst_vars
          simp [SMap.get, hab]
      · simp only [SMap.get]
        split
        · rfl
        · exact ih

end

/-! ### Byte memories -/

/-- Storing bytes keeps the canonical form of a memory. -/
theorem Memory.wf_writeN {d : Byte} {m : Memory} {a : Nat} {bs : List Byte} (h : Memory.wf d m = true) :
    Memory.wf d (Memory.writeN d m a bs) = true := by
  induction bs generalizing m a with
  | nil => exact h
  | cons b bs ih => exact ih (SMap.wf_put h)

/-- Cutting a memory at an address keeps its canonical form. -/
theorem Memory.wf_cut {d : Byte} {m : Memory} {a : Nat} (h : Memory.wf d m = true) : Memory.wf d (Memory.cut m a) = true :=
  SMap.wf_filter _ h

/-- A byte outside a stored range reads as before. -/
theorem Memory.get_writeN_other {d e : Byte} {m : Memory} {a b : Nat} {bs : List Byte} (h : b < a ∨ a + bs.length ≤ b) :
    SMap.get e (Memory.writeN d m a bs) b = SMap.get e m b := by
  induction bs generalizing m a with
  | nil => rfl
  | cons x bs ih =>
    simp only [Memory.writeN, List.length_cons] at h ⊢
    rw [ih (by omega), SMap.get_put_other (by omega)]

/-- A stored byte string reads back. -/
theorem Memory.readN_writeN {d : Byte} {m : Memory} {a : Nat} {bs : List Byte} (h : Memory.wf d m = true) :
    Memory.readN d (Memory.writeN d m a bs) a bs.length = bs := by
  induction bs generalizing m a with
  | nil => rfl
  | cons x bs ih =>
    simp only [Memory.writeN, List.length_cons, Memory.readN]
    rw [ih (SMap.wf_put h), Memory.get_writeN_other (by omega), SMap.get_put_same (SMap.wfFrom_rising h)]

end Sys2Proof.Machine
end

