-- ==== Sys2Proof/Laws/Kept.lean ====
section
/-! SUPPORT. What every operation keeps, said once for each primitive: the build, the queue of waiting commands, a lower bound of the time,
and the canonical form of the state. -/

namespace Sys2Proof.Machine

/-- What is held fixed while a command runs. -/
structure Fixed where
  build : Build
  queue : List Instr
  time : Nat

/-- The state keeps what is fixed, and its canonical form. -/
structure Kept (k : Fixed) (s : State) : Prop where
  build : s.build = k.build
  pending : s.pending = k.queue
  time : k.time ≤ s.time
  mem : s.memOk = true
  regs : risingFrom 0 s.regs = true
  tabs : SMap.wf [] s.tabs = true
  recs : SMap.wf [] s.recs = true
  cells : SMap.wf CellSt.init s.cells = true
  fields : SMap.wf FieldSt.init s.fields = true
  drops : SMap.wf DropSt.init s.drops = true

/-- A canonical state keeps its own build, queue and time. -/
theorem Kept.start {s : State} (h : s.canonical = true) : Kept ⟨s.build, s.pending, s.time⟩ s := by
  simp only [State.canonical, Bool.and_eq_true] at h
  exact ⟨rfl, rfl, Nat.le_refl _, h.1.1.1.1.1.1, h.1.1.1.1.1.2, h.1.1.1.1.2, h.1.1.1.2, h.1.1.2, h.1.2, h.2⟩

theorem Kept.canonical {k : Fixed} {s : State} (h : Kept k s) : s.canonical = true := by
  simp only [State.canonical, Bool.and_eq_true]
  exact ⟨⟨⟨⟨⟨⟨h.mem, h.regs⟩, h.tabs⟩, h.recs⟩, h.cells⟩, h.fields⟩, h.drops⟩

/-- A change of what the invariant does not read. -/
theorem Kept.upd {k : Fixed} {s : State} (h : Kept k s) {t : State} (h1 : t.build = s.build) (h2 : t.pending = s.pending)
    (h3 : s.time ≤ t.time) (h4 : t.cellMem = s.cellMem) (h5 : t.regs = s.regs) (h6 : t.tabs = s.tabs) (h7 : t.recs = s.recs)
    (h8 : t.cells = s.cells) (h9 : t.fields = s.fields) (h10 : t.drops = s.drops) : Kept k t :=
  ⟨h1.trans h.build, h2.trans h.pending, Nat.le_trans h.time h3, by simpa [State.memOk, h4] using h.mem, h5 ▸ h.regs, h6 ▸ h.tabs,
    h7 ▸ h.recs, h8 ▸ h.cells, h9 ▸ h.fields, h10 ▸ h.drops⟩

/-- A change of what the invariant does not read, as a record. -/
theorem Kept.mk_iff {k : Fixed} {s : State} {x_strikes : SMap (List Nat)} {x_holes : List HoleRec} {x_badTracks : List (Axis × Coord)} {x_badStops : List (Axis × Coord)} {x_rtrs : SMap RtrSt} {x_wires : List WireBeat} {x_sigWires : List WireSig} {x_recloses : List Reclose} {x_fences : List FaultBlock} {x_bars : SMap BarSt} {x_route : RouteView} {x_armed : SMap (Option ArmSt)} {x_colls : SMap CollSt} {x_ports : SMap PortSt} {x_linkOut : List SentFrame} {x_eng : EngSt} {x_flight : List Packet} {x_sigs : List Signal} {x_answers : List Answer} {x_freeCtr : Nat}:
    Kept k (State.mk s.build s.time s.regs s.tabs s.recs x_strikes s.cells s.cellMem s.fields x_holes x_badTracks x_badStops x_rtrs x_wires x_sigWires x_recloses x_fences x_bars x_route x_armed x_colls s.drops x_ports x_linkOut x_eng x_flight x_sigs x_answers x_freeCtr s.pending) ↔ Kept k s :=
  ⟨fun h => ⟨h.build, h.pending, h.time, h.mem, h.regs, h.tabs, h.recs, h.cells, h.fields, h.drops⟩,
    fun h => h.upd rfl rfl (Nat.le_refl _) rfl rfl rfl rfl rfl rfl rfl⟩

/-- The same where the time moves on. -/
theorem Kept.mk_time {k : Fixed} {s : State} {x_time : Nat} {x_strikes : SMap (List Nat)} {x_holes : List HoleRec} {x_badTracks : List (Axis × Coord)} {x_badStops : List (Axis × Coord)} {x_rtrs : SMap RtrSt} {x_wires : List WireBeat} {x_sigWires : List WireSig} {x_recloses : List Reclose} {x_fences : List FaultBlock} {x_bars : SMap BarSt} {x_route : RouteView} {x_armed : SMap (Option ArmSt)} {x_colls : SMap CollSt} {x_ports : SMap PortSt} {x_linkOut : List SentFrame} {x_eng : EngSt} {x_flight : List Packet} {x_sigs : List Signal} {x_answers : List Answer} {x_freeCtr : Nat}
    (h : Kept k s) (ht : s.time ≤ x_time) : Kept k (State.mk s.build x_time s.regs s.tabs s.recs x_strikes s.cells s.cellMem s.fields x_holes x_badTracks x_badStops x_rtrs x_wires x_sigWires x_recloses x_fences x_bars x_route x_armed x_colls s.drops x_ports x_linkOut x_eng x_flight x_sigs x_answers x_freeCtr s.pending) :=
  h.upd rfl rfl ht rfl rfl rfl rfl rfl rfl rfl

theorem Kept.foldl {k : Fixed} {α : Type} {f : State → α → State} {l : List α} {s : State} (h : Kept k s)
    (hf : ∀ s a, Kept k s → Kept k (f s a)) : Kept k (l.foldl f s) := by
  induction l generalizing s with
  | nil => exact h
  | cons a l ih => exact ih (hf s a h)

theorem Kept.foldl_fst {k : Fixed} {α β : Type} {f : State × β → α → State × β} {l : List α} {x : State × β} (h : Kept k x.1)
    (hf : ∀ x a, Kept k x.1 → Kept k (f x a).1) : Kept k (l.foldl f x).1 := by
  induction l generalizing x with
  | nil => exact h
  | cons a l ih => exact ih (hf x a h)

theorem Kept.foldl_snd {k : Fixed} {α β : Type} {f : β × State → α → β × State} {l : List α} {x : β × State} (h : Kept k x.2)
    (hf : ∀ x a, Kept k x.2 → Kept k (f x a).2) : Kept k (l.foldl f x).2 := by
  induction l generalizing x with
  | nil => exact h
  | cons a l ih => exact ih (hf x a h)

theorem Kept.ite {k : Fixed} {p : Prop} [Decidable p] {a b : State} (ha : Kept k a) (hb : Kept k b) :
    Kept k (if p then a else b) := by
  split <;> assumption

theorem Kept.of_snd {k : Fixed} {α : Type} {x : α × State} {a : α} {t : State} (e : x = (a, t)) (h : Kept k x.2) : Kept k t := by
  subst e; exact h

theorem Kept.of_fst {k : Fixed} {α : Type} {x : State × α} {a : α} {t : State} (e : x = (t, a)) (h : Kept k x.1) : Kept k t := by
  subst e; exact h

theorem Kept.of_snd2 {k : Fixed} {α β : Type} {x : α × β × State} {a : α} {b : β} {t : State} (e : x = (a, b, t))
    (h : Kept k x.2.2) : Kept k t := by
  subst e; exact h

/-- A state on the way is kept first, and then what follows from it. -/
theorem Kept.cut {k : Fixed} {s : State} {P : Prop} (h : Kept k s) (f : Kept k s → P) : P := f h

theorem Kept.cut1 {k : Fixed} {α : Type} {s : State × α} {P : Prop} (h : Kept k s.1) (f : Kept k s.1 → P) : P := f h

theorem Kept.cut2 {k : Fixed} {α : Type} {s : α × State} {P : Prop} (h : Kept k s.2) (f : Kept k s.2 → P) : P := f h

theorem Kept.cut3 {k : Fixed} {α β : Type} {s : α × β × State} {P : Prop} (h : Kept k s.2.2) (f : Kept k s.2.2 → P) : P := f h

theorem Kept.cut4 {k : Fixed} {α β γ : Type} {s : α × β × γ × State} {P : Prop} (h : Kept k s.2.2.2) (f : Kept k s.2.2.2 → P) : P := f h

/-- The state an option holds, if it holds one, is kept. -/
structure KeptOpt (k : Fixed) (o : Option State) : Prop where
  at_some : ∀ t, o = some t → Kept k t

/-- The state an optional pair holds is kept. -/
structure KeptPair {α : Type} (k : Fixed) (o : Option (α × State)) : Prop where
  at_some : ∀ a t, o = some (a, t) → Kept k t

/-- The next state an outcome answers, if it answers one, is kept. -/
structure KeptOut (k : Fixed) (o : Host.Outcome State Fault Refusal) : Prop where
  at_next : ∀ t, o = .next t → Kept k t

theorem KeptOpt.none {k : Fixed} : KeptOpt k Option.none := ⟨fun _ e => nomatch e⟩

theorem KeptOpt.some {k : Fixed} {s : State} (h : Kept k s) : KeptOpt k (Option.some s) := ⟨fun _ e => Option.some.inj e ▸ h⟩

theorem KeptPair.none {k : Fixed} {α : Type} : KeptPair (α := α) k Option.none := ⟨fun _ _ e => nomatch e⟩

theorem KeptPair.some {k : Fixed} {α : Type} {x : α × State} (h : Kept k x.2) : KeptPair k (Option.some x) := by
  constructor
  intro a t e
  cases Option.some.inj e
  exact h

theorem KeptOpt.cut {k : Fixed} {o : Option State} {P : Prop} (h : KeptOpt k o) (f : KeptOpt k o → P) : P := f h

theorem KeptPair.cut {k : Fixed} {α : Type} {o : Option (α × State)} {P : Prop} (h : KeptPair k o) (f : KeptPair k o → P) : P := f h

theorem KeptOpt.of {k : Fixed} {o : Option State} {t : State} (e : o = Option.some t) (h : KeptOpt k o) : Kept k t := h.at_some t e

theorem KeptPair.of {k : Fixed} {α : Type} {o : Option (α × State)} {a : α} {t : State} (e : o = Option.some (a, t)) (h : KeptPair k o) :
    Kept k t := h.at_some a t e

theorem KeptOut.next {k : Fixed} {s : State} (h : Kept k s) : KeptOut k (.next s) := ⟨fun _ e => Host.Outcome.next.inj e ▸ h⟩

theorem KeptOut.fault {k : Fixed} {f : Fault} : KeptOut k (.fault f) := ⟨fun _ e => nomatch e⟩

theorem KeptOut.refused {k : Fixed} {f : Refusal} : KeptOut k (.refused f) := ⟨fun _ e => nomatch e⟩

theorem KeptOpt.mapState {k : Fixed} {o : Option State} {f : State → State} (h : KeptOpt k o) (hf : ∀ s, Kept k s → Kept k (f s)) :
    KeptOpt k (o.map f) := by
  cases o with
  | none => exact KeptOpt.none
  | some a => exact KeptOpt.some (hf a (h.at_some a rfl))

theorem KeptOpt.getD {k : Fixed} {o : Option State} {s : State} (h : KeptOpt k o) (hs : Kept k s) : Kept k (o.getD s) := by
  cases o with
  | none => exact hs
  | some a => exact h.at_some a rfl

theorem KeptOpt.foldl {k : Fixed} {α : Type} {f : Option State → α → Option State} {l : List α} {o : Option State} (h : KeptOpt k o)
    (hf : ∀ o a, KeptOpt k o → KeptOpt k (f o a)) : KeptOpt k (l.foldl f o) := by
  induction l generalizing o with
  | nil => exact h
  | cons a l ih => exact ih (hf o a h)

theorem KeptOpt.ite {k : Fixed} {p : Prop} [Decidable p] {a b : Option State} (ha : KeptOpt k a) (hb : KeptOpt k b) :
    KeptOpt k (if p then a else b) := by
  split <;> assumption

theorem KeptOpt.map {k : Fixed} {α : Type} {o : Option α} {f : α → State} (h : ∀ a, Kept k (f a)) : KeptOpt k (o.map f) := by
  cases o with
  | none => exact KeptOpt.none
  | some a => exact KeptOpt.some (h a)

theorem KeptOpt.bind {k : Fixed} {o : Option State} {f : State → Option State} (h : KeptOpt k o) (hf : ∀ s, Kept k s → KeptOpt k (f s)) :
    KeptOpt k (o.bind f) := by
  cases o with
  | none => exact KeptOpt.none
  | some a => exact hf a (h.at_some a rfl)

theorem KeptOpt.bindAny {k : Fixed} {α : Type} {o : Option α} {f : α → Option State} (h : ∀ a, KeptOpt k (f a)) : KeptOpt k (o.bind f) := by
  cases o with
  | none => exact KeptOpt.none
  | some a => exact h a

theorem KeptPair.map {k : Fixed} {α β : Type} {o : Option α} {f : α → β × State} (h : ∀ a, Kept k (f a).2) : KeptPair k (o.map f) := by
  cases o with
  | none => exact KeptPair.none
  | some a => exact KeptPair.some (h a)

theorem KeptOpt.foldl_bind {k : Fixed} {α : Type} {f : State → α → Option State} {l : List α} {o : Option State} (h : KeptOpt k o)
    (hf : ∀ s a, Kept k s → KeptOpt k (f s a)) : KeptOpt k (l.foldl (fun o i => o.bind fun s => f s i) o) := by
  induction l generalizing o with
  | nil => exact h
  | cons a l ih => exact ih (KeptOpt.bind h fun s hs => hf s a hs)

theorem KeptPair.ite {k : Fixed} {α : Type} {p : Prop} [Decidable p] {a b : Option (α × State)} (ha : KeptPair k a)
    (hb : KeptPair k b) : KeptPair k (if p then a else b) := by
  split <;> assumption

theorem KeptOut.ite {k : Fixed} {p : Prop} [Decidable p] {a b : Host.Outcome State Fault Refusal} (ha : KeptOut k a)
    (hb : KeptOut k b) : KeptOut k (if p then a else b) := by
  split <;> assumption

theorem Kept.ite1 {k : Fixed} {α : Type} {p : Prop} [Decidable p] {a b : State × α} (ha : Kept k a.1) (hb : Kept k b.1) :
    Kept k (if p then a else b).1 := by
  split <;> assumption

theorem Kept.ite2 {k : Fixed} {α : Type} {p : Prop} [Decidable p] {a b : α × State} (ha : Kept k a.2) (hb : Kept k b.2) :
    Kept k (if p then a else b).2 := by
  split <;> assumption

theorem Kept.ite3 {k : Fixed} {α β : Type} {p : Prop} [Decidable p] {a b : α × β × State} (ha : Kept k a.2.2) (hb : Kept k b.2.2) :
    Kept k (if p then a else b).2.2 := by
  split <;> assumption

theorem Kept.ite4 {k : Fixed} {α β γ : Type} {p : Prop} [Decidable p] {a b : α × β × γ × State} (ha : Kept k a.2.2.2)
    (hb : Kept k b.2.2.2) : Kept k (if p then a else b).2.2.2 := by
  split <;> assumption

theorem State.setReg_kept {k : Fixed} {s : State} (n : Node) (inst idx sub v : Nat) (h : Kept k s) :
    Kept k (s.setReg n inst idx sub v) := { h with regs := risingFrom_put (Nat.zero_le _) h.regs }

theorem State.setTab_kept {k : Fixed} {s : State} (n : Node) (inst idx sub : Nat) (m : Memory) (h : Kept k s) :
    Kept k (s.setTab n inst idx sub m) := { h with tabs := SMap.wf_put h.tabs }

theorem State.setRecs_kept {k : Fixed} {s : State} (n : Node) (inst idx sub : Nat) (l : List Nat) (h : Kept k s) :
    Kept k (s.setRecs n inst idx sub l) := { h with recs := SMap.wf_put h.recs }

theorem State.setCell_kept {k : Fixed} {s : State} (c : Coord) (v : CellSt) (h : Kept k s) : Kept k (s.setCell c v) :=
  { h with cells := SMap.wf_put h.cells }

theorem State.modField_kept {k : Fixed} {s : State} (f : Nat) (g : FieldSt → FieldSt) (h : Kept k s) : Kept k (s.modField f g) :=
  { h with fields := SMap.wf_put h.fields }

theorem State.modDrop_kept {k : Fixed} {s : State} (st d : Nat) (g : DropSt → DropSt) (h : Kept k s) : Kept k (s.modDrop st d g) :=
  { h with drops := SMap.wf_put h.drops }

theorem all_put {m : SMap Memory} {a : Nat} {v : Memory} {p : Memory → Bool} (hv : p v = true) (h : m.all (fun e => p e.2) = true) :
    (SMap.put [] m a v).all (fun e => p e.2) = true := by
  induction m with
  | nil =>
    simp only [SMap.put]
    split
    · rfl
    · simp [hv]
  | cons x m ih =>
    obtain ⟨c, w⟩ := x
    simp only [List.all_cons, Bool.and_eq_true] at h
    simp only [SMap.put]
    split
    · split <;> simp [hv, h]
    · split
      · split <;> simp [hv, h]
      · simp only [List.all_cons, Bool.and_eq_true]
        exact ⟨h.1, ih h.2⟩

theorem get_all {m : SMap Memory} {p : Memory → Bool} (h0 : p [] = true) (h : m.all (fun e => p e.2) = true) (a : Nat) :
    p (SMap.get [] m a) = true := by
  induction m with
  | nil => exact h0
  | cons x m ih =>
    obtain ⟨c, w⟩ := x
    simp only [List.all_cons, Bool.and_eq_true] at h
    simp only [SMap.get]
    split
    · exact h.1
    · exact ih h.2

theorem State.memOk_mem {s : State} (h : s.memOk = true) (c : Coord) : Memory.wf 0 (s.mem c) = true := by
  simp only [State.memOk, Bool.and_eq_true] at h
  exact get_all (p := fun m => Memory.wf 0 m) rfl h.2 _

/-- A store keeps the canonical form of the cell memories. -/
theorem State.memOk_store {s : State} (h : s.memOk = true) (c : Coord) (a : Nat) (bs : List Byte) :
    ({ s with cellMem := SMap.put [] s.cellMem (cellKey c) (Memory.writeN 0 (s.mem c) a bs) } : State).memOk = true := by
  have hm := State.memOk_mem h c
  simp only [State.memOk, Bool.and_eq_true] at h ⊢
  exact ⟨SMap.wf_put h.1, all_put (p := fun m => Memory.wf 0 m) (Memory.wf_writeN hm) h.2⟩

theorem State.memWriteAs_kept {k : Fixed} {s : State} (c : Coord) (rank a : Nat) (bs : List Byte) (h : Kept k s) :
    Kept k (s.memWriteAs c rank a bs) := by
  unfold State.memWriteAs State.portStart State.modCell
  apply State.setCell_kept
  have hs : Kept k { s with cellMem := SMap.put [] s.cellMem (cellKey c) (Memory.writeN 0 (s.mem c) a bs) } :=
    { h with mem := State.memOk_store h.mem c a bs }
  apply Kept.ite
  · exact hs
  · exact State.setCell_kept _ _ hs

/-- Forgetting registers keeps one entry for each key. -/
theorem Kept.dropRegs {k : Fixed} {s : State} (p : Nat × Nat → Bool) (h : Kept k s) : Kept k { s with regs := s.regs.filter p } :=
  { h with regs := risingFrom_filter p h.regs }

end Sys2Proof.Machine
end

