-- ==== Sys2Proof/Laws/KeptOps.lean ====
section
/-! SUPPORT. Every operation of Machine/Ops.lean keeps the build, the queue and the canonical form. -/

namespace Sys2Proof.Machine

set_option linter.all false

theorem State.bump_kept {κ : Fixed} {s : State} (n : Node) (inst : Nat) (idx : Nat) (sub : Nat) (k : Nat) (hk : Kept κ s) :
    Kept κ (State.bump s n inst idx sub k) := by
  unfold State.bump
  repeat' (first
      | with_reducible assumption | with_reducible apply State.setReg_kept | with_reducible apply Kept.ite | dsimp -zeta only | split)

theorem State.setRecAt_kept {κ : Fixed} {s : State} (n : Node) (inst : Nat) (idx : Nat) (sub : Nat) (len : Nat) (i : Nat) (v : Nat) (hk : Kept κ s) :
    Kept κ (State.setRecAt s n inst idx sub len i v) := by
  unfold State.setRecAt
  repeat' (first
      | with_reducible assumption | with_reducible apply State.setRecs_kept | with_reducible apply Kept.ite
      | (extract_lets +onlyGivenNames x
         first
         | (refine Kept.cut (k := κ) (s := x) ?_ ?_; subst x; rotate_left; intro hx; clear_value x; revert x; intro _ _)
         | (clear_value x; revert x; intro _))
      | dsimp -zeta only | split)

theorem State.pushRec_kept {κ : Fixed} {s : State} (n : Node) (inst : Nat) (idx : Nat) (sub : Nat) (cap : Nat) (v : Nat) (hk : Kept κ s) :
    Kept κ (State.pushRec s n inst idx sub cap v) := by
  unfold State.pushRec
  repeat' (first
      | with_reducible assumption | with_reducible apply State.setRecs_kept | with_reducible apply Kept.ite
      | (extract_lets +onlyGivenNames x
         first
         | (refine Kept.cut (k := κ) (s := x) ?_ ?_; subst x; rotate_left; intro hx; clear_value x; revert x; intro _ _)
         | (clear_value x; revert x; intro _))
      | dsimp -zeta only | split)

theorem State.modCell_kept {κ : Fixed} {s : State} (c : Coord) (f : CellSt → CellSt) (hk : Kept κ s) :
    Kept κ (State.modCell s c f) := by
  unfold State.modCell
  repeat' (first
      | with_reducible assumption | with_reducible apply State.setCell_kept | with_reducible apply Kept.ite | dsimp -zeta only | split)

theorem State.modCore_kept {κ : Fixed} {s : State} (c : Coord) (i : Nat) (f : CoreSt → CoreSt) (hk : Kept κ s) :
    Kept κ (State.modCore s c i f) := by
  unfold State.modCore
  repeat' (first
      | with_reducible assumption | with_reducible apply State.modCell_kept | with_reducible apply Kept.ite | (intro _ _ _)
      | (intro _ _) | (intro _) | dsimp -zeta only | split | simp -zeta only [Kept.mk_iff])

theorem State.answer_kept {κ : Fixed} {s : State} (c : Coord) (core : Nat) (tag : Nat) (value : Nat) (outcome : Nat) (hk : Kept κ s) :
    Kept κ (State.answer s c core tag value outcome) := by
  unfold State.answer
  repeat' (first
      | with_reducible assumption | with_reducible apply Kept.ite | dsimp -zeta only | split | simp -zeta only [Kept.mk_iff])

theorem State.portStart_kept {κ : Fixed} {s : State} (c : Coord) (hk : Kept κ s) :
    Kept κ (State.portStart s c) := by
  unfold State.portStart
  repeat' (first
      | with_reducible assumption | with_reducible apply State.modCell_kept | with_reducible apply Kept.ite | (intro _ _ _)
      | (intro _ _) | (intro _) | dsimp -zeta only | split | simp -zeta only [Kept.mk_iff])

theorem State.issueReadAt_kept {κ : Fixed} {s : State} (c : Coord) (a : Nat) (n : Nat) (at_ : Nat) (use : ReadUse) (hk : Kept κ s) :
    Kept κ (State.issueReadAt s c a n at_ use) := by
  unfold State.issueReadAt
  repeat' (first
      | with_reducible assumption | with_reducible apply State.modCell_kept | with_reducible apply State.portStart_kept
      | with_reducible apply Kept.ite | with_reducible apply Kept.foldl | with_reducible apply Kept.foldl_fst
      | with_reducible apply Kept.foldl_snd | (intro _ _ _) | (intro _ _) | (intro _) | dsimp -zeta only | split
      | simp -zeta only [Kept.mk_iff])

theorem State.issueRead_kept {κ : Fixed} {s : State} (c : Coord) (a : Nat) (n : Nat) (use : ReadUse) (hk : Kept κ s) :
    Kept κ (State.issueRead s c a n use) := by
  unfold State.issueRead
  repeat' (first
      | with_reducible assumption | with_reducible apply State.issueReadAt_kept | with_reducible apply Kept.ite | dsimp -zeta only
      | split)

theorem State.memWrite_kept {κ : Fixed} {s : State} (c : Coord) (a : Nat) (bs : List Byte) (hk : Kept κ s) :
    Kept κ (State.memWrite s c a bs) := by
  unfold State.memWrite
  repeat' (first
      | with_reducible assumption | with_reducible apply State.memWriteAs_kept | with_reducible apply Kept.ite | dsimp -zeta only
      | split)

theorem State.awaitFt_kept {κ : Fixed} {s : State} (f : Nat) (g : Nat) (hk : Kept κ s) :
    Kept κ (State.awaitFt s f g) := by
  unfold State.awaitFt
  repeat' (first
      | with_reducible assumption | with_reducible apply Kept.ite | dsimp -zeta only | split
      | with_reducible refine Kept.mk_time ?_ (Nat.le_max_left _ _) | with_reducible refine Kept.mk_time ?_ (Nat.le_add_right _ _)
      | simp -zeta only [Kept.mk_iff])

theorem State.countStalls_kept {κ : Fixed} {s : State} (c : Coord) (hk : Kept κ s) :
    Kept κ (State.countStalls s c) := by
  unfold State.countStalls
  repeat' (first
      | with_reducible assumption | with_reducible apply State.bump_kept | with_reducible apply State.modCell_kept
      | with_reducible apply Kept.ite | (intro _ _ _) | (intro _ _) | (intro _)
      | (extract_lets +onlyGivenNames x
         first
         | (refine Kept.cut (k := κ) (s := x) ?_ ?_; subst x; rotate_left; intro hx; clear_value x; revert x; intro _ _)
         | (clear_value x; revert x; intro _))
      | dsimp -zeta only | split | simp -zeta only [Kept.mk_iff])

theorem State.countRing_kept {κ : Fixed} {s : State} (c : Coord) (core : Nat) (still : Bool) (hk : Kept κ s) :
    Kept κ (State.countRing s c core still) := by
  unfold State.countRing
  repeat' (first
      | with_reducible assumption | with_reducible apply State.bump_kept | with_reducible apply State.modCore_kept
      | with_reducible apply Kept.ite | (intro _ _ _) | (intro _ _) | (intro _) | exact KeptOpt.of rfl (by with_reducible assumption)
      | exact KeptPair.of rfl (by with_reducible assumption) | with_reducible apply KeptOpt.ite
      | with_reducible refine KeptOpt.mapState ?_ (fun _ _ => ?_) | with_reducible refine KeptOpt.map (fun _ => ?_)
      | with_reducible apply KeptOpt.some | with_reducible exact KeptOpt.none | with_reducible apply KeptPair.ite
      | with_reducible apply KeptPair.some | with_reducible exact KeptPair.none
      | (extract_lets +onlyGivenNames x
         first
         | (refine Kept.cut (k := κ) (s := x) ?_ ?_; subst x; rotate_left; intro hx; clear_value x; revert x; intro _ _)
         | (refine KeptOpt.cut (k := κ) (o := x) ?_ ?_; subst x; rotate_left; intro hx; clear_value x; revert x; intro _ _)
         | (refine KeptPair.cut (k := κ) (o := x) ?_ ?_; subst x; rotate_left; intro hx; clear_value x; revert x; intro _ _)
         | (clear_value x; revert x; intro _))
      | dsimp -zeta only | split | simp -zeta only [Kept.mk_iff])

theorem State.clocked_kept {κ : Fixed} {s : State} (c : Coord) (t : State) (ht : Kept κ t) (hk : Kept κ s) :
    Kept κ (State.clocked s c t) := by
  unfold State.clocked
  repeat' (first
      | with_reducible assumption | with_reducible apply ht | with_reducible apply Kept.ite | dsimp -zeta only | split)

theorem State.countEvent_kept {κ : Fixed} {s : State} (c : Coord) (ev : Nat) (q : Nat) (lane : Nat) (k : Nat) (hk : Kept κ s) :
    Kept κ (State.countEvent s c ev q lane k) := by
  unfold State.countEvent
  repeat' (first
      | with_reducible assumption | with_reducible apply State.setRecs_kept | with_reducible apply Kept.ite | (intro _ _ _)
      | (intro _ _) | (intro _)
      | (extract_lets +onlyGivenNames x
         first
         | (refine Kept.cut (k := κ) (s := x) ?_ ?_; subst x; rotate_left; intro hx; clear_value x; revert x; intro _ _)
         | (subst x))
      | dsimp -zeta only | split)

theorem State.ringEvent_kept {κ : Fixed} {s : State} (c : Coord) (ev : Nat) (whr : Nat) (detail : Nat) (hk : Kept κ s) :
    Kept κ (State.ringEvent s c ev whr detail) := by
  unfold State.ringEvent
  repeat' (first
      | with_reducible assumption | with_reducible apply State.bump_kept | with_reducible apply State.pushRec_kept
      | with_reducible apply Kept.ite
      | (extract_lets +onlyGivenNames x
         first
         | (refine Kept.cut (k := κ) (s := x) ?_ ?_; subst x; rotate_left; intro hx; clear_value x; revert x; intro _ _)
         | (clear_value x; revert x; intro _))
      | dsimp -zeta only | split)

theorem State.freezeRing_kept {κ : Fixed} {s : State} (c : Coord) (cause : Nat) (hk : Kept κ s) :
    Kept κ (State.freezeRing s c cause) := by
  unfold State.freezeRing
  repeat' (first
      | with_reducible assumption | with_reducible apply State.setReg_kept | with_reducible apply Kept.ite | dsimp -zeta only | split)

theorem State.modPort_kept {κ : Fixed} {s : State} (p : Nat) (f : PortSt → PortSt) (hk : Kept κ s) :
    Kept κ (State.modPort s p f) := by
  unfold State.modPort
  repeat' (first
      | with_reducible assumption | with_reducible apply Kept.ite | dsimp -zeta only | split | simp -zeta only [Kept.mk_iff])

theorem State.exitSig_kept {κ : Fixed} {s : State} (sg : Signal) (t : SrcAddr) (o : Option SrcAddr) (arr : Option (Nat × Nat)) (transit : Bool) (hk : Kept κ s) :
    KeptOpt κ (State.exitSig s sg t o arr transit) := by
  unfold State.exitSig
  repeat' (first
      | with_reducible assumption | with_reducible apply State.bump_kept | with_reducible apply State.modPort_kept
      | with_reducible apply Kept.ite | (intro _ _ _) | (intro _ _) | (intro _) | with_reducible apply KeptOpt.ite
      | with_reducible refine KeptOpt.mapState ?_ (fun _ _ => ?_) | with_reducible refine KeptOpt.map (fun _ => ?_)
      | with_reducible apply KeptOpt.some | with_reducible exact KeptOpt.none | with_reducible apply KeptOpt.getD
      | exact KeptOpt.of rfl (by with_reducible assumption) | exact KeptPair.of rfl (by with_reducible assumption)
      | with_reducible apply KeptPair.ite | with_reducible apply KeptPair.some | with_reducible exact KeptPair.none
      | (extract_lets +onlyGivenNames x
         first
         | (refine Kept.cut (k := κ) (s := x) ?_ ?_; subst x; rotate_left; intro hx; clear_value x; revert x; intro _ _)
         | (refine KeptOpt.cut (k := κ) (o := x) ?_ ?_; subst x; rotate_left; intro hx; clear_value x; revert x; intro _ _)
         | (refine KeptPair.cut (k := κ) (o := x) ?_ ?_; subst x; rotate_left; intro hx; clear_value x; revert x; intro _ _)
         | (clear_value x; revert x; intro _))
      | dsimp -zeta only | split | simp -zeta only [Kept.mk_iff])

theorem State.modRtr_kept {κ : Fixed} {s : State} (c : Coord) (f : RtrSt → RtrSt) (hk : Kept κ s) :
    Kept κ (State.modRtr s c f) := by
  unfold State.modRtr
  repeat' (first
      | with_reducible assumption | with_reducible apply Kept.ite | dsimp -zeta only | split | simp -zeta only [Kept.mk_iff])

theorem State.sendSig_kept {κ : Fixed} {s : State} (c : Coord) (sg : Signal) (hk : Kept κ s) :
    Kept κ (State.sendSig s c sg) := by
  unfold State.sendSig
  repeat' (first
      | with_reducible assumption | with_reducible apply State.modRtr_kept | with_reducible apply Kept.ite | (intro _ _ _)
      | (intro _ _) | (intro _)
      | (extract_lets +onlyGivenNames x
         first
         | (refine Kept.cut (k := κ) (s := x) ?_ ?_; subst x; rotate_left; intro hx; clear_value x; revert x; intro _ _)
         | (clear_value x; revert x; intro _))
      | dsimp -zeta only | split | simp -zeta only [Kept.mk_iff])

theorem State.takeSig_kept {κ : Fixed} {s : State} (sg : Signal) (hk : Kept κ s) :
    Kept κ (State.takeSig s sg) := by
  unfold State.takeSig
  repeat' (first
      | with_reducible assumption | with_reducible apply Kept.ite | dsimp -zeta only | split | simp -zeta only [Kept.mk_iff])

theorem State.takeDue_kept {κ : Fixed} {s : State} (p : Packet) (hk : Kept κ s) :
    Kept κ (State.takeDue s p) := by
  unfold State.takeDue
  repeat' (first
      | with_reducible assumption | with_reducible apply State.modRtr_kept | with_reducible apply Kept.ite | (intro _ _ _)
      | (intro _ _) | (intro _) | dsimp -zeta only | split | simp -zeta only [Kept.mk_iff])

theorem State.takePkt_kept {κ : Fixed} {s : State} (p : Packet) (hk : Kept κ s) :
    Kept κ (State.takePkt s p) := by
  unfold State.takePkt
  repeat' (first
      | with_reducible assumption | with_reducible apply State.takeDue_kept | with_reducible apply Kept.ite | dsimp -zeta only | split
      | simp -zeta only [Kept.mk_iff])

theorem State.raiseNack_kept {κ : Fixed} {s : State} (c : Coord) (raiser : SrcAddr) (p : Packet) (reason : Nat) (chstate : Nat) (var : Nat) (hk : Kept κ s) :
    Kept κ (State.raiseNack s c raiser p reason chstate var) := by
  unfold State.raiseNack
  repeat' (first
      | with_reducible assumption | with_reducible apply State.countEvent_kept | with_reducible apply State.sendSig_kept
      | with_reducible apply Kept.ite
      | (extract_lets +onlyGivenNames x
         first
         | (refine Kept.cut (k := κ) (s := x) ?_ ?_; subst x; rotate_left; intro hx; clear_value x; revert x; intro _ _)
         | (clear_value x; revert x; intro _))
      | dsimp -zeta only | split)

theorem State.faultInt_kept {κ : Fixed} {s : State} (b : FaultBlock) (hk : Kept κ s) :
    Kept κ (State.faultInt s b) := by
  unfold State.faultInt
  repeat' (first
      | with_reducible assumption | with_reducible apply State.sendSig_kept | with_reducible apply Kept.ite
      | (extract_lets +onlyGivenNames x
         first
         | (refine Kept.cut (k := κ) (s := x) ?_ ?_; subst x; rotate_left; intro hx; clear_value x; revert x; intro _ _)
         | (clear_value x; revert x; intro _))
      | dsimp -zeta only | split)

theorem State.faultEvent_kept {κ : Fixed} {s : State} (b : FaultBlock) (cause : Nat) (whr : Nat) (detail : Nat) (hk : Kept κ s) :
    Kept κ (State.faultEvent s b cause whr detail) := by
  unfold State.faultEvent
  repeat' (first
      | with_reducible assumption | with_reducible apply State.setReg_kept | with_reducible apply State.bump_kept
      | with_reducible apply State.setRecs_kept | with_reducible apply State.pushRec_kept | with_reducible apply State.ringEvent_kept
      | with_reducible apply State.freezeRing_kept | with_reducible apply State.faultInt_kept | with_reducible apply Kept.ite
      | (extract_lets +onlyGivenNames x
         first
         | (refine Kept.cut (k := κ) (s := x) ?_ ?_; subst x; rotate_left; intro hx; clear_value x; revert x; intro _ _)
         | (clear_value x; revert x; intro _))
      | dsimp -zeta only | split)

theorem State.faultLive_kept {κ : Fixed} {s : State} (b : FaultBlock) (cause : Nat) (on : Bool) (hk : Kept κ s) :
    Kept κ (State.faultLive s b cause on) := by
  unfold State.faultLive
  repeat' (first
      | with_reducible assumption | with_reducible apply State.setReg_kept | with_reducible apply Kept.ite
      | (extract_lets +onlyGivenNames x
         first
         | (refine Kept.cut (k := κ) (s := x) ?_ ?_; subst x; rotate_left; intro hx; clear_value x; revert x; intro _ _)
         | (clear_value x; revert x; intro _))
      | dsimp -zeta only | split)

theorem State.fresh_kept {κ : Fixed} {s : State} (hk : Kept κ s) :
    Kept κ (State.fresh s).2 := by
  unfold State.fresh
  repeat' (first
      | with_reducible assumption | with_reducible apply Kept.ite | with_reducible apply Kept.ite1 | with_reducible apply Kept.ite2
      | dsimp -zeta only | split | simp -zeta only [Kept.mk_iff])

theorem State.takeInject_kept {κ : Fixed} {s : State} (n : Node) (kind : Nat) (whr : Nat) (hk : Kept κ s) :
    Kept κ (State.takeInject s n kind whr).2 := by
  unfold State.takeInject
  repeat' (first
      | with_reducible assumption | with_reducible apply State.setReg_kept | with_reducible apply State.done_kept
      | with_reducible apply Kept.ite | with_reducible apply Kept.ite1 | with_reducible apply Kept.ite2
      | exact KeptOpt.of rfl (by with_reducible assumption) | exact KeptPair.of rfl (by with_reducible assumption)
      | with_reducible apply KeptOpt.ite | with_reducible refine KeptOpt.mapState ?_ (fun _ _ => ?_)
      | with_reducible refine KeptOpt.map (fun _ => ?_) | with_reducible apply KeptOpt.some | with_reducible exact KeptOpt.none
      | with_reducible apply KeptPair.ite | with_reducible apply KeptPair.some | with_reducible exact KeptPair.none
      | (extract_lets +onlyGivenNames x
         first
         | (refine Kept.cut (k := κ) (s := x) ?_ ?_; subst x; rotate_left; intro hx; clear_value x; revert x; intro _ _)
         | (refine Kept.cut1 (k := κ) (s := x) ?_ ?_; subst x; rotate_left; intro hx; clear_value x; revert x; intro _ _)
         | (refine Kept.cut2 (k := κ) (s := x) ?_ ?_; subst x; rotate_left; intro hx; clear_value x; revert x; intro _ _)
         | (refine KeptOpt.cut (k := κ) (o := x) ?_ ?_; subst x; rotate_left; intro hx; clear_value x; revert x; intro _ _)
         | (refine KeptPair.cut (k := κ) (o := x) ?_ ?_; subst x; rotate_left; intro hx; clear_value x; revert x; intro _ _)
         | (clear_value x; revert x; intro _))
      | dsimp -zeta only | split)

theorem State.wear_kept {κ : Fixed} {s : State} (b : FaultBlock) (k : Nat) (hk : Kept κ s) :
    Kept κ (State.wear s b k) := by
  unfold State.wear
  repeat' (first
      | with_reducible assumption | with_reducible apply State.bump_kept | with_reducible apply Kept.ite | dsimp -zeta only | split)

end Sys2Proof.Machine
end

