-- ==== Sys2Proof/Laws/KeptCellOps.lean ====
section
/-! SUPPORT. Every operation of Machine/CellOps.lean keeps the build, the queue and the canonical form. -/

namespace Sys2Proof.Machine

set_option linter.all false

theorem State.modCmd_kept {κ : Fixed} {s : State} (c : Coord) (tag : Nat) (f : Cmd → Cmd) (hk : Kept κ s) :
    Kept κ (State.modCmd s c tag f) := by
  unfold State.modCmd
  repeat' (first
      | with_reducible assumption | with_reducible apply State.modCell_kept | with_reducible apply Kept.ite | (intro _ _ _)
      | (intro _ _) | (intro _) | dsimp -zeta only | split | simp -zeta only [Kept.mk_iff])

theorem State.writeRecord_kept {κ : Fixed} {s : State} (c : Coord) (core : Nat) (op : Nat) (kind : Nat) (status : Nat) (utag : Nat) (slot : Nat) (reuse : Nat) (detail : Nat) (value : Nat) (hk : Kept κ s) :
    Kept κ (State.writeRecord s c core op kind status utag slot reuse detail value) := by
  unfold State.writeRecord
  repeat' (first
      | with_reducible assumption | with_reducible apply State.modCore_kept | with_reducible apply State.memWriteAs_kept
      | with_reducible apply Kept.ite | (intro _ _ _) | (intro _ _) | (intro _)
      | (extract_lets +onlyGivenNames x
         first
         | (refine Kept.cut (k := κ) (s := x) ?_ ?_; subst x; rotate_left; intro hx; clear_value x; revert x; intro _ _)
         | (clear_value x; revert x; intro _))
      | dsimp -zeta only | split | simp -zeta only [Kept.mk_iff])

theorem State.incCounter_kept {κ : Fixed} {s : State} (c : Coord) (core : Nat) (k : Nat) (hk : Kept κ s) :
    Kept κ (State.incCounter s c core k) := by
  unfold State.incCounter
  repeat' (first
      | with_reducible assumption | with_reducible apply State.modCore_kept | with_reducible apply State.answer_kept
      | with_reducible apply Kept.ite | (intro _ _ _) | (intro _ _) | (intro _) | exact KeptOpt.of rfl (by with_reducible assumption)
      | exact KeptPair.of rfl (by with_reducible assumption) | with_reducible apply KeptOpt.ite
      | with_reducible refine KeptOpt.mapState ?_ (fun _ _ => ?_) | with_reducible refine KeptOpt.map (fun _ => ?_)
      | with_reducible apply KeptOpt.some | with_reducible exact KeptOpt.none | with_reducible apply KeptPair.ite
      | with_reducible apply KeptPair.some | with_reducible exact KeptPair.none
      | (extract_lets +onlyGivenNames x
         first
         | (refine Kept.cut (k := κ) (s := x) ?_ ?_; subst x; rotate_left; intro hx; clear_value x; revert x; intro _ _)
         | (refine KeptOpt.cut (k := κ) (o := x) ?_ ?_; subst x; rotate_left; intro hx; clear_value x; revert x; intro _ _)
         | (refine KeptPair.cut (k := κ) (o := x) ?_ ?_; subst x; rotate_left; intro hx; clear_value x; revert x; intro _ _)
         | (clear_value x; revert x; intro _))
      | dsimp -zeta only | split | simp -zeta only [Kept.mk_iff])

theorem State.complete_kept {κ : Fixed} {s : State} (c : Coord) (m : Cmd) (status : Nat) (detail : Nat) (value : Nat) (hk : Kept κ s) :
    Kept κ (State.complete s c m status detail value) := by
  unfold State.complete
  repeat' (first
      | with_reducible assumption | with_reducible apply State.modCell_kept | with_reducible apply State.modCore_kept
      | with_reducible apply State.writeRecord_kept | with_reducible apply State.incCounter_kept | with_reducible apply Kept.ite
      | (intro _ _ _) | (intro _ _) | (intro _) | with_reducible apply KeptOpt.getD
      | (extract_lets +onlyGivenNames x
         first
         | (refine Kept.cut (k := κ) (s := x) ?_ ?_; subst x; rotate_left; intro hx; clear_value x; revert x; intro _ _)
         | (clear_value x; revert x; intro _))
      | dsimp -zeta only | split | simp -zeta only [Kept.mk_iff])

theorem State.takenRecord_kept {κ : Fixed} {s : State} (c : Coord) (m : Cmd) (hk : Kept κ s) :
    Kept κ (State.takenRecord s c m) := by
  unfold State.takenRecord
  repeat' (first
      | with_reducible assumption | with_reducible apply State.modCore_kept | with_reducible apply State.modCmd_kept
      | with_reducible apply State.writeRecord_kept | with_reducible apply Kept.ite | (intro _ _ _) | (intro _ _) | (intro _)
      | (extract_lets +onlyGivenNames x
         first
         | (refine Kept.cut (k := κ) (s := x) ?_ ?_; subst x; rotate_left; intro hx; clear_value x; revert x; intro _ _)
         | (clear_value x; revert x; intro _))
      | dsimp -zeta only | split | simp -zeta only [Kept.mk_iff])

theorem State.refuse_kept {κ : Fixed} {s : State} (c : Coord) (core : Nat) (d : Nat) (code : Nat) (hk : Kept κ s) :
    Kept κ (State.refuse s c core d code) := by
  unfold State.refuse
  repeat' (first
      | with_reducible assumption | with_reducible apply State.setReg_kept | with_reducible apply State.bump_kept
      | with_reducible apply State.writeRecord_kept | with_reducible apply State.incCounter_kept | with_reducible apply Kept.ite
      | (extract_lets +onlyGivenNames x
         first
         | (refine Kept.cut (k := κ) (s := x) ?_ ?_; subst x; rotate_left; intro hx; clear_value x; revert x; intro _ _)
         | (clear_value x; revert x; intro _))
      | dsimp -zeta only | split)

theorem State.ringRoom_kept {κ : Fixed} {s : State} (c : Coord) (core : Nat) (need : Nat) (hk : Kept κ s) :
    Kept κ (State.ringRoom s c core need).2 := by
  unfold State.ringRoom
  repeat' (first
      | with_reducible assumption | with_reducible apply State.bump_kept | with_reducible apply State.modCore_kept
      | with_reducible apply State.issueRead_kept | with_reducible apply Kept.ite | with_reducible apply Kept.ite1
      | with_reducible apply Kept.ite2 | (intro _ _ _) | (intro _ _) | (intro _)
      | (extract_lets +onlyGivenNames x
         first
         | (refine Kept.cut (k := κ) (s := x) ?_ ?_; subst x; rotate_left; intro hx; clear_value x; revert x; intro _ _)
         | (refine Kept.cut1 (k := κ) (s := x) ?_ ?_; subst x; rotate_left; intro hx; clear_value x; revert x; intro _ _)
         | (refine Kept.cut2 (k := κ) (s := x) ?_ ?_; subst x; rotate_left; intro hx; clear_value x; revert x; intro _ _)
         | (subst x))
      | dsimp -zeta only | split | simp -zeta only [Kept.mk_iff])

theorem State.pickHead_kept {κ : Fixed} {s : State} (c : Coord) (n0 : Nat) (n1 : Nat) (hk : Kept κ s) :
    Kept κ (State.pickHead s c n0 n1).2 := by
  induction n0 generalizing s n1 with
  | zero => exact hk
  | succ n ih =>
    rw [State.pickHead]
    repeat' (first
      | with_reducible assumption | with_reducible apply ih | with_reducible apply State.countRing_kept
      | with_reducible apply State.ringRoom_kept | with_reducible apply Kept.ite | with_reducible apply Kept.ite1
      | with_reducible apply Kept.ite2 | refine Kept.of_snd (by with_reducible assumption) ?_
      | refine Kept.of_fst (by with_reducible assumption) ?_ | exact KeptOpt.of rfl (by with_reducible assumption)
      | exact KeptPair.of rfl (by with_reducible assumption) | with_reducible apply KeptOpt.ite
      | with_reducible refine KeptOpt.mapState ?_ (fun _ _ => ?_) | with_reducible refine KeptOpt.map (fun _ => ?_)
      | with_reducible apply KeptOpt.some | with_reducible exact KeptOpt.none | with_reducible apply KeptPair.ite
      | with_reducible apply KeptPair.some | with_reducible exact KeptPair.none
      | (extract_lets +onlyGivenNames x
         first
         | (refine Kept.cut (k := κ) (s := x) ?_ ?_; subst x; rotate_left; intro hx; clear_value x; revert x; intro _ _)
         | (refine Kept.cut1 (k := κ) (s := x) ?_ ?_; subst x; rotate_left; intro hx; clear_value x; revert x; intro _ _)
         | (refine Kept.cut2 (k := κ) (s := x) ?_ ?_; subst x; rotate_left; intro hx; clear_value x; revert x; intro _ _)
         | (refine KeptOpt.cut (k := κ) (o := x) ?_ ?_; subst x; rotate_left; intro hx; clear_value x; revert x; intro _ _)
         | (refine KeptPair.cut (k := κ) (o := x) ?_ ?_; subst x; rotate_left; intro hx; clear_value x; revert x; intro _ _)
         | (clear_value x; revert x; intro _))
      | dsimp -zeta only | split)

theorem State.takeSlot_kept {κ : Fixed} {s : State} (c : Coord) (core : Nat) (d : Nat) (hk : Kept κ s) :
    Kept κ (State.takeSlot s c core d).2 := by
  unfold State.takeSlot
  repeat' (first
      | with_reducible assumption | with_reducible apply State.bump_kept | with_reducible apply State.modCell_kept
      | with_reducible apply State.modCore_kept | with_reducible apply State.modField_kept
      | with_reducible apply State.countEvent_kept | with_reducible apply Kept.ite | with_reducible apply Kept.ite1
      | with_reducible apply Kept.ite2 | (intro _ _ _) | (intro _ _) | (intro _)
      | (extract_lets +onlyGivenNames x
         first
         | (refine Kept.cut (k := κ) (s := x) ?_ ?_; subst x; rotate_left; intro hx; clear_value x; revert x; intro _ _)
         | (refine Kept.cut1 (k := κ) (s := x) ?_ ?_; subst x; rotate_left; intro hx; clear_value x; revert x; intro _ _)
         | (refine Kept.cut2 (k := κ) (s := x) ?_ ?_; subst x; rotate_left; intro hx; clear_value x; revert x; intro _ _)
         | (clear_value x; revert x; intro _))
      | dsimp -zeta only | split | simp -zeta only [Kept.mk_iff])

theorem State.popHead_kept {κ : Fixed} {s : State} (c : Coord) (core : Nat) (hk : Kept κ s) :
    Kept κ (State.popHead s c core) := by
  unfold State.popHead
  repeat' (first
      | with_reducible assumption | with_reducible apply State.modCell_kept | with_reducible apply State.modCore_kept
      | with_reducible apply Kept.ite | (intro _ _ _) | (intro _ _) | (intro _) | dsimp -zeta only | split
      | simp -zeta only [Kept.mk_iff])

theorem State.modSrcRsv_kept {κ : Fixed} {s : State} (c : Coord) (rsv : Nat) (f : SrcRsv → SrcRsv) (hk : Kept κ s) :
    Kept κ (State.modSrcRsv s c rsv f) := by
  unfold State.modSrcRsv
  repeat' (first
      | with_reducible assumption | with_reducible apply State.modCell_kept | with_reducible apply Kept.ite | (intro _ _ _)
      | (intro _ _) | (intro _) | dsimp -zeta only | split | simp -zeta only [Kept.mk_iff])

theorem State.endSrcRsv_kept {κ : Fixed} {s : State} (c : Coord) (rsv : Nat) (hk : Kept κ s) :
    Kept κ (State.endSrcRsv s c rsv) := by
  unfold State.endSrcRsv
  repeat' (first
      | with_reducible assumption | with_reducible apply State.modCell_kept | with_reducible apply Kept.ite | (intro _ _ _)
      | (intro _ _) | (intro _)
      | (extract_lets +onlyGivenNames x
         first
         | (refine Kept.cut (k := κ) (s := x) ?_ ?_; subst x; rotate_left; intro hx; clear_value x; revert x; intro _ _)
         | (clear_value x; revert x; intro _))
      | dsimp -zeta only | split | simp -zeta only [Kept.mk_iff])

theorem State.failRsv_kept {κ : Fixed} {s : State} (c : Coord) (r : SrcRsv) (status : Nat) (detail : Nat) (hk : Kept κ s) :
    Kept κ (State.failRsv s c r status detail) := by
  unfold State.failRsv
  repeat' (first
      | with_reducible assumption | with_reducible apply State.modCmd_kept | with_reducible apply State.endSrcRsv_kept
      | with_reducible apply Kept.ite | (intro _ _ _) | (intro _ _) | (intro _) | dsimp -zeta only | split
      | simp -zeta only [Kept.mk_iff])

end Sys2Proof.Machine
end

