-- ==== Sys2Proof/Laws/KeptRouter.lean ====
section
/-! SUPPORT. Every operation of Machine/Router.lean keeps the build, the queue and the canonical form. -/

namespace Sys2Proof.Machine

set_option linter.all false

theorem State.modIn_kept {κ : Fixed} {s : State} (c : Coord) (q : Nat) (f : PortIn → PortIn) (hk : Kept κ s) :
    Kept κ (State.modIn s c q f) := by
  unfold State.modIn
  repeat' (first
      | with_reducible assumption | with_reducible apply State.modRtr_kept | with_reducible apply Kept.ite | (intro _ _ _)
      | (intro _ _) | (intro _) | dsimp -zeta only | split | simp -zeta only [Kept.mk_iff])

theorem State.modLane_kept {κ : Fixed} {s : State} (c : Coord) (q : Nat) (l : Nat) (f : LaneIn → LaneIn) (hk : Kept κ s) :
    Kept κ (State.modLane s c q l f) := by
  unfold State.modLane
  repeat' (first
      | with_reducible assumption | with_reducible apply State.modIn_kept | with_reducible apply Kept.ite | (intro _ _ _)
      | (intro _ _) | (intro _) | dsimp -zeta only | split | simp -zeta only [Kept.mk_iff])

theorem State.modOut_kept {κ : Fixed} {s : State} (c : Coord) (p : Nat) (f : OutSt → OutSt) (hk : Kept κ s) :
    Kept κ (State.modOut s c p f) := by
  unfold State.modOut
  repeat' (first
      | with_reducible assumption | with_reducible apply State.modRtr_kept | with_reducible apply Kept.ite | (intro _ _ _)
      | (intro _ _) | (intro _) | dsimp -zeta only | split | simp -zeta only [Kept.mk_iff])

theorem State.routeChange_kept {κ : Fixed} {s : State} (hk : Kept κ s) :
    Kept κ (State.routeChange s) := by
  unfold State.routeChange
  repeat' (first
      | with_reducible assumption | with_reducible apply Kept.ite | dsimp -zeta only | split | simp -zeta only [Kept.mk_iff])

theorem State.decideFence_kept {κ : Fixed} {s : State} (b : FaultBlock) (hk : Kept κ s) :
    Kept κ (State.decideFence s b) := by
  unfold State.decideFence
  repeat' (first
      | with_reducible assumption | with_reducible apply State.setReg_kept | with_reducible apply Kept.ite
      | (extract_lets +onlyGivenNames x
         first
         | (refine Kept.cut (k := κ) (s := x) ?_ ?_; subst x; rotate_left; intro hx; clear_value x; revert x; intro _ _)
         | (clear_value x; revert x; intro _))
      | dsimp -zeta only | split | simp -zeta only [Kept.mk_iff])

theorem State.strike_kept {κ : Fixed} {s : State} (b : FaultBlock) (cause : Nat) (whr : Nat) (detail : Nat) (hk : Kept κ s) :
    Kept κ (State.strike s b cause whr detail) := by
  unfold State.strike
  repeat' (first
      | with_reducible assumption | with_reducible apply State.setReg_kept | with_reducible apply State.faultEvent_kept
      | with_reducible apply State.decideFence_kept | with_reducible apply step_kept | with_reducible apply Kept.ite | (intro _ _ _)
      | (intro _ _) | (intro _)
      | (extract_lets +onlyGivenNames x
         first
         | (refine Kept.cut (k := κ) (s := x) ?_ ?_; subst x; rotate_left; intro hx; clear_value x; revert x; intro _ _)
         | (clear_value x; revert x; intro _))
      | dsimp -zeta only | split | simp -zeta only [Kept.mk_iff])

theorem State.memInject_kept {κ : Fixed} {s : State} (b : FaultBlock) (whr : Nat) (cause : Nat) (detail : Nat) (hk : Kept κ s) :
    Kept κ (State.memInject s b whr cause detail).2 := by
  unfold State.memInject
  repeat' (first
      | with_reducible assumption | with_reducible apply State.faultEvent_kept | with_reducible apply State.takeInject_kept
      | with_reducible apply State.wear_kept | with_reducible apply State.strike_kept | with_reducible apply Kept.ite
      | with_reducible apply Kept.ite1 | with_reducible apply Kept.ite2 | refine Kept.of_snd (by with_reducible assumption) ?_
      | refine Kept.of_fst (by with_reducible assumption) ?_ | refine KeptPair.of (by with_reducible assumption) ?_ | dsimp -zeta only
      | split)

theorem State.noteStop_kept {κ : Fixed} {s : State} (c : Coord) (p : Nat) (old : Nat) (hk : Kept κ s) :
    Kept κ (State.noteStop s c p old) := by
  unfold State.noteStop
  repeat' (first
      | with_reducible assumption | with_reducible apply State.ringEvent_kept | with_reducible apply Kept.ite | dsimp -zeta only
      | split)

theorem State.traceAdd_kept {κ : Fixed} {s : State} (c : Coord) (source : Nat) (bs : List Byte) (hk : Kept κ s) :
    Kept κ (State.traceAdd s c source bs).2 := by
  unfold State.traceAdd
  repeat' (first
      | with_reducible assumption | with_reducible apply State.modCell_kept | with_reducible apply Kept.ite
      | with_reducible apply Kept.ite1 | with_reducible apply Kept.ite2 | (intro _ _ _) | (intro _ _) | (intro _)
      | exact KeptOpt.of rfl (by with_reducible assumption) | exact KeptPair.of rfl (by with_reducible assumption)
      | with_reducible apply KeptOpt.ite | with_reducible refine KeptOpt.mapState ?_ (fun _ _ => ?_)
      | with_reducible refine KeptOpt.map (fun _ => ?_) | with_reducible apply KeptOpt.some | with_reducible exact KeptOpt.none
      | with_reducible apply KeptPair.ite | with_reducible apply KeptPair.some | with_reducible exact KeptPair.none
      | (extract_lets +onlyGivenNames x
         first
         | (refine Kept.cut (k := κ) (s := x) ?_ ?_; subst x; rotate_left; intro hx; clear_value x; revert x; intro _ _)
         | (refine Kept.cut1 (k := κ) (s := x) ?_ ?_; subst x; rotate_left; intro hx; clear_value x; revert x; intro _ _)
         | (refine Kept.cut2 (k := κ) (s := x) ?_ ?_; subst x; rotate_left; intro hx; clear_value x; revert x; intro _ _)
         | (refine KeptOpt.cut (k := κ) (o := x) ?_ ?_; subst x; rotate_left; intro hx; clear_value x; revert x; intro _ _)
         | (refine KeptPair.cut (k := κ) (o := x) ?_ ?_; subst x; rotate_left; intro hx; clear_value x; revert x; intro _ _)
         | (clear_value x; revert x; intro _))
      | dsimp -zeta only | split | simp -zeta only [Kept.mk_iff])

theorem State.probeOne_kept {κ : Fixed} {s : State} (c : Coord) (i : Nat) (source : Nat) (site : Nat) (outbound : Bool) (hdr : Nat) (lane : Nat) (hk : Kept κ s) :
    Kept κ (State.probeOne s c i source site outbound hdr lane) := by
  unfold State.probeOne
  repeat' (first
      | with_reducible assumption | with_reducible apply State.bump_kept | with_reducible apply State.pushRec_kept
      | with_reducible apply State.traceAdd_kept | with_reducible apply Kept.ite | (intro _ _ _) | (intro _ _) | (intro _)
      | refine Kept.of_snd (by with_reducible assumption) ?_ | refine Kept.of_fst (by with_reducible assumption) ?_
      | (extract_lets +onlyGivenNames x
         first
         | (refine Kept.cut (k := κ) (s := x) ?_ ?_; subst x; rotate_left; intro hx; clear_value x; revert x; intro _ _)
         | (refine Kept.cut1 (k := κ) (s := x) ?_ ?_; subst x; rotate_left; intro hx; clear_value x; revert x; intro _ _)
         | (refine Kept.cut2 (k := κ) (s := x) ?_ ?_; subst x; rotate_left; intro hx; clear_value x; revert x; intro _ _)
         | (subst x))
      | dsimp -zeta only | split)

theorem State.probe_kept {κ : Fixed} {s : State} (c : Coord) (site : Nat) (outbound : Bool) (hdr : Nat) (lane : Nat) (hk : Kept κ s) :
    Kept κ (State.probe s c site outbound hdr lane) := by
  unfold State.probe
  repeat' (first
      | with_reducible assumption | with_reducible apply State.probeOne_kept | with_reducible apply Kept.ite | dsimp -zeta only
      | split)

theorem State.accrue_kept {κ : Fixed} {s : State} (f : Nat) (hk : Kept κ s) :
    Kept κ (State.accrue s f) := by
  unfold State.accrue
  repeat' (first
      | with_reducible assumption | with_reducible apply State.bump_kept | with_reducible apply State.modField_kept
      | with_reducible apply State.countEvent_kept | with_reducible apply Kept.ite | with_reducible apply Kept.foldl
      | with_reducible apply Kept.foldl_fst | with_reducible apply Kept.foldl_snd | (intro _ _ _) | (intro _ _) | (intro _)
      | (extract_lets +onlyGivenNames x
         first
         | (refine Kept.cut (k := κ) (s := x) ?_ ?_; subst x; rotate_left; intro hx; clear_value x; revert x; intro _ _)
         | (subst x))
      | dsimp -zeta only | split | simp -zeta only [Kept.mk_iff])

theorem State.setPower_kept {κ : Fixed} {s : State} (f : Nat) (st : Nat) (hk : Kept κ s) :
    Kept κ (State.setPower s f st) := by
  unfold State.setPower
  repeat' (first
      | with_reducible assumption | with_reducible apply State.setReg_kept | with_reducible apply State.ringEvent_kept
      | with_reducible apply State.accrue_kept | with_reducible apply Kept.ite | with_reducible apply Kept.foldl
      | with_reducible apply Kept.foldl_fst | with_reducible apply Kept.foldl_snd | (intro _ _ _) | (intro _ _) | (intro _)
      | (extract_lets +onlyGivenNames x
         first
         | (refine Kept.cut (k := κ) (s := x) ?_ ?_; subst x; rotate_left; intro hx; clear_value x; revert x; intro _ _)
         | (clear_value x; revert x; intro _))
      | dsimp -zeta only | split)

theorem State.causeWake_kept {κ : Fixed} {s : State} (f : Nat) (cause : Nat) (hk : Kept κ s) :
    Kept κ (State.causeWake s f cause) := by
  unfold State.causeWake
  repeat' (first
      | with_reducible assumption | with_reducible apply State.setReg_kept | with_reducible apply State.setPower_kept
      | with_reducible apply Kept.ite | dsimp -zeta only | split)

theorem State.headerWake_kept {κ : Fixed} {s : State} (c : Coord) (q : Nat) (l : Nat) (p : Packet) (copy : Bool) (hk : Kept κ s) :
    Kept κ (State.headerWake s c q l p copy) := by
  unfold State.headerWake
  repeat' (first
      | with_reducible assumption | with_reducible apply State.causeWake_kept | with_reducible apply Kept.ite
      | (extract_lets +onlyGivenNames x
         first
         | (refine Kept.cut (k := κ) (s := x) ?_ ?_; subst x; rotate_left; intro hx; clear_value x; revert x; intro _ _)
         | (clear_value x; revert x; intro _))
      | dsimp -zeta only | split)

theorem State.freeUnits_kept {κ : Fixed} {s : State} (c : Coord) (q : Nat) (l : Nat) (k : Nat) (hk : Kept κ s) :
    Kept κ (State.freeUnits s c q l k) := by
  unfold State.freeUnits
  repeat' (first
      | with_reducible assumption | with_reducible apply State.modLane_kept | with_reducible apply Kept.ite | (intro _ _ _)
      | (intro _ _) | (intro _) | dsimp -zeta only | split | simp -zeta only [Kept.mk_iff])

theorem State.putBeat_kept {κ : Fixed} {s : State} (c : Coord) (p : Nat) (cw : List Byte) (side : Nat) (copy : Bool) (hk : Kept κ s) :
    Kept κ (State.putBeat s c p cw side copy) := by
  unfold State.putBeat
  repeat' (first
      | with_reducible assumption | with_reducible apply Kept.ite | dsimp -zeta only | split | simp -zeta only [Kept.mk_iff])

theorem State.sendCreditBeat_kept {κ : Fixed} {s : State} (c : Coord) (p : Nat) (hk : Kept κ s) :
    Kept κ (State.sendCreditBeat s c p) := by
  unfold State.sendCreditBeat
  repeat' (first
      | with_reducible assumption | with_reducible apply State.modLane_kept | with_reducible apply State.putBeat_kept
      | with_reducible apply Kept.ite | with_reducible apply Kept.foldl | with_reducible apply Kept.foldl_fst
      | with_reducible apply Kept.foldl_snd | (intro _ _ _) | (intro _ _) | (intro _)
      | (extract_lets +onlyGivenNames x
         first
         | (refine Kept.cut (k := κ) (s := x) ?_ ?_; subst x; rotate_left; intro hx; clear_value x; revert x; intro _ _)
         | (clear_value x; revert x; intro _))
      | dsimp -zeta only | split | simp -zeta only [Kept.mk_iff])

theorem State.linkLocal_kept {κ : Fixed} {s : State} (c : Coord) (p : Nat) (mk : Coord → Nat → Signal) (hk : Kept κ s) :
    Kept κ (State.linkLocal s c p mk) := by
  unfold State.linkLocal
  repeat' (first
      | with_reducible assumption | with_reducible apply State.modRtr_kept | with_reducible apply State.stage_kept
      | with_reducible apply Kept.ite | (intro _ _ _) | (intro _ _) | (intro _) | refine Kept.of_snd (by with_reducible assumption) ?_
      | refine Kept.of_fst (by with_reducible assumption) ?_ | exact KeptOpt.of rfl (by with_reducible assumption)
      | exact KeptPair.of rfl (by with_reducible assumption) | with_reducible apply KeptOpt.ite
      | with_reducible refine KeptOpt.mapState ?_ (fun _ _ => ?_) | with_reducible refine KeptOpt.map (fun _ => ?_)
      | with_reducible apply KeptOpt.some | with_reducible exact KeptOpt.none | with_reducible apply KeptPair.ite
      | with_reducible apply KeptPair.some | with_reducible exact KeptPair.none
      | (extract_lets +onlyGivenNames x
         first
         | (refine Kept.cut (k := κ) (s := x) ?_ ?_; subst x; rotate_left; intro hx; clear_value x; revert x; intro _ _)
         | (refine Kept.cut1 (k := κ) (s := x) ?_ ?_; subst x; rotate_left; intro hx; clear_value x; revert x; intro _ _)
         | (refine Kept.cut2 (k := κ) (s := x) ?_ ?_; subst x; rotate_left; intro hx; clear_value x; revert x; intro _ _)
         | (refine KeptOpt.cut (k := κ) (o := x) ?_ ?_; subst x; rotate_left; intro hx; clear_value x; revert x; intro _ _)
         | (refine KeptPair.cut (k := κ) (o := x) ?_ ?_; subst x; rotate_left; intro hx; clear_value x; revert x; intro _ _)
         | (clear_value x; revert x; intro _))
      | dsimp -zeta only | split | simp -zeta only [Kept.mk_iff])

theorem State.startSync_kept {κ : Fixed} {s : State} (c : Coord) (p : Nat) (hk : Kept κ s) :
    Kept κ (State.startSync s c p) := by
  unfold State.startSync
  repeat' (first
      | with_reducible assumption | with_reducible apply State.ringEvent_kept | with_reducible apply State.modOut_kept
      | with_reducible apply State.linkLocal_kept | with_reducible apply Kept.ite | (intro _ _ _) | (intro _ _) | (intro _)
      | exact KeptOpt.of rfl (by with_reducible assumption) | exact KeptPair.of rfl (by with_reducible assumption)
      | with_reducible apply KeptOpt.ite | with_reducible refine KeptOpt.mapState ?_ (fun _ _ => ?_)
      | with_reducible refine KeptOpt.map (fun _ => ?_) | with_reducible apply KeptOpt.some | with_reducible exact KeptOpt.none
      | with_reducible apply KeptPair.ite | with_reducible apply KeptPair.some | with_reducible exact KeptPair.none
      | (extract_lets +onlyGivenNames x
         first
         | (refine Kept.cut (k := κ) (s := x) ?_ ?_; subst x; rotate_left; intro hx; clear_value x; revert x; intro _ _)
         | (refine KeptOpt.cut (k := κ) (o := x) ?_ ?_; subst x; rotate_left; intro hx; clear_value x; revert x; intro _ _)
         | (refine KeptPair.cut (k := κ) (o := x) ?_ ?_; subst x; rotate_left; intro hx; clear_value x; revert x; intro _ _)
         | (clear_value x; revert x; intro _))
      | dsimp -zeta only | split | simp -zeta only [Kept.mk_iff])

theorem State.finishSync_kept {κ : Fixed} {s : State} (c : Coord) (p : Nat) (hk : Kept κ s) :
    Kept κ (State.finishSync s c p) := by
  unfold State.finishSync
  repeat' (first
      | with_reducible assumption | with_reducible apply State.bump_kept | with_reducible apply State.modOut_kept
      | with_reducible apply Kept.ite | with_reducible apply Kept.foldl | with_reducible apply Kept.foldl_fst
      | with_reducible apply Kept.foldl_snd | (intro _ _ _) | (intro _ _) | (intro _) | with_reducible apply KeptOpt.foldl
      | exact KeptOpt.of rfl (by with_reducible assumption) | exact KeptPair.of rfl (by with_reducible assumption)
      | with_reducible apply KeptOpt.ite | with_reducible refine KeptOpt.mapState ?_ (fun _ _ => ?_)
      | with_reducible refine KeptOpt.map (fun _ => ?_) | with_reducible apply KeptOpt.some | with_reducible exact KeptOpt.none
      | with_reducible apply KeptPair.ite | with_reducible apply KeptPair.some | with_reducible exact KeptPair.none
      | (extract_lets +onlyGivenNames x
         first
         | (refine Kept.cut (k := κ) (s := x) ?_ ?_; subst x; rotate_left; intro hx; clear_value x; revert x; intro _ _)
         | (refine KeptOpt.cut (k := κ) (o := x) ?_ ?_; subst x; rotate_left; intro hx; clear_value x; revert x; intro _ _)
         | (refine KeptPair.cut (k := κ) (o := x) ?_ ?_; subst x; rotate_left; intro hx; clear_value x; revert x; intro _ _)
         | (subst x))
      | dsimp -zeta only | split | simp -zeta only [Kept.mk_iff])

theorem State.takeCreditBeat_kept {κ : Fixed} {s : State} (c : Coord) (q : Nat) (cw : List Byte) (hk : Kept κ s) :
    Kept κ (State.takeCreditBeat s c q cw) := by
  unfold State.takeCreditBeat
  repeat' (first
      | with_reducible assumption | with_reducible apply State.countEvent_kept | with_reducible apply State.wear_kept
      | with_reducible apply State.modOut_kept | with_reducible apply State.strike_kept | with_reducible apply State.startSync_kept
      | with_reducible apply State.finishSync_kept | with_reducible apply Kept.ite | with_reducible apply Kept.foldl
      | with_reducible apply Kept.foldl_fst | with_reducible apply Kept.foldl_snd | (intro _ _ _) | (intro _ _) | (intro _)
      | with_reducible apply KeptOpt.getD | with_reducible apply KeptOpt.foldl | exact KeptOpt.of rfl (by with_reducible assumption)
      | exact KeptPair.of rfl (by with_reducible assumption) | with_reducible apply KeptOpt.ite
      | with_reducible refine KeptOpt.mapState ?_ (fun _ _ => ?_) | with_reducible refine KeptOpt.map (fun _ => ?_)
      | with_reducible apply KeptOpt.some | with_reducible exact KeptOpt.none | with_reducible apply KeptPair.ite
      | with_reducible apply KeptPair.some | with_reducible exact KeptPair.none
      | (extract_lets +onlyGivenNames x
         first
         | (refine Kept.cut (k := κ) (s := x) ?_ ?_; subst x; rotate_left; intro hx; clear_value x; revert x; intro _ _)
         | (refine KeptOpt.cut (k := κ) (o := x) ?_ ?_; subst x; rotate_left; intro hx; clear_value x; revert x; intro _ _)
         | (refine KeptPair.cut (k := κ) (o := x) ?_ ?_; subst x; rotate_left; intro hx; clear_value x; revert x; intro _ _)
         | (subst x))
      | dsimp -zeta only | split | simp -zeta only [Kept.mk_iff])

theorem State.trimLane_kept {κ : Fixed} {s : State} (c : Coord) (q : Nat) (l : Nat) (hk : Kept κ s) :
    Kept κ (State.trimLane s c q l) := by
  unfold State.trimLane
  repeat' (first
      | with_reducible assumption | with_reducible apply State.modLane_kept | with_reducible apply State.freeUnits_kept
      | with_reducible apply Kept.ite | (intro _ _ _) | (intro _ _) | (intro _) | exact KeptOpt.of rfl (by with_reducible assumption)
      | exact KeptPair.of rfl (by with_reducible assumption) | with_reducible apply KeptOpt.ite
      | with_reducible refine KeptOpt.mapState ?_ (fun _ _ => ?_) | with_reducible refine KeptOpt.map (fun _ => ?_)
      | with_reducible apply KeptOpt.some | with_reducible exact KeptOpt.none | with_reducible apply KeptPair.ite
      | with_reducible apply KeptPair.some | with_reducible exact KeptPair.none
      | (extract_lets +onlyGivenNames x
         first
         | (refine Kept.cut (k := κ) (s := x) ?_ ?_; subst x; rotate_left; intro hx; clear_value x; revert x; intro _ _)
         | (refine KeptOpt.cut (k := κ) (o := x) ?_ ?_; subst x; rotate_left; intro hx; clear_value x; revert x; intro _ _)
         | (refine KeptPair.cut (k := κ) (o := x) ?_ ?_; subst x; rotate_left; intro hx; clear_value x; revert x; intro _ _)
         | (clear_value x; revert x; intro _))
      | dsimp -zeta only | split | simp -zeta only [Kept.mk_iff])

theorem State.sendUnit_kept {κ : Fixed} {s : State} (c : Coord) (p : Nat) (k : CurPkt) (g : OutLeg) (n : Nat) (u : BufUnit) (hk : Kept κ s) :
    Kept κ (State.sendUnit s c p k g n u) := by
  unfold State.sendUnit
  repeat' (first
      | with_reducible assumption | with_reducible apply State.putBeat_kept | with_reducible apply Kept.ite
      | (extract_lets +onlyGivenNames x
         first
         | (refine Kept.cut (k := κ) (s := x) ?_ ?_; subst x; rotate_left; intro hx; clear_value x; revert x; intro _ _)
         | (clear_value x; revert x; intro _))
      | dsimp -zeta only | split)

theorem State.lose_kept {κ : Fixed} {s : State} (p : Packet) (hk : Kept κ s) :
    Kept κ (State.lose s p) := by
  unfold State.lose
  repeat' (first
      | with_reducible assumption | with_reducible apply Kept.ite | (intro _ _ _) | (intro _ _) | (intro _) | dsimp -zeta only | split
      | simp -zeta only [Kept.mk_iff])

theorem State.cutBegun_kept {κ : Fixed} {s : State} (c : Coord) (p : Nat) (hk : Kept κ s) :
    Kept κ (State.cutBegun s c p) := by
  unfold State.cutBegun
  repeat' (first
      | with_reducible assumption | with_reducible apply State.modRtr_kept | with_reducible apply State.modOut_kept
      | with_reducible apply Kept.ite | (intro _ _ _) | (intro _ _) | (intro _) | exact KeptOpt.of rfl (by with_reducible assumption)
      | exact KeptPair.of rfl (by with_reducible assumption) | with_reducible apply KeptOpt.ite
      | with_reducible refine KeptOpt.mapState ?_ (fun _ _ => ?_) | with_reducible refine KeptOpt.map (fun _ => ?_)
      | with_reducible apply KeptOpt.some | with_reducible exact KeptOpt.none | with_reducible apply KeptPair.ite
      | with_reducible apply KeptPair.some | with_reducible exact KeptPair.none
      | (extract_lets +onlyGivenNames x
         first
         | (refine Kept.cut (k := κ) (s := x) ?_ ?_; subst x; rotate_left; intro hx; clear_value x; revert x; intro _ _)
         | (refine KeptOpt.cut (k := κ) (o := x) ?_ ?_; subst x; rotate_left; intro hx; clear_value x; revert x; intro _ _)
         | (refine KeptPair.cut (k := κ) (o := x) ?_ ?_; subst x; rotate_left; intro hx; clear_value x; revert x; intro _ _)
         | (subst x))
      | dsimp -zeta only | split | simp -zeta only [Kept.mk_iff])

theorem State.tidyLane_kept {κ : Fixed} {s : State} (c : Coord) (q : Nat) (l : Nat) (n0 : Nat) (hk : Kept κ s) :
    Kept κ (State.tidyLane s c q l n0) := by
  induction n0 generalizing s with
  | zero => exact hk
  | succ n ih =>
    rw [State.tidyLane]
    repeat' (first
      | with_reducible assumption | with_reducible apply ih | with_reducible apply State.bump_kept
      | with_reducible apply State.raiseNack_kept | with_reducible apply State.modLane_kept | with_reducible apply State.trimLane_kept
      | with_reducible apply State.lose_kept | with_reducible apply Kept.ite | (intro _ _ _) | (intro _ _) | (intro _)
      | exact KeptOpt.of rfl (by with_reducible assumption) | exact KeptPair.of rfl (by with_reducible assumption)
      | with_reducible apply KeptOpt.ite | with_reducible refine KeptOpt.mapState ?_ (fun _ _ => ?_)
      | with_reducible refine KeptOpt.map (fun _ => ?_) | with_reducible apply KeptOpt.some | with_reducible exact KeptOpt.none
      | with_reducible apply KeptPair.ite | with_reducible apply KeptPair.some | with_reducible exact KeptPair.none
      | (extract_lets +onlyGivenNames x
         first
         | (refine Kept.cut (k := κ) (s := x) ?_ ?_; subst x; rotate_left; intro hx; clear_value x; revert x; intro _ _)
         | (refine KeptOpt.cut (k := κ) (o := x) ?_ ?_; subst x; rotate_left; intro hx; clear_value x; revert x; intro _ _)
         | (refine KeptPair.cut (k := κ) (o := x) ?_ ?_; subst x; rotate_left; intro hx; clear_value x; revert x; intro _ _)
         | (subst x))
      | dsimp -zeta only | split | simp -zeta only [Kept.mk_iff])

theorem State.exitPkt_kept {κ : Fixed} {s : State} (c : Coord) (p : Nat) (pk : Packet) (hk : Kept κ s) :
    Kept κ (State.exitPkt s c p pk) := by
  unfold State.exitPkt
  repeat' (first
      | with_reducible assumption | with_reducible apply State.bump_kept | with_reducible apply State.modPort_kept
      | with_reducible apply State.raiseNack_kept | with_reducible apply State.memInject_kept | with_reducible apply Kept.ite
      | with_reducible apply Kept.ite1 | with_reducible apply Kept.ite2 | (intro _ _ _) | (intro _ _) | (intro _)
      | refine Kept.of_snd (by with_reducible assumption) ?_ | refine Kept.of_fst (by with_reducible assumption) ?_
      | (extract_lets +onlyGivenNames x
         first
         | (refine Kept.cut (k := κ) (s := x) ?_ ?_; subst x; rotate_left; intro hx; clear_value x; revert x; intro _ _)
         | (refine Kept.cut1 (k := κ) (s := x) ?_ ?_; subst x; rotate_left; intro hx; clear_value x; revert x; intro _ _)
         | (refine Kept.cut2 (k := κ) (s := x) ?_ ?_; subst x; rotate_left; intro hx; clear_value x; revert x; intro _ _)
         | (clear_value x; revert x; intro _))
      | dsimp -zeta only | split | simp -zeta only [Kept.mk_iff])

theorem State.arrive_kept {κ : Fixed} {s : State} (c : Coord) (hdr : Nat) (us : List BufUnit) (hk : Kept κ s) :
    Kept κ (State.arrive s c hdr us) := by
  unfold State.arrive
  repeat' (first
      | with_reducible assumption | with_reducible apply State.exitPkt_kept | with_reducible apply Kept.ite | (intro _ _ _)
      | (intro _ _) | (intro _) | exact KeptOpt.of rfl (by with_reducible assumption)
      | exact KeptPair.of rfl (by with_reducible assumption) | with_reducible apply KeptOpt.ite
      | with_reducible refine KeptOpt.mapState ?_ (fun _ _ => ?_) | with_reducible refine KeptOpt.map (fun _ => ?_)
      | with_reducible apply KeptOpt.some | with_reducible exact KeptOpt.none | with_reducible apply KeptPair.ite
      | with_reducible apply KeptPair.some | with_reducible exact KeptPair.none
      | (extract_lets +onlyGivenNames x
         first
         | (refine Kept.cut (k := κ) (s := x) ?_ ?_; subst x; rotate_left; intro hx; clear_value x; revert x; intro _ _)
         | (refine KeptOpt.cut (k := κ) (o := x) ?_ ?_; subst x; rotate_left; intro hx; clear_value x; revert x; intro _ _)
         | (refine KeptPair.cut (k := κ) (o := x) ?_ ?_; subst x; rotate_left; intro hx; clear_value x; revert x; intro _ _)
         | (clear_value x; revert x; intro _))
      | dsimp -zeta only | split | simp -zeta only [Kept.mk_iff])

theorem State.sendMarker_kept {κ : Fixed} {s : State} (c : Coord) (q : Nat) (hk : Kept κ s) :
    Kept κ (State.sendMarker s c q) := by
  unfold State.sendMarker
  repeat' (first
      | with_reducible assumption | with_reducible apply State.modOut_kept | with_reducible apply State.putBeat_kept
      | with_reducible apply State.linkLocal_kept | with_reducible apply Kept.ite | (intro _ _ _) | (intro _ _) | (intro _)
      | (extract_lets +onlyGivenNames x
         first
         | (refine Kept.cut (k := κ) (s := x) ?_ ?_; subst x; rotate_left; intro hx; clear_value x; revert x; intro _ _)
         | (clear_value x; revert x; intro _))
      | dsimp -zeta only | split | simp -zeta only [Kept.mk_iff])

theorem State.insertBeat_kept {κ : Fixed} {s : State} (c : Coord) (p : Nat) (hk : Kept κ s) :
    Kept κ (State.insertBeat s c p) := by
  unfold State.insertBeat
  repeat' (first
      | with_reducible assumption | with_reducible apply State.bump_kept | with_reducible apply State.modOut_kept
      | with_reducible apply State.sendCreditBeat_kept | with_reducible apply Kept.ite | (intro _ _ _) | (intro _ _) | (intro _)
      | (extract_lets +onlyGivenNames x
         first
         | (refine Kept.cut (k := κ) (s := x) ?_ ?_; subst x; rotate_left; intro hx; clear_value x; revert x; intro _ _)
         | (clear_value x; revert x; intro _))
      | dsimp -zeta only | split | simp -zeta only [Kept.mk_iff])

theorem State.betweenGusts_kept {κ : Fixed} {s : State} (c : Coord) (p : Nat) (hk : Kept κ s) :
    Kept κ (State.betweenGusts s c p) := by
  unfold State.betweenGusts
  repeat' (first
      | with_reducible assumption | with_reducible apply State.sendMarker_kept | with_reducible apply State.insertBeat_kept
      | with_reducible apply Kept.ite
      | (extract_lets +onlyGivenNames x
         first
         | (refine Kept.cut (k := κ) (s := x) ?_ ?_; subst x; rotate_left; intro hx; clear_value x; revert x; intro _ _)
         | (clear_value x; revert x; intro _))
      | dsimp -zeta only | split)

theorem State.pushUnits_kept {κ : Fixed} {s : State} (c : Coord) (p : Nat) (hk : Kept κ s) :
    Kept κ (State.pushUnits s c p) := by
  unfold State.pushUnits
  repeat' (first
      | with_reducible assumption | with_reducible apply State.countEvent_kept | with_reducible apply State.modLane_kept
      | with_reducible apply State.modOut_kept | with_reducible apply State.trimLane_kept | with_reducible apply State.sendUnit_kept
      | with_reducible apply State.arrive_kept | with_reducible apply State.betweenGusts_kept | with_reducible apply State.done_kept
      | with_reducible apply Kept.ite | with_reducible apply Kept.foldl | with_reducible apply Kept.foldl_fst
      | with_reducible apply Kept.foldl_snd | (intro _ _ _) | (intro _ _) | (intro _) | with_reducible apply KeptOpt.foldl
      | exact KeptOpt.of rfl (by with_reducible assumption) | exact KeptPair.of rfl (by with_reducible assumption)
      | with_reducible apply KeptOpt.ite | with_reducible refine KeptOpt.mapState ?_ (fun _ _ => ?_)
      | with_reducible refine KeptOpt.map (fun _ => ?_) | with_reducible apply KeptOpt.some | with_reducible exact KeptOpt.none
      | with_reducible apply KeptPair.ite | with_reducible apply KeptPair.some | with_reducible exact KeptPair.none
      | (extract_lets +onlyGivenNames x
         first
         | (refine Kept.cut (k := κ) (s := x) ?_ ?_; subst x; rotate_left; intro hx; clear_value x; revert x; intro _ _)
         | (refine KeptOpt.cut (k := κ) (o := x) ?_ ?_; subst x; rotate_left; intro hx; clear_value x; revert x; intro _ _)
         | (refine KeptPair.cut (k := κ) (o := x) ?_ ?_; subst x; rotate_left; intro hx; clear_value x; revert x; intro _ _)
         | (clear_value x; revert x; intro _))
      | dsimp -zeta only | split | simp -zeta only [Kept.mk_iff])

theorem State.tidyRouter_kept {κ : Fixed} {s : State} (c : Coord) (hk : Kept κ s) :
    Kept κ (State.tidyRouter s c) := by
  unfold State.tidyRouter
  repeat' (first
      | with_reducible assumption | with_reducible apply State.clocked_kept | with_reducible apply State.tidyLane_kept
      | with_reducible apply State.pushUnits_kept | with_reducible apply Kept.ite | with_reducible apply Kept.foldl
      | with_reducible apply Kept.foldl_fst | with_reducible apply Kept.foldl_snd | (intro _ _ _) | (intro _ _) | (intro _)
      | (extract_lets +onlyGivenNames x
         first
         | (refine Kept.cut (k := κ) (s := x) ?_ ?_; subst x; rotate_left; intro hx; clear_value x; revert x; intro _ _)
         | (clear_value x; revert x; intro _))
      | dsimp -zeta only | split)

theorem State.fillOpen_kept {κ : Fixed} {s : State} (c : Coord) (q : Nat) (l : Nat) (hk : Kept κ s) :
    Kept κ (State.fillOpen s c q l) := by
  unfold State.fillOpen
  repeat' (first
      | with_reducible assumption | with_reducible apply State.modLane_kept | with_reducible apply Kept.ite | (intro _ _ _)
      | (intro _ _) | (intro _) | exact KeptOpt.of rfl (by with_reducible assumption)
      | exact KeptPair.of rfl (by with_reducible assumption) | with_reducible apply KeptOpt.ite
      | with_reducible refine KeptOpt.mapState ?_ (fun _ _ => ?_) | with_reducible refine KeptOpt.map (fun _ => ?_)
      | with_reducible apply KeptOpt.some | with_reducible exact KeptOpt.none | with_reducible apply KeptPair.ite
      | with_reducible apply KeptPair.some | with_reducible exact KeptPair.none
      | (extract_lets +onlyGivenNames x
         first
         | (refine Kept.cut (k := κ) (s := x) ?_ ?_; subst x; rotate_left; intro hx; clear_value x; revert x; intro _ _)
         | (refine KeptOpt.cut (k := κ) (o := x) ?_ ?_; subst x; rotate_left; intro hx; clear_value x; revert x; intro _ _)
         | (refine KeptPair.cut (k := κ) (o := x) ?_ ?_; subst x; rotate_left; intro hx; clear_value x; revert x; intro _ _)
         | (clear_value x; revert x; intro _))
      | dsimp -zeta only | split | simp -zeta only [Kept.mk_iff])

theorem State.violation_kept {κ : Fixed} {s : State} (c : Coord) (q : Nat) (l : Option Nat) (hdr : Option Packet) (hk : Kept κ s) :
    Kept κ (State.violation s c q l hdr) := by
  unfold State.violation
  repeat' (first
      | with_reducible assumption | with_reducible apply State.modIn_kept | with_reducible apply State.modLane_kept
      | with_reducible apply State.strike_kept | with_reducible apply State.fillOpen_kept | with_reducible apply Kept.ite
      | with_reducible apply Kept.foldl | with_reducible apply Kept.foldl_fst | with_reducible apply Kept.foldl_snd | (intro _ _ _)
      | (intro _ _) | (intro _) | with_reducible apply KeptOpt.getD | with_reducible apply KeptOpt.foldl
      | exact KeptOpt.of rfl (by with_reducible assumption) | exact KeptPair.of rfl (by with_reducible assumption)
      | with_reducible apply KeptOpt.ite | with_reducible refine KeptOpt.mapState ?_ (fun _ _ => ?_)
      | with_reducible refine KeptOpt.map (fun _ => ?_) | with_reducible apply KeptOpt.some | with_reducible exact KeptOpt.none
      | with_reducible apply KeptPair.ite | with_reducible apply KeptPair.some | with_reducible exact KeptPair.none
      | (extract_lets +onlyGivenNames x
         first
         | (refine Kept.cut (k := κ) (s := x) ?_ ?_; subst x; rotate_left; intro hx; clear_value x; revert x; intro _ _)
         | (refine KeptOpt.cut (k := κ) (o := x) ?_ ?_; subst x; rotate_left; intro hx; clear_value x; revert x; intro _ _)
         | (refine KeptPair.cut (k := κ) (o := x) ?_ ?_; subst x; rotate_left; intro hx; clear_value x; revert x; intro _ _)
         | (clear_value x; revert x; intro _))
      | dsimp -zeta only | split | simp -zeta only [Kept.mk_iff])

theorem State.decodeUnit_kept {κ : Fixed} {s : State} (c : Coord) (cw : List Byte) (hk : Kept κ s) :
    Kept κ (State.decodeUnit s c cw).2.2 := by
  unfold State.decodeUnit
  repeat' (first
      | with_reducible assumption | with_reducible apply State.countEvent_kept | with_reducible apply State.wear_kept
      | with_reducible apply Kept.ite | with_reducible apply Kept.ite1 | with_reducible apply Kept.ite2
      | with_reducible apply Kept.ite3 | with_reducible apply Kept.ite4 | dsimp -zeta only | split)

theorem State.recvUnit_kept {κ : Fixed} {s : State} (c : Coord) (q : Nat) (l : Nat) (first : Bool) (last : Bool) (gust : Bool) (copy : Bool) (cw : List Byte) (hk : Kept κ s) :
    Kept κ (State.recvUnit s c q l first last gust copy cw) := by
  unfold State.recvUnit
  repeat' (first
      | with_reducible assumption | with_reducible apply State.bump_kept | with_reducible apply State.countEvent_kept
      | with_reducible apply State.modIn_kept | with_reducible apply State.modLane_kept | with_reducible apply State.strike_kept
      | with_reducible apply State.probe_kept | with_reducible apply State.headerWake_kept | with_reducible apply State.violation_kept
      | with_reducible apply State.decodeUnit_kept | with_reducible apply Kept.ite | (intro _ _ _) | (intro _ _) | (intro _)
      | refine Kept.of_snd (by with_reducible assumption) ?_ | refine Kept.of_fst (by with_reducible assumption) ?_
      | refine Kept.of_snd2 (by with_reducible assumption) ?_ | with_reducible apply KeptOpt.getD
      | exact KeptOpt.of rfl (by with_reducible assumption) | exact KeptPair.of rfl (by with_reducible assumption)
      | with_reducible apply KeptOpt.ite | with_reducible refine KeptOpt.mapState ?_ (fun _ _ => ?_)
      | with_reducible refine KeptOpt.map (fun _ => ?_) | with_reducible apply KeptOpt.some | with_reducible exact KeptOpt.none
      | with_reducible apply KeptPair.ite | with_reducible apply KeptPair.some | with_reducible exact KeptPair.none
      | (extract_lets +onlyGivenNames x
         first
         | (refine Kept.cut (k := κ) (s := x) ?_ ?_; subst x; rotate_left; intro hx; clear_value x; revert x; intro _ _)
         | (refine Kept.cut1 (k := κ) (s := x) ?_ ?_; subst x; rotate_left; intro hx; clear_value x; revert x; intro _ _)
         | (refine Kept.cut4 (k := κ) (s := x) ?_ ?_; subst x; rotate_left; intro hx; clear_value x; revert x; intro _ _)
         | (refine Kept.cut3 (k := κ) (s := x) ?_ ?_; subst x; rotate_left; intro hx; clear_value x; revert x; intro _ _)
         | (refine Kept.cut2 (k := κ) (s := x) ?_ ?_; subst x; rotate_left; intro hx; clear_value x; revert x; intro _ _)
         | (refine KeptOpt.cut (k := κ) (o := x) ?_ ?_; subst x; rotate_left; intro hx; clear_value x; revert x; intro _ _)
         | (refine KeptPair.cut (k := κ) (o := x) ?_ ?_; subst x; rotate_left; intro hx; clear_value x; revert x; intro _ _)
         | (clear_value x; revert x; intro _))
      | dsimp -zeta only | split | simp -zeta only [Kept.mk_iff])

theorem State.beatCore_kept {κ : Fixed} {s : State} (c : Coord) (q : Nat) (cw : List Byte) (side : Nat) (copy : Bool) (hk : Kept κ s) :
    Kept κ (State.beatCore s c q cw side copy) := by
  unfold State.beatCore
  repeat' (first
      | with_reducible assumption | with_reducible apply State.startSync_kept | with_reducible apply State.takeCreditBeat_kept
      | with_reducible apply State.violation_kept | with_reducible apply State.recvUnit_kept | with_reducible apply Kept.ite
      | exact KeptOpt.of rfl (by with_reducible assumption) | exact KeptPair.of rfl (by with_reducible assumption)
      | with_reducible apply KeptOpt.ite | with_reducible refine KeptOpt.mapState ?_ (fun _ _ => ?_)
      | with_reducible refine KeptOpt.map (fun _ => ?_) | with_reducible apply KeptOpt.some | with_reducible exact KeptOpt.none
      | with_reducible apply KeptPair.ite | with_reducible apply KeptPair.some | with_reducible exact KeptPair.none
      | (extract_lets +onlyGivenNames x
         first
         | (refine Kept.cut (k := κ) (s := x) ?_ ?_; subst x; rotate_left; intro hx; clear_value x; revert x; intro _ _)
         | (refine KeptOpt.cut (k := κ) (o := x) ?_ ?_; subst x; rotate_left; intro hx; clear_value x; revert x; intro _ _)
         | (refine KeptPair.cut (k := κ) (o := x) ?_ ?_; subst x; rotate_left; intro hx; clear_value x; revert x; intro _ _)
         | (clear_value x; revert x; intro _))
      | dsimp -zeta only | split)

theorem State.noStrikes_kept {κ : Fixed} {s : State} (after : State) (b : FaultBlock) (hafter : Kept κ after) (hk : Kept κ s) :
    Kept κ (State.noStrikes s after b) := by
  unfold State.noStrikes
  repeat' (first
      | with_reducible assumption | with_reducible apply hafter | with_reducible apply State.setReg_kept
      | with_reducible apply State.after_kept | with_reducible apply Kept.ite | (intro _ _ _) | (intro _ _) | (intro _)
      | (extract_lets +onlyGivenNames x
         first
         | (refine Kept.cut (k := κ) (s := x) ?_ ?_; subst x; rotate_left; intro hx; clear_value x; revert x; intro _ _)
         | (subst x))
      | dsimp -zeta only | split | simp -zeta only [Kept.mk_iff])

theorem State.recvBeat_kept {κ : Fixed} {s : State} (c : Coord) (q : Nat) (cw : List Byte) (side : Nat) (copy : Bool) (hk : Kept κ s) :
    Kept κ (State.recvBeat s c q cw side copy) := by
  unfold State.recvBeat
  repeat' (first
      | with_reducible assumption | with_reducible apply State.takeInject_kept | with_reducible apply State.modLane_kept
      | with_reducible apply State.memInject_kept | with_reducible apply State.beatCore_kept
      | with_reducible apply State.noStrikes_kept | with_reducible apply Kept.ite | (intro _ _ _) | (intro _ _) | (intro _)
      | refine Kept.of_snd (by with_reducible assumption) ?_ | refine Kept.of_fst (by with_reducible assumption) ?_
      | refine KeptPair.of (by with_reducible assumption) ?_ | with_reducible apply KeptOpt.getD
      | exact KeptOpt.of rfl (by with_reducible assumption) | exact KeptPair.of rfl (by with_reducible assumption)
      | with_reducible apply KeptOpt.ite | with_reducible refine KeptOpt.mapState ?_ (fun _ _ => ?_)
      | with_reducible refine KeptOpt.map (fun _ => ?_) | with_reducible apply KeptOpt.some | with_reducible exact KeptOpt.none
      | with_reducible apply KeptPair.ite | with_reducible apply KeptPair.some | with_reducible exact KeptPair.none
      | (extract_lets +onlyGivenNames x
         first
         | (refine Kept.cut (k := κ) (s := x) ?_ ?_; subst x; rotate_left; intro hx; clear_value x; revert x; intro _ _)
         | (refine Kept.cut1 (k := κ) (s := x) ?_ ?_; subst x; rotate_left; intro hx; clear_value x; revert x; intro _ _)
         | (refine Kept.cut2 (k := κ) (s := x) ?_ ?_; subst x; rotate_left; intro hx; clear_value x; revert x; intro _ _)
         | (refine KeptOpt.cut (k := κ) (o := x) ?_ ?_; subst x; rotate_left; intro hx; clear_value x; revert x; intro _ _)
         | (refine KeptPair.cut (k := κ) (o := x) ?_ ?_; subst x; rotate_left; intro hx; clear_value x; revert x; intro _ _)
         | (clear_value x; revert x; intro _))
      | dsimp -zeta only | split | simp -zeta only [Kept.mk_iff])

theorem State.modPermit_kept {κ : Fixed} {s : State} (c : Coord) (f : Permit → Permit) (hk : Kept κ s) :
    Kept κ (State.modPermit s c f) := by
  unfold State.modPermit
  repeat' (first
      | with_reducible assumption | with_reducible apply State.modField_kept | with_reducible apply Kept.ite | (intro _ _ _)
      | (intro _ _) | (intro _) | dsimp -zeta only | split | simp -zeta only [Kept.mk_iff])

theorem State.markClaims_kept {κ : Fixed} {s : State} (c : Coord) (p : Nat) (l : List Cand) (power : Bool) (hk : Kept κ s) :
    Kept κ (State.markClaims s c p l power) := by
  unfold State.markClaims
  repeat' (first
      | with_reducible assumption | with_reducible apply State.modField_kept | with_reducible apply State.modOut_kept
      | with_reducible apply Kept.ite | with_reducible apply Kept.foldl | with_reducible apply Kept.foldl_fst
      | with_reducible apply Kept.foldl_snd | (intro _ _ _) | (intro _ _) | (intro _)
      | (extract_lets +onlyGivenNames x
         first
         | (refine Kept.cut (k := κ) (s := x) ?_ ?_; subst x; rotate_left; intro hx; clear_value x; revert x; intro _ _)
         | (clear_value x; revert x; intro _))
      | dsimp -zeta only | split | simp -zeta only [Kept.mk_iff])

theorem State.account_kept {κ : Fixed} {s : State} (c : Coord) (p : Nat) (x : Cand) (claim : Bool) (sat : Bool) (hk : Kept κ s) :
    Kept κ (State.account s c p x claim sat) := by
  unfold State.account
  repeat' (first
      | with_reducible assumption | with_reducible apply State.bump_kept | with_reducible apply State.modField_kept
      | with_reducible apply State.countEvent_kept | with_reducible apply State.modOut_kept | with_reducible apply Kept.ite
      | (intro _ _ _) | (intro _ _) | (intro _)
      | (extract_lets +onlyGivenNames x
         first
         | (refine Kept.cut (k := κ) (s := x) ?_ ?_; subst x; rotate_left; intro hx; clear_value x; revert x; intro _ _)
         | (clear_value x; revert x; intro _))
      | dsimp -zeta only | split | simp -zeta only [Kept.mk_iff])

theorem State.chargeGust_kept {κ : Fixed} {s : State} (c : Coord) (p : Nat) (x : Cand) (claim : Bool) (hk : Kept κ s) :
    Kept κ (State.chargeGust s c p x claim) := by
  unfold State.chargeGust
  repeat' (first
      | with_reducible assumption | with_reducible apply State.modPermit_kept | with_reducible apply Kept.ite | (intro _ _ _)
      | (intro _ _) | (intro _)
      | (extract_lets +onlyGivenNames x
         first
         | (refine Kept.cut (k := κ) (s := x) ?_ ?_; subst x; rotate_left; intro hx; clear_value x; revert x; intro _ _)
         | (clear_value x; revert x; intro _))
      | dsimp -zeta only | split | simp -zeta only [Kept.mk_iff])

theorem State.noteDue_kept {κ : Fixed} {s : State} (c : Coord) (hdr : Nat) (hk : Kept κ s) :
    Kept κ (State.noteDue s c hdr) := by
  unfold State.noteDue
  repeat' (first
      | with_reducible assumption | with_reducible apply State.modRtr_kept | with_reducible apply Kept.ite | (intro _ _ _)
      | (intro _ _) | (intro _) | dsimp -zeta only | split | simp -zeta only [Kept.mk_iff])

theorem State.startGust_kept {κ : Fixed} {s : State} (c : Coord) (p : Nat) (x : Cand) (hk : Kept κ s) :
    Kept κ (State.startGust s c p x) := by
  unfold State.startGust
  repeat' (first
      | with_reducible assumption | with_reducible apply State.bump_kept | with_reducible apply State.countEvent_kept
      | with_reducible apply State.ringEvent_kept | with_reducible apply State.modLane_kept | with_reducible apply State.modOut_kept
      | with_reducible apply State.probe_kept | with_reducible apply State.tidyLane_kept | with_reducible apply State.pushUnits_kept
      | with_reducible apply State.noteDue_kept | with_reducible apply Kept.ite | (intro _ _ _) | (intro _ _) | (intro _)
      | exact KeptOpt.of rfl (by with_reducible assumption) | exact KeptPair.of rfl (by with_reducible assumption)
      | with_reducible apply KeptOpt.ite | with_reducible refine KeptOpt.mapState ?_ (fun _ _ => ?_)
      | with_reducible refine KeptOpt.map (fun _ => ?_) | with_reducible apply KeptOpt.some | with_reducible exact KeptOpt.none
      | with_reducible apply KeptPair.ite | with_reducible apply KeptPair.some | with_reducible exact KeptPair.none
      | (extract_lets +onlyGivenNames x
         first
         | (refine Kept.cut (k := κ) (s := x) ?_ ?_; subst x; rotate_left; intro hx; clear_value x; revert x; intro _ _)
         | (refine KeptOpt.cut (k := κ) (o := x) ?_ ?_; subst x; rotate_left; intro hx; clear_value x; revert x; intro _ _)
         | (refine KeptPair.cut (k := κ) (o := x) ?_ ?_; subst x; rotate_left; intro hx; clear_value x; revert x; intro _ _)
         | (clear_value x; revert x; intro _))
      | dsimp -zeta only | split | simp -zeta only [Kept.mk_iff])

theorem State.deny_kept {κ : Fixed} {s : State} (c : Coord) (p : Nat) (l : List Cand) (hk : Kept κ s) :
    Kept κ (State.deny s c p l) := by
  unfold State.deny
  repeat' (first
      | with_reducible assumption | with_reducible apply State.modPermit_kept | with_reducible apply Kept.ite
      | with_reducible apply Kept.foldl | with_reducible apply Kept.foldl_fst | with_reducible apply Kept.foldl_snd | (intro _ _ _)
      | (intro _ _) | (intro _)
      | (extract_lets +onlyGivenNames x
         first
         | (refine Kept.cut (k := κ) (s := x) ?_ ?_; subst x; rotate_left; intro hx; clear_value x; revert x; intro _ _)
         | (clear_value x; revert x; intro _))
      | dsimp -zeta only | split | simp -zeta only [Kept.mk_iff])

theorem State.grantGust_kept {κ : Fixed} {s : State} (c : Coord) (p : Nat) (l : List Cand) (x : Cand) (claim : Bool) (sat : Bool) (hk : Kept κ s) :
    Kept κ (State.grantGust s c p l x claim sat) := by
  unfold State.grantGust
  repeat' (first
      | with_reducible assumption | with_reducible apply State.modOut_kept | with_reducible apply State.noteStop_kept
      | with_reducible apply State.markClaims_kept | with_reducible apply State.account_kept
      | with_reducible apply State.chargeGust_kept | with_reducible apply State.startGust_kept | with_reducible apply Kept.ite
      | (intro _ _ _) | (intro _ _) | (intro _)
      | (extract_lets +onlyGivenNames x
         first
         | (refine Kept.cut (k := κ) (s := x) ?_ ?_; subst x; rotate_left; intro hx; clear_value x; revert x; intro _ _)
         | (clear_value x; revert x; intro _))
      | dsimp -zeta only | split)

theorem State.sampleOut_kept {κ : Fixed} {s : State} (c : Coord) (p : Nat) (hk : Kept κ s) :
    Kept κ (State.sampleOut s c p) := by
  unfold State.sampleOut
  repeat' (first
      | with_reducible assumption | with_reducible apply State.modOut_kept | with_reducible apply Kept.ite | (intro _ _ _)
      | (intro _ _) | (intro _)
      | (extract_lets +onlyGivenNames x
         first
         | (refine Kept.cut (k := κ) (s := x) ?_ ?_; subst x; rotate_left; intro hx; clear_value x; revert x; intro _ _)
         | (clear_value x; revert x; intro _))
      | dsimp -zeta only | split | simp -zeta only [Kept.mk_iff])

theorem State.noteWaits_kept {κ : Fixed} {s : State} (c : Coord) (p : Nat) (hk : Kept κ s) :
    Kept κ (State.noteWaits s c p) := by
  unfold State.noteWaits
  repeat' (first
      | with_reducible assumption | with_reducible apply State.countEvent_kept | with_reducible apply State.markClaims_kept
      | with_reducible apply State.deny_kept | with_reducible apply Kept.ite | (intro _ _ _) | (intro _ _) | (intro _)
      | (extract_lets +onlyGivenNames x
         first
         | (refine Kept.cut (k := κ) (s := x) ?_ ?_; subst x; rotate_left; intro hx; clear_value x; revert x; intro _ _)
         | (subst x))
      | dsimp -zeta only | split)

theorem State.lookahead_kept {κ : Fixed} {s : State} (c : Coord) (p : Nat) (hk : Kept κ s) :
    Kept κ (State.lookahead s c p) := by
  unfold State.lookahead
  repeat' (first
      | with_reducible assumption | with_reducible apply State.bump_kept | with_reducible apply State.modOut_kept
      | with_reducible apply State.grantGust_kept | with_reducible apply State.sampleOut_kept
      | with_reducible apply State.noteWaits_kept | with_reducible apply Kept.ite | (intro _ _ _) | (intro _ _) | (intro _)
      | exact KeptOpt.of rfl (by with_reducible assumption) | exact KeptPair.of rfl (by with_reducible assumption)
      | with_reducible apply KeptOpt.ite | with_reducible refine KeptOpt.mapState ?_ (fun _ _ => ?_)
      | with_reducible refine KeptOpt.map (fun _ => ?_) | with_reducible apply KeptOpt.some | with_reducible exact KeptOpt.none
      | with_reducible apply KeptPair.ite | with_reducible apply KeptPair.some | with_reducible exact KeptPair.none
      | (extract_lets +onlyGivenNames x
         first
         | (refine Kept.cut (k := κ) (s := x) ?_ ?_; subst x; rotate_left; intro hx; clear_value x; revert x; intro _ _)
         | (refine KeptOpt.cut (k := κ) (o := x) ?_ ?_; subst x; rotate_left; intro hx; clear_value x; revert x; intro _ _)
         | (refine KeptPair.cut (k := κ) (o := x) ?_ ?_; subst x; rotate_left; intro hx; clear_value x; revert x; intro _ _)
         | (clear_value x; revert x; intro _))
      | dsimp -zeta only | split | with_reducible refine Kept.mk_time ?_ (Nat.le_max_left _ _)
      | with_reducible refine Kept.mk_time ?_ (Nat.le_add_right _ _) | simp -zeta only [Kept.mk_iff])

theorem State.tailBeat_kept {κ : Fixed} {s : State} (c : Coord) (p : Nat) (hk : Kept κ s) :
    Kept κ (State.tailBeat s c p) := by
  unfold State.tailBeat
  repeat' (first
      | with_reducible assumption | with_reducible apply State.grantGust_kept | with_reducible apply State.noteWaits_kept
      | with_reducible apply Kept.ite | (intro _ _ _) | (intro _ _) | (intro _) | exact KeptOpt.of rfl (by with_reducible assumption)
      | exact KeptPair.of rfl (by with_reducible assumption) | with_reducible apply KeptOpt.ite
      | with_reducible refine KeptOpt.mapState ?_ (fun _ _ => ?_) | with_reducible refine KeptOpt.map (fun _ => ?_)
      | with_reducible apply KeptOpt.some | with_reducible exact KeptOpt.none | with_reducible apply KeptPair.ite
      | with_reducible apply KeptPair.some | with_reducible exact KeptPair.none
      | (extract_lets +onlyGivenNames x
         first
         | (refine Kept.cut (k := κ) (s := x) ?_ ?_; subst x; rotate_left; intro hx; clear_value x; revert x; intro _ _)
         | (refine KeptOpt.cut (k := κ) (o := x) ?_ ?_; subst x; rotate_left; intro hx; clear_value x; revert x; intro _ _)
         | (refine KeptPair.cut (k := κ) (o := x) ?_ ?_; subst x; rotate_left; intro hx; clear_value x; revert x; intro _ _)
         | (clear_value x; revert x; intro _))
      | dsimp -zeta only | split)

theorem State.gustDecision_kept {κ : Fixed} {s : State} (c : Coord) (p : Nat) (hk : Kept κ s) :
    Kept κ (State.gustDecision s c p) := by
  unfold State.gustDecision
  repeat' (first
      | with_reducible assumption | with_reducible apply State.lookahead_kept | with_reducible apply State.tailBeat_kept
      | with_reducible apply Kept.ite | dsimp -zeta only | split)

theorem State.inject_kept {κ : Fixed} {s : State} (c : Coord) (p : Packet) (hk : Kept κ s) :
    Kept κ (State.inject s c p) := by
  unfold State.inject
  repeat' (first
      | with_reducible assumption | with_reducible apply State.countEvent_kept | with_reducible apply State.takeInject_kept
      | with_reducible apply State.modLane_kept | with_reducible apply State.probe_kept | with_reducible apply Kept.ite
      | (intro _ _ _) | (intro _ _) | (intro _) | refine Kept.of_snd (by with_reducible assumption) ?_
      | refine Kept.of_fst (by with_reducible assumption) ?_ | refine KeptPair.of (by with_reducible assumption) ?_
      | exact KeptOpt.of rfl (by with_reducible assumption) | exact KeptPair.of rfl (by with_reducible assumption)
      | with_reducible apply KeptOpt.ite | with_reducible refine KeptOpt.mapState ?_ (fun _ _ => ?_)
      | with_reducible refine KeptOpt.map (fun _ => ?_) | with_reducible apply KeptOpt.some | with_reducible exact KeptOpt.none
      | with_reducible apply KeptPair.ite | with_reducible apply KeptPair.some | with_reducible exact KeptPair.none
      | (extract_lets +onlyGivenNames x
         first
         | (refine Kept.cut (k := κ) (s := x) ?_ ?_; subst x; rotate_left; intro hx; clear_value x; revert x; intro _ _)
         | (refine Kept.cut1 (k := κ) (s := x) ?_ ?_; subst x; rotate_left; intro hx; clear_value x; revert x; intro _ _)
         | (refine Kept.cut2 (k := κ) (s := x) ?_ ?_; subst x; rotate_left; intro hx; clear_value x; revert x; intro _ _)
         | (refine KeptOpt.cut (k := κ) (o := x) ?_ ?_; subst x; rotate_left; intro hx; clear_value x; revert x; intro _ _)
         | (refine KeptPair.cut (k := κ) (o := x) ?_ ?_; subst x; rotate_left; intro hx; clear_value x; revert x; intro _ _)
         | (clear_value x; revert x; intro _))
      | dsimp -zeta only | split | simp -zeta only [Kept.mk_iff])

theorem State.retract_kept {κ : Fixed} {s : State} (c : Coord) (l : Nat) (which : Packet → Bool) (hk : Kept κ s) :
    Kept κ (State.retract s c l which).1 := by
  unfold State.retract
  repeat' (first
      | with_reducible assumption | with_reducible apply State.modCell_kept | with_reducible apply State.modLane_kept
      | with_reducible apply Kept.ite | with_reducible apply Kept.foldl | with_reducible apply Kept.foldl_fst
      | with_reducible apply Kept.foldl_snd | with_reducible apply Kept.ite1 | with_reducible apply Kept.ite2 | (intro _ _ _)
      | (intro _ _) | (intro _)
      | (extract_lets +onlyGivenNames x
         first
         | (refine Kept.cut (k := κ) (s := x) ?_ ?_; subst x; rotate_left; intro hx; clear_value x; revert x; intro _ _)
         | (refine Kept.cut1 (k := κ) (s := x) ?_ ?_; subst x; rotate_left; intro hx; clear_value x; revert x; intro _ _)
         | (refine Kept.cut2 (k := κ) (s := x) ?_ ?_; subst x; rotate_left; intro hx; clear_value x; revert x; intro _ _)
         | (subst x))
      | dsimp -zeta only | split | simp -zeta only [Kept.mk_iff])

theorem State.dropQueued_kept {κ : Fixed} {s : State} (c : Coord) (r : SrcRsv) (hk : Kept κ s) :
    Kept κ (State.dropQueued s c r) := by
  unfold State.dropQueued
  repeat' (first
      | with_reducible assumption | with_reducible apply State.modCell_kept | with_reducible apply State.retract_kept
      | with_reducible apply Kept.ite | with_reducible apply Kept.foldl | with_reducible apply Kept.foldl_fst
      | with_reducible apply Kept.foldl_snd | (intro _ _ _) | (intro _ _) | (intro _)
      | refine Kept.of_snd (by with_reducible assumption) ?_ | refine Kept.of_fst (by with_reducible assumption) ?_
      | (extract_lets +onlyGivenNames x
         first
         | (refine Kept.cut (k := κ) (s := x) ?_ ?_; subst x; rotate_left; intro hx; clear_value x; revert x; intro _ _)
         | (refine Kept.cut1 (k := κ) (s := x) ?_ ?_; subst x; rotate_left; intro hx; clear_value x; revert x; intro _ _)
         | (refine Kept.cut2 (k := κ) (s := x) ?_ ?_; subst x; rotate_left; intro hx; clear_value x; revert x; intro _ _)
         | (subst x))
      | dsimp -zeta only | split | simp -zeta only [Kept.mk_iff])

theorem State.injectOut_kept {κ : Fixed} {s : State} (c : Coord) (p : Packet) (flow : Nat) (own : Bool) (hk : Kept κ s) :
    Kept κ (State.injectOut s c p flow own) := by
  unfold State.injectOut
  repeat' (first
      | with_reducible assumption | with_reducible apply State.modCell_kept | with_reducible apply State.inject_kept
      | with_reducible apply Kept.ite | (intro _ _ _) | (intro _ _) | (intro _)
      | (extract_lets +onlyGivenNames x
         first
         | (refine Kept.cut (k := κ) (s := x) ?_ ?_; subst x; rotate_left; intro hx; clear_value x; revert x; intro _ _)
         | (clear_value x; revert x; intro _))
      | dsimp -zeta only | split | simp -zeta only [Kept.mk_iff])

theorem State.sendPkt_kept {κ : Fixed} {s : State} (c : Coord) (p : Packet) (own : Bool) (hk : Kept κ s) :
    Kept κ (State.sendPkt s c p own) := by
  unfold State.sendPkt
  repeat' (first
      | with_reducible assumption | with_reducible apply State.bump_kept | with_reducible apply State.modCell_kept
      | with_reducible apply State.inject_kept | with_reducible apply State.injectOut_kept | with_reducible apply Kept.ite
      | (intro _ _ _) | (intro _ _) | (intro _) | dsimp -zeta only | split | simp -zeta only [Kept.mk_iff])

theorem State.accounted_kept {κ : Fixed} {s : State} (c : Coord) (tag : Nat) (rsv : Option Nat) (controlOnly : Bool) (hk : Kept κ s) :
    Kept κ (State.accounted s c tag rsv controlOnly) := by
  unfold State.accounted
  repeat' (first
      | with_reducible assumption | with_reducible apply State.modCell_kept | with_reducible apply Kept.ite | (intro _ _ _)
      | (intro _ _) | (intro _) | dsimp -zeta only | split | simp -zeta only [Kept.mk_iff])

theorem State.restartTimer_kept {κ : Fixed} {s : State} (c : Coord) (which : SrcRsv → Bool) (hk : Kept κ s) :
    Kept κ (State.restartTimer s c which) := by
  unfold State.restartTimer
  repeat' (first
      | with_reducible assumption | with_reducible apply State.modCell_kept | with_reducible apply Kept.ite | (intro _ _ _)
      | (intro _ _) | (intro _)
      | (extract_lets +onlyGivenNames x
         first
         | (refine Kept.cut (k := κ) (s := x) ?_ ?_; subst x; rotate_left; intro hx; clear_value x; revert x; intro _ _)
         | (clear_value x; revert x; intro _))
      | dsimp -zeta only | split | simp -zeta only [Kept.mk_iff])

theorem State.releaseHeld_kept {κ : Fixed} {s : State} (c : Coord) (hk : Kept κ s) :
    Kept κ (State.releaseHeld s c) := by
  unfold State.releaseHeld
  repeat' (first
      | with_reducible assumption | with_reducible apply State.modCell_kept | with_reducible apply State.inject_kept
      | with_reducible apply State.injectOut_kept | with_reducible apply State.restartTimer_kept | with_reducible apply Kept.ite
      | with_reducible apply Kept.foldl | with_reducible apply Kept.foldl_fst | with_reducible apply Kept.foldl_snd
      | with_reducible apply Kept.ite1 | with_reducible apply Kept.ite2 | (intro _ _ _) | (intro _ _) | (intro _)
      | refine Kept.of_snd (by with_reducible assumption) ?_ | refine Kept.of_fst (by with_reducible assumption) ?_
      | with_reducible apply KeptOpt.foldl | exact KeptOpt.of rfl (by with_reducible assumption)
      | exact KeptPair.of rfl (by with_reducible assumption) | with_reducible apply KeptOpt.ite
      | with_reducible refine KeptOpt.mapState ?_ (fun _ _ => ?_) | with_reducible refine KeptOpt.map (fun _ => ?_)
      | with_reducible apply KeptOpt.some | with_reducible exact KeptOpt.none | with_reducible apply KeptPair.ite
      | with_reducible apply KeptPair.some | with_reducible exact KeptPair.none
      | (extract_lets +onlyGivenNames x
         first
         | (refine Kept.cut (k := κ) (s := x) ?_ ?_; subst x; rotate_left; intro hx; clear_value x; revert x; intro _ _)
         | (refine Kept.cut1 (k := κ) (s := x) ?_ ?_; subst x; rotate_left; intro hx; clear_value x; revert x; intro _ _)
         | (refine Kept.cut2 (k := κ) (s := x) ?_ ?_; subst x; rotate_left; intro hx; clear_value x; revert x; intro _ _)
         | (refine KeptOpt.cut (k := κ) (o := x) ?_ ?_; subst x; rotate_left; intro hx; clear_value x; revert x; intro _ _)
         | (refine KeptPair.cut (k := κ) (o := x) ?_ ?_; subst x; rotate_left; intro hx; clear_value x; revert x; intro _ _)
         | (clear_value x; revert x; intro _))
      | dsimp -zeta only | split | simp -zeta only [Kept.mk_iff])

theorem State.dropCopies_kept {κ : Fixed} {s : State} (c : Coord) (typ : Nat) (tag : Nat) (mid : Nat) (hk : Kept κ s) :
    Kept κ (State.dropCopies s c typ tag mid) := by
  unfold State.dropCopies
  repeat' (first
      | with_reducible assumption | with_reducible apply Kept.ite | (intro _ _ _) | (intro _ _) | (intro _) | dsimp -zeta only | split
      | simp -zeta only [Kept.mk_iff])

end Sys2Proof.Machine
end

