-- ==== Sys2Proof/Laws/KeptFaultOps.lean ====
section
/-! SUPPORT. Every operation of Machine/FaultOps.lean keeps the build, the queue and the canonical form. -/

namespace Sys2Proof.Machine

set_option linter.all false

theorem State.strikeOr_kept {κ : Fixed} {s : State} (noStrike : Bool) (b : FaultBlock) (cause : Nat) (whr : Nat) (detail : Nat) (hk : Kept κ s) :
    Kept κ (State.strikeOr s noStrike b cause whr detail) := by
  unfold State.strikeOr
  repeat' (first
      | with_reducible assumption | with_reducible apply State.faultEvent_kept | with_reducible apply State.strike_kept
      | with_reducible apply Kept.ite | dsimp -zeta only | split)

theorem State.drainStart_kept {κ : Fixed} {s : State} (hk : Kept κ s) :
    Kept κ (State.drainStart s) := by
  unfold State.drainStart
  repeat' (first
      | with_reducible assumption | with_reducible apply State.setReg_kept | with_reducible apply State.faultLive_kept
      | with_reducible apply Kept.ite
      | (extract_lets +onlyGivenNames x
         first
         | (refine Kept.cut (k := κ) (s := x) ?_ ?_; subst x; rotate_left; intro hx; clear_value x; revert x; intro _ _)
         | (clear_value x; revert x; intro _))
      | dsimp -zeta only | split | simp -zeta only [Kept.mk_iff])

theorem State.suspect_kept {κ : Fixed} {s : State} (cause : Nat) (hk : Kept κ s) :
    Kept κ (State.suspect s cause) := by
  unfold State.suspect
  repeat' (first
      | with_reducible assumption | with_reducible apply State.setReg_kept | with_reducible apply State.faultEvent_kept
      | with_reducible apply State.faultLive_kept | with_reducible apply State.drainStart_kept | with_reducible apply Kept.ite
      | (extract_lets +onlyGivenNames x
         first
         | (refine Kept.cut (k := κ) (s := x) ?_ ?_; subst x; rotate_left; intro hx; clear_value x; revert x; intro _ _)
         | (clear_value x; revert x; intro _))
      | dsimp -zeta only | split)

end Sys2Proof.Machine
end

