-- ==== Sys2Proof/Laws/KeptBulkOps.lean ====
section
/-! SUPPORT. Every operation of Machine/BulkOps.lean keeps the build, the queue and the canonical form. -/

namespace Sys2Proof.Machine

set_option linter.all false

theorem State.writeCheck_kept {κ : Fixed} {s : State} (c : Coord) (a : Nat) (v : Nat) (hk : Kept κ s) :
    Kept κ (State.writeCheck s c a v) := by
  unfold State.writeCheck
  repeat' (first
      | with_reducible assumption | with_reducible apply State.memWrite_kept | with_reducible apply Kept.ite | dsimp -zeta only
      | split)

theorem State.recheck_kept {κ : Fixed} {s : State} (c : Coord) (a : Nat) (n : Nat) (hk : Kept κ s) :
    Kept κ (State.recheck s c a n) := by
  unfold State.recheck
  repeat' (first
      | with_reducible assumption | with_reducible apply State.writeCheck_kept | with_reducible apply Kept.ite
      | with_reducible apply Kept.foldl | with_reducible apply Kept.foldl_fst | with_reducible apply Kept.foldl_snd | (intro _ _ _)
      | (intro _ _) | (intro _) | dsimp -zeta only | split)

theorem State.modLanding_kept {κ : Fixed} {s : State} (x : Site) (f : Landing → Landing) (hk : Kept κ s) :
    Kept κ (State.modLanding s x f) := by
  unfold State.modLanding
  repeat' (first
      | with_reducible assumption | with_reducible apply State.modCell_kept | with_reducible apply State.modDrop_kept
      | with_reducible apply Kept.ite | (intro _ _ _) | (intro _ _) | (intro _) | dsimp -zeta only | split
      | simp -zeta only [Kept.mk_iff])

theorem State.bumpLanding_kept {κ : Fixed} {s : State} (x : Site) (sub : Nat) (hk : Kept κ s) :
    Kept κ (State.bumpLanding s x sub) := by
  unfold State.bumpLanding
  repeat' (first
      | with_reducible assumption | with_reducible apply State.bump_kept | with_reducible apply Kept.ite | dsimp -zeta only | split)

theorem State.enterQueue_kept {κ : Fixed} {s : State} (x : Site) (q : LReq) (hk : Kept κ s) :
    Kept κ (State.enterQueue s x q) := by
  unfold State.enterQueue
  repeat' (first
      | with_reducible assumption | with_reducible apply State.modLanding_kept | with_reducible apply Kept.ite | (intro _ _ _)
      | (intro _ _) | (intro _) | dsimp -zeta only | split | simp -zeta only [Kept.mk_iff])

theorem State.reserveReceive_kept {κ : Fixed} {s : State} (x : Site) (kind : LKind) (p : Packet) (t : TransferTail) (hk : Kept κ s) :
    Kept κ (State.reserveReceive s x kind p t) := by
  unfold State.reserveReceive
  repeat' (first
      | with_reducible assumption | with_reducible apply State.takePkt_kept | with_reducible apply State.raiseNack_kept
      | with_reducible apply State.enterQueue_kept | with_reducible apply Kept.ite
      | (extract_lets +onlyGivenNames x
         first
         | (refine Kept.cut (k := κ) (s := x) ?_ ?_; subst x; rotate_left; intro hx; clear_value x; revert x; intro _ _)
         | (clear_value x; revert x; intro _))
      | dsimp -zeta only | split)

theorem State.sendGrant_kept {κ : Fixed} {s : State} (x : Site) (r : LRsv) (hk : Kept κ s) :
    Kept κ (State.sendGrant s x r) := by
  unfold State.sendGrant
  repeat' (first
      | with_reducible assumption | with_reducible apply State.sendPkt_kept | with_reducible apply Kept.ite
      | (extract_lets +onlyGivenNames x
         first
         | (refine Kept.cut (k := κ) (s := x) ?_ ?_; subst x; rotate_left; intro hx; clear_value x; revert x; intro _ _)
         | (clear_value x; revert x; intro _))
      | dsimp -zeta only | split)

theorem State.mresAnswer_kept {κ : Fixed} {s : State} (c : Coord) (g : MresGrant) (phase : Nat) (reasons : Nat) (ok : Nat) (fail : Nat) (hk : Kept κ s) :
    Kept κ (State.mresAnswer s c g phase reasons ok fail) := by
  unfold State.mresAnswer
  repeat' (first
      | with_reducible assumption | with_reducible apply State.sendSig_kept | with_reducible apply Kept.ite | dsimp -zeta only | split)

theorem State.latePkt_kept {κ : Fixed} {s : State} (x : Site) (p : Packet) (off : Nat) (nack : Bool) (hk : Kept κ s) :
    Kept κ (State.latePkt s x p off nack) := by
  unfold State.latePkt
  repeat' (first
      | with_reducible assumption | with_reducible apply State.takePkt_kept | with_reducible apply State.raiseNack_kept
      | with_reducible apply State.bumpLanding_kept | with_reducible apply Kept.ite
      | (extract_lets +onlyGivenNames x
         first
         | (refine Kept.cut (k := κ) (s := x) ?_ ?_; subst x; rotate_left; intro hx; clear_value x; revert x; intro _ _)
         | (clear_value x; revert x; intro _))
      | dsimp -zeta only | split)

theorem State.noteSpan_kept {κ : Fixed} {s : State} (c : Coord) (r : LRsv) (base : Nat) (a : Nat) (n : Nat) (fin : Bool) (hk : Kept κ s) :
    Kept κ (State.noteSpan s c r base a n fin) := by
  unfold State.noteSpan
  repeat' (first
      | with_reducible assumption | with_reducible apply State.modCell_kept | with_reducible apply State.recheck_kept
      | with_reducible apply Kept.ite | with_reducible apply Kept.foldl | with_reducible apply Kept.foldl_fst
      | with_reducible apply Kept.foldl_snd | (intro _ _ _) | (intro _ _) | (intro _)
      | (extract_lets +onlyGivenNames x
         first
         | (refine Kept.cut (k := κ) (s := x) ?_ ?_; subst x; rotate_left; intro hx; clear_value x; revert x; intro _ _)
         | (subst x))
      | dsimp -zeta only | split | simp -zeta only [Kept.mk_iff])

theorem State.landBytes_kept {κ : Fixed} {s : State} (c : Coord) (r : LRsv) (base : Nat) (off : Nat) (size : Nat) (p : Packet) (hk : Kept κ s) :
    Kept κ (State.landBytes s c r base off size p) := by
  unfold State.landBytes
  repeat' (first
      | with_reducible assumption | with_reducible apply State.memWrite_kept | with_reducible apply State.writeCheck_kept
      | with_reducible apply State.modLanding_kept | with_reducible apply State.noteSpan_kept | with_reducible apply Kept.ite
      | (intro _ _ _) | (intro _ _) | (intro _)
      | (extract_lets +onlyGivenNames x
         first
         | (refine Kept.cut (k := κ) (s := x) ?_ ?_; subst x; rotate_left; intro hx; clear_value x; revert x; intro _ _)
         | (clear_value x; revert x; intro _))
      | dsimp -zeta only | split | simp -zeta only [Kept.mk_iff])

theorem State.checkFault_kept {κ : Fixed} {s : State} (c : Coord) (p : Packet) (hk : Kept κ s) :
    Kept κ (State.checkFault s c p) := by
  unfold State.checkFault
  repeat' (first
      | with_reducible assumption | with_reducible apply State.faultEvent_kept | with_reducible apply Kept.ite | dsimp -zeta only
      | split)

theorem State.addRsv_kept {κ : Fixed} {s : State} (c : Coord) (r : SrcRsv) (hk : Kept κ s) :
    Kept κ (State.addRsv s c r) := by
  unfold State.addRsv
  repeat' (first
      | with_reducible assumption | with_reducible apply State.modCell_kept | with_reducible apply Kept.ite | (intro _ _ _)
      | (intro _ _) | (intro _) | dsimp -zeta only | split | simp -zeta only [Kept.mk_iff])

theorem State.sendReserve_kept {κ : Fixed} {s : State} (c : Coord) (core : Nat) (r : SrcRsv) (own : Bool) (hk : Kept κ s) :
    Kept κ (State.sendReserve s c core r own) := by
  unfold State.sendReserve
  repeat' (first
      | with_reducible assumption | with_reducible apply State.sendPkt_kept | with_reducible apply Kept.ite | dsimp -zeta only | split)

theorem State.openOne_kept {κ : Fixed} {s : State} (c : Coord) (m : Cmd) (hk : Kept κ s) :
    Kept κ (State.openOne s c m).2 := by
  unfold State.openOne
  repeat' (first
      | with_reducible assumption | with_reducible apply State.bump_kept | with_reducible apply State.sendSig_kept
      | with_reducible apply State.modCmd_kept | with_reducible apply State.enterQueue_kept | with_reducible apply State.addRsv_kept
      | with_reducible apply State.sendReserve_kept | with_reducible apply Kept.ite | with_reducible apply Kept.ite1
      | with_reducible apply Kept.ite2 | (intro _ _ _) | (intro _ _) | (intro _) | exact KeptOpt.of rfl (by with_reducible assumption)
      | exact KeptPair.of rfl (by with_reducible assumption) | with_reducible apply KeptOpt.ite
      | with_reducible refine KeptOpt.mapState ?_ (fun _ _ => ?_) | with_reducible refine KeptOpt.map (fun _ => ?_)
      | with_reducible apply KeptOpt.some | with_reducible exact KeptOpt.none | with_reducible apply KeptPair.ite
      | with_reducible apply KeptPair.some | with_reducible exact KeptPair.none
      | (extract_lets +onlyGivenNames x
         first
         | (refine Kept.cut (k := κ) (s := x) ?_ ?_; subst x; rotate_left; intro hx; clear_value x; revert x; intro _ _)
         | (refine Kept.cut1 (k := κ) (s := x) ?_ ?_; subst x; rotate_left; intro hx; clear_value x; revert x; intro _ _)
         | (refine Kept.cut2 (k := κ) (s := x) ?_ ?_; subst x; rotate_left; intro hx; clear_value x; revert x; intro _ _)
         | (refine KeptOpt.cut (k := κ) (o := x) ?_ ?_; subst x; rotate_left; intro hx; clear_value x; revert x; intro _ _)
         | (refine KeptPair.cut (k := κ) (o := x) ?_ ?_; subst x; rotate_left; intro hx; clear_value x; revert x; intro _ _)
         | (subst x))
      | dsimp -zeta only | split | simp -zeta only [Kept.mk_iff])

theorem State.openAll_kept {κ : Fixed} {s : State} (c : Coord) (tag : Nat) (n0 : Nat) (hk : Kept κ s) :
    Kept κ (State.openAll s c tag n0) := by
  induction n0 generalizing s with
  | zero => exact hk
  | succ n ih =>
    rw [State.openAll]
    repeat' (first
      | with_reducible assumption | with_reducible apply ih | with_reducible apply State.openOne_kept | with_reducible apply Kept.ite
      | refine Kept.of_snd (by with_reducible assumption) ?_ | refine Kept.of_fst (by with_reducible assumption) ?_
      | exact KeptOpt.of rfl (by with_reducible assumption) | exact KeptPair.of rfl (by with_reducible assumption)
      | with_reducible apply KeptOpt.ite | with_reducible refine KeptOpt.mapState ?_ (fun _ _ => ?_)
      | with_reducible refine KeptOpt.map (fun _ => ?_) | with_reducible apply KeptOpt.some | with_reducible exact KeptOpt.none
      | with_reducible apply KeptPair.ite | with_reducible apply KeptPair.some | with_reducible exact KeptPair.none
      | (extract_lets +onlyGivenNames x
         first
         | (refine Kept.cut (k := κ) (s := x) ?_ ?_; subst x; rotate_left; intro hx; clear_value x; revert x; intro _ _)
         | (refine Kept.cut1 (k := κ) (s := x) ?_ ?_; subst x; rotate_left; intro hx; clear_value x; revert x; intro _ _)
         | (refine Kept.cut2 (k := κ) (s := x) ?_ ?_; subst x; rotate_left; intro hx; clear_value x; revert x; intro _ _)
         | (refine KeptOpt.cut (k := κ) (o := x) ?_ ?_; subst x; rotate_left; intro hx; clear_value x; revert x; intro _ _)
         | (refine KeptPair.cut (k := κ) (o := x) ?_ ?_; subst x; rotate_left; intro hx; clear_value x; revert x; intro _ _)
         | (clear_value x; revert x; intro _))
      | dsimp -zeta only | split)

theorem State.sendRelease_kept {κ : Fixed} {s : State} (c : Coord) (core : Nat) (r : SrcRsv) (hk : Kept κ s) :
    Kept κ (State.sendRelease s c core r) := by
  unfold State.sendRelease
  repeat' (first
      | with_reducible assumption | with_reducible apply State.sendPkt_kept | with_reducible apply Kept.ite | dsimp -zeta only | split)

theorem State.sourceFail_kept {κ : Fixed} {s : State} (c : Coord) (r : SrcRsv) (code : Nat) (left : Bool) (hk : Kept κ s) :
    Kept κ (State.sourceFail s c r code left) := by
  unfold State.sourceFail
  repeat' (first
      | with_reducible assumption | with_reducible apply State.faultEvent_kept | with_reducible apply State.modCmd_kept
      | with_reducible apply State.endSrcRsv_kept | with_reducible apply Kept.ite | (intro _ _ _) | (intro _ _) | (intro _)
      | (extract_lets +onlyGivenNames x
         first
         | (refine Kept.cut (k := κ) (s := x) ?_ ?_; subst x; rotate_left; intro hx; clear_value x; revert x; intro _ _)
         | (clear_value x; revert x; intro _))
      | dsimp -zeta only | split | simp -zeta only [Kept.mk_iff])

theorem State.sendData_kept {κ : Fixed} {s : State} (c : Coord) (m : Cmd) (r : SrcRsv) (num : Nat) (mk : Nat → Nat → Bool → List Byte → Option Nat → Packet) (n0 : Nat) (n1 : Nat) (hk : Kept κ s) :
    Kept κ (State.sendData s c m r num mk n0 n1) := by
  induction n0 generalizing s n1 with
  | zero => exact hk
  | succ n ih =>
    rw [State.sendData]
    repeat' (first
      | with_reducible assumption | with_reducible apply ih | with_reducible apply State.issueRead_kept
      | with_reducible apply State.sendPkt_kept | with_reducible apply State.sourceFail_kept | with_reducible apply Kept.ite
      | exact KeptOpt.of rfl (by with_reducible assumption) | exact KeptPair.of rfl (by with_reducible assumption)
      | with_reducible apply KeptOpt.ite | with_reducible refine KeptOpt.mapState ?_ (fun _ _ => ?_)
      | with_reducible refine KeptOpt.map (fun _ => ?_) | with_reducible apply KeptOpt.some | with_reducible exact KeptOpt.none
      | with_reducible apply KeptPair.ite | with_reducible apply KeptPair.some | with_reducible exact KeptPair.none
      | (extract_lets +onlyGivenNames x
         first
         | (refine Kept.cut (k := κ) (s := x) ?_ ?_; subst x; rotate_left; intro hx; clear_value x; revert x; intro _ _)
         | (refine KeptOpt.cut (k := κ) (o := x) ?_ ?_; subst x; rotate_left; intro hx; clear_value x; revert x; intro _ _)
         | (refine KeptPair.cut (k := κ) (o := x) ?_ ?_; subst x; rotate_left; intro hx; clear_value x; revert x; intro _ _)
         | (clear_value x; revert x; intro _))
      | dsimp -zeta only | split)

theorem State.dataSent_kept {κ : Fixed} {s : State} (c : Coord) (rsv : Nat) (hk : Kept κ s) :
    Kept κ (State.dataSent s c rsv) := by
  unfold State.dataSent
  repeat' (first
      | with_reducible assumption | with_reducible apply State.modSrcRsv_kept | with_reducible apply Kept.ite | (intro _ _ _)
      | (intro _ _) | (intro _) | dsimp -zeta only | split | simp -zeta only [Kept.mk_iff])

theorem State.sendPut_kept {κ : Fixed} {s : State} (c : Coord) (m : Cmd) (r : SrcRsv) (hk : Kept κ s) :
    Kept κ (State.sendPut s c m r) := by
  unfold State.sendPut
  repeat' (first
      | with_reducible assumption | with_reducible apply State.modSrcRsv_kept | with_reducible apply State.sendData_kept
      | with_reducible apply State.dataSent_kept | with_reducible apply Kept.ite | (intro _ _ _) | (intro _ _) | (intro _)
      | (extract_lets +onlyGivenNames x
         first
         | (refine Kept.cut (k := κ) (s := x) ?_ ?_; subst x; rotate_left; intro hx; clear_value x; revert x; intro _ _)
         | (clear_value x; revert x; intro _))
      | dsimp -zeta only | split | simp -zeta only [Kept.mk_iff])

theorem State.sendMcast_kept {κ : Fixed} {s : State} (c : Coord) (m : Cmd) (r : SrcRsv) (hk : Kept κ s) :
    Kept κ (State.sendMcast s c m r) := by
  unfold State.sendMcast
  repeat' (first
      | with_reducible assumption | with_reducible apply State.modSrcRsv_kept | with_reducible apply State.sendData_kept
      | with_reducible apply Kept.ite | (intro _ _ _) | (intro _ _) | (intro _)
      | (extract_lets +onlyGivenNames x
         first
         | (refine Kept.cut (k := κ) (s := x) ?_ ?_; subst x; rotate_left; intro hx; clear_value x; revert x; intro _ _)
         | (clear_value x; revert x; intro _))
      | dsimp -zeta only | split | simp -zeta only [Kept.mk_iff])

theorem State.dataGo_kept {κ : Fixed} {s : State} (c : Coord) (m : Cmd) (r : SrcRsv) (hk : Kept κ s) :
    Kept κ (State.dataGo s c m r) := by
  unfold State.dataGo
  repeat' (first
      | with_reducible assumption | with_reducible apply State.modSrcRsv_kept | with_reducible apply State.sendPut_kept
      | with_reducible apply State.sendMcast_kept | with_reducible apply Kept.ite | (intro _ _ _) | (intro _ _) | (intro _)
      | dsimp -zeta only | split | simp -zeta only [Kept.mk_iff])

theorem State.finishTransfer_kept {κ : Fixed} {s : State} (c : Coord) (tag : Nat) (hk : Kept κ s) :
    Kept κ (State.finishTransfer s c tag) := by
  unfold State.finishTransfer
  repeat' (first
      | with_reducible assumption | with_reducible apply State.complete_kept | with_reducible apply Kept.ite | (intro _ _ _)
      | (intro _ _) | (intro _) | exact KeptOpt.of rfl (by with_reducible assumption)
      | exact KeptPair.of rfl (by with_reducible assumption) | with_reducible apply KeptOpt.ite
      | with_reducible refine KeptOpt.mapState ?_ (fun _ _ => ?_) | with_reducible refine KeptOpt.map (fun _ => ?_)
      | with_reducible apply KeptOpt.some | with_reducible exact KeptOpt.none | with_reducible apply KeptPair.ite
      | with_reducible apply KeptPair.some | with_reducible exact KeptPair.none
      | (extract_lets +onlyGivenNames x
         first
         | (refine Kept.cut (k := κ) (s := x) ?_ ?_; subst x; rotate_left; intro hx; clear_value x; revert x; intro _ _)
         | (refine KeptOpt.cut (k := κ) (o := x) ?_ ?_; subst x; rotate_left; intro hx; clear_value x; revert x; intro _ _)
         | (refine KeptPair.cut (k := κ) (o := x) ?_ ?_; subst x; rotate_left; intro hx; clear_value x; revert x; intro _ _)
         | (clear_value x; revert x; intro _))
      | dsimp -zeta only | split)

theorem State.nackRsv_kept {κ : Fixed} {s : State} (c : Coord) (r : SrcRsv) (reason : Nat) (bytes : Nat) (hk : Kept κ s) :
    Kept κ (State.nackRsv s c r reason bytes) := by
  unfold State.nackRsv
  repeat' (first
      | with_reducible assumption | with_reducible apply State.modCmd_kept | with_reducible apply State.failRsv_kept
      | with_reducible apply Kept.ite | (intro _ _ _) | (intro _ _) | (intro _)
      | (extract_lets +onlyGivenNames x
         first
         | (refine Kept.cut (k := κ) (s := x) ?_ ?_; subst x; rotate_left; intro hx; clear_value x; revert x; intro _ _)
         | (clear_value x; revert x; intro _))
      | dsimp -zeta only | split | simp -zeta only [Kept.mk_iff])

theorem State.routerRsvFailed_kept {κ : Fixed} {s : State} (c : Coord) (r : SrcRsv) (hk : Kept κ s) :
    Kept κ (State.routerRsvFailed s c r) := by
  unfold State.routerRsvFailed
  repeat' (first
      | with_reducible assumption | with_reducible apply State.bump_kept | with_reducible apply State.endSrcRsv_kept
      | with_reducible apply Kept.ite
      | (extract_lets +onlyGivenNames x
         first
         | (refine Kept.cut (k := κ) (s := x) ?_ ?_; subst x; rotate_left; intro hx; clear_value x; revert x; intro _ _)
         | (clear_value x; revert x; intro _))
      | dsimp -zeta only | split)

theorem State.routerTransfer_kept {κ : Fixed} {s : State} (c : Coord) (use : SrcUse) (dest : Addr) (raddr : Nat) (base : Nat) (size : Nat) (data : List Byte) (hk : Kept κ s) :
    KeptOpt κ (State.routerTransfer s c use dest raddr base size data) := by
  unfold State.routerTransfer
  repeat' (first
      | with_reducible assumption | with_reducible apply State.addRsv_kept | with_reducible apply State.sendReserve_kept
      | with_reducible apply Kept.ite | with_reducible apply KeptOpt.ite | with_reducible refine KeptOpt.mapState ?_ (fun _ _ => ?_)
      | with_reducible refine KeptOpt.map (fun _ => ?_) | with_reducible apply KeptOpt.some | with_reducible exact KeptOpt.none
      | exact KeptOpt.of rfl (by with_reducible assumption) | exact KeptPair.of rfl (by with_reducible assumption)
      | with_reducible apply KeptPair.ite | with_reducible apply KeptPair.some | with_reducible exact KeptPair.none
      | (extract_lets +onlyGivenNames x
         first
         | (refine Kept.cut (k := κ) (s := x) ?_ ?_; subst x; rotate_left; intro hx; clear_value x; revert x; intro _ _)
         | (refine KeptOpt.cut (k := κ) (o := x) ?_ ?_; subst x; rotate_left; intro hx; clear_value x; revert x; intro _ _)
         | (refine KeptPair.cut (k := κ) (o := x) ?_ ?_; subst x; rotate_left; intro hx; clear_value x; revert x; intro _ _)
         | (clear_value x; revert x; intro _))
      | dsimp -zeta only | split)

theorem State.sendOwn_kept {κ : Fixed} {s : State} (c : Coord) (r : SrcRsv) (hk : Kept κ s) :
    Kept κ (State.sendOwn s c r) := by
  unfold State.sendOwn
  repeat' (first
      | with_reducible assumption | with_reducible apply State.modSrcRsv_kept | with_reducible apply State.sendPkt_kept
      | with_reducible apply State.dataSent_kept | with_reducible apply Kept.ite | with_reducible apply Kept.foldl
      | with_reducible apply Kept.foldl_fst | with_reducible apply Kept.foldl_snd | (intro _ _ _) | (intro _ _) | (intro _)
      | (extract_lets +onlyGivenNames x
         first
         | (refine Kept.cut (k := κ) (s := x) ?_ ?_; subst x; rotate_left; intro hx; clear_value x; revert x; intro _ _)
         | (clear_value x; revert x; intro _))
      | dsimp -zeta only | split | simp -zeta only [Kept.mk_iff])

theorem State.replyAddr_kept {κ : Fixed} {s : State} (hk : Kept κ s) :
    Kept κ (State.replyAddr s).2 := by
  unfold State.replyAddr
  repeat' (first
      | with_reducible assumption | with_reducible apply State.fresh_kept | with_reducible apply Kept.ite
      | with_reducible apply Kept.ite1 | with_reducible apply Kept.ite2 | refine Kept.of_snd (by with_reducible assumption) ?_
      | refine Kept.of_fst (by with_reducible assumption) ?_
      | (extract_lets +onlyGivenNames x
         first
         | (refine Kept.cut (k := κ) (s := x) ?_ ?_; subst x; rotate_left; intro hx; clear_value x; revert x; intro _ _)
         | (refine Kept.cut1 (k := κ) (s := x) ?_ ?_; subst x; rotate_left; intro hx; clear_value x; revert x; intro _ _)
         | (refine Kept.cut2 (k := κ) (s := x) ?_ ?_; subst x; rotate_left; intro hx; clear_value x; revert x; intro _ _)
         | (clear_value x; revert x; intro _))
      | dsimp -zeta only | split)

theorem State.replyGet_kept {κ : Fixed} {s : State} (c : Coord) (p : Packet) (t : TransferTail) (n0 : Nat) (n1 : Nat) (hk : Kept κ s) :
    Kept κ (State.replyGet s c p t n0 n1) := by
  induction n0 generalizing s n1 with
  | zero => exact hk
  | succ n ih =>
    rw [State.replyGet]
    repeat' (first
      | with_reducible assumption | with_reducible apply ih | with_reducible apply State.issueRead_kept
      | with_reducible apply State.raiseNack_kept | with_reducible apply State.faultEvent_kept
      | with_reducible apply State.sendPkt_kept | with_reducible apply State.replyAddr_kept | with_reducible apply Kept.ite
      | refine Kept.of_snd (by with_reducible assumption) ?_ | refine Kept.of_fst (by with_reducible assumption) ?_
      | exact KeptOpt.of rfl (by with_reducible assumption) | exact KeptPair.of rfl (by with_reducible assumption)
      | with_reducible apply KeptOpt.ite | with_reducible refine KeptOpt.mapState ?_ (fun _ _ => ?_)
      | with_reducible refine KeptOpt.map (fun _ => ?_) | with_reducible apply KeptOpt.some | with_reducible exact KeptOpt.none
      | with_reducible apply KeptPair.ite | with_reducible apply KeptPair.some | with_reducible exact KeptPair.none
      | (extract_lets +onlyGivenNames x
         first
         | (refine Kept.cut (k := κ) (s := x) ?_ ?_; subst x; rotate_left; intro hx; clear_value x; revert x; intro _ _)
         | (refine Kept.cut1 (k := κ) (s := x) ?_ ?_; subst x; rotate_left; intro hx; clear_value x; revert x; intro _ _)
         | (refine Kept.cut2 (k := κ) (s := x) ?_ ?_; subst x; rotate_left; intro hx; clear_value x; revert x; intro _ _)
         | (refine KeptOpt.cut (k := κ) (o := x) ?_ ?_; subst x; rotate_left; intro hx; clear_value x; revert x; intro _ _)
         | (refine KeptPair.cut (k := κ) (o := x) ?_ ?_; subst x; rotate_left; intro hx; clear_value x; revert x; intro _ _)
         | (clear_value x; revert x; intro _))
      | dsimp -zeta only | split)

end Sys2Proof.Machine
end

