-- ==== Sys2Proof/Laws/KeptLandOps.lean ====
section
/-! SUPPORT. Every operation of Machine/LandOps.lean keeps the build, the queue and the canonical form. -/

namespace Sys2Proof.Machine

set_option linter.all false

theorem State.resetDrop_kept {κ : Fixed} {s : State} (c : Coord) (p : Packet) (hk : Kept κ s) :
    KeptOpt κ (State.resetDrop s c p) := by
  unfold State.resetDrop
  repeat' (first
      | with_reducible assumption | with_reducible apply State.takePkt_kept | with_reducible apply State.raiseNack_kept
      | with_reducible apply Kept.ite | with_reducible apply KeptOpt.ite | with_reducible refine KeptOpt.mapState ?_ (fun _ _ => ?_)
      | with_reducible refine KeptOpt.map (fun _ => ?_) | with_reducible apply KeptOpt.some | with_reducible exact KeptOpt.none
      | dsimp -zeta only | split)

theorem State.sendGetReq_kept {κ : Fixed} {s : State} (c : Coord) (k : RsvKey) (hk : Kept κ s) :
    Kept κ (State.sendGetReq s c k) := by
  unfold State.sendGetReq
  repeat' (first
      | with_reducible assumption | with_reducible apply State.modCmd_kept | with_reducible apply State.modSrcRsv_kept
      | with_reducible apply State.sendPkt_kept | with_reducible apply Kept.ite | (intro _ _ _) | (intro _ _) | (intro _)
      | exact KeptOpt.of rfl (by with_reducible assumption) | exact KeptPair.of rfl (by with_reducible assumption)
      | with_reducible apply KeptOpt.ite | with_reducible refine KeptOpt.mapState ?_ (fun _ _ => ?_)
      | with_reducible refine KeptOpt.map (fun _ => ?_) | with_reducible apply KeptOpt.some | with_reducible exact KeptOpt.none
      | with_reducible apply KeptPair.ite | with_reducible apply KeptPair.some | with_reducible exact KeptPair.none
      | (extract_lets +onlyGivenNames x
         first
         | (refine Kept.cut (k := κ) (s := x) ?_ ?_; subst x; rotate_left; intro hx; clear_value x; revert x; intro _ _)
         | (refine KeptOpt.cut (k := κ) (o := x) ?_ ?_; subst x; rotate_left; intro hx; clear_value x; revert x; intro _ _)
         | (refine KeptPair.cut (k := κ) (o := x) ?_ ?_; subst x; rotate_left; intro hx; clear_value x; revert x; intro _ _)
         | (clear_value x; revert x; intro _))
      | dsimp -zeta only | split | simp -zeta only [Kept.mk_iff])

theorem State.grantHead_kept {κ : Fixed} {s : State} (x : Site) (hk : Kept κ s) :
    Kept κ (State.grantHead s x) := by
  unfold State.grantHead
  repeat' (first
      | with_reducible assumption | with_reducible apply State.countEvent_kept | with_reducible apply State.modLanding_kept
      | with_reducible apply State.bumpLanding_kept | with_reducible apply State.sendGrant_kept
      | with_reducible apply State.mresAnswer_kept | with_reducible apply State.sendGetReq_kept | with_reducible apply Kept.ite
      | (intro _ _ _) | (intro _ _) | (intro _) | exact KeptOpt.of rfl (by with_reducible assumption)
      | exact KeptPair.of rfl (by with_reducible assumption) | with_reducible apply KeptOpt.ite
      | with_reducible refine KeptOpt.mapState ?_ (fun _ _ => ?_) | with_reducible refine KeptOpt.map (fun _ => ?_)
      | with_reducible apply KeptOpt.some | with_reducible exact KeptOpt.none | with_reducible apply KeptPair.ite
      | with_reducible apply KeptPair.some | with_reducible exact KeptPair.none
      | (extract_lets +onlyGivenNames x
         first
         | (refine Kept.cut (k := κ) (s := x) ?_ ?_; subst x; rotate_left; intro hx; clear_value x; revert x; intro _ _)
         | (refine KeptOpt.cut (k := κ) (o := x) ?_ ?_; subst x; rotate_left; intro hx; clear_value x; revert x; intro _ _)
         | (refine KeptPair.cut (k := κ) (o := x) ?_ ?_; subst x; rotate_left; intro hx; clear_value x; revert x; intro _ _)
         | (clear_value x; revert x; intro _))
      | dsimp -zeta only | split)

theorem State.reservationGrant_kept {κ : Fixed} {s : State} (x : Site) (hk : Kept κ s) :
    Kept κ (State.reservationGrant s x) := by
  unfold State.reservationGrant
  repeat' (first
      | with_reducible assumption | with_reducible apply State.grantHead_kept | with_reducible apply Kept.ite | dsimp -zeta only
      | split)

theorem State.failLanding_kept {κ : Fixed} {s : State} (x : Site) (r : LRsv) (hk : Kept κ s) :
    Kept κ (State.failLanding s x r) := by
  unfold State.failLanding
  repeat' (first
      | with_reducible assumption | with_reducible apply State.modLanding_kept | with_reducible apply Kept.ite | (intro _ _ _)
      | (intro _ _) | (intro _) | dsimp -zeta only | split | simp -zeta only [Kept.mk_iff])

theorem State.putDataCell_kept {κ : Fixed} {s : State} (c : Coord) (p : Packet) (t : TransferTail) (hk : Kept κ s) :
    Kept κ (State.putDataCell s c p t) := by
  unfold State.putDataCell
  repeat' (first
      | with_reducible assumption | with_reducible apply State.takePkt_kept | with_reducible apply State.raiseNack_kept
      | with_reducible apply State.bumpLanding_kept | with_reducible apply State.latePkt_kept
      | with_reducible apply State.landBytes_kept | with_reducible apply State.checkFault_kept
      | with_reducible apply State.failLanding_kept | with_reducible apply Kept.ite
      | (extract_lets +onlyGivenNames x
         first
         | (refine Kept.cut (k := κ) (s := x) ?_ ?_; subst x; rotate_left; intro hx; clear_value x; revert x; intro _ _)
         | (clear_value x; revert x; intro _))
      | dsimp -zeta only | split)

theorem State.sendDelivered_kept {κ : Fixed} {s : State} (x : Site) (r : LRsv) (hk : Kept κ s) :
    Kept κ (State.sendDelivered s x r) := by
  unfold State.sendDelivered
  repeat' (first
      | with_reducible assumption | with_reducible apply State.sendSig_kept | with_reducible apply Kept.ite
      | (extract_lets +onlyGivenNames x
         first
         | (refine Kept.cut (k := κ) (s := x) ?_ ?_; subst x; rotate_left; intro hx; clear_value x; revert x; intro _ _)
         | (clear_value x; revert x; intro _))
      | dsimp -zeta only | split)

theorem State.filledCell_kept {κ : Fixed} {s : State} (c : Coord) (k : RsvKey) (hk : Kept κ s) :
    Kept κ (State.filledCell s c k) := by
  unfold State.filledCell
  repeat' (first
      | with_reducible assumption | with_reducible apply State.modLanding_kept | with_reducible apply State.mresAnswer_kept
      | with_reducible apply State.sendDelivered_kept | with_reducible apply Kept.ite | (intro _ _ _) | (intro _ _) | (intro _)
      | exact KeptOpt.of rfl (by with_reducible assumption) | exact KeptPair.of rfl (by with_reducible assumption)
      | with_reducible apply KeptOpt.ite | with_reducible refine KeptOpt.mapState ?_ (fun _ _ => ?_)
      | with_reducible refine KeptOpt.map (fun _ => ?_) | with_reducible apply KeptOpt.some | with_reducible exact KeptOpt.none
      | with_reducible apply KeptPair.ite | with_reducible apply KeptPair.some | with_reducible exact KeptPair.none
      | (extract_lets +onlyGivenNames x
         first
         | (refine Kept.cut (k := κ) (s := x) ?_ ?_; subst x; rotate_left; intro hx; clear_value x; revert x; intro _ _)
         | (refine KeptOpt.cut (k := κ) (o := x) ?_ ?_; subst x; rotate_left; intro hx; clear_value x; revert x; intro _ _)
         | (refine KeptPair.cut (k := κ) (o := x) ?_ ?_; subst x; rotate_left; intro hx; clear_value x; revert x; intro _ _)
         | (clear_value x; revert x; intro _))
      | dsimp -zeta only | split)

theorem State.expireCell_kept {κ : Fixed} {s : State} (c : Coord) (k : RsvKey) (endOwn : State → LRsv → State) (hendOwn : ∀ s a, Kept κ s → Kept κ (endOwn s a)) (hk : Kept κ s) :
    Kept κ (State.expireCell s c k endOwn) := by
  unfold State.expireCell
  repeat' (first
      | with_reducible assumption | with_reducible apply hendOwn | with_reducible apply State.awaitFt_kept
      | with_reducible apply State.countEvent_kept | with_reducible apply State.ringEvent_kept
      | with_reducible apply State.sendSig_kept | with_reducible apply State.modLanding_kept
      | with_reducible apply State.bumpLanding_kept | with_reducible apply State.mresAnswer_kept | with_reducible apply Kept.ite
      | (intro _ _ _) | (intro _ _) | (intro _) | exact KeptOpt.of rfl (by with_reducible assumption)
      | exact KeptPair.of rfl (by with_reducible assumption) | with_reducible apply KeptOpt.ite
      | with_reducible refine KeptOpt.mapState ?_ (fun _ _ => ?_) | with_reducible refine KeptOpt.map (fun _ => ?_)
      | with_reducible apply KeptOpt.some | with_reducible exact KeptOpt.none | with_reducible apply KeptPair.ite
      | with_reducible apply KeptPair.some | with_reducible exact KeptPair.none
      | (extract_lets +onlyGivenNames x
         first
         | (refine Kept.cut (k := κ) (s := x) ?_ ?_; subst x; rotate_left; intro hx; clear_value x; revert x; intro _ _)
         | (refine KeptOpt.cut (k := κ) (o := x) ?_ ?_; subst x; rotate_left; intro hx; clear_value x; revert x; intro _ _)
         | (refine KeptPair.cut (k := κ) (o := x) ?_ ?_; subst x; rotate_left; intro hx; clear_value x; revert x; intro _ _)
         | (clear_value x; revert x; intro _))
      | dsimp -zeta only | split)

theorem State.releaseAt_kept {κ : Fixed} {s : State} (x : Site) (p : Packet) (t : TransferTail) (hk : Kept κ s) :
    Kept κ (State.releaseAt s x p t) := by
  unfold State.releaseAt
  repeat' (first
      | with_reducible assumption | with_reducible apply State.takePkt_kept | with_reducible apply State.modLanding_kept
      | with_reducible apply State.bumpLanding_kept | with_reducible apply Kept.ite | (intro _ _ _) | (intro _ _) | (intro _)
      | exact KeptOpt.of rfl (by with_reducible assumption) | exact KeptPair.of rfl (by with_reducible assumption)
      | with_reducible apply KeptOpt.ite | with_reducible refine KeptOpt.mapState ?_ (fun _ _ => ?_)
      | with_reducible refine KeptOpt.map (fun _ => ?_) | with_reducible apply KeptOpt.some | with_reducible exact KeptOpt.none
      | with_reducible apply KeptPair.ite | with_reducible apply KeptPair.some | with_reducible exact KeptPair.none
      | (extract_lets +onlyGivenNames x
         first
         | (refine Kept.cut (k := κ) (s := x) ?_ ?_; subst x; rotate_left; intro hx; clear_value x; revert x; intro _ _)
         | (refine KeptOpt.cut (k := κ) (o := x) ?_ ?_; subst x; rotate_left; intro hx; clear_value x; revert x; intro _ _)
         | (refine KeptPair.cut (k := κ) (o := x) ?_ ?_; subst x; rotate_left; intro hx; clear_value x; revert x; intro _ _)
         | (clear_value x; revert x; intro _))
      | dsimp -zeta only | split)

theorem State.answerRelease_kept {κ : Fixed} {s : State} (c : Coord) (p : Packet) (t : TransferTail) (hk : Kept κ s) :
    Kept κ (State.answerRelease s c p t) := by
  unfold State.answerRelease
  repeat' (first
      | with_reducible assumption | with_reducible apply State.sendPkt_kept | with_reducible apply State.replyAddr_kept
      | with_reducible apply Kept.ite | (intro _ _ _) | (intro _ _) | (intro _) | refine Kept.of_snd (by with_reducible assumption) ?_
      | refine Kept.of_fst (by with_reducible assumption) ?_ | exact KeptOpt.of rfl (by with_reducible assumption)
      | exact KeptPair.of rfl (by with_reducible assumption) | with_reducible apply KeptOpt.ite
      | with_reducible refine KeptOpt.mapState ?_ (fun _ _ => ?_) | with_reducible refine KeptOpt.map (fun _ => ?_)
      | with_reducible apply KeptOpt.some | with_reducible exact KeptOpt.none | with_reducible apply KeptPair.ite
      | with_reducible apply KeptPair.some | with_reducible exact KeptPair.none
      | (extract_lets +onlyGivenNames x
         first
         | (refine Kept.cut (k := κ) (s := x) ?_ ?_; subst x; rotate_left; intro hx; clear_value x; revert x; intro _ _)
         | (refine Kept.cut1 (k := κ) (s := x) ?_ ?_; subst x; rotate_left; intro hx; clear_value x; revert x; intro _ _)
         | (refine Kept.cut2 (k := κ) (s := x) ?_ ?_; subst x; rotate_left; intro hx; clear_value x; revert x; intro _ _)
         | (refine KeptOpt.cut (k := κ) (o := x) ?_ ?_; subst x; rotate_left; intro hx; clear_value x; revert x; intro _ _)
         | (refine KeptPair.cut (k := κ) (o := x) ?_ ?_; subst x; rotate_left; intro hx; clear_value x; revert x; intro _ _)
         | (clear_value x; revert x; intro _))
      | dsimp -zeta only | split)

theorem State.grantAt_kept {κ : Fixed} {s : State} (c : Coord) (p : Packet) (t : TransferTail) (rows : State → SrcRsv → State) (segs : State → SrcRsv → State) (hrows : ∀ s a, Kept κ s → Kept κ (rows s a)) (hsegs : ∀ s a, Kept κ s → Kept κ (segs s a)) (hk : Kept κ s) :
    Kept κ (State.grantAt s c p t rows segs) := by
  unfold State.grantAt
  repeat' (first
      | with_reducible assumption | with_reducible apply hrows | with_reducible apply hsegs | with_reducible apply State.bump_kept
      | with_reducible apply State.takePkt_kept | with_reducible apply State.endSrcRsv_kept | with_reducible apply State.dataGo_kept
      | with_reducible apply State.sendOwn_kept | with_reducible apply State.answerRelease_kept | with_reducible apply Kept.ite
      | exact KeptOpt.of rfl (by with_reducible assumption) | exact KeptPair.of rfl (by with_reducible assumption)
      | with_reducible apply KeptOpt.ite | with_reducible refine KeptOpt.mapState ?_ (fun _ _ => ?_)
      | with_reducible refine KeptOpt.map (fun _ => ?_) | with_reducible apply KeptOpt.some | with_reducible exact KeptOpt.none
      | with_reducible apply KeptPair.ite | with_reducible apply KeptPair.some | with_reducible exact KeptPair.none
      | (extract_lets +onlyGivenNames x
         first
         | (refine Kept.cut (k := κ) (s := x) ?_ ?_; subst x; rotate_left; intro hx; clear_value x; revert x; intro _ _)
         | (refine KeptOpt.cut (k := κ) (o := x) ?_ ?_; subst x; rotate_left; intro hx; clear_value x; revert x; intro _ _)
         | (refine KeptPair.cut (k := κ) (o := x) ?_ ?_; subst x; rotate_left; intro hx; clear_value x; revert x; intro _ _)
         | (clear_value x; revert x; intro _))
      | dsimp -zeta only | split)

theorem State.resumeGated_kept {κ : Fixed} {s : State} (c : Coord) (tag : Nat) (hk : Kept κ s) :
    Kept κ (State.resumeGated s c tag) := by
  unfold State.resumeGated
  repeat' (first
      | with_reducible assumption | with_reducible apply State.dataGo_kept | with_reducible apply State.sendGetReq_kept
      | with_reducible apply Kept.ite | with_reducible apply Kept.foldl | with_reducible apply Kept.foldl_fst
      | with_reducible apply Kept.foldl_snd | (intro _ _ _) | (intro _ _) | (intro _) | with_reducible apply KeptOpt.foldl
      | dsimp -zeta only | split)

theorem State.deliveredRsv_kept {κ : Fixed} {s : State} (c : Coord) (r : SrcRsv) (d : Delivered) (hk : Kept κ s) :
    Kept κ (State.deliveredRsv s c r d) := by
  unfold State.deliveredRsv
  repeat' (first
      | with_reducible assumption | with_reducible apply State.modCmd_kept | with_reducible apply State.endSrcRsv_kept
      | with_reducible apply State.accounted_kept | with_reducible apply Kept.ite | (intro _ _ _) | (intro _ _) | (intro _)
      | exact KeptOpt.of rfl (by with_reducible assumption) | exact KeptPair.of rfl (by with_reducible assumption)
      | with_reducible apply KeptOpt.ite | with_reducible refine KeptOpt.mapState ?_ (fun _ _ => ?_)
      | with_reducible refine KeptOpt.map (fun _ => ?_) | with_reducible apply KeptOpt.some | with_reducible exact KeptOpt.none
      | with_reducible apply KeptPair.ite | with_reducible apply KeptPair.some | with_reducible exact KeptPair.none
      | (extract_lets +onlyGivenNames x
         first
         | (refine Kept.cut (k := κ) (s := x) ?_ ?_; subst x; rotate_left; intro hx; clear_value x; revert x; intro _ _)
         | (refine KeptOpt.cut (k := κ) (o := x) ?_ ?_; subst x; rotate_left; intro hx; clear_value x; revert x; intro _ _)
         | (refine KeptPair.cut (k := κ) (o := x) ?_ ?_; subst x; rotate_left; intro hx; clear_value x; revert x; intro _ _)
         | (clear_value x; revert x; intro _))
      | dsimp -zeta only | split | simp -zeta only [Kept.mk_iff])

theorem State.timeoutRsv_kept {κ : Fixed} {s : State} (c : Coord) (r : SrcRsv) (hk : Kept κ s) :
    Kept κ (State.timeoutRsv s c r) := by
  unfold State.timeoutRsv
  repeat' (first
      | with_reducible assumption | with_reducible apply State.bump_kept | with_reducible apply State.failRsv_kept
      | with_reducible apply State.routerRsvFailed_kept | with_reducible apply Kept.ite
      | (extract_lets +onlyGivenNames x
         first
         | (refine Kept.cut (k := κ) (s := x) ?_ ?_; subst x; rotate_left; intro hx; clear_value x; revert x; intro _ _)
         | (clear_value x; revert x; intro _))
      | dsimp -zeta only | split | with_reducible refine Kept.mk_time ?_ (Nat.le_max_left _ _)
      | with_reducible refine Kept.mk_time ?_ (Nat.le_add_right _ _) | simp -zeta only [Kept.mk_iff])

theorem State.getReqCell_kept {κ : Fixed} {s : State} (c : Coord) (p : Packet) (t : TransferTail) (hk : Kept κ s) :
    Kept κ (State.getReqCell s c p t) := by
  unfold State.getReqCell
  repeat' (first
      | with_reducible assumption | with_reducible apply State.takePkt_kept | with_reducible apply State.replyGet_kept
      | with_reducible apply State.resetDrop_kept | with_reducible apply Kept.ite
      | refine KeptOpt.of (by with_reducible assumption) ?_ | dsimp -zeta only | split)

theorem State.getDataCell_kept {κ : Fixed} {s : State} (c : Coord) (p : Packet) (t : TransferTail) (hk : Kept κ s) :
    Kept κ (State.getDataCell s c p t) := by
  unfold State.getDataCell
  repeat' (first
      | with_reducible assumption | with_reducible apply State.takePkt_kept | with_reducible apply State.modCmd_kept
      | with_reducible apply State.endSrcRsv_kept | with_reducible apply State.failRsv_kept
      | with_reducible apply State.accounted_kept | with_reducible apply State.modLanding_kept
      | with_reducible apply State.bumpLanding_kept | with_reducible apply State.latePkt_kept
      | with_reducible apply State.landBytes_kept | with_reducible apply State.checkFault_kept | with_reducible apply Kept.ite
      | (intro _ _ _) | (intro _ _) | (intro _) | with_reducible apply KeptOpt.getD
      | exact KeptOpt.of rfl (by with_reducible assumption) | exact KeptPair.of rfl (by with_reducible assumption)
      | with_reducible apply KeptOpt.ite | with_reducible refine KeptOpt.mapState ?_ (fun _ _ => ?_)
      | with_reducible refine KeptOpt.map (fun _ => ?_) | with_reducible apply KeptOpt.some | with_reducible exact KeptOpt.none
      | with_reducible apply KeptPair.ite | with_reducible apply KeptPair.some | with_reducible exact KeptPair.none
      | (extract_lets +onlyGivenNames x
         first
         | (refine Kept.cut (k := κ) (s := x) ?_ ?_; subst x; rotate_left; intro hx; clear_value x; revert x; intro _ _)
         | (refine KeptOpt.cut (k := κ) (o := x) ?_ ?_; subst x; rotate_left; intro hx; clear_value x; revert x; intro _ _)
         | (refine KeptPair.cut (k := κ) (o := x) ?_ ?_; subst x; rotate_left; intro hx; clear_value x; revert x; intro _ _)
         | (clear_value x; revert x; intro _))
      | dsimp -zeta only | split | simp -zeta only [Kept.mk_iff])

theorem State.expireOwn_kept {κ : Fixed} {s : State} (c : Coord) (q : LRsv) (hk : Kept κ s) :
    Kept κ (State.expireOwn s c q) := by
  unfold State.expireOwn
  repeat' (first
      | with_reducible assumption | with_reducible apply State.nackRsv_kept | with_reducible apply Kept.ite | dsimp -zeta only | split)

theorem State.mresEnter_kept {κ : Fixed} {s : State} (c : Coord) (g : MresGrant) (hk : Kept κ s) :
    Kept κ (State.mresEnter s c g) := by
  unfold State.mresEnter
  repeat' (first
      | with_reducible assumption | with_reducible apply State.bump_kept | with_reducible apply State.enterQueue_kept
      | with_reducible apply State.mresAnswer_kept | with_reducible apply Kept.ite | dsimp -zeta only | split)

theorem State.mresHoles_kept {κ : Fixed} {s : State} (c : Coord) (g : MresGrant) (holes : List Coord) (hk : Kept κ s) :
    Kept κ (State.mresHoles s c g holes) := by
  unfold State.mresHoles
  repeat' (first
      | with_reducible assumption | with_reducible apply State.mresAnswer_kept | with_reducible apply Kept.ite | dsimp -zeta only
      | split)

theorem State.mresGrantAt_kept {κ : Fixed} {s : State} (c : Coord) (g : MresGrant) (hk : Kept κ s) :
    Kept κ (State.mresGrantAt s c g) := by
  unfold State.mresGrantAt
  repeat' (first
      | with_reducible assumption | with_reducible apply State.mresEnter_kept | with_reducible apply Kept.ite | dsimp -zeta only
      | split)

theorem State.endMcast_kept {κ : Fixed} {s : State} (c : Coord) (r : SrcRsv) (extra : List (Nat × Nat)) (hk : Kept κ s) :
    Kept κ (State.endMcast s c r extra) := by
  unfold State.endMcast
  repeat' (first
      | with_reducible assumption | with_reducible apply State.modCmd_kept | with_reducible apply State.endSrcRsv_kept
      | with_reducible apply State.accounted_kept | with_reducible apply State.dropCopies_kept | with_reducible apply Kept.ite
      | (intro _ _ _) | (intro _ _) | (intro _)
      | (extract_lets +onlyGivenNames x
         first
         | (refine Kept.cut (k := κ) (s := x) ?_ ?_; subst x; rotate_left; intro hx; clear_value x; revert x; intro _ _)
         | (clear_value x; revert x; intro _))
      | dsimp -zeta only | split | simp -zeta only [Kept.mk_iff])

theorem State.noteCheck_kept {κ : Fixed} {s : State} (g : MresGrant) (hk : Kept κ s) :
    Kept κ (State.noteCheck s g) := by
  unfold State.noteCheck
  repeat' (first
      | with_reducible assumption | with_reducible apply State.modCell_kept | with_reducible apply Kept.ite | (intro _ _ _)
      | (intro _ _) | (intro _) | dsimp -zeta only | split | simp -zeta only [Kept.mk_iff])

theorem State.mresArriveCell_kept {κ : Fixed} {s : State} (a : MresArrive) (hk : Kept κ s) :
    Kept κ (State.mresArriveCell s a) := by
  unfold State.mresArriveCell
  repeat' (first
      | with_reducible assumption | with_reducible apply State.modSrcRsv_kept | with_reducible apply State.dataGo_kept
      | with_reducible apply State.endMcast_kept | with_reducible apply Kept.ite | (intro _ _ _) | (intro _ _) | (intro _)
      | exact KeptOpt.of rfl (by with_reducible assumption) | exact KeptPair.of rfl (by with_reducible assumption)
      | with_reducible apply KeptOpt.ite | with_reducible refine KeptOpt.mapState ?_ (fun _ _ => ?_)
      | with_reducible refine KeptOpt.map (fun _ => ?_) | with_reducible apply KeptOpt.some | with_reducible exact KeptOpt.none
      | with_reducible apply KeptPair.ite | with_reducible apply KeptPair.some | with_reducible exact KeptPair.none
      | (extract_lets +onlyGivenNames x
         first
         | (refine Kept.cut (k := κ) (s := x) ?_ ?_; subst x; rotate_left; intro hx; clear_value x; revert x; intro _ _)
         | (refine KeptOpt.cut (k := κ) (o := x) ?_ ?_; subst x; rotate_left; intro hx; clear_value x; revert x; intro _ _)
         | (refine KeptPair.cut (k := κ) (o := x) ?_ ?_; subst x; rotate_left; intro hx; clear_value x; revert x; intro _ _)
         | (clear_value x; revert x; intro _))
      | dsimp -zeta only | split | simp -zeta only [Kept.mk_iff])

theorem State.callLimitCell_kept {κ : Fixed} {s : State} (c : Coord) (mid : Nat) (hk : Kept κ s) :
    Kept κ (State.callLimitCell s c mid) := by
  unfold State.callLimitCell
  repeat' (first
      | with_reducible assumption | with_reducible apply State.endMcast_kept | with_reducible apply Kept.ite | (intro _ _ _)
      | (intro _ _) | (intro _) | dsimp -zeta only | split | with_reducible refine Kept.mk_time ?_ (Nat.le_max_left _ _)
      | with_reducible refine Kept.mk_time ?_ (Nat.le_add_right _ _) | simp -zeta only [Kept.mk_iff])

theorem State.mcastDataCell_kept {κ : Fixed} {s : State} (c : Coord) (p : Packet) (t : RectTail) (hk : Kept κ s) :
    Kept κ (State.mcastDataCell s c p t) := by
  unfold State.mcastDataCell
  repeat' (first
      | with_reducible assumption | with_reducible apply State.bumpLanding_kept | with_reducible apply State.mresAnswer_kept
      | with_reducible apply State.landBytes_kept | with_reducible apply State.checkFault_kept
      | with_reducible apply State.failLanding_kept | with_reducible apply State.noteCheck_kept | with_reducible apply Kept.ite
      | (extract_lets +onlyGivenNames x
         first
         | (refine Kept.cut (k := κ) (s := x) ?_ ?_; subst x; rotate_left; intro hx; clear_value x; revert x; intro _ _)
         | (clear_value x; revert x; intro _))
      | dsimp -zeta only | split)

end Sys2Proof.Machine
end

