-- ==== Sys2Proof/Laws/KeptRingOps.lean ====
section
/-! SUPPORT. Every operation of Machine/RingOps.lean keeps the build, the queue and the canonical form. -/

namespace Sys2Proof.Machine

set_option linter.all false

theorem State.creditBeatInsert_kept {κ : Fixed} {s : State} (c : Coord) (p : Nat) (hk : Kept κ s) :
    Kept κ (State.creditBeatInsert s c p) := by
  unfold State.creditBeatInsert
  repeat' (first
      | with_reducible assumption | with_reducible apply State.modOut_kept | with_reducible apply State.betweenGusts_kept
      | with_reducible apply Kept.ite | (intro _ _ _) | (intro _ _) | (intro _)
      | (extract_lets +onlyGivenNames x
         first
         | (refine Kept.cut (k := κ) (s := x) ?_ ?_; subst x; rotate_left; intro hx; clear_value x; revert x; intro _ _)
         | (clear_value x; revert x; intro _))
      | dsimp -zeta only | split | with_reducible refine Kept.mk_time ?_ (Nat.le_max_left _ _)
      | with_reducible refine Kept.mk_time ?_ (Nat.le_add_right _ _) | simp -zeta only [Kept.mk_iff])

theorem State.startWindow_kept {κ : Fixed} {s : State} (c : Coord) (p : Nat) (at_ : Nat) (hk : Kept κ s) :
    Kept κ (State.startWindow s c p at_) := by
  unfold State.startWindow
  repeat' (first
      | with_reducible assumption | with_reducible apply State.modOut_kept | with_reducible apply Kept.ite
      | with_reducible apply Kept.foldl | with_reducible apply Kept.foldl_fst | with_reducible apply Kept.foldl_snd | (intro _ _ _)
      | (intro _ _) | (intro _)
      | (extract_lets +onlyGivenNames x
         first
         | (refine Kept.cut (k := κ) (s := x) ?_ ?_; subst x; rotate_left; intro hx; clear_value x; revert x; intro _ _)
         | (subst x))
      | dsimp -zeta only | split | simp -zeta only [Kept.mk_iff])

theorem State.windowBoundary_kept {κ : Fixed} {s : State} (c : Coord) (p : Nat) (hk : Kept κ s) :
    Kept κ (State.windowBoundary s c p) := by
  unfold State.windowBoundary
  repeat' (first
      | with_reducible assumption | with_reducible apply State.startWindow_kept | with_reducible apply Kept.ite
      | (extract_lets +onlyGivenNames x
         first
         | (refine Kept.cut (k := κ) (s := x) ?_ ?_; subst x; rotate_left; intro hx; clear_value x; revert x; intro _ _)
         | (clear_value x; revert x; intro _))
      | dsimp -zeta only | split | with_reducible refine Kept.mk_time ?_ (Nat.le_max_left _ _)
      | with_reducible refine Kept.mk_time ?_ (Nat.le_add_right _ _) | simp -zeta only [Kept.mk_iff])

theorem State.restartOutputs_kept {κ : Fixed} {s : State} (f : Nat) (hk : Kept κ s) :
    Kept κ (State.restartOutputs s f) := by
  unfold State.restartOutputs
  repeat' (first
      | with_reducible assumption | with_reducible apply State.modOut_kept | with_reducible apply State.startWindow_kept
      | with_reducible apply Kept.ite | with_reducible apply Kept.foldl | with_reducible apply Kept.foldl_fst
      | with_reducible apply Kept.foldl_snd | (intro _ _ _) | (intro _ _) | (intro _) | dsimp -zeta only | split
      | simp -zeta only [Kept.mk_iff])

theorem State.claimArise_kept {κ : Fixed} {s : State} (c : Coord) (p : Nat) (hk : Kept κ s) :
    Kept κ (State.claimArise s c p) := by
  unfold State.claimArise
  repeat' (first
      | with_reducible assumption | with_reducible apply State.modOut_kept | with_reducible apply Kept.ite | (intro _ _ _)
      | (intro _ _) | (intro _)
      | (extract_lets +onlyGivenNames x
         first
         | (refine Kept.cut (k := κ) (s := x) ?_ ?_; subst x; rotate_left; intro hx; clear_value x; revert x; intro _ _)
         | (clear_value x; revert x; intro _))
      | dsimp -zeta only | split | with_reducible refine Kept.mk_time ?_ (Nat.le_max_left _ _)
      | with_reducible refine Kept.mk_time ?_ (Nat.le_add_right _ _) | simp -zeta only [Kept.mk_iff])

theorem State.claimLapse_kept {κ : Fixed} {s : State} (c : Coord) (p : Nat) (hk : Kept κ s) :
    Kept κ (State.claimLapse s c p) := by
  unfold State.claimLapse
  repeat' (first
      | with_reducible assumption | with_reducible apply State.bump_kept | with_reducible apply State.modOut_kept
      | with_reducible apply Kept.ite | with_reducible apply Kept.foldl | with_reducible apply Kept.foldl_fst
      | with_reducible apply Kept.foldl_snd | (intro _ _ _) | (intro _ _) | (intro _)
      | (extract_lets +onlyGivenNames x
         first
         | (refine Kept.cut (k := κ) (s := x) ?_ ?_; subst x; rotate_left; intro hx; clear_value x; revert x; intro _ _)
         | (clear_value x; revert x; intro _))
      | dsimp -zeta only | split | with_reducible refine Kept.mk_time ?_ (Nat.le_max_left _ _)
      | with_reducible refine Kept.mk_time ?_ (Nat.le_add_right _ _) | simp -zeta only [Kept.mk_iff])

theorem State.slotApply_kept {κ : Fixed} {s : State} (c : Coord) (p : Nat) (hk : Kept κ s) :
    Kept κ (State.slotApply s c p) := by
  unfold State.slotApply
  repeat' (first
      | with_reducible assumption | with_reducible apply State.setTab_kept | with_reducible apply State.modOut_kept
      | with_reducible apply Kept.ite | (intro _ _ _) | (intro _ _) | (intro _) | exact KeptOpt.of rfl (by with_reducible assumption)
      | exact KeptPair.of rfl (by with_reducible assumption) | with_reducible apply KeptOpt.ite
      | with_reducible refine KeptOpt.mapState ?_ (fun _ _ => ?_) | with_reducible refine KeptOpt.map (fun _ => ?_)
      | with_reducible apply KeptOpt.some | with_reducible exact KeptOpt.none | with_reducible apply KeptPair.ite
      | with_reducible apply KeptPair.some | with_reducible exact KeptPair.none
      | (extract_lets +onlyGivenNames x
         first
         | (refine Kept.cut (k := κ) (s := x) ?_ ?_; subst x; rotate_left; intro hx; clear_value x; revert x; intro _ _)
         | (refine KeptOpt.cut (k := κ) (o := x) ?_ ?_; subst x; rotate_left; intro hx; clear_value x; revert x; intro _ _)
         | (refine KeptPair.cut (k := κ) (o := x) ?_ ?_; subst x; rotate_left; intro hx; clear_value x; revert x; intro _ _)
         | (clear_value x; revert x; intro _))
      | dsimp -zeta only | split | with_reducible refine Kept.mk_time ?_ (Nat.le_max_left _ _)
      | with_reducible refine Kept.mk_time ?_ (Nat.le_add_right _ _) | simp -zeta only [Kept.mk_iff])

theorem State.syncRequest_kept {κ : Fixed} {s : State} (c : Coord) (q : Nat) (hk : Kept κ s) :
    Kept κ (State.syncRequest s c q) := by
  unfold State.syncRequest
  repeat' (first
      | with_reducible assumption | with_reducible apply State.modOut_kept | with_reducible apply State.betweenGusts_kept
      | with_reducible apply Kept.ite | (intro _ _ _) | (intro _ _) | (intro _) | dsimp -zeta only | split
      | simp -zeta only [Kept.mk_iff])

theorem State.syncMarker_kept {κ : Fixed} {s : State} (c : Coord) (p : Nat) (hk : Kept κ s) :
    Kept κ (State.syncMarker s c p) := by
  unfold State.syncMarker
  repeat' (first
      | with_reducible assumption | with_reducible apply State.modOut_kept | with_reducible apply State.finishSync_kept
      | with_reducible apply Kept.ite | (intro _ _ _) | (intro _ _) | (intro _) | dsimp -zeta only | split
      | simp -zeta only [Kept.mk_iff])

theorem State.syncReply_kept {κ : Fixed} {s : State} (c : Coord) (p : Nat) (counts : List Nat) (hk : Kept κ s) :
    Kept κ (State.syncReply s c p counts) := by
  unfold State.syncReply
  repeat' (first
      | with_reducible assumption | with_reducible apply State.modOut_kept | with_reducible apply State.finishSync_kept
      | with_reducible apply Kept.ite | (intro _ _ _) | (intro _ _) | (intro _) | dsimp -zeta only | split
      | simp -zeta only [Kept.mk_iff])

theorem State.syncRetry_kept {κ : Fixed} {s : State} (c : Coord) (p : Nat) (hk : Kept κ s) :
    Kept κ (State.syncRetry s c p) := by
  unfold State.syncRetry
  repeat' (first
      | with_reducible assumption | with_reducible apply State.modOut_kept | with_reducible apply State.linkLocal_kept
      | with_reducible apply Kept.ite | (intro _ _ _) | (intro _ _) | (intro _) | exact KeptOpt.of rfl (by with_reducible assumption)
      | exact KeptPair.of rfl (by with_reducible assumption) | with_reducible apply KeptOpt.ite
      | with_reducible refine KeptOpt.mapState ?_ (fun _ _ => ?_) | with_reducible refine KeptOpt.map (fun _ => ?_)
      | with_reducible apply KeptOpt.some | with_reducible exact KeptOpt.none | with_reducible apply KeptPair.ite
      | with_reducible apply KeptPair.some | with_reducible exact KeptPair.none
      | (extract_lets +onlyGivenNames x
         first
         | (refine Kept.cut (k := κ) (s := x) ?_ ?_; subst x; rotate_left; intro hx; clear_value x; revert x; intro _ _)
         | (refine KeptOpt.cut (k := κ) (o := x) ?_ ?_; subst x; rotate_left; intro hx; clear_value x; revert x; intro _ _)
         | (refine KeptPair.cut (k := κ) (o := x) ?_ ?_; subst x; rotate_left; intro hx; clear_value x; revert x; intro _ _)
         | (clear_value x; revert x; intro _))
      | dsimp -zeta only | split | with_reducible refine Kept.mk_time ?_ (Nat.le_max_left _ _)
      | with_reducible refine Kept.mk_time ?_ (Nat.le_add_right _ _) | simp -zeta only [Kept.mk_iff])

theorem State.creditSignal_kept {κ : Fixed} {s : State} (c : Coord) (q : Nat) (hk : Kept κ s) :
    Kept κ (State.creditSignal s c q) := by
  unfold State.creditSignal
  repeat' (first
      | with_reducible assumption | with_reducible apply State.bump_kept | with_reducible apply State.modLane_kept
      | with_reducible apply State.linkLocal_kept | with_reducible apply Kept.ite | with_reducible apply Kept.foldl
      | with_reducible apply Kept.foldl_fst | with_reducible apply Kept.foldl_snd | (intro _ _ _) | (intro _ _) | (intro _)
      | (extract_lets +onlyGivenNames x
         first
         | (refine Kept.cut (k := κ) (s := x) ?_ ?_; subst x; rotate_left; intro hx; clear_value x; revert x; intro _ _)
         | (clear_value x; revert x; intro _))
      | dsimp -zeta only | split | with_reducible refine Kept.mk_time ?_ (Nat.le_max_left _ _)
      | with_reducible refine Kept.mk_time ?_ (Nat.le_add_right _ _) | simp -zeta only [Kept.mk_iff])

theorem State.creditSignalAt_kept {κ : Fixed} {s : State} (c : Coord) (p : Nat) (counts : List Nat) (hk : Kept κ s) :
    Kept κ (State.creditSignalAt s c p counts) := by
  unfold State.creditSignalAt
  repeat' (first
      | with_reducible assumption | with_reducible apply State.modOut_kept | with_reducible apply Kept.ite
      | with_reducible apply Kept.foldl | with_reducible apply Kept.foldl_fst | with_reducible apply Kept.foldl_snd | (intro _ _ _)
      | (intro _ _) | (intro _)
      | (extract_lets +onlyGivenNames x
         first
         | (refine Kept.cut (k := κ) (s := x) ?_ ?_; subst x; rotate_left; intro hx; clear_value x; revert x; intro _ _)
         | (clear_value x; revert x; intro _))
      | dsimp -zeta only | split | simp -zeta only [Kept.mk_iff])

theorem State.hardStop_kept {κ : Fixed} {s : State} (c : Coord) (p : Nat) (on : Bool) (hk : Kept κ s) :
    Kept κ (State.hardStop s c p on) := by
  unfold State.hardStop
  repeat' (first
      | with_reducible assumption | with_reducible apply State.modOut_kept | with_reducible apply State.noteStop_kept
      | with_reducible apply State.cutBegun_kept | with_reducible apply Kept.ite | (intro _ _ _) | (intro _ _) | (intro _)
      | (extract_lets +onlyGivenNames x
         first
         | (refine Kept.cut (k := κ) (s := x) ?_ ?_; subst x; rotate_left; intro hx; clear_value x; revert x; intro _ _)
         | (clear_value x; revert x; intro _))
      | dsimp -zeta only | split | simp -zeta only [Kept.mk_iff])

theorem State.fenceNacks_kept {κ : Fixed} {s : State} (c : Coord) (p : Nat) (hk : Kept κ s) :
    Kept κ (State.fenceNacks s c p) := by
  unfold State.fenceNacks
  repeat' (first
      | with_reducible assumption | with_reducible apply State.raiseNack_kept | with_reducible apply State.modOut_kept
      | with_reducible apply State.lose_kept | with_reducible apply Kept.ite | with_reducible apply Kept.foldl
      | with_reducible apply Kept.foldl_fst | with_reducible apply Kept.foldl_snd | (intro _ _ _) | (intro _ _) | (intro _)
      | with_reducible apply KeptOpt.foldl | exact KeptOpt.of rfl (by with_reducible assumption)
      | exact KeptPair.of rfl (by with_reducible assumption) | with_reducible apply KeptOpt.ite
      | with_reducible refine KeptOpt.mapState ?_ (fun _ _ => ?_) | with_reducible refine KeptOpt.map (fun _ => ?_)
      | with_reducible apply KeptOpt.some | with_reducible exact KeptOpt.none | with_reducible apply KeptPair.ite
      | with_reducible apply KeptPair.some | with_reducible exact KeptPair.none
      | (extract_lets +onlyGivenNames x
         first
         | (refine Kept.cut (k := κ) (s := x) ?_ ?_; subst x; rotate_left; intro hx; clear_value x; revert x; intro _ _)
         | (refine KeptOpt.cut (k := κ) (o := x) ?_ ?_; subst x; rotate_left; intro hx; clear_value x; revert x; intro _ _)
         | (refine KeptPair.cut (k := κ) (o := x) ?_ ?_; subst x; rotate_left; intro hx; clear_value x; revert x; intro _ _)
         | (clear_value x; revert x; intro _))
      | dsimp -zeta only | split | simp -zeta only [Kept.mk_iff])

theorem State.addHole_kept {κ : Fixed} {s : State} (h : Coord) (origin : Nat) (hk : Kept κ s) :
    Kept κ (State.addHole s h origin) := by
  unfold State.addHole
  repeat' (first
      | with_reducible assumption | with_reducible apply Kept.ite | exact KeptOpt.of rfl (by with_reducible assumption)
      | exact KeptPair.of rfl (by with_reducible assumption) | with_reducible apply KeptOpt.ite
      | with_reducible refine KeptOpt.mapState ?_ (fun _ _ => ?_) | with_reducible refine KeptOpt.map (fun _ => ?_)
      | with_reducible apply KeptOpt.some | with_reducible exact KeptOpt.none | with_reducible apply KeptPair.ite
      | with_reducible apply KeptPair.some | with_reducible exact KeptPair.none
      | (extract_lets +onlyGivenNames x
         first
         | (refine Kept.cut (k := κ) (s := x) ?_ ?_; subst x; rotate_left; intro hx; clear_value x; revert x; intro _ _)
         | (refine KeptOpt.cut (k := κ) (o := x) ?_ ?_; subst x; rotate_left; intro hx; clear_value x; revert x; intro _ _)
         | (refine KeptPair.cut (k := κ) (o := x) ?_ ?_; subst x; rotate_left; intro hx; clear_value x; revert x; intro _ _)
         | (clear_value x; revert x; intro _))
      | dsimp -zeta only | split | simp -zeta only [Kept.mk_iff])

theorem State.abandonCell_kept {κ : Fixed} {s : State} (c : Coord) (hk : Kept κ s) :
    Kept κ (State.abandonCell s c) := by
  unfold State.abandonCell
  repeat' (first
      | with_reducible assumption | with_reducible apply State.modCell_kept | with_reducible apply Kept.ite | (intro _ _ _)
      | (intro _ _) | (intro _)
      | (extract_lets +onlyGivenNames x
         first
         | (refine Kept.cut (k := κ) (s := x) ?_ ?_; subst x; rotate_left; intro hx; clear_value x; revert x; intro _ _)
         | (clear_value x; revert x; intro _))
      | dsimp -zeta only | split | simp -zeta only [Kept.mk_iff])

theorem State.loseRouter_kept {κ : Fixed} {s : State} (h : Coord) (hk : Kept κ s) :
    Kept κ (State.loseRouter s h) := by
  unfold State.loseRouter
  repeat' (first
      | with_reducible assumption | with_reducible apply Kept.ite | (intro _ _ _) | (intro _ _) | (intro _) | dsimp -zeta only | split
      | simp -zeta only [Kept.mk_iff])

theorem State.takeFrom_kept {κ : Fixed} {s : State} (ns : List (Coord × Nat)) (hk : Kept κ s) :
    Kept κ (State.takeFrom s ns) := by
  unfold State.takeFrom
  repeat' (first
      | with_reducible assumption | with_reducible apply State.recvBeat_kept | with_reducible apply Kept.ite
      | with_reducible apply Kept.foldl | with_reducible apply Kept.foldl_fst | with_reducible apply Kept.foldl_snd | (intro _ _ _)
      | (intro _ _) | (intro _)
      | (extract_lets +onlyGivenNames x
         first
         | (refine Kept.cut (k := κ) (s := x) ?_ ?_; subst x; rotate_left; intro hx; clear_value x; revert x; intro _ _)
         | (clear_value x; revert x; intro _))
      | dsimp -zeta only | split | simp -zeta only [Kept.mk_iff])

theorem State.recloseStart_kept {κ : Fixed} {s : State} (h : Coord) (origin : Nat) (hk : Kept κ s) :
    Kept κ (State.recloseStart s h origin) := by
  unfold State.recloseStart
  repeat' (first
      | with_reducible assumption | with_reducible apply State.setReg_kept | with_reducible apply State.sendSig_kept
      | with_reducible apply State.modIn_kept | with_reducible apply State.modLane_kept | with_reducible apply State.tidyRouter_kept
      | with_reducible apply State.fillOpen_kept | with_reducible apply State.hardStop_kept
      | with_reducible apply State.fenceNacks_kept | with_reducible apply State.addHole_kept
      | with_reducible apply State.abandonCell_kept | with_reducible apply State.loseRouter_kept
      | with_reducible apply State.takeFrom_kept | with_reducible apply Kept.ite | with_reducible apply Kept.foldl
      | with_reducible apply Kept.foldl_fst | with_reducible apply Kept.foldl_snd | (intro _ _ _) | (intro _ _) | (intro _)
      | (extract_lets +onlyGivenNames x
         first
         | (refine Kept.cut (k := κ) (s := x) ?_ ?_; subst x; rotate_left; intro hx; clear_value x; revert x; intro _ _)
         | (clear_value x; revert x; intro _))
      | dsimp -zeta only | split | simp -zeta only [Kept.mk_iff])

theorem State.fenceCell_kept {κ : Fixed} {s : State} (h : Coord) (origin : Nat) (hk : Kept κ s) :
    Kept κ (State.fenceCell s h origin) := by
  unfold State.fenceCell
  repeat' (first
      | with_reducible assumption | with_reducible apply State.setReg_kept | with_reducible apply State.faultEvent_kept
      | with_reducible apply State.faultLive_kept | with_reducible apply State.routeChange_kept
      | with_reducible apply State.decideFence_kept | with_reducible apply State.recloseStart_kept | with_reducible apply Kept.ite
      | (intro _ _ _) | (intro _ _) | (intro _) | exact KeptOpt.of rfl (by with_reducible assumption)
      | exact KeptPair.of rfl (by with_reducible assumption) | with_reducible apply KeptOpt.ite
      | with_reducible refine KeptOpt.mapState ?_ (fun _ _ => ?_) | with_reducible refine KeptOpt.map (fun _ => ?_)
      | with_reducible apply KeptOpt.some | with_reducible exact KeptOpt.none | with_reducible apply KeptPair.ite
      | with_reducible apply KeptPair.some | with_reducible exact KeptPair.none
      | (extract_lets +onlyGivenNames x
         first
         | (refine Kept.cut (k := κ) (s := x) ?_ ?_; subst x; rotate_left; intro hx; clear_value x; revert x; intro _ _)
         | (refine KeptOpt.cut (k := κ) (o := x) ?_ ?_; subst x; rotate_left; intro hx; clear_value x; revert x; intro _ _)
         | (refine KeptPair.cut (k := κ) (o := x) ?_ ?_; subst x; rotate_left; intro hx; clear_value x; revert x; intro _ _)
         | (clear_value x; revert x; intro _))
      | dsimp -zeta only | split | simp -zeta only [Kept.mk_iff])

theorem State.fenceStranded_kept {κ : Fixed} {s : State} (h : Coord) (n0 : Nat) (hk : Kept κ s) :
    Kept κ (State.fenceStranded s h n0) := by
  induction n0 generalizing s h with
  | zero => exact hk
  | succ n ih =>
    rw [State.fenceStranded]
    repeat' (first
      | with_reducible assumption | with_reducible apply ih | with_reducible apply State.faultEvent_kept
      | with_reducible apply State.faultLive_kept | with_reducible apply State.fenceCell_kept | with_reducible apply Kept.ite
      | with_reducible apply Kept.foldl | with_reducible apply Kept.foldl_fst | with_reducible apply Kept.foldl_snd | (intro _ _ _)
      | (intro _ _) | (intro _)
      | (extract_lets +onlyGivenNames x
         first
         | (refine Kept.cut (k := κ) (s := x) ?_ ?_; subst x; rotate_left; intro hx; clear_value x; revert x; intro _ _)
         | (clear_value x; revert x; intro _))
      | dsimp -zeta only | split)

theorem State.fenceRouter_kept {κ : Fixed} {s : State} (h : Coord) (hk : Kept κ s) :
    Kept κ (State.fenceRouter s h) := by
  unfold State.fenceRouter
  repeat' (first
      | with_reducible assumption | with_reducible apply State.fenceCell_kept | with_reducible apply State.fenceStranded_kept
      | with_reducible apply Kept.ite | dsimp -zeta only | split)

theorem State.ringChangeAt_kept {κ : Fixed} {s : State} (c : Coord) (h : Coord) (hk : Kept κ s) :
    Kept κ (State.ringChangeAt s c h) := by
  unfold State.ringChangeAt
  repeat' (first
      | with_reducible assumption | with_reducible apply State.modRtr_kept | with_reducible apply State.tidyRouter_kept
      | with_reducible apply Kept.ite | (intro _ _ _) | (intro _ _) | (intro _)
      | (extract_lets +onlyGivenNames x
         first
         | (refine Kept.cut (k := κ) (s := x) ?_ ?_; subst x; rotate_left; intro hx; clear_value x; revert x; intro _ _)
         | (clear_value x; revert x; intro _))
      | dsimp -zeta only | split | simp -zeta only [Kept.mk_iff])

theorem State.rejoin_kept {κ : Fixed} {s : State} (c : Coord) (p : Nat) (hk : Kept κ s) :
    Kept κ (State.rejoin s c p) := by
  unfold State.rejoin
  repeat' (first
      | with_reducible assumption | with_reducible apply State.modRtr_kept | with_reducible apply State.modOut_kept
      | with_reducible apply Kept.ite | (intro _ _ _) | (intro _ _) | (intro _) | exact KeptOpt.of rfl (by with_reducible assumption)
      | exact KeptPair.of rfl (by with_reducible assumption) | with_reducible apply KeptOpt.ite
      | with_reducible refine KeptOpt.mapState ?_ (fun _ _ => ?_) | with_reducible refine KeptOpt.map (fun _ => ?_)
      | with_reducible apply KeptOpt.some | with_reducible exact KeptOpt.none | with_reducible apply KeptPair.ite
      | with_reducible apply KeptPair.some | with_reducible exact KeptPair.none
      | (extract_lets +onlyGivenNames x
         first
         | (refine Kept.cut (k := κ) (s := x) ?_ ?_; subst x; rotate_left; intro hx; clear_value x; revert x; intro _ _)
         | (refine KeptOpt.cut (k := κ) (o := x) ?_ ?_; subst x; rotate_left; intro hx; clear_value x; revert x; intro _ _)
         | (refine KeptPair.cut (k := κ) (o := x) ?_ ?_; subst x; rotate_left; intro hx; clear_value x; revert x; intro _ _)
         | (subst x))
      | dsimp -zeta only | split | simp -zeta only [Kept.mk_iff])

theorem State.recloseRelease_kept {κ : Fixed} {s : State} (h : Coord) (hk : Kept κ s) :
    Kept κ (State.recloseRelease s h) := by
  unfold State.recloseRelease
  repeat' (first
      | with_reducible assumption | with_reducible apply State.tidyRouter_kept | with_reducible apply State.hardStop_kept
      | with_reducible apply State.rejoin_kept | with_reducible apply Kept.ite | with_reducible apply Kept.foldl
      | with_reducible apply Kept.foldl_fst | with_reducible apply Kept.foldl_snd | (intro _ _ _) | (intro _ _) | (intro _)
      | with_reducible apply KeptOpt.foldl | exact KeptOpt.of rfl (by with_reducible assumption)
      | exact KeptPair.of rfl (by with_reducible assumption) | with_reducible apply KeptOpt.ite
      | with_reducible refine KeptOpt.mapState ?_ (fun _ _ => ?_) | with_reducible refine KeptOpt.map (fun _ => ?_)
      | with_reducible apply KeptOpt.some | with_reducible exact KeptOpt.none | with_reducible apply KeptPair.ite
      | with_reducible apply KeptPair.some | with_reducible exact KeptPair.none
      | (extract_lets +onlyGivenNames x
         first
         | (refine Kept.cut (k := κ) (s := x) ?_ ?_; subst x; rotate_left; intro hx; clear_value x; revert x; intro _ _)
         | (refine KeptOpt.cut (k := κ) (o := x) ?_ ?_; subst x; rotate_left; intro hx; clear_value x; revert x; intro _ _)
         | (refine KeptPair.cut (k := κ) (o := x) ?_ ?_; subst x; rotate_left; intro hx; clear_value x; revert x; intro _ _)
         | (clear_value x; revert x; intro _))
      | dsimp -zeta only | split | simp -zeta only [Kept.mk_iff])

theorem State.setTally_kept {κ : Fixed} {s : State} (f : Nat) (k : Nat) (v : Nat) (hk : Kept κ s) :
    Kept κ (State.setTally s f k v) := by
  unfold State.setTally
  repeat' (first
      | with_reducible assumption | with_reducible apply State.setTab_kept | with_reducible apply Kept.ite | dsimp -zeta only | split)

theorem State.anyAdvertise_kept {κ : Fixed} {s : State} (g : Nat) (hk : Kept κ s) :
    Kept κ (State.anyAdvertise s g) := by
  unfold State.anyAdvertise
  repeat' (first
      | with_reducible assumption | with_reducible apply State.sendSig_kept | with_reducible apply Kept.ite
      | with_reducible apply Kept.foldl | with_reducible apply Kept.foldl_fst | with_reducible apply Kept.foldl_snd | (intro _ _ _)
      | (intro _ _) | (intro _)
      | (extract_lets +onlyGivenNames x
         first
         | (refine Kept.cut (k := κ) (s := x) ?_ ?_; subst x; rotate_left; intro hx; clear_value x; revert x; intro _ _)
         | (clear_value x; revert x; intro _))
      | dsimp -zeta only | split)

theorem State.anyDecode_kept {κ : Fixed} {s : State} (g : Nat) (hk : Kept κ s) :
    Kept κ (State.anyDecode s g) := by
  unfold State.anyDecode
  repeat' (first
      | with_reducible assumption | with_reducible apply State.setReg_kept | with_reducible apply State.sendSig_kept
      | with_reducible apply State.setTally_kept | with_reducible apply Kept.ite
      | (extract_lets +onlyGivenNames x
         first
         | (refine Kept.cut (k := κ) (s := x) ?_ ?_; subst x; rotate_left; intro hx; clear_value x; revert x; intro _ _)
         | (clear_value x; revert x; intro _))
      | dsimp -zeta only | split)

theorem State.anyWinAt_kept {κ : Fixed} {s : State} (c : Coord) (g : Nat) (member : Nat) (no : Bool) (hk : Kept κ s) :
    Kept κ (State.anyWinAt s c g member no) := by
  unfold State.anyWinAt
  repeat' (first
      | with_reducible assumption | with_reducible apply State.modRtr_kept | with_reducible apply Kept.ite | (intro _ _ _)
      | (intro _ _) | (intro _) | dsimp -zeta only | split | simp -zeta only [Kept.mk_iff])

end Sys2Proof.Machine
end

