-- ==== Sys2Proof/Laws/KeptSigOps.lean ====
section
/-! SUPPORT. Every operation of Machine/SigOps.lean keeps the build, the queue and the canonical form. -/

namespace Sys2Proof.Machine

set_option linter.all false

theorem State.modSin_kept {κ : Fixed} {s : State} (c : Coord) (q : Nat) (f : SigIn → SigIn) (hk : Kept κ s) :
    Kept κ (State.modSin s c q f) := by
  unfold State.modSin
  repeat' (first
      | with_reducible assumption | with_reducible apply State.modRtr_kept | with_reducible apply Kept.ite | (intro _ _ _)
      | (intro _ _) | (intro _) | dsimp -zeta only | split | simp -zeta only [Kept.mk_iff])

theorem State.modSout_kept {κ : Fixed} {s : State} (c : Coord) (p : Nat) (f : SigOut → SigOut) (hk : Kept κ s) :
    Kept κ (State.modSout s c p f) := by
  unfold State.modSout
  repeat' (first
      | with_reducible assumption | with_reducible apply State.modRtr_kept | with_reducible apply Kept.ite | (intro _ _ _)
      | (intro _ _) | (intro _) | dsimp -zeta only | split | simp -zeta only [Kept.mk_iff])

theorem State.setSigLane_kept {κ : Fixed} {s : State} (c : Coord) (q : Nat) (lane : Nat) (l : List BufSig) (hk : Kept κ s) :
    Kept κ (State.setSigLane s c q lane l) := by
  unfold State.setSigLane
  repeat' (first
      | with_reducible assumption | with_reducible apply State.modSin_kept | with_reducible apply Kept.ite | (intro _ _ _)
      | (intro _ _) | (intro _) | dsimp -zeta only | split | simp -zeta only [Kept.mk_iff])

theorem State.putSigBeat_kept {κ : Fixed} {s : State} (c : Coord) (p : Nat) (cw : List Byte) (side : Nat) (route : RouteBits) (org : Coord) (copy : Bool) (hk : Kept κ s) :
    Kept κ (State.putSigBeat s c p cw side route org copy) := by
  unfold State.putSigBeat
  repeat' (first
      | with_reducible assumption | with_reducible apply Kept.ite | dsimp -zeta only | split | simp -zeta only [Kept.mk_iff])

theorem State.freeSig_kept {κ : Fixed} {s : State} (c : Coord) (q : Nat) (lane : Nat) (hk : Kept κ s) :
    Kept κ (State.freeSig s c q lane) := by
  unfold State.freeSig
  repeat' (first
      | with_reducible assumption | with_reducible apply State.modSin_kept | with_reducible apply State.putSigBeat_kept
      | with_reducible apply Kept.ite | (intro _ _ _) | (intro _ _) | (intro _)
      | (extract_lets +onlyGivenNames x
         first
         | (refine Kept.cut (k := κ) (s := x) ?_ ?_; subst x; rotate_left; intro hx; clear_value x; revert x; intro _ _)
         | (clear_value x; revert x; intro _))
      | dsimp -zeta only | split | simp -zeta only [Kept.mk_iff])

theorem State.discardSig_kept {κ : Fixed} {s : State} (c : Coord) (hk : Kept κ s) :
    Kept κ (State.discardSig s c) := by
  unfold State.discardSig
  repeat' (first
      | with_reducible assumption | with_reducible apply State.bump_kept | with_reducible apply Kept.ite | dsimp -zeta only | split)

theorem State.emitSig_kept {κ : Fixed} {s : State} (c : Coord) (g : OutLeg) (beats : List Nat) (org : Coord) (hk : Kept κ s) :
    Kept κ (State.emitSig s c g beats org) := by
  unfold State.emitSig
  repeat' (first
      | with_reducible assumption | with_reducible apply State.bump_kept | with_reducible apply State.countEvent_kept
      | with_reducible apply State.modSout_kept | with_reducible apply State.putSigBeat_kept
      | with_reducible apply State.discardSig_kept | with_reducible apply Kept.ite | with_reducible apply Kept.foldl
      | with_reducible apply Kept.foldl_fst | with_reducible apply Kept.foldl_snd | (intro _ _ _) | (intro _ _) | (intro _)
      | (extract_lets +onlyGivenNames x
         first
         | (refine Kept.cut (k := κ) (s := x) ?_ ?_; subst x; rotate_left; intro hx; clear_value x; revert x; intro _ _)
         | (clear_value x; revert x; intro _))
      | dsimp -zeta only | split | simp -zeta only [Kept.mk_iff])

theorem State.maintSig_kept {κ : Fixed} {s : State} (c : Coord) (sg : Signal) (hk : Kept κ s) :
    Kept κ (State.maintSig s c sg) := by
  unfold State.maintSig
  repeat' (first
      | with_reducible assumption | with_reducible apply State.exitSig_kept | with_reducible apply State.sendSig_kept
      | with_reducible apply State.discardSig_kept | with_reducible apply Kept.ite
      | refine KeptOpt.of (by with_reducible assumption) ?_ | with_reducible apply KeptOpt.getD | dsimp -zeta only | split
      | simp -zeta only [Kept.mk_iff])

theorem State.sinkSig_kept {κ : Fixed} {s : State} (c : Coord) (sg : Signal) (hk : Kept κ s) :
    Kept κ (State.sinkSig s c sg) := by
  unfold State.sinkSig
  repeat' (first
      | with_reducible assumption | with_reducible apply State.maintSig_kept | with_reducible apply Kept.ite
      | (extract_lets +onlyGivenNames x
         first
         | (refine Kept.cut (k := κ) (s := x) ?_ ?_; subst x; rotate_left; intro hx; clear_value x; revert x; intro _ _)
         | (clear_value x; revert x; intro _))
      | dsimp -zeta only | split | simp -zeta only [Kept.mk_iff])

theorem State.addSeg_kept {κ : Fixed} {s : State} (c : Coord) (a : Nat) (b : Nat) (hk : Kept κ s) :
    Kept κ (State.addSeg s c a b) := by
  unfold State.addSeg
  repeat' (first
      | with_reducible assumption | with_reducible apply State.modPort_kept | with_reducible apply Kept.ite | (intro _ _ _)
      | (intro _ _) | (intro _) | exact KeptOpt.of rfl (by with_reducible assumption)
      | exact KeptPair.of rfl (by with_reducible assumption) | with_reducible apply KeptOpt.ite
      | with_reducible refine KeptOpt.mapState ?_ (fun _ _ => ?_) | with_reducible refine KeptOpt.map (fun _ => ?_)
      | with_reducible apply KeptOpt.some | with_reducible exact KeptOpt.none | with_reducible apply KeptPair.ite
      | with_reducible apply KeptPair.some | with_reducible exact KeptPair.none
      | (extract_lets +onlyGivenNames x
         first
         | (refine Kept.cut (k := κ) (s := x) ?_ ?_; subst x; rotate_left; intro hx; clear_value x; revert x; intro _ _)
         | (refine KeptOpt.cut (k := κ) (o := x) ?_ ?_; subst x; rotate_left; intro hx; clear_value x; revert x; intro _ _)
         | (refine KeptPair.cut (k := κ) (o := x) ?_ ?_; subst x; rotate_left; intro hx; clear_value x; revert x; intro _ _)
         | (subst x))
      | dsimp -zeta only | split | simp -zeta only [Kept.mk_iff])

theorem State.addSegs_kept {κ : Fixed} {s : State} (c : Coord) (n0 : Nat) (hk : Kept κ s) :
    Kept κ (State.addSegs s c n0) := by
  induction n0 generalizing s with
  | zero => exact hk
  | succ n ih =>
    rw [State.addSegs]
    repeat' (first
      | with_reducible assumption | with_reducible apply ih | with_reducible apply State.addSeg_kept | with_reducible apply Kept.ite
      | (intro _ _ _) | (intro _ _) | (intro _) | dsimp -zeta only | split | simp -zeta only [Kept.mk_iff])

theorem State.takeSegment_kept {κ : Fixed} {s : State} (c : Coord) (a : Nat) (b : Nat) (hk : Kept κ s) :
    Kept κ (State.takeSegment s c a b) := by
  unfold State.takeSegment
  repeat' (first
      | with_reducible assumption | with_reducible apply State.fresh_kept | with_reducible apply State.addSegs_kept
      | with_reducible apply Kept.ite | (intro _ _ _) | (intro _ _) | (intro _) | refine Kept.of_snd (by with_reducible assumption) ?_
      | refine Kept.of_fst (by with_reducible assumption) ?_
      | (extract_lets +onlyGivenNames x
         first
         | (refine Kept.cut (k := κ) (s := x) ?_ ?_; subst x; rotate_left; intro hx; clear_value x; revert x; intro _ _)
         | (refine Kept.cut1 (k := κ) (s := x) ?_ ?_; subst x; rotate_left; intro hx; clear_value x; revert x; intro _ _)
         | (refine Kept.cut2 (k := κ) (s := x) ?_ ?_; subst x; rotate_left; intro hx; clear_value x; revert x; intro _ _)
         | (clear_value x; revert x; intro _))
      | dsimp -zeta only | split | simp -zeta only [Kept.mk_iff])

theorem State.deliverSig_kept {κ : Fixed} {s : State} (c : Coord) (b : BufSig) (hk : Kept κ s) :
    Kept κ (State.deliverSig s c b) := by
  unfold State.deliverSig
  repeat' (first
      | with_reducible assumption | with_reducible apply State.exitSig_kept | with_reducible apply State.discardSig_kept
      | with_reducible apply State.sinkSig_kept | with_reducible apply State.addSegs_kept
      | with_reducible apply State.takeSegment_kept | with_reducible apply Kept.ite
      | refine KeptOpt.of (by with_reducible assumption) ?_ | with_reducible apply KeptOpt.getD
      | exact KeptOpt.of rfl (by with_reducible assumption) | exact KeptPair.of rfl (by with_reducible assumption)
      | with_reducible apply KeptOpt.ite | with_reducible refine KeptOpt.mapState ?_ (fun _ _ => ?_)
      | with_reducible refine KeptOpt.map (fun _ => ?_) | with_reducible apply KeptOpt.some | with_reducible exact KeptOpt.none
      | with_reducible apply KeptPair.ite | with_reducible apply KeptPair.some | with_reducible exact KeptPair.none
      | (extract_lets +onlyGivenNames x
         first
         | (refine Kept.cut (k := κ) (s := x) ?_ ?_; subst x; rotate_left; intro hx; clear_value x; revert x; intro _ _)
         | (refine KeptOpt.cut (k := κ) (o := x) ?_ ?_; subst x; rotate_left; intro hx; clear_value x; revert x; intro _ _)
         | (refine KeptPair.cut (k := κ) (o := x) ?_ ?_; subst x; rotate_left; intro hx; clear_value x; revert x; intro _ _)
         | (clear_value x; revert x; intro _))
      | dsimp -zeta only | split | simp -zeta only [Kept.mk_iff])

theorem State.callHoles_kept {κ : Fixed} {s : State} (c : Coord) (q : Nat) (lane : Nat) (b : BufSig) (hk : Kept κ s) :
    Kept κ (State.callHoles s c q lane b) := by
  unfold State.callHoles
  repeat' (first
      | with_reducible assumption | with_reducible apply State.mresHoles_kept | with_reducible apply Kept.ite
      | exact KeptOpt.of rfl (by with_reducible assumption) | exact KeptPair.of rfl (by with_reducible assumption)
      | with_reducible apply KeptOpt.ite | with_reducible refine KeptOpt.mapState ?_ (fun _ _ => ?_)
      | with_reducible refine KeptOpt.map (fun _ => ?_) | with_reducible apply KeptOpt.some | with_reducible exact KeptOpt.none
      | with_reducible apply KeptPair.ite | with_reducible apply KeptPair.some | with_reducible exact KeptPair.none
      | (extract_lets +onlyGivenNames x
         first
         | (refine Kept.cut (k := κ) (s := x) ?_ ?_; subst x; rotate_left; intro hx; clear_value x; revert x; intro _ _)
         | (refine KeptOpt.cut (k := κ) (o := x) ?_ ?_; subst x; rotate_left; intro hx; clear_value x; revert x; intro _ _)
         | (refine KeptPair.cut (k := κ) (o := x) ?_ ?_; subst x; rotate_left; intro hx; clear_value x; revert x; intro _ _)
         | (clear_value x; revert x; intro _))
      | dsimp -zeta only | split)

theorem State.settleSig_kept {κ : Fixed} {s : State} (c : Coord) (q : Nat) (lane : Nat) (n0 : Nat) (hk : Kept κ s) :
    Kept κ (State.settleSig s c q lane n0) := by
  induction n0 generalizing s with
  | zero => exact hk
  | succ n ih =>
    rw [State.settleSig]
    repeat' (first
      | with_reducible assumption | with_reducible apply ih | with_reducible apply State.setSigLane_kept
      | with_reducible apply State.freeSig_kept | with_reducible apply State.discardSig_kept
      | with_reducible apply State.deliverSig_kept | with_reducible apply State.callHoles_kept | with_reducible apply Kept.ite
      | (intro _ _ _) | (intro _ _) | (intro _) | exact KeptOpt.of rfl (by with_reducible assumption)
      | exact KeptPair.of rfl (by with_reducible assumption) | with_reducible apply KeptOpt.ite
      | with_reducible refine KeptOpt.mapState ?_ (fun _ _ => ?_) | with_reducible refine KeptOpt.map (fun _ => ?_)
      | with_reducible apply KeptOpt.some | with_reducible exact KeptOpt.none | with_reducible apply KeptPair.ite
      | with_reducible apply KeptPair.some | with_reducible exact KeptPair.none
      | (extract_lets +onlyGivenNames x
         first
         | (refine Kept.cut (k := κ) (s := x) ?_ ?_; subst x; rotate_left; intro hx; clear_value x; revert x; intro _ _)
         | (refine KeptOpt.cut (k := κ) (o := x) ?_ ?_; subst x; rotate_left; intro hx; clear_value x; revert x; intro _ _)
         | (refine KeptPair.cut (k := κ) (o := x) ?_ ?_; subst x; rotate_left; intro hx; clear_value x; revert x; intro _ _)
         | (subst x))
      | dsimp -zeta only | split | simp -zeta only [Kept.mk_iff])

theorem State.settleSigs_kept {κ : Fixed} {s : State} (c : Coord) (hk : Kept κ s) :
    Kept κ (State.settleSigs s c) := by
  unfold State.settleSigs
  repeat' (first
      | with_reducible assumption | with_reducible apply State.settleSig_kept | with_reducible apply Kept.ite
      | with_reducible apply Kept.foldl | with_reducible apply Kept.foldl_fst | with_reducible apply Kept.foldl_snd | (intro _ _ _)
      | (intro _ _) | (intro _) | dsimp -zeta only | split)

theorem State.serveOutput_kept {κ : Fixed} {s : State} (c : Coord) (p : Nat) (n0 : Nat) (hk : Kept κ s) :
    Kept κ (State.serveOutput s c p n0) := by
  induction n0 generalizing s with
  | zero => exact hk
  | succ n ih =>
    rw [State.serveOutput]
    repeat' (first
      | with_reducible assumption | with_reducible apply ih | with_reducible apply State.modSout_kept
      | with_reducible apply State.setSigLane_kept | with_reducible apply State.emitSig_kept
      | with_reducible apply State.settleSig_kept | with_reducible apply Kept.ite | with_reducible apply Kept.foldl
      | with_reducible apply Kept.foldl_fst | with_reducible apply Kept.foldl_snd | (intro _ _ _) | (intro _ _) | (intro _)
      | with_reducible apply KeptOpt.foldl | exact KeptOpt.of rfl (by with_reducible assumption)
      | exact KeptPair.of rfl (by with_reducible assumption) | with_reducible apply KeptOpt.ite
      | with_reducible refine KeptOpt.mapState ?_ (fun _ _ => ?_) | with_reducible refine KeptOpt.map (fun _ => ?_)
      | with_reducible apply KeptOpt.some | with_reducible exact KeptOpt.none | with_reducible apply KeptPair.ite
      | with_reducible apply KeptPair.some | with_reducible exact KeptPair.none
      | (extract_lets +onlyGivenNames x
         first
         | (refine Kept.cut (k := κ) (s := x) ?_ ?_; subst x; rotate_left; intro hx; clear_value x; revert x; intro _ _)
         | (refine KeptOpt.cut (k := κ) (o := x) ?_ ?_; subst x; rotate_left; intro hx; clear_value x; revert x; intro _ _)
         | (refine KeptPair.cut (k := κ) (o := x) ?_ ?_; subst x; rotate_left; intro hx; clear_value x; revert x; intro _ _)
         | (subst x))
      | dsimp -zeta only | split | simp -zeta only [Kept.mk_iff])

theorem State.combine_kept {κ : Fixed} {s : State} (c : Coord) (q : Nat) (lane : Nat) (b : BufSig) (rest : List BufSig) (g : OutLeg) (sg : Signal) (hk : Kept κ s) :
    Kept κ (State.combine s c q lane b rest g sg) := by
  unfold State.combine
  repeat' (first
      | with_reducible assumption | with_reducible apply State.bump_kept | with_reducible apply State.modRtr_kept
      | with_reducible apply State.setSigLane_kept | with_reducible apply State.freeSig_kept
      | with_reducible apply State.settleSig_kept | with_reducible apply Kept.ite | (intro _ _ _) | (intro _ _) | (intro _)
      | with_reducible apply KeptOpt.getD | exact KeptOpt.of rfl (by with_reducible assumption)
      | exact KeptPair.of rfl (by with_reducible assumption) | with_reducible apply KeptOpt.ite
      | with_reducible refine KeptOpt.mapState ?_ (fun _ _ => ?_) | with_reducible refine KeptOpt.map (fun _ => ?_)
      | with_reducible apply KeptOpt.some | with_reducible exact KeptOpt.none | with_reducible apply KeptPair.ite
      | with_reducible apply KeptPair.some | with_reducible exact KeptPair.none
      | (extract_lets +onlyGivenNames x
         first
         | (refine Kept.cut (k := κ) (s := x) ?_ ?_; subst x; rotate_left; intro hx; clear_value x; revert x; intro _ _)
         | (refine KeptOpt.cut (k := κ) (o := x) ?_ ?_; subst x; rotate_left; intro hx; clear_value x; revert x; intro _ _)
         | (refine KeptPair.cut (k := κ) (o := x) ?_ ?_; subst x; rotate_left; intro hx; clear_value x; revert x; intro _ _)
         | (subst x))
      | dsimp -zeta only | split | simp -zeta only [Kept.mk_iff])

theorem State.combineHeads_kept {κ : Fixed} {s : State} (c : Coord) (hk : Kept κ s) :
    Kept κ (State.combineHeads s c) := by
  unfold State.combineHeads
  repeat' (first
      | with_reducible assumption | with_reducible apply State.combine_kept | with_reducible apply Kept.ite
      | with_reducible apply Kept.foldl | with_reducible apply Kept.foldl_fst | with_reducible apply Kept.foldl_snd | (intro _ _ _)
      | (intro _ _) | (intro _) | with_reducible apply KeptOpt.foldl | dsimp -zeta only | split)

theorem State.rerouteTable_kept {κ : Fixed} {s : State} (c : Coord) (hk : Kept κ s) :
    Kept κ (State.rerouteTable s c) := by
  unfold State.rerouteTable
  repeat' (first
      | with_reducible assumption | with_reducible apply State.modRtr_kept | with_reducible apply State.discardSig_kept
      | with_reducible apply State.deliverSig_kept | with_reducible apply Kept.ite | with_reducible apply Kept.foldl
      | with_reducible apply Kept.foldl_fst | with_reducible apply Kept.foldl_snd | (intro _ _ _) | (intro _ _) | (intro _)
      | with_reducible apply KeptOpt.getD
      | (extract_lets +onlyGivenNames x
         first
         | (refine Kept.cut (k := κ) (s := x) ?_ ?_; subst x; rotate_left; intro hx; clear_value x; revert x; intro _ _)
         | (clear_value x; revert x; intro _))
      | dsimp -zeta only | split | simp -zeta only [Kept.mk_iff])

theorem State.serveTable_kept {κ : Fixed} {s : State} (c : Coord) (hk : Kept κ s) :
    Kept κ (State.serveTable s c) := by
  unfold State.serveTable
  repeat' (first
      | with_reducible assumption | with_reducible apply State.modRtr_kept | with_reducible apply State.emitSig_kept
      | with_reducible apply Kept.ite | with_reducible apply Kept.foldl | with_reducible apply Kept.foldl_fst
      | with_reducible apply Kept.foldl_snd | (intro _ _ _) | (intro _ _) | (intro _)
      | (extract_lets +onlyGivenNames x
         first
         | (refine Kept.cut (k := κ) (s := x) ?_ ?_; subst x; rotate_left; intro hx; clear_value x; revert x; intro _ _)
         | (clear_value x; revert x; intro _))
      | dsimp -zeta only | split | simp -zeta only [Kept.mk_iff])

theorem State.serveLocal_kept {κ : Fixed} {s : State} (c : Coord) (p : Nat) (hk : Kept κ s) :
    Kept κ (State.serveLocal s c p) := by
  unfold State.serveLocal
  repeat' (first
      | with_reducible assumption | with_reducible apply State.modSout_kept | with_reducible apply State.putSigBeat_kept
      | with_reducible apply State.stage_kept | with_reducible apply Kept.ite | with_reducible apply Kept.foldl
      | with_reducible apply Kept.foldl_fst | with_reducible apply Kept.foldl_snd | (intro _ _ _) | (intro _ _) | (intro _)
      | refine Kept.of_snd (by with_reducible assumption) ?_ | refine Kept.of_fst (by with_reducible assumption) ?_
      | (extract_lets +onlyGivenNames x
         first
         | (refine Kept.cut (k := κ) (s := x) ?_ ?_; subst x; rotate_left; intro hx; clear_value x; revert x; intro _ _)
         | (refine Kept.cut1 (k := κ) (s := x) ?_ ?_; subst x; rotate_left; intro hx; clear_value x; revert x; intro _ _)
         | (refine Kept.cut2 (k := κ) (s := x) ?_ ?_; subst x; rotate_left; intro hx; clear_value x; revert x; intro _ _)
         | (clear_value x; revert x; intro _))
      | dsimp -zeta only | split | simp -zeta only [Kept.mk_iff])

theorem State.serveRounds_kept {κ : Fixed} {s : State} (c : Coord) (n0 : Nat) (hk : Kept κ s) :
    Kept κ (State.serveRounds s c n0) := by
  induction n0 generalizing s with
  | zero => exact hk
  | succ n ih =>
    rw [State.serveRounds]
    repeat' (first
      | with_reducible assumption | with_reducible apply ih | with_reducible apply State.serveOutput_kept
      | with_reducible apply State.combineHeads_kept | with_reducible apply Kept.ite | with_reducible apply Kept.foldl
      | with_reducible apply Kept.foldl_fst | with_reducible apply Kept.foldl_snd | (intro _ _ _) | (intro _ _) | (intro _)
      | (extract_lets +onlyGivenNames x
         first
         | (refine Kept.cut (k := κ) (s := x) ?_ ?_; subst x; rotate_left; intro hx; clear_value x; revert x; intro _ _)
         | (clear_value x; revert x; intro _))
      | dsimp -zeta only | split)

theorem State.serveSignals_kept {κ : Fixed} {s : State} (c : Coord) (hk : Kept κ s) :
    Kept κ (State.serveSignals s c) := by
  unfold State.serveSignals
  repeat' (first
      | with_reducible assumption | with_reducible apply State.settleSigs_kept | with_reducible apply State.rerouteTable_kept
      | with_reducible apply State.serveTable_kept | with_reducible apply State.serveLocal_kept
      | with_reducible apply State.serveRounds_kept | with_reducible apply Kept.ite | with_reducible apply Kept.foldl
      | with_reducible apply Kept.foldl_fst | with_reducible apply Kept.foldl_snd | (intro _ _ _) | (intro _ _) | (intro _)
      | (extract_lets +onlyGivenNames x
         first
         | (refine Kept.cut (k := κ) (s := x) ?_ ?_; subst x; rotate_left; intro hx; clear_value x; revert x; intro _ _)
         | (clear_value x; revert x; intro _))
      | dsimp -zeta only | split)

theorem State.serveNet_kept {κ : Fixed} {s : State} (hk : Kept κ s) :
    Kept κ (State.serveNet s) := by
  unfold State.serveNet
  repeat' (first
      | with_reducible assumption | with_reducible apply State.serveSignals_kept | with_reducible apply Kept.ite
      | with_reducible apply Kept.foldl | with_reducible apply Kept.foldl_fst | with_reducible apply Kept.foldl_snd | (intro _ _ _)
      | (intro _ _) | (intro _) | dsimp -zeta only | split)

theorem State.sigViolation_kept {κ : Fixed} {s : State} (c : Coord) (q : Nat) (hk : Kept κ s) :
    Kept κ (State.sigViolation s c q) := by
  unfold State.sigViolation
  repeat' (first
      | with_reducible assumption | with_reducible apply State.strike_kept | with_reducible apply State.discardSig_kept
      | with_reducible apply Kept.ite | dsimp -zeta only | split)

theorem State.takeLaned_kept {κ : Fixed} {s : State} (c : Coord) (q : Nat) (lane : Nat) (b : BufSig) (hk : Kept κ s) :
    Kept κ (State.takeLaned s c q lane b) := by
  unfold State.takeLaned
  repeat' (first
      | with_reducible assumption | with_reducible apply State.setSigLane_kept | with_reducible apply State.freeSig_kept
      | with_reducible apply State.sigViolation_kept | with_reducible apply Kept.ite | dsimp -zeta only | split)

theorem State.slsyncAt_kept {κ : Fixed} {s : State} (c : Coord) (p : Nat) (counts : List Nat) (hk : Kept κ s) :
    Kept κ (State.slsyncAt s c p counts) := by
  unfold State.slsyncAt
  repeat' (first
      | with_reducible assumption | with_reducible apply State.bump_kept | with_reducible apply State.modSout_kept
      | with_reducible apply Kept.ite | (intro _ _ _) | (intro _ _) | (intro _)
      | (extract_lets +onlyGivenNames x
         first
         | (refine Kept.cut (k := κ) (s := x) ?_ ?_; subst x; rotate_left; intro hx; clear_value x; revert x; intro _ _)
         | (subst x))
      | dsimp -zeta only | split | simp -zeta only [Kept.mk_iff])

theorem State.slsyncSend_kept {κ : Fixed} {s : State} (c : Coord) (q : Nat) (hk : Kept κ s) :
    Kept κ (State.slsyncSend s c q) := by
  unfold State.slsyncSend
  repeat' (first
      | with_reducible assumption | with_reducible apply State.linkLocal_kept | with_reducible apply Kept.ite | (intro _ _ _)
      | (intro _ _) | (intro _) | dsimp -zeta only | split)

theorem State.takeLinkLocal_kept {κ : Fixed} {s : State} (c : Coord) (q : Nat) (w : Nat) (hk : Kept κ s) :
    Kept κ (State.takeLinkLocal s c q w) := by
  unfold State.takeLinkLocal
  repeat' (first
      | with_reducible assumption | with_reducible apply State.syncRequest_kept | with_reducible apply State.syncReply_kept
      | with_reducible apply State.creditSignalAt_kept | with_reducible apply State.sigViolation_kept
      | with_reducible apply State.slsyncAt_kept | with_reducible apply Kept.ite | (intro _ _ _) | (intro _ _) | (intro _)
      | (extract_lets +onlyGivenNames x
         first
         | (refine Kept.cut (k := κ) (s := x) ?_ ?_; subst x; rotate_left; intro hx; clear_value x; revert x; intro _ _)
         | (subst x))
      | dsimp -zeta only | split)

theorem State.takeCrl_kept {κ : Fixed} {s : State} (c : Coord) (q : Nat) (side : Nat) (hk : Kept κ s) :
    Kept κ (State.takeCrl s c q side) := by
  unfold State.takeCrl
  repeat' (first
      | with_reducible assumption | with_reducible apply State.modSout_kept | with_reducible apply Kept.ite | (intro _ _ _)
      | (intro _ _) | (intro _)
      | (extract_lets +onlyGivenNames x
         first
         | (refine Kept.cut (k := κ) (s := x) ?_ ?_; subst x; rotate_left; intro hx; clear_value x; revert x; intro _ _)
         | (clear_value x; revert x; intro _))
      | dsimp -zeta only | split | simp -zeta only [Kept.mk_iff])

theorem State.takeLocal_kept {κ : Fixed} {s : State} (c : Coord) (q : Nat) (sg : Signal) (hk : Kept κ s) :
    Kept κ (State.takeLocal s c q sg) := by
  unfold State.takeLocal
  repeat' (first
      | with_reducible assumption | with_reducible apply State.takeCrl_kept | with_reducible apply Kept.ite | (intro _ _ _)
      | (intro _ _) | (intro _) | exact KeptOpt.of rfl (by with_reducible assumption)
      | exact KeptPair.of rfl (by with_reducible assumption) | with_reducible apply KeptOpt.ite
      | with_reducible refine KeptOpt.mapState ?_ (fun _ _ => ?_) | with_reducible refine KeptOpt.map (fun _ => ?_)
      | with_reducible apply KeptOpt.some | with_reducible exact KeptOpt.none | with_reducible apply KeptPair.ite
      | with_reducible apply KeptPair.some | with_reducible exact KeptPair.none
      | (extract_lets +onlyGivenNames x
         first
         | (refine Kept.cut (k := κ) (s := x) ?_ ?_; subst x; rotate_left; intro hx; clear_value x; revert x; intro _ _)
         | (refine KeptOpt.cut (k := κ) (o := x) ?_ ?_; subst x; rotate_left; intro hx; clear_value x; revert x; intro _ _)
         | (refine KeptPair.cut (k := κ) (o := x) ?_ ?_; subst x; rotate_left; intro hx; clear_value x; revert x; intro _ _)
         | (subst x))
      | dsimp -zeta only | split | simp -zeta only [Kept.mk_iff])

theorem State.loseBeat_kept {κ : Fixed} {s : State} (c : Coord) (q : Nat) (lane : Nat) (pair : Bool) (hk : Kept κ s) :
    Kept κ (State.loseBeat s c q lane pair) := by
  unfold State.loseBeat
  repeat' (first
      | with_reducible assumption | with_reducible apply State.modSin_kept | with_reducible apply State.freeSig_kept
      | with_reducible apply Kept.ite | (intro _ _ _) | (intro _ _) | (intro _) | dsimp -zeta only | split
      | simp -zeta only [Kept.mk_iff])

theorem State.lanedBeat_kept {κ : Fixed} {s : State} (c : Coord) (q : Nat) (lane : Nat) (pair : Bool) (w : Nat) (route : RouteBits) (org : Coord) (copy : Bool) (hk : Kept κ s) :
    Kept κ (State.lanedBeat s c q lane pair w route org copy) := by
  unfold State.lanedBeat
  repeat' (first
      | with_reducible assumption | with_reducible apply State.modSin_kept | with_reducible apply State.freeSig_kept
      | with_reducible apply State.sigViolation_kept | with_reducible apply State.takeLaned_kept
      | with_reducible apply State.loseBeat_kept | with_reducible apply Kept.ite | (intro _ _ _) | (intro _ _) | (intro _)
      | exact KeptOpt.of rfl (by with_reducible assumption) | exact KeptPair.of rfl (by with_reducible assumption)
      | with_reducible apply KeptOpt.ite | with_reducible refine KeptOpt.mapState ?_ (fun _ _ => ?_)
      | with_reducible refine KeptOpt.map (fun _ => ?_) | with_reducible apply KeptOpt.some | with_reducible exact KeptOpt.none
      | with_reducible apply KeptPair.ite | with_reducible apply KeptPair.some | with_reducible exact KeptPair.none
      | (extract_lets +onlyGivenNames x
         first
         | (refine Kept.cut (k := κ) (s := x) ?_ ?_; subst x; rotate_left; intro hx; clear_value x; revert x; intro _ _)
         | (refine KeptOpt.cut (k := κ) (o := x) ?_ ?_; subst x; rotate_left; intro hx; clear_value x; revert x; intro _ _)
         | (refine KeptPair.cut (k := κ) (o := x) ?_ ?_; subst x; rotate_left; intro hx; clear_value x; revert x; intro _ _)
         | (subst x))
      | dsimp -zeta only | split | simp -zeta only [Kept.mk_iff])

theorem State.dropBeat_kept {κ : Fixed} {s : State} (c : Coord) (q : Nat) (lane : Nat) (pair : Bool) (hk : Kept κ s) :
    Kept κ (State.dropBeat s c q lane pair) := by
  unfold State.dropBeat
  repeat' (first
      | with_reducible assumption | with_reducible apply State.modSin_kept | with_reducible apply State.freeSig_kept
      | with_reducible apply State.loseBeat_kept | with_reducible apply Kept.ite | (intro _ _ _) | (intro _ _) | (intro _)
      | exact KeptOpt.of rfl (by with_reducible assumption) | exact KeptPair.of rfl (by with_reducible assumption)
      | with_reducible apply KeptOpt.ite | with_reducible refine KeptOpt.mapState ?_ (fun _ _ => ?_)
      | with_reducible refine KeptOpt.map (fun _ => ?_) | with_reducible apply KeptOpt.some | with_reducible exact KeptOpt.none
      | with_reducible apply KeptPair.ite | with_reducible apply KeptPair.some | with_reducible exact KeptPair.none
      | (extract_lets +onlyGivenNames x
         first
         | (refine Kept.cut (k := κ) (s := x) ?_ ?_; subst x; rotate_left; intro hx; clear_value x; revert x; intro _ _)
         | (refine KeptOpt.cut (k := κ) (o := x) ?_ ?_; subst x; rotate_left; intro hx; clear_value x; revert x; intro _ _)
         | (refine KeptPair.cut (k := κ) (o := x) ?_ ?_; subst x; rotate_left; intro hx; clear_value x; revert x; intro _ _)
         | (clear_value x; revert x; intro _))
      | dsimp -zeta only | split | simp -zeta only [Kept.mk_iff])

theorem State.badSigBeat_kept {κ : Fixed} {s : State} (c : Coord) (q : Nat) (lane : Nat) (pair : Bool) (hk : Kept κ s) :
    Kept κ (State.badSigBeat s c q lane pair) := by
  unfold State.badSigBeat
  repeat' (first
      | with_reducible assumption | with_reducible apply State.strike_kept | with_reducible apply State.discardSig_kept
      | with_reducible apply State.dropBeat_kept | with_reducible apply Kept.ite | dsimp -zeta only | split)

theorem State.cutHalf_kept {κ : Fixed} {s : State} (c : Coord) (q : Nat) (hk : Kept κ s) :
    Kept κ (State.cutHalf s c q) := by
  unfold State.cutHalf
  repeat' (first
      | with_reducible assumption | with_reducible apply State.modSin_kept | with_reducible apply State.freeSig_kept
      | with_reducible apply State.sigViolation_kept | with_reducible apply Kept.ite | (intro _ _ _) | (intro _ _) | (intro _)
      | dsimp -zeta only | split | simp -zeta only [Kept.mk_iff])

theorem State.sigBeatCore_kept {κ : Fixed} {s : State} (c : Coord) (q : Nat) (cw : List Byte) (side : Nat) (route : RouteBits) (org : Coord) (copy : Bool) (hk : Kept κ s) :
    Kept κ (State.sigBeatCore s c q cw side route org copy) := by
  unfold State.sigBeatCore
  repeat' (first
      | with_reducible assumption | with_reducible apply State.countEvent_kept | with_reducible apply State.wear_kept
      | with_reducible apply State.strike_kept | with_reducible apply State.sigViolation_kept
      | with_reducible apply State.takeLinkLocal_kept | with_reducible apply State.takeCrl_kept
      | with_reducible apply State.lanedBeat_kept | with_reducible apply State.dropBeat_kept
      | with_reducible apply State.badSigBeat_kept | with_reducible apply State.cutHalf_kept | with_reducible apply Kept.ite
      | (intro _ _ _) | (intro _ _) | (intro _)
      | (extract_lets +onlyGivenNames x
         first
         | (refine Kept.cut (k := κ) (s := x) ?_ ?_; subst x; rotate_left; intro hx; clear_value x; revert x; intro _ _)
         | (subst x))
      | dsimp -zeta only | split)

theorem State.recvSigBeat_kept {κ : Fixed} {s : State} (c : Coord) (q : Nat) (cw : List Byte) (side : Nat) (hk : Kept κ s) :
    Kept κ (State.recvSigBeat s c q cw side) := by
  unfold State.recvSigBeat
  repeat' (first
      | with_reducible assumption | with_reducible apply State.takeInject_kept | with_reducible apply State.noStrikes_kept
      | with_reducible apply State.discardSig_kept | with_reducible apply State.sigBeatCore_kept | with_reducible apply Kept.ite
      | (intro _ _ _) | (intro _ _) | (intro _) | refine Kept.of_snd (by with_reducible assumption) ?_
      | refine Kept.of_fst (by with_reducible assumption) ?_ | refine KeptPair.of (by with_reducible assumption) ?_
      | with_reducible apply KeptOpt.getD | exact KeptOpt.of rfl (by with_reducible assumption)
      | exact KeptPair.of rfl (by with_reducible assumption) | with_reducible apply KeptOpt.ite
      | with_reducible refine KeptOpt.mapState ?_ (fun _ _ => ?_) | with_reducible refine KeptOpt.map (fun _ => ?_)
      | with_reducible apply KeptOpt.some | with_reducible exact KeptOpt.none | with_reducible apply KeptPair.ite
      | with_reducible apply KeptPair.some | with_reducible exact KeptPair.none
      | (extract_lets +onlyGivenNames x
         first
         | (refine Kept.cut (k := κ) (s := x) ?_ ?_; subst x; rotate_left; intro hx; clear_value x; revert x; intro _ _)
         | (refine Kept.cut1 (k := κ) (s := x) ?_ ?_; subst x; rotate_left; intro hx; clear_value x; revert x; intro _ _)
         | (refine Kept.cut2 (k := κ) (s := x) ?_ ?_; subst x; rotate_left; intro hx; clear_value x; revert x; intro _ _)
         | (refine KeptOpt.cut (k := κ) (o := x) ?_ ?_; subst x; rotate_left; intro hx; clear_value x; revert x; intro _ _)
         | (refine KeptPair.cut (k := κ) (o := x) ?_ ?_; subst x; rotate_left; intro hx; clear_value x; revert x; intro _ _)
         | (subst x))
      | dsimp -zeta only | split | simp -zeta only [Kept.mk_iff])

theorem State.setBar_kept {κ : Fixed} {s : State} (c : Coord) (k : Nat) (sub : Nat) (v : Nat) (hk : Kept κ s) :
    Kept κ (State.setBar s c k sub v) := by
  unfold State.setBar
  repeat' (first
      | with_reducible assumption | with_reducible apply State.setReg_kept | with_reducible apply Kept.ite | dsimp -zeta only | split)

theorem State.barRelease_kept {κ : Fixed} {s : State} (c : Coord) (k : Nat) (timeout : Bool) (hk : Kept κ s) :
    Kept κ (State.barRelease s c k timeout) := by
  unfold State.barRelease
  repeat' (first
      | with_reducible assumption | with_reducible apply State.bump_kept | with_reducible apply State.sendSig_kept
      | with_reducible apply State.fresh_kept | with_reducible apply State.setBar_kept | with_reducible apply Kept.ite
      | refine Kept.of_snd (by with_reducible assumption) ?_ | refine Kept.of_fst (by with_reducible assumption) ?_
      | (extract_lets +onlyGivenNames x
         first
         | (refine Kept.cut (k := κ) (s := x) ?_ ?_; subst x; rotate_left; intro hx; clear_value x; revert x; intro _ _)
         | (refine Kept.cut1 (k := κ) (s := x) ?_ ?_; subst x; rotate_left; intro hx; clear_value x; revert x; intro _ _)
         | (refine Kept.cut2 (k := κ) (s := x) ?_ ?_; subst x; rotate_left; intro hx; clear_value x; revert x; intro _ _)
         | (clear_value x; revert x; intro _))
      | dsimp -zeta only | split | simp -zeta only [Kept.mk_iff])

theorem State.atRouter_kept {κ : Fixed} {s : State} (c : Coord) (sg : Signal) (run : State → State) (hrun : ∀ s, Kept κ s → Kept κ (run s)) (hk : Kept κ s) :
    Kept κ (State.atRouter s c sg run) := by
  unfold State.atRouter
  repeat' (first
      | with_reducible assumption | with_reducible apply hrun | with_reducible apply State.takeSig_kept
      | with_reducible apply State.discardSig_kept | with_reducible apply Kept.ite | dsimp -zeta only | split
      | simp -zeta only [Kept.mk_iff])

theorem State.barArriveRoot_kept {κ : Fixed} {s : State} (c : Coord) (a : BarArrive) (hk : Kept κ s) :
    Kept κ (State.barArriveRoot s c a) := by
  unfold State.barArriveRoot
  repeat' (first
      | with_reducible assumption | with_reducible apply State.bump_kept | with_reducible apply State.setBar_kept
      | with_reducible apply State.barRelease_kept | with_reducible apply Kept.ite
      | (extract_lets +onlyGivenNames x
         first
         | (refine Kept.cut (k := κ) (s := x) ?_ ?_; subst x; rotate_left; intro hx; clear_value x; revert x; intro _ _)
         | (clear_value x; revert x; intro _))
      | dsimp -zeta only | split | simp -zeta only [Kept.mk_iff])

theorem State.barArriveAt_kept {κ : Fixed} {s : State} (c : Coord) (a : BarArrive) (hk : Kept κ s) :
    Kept κ (State.barArriveAt s c a) := by
  unfold State.barArriveAt
  repeat' (first
      | with_reducible assumption | with_reducible apply State.atRouter_kept | with_reducible apply State.barArriveRoot_kept
      | with_reducible apply Kept.ite | (intro _ _ _) | (intro _ _) | (intro _) | dsimp -zeta only | split)

theorem State.barTimeout_kept {κ : Fixed} {s : State} (k : Nat) (hk : Kept κ s) :
    Kept κ (State.barTimeout s k) := by
  unfold State.barTimeout
  repeat' (first
      | with_reducible assumption | with_reducible apply State.barRelease_kept | with_reducible apply Kept.ite
      | (extract_lets +onlyGivenNames x
         first
         | (refine Kept.cut (k := κ) (s := x) ?_ ?_; subst x; rotate_left; intro hx; clear_value x; revert x; intro _ _)
         | (clear_value x; revert x; intro _))
      | dsimp -zeta only | split | with_reducible refine Kept.mk_time ?_ (Nat.le_max_left _ _)
      | with_reducible refine Kept.mk_time ?_ (Nat.le_add_right _ _) | simp -zeta only [Kept.mk_iff])

theorem State.barReleaseAt_kept {κ : Fixed} {s : State} (c : Coord) (r : BarRelease) (hk : Kept κ s) :
    Kept κ (State.barReleaseAt s c r) := by
  unfold State.barReleaseAt
  repeat' (first
      | with_reducible assumption | with_reducible apply State.complete_kept | with_reducible apply Kept.ite
      | with_reducible apply Kept.foldl | with_reducible apply Kept.foldl_fst | with_reducible apply Kept.foldl_snd | (intro _ _ _)
      | (intro _ _) | (intro _)
      | (extract_lets +onlyGivenNames x
         first
         | (refine Kept.cut (k := κ) (s := x) ?_ ?_; subst x; rotate_left; intro hx; clear_value x; revert x; intro _ _)
         | (clear_value x; revert x; intro _))
      | dsimp -zeta only | split)

theorem State.tallyOp_kept {κ : Fixed} {s : State} (q : TallyReq) (hk : Kept κ s) :
    Kept κ (State.tallyOp s q) := by
  unfold State.tallyOp
  repeat' (first
      | with_reducible assumption | with_reducible apply State.bump_kept | with_reducible apply State.sendSig_kept
      | with_reducible apply State.setTally_kept | with_reducible apply Kept.ite
      | (extract_lets +onlyGivenNames x
         first
         | (refine Kept.cut (k := κ) (s := x) ?_ ?_; subst x; rotate_left; intro hx; clear_value x; revert x; intro _ _)
         | (clear_value x; revert x; intro _))
      | dsimp -zeta only | split)

theorem State.tallyAt_kept {κ : Fixed} {s : State} (q : TallyReq) (hk : Kept κ s) :
    Kept κ (State.tallyAt s q) := by
  unfold State.tallyAt
  repeat' (first
      | with_reducible assumption | with_reducible apply State.atRouter_kept | with_reducible apply State.tallyOp_kept
      | with_reducible apply Kept.ite | (intro _ _ _) | (intro _ _) | (intro _) | dsimp -zeta only | split)

theorem State.tallyRspAt_kept {κ : Fixed} {s : State} (q : TallyRsp) (hk : Kept κ s) :
    Kept κ (State.tallyRspAt s q) := by
  unfold State.tallyRspAt
  repeat' (first
      | with_reducible assumption | with_reducible apply State.complete_kept | with_reducible apply Kept.ite
      | exact KeptOpt.of rfl (by with_reducible assumption) | exact KeptPair.of rfl (by with_reducible assumption)
      | with_reducible apply KeptOpt.ite | with_reducible refine KeptOpt.mapState ?_ (fun _ _ => ?_)
      | with_reducible refine KeptOpt.map (fun _ => ?_) | with_reducible apply KeptOpt.some | with_reducible exact KeptOpt.none
      | with_reducible apply KeptPair.ite | with_reducible apply KeptPair.some | with_reducible exact KeptPair.none
      | (extract_lets +onlyGivenNames x
         first
         | (refine Kept.cut (k := κ) (s := x) ?_ ?_; subst x; rotate_left; intro hx; clear_value x; revert x; intro _ _)
         | (refine KeptOpt.cut (k := κ) (o := x) ?_ ?_; subst x; rotate_left; intro hx; clear_value x; revert x; intro _ _)
         | (refine KeptPair.cut (k := κ) (o := x) ?_ ?_; subst x; rotate_left; intro hx; clear_value x; revert x; intro _ _)
         | (clear_value x; revert x; intro _))
      | dsimp -zeta only | split)

theorem State.intAt_kept {κ : Fixed} {s : State} (c : Coord) (core : Nat) (origin : Nat) (arg32 : Nat) (hk : Kept κ s) :
    Kept κ (State.intAt s c core origin arg32) := by
  unfold State.intAt
  repeat' (first
      | with_reducible assumption | with_reducible apply State.bump_kept | with_reducible apply State.modCore_kept
      | with_reducible apply Kept.ite | (intro _ _ _) | (intro _ _) | (intro _) | dsimp -zeta only | split
      | simp -zeta only [Kept.mk_iff])

theorem State.intTake_kept {κ : Fixed} {s : State} (c : Coord) (core : Nat) (tag : Nat) (hk : Kept κ s) :
    Kept κ (State.intTake s c core tag) := by
  unfold State.intTake
  repeat' (first
      | with_reducible assumption | with_reducible apply State.modCore_kept | with_reducible apply State.answer_kept
      | with_reducible apply Kept.ite | (intro _ _ _) | (intro _ _) | (intro _) | dsimp -zeta only | split
      | simp -zeta only [Kept.mk_iff])

end Sys2Proof.Machine
end

