-- ==== Sys2Proof/Laws/KeptPortOps.lean ====
section
/-! SUPPORT. Every operation of Machine/PortOps.lean keeps the build, the queue and the canonical form. -/

namespace Sys2Proof.Machine

set_option linter.all false

theorem State.bumpLink_kept {κ : Fixed} {s : State} (p : Nat) (sub : Nat) (k : Nat) (hk : Kept κ s) :
    Kept κ (State.bumpLink s p sub k) := by
  unfold State.bumpLink
  repeat' (first
      | with_reducible assumption | with_reducible apply State.bump_kept | with_reducible apply Kept.ite | dsimp -zeta only | split)

theorem State.linkStop_kept {κ : Fixed} {s : State} (p : Nat) (on : Bool) (hk : Kept κ s) :
    Kept κ (State.linkStop s p on) := by
  unfold State.linkStop
  repeat' (first
      | with_reducible assumption | with_reducible apply State.tidyRouter_kept | with_reducible apply State.hardStop_kept
      | with_reducible apply Kept.ite | with_reducible apply Kept.foldl | with_reducible apply Kept.foldl_fst
      | with_reducible apply Kept.foldl_snd | (intro _ _ _) | (intro _ _) | (intro _) | dsimp -zeta only | split)

theorem State.setPortState_kept {κ : Fixed} {s : State} (p : Nat) (st : Nat) (hk : Kept κ s) :
    Kept κ (State.setPortState s p st) := by
  unfold State.setPortState
  repeat' (first
      | with_reducible assumption | with_reducible apply State.setReg_kept | with_reducible apply State.ringEvent_kept
      | with_reducible apply State.modPort_kept | with_reducible apply State.linkStop_kept | with_reducible apply Kept.ite
      | (intro _ _ _) | (intro _ _) | (intro _)
      | (extract_lets +onlyGivenNames x
         first
         | (refine Kept.cut (k := κ) (s := x) ?_ ?_; subst x; rotate_left; intro hx; clear_value x; revert x; intro _ _)
         | (clear_value x; revert x; intro _))
      | dsimp -zeta only | split | simp -zeta only [Kept.mk_iff])

theorem State.freshBytes_kept {κ : Fixed} {s : State} (n : Nat) (hk : Kept κ s) :
    Kept κ (State.freshBytes s n).2 := by
  unfold State.freshBytes
  repeat' (first
      | with_reducible assumption | with_reducible apply State.fresh_kept | with_reducible apply Kept.ite
      | with_reducible apply Kept.foldl | with_reducible apply Kept.foldl_fst | with_reducible apply Kept.foldl_snd
      | with_reducible apply Kept.ite1 | with_reducible apply Kept.ite2 | (intro _ _ _) | (intro _ _) | (intro _)
      | refine Kept.of_snd (by with_reducible assumption) ?_ | refine Kept.of_fst (by with_reducible assumption) ?_
      | (extract_lets +onlyGivenNames x
         first
         | (refine Kept.cut (k := κ) (s := x) ?_ ?_; subst x; rotate_left; intro hx; clear_value x; revert x; intro _ _)
         | (refine Kept.cut1 (k := κ) (s := x) ?_ ?_; subst x; rotate_left; intro hx; clear_value x; revert x; intro _ _)
         | (refine Kept.cut2 (k := κ) (s := x) ?_ ?_; subst x; rotate_left; intro hx; clear_value x; revert x; intro _ _)
         | (clear_value x; revert x; intro _))
      | dsimp -zeta only | split)

theorem State.transmit_kept {κ : Fixed} {s : State} (p : Nat) (kind : Nat) (seq : Nat) (body : List (List Byte)) (hk : Kept κ s) :
    Kept κ (State.transmit s p kind seq body) := by
  unfold State.transmit
  repeat' (first
      | with_reducible assumption | with_reducible apply State.modPort_kept | with_reducible apply State.takeInject_kept
      | with_reducible apply State.bumpLink_kept | with_reducible apply Kept.ite | (intro _ _ _) | (intro _ _) | (intro _)
      | refine Kept.of_snd (by with_reducible assumption) ?_ | refine Kept.of_fst (by with_reducible assumption) ?_
      | refine KeptPair.of (by with_reducible assumption) ?_ | exact KeptOpt.of rfl (by with_reducible assumption)
      | exact KeptPair.of rfl (by with_reducible assumption) | with_reducible apply KeptOpt.ite
      | with_reducible refine KeptOpt.mapState ?_ (fun _ _ => ?_) | with_reducible refine KeptOpt.map (fun _ => ?_)
      | with_reducible apply KeptOpt.some | with_reducible exact KeptOpt.none | with_reducible apply KeptPair.ite
      | with_reducible apply KeptPair.some | with_reducible exact KeptPair.none
      | (extract_lets +onlyGivenNames x
         first
         | (refine Kept.cut (k := κ) (s := x) ?_ ?_; subst x; rotate_left; intro hx; clear_value x; revert x; intro _ _)
         | (refine Kept.cut1 (k := κ) (s := x) ?_ ?_; subst x; rotate_left; intro hx; clear_value x; revert x; intro _ _)
         | (refine Kept.cut2 (k := κ) (s := x) ?_ ?_; subst x; rotate_left; intro hx; clear_value x; revert x; intro _ _)
         | (refine KeptOpt.cut (k := κ) (o := x) ?_ ?_; subst x; rotate_left; intro hx; clear_value x; revert x; intro _ _)
         | (refine KeptPair.cut (k := κ) (o := x) ?_ ?_; subst x; rotate_left; intro hx; clear_value x; revert x; intro _ _)
         | (clear_value x; revert x; intro _))
      | dsimp -zeta only | split | simp -zeta only [Kept.mk_iff])

theorem State.sendSeq_kept {κ : Fixed} {s : State} (p : Nat) (kind : Nat) (body : List (List Byte)) (heads : List Packet) (hk : Kept κ s) :
    Kept κ (State.sendSeq s p kind body heads) := by
  unfold State.sendSeq
  repeat' (first
      | with_reducible assumption | with_reducible apply State.modPort_kept | with_reducible apply State.transmit_kept
      | with_reducible apply State.replay_kept | with_reducible apply Kept.ite | (intro _ _ _) | (intro _ _) | (intro _)
      | (extract_lets +onlyGivenNames x
         first
         | (refine Kept.cut (k := κ) (s := x) ?_ ?_; subst x; rotate_left; intro hx; clear_value x; revert x; intro _ _)
         | (clear_value x; revert x; intro _))
      | dsimp -zeta only | split | simp -zeta only [Kept.mk_iff])

theorem State.msgRun_kept {κ : Fixed} {s : State} (p : Nat) (n0 : Nat) (hk : Kept κ s) :
    Kept κ (State.msgRun s p n0) := by
  induction n0 generalizing s with
  | zero => exact hk
  | succ n ih =>
    rw [State.msgRun]
    repeat' (first
      | with_reducible assumption | with_reducible apply ih | with_reducible apply State.modPort_kept
      | with_reducible apply State.sendSeq_kept | with_reducible apply State.replay_kept | with_reducible apply Kept.ite
      | (intro _ _ _) | (intro _ _) | (intro _) | dsimp -zeta only | split | simp -zeta only [Kept.mk_iff])

theorem State.sendMsg_kept {κ : Fixed} {s : State} (p : Nat) (mtype : Nat) (bs : List Byte) (hk : Kept κ s) :
    Kept κ (State.sendMsg s p mtype bs) := by
  unfold State.sendMsg
  repeat' (first
      | with_reducible assumption | with_reducible apply State.modPort_kept | with_reducible apply State.msgRun_kept
      | with_reducible apply Kept.ite | (intro _ _ _) | (intro _ _) | (intro _)
      | (extract_lets +onlyGivenNames x
         first
         | (refine Kept.cut (k := κ) (s := x) ?_ ?_; subst x; rotate_left; intro hx; clear_value x; revert x; intro _ _)
         | (clear_value x; revert x; intro _))
      | dsimp -zeta only | split | simp -zeta only [Kept.mk_iff])

theorem State.freeClass_kept {κ : Fixed} {s : State} (p : Nat) (k : Nat) (n : Nat) (hk : Kept κ s) :
    Kept κ (State.freeClass s p k n) := by
  unfold State.freeClass
  repeat' (first
      | with_reducible assumption | with_reducible apply State.modPort_kept | with_reducible apply Kept.ite | (intro _ _ _)
      | (intro _ _) | (intro _) | dsimp -zeta only | split | simp -zeta only [Kept.mk_iff])

theorem State.freeOrigin_kept {κ : Fixed} {s : State} (o : Option (Nat × Nat)) (n : Nat) (hk : Kept κ s) :
    Kept κ (State.freeOrigin s o n) := by
  unfold State.freeOrigin
  repeat' (first
      | with_reducible assumption | with_reducible apply State.freeClass_kept | with_reducible apply Kept.ite | dsimp -zeta only
      | split)

theorem State.unroute_kept {κ : Fixed} {s : State} (p : Nat) (hk : Kept κ s) :
    Kept κ (State.unroute s p) := by
  unfold State.unroute
  repeat' (first
      | with_reducible assumption | with_reducible apply State.modPort_kept | with_reducible apply State.routeChange_kept
      | with_reducible apply Kept.ite | (intro _ _ _) | (intro _ _) | (intro _)
      | (extract_lets +onlyGivenNames x
         first
         | (refine Kept.cut (k := κ) (s := x) ?_ ?_; subst x; rotate_left; intro hx; clear_value x; revert x; intro _ _)
         | (clear_value x; revert x; intro _))
      | dsimp -zeta only | split | simp -zeta only [Kept.mk_iff])

theorem State.openDone_kept {κ : Fixed} {s : State} (p : Nat) (hk : Kept κ s) :
    Kept κ (State.openDone s p) := by
  unfold State.openDone
  repeat' (first
      | with_reducible assumption | with_reducible apply State.modPort_kept | with_reducible apply Kept.ite | (intro _ _ _)
      | (intro _ _) | (intro _) | exact KeptOpt.of rfl (by with_reducible assumption)
      | exact KeptPair.of rfl (by with_reducible assumption) | with_reducible apply KeptOpt.ite
      | with_reducible refine KeptOpt.mapState ?_ (fun _ _ => ?_) | with_reducible refine KeptOpt.map (fun _ => ?_)
      | with_reducible apply KeptOpt.some | with_reducible exact KeptOpt.none | with_reducible apply KeptPair.ite
      | with_reducible apply KeptPair.some | with_reducible exact KeptPair.none
      | (extract_lets +onlyGivenNames x
         first
         | (refine Kept.cut (k := κ) (s := x) ?_ ?_; subst x; rotate_left; intro hx; clear_value x; revert x; intro _ _)
         | (refine KeptOpt.cut (k := κ) (o := x) ?_ ?_; subst x; rotate_left; intro hx; clear_value x; revert x; intro _ _)
         | (refine KeptPair.cut (k := κ) (o := x) ?_ ?_; subst x; rotate_left; intro hx; clear_value x; revert x; intro _ _)
         | (clear_value x; revert x; intro _))
      | dsimp -zeta only | split | simp -zeta only [Kept.mk_iff])

theorem State.portDrop_kept {κ : Fixed} {s : State} (p : Nat) (hk : Kept κ s) :
    Kept κ (State.portDrop s p) := by
  unfold State.portDrop
  repeat' (first
      | with_reducible assumption | with_reducible apply State.modPort_kept | with_reducible apply State.raiseNack_kept
      | with_reducible apply State.freeOrigin_kept | with_reducible apply State.openDone_kept | with_reducible apply State.replay_kept
      | with_reducible apply Kept.ite | with_reducible apply Kept.foldl | with_reducible apply Kept.foldl_fst
      | with_reducible apply Kept.foldl_snd | (intro _ _ _) | (intro _ _) | (intro _)
      | (extract_lets +onlyGivenNames x
         first
         | (refine Kept.cut (k := κ) (s := x) ?_ ?_; subst x; rotate_left; intro hx; clear_value x; revert x; intro _ _)
         | (clear_value x; revert x; intro _))
      | dsimp -zeta only | split | simp -zeta only [Kept.mk_iff])

theorem State.portClear_kept {κ : Fixed} {s : State} (p : Nat) (hk : Kept κ s) :
    Kept κ (State.portClear s p) := by
  unfold State.portClear
  repeat' (first
      | with_reducible assumption | with_reducible apply State.modPort_kept | with_reducible apply State.portDrop_kept
      | with_reducible apply Kept.ite | (intro _ _ _) | (intro _ _) | (intro _) | dsimp -zeta only | split
      | simp -zeta only [Kept.mk_iff])

theorem State.leftService_kept {κ : Fixed} {s : State} (p : Nat) (cause : Nat) (hk : Kept κ s) :
    Kept κ (State.leftService s p cause).2 := by
  unfold State.leftService
  repeat' (first
      | with_reducible assumption | with_reducible apply State.modPort_kept | with_reducible apply State.faultEvent_kept
      | with_reducible apply State.faultLive_kept | with_reducible apply State.linkStop_kept | with_reducible apply Kept.ite
      | with_reducible apply Kept.ite1 | with_reducible apply Kept.ite2 | (intro _ _ _) | (intro _ _) | (intro _)
      | (extract_lets +onlyGivenNames x
         first
         | (refine Kept.cut (k := κ) (s := x) ?_ ?_; subst x; rotate_left; intro hx; clear_value x; revert x; intro _ _)
         | (refine Kept.cut1 (k := κ) (s := x) ?_ ?_; subst x; rotate_left; intro hx; clear_value x; revert x; intro _ _)
         | (refine Kept.cut2 (k := κ) (s := x) ?_ ?_; subst x; rotate_left; intro hx; clear_value x; revert x; intro _ _)
         | (clear_value x; revert x; intro _))
      | dsimp -zeta only | split | simp -zeta only [Kept.mk_iff])

theorem State.portDown_kept {κ : Fixed} {s : State} (p : Nat) (st : Nat) (cause : Nat) (hk : Kept κ s) :
    Kept κ (State.portDown s p st cause) := by
  unfold State.portDown
  repeat' (first
      | with_reducible assumption | with_reducible apply State.setReg_kept | with_reducible apply State.setPortState_kept
      | with_reducible apply State.unroute_kept | with_reducible apply State.portClear_kept
      | with_reducible apply State.leftService_kept | with_reducible apply Kept.ite
      | refine Kept.of_snd (by with_reducible assumption) ?_ | refine Kept.of_fst (by with_reducible assumption) ?_
      | (extract_lets +onlyGivenNames x
         first
         | (refine Kept.cut (k := κ) (s := x) ?_ ?_; subst x; rotate_left; intro hx; clear_value x; revert x; intro _ _)
         | (refine Kept.cut1 (k := κ) (s := x) ?_ ?_; subst x; rotate_left; intro hx; clear_value x; revert x; intro _ _)
         | (refine Kept.cut2 (k := κ) (s := x) ?_ ?_; subst x; rotate_left; intro hx; clear_value x; revert x; intro _ _)
         | (clear_value x; revert x; intro _))
      | dsimp -zeta only | split)

theorem State.retrain_kept {κ : Fixed} {s : State} (p : Nat) (cause : Nat) (hk : Kept κ s) :
    Kept κ (State.retrain s p cause) := by
  unfold State.retrain
  repeat' (first
      | with_reducible assumption | with_reducible apply State.bumpLink_kept | with_reducible apply State.portDown_kept
      | with_reducible apply Kept.ite | dsimp -zeta only | split)

theorem State.violationAt_kept {κ : Fixed} {s : State} (p : Nat) (check : Nat) (eng : Nat) (typ : Nat) (hk : Kept κ s) :
    Kept κ (State.violationAt s p check eng typ) := by
  unfold State.violationAt
  repeat' (first
      | with_reducible assumption | with_reducible apply State.setReg_kept | with_reducible apply State.bump_kept
      | with_reducible apply State.modPort_kept | with_reducible apply State.faultEvent_kept
      | with_reducible apply State.faultLive_kept | with_reducible apply State.setPortState_kept
      | with_reducible apply State.unroute_kept | with_reducible apply State.portDrop_kept
      | with_reducible apply State.leftService_kept | with_reducible apply Kept.ite | (intro _ _ _) | (intro _ _) | (intro _)
      | refine Kept.of_snd (by with_reducible assumption) ?_ | refine Kept.of_fst (by with_reducible assumption) ?_
      | (extract_lets +onlyGivenNames x
         first
         | (refine Kept.cut (k := κ) (s := x) ?_ ?_; subst x; rotate_left; intro hx; clear_value x; revert x; intro _ _)
         | (refine Kept.cut1 (k := κ) (s := x) ?_ ?_; subst x; rotate_left; intro hx; clear_value x; revert x; intro _ _)
         | (refine Kept.cut2 (k := κ) (s := x) ?_ ?_; subst x; rotate_left; intro hx; clear_value x; revert x; intro _ _)
         | (clear_value x; revert x; intro _))
      | dsimp -zeta only | split | simp -zeta only [Kept.mk_iff])

theorem State.violationEvent_kept {κ : Fixed} {s : State} (p : Nat) (hk : Kept κ s) :
    Kept κ (State.violationEvent s p) := by
  unfold State.violationEvent
  repeat' (first
      | with_reducible assumption | with_reducible apply State.fresh_kept | with_reducible apply State.violationAt_kept
      | with_reducible apply Kept.ite | refine Kept.of_snd (by with_reducible assumption) ?_
      | refine Kept.of_fst (by with_reducible assumption) ?_
      | (extract_lets +onlyGivenNames x
         first
         | (refine Kept.cut (k := κ) (s := x) ?_ ?_; subst x; rotate_left; intro hx; clear_value x; revert x; intro _ _)
         | (refine Kept.cut1 (k := κ) (s := x) ?_ ?_; subst x; rotate_left; intro hx; clear_value x; revert x; intro _ _)
         | (refine Kept.cut2 (k := κ) (s := x) ?_ ?_; subst x; rotate_left; intro hx; clear_value x; revert x; intro _ _)
         | (clear_value x; revert x; intro _))
      | dsimp -zeta only | split)

theorem State.linkViolation_kept {κ : Fixed} {s : State} (p : Nat) (hk : Kept κ s) :
    Kept κ (State.linkViolation s p) := by
  unfold State.linkViolation
  repeat' (first
      | with_reducible assumption | with_reducible apply State.retrain_kept | with_reducible apply State.violationEvent_kept
      | with_reducible apply Kept.ite
      | (extract_lets +onlyGivenNames x
         first
         | (refine Kept.cut (k := κ) (s := x) ?_ ?_; subst x; rotate_left; intro hx; clear_value x; revert x; intro _ _)
         | (clear_value x; revert x; intro _))
      | dsimp -zeta only | split)

theorem State.takeAck_kept {κ : Fixed} {s : State} (p : Nat) (ack : Nat) (hk : Kept κ s) :
    Kept κ (State.takeAck s p ack) := by
  unfold State.takeAck
  repeat' (first
      | with_reducible assumption | with_reducible apply State.modPort_kept | with_reducible apply State.replay_kept
      | with_reducible apply State.done_kept | with_reducible apply Kept.ite | (intro _ _ _) | (intro _ _) | (intro _)
      | exact KeptOpt.of rfl (by with_reducible assumption) | exact KeptPair.of rfl (by with_reducible assumption)
      | with_reducible apply KeptOpt.ite | with_reducible refine KeptOpt.mapState ?_ (fun _ _ => ?_)
      | with_reducible refine KeptOpt.map (fun _ => ?_) | with_reducible apply KeptOpt.some | with_reducible exact KeptOpt.none
      | with_reducible apply KeptPair.ite | with_reducible apply KeptPair.some | with_reducible exact KeptPair.none
      | (extract_lets +onlyGivenNames x
         first
         | (refine Kept.cut (k := κ) (s := x) ?_ ?_; subst x; rotate_left; intro hx; clear_value x; revert x; intro _ _)
         | (refine KeptOpt.cut (k := κ) (o := x) ?_ ?_; subst x; rotate_left; intro hx; clear_value x; revert x; intro _ _)
         | (refine KeptPair.cut (k := κ) (o := x) ?_ ?_; subst x; rotate_left; intro hx; clear_value x; revert x; intro _ _)
         | (clear_value x; revert x; intro _))
      | dsimp -zeta only | split | simp -zeta only [Kept.mk_iff])

theorem State.retransmit_kept {κ : Fixed} {s : State} (p : Nat) (hk : Kept κ s) :
    Kept κ (State.retransmit s p) := by
  unfold State.retransmit
  repeat' (first
      | with_reducible assumption | with_reducible apply State.modPort_kept | with_reducible apply State.bumpLink_kept
      | with_reducible apply State.transmit_kept | with_reducible apply State.retrain_kept | with_reducible apply State.replay_kept
      | with_reducible apply Kept.ite | with_reducible apply Kept.foldl | with_reducible apply Kept.foldl_fst
      | with_reducible apply Kept.foldl_snd | (intro _ _ _) | (intro _ _) | (intro _)
      | (extract_lets +onlyGivenNames x
         first
         | (refine Kept.cut (k := κ) (s := x) ?_ ?_; subst x; rotate_left; intro hx; clear_value x; revert x; intro _ _)
         | (clear_value x; revert x; intro _))
      | dsimp -zeta only | split | simp -zeta only [Kept.mk_iff])

theorem State.linkWindow_kept {κ : Fixed} {s : State} (p : Nat) (hk : Kept κ s) :
    Kept κ (State.linkWindow s p) := by
  unfold State.linkWindow
  repeat' (first
      | with_reducible assumption | with_reducible apply State.modPort_kept | with_reducible apply Kept.ite
      | with_reducible apply Kept.foldl | with_reducible apply Kept.foldl_fst | with_reducible apply Kept.foldl_snd | (intro _ _ _)
      | (intro _ _) | (intro _) | dsimp -zeta only | split | simp -zeta only [Kept.mk_iff])

theorem State.headEvents_kept {κ : Fixed} {s : State} (p : Nat) (heads : List Packet) (hk : Kept κ s) :
    Kept κ (State.headEvents s p heads) := by
  unfold State.headEvents
  repeat' (first
      | with_reducible assumption | with_reducible apply State.ringEvent_kept | with_reducible apply Kept.ite
      | with_reducible apply Kept.foldl | with_reducible apply Kept.foldl_fst | with_reducible apply Kept.foldl_snd | (intro _ _ _)
      | (intro _ _) | (intro _) | dsimp -zeta only | split)

theorem State.relayStep_kept {κ : Fixed} {s : State} (p : Nat) (room : Nat) (hk : Kept κ s) :
    KeptPair κ (State.relayStep s p room) := by
  unfold State.relayStep
  repeat' (first
      | with_reducible assumption | with_reducible apply State.modPort_kept | with_reducible apply State.freeOrigin_kept
      | with_reducible apply Kept.ite | with_reducible apply Kept.ite1 | with_reducible apply Kept.ite2 | (intro _ _ _) | (intro _ _)
      | (intro _) | with_reducible apply KeptPair.ite | with_reducible apply KeptPair.some | with_reducible exact KeptPair.none
      | exact KeptOpt.of rfl (by with_reducible assumption) | exact KeptPair.of rfl (by with_reducible assumption)
      | with_reducible apply KeptOpt.ite | with_reducible refine KeptOpt.mapState ?_ (fun _ _ => ?_)
      | with_reducible refine KeptOpt.map (fun _ => ?_) | with_reducible apply KeptOpt.some | with_reducible exact KeptOpt.none
      | (extract_lets +onlyGivenNames x
         first
         | (refine Kept.cut (k := κ) (s := x) ?_ ?_; subst x; rotate_left; intro hx; clear_value x; revert x; intro _ _)
         | (refine Kept.cut1 (k := κ) (s := x) ?_ ?_; subst x; rotate_left; intro hx; clear_value x; revert x; intro _ _)
         | (refine Kept.cut2 (k := κ) (s := x) ?_ ?_; subst x; rotate_left; intro hx; clear_value x; revert x; intro _ _)
         | (refine KeptOpt.cut (k := κ) (o := x) ?_ ?_; subst x; rotate_left; intro hx; clear_value x; revert x; intro _ _)
         | (refine KeptPair.cut (k := κ) (o := x) ?_ ?_; subst x; rotate_left; intro hx; clear_value x; revert x; intro _ _)
         | (clear_value x; revert x; intro _))
      | dsimp -zeta only | split | simp -zeta only [Kept.mk_iff])

theorem State.fillStep_kept {κ : Fixed} {s : State} (p : Nat) (items : List (List Byte)) (heads : List Packet) (hk : Kept κ s) :
    Kept κ (State.fillStep s p items heads).2.2.2 := by
  unfold State.fillStep
  repeat' (first
      | with_reducible assumption | with_reducible apply State.modPort_kept | with_reducible apply State.linkWindow_kept
      | with_reducible apply State.headEvents_kept | with_reducible apply State.relayStep_kept | with_reducible apply Kept.ite
      | with_reducible apply Kept.ite1 | with_reducible apply Kept.ite2 | with_reducible apply Kept.ite3
      | with_reducible apply Kept.ite4 | (intro _ _ _) | (intro _ _) | (intro _)
      | refine Kept.of_snd (by with_reducible assumption) ?_ | refine Kept.of_fst (by with_reducible assumption) ?_
      | refine KeptPair.of (by with_reducible assumption) ?_ | exact KeptOpt.of rfl (by with_reducible assumption)
      | exact KeptPair.of rfl (by with_reducible assumption) | with_reducible apply KeptOpt.ite
      | with_reducible refine KeptOpt.mapState ?_ (fun _ _ => ?_) | with_reducible refine KeptOpt.map (fun _ => ?_)
      | with_reducible apply KeptOpt.some | with_reducible exact KeptOpt.none | with_reducible apply KeptPair.ite
      | with_reducible apply KeptPair.some | with_reducible exact KeptPair.none
      | (extract_lets +onlyGivenNames x
         first
         | (refine Kept.cut (k := κ) (s := x) ?_ ?_; subst x; rotate_left; intro hx; clear_value x; revert x; intro _ _)
         | (refine Kept.cut1 (k := κ) (s := x) ?_ ?_; subst x; rotate_left; intro hx; clear_value x; revert x; intro _ _)
         | (refine Kept.cut4 (k := κ) (s := x) ?_ ?_; subst x; rotate_left; intro hx; clear_value x; revert x; intro _ _)
         | (refine Kept.cut3 (k := κ) (s := x) ?_ ?_; subst x; rotate_left; intro hx; clear_value x; revert x; intro _ _)
         | (refine Kept.cut2 (k := κ) (s := x) ?_ ?_; subst x; rotate_left; intro hx; clear_value x; revert x; intro _ _)
         | (refine KeptOpt.cut (k := κ) (o := x) ?_ ?_; subst x; rotate_left; intro hx; clear_value x; revert x; intro _ _)
         | (refine KeptPair.cut (k := κ) (o := x) ?_ ?_; subst x; rotate_left; intro hx; clear_value x; revert x; intro _ _)
         | (clear_value x; revert x; intro _))
      | dsimp -zeta only | split)

theorem State.fillFrame_kept {κ : Fixed} {s : State} (p : Nat) (n0 : Nat) (n1 : List (List Byte)) (n2 : List Packet) (hk : Kept κ s) :
    Kept κ (State.fillFrame s p n0 n1 n2).2.2 := by
  induction n0 generalizing s n1 n2 with
  | zero => exact hk
  | succ n ih =>
    rw [State.fillFrame]
    repeat' (first
      | with_reducible assumption | with_reducible apply ih | with_reducible apply State.fillStep_kept | with_reducible apply Kept.ite
      | with_reducible apply Kept.ite1 | with_reducible apply Kept.ite2 | with_reducible apply Kept.ite3
      | with_reducible apply Kept.ite4 | refine Kept.of_snd (by with_reducible assumption) ?_
      | refine Kept.of_fst (by with_reducible assumption) ?_ | refine Kept.of_snd2 (by with_reducible assumption) ?_
      | (extract_lets +onlyGivenNames x
         first
         | (refine Kept.cut (k := κ) (s := x) ?_ ?_; subst x; rotate_left; intro hx; clear_value x; revert x; intro _ _)
         | (refine Kept.cut1 (k := κ) (s := x) ?_ ?_; subst x; rotate_left; intro hx; clear_value x; revert x; intro _ _)
         | (refine Kept.cut4 (k := κ) (s := x) ?_ ?_; subst x; rotate_left; intro hx; clear_value x; revert x; intro _ _)
         | (refine Kept.cut3 (k := κ) (s := x) ?_ ?_; subst x; rotate_left; intro hx; clear_value x; revert x; intro _ _)
         | (refine Kept.cut2 (k := κ) (s := x) ?_ ?_; subst x; rotate_left; intro hx; clear_value x; revert x; intro _ _)
         | (clear_value x; revert x; intro _))
      | dsimp -zeta only | split)

theorem State.creditItem_kept {κ : Fixed} {s : State} (p : Nat) (hk : Kept κ s) :
    Kept κ (State.creditItem s p).2 := by
  unfold State.creditItem
  repeat' (first
      | with_reducible assumption | with_reducible apply State.modPort_kept | with_reducible apply Kept.ite
      | with_reducible apply Kept.ite1 | with_reducible apply Kept.ite2 | (intro _ _ _) | (intro _ _) | (intro _)
      | (extract_lets +onlyGivenNames x
         first
         | (refine Kept.cut (k := κ) (s := x) ?_ ?_; subst x; rotate_left; intro hx; clear_value x; revert x; intro _ _)
         | (refine Kept.cut1 (k := κ) (s := x) ?_ ?_; subst x; rotate_left; intro hx; clear_value x; revert x; intro _ _)
         | (refine Kept.cut2 (k := κ) (s := x) ?_ ?_; subst x; rotate_left; intro hx; clear_value x; revert x; intro _ _)
         | (clear_value x; revert x; intro _))
      | dsimp -zeta only | split | simp -zeta only [Kept.mk_iff])

theorem State.stallMark_kept {κ : Fixed} {s : State} (p : Nat) (hk : Kept κ s) :
    Kept κ (State.stallMark s p) := by
  unfold State.stallMark
  repeat' (first
      | with_reducible assumption | with_reducible apply State.modPort_kept | with_reducible apply Kept.ite | (intro _ _ _)
      | (intro _ _) | (intro _) | dsimp -zeta only | split | simp -zeta only [Kept.mk_iff])

theorem State.linkRun_kept {κ : Fixed} {s : State} (p : Nat) (n0 : Nat) (hk : Kept κ s) :
    Kept κ (State.linkRun s p n0) := by
  induction n0 generalizing s with
  | zero => exact hk
  | succ n ih =>
    rw [State.linkRun]
    repeat' (first
      | with_reducible assumption | with_reducible apply ih | with_reducible apply State.modPort_kept
      | with_reducible apply State.sendSeq_kept | with_reducible apply State.msgRun_kept | with_reducible apply State.fillFrame_kept
      | with_reducible apply State.creditItem_kept | with_reducible apply State.stallMark_kept
      | with_reducible apply State.replay_kept | with_reducible apply Kept.ite | (intro _ _ _) | (intro _ _) | (intro _)
      | refine Kept.of_snd (by with_reducible assumption) ?_ | refine Kept.of_fst (by with_reducible assumption) ?_
      | refine Kept.of_snd2 (by with_reducible assumption) ?_
      | (extract_lets +onlyGivenNames x
         first
         | (refine Kept.cut (k := κ) (s := x) ?_ ?_; subst x; rotate_left; intro hx; clear_value x; revert x; intro _ _)
         | (refine Kept.cut1 (k := κ) (s := x) ?_ ?_; subst x; rotate_left; intro hx; clear_value x; revert x; intro _ _)
         | (refine Kept.cut4 (k := κ) (s := x) ?_ ?_; subst x; rotate_left; intro hx; clear_value x; revert x; intro _ _)
         | (refine Kept.cut3 (k := κ) (s := x) ?_ ?_; subst x; rotate_left; intro hx; clear_value x; revert x; intro _ _)
         | (refine Kept.cut2 (k := κ) (s := x) ?_ ?_; subst x; rotate_left; intro hx; clear_value x; revert x; intro _ _)
         | (clear_value x; revert x; intro _))
      | dsimp -zeta only | split | simp -zeta only [Kept.mk_iff])

theorem State.idleNak_kept {κ : Fixed} {s : State} (p : Nat) (hk : Kept κ s) :
    Kept κ (State.idleNak s p) := by
  unfold State.idleNak
  repeat' (first
      | with_reducible assumption | with_reducible apply State.transmit_kept | with_reducible apply Kept.ite | dsimp -zeta only
      | split)

theorem State.creditUnit_kept {κ : Fixed} {s : State} (p : Nat) (hk : Kept κ s) :
    Kept κ (State.creditUnit s p) := by
  unfold State.creditUnit
  repeat' (first
      | with_reducible assumption | with_reducible apply State.linkRun_kept | with_reducible apply Kept.ite
      | (extract_lets +onlyGivenNames x
         first
         | (refine Kept.cut (k := κ) (s := x) ?_ ?_; subst x; rotate_left; intro hx; clear_value x; revert x; intro _ _)
         | (clear_value x; revert x; intro _))
      | dsimp -zeta only | split | with_reducible refine Kept.mk_time ?_ (Nat.le_max_left _ _)
      | with_reducible refine Kept.mk_time ?_ (Nat.le_add_right _ _) | simp -zeta only [Kept.mk_iff])

end Sys2Proof.Machine
end

