-- ==== Sys2Proof/Laws/KeptLinkOps.lean ====
section
/-! SUPPORT. Every operation of Machine/LinkOps.lean keeps the build, the queue and the canonical form. -/

namespace Sys2Proof.Machine

set_option linter.all false

theorem State.enterHello_kept {κ : Fixed} {s : State} (p : Nat) (hk : Kept κ s) :
    Kept κ (State.enterHello s p) := by
  unfold State.enterHello
  repeat' (first
      | with_reducible assumption | with_reducible apply State.setReg_kept | with_reducible apply State.modPort_kept
      | with_reducible apply State.setPortState_kept | with_reducible apply State.freshBytes_kept
      | with_reducible apply State.sendMsg_kept | with_reducible apply State.replay_kept | with_reducible apply Kept.ite
      | (intro _ _ _) | (intro _ _) | (intro _) | refine Kept.of_snd (by with_reducible assumption) ?_
      | refine Kept.of_fst (by with_reducible assumption) ?_ | exact KeptOpt.of rfl (by with_reducible assumption)
      | exact KeptPair.of rfl (by with_reducible assumption) | with_reducible apply KeptOpt.ite
      | with_reducible refine KeptOpt.mapState ?_ (fun _ _ => ?_) | with_reducible refine KeptOpt.map (fun _ => ?_)
      | with_reducible apply KeptOpt.some | with_reducible exact KeptOpt.none | with_reducible apply KeptPair.ite
      | with_reducible apply KeptPair.some | with_reducible exact KeptPair.none
      | (extract_lets +onlyGivenNames x
         first
         | (refine Kept.cut (k := κ) (s := x) ?_ ?_; subst x; rotate_left; intro hx; clear_value x; revert x; intro _ _)
         | (refine Kept.cut1 (k := κ) (s := x) ?_ ?_; subst x; rotate_left; intro hx; clear_value x; revert x; intro _ _)
         | (refine Kept.cut2 (k := κ) (s := x) ?_ ?_; subst x; rotate_left; intro hx; clear_value x; revert x; intro _ _)
         | (refine KeptOpt.cut (k := κ) (o := x) ?_ ?_; subst x; rotate_left; intro hx; clear_value x; revert x; intro _ _)
         | (refine KeptPair.cut (k := κ) (o := x) ?_ ?_; subst x; rotate_left; intro hx; clear_value x; revert x; intro _ _)
         | (clear_value x; revert x; intro _))
      | dsimp -zeta only | split | simp -zeta only [Kept.mk_iff])

theorem State.trainingStart_kept {κ : Fixed} {s : State} (p : Nat) (hk : Kept κ s) :
    Kept κ (State.trainingStart s p) := by
  unfold State.trainingStart
  repeat' (first
      | with_reducible assumption | with_reducible apply State.setPortState_kept | with_reducible apply Kept.ite
      | (extract_lets +onlyGivenNames x
         first
         | (refine Kept.cut (k := κ) (s := x) ?_ ?_; subst x; rotate_left; intro hx; clear_value x; revert x; intro _ _)
         | (clear_value x; revert x; intro _))
      | dsimp -zeta only | split)

theorem State.trainingLock_kept {κ : Fixed} {s : State} (p : Nat) (own : Nat) (partner : Nat) (hk : Kept κ s) :
    Kept κ (State.trainingLock s p own partner) := by
  unfold State.trainingLock
  repeat' (first
      | with_reducible assumption | with_reducible apply State.setReg_kept | with_reducible apply State.modPort_kept
      | with_reducible apply State.enterHello_kept | with_reducible apply Kept.ite | (intro _ _ _) | (intro _ _) | (intro _)
      | (extract_lets +onlyGivenNames x
         first
         | (refine Kept.cut (k := κ) (s := x) ?_ ?_; subst x; rotate_left; intro hx; clear_value x; revert x; intro _ _)
         | (clear_value x; revert x; intro _))
      | dsimp -zeta only | split | simp -zeta only [Kept.mk_iff])

theorem State.trainingTimeout_kept {κ : Fixed} {s : State} (p : Nat) (hk : Kept κ s) :
    Kept κ (State.trainingTimeout s p) := by
  unfold State.trainingTimeout
  repeat' (first
      | with_reducible assumption | with_reducible apply State.portDown_kept | with_reducible apply Kept.ite | dsimp -zeta only
      | split | with_reducible refine Kept.mk_time ?_ (Nat.le_max_left _ _)
      | with_reducible refine Kept.mk_time ?_ (Nat.le_add_right _ _) | simp -zeta only [Kept.mk_iff])

theorem State.helloTimeout_kept {κ : Fixed} {s : State} (p : Nat) (hk : Kept κ s) :
    Kept κ (State.helloTimeout s p) := by
  unfold State.helloTimeout
  repeat' (first
      | with_reducible assumption | with_reducible apply State.portDown_kept | with_reducible apply Kept.ite | dsimp -zeta only
      | split | with_reducible refine Kept.mk_time ?_ (Nat.le_max_left _ _)
      | with_reducible refine Kept.mk_time ?_ (Nat.le_add_right _ _) | simp -zeta only [Kept.mk_iff])

theorem State.hsRefuse_kept {κ : Fixed} {s : State} (p : Nat) (cause : Nat) (hk : Kept κ s) :
    Kept κ (State.hsRefuse s p cause) := by
  unfold State.hsRefuse
  repeat' (first
      | with_reducible assumption | with_reducible apply State.setReg_kept | with_reducible apply State.portDown_kept
      | with_reducible apply State.violationEvent_kept | with_reducible apply Kept.ite
      | (extract_lets +onlyGivenNames x
         first
         | (refine Kept.cut (k := κ) (s := x) ?_ ?_; subst x; rotate_left; intro hx; clear_value x; revert x; intro _ _)
         | (clear_value x; revert x; intro _))
      | dsimp -zeta only | split)

theorem State.hsCheck_kept {κ : Fixed} {s : State} (p : Nat) (hk : Kept κ s) :
    Kept κ (State.hsCheck s p) := by
  unfold State.hsCheck
  repeat' (first
      | with_reducible assumption | with_reducible apply State.setReg_kept | with_reducible apply State.modPort_kept
      | with_reducible apply State.freshBytes_kept | with_reducible apply State.sendMsg_kept
      | with_reducible apply State.portDown_kept | with_reducible apply State.hsRefuse_kept | with_reducible apply Kept.ite
      | (intro _ _ _) | (intro _ _) | (intro _) | refine Kept.of_snd (by with_reducible assumption) ?_
      | refine Kept.of_fst (by with_reducible assumption) ?_ | exact KeptOpt.of rfl (by with_reducible assumption)
      | exact KeptPair.of rfl (by with_reducible assumption) | with_reducible apply KeptOpt.ite
      | with_reducible refine KeptOpt.mapState ?_ (fun _ _ => ?_) | with_reducible refine KeptOpt.map (fun _ => ?_)
      | with_reducible apply KeptOpt.some | with_reducible exact KeptOpt.none | with_reducible apply KeptPair.ite
      | with_reducible apply KeptPair.some | with_reducible exact KeptPair.none
      | (extract_lets +onlyGivenNames x
         first
         | (refine Kept.cut (k := κ) (s := x) ?_ ?_; subst x; rotate_left; intro hx; clear_value x; revert x; intro _ _)
         | (refine Kept.cut1 (k := κ) (s := x) ?_ ?_; subst x; rotate_left; intro hx; clear_value x; revert x; intro _ _)
         | (refine Kept.cut2 (k := κ) (s := x) ?_ ?_; subst x; rotate_left; intro hx; clear_value x; revert x; intro _ _)
         | (refine KeptOpt.cut (k := κ) (o := x) ?_ ?_; subst x; rotate_left; intro hx; clear_value x; revert x; intro _ _)
         | (refine KeptPair.cut (k := κ) (o := x) ?_ ?_; subst x; rotate_left; intro hx; clear_value x; revert x; intro _ _)
         | (clear_value x; revert x; intro _))
      | dsimp -zeta only | split | simp -zeta only [Kept.mk_iff])

theorem State.outOfOrder_kept {κ : Fixed} {s : State} (p : Nat) (hk : Kept κ s) :
    Kept κ (State.outOfOrder s p) := by
  unfold State.outOfOrder
  repeat' (first
      | with_reducible assumption | with_reducible apply State.linkViolation_kept | with_reducible apply Kept.ite | dsimp -zeta only
      | split)

theorem State.helloAt_kept {κ : Fixed} {s : State} (p : Nat) (h : Hello) (hk : Kept κ s) :
    Kept κ (State.helloAt s p h) := by
  unfold State.helloAt
  repeat' (first
      | with_reducible assumption | with_reducible apply State.modPort_kept | with_reducible apply State.linkViolation_kept
      | with_reducible apply State.enterHello_kept | with_reducible apply State.hsCheck_kept
      | with_reducible apply State.outOfOrder_kept | with_reducible apply Kept.ite | (intro _ _ _) | (intro _ _) | (intro _)
      | exact KeptOpt.of rfl (by with_reducible assumption) | exact KeptPair.of rfl (by with_reducible assumption)
      | with_reducible apply KeptOpt.ite | with_reducible refine KeptOpt.mapState ?_ (fun _ _ => ?_)
      | with_reducible refine KeptOpt.map (fun _ => ?_) | with_reducible apply KeptOpt.some | with_reducible exact KeptOpt.none
      | with_reducible apply KeptPair.ite | with_reducible apply KeptPair.some | with_reducible exact KeptPair.none
      | (extract_lets +onlyGivenNames x
         first
         | (refine Kept.cut (k := κ) (s := x) ?_ ?_; subst x; rotate_left; intro hx; clear_value x; revert x; intro _ _)
         | (refine KeptOpt.cut (k := κ) (o := x) ?_ ?_; subst x; rotate_left; intro hx; clear_value x; revert x; intro _ _)
         | (refine KeptPair.cut (k := κ) (o := x) ?_ ?_; subst x; rotate_left; intro hx; clear_value x; revert x; intro _ _)
         | (clear_value x; revert x; intro _))
      | dsimp -zeta only | split | simp -zeta only [Kept.mk_iff])

theorem State.certAt_kept {κ : Fixed} {s : State} (p : Nat) (chain : List Byte) (hk : Kept κ s) :
    Kept κ (State.certAt s p chain) := by
  unfold State.certAt
  repeat' (first
      | with_reducible assumption | with_reducible apply State.modPort_kept | with_reducible apply State.linkViolation_kept
      | with_reducible apply State.hsCheck_kept | with_reducible apply State.outOfOrder_kept | with_reducible apply Kept.ite
      | (intro _ _ _) | (intro _ _) | (intro _) | exact KeptOpt.of rfl (by with_reducible assumption)
      | exact KeptPair.of rfl (by with_reducible assumption) | with_reducible apply KeptOpt.ite
      | with_reducible refine KeptOpt.mapState ?_ (fun _ _ => ?_) | with_reducible refine KeptOpt.map (fun _ => ?_)
      | with_reducible apply KeptOpt.some | with_reducible exact KeptOpt.none | with_reducible apply KeptPair.ite
      | with_reducible apply KeptPair.some | with_reducible exact KeptPair.none
      | (extract_lets +onlyGivenNames x
         first
         | (refine Kept.cut (k := κ) (s := x) ?_ ?_; subst x; rotate_left; intro hx; clear_value x; revert x; intro _ _)
         | (refine KeptOpt.cut (k := κ) (o := x) ?_ ?_; subst x; rotate_left; intro hx; clear_value x; revert x; intro _ _)
         | (refine KeptPair.cut (k := κ) (o := x) ?_ ?_; subst x; rotate_left; intro hx; clear_value x; revert x; intro _ _)
         | (clear_value x; revert x; intro _))
      | dsimp -zeta only | split | simp -zeta only [Kept.mk_iff])

theorem State.proofAt_kept {κ : Fixed} {s : State} (p : Nat) (sig : List Byte) (hk : Kept κ s) :
    Kept κ (State.proofAt s p sig) := by
  unfold State.proofAt
  repeat' (first
      | with_reducible assumption | with_reducible apply State.modPort_kept | with_reducible apply State.sendMsg_kept
      | with_reducible apply State.linkViolation_kept | with_reducible apply State.hsRefuse_kept
      | with_reducible apply State.outOfOrder_kept | with_reducible apply Kept.ite | (intro _ _ _) | (intro _ _) | (intro _)
      | exact KeptOpt.of rfl (by with_reducible assumption) | exact KeptPair.of rfl (by with_reducible assumption)
      | with_reducible apply KeptOpt.ite | with_reducible refine KeptOpt.mapState ?_ (fun _ _ => ?_)
      | with_reducible refine KeptOpt.map (fun _ => ?_) | with_reducible apply KeptOpt.some | with_reducible exact KeptOpt.none
      | with_reducible apply KeptPair.ite | with_reducible apply KeptPair.some | with_reducible exact KeptPair.none
      | (extract_lets +onlyGivenNames x
         first
         | (refine Kept.cut (k := κ) (s := x) ?_ ?_; subst x; rotate_left; intro hx; clear_value x; revert x; intro _ _)
         | (refine KeptOpt.cut (k := κ) (o := x) ?_ ?_; subst x; rotate_left; intro hx; clear_value x; revert x; intro _ _)
         | (refine KeptPair.cut (k := κ) (o := x) ?_ ?_; subst x; rotate_left; intro hx; clear_value x; revert x; intro _ _)
         | (clear_value x; revert x; intro _))
      | dsimp -zeta only | split | simp -zeta only [Kept.mk_iff])

theorem State.tryUp_kept {κ : Fixed} {s : State} (p : Nat) (hk : Kept κ s) :
    Kept κ (State.tryUp s p) := by
  unfold State.tryUp
  repeat' (first
      | with_reducible assumption | with_reducible apply State.modPort_kept | with_reducible apply State.faultLive_kept
      | with_reducible apply State.setPortState_kept | with_reducible apply Kept.ite | (intro _ _ _) | (intro _ _) | (intro _)
      | (extract_lets +onlyGivenNames x
         first
         | (refine Kept.cut (k := κ) (s := x) ?_ ?_; subst x; rotate_left; intro hx; clear_value x; revert x; intro _ _)
         | (clear_value x; revert x; intro _))
      | dsimp -zeta only | split | simp -zeta only [Kept.mk_iff])

theorem State.finishAt_kept {κ : Fixed} {s : State} (p : Nat) (mac : List Byte) (hk : Kept κ s) :
    Kept κ (State.finishAt s p mac) := by
  unfold State.finishAt
  repeat' (first
      | with_reducible assumption | with_reducible apply State.modPort_kept | with_reducible apply State.linkViolation_kept
      | with_reducible apply State.hsRefuse_kept | with_reducible apply State.outOfOrder_kept | with_reducible apply State.tryUp_kept
      | with_reducible apply Kept.ite | (intro _ _ _) | (intro _ _) | (intro _) | with_reducible apply KeptOpt.getD
      | exact KeptOpt.of rfl (by with_reducible assumption) | exact KeptPair.of rfl (by with_reducible assumption)
      | with_reducible apply KeptOpt.ite | with_reducible refine KeptOpt.mapState ?_ (fun _ _ => ?_)
      | with_reducible refine KeptOpt.map (fun _ => ?_) | with_reducible apply KeptOpt.some | with_reducible exact KeptOpt.none
      | with_reducible apply KeptPair.ite | with_reducible apply KeptPair.some | with_reducible exact KeptPair.none
      | (extract_lets +onlyGivenNames x
         first
         | (refine Kept.cut (k := κ) (s := x) ?_ ?_; subst x; rotate_left; intro hx; clear_value x; revert x; intro _ _)
         | (refine KeptOpt.cut (k := κ) (o := x) ?_ ?_; subst x; rotate_left; intro hx; clear_value x; revert x; intro _ _)
         | (refine KeptPair.cut (k := κ) (o := x) ?_ ?_; subst x; rotate_left; intro hx; clear_value x; revert x; intro _ _)
         | (clear_value x; revert x; intro _))
      | dsimp -zeta only | split | simp -zeta only [Kept.mk_iff])

theorem State.sendRekey_kept {κ : Fixed} {s : State} (p : Nat) (pub : Option (List Byte × List Byte)) (hk : Kept κ s) :
    Kept κ (State.sendRekey s p pub) := by
  unfold State.sendRekey
  repeat' (first
      | with_reducible assumption | with_reducible apply State.modPort_kept | with_reducible apply State.freshBytes_kept
      | with_reducible apply State.sendMsg_kept | with_reducible apply Kept.ite | (intro _ _ _) | (intro _ _) | (intro _)
      | refine Kept.of_snd (by with_reducible assumption) ?_ | refine Kept.of_fst (by with_reducible assumption) ?_
      | exact KeptOpt.of rfl (by with_reducible assumption) | exact KeptPair.of rfl (by with_reducible assumption)
      | with_reducible apply KeptOpt.ite | with_reducible refine KeptOpt.mapState ?_ (fun _ _ => ?_)
      | with_reducible refine KeptOpt.map (fun _ => ?_) | with_reducible apply KeptOpt.some | with_reducible exact KeptOpt.none
      | with_reducible apply KeptPair.ite | with_reducible apply KeptPair.some | with_reducible exact KeptPair.none
      | (extract_lets +onlyGivenNames x
         first
         | (refine Kept.cut (k := κ) (s := x) ?_ ?_; subst x; rotate_left; intro hx; clear_value x; revert x; intro _ _)
         | (refine Kept.cut1 (k := κ) (s := x) ?_ ?_; subst x; rotate_left; intro hx; clear_value x; revert x; intro _ _)
         | (refine Kept.cut2 (k := κ) (s := x) ?_ ?_; subst x; rotate_left; intro hx; clear_value x; revert x; intro _ _)
         | (refine KeptOpt.cut (k := κ) (o := x) ?_ ?_; subst x; rotate_left; intro hx; clear_value x; revert x; intro _ _)
         | (refine KeptPair.cut (k := κ) (o := x) ?_ ?_; subst x; rotate_left; intro hx; clear_value x; revert x; intro _ _)
         | (clear_value x; revert x; intro _))
      | dsimp -zeta only | split | simp -zeta only [Kept.mk_iff])

theorem State.rekeyStart_kept {κ : Fixed} {s : State} (p : Nat) (pub : Option (List Byte × List Byte)) (hk : Kept κ s) :
    Kept κ (State.rekeyStart s p pub) := by
  unfold State.rekeyStart
  repeat' (first
      | with_reducible assumption | with_reducible apply State.sendRekey_kept | with_reducible apply Kept.ite | dsimp -zeta only
      | split)

theorem State.rekeyExpiry_kept {κ : Fixed} {s : State} (p : Nat) (random : List Byte) (epub : List Byte) (hk : Kept κ s) :
    Kept κ (State.rekeyExpiry s p random epub) := by
  unfold State.rekeyExpiry
  repeat' (first
      | with_reducible assumption | with_reducible apply State.rekeyStart_kept | with_reducible apply Kept.ite | dsimp -zeta only
      | split)

theorem State.rekeyAt_kept {κ : Fixed} {s : State} (p : Nat) (random : List Byte) (epub : List Byte) (hk : Kept κ s) :
    Kept κ (State.rekeyAt s p random epub) := by
  unfold State.rekeyAt
  repeat' (first
      | with_reducible assumption | with_reducible apply State.modPort_kept | with_reducible apply State.linkViolation_kept
      | with_reducible apply State.sendRekey_kept | with_reducible apply Kept.ite | (intro _ _ _) | (intro _ _) | (intro _)
      | exact KeptOpt.of rfl (by with_reducible assumption) | exact KeptPair.of rfl (by with_reducible assumption)
      | with_reducible apply KeptOpt.ite | with_reducible refine KeptOpt.mapState ?_ (fun _ _ => ?_)
      | with_reducible refine KeptOpt.map (fun _ => ?_) | with_reducible apply KeptOpt.some | with_reducible exact KeptOpt.none
      | with_reducible apply KeptPair.ite | with_reducible apply KeptPair.some | with_reducible exact KeptPair.none
      | (extract_lets +onlyGivenNames x
         first
         | (refine Kept.cut (k := κ) (s := x) ?_ ?_; subst x; rotate_left; intro hx; clear_value x; revert x; intro _ _)
         | (refine KeptOpt.cut (k := κ) (o := x) ?_ ?_; subst x; rotate_left; intro hx; clear_value x; revert x; intro _ _)
         | (refine KeptPair.cut (k := κ) (o := x) ?_ ?_; subst x; rotate_left; intro hx; clear_value x; revert x; intro _ _)
         | (clear_value x; revert x; intro _))
      | dsimp -zeta only | split | simp -zeta only [Kept.mk_iff])

theorem State.oldKeyEnd_kept {κ : Fixed} {s : State} (p : Nat) (hk : Kept κ s) :
    Kept κ (State.oldKeyEnd s p) := by
  unfold State.oldKeyEnd
  repeat' (first
      | with_reducible assumption | with_reducible apply State.modPort_kept | with_reducible apply Kept.ite | (intro _ _ _)
      | (intro _ _) | (intro _) | dsimp -zeta only | split | with_reducible refine Kept.mk_time ?_ (Nat.le_max_left _ _)
      | with_reducible refine Kept.mk_time ?_ (Nat.le_add_right _ _) | simp -zeta only [Kept.mk_iff])

theorem State.originate322_kept {κ : Fixed} {s : State} (atOnce : Bool) (hk : Kept κ s) :
    Kept κ (State.originate322 s atOnce) := by
  unfold State.originate322
  repeat' (first
      | with_reducible assumption | with_reducible apply State.freshBytes_kept | with_reducible apply State.sendMsg_kept
      | with_reducible apply Kept.ite | with_reducible apply Kept.foldl | with_reducible apply Kept.foldl_fst
      | with_reducible apply Kept.foldl_snd | (intro _ _ _) | (intro _ _) | (intro _)
      | refine Kept.of_snd (by with_reducible assumption) ?_ | refine Kept.of_fst (by with_reducible assumption) ?_
      | (extract_lets +onlyGivenNames x
         first
         | (refine Kept.cut (k := κ) (s := x) ?_ ?_; subst x; rotate_left; intro hx; clear_value x; revert x; intro _ _)
         | (refine Kept.cut1 (k := κ) (s := x) ?_ ?_; subst x; rotate_left; intro hx; clear_value x; revert x; intro _ _)
         | (refine Kept.cut2 (k := κ) (s := x) ?_ ?_; subst x; rotate_left; intro hx; clear_value x; revert x; intro _ _)
         | (clear_value x; revert x; intro _))
      | dsimp -zeta only | split | with_reducible refine Kept.mk_time ?_ (Nat.le_max_left _ _)
      | with_reducible refine Kept.mk_time ?_ (Nat.le_add_right _ _) | simp -zeta only [Kept.mk_iff])

theorem State.noteAt322_kept {κ : Fixed} {s : State} (p : Nat) (n : Note) (hk : Kept κ s) :
    Kept κ (State.noteAt322 s p n) := by
  unfold State.noteAt322
  repeat' (first
      | with_reducible assumption | with_reducible apply State.modPort_kept | with_reducible apply State.bumpLink_kept
      | with_reducible apply State.sendMsg_kept | with_reducible apply State.violationEvent_kept
      | with_reducible apply State.linkViolation_kept | with_reducible apply State.originate322_kept | with_reducible apply Kept.ite
      | with_reducible apply Kept.foldl | with_reducible apply Kept.foldl_fst | with_reducible apply Kept.foldl_snd | (intro _ _ _)
      | (intro _ _) | (intro _) | with_reducible apply KeptOpt.foldl | exact KeptOpt.of rfl (by with_reducible assumption)
      | exact KeptPair.of rfl (by with_reducible assumption) | with_reducible apply KeptOpt.ite
      | with_reducible refine KeptOpt.mapState ?_ (fun _ _ => ?_) | with_reducible refine KeptOpt.map (fun _ => ?_)
      | with_reducible apply KeptOpt.some | with_reducible exact KeptOpt.none | with_reducible apply KeptPair.ite
      | with_reducible apply KeptPair.some | with_reducible exact KeptPair.none
      | (extract_lets +onlyGivenNames x
         first
         | (refine Kept.cut (k := κ) (s := x) ?_ ?_; subst x; rotate_left; intro hx; clear_value x; revert x; intro _ _)
         | (refine KeptOpt.cut (k := κ) (o := x) ?_ ?_; subst x; rotate_left; intro hx; clear_value x; revert x; intro _ _)
         | (refine KeptPair.cut (k := κ) (o := x) ?_ ?_; subst x; rotate_left; intro hx; clear_value x; revert x; intro _ _)
         | (clear_value x; revert x; intro _))
      | dsimp -zeta only | split | simp -zeta only [Kept.mk_iff])

theorem State.noteExpiry_kept {κ : Fixed} {s : State} (origin : Nat) (hk : Kept κ s) :
    Kept κ (State.noteExpiry s origin) := by
  unfold State.noteExpiry
  repeat' (first
      | with_reducible assumption | with_reducible apply Kept.ite | (intro _ _ _) | (intro _ _) | (intro _)
      | exact KeptOpt.of rfl (by with_reducible assumption) | exact KeptPair.of rfl (by with_reducible assumption)
      | with_reducible apply KeptOpt.ite | with_reducible refine KeptOpt.mapState ?_ (fun _ _ => ?_)
      | with_reducible refine KeptOpt.map (fun _ => ?_) | with_reducible apply KeptOpt.some | with_reducible exact KeptOpt.none
      | with_reducible apply KeptPair.ite | with_reducible apply KeptPair.some | with_reducible exact KeptPair.none
      | (extract_lets +onlyGivenNames x
         first
         | (refine Kept.cut (k := κ) (s := x) ?_ ?_; subst x; rotate_left; intro hx; clear_value x; revert x; intro _ _)
         | (refine KeptOpt.cut (k := κ) (o := x) ?_ ?_; subst x; rotate_left; intro hx; clear_value x; revert x; intro _ _)
         | (refine KeptPair.cut (k := κ) (o := x) ?_ ?_; subst x; rotate_left; intro hx; clear_value x; revert x; intro _ _)
         | (clear_value x; revert x; intro _))
      | dsimp -zeta only | split | with_reducible refine Kept.mk_time ?_ (Nat.le_max_left _ _)
      | with_reducible refine Kept.mk_time ?_ (Nat.le_add_right _ _) | simp -zeta only [Kept.mk_iff])

theorem State.routeRecompute_kept {κ : Fixed} {s : State} (hk : Kept κ s) :
    Kept κ (State.routeRecompute s) := by
  unfold State.routeRecompute
  repeat' (first
      | with_reducible assumption | with_reducible apply State.bump_kept | with_reducible apply State.routeChange_kept
      | with_reducible apply Kept.ite
      | (extract_lets +onlyGivenNames x
         first
         | (refine Kept.cut (k := κ) (s := x) ?_ ?_; subst x; rotate_left; intro hx; clear_value x; revert x; intro _ _)
         | (clear_value x; revert x; intro _))
      | dsimp -zeta only | split | simp -zeta only [Kept.mk_iff])

theorem State.relayPut_kept {κ : Fixed} {s : State} (p : Nat) (i : RelayItem) (hk : Kept κ s) :
    Kept κ (State.relayPut s p i) := by
  unfold State.relayPut
  repeat' (first
      | with_reducible assumption | with_reducible apply State.modPort_kept | with_reducible apply Kept.ite | (intro _ _ _)
      | (intro _ _) | (intro _) | dsimp -zeta only | split | simp -zeta only [Kept.mk_iff])

theorem State.relayPkt_kept {κ : Fixed} {s : State} (p : Nat) (lane : Nat) (pk : Packet) (o : Option (Nat × Nat)) (hk : Kept κ s) :
    Kept κ (State.relayPkt s p lane pk o) := by
  unfold State.relayPkt
  repeat' (first
      | with_reducible assumption | with_reducible apply State.relayPut_kept | with_reducible apply Kept.ite | dsimp -zeta only
      | split)

theorem State.relaySig_kept {κ : Fixed} {s : State} (p : Nat) (beats : List Nat) (b : Bool) (o : Option (Nat × Nat)) (hk : Kept κ s) :
    Kept κ (State.relaySig s p beats b o) := by
  unfold State.relaySig
  repeat' (first
      | with_reducible assumption | with_reducible apply State.relayPut_kept | with_reducible apply Kept.ite | dsimp -zeta only
      | split)

theorem State.rxPacket_kept {κ : Fixed} {s : State} (p : Nat) (lane : Nat) (pk : Packet) (hk : Kept κ s) :
    Kept κ (State.rxPacket s p lane pk) := by
  unfold State.rxPacket
  repeat' (first
      | with_reducible assumption | with_reducible apply State.modPort_kept | with_reducible apply State.relayPkt_kept
      | with_reducible apply Kept.ite | (intro _ _ _) | (intro _ _) | (intro _) | dsimp -zeta only | split
      | simp -zeta only [Kept.mk_iff])

theorem State.enterSig_kept {κ : Fixed} {s : State} (p : Nat) (beats : List Nat) (hk : Kept κ s) :
    Kept κ (State.enterSig s p beats) := by
  unfold State.enterSig
  repeat' (first
      | with_reducible assumption | with_reducible apply State.setSigLane_kept | with_reducible apply Kept.ite
      | with_reducible apply KeptOpt.getD
      | (extract_lets +onlyGivenNames x
         first
         | (refine Kept.cut (k := κ) (s := x) ?_ ?_; subst x; rotate_left; intro hx; clear_value x; revert x; intro _ _)
         | (clear_value x; revert x; intro _))
      | dsimp -zeta only | split)

theorem State.sluiceSigDrop_kept {κ : Fixed} {s : State} (p : Nat) (k : Nat) (sg : Signal) (o : Option SrcAddr) (hk : Kept κ s) :
    Kept κ (State.sluiceSigDrop s p k sg o) := by
  unfold State.sluiceSigDrop
  repeat' (first
      | with_reducible assumption | with_reducible apply State.violationAt_kept | with_reducible apply Kept.ite
      | with_reducible apply KeptOpt.getD | dsimp -zeta only | split)

theorem State.rxSegment_kept {κ : Fixed} {s : State} (p : Nat) (a : Nat) (b : Nat) (laneB : Bool) (hk : Kept κ s) :
    Kept κ (State.rxSegment s p a b laneB) := by
  unfold State.rxSegment
  repeat' (first
      | with_reducible assumption | with_reducible apply State.bump_kept | with_reducible apply State.modPort_kept
      | with_reducible apply State.takeSegment_kept | with_reducible apply State.freeClass_kept
      | with_reducible apply State.relaySig_kept | with_reducible apply State.enterSig_kept
      | with_reducible apply State.sluiceSigDrop_kept | with_reducible apply Kept.ite | (intro _ _ _) | (intro _ _) | (intro _)
      | refine KeptOpt.foldl_bind (KeptOpt.some ?_) (fun _ _ _ => ?_) | with_reducible apply KeptOpt.getD
      | exact KeptOpt.of rfl (by with_reducible assumption) | exact KeptPair.of rfl (by with_reducible assumption)
      | with_reducible apply KeptOpt.ite | with_reducible refine KeptOpt.mapState ?_ (fun _ _ => ?_)
      | with_reducible refine KeptOpt.map (fun _ => ?_) | with_reducible apply KeptOpt.some | with_reducible exact KeptOpt.none
      | with_reducible apply KeptPair.ite | with_reducible apply KeptPair.some | with_reducible exact KeptPair.none
      | (extract_lets +onlyGivenNames x
         first
         | (refine Kept.cut (k := κ) (s := x) ?_ ?_; subst x; rotate_left; intro hx; clear_value x; revert x; intro _ _)
         | (refine KeptOpt.cut (k := κ) (o := x) ?_ ?_; subst x; rotate_left; intro hx; clear_value x; revert x; intro _ _)
         | (refine KeptPair.cut (k := κ) (o := x) ?_ ?_; subst x; rotate_left; intro hx; clear_value x; revert x; intro _ _)
         | (subst x))
      | dsimp -zeta only | split | simp -zeta only [Kept.mk_iff])

theorem State.sigEnter_kept {κ : Fixed} {s : State} (p : Nat) (sg : Signal) (hk : Kept κ s) :
    Kept κ (State.sigEnter s p sg) := by
  unfold State.sigEnter
  repeat' (first
      | with_reducible assumption | with_reducible apply State.bump_kept | with_reducible apply State.exitSig_kept
      | with_reducible apply State.enterSig_kept | with_reducible apply State.sluiceSigDrop_kept | with_reducible apply Kept.ite
      | with_reducible apply Kept.foldl | with_reducible apply Kept.foldl_fst | with_reducible apply Kept.foldl_snd | (intro _ _ _)
      | (intro _ _) | (intro _) | refine KeptOpt.of (by with_reducible assumption) ?_ | with_reducible apply KeptOpt.foldl
      | dsimp -zeta only | split)

theorem State.rxSignal_kept {κ : Fixed} {s : State} (p : Nat) (sg : Signal) (b : Bool) (hk : Kept κ s) :
    Kept κ (State.rxSignal s p sg b) := by
  unfold State.rxSignal
  repeat' (first
      | with_reducible assumption | with_reducible apply State.modPort_kept | with_reducible apply State.freeClass_kept
      | with_reducible apply State.relaySig_kept | with_reducible apply State.sigEnter_kept | with_reducible apply Kept.ite
      | (intro _ _ _) | (intro _ _) | (intro _) | dsimp -zeta only | split | simp -zeta only [Kept.mk_iff])

theorem State.rxsEnter_kept {κ : Fixed} {s : State} (p : Nat) (hk : Kept κ s) :
    Kept κ (State.rxsEnter s p) := by
  unfold State.rxsEnter
  repeat' (first
      | with_reducible assumption | with_reducible apply State.modPort_kept | with_reducible apply State.freeClass_kept
      | with_reducible apply State.sigEnter_kept | with_reducible apply Kept.ite | with_reducible apply Kept.foldl
      | with_reducible apply Kept.foldl_fst | with_reducible apply Kept.foldl_snd | (intro _ _ _) | (intro _ _) | (intro _)
      | (extract_lets +onlyGivenNames x
         first
         | (refine Kept.cut (k := κ) (s := x) ?_ ?_; subst x; rotate_left; intro hx; clear_value x; revert x; intro _ _)
         | (clear_value x; revert x; intro _))
      | dsimp -zeta only | split | simp -zeta only [Kept.mk_iff])

theorem State.takeClass_kept {κ : Fixed} {s : State} (p : Nat) (k : Nat) (hk : Kept κ s) :
    KeptOpt κ (State.takeClass s p k) := by
  unfold State.takeClass
  repeat' (first
      | with_reducible assumption | with_reducible apply State.modPort_kept | with_reducible apply Kept.ite | (intro _ _ _)
      | (intro _ _) | (intro _) | with_reducible apply KeptOpt.ite | with_reducible refine KeptOpt.mapState ?_ (fun _ _ => ?_)
      | with_reducible refine KeptOpt.map (fun _ => ?_) | with_reducible apply KeptOpt.some | with_reducible exact KeptOpt.none
      | exact KeptOpt.of rfl (by with_reducible assumption) | exact KeptPair.of rfl (by with_reducible assumption)
      | with_reducible apply KeptPair.ite | with_reducible apply KeptPair.some | with_reducible exact KeptPair.none
      | (extract_lets +onlyGivenNames x
         first
         | (refine Kept.cut (k := κ) (s := x) ?_ ?_; subst x; rotate_left; intro hx; clear_value x; revert x; intro _ _)
         | (refine KeptOpt.cut (k := κ) (o := x) ?_ ?_; subst x; rotate_left; intro hx; clear_value x; revert x; intro _ _)
         | (refine KeptPair.cut (k := κ) (o := x) ?_ ?_; subst x; rotate_left; intro hx; clear_value x; revert x; intro _ _)
         | (clear_value x; revert x; intro _))
      | dsimp -zeta only | split | simp -zeta only [Kept.mk_iff])

theorem State.rxUnit_kept {κ : Fixed} {s : State} (p : Nat) (lane : Nat) (first : Bool) (last : Bool) (unusable : Bool) (data : List Byte) (hk : Kept κ s) :
    KeptOpt κ (State.rxUnit s p lane first last unusable data) := by
  unfold State.rxUnit
  repeat' (first
      | with_reducible assumption | with_reducible apply State.modPort_kept | with_reducible apply State.freeClass_kept
      | with_reducible apply State.rxPacket_kept | with_reducible apply Kept.ite | (intro _ _ _) | (intro _ _) | (intro _)
      | with_reducible apply KeptOpt.ite | with_reducible refine KeptOpt.mapState ?_ (fun _ _ => ?_)
      | with_reducible refine KeptOpt.map (fun _ => ?_) | with_reducible apply KeptOpt.some | with_reducible exact KeptOpt.none
      | exact KeptOpt.of rfl (by with_reducible assumption) | exact KeptPair.of rfl (by with_reducible assumption)
      | with_reducible apply KeptPair.ite | with_reducible apply KeptPair.some | with_reducible exact KeptPair.none
      | (extract_lets +onlyGivenNames x
         first
         | (refine Kept.cut (k := κ) (s := x) ?_ ?_; subst x; rotate_left; intro hx; clear_value x; revert x; intro _ _)
         | (refine KeptOpt.cut (k := κ) (o := x) ?_ ?_; subst x; rotate_left; intro hx; clear_value x; revert x; intro _ _)
         | (refine KeptPair.cut (k := κ) (o := x) ?_ ?_; subst x; rotate_left; intro hx; clear_value x; revert x; intro _ _)
         | (subst x))
      | dsimp -zeta only | split | simp -zeta only [Kept.mk_iff])

theorem State.rxItem_kept {κ : Fixed} {s : State} (p : Nat) (item : List Byte) (hk : Kept κ s) :
    KeptOpt κ (State.rxItem s p item) := by
  unfold State.rxItem
  repeat' (first
      | with_reducible assumption | with_reducible apply State.modPort_kept | with_reducible apply State.wear_kept
      | with_reducible apply State.rxSegment_kept | with_reducible apply State.rxSignal_kept
      | with_reducible apply State.takeClass_kept | with_reducible apply State.rxUnit_kept | with_reducible apply Kept.ite
      | with_reducible apply Kept.foldl | with_reducible apply Kept.foldl_fst | with_reducible apply Kept.foldl_snd | (intro _ _ _)
      | (intro _ _) | (intro _) | refine KeptOpt.foldl_bind (KeptOpt.some ?_) (fun _ _ _ => ?_) | refine KeptOpt.bindAny (fun _ => ?_)
      | refine KeptOpt.of (by with_reducible assumption) ?_ | with_reducible apply KeptOpt.ite
      | with_reducible refine KeptOpt.mapState ?_ (fun _ _ => ?_) | with_reducible refine KeptOpt.map (fun _ => ?_)
      | with_reducible apply KeptOpt.some | with_reducible exact KeptOpt.none | with_reducible apply KeptOpt.getD
      | with_reducible apply KeptOpt.foldl | exact KeptOpt.of rfl (by with_reducible assumption)
      | exact KeptPair.of rfl (by with_reducible assumption) | with_reducible apply KeptPair.ite | with_reducible apply KeptPair.some
      | with_reducible exact KeptPair.none
      | (extract_lets +onlyGivenNames x
         first
         | (refine Kept.cut (k := κ) (s := x) ?_ ?_; subst x; rotate_left; intro hx; clear_value x; revert x; intro _ _)
         | (refine KeptOpt.cut (k := κ) (o := x) ?_ ?_; subst x; rotate_left; intro hx; clear_value x; revert x; intro _ _)
         | (refine KeptPair.cut (k := κ) (o := x) ?_ ?_; subst x; rotate_left; intro hx; clear_value x; revert x; intro _ _)
         | (clear_value x; revert x; intro _))
      | dsimp -zeta only | split | simp -zeta only [Kept.mk_iff])

theorem State.rxData_kept {κ : Fixed} {s : State} (p : Nat) (items : List (List Byte)) (hk : Kept κ s) :
    Kept κ (State.rxData s p items) := by
  unfold State.rxData
  repeat' (first
      | with_reducible assumption | with_reducible apply State.linkViolation_kept | with_reducible apply State.rxItem_kept
      | with_reducible apply Kept.ite | with_reducible apply Kept.foldl | with_reducible apply Kept.foldl_fst
      | with_reducible apply Kept.foldl_snd | (intro _ _ _) | (intro _ _) | (intro _)
      | refine KeptOpt.foldl_bind (KeptOpt.some ?_) (fun _ _ _ => ?_) | refine KeptOpt.of (by with_reducible assumption) ?_
      | with_reducible apply KeptOpt.foldl | dsimp -zeta only | split)

theorem State.rxMsg_kept {κ : Fixed} {s : State} (p : Nat) (body : List Byte) (hk : Kept κ s) :
    Kept κ (State.rxMsg s p body) := by
  unfold State.rxMsg
  repeat' (first
      | with_reducible assumption | with_reducible apply State.modPort_kept | with_reducible apply State.linkViolation_kept
      | with_reducible apply Kept.ite | (intro _ _ _) | (intro _ _) | (intro _) | exact KeptOpt.of rfl (by with_reducible assumption)
      | exact KeptPair.of rfl (by with_reducible assumption) | with_reducible apply KeptOpt.ite
      | with_reducible refine KeptOpt.mapState ?_ (fun _ _ => ?_) | with_reducible refine KeptOpt.map (fun _ => ?_)
      | with_reducible apply KeptOpt.some | with_reducible exact KeptOpt.none | with_reducible apply KeptPair.ite
      | with_reducible apply KeptPair.some | with_reducible exact KeptPair.none
      | (extract_lets +onlyGivenNames x
         first
         | (refine Kept.cut (k := κ) (s := x) ?_ ?_; subst x; rotate_left; intro hx; clear_value x; revert x; intro _ _)
         | (refine KeptOpt.cut (k := κ) (o := x) ?_ ?_; subst x; rotate_left; intro hx; clear_value x; revert x; intro _ _)
         | (refine KeptPair.cut (k := κ) (o := x) ?_ ?_; subst x; rotate_left; intro hx; clear_value x; revert x; intro _ _)
         | (clear_value x; revert x; intro _))
      | dsimp -zeta only | split | simp -zeta only [Kept.mk_iff])

theorem State.huntOn_kept {κ : Fixed} {s : State} (p : Nat) (n : Nat) (hk : Kept κ s) :
    Kept κ (State.huntOn s p n) := by
  unfold State.huntOn
  repeat' (first
      | with_reducible assumption | with_reducible apply State.modPort_kept | with_reducible apply State.retrain_kept
      | with_reducible apply Kept.ite | (intro _ _ _) | (intro _ _) | (intro _) | dsimp -zeta only | split
      | simp -zeta only [Kept.mk_iff])

theorem State.frameBad_kept {κ : Fixed} {s : State} (p : Nat) (hk : Kept κ s) :
    Kept κ (State.frameBad s p) := by
  unfold State.frameBad
  repeat' (first
      | with_reducible assumption | with_reducible apply State.modPort_kept | with_reducible apply State.wear_kept
      | with_reducible apply State.bumpLink_kept | with_reducible apply State.huntOn_kept | with_reducible apply Kept.ite
      | (intro _ _ _) | (intro _ _) | (intro _) | exact KeptOpt.of rfl (by with_reducible assumption)
      | exact KeptPair.of rfl (by with_reducible assumption) | with_reducible apply KeptOpt.ite
      | with_reducible refine KeptOpt.mapState ?_ (fun _ _ => ?_) | with_reducible refine KeptOpt.map (fun _ => ?_)
      | with_reducible apply KeptOpt.some | with_reducible exact KeptOpt.none | with_reducible apply KeptPair.ite
      | with_reducible apply KeptPair.some | with_reducible exact KeptPair.none
      | (extract_lets +onlyGivenNames x
         first
         | (refine Kept.cut (k := κ) (s := x) ?_ ?_; subst x; rotate_left; intro hx; clear_value x; revert x; intro _ _)
         | (refine KeptOpt.cut (k := κ) (o := x) ?_ ?_; subst x; rotate_left; intro hx; clear_value x; revert x; intro _ _)
         | (refine KeptPair.cut (k := κ) (o := x) ?_ ?_; subst x; rotate_left; intro hx; clear_value x; revert x; intro _ _)
         | (clear_value x; revert x; intro _))
      | dsimp -zeta only | split | simp -zeta only [Kept.mk_iff])

theorem State.frameTaken_kept {κ : Fixed} {s : State} (p : Nat) (f : Frame) (items : List (List Byte)) (hk : Kept κ s) :
    Kept κ (State.frameTaken s p f items) := by
  unfold State.frameTaken
  repeat' (first
      | with_reducible assumption | with_reducible apply State.modPort_kept | with_reducible apply State.transmit_kept
      | with_reducible apply State.linkViolation_kept | with_reducible apply State.takeAck_kept
      | with_reducible apply State.retransmit_kept | with_reducible apply State.tryUp_kept | with_reducible apply State.rxData_kept
      | with_reducible apply State.rxMsg_kept | with_reducible apply Kept.ite | (intro _ _ _) | (intro _ _) | (intro _)
      | (extract_lets +onlyGivenNames x
         first
         | (refine Kept.cut (k := κ) (s := x) ?_ ?_; subst x; rotate_left; intro hx; clear_value x; revert x; intro _ _)
         | (clear_value x; revert x; intro _))
      | dsimp -zeta only | split | simp -zeta only [Kept.mk_iff])

theorem State.frameAt_kept {κ : Fixed} {s : State} (p : Nat) (f : Frame) (fec : Fec) (hk : Kept κ s) :
    Kept κ (State.frameAt s p f fec) := by
  unfold State.frameAt
  repeat' (first
      | with_reducible assumption | with_reducible apply State.modPort_kept | with_reducible apply State.bumpLink_kept
      | with_reducible apply State.violationEvent_kept | with_reducible apply State.linkViolation_kept
      | with_reducible apply State.huntOn_kept | with_reducible apply State.frameBad_kept | with_reducible apply State.frameTaken_kept
      | with_reducible apply Kept.ite | (intro _ _ _) | (intro _ _) | (intro _) | exact KeptOpt.of rfl (by with_reducible assumption)
      | exact KeptPair.of rfl (by with_reducible assumption) | with_reducible apply KeptOpt.ite
      | with_reducible refine KeptOpt.mapState ?_ (fun _ _ => ?_) | with_reducible refine KeptOpt.map (fun _ => ?_)
      | with_reducible apply KeptOpt.some | with_reducible exact KeptOpt.none | with_reducible apply KeptPair.ite
      | with_reducible apply KeptPair.some | with_reducible exact KeptPair.none
      | (extract_lets +onlyGivenNames x
         first
         | (refine Kept.cut (k := κ) (s := x) ?_ ?_; subst x; rotate_left; intro hx; clear_value x; revert x; intro _ _)
         | (refine KeptOpt.cut (k := κ) (o := x) ?_ ?_; subst x; rotate_left; intro hx; clear_value x; revert x; intro _ _)
         | (refine KeptPair.cut (k := κ) (o := x) ?_ ?_; subst x; rotate_left; intro hx; clear_value x; revert x; intro _ _)
         | (clear_value x; revert x; intro _))
      | dsimp -zeta only | split | simp -zeta only [Kept.mk_iff])

theorem State.nakRepeat_kept {κ : Fixed} {s : State} (p : Nat) (hk : Kept κ s) :
    Kept κ (State.nakRepeat s p) := by
  unfold State.nakRepeat
  repeat' (first
      | with_reducible assumption | with_reducible apply State.modPort_kept | with_reducible apply Kept.ite | (intro _ _ _)
      | (intro _ _) | (intro _)
      | (extract_lets +onlyGivenNames x
         first
         | (refine Kept.cut (k := κ) (s := x) ?_ ?_; subst x; rotate_left; intro hx; clear_value x; revert x; intro _ _)
         | (clear_value x; revert x; intro _))
      | dsimp -zeta only | split | with_reducible refine Kept.mk_time ?_ (Nat.le_max_left _ _)
      | with_reducible refine Kept.mk_time ?_ (Nat.le_add_right _ _) | simp -zeta only [Kept.mk_iff])

theorem State.replayTimeout_kept {κ : Fixed} {s : State} (p : Nat) (hk : Kept κ s) :
    Kept κ (State.replayTimeout s p) := by
  unfold State.replayTimeout
  repeat' (first
      | with_reducible assumption | with_reducible apply State.retransmit_kept | with_reducible apply State.replay_kept
      | with_reducible apply Kept.ite
      | (extract_lets +onlyGivenNames x
         first
         | (refine Kept.cut (k := κ) (s := x) ?_ ?_; subst x; rotate_left; intro hx; clear_value x; revert x; intro _ _)
         | (clear_value x; revert x; intro _))
      | dsimp -zeta only | split | with_reducible refine Kept.mk_time ?_ (Nat.le_max_left _ _)
      | with_reducible refine Kept.mk_time ?_ (Nat.le_add_right _ _) | simp -zeta only [Kept.mk_iff])

theorem State.rxTake_kept {κ : Fixed} {s : State} (p : Nat) (pk : Packet) (hk : Kept κ s) :
    Kept κ (State.rxTake s p pk) := by
  unfold State.rxTake
  repeat' (first
      | with_reducible assumption | with_reducible apply State.modPort_kept | with_reducible apply State.freeClass_kept
      | with_reducible apply Kept.ite | (intro _ _ _) | (intro _ _) | (intro _) | exact KeptOpt.of rfl (by with_reducible assumption)
      | exact KeptPair.of rfl (by with_reducible assumption) | with_reducible apply KeptOpt.ite
      | with_reducible refine KeptOpt.mapState ?_ (fun _ _ => ?_) | with_reducible refine KeptOpt.map (fun _ => ?_)
      | with_reducible apply KeptOpt.some | with_reducible exact KeptOpt.none | with_reducible apply KeptPair.ite
      | with_reducible apply KeptPair.some | with_reducible exact KeptPair.none
      | (extract_lets +onlyGivenNames x
         first
         | (refine Kept.cut (k := κ) (s := x) ?_ ?_; subst x; rotate_left; intro hx; clear_value x; revert x; intro _ _)
         | (refine KeptOpt.cut (k := κ) (o := x) ?_ ?_; subst x; rotate_left; intro hx; clear_value x; revert x; intro _ _)
         | (refine KeptPair.cut (k := κ) (o := x) ?_ ?_; subst x; rotate_left; intro hx; clear_value x; revert x; intro _ _)
         | (clear_value x; revert x; intro _))
      | dsimp -zeta only | split | simp -zeta only [Kept.mk_iff])

theorem State.sluiceDrop_kept {κ : Fixed} {s : State} (p : Nat) (k : Nat) (pk : Packet) (hk : Kept κ s) :
    Kept κ (State.sluiceDrop s p k pk) := by
  unfold State.sluiceDrop
  repeat' (first
      | with_reducible assumption | with_reducible apply State.raiseNack_kept | with_reducible apply State.violationAt_kept
      | with_reducible apply Kept.ite
      | (extract_lets +onlyGivenNames x
         first
         | (refine Kept.cut (k := κ) (s := x) ?_ ?_; subst x; rotate_left; intro hx; clear_value x; revert x; intro _ _)
         | (clear_value x; revert x; intro _))
      | dsimp -zeta only | split)

theorem State.askTransit_kept {κ : Fixed} {s : State} (p : Nat) (exit : Nat) (lane : Nat) (hk : Kept κ s) :
    Kept κ (State.askTransit s p exit lane) := by
  unfold State.askTransit
  repeat' (first
      | with_reducible assumption | with_reducible apply State.addRsv_kept | with_reducible apply State.sendReserve_kept
      | with_reducible apply Kept.ite | (intro _ _ _) | (intro _ _) | (intro _) | exact KeptOpt.of rfl (by with_reducible assumption)
      | exact KeptPair.of rfl (by with_reducible assumption) | with_reducible apply KeptOpt.ite
      | with_reducible refine KeptOpt.mapState ?_ (fun _ _ => ?_) | with_reducible refine KeptOpt.map (fun _ => ?_)
      | with_reducible apply KeptOpt.some | with_reducible exact KeptOpt.none | with_reducible apply KeptPair.ite
      | with_reducible apply KeptPair.some | with_reducible exact KeptPair.none
      | (extract_lets +onlyGivenNames x
         first
         | (refine Kept.cut (k := κ) (s := x) ?_ ?_; subst x; rotate_left; intro hx; clear_value x; revert x; intro _ _)
         | (refine KeptOpt.cut (k := κ) (o := x) ?_ ?_; subst x; rotate_left; intro hx; clear_value x; revert x; intro _ _)
         | (refine KeptPair.cut (k := κ) (o := x) ?_ ?_; subst x; rotate_left; intro hx; clear_value x; revert x; intro _ _)
         | (clear_value x; revert x; intro _))
      | dsimp -zeta only | split)

theorem State.transitGrant_kept {κ : Fixed} {s : State} (c : Coord) (r : SrcRsv) (t : TransferTail) (hk : Kept κ s) :
    Kept κ (State.transitGrant s c r t) := by
  unfold State.transitGrant
  repeat' (first
      | with_reducible assumption | with_reducible apply State.modPort_kept | with_reducible apply State.endSrcRsv_kept
      | with_reducible apply Kept.ite | (intro _ _ _) | (intro _ _) | (intro _)
      | (extract_lets +onlyGivenNames x
         first
         | (refine Kept.cut (k := κ) (s := x) ?_ ?_; subst x; rotate_left; intro hx; clear_value x; revert x; intro _ _)
         | (clear_value x; revert x; intro _))
      | dsimp -zeta only | split | simp -zeta only [Kept.mk_iff])

theorem State.transitAt_kept {κ : Fixed} {s : State} (p : Nat) (pk : Packet) (hk : Kept κ s) :
    Kept κ (State.transitAt s p pk) := by
  unfold State.transitAt
  repeat' (first
      | with_reducible assumption | with_reducible apply State.modPort_kept | with_reducible apply State.raiseNack_kept
      | with_reducible apply State.sendPkt_kept | with_reducible apply State.rxTake_kept | with_reducible apply State.sluiceDrop_kept
      | with_reducible apply State.askTransit_kept | with_reducible apply Kept.ite | (intro _ _ _) | (intro _ _) | (intro _)
      | exact KeptOpt.of rfl (by with_reducible assumption) | exact KeptPair.of rfl (by with_reducible assumption)
      | with_reducible apply KeptOpt.ite | with_reducible refine KeptOpt.mapState ?_ (fun _ _ => ?_)
      | with_reducible refine KeptOpt.map (fun _ => ?_) | with_reducible apply KeptOpt.some | with_reducible exact KeptOpt.none
      | with_reducible apply KeptPair.ite | with_reducible apply KeptPair.some | with_reducible exact KeptPair.none
      | (extract_lets +onlyGivenNames x
         first
         | (refine Kept.cut (k := κ) (s := x) ?_ ?_; subst x; rotate_left; intro hx; clear_value x; revert x; intro _ _)
         | (refine KeptOpt.cut (k := κ) (o := x) ?_ ?_; subst x; rotate_left; intro hx; clear_value x; revert x; intro _ _)
         | (refine KeptPair.cut (k := κ) (o := x) ?_ ?_; subst x; rotate_left; intro hx; clear_value x; revert x; intro _ _)
         | (clear_value x; revert x; intro _))
      | dsimp -zeta only | split | simp -zeta only [Kept.mk_iff])

theorem State.transitReserve_kept {κ : Fixed} {s : State} (p : Nat) (pk : Packet) (t : TransferTail) (hk : Kept κ s) :
    Kept κ (State.transitReserve s p pk t) := by
  unfold State.transitReserve
  repeat' (first
      | with_reducible assumption | with_reducible apply State.modPort_kept | with_reducible apply State.takePkt_kept
      | with_reducible apply Kept.ite | (intro _ _ _) | (intro _ _) | (intro _)
      | (extract_lets +onlyGivenNames x
         first
         | (refine Kept.cut (k := κ) (s := x) ?_ ?_; subst x; rotate_left; intro hx; clear_value x; revert x; intro _ _)
         | (clear_value x; revert x; intro _))
      | dsimp -zeta only | split | simp -zeta only [Kept.mk_iff])

theorem State.transitGive_kept {κ : Fixed} {s : State} (p : Nat) (hk : Kept κ s) :
    Kept κ (State.transitGive s p) := by
  unfold State.transitGive
  repeat' (first
      | with_reducible assumption | with_reducible apply State.modPort_kept | with_reducible apply State.sendPkt_kept
      | with_reducible apply Kept.ite | (intro _ _ _) | (intro _ _) | (intro _)
      | (extract_lets +onlyGivenNames x
         first
         | (refine Kept.cut (k := κ) (s := x) ?_ ?_; subst x; rotate_left; intro hx; clear_value x; revert x; intro _ _)
         | (clear_value x; revert x; intro _))
      | dsimp -zeta only | split | simp -zeta only [Kept.mk_iff])

theorem State.transitExpiry_kept {κ : Fixed} {s : State} (p : Nat) (k : RsvKey) (hk : Kept κ s) :
    Kept κ (State.transitExpiry s p k) := by
  unfold State.transitExpiry
  repeat' (first
      | with_reducible assumption | with_reducible apply State.awaitFt_kept | with_reducible apply State.ringEvent_kept
      | with_reducible apply State.modPort_kept | with_reducible apply Kept.ite | (intro _ _ _) | (intro _ _) | (intro _)
      | exact KeptOpt.of rfl (by with_reducible assumption) | exact KeptPair.of rfl (by with_reducible assumption)
      | with_reducible apply KeptOpt.ite | with_reducible refine KeptOpt.mapState ?_ (fun _ _ => ?_)
      | with_reducible refine KeptOpt.map (fun _ => ?_) | with_reducible apply KeptOpt.some | with_reducible exact KeptOpt.none
      | with_reducible apply KeptPair.ite | with_reducible apply KeptPair.some | with_reducible exact KeptPair.none
      | (extract_lets +onlyGivenNames x
         first
         | (refine Kept.cut (k := κ) (s := x) ?_ ?_; subst x; rotate_left; intro hx; clear_value x; revert x; intro _ _)
         | (refine KeptOpt.cut (k := κ) (o := x) ?_ ?_; subst x; rotate_left; intro hx; clear_value x; revert x; intro _ _)
         | (refine KeptPair.cut (k := κ) (o := x) ?_ ?_; subst x; rotate_left; intro hx; clear_value x; revert x; intro _ _)
         | (clear_value x; revert x; intro _))
      | dsimp -zeta only | split | simp -zeta only [Kept.mk_iff])

theorem State.transitRelease_kept {κ : Fixed} {s : State} (p : Nat) (pk : Packet) (t : TransferTail) (hk : Kept κ s) :
    Kept κ (State.transitRelease s p pk t) := by
  unfold State.transitRelease
  repeat' (first
      | with_reducible assumption | with_reducible apply State.modPort_kept | with_reducible apply State.takePkt_kept
      | with_reducible apply Kept.ite | (intro _ _ _) | (intro _ _) | (intro _)
      | (extract_lets +onlyGivenNames x
         first
         | (refine Kept.cut (k := κ) (s := x) ?_ ?_; subst x; rotate_left; intro hx; clear_value x; revert x; intro _ _)
         | (clear_value x; revert x; intro _))
      | dsimp -zeta only | split | simp -zeta only [Kept.mk_iff])

theorem State.holdEnd_kept {κ : Fixed} {s : State} (p : Nat) (hk : Kept κ s) :
    Kept κ (State.holdEnd s p) := by
  unfold State.holdEnd
  repeat' (first
      | with_reducible assumption | with_reducible apply State.modPort_kept | with_reducible apply State.setPortState_kept
      | with_reducible apply Kept.ite | (intro _ _ _) | (intro _ _) | (intro _)
      | (extract_lets +onlyGivenNames x
         first
         | (refine Kept.cut (k := κ) (s := x) ?_ ?_; subst x; rotate_left; intro hx; clear_value x; revert x; intro _ _)
         | (clear_value x; revert x; intro _))
      | dsimp -zeta only | split | with_reducible refine Kept.mk_time ?_ (Nat.le_max_left _ _)
      | with_reducible refine Kept.mk_time ?_ (Nat.le_add_right _ _) | simp -zeta only [Kept.mk_iff])

theorem State.upHold_kept {κ : Fixed} {s : State} (p : Nat) (hk : Kept κ s) :
    Kept κ (State.upHold s p) := by
  unfold State.upHold
  repeat' (first
      | with_reducible assumption | with_reducible apply State.modPort_kept | with_reducible apply Kept.ite | (intro _ _ _)
      | (intro _ _) | (intro _)
      | (extract_lets +onlyGivenNames x
         first
         | (refine Kept.cut (k := κ) (s := x) ?_ ?_; subst x; rotate_left; intro hx; clear_value x; revert x; intro _ _)
         | (clear_value x; revert x; intro _))
      | dsimp -zeta only | split | with_reducible refine Kept.mk_time ?_ (Nat.le_max_left _ _)
      | with_reducible refine Kept.mk_time ?_ (Nat.le_add_right _ _) | simp -zeta only [Kept.mk_iff])

theorem State.flapReset_kept {κ : Fixed} {s : State} (p : Nat) (hk : Kept κ s) :
    Kept κ (State.flapReset s p) := by
  unfold State.flapReset
  repeat' (first
      | with_reducible assumption | with_reducible apply State.modPort_kept | with_reducible apply Kept.ite | (intro _ _ _)
      | (intro _ _) | (intro _)
      | (extract_lets +onlyGivenNames x
         first
         | (refine Kept.cut (k := κ) (s := x) ?_ ?_; subst x; rotate_left; intro hx; clear_value x; revert x; intro _ _)
         | (clear_value x; revert x; intro _))
      | dsimp -zeta only | split | with_reducible refine Kept.mk_time ?_ (Nat.le_max_left _ _)
      | with_reducible refine Kept.mk_time ?_ (Nat.le_add_right _ _) | simp -zeta only [Kept.mk_iff])

theorem State.laneLost_kept {κ : Fixed} {s : State} (p : Nat) (lane : Nat) (hk : Kept κ s) :
    Kept κ (State.laneLost s p lane) := by
  unfold State.laneLost
  repeat' (first
      | with_reducible assumption | with_reducible apply State.setReg_kept | with_reducible apply State.modPort_kept
      | with_reducible apply State.bumpLink_kept | with_reducible apply State.portDown_kept | with_reducible apply Kept.ite
      | (intro _ _ _) | (intro _ _) | (intro _)
      | (extract_lets +onlyGivenNames x
         first
         | (refine Kept.cut (k := κ) (s := x) ?_ ?_; subst x; rotate_left; intro hx; clear_value x; revert x; intro _ _)
         | (clear_value x; revert x; intro _))
      | dsimp -zeta only | split | simp -zeta only [Kept.mk_iff])

theorem State.widthDone_kept {κ : Fixed} {s : State} (p : Nat) (hk : Kept κ s) :
    Kept κ (State.widthDone s p) := by
  unfold State.widthDone
  repeat' (first
      | with_reducible assumption | with_reducible apply State.modPort_kept | with_reducible apply State.retransmit_kept
      | with_reducible apply Kept.ite | (intro _ _ _) | (intro _ _) | (intro _) | dsimp -zeta only | split
      | simp -zeta only [Kept.mk_iff])

theorem State.deadTime_kept {κ : Fixed} {s : State} (p : Nat) (hk : Kept κ s) :
    Kept κ (State.deadTime s p) := by
  unfold State.deadTime
  repeat' (first
      | with_reducible assumption | with_reducible apply State.portDown_kept | with_reducible apply Kept.ite | dsimp -zeta only
      | split | with_reducible refine Kept.mk_time ?_ (Nat.le_max_left _ _)
      | with_reducible refine Kept.mk_time ?_ (Nat.le_add_right _ _) | simp -zeta only [Kept.mk_iff])

theorem State.stallTime_kept {κ : Fixed} {s : State} (p : Nat) (hk : Kept κ s) :
    Kept κ (State.stallTime s p) := by
  unfold State.stallTime
  repeat' (first
      | with_reducible assumption | with_reducible apply State.portDown_kept | with_reducible apply Kept.ite | dsimp -zeta only
      | split | with_reducible refine Kept.mk_time ?_ (Nat.le_max_left _ _)
      | with_reducible refine Kept.mk_time ?_ (Nat.le_add_right _ _) | simp -zeta only [Kept.mk_iff])

theorem State.relayOn_kept {κ : Fixed} {s : State} (p : Nat) (hk : Kept κ s) :
    Kept κ (State.relayOn s p) := by
  unfold State.relayOn
  repeat' (first
      | with_reducible assumption | with_reducible apply State.setReg_kept | with_reducible apply State.modPort_kept
      | with_reducible apply State.raiseNack_kept | with_reducible apply State.setPortState_kept
      | with_reducible apply State.openDone_kept | with_reducible apply Kept.ite | with_reducible apply Kept.foldl
      | with_reducible apply Kept.foldl_fst | with_reducible apply Kept.foldl_snd | (intro _ _ _) | (intro _ _) | (intro _)
      | (extract_lets +onlyGivenNames x
         first
         | (refine Kept.cut (k := κ) (s := x) ?_ ?_; subst x; rotate_left; intro hx; clear_value x; revert x; intro _ _)
         | (clear_value x; revert x; intro _))
      | dsimp -zeta only | split | simp -zeta only [Kept.mk_iff])

theorem State.relayOff_kept {κ : Fixed} {s : State} (p : Nat) (hk : Kept κ s) :
    Kept κ (State.relayOff s p) := by
  unfold State.relayOff
  repeat' (first
      | with_reducible assumption | with_reducible apply State.setReg_kept | with_reducible apply State.setPortState_kept
      | with_reducible apply Kept.ite | with_reducible apply Kept.foldl | with_reducible apply Kept.foldl_fst
      | with_reducible apply Kept.foldl_snd | (intro _ _ _) | (intro _ _) | (intro _)
      | (extract_lets +onlyGivenNames x
         first
         | (refine Kept.cut (k := κ) (s := x) ?_ ?_; subst x; rotate_left; intro hx; clear_value x; revert x; intro _ _)
         | (clear_value x; revert x; intro _))
      | dsimp -zeta only | split)

theorem State.timeSend_kept {κ : Fixed} {s : State} (p : Nat) (hk : Kept κ s) :
    Kept κ (State.timeSend s p) := by
  unfold State.timeSend
  repeat' (first
      | with_reducible assumption | with_reducible apply State.modPort_kept | with_reducible apply State.transmit_kept
      | with_reducible apply Kept.ite | (intro _ _ _) | (intro _ _) | (intro _) | exact KeptOpt.of rfl (by with_reducible assumption)
      | exact KeptPair.of rfl (by with_reducible assumption) | with_reducible apply KeptOpt.ite
      | with_reducible refine KeptOpt.mapState ?_ (fun _ _ => ?_) | with_reducible refine KeptOpt.map (fun _ => ?_)
      | with_reducible apply KeptOpt.some | with_reducible exact KeptOpt.none | with_reducible apply KeptPair.ite
      | with_reducible apply KeptPair.some | with_reducible exact KeptPair.none
      | (extract_lets +onlyGivenNames x
         first
         | (refine Kept.cut (k := κ) (s := x) ?_ ?_; subst x; rotate_left; intro hx; clear_value x; revert x; intro _ _)
         | (refine KeptOpt.cut (k := κ) (o := x) ?_ ?_; subst x; rotate_left; intro hx; clear_value x; revert x; intro _ _)
         | (refine KeptPair.cut (k := κ) (o := x) ?_ ?_; subst x; rotate_left; intro hx; clear_value x; revert x; intro _ _)
         | (clear_value x; revert x; intro _))
      | dsimp -zeta only | split | simp -zeta only [Kept.mk_iff])

end Sys2Proof.Machine
end

