-- ==== Sys2Proof/Laws/KeptCollOps.lean ====
section
/-! SUPPORT. Every operation of Machine/CollOps.lean keeps the build, the queue and the canonical form. -/

namespace Sys2Proof.Machine

set_option linter.all false

theorem State.modColl_kept {κ : Fixed} {s : State} (c : Coord) (f : CollSt → CollSt) (hk : Kept κ s) :
    Kept κ (State.modColl s c f) := by
  unfold State.modColl
  repeat' (first
      | with_reducible assumption | with_reducible apply Kept.ite | dsimp -zeta only | split | simp -zeta only [Kept.mk_iff])

theorem State.modDep_kept {κ : Fixed} {s : State} (c : Coord) (i : SliceId) (f : Dep → Dep) (hk : Kept κ s) :
    Kept κ (State.modDep s c i f) := by
  unfold State.modDep
  repeat' (first
      | with_reducible assumption | with_reducible apply State.modColl_kept | with_reducible apply Kept.ite | (intro _ _ _)
      | (intro _ _) | (intro _) | dsimp -zeta only | split | simp -zeta only [Kept.mk_iff])

theorem State.dropSlot_kept {κ : Fixed} {s : State} (c : Coord) (w : PSlot) (hk : Kept κ s) :
    Kept κ (State.dropSlot s c w) := by
  unfold State.dropSlot
  repeat' (first
      | with_reducible assumption | with_reducible apply State.modColl_kept | with_reducible apply Kept.ite | (intro _ _ _)
      | (intro _ _) | (intro _) | dsimp -zeta only | split | simp -zeta only [Kept.mk_iff])

theorem State.addSlot_kept {κ : Fixed} {s : State} (c : Coord) (w : PSlot) (hk : Kept κ s) :
    Kept κ (State.addSlot s c w) := by
  unfold State.addSlot
  repeat' (first
      | with_reducible assumption | with_reducible apply State.modColl_kept | with_reducible apply Kept.ite | (intro _ _ _)
      | (intro _ _) | (intro _) | dsimp -zeta only | split | simp -zeta only [Kept.mk_iff])

theorem State.putSlot_kept {κ : Fixed} {s : State} (c : Coord) (old : PSlot) (new : PSlot) (hk : Kept κ s) :
    Kept κ (State.putSlot s c old new) := by
  unfold State.putSlot
  repeat' (first
      | with_reducible assumption | with_reducible apply State.modColl_kept | with_reducible apply Kept.ite | (intro _ _ _)
      | (intro _ _) | (intro _) | dsimp -zeta only | split | simp -zeta only [Kept.mk_iff])

theorem State.beginEpoch_kept {κ : Fixed} {s : State} (c : Coord) (ctx : Nat) (epoch : Nat) (hk : Kept κ s) :
    Kept κ (State.beginEpoch s c ctx epoch) := by
  unfold State.beginEpoch
  repeat' (first
      | with_reducible assumption | with_reducible apply State.setReg_kept | with_reducible apply State.modColl_kept
      | with_reducible apply State.done_kept | with_reducible apply Kept.ite | (intro _ _ _) | (intro _ _) | (intro _)
      | (extract_lets +onlyGivenNames x
         first
         | (refine Kept.cut (k := κ) (s := x) ?_ ?_; subst x; rotate_left; intro hx; clear_value x; revert x; intro _ _)
         | (clear_value x; revert x; intro _))
      | dsimp -zeta only | split | simp -zeta only [Kept.mk_iff])

theorem State.ctxFailure_kept {κ : Fixed} {s : State} (c : Coord) (ctx : Nat) (cause : Nat) (hk : Kept κ s) :
    Kept κ (State.ctxFailure s c ctx cause) := by
  unfold State.ctxFailure
  repeat' (first
      | with_reducible assumption | with_reducible apply State.setReg_kept | with_reducible apply Kept.ite
      | (extract_lets +onlyGivenNames x
         first
         | (refine Kept.cut (k := κ) (s := x) ?_ ?_; subst x; rotate_left; intro hx; clear_value x; revert x; intro _ _)
         | (clear_value x; revert x; intro _))
      | dsimp -zeta only | split)

theorem State.absent_kept {κ : Fixed} {s : State} (c : Coord) (i : SliceId) (reason : Nat) (hk : Kept κ s) :
    Kept κ (State.absent s c i reason) := by
  unfold State.absent
  repeat' (first
      | with_reducible assumption | with_reducible apply State.pushRec_kept | with_reducible apply State.ctxFailure_kept
      | with_reducible apply Kept.ite | dsimp -zeta only | split)

theorem State.millFlags_kept {κ : Fixed} {s : State} (c : Coord) (fl : Nat) (hk : Kept κ s) :
    Kept κ (State.millFlags s c fl) := by
  unfold State.millFlags
  repeat' (first
      | with_reducible assumption | with_reducible apply State.setReg_kept | with_reducible apply Kept.ite | dsimp -zeta only | split)

theorem State.refusePiece_kept {κ : Fixed} {s : State} (c : Coord) (anchors : Bool) (hk : Kept κ s) :
    Kept κ (State.refusePiece s c anchors) := by
  unfold State.refusePiece
  repeat' (first
      | with_reducible assumption | with_reducible apply State.bump_kept | with_reducible apply Kept.ite
      | (extract_lets +onlyGivenNames x
         first
         | (refine Kept.cut (k := κ) (s := x) ?_ ?_; subst x; rotate_left; intro hx; clear_value x; revert x; intro _ _)
         | (clear_value x; revert x; intro _))
      | dsimp -zeta only | split)

theorem State.mergeIn_kept {κ : Fixed} {s : State} (c : Coord) (ph : Nat) (i : SliceId) (p : Part) (q : Part) (hk : Kept κ s) :
    KeptPair κ (State.mergeIn s c ph i p q) := by
  unfold State.mergeIn
  repeat' (first
      | with_reducible assumption | with_reducible apply State.fresh_kept | with_reducible apply State.takeInject_kept
      | with_reducible apply State.millFlags_kept | with_reducible apply Kept.ite | with_reducible apply Kept.foldl
      | with_reducible apply Kept.foldl_fst | with_reducible apply Kept.foldl_snd | with_reducible apply Kept.ite1
      | with_reducible apply Kept.ite2 | (intro _ _ _) | (intro _ _) | (intro _)
      | refine Kept.of_snd (by with_reducible assumption) ?_ | refine Kept.of_fst (by with_reducible assumption) ?_
      | refine KeptPair.of (by with_reducible assumption) ?_ | with_reducible apply KeptPair.ite | with_reducible apply KeptPair.some
      | with_reducible exact KeptPair.none | with_reducible apply KeptOpt.getD | with_reducible apply KeptOpt.foldl
      | exact KeptOpt.of rfl (by with_reducible assumption) | exact KeptPair.of rfl (by with_reducible assumption)
      | with_reducible apply KeptOpt.ite | with_reducible refine KeptOpt.mapState ?_ (fun _ _ => ?_)
      | with_reducible refine KeptOpt.map (fun _ => ?_) | with_reducible apply KeptOpt.some | with_reducible exact KeptOpt.none
      | (extract_lets +onlyGivenNames x
         first
         | (refine Kept.cut (k := κ) (s := x) ?_ ?_; subst x; rotate_left; intro hx; clear_value x; revert x; intro _ _)
         | (refine Kept.cut1 (k := κ) (s := x) ?_ ?_; subst x; rotate_left; intro hx; clear_value x; revert x; intro _ _)
         | (refine Kept.cut2 (k := κ) (s := x) ?_ ?_; subst x; rotate_left; intro hx; clear_value x; revert x; intro _ _)
         | (refine KeptOpt.cut (k := κ) (o := x) ?_ ?_; subst x; rotate_left; intro hx; clear_value x; revert x; intro _ _)
         | (refine KeptPair.cut (k := κ) (o := x) ?_ ?_; subst x; rotate_left; intro hx; clear_value x; revert x; intro _ _)
         | (clear_value x; revert x; intro _))
      | dsimp -zeta only | split | simp -zeta only [Kept.mk_iff])

theorem State.merged_kept {κ : Fixed} {s : State} (c : Coord) (hk : Kept κ s) :
    Kept κ (State.merged s c) := by
  unfold State.merged
  repeat' (first
      | with_reducible assumption | with_reducible apply State.bump_kept | with_reducible apply Kept.ite | dsimp -zeta only | split)

theorem State.depProgress_kept {κ : Fixed} {s : State} (c : Coord) (tag : Nat) (hk : Kept κ s) :
    Kept κ (State.depProgress s c tag) := by
  unfold State.depProgress
  repeat' (first
      | with_reducible assumption | with_reducible apply State.complete_kept | with_reducible apply State.takenRecord_kept
      | with_reducible apply State.modColl_kept | with_reducible apply Kept.ite | (intro _ _ _) | (intro _ _) | (intro _)
      | exact KeptOpt.of rfl (by with_reducible assumption) | exact KeptPair.of rfl (by with_reducible assumption)
      | with_reducible apply KeptOpt.ite | with_reducible refine KeptOpt.mapState ?_ (fun _ _ => ?_)
      | with_reducible refine KeptOpt.map (fun _ => ?_) | with_reducible apply KeptOpt.some | with_reducible exact KeptOpt.none
      | with_reducible apply KeptPair.ite | with_reducible apply KeptPair.some | with_reducible exact KeptPair.none
      | (extract_lets +onlyGivenNames x
         first
         | (refine Kept.cut (k := κ) (s := x) ?_ ?_; subst x; rotate_left; intro hx; clear_value x; revert x; intro _ _)
         | (refine KeptOpt.cut (k := κ) (o := x) ?_ ?_; subst x; rotate_left; intro hx; clear_value x; revert x; intro _ _)
         | (refine KeptPair.cut (k := κ) (o := x) ?_ ?_; subst x; rotate_left; intro hx; clear_value x; revert x; intro _ _)
         | (subst x))
      | dsimp -zeta only | split | simp -zeta only [Kept.mk_iff])

theorem State.noteTaken_kept {κ : Fixed} {s : State} (c : Coord) (i : SliceId) (hk : Kept κ s) :
    Kept κ (State.noteTaken s c i) := by
  unfold State.noteTaken
  repeat' (first
      | with_reducible assumption | with_reducible apply State.modDep_kept | with_reducible apply State.depProgress_kept
      | with_reducible apply Kept.ite | (intro _ _ _) | (intro _ _) | (intro _) | exact KeptOpt.of rfl (by with_reducible assumption)
      | exact KeptPair.of rfl (by with_reducible assumption) | with_reducible apply KeptOpt.ite
      | with_reducible refine KeptOpt.mapState ?_ (fun _ _ => ?_) | with_reducible refine KeptOpt.map (fun _ => ?_)
      | with_reducible apply KeptOpt.some | with_reducible exact KeptOpt.none | with_reducible apply KeptPair.ite
      | with_reducible apply KeptPair.some | with_reducible exact KeptPair.none
      | (extract_lets +onlyGivenNames x
         first
         | (refine Kept.cut (k := κ) (s := x) ?_ ?_; subst x; rotate_left; intro hx; clear_value x; revert x; intro _ _)
         | (refine KeptOpt.cut (k := κ) (o := x) ?_ ?_; subst x; rotate_left; intro hx; clear_value x; revert x; intro _ _)
         | (refine KeptPair.cut (k := κ) (o := x) ?_ ?_; subst x; rotate_left; intro hx; clear_value x; revert x; intro _ _)
         | (clear_value x; revert x; intro _))
      | dsimp -zeta only | split | simp -zeta only [Kept.mk_iff])

theorem State.failDep_kept {κ : Fixed} {s : State} (c : Coord) (i : SliceId) (reason : Nat) (hk : Kept κ s) :
    Kept κ (State.failDep s c i reason) := by
  unfold State.failDep
  repeat' (first
      | with_reducible assumption | with_reducible apply State.modDep_kept | with_reducible apply State.absent_kept
      | with_reducible apply State.noteTaken_kept | with_reducible apply Kept.ite | (intro _ _ _) | (intro _ _) | (intro _)
      | dsimp -zeta only | split | simp -zeta only [Kept.mk_iff])

theorem State.askOwn_kept {κ : Fixed} {s : State} (c : Coord) (i : SliceId) (staged : Bool) (pulled : Bool) (hk : Kept κ s) :
    Kept κ (State.askOwn s c i staged pulled) := by
  unfold State.askOwn
  repeat' (first
      | with_reducible assumption | with_reducible apply State.bump_kept | with_reducible apply State.issueRead_kept
      | with_reducible apply State.modDep_kept | with_reducible apply State.stage_kept | with_reducible apply Kept.ite | (intro _ _ _)
      | (intro _ _) | (intro _) | refine Kept.of_snd (by with_reducible assumption) ?_
      | refine Kept.of_fst (by with_reducible assumption) ?_ | exact KeptOpt.of rfl (by with_reducible assumption)
      | exact KeptPair.of rfl (by with_reducible assumption) | with_reducible apply KeptOpt.ite
      | with_reducible refine KeptOpt.mapState ?_ (fun _ _ => ?_) | with_reducible refine KeptOpt.map (fun _ => ?_)
      | with_reducible apply KeptOpt.some | with_reducible exact KeptOpt.none | with_reducible apply KeptPair.ite
      | with_reducible apply KeptPair.some | with_reducible exact KeptPair.none
      | (extract_lets +onlyGivenNames x
         first
         | (refine Kept.cut (k := κ) (s := x) ?_ ?_; subst x; rotate_left; intro hx; clear_value x; revert x; intro _ _)
         | (refine Kept.cut1 (k := κ) (s := x) ?_ ?_; subst x; rotate_left; intro hx; clear_value x; revert x; intro _ _)
         | (refine Kept.cut2 (k := κ) (s := x) ?_ ?_; subst x; rotate_left; intro hx; clear_value x; revert x; intro _ _)
         | (refine KeptOpt.cut (k := κ) (o := x) ?_ ?_; subst x; rotate_left; intro hx; clear_value x; revert x; intro _ _)
         | (refine KeptPair.cut (k := κ) (o := x) ?_ ?_; subst x; rotate_left; intro hx; clear_value x; revert x; intro _ _)
         | (clear_value x; revert x; intro _))
      | dsimp -zeta only | split | simp -zeta only [Kept.mk_iff])

theorem State.watchDep_kept {κ : Fixed} {s : State} (c : Coord) (i : SliceId) (raw : List Byte) (hk : Kept κ s) :
    Kept κ (State.watchDep s c i raw) := by
  unfold State.watchDep
  repeat' (first
      | with_reducible assumption | with_reducible apply State.bump_kept | with_reducible apply State.memWriteAs_kept
      | with_reducible apply State.modDep_kept | with_reducible apply Kept.ite | with_reducible apply Kept.foldl
      | with_reducible apply Kept.foldl_fst | with_reducible apply Kept.foldl_snd | (intro _ _ _) | (intro _ _) | (intro _)
      | with_reducible apply KeptOpt.foldl | exact KeptOpt.of rfl (by with_reducible assumption)
      | exact KeptPair.of rfl (by with_reducible assumption) | with_reducible apply KeptOpt.ite
      | with_reducible refine KeptOpt.mapState ?_ (fun _ _ => ?_) | with_reducible refine KeptOpt.map (fun _ => ?_)
      | with_reducible apply KeptOpt.some | with_reducible exact KeptOpt.none | with_reducible apply KeptPair.ite
      | with_reducible apply KeptPair.some | with_reducible exact KeptPair.none
      | (extract_lets +onlyGivenNames x
         first
         | (refine Kept.cut (k := κ) (s := x) ?_ ?_; subst x; rotate_left; intro hx; clear_value x; revert x; intro _ _)
         | (refine KeptOpt.cut (k := κ) (o := x) ?_ ?_; subst x; rotate_left; intro hx; clear_value x; revert x; intro _ _)
         | (refine KeptPair.cut (k := κ) (o := x) ?_ ?_; subst x; rotate_left; intro hx; clear_value x; revert x; intro _ _)
         | (clear_value x; revert x; intro _))
      | dsimp -zeta only | split | simp -zeta only [Kept.mk_iff])

theorem State.takeBytes_kept {κ : Fixed} {s : State} (c : Coord) (ph : Nat) (i : SliceId) (js : List Nat) (raw : List Byte) (hk : Kept κ s) :
    Kept κ (State.takeBytes s c ph i js raw).2 := by
  unfold State.takeBytes
  repeat' (first
      | with_reducible assumption | with_reducible apply State.bump_kept | with_reducible apply State.modDep_kept
      | with_reducible apply State.millFlags_kept | with_reducible apply State.noteTaken_kept
      | with_reducible apply State.watchDep_kept | with_reducible apply Kept.ite | with_reducible apply Kept.foldl
      | with_reducible apply Kept.foldl_fst | with_reducible apply Kept.foldl_snd | with_reducible apply Kept.ite1
      | with_reducible apply Kept.ite2 | (intro _ _ _) | (intro _ _) | (intro _) | with_reducible apply KeptOpt.getD
      | with_reducible apply KeptOpt.foldl | exact KeptOpt.of rfl (by with_reducible assumption)
      | exact KeptPair.of rfl (by with_reducible assumption) | with_reducible apply KeptOpt.ite
      | with_reducible refine KeptOpt.mapState ?_ (fun _ _ => ?_) | with_reducible refine KeptOpt.map (fun _ => ?_)
      | with_reducible apply KeptOpt.some | with_reducible exact KeptOpt.none | with_reducible apply KeptPair.ite
      | with_reducible apply KeptPair.some | with_reducible exact KeptPair.none
      | (extract_lets +onlyGivenNames x
         first
         | (refine Kept.cut (k := κ) (s := x) ?_ ?_; subst x; rotate_left; intro hx; clear_value x; revert x; intro _ _)
         | (refine Kept.cut1 (k := κ) (s := x) ?_ ?_; subst x; rotate_left; intro hx; clear_value x; revert x; intro _ _)
         | (refine Kept.cut2 (k := κ) (s := x) ?_ ?_; subst x; rotate_left; intro hx; clear_value x; revert x; intro _ _)
         | (refine KeptOpt.cut (k := κ) (o := x) ?_ ?_; subst x; rotate_left; intro hx; clear_value x; revert x; intro _ _)
         | (refine KeptPair.cut (k := κ) (o := x) ?_ ?_; subst x; rotate_left; intro hx; clear_value x; revert x; intro _ _)
         | (subst x))
      | dsimp -zeta only | split)

theorem State.takeOwn_kept {κ : Fixed} {s : State} (c : Coord) (ph : Nat) (i : SliceId) (js : List Nat) (hk : Kept κ s) :
    Kept κ (State.takeOwn s c ph i js).2 := by
  unfold State.takeOwn
  repeat' (first
      | with_reducible assumption | with_reducible apply State.takeBytes_kept | with_reducible apply Kept.ite
      | with_reducible apply Kept.ite1 | with_reducible apply Kept.ite2 | refine Kept.of_snd (by with_reducible assumption) ?_
      | refine Kept.of_fst (by with_reducible assumption) ?_ | dsimp -zeta only | split)

theorem State.owe_kept {κ : Fixed} {s : State} (c : Coord) (ph : Nat) (i : SliceId) (hk : Kept κ s) :
    Kept κ (State.owe s c ph i) := by
  unfold State.owe
  repeat' (first
      | with_reducible assumption | with_reducible apply State.bump_kept | with_reducible apply State.modColl_kept
      | with_reducible apply Kept.ite | (intro _ _ _) | (intro _ _) | (intro _) | exact KeptOpt.of rfl (by with_reducible assumption)
      | exact KeptPair.of rfl (by with_reducible assumption) | with_reducible apply KeptOpt.ite
      | with_reducible refine KeptOpt.mapState ?_ (fun _ _ => ?_) | with_reducible refine KeptOpt.map (fun _ => ?_)
      | with_reducible apply KeptOpt.some | with_reducible exact KeptOpt.none | with_reducible apply KeptPair.ite
      | with_reducible apply KeptPair.some | with_reducible exact KeptPair.none
      | (extract_lets +onlyGivenNames x
         first
         | (refine Kept.cut (k := κ) (s := x) ?_ ?_; subst x; rotate_left; intro hx; clear_value x; revert x; intro _ _)
         | (refine KeptOpt.cut (k := κ) (o := x) ?_ ?_; subst x; rotate_left; intro hx; clear_value x; revert x; intro _ _)
         | (refine KeptPair.cut (k := κ) (o := x) ?_ ?_; subst x; rotate_left; intro hx; clear_value x; revert x; intro _ _)
         | (clear_value x; revert x; intro _))
      | dsimp -zeta only | split | simp -zeta only [Kept.mk_iff])

theorem State.sendColl_kept {κ : Fixed} {s : State} (c : Coord) (late : Bool) (pk : Packet) (hk : Kept κ s) :
    Kept κ (State.sendColl s c late pk) := by
  unfold State.sendColl
  repeat' (first
      | with_reducible assumption | with_reducible apply State.bump_kept | with_reducible apply State.sendPkt_kept
      | with_reducible apply Kept.ite | dsimp -zeta only | split)

theorem State.sendLate_kept {κ : Fixed} {s : State} (c : Coord) (late : Bool) (h : CollHdr) (fmt : Nat) (k : Nat) (p : Part) (hk : Kept κ s) :
    Kept κ (State.sendLate s c late h fmt k p) := by
  unfold State.sendLate
  repeat' (first
      | with_reducible assumption | with_reducible apply State.modColl_kept | with_reducible apply State.sendColl_kept
      | with_reducible apply Kept.ite | with_reducible apply Kept.foldl | with_reducible apply Kept.foldl_fst
      | with_reducible apply Kept.foldl_snd | (intro _ _ _) | (intro _ _) | (intro _) | with_reducible apply KeptOpt.foldl
      | dsimp -zeta only | split | simp -zeta only [Kept.mk_iff])

theorem State.sendPart_kept {κ : Fixed} {s : State} (c : Coord) (h : CollHdr) (fmt : Nat) (k : Nat) (p : Part) (hk : Kept κ s) :
    Kept κ (State.sendPart s c h fmt k p) := by
  unfold State.sendPart
  repeat' (first
      | with_reducible assumption | with_reducible apply State.sendLate_kept | with_reducible apply Kept.ite | dsimp -zeta only
      | split)

theorem State.together_kept {κ : Fixed} {s : State} (c : Coord) (f : State → State) (hf : ∀ s, Kept κ s → Kept κ (f s)) (hk : Kept κ s) :
    Kept κ (State.together s c f) := by
  unfold State.together
  repeat' (first
      | with_reducible assumption | with_reducible apply hf | with_reducible apply State.modColl_kept
      | with_reducible apply State.sendColl_kept | with_reducible apply Kept.ite | with_reducible apply Kept.foldl
      | with_reducible apply Kept.foldl_fst | with_reducible apply Kept.foldl_snd | (intro _ _ _) | (intro _ _) | (intro _)
      | with_reducible apply KeptOpt.getD | with_reducible apply KeptOpt.foldl | exact KeptOpt.of rfl (by with_reducible assumption)
      | exact KeptPair.of rfl (by with_reducible assumption) | with_reducible apply KeptOpt.ite
      | with_reducible refine KeptOpt.mapState ?_ (fun _ _ => ?_) | with_reducible refine KeptOpt.map (fun _ => ?_)
      | with_reducible apply KeptOpt.some | with_reducible exact KeptOpt.none | with_reducible apply KeptPair.ite
      | with_reducible apply KeptPair.some | with_reducible exact KeptPair.none
      | (extract_lets +onlyGivenNames x
         first
         | (refine Kept.cut (k := κ) (s := x) ?_ ?_; subst x; rotate_left; intro hx; clear_value x; revert x; intro _ _)
         | (refine KeptOpt.cut (k := κ) (o := x) ?_ ?_; subst x; rotate_left; intro hx; clear_value x; revert x; intro _ _)
         | (refine KeptPair.cut (k := κ) (o := x) ?_ ?_; subst x; rotate_left; intro hx; clear_value x; revert x; intro _ _)
         | (clear_value x; revert x; intro _))
      | dsimp -zeta only | split | simp -zeta only [Kept.mk_iff])

theorem State.sweepOn_kept {κ : Fixed} {s : State} (c : Coord) (ph : Nat) (i : SliceId) (p : Part) (src : SrcAddr) (tag : Nat) (phase : Nat) (hk : Kept κ s) :
    Kept κ (State.sweepOn s c ph i p src tag phase) := by
  unfold State.sweepOn
  repeat' (first
      | with_reducible assumption | with_reducible apply State.sendPart_kept | with_reducible apply Kept.ite
      | exact KeptOpt.of rfl (by with_reducible assumption) | exact KeptPair.of rfl (by with_reducible assumption)
      | with_reducible apply KeptOpt.ite | with_reducible refine KeptOpt.mapState ?_ (fun _ _ => ?_)
      | with_reducible refine KeptOpt.map (fun _ => ?_) | with_reducible apply KeptOpt.some | with_reducible exact KeptOpt.none
      | with_reducible apply KeptPair.ite | with_reducible apply KeptPair.some | with_reducible exact KeptPair.none
      | (extract_lets +onlyGivenNames x
         first
         | (refine Kept.cut (k := κ) (s := x) ?_ ?_; subst x; rotate_left; intro hx; clear_value x; revert x; intro _ _)
         | (refine KeptOpt.cut (k := κ) (o := x) ?_ ?_; subst x; rotate_left; intro hx; clear_value x; revert x; intro _ _)
         | (refine KeptPair.cut (k := κ) (o := x) ?_ ?_; subst x; rotate_left; intro hx; clear_value x; revert x; intro _ _)
         | (clear_value x; revert x; intro _))
      | dsimp -zeta only | split)

theorem State.toRoot_kept {κ : Fixed} {s : State} (c : Coord) (ph : Nat) (i : SliceId) (p : Part) (src : SrcAddr) (tag : Nat) (late : Bool) (fmt : Nat) (hk : Kept κ s) :
    Kept κ (State.toRoot s c ph i p src tag late fmt) := by
  unfold State.toRoot
  repeat' (first
      | with_reducible assumption | with_reducible apply State.bump_kept | with_reducible apply State.sendLate_kept
      | with_reducible apply Kept.ite | exact KeptOpt.of rfl (by with_reducible assumption)
      | exact KeptPair.of rfl (by with_reducible assumption) | with_reducible apply KeptOpt.ite
      | with_reducible refine KeptOpt.mapState ?_ (fun _ _ => ?_) | with_reducible refine KeptOpt.map (fun _ => ?_)
      | with_reducible apply KeptOpt.some | with_reducible exact KeptOpt.none | with_reducible apply KeptPair.ite
      | with_reducible apply KeptPair.some | with_reducible exact KeptPair.none
      | (extract_lets +onlyGivenNames x
         first
         | (refine Kept.cut (k := κ) (s := x) ?_ ?_; subst x; rotate_left; intro hx; clear_value x; revert x; intro _ _)
         | (refine KeptOpt.cut (k := κ) (o := x) ?_ ?_; subst x; rotate_left; intro hx; clear_value x; revert x; intro _ _)
         | (refine KeptPair.cut (k := κ) (o := x) ?_ ?_; subst x; rotate_left; intro hx; clear_value x; revert x; intro _ _)
         | (clear_value x; revert x; intro _))
      | dsimp -zeta only | split)

theorem State.lateAnchors_kept {κ : Fixed} {s : State} (c : Coord) (i : SliceId) (d : Dep) (raw : List Byte) (hk : Kept κ s) :
    Kept κ (State.lateAnchors s c i d raw) := by
  unfold State.lateAnchors
  repeat' (first
      | with_reducible assumption | with_reducible apply State.modDep_kept | with_reducible apply State.takeBytes_kept
      | with_reducible apply State.toRoot_kept | with_reducible apply Kept.ite | (intro _ _ _) | (intro _ _) | (intro _)
      | refine Kept.of_snd (by with_reducible assumption) ?_ | refine Kept.of_fst (by with_reducible assumption) ?_
      | exact KeptOpt.of rfl (by with_reducible assumption) | exact KeptPair.of rfl (by with_reducible assumption)
      | with_reducible apply KeptOpt.ite | with_reducible refine KeptOpt.mapState ?_ (fun _ _ => ?_)
      | with_reducible refine KeptOpt.map (fun _ => ?_) | with_reducible apply KeptOpt.some | with_reducible exact KeptOpt.none
      | with_reducible apply KeptPair.ite | with_reducible apply KeptPair.some | with_reducible exact KeptPair.none
      | (extract_lets +onlyGivenNames x
         first
         | (refine Kept.cut (k := κ) (s := x) ?_ ?_; subst x; rotate_left; intro hx; clear_value x; revert x; intro _ _)
         | (refine Kept.cut1 (k := κ) (s := x) ?_ ?_; subst x; rotate_left; intro hx; clear_value x; revert x; intro _ _)
         | (refine Kept.cut2 (k := κ) (s := x) ?_ ?_; subst x; rotate_left; intro hx; clear_value x; revert x; intro _ _)
         | (refine KeptOpt.cut (k := κ) (o := x) ?_ ?_; subst x; rotate_left; intro hx; clear_value x; revert x; intro _ _)
         | (refine KeptPair.cut (k := κ) (o := x) ?_ ?_; subst x; rotate_left; intro hx; clear_value x; revert x; intro _ _)
         | (clear_value x; revert x; intro _))
      | dsimp -zeta only | split | simp -zeta only [Kept.mk_iff])

theorem State.lateOwn_kept {κ : Fixed} {s : State} (c : Coord) (i : SliceId) (hk : Kept κ s) :
    Kept κ (State.lateOwn s c i) := by
  unfold State.lateOwn
  repeat' (first
      | with_reducible assumption | with_reducible apply State.modDep_kept | with_reducible apply State.noteTaken_kept
      | with_reducible apply State.askOwn_kept | with_reducible apply State.watchDep_kept | with_reducible apply State.takeBytes_kept
      | with_reducible apply State.toRoot_kept | with_reducible apply State.lateAnchors_kept | with_reducible apply Kept.ite
      | with_reducible apply Kept.foldl | with_reducible apply Kept.foldl_fst | with_reducible apply Kept.foldl_snd | (intro _ _ _)
      | (intro _ _) | (intro _) | refine Kept.of_snd (by with_reducible assumption) ?_
      | refine Kept.of_fst (by with_reducible assumption) ?_ | with_reducible apply KeptOpt.foldl
      | exact KeptOpt.of rfl (by with_reducible assumption) | exact KeptPair.of rfl (by with_reducible assumption)
      | with_reducible apply KeptOpt.ite | with_reducible refine KeptOpt.mapState ?_ (fun _ _ => ?_)
      | with_reducible refine KeptOpt.map (fun _ => ?_) | with_reducible apply KeptOpt.some | with_reducible exact KeptOpt.none
      | with_reducible apply KeptPair.ite | with_reducible apply KeptPair.some | with_reducible exact KeptPair.none
      | (extract_lets +onlyGivenNames x
         first
         | (refine Kept.cut (k := κ) (s := x) ?_ ?_; subst x; rotate_left; intro hx; clear_value x; revert x; intro _ _)
         | (refine Kept.cut1 (k := κ) (s := x) ?_ ?_; subst x; rotate_left; intro hx; clear_value x; revert x; intro _ _)
         | (refine Kept.cut2 (k := κ) (s := x) ?_ ?_; subst x; rotate_left; intro hx; clear_value x; revert x; intro _ _)
         | (refine KeptOpt.cut (k := κ) (o := x) ?_ ?_; subst x; rotate_left; intro hx; clear_value x; revert x; intro _ _)
         | (refine KeptPair.cut (k := κ) (o := x) ?_ ?_; subst x; rotate_left; intro hx; clear_value x; revert x; intro _ _)
         | (clear_value x; revert x; intro _))
      | dsimp -zeta only | split | simp -zeta only [Kept.mk_iff])

theorem State.sendResult_kept {κ : Fixed} {s : State} (c : Coord) (i : SliceId) (fmt : Nat) (n : Nat) (bs : List Blk) (flags : Nat) (poison : Bool) (hk : Kept κ s) :
    Kept κ (State.sendResult s c i fmt n bs flags poison) := by
  unfold State.sendResult
  repeat' (first
      | with_reducible assumption | with_reducible apply State.sendPkt_kept | with_reducible apply Kept.ite
      | (extract_lets +onlyGivenNames x
         first
         | (refine Kept.cut (k := κ) (s := x) ?_ ?_; subst x; rotate_left; intro hx; clear_value x; revert x; intro _ _)
         | (clear_value x; revert x; intro _))
      | dsimp -zeta only | split | simp -zeta only [Kept.mk_iff])

theorem State.noteDone_kept {κ : Fixed} {s : State} (c : Coord) (i : SliceId) (flags : Nat) (inc : Bool) (missing : Nat) (hk : Kept κ s) :
    Kept κ (State.noteDone s c i flags inc missing) := by
  unfold State.noteDone
  repeat' (first
      | with_reducible assumption | with_reducible apply State.setReg_kept | with_reducible apply State.bump_kept
      | with_reducible apply State.pushRec_kept | with_reducible apply Kept.ite
      | (extract_lets +onlyGivenNames x
         first
         | (refine Kept.cut (k := κ) (s := x) ?_ ?_; subst x; rotate_left; intro hx; clear_value x; revert x; intro _ _)
         | (clear_value x; revert x; intro _))
      | dsimp -zeta only | split)

theorem State.emitSlice_kept {κ : Fixed} {s : State} (c : Coord) (i : SliceId) (p : Part) (hk : Kept κ s) :
    Kept κ (State.emitSlice s c i p) := by
  unfold State.emitSlice
  repeat' (first
      | with_reducible assumption | with_reducible apply State.millFlags_kept | with_reducible apply State.merged_kept
      | with_reducible apply State.sendPart_kept | with_reducible apply State.sendResult_kept
      | with_reducible apply State.noteDone_kept | with_reducible apply Kept.ite | with_reducible apply Kept.foldl
      | with_reducible apply Kept.foldl_fst | with_reducible apply Kept.foldl_snd | (intro _ _ _) | (intro _ _) | (intro _)
      | with_reducible apply KeptOpt.getD | with_reducible apply KeptOpt.foldl | exact KeptOpt.of rfl (by with_reducible assumption)
      | exact KeptPair.of rfl (by with_reducible assumption) | with_reducible apply KeptOpt.ite
      | with_reducible refine KeptOpt.mapState ?_ (fun _ _ => ?_) | with_reducible refine KeptOpt.map (fun _ => ?_)
      | with_reducible apply KeptOpt.some | with_reducible exact KeptOpt.none | with_reducible apply KeptPair.ite
      | with_reducible apply KeptPair.some | with_reducible exact KeptPair.none
      | (extract_lets +onlyGivenNames x
         first
         | (refine Kept.cut (k := κ) (s := x) ?_ ?_; subst x; rotate_left; intro hx; clear_value x; revert x; intro _ _)
         | (refine KeptOpt.cut (k := κ) (o := x) ?_ ?_; subst x; rotate_left; intro hx; clear_value x; revert x; intro _ _)
         | (refine KeptPair.cut (k := κ) (o := x) ?_ ?_; subst x; rotate_left; intro hx; clear_value x; revert x; intro _ _)
         | (clear_value x; revert x; intro _))
      | dsimp -zeta only | split | simp -zeta only [Kept.mk_iff])

theorem State.spreadAnchors_kept {κ : Fixed} {s : State} (c : Coord) (i : SliceId) (bytes : List Nat) (n : Nat) (flags : Nat) (hk : Kept κ s) :
    Kept κ (State.spreadAnchors s c i bytes n flags) := by
  unfold State.spreadAnchors
  repeat' (first
      | with_reducible assumption | with_reducible apply State.sendPkt_kept | with_reducible apply State.modColl_kept
      | with_reducible apply Kept.ite | (intro _ _ _) | (intro _ _) | (intro _)
      | (extract_lets +onlyGivenNames x
         first
         | (refine Kept.cut (k := κ) (s := x) ?_ ?_; subst x; rotate_left; intro hx; clear_value x; revert x; intro _ _)
         | (clear_value x; revert x; intro _))
      | dsimp -zeta only | split | simp -zeta only [Kept.mk_iff])

theorem State.holdOrEmit_kept {κ : Fixed} {s : State} (c : Coord) (w : PSlot) (p : Part) (hk : Kept κ s) :
    Kept κ (State.holdOrEmit s c w p) := by
  unfold State.holdOrEmit
  repeat' (first
      | with_reducible assumption | with_reducible apply State.bump_kept | with_reducible apply State.memWrite_kept
      | with_reducible apply State.modColl_kept | with_reducible apply State.emitSlice_kept | with_reducible apply Kept.ite
      | (intro _ _ _) | (intro _ _) | (intro _) | exact KeptOpt.of rfl (by with_reducible assumption)
      | exact KeptPair.of rfl (by with_reducible assumption) | with_reducible apply KeptOpt.ite
      | with_reducible refine KeptOpt.mapState ?_ (fun _ _ => ?_) | with_reducible refine KeptOpt.map (fun _ => ?_)
      | with_reducible apply KeptOpt.some | with_reducible exact KeptOpt.none | with_reducible apply KeptPair.ite
      | with_reducible apply KeptPair.some | with_reducible exact KeptPair.none
      | (extract_lets +onlyGivenNames x
         first
         | (refine Kept.cut (k := κ) (s := x) ?_ ?_; subst x; rotate_left; intro hx; clear_value x; revert x; intro _ _)
         | (refine KeptOpt.cut (k := κ) (o := x) ?_ ?_; subst x; rotate_left; intro hx; clear_value x; revert x; intro _ _)
         | (refine KeptPair.cut (k := κ) (o := x) ?_ ?_; subst x; rotate_left; intro hx; clear_value x; revert x; intro _ _)
         | (clear_value x; revert x; intro _))
      | dsimp -zeta only | split | simp -zeta only [Kept.mk_iff])

theorem State.toPrimary_kept {κ : Fixed} {s : State} (c : Coord) (i : SliceId) (p : Part) (hk : Kept κ s) :
    Kept κ (State.toPrimary s c i p) := by
  unfold State.toPrimary
  repeat' (first
      | with_reducible assumption | with_reducible apply State.sendPart_kept | with_reducible apply Kept.ite | (intro _ _ _)
      | (intro _ _) | (intro _) | exact KeptOpt.of rfl (by with_reducible assumption)
      | exact KeptPair.of rfl (by with_reducible assumption) | with_reducible apply KeptOpt.ite
      | with_reducible refine KeptOpt.mapState ?_ (fun _ _ => ?_) | with_reducible refine KeptOpt.map (fun _ => ?_)
      | with_reducible apply KeptOpt.some | with_reducible exact KeptOpt.none | with_reducible apply KeptPair.ite
      | with_reducible apply KeptPair.some | with_reducible exact KeptPair.none
      | (extract_lets +onlyGivenNames x
         first
         | (refine Kept.cut (k := κ) (s := x) ?_ ?_; subst x; rotate_left; intro hx; clear_value x; revert x; intro _ _)
         | (refine KeptOpt.cut (k := κ) (o := x) ?_ ?_; subst x; rotate_left; intro hx; clear_value x; revert x; intro _ _)
         | (refine KeptPair.cut (k := κ) (o := x) ?_ ?_; subst x; rotate_left; intro hx; clear_value x; revert x; intro _ _)
         | (clear_value x; revert x; intro _))
      | dsimp -zeta only | split)

theorem State.finishRoot_kept {κ : Fixed} {s : State} (c : Coord) (w : PSlot) (inc : Bool) (hk : Kept κ s) :
    Kept κ (State.finishRoot s c w inc) := by
  unfold State.finishRoot
  repeat' (first
      | with_reducible assumption | with_reducible apply State.bump_kept | with_reducible apply State.modColl_kept
      | with_reducible apply State.sendPart_kept | with_reducible apply State.spreadAnchors_kept
      | with_reducible apply State.holdOrEmit_kept | with_reducible apply State.toPrimary_kept | with_reducible apply State.done_kept
      | with_reducible apply Kept.ite | (intro _ _ _) | (intro _ _) | (intro _) | exact KeptOpt.of rfl (by with_reducible assumption)
      | exact KeptPair.of rfl (by with_reducible assumption) | with_reducible apply KeptOpt.ite
      | with_reducible refine KeptOpt.mapState ?_ (fun _ _ => ?_) | with_reducible refine KeptOpt.map (fun _ => ?_)
      | with_reducible apply KeptOpt.some | with_reducible exact KeptOpt.none | with_reducible apply KeptPair.ite
      | with_reducible apply KeptPair.some | with_reducible exact KeptPair.none
      | (extract_lets +onlyGivenNames x
         first
         | (refine Kept.cut (k := κ) (s := x) ?_ ?_; subst x; rotate_left; intro hx; clear_value x; revert x; intro _ _)
         | (refine KeptOpt.cut (k := κ) (o := x) ?_ ?_; subst x; rotate_left; intro hx; clear_value x; revert x; intro _ _)
         | (refine KeptPair.cut (k := κ) (o := x) ?_ ?_; subst x; rotate_left; intro hx; clear_value x; revert x; intro _ _)
         | (clear_value x; revert x; intro _))
      | dsimp -zeta only | split | simp -zeta only [Kept.mk_iff])

theorem State.spillWrite_kept {κ : Fixed} {s : State} (c : Coord) (w : PSlot) (p : Part) (r : Nat) (hk : Kept κ s) :
    Kept κ (State.spillWrite s c w p r) := by
  unfold State.spillWrite
  repeat' (first
      | with_reducible assumption | with_reducible apply State.memWrite_kept | with_reducible apply Kept.ite | dsimp -zeta only
      | split)

theorem State.spillRead_kept {κ : Fixed} {s : State} (c : Coord) (ctx : Nat) (r : Nat) (hk : Kept κ s) :
    Kept κ (State.spillRead s c ctx r).2 := by
  unfold State.spillRead
  repeat' (first
      | with_reducible assumption | with_reducible apply State.issueRead_kept | with_reducible apply Kept.ite
      | with_reducible apply Kept.ite1 | with_reducible apply Kept.ite2
      | (extract_lets +onlyGivenNames x
         first
         | (refine Kept.cut (k := κ) (s := x) ?_ ?_; subst x; rotate_left; intro hx; clear_value x; revert x; intro _ _)
         | (refine Kept.cut1 (k := κ) (s := x) ?_ ?_; subst x; rotate_left; intro hx; clear_value x; revert x; intro _ _)
         | (refine Kept.cut2 (k := κ) (s := x) ?_ ?_; subst x; rotate_left; intro hx; clear_value x; revert x; intro _ _)
         | (clear_value x; revert x; intro _))
      | dsimp -zeta only | split)

theorem State.loseRoot_kept {κ : Fixed} {s : State} (c : Coord) (w : PSlot) (hk : Kept κ s) :
    Kept κ (State.loseRoot s c w) := by
  unfold State.loseRoot
  repeat' (first
      | with_reducible assumption | with_reducible apply State.putSlot_kept | with_reducible apply Kept.ite | dsimp -zeta only | split
      | simp -zeta only [Kept.mk_iff])

theorem State.rootSlot_kept {κ : Fixed} {s : State} (c : Coord) (ph : Nat) (i : SliceId) (hk : Kept κ s) :
    Kept κ (State.rootSlot s c ph i).2 := by
  unfold State.rootSlot
  repeat' (first
      | with_reducible assumption | with_reducible apply State.spillRead_kept | with_reducible apply State.loseRoot_kept
      | with_reducible apply Kept.ite | with_reducible apply Kept.ite1 | with_reducible apply Kept.ite2
      | refine Kept.of_snd (by with_reducible assumption) ?_ | refine Kept.of_fst (by with_reducible assumption) ?_
      | exact KeptOpt.of rfl (by with_reducible assumption) | exact KeptPair.of rfl (by with_reducible assumption)
      | with_reducible apply KeptOpt.ite | with_reducible refine KeptOpt.mapState ?_ (fun _ _ => ?_)
      | with_reducible refine KeptOpt.map (fun _ => ?_) | with_reducible apply KeptOpt.some | with_reducible exact KeptOpt.none
      | with_reducible apply KeptPair.ite | with_reducible apply KeptPair.some | with_reducible exact KeptPair.none
      | (extract_lets +onlyGivenNames x
         first
         | (refine Kept.cut (k := κ) (s := x) ?_ ?_; subst x; rotate_left; intro hx; clear_value x; revert x; intro _ _)
         | (refine Kept.cut1 (k := κ) (s := x) ?_ ?_; subst x; rotate_left; intro hx; clear_value x; revert x; intro _ _)
         | (refine Kept.cut2 (k := κ) (s := x) ?_ ?_; subst x; rotate_left; intro hx; clear_value x; revert x; intro _ _)
         | (refine KeptOpt.cut (k := κ) (o := x) ?_ ?_; subst x; rotate_left; intro hx; clear_value x; revert x; intro _ _)
         | (refine KeptPair.cut (k := κ) (o := x) ?_ ?_; subst x; rotate_left; intro hx; clear_value x; revert x; intro _ _)
         | (clear_value x; revert x; intro _))
      | dsimp -zeta only | split | simp -zeta only [Kept.mk_iff])

theorem State.keepRoot_kept {κ : Fixed} {s : State} (c : Coord) (old : PSlot) (new : PSlot) (hk : Kept κ s) :
    Kept κ (State.keepRoot s c old new) := by
  unfold State.keepRoot
  repeat' (first
      | with_reducible assumption | with_reducible apply State.putSlot_kept | with_reducible apply State.spillWrite_kept
      | with_reducible apply Kept.ite | dsimp -zeta only | split | simp -zeta only [Kept.mk_iff])

theorem State.collNack_kept {κ : Fixed} {s : State} (c : Coord) (p : Packet) (hk : Kept κ s) :
    Kept κ (State.collNack s c p) := by
  unfold State.collNack
  repeat' (first
      | with_reducible assumption | with_reducible apply State.countEvent_kept | with_reducible apply State.sendSig_kept
      | with_reducible apply Kept.ite | dsimp -zeta only | split)

theorem State.rootOwn_kept {κ : Fixed} {s : State} (c : Coord) (ph : Nat) (i : SliceId) (hk : Kept κ s) :
    Kept κ (State.rootOwn s c ph i) := by
  unfold State.rootOwn
  repeat' (first
      | with_reducible assumption | with_reducible apply State.absent_kept | with_reducible apply State.refusePiece_kept
      | with_reducible apply State.mergeIn_kept | with_reducible apply State.askOwn_kept | with_reducible apply State.takeOwn_kept
      | with_reducible apply State.rootSlot_kept | with_reducible apply State.keepRoot_kept | with_reducible apply Kept.ite
      | refine Kept.of_snd (by with_reducible assumption) ?_ | refine Kept.of_fst (by with_reducible assumption) ?_
      | refine KeptPair.of (by with_reducible assumption) ?_ | exact KeptOpt.of rfl (by with_reducible assumption)
      | exact KeptPair.of rfl (by with_reducible assumption) | with_reducible apply KeptOpt.ite
      | with_reducible refine KeptOpt.mapState ?_ (fun _ _ => ?_) | with_reducible refine KeptOpt.map (fun _ => ?_)
      | with_reducible apply KeptOpt.some | with_reducible exact KeptOpt.none | with_reducible apply KeptPair.ite
      | with_reducible apply KeptPair.some | with_reducible exact KeptPair.none
      | (extract_lets +onlyGivenNames x
         first
         | (refine Kept.cut (k := κ) (s := x) ?_ ?_; subst x; rotate_left; intro hx; clear_value x; revert x; intro _ _)
         | (refine Kept.cut1 (k := κ) (s := x) ?_ ?_; subst x; rotate_left; intro hx; clear_value x; revert x; intro _ _)
         | (refine Kept.cut2 (k := κ) (s := x) ?_ ?_; subst x; rotate_left; intro hx; clear_value x; revert x; intro _ _)
         | (refine KeptOpt.cut (k := κ) (o := x) ?_ ?_; subst x; rotate_left; intro hx; clear_value x; revert x; intro _ _)
         | (refine KeptPair.cut (k := κ) (o := x) ?_ ?_; subst x; rotate_left; intro hx; clear_value x; revert x; intro _ _)
         | (clear_value x; revert x; intro _))
      | dsimp -zeta only | split | simp -zeta only [Kept.mk_iff])

theorem State.rootCheck_kept {κ : Fixed} {s : State} (c : Coord) (ph : Nat) (i : SliceId) (hk : Kept κ s) :
    Kept κ (State.rootCheck s c ph i) := by
  unfold State.rootCheck
  repeat' (first
      | with_reducible assumption | with_reducible apply State.dropSlot_kept | with_reducible apply State.finishRoot_kept
      | with_reducible apply State.rootSlot_kept | with_reducible apply Kept.ite
      | refine Kept.of_snd (by with_reducible assumption) ?_ | refine Kept.of_fst (by with_reducible assumption) ?_
      | exact KeptOpt.of rfl (by with_reducible assumption) | exact KeptPair.of rfl (by with_reducible assumption)
      | with_reducible apply KeptOpt.ite | with_reducible refine KeptOpt.mapState ?_ (fun _ _ => ?_)
      | with_reducible refine KeptOpt.map (fun _ => ?_) | with_reducible apply KeptOpt.some | with_reducible exact KeptOpt.none
      | with_reducible apply KeptPair.ite | with_reducible apply KeptPair.some | with_reducible exact KeptPair.none
      | (extract_lets +onlyGivenNames x
         first
         | (refine Kept.cut (k := κ) (s := x) ?_ ?_; subst x; rotate_left; intro hx; clear_value x; revert x; intro _ _)
         | (refine Kept.cut1 (k := κ) (s := x) ?_ ?_; subst x; rotate_left; intro hx; clear_value x; revert x; intro _ _)
         | (refine Kept.cut2 (k := κ) (s := x) ?_ ?_; subst x; rotate_left; intro hx; clear_value x; revert x; intro _ _)
         | (refine KeptOpt.cut (k := κ) (o := x) ?_ ?_; subst x; rotate_left; intro hx; clear_value x; revert x; intro _ _)
         | (refine KeptPair.cut (k := κ) (o := x) ?_ ?_; subst x; rotate_left; intro hx; clear_value x; revert x; intro _ _)
         | (clear_value x; revert x; intro _))
      | dsimp -zeta only | split)

theorem State.openRoot_kept {κ : Fixed} {s : State} (c : Coord) (ph : Nat) (i : SliceId) (src : SrcAddr) (hk : Kept κ s) :
    KeptOpt κ (State.openRoot s c ph i src) := by
  unfold State.openRoot
  repeat' (first
      | with_reducible assumption | with_reducible apply State.bump_kept | with_reducible apply State.dropSlot_kept
      | with_reducible apply State.addSlot_kept | with_reducible apply State.spillWrite_kept | with_reducible apply Kept.ite
      | with_reducible apply KeptOpt.ite | with_reducible refine KeptOpt.mapState ?_ (fun _ _ => ?_)
      | with_reducible refine KeptOpt.map (fun _ => ?_) | with_reducible apply KeptOpt.some | with_reducible exact KeptOpt.none
      | with_reducible apply KeptOpt.getD | exact KeptOpt.of rfl (by with_reducible assumption)
      | exact KeptPair.of rfl (by with_reducible assumption) | with_reducible apply KeptPair.ite | with_reducible apply KeptPair.some
      | with_reducible exact KeptPair.none
      | (extract_lets +onlyGivenNames x
         first
         | (refine Kept.cut (k := κ) (s := x) ?_ ?_; subst x; rotate_left; intro hx; clear_value x; revert x; intro _ _)
         | (refine KeptOpt.cut (k := κ) (o := x) ?_ ?_; subst x; rotate_left; intro hx; clear_value x; revert x; intro _ _)
         | (refine KeptPair.cut (k := κ) (o := x) ?_ ?_; subst x; rotate_left; intro hx; clear_value x; revert x; intro _ _)
         | (clear_value x; revert x; intro _))
      | dsimp -zeta only | split | simp -zeta only [Kept.mk_iff])

theorem State.rootMerge_kept {κ : Fixed} {s : State} (c : Coord) (ph : Nat) (i : SliceId) (q : Part) (p : Packet) (hk : Kept κ s) :
    KeptOpt κ (State.rootMerge s c ph i q p) := by
  unfold State.rootMerge
  repeat' (first
      | with_reducible assumption | with_reducible apply State.bump_kept | with_reducible apply State.beginEpoch_kept
      | with_reducible apply State.ctxFailure_kept | with_reducible apply State.refusePiece_kept
      | with_reducible apply State.mergeIn_kept | with_reducible apply State.merged_kept | with_reducible apply State.rootSlot_kept
      | with_reducible apply State.keepRoot_kept | with_reducible apply State.collNack_kept | with_reducible apply State.rootOwn_kept
      | with_reducible apply State.rootCheck_kept | with_reducible apply State.openRoot_kept | with_reducible apply State.done_kept
      | with_reducible apply Kept.ite | (intro _ _ _) | (intro _ _) | (intro _) | refine Kept.of_snd (by with_reducible assumption) ?_
      | refine Kept.of_fst (by with_reducible assumption) ?_ | refine KeptOpt.of (by with_reducible assumption) ?_
      | refine KeptPair.of (by with_reducible assumption) ?_ | with_reducible apply KeptOpt.ite
      | with_reducible refine KeptOpt.mapState ?_ (fun _ _ => ?_) | with_reducible refine KeptOpt.map (fun _ => ?_)
      | with_reducible apply KeptOpt.some | with_reducible exact KeptOpt.none | exact KeptOpt.of rfl (by with_reducible assumption)
      | exact KeptPair.of rfl (by with_reducible assumption) | with_reducible apply KeptPair.ite | with_reducible apply KeptPair.some
      | with_reducible exact KeptPair.none
      | (extract_lets +onlyGivenNames x
         first
         | (refine Kept.cut (k := κ) (s := x) ?_ ?_; subst x; rotate_left; intro hx; clear_value x; revert x; intro _ _)
         | (refine Kept.cut1 (k := κ) (s := x) ?_ ?_; subst x; rotate_left; intro hx; clear_value x; revert x; intro _ _)
         | (refine Kept.cut2 (k := κ) (s := x) ?_ ?_; subst x; rotate_left; intro hx; clear_value x; revert x; intro _ _)
         | (refine KeptOpt.cut (k := κ) (o := x) ?_ ?_; subst x; rotate_left; intro hx; clear_value x; revert x; intro _ _)
         | (refine KeptPair.cut (k := κ) (o := x) ?_ ?_; subst x; rotate_left; intro hx; clear_value x; revert x; intro _ _)
         | (clear_value x; revert x; intro _))
      | dsimp -zeta only | split | simp -zeta only [Kept.mk_iff])

theorem State.pieceAt_kept {κ : Fixed} {s : State} (c : Coord) (ph : Nat) (i : SliceId) (fmt : Nat) (n : Nat) (pc : Piece) (hk : Kept κ s) :
    KeptPair κ (State.pieceAt s c ph i fmt n pc) := by
  unfold State.pieceAt
  repeat' (first
      | with_reducible assumption | with_reducible apply State.bump_kept | with_reducible apply State.millFlags_kept
      | with_reducible apply Kept.ite | with_reducible apply Kept.foldl | with_reducible apply Kept.foldl_fst
      | with_reducible apply Kept.foldl_snd | with_reducible apply Kept.ite1 | with_reducible apply Kept.ite2 | (intro _ _ _)
      | (intro _ _) | (intro _) | refine KeptPair.map (fun _ => ?_) | with_reducible apply KeptPair.ite
      | with_reducible apply KeptPair.some | with_reducible exact KeptPair.none | with_reducible apply KeptOpt.getD
      | with_reducible apply KeptOpt.foldl | exact KeptOpt.of rfl (by with_reducible assumption)
      | exact KeptPair.of rfl (by with_reducible assumption) | with_reducible apply KeptOpt.ite
      | with_reducible refine KeptOpt.mapState ?_ (fun _ _ => ?_) | with_reducible refine KeptOpt.map (fun _ => ?_)
      | with_reducible apply KeptOpt.some | with_reducible exact KeptOpt.none
      | (extract_lets +onlyGivenNames x
         first
         | (refine Kept.cut (k := κ) (s := x) ?_ ?_; subst x; rotate_left; intro hx; clear_value x; revert x; intro _ _)
         | (refine Kept.cut1 (k := κ) (s := x) ?_ ?_; subst x; rotate_left; intro hx; clear_value x; revert x; intro _ _)
         | (refine Kept.cut2 (k := κ) (s := x) ?_ ?_; subst x; rotate_left; intro hx; clear_value x; revert x; intro _ _)
         | (refine KeptOpt.cut (k := κ) (o := x) ?_ ?_; subst x; rotate_left; intro hx; clear_value x; revert x; intro _ _)
         | (refine KeptPair.cut (k := κ) (o := x) ?_ ?_; subst x; rotate_left; intro hx; clear_value x; revert x; intro _ _)
         | (subst x))
      | dsimp -zeta only | split)

theorem State.setGath_kept {κ : Fixed} {s : State} (c : Coord) (x : Gath) (hk : Kept κ s) :
    Kept κ (State.setGath s c x) := by
  unfold State.setGath
  repeat' (first
      | with_reducible assumption | with_reducible apply State.modColl_kept | with_reducible apply Kept.ite | (intro _ _ _)
      | (intro _ _) | (intro _) | dsimp -zeta only | split | simp -zeta only [Kept.mk_iff])

theorem State.mergeOwn_kept {κ : Fixed} {s : State} (c : Coord) (ph : Nat) (i : SliceId) (p : Part) (whole : Bool) (hk : Kept κ s) :
    Kept κ (State.mergeOwn s c ph i p whole).2 := by
  unfold State.mergeOwn
  repeat' (first
      | with_reducible assumption | with_reducible apply State.refusePiece_kept | with_reducible apply State.mergeIn_kept
      | with_reducible apply State.takeOwn_kept | with_reducible apply State.lateOwn_kept | with_reducible apply Kept.ite
      | with_reducible apply Kept.ite1 | with_reducible apply Kept.ite2 | (intro _ _ _) | (intro _ _) | (intro _)
      | refine Kept.of_snd (by with_reducible assumption) ?_ | refine Kept.of_fst (by with_reducible assumption) ?_
      | refine KeptPair.of (by with_reducible assumption) ?_ | with_reducible apply KeptOpt.getD
      | exact KeptOpt.of rfl (by with_reducible assumption) | exact KeptPair.of rfl (by with_reducible assumption)
      | with_reducible apply KeptOpt.ite | with_reducible refine KeptOpt.mapState ?_ (fun _ _ => ?_)
      | with_reducible refine KeptOpt.map (fun _ => ?_) | with_reducible apply KeptOpt.some | with_reducible exact KeptOpt.none
      | with_reducible apply KeptPair.ite | with_reducible apply KeptPair.some | with_reducible exact KeptPair.none
      | (extract_lets +onlyGivenNames x
         first
         | (refine Kept.cut (k := κ) (s := x) ?_ ?_; subst x; rotate_left; intro hx; clear_value x; revert x; intro _ _)
         | (refine Kept.cut1 (k := κ) (s := x) ?_ ?_; subst x; rotate_left; intro hx; clear_value x; revert x; intro _ _)
         | (refine Kept.cut2 (k := κ) (s := x) ?_ ?_; subst x; rotate_left; intro hx; clear_value x; revert x; intro _ _)
         | (refine KeptOpt.cut (k := κ) (o := x) ?_ ?_; subst x; rotate_left; intro hx; clear_value x; revert x; intro _ _)
         | (refine KeptPair.cut (k := κ) (o := x) ?_ ?_; subst x; rotate_left; intro hx; clear_value x; revert x; intro _ _)
         | (clear_value x; revert x; intro _))
      | dsimp -zeta only | split)

theorem State.passJoin_kept {κ : Fixed} {s : State} (c : Coord) (w : PSlot) (gather : Bool) (hk : Kept κ s) :
    Kept κ (State.passJoin s c w gather).2 := by
  unfold State.passJoin
  repeat' (first
      | with_reducible assumption | with_reducible apply State.dropSlot_kept | with_reducible apply State.refusePiece_kept
      | with_reducible apply State.mergeIn_kept | with_reducible apply State.merged_kept | with_reducible apply Kept.ite
      | with_reducible apply Kept.ite1 | with_reducible apply Kept.ite2 | refine Kept.of_snd (by with_reducible assumption) ?_
      | refine Kept.of_fst (by with_reducible assumption) ?_ | refine KeptPair.of (by with_reducible assumption) ?_
      | exact KeptOpt.of rfl (by with_reducible assumption) | exact KeptPair.of rfl (by with_reducible assumption)
      | with_reducible apply KeptOpt.ite | with_reducible refine KeptOpt.mapState ?_ (fun _ _ => ?_)
      | with_reducible refine KeptOpt.map (fun _ => ?_) | with_reducible apply KeptOpt.some | with_reducible exact KeptOpt.none
      | with_reducible apply KeptPair.ite | with_reducible apply KeptPair.some | with_reducible exact KeptPair.none
      | (extract_lets +onlyGivenNames x
         first
         | (refine Kept.cut (k := κ) (s := x) ?_ ?_; subst x; rotate_left; intro hx; clear_value x; revert x; intro _ _)
         | (refine Kept.cut1 (k := κ) (s := x) ?_ ?_; subst x; rotate_left; intro hx; clear_value x; revert x; intro _ _)
         | (refine Kept.cut2 (k := κ) (s := x) ?_ ?_; subst x; rotate_left; intro hx; clear_value x; revert x; intro _ _)
         | (refine KeptOpt.cut (k := κ) (o := x) ?_ ?_; subst x; rotate_left; intro hx; clear_value x; revert x; intro _ _)
         | (refine KeptPair.cut (k := κ) (o := x) ?_ ?_; subst x; rotate_left; intro hx; clear_value x; revert x; intro _ _)
         | (clear_value x; revert x; intro _))
      | dsimp -zeta only | split | simp -zeta only [Kept.mk_iff])

theorem State.passOn_kept {κ : Fixed} {s : State} (c : Coord) (w : PSlot) (isOver : Bool) (gather : Bool) (root : Coord) (hk : Kept κ s) :
    Kept κ (State.passOn s c w isOver gather root) := by
  unfold State.passOn
  repeat' (first
      | with_reducible assumption | with_reducible apply State.reset_kept | with_reducible apply State.addSlot_kept
      | with_reducible apply State.merged_kept | with_reducible apply State.askOwn_kept | with_reducible apply State.owe_kept
      | with_reducible apply State.sweepOn_kept | with_reducible apply State.lateOwn_kept | with_reducible apply State.setGath_kept
      | with_reducible apply State.mergeOwn_kept | with_reducible apply Kept.ite | (intro _ _ _) | (intro _ _) | (intro _)
      | refine Kept.of_snd (by with_reducible assumption) ?_ | refine Kept.of_fst (by with_reducible assumption) ?_
      | with_reducible apply KeptOpt.getD | exact KeptOpt.of rfl (by with_reducible assumption)
      | exact KeptPair.of rfl (by with_reducible assumption) | with_reducible apply KeptOpt.ite
      | with_reducible refine KeptOpt.mapState ?_ (fun _ _ => ?_) | with_reducible refine KeptOpt.map (fun _ => ?_)
      | with_reducible apply KeptOpt.some | with_reducible exact KeptOpt.none | with_reducible apply KeptPair.ite
      | with_reducible apply KeptPair.some | with_reducible exact KeptPair.none
      | (extract_lets +onlyGivenNames x
         first
         | (refine Kept.cut (k := κ) (s := x) ?_ ?_; subst x; rotate_left; intro hx; clear_value x; revert x; intro _ _)
         | (refine Kept.cut1 (k := κ) (s := x) ?_ ?_; subst x; rotate_left; intro hx; clear_value x; revert x; intro _ _)
         | (refine Kept.cut2 (k := κ) (s := x) ?_ ?_; subst x; rotate_left; intro hx; clear_value x; revert x; intro _ _)
         | (refine KeptOpt.cut (k := κ) (o := x) ?_ ?_; subst x; rotate_left; intro hx; clear_value x; revert x; intro _ _)
         | (refine KeptPair.cut (k := κ) (o := x) ?_ ?_; subst x; rotate_left; intro hx; clear_value x; revert x; intro _ _)
         | (clear_value x; revert x; intro _))
      | dsimp -zeta only | split | simp -zeta only [Kept.mk_iff])

theorem State.passHalf_kept {κ : Fixed} {s : State} (c : Coord) (w : PSlot) (isOver : Bool) (hk : Kept κ s) :
    Kept κ (State.passHalf s c w isOver) := by
  unfold State.passHalf
  repeat' (first
      | with_reducible assumption | with_reducible apply State.passJoin_kept | with_reducible apply State.passOn_kept
      | with_reducible apply Kept.ite | refine Kept.of_snd (by with_reducible assumption) ?_
      | refine Kept.of_fst (by with_reducible assumption) ?_ | exact KeptOpt.of rfl (by with_reducible assumption)
      | exact KeptPair.of rfl (by with_reducible assumption) | with_reducible apply KeptOpt.ite
      | with_reducible refine KeptOpt.mapState ?_ (fun _ _ => ?_) | with_reducible refine KeptOpt.map (fun _ => ?_)
      | with_reducible apply KeptOpt.some | with_reducible exact KeptOpt.none | with_reducible apply KeptPair.ite
      | with_reducible apply KeptPair.some | with_reducible exact KeptPair.none
      | (extract_lets +onlyGivenNames x
         first
         | (refine Kept.cut (k := κ) (s := x) ?_ ?_; subst x; rotate_left; intro hx; clear_value x; revert x; intro _ _)
         | (refine Kept.cut1 (k := κ) (s := x) ?_ ?_; subst x; rotate_left; intro hx; clear_value x; revert x; intro _ _)
         | (refine Kept.cut2 (k := κ) (s := x) ?_ ?_; subst x; rotate_left; intro hx; clear_value x; revert x; intro _ _)
         | (refine KeptOpt.cut (k := κ) (o := x) ?_ ?_; subst x; rotate_left; intro hx; clear_value x; revert x; intro _ _)
         | (refine KeptPair.cut (k := κ) (o := x) ?_ ?_; subst x; rotate_left; intro hx; clear_value x; revert x; intro _ _)
         | (subst x))
      | dsimp -zeta only | split)

theorem State.rowWaits_kept {κ : Fixed} {s : State} (c : Coord) (ph : Nat) (i : SliceId) (root : Coord) (hk : Kept κ s) :
    Kept κ (State.rowWaits s c ph i root) := by
  unfold State.rowWaits
  repeat' (first
      | with_reducible assumption | with_reducible apply State.reset_kept | with_reducible apply State.putSlot_kept
      | with_reducible apply State.absent_kept | with_reducible apply State.owe_kept | with_reducible apply Kept.ite
      | exact KeptOpt.of rfl (by with_reducible assumption) | exact KeptPair.of rfl (by with_reducible assumption)
      | with_reducible apply KeptOpt.ite | with_reducible refine KeptOpt.mapState ?_ (fun _ _ => ?_)
      | with_reducible refine KeptOpt.map (fun _ => ?_) | with_reducible apply KeptOpt.some | with_reducible exact KeptOpt.none
      | with_reducible apply KeptPair.ite | with_reducible apply KeptPair.some | with_reducible exact KeptPair.none
      | (extract_lets +onlyGivenNames x
         first
         | (refine Kept.cut (k := κ) (s := x) ?_ ?_; subst x; rotate_left; intro hx; clear_value x; revert x; intro _ _)
         | (refine KeptOpt.cut (k := κ) (o := x) ?_ ?_; subst x; rotate_left; intro hx; clear_value x; revert x; intro _ _)
         | (refine KeptPair.cut (k := κ) (o := x) ?_ ?_; subst x; rotate_left; intro hx; clear_value x; revert x; intro _ _)
         | (clear_value x; revert x; intro _))
      | dsimp -zeta only | split | simp -zeta only [Kept.mk_iff])

theorem State.rowOwn_kept {κ : Fixed} {s : State} (c : Coord) (ph : Nat) (i : SliceId) (hk : Kept κ s) :
    Kept κ (State.rowOwn s c ph i) := by
  unfold State.rowOwn
  repeat' (first
      | with_reducible assumption | with_reducible apply State.dropSlot_kept | with_reducible apply State.putSlot_kept
      | with_reducible apply State.askOwn_kept | with_reducible apply State.mergeOwn_kept | with_reducible apply Kept.ite
      | refine Kept.of_snd (by with_reducible assumption) ?_ | refine Kept.of_fst (by with_reducible assumption) ?_
      | exact KeptOpt.of rfl (by with_reducible assumption) | exact KeptPair.of rfl (by with_reducible assumption)
      | with_reducible apply KeptOpt.ite | with_reducible refine KeptOpt.mapState ?_ (fun _ _ => ?_)
      | with_reducible refine KeptOpt.map (fun _ => ?_) | with_reducible apply KeptOpt.some | with_reducible exact KeptOpt.none
      | with_reducible apply KeptPair.ite | with_reducible apply KeptPair.some | with_reducible exact KeptPair.none
      | (extract_lets +onlyGivenNames x
         first
         | (refine Kept.cut (k := κ) (s := x) ?_ ?_; subst x; rotate_left; intro hx; clear_value x; revert x; intro _ _)
         | (refine Kept.cut1 (k := κ) (s := x) ?_ ?_; subst x; rotate_left; intro hx; clear_value x; revert x; intro _ _)
         | (refine Kept.cut2 (k := κ) (s := x) ?_ ?_; subst x; rotate_left; intro hx; clear_value x; revert x; intro _ _)
         | (refine KeptOpt.cut (k := κ) (o := x) ?_ ?_; subst x; rotate_left; intro hx; clear_value x; revert x; intro _ _)
         | (refine KeptPair.cut (k := κ) (o := x) ?_ ?_; subst x; rotate_left; intro hx; clear_value x; revert x; intro _ _)
         | (clear_value x; revert x; intro _))
      | dsimp -zeta only | split | simp -zeta only [Kept.mk_iff])

theorem State.rowArrive_kept {κ : Fixed} {s : State} (c : Coord) (ph : Nat) (i : SliceId) (q : Part) (p : Packet) (root : Coord) (hk : Kept κ s) :
    Kept κ (State.rowArrive s c ph i q p root) := by
  unfold State.rowArrive
  repeat' (first
      | with_reducible assumption | with_reducible apply State.dropSlot_kept | with_reducible apply State.addSlot_kept
      | with_reducible apply State.putSlot_kept | with_reducible apply State.refusePiece_kept
      | with_reducible apply State.mergeIn_kept | with_reducible apply State.merged_kept | with_reducible apply State.toRoot_kept
      | with_reducible apply State.setGath_kept | with_reducible apply State.passHalf_kept | with_reducible apply State.rowWaits_kept
      | with_reducible apply State.rowOwn_kept | with_reducible apply Kept.ite | refine Kept.of_snd (by with_reducible assumption) ?_
      | refine Kept.of_fst (by with_reducible assumption) ?_ | refine KeptPair.of (by with_reducible assumption) ?_
      | exact KeptOpt.of rfl (by with_reducible assumption) | exact KeptPair.of rfl (by with_reducible assumption)
      | with_reducible apply KeptOpt.ite | with_reducible refine KeptOpt.mapState ?_ (fun _ _ => ?_)
      | with_reducible refine KeptOpt.map (fun _ => ?_) | with_reducible apply KeptOpt.some | with_reducible exact KeptOpt.none
      | with_reducible apply KeptPair.ite | with_reducible apply KeptPair.some | with_reducible exact KeptPair.none
      | (extract_lets +onlyGivenNames x
         first
         | (refine Kept.cut (k := κ) (s := x) ?_ ?_; subst x; rotate_left; intro hx; clear_value x; revert x; intro _ _)
         | (refine Kept.cut1 (k := κ) (s := x) ?_ ?_; subst x; rotate_left; intro hx; clear_value x; revert x; intro _ _)
         | (refine Kept.cut2 (k := κ) (s := x) ?_ ?_; subst x; rotate_left; intro hx; clear_value x; revert x; intro _ _)
         | (refine KeptOpt.cut (k := κ) (o := x) ?_ ?_; subst x; rotate_left; intro hx; clear_value x; revert x; intro _ _)
         | (refine KeptPair.cut (k := κ) (o := x) ?_ ?_; subst x; rotate_left; intro hx; clear_value x; revert x; intro _ _)
         | (clear_value x; revert x; intro _))
      | dsimp -zeta only | split | simp -zeta only [Kept.mk_iff])

theorem State.sweepPiece_kept {κ : Fixed} {s : State} (c : Coord) (ph : Nat) (i : SliceId) (q : Part) (p : Packet) (hk : Kept κ s) :
    Kept κ (State.sweepPiece s c ph i q p) := by
  unfold State.sweepPiece
  repeat' (first
      | with_reducible assumption | with_reducible apply State.dropSlot_kept | with_reducible apply State.beginEpoch_kept
      | with_reducible apply State.refusePiece_kept | with_reducible apply State.passHalf_kept
      | with_reducible apply State.rowArrive_kept | with_reducible apply Kept.ite
      | exact KeptOpt.of rfl (by with_reducible assumption) | exact KeptPair.of rfl (by with_reducible assumption)
      | with_reducible apply KeptOpt.ite | with_reducible refine KeptOpt.mapState ?_ (fun _ _ => ?_)
      | with_reducible refine KeptOpt.map (fun _ => ?_) | with_reducible apply KeptOpt.some | with_reducible exact KeptOpt.none
      | with_reducible apply KeptPair.ite | with_reducible apply KeptPair.some | with_reducible exact KeptPair.none
      | (extract_lets +onlyGivenNames x
         first
         | (refine Kept.cut (k := κ) (s := x) ?_ ?_; subst x; rotate_left; intro hx; clear_value x; revert x; intro _ _)
         | (refine KeptOpt.cut (k := κ) (o := x) ?_ ?_; subst x; rotate_left; intro hx; clear_value x; revert x; intro _ _)
         | (refine KeptPair.cut (k := κ) (o := x) ?_ ?_; subst x; rotate_left; intro hx; clear_value x; revert x; intro _ _)
         | (clear_value x; revert x; intro _))
      | dsimp -zeta only | split | simp -zeta only [Kept.mk_iff])

theorem State.sweepAt_kept {κ : Fixed} {s : State} (c : Coord) (p : Packet) (hk : Kept κ s) :
    Kept κ (State.sweepAt s c p) := by
  unfold State.sweepAt
  repeat' (first
      | with_reducible assumption | with_reducible apply State.takePkt_kept | with_reducible apply State.checkFault_kept
      | with_reducible apply State.refusePiece_kept | with_reducible apply State.askOwn_kept
      | with_reducible apply State.together_kept | with_reducible apply State.lateOwn_kept
      | with_reducible apply State.sweepPiece_kept | with_reducible apply Kept.ite | with_reducible apply Kept.foldl
      | with_reducible apply Kept.foldl_fst | with_reducible apply Kept.foldl_snd | (intro _ _ _) | (intro _ _) | (intro _)
      | with_reducible apply KeptOpt.foldl | exact KeptOpt.of rfl (by with_reducible assumption)
      | exact KeptPair.of rfl (by with_reducible assumption) | with_reducible apply KeptOpt.ite
      | with_reducible refine KeptOpt.mapState ?_ (fun _ _ => ?_) | with_reducible refine KeptOpt.map (fun _ => ?_)
      | with_reducible apply KeptOpt.some | with_reducible exact KeptOpt.none | with_reducible apply KeptPair.ite
      | with_reducible apply KeptPair.some | with_reducible exact KeptPair.none
      | (extract_lets +onlyGivenNames x
         first
         | (refine Kept.cut (k := κ) (s := x) ?_ ?_; subst x; rotate_left; intro hx; clear_value x; revert x; intro _ _)
         | (refine KeptOpt.cut (k := κ) (o := x) ?_ ?_; subst x; rotate_left; intro hx; clear_value x; revert x; intro _ _)
         | (refine KeptPair.cut (k := κ) (o := x) ?_ ?_; subst x; rotate_left; intro hx; clear_value x; revert x; intro _ _)
         | (clear_value x; revert x; intro _))
      | dsimp -zeta only | split)

theorem State.rootPieces_kept {κ : Fixed} {s : State} (c : Coord) (ph : Nat) (only : Option Nat) (p : Packet) (hk : Kept κ s) :
    KeptOpt κ (State.rootPieces s c ph only p) := by
  unfold State.rootPieces
  repeat' (first
      | with_reducible assumption | with_reducible apply State.modColl_kept | with_reducible apply State.refusePiece_kept
      | with_reducible apply State.rootMerge_kept | with_reducible apply State.pieceAt_kept | with_reducible apply Kept.ite
      | with_reducible apply Kept.foldl | with_reducible apply Kept.foldl_fst | with_reducible apply Kept.foldl_snd | (intro _ _ _)
      | (intro _ _) | (intro _) | refine Kept.of_snd (by with_reducible assumption) ?_
      | refine Kept.of_fst (by with_reducible assumption) ?_ | refine KeptOpt.foldl_bind (KeptOpt.some ?_) (fun _ _ _ => ?_)
      | refine KeptOpt.bindAny (fun _ => ?_) | refine KeptOpt.of (by with_reducible assumption) ?_
      | refine KeptPair.of (by with_reducible assumption) ?_ | with_reducible apply KeptOpt.ite
      | with_reducible refine KeptOpt.mapState ?_ (fun _ _ => ?_) | with_reducible refine KeptOpt.map (fun _ => ?_)
      | with_reducible apply KeptOpt.some | with_reducible exact KeptOpt.none | with_reducible apply KeptOpt.foldl
      | exact KeptOpt.of rfl (by with_reducible assumption) | exact KeptPair.of rfl (by with_reducible assumption)
      | with_reducible apply KeptPair.ite | with_reducible apply KeptPair.some | with_reducible exact KeptPair.none
      | (extract_lets +onlyGivenNames x
         first
         | (refine Kept.cut (k := κ) (s := x) ?_ ?_; subst x; rotate_left; intro hx; clear_value x; revert x; intro _ _)
         | (refine Kept.cut1 (k := κ) (s := x) ?_ ?_; subst x; rotate_left; intro hx; clear_value x; revert x; intro _ _)
         | (refine Kept.cut2 (k := κ) (s := x) ?_ ?_; subst x; rotate_left; intro hx; clear_value x; revert x; intro _ _)
         | (refine KeptOpt.cut (k := κ) (o := x) ?_ ?_; subst x; rotate_left; intro hx; clear_value x; revert x; intro _ _)
         | (refine KeptPair.cut (k := κ) (o := x) ?_ ?_; subst x; rotate_left; intro hx; clear_value x; revert x; intro _ _)
         | (clear_value x; revert x; intro _))
      | dsimp -zeta only | split | simp -zeta only [Kept.mk_iff])

theorem State.rootAt_kept {κ : Fixed} {s : State} (c : Coord) (ph : Nat) (p : Packet) (hk : Kept κ s) :
    Kept κ (State.rootAt s c ph p) := by
  unfold State.rootAt
  repeat' (first
      | with_reducible assumption | with_reducible apply State.takePkt_kept | with_reducible apply State.checkFault_kept
      | with_reducible apply State.rootPieces_kept | with_reducible apply Kept.ite
      | refine KeptOpt.of (by with_reducible assumption) ?_ | with_reducible apply KeptOpt.getD
      | (extract_lets +onlyGivenNames x
         first
         | (refine Kept.cut (k := κ) (s := x) ?_ ?_; subst x; rotate_left; intro hx; clear_value x; revert x; intro _ _)
         | (clear_value x; revert x; intro _))
      | dsimp -zeta only | split)

theorem State.rawsReady_kept {κ : Fixed} {s : State} (c : Coord) (i : SliceId) (hk : Kept κ s) :
    Kept κ (State.rawsReady s c i) := by
  unfold State.rawsReady
  repeat' (first
      | with_reducible assumption | with_reducible apply State.modColl_kept | with_reducible apply State.rootPieces_kept
      | with_reducible apply Kept.ite | with_reducible apply Kept.foldl | with_reducible apply Kept.foldl_fst
      | with_reducible apply Kept.foldl_snd | (intro _ _ _) | (intro _ _) | (intro _)
      | refine KeptOpt.of (by with_reducible assumption) ?_ | with_reducible apply KeptOpt.getD | with_reducible apply KeptOpt.foldl
      | exact KeptOpt.of rfl (by with_reducible assumption) | exact KeptPair.of rfl (by with_reducible assumption)
      | with_reducible apply KeptOpt.ite | with_reducible refine KeptOpt.mapState ?_ (fun _ _ => ?_)
      | with_reducible refine KeptOpt.map (fun _ => ?_) | with_reducible apply KeptOpt.some | with_reducible exact KeptOpt.none
      | with_reducible apply KeptPair.ite | with_reducible apply KeptPair.some | with_reducible exact KeptPair.none
      | (extract_lets +onlyGivenNames x
         first
         | (refine Kept.cut (k := κ) (s := x) ?_ ?_; subst x; rotate_left; intro hx; clear_value x; revert x; intro _ _)
         | (refine KeptOpt.cut (k := κ) (o := x) ?_ ?_; subst x; rotate_left; intro hx; clear_value x; revert x; intro _ _)
         | (refine KeptPair.cut (k := κ) (o := x) ?_ ?_; subst x; rotate_left; intro hx; clear_value x; revert x; intro _ _)
         | (clear_value x; revert x; intro _))
      | dsimp -zeta only | split | simp -zeta only [Kept.mk_iff])

end Sys2Proof.Machine
end

