-- ==== Sys2Proof/Laws/KeptCollEvents.lean ====
section
/-! SUPPORT. Every operation of Machine/CollEvents.lean keeps the build, the queue and the canonical form. -/

namespace Sys2Proof.Machine

set_option linter.all false

theorem State.available_kept {κ : Fixed} {s : State} (c : Coord) (i : SliceId) (hk : Kept κ s) :
    Kept κ (State.available s c i) := by
  unfold State.available
  repeat' (first
      | with_reducible assumption | with_reducible apply State.dropSlot_kept | with_reducible apply State.rootOwn_kept
      | with_reducible apply State.rootCheck_kept | with_reducible apply State.passHalf_kept | with_reducible apply State.rowOwn_kept
      | with_reducible apply Kept.ite | with_reducible apply Kept.foldl | with_reducible apply Kept.foldl_fst
      | with_reducible apply Kept.foldl_snd | (intro _ _ _) | (intro _ _) | (intro _) | with_reducible apply KeptOpt.foldl
      | exact KeptOpt.of rfl (by with_reducible assumption) | exact KeptPair.of rfl (by with_reducible assumption)
      | with_reducible apply KeptOpt.ite | with_reducible refine KeptOpt.mapState ?_ (fun _ _ => ?_)
      | with_reducible refine KeptOpt.map (fun _ => ?_) | with_reducible apply KeptOpt.some | with_reducible exact KeptOpt.none
      | with_reducible apply KeptPair.ite | with_reducible apply KeptPair.some | with_reducible exact KeptPair.none
      | (extract_lets +onlyGivenNames x
         first
         | (refine Kept.cut (k := κ) (s := x) ?_ ?_; subst x; rotate_left; intro hx; clear_value x; revert x; intro _ _)
         | (refine KeptOpt.cut (k := κ) (o := x) ?_ ?_; subst x; rotate_left; intro hx; clear_value x; revert x; intro _ _)
         | (refine KeptPair.cut (k := κ) (o := x) ?_ ?_; subst x; rotate_left; intro hx; clear_value x; revert x; intro _ _)
         | (clear_value x; revert x; intro _))
      | dsimp -zeta only | split)

theorem State.rootAlone_kept {κ : Fixed} {s : State} (c : Coord) (ph : Nat) (i : SliceId) (hk : Kept κ s) :
    Kept κ (State.rootAlone s c ph i) := by
  unfold State.rootAlone
  repeat' (first
      | with_reducible assumption | with_reducible apply State.askOwn_kept | with_reducible apply State.rootOwn_kept
      | with_reducible apply State.rootCheck_kept | with_reducible apply State.openRoot_kept | with_reducible apply State.done_kept
      | with_reducible apply Kept.ite | refine KeptOpt.of (by with_reducible assumption) ?_
      | exact KeptOpt.of rfl (by with_reducible assumption) | exact KeptPair.of rfl (by with_reducible assumption)
      | with_reducible apply KeptOpt.ite | with_reducible refine KeptOpt.mapState ?_ (fun _ _ => ?_)
      | with_reducible refine KeptOpt.map (fun _ => ?_) | with_reducible apply KeptOpt.some | with_reducible exact KeptOpt.none
      | with_reducible apply KeptPair.ite | with_reducible apply KeptPair.some | with_reducible exact KeptPair.none
      | (extract_lets +onlyGivenNames x
         first
         | (refine Kept.cut (k := κ) (s := x) ?_ ?_; subst x; rotate_left; intro hx; clear_value x; revert x; intro _ _)
         | (refine KeptOpt.cut (k := κ) (o := x) ?_ ?_; subst x; rotate_left; intro hx; clear_value x; revert x; intro _ _)
         | (refine KeptPair.cut (k := κ) (o := x) ?_ ?_; subst x; rotate_left; intro hx; clear_value x; revert x; intro _ _)
         | (clear_value x; revert x; intro _))
      | dsimp -zeta only | split)

theorem State.rootsAlone_kept {κ : Fixed} {s : State} (c : Coord) (i : SliceId) (hk : Kept κ s) :
    Kept κ (State.rootsAlone s c i) := by
  unfold State.rootsAlone
  repeat' (first
      | with_reducible assumption | with_reducible apply State.rootAlone_kept | with_reducible apply Kept.ite
      | with_reducible apply Kept.foldl | with_reducible apply Kept.foldl_fst | with_reducible apply Kept.foldl_snd | (intro _ _ _)
      | (intro _ _) | (intro _) | dsimp -zeta only | split)

theorem State.rootsRetry_kept {κ : Fixed} {s : State} (c : Coord) (hk : Kept κ s) :
    Kept κ (State.rootsRetry s c) := by
  unfold State.rootsRetry
  repeat' (first
      | with_reducible assumption | with_reducible apply State.rawsReady_kept | with_reducible apply State.rootsAlone_kept
      | with_reducible apply Kept.ite | with_reducible apply Kept.foldl | with_reducible apply Kept.foldl_fst
      | with_reducible apply Kept.foldl_snd | (intro _ _ _) | (intro _ _) | (intro _)
      | (extract_lets +onlyGivenNames x
         first
         | (refine Kept.cut (k := κ) (s := x) ?_ ?_; subst x; rotate_left; intro hx; clear_value x; revert x; intro _ _)
         | (clear_value x; revert x; intro _))
      | dsimp -zeta only | split)

theorem State.depRecord_kept {κ : Fixed} {s : State} (c : Coord) (m : Cmd) (ctx : Nat) (epoch : Nat) (k : Nat) (addr : Nat) (hk : Kept κ s) :
    Kept κ (State.depRecord s c m ctx epoch k addr) := by
  unfold State.depRecord
  repeat' (first
      | with_reducible assumption | with_reducible apply State.issueRead_kept | with_reducible apply State.modColl_kept
      | with_reducible apply State.stage_kept | with_reducible apply Kept.ite | (intro _ _ _) | (intro _ _) | (intro _)
      | refine Kept.of_snd (by with_reducible assumption) ?_ | refine Kept.of_fst (by with_reducible assumption) ?_
      | with_reducible apply KeptOpt.getD
      | (extract_lets +onlyGivenNames x
         first
         | (refine Kept.cut (k := κ) (s := x) ?_ ?_; subst x; rotate_left; intro hx; clear_value x; revert x; intro _ _)
         | (refine Kept.cut1 (k := κ) (s := x) ?_ ?_; subst x; rotate_left; intro hx; clear_value x; revert x; intro _ _)
         | (refine Kept.cut2 (k := κ) (s := x) ?_ ?_; subst x; rotate_left; intro hx; clear_value x; revert x; intro _ _)
         | (clear_value x; revert x; intro _))
      | dsimp -zeta only | split | simp -zeta only [Kept.mk_iff])

theorem State.emitOwn_kept {κ : Fixed} {s : State} (c : Coord) (i : SliceId) (raw : List Byte) (hk : Kept κ s) :
    Kept κ (State.emitOwn s c i raw) := by
  unfold State.emitOwn
  repeat' (first
      | with_reducible assumption | with_reducible apply State.sendPkt_kept | with_reducible apply State.modColl_kept
      | with_reducible apply State.modDep_kept | with_reducible apply State.noteTaken_kept | with_reducible apply State.watchDep_kept
      | with_reducible apply State.sendResult_kept | with_reducible apply State.done_kept | with_reducible apply Kept.ite
      | (intro _ _ _) | (intro _ _) | (intro _) | exact KeptOpt.of rfl (by with_reducible assumption)
      | exact KeptPair.of rfl (by with_reducible assumption) | with_reducible apply KeptOpt.ite
      | with_reducible refine KeptOpt.mapState ?_ (fun _ _ => ?_) | with_reducible refine KeptOpt.map (fun _ => ?_)
      | with_reducible apply KeptOpt.some | with_reducible exact KeptOpt.none | with_reducible apply KeptPair.ite
      | with_reducible apply KeptPair.some | with_reducible exact KeptPair.none
      | (extract_lets +onlyGivenNames x
         first
         | (refine Kept.cut (k := κ) (s := x) ?_ ?_; subst x; rotate_left; intro hx; clear_value x; revert x; intro _ _)
         | (refine KeptOpt.cut (k := κ) (o := x) ?_ ?_; subst x; rotate_left; intro hx; clear_value x; revert x; intro _ _)
         | (refine KeptPair.cut (k := κ) (o := x) ?_ ?_; subst x; rotate_left; intro hx; clear_value x; revert x; intro _ _)
         | (clear_value x; revert x; intro _))
      | dsimp -zeta only | split | simp -zeta only [Kept.mk_iff])

theorem State.depositSlice_kept {κ : Fixed} {s : State} (c : Coord) (i : SliceId) (hk : Kept κ s) :
    Kept κ (State.depositSlice s c i) := by
  unfold State.depositSlice
  repeat' (first
      | with_reducible assumption | with_reducible apply State.bump_kept | with_reducible apply State.modDep_kept
      | with_reducible apply State.askOwn_kept | with_reducible apply State.lateOwn_kept | with_reducible apply State.available_kept
      | with_reducible apply State.rootsAlone_kept | with_reducible apply Kept.ite | (intro _ _ _) | (intro _ _) | (intro _)
      | exact KeptOpt.of rfl (by with_reducible assumption) | exact KeptPair.of rfl (by with_reducible assumption)
      | with_reducible apply KeptOpt.ite | with_reducible refine KeptOpt.mapState ?_ (fun _ _ => ?_)
      | with_reducible refine KeptOpt.map (fun _ => ?_) | with_reducible apply KeptOpt.some | with_reducible exact KeptOpt.none
      | with_reducible apply KeptPair.ite | with_reducible apply KeptPair.some | with_reducible exact KeptPair.none
      | (extract_lets +onlyGivenNames x
         first
         | (refine Kept.cut (k := κ) (s := x) ?_ ?_; subst x; rotate_left; intro hx; clear_value x; revert x; intro _ _)
         | (refine KeptOpt.cut (k := κ) (o := x) ?_ ?_; subst x; rotate_left; intro hx; clear_value x; revert x; intro _ _)
         | (refine KeptPair.cut (k := κ) (o := x) ?_ ?_; subst x; rotate_left; intro hx; clear_value x; revert x; intro _ _)
         | (clear_value x; revert x; intro _))
      | dsimp -zeta only | split | simp -zeta only [Kept.mk_iff])

theorem State.stageRead_kept {κ : Fixed} {s : State} (c : Coord) (i : SliceId) (d : Dep) (hk : Kept κ s) :
    Kept κ (State.stageRead s c i d).2 := by
  unfold State.stageRead
  repeat' (first
      | with_reducible assumption | with_reducible apply State.memInject_kept | with_reducible apply State.modDep_kept
      | with_reducible apply State.failDep_kept | with_reducible apply Kept.ite | with_reducible apply Kept.ite1
      | with_reducible apply Kept.ite2 | (intro _ _ _) | (intro _ _) | (intro _)
      | refine Kept.of_snd (by with_reducible assumption) ?_ | refine Kept.of_fst (by with_reducible assumption) ?_
      | exact KeptOpt.of rfl (by with_reducible assumption) | exact KeptPair.of rfl (by with_reducible assumption)
      | with_reducible apply KeptOpt.ite | with_reducible refine KeptOpt.mapState ?_ (fun _ _ => ?_)
      | with_reducible refine KeptOpt.map (fun _ => ?_) | with_reducible apply KeptOpt.some | with_reducible exact KeptOpt.none
      | with_reducible apply KeptPair.ite | with_reducible apply KeptPair.some | with_reducible exact KeptPair.none
      | (extract_lets +onlyGivenNames x
         first
         | (refine Kept.cut (k := κ) (s := x) ?_ ?_; subst x; rotate_left; intro hx; clear_value x; revert x; intro _ _)
         | (refine Kept.cut1 (k := κ) (s := x) ?_ ?_; subst x; rotate_left; intro hx; clear_value x; revert x; intro _ _)
         | (refine Kept.cut2 (k := κ) (s := x) ?_ ?_; subst x; rotate_left; intro hx; clear_value x; revert x; intro _ _)
         | (refine KeptOpt.cut (k := κ) (o := x) ?_ ?_; subst x; rotate_left; intro hx; clear_value x; revert x; intro _ _)
         | (refine KeptPair.cut (k := κ) (o := x) ?_ ?_; subst x; rotate_left; intro hx; clear_value x; revert x; intro _ _)
         | (clear_value x; revert x; intro _))
      | dsimp -zeta only | split | simp -zeta only [Kept.mk_iff])

theorem State.depRead_kept {κ : Fixed} {s : State} (c : Coord) (tag : Nat) (k : Nat) (hk : Kept κ s) :
    Kept κ (State.depRead s c tag k) := by
  unfold State.depRead
  repeat' (first
      | with_reducible assumption | with_reducible apply State.faultEvent_kept | with_reducible apply State.modColl_kept
      | with_reducible apply State.modDep_kept | with_reducible apply State.noteTaken_kept | with_reducible apply State.failDep_kept
      | with_reducible apply State.lateAnchors_kept | with_reducible apply State.lateOwn_kept
      | with_reducible apply State.available_kept | with_reducible apply State.rootsAlone_kept
      | with_reducible apply State.emitOwn_kept | with_reducible apply State.stageRead_kept | with_reducible apply State.done_kept
      | with_reducible apply Kept.ite | (intro _ _ _) | (intro _ _) | (intro _) | refine Kept.of_snd (by with_reducible assumption) ?_
      | refine Kept.of_fst (by with_reducible assumption) ?_ | exact KeptOpt.of rfl (by with_reducible assumption)
      | exact KeptPair.of rfl (by with_reducible assumption) | with_reducible apply KeptOpt.ite
      | with_reducible refine KeptOpt.mapState ?_ (fun _ _ => ?_) | with_reducible refine KeptOpt.map (fun _ => ?_)
      | with_reducible apply KeptOpt.some | with_reducible exact KeptOpt.none | with_reducible apply KeptPair.ite
      | with_reducible apply KeptPair.some | with_reducible exact KeptPair.none
      | (extract_lets +onlyGivenNames x
         first
         | (refine Kept.cut (k := κ) (s := x) ?_ ?_; subst x; rotate_left; intro hx; clear_value x; revert x; intro _ _)
         | (refine Kept.cut1 (k := κ) (s := x) ?_ ?_; subst x; rotate_left; intro hx; clear_value x; revert x; intro _ _)
         | (refine Kept.cut2 (k := κ) (s := x) ?_ ?_; subst x; rotate_left; intro hx; clear_value x; revert x; intro _ _)
         | (refine KeptOpt.cut (k := κ) (o := x) ?_ ?_; subst x; rotate_left; intro hx; clear_value x; revert x; intro _ _)
         | (refine KeptPair.cut (k := κ) (o := x) ?_ ?_; subst x; rotate_left; intro hx; clear_value x; revert x; intro _ _)
         | (clear_value x; revert x; intro _))
      | dsimp -zeta only | split | simp -zeta only [Kept.mk_iff])

theorem State.depUnread_kept {κ : Fixed} {s : State} (c : Coord) (tag : Nat) (k : Nat) (hk : Kept κ s) :
    Kept κ (State.depUnread s c tag k) := by
  unfold State.depUnread
  repeat' (first
      | with_reducible assumption | with_reducible apply State.faultEvent_kept | with_reducible apply State.modColl_kept
      | with_reducible apply State.failDep_kept | with_reducible apply State.done_kept | with_reducible apply Kept.ite | (intro _ _ _)
      | (intro _ _) | (intro _) | exact KeptOpt.of rfl (by with_reducible assumption)
      | exact KeptPair.of rfl (by with_reducible assumption) | with_reducible apply KeptOpt.ite
      | with_reducible refine KeptOpt.mapState ?_ (fun _ _ => ?_) | with_reducible refine KeptOpt.map (fun _ => ?_)
      | with_reducible apply KeptOpt.some | with_reducible exact KeptOpt.none | with_reducible apply KeptPair.ite
      | with_reducible apply KeptPair.some | with_reducible exact KeptPair.none
      | (extract_lets +onlyGivenNames x
         first
         | (refine Kept.cut (k := κ) (s := x) ?_ ?_; subst x; rotate_left; intro hx; clear_value x; revert x; intro _ _)
         | (refine KeptOpt.cut (k := κ) (o := x) ?_ ?_; subst x; rotate_left; intro hx; clear_value x; revert x; intro _ _)
         | (refine KeptPair.cut (k := κ) (o := x) ?_ ?_; subst x; rotate_left; intro hx; clear_value x; revert x; intro _ _)
         | (clear_value x; revert x; intro _))
      | dsimp -zeta only | split | simp -zeta only [Kept.mk_iff])

theorem State.depositStart_kept {κ : Fixed} {s : State} (c : Coord) (m : Cmd) (hk : Kept κ s) :
    Kept κ (State.depositStart s c m) := by
  unfold State.depositStart
  repeat' (first
      | with_reducible assumption | with_reducible apply State.sendSig_kept | with_reducible apply State.complete_kept
      | with_reducible apply State.modColl_kept | with_reducible apply State.beginEpoch_kept
      | with_reducible apply State.depProgress_kept | with_reducible apply State.depRecord_kept
      | with_reducible apply State.depositSlice_kept | with_reducible apply Kept.ite | with_reducible apply Kept.foldl
      | with_reducible apply Kept.foldl_fst | with_reducible apply Kept.foldl_snd | (intro _ _ _) | (intro _ _) | (intro _)
      | (extract_lets +onlyGivenNames x
         first
         | (refine Kept.cut (k := κ) (s := x) ?_ ?_; subst x; rotate_left; intro hx; clear_value x; revert x; intro _ _)
         | (clear_value x; revert x; intro _))
      | dsimp -zeta only | split | simp -zeta only [Kept.mk_iff])

theorem State.originate_kept {κ : Fixed} {s : State} (c : Coord) (ph : Nat) (i : SliceId) (hk : Kept κ s) :
    Kept κ (State.originate s c ph i) := by
  unfold State.originate
  repeat' (first
      | with_reducible assumption | with_reducible apply State.askOwn_kept | with_reducible apply State.takeOwn_kept
      | with_reducible apply State.sweepOn_kept | with_reducible apply Kept.ite | refine Kept.of_snd (by with_reducible assumption) ?_
      | refine Kept.of_fst (by with_reducible assumption) ?_ | exact KeptOpt.of rfl (by with_reducible assumption)
      | exact KeptPair.of rfl (by with_reducible assumption) | with_reducible apply KeptOpt.ite
      | with_reducible refine KeptOpt.mapState ?_ (fun _ _ => ?_) | with_reducible refine KeptOpt.map (fun _ => ?_)
      | with_reducible apply KeptOpt.some | with_reducible exact KeptOpt.none | with_reducible apply KeptPair.ite
      | with_reducible apply KeptPair.some | with_reducible exact KeptPair.none
      | (extract_lets +onlyGivenNames x
         first
         | (refine Kept.cut (k := κ) (s := x) ?_ ?_; subst x; rotate_left; intro hx; clear_value x; revert x; intro _ _)
         | (refine Kept.cut1 (k := κ) (s := x) ?_ ?_; subst x; rotate_left; intro hx; clear_value x; revert x; intro _ _)
         | (refine Kept.cut2 (k := κ) (s := x) ?_ ?_; subst x; rotate_left; intro hx; clear_value x; revert x; intro _ _)
         | (refine KeptOpt.cut (k := κ) (o := x) ?_ ?_; subst x; rotate_left; intro hx; clear_value x; revert x; intro _ _)
         | (refine KeptPair.cut (k := κ) (o := x) ?_ ?_; subst x; rotate_left; intro hx; clear_value x; revert x; intro _ _)
         | (clear_value x; revert x; intro _))
      | dsimp -zeta only | split)

theorem State.sweepOriginate_kept {κ : Fixed} {s : State} (c : Coord) (i : SliceId) (hk : Kept κ s) :
    Kept κ (State.sweepOriginate s c i) := by
  unfold State.sweepOriginate
  repeat' (first
      | with_reducible assumption | with_reducible apply State.originate_kept | with_reducible apply Kept.ite | dsimp -zeta only
      | split)

theorem State.colOriginate_kept {κ : Fixed} {s : State} (c : Coord) (ph : Nat) (i : SliceId) (hk : Kept κ s) :
    Kept κ (State.colOriginate s c ph i) := by
  unfold State.colOriginate
  repeat' (first
      | with_reducible assumption | with_reducible apply State.reset_kept | with_reducible apply State.dropSlot_kept
      | with_reducible apply State.askOwn_kept | with_reducible apply State.takeOwn_kept | with_reducible apply State.owe_kept
      | with_reducible apply State.sweepOn_kept | with_reducible apply State.setGath_kept | with_reducible apply State.rowOwn_kept
      | with_reducible apply Kept.ite | refine Kept.of_snd (by with_reducible assumption) ?_
      | refine Kept.of_fst (by with_reducible assumption) ?_ | exact KeptOpt.of rfl (by with_reducible assumption)
      | exact KeptPair.of rfl (by with_reducible assumption) | with_reducible apply KeptOpt.ite
      | with_reducible refine KeptOpt.mapState ?_ (fun _ _ => ?_) | with_reducible refine KeptOpt.map (fun _ => ?_)
      | with_reducible apply KeptOpt.some | with_reducible exact KeptOpt.none | with_reducible apply KeptPair.ite
      | with_reducible apply KeptPair.some | with_reducible exact KeptPair.none
      | (extract_lets +onlyGivenNames x
         first
         | (refine Kept.cut (k := κ) (s := x) ?_ ?_; subst x; rotate_left; intro hx; clear_value x; revert x; intro _ _)
         | (refine Kept.cut1 (k := κ) (s := x) ?_ ?_; subst x; rotate_left; intro hx; clear_value x; revert x; intro _ _)
         | (refine Kept.cut2 (k := κ) (s := x) ?_ ?_; subst x; rotate_left; intro hx; clear_value x; revert x; intro _ _)
         | (refine KeptOpt.cut (k := κ) (o := x) ?_ ?_; subst x; rotate_left; intro hx; clear_value x; revert x; intro _ _)
         | (refine KeptPair.cut (k := κ) (o := x) ?_ ?_; subst x; rotate_left; intro hx; clear_value x; revert x; intro _ _)
         | (clear_value x; revert x; intro _))
      | dsimp -zeta only | split | with_reducible refine Kept.mk_time ?_ (Nat.le_max_left _ _)
      | with_reducible refine Kept.mk_time ?_ (Nat.le_add_right _ _) | simp -zeta only [Kept.mk_iff])

theorem State.columnOriginate_kept {κ : Fixed} {s : State} (c : Coord) (i : SliceId) (hk : Kept κ s) :
    Kept κ (State.columnOriginate s c i) := by
  unfold State.columnOriginate
  repeat' (first
      | with_reducible assumption | with_reducible apply State.colOriginate_kept | with_reducible apply Kept.ite | dsimp -zeta only
      | split)

theorem State.waitExpiry_kept {κ : Fixed} {s : State} (c : Coord) (i : SliceId) (ks : List SlotKind) (hk : Kept κ s) :
    Kept κ (State.waitExpiry s c i ks) := by
  unfold State.waitExpiry
  repeat' (first
      | with_reducible assumption | with_reducible apply State.dropSlot_kept | with_reducible apply State.putSlot_kept
      | with_reducible apply State.owe_kept | with_reducible apply State.passHalf_kept | with_reducible apply Kept.ite
      | with_reducible apply Kept.foldl | with_reducible apply Kept.foldl_fst | with_reducible apply Kept.foldl_snd | (intro _ _ _)
      | (intro _ _) | (intro _) | with_reducible apply KeptOpt.foldl | exact KeptOpt.of rfl (by with_reducible assumption)
      | exact KeptPair.of rfl (by with_reducible assumption) | with_reducible apply KeptOpt.ite
      | with_reducible refine KeptOpt.mapState ?_ (fun _ _ => ?_) | with_reducible refine KeptOpt.map (fun _ => ?_)
      | with_reducible apply KeptOpt.some | with_reducible exact KeptOpt.none | with_reducible apply KeptPair.ite
      | with_reducible apply KeptPair.some | with_reducible exact KeptPair.none
      | (extract_lets +onlyGivenNames x
         first
         | (refine Kept.cut (k := κ) (s := x) ?_ ?_; subst x; rotate_left; intro hx; clear_value x; revert x; intro _ _)
         | (refine KeptOpt.cut (k := κ) (o := x) ?_ ?_; subst x; rotate_left; intro hx; clear_value x; revert x; intro _ _)
         | (refine KeptPair.cut (k := κ) (o := x) ?_ ?_; subst x; rotate_left; intro hx; clear_value x; revert x; intro _ _)
         | (clear_value x; revert x; intro _))
      | dsimp -zeta only | split | with_reducible refine Kept.mk_time ?_ (Nat.le_max_left _ _)
      | with_reducible refine Kept.mk_time ?_ (Nat.le_add_right _ _) | simp -zeta only [Kept.mk_iff])

theorem State.orphanExpiry_kept {κ : Fixed} {s : State} (c : Coord) (i : SliceId) (hk : Kept κ s) :
    Kept κ (State.orphanExpiry s c i) := by
  unfold State.orphanExpiry
  repeat' (first
      | with_reducible assumption | with_reducible apply State.bump_kept | with_reducible apply State.dropSlot_kept
      | with_reducible apply State.toRoot_kept | with_reducible apply State.lateOwn_kept | with_reducible apply State.setGath_kept
      | with_reducible apply Kept.ite | with_reducible apply Kept.foldl | with_reducible apply Kept.foldl_fst
      | with_reducible apply Kept.foldl_snd | (intro _ _ _) | (intro _ _) | (intro _) | with_reducible apply KeptOpt.foldl
      | exact KeptOpt.of rfl (by with_reducible assumption) | exact KeptPair.of rfl (by with_reducible assumption)
      | with_reducible apply KeptOpt.ite | with_reducible refine KeptOpt.mapState ?_ (fun _ _ => ?_)
      | with_reducible refine KeptOpt.map (fun _ => ?_) | with_reducible apply KeptOpt.some | with_reducible exact KeptOpt.none
      | with_reducible apply KeptPair.ite | with_reducible apply KeptPair.some | with_reducible exact KeptPair.none
      | (extract_lets +onlyGivenNames x
         first
         | (refine Kept.cut (k := κ) (s := x) ?_ ?_; subst x; rotate_left; intro hx; clear_value x; revert x; intro _ _)
         | (refine KeptOpt.cut (k := κ) (o := x) ?_ ?_; subst x; rotate_left; intro hx; clear_value x; revert x; intro _ _)
         | (refine KeptPair.cut (k := κ) (o := x) ?_ ?_; subst x; rotate_left; intro hx; clear_value x; revert x; intro _ _)
         | (clear_value x; revert x; intro _))
      | dsimp -zeta only | split | with_reducible refine Kept.mk_time ?_ (Nat.le_max_left _ _)
      | with_reducible refine Kept.mk_time ?_ (Nat.le_add_right _ _) | simp -zeta only [Kept.mk_iff])

theorem State.rootExpiry_kept {κ : Fixed} {s : State} (c : Coord) (ph : Nat) (i : SliceId) (hk : Kept κ s) :
    Kept κ (State.rootExpiry s c ph i) := by
  unfold State.rootExpiry
  repeat' (first
      | with_reducible assumption | with_reducible apply State.dropSlot_kept | with_reducible apply State.finishRoot_kept
      | with_reducible apply State.rootSlot_kept | with_reducible apply Kept.ite
      | refine Kept.of_snd (by with_reducible assumption) ?_ | refine Kept.of_fst (by with_reducible assumption) ?_
      | exact KeptOpt.of rfl (by with_reducible assumption) | exact KeptPair.of rfl (by with_reducible assumption)
      | with_reducible apply KeptOpt.ite | with_reducible refine KeptOpt.mapState ?_ (fun _ _ => ?_)
      | with_reducible refine KeptOpt.map (fun _ => ?_) | with_reducible apply KeptOpt.some | with_reducible exact KeptOpt.none
      | with_reducible apply KeptPair.ite | with_reducible apply KeptPair.some | with_reducible exact KeptPair.none
      | (extract_lets +onlyGivenNames x
         first
         | (refine Kept.cut (k := κ) (s := x) ?_ ?_; subst x; rotate_left; intro hx; clear_value x; revert x; intro _ _)
         | (refine Kept.cut1 (k := κ) (s := x) ?_ ?_; subst x; rotate_left; intro hx; clear_value x; revert x; intro _ _)
         | (refine Kept.cut2 (k := κ) (s := x) ?_ ?_; subst x; rotate_left; intro hx; clear_value x; revert x; intro _ _)
         | (refine KeptOpt.cut (k := κ) (o := x) ?_ ?_; subst x; rotate_left; intro hx; clear_value x; revert x; intro _ _)
         | (refine KeptPair.cut (k := κ) (o := x) ?_ ?_; subst x; rotate_left; intro hx; clear_value x; revert x; intro _ _)
         | (clear_value x; revert x; intro _))
      | dsimp -zeta only | split | with_reducible refine Kept.mk_time ?_ (Nat.le_max_left _ _)
      | with_reducible refine Kept.mk_time ?_ (Nat.le_add_right _ _) | simp -zeta only [Kept.mk_iff])

theorem State.leaseExpiry_kept {κ : Fixed} {s : State} (c : Coord) (i : SliceId) (hk : Kept κ s) :
    Kept κ (State.leaseExpiry s c i) := by
  unfold State.leaseExpiry
  repeat' (first
      | with_reducible assumption | with_reducible apply State.rootExpiry_kept | with_reducible apply Kept.ite | dsimp -zeta only
      | split)

theorem State.spillBack_kept {κ : Fixed} {s : State} (c : Coord) (ctx : Nat) (hk : Kept κ s) :
    Kept κ (State.spillBack s c ctx) := by
  unfold State.spillBack
  repeat' (first
      | with_reducible assumption | with_reducible apply State.putSlot_kept | with_reducible apply State.spillRead_kept
      | with_reducible apply State.loseRoot_kept | with_reducible apply Kept.ite | (intro _ _ _) | (intro _ _) | (intro _)
      | refine Kept.of_snd (by with_reducible assumption) ?_ | refine Kept.of_fst (by with_reducible assumption) ?_
      | exact KeptOpt.of rfl (by with_reducible assumption) | exact KeptPair.of rfl (by with_reducible assumption)
      | with_reducible apply KeptOpt.ite | with_reducible refine KeptOpt.mapState ?_ (fun _ _ => ?_)
      | with_reducible refine KeptOpt.map (fun _ => ?_) | with_reducible apply KeptOpt.some | with_reducible exact KeptOpt.none
      | with_reducible apply KeptPair.ite | with_reducible apply KeptPair.some | with_reducible exact KeptPair.none
      | (extract_lets +onlyGivenNames x
         first
         | (refine Kept.cut (k := κ) (s := x) ?_ ?_; subst x; rotate_left; intro hx; clear_value x; revert x; intro _ _)
         | (refine Kept.cut1 (k := κ) (s := x) ?_ ?_; subst x; rotate_left; intro hx; clear_value x; revert x; intro _ _)
         | (refine Kept.cut2 (k := κ) (s := x) ?_ ?_; subst x; rotate_left; intro hx; clear_value x; revert x; intro _ _)
         | (refine KeptOpt.cut (k := κ) (o := x) ?_ ?_; subst x; rotate_left; intro hx; clear_value x; revert x; intro _ _)
         | (refine KeptPair.cut (k := κ) (o := x) ?_ ?_; subst x; rotate_left; intro hx; clear_value x; revert x; intro _ _)
         | (clear_value x; revert x; intro _))
      | dsimp -zeta only | split | simp -zeta only [Kept.mk_iff])

theorem State.learnAnchors_kept {κ : Fixed} {s : State} (c : Coord) (i : SliceId) (bytes : List Nat) (hk : Kept κ s) :
    Kept κ (State.learnAnchors s c i bytes) := by
  unfold State.learnAnchors
  repeat' (first
      | with_reducible assumption | with_reducible apply State.modColl_kept | with_reducible apply State.rawsReady_kept
      | with_reducible apply State.available_kept | with_reducible apply State.rootsAlone_kept | with_reducible apply Kept.ite
      | (intro _ _ _) | (intro _ _) | (intro _)
      | (extract_lets +onlyGivenNames x
         first
         | (refine Kept.cut (k := κ) (s := x) ?_ ?_; subst x; rotate_left; intro hx; clear_value x; revert x; intro _ _)
         | (clear_value x; revert x; intro _))
      | dsimp -zeta only | split | simp -zeta only [Kept.mk_iff])

theorem State.anchorPiece_kept {κ : Fixed} {s : State} (c : Coord) (i : SliceId) (pc : Piece) (hk : Kept κ s) :
    Kept κ (State.anchorPiece s c i pc).2 := by
  unfold State.anchorPiece
  repeat' (first
      | with_reducible assumption | with_reducible apply State.modColl_kept | with_reducible apply Kept.ite
      | with_reducible apply Kept.ite1 | with_reducible apply Kept.ite2 | (intro _ _ _) | (intro _ _) | (intro _)
      | with_reducible apply KeptOpt.getD | exact KeptOpt.of rfl (by with_reducible assumption)
      | exact KeptPair.of rfl (by with_reducible assumption) | with_reducible apply KeptOpt.ite
      | with_reducible refine KeptOpt.mapState ?_ (fun _ _ => ?_) | with_reducible refine KeptOpt.map (fun _ => ?_)
      | with_reducible apply KeptOpt.some | with_reducible exact KeptOpt.none | with_reducible apply KeptPair.ite
      | with_reducible apply KeptPair.some | with_reducible exact KeptPair.none
      | (extract_lets +onlyGivenNames x
         first
         | (refine Kept.cut (k := κ) (s := x) ?_ ?_; subst x; rotate_left; intro hx; clear_value x; revert x; intro _ _)
         | (refine Kept.cut1 (k := κ) (s := x) ?_ ?_; subst x; rotate_left; intro hx; clear_value x; revert x; intro _ _)
         | (refine Kept.cut2 (k := κ) (s := x) ?_ ?_; subst x; rotate_left; intro hx; clear_value x; revert x; intro _ _)
         | (refine KeptOpt.cut (k := κ) (o := x) ?_ ?_; subst x; rotate_left; intro hx; clear_value x; revert x; intro _ _)
         | (refine KeptPair.cut (k := κ) (o := x) ?_ ?_; subst x; rotate_left; intro hx; clear_value x; revert x; intro _ _)
         | (clear_value x; revert x; intro _))
      | dsimp -zeta only | split | simp -zeta only [Kept.mk_iff])

theorem State.anchorAt_kept {κ : Fixed} {s : State} (c : Coord) (p : Packet) (hk : Kept κ s) :
    Kept κ (State.anchorAt s c p) := by
  unfold State.anchorAt
  repeat' (first
      | with_reducible assumption | with_reducible apply State.takePkt_kept | with_reducible apply State.checkFault_kept
      | with_reducible apply State.beginEpoch_kept | with_reducible apply State.refusePiece_kept
      | with_reducible apply State.sweepAt_kept | with_reducible apply State.rootAt_kept | with_reducible apply State.rawsReady_kept
      | with_reducible apply State.available_kept | with_reducible apply State.rootsAlone_kept
      | with_reducible apply State.learnAnchors_kept | with_reducible apply State.anchorPiece_kept
      | with_reducible apply State.done_kept | with_reducible apply Kept.ite | with_reducible apply Kept.foldl
      | with_reducible apply Kept.foldl_fst | with_reducible apply Kept.foldl_snd | (intro _ _ _) | (intro _ _) | (intro _)
      | refine Kept.of_snd (by with_reducible assumption) ?_ | refine Kept.of_fst (by with_reducible assumption) ?_
      | refine KeptPair.of (by with_reducible assumption) ?_ | with_reducible apply KeptOpt.foldl
      | exact KeptOpt.of rfl (by with_reducible assumption) | exact KeptPair.of rfl (by with_reducible assumption)
      | with_reducible apply KeptOpt.ite | with_reducible refine KeptOpt.mapState ?_ (fun _ _ => ?_)
      | with_reducible refine KeptOpt.map (fun _ => ?_) | with_reducible apply KeptOpt.some | with_reducible exact KeptOpt.none
      | with_reducible apply KeptPair.ite | with_reducible apply KeptPair.some | with_reducible exact KeptPair.none
      | (extract_lets +onlyGivenNames x
         first
         | (refine Kept.cut (k := κ) (s := x) ?_ ?_; subst x; rotate_left; intro hx; clear_value x; revert x; intro _ _)
         | (refine Kept.cut1 (k := κ) (s := x) ?_ ?_; subst x; rotate_left; intro hx; clear_value x; revert x; intro _ _)
         | (refine Kept.cut2 (k := κ) (s := x) ?_ ?_; subst x; rotate_left; intro hx; clear_value x; revert x; intro _ _)
         | (refine KeptOpt.cut (k := κ) (o := x) ?_ ?_; subst x; rotate_left; intro hx; clear_value x; revert x; intro _ _)
         | (refine KeptPair.cut (k := κ) (o := x) ?_ ?_; subst x; rotate_left; intro hx; clear_value x; revert x; intro _ _)
         | (clear_value x; revert x; intro _))
      | dsimp -zeta only | split)

theorem State.anchorExpiry_kept {κ : Fixed} {s : State} (c : Coord) (i : SliceId) (hk : Kept κ s) :
    Kept κ (State.anchorExpiry s c i) := by
  unfold State.anchorExpiry
  repeat' (first
      | with_reducible assumption | with_reducible apply State.rawsReady_kept | with_reducible apply State.available_kept
      | with_reducible apply State.rootsAlone_kept | with_reducible apply State.rootExpiry_kept | with_reducible apply Kept.ite
      | dsimp -zeta only | split)

theorem State.markLand_kept {κ : Fixed} {s : State} (c : Coord) (l : LandEnt) (hk : Kept κ s) :
    Kept κ (State.markLand s c l) := by
  unfold State.markLand
  repeat' (first
      | with_reducible assumption | with_reducible apply State.modColl_kept | with_reducible apply Kept.ite | (intro _ _ _)
      | (intro _ _) | (intro _) | dsimp -zeta only | split | simp -zeta only [Kept.mk_iff])

theorem State.afterLand_kept {κ : Fixed} {s : State} (c : Coord) (i : SliceId) (inc : Bool) (aex : Bool) (hk : Kept κ s) :
    Kept κ (State.afterLand s c i inc aex) := by
  unfold State.afterLand
  repeat' (first
      | with_reducible assumption | with_reducible apply State.incCounter_kept | with_reducible apply State.modDep_kept
      | with_reducible apply State.depProgress_kept | with_reducible apply State.noteTaken_kept | with_reducible apply Kept.ite
      | (intro _ _ _) | (intro _ _) | (intro _) | exact KeptOpt.of rfl (by with_reducible assumption)
      | exact KeptPair.of rfl (by with_reducible assumption) | with_reducible apply KeptOpt.ite
      | with_reducible refine KeptOpt.mapState ?_ (fun _ _ => ?_) | with_reducible refine KeptOpt.map (fun _ => ?_)
      | with_reducible apply KeptOpt.some | with_reducible exact KeptOpt.none | with_reducible apply KeptPair.ite
      | with_reducible apply KeptPair.some | with_reducible exact KeptPair.none
      | (extract_lets +onlyGivenNames x
         first
         | (refine Kept.cut (k := κ) (s := x) ?_ ?_; subst x; rotate_left; intro hx; clear_value x; revert x; intro _ _)
         | (refine KeptOpt.cut (k := κ) (o := x) ?_ ?_; subst x; rotate_left; intro hx; clear_value x; revert x; intro _ _)
         | (refine KeptPair.cut (k := κ) (o := x) ?_ ?_; subst x; rotate_left; intro hx; clear_value x; revert x; intro _ _)
         | (clear_value x; revert x; intro _))
      | dsimp -zeta only | split | simp -zeta only [Kept.mk_iff])

theorem State.noteEnded_kept {κ : Fixed} {s : State} (c : Coord) (i : SliceId) (inc : Bool) (aex : Bool) (hk : Kept κ s) :
    Kept κ (State.noteEnded s c i inc aex) := by
  unfold State.noteEnded
  repeat' (first
      | with_reducible assumption | with_reducible apply State.markLand_kept | with_reducible apply State.afterLand_kept
      | with_reducible apply Kept.ite | (intro _ _ _) | (intro _ _) | (intro _) | dsimp -zeta only | split)

theorem State.landSlice_kept {κ : Fixed} {s : State} (c : Coord) (i : SliceId) (pc : Piece) (hk : Kept κ s) :
    Kept κ (State.landSlice s c i pc) := by
  unfold State.landSlice
  repeat' (first
      | with_reducible assumption | with_reducible apply State.memWrite_kept | with_reducible apply State.writeCheck_kept
      | with_reducible apply State.modColl_kept | with_reducible apply State.markLand_kept | with_reducible apply State.afterLand_kept
      | with_reducible apply Kept.ite | with_reducible apply Kept.foldl | with_reducible apply Kept.foldl_fst
      | with_reducible apply Kept.foldl_snd | (intro _ _ _) | (intro _ _) | (intro _) | with_reducible apply KeptOpt.getD
      | (extract_lets +onlyGivenNames x
         first
         | (refine Kept.cut (k := κ) (s := x) ?_ ?_; subst x; rotate_left; intro hx; clear_value x; revert x; intro _ _)
         | (clear_value x; revert x; intro _))
      | dsimp -zeta only | split | simp -zeta only [Kept.mk_iff])

theorem State.noResult_kept {κ : Fixed} {s : State} (c : Coord) (i : SliceId) (hk : Kept κ s) :
    Kept κ (State.noResult s c i) := by
  unfold State.noResult
  repeat' (first
      | with_reducible assumption | with_reducible apply State.setReg_kept | with_reducible apply State.ctxFailure_kept
      | with_reducible apply State.absent_kept | with_reducible apply State.noteEnded_kept | with_reducible apply Kept.ite
      | (extract_lets +onlyGivenNames x
         first
         | (refine Kept.cut (k := κ) (s := x) ?_ ?_; subst x; rotate_left; intro hx; clear_value x; revert x; intro _ _)
         | (clear_value x; revert x; intro _))
      | dsimp -zeta only | split)

theorem State.resultAt_kept {κ : Fixed} {s : State} (c : Coord) (p : Packet) (hk : Kept κ s) :
    Kept κ (State.resultAt s c p) := by
  unfold State.resultAt
  repeat' (first
      | with_reducible assumption | with_reducible apply State.takePkt_kept | with_reducible apply State.checkFault_kept
      | with_reducible apply State.modDep_kept | with_reducible apply State.beginEpoch_kept
      | with_reducible apply State.refusePiece_kept | with_reducible apply State.noteTaken_kept
      | with_reducible apply State.noteEnded_kept | with_reducible apply State.landSlice_kept
      | with_reducible apply State.noResult_kept | with_reducible apply Kept.ite | with_reducible apply Kept.foldl
      | with_reducible apply Kept.foldl_fst | with_reducible apply Kept.foldl_snd | (intro _ _ _) | (intro _ _) | (intro _)
      | with_reducible apply KeptOpt.foldl | exact KeptOpt.of rfl (by with_reducible assumption)
      | exact KeptPair.of rfl (by with_reducible assumption) | with_reducible apply KeptOpt.ite
      | with_reducible refine KeptOpt.mapState ?_ (fun _ _ => ?_) | with_reducible refine KeptOpt.map (fun _ => ?_)
      | with_reducible apply KeptOpt.some | with_reducible exact KeptOpt.none | with_reducible apply KeptPair.ite
      | with_reducible apply KeptPair.some | with_reducible exact KeptPair.none
      | (extract_lets +onlyGivenNames x
         first
         | (refine Kept.cut (k := κ) (s := x) ?_ ?_; subst x; rotate_left; intro hx; clear_value x; revert x; intro _ _)
         | (refine KeptOpt.cut (k := κ) (o := x) ?_ ?_; subst x; rotate_left; intro hx; clear_value x; revert x; intro _ _)
         | (refine KeptPair.cut (k := κ) (o := x) ?_ ?_; subst x; rotate_left; intro hx; clear_value x; revert x; intro _ _)
         | (clear_value x; revert x; intro _))
      | dsimp -zeta only | split | simp -zeta only [Kept.mk_iff])

theorem State.memberDeadline_kept {κ : Fixed} {s : State} (c : Coord) (i : SliceId) (hk : Kept κ s) :
    Kept κ (State.memberDeadline s c i) := by
  unfold State.memberDeadline
  repeat' (first
      | with_reducible assumption | with_reducible apply State.modDep_kept | with_reducible apply State.noteTaken_kept
      | with_reducible apply State.noResult_kept | with_reducible apply Kept.ite | (intro _ _ _) | (intro _ _) | (intro _)
      | exact KeptOpt.of rfl (by with_reducible assumption) | exact KeptPair.of rfl (by with_reducible assumption)
      | with_reducible apply KeptOpt.ite | with_reducible refine KeptOpt.mapState ?_ (fun _ _ => ?_)
      | with_reducible refine KeptOpt.map (fun _ => ?_) | with_reducible apply KeptOpt.some | with_reducible exact KeptOpt.none
      | with_reducible apply KeptPair.ite | with_reducible apply KeptPair.some | with_reducible exact KeptPair.none
      | (extract_lets +onlyGivenNames x
         first
         | (refine Kept.cut (k := κ) (s := x) ?_ ?_; subst x; rotate_left; intro hx; clear_value x; revert x; intro _ _)
         | (refine KeptOpt.cut (k := κ) (o := x) ?_ ?_; subst x; rotate_left; intro hx; clear_value x; revert x; intro _ _)
         | (refine KeptPair.cut (k := κ) (o := x) ?_ ?_; subst x; rotate_left; intro hx; clear_value x; revert x; intro _ _)
         | (clear_value x; revert x; intro _))
      | dsimp -zeta only | split | with_reducible refine Kept.mk_time ?_ (Nat.le_max_left _ _)
      | with_reducible refine Kept.mk_time ?_ (Nat.le_add_right _ _) | simp -zeta only [Kept.mk_iff])

theorem State.collNacked_kept {κ : Fixed} {s : State} (c : Coord) (n : Nack) (hk : Kept κ s) :
    Kept κ (State.collNacked s c n) := by
  unfold State.collNacked
  repeat' (first
      | with_reducible assumption | with_reducible apply State.modColl_kept | with_reducible apply State.absent_kept
      | with_reducible apply Kept.ite | (intro _ _ _) | (intro _ _) | (intro _) | exact KeptOpt.of rfl (by with_reducible assumption)
      | exact KeptPair.of rfl (by with_reducible assumption) | with_reducible apply KeptOpt.ite
      | with_reducible refine KeptOpt.mapState ?_ (fun _ _ => ?_) | with_reducible refine KeptOpt.map (fun _ => ?_)
      | with_reducible apply KeptOpt.some | with_reducible exact KeptOpt.none | with_reducible apply KeptPair.ite
      | with_reducible apply KeptPair.some | with_reducible exact KeptPair.none
      | (extract_lets +onlyGivenNames x
         first
         | (refine Kept.cut (k := κ) (s := x) ?_ ?_; subst x; rotate_left; intro hx; clear_value x; revert x; intro _ _)
         | (refine KeptOpt.cut (k := κ) (o := x) ?_ ?_; subst x; rotate_left; intro hx; clear_value x; revert x; intro _ _)
         | (refine KeptPair.cut (k := κ) (o := x) ?_ ?_; subst x; rotate_left; intro hx; clear_value x; revert x; intro _ _)
         | (clear_value x; revert x; intro _))
      | dsimp -zeta only | split | simp -zeta only [Kept.mk_iff])

theorem State.collReset_kept {κ : Fixed} {s : State} (c : Coord) (hk : Kept κ s) :
    Kept κ (State.collReset s c) := by
  unfold State.collReset
  repeat' (first
      | with_reducible assumption | with_reducible apply State.modColl_kept | with_reducible apply State.absent_kept
      | with_reducible apply Kept.ite | with_reducible apply Kept.foldl | with_reducible apply Kept.foldl_fst
      | with_reducible apply Kept.foldl_snd | (intro _ _ _) | (intro _ _) | (intro _)
      | (extract_lets +onlyGivenNames x
         first
         | (refine Kept.cut (k := κ) (s := x) ?_ ?_; subst x; rotate_left; intro hx; clear_value x; revert x; intro _ _)
         | (subst x))
      | dsimp -zeta only | split | simp -zeta only [Kept.mk_iff])

end Sys2Proof.Machine
end

