-- ==== Sys2Proof/Laws/KeptExchOps.lean ====
section
/-! SUPPORT. Every operation of Machine/ExchOps.lean keeps the build, the queue and the canonical form. -/

namespace Sys2Proof.Machine

set_option linter.all false

theorem State.modExch_kept {κ : Fixed} {s : State} (c : Coord) (ctx : Nat) (epoch : Nat) (f : ExSt → ExSt) (hk : Kept κ s) :
    Kept κ (State.modExch s c ctx epoch f) := by
  unfold State.modExch
  repeat' (first
      | with_reducible assumption | with_reducible apply State.modColl_kept | with_reducible apply Kept.ite | (intro _ _ _)
      | (intro _ _) | (intro _) | dsimp -zeta only | split | simp -zeta only [Kept.mk_iff])

theorem State.segOpen_kept {κ : Fixed} {s : State} (c : Coord) (ctx : Nat) (epoch : Nat) (dst : Nat) (n0 : Nat) (hk : Kept κ s) :
    Kept κ (State.segOpen s c ctx epoch dst n0) := by
  induction n0 generalizing s with
  | zero => exact hk
  | succ n ih =>
    rw [State.segOpen]
    repeat' (first
      | with_reducible assumption | with_reducible apply ih | with_reducible apply State.routerTransfer_kept
      | with_reducible apply State.modExch_kept | with_reducible apply Kept.ite | (intro _ _ _) | (intro _ _) | (intro _)
      | refine KeptOpt.foldl_bind (KeptOpt.some ?_) (fun _ _ _ => ?_) | refine KeptOpt.of (by with_reducible assumption) ?_
      | exact KeptOpt.of rfl (by with_reducible assumption) | exact KeptPair.of rfl (by with_reducible assumption)
      | with_reducible apply KeptOpt.ite | with_reducible refine KeptOpt.mapState ?_ (fun _ _ => ?_)
      | with_reducible refine KeptOpt.map (fun _ => ?_) | with_reducible apply KeptOpt.some | with_reducible exact KeptOpt.none
      | with_reducible apply KeptPair.ite | with_reducible apply KeptPair.some | with_reducible exact KeptPair.none
      | (extract_lets +onlyGivenNames x
         first
         | (refine Kept.cut (k := κ) (s := x) ?_ ?_; subst x; rotate_left; intro hx; clear_value x; revert x; intro _ _)
         | (refine KeptOpt.cut (k := κ) (o := x) ?_ ?_; subst x; rotate_left; intro hx; clear_value x; revert x; intro _ _)
         | (refine KeptPair.cut (k := κ) (o := x) ?_ ?_; subst x; rotate_left; intro hx; clear_value x; revert x; intro _ _)
         | (clear_value x; revert x; intro _))
      | dsimp -zeta only | split | simp -zeta only [Kept.mk_iff])

theorem State.exchSettle_kept {κ : Fixed} {s : State} (c : Coord) (ctx : Nat) (epoch : Nat) (hk : Kept κ s) :
    Kept κ (State.exchSettle s c ctx epoch) := by
  unfold State.exchSettle
  repeat' (first
      | with_reducible assumption | with_reducible apply State.modColl_kept | with_reducible apply State.depProgress_kept
      | with_reducible apply Kept.ite | with_reducible apply Kept.foldl | with_reducible apply Kept.foldl_fst
      | with_reducible apply Kept.foldl_snd | (intro _ _ _) | (intro _ _) | (intro _) | with_reducible apply KeptOpt.foldl
      | exact KeptOpt.of rfl (by with_reducible assumption) | exact KeptPair.of rfl (by with_reducible assumption)
      | with_reducible apply KeptOpt.ite | with_reducible refine KeptOpt.mapState ?_ (fun _ _ => ?_)
      | with_reducible refine KeptOpt.map (fun _ => ?_) | with_reducible apply KeptOpt.some | with_reducible exact KeptOpt.none
      | with_reducible apply KeptPair.ite | with_reducible apply KeptPair.some | with_reducible exact KeptPair.none
      | (extract_lets +onlyGivenNames x
         first
         | (refine Kept.cut (k := κ) (s := x) ?_ ?_; subst x; rotate_left; intro hx; clear_value x; revert x; intro _ _)
         | (refine KeptOpt.cut (k := κ) (o := x) ?_ ?_; subst x; rotate_left; intro hx; clear_value x; revert x; intro _ _)
         | (refine KeptPair.cut (k := κ) (o := x) ?_ ?_; subst x; rotate_left; intro hx; clear_value x; revert x; intro _ _)
         | (subst x))
      | dsimp -zeta only | split | simp -zeta only [Kept.mk_iff])

theorem State.segmentSend_kept {κ : Fixed} {s : State} (c : Coord) (ctx : Nat) (epoch : Nat) (dst : Nat) (hk : Kept κ s) :
    Kept κ (State.segmentSend s c ctx epoch dst) := by
  unfold State.segmentSend
  repeat' (first
      | with_reducible assumption | with_reducible apply State.bump_kept | with_reducible apply State.modExch_kept
      | with_reducible apply State.segOpen_kept | with_reducible apply State.exchSettle_kept | with_reducible apply Kept.ite
      | (intro _ _ _) | (intro _ _) | (intro _) | exact KeptOpt.of rfl (by with_reducible assumption)
      | exact KeptPair.of rfl (by with_reducible assumption) | with_reducible apply KeptOpt.ite
      | with_reducible refine KeptOpt.mapState ?_ (fun _ _ => ?_) | with_reducible refine KeptOpt.map (fun _ => ?_)
      | with_reducible apply KeptOpt.some | with_reducible exact KeptOpt.none | with_reducible apply KeptPair.ite
      | with_reducible apply KeptPair.some | with_reducible exact KeptPair.none
      | (extract_lets +onlyGivenNames x
         first
         | (refine Kept.cut (k := κ) (s := x) ?_ ?_; subst x; rotate_left; intro hx; clear_value x; revert x; intro _ _)
         | (refine KeptOpt.cut (k := κ) (o := x) ?_ ?_; subst x; rotate_left; intro hx; clear_value x; revert x; intro _ _)
         | (refine KeptPair.cut (k := κ) (o := x) ?_ ?_; subst x; rotate_left; intro hx; clear_value x; revert x; intro _ _)
         | (clear_value x; revert x; intro _))
      | dsimp -zeta only | split | simp -zeta only [Kept.mk_iff])

theorem State.segmentsOn_kept {κ : Fixed} {s : State} (c : Coord) (hk : Kept κ s) :
    Kept κ (State.segmentsOn s c) := by
  unfold State.segmentsOn
  repeat' (first
      | with_reducible assumption | with_reducible apply State.segOpen_kept | with_reducible apply Kept.ite
      | with_reducible apply Kept.foldl | with_reducible apply Kept.foldl_fst | with_reducible apply Kept.foldl_snd | (intro _ _ _)
      | (intro _ _) | (intro _) | dsimp -zeta only | split)

theorem State.segmentEnd_kept {κ : Fixed} {s : State} (c : Coord) (r : SrcRsv) (ok : Bool) (hk : Kept κ s) :
    Kept κ (State.segmentEnd s c r ok) := by
  unfold State.segmentEnd
  repeat' (first
      | with_reducible assumption | with_reducible apply State.endSrcRsv_kept | with_reducible apply State.accounted_kept
      | with_reducible apply State.modExch_kept | with_reducible apply State.segOpen_kept | with_reducible apply State.exchSettle_kept
      | with_reducible apply Kept.ite | (intro _ _ _) | (intro _ _) | (intro _) | exact KeptOpt.of rfl (by with_reducible assumption)
      | exact KeptPair.of rfl (by with_reducible assumption) | with_reducible apply KeptOpt.ite
      | with_reducible refine KeptOpt.mapState ?_ (fun _ _ => ?_) | with_reducible refine KeptOpt.map (fun _ => ?_)
      | with_reducible apply KeptOpt.some | with_reducible exact KeptOpt.none | with_reducible apply KeptPair.ite
      | with_reducible apply KeptPair.some | with_reducible exact KeptPair.none
      | (extract_lets +onlyGivenNames x
         first
         | (refine Kept.cut (k := κ) (s := x) ?_ ?_; subst x; rotate_left; intro hx; clear_value x; revert x; intro _ _)
         | (refine KeptOpt.cut (k := κ) (o := x) ?_ ?_; subst x; rotate_left; intro hx; clear_value x; revert x; intro _ _)
         | (refine KeptPair.cut (k := κ) (o := x) ?_ ?_; subst x; rotate_left; intro hx; clear_value x; revert x; intro _ _)
         | (clear_value x; revert x; intro _))
      | dsimp -zeta only | split | simp -zeta only [Kept.mk_iff])

theorem State.segmentFail_kept {κ : Fixed} {s : State} (c : Coord) (r : SrcRsv) (code : Nat) (left : Bool) (is : List SliceId) (hk : Kept κ s) :
    Kept κ (State.segmentFail s c r code left is) := by
  unfold State.segmentFail
  repeat' (first
      | with_reducible assumption | with_reducible apply State.faultEvent_kept | with_reducible apply State.absent_kept
      | with_reducible apply State.modExch_kept | with_reducible apply State.exchSettle_kept
      | with_reducible apply State.segmentEnd_kept | with_reducible apply Kept.ite | with_reducible apply Kept.foldl
      | with_reducible apply Kept.foldl_fst | with_reducible apply Kept.foldl_snd | (intro _ _ _) | (intro _ _) | (intro _)
      | (extract_lets +onlyGivenNames x
         first
         | (refine Kept.cut (k := κ) (s := x) ?_ ?_; subst x; rotate_left; intro hx; clear_value x; revert x; intro _ _)
         | (clear_value x; revert x; intro _))
      | dsimp -zeta only | split | simp -zeta only [Kept.mk_iff])

theorem State.segmentPacket_kept {κ : Fixed} {s : State} (c : Coord) (r : SrcRsv) (ctx : Nat) (epoch : Nat) (dst : Nat) (o : Nat) (hk : Kept κ s) :
    Kept κ (State.segmentPacket s c r ctx epoch dst o).2 := by
  unfold State.segmentPacket
  repeat' (first
      | with_reducible assumption | with_reducible apply State.issueReadAt_kept | with_reducible apply State.sendPkt_kept
      | with_reducible apply State.segmentFail_kept | with_reducible apply Kept.ite | with_reducible apply Kept.foldl
      | with_reducible apply Kept.foldl_fst | with_reducible apply Kept.foldl_snd | with_reducible apply Kept.ite1
      | with_reducible apply Kept.ite2 | (intro _ _ _) | (intro _ _) | (intro _) | with_reducible apply KeptOpt.getD
      | (extract_lets +onlyGivenNames x
         first
         | (refine Kept.cut (k := κ) (s := x) ?_ ?_; subst x; rotate_left; intro hx; clear_value x; revert x; intro _ _)
         | (refine Kept.cut1 (k := κ) (s := x) ?_ ?_; subst x; rotate_left; intro hx; clear_value x; revert x; intro _ _)
         | (refine Kept.cut2 (k := κ) (s := x) ?_ ?_; subst x; rotate_left; intro hx; clear_value x; revert x; intro _ _)
         | (clear_value x; revert x; intro _))
      | dsimp -zeta only | split)

theorem State.segmentGrant_kept {κ : Fixed} {s : State} (c : Coord) (r : SrcRsv) (hk : Kept κ s) :
    Kept κ (State.segmentGrant s c r) := by
  unfold State.segmentGrant
  repeat' (first
      | with_reducible assumption | with_reducible apply State.modSrcRsv_kept | with_reducible apply State.dataSent_kept
      | with_reducible apply State.modExch_kept | with_reducible apply State.exchSettle_kept
      | with_reducible apply State.segmentPacket_kept | with_reducible apply Kept.ite | with_reducible apply Kept.foldl
      | with_reducible apply Kept.foldl_fst | with_reducible apply Kept.foldl_snd | with_reducible apply Kept.ite1
      | with_reducible apply Kept.ite2 | (intro _ _ _) | (intro _ _) | (intro _)
      | refine Kept.of_snd (by with_reducible assumption) ?_ | refine Kept.of_fst (by with_reducible assumption) ?_
      | (extract_lets +onlyGivenNames x
         first
         | (refine Kept.cut (k := κ) (s := x) ?_ ?_; subst x; rotate_left; intro hx; clear_value x; revert x; intro _ _)
         | (refine Kept.cut1 (k := κ) (s := x) ?_ ?_; subst x; rotate_left; intro hx; clear_value x; revert x; intro _ _)
         | (refine Kept.cut2 (k := κ) (s := x) ?_ ?_; subst x; rotate_left; intro hx; clear_value x; revert x; intro _ _)
         | (clear_value x; revert x; intro _))
      | dsimp -zeta only | split | simp -zeta only [Kept.mk_iff])

theorem State.noteSegment_kept {κ : Fixed} {s : State} (c : Coord) (k : RsvKey) (hk : Kept κ s) :
    Kept κ (State.noteSegment s c k) := by
  unfold State.noteSegment
  repeat' (first
      | with_reducible assumption | with_reducible apply State.incCounter_kept | with_reducible apply State.modColl_kept
      | with_reducible apply Kept.ite | (intro _ _ _) | (intro _ _) | (intro _) | with_reducible apply KeptOpt.getD
      | exact KeptOpt.of rfl (by with_reducible assumption) | exact KeptPair.of rfl (by with_reducible assumption)
      | with_reducible apply KeptOpt.ite | with_reducible refine KeptOpt.mapState ?_ (fun _ _ => ?_)
      | with_reducible refine KeptOpt.map (fun _ => ?_) | with_reducible apply KeptOpt.some | with_reducible exact KeptOpt.none
      | with_reducible apply KeptPair.ite | with_reducible apply KeptPair.some | with_reducible exact KeptPair.none
      | (extract_lets +onlyGivenNames x
         first
         | (refine Kept.cut (k := κ) (s := x) ?_ ?_; subst x; rotate_left; intro hx; clear_value x; revert x; intro _ _)
         | (refine KeptOpt.cut (k := κ) (o := x) ?_ ?_; subst x; rotate_left; intro hx; clear_value x; revert x; intro _ _)
         | (refine KeptPair.cut (k := κ) (o := x) ?_ ?_; subst x; rotate_left; intro hx; clear_value x; revert x; intro _ _)
         | (subst x))
      | dsimp -zeta only | split | simp -zeta only [Kept.mk_iff])

theorem State.xbarRelease_kept {κ : Fixed} {s : State} (c : Coord) (r : BarRelease) (hk : Kept κ s) :
    Kept κ (State.xbarRelease s c r) := by
  unfold State.xbarRelease
  repeat' (first
      | with_reducible assumption | with_reducible apply State.ctxFailure_kept | with_reducible apply State.modExch_kept
      | with_reducible apply State.exchSettle_kept | with_reducible apply Kept.ite | with_reducible apply Kept.foldl
      | with_reducible apply Kept.foldl_fst | with_reducible apply Kept.foldl_snd | (intro _ _ _) | (intro _ _) | (intro _)
      | (extract_lets +onlyGivenNames x
         first
         | (refine Kept.cut (k := κ) (s := x) ?_ ?_; subst x; rotate_left; intro hx; clear_value x; revert x; intro _ _)
         | (clear_value x; revert x; intro _))
      | dsimp -zeta only | split | simp -zeta only [Kept.mk_iff])

theorem State.systemRelease_kept {κ : Fixed} {s : State} (c : Coord) (ctx : Nat) (epoch : Nat) (inc : Bool) (hk : Kept κ s) :
    Kept κ (State.systemRelease s c ctx epoch inc) := by
  unfold State.systemRelease
  repeat' (first
      | with_reducible assumption | with_reducible apply State.ctxFailure_kept | with_reducible apply State.modExch_kept
      | with_reducible apply State.exchSettle_kept | with_reducible apply Kept.ite | (intro _ _ _) | (intro _ _) | (intro _)
      | exact KeptOpt.of rfl (by with_reducible assumption) | exact KeptPair.of rfl (by with_reducible assumption)
      | with_reducible apply KeptOpt.ite | with_reducible refine KeptOpt.mapState ?_ (fun _ _ => ?_)
      | with_reducible refine KeptOpt.map (fun _ => ?_) | with_reducible apply KeptOpt.some | with_reducible exact KeptOpt.none
      | with_reducible apply KeptPair.ite | with_reducible apply KeptPair.some | with_reducible exact KeptPair.none
      | (extract_lets +onlyGivenNames x
         first
         | (refine Kept.cut (k := κ) (s := x) ?_ ?_; subst x; rotate_left; intro hx; clear_value x; revert x; intro _ _)
         | (refine KeptOpt.cut (k := κ) (o := x) ?_ ?_; subst x; rotate_left; intro hx; clear_value x; revert x; intro _ _)
         | (refine KeptPair.cut (k := κ) (o := x) ?_ ?_; subst x; rotate_left; intro hx; clear_value x; revert x; intro _ _)
         | (clear_value x; revert x; intro _))
      | dsimp -zeta only | split | simp -zeta only [Kept.mk_iff])

theorem State.exchDeadline_kept {κ : Fixed} {s : State} (c : Coord) (i : SliceId) (hk : Kept κ s) :
    Kept κ (State.exchDeadline s c i) := by
  unfold State.exchDeadline
  repeat' (first
      | with_reducible assumption | with_reducible apply State.systemRelease_kept | with_reducible apply Kept.ite | dsimp -zeta only
      | split | with_reducible refine Kept.mk_time ?_ (Nat.le_max_left _ _)
      | with_reducible refine Kept.mk_time ?_ (Nat.le_add_right _ _) | simp -zeta only [Kept.mk_iff])

end Sys2Proof.Machine
end

