-- ==== Sys2Proof/Laws/KeptLevelOps.lean ====
section
/-! SUPPORT. Every operation of Machine/LevelOps.lean keeps the build, the queue and the canonical form. -/

namespace Sys2Proof.Machine

set_option linter.all false

theorem State.modLv_kept {κ : Fixed} {s : State} (p : Nat) (f : LvSt → LvSt) (hk : Kept κ s) :
    Kept κ (State.modLv s p f) := by
  unfold State.modLv
  repeat' (first
      | with_reducible assumption | with_reducible apply State.modPort_kept | with_reducible apply Kept.ite | (intro _ _ _)
      | (intro _ _) | (intro _) | dsimp -zeta only | split | simp -zeta only [Kept.mk_iff])

theorem State.bumpLv_kept {κ : Fixed} {s : State} (p : Nat) (sub : Nat) (hk : Kept κ s) :
    Kept κ (State.bumpLv s p sub) := by
  unfold State.bumpLv
  repeat' (first
      | with_reducible assumption | with_reducible apply State.bump_kept | with_reducible apply Kept.ite | dsimp -zeta only | split)

theorem State.lvOwe_kept {κ : Fixed} {s : State} (p : Nat) (ph : Nat) (l : Nat) (i : SliceId) (hk : Kept κ s) :
    Kept κ (State.lvOwe s p ph l i) := by
  unfold State.lvOwe
  repeat' (first
      | with_reducible assumption | with_reducible apply State.modLv_kept | with_reducible apply State.bumpLv_kept
      | with_reducible apply Kept.ite | (intro _ _ _) | (intro _ _) | (intro _) | exact KeptOpt.of rfl (by with_reducible assumption)
      | exact KeptPair.of rfl (by with_reducible assumption) | with_reducible apply KeptOpt.ite
      | with_reducible refine KeptOpt.mapState ?_ (fun _ _ => ?_) | with_reducible refine KeptOpt.map (fun _ => ?_)
      | with_reducible apply KeptOpt.some | with_reducible exact KeptOpt.none | with_reducible apply KeptPair.ite
      | with_reducible apply KeptPair.some | with_reducible exact KeptPair.none
      | (extract_lets +onlyGivenNames x
         first
         | (refine Kept.cut (k := κ) (s := x) ?_ ?_; subst x; rotate_left; intro hx; clear_value x; revert x; intro _ _)
         | (refine KeptOpt.cut (k := κ) (o := x) ?_ ?_; subst x; rotate_left; intro hx; clear_value x; revert x; intro _ _)
         | (refine KeptPair.cut (k := κ) (o := x) ?_ ?_; subst x; rotate_left; intro hx; clear_value x; revert x; intro _ _)
         | (clear_value x; revert x; intro _))
      | dsimp -zeta only | split | simp -zeta only [Kept.mk_iff])

theorem State.lvBegin_kept {κ : Fixed} {s : State} (p : Nat) (ctx : Nat) (epoch : Nat) (hk : Kept κ s) :
    Kept κ (State.lvBegin s p ctx epoch) := by
  unfold State.lvBegin
  repeat' (first
      | with_reducible assumption | with_reducible apply State.modLv_kept | with_reducible apply State.done_kept
      | with_reducible apply Kept.ite | (intro _ _ _) | (intro _ _) | (intro _)
      | (extract_lets +onlyGivenNames x
         first
         | (refine Kept.cut (k := κ) (s := x) ?_ ?_; subst x; rotate_left; intro hx; clear_value x; revert x; intro _ _)
         | (clear_value x; revert x; intro _))
      | dsimp -zeta only | split | simp -zeta only [Kept.mk_iff])

theorem State.setLvOwn_kept {κ : Fixed} {s : State} (p : Nat) (o : LvOwn) (hk : Kept κ s) :
    Kept κ (State.setLvOwn s p o) := by
  unfold State.setLvOwn
  repeat' (first
      | with_reducible assumption | with_reducible apply State.modLv_kept | with_reducible apply Kept.ite | (intro _ _ _)
      | (intro _ _) | (intro _) | dsimp -zeta only | split | simp -zeta only [Kept.mk_iff])

theorem State.dropLv_kept {κ : Fixed} {s : State} (p : Nat) (w : LvSlot) (hk : Kept κ s) :
    Kept κ (State.dropLv s p w) := by
  unfold State.dropLv
  repeat' (first
      | with_reducible assumption | with_reducible apply State.modLv_kept | with_reducible apply Kept.ite | (intro _ _ _)
      | (intro _ _) | (intro _) | dsimp -zeta only | split | simp -zeta only [Kept.mk_iff])

theorem State.addLv_kept {κ : Fixed} {s : State} (p : Nat) (w : LvSlot) (hk : Kept κ s) :
    Kept κ (State.addLv s p w) := by
  unfold State.addLv
  repeat' (first
      | with_reducible assumption | with_reducible apply State.modLv_kept | with_reducible apply Kept.ite | (intro _ _ _)
      | (intro _ _) | (intro _) | dsimp -zeta only | split | simp -zeta only [Kept.mk_iff])

theorem State.noteHaltHeld_kept {κ : Fixed} {s : State} (p : Nat) (l : Nat) (i : SliceId) (hk : Kept κ s) :
    Kept κ (State.noteHaltHeld s p l i) := by
  unfold State.noteHaltHeld
  repeat' (first
      | with_reducible assumption | with_reducible apply State.bumpLv_kept | with_reducible apply Kept.ite
      | (extract_lets +onlyGivenNames x
         first
         | (refine Kept.cut (k := κ) (s := x) ?_ ?_; subst x; rotate_left; intro hx; clear_value x; revert x; intro _ _)
         | (clear_value x; revert x; intro _))
      | dsimp -zeta only | split)

theorem State.lvQueue_kept {κ : Fixed} {s : State} (p : Nat) (dim : Nat) (dir : Nat) (pk : Packet) (hk : Kept κ s) :
    Kept κ (State.lvQueue s p dim dir pk) := by
  unfold State.lvQueue
  repeat' (first
      | with_reducible assumption | with_reducible apply State.modPort_kept | with_reducible apply Kept.ite | (intro _ _ _)
      | (intro _ _) | (intro _) | exact KeptOpt.of rfl (by with_reducible assumption)
      | exact KeptPair.of rfl (by with_reducible assumption) | with_reducible apply KeptOpt.ite
      | with_reducible refine KeptOpt.mapState ?_ (fun _ _ => ?_) | with_reducible refine KeptOpt.map (fun _ => ?_)
      | with_reducible apply KeptOpt.some | with_reducible exact KeptOpt.none | with_reducible apply KeptPair.ite
      | with_reducible apply KeptPair.some | with_reducible exact KeptPair.none
      | (extract_lets +onlyGivenNames x
         first
         | (refine Kept.cut (k := κ) (s := x) ?_ ?_; subst x; rotate_left; intro hx; clear_value x; revert x; intro _ _)
         | (refine KeptOpt.cut (k := κ) (o := x) ?_ ?_; subst x; rotate_left; intro hx; clear_value x; revert x; intro _ _)
         | (refine KeptPair.cut (k := κ) (o := x) ?_ ?_; subst x; rotate_left; intro hx; clear_value x; revert x; intro _ _)
         | (subst x))
      | dsimp -zeta only | split | simp -zeta only [Kept.mk_iff])

theorem State.lvOnward_kept {κ : Fixed} {s : State} (p : Nat) (ph : Nat) (l : Nat) (i : SliceId) (part : Part) (src : SrcAddr) (hk : Kept κ s) :
    Kept κ (State.lvOnward s p ph l i part src) := by
  unfold State.lvOnward
  repeat' (first
      | with_reducible assumption | with_reducible apply State.lvQueue_kept | with_reducible apply Kept.ite
      | with_reducible apply Kept.foldl | with_reducible apply Kept.foldl_fst | with_reducible apply Kept.foldl_snd | (intro _ _ _)
      | (intro _ _) | (intro _)
      | (extract_lets +onlyGivenNames x
         first
         | (refine Kept.cut (k := κ) (s := x) ?_ ?_; subst x; rotate_left; intro hx; clear_value x; revert x; intro _ _)
         | (clear_value x; revert x; intro _))
      | dsimp -zeta only | split)

theorem State.lvToRoot_kept {κ : Fixed} {s : State} (p : Nat) (ph : Nat) (l : Nat) (i : SliceId) (part : Part) (src : SrcAddr) (late : Bool) (hk : Kept κ s) :
    Kept κ (State.lvToRoot s p ph l i part src late) := by
  unfold State.lvToRoot
  repeat' (first
      | with_reducible assumption | with_reducible apply State.sendPart_kept | with_reducible apply State.bumpLv_kept
      | with_reducible apply Kept.ite
      | (extract_lets +onlyGivenNames x
         first
         | (refine Kept.cut (k := κ) (s := x) ?_ ?_; subst x; rotate_left; intro hx; clear_value x; revert x; intro _ _)
         | (clear_value x; revert x; intro _))
      | dsimp -zeta only | split)

theorem State.lvRawLate_kept {κ : Fixed} {s : State} (p : Nat) (i : SliceId) (part : Part) (hk : Kept κ s) :
    Kept κ (State.lvRawLate s p i part) := by
  unfold State.lvRawLate
  repeat' (first
      | with_reducible assumption | with_reducible apply State.sendPart_kept | with_reducible apply State.bumpLv_kept
      | with_reducible apply Kept.ite
      | (extract_lets +onlyGivenNames x
         first
         | (refine Kept.cut (k := κ) (s := x) ?_ ?_; subst x; rotate_left; intro hx; clear_value x; revert x; intro _ _)
         | (clear_value x; revert x; intro _))
      | dsimp -zeta only | split)

theorem State.lvConverted_kept {κ : Fixed} {s : State} (p : Nat) (l : Nat) (i : SliceId) (r : Part × Nat × Nat) (hk : Kept κ s) :
    Kept κ (State.lvConverted s p l i r) := by
  unfold State.lvConverted
  repeat' (first
      | with_reducible assumption | with_reducible apply State.bump_kept | with_reducible apply State.millFlags_kept
      | with_reducible apply State.bumpLv_kept | with_reducible apply Kept.ite
      | (extract_lets +onlyGivenNames x
         first
         | (refine Kept.cut (k := κ) (s := x) ?_ ?_; subst x; rotate_left; intro hx; clear_value x; revert x; intro _ _)
         | (clear_value x; revert x; intro _))
      | dsimp -zeta only | split)

theorem State.lvJoin_kept {κ : Fixed} {s : State} (p : Nat) (ph : Nat) (l : Nat) (i : SliceId) (x : Part) (y : Part) (hk : Kept κ s) :
    KeptPair κ (State.lvJoin s p ph l i x y) := by
  unfold State.lvJoin
  repeat' (first
      | with_reducible assumption | with_reducible apply State.millFlags_kept | with_reducible apply State.merged_kept
      | with_reducible apply Kept.ite | with_reducible apply Kept.ite1 | with_reducible apply Kept.ite2 | (intro _ _ _) | (intro _ _)
      | (intro _) | refine KeptPair.map (fun _ => ?_) | with_reducible apply KeptPair.ite | with_reducible apply KeptPair.some
      | with_reducible exact KeptPair.none
      | (extract_lets +onlyGivenNames x
         first
         | (refine Kept.cut (k := κ) (s := x) ?_ ?_; subst x; rotate_left; intro hx; clear_value x; revert x; intro _ _)
         | (refine Kept.cut1 (k := κ) (s := x) ?_ ?_; subst x; rotate_left; intro hx; clear_value x; revert x; intro _ _)
         | (refine Kept.cut2 (k := κ) (s := x) ?_ ?_; subst x; rotate_left; intro hx; clear_value x; revert x; intro _ _)
         | (clear_value x; revert x; intro _))
      | dsimp -zeta only | split)

theorem State.lvOwnLate_kept {κ : Fixed} {s : State} (p : Nat) (ph : Nat) (l : Nat) (i : SliceId) (q : Part) (raw : Bool) (hk : Kept κ s) :
    Kept κ (State.lvOwnLate s p ph l i q raw) := by
  unfold State.lvOwnLate
  repeat' (first
      | with_reducible assumption | with_reducible apply State.lvToRoot_kept | with_reducible apply State.lvRawLate_kept
      | with_reducible apply State.lvConverted_kept | with_reducible apply Kept.ite
      | exact KeptOpt.of rfl (by with_reducible assumption) | exact KeptPair.of rfl (by with_reducible assumption)
      | with_reducible apply KeptOpt.ite | with_reducible refine KeptOpt.mapState ?_ (fun _ _ => ?_)
      | with_reducible refine KeptOpt.map (fun _ => ?_) | with_reducible apply KeptOpt.some | with_reducible exact KeptOpt.none
      | with_reducible apply KeptPair.ite | with_reducible apply KeptPair.some | with_reducible exact KeptPair.none
      | (extract_lets +onlyGivenNames x
         first
         | (refine Kept.cut (k := κ) (s := x) ?_ ?_; subst x; rotate_left; intro hx; clear_value x; revert x; intro _ _)
         | (refine KeptOpt.cut (k := κ) (o := x) ?_ ?_; subst x; rotate_left; intro hx; clear_value x; revert x; intro _ _)
         | (refine KeptPair.cut (k := κ) (o := x) ?_ ?_; subst x; rotate_left; intro hx; clear_value x; revert x; intro _ _)
         | (clear_value x; revert x; intro _))
      | dsimp -zeta only | split)

theorem State.ringSend_kept {κ : Fixed} {s : State} (l : Nat) (pk : Packet) (hk : Kept κ s) :
    Kept κ (State.ringSend s l pk) := by
  unfold State.ringSend
  repeat' (first
      | with_reducible assumption | with_reducible apply State.lvQueue_kept | with_reducible apply Kept.ite
      | with_reducible apply Kept.foldl | with_reducible apply Kept.foldl_fst | with_reducible apply Kept.foldl_snd | (intro _ _ _)
      | (intro _ _) | (intro _)
      | (extract_lets +onlyGivenNames x
         first
         | (refine Kept.cut (k := κ) (s := x) ?_ ?_; subst x; rotate_left; intro hx; clear_value x; revert x; intro _ _)
         | (subst x))
      | dsimp -zeta only | split | simp -zeta only [Kept.mk_iff])

theorem State.lvLearn_kept {κ : Fixed} {s : State} (i : SliceId) (bytes : List Nat) (hk : Kept κ s) :
    Kept κ (State.lvLearn s i bytes) := by
  unfold State.lvLearn
  repeat' (first
      | with_reducible assumption | with_reducible apply State.modLv_kept | with_reducible apply State.lvBegin_kept
      | with_reducible apply Kept.ite | with_reducible apply Kept.foldl | with_reducible apply Kept.foldl_fst
      | with_reducible apply Kept.foldl_snd | (intro _ _ _) | (intro _ _) | (intro _) | dsimp -zeta only | split
      | simp -zeta only [Kept.mk_iff])

theorem State.descend_kept {κ : Fixed} {s : State} (from_ : Coord) (pk : Packet) (n0 : Nat) (hk : Kept κ s) :
    Kept κ (State.descend s from_ pk n0) := by
  induction n0 generalizing s with
  | zero => exact hk
  | succ n ih =>
    rw [State.descend]
    repeat' (first
      | with_reducible assumption | with_reducible apply ih | with_reducible apply State.sendPkt_kept
      | with_reducible apply State.ringSend_kept | with_reducible apply Kept.ite
      | (extract_lets +onlyGivenNames x
         first
         | (refine Kept.cut (k := κ) (s := x) ?_ ?_; subst x; rotate_left; intro hx; clear_value x; revert x; intro _ _)
         | (clear_value x; revert x; intro _))
      | dsimp -zeta only | split | simp -zeta only [Kept.mk_iff])

theorem State.takeDescent_kept {κ : Fixed} {s : State} (from_ : Coord) (pk : Packet) (l : Nat) (hk : Kept κ s) :
    Kept κ (State.takeDescent s from_ pk l) := by
  unfold State.takeDescent
  repeat' (first
      | with_reducible assumption | with_reducible apply State.checkFault_kept | with_reducible apply State.refusePiece_kept
      | with_reducible apply State.anchorPiece_kept | with_reducible apply State.lvLearn_kept
      | with_reducible apply State.descend_kept | with_reducible apply Kept.ite | with_reducible apply Kept.foldl
      | with_reducible apply Kept.foldl_fst | with_reducible apply Kept.foldl_snd | (intro _ _ _) | (intro _ _) | (intro _)
      | refine Kept.of_snd (by with_reducible assumption) ?_ | refine Kept.of_fst (by with_reducible assumption) ?_
      | refine KeptPair.of (by with_reducible assumption) ?_ | with_reducible apply KeptOpt.foldl
      | exact KeptOpt.of rfl (by with_reducible assumption) | exact KeptPair.of rfl (by with_reducible assumption)
      | with_reducible apply KeptOpt.ite | with_reducible refine KeptOpt.mapState ?_ (fun _ _ => ?_)
      | with_reducible refine KeptOpt.map (fun _ => ?_) | with_reducible apply KeptOpt.some | with_reducible exact KeptOpt.none
      | with_reducible apply KeptPair.ite | with_reducible apply KeptPair.some | with_reducible exact KeptPair.none
      | (extract_lets +onlyGivenNames x
         first
         | (refine Kept.cut (k := κ) (s := x) ?_ ?_; subst x; rotate_left; intro hx; clear_value x; revert x; intro _ _)
         | (refine Kept.cut1 (k := κ) (s := x) ?_ ?_; subst x; rotate_left; intro hx; clear_value x; revert x; intro _ _)
         | (refine Kept.cut2 (k := κ) (s := x) ?_ ?_; subst x; rotate_left; intro hx; clear_value x; revert x; intro _ _)
         | (refine KeptOpt.cut (k := κ) (o := x) ?_ ?_; subst x; rotate_left; intro hx; clear_value x; revert x; intro _ _)
         | (refine KeptPair.cut (k := κ) (o := x) ?_ ?_; subst x; rotate_left; intro hx; clear_value x; revert x; intro _ _)
         | (clear_value x; revert x; intro _))
      | dsimp -zeta only | split)

theorem State.lvTop_kept {κ : Fixed} {s : State} (p : Nat) (ph : Nat) (i : SliceId) (part : Part) (hk : Kept κ s) :
    Kept κ (State.lvTop s p ph i part) := by
  unfold State.lvTop
  repeat' (first
      | with_reducible assumption | with_reducible apply State.sendPkt_kept | with_reducible apply State.millFlags_kept
      | with_reducible apply State.noteDone_kept | with_reducible apply State.ringSend_kept
      | with_reducible apply State.takeDescent_kept | with_reducible apply Kept.ite | with_reducible apply Kept.foldl
      | with_reducible apply Kept.foldl_fst | with_reducible apply Kept.foldl_snd | (intro _ _ _) | (intro _ _) | (intro _)
      | with_reducible apply KeptOpt.getD | with_reducible apply KeptOpt.foldl | exact KeptOpt.of rfl (by with_reducible assumption)
      | exact KeptPair.of rfl (by with_reducible assumption) | with_reducible apply KeptOpt.ite
      | with_reducible refine KeptOpt.mapState ?_ (fun _ _ => ?_) | with_reducible refine KeptOpt.map (fun _ => ?_)
      | with_reducible apply KeptOpt.some | with_reducible exact KeptOpt.none | with_reducible apply KeptPair.ite
      | with_reducible apply KeptPair.some | with_reducible exact KeptPair.none
      | (extract_lets +onlyGivenNames x
         first
         | (refine Kept.cut (k := κ) (s := x) ?_ ?_; subst x; rotate_left; intro hx; clear_value x; revert x; intro _ _)
         | (refine KeptOpt.cut (k := κ) (o := x) ?_ ?_; subst x; rotate_left; intro hx; clear_value x; revert x; intro _ _)
         | (refine KeptPair.cut (k := κ) (o := x) ?_ ?_; subst x; rotate_left; intro hx; clear_value x; revert x; intro _ _)
         | (clear_value x; revert x; intro _))
      | dsimp -zeta only | split)

theorem State.lvFinish_kept {κ : Fixed} {s : State} (p : Nat) (ph : Nat) (l : Nat) (i : SliceId) (part : Part) (byLease : Bool) (hk : Kept κ s) :
    Kept κ (State.lvFinish s p ph l i part byLease) := by
  unfold State.lvFinish
  repeat' (first
      | with_reducible assumption | with_reducible apply State.pushRec_kept | with_reducible apply State.sendPart_kept
      | with_reducible apply State.noteDone_kept | with_reducible apply State.modLv_kept | with_reducible apply State.bumpLv_kept
      | with_reducible apply State.lvConverted_kept | with_reducible apply State.lvTop_kept | with_reducible apply State.done_kept
      | with_reducible apply Kept.ite | (intro _ _ _) | (intro _ _) | (intro _) | exact KeptOpt.of rfl (by with_reducible assumption)
      | exact KeptPair.of rfl (by with_reducible assumption) | with_reducible apply KeptOpt.ite
      | with_reducible refine KeptOpt.mapState ?_ (fun _ _ => ?_) | with_reducible refine KeptOpt.map (fun _ => ?_)
      | with_reducible apply KeptOpt.some | with_reducible exact KeptOpt.none | with_reducible apply KeptPair.ite
      | with_reducible apply KeptPair.some | with_reducible exact KeptPair.none
      | (extract_lets +onlyGivenNames x
         first
         | (refine Kept.cut (k := κ) (s := x) ?_ ?_; subst x; rotate_left; intro hx; clear_value x; revert x; intro _ _)
         | (refine KeptOpt.cut (k := κ) (o := x) ?_ ?_; subst x; rotate_left; intro hx; clear_value x; revert x; intro _ _)
         | (refine KeptPair.cut (k := κ) (o := x) ?_ ?_; subst x; rotate_left; intro hx; clear_value x; revert x; intro _ _)
         | (clear_value x; revert x; intro _))
      | dsimp -zeta only | split | simp -zeta only [Kept.mk_iff])

theorem State.lvCheck_kept {κ : Fixed} {s : State} (p : Nat) (ph : Nat) (l : Nat) (i : SliceId) (hk : Kept κ s) :
    Kept κ (State.lvCheck s p ph l i) := by
  unfold State.lvCheck
  repeat' (first
      | with_reducible assumption | with_reducible apply State.dropLv_kept | with_reducible apply State.lvFinish_kept
      | with_reducible apply Kept.ite | dsimp -zeta only | split)

theorem State.lvRootMerge_kept {κ : Fixed} {s : State} (p : Nat) (ph : Nat) (l : Nat) (i : SliceId) (q : Part) (src : SrcAddr) (pk : Option Packet) (hk : Kept κ s) :
    KeptOpt κ (State.lvRootMerge s p ph l i q src pk) := by
  unfold State.lvRootMerge
  repeat' (first
      | with_reducible assumption | with_reducible apply State.ctxFailure_kept | with_reducible apply State.refusePiece_kept
      | with_reducible apply State.collNack_kept | with_reducible apply State.bumpLv_kept | with_reducible apply State.dropLv_kept
      | with_reducible apply State.addLv_kept | with_reducible apply State.lvJoin_kept | with_reducible apply State.lvCheck_kept
      | with_reducible apply State.done_kept | with_reducible apply Kept.ite | refine Kept.of_snd (by with_reducible assumption) ?_
      | refine Kept.of_fst (by with_reducible assumption) ?_ | refine KeptPair.of (by with_reducible assumption) ?_
      | with_reducible apply KeptOpt.ite | with_reducible refine KeptOpt.mapState ?_ (fun _ _ => ?_)
      | with_reducible refine KeptOpt.map (fun _ => ?_) | with_reducible apply KeptOpt.some | with_reducible exact KeptOpt.none
      | with_reducible apply KeptOpt.getD | exact KeptOpt.of rfl (by with_reducible assumption)
      | exact KeptPair.of rfl (by with_reducible assumption) | with_reducible apply KeptPair.ite | with_reducible apply KeptPair.some
      | with_reducible exact KeptPair.none
      | (extract_lets +onlyGivenNames x
         first
         | (refine Kept.cut (k := κ) (s := x) ?_ ?_; subst x; rotate_left; intro hx; clear_value x; revert x; intro _ _)
         | (refine Kept.cut1 (k := κ) (s := x) ?_ ?_; subst x; rotate_left; intro hx; clear_value x; revert x; intro _ _)
         | (refine Kept.cut2 (k := κ) (s := x) ?_ ?_; subst x; rotate_left; intro hx; clear_value x; revert x; intro _ _)
         | (refine KeptOpt.cut (k := κ) (o := x) ?_ ?_; subst x; rotate_left; intro hx; clear_value x; revert x; intro _ _)
         | (refine KeptPair.cut (k := κ) (o := x) ?_ ?_; subst x; rotate_left; intro hx; clear_value x; revert x; intro _ _)
         | (clear_value x; revert x; intro _))
      | dsimp -zeta only | split | simp -zeta only [Kept.mk_iff])

theorem State.lvLack_kept {κ : Fixed} {s : State} (p : Nat) (w : LvSlot) (isOver : Bool) (hk : Kept κ s) :
    Kept κ (State.lvLack s p w isOver) := by
  unfold State.lvLack
  repeat' (first
      | with_reducible assumption | with_reducible apply State.owe_kept | with_reducible apply State.lvOwe_kept
      | with_reducible apply State.addLv_kept | with_reducible apply State.lvOnward_kept | with_reducible apply State.lvToRoot_kept
      | with_reducible apply Kept.ite | (intro _ _ _) | (intro _ _) | (intro _)
      | (extract_lets +onlyGivenNames x
         first
         | (refine Kept.cut (k := κ) (s := x) ?_ ?_; subst x; rotate_left; intro hx; clear_value x; revert x; intro _ _)
         | (subst x))
      | dsimp -zeta only | split | simp -zeta only [Kept.mk_iff])

theorem State.lvHalf_kept {κ : Fixed} {s : State} (p : Nat) (w : LvSlot) (isOver : Bool) (hk : Kept κ s) :
    Kept κ (State.lvHalf s p w isOver) := by
  unfold State.lvHalf
  repeat' (first
      | with_reducible assumption | with_reducible apply State.refusePiece_kept | with_reducible apply State.setLvOwn_kept
      | with_reducible apply State.lvOnward_kept | with_reducible apply State.lvToRoot_kept | with_reducible apply State.lvJoin_kept
      | with_reducible apply State.lvLack_kept | with_reducible apply Kept.ite | (intro _ _ _) | (intro _ _) | (intro _)
      | refine Kept.of_snd (by with_reducible assumption) ?_ | refine Kept.of_fst (by with_reducible assumption) ?_
      | refine KeptPair.of (by with_reducible assumption) ?_ | exact KeptOpt.of rfl (by with_reducible assumption)
      | exact KeptPair.of rfl (by with_reducible assumption) | with_reducible apply KeptOpt.ite
      | with_reducible refine KeptOpt.mapState ?_ (fun _ _ => ?_) | with_reducible refine KeptOpt.map (fun _ => ?_)
      | with_reducible apply KeptOpt.some | with_reducible exact KeptOpt.none | with_reducible apply KeptPair.ite
      | with_reducible apply KeptPair.some | with_reducible exact KeptPair.none
      | (extract_lets +onlyGivenNames x
         first
         | (refine Kept.cut (k := κ) (s := x) ?_ ?_; subst x; rotate_left; intro hx; clear_value x; revert x; intro _ _)
         | (refine Kept.cut1 (k := κ) (s := x) ?_ ?_; subst x; rotate_left; intro hx; clear_value x; revert x; intro _ _)
         | (refine Kept.cut2 (k := κ) (s := x) ?_ ?_; subst x; rotate_left; intro hx; clear_value x; revert x; intro _ _)
         | (refine KeptOpt.cut (k := κ) (o := x) ?_ ?_; subst x; rotate_left; intro hx; clear_value x; revert x; intro _ _)
         | (refine KeptPair.cut (k := κ) (o := x) ?_ ?_; subst x; rotate_left; intro hx; clear_value x; revert x; intro _ _)
         | (subst x))
      | dsimp -zeta only | split | simp -zeta only [Kept.mk_iff])

theorem State.lvAvail_kept {κ : Fixed} {s : State} (p : Nat) (ph : Nat) (l : Nat) (i : SliceId) (hk : Kept κ s) :
    Kept κ (State.lvAvail s p ph l i) := by
  unfold State.lvAvail
  repeat' (first
      | with_reducible assumption | with_reducible apply State.setLvOwn_kept | with_reducible apply State.dropLv_kept
      | with_reducible apply State.lvOnward_kept | with_reducible apply State.lvToRoot_kept
      | with_reducible apply State.lvRootMerge_kept | with_reducible apply State.lvHalf_kept | with_reducible apply Kept.ite
      | refine KeptOpt.of (by with_reducible assumption) ?_ | exact KeptOpt.of rfl (by with_reducible assumption)
      | exact KeptPair.of rfl (by with_reducible assumption) | with_reducible apply KeptOpt.ite
      | with_reducible refine KeptOpt.mapState ?_ (fun _ _ => ?_) | with_reducible refine KeptOpt.map (fun _ => ?_)
      | with_reducible apply KeptOpt.some | with_reducible exact KeptOpt.none | with_reducible apply KeptPair.ite
      | with_reducible apply KeptPair.some | with_reducible exact KeptPair.none
      | (extract_lets +onlyGivenNames x
         first
         | (refine Kept.cut (k := κ) (s := x) ?_ ?_; subst x; rotate_left; intro hx; clear_value x; revert x; intro _ _)
         | (refine KeptOpt.cut (k := κ) (o := x) ?_ ?_; subst x; rotate_left; intro hx; clear_value x; revert x; intro _ _)
         | (refine KeptPair.cut (k := κ) (o := x) ?_ ?_; subst x; rotate_left; intro hx; clear_value x; revert x; intro _ _)
         | (clear_value x; revert x; intro _))
      | dsimp -zeta only | split | simp -zeta only [Kept.mk_iff])

theorem State.lvConvert_kept {κ : Fixed} {s : State} (p : Nat) (i : SliceId) (hk : Kept κ s) :
    Kept κ (State.lvConvert s p i) := by
  unfold State.lvConvert
  repeat' (first
      | with_reducible assumption | with_reducible apply State.setLvOwn_kept | with_reducible apply State.lvConverted_kept
      | with_reducible apply State.lvAvail_kept | with_reducible apply Kept.ite | exact KeptOpt.of rfl (by with_reducible assumption)
      | exact KeptPair.of rfl (by with_reducible assumption) | with_reducible apply KeptOpt.ite
      | with_reducible refine KeptOpt.mapState ?_ (fun _ _ => ?_) | with_reducible refine KeptOpt.map (fun _ => ?_)
      | with_reducible apply KeptOpt.some | with_reducible exact KeptOpt.none | with_reducible apply KeptPair.ite
      | with_reducible apply KeptPair.some | with_reducible exact KeptPair.none
      | (extract_lets +onlyGivenNames x
         first
         | (refine Kept.cut (k := κ) (s := x) ?_ ?_; subst x; rotate_left; intro hx; clear_value x; revert x; intro _ _)
         | (refine KeptOpt.cut (k := κ) (o := x) ?_ ?_; subst x; rotate_left; intro hx; clear_value x; revert x; intro _ _)
         | (refine KeptPair.cut (k := κ) (o := x) ?_ ?_; subst x; rotate_left; intro hx; clear_value x; revert x; intro _ _)
         | (clear_value x; revert x; intro _))
      | dsimp -zeta only | split | simp -zeta only [Kept.mk_iff])

theorem State.lvStage_kept {κ : Fixed} {s : State} (p : Nat) (ph : Nat) (l : Nat) (i : SliceId) (q : Part) (hk : Kept κ s) :
    KeptOpt κ (State.lvStage s p ph l i q) := by
  unfold State.lvStage
  repeat' (first
      | with_reducible assumption | with_reducible apply State.refusePiece_kept | with_reducible apply State.setLvOwn_kept
      | with_reducible apply State.lvOwnLate_kept | with_reducible apply State.lvRootMerge_kept
      | with_reducible apply State.lvAvail_kept | with_reducible apply State.lvConvert_kept | with_reducible apply Kept.ite
      | (intro _ _ _) | (intro _ _) | (intro _) | refine KeptOpt.of (by with_reducible assumption) ?_
      | with_reducible apply KeptOpt.ite | with_reducible refine KeptOpt.mapState ?_ (fun _ _ => ?_)
      | with_reducible refine KeptOpt.map (fun _ => ?_) | with_reducible apply KeptOpt.some | with_reducible exact KeptOpt.none
      | with_reducible apply KeptOpt.getD | exact KeptOpt.of rfl (by with_reducible assumption)
      | exact KeptPair.of rfl (by with_reducible assumption) | with_reducible apply KeptPair.ite | with_reducible apply KeptPair.some
      | with_reducible exact KeptPair.none
      | (extract_lets +onlyGivenNames x
         first
         | (refine Kept.cut (k := κ) (s := x) ?_ ?_; subst x; rotate_left; intro hx; clear_value x; revert x; intro _ _)
         | (refine KeptOpt.cut (k := κ) (o := x) ?_ ?_; subst x; rotate_left; intro hx; clear_value x; revert x; intro _ _)
         | (refine KeptPair.cut (k := κ) (o := x) ?_ ?_; subst x; rotate_left; intro hx; clear_value x; revert x; intro _ _)
         | (subst x))
      | dsimp -zeta only | split | simp -zeta only [Kept.mk_iff])

theorem State.lvHalfPiece_kept {κ : Fixed} {s : State} (p : Nat) (ph : Nat) (l : Nat) (i : SliceId) (q : Part) (src : SrcAddr) (hk : Kept κ s) :
    Kept κ (State.lvHalfPiece s p ph l i q src) := by
  unfold State.lvHalfPiece
  repeat' (first
      | with_reducible assumption | with_reducible apply State.refusePiece_kept | with_reducible apply State.dropLv_kept
      | with_reducible apply State.lvJoin_kept | with_reducible apply State.lvHalf_kept | with_reducible apply Kept.ite
      | refine Kept.of_snd (by with_reducible assumption) ?_ | refine Kept.of_fst (by with_reducible assumption) ?_
      | refine KeptPair.of (by with_reducible assumption) ?_ | exact KeptOpt.of rfl (by with_reducible assumption)
      | exact KeptPair.of rfl (by with_reducible assumption) | with_reducible apply KeptOpt.ite
      | with_reducible refine KeptOpt.mapState ?_ (fun _ _ => ?_) | with_reducible refine KeptOpt.map (fun _ => ?_)
      | with_reducible apply KeptOpt.some | with_reducible exact KeptOpt.none | with_reducible apply KeptPair.ite
      | with_reducible apply KeptPair.some | with_reducible exact KeptPair.none
      | (extract_lets +onlyGivenNames x
         first
         | (refine Kept.cut (k := κ) (s := x) ?_ ?_; subst x; rotate_left; intro hx; clear_value x; revert x; intro _ _)
         | (refine Kept.cut1 (k := κ) (s := x) ?_ ?_; subst x; rotate_left; intro hx; clear_value x; revert x; intro _ _)
         | (refine Kept.cut2 (k := κ) (s := x) ?_ ?_; subst x; rotate_left; intro hx; clear_value x; revert x; intro _ _)
         | (refine KeptOpt.cut (k := κ) (o := x) ?_ ?_; subst x; rotate_left; intro hx; clear_value x; revert x; intro _ _)
         | (refine KeptPair.cut (k := κ) (o := x) ?_ ?_; subst x; rotate_left; intro hx; clear_value x; revert x; intro _ _)
         | (clear_value x; revert x; intro _))
      | dsimp -zeta only | split | simp -zeta only [Kept.mk_iff])

theorem State.lvArrive_kept {κ : Fixed} {s : State} (p : Nat) (l : Nat) (i : SliceId) (q : Part) (pk : Packet) (hk : Kept κ s) :
    KeptOpt κ (State.lvArrive s p l i q pk) := by
  unfold State.lvArrive
  repeat' (first
      | with_reducible assumption | with_reducible apply State.lvConverted_kept | with_reducible apply State.lvRootMerge_kept
      | with_reducible apply Kept.ite | (intro _ _ _) | (intro _ _) | (intro _)
      | refine KeptOpt.foldl_bind (KeptOpt.some ?_) (fun _ _ _ => ?_) | refine KeptOpt.bindAny (fun _ => ?_)
      | refine KeptOpt.of (by with_reducible assumption) ?_ | with_reducible apply KeptOpt.ite
      | with_reducible refine KeptOpt.mapState ?_ (fun _ _ => ?_) | with_reducible refine KeptOpt.map (fun _ => ?_)
      | with_reducible apply KeptOpt.some | with_reducible exact KeptOpt.none | exact KeptOpt.of rfl (by with_reducible assumption)
      | exact KeptPair.of rfl (by with_reducible assumption) | with_reducible apply KeptPair.ite | with_reducible apply KeptPair.some
      | with_reducible exact KeptPair.none
      | (extract_lets +onlyGivenNames x
         first
         | (refine Kept.cut (k := κ) (s := x) ?_ ?_; subst x; rotate_left; intro hx; clear_value x; revert x; intro _ _)
         | (refine KeptOpt.cut (k := κ) (o := x) ?_ ?_; subst x; rotate_left; intro hx; clear_value x; revert x; intro _ _)
         | (refine KeptPair.cut (k := κ) (o := x) ?_ ?_; subst x; rotate_left; intro hx; clear_value x; revert x; intro _ _)
         | (clear_value x; revert x; intro _))
      | dsimp -zeta only | split)

theorem State.levelAt_kept {κ : Fixed} {s : State} (p : Nat) (pk : Packet) (hk : Kept κ s) :
    Kept κ (State.levelAt s p pk) := by
  unfold State.levelAt
  repeat' (first
      | with_reducible assumption | with_reducible apply State.takePkt_kept | with_reducible apply State.memInject_kept
      | with_reducible apply State.checkFault_kept | with_reducible apply State.beginEpoch_kept
      | with_reducible apply State.refusePiece_kept | with_reducible apply State.bumpLv_kept | with_reducible apply State.lvBegin_kept
      | with_reducible apply State.lvStage_kept | with_reducible apply State.lvHalfPiece_kept
      | with_reducible apply State.lvArrive_kept | with_reducible apply Kept.ite | with_reducible apply Kept.foldl
      | with_reducible apply Kept.foldl_fst | with_reducible apply Kept.foldl_snd | (intro _ _ _) | (intro _ _) | (intro _)
      | refine Kept.of_snd (by with_reducible assumption) ?_ | refine Kept.of_fst (by with_reducible assumption) ?_
      | refine KeptOpt.of (by with_reducible assumption) ?_ | with_reducible apply KeptOpt.getD | with_reducible apply KeptOpt.foldl
      | exact KeptOpt.of rfl (by with_reducible assumption) | exact KeptPair.of rfl (by with_reducible assumption)
      | with_reducible apply KeptOpt.ite | with_reducible refine KeptOpt.mapState ?_ (fun _ _ => ?_)
      | with_reducible refine KeptOpt.map (fun _ => ?_) | with_reducible apply KeptOpt.some | with_reducible exact KeptOpt.none
      | with_reducible apply KeptPair.ite | with_reducible apply KeptPair.some | with_reducible exact KeptPair.none
      | (extract_lets +onlyGivenNames x
         first
         | (refine Kept.cut (k := κ) (s := x) ?_ ?_; subst x; rotate_left; intro hx; clear_value x; revert x; intro _ _)
         | (refine Kept.cut1 (k := κ) (s := x) ?_ ?_; subst x; rotate_left; intro hx; clear_value x; revert x; intro _ _)
         | (refine Kept.cut2 (k := κ) (s := x) ?_ ?_; subst x; rotate_left; intro hx; clear_value x; revert x; intro _ _)
         | (refine KeptOpt.cut (k := κ) (o := x) ?_ ?_; subst x; rotate_left; intro hx; clear_value x; revert x; intro _ _)
         | (refine KeptPair.cut (k := κ) (o := x) ?_ ?_; subst x; rotate_left; intro hx; clear_value x; revert x; intro _ _)
         | (clear_value x; revert x; intro _))
      | dsimp -zeta only | split)

theorem State.lvWaitExpiry_kept {κ : Fixed} {s : State} (p : Nat) (l : Nat) (i : SliceId) (hk : Kept κ s) :
    Kept κ (State.lvWaitExpiry s p l i) := by
  unfold State.lvWaitExpiry
  repeat' (first
      | with_reducible assumption | with_reducible apply State.dropLv_kept | with_reducible apply State.noteHaltHeld_kept
      | with_reducible apply State.lvHalf_kept | with_reducible apply Kept.ite | with_reducible apply Kept.foldl
      | with_reducible apply Kept.foldl_fst | with_reducible apply Kept.foldl_snd | (intro _ _ _) | (intro _ _) | (intro _)
      | with_reducible apply KeptOpt.foldl | dsimp -zeta only | split | with_reducible refine Kept.mk_time ?_ (Nat.le_max_left _ _)
      | with_reducible refine Kept.mk_time ?_ (Nat.le_add_right _ _) | simp -zeta only [Kept.mk_iff])

theorem State.lvOrphan_kept {κ : Fixed} {s : State} (p : Nat) (l : Nat) (i : SliceId) (hk : Kept κ s) :
    Kept κ (State.lvOrphan s p l i) := by
  unfold State.lvOrphan
  repeat' (first
      | with_reducible assumption | with_reducible apply State.bumpLv_kept | with_reducible apply State.setLvOwn_kept
      | with_reducible apply State.dropLv_kept | with_reducible apply State.noteHaltHeld_kept
      | with_reducible apply State.lvToRoot_kept | with_reducible apply State.lvOwnLate_kept | with_reducible apply Kept.ite
      | with_reducible apply Kept.foldl | with_reducible apply Kept.foldl_fst | with_reducible apply Kept.foldl_snd | (intro _ _ _)
      | (intro _ _) | (intro _) | with_reducible apply KeptOpt.foldl | exact KeptOpt.of rfl (by with_reducible assumption)
      | exact KeptPair.of rfl (by with_reducible assumption) | with_reducible apply KeptOpt.ite
      | with_reducible refine KeptOpt.mapState ?_ (fun _ _ => ?_) | with_reducible refine KeptOpt.map (fun _ => ?_)
      | with_reducible apply KeptOpt.some | with_reducible exact KeptOpt.none | with_reducible apply KeptPair.ite
      | with_reducible apply KeptPair.some | with_reducible exact KeptPair.none
      | (extract_lets +onlyGivenNames x
         first
         | (refine Kept.cut (k := κ) (s := x) ?_ ?_; subst x; rotate_left; intro hx; clear_value x; revert x; intro _ _)
         | (refine KeptOpt.cut (k := κ) (o := x) ?_ ?_; subst x; rotate_left; intro hx; clear_value x; revert x; intro _ _)
         | (refine KeptPair.cut (k := κ) (o := x) ?_ ?_; subst x; rotate_left; intro hx; clear_value x; revert x; intro _ _)
         | (clear_value x; revert x; intro _))
      | dsimp -zeta only | split | with_reducible refine Kept.mk_time ?_ (Nat.le_max_left _ _)
      | with_reducible refine Kept.mk_time ?_ (Nat.le_add_right _ _) | simp -zeta only [Kept.mk_iff])

theorem State.lvRootExpiry_kept {κ : Fixed} {s : State} (p : Nat) (ph : Nat) (l : Nat) (i : SliceId) (hk : Kept κ s) :
    Kept κ (State.lvRootExpiry s p ph l i) := by
  unfold State.lvRootExpiry
  repeat' (first
      | with_reducible assumption | with_reducible apply State.dropLv_kept | with_reducible apply State.noteHaltHeld_kept
      | with_reducible apply State.lvFinish_kept | with_reducible apply Kept.ite | exact KeptOpt.of rfl (by with_reducible assumption)
      | exact KeptPair.of rfl (by with_reducible assumption) | with_reducible apply KeptOpt.ite
      | with_reducible refine KeptOpt.mapState ?_ (fun _ _ => ?_) | with_reducible refine KeptOpt.map (fun _ => ?_)
      | with_reducible apply KeptOpt.some | with_reducible exact KeptOpt.none | with_reducible apply KeptPair.ite
      | with_reducible apply KeptPair.some | with_reducible exact KeptPair.none
      | (extract_lets +onlyGivenNames x
         first
         | (refine Kept.cut (k := κ) (s := x) ?_ ?_; subst x; rotate_left; intro hx; clear_value x; revert x; intro _ _)
         | (refine KeptOpt.cut (k := κ) (o := x) ?_ ?_; subst x; rotate_left; intro hx; clear_value x; revert x; intro _ _)
         | (refine KeptPair.cut (k := κ) (o := x) ?_ ?_; subst x; rotate_left; intro hx; clear_value x; revert x; intro _ _)
         | (clear_value x; revert x; intro _))
      | dsimp -zeta only | split | with_reducible refine Kept.mk_time ?_ (Nat.le_max_left _ _)
      | with_reducible refine Kept.mk_time ?_ (Nat.le_add_right _ _) | simp -zeta only [Kept.mk_iff])

theorem State.lvLeaseExpiry_kept {κ : Fixed} {s : State} (p : Nat) (l : Nat) (i : SliceId) (hk : Kept κ s) :
    Kept κ (State.lvLeaseExpiry s p l i) := by
  unfold State.lvLeaseExpiry
  repeat' (first
      | with_reducible assumption | with_reducible apply State.lvRootExpiry_kept | with_reducible apply Kept.ite | dsimp -zeta only
      | split)

theorem State.lvAnchorExpiry_kept {κ : Fixed} {s : State} (p : Nat) (l : Nat) (i : SliceId) (hk : Kept κ s) :
    Kept κ (State.lvAnchorExpiry s p l i) := by
  unfold State.lvAnchorExpiry
  repeat' (first
      | with_reducible assumption | with_reducible apply State.lvRootExpiry_kept | with_reducible apply Kept.ite | dsimp -zeta only
      | split)

theorem State.lvDrain_kept {κ : Fixed} {s : State} (hk : Kept κ s) :
    Kept κ (State.lvDrain s) := by
  unfold State.lvDrain
  repeat' (first
      | with_reducible assumption | with_reducible apply State.modLv_kept | with_reducible apply State.lvToRoot_kept
      | with_reducible apply State.lvOwnLate_kept | with_reducible apply Kept.ite | with_reducible apply Kept.foldl
      | with_reducible apply Kept.foldl_fst | with_reducible apply Kept.foldl_snd | (intro _ _ _) | (intro _ _) | (intro _)
      | with_reducible apply KeptOpt.foldl | exact KeptOpt.of rfl (by with_reducible assumption)
      | exact KeptPair.of rfl (by with_reducible assumption) | with_reducible apply KeptOpt.ite
      | with_reducible refine KeptOpt.mapState ?_ (fun _ _ => ?_) | with_reducible refine KeptOpt.map (fun _ => ?_)
      | with_reducible apply KeptOpt.some | with_reducible exact KeptOpt.none | with_reducible apply KeptPair.ite
      | with_reducible apply KeptPair.some | with_reducible exact KeptPair.none
      | (extract_lets +onlyGivenNames x
         first
         | (refine Kept.cut (k := κ) (s := x) ?_ ?_; subst x; rotate_left; intro hx; clear_value x; revert x; intro _ _)
         | (refine KeptOpt.cut (k := κ) (o := x) ?_ ?_; subst x; rotate_left; intro hx; clear_value x; revert x; intro _ _)
         | (refine KeptPair.cut (k := κ) (o := x) ?_ ?_; subst x; rotate_left; intro hx; clear_value x; revert x; intro _ _)
         | (clear_value x; revert x; intro _))
      | dsimp -zeta only | split | simp -zeta only [Kept.mk_iff])

theorem State.descentOn_kept {κ : Fixed} {s : State} (p : Nat) (pk : Packet) (l : Nat) (hk : Kept κ s) :
    Kept κ (State.descentOn s p pk l) := by
  unfold State.descentOn
  repeat' (first
      | with_reducible assumption | with_reducible apply State.lvQueue_kept | with_reducible apply Kept.ite
      | exact KeptOpt.of rfl (by with_reducible assumption) | exact KeptPair.of rfl (by with_reducible assumption)
      | with_reducible apply KeptOpt.ite | with_reducible refine KeptOpt.mapState ?_ (fun _ _ => ?_)
      | with_reducible refine KeptOpt.map (fun _ => ?_) | with_reducible apply KeptOpt.some | with_reducible exact KeptOpt.none
      | with_reducible apply KeptPair.ite | with_reducible apply KeptPair.some | with_reducible exact KeptPair.none
      | (extract_lets +onlyGivenNames x
         first
         | (refine Kept.cut (k := κ) (s := x) ?_ ?_; subst x; rotate_left; intro hx; clear_value x; revert x; intro _ _)
         | (refine KeptOpt.cut (k := κ) (o := x) ?_ ?_; subst x; rotate_left; intro hx; clear_value x; revert x; intro _ _)
         | (refine KeptPair.cut (k := κ) (o := x) ?_ ?_; subst x; rotate_left; intro hx; clear_value x; revert x; intro _ _)
         | (clear_value x; revert x; intro _))
      | dsimp -zeta only | split)

theorem State.resultDescend_kept {κ : Fixed} {s : State} (p : Nat) (pk : Packet) (hk : Kept κ s) :
    Kept κ (State.resultDescend s p pk) := by
  unfold State.resultDescend
  repeat' (first
      | with_reducible assumption | with_reducible apply State.takePkt_kept | with_reducible apply State.bumpLv_kept
      | with_reducible apply State.ringSend_kept | with_reducible apply State.takeDescent_kept
      | with_reducible apply State.descentOn_kept | with_reducible apply Kept.ite
      | (extract_lets +onlyGivenNames x
         first
         | (refine Kept.cut (k := κ) (s := x) ?_ ?_; subst x; rotate_left; intro hx; clear_value x; revert x; intro _ _)
         | (clear_value x; revert x; intro _))
      | dsimp -zeta only | split | simp -zeta only [Kept.mk_iff])

theorem State.levelDown_kept {κ : Fixed} {s : State} (c : Coord) (pk : Packet) (hk : Kept κ s) :
    Kept κ (State.levelDown s c pk) := by
  unfold State.levelDown
  repeat' (first
      | with_reducible assumption | with_reducible apply State.takePkt_kept | with_reducible apply State.sendPkt_kept
      | with_reducible apply Kept.ite
      | (extract_lets +onlyGivenNames x
         first
         | (refine Kept.cut (k := κ) (s := x) ?_ ?_; subst x; rotate_left; intro hx; clear_value x; revert x; intro _ _)
         | (clear_value x; revert x; intro _))
      | dsimp -zeta only | split | simp -zeta only [Kept.mk_iff])

theorem State.anchorArrive_kept {κ : Fixed} {s : State} (c : Coord) (pk : Packet) (hk : Kept κ s) :
    Kept κ (State.anchorArrive s c pk) := by
  unfold State.anchorArrive
  repeat' (first
      | with_reducible assumption | with_reducible apply State.takePkt_kept | with_reducible apply State.anchorAt_kept
      | with_reducible apply State.systemRelease_kept | with_reducible apply State.levelDown_kept | with_reducible apply Kept.ite
      | (extract_lets +onlyGivenNames x
         first
         | (refine Kept.cut (k := κ) (s := x) ?_ ?_; subst x; rotate_left; intro hx; clear_value x; revert x; intro _ _)
         | (clear_value x; revert x; intro _))
      | dsimp -zeta only | split)

theorem State.resultArrive_kept {κ : Fixed} {s : State} (c : Coord) (pk : Packet) (hk : Kept κ s) :
    Kept κ (State.resultArrive s c pk) := by
  unfold State.resultArrive
  repeat' (first
      | with_reducible assumption | with_reducible apply State.takePkt_kept | with_reducible apply State.resultAt_kept
      | with_reducible apply State.levelDown_kept | with_reducible apply Kept.ite
      | (extract_lets +onlyGivenNames x
         first
         | (refine Kept.cut (k := κ) (s := x) ?_ ?_; subst x; rotate_left; intro hx; clear_value x; revert x; intro _ _)
         | (clear_value x; revert x; intro _))
      | dsimp -zeta only | split | simp -zeta only [Kept.mk_iff])

theorem State.exchangeJoin_kept {κ : Fixed} {s : State} (ctx : Nat) (epoch : Nat) (hk : Kept κ s) :
    Kept κ (State.exchangeJoin s ctx epoch) := by
  unfold State.exchangeJoin
  repeat' (first
      | with_reducible assumption | with_reducible apply State.sendPkt_kept | with_reducible apply State.modColl_kept
      | with_reducible apply State.done_kept | with_reducible apply Kept.ite | (intro _ _ _) | (intro _ _) | (intro _)
      | exact KeptOpt.of rfl (by with_reducible assumption) | exact KeptPair.of rfl (by with_reducible assumption)
      | with_reducible apply KeptOpt.ite | with_reducible refine KeptOpt.mapState ?_ (fun _ _ => ?_)
      | with_reducible refine KeptOpt.map (fun _ => ?_) | with_reducible apply KeptOpt.some | with_reducible exact KeptOpt.none
      | with_reducible apply KeptPair.ite | with_reducible apply KeptPair.some | with_reducible exact KeptPair.none
      | (extract_lets +onlyGivenNames x
         first
         | (refine Kept.cut (k := κ) (s := x) ?_ ?_; subst x; rotate_left; intro hx; clear_value x; revert x; intro _ _)
         | (refine KeptOpt.cut (k := κ) (o := x) ?_ ?_; subst x; rotate_left; intro hx; clear_value x; revert x; intro _ _)
         | (refine KeptPair.cut (k := κ) (o := x) ?_ ?_; subst x; rotate_left; intro hx; clear_value x; revert x; intro _ _)
         | (clear_value x; revert x; intro _))
      | dsimp -zeta only | split | simp -zeta only [Kept.mk_iff])

theorem State.packetEnter_kept {κ : Fixed} {s : State} (p : Nat) (pk : Packet) (hk : Kept κ s) :
    Kept κ (State.packetEnter s p pk) := by
  unfold State.packetEnter
  repeat' (first
      | with_reducible assumption | with_reducible apply State.raiseNack_kept | with_reducible apply State.sendPkt_kept
      | with_reducible apply State.rxTake_kept | with_reducible apply State.sluiceDrop_kept | with_reducible apply State.bumpLv_kept
      | with_reducible apply Kept.ite | exact KeptOpt.of rfl (by with_reducible assumption)
      | exact KeptPair.of rfl (by with_reducible assumption) | with_reducible apply KeptOpt.ite
      | with_reducible refine KeptOpt.mapState ?_ (fun _ _ => ?_) | with_reducible refine KeptOpt.map (fun _ => ?_)
      | with_reducible apply KeptOpt.some | with_reducible exact KeptOpt.none | with_reducible apply KeptPair.ite
      | with_reducible apply KeptPair.some | with_reducible exact KeptPair.none
      | (extract_lets +onlyGivenNames x
         first
         | (refine Kept.cut (k := κ) (s := x) ?_ ?_; subst x; rotate_left; intro hx; clear_value x; revert x; intro _ _)
         | (refine KeptOpt.cut (k := κ) (o := x) ?_ ?_; subst x; rotate_left; intro hx; clear_value x; revert x; intro _ _)
         | (refine KeptPair.cut (k := κ) (o := x) ?_ ?_; subst x; rotate_left; intro hx; clear_value x; revert x; intro _ _)
         | (clear_value x; revert x; intro _))
      | dsimp -zeta only | split | simp -zeta only [Kept.mk_iff])

theorem State.transitEnter_kept {κ : Fixed} {s : State} (p : Nat) (pk : Packet) (hk : Kept κ s) :
    Kept κ (State.transitEnter s p pk) := by
  unfold State.transitEnter
  repeat' (first
      | with_reducible assumption | with_reducible apply State.transitAt_kept | with_reducible apply State.packetEnter_kept
      | with_reducible apply Kept.ite | dsimp -zeta only | split)

end Sys2Proof.Machine
end

