-- ==== Sys2Proof/Laws/KeptFenceOps.lean ====
section
/-! SUPPORT. Every operation of Machine/FenceOps.lean keeps the build, the queue and the canonical form. -/

namespace Sys2Proof.Machine

set_option linter.all false

theorem State.fenceLane_kept {κ : Fixed} {s : State} (b : FaultBlock) (hk : Kept κ s) :
    Kept κ (State.fenceLane s b) := by
  unfold State.fenceLane
  repeat' (first
      | with_reducible assumption | with_reducible apply State.setReg_kept | with_reducible apply State.faultEvent_kept
      | with_reducible apply State.faultLive_kept | with_reducible apply State.decideFence_kept | with_reducible apply Kept.ite
      | (extract_lets +onlyGivenNames x
         first
         | (refine Kept.cut (k := κ) (s := x) ?_ ?_; subst x; rotate_left; intro hx; clear_value x; revert x; intro _ _)
         | (clear_value x; revert x; intro _))
      | dsimp -zeta only | split)

theorem State.fencePort_kept {κ : Fixed} {s : State} (b : FaultBlock) (p : Nat) (hk : Kept κ s) :
    Kept κ (State.fencePort s b p) := by
  unfold State.fencePort
  repeat' (first
      | with_reducible assumption | with_reducible apply State.setReg_kept | with_reducible apply State.faultEvent_kept
      | with_reducible apply State.faultLive_kept | with_reducible apply State.portDown_kept
      | with_reducible apply State.relayOff_kept | with_reducible apply State.modLv_kept | with_reducible apply Kept.ite
      | (intro _ _ _) | (intro _ _) | (intro _)
      | (extract_lets +onlyGivenNames x
         first
         | (refine Kept.cut (k := κ) (s := x) ?_ ?_; subst x; rotate_left; intro hx; clear_value x; revert x; intro _ _)
         | (clear_value x; revert x; intro _))
      | dsimp -zeta only | split | simp -zeta only [Kept.mk_iff])

theorem State.fieldThreshold_kept {κ : Fixed} {s : State} (b : FaultBlock) (hk : Kept κ s) :
    Kept κ (State.fieldThreshold s b) := by
  unfold State.fieldThreshold
  repeat' (first
      | with_reducible assumption | with_reducible apply State.faultEvent_kept | with_reducible apply State.faultLive_kept
      | with_reducible apply State.suspect_kept | with_reducible apply Kept.ite | dsimp -zeta only | split)

theorem State.fenceOne_kept {κ : Fixed} {s : State} (b : FaultBlock) (hk : Kept κ s) :
    Kept κ (State.fenceOne s b) := by
  unfold State.fenceOne
  repeat' (first
      | with_reducible assumption | with_reducible apply State.fenceLane_kept | with_reducible apply State.fencePort_kept
      | with_reducible apply State.fieldThreshold_kept | with_reducible apply Kept.ite
      | exact KeptOpt.of rfl (by with_reducible assumption) | exact KeptPair.of rfl (by with_reducible assumption)
      | with_reducible apply KeptOpt.ite | with_reducible refine KeptOpt.mapState ?_ (fun _ _ => ?_)
      | with_reducible refine KeptOpt.map (fun _ => ?_) | with_reducible apply KeptOpt.some | with_reducible exact KeptOpt.none
      | with_reducible apply KeptPair.ite | with_reducible apply KeptPair.some | with_reducible exact KeptPair.none
      | (extract_lets +onlyGivenNames x
         first
         | (refine Kept.cut (k := κ) (s := x) ?_ ?_; subst x; rotate_left; intro hx; clear_value x; revert x; intro _ _)
         | (refine KeptOpt.cut (k := κ) (o := x) ?_ ?_; subst x; rotate_left; intro hx; clear_value x; revert x; intro _ _)
         | (refine KeptPair.cut (k := κ) (o := x) ?_ ?_; subst x; rotate_left; intro hx; clear_value x; revert x; intro _ _)
         | (clear_value x; revert x; intro _))
      | dsimp -zeta only | split | simp -zeta only [Kept.mk_iff])

theorem State.settle_kept {κ : Fixed} {s : State} (hk : Kept κ s) :
    Kept κ (State.settle s) := by
  unfold State.settle
  repeat' (first
      | with_reducible assumption | with_reducible apply State.fenceOne_kept | with_reducible apply Kept.ite
      | with_reducible apply Kept.foldl | with_reducible apply Kept.foldl_fst | with_reducible apply Kept.foldl_snd | (intro _ _ _)
      | (intro _ _) | (intro _) | dsimp -zeta only | split)

theorem State.landInject_kept {κ : Fixed} {s : State} (x : Site) (p : Packet) (hk : Kept κ s) :
    Kept κ (State.landInject s x p).2 := by
  unfold State.landInject
  repeat' (first
      | with_reducible assumption | with_reducible apply State.takePkt_kept | with_reducible apply State.memInject_kept
      | with_reducible apply Kept.ite | with_reducible apply Kept.ite1 | with_reducible apply Kept.ite2
      | refine Kept.of_snd (by with_reducible assumption) ?_ | refine Kept.of_fst (by with_reducible assumption) ?_
      | (extract_lets +onlyGivenNames x
         first
         | (refine Kept.cut (k := κ) (s := x) ?_ ?_; subst x; rotate_left; intro hx; clear_value x; revert x; intro _ _)
         | (refine Kept.cut1 (k := κ) (s := x) ?_ ?_; subst x; rotate_left; intro hx; clear_value x; revert x; intro _ _)
         | (refine Kept.cut2 (k := κ) (s := x) ?_ ?_; subst x; rotate_left; intro hx; clear_value x; revert x; intro _ _)
         | (clear_value x; revert x; intro _))
      | dsimp -zeta only | split | simp -zeta only [Kept.mk_iff])

theorem State.fenceUnit_kept {κ : Fixed} {s : State} (h : Coord) (hk : Kept κ s) :
    Kept κ (State.fenceUnit s h) := by
  unfold State.fenceUnit
  repeat' (first
      | with_reducible assumption | with_reducible apply State.modPort_kept | with_reducible apply State.fenceRouter_kept
      | with_reducible apply State.laneLost_kept | with_reducible apply Kept.ite | with_reducible apply Kept.foldl
      | with_reducible apply Kept.foldl_fst | with_reducible apply Kept.foldl_snd | (intro _ _ _) | (intro _ _) | (intro _)
      | (extract_lets +onlyGivenNames x
         first
         | (refine Kept.cut (k := κ) (s := x) ?_ ?_; subst x; rotate_left; intro hx; clear_value x; revert x; intro _ _)
         | (clear_value x; revert x; intro _))
      | dsimp -zeta only | split | simp -zeta only [Kept.mk_iff])

end Sys2Proof.Machine
end

