-- ==== Sys2Proof/Laws/KeptDropOps.lean ====
section
/-! SUPPORT. Every operation of Machine/DropOps.lean keeps the build, the queue and the canonical form. -/

namespace Sys2Proof.Machine

set_option linter.all false

theorem State.bumpDrop_kept {κ : Fixed} {s : State} (st : Nat) (d : Nat) (sub : Nat) (k : Nat) (hk : Kept κ s) :
    Kept κ (State.bumpDrop s st d sub k) := by
  unfold State.bumpDrop
  repeat' (first
      | with_reducible assumption | with_reducible apply State.bump_kept | with_reducible apply Kept.ite | dsimp -zeta only | split)

theorem State.bumpStack_kept {κ : Fixed} {s : State} (st : Nat) (sub : Nat) (k : Nat) (hk : Kept κ s) :
    Kept κ (State.bumpStack s st sub k) := by
  unfold State.bumpStack
  repeat' (first
      | with_reducible assumption | with_reducible apply State.bump_kept | with_reducible apply Kept.ite | dsimp -zeta only | split)

theorem State.countTagWaits_kept {κ : Fixed} {s : State} (st : Nat) (d : Nat) (hk : Kept κ s) :
    Kept κ (State.countTagWaits s st d) := by
  unfold State.countTagWaits
  repeat' (first
      | with_reducible assumption | with_reducible apply State.modDrop_kept | with_reducible apply State.bumpDrop_kept
      | with_reducible apply Kept.ite | (intro _ _ _) | (intro _ _) | (intro _)
      | (extract_lets +onlyGivenNames x
         first
         | (refine Kept.cut (k := κ) (s := x) ?_ ?_; subst x; rotate_left; intro hx; clear_value x; revert x; intro _ _)
         | (clear_value x; revert x; intro _))
      | dsimp -zeta only | split | simp -zeta only [Kept.mk_iff])

theorem State.issue_kept {κ : Fixed} {s : State} (st : Nat) (d : Nat) (ts : List Txn) (hk : Kept κ s) :
    Kept κ (State.issue s st d ts) := by
  unfold State.issue
  repeat' (first
      | with_reducible assumption | with_reducible apply State.modDrop_kept | with_reducible apply State.countTagWaits_kept
      | with_reducible apply Kept.ite | (intro _ _ _) | (intro _ _) | (intro _)
      | (extract_lets +onlyGivenNames x
         first
         | (refine Kept.cut (k := κ) (s := x) ?_ ?_; subst x; rotate_left; intro hx; clear_value x; revert x; intro _ _)
         | (clear_value x; revert x; intro _))
      | dsimp -zeta only | split | simp -zeta only [Kept.mk_iff])

theorem State.dropGetSend_kept {κ : Fixed} {s : State} (st : Nat) (d : Nat) (g : DropGet) (hk : Kept κ s) :
    Kept κ (State.dropGetSend s st d g) := by
  unfold State.dropGetSend
  repeat' (first
      | with_reducible assumption | with_reducible apply State.modDrop_kept | with_reducible apply State.sendPkt_kept
      | with_reducible apply State.replyAddr_kept | with_reducible apply Kept.ite | with_reducible apply Kept.foldl
      | with_reducible apply Kept.foldl_fst | with_reducible apply Kept.foldl_snd | (intro _ _ _) | (intro _ _) | (intro _)
      | refine Kept.of_snd (by with_reducible assumption) ?_ | refine Kept.of_fst (by with_reducible assumption) ?_
      | with_reducible apply KeptOpt.getD
      | (extract_lets +onlyGivenNames x
         first
         | (refine Kept.cut (k := κ) (s := x) ?_ ?_; subst x; rotate_left; intro hx; clear_value x; revert x; intro _ _)
         | (refine Kept.cut1 (k := κ) (s := x) ?_ ?_; subst x; rotate_left; intro hx; clear_value x; revert x; intro _ _)
         | (refine Kept.cut2 (k := κ) (s := x) ?_ ?_; subst x; rotate_left; intro hx; clear_value x; revert x; intro _ _)
         | (subst x))
      | dsimp -zeta only | split | simp -zeta only [Kept.mk_iff])

theorem State.dropGetReq_kept {κ : Fixed} {s : State} (st : Nat) (d : Nat) (p : Packet) (t : TransferTail) (hk : Kept κ s) :
    Kept κ (State.dropGetReq s st d p t) := by
  unfold State.dropGetReq
  repeat' (first
      | with_reducible assumption | with_reducible apply State.takePkt_kept | with_reducible apply State.raiseNack_kept
      | with_reducible apply State.modDrop_kept | with_reducible apply State.issue_kept | with_reducible apply Kept.ite
      | (intro _ _ _) | (intro _ _) | (intro _)
      | (extract_lets +onlyGivenNames x
         first
         | (refine Kept.cut (k := κ) (s := x) ?_ ?_; subst x; rotate_left; intro hx; clear_value x; revert x; intro _ _)
         | (clear_value x; revert x; intro _))
      | dsimp -zeta only | split | simp -zeta only [Kept.mk_iff])

theorem State.dropReserve_kept {κ : Fixed} {s : State} (st : Nat) (d : Nat) (p : Packet) (t : TransferTail) (hk : Kept κ s) :
    Kept κ (State.dropReserve s st d p t) := by
  unfold State.dropReserve
  repeat' (first
      | with_reducible assumption | with_reducible apply State.takePkt_kept | with_reducible apply State.raiseNack_kept
      | with_reducible apply State.reserveReceive_kept | with_reducible apply State.bumpDrop_kept
      | with_reducible apply State.served_kept | with_reducible apply Kept.ite | exact KeptOpt.of rfl (by with_reducible assumption)
      | exact KeptPair.of rfl (by with_reducible assumption) | with_reducible apply KeptOpt.ite
      | with_reducible refine KeptOpt.mapState ?_ (fun _ _ => ?_) | with_reducible refine KeptOpt.map (fun _ => ?_)
      | with_reducible apply KeptOpt.some | with_reducible exact KeptOpt.none | with_reducible apply KeptPair.ite
      | with_reducible apply KeptPair.some | with_reducible exact KeptPair.none
      | (extract_lets +onlyGivenNames x
         first
         | (refine Kept.cut (k := κ) (s := x) ?_ ?_; subst x; rotate_left; intro hx; clear_value x; revert x; intro _ _)
         | (refine KeptOpt.cut (k := κ) (o := x) ?_ ?_; subst x; rotate_left; intro hx; clear_value x; revert x; intro _ _)
         | (refine KeptPair.cut (k := κ) (o := x) ?_ ?_; subst x; rotate_left; intro hx; clear_value x; revert x; intro _ _)
         | (clear_value x; revert x; intro _))
      | dsimp -zeta only | split)

theorem State.dropGrant_kept {κ : Fixed} {s : State} (st : Nat) (d : Nat) (hk : Kept κ s) :
    Kept κ (State.dropGrant s st d) := by
  unfold State.dropGrant
  repeat' (first
      | with_reducible assumption | with_reducible apply State.modDrop_kept | with_reducible apply State.grantHead_kept
      | with_reducible apply Kept.ite | (intro _ _ _) | (intro _ _) | (intro _)
      | (extract_lets +onlyGivenNames x
         first
         | (refine Kept.cut (k := κ) (s := x) ?_ ?_; subst x; rotate_left; intro hx; clear_value x; revert x; intro _ _)
         | (clear_value x; revert x; intro _))
      | dsimp -zeta only | split | simp -zeta only [Kept.mk_iff])

theorem State.dropPutData_kept {κ : Fixed} {s : State} (st : Nat) (d : Nat) (p : Packet) (t : TransferTail) (hk : Kept κ s) :
    Kept κ (State.dropPutData s st d p t) := by
  unfold State.dropPutData
  repeat' (first
      | with_reducible assumption | with_reducible apply State.takePkt_kept | with_reducible apply State.raiseNack_kept
      | with_reducible apply State.modLanding_kept | with_reducible apply State.bumpLanding_kept
      | with_reducible apply State.latePkt_kept | with_reducible apply State.checkFault_kept
      | with_reducible apply State.failLanding_kept | with_reducible apply State.issue_kept | with_reducible apply Kept.ite
      | (intro _ _ _) | (intro _ _) | (intro _)
      | (extract_lets +onlyGivenNames x
         first
         | (refine Kept.cut (k := κ) (s := x) ?_ ?_; subst x; rotate_left; intro hx; clear_value x; revert x; intro _ _)
         | (clear_value x; revert x; intro _))
      | dsimp -zeta only | split | simp -zeta only [Kept.mk_iff])

theorem State.dropFilled_kept {κ : Fixed} {s : State} (st : Nat) (d : Nat) (k : RsvKey) (hk : Kept κ s) :
    Kept κ (State.dropFilled s st d k) := by
  unfold State.dropFilled
  repeat' (first
      | with_reducible assumption | with_reducible apply State.modLanding_kept | with_reducible apply State.sendDelivered_kept
      | with_reducible apply Kept.ite | (intro _ _ _) | (intro _ _) | (intro _) | exact KeptOpt.of rfl (by with_reducible assumption)
      | exact KeptPair.of rfl (by with_reducible assumption) | with_reducible apply KeptOpt.ite
      | with_reducible refine KeptOpt.mapState ?_ (fun _ _ => ?_) | with_reducible refine KeptOpt.map (fun _ => ?_)
      | with_reducible apply KeptOpt.some | with_reducible exact KeptOpt.none | with_reducible apply KeptPair.ite
      | with_reducible apply KeptPair.some | with_reducible exact KeptPair.none
      | (extract_lets +onlyGivenNames x
         first
         | (refine Kept.cut (k := κ) (s := x) ?_ ?_; subst x; rotate_left; intro hx; clear_value x; revert x; intro _ _)
         | (refine KeptOpt.cut (k := κ) (o := x) ?_ ?_; subst x; rotate_left; intro hx; clear_value x; revert x; intro _ _)
         | (refine KeptPair.cut (k := κ) (o := x) ?_ ?_; subst x; rotate_left; intro hx; clear_value x; revert x; intro _ _)
         | (clear_value x; revert x; intro _))
      | dsimp -zeta only | split)

theorem State.dropExpire_kept {κ : Fixed} {s : State} (st : Nat) (d : Nat) (k : RsvKey) (hk : Kept κ s) :
    Kept κ (State.dropExpire s st d k) := by
  unfold State.dropExpire
  repeat' (first
      | with_reducible assumption | with_reducible apply State.awaitFt_kept | with_reducible apply State.countEvent_kept
      | with_reducible apply State.ringEvent_kept | with_reducible apply State.sendSig_kept
      | with_reducible apply State.modLanding_kept | with_reducible apply State.bumpLanding_kept | with_reducible apply Kept.ite
      | (intro _ _ _) | (intro _ _) | (intro _) | exact KeptOpt.of rfl (by with_reducible assumption)
      | exact KeptPair.of rfl (by with_reducible assumption) | with_reducible apply KeptOpt.ite
      | with_reducible refine KeptOpt.mapState ?_ (fun _ _ => ?_) | with_reducible refine KeptOpt.map (fun _ => ?_)
      | with_reducible apply KeptOpt.some | with_reducible exact KeptOpt.none | with_reducible apply KeptPair.ite
      | with_reducible apply KeptPair.some | with_reducible exact KeptPair.none
      | (extract_lets +onlyGivenNames x
         first
         | (refine Kept.cut (k := κ) (s := x) ?_ ?_; subst x; rotate_left; intro hx; clear_value x; revert x; intro _ _)
         | (refine KeptOpt.cut (k := κ) (o := x) ?_ ?_; subst x; rotate_left; intro hx; clear_value x; revert x; intro _ _)
         | (refine KeptPair.cut (k := κ) (o := x) ?_ ?_; subst x; rotate_left; intro hx; clear_value x; revert x; intro _ _)
         | (clear_value x; revert x; intro _))
      | dsimp -zeta only | split)

theorem State.coalRead_kept {κ : Fixed} {s : State} (st : Nat) (d : Nat) (e : Coal) (hk : Kept κ s) :
    Kept κ (State.coalRead s st d e) := by
  unfold State.coalRead
  repeat' (first
      | with_reducible assumption | with_reducible apply State.modDrop_kept | with_reducible apply State.bumpStack_kept
      | with_reducible apply State.issue_kept | with_reducible apply Kept.ite | (intro _ _ _) | (intro _ _) | (intro _)
      | exact KeptOpt.of rfl (by with_reducible assumption) | exact KeptPair.of rfl (by with_reducible assumption)
      | with_reducible apply KeptOpt.ite | with_reducible refine KeptOpt.mapState ?_ (fun _ _ => ?_)
      | with_reducible refine KeptOpt.map (fun _ => ?_) | with_reducible apply KeptOpt.some | with_reducible exact KeptOpt.none
      | with_reducible apply KeptPair.ite | with_reducible apply KeptPair.some | with_reducible exact KeptPair.none
      | (extract_lets +onlyGivenNames x
         first
         | (refine Kept.cut (k := κ) (s := x) ?_ ?_; subst x; rotate_left; intro hx; clear_value x; revert x; intro _ _)
         | (refine KeptOpt.cut (k := κ) (o := x) ?_ ?_; subst x; rotate_left; intro hx; clear_value x; revert x; intro _ _)
         | (refine KeptPair.cut (k := κ) (o := x) ?_ ?_; subst x; rotate_left; intro hx; clear_value x; revert x; intro _ _)
         | (clear_value x; revert x; intro _))
      | dsimp -zeta only | split | simp -zeta only [Kept.mk_iff])

theorem State.gatherReq_kept {κ : Fixed} {s : State} (st : Nat) (d : Nat) (p : Packet) (hk : Kept κ s) :
    Kept κ (State.gatherReq s st d p) := by
  unfold State.gatherReq
  repeat' (first
      | with_reducible assumption | with_reducible apply State.bump_kept | with_reducible apply State.takePkt_kept
      | with_reducible apply State.raiseNack_kept | with_reducible apply State.modDrop_kept | with_reducible apply State.bumpDrop_kept
      | with_reducible apply State.bumpStack_kept | with_reducible apply State.coalRead_kept | with_reducible apply Kept.ite
      | (intro _ _ _) | (intro _ _) | (intro _) | exact KeptOpt.of rfl (by with_reducible assumption)
      | exact KeptPair.of rfl (by with_reducible assumption) | with_reducible apply KeptOpt.ite
      | with_reducible refine KeptOpt.mapState ?_ (fun _ _ => ?_) | with_reducible refine KeptOpt.map (fun _ => ?_)
      | with_reducible apply KeptOpt.some | with_reducible exact KeptOpt.none | with_reducible apply KeptPair.ite
      | with_reducible apply KeptPair.some | with_reducible exact KeptPair.none
      | (extract_lets +onlyGivenNames x
         first
         | (refine Kept.cut (k := κ) (s := x) ?_ ?_; subst x; rotate_left; intro hx; clear_value x; revert x; intro _ _)
         | (refine KeptOpt.cut (k := κ) (o := x) ?_ ?_; subst x; rotate_left; intro hx; clear_value x; revert x; intro _ _)
         | (refine KeptPair.cut (k := κ) (o := x) ?_ ?_; subst x; rotate_left; intro hx; clear_value x; revert x; intro _ _)
         | (clear_value x; revert x; intro _))
      | dsimp -zeta only | split | simp -zeta only [Kept.mk_iff])

theorem State.cacheRow_kept {κ : Fixed} {s : State} (st : Nat) (d : Nat) (tdesc : Nat) (row : Nat) (data : List Byte) (hk : Kept κ s) :
    Kept κ (State.cacheRow s st d tdesc row data) := by
  unfold State.cacheRow
  repeat' (first
      | with_reducible assumption | with_reducible apply State.modDrop_kept | with_reducible apply Kept.ite
      | with_reducible apply Kept.foldl | with_reducible apply Kept.foldl_fst | with_reducible apply Kept.foldl_snd
      | with_reducible apply Kept.ite1 | with_reducible apply Kept.ite2 | (intro _ _ _) | (intro _ _) | (intro _)
      | (extract_lets +onlyGivenNames x
         first
         | (refine Kept.cut (k := κ) (s := x) ?_ ?_; subst x; rotate_left; intro hx; clear_value x; revert x; intro _ _)
         | (clear_value x; revert x; intro _))
      | dsimp -zeta only | split | simp -zeta only [Kept.mk_iff])

theorem State.coalReply_kept {κ : Fixed} {s : State} (st : Nat) (d : Nat) (e : Coal) (hk : Kept κ s) :
    Kept κ (State.coalReply s st d e) := by
  unfold State.coalReply
  repeat' (first
      | with_reducible assumption | with_reducible apply State.raiseNack_kept | with_reducible apply State.memInject_kept
      | with_reducible apply State.modDrop_kept | with_reducible apply State.sendPkt_kept | with_reducible apply State.cacheRow_kept
      | with_reducible apply Kept.ite | with_reducible apply Kept.foldl | with_reducible apply Kept.foldl_fst
      | with_reducible apply Kept.foldl_snd | (intro _ _ _) | (intro _ _) | (intro _)
      | refine Kept.of_snd (by with_reducible assumption) ?_ | refine Kept.of_fst (by with_reducible assumption) ?_
      | with_reducible apply KeptOpt.getD | with_reducible apply KeptOpt.foldl | exact KeptOpt.of rfl (by with_reducible assumption)
      | exact KeptPair.of rfl (by with_reducible assumption) | with_reducible apply KeptOpt.ite
      | with_reducible refine KeptOpt.mapState ?_ (fun _ _ => ?_) | with_reducible refine KeptOpt.map (fun _ => ?_)
      | with_reducible apply KeptOpt.some | with_reducible exact KeptOpt.none | with_reducible apply KeptPair.ite
      | with_reducible apply KeptPair.some | with_reducible exact KeptPair.none
      | (extract_lets +onlyGivenNames x
         first
         | (refine Kept.cut (k := κ) (s := x) ?_ ?_; subst x; rotate_left; intro hx; clear_value x; revert x; intro _ _)
         | (refine Kept.cut1 (k := κ) (s := x) ?_ ?_; subst x; rotate_left; intro hx; clear_value x; revert x; intro _ _)
         | (refine Kept.cut2 (k := κ) (s := x) ?_ ?_; subst x; rotate_left; intro hx; clear_value x; revert x; intro _ _)
         | (refine KeptOpt.cut (k := κ) (o := x) ?_ ?_; subst x; rotate_left; intro hx; clear_value x; revert x; intro _ _)
         | (refine KeptPair.cut (k := κ) (o := x) ?_ ?_; subst x; rotate_left; intro hx; clear_value x; revert x; intro _ _)
         | (clear_value x; revert x; intro _))
      | dsimp -zeta only | split | simp -zeta only [Kept.mk_iff])

theorem State.coalescerReply_kept {κ : Fixed} {s : State} (st : Nat) (tdesc : Nat) (row : Nat) (hk : Kept κ s) :
    Kept κ (State.coalescerReply s st tdesc row) := by
  unfold State.coalescerReply
  repeat' (first
      | with_reducible assumption | with_reducible apply State.coalReply_kept | with_reducible apply Kept.ite | (intro _ _ _)
      | (intro _ _) | (intro _) | exact KeptOpt.of rfl (by with_reducible assumption)
      | exact KeptPair.of rfl (by with_reducible assumption) | with_reducible apply KeptOpt.ite
      | with_reducible refine KeptOpt.mapState ?_ (fun _ _ => ?_) | with_reducible refine KeptOpt.map (fun _ => ?_)
      | with_reducible apply KeptOpt.some | with_reducible exact KeptOpt.none | with_reducible apply KeptPair.ite
      | with_reducible apply KeptPair.some | with_reducible exact KeptPair.none
      | (extract_lets +onlyGivenNames x
         first
         | (refine Kept.cut (k := κ) (s := x) ?_ ?_; subst x; rotate_left; intro hx; clear_value x; revert x; intro _ _)
         | (refine KeptOpt.cut (k := κ) (o := x) ?_ ?_; subst x; rotate_left; intro hx; clear_value x; revert x; intro _ _)
         | (refine KeptPair.cut (k := κ) (o := x) ?_ ?_; subst x; rotate_left; intro hx; clear_value x; revert x; intro _ _)
         | (clear_value x; revert x; intro _))
      | dsimp -zeta only | split | with_reducible refine Kept.mk_time ?_ (Nat.le_max_left _ _)
      | with_reducible refine Kept.mk_time ?_ (Nat.le_add_right _ _) | simp -zeta only [Kept.mk_iff])

theorem State.scatterData_kept {κ : Fixed} {s : State} (st : Nat) (d : Nat) (p : Packet) (hk : Kept κ s) :
    Kept κ (State.scatterData s st d p) := by
  unfold State.scatterData
  repeat' (first
      | with_reducible assumption | with_reducible apply State.bump_kept | with_reducible apply State.sendSig_kept
      | with_reducible apply State.takePkt_kept | with_reducible apply State.raiseNack_kept
      | with_reducible apply State.memInject_kept | with_reducible apply State.modDrop_kept
      | with_reducible apply State.modLanding_kept | with_reducible apply State.latePkt_kept
      | with_reducible apply State.checkFault_kept | with_reducible apply State.failLanding_kept
      | with_reducible apply State.bumpDrop_kept | with_reducible apply Kept.ite | (intro _ _ _) | (intro _ _) | (intro _)
      | refine Kept.of_snd (by with_reducible assumption) ?_ | refine Kept.of_fst (by with_reducible assumption) ?_
      | exact KeptOpt.of rfl (by with_reducible assumption) | exact KeptPair.of rfl (by with_reducible assumption)
      | with_reducible apply KeptOpt.ite | with_reducible refine KeptOpt.mapState ?_ (fun _ _ => ?_)
      | with_reducible refine KeptOpt.map (fun _ => ?_) | with_reducible apply KeptOpt.some | with_reducible exact KeptOpt.none
      | with_reducible apply KeptPair.ite | with_reducible apply KeptPair.some | with_reducible exact KeptPair.none
      | (extract_lets +onlyGivenNames x
         first
         | (refine Kept.cut (k := κ) (s := x) ?_ ?_; subst x; rotate_left; intro hx; clear_value x; revert x; intro _ _)
         | (refine Kept.cut1 (k := κ) (s := x) ?_ ?_; subst x; rotate_left; intro hx; clear_value x; revert x; intro _ _)
         | (refine Kept.cut2 (k := κ) (s := x) ?_ ?_; subst x; rotate_left; intro hx; clear_value x; revert x; intro _ _)
         | (refine KeptOpt.cut (k := κ) (o := x) ?_ ?_; subst x; rotate_left; intro hx; clear_value x; revert x; intro _ _)
         | (refine KeptPair.cut (k := κ) (o := x) ?_ ?_; subst x; rotate_left; intro hx; clear_value x; revert x; intro _ _)
         | (subst x))
      | dsimp -zeta only | split | simp -zeta only [Kept.mk_iff])

theorem State.modFlush_kept {κ : Fixed} {s : State} (st : Nat) (d : Nat) (tdesc : Nat) (f : DropFlush → DropFlush) (hk : Kept κ s) :
    Kept κ (State.modFlush s st d tdesc f) := by
  unfold State.modFlush
  repeat' (first
      | with_reducible assumption | with_reducible apply State.modDrop_kept | with_reducible apply Kept.ite | (intro _ _ _)
      | (intro _ _) | (intro _) | dsimp -zeta only | split | simp -zeta only [Kept.mk_iff])

theorem State.flushBegin_kept {κ : Fixed} {s : State} (st : Nat) (d : Nat) (p : Packet) (t : TableTail) (hk : Kept κ s) :
    Kept κ (State.flushBegin s st d p t) := by
  unfold State.flushBegin
  repeat' (first
      | with_reducible assumption | with_reducible apply State.modDrop_kept | with_reducible apply Kept.ite | (intro _ _ _)
      | (intro _ _) | (intro _)
      | (extract_lets +onlyGivenNames x
         first
         | (refine Kept.cut (k := κ) (s := x) ?_ ?_; subst x; rotate_left; intro hx; clear_value x; revert x; intro _ _)
         | (clear_value x; revert x; intro _))
      | dsimp -zeta only | split | simp -zeta only [Kept.mk_iff])

theorem State.flushReq_kept {κ : Fixed} {s : State} (st : Nat) (d : Nat) (p : Packet) (hk : Kept κ s) :
    Kept κ (State.flushReq s st d p) := by
  unfold State.flushReq
  repeat' (first
      | with_reducible assumption | with_reducible apply State.takePkt_kept | with_reducible apply State.raiseNack_kept
      | with_reducible apply State.modDrop_kept | with_reducible apply State.flushBegin_kept | with_reducible apply Kept.ite
      | (intro _ _ _) | (intro _ _) | (intro _)
      | (extract_lets +onlyGivenNames x
         first
         | (refine Kept.cut (k := κ) (s := x) ?_ ?_; subst x; rotate_left; intro hx; clear_value x; revert x; intro _ _)
         | (clear_value x; revert x; intro _))
      | dsimp -zeta only | split | simp -zeta only [Kept.mk_iff])

theorem State.releaseRow_kept {κ : Fixed} {s : State} (st : Nat) (d : Nat) (tdesc : Nat) (row : Nat) (hk : Kept κ s) :
    Kept κ (State.releaseRow s st d tdesc row) := by
  unfold State.releaseRow
  repeat' (first
      | with_reducible assumption | with_reducible apply State.coalRead_kept | with_reducible apply Kept.ite
      | with_reducible apply Kept.foldl | with_reducible apply Kept.foldl_fst | with_reducible apply Kept.foldl_snd | (intro _ _ _)
      | (intro _ _) | (intro _) | dsimp -zeta only | split)

theorem State.flushEnd_kept {κ : Fixed} {s : State} (st : Nat) (d : Nat) (f : DropFlush) (hk : Kept κ s) :
    Kept κ (State.flushEnd s st d f) := by
  unfold State.flushEnd
  repeat' (first
      | with_reducible assumption | with_reducible apply State.sendSig_kept | with_reducible apply State.modDrop_kept
      | with_reducible apply State.flushBegin_kept | with_reducible apply Kept.ite | (intro _ _ _) | (intro _ _) | (intro _)
      | exact KeptOpt.of rfl (by with_reducible assumption) | exact KeptPair.of rfl (by with_reducible assumption)
      | with_reducible apply KeptOpt.ite | with_reducible refine KeptOpt.mapState ?_ (fun _ _ => ?_)
      | with_reducible refine KeptOpt.map (fun _ => ?_) | with_reducible apply KeptOpt.some | with_reducible exact KeptOpt.none
      | with_reducible apply KeptPair.ite | with_reducible apply KeptPair.some | with_reducible exact KeptPair.none
      | (extract_lets +onlyGivenNames x
         first
         | (refine Kept.cut (k := κ) (s := x) ?_ ?_; subst x; rotate_left; intro hx; clear_value x; revert x; intro _ _)
         | (refine KeptOpt.cut (k := κ) (o := x) ?_ ?_; subst x; rotate_left; intro hx; clear_value x; revert x; intro _ _)
         | (refine KeptPair.cut (k := κ) (o := x) ?_ ?_; subst x; rotate_left; intro hx; clear_value x; revert x; intro _ _)
         | (clear_value x; revert x; intro _))
      | dsimp -zeta only | split | simp -zeta only [Kept.mk_iff])

theorem State.flushNext_kept {κ : Fixed} {s : State} (st : Nat) (d : Nat) (tdesc : Nat) (hk : Kept κ s) :
    Kept κ (State.flushNext s st d tdesc) := by
  unfold State.flushNext
  repeat' (first
      | with_reducible assumption | with_reducible apply State.modDrop_kept | with_reducible apply State.issue_kept
      | with_reducible apply State.modFlush_kept | with_reducible apply State.flushEnd_kept | with_reducible apply Kept.ite
      | (intro _ _ _) | (intro _ _) | (intro _) | exact KeptOpt.of rfl (by with_reducible assumption)
      | exact KeptPair.of rfl (by with_reducible assumption) | with_reducible apply KeptOpt.ite
      | with_reducible refine KeptOpt.mapState ?_ (fun _ _ => ?_) | with_reducible refine KeptOpt.map (fun _ => ?_)
      | with_reducible apply KeptOpt.some | with_reducible exact KeptOpt.none | with_reducible apply KeptPair.ite
      | with_reducible apply KeptPair.some | with_reducible exact KeptPair.none
      | (extract_lets +onlyGivenNames x
         first
         | (refine Kept.cut (k := κ) (s := x) ?_ ?_; subst x; rotate_left; intro hx; clear_value x; revert x; intro _ _)
         | (refine KeptOpt.cut (k := κ) (o := x) ?_ ?_; subst x; rotate_left; intro hx; clear_value x; revert x; intro _ _)
         | (refine KeptPair.cut (k := κ) (o := x) ?_ ?_; subst x; rotate_left; intro hx; clear_value x; revert x; intro _ _)
         | (clear_value x; revert x; intro _))
      | dsimp -zeta only | split | simp -zeta only [Kept.mk_iff])

theorem State.flushWriteback_kept {κ : Fixed} {s : State} (st : Nat) (d : Nat) (tdesc : Nat) (hk : Kept κ s) :
    Kept κ (State.flushWriteback s st d tdesc) := by
  unfold State.flushWriteback
  repeat' (first
      | with_reducible assumption | with_reducible apply State.modFlush_kept | with_reducible apply State.flushNext_kept
      | with_reducible apply Kept.ite | (intro _ _ _) | (intro _ _) | (intro _) | dsimp -zeta only | split
      | simp -zeta only [Kept.mk_iff])

theorem State.flushWrite_kept {κ : Fixed} {s : State} (st : Nat) (d : Nat) (tdesc : Nat) (bad : Bool) (hk : Kept κ s) :
    Kept κ (State.flushWrite s st d tdesc bad) := by
  unfold State.flushWrite
  repeat' (first
      | with_reducible assumption | with_reducible apply State.modDrop_kept | with_reducible apply State.issue_kept
      | with_reducible apply State.modFlush_kept | with_reducible apply Kept.ite | (intro _ _ _) | (intro _ _) | (intro _)
      | with_reducible apply KeptOpt.getD | exact KeptOpt.of rfl (by with_reducible assumption)
      | exact KeptPair.of rfl (by with_reducible assumption) | with_reducible apply KeptOpt.ite
      | with_reducible refine KeptOpt.mapState ?_ (fun _ _ => ?_) | with_reducible refine KeptOpt.map (fun _ => ?_)
      | with_reducible apply KeptOpt.some | with_reducible exact KeptOpt.none | with_reducible apply KeptPair.ite
      | with_reducible apply KeptPair.some | with_reducible exact KeptPair.none
      | (extract_lets +onlyGivenNames x
         first
         | (refine Kept.cut (k := κ) (s := x) ?_ ?_; subst x; rotate_left; intro hx; clear_value x; revert x; intro _ _)
         | (refine KeptOpt.cut (k := κ) (o := x) ?_ ?_; subst x; rotate_left; intro hx; clear_value x; revert x; intro _ _)
         | (refine KeptPair.cut (k := κ) (o := x) ?_ ?_; subst x; rotate_left; intro hx; clear_value x; revert x; intro _ _)
         | (clear_value x; revert x; intro _))
      | dsimp -zeta only | split | simp -zeta only [Kept.mk_iff])

theorem State.flushRowDone_kept {κ : Fixed} {s : State} (st : Nat) (d : Nat) (tdesc : Nat) (hk : Kept κ s) :
    Kept κ (State.flushRowDone s st d tdesc) := by
  unfold State.flushRowDone
  repeat' (first
      | with_reducible assumption | with_reducible apply State.modFlush_kept | with_reducible apply State.releaseRow_kept
      | with_reducible apply State.flushNext_kept | with_reducible apply Kept.ite | with_reducible apply Kept.foldl
      | with_reducible apply Kept.foldl_fst | with_reducible apply Kept.foldl_snd | (intro _ _ _) | (intro _ _) | (intro _)
      | with_reducible apply KeptOpt.foldl | exact KeptOpt.of rfl (by with_reducible assumption)
      | exact KeptPair.of rfl (by with_reducible assumption) | with_reducible apply KeptOpt.ite
      | with_reducible refine KeptOpt.mapState ?_ (fun _ _ => ?_) | with_reducible refine KeptOpt.map (fun _ => ?_)
      | with_reducible apply KeptOpt.some | with_reducible exact KeptOpt.none | with_reducible apply KeptPair.ite
      | with_reducible apply KeptPair.some | with_reducible exact KeptPair.none
      | (extract_lets +onlyGivenNames x
         first
         | (refine Kept.cut (k := κ) (s := x) ?_ ?_; subst x; rotate_left; intro hx; clear_value x; revert x; intro _ _)
         | (refine KeptOpt.cut (k := κ) (o := x) ?_ ?_; subst x; rotate_left; intro hx; clear_value x; revert x; intro _ _)
         | (refine KeptPair.cut (k := κ) (o := x) ?_ ?_; subst x; rotate_left; intro hx; clear_value x; revert x; intro _ _)
         | (clear_value x; revert x; intro _))
      | dsimp -zeta only | split | simp -zeta only [Kept.mk_iff])

theorem State.closeEpoch_kept {κ : Fixed} {s : State} (st : Nat) (d : Nat) (tdesc : Nat) (e : Nat) (r : DictReq) (hk : Kept κ s) :
    Kept κ (State.closeEpoch s st d tdesc e r) := by
  unfold State.closeEpoch
  repeat' (first
      | with_reducible assumption | with_reducible apply State.setReg_kept | with_reducible apply State.fresh_kept
      | with_reducible apply State.modDrop_kept | with_reducible apply State.sendPkt_kept | with_reducible apply Kept.ite
      | with_reducible apply Kept.foldl | with_reducible apply Kept.foldl_fst | with_reducible apply Kept.foldl_snd | (intro _ _ _)
      | (intro _ _) | (intro _) | refine Kept.of_snd (by with_reducible assumption) ?_
      | refine Kept.of_fst (by with_reducible assumption) ?_
      | (extract_lets +onlyGivenNames x
         first
         | (refine Kept.cut (k := κ) (s := x) ?_ ?_; subst x; rotate_left; intro hx; clear_value x; revert x; intro _ _)
         | (refine Kept.cut1 (k := κ) (s := x) ?_ ?_; subst x; rotate_left; intro hx; clear_value x; revert x; intro _ _)
         | (refine Kept.cut2 (k := κ) (s := x) ?_ ?_; subst x; rotate_left; intro hx; clear_value x; revert x; intro _ _)
         | (clear_value x; revert x; intro _))
      | dsimp -zeta only | split | simp -zeta only [Kept.mk_iff])

theorem State.leadEnd_kept {κ : Fixed} {s : State} (st : Nat) (d : Nat) (l : LeadFlush) (answer : State → DictReq → State) (hanswer : ∀ s a, Kept κ s → Kept κ (answer s a)) (hk : Kept κ s) :
    Kept κ (State.leadEnd s st d l answer) := by
  unfold State.leadEnd
  repeat' (first
      | with_reducible assumption | with_reducible apply hanswer | with_reducible apply State.setReg_kept
      | with_reducible apply State.answer_kept | with_reducible apply State.modDrop_kept | with_reducible apply Kept.ite
      | (intro _ _ _) | (intro _ _) | (intro _)
      | (extract_lets +onlyGivenNames x
         first
         | (refine Kept.cut (k := κ) (s := x) ?_ ?_; subst x; rotate_left; intro hx; clear_value x; revert x; intro _ _)
         | (clear_value x; revert x; intro _))
      | dsimp -zeta only | split | simp -zeta only [Kept.mk_iff])

theorem State.flushAnswer_kept {κ : Fixed} {s : State} (a : Delivered) (answer : State → DictReq → State) (hanswer : ∀ s a, Kept κ s → Kept κ (answer s a)) (hk : Kept κ s) :
    Kept κ (State.flushAnswer s a answer) := by
  unfold State.flushAnswer
  repeat' (first
      | with_reducible assumption | with_reducible apply hanswer | with_reducible apply State.answer_kept
      | with_reducible apply State.takeSig_kept | with_reducible apply State.modDrop_kept | with_reducible apply State.leadEnd_kept
      | with_reducible apply Kept.ite | (intro _ _ _) | (intro _ _) | (intro _) | exact KeptOpt.of rfl (by with_reducible assumption)
      | exact KeptPair.of rfl (by with_reducible assumption) | with_reducible apply KeptOpt.ite
      | with_reducible refine KeptOpt.mapState ?_ (fun _ _ => ?_) | with_reducible refine KeptOpt.map (fun _ => ?_)
      | with_reducible apply KeptOpt.some | with_reducible exact KeptOpt.none | with_reducible apply KeptPair.ite
      | with_reducible apply KeptPair.some | with_reducible exact KeptPair.none
      | (extract_lets +onlyGivenNames x
         first
         | (refine Kept.cut (k := κ) (s := x) ?_ ?_; subst x; rotate_left; intro hx; clear_value x; revert x; intro _ _)
         | (refine KeptOpt.cut (k := κ) (o := x) ?_ ?_; subst x; rotate_left; intro hx; clear_value x; revert x; intro _ _)
         | (refine KeptPair.cut (k := κ) (o := x) ?_ ?_; subst x; rotate_left; intro hx; clear_value x; revert x; intro _ _)
         | (clear_value x; revert x; intro _))
      | dsimp -zeta only | split | simp -zeta only [Kept.mk_iff])

theorem State.flushLimit_kept {κ : Fixed} {s : State} (tdesc : Nat) (answer : State → DictReq → State) (hanswer : ∀ s a, Kept κ s → Kept κ (answer s a)) (hk : Kept κ s) :
    Kept κ (State.flushLimit s tdesc answer) := by
  unfold State.flushLimit
  repeat' (first
      | with_reducible assumption | with_reducible apply hanswer | with_reducible apply State.answer_kept
      | with_reducible apply State.leadEnd_kept | with_reducible apply Kept.ite | (intro _ _ _) | (intro _ _) | (intro _)
      | dsimp -zeta only | split | with_reducible refine Kept.mk_time ?_ (Nat.le_max_left _ _)
      | with_reducible refine Kept.mk_time ?_ (Nat.le_add_right _ _) | simp -zeta only [Kept.mk_iff])

theorem State.modStrm_kept {κ : Fixed} {s : State} (st : Nat) (d : Nat) (m : Nat) (f : StreamSt → StreamSt) (hk : Kept κ s) :
    Kept κ (State.modStrm s st d m f) := by
  unfold State.modStrm
  repeat' (first
      | with_reducible assumption | with_reducible apply State.modDrop_kept | with_reducible apply Kept.ite | (intro _ _ _)
      | (intro _ _) | (intro _) | dsimp -zeta only | split | simp -zeta only [Kept.mk_iff])

theorem State.strmCall_kept {κ : Fixed} {s : State} (st : Nat) (d : Nat) (m : Nat) (n0 : Nat) (hk : Kept κ s) :
    Kept κ (State.strmCall s st d m n0) := by
  induction n0 generalizing s with
  | zero => exact hk
  | succ n ih =>
    rw [State.strmCall]
    repeat' (first
      | with_reducible assumption | with_reducible apply ih | with_reducible apply State.sendSig_kept
      | with_reducible apply State.modStrm_kept | with_reducible apply Kept.ite | (intro _ _ _) | (intro _ _) | (intro _)
      | exact KeptOpt.of rfl (by with_reducible assumption) | exact KeptPair.of rfl (by with_reducible assumption)
      | with_reducible apply KeptOpt.ite | with_reducible refine KeptOpt.mapState ?_ (fun _ _ => ?_)
      | with_reducible refine KeptOpt.map (fun _ => ?_) | with_reducible apply KeptOpt.some | with_reducible exact KeptOpt.none
      | with_reducible apply KeptPair.ite | with_reducible apply KeptPair.some | with_reducible exact KeptPair.none
      | (extract_lets +onlyGivenNames x
         first
         | (refine Kept.cut (k := κ) (s := x) ?_ ?_; subst x; rotate_left; intro hx; clear_value x; revert x; intro _ _)
         | (refine KeptOpt.cut (k := κ) (o := x) ?_ ?_; subst x; rotate_left; intro hx; clear_value x; revert x; intro _ _)
         | (refine KeptPair.cut (k := κ) (o := x) ?_ ?_; subst x; rotate_left; intro hx; clear_value x; revert x; intro _ _)
         | (clear_value x; revert x; intro _))
      | dsimp -zeta only | split | simp -zeta only [Kept.mk_iff])

theorem State.strmEnd_kept {κ : Fixed} {s : State} (st : Nat) (d : Nat) (m : Nat) (hk : Kept κ s) :
    Kept κ (State.strmEnd s st d m) := by
  unfold State.strmEnd
  repeat' (first
      | with_reducible assumption | with_reducible apply State.setReg_kept | with_reducible apply State.sendSig_kept
      | with_reducible apply State.modDrop_kept | with_reducible apply Kept.ite | with_reducible apply Kept.foldl
      | with_reducible apply Kept.foldl_fst | with_reducible apply Kept.foldl_snd | (intro _ _ _) | (intro _ _) | (intro _)
      | with_reducible apply KeptOpt.foldl | exact KeptOpt.of rfl (by with_reducible assumption)
      | exact KeptPair.of rfl (by with_reducible assumption) | with_reducible apply KeptOpt.ite
      | with_reducible refine KeptOpt.mapState ?_ (fun _ _ => ?_) | with_reducible refine KeptOpt.map (fun _ => ?_)
      | with_reducible apply KeptOpt.some | with_reducible exact KeptOpt.none | with_reducible apply KeptPair.ite
      | with_reducible apply KeptPair.some | with_reducible exact KeptPair.none
      | (extract_lets +onlyGivenNames x
         first
         | (refine Kept.cut (k := κ) (s := x) ?_ ?_; subst x; rotate_left; intro hx; clear_value x; revert x; intro _ _)
         | (refine KeptOpt.cut (k := κ) (o := x) ?_ ?_; subst x; rotate_left; intro hx; clear_value x; revert x; intro _ _)
         | (refine KeptPair.cut (k := κ) (o := x) ?_ ?_; subst x; rotate_left; intro hx; clear_value x; revert x; intro _ _)
         | (clear_value x; revert x; intro _))
      | dsimp -zeta only | split | simp -zeta only [Kept.mk_iff])

theorem State.strmRsvEnd_kept {κ : Fixed} {s : State} (st : Nat) (d : Nat) (m : Nat) (k : Nat) (reasons : Nat) (hk : Kept κ s) :
    Kept κ (State.strmRsvEnd s st d m k reasons) := by
  unfold State.strmRsvEnd
  repeat' (first
      | with_reducible assumption | with_reducible apply State.dropCopies_kept | with_reducible apply State.modStrm_kept
      | with_reducible apply State.strmCall_kept | with_reducible apply State.strmEnd_kept | with_reducible apply Kept.ite
      | (intro _ _ _) | (intro _ _) | (intro _)
      | (extract_lets +onlyGivenNames x
         first
         | (refine Kept.cut (k := κ) (s := x) ?_ ?_; subst x; rotate_left; intro hx; clear_value x; revert x; intro _ _)
         | (clear_value x; revert x; intro _))
      | dsimp -zeta only | split | simp -zeta only [Kept.mk_iff])

theorem State.strmStart_kept {κ : Fixed} {s : State} (m : Nat) (hk : Kept κ s) :
    Kept κ (State.strmStart s m) := by
  unfold State.strmStart
  repeat' (first
      | with_reducible assumption | with_reducible apply State.setReg_kept | with_reducible apply State.fresh_kept
      | with_reducible apply State.modDrop_kept | with_reducible apply State.strmCall_kept | with_reducible apply Kept.ite
      | (intro _ _ _) | (intro _ _) | (intro _) | refine Kept.of_snd (by with_reducible assumption) ?_
      | refine Kept.of_fst (by with_reducible assumption) ?_
      | (extract_lets +onlyGivenNames x
         first
         | (refine Kept.cut (k := κ) (s := x) ?_ ?_; subst x; rotate_left; intro hx; clear_value x; revert x; intro _ _)
         | (refine Kept.cut1 (k := κ) (s := x) ?_ ?_; subst x; rotate_left; intro hx; clear_value x; revert x; intro _ _)
         | (refine Kept.cut2 (k := κ) (s := x) ?_ ?_; subst x; rotate_left; intro hx; clear_value x; revert x; intro _ _)
         | (clear_value x; revert x; intro _))
      | dsimp -zeta only | split | simp -zeta only [Kept.mk_iff])

theorem State.strmArrive_kept {κ : Fixed} {s : State} (a : MresArrive) (hk : Kept κ s) :
    Kept κ (State.strmArrive s a) := by
  unfold State.strmArrive
  repeat' (first
      | with_reducible assumption | with_reducible apply State.issue_kept | with_reducible apply State.modStrm_kept
      | with_reducible apply State.strmCall_kept | with_reducible apply State.strmRsvEnd_kept | with_reducible apply Kept.ite
      | (intro _ _ _) | (intro _ _) | (intro _) | exact KeptOpt.of rfl (by with_reducible assumption)
      | exact KeptPair.of rfl (by with_reducible assumption) | with_reducible apply KeptOpt.ite
      | with_reducible refine KeptOpt.mapState ?_ (fun _ _ => ?_) | with_reducible refine KeptOpt.map (fun _ => ?_)
      | with_reducible apply KeptOpt.some | with_reducible exact KeptOpt.none | with_reducible apply KeptPair.ite
      | with_reducible apply KeptPair.some | with_reducible exact KeptPair.none
      | (extract_lets +onlyGivenNames x
         first
         | (refine Kept.cut (k := κ) (s := x) ?_ ?_; subst x; rotate_left; intro hx; clear_value x; revert x; intro _ _)
         | (refine KeptOpt.cut (k := κ) (o := x) ?_ ?_; subst x; rotate_left; intro hx; clear_value x; revert x; intro _ _)
         | (refine KeptPair.cut (k := κ) (o := x) ?_ ?_; subst x; rotate_left; intro hx; clear_value x; revert x; intro _ _)
         | (clear_value x; revert x; intro _))
      | dsimp -zeta only | split | simp -zeta only [Kept.mk_iff])

theorem State.strmLimit_kept {κ : Fixed} {s : State} (src : SrcAddr) (mid : Nat) (hk : Kept κ s) :
    Kept κ (State.strmLimit s src mid) := by
  unfold State.strmLimit
  repeat' (first
      | with_reducible assumption | with_reducible apply State.bump_kept | with_reducible apply State.strmRsvEnd_kept
      | with_reducible apply Kept.ite | (intro _ _ _) | (intro _ _) | (intro _)
      | refine KeptOpt.foldl_bind (KeptOpt.some ?_) (fun _ _ _ => ?_) | dsimp -zeta only | split
      | with_reducible refine Kept.mk_time ?_ (Nat.le_max_left _ _) | with_reducible refine Kept.mk_time ?_ (Nat.le_add_right _ _)
      | simp -zeta only [Kept.mk_iff])

theorem State.strmSend_kept {κ : Fixed} {s : State} (st : Nat) (d : Nat) (m : Nat) (k : Nat) (hk : Kept κ s) :
    Kept κ (State.strmSend s st d m k) := by
  unfold State.strmSend
  repeat' (first
      | with_reducible assumption | with_reducible apply State.sendPkt_kept | with_reducible apply State.modStrm_kept
      | with_reducible apply Kept.ite | with_reducible apply Kept.foldl | with_reducible apply Kept.foldl_fst
      | with_reducible apply Kept.foldl_snd | (intro _ _ _) | (intro _ _) | (intro _)
      | refine KeptOpt.foldl_bind (KeptOpt.some ?_) (fun _ _ _ => ?_) | with_reducible apply KeptOpt.getD
      | with_reducible apply KeptOpt.foldl | exact KeptOpt.of rfl (by with_reducible assumption)
      | exact KeptPair.of rfl (by with_reducible assumption) | with_reducible apply KeptOpt.ite
      | with_reducible refine KeptOpt.mapState ?_ (fun _ _ => ?_) | with_reducible refine KeptOpt.map (fun _ => ?_)
      | with_reducible apply KeptOpt.some | with_reducible exact KeptOpt.none | with_reducible apply KeptPair.ite
      | with_reducible apply KeptPair.some | with_reducible exact KeptPair.none
      | (extract_lets +onlyGivenNames x
         first
         | (refine Kept.cut (k := κ) (s := x) ?_ ?_; subst x; rotate_left; intro hx; clear_value x; revert x; intro _ _)
         | (refine KeptOpt.cut (k := κ) (o := x) ?_ ?_; subst x; rotate_left; intro hx; clear_value x; revert x; intro _ _)
         | (refine KeptPair.cut (k := κ) (o := x) ?_ ?_; subst x; rotate_left; intro hx; clear_value x; revert x; intro _ _)
         | (subst x))
      | dsimp -zeta only | split | simp -zeta only [Kept.mk_iff])

theorem State.granIn_kept {κ : Fixed} {s : State} (st : Nat) (d : Nat) (t : Txn) (data : Option (List Byte)) (hk : Kept κ s) :
    Kept κ (State.granIn s st d t data) := by
  unfold State.granIn
  repeat' (first
      | with_reducible assumption | with_reducible apply State.raiseNack_kept | with_reducible apply State.modDrop_kept
      | with_reducible apply State.dropGetSend_kept | with_reducible apply State.modFlush_kept
      | with_reducible apply State.flushWrite_kept | with_reducible apply State.modStrm_kept
      | with_reducible apply State.strmRsvEnd_kept | with_reducible apply State.strmSend_kept
      | with_reducible apply State.bootDrops_kept | with_reducible apply Kept.ite | (intro _ _ _) | (intro _ _) | (intro _)
      | refine KeptOpt.foldl_bind (KeptOpt.some ?_) (fun _ _ _ => ?_) | with_reducible apply KeptOpt.getD
      | exact KeptOpt.of rfl (by with_reducible assumption) | exact KeptPair.of rfl (by with_reducible assumption)
      | with_reducible apply KeptOpt.ite | with_reducible refine KeptOpt.mapState ?_ (fun _ _ => ?_)
      | with_reducible refine KeptOpt.map (fun _ => ?_) | with_reducible apply KeptOpt.some | with_reducible exact KeptOpt.none
      | with_reducible apply KeptPair.ite | with_reducible apply KeptPair.some | with_reducible exact KeptPair.none
      | (extract_lets +onlyGivenNames x
         first
         | (refine Kept.cut (k := κ) (s := x) ?_ ?_; subst x; rotate_left; intro hx; clear_value x; revert x; intro _ _)
         | (refine KeptOpt.cut (k := κ) (o := x) ?_ ?_; subst x; rotate_left; intro hx; clear_value x; revert x; intro _ _)
         | (refine KeptPair.cut (k := κ) (o := x) ?_ ?_; subst x; rotate_left; intro hx; clear_value x; revert x; intro _ _)
         | (clear_value x; revert x; intro _))
      | dsimp -zeta only | split | simp -zeta only [Kept.mk_iff])

theorem State.writeDone_kept {κ : Fixed} {s : State} (st : Nat) (d : Nat) (t : Txn) (ok : Bool) (hk : Kept κ s) :
    Kept κ (State.writeDone s st d t ok) := by
  unfold State.writeDone
  repeat' (first
      | with_reducible assumption | with_reducible apply State.countEvent_kept | with_reducible apply State.sendSig_kept
      | with_reducible apply State.modLanding_kept | with_reducible apply State.failLanding_kept
      | with_reducible apply State.modFlush_kept | with_reducible apply State.flushRowDone_kept | with_reducible apply Kept.ite
      | (intro _ _ _) | (intro _ _) | (intro _) | exact KeptOpt.of rfl (by with_reducible assumption)
      | exact KeptPair.of rfl (by with_reducible assumption) | with_reducible apply KeptOpt.ite
      | with_reducible refine KeptOpt.mapState ?_ (fun _ _ => ?_) | with_reducible refine KeptOpt.map (fun _ => ?_)
      | with_reducible apply KeptOpt.some | with_reducible exact KeptOpt.none | with_reducible apply KeptPair.ite
      | with_reducible apply KeptPair.some | with_reducible exact KeptPair.none
      | (extract_lets +onlyGivenNames x
         first
         | (refine Kept.cut (k := κ) (s := x) ?_ ?_; subst x; rotate_left; intro hx; clear_value x; revert x; intro _ _)
         | (refine KeptOpt.cut (k := κ) (o := x) ?_ ?_; subst x; rotate_left; intro hx; clear_value x; revert x; intro _ _)
         | (refine KeptPair.cut (k := κ) (o := x) ?_ ?_; subst x; rotate_left; intro hx; clear_value x; revert x; intro _ _)
         | (clear_value x; revert x; intro _))
      | dsimp -zeta only | split | simp -zeta only [Kept.mk_iff])

theorem State.freeTag_kept {κ : Fixed} {s : State} (st : Nat) (d : Nat) (t : Txn) (hk : Kept κ s) :
    Kept κ (State.freeTag s st d t) := by
  unfold State.freeTag
  repeat' (first
      | with_reducible assumption | with_reducible apply State.faultLive_kept | with_reducible apply State.modDrop_kept
      | with_reducible apply State.countTagWaits_kept | with_reducible apply Kept.ite | (intro _ _ _) | (intro _ _) | (intro _)
      | (extract_lets +onlyGivenNames x
         first
         | (refine Kept.cut (k := κ) (s := x) ?_ ?_; subst x; rotate_left; intro hx; clear_value x; revert x; intro _ _)
         | (clear_value x; revert x; intro _))
      | dsimp -zeta only | split | simp -zeta only [Kept.mk_iff])

theorem State.ifError_kept {κ : Fixed} {s : State} (st : Nat) (d : Nat) (hk : Kept κ s) :
    Kept κ (State.ifError s st d) := by
  unfold State.ifError
  repeat' (first
      | with_reducible assumption | with_reducible apply State.faultEvent_kept | with_reducible apply Kept.ite | dsimp -zeta only
      | split)

theorem State.rerr_kept {κ : Fixed} {s : State} (st : Nat) (d : Nat) (tag : Nat) (hk : Kept κ s) :
    Kept κ (State.rerr s st d tag) := by
  unfold State.rerr
  repeat' (first
      | with_reducible assumption | with_reducible apply State.faultEvent_kept | with_reducible apply State.bumpDrop_kept
      | with_reducible apply Kept.ite | dsimp -zeta only | split)

theorem State.dropWord_kept {κ : Fixed} {s : State} (st : Nat) (d : Nat) (cw : List Byte) (hk : Kept κ s) :
    Kept κ (State.dropWord s st d cw).2 := by
  unfold State.dropWord
  repeat' (first
      | with_reducible assumption | with_reducible apply State.wear_kept | with_reducible apply Kept.ite
      | with_reducible apply Kept.ite1 | with_reducible apply Kept.ite2 | dsimp -zeta only | split)

theorem State.rdata_kept {κ : Fixed} {s : State} (st : Nat) (d : Nat) (tag : Nat) (cw0 : List Byte) (cw1 : List Byte) (err : Bool) (parityOk : Bool) (hk : Kept κ s) :
    Kept κ (State.rdata s st d tag cw0 cw1 err parityOk) := by
  unfold State.rdata
  repeat' (first
      | with_reducible assumption | with_reducible apply State.takeInject_kept | with_reducible apply State.granIn_kept
      | with_reducible apply State.freeTag_kept | with_reducible apply State.ifError_kept | with_reducible apply State.rerr_kept
      | with_reducible apply State.dropWord_kept | with_reducible apply Kept.ite | (intro _ _ _) | (intro _ _) | (intro _)
      | refine Kept.of_snd (by with_reducible assumption) ?_ | refine Kept.of_fst (by with_reducible assumption) ?_
      | refine KeptPair.of (by with_reducible assumption) ?_ | exact KeptOpt.of rfl (by with_reducible assumption)
      | exact KeptPair.of rfl (by with_reducible assumption) | with_reducible apply KeptOpt.ite
      | with_reducible refine KeptOpt.mapState ?_ (fun _ _ => ?_) | with_reducible refine KeptOpt.map (fun _ => ?_)
      | with_reducible apply KeptOpt.some | with_reducible exact KeptOpt.none | with_reducible apply KeptPair.ite
      | with_reducible apply KeptPair.some | with_reducible exact KeptPair.none
      | (extract_lets +onlyGivenNames x
         first
         | (refine Kept.cut (k := κ) (s := x) ?_ ?_; subst x; rotate_left; intro hx; clear_value x; revert x; intro _ _)
         | (refine Kept.cut1 (k := κ) (s := x) ?_ ?_; subst x; rotate_left; intro hx; clear_value x; revert x; intro _ _)
         | (refine Kept.cut2 (k := κ) (s := x) ?_ ?_; subst x; rotate_left; intro hx; clear_value x; revert x; intro _ _)
         | (refine KeptOpt.cut (k := κ) (o := x) ?_ ?_; subst x; rotate_left; intro hx; clear_value x; revert x; intro _ _)
         | (refine KeptPair.cut (k := κ) (o := x) ?_ ?_; subst x; rotate_left; intro hx; clear_value x; revert x; intro _ _)
         | (clear_value x; revert x; intro _))
      | dsimp -zeta only | split)

theorem State.wack_kept {κ : Fixed} {s : State} (st : Nat) (d : Nat) (tag : Nat) (err : Bool) (parityOk : Bool) (hk : Kept κ s) :
    Kept κ (State.wack s st d tag err parityOk) := by
  unfold State.wack
  repeat' (first
      | with_reducible assumption | with_reducible apply State.takeInject_kept | with_reducible apply State.writeDone_kept
      | with_reducible apply State.freeTag_kept | with_reducible apply State.ifError_kept | with_reducible apply State.rerr_kept
      | with_reducible apply Kept.ite | (intro _ _ _) | (intro _ _) | (intro _) | refine Kept.of_snd (by with_reducible assumption) ?_
      | refine Kept.of_fst (by with_reducible assumption) ?_ | refine KeptPair.of (by with_reducible assumption) ?_
      | exact KeptOpt.of rfl (by with_reducible assumption) | exact KeptPair.of rfl (by with_reducible assumption)
      | with_reducible apply KeptOpt.ite | with_reducible refine KeptOpt.mapState ?_ (fun _ _ => ?_)
      | with_reducible refine KeptOpt.map (fun _ => ?_) | with_reducible apply KeptOpt.some | with_reducible exact KeptOpt.none
      | with_reducible apply KeptPair.ite | with_reducible apply KeptPair.some | with_reducible exact KeptPair.none
      | (extract_lets +onlyGivenNames x
         first
         | (refine Kept.cut (k := κ) (s := x) ?_ ?_; subst x; rotate_left; intro hx; clear_value x; revert x; intro _ _)
         | (refine Kept.cut1 (k := κ) (s := x) ?_ ?_; subst x; rotate_left; intro hx; clear_value x; revert x; intro _ _)
         | (refine Kept.cut2 (k := κ) (s := x) ?_ ?_; subst x; rotate_left; intro hx; clear_value x; revert x; intro _ _)
         | (refine KeptOpt.cut (k := κ) (o := x) ?_ ?_; subst x; rotate_left; intro hx; clear_value x; revert x; intro _ _)
         | (refine KeptPair.cut (k := κ) (o := x) ?_ ?_; subst x; rotate_left; intro hx; clear_value x; revert x; intro _ _)
         | (clear_value x; revert x; intro _))
      | dsimp -zeta only | split)

theorem State.txnTimeout_kept {κ : Fixed} {s : State} (st : Nat) (d : Nat) (tag : Nat) (hk : Kept κ s) :
    Kept κ (State.txnTimeout s st d tag) := by
  unfold State.txnTimeout
  repeat' (first
      | with_reducible assumption | with_reducible apply State.faultEvent_kept | with_reducible apply State.faultLive_kept
      | with_reducible apply State.strike_kept | with_reducible apply State.modDrop_kept | with_reducible apply State.bumpDrop_kept
      | with_reducible apply State.granIn_kept | with_reducible apply State.writeDone_kept | with_reducible apply Kept.ite
      | (intro _ _ _) | (intro _ _) | (intro _) | exact KeptOpt.of rfl (by with_reducible assumption)
      | exact KeptPair.of rfl (by with_reducible assumption) | with_reducible apply KeptOpt.ite
      | with_reducible refine KeptOpt.mapState ?_ (fun _ _ => ?_) | with_reducible refine KeptOpt.map (fun _ => ?_)
      | with_reducible apply KeptOpt.some | with_reducible exact KeptOpt.none | with_reducible apply KeptPair.ite
      | with_reducible apply KeptPair.some | with_reducible exact KeptPair.none
      | (extract_lets +onlyGivenNames x
         first
         | (refine Kept.cut (k := κ) (s := x) ?_ ?_; subst x; rotate_left; intro hx; clear_value x; revert x; intro _ _)
         | (refine KeptOpt.cut (k := κ) (o := x) ?_ ?_; subst x; rotate_left; intro hx; clear_value x; revert x; intro _ _)
         | (refine KeptPair.cut (k := κ) (o := x) ?_ ?_; subst x; rotate_left; intro hx; clear_value x; revert x; intro _ _)
         | (clear_value x; revert x; intro _))
      | dsimp -zeta only | split | with_reducible refine Kept.mk_time ?_ (Nat.le_max_left _ _)
      | with_reducible refine Kept.mk_time ?_ (Nat.le_add_right _ _) | simp -zeta only [Kept.mk_iff])

theorem State.purgeMoved_kept {κ : Fixed} {s : State} (st : Nat) (k : Nat) (hk : Kept κ s) :
    Kept κ (State.purgeMoved s st k) := by
  unfold State.purgeMoved
  repeat' (first
      | with_reducible assumption | with_reducible apply State.modDrop_kept | with_reducible apply Kept.ite | (intro _ _ _)
      | (intro _ _) | (intro _) | dsimp -zeta only | split | simp -zeta only [Kept.mk_iff])

theorem State.purgeAt_kept {κ : Fixed} {s : State} (c : Coord) (hk : Kept κ s) :
    Kept κ (State.purgeAt s c) := by
  unfold State.purgeAt
  repeat' (first
      | with_reducible assumption | with_reducible apply State.purgeMoved_kept | with_reducible apply Kept.ite | dsimp -zeta only
      | split)

theorem State.dropRelease_kept {κ : Fixed} {s : State} (st : Nat) (d : Nat) (p : Packet) (t : TransferTail) (hk : Kept κ s) :
    Kept κ (State.dropRelease s st d p t) := by
  unfold State.dropRelease
  repeat' (first
      | with_reducible assumption | with_reducible apply State.takePkt_kept | with_reducible apply State.raiseNack_kept
      | with_reducible apply State.releaseAt_kept | with_reducible apply Kept.ite
      | (extract_lets +onlyGivenNames x
         first
         | (refine Kept.cut (k := κ) (s := x) ?_ ?_; subst x; rotate_left; intro hx; clear_value x; revert x; intro _ _)
         | (clear_value x; revert x; intro _))
      | dsimp -zeta only | split)

theorem State.dropFenced_kept {κ : Fixed} {s : State} (st : Nat) (d : Nat) (hk : Kept κ s) :
    Kept κ (State.dropFenced s st d) := by
  unfold State.dropFenced
  repeat' (first
      | with_reducible assumption | with_reducible apply State.setReg_kept | with_reducible apply State.faultEvent_kept
      | with_reducible apply State.faultLive_kept | with_reducible apply State.modDrop_kept
      | with_reducible apply State.purgeMoved_kept | with_reducible apply Kept.ite | with_reducible apply Kept.foldl
      | with_reducible apply Kept.foldl_fst | with_reducible apply Kept.foldl_snd | (intro _ _ _) | (intro _ _) | (intro _)
      | with_reducible apply KeptOpt.foldl | exact KeptOpt.of rfl (by with_reducible assumption)
      | exact KeptPair.of rfl (by with_reducible assumption) | with_reducible apply KeptOpt.ite
      | with_reducible refine KeptOpt.mapState ?_ (fun _ _ => ?_) | with_reducible refine KeptOpt.map (fun _ => ?_)
      | with_reducible apply KeptOpt.some | with_reducible exact KeptOpt.none | with_reducible apply KeptPair.ite
      | with_reducible apply KeptPair.some | with_reducible exact KeptPair.none
      | (extract_lets +onlyGivenNames x
         first
         | (refine Kept.cut (k := κ) (s := x) ?_ ?_; subst x; rotate_left; intro hx; clear_value x; revert x; intro _ _)
         | (refine KeptOpt.cut (k := κ) (o := x) ?_ ?_; subst x; rotate_left; intro hx; clear_value x; revert x; intro _ _)
         | (refine KeptPair.cut (k := κ) (o := x) ?_ ?_; subst x; rotate_left; intro hx; clear_value x; revert x; intro _ _)
         | (subst x))
      | dsimp -zeta only | split | simp -zeta only [Kept.mk_iff])

end Sys2Proof.Machine
end

