-- ==== Sys2Proof/Laws/KeptPowerOps.lean ====
section
/-! SUPPORT. Every operation of Machine/PowerOps.lean keeps the build, the queue and the canonical form. -/

namespace Sys2Proof.Machine

set_option linter.all false

theorem State.stopClock_kept {κ : Fixed} {s : State} (f : Nat) (hk : Kept κ s) :
    Kept κ (State.stopClock s f) := by
  unfold State.stopClock
  repeat' (first
      | with_reducible assumption | with_reducible apply State.setReg_kept | with_reducible apply State.modField_kept
      | with_reducible apply State.accrue_kept | with_reducible apply Kept.ite | (intro _ _ _) | (intro _ _) | (intro _)
      | (extract_lets +onlyGivenNames x
         first
         | (refine Kept.cut (k := κ) (s := x) ?_ ?_; subst x; rotate_left; intro hx; clear_value x; revert x; intro _ _)
         | (clear_value x; revert x; intro _))
      | dsimp -zeta only | split | simp -zeta only [Kept.mk_iff])

theorem State.startClock_kept {κ : Fixed} {s : State} (f : Nat) (hk : Kept κ s) :
    Kept κ (State.startClock s f) := by
  unfold State.startClock
  repeat' (first
      | with_reducible assumption | with_reducible apply State.setReg_kept | with_reducible apply State.modField_kept
      | with_reducible apply State.accrue_kept | with_reducible apply State.tidyRouter_kept
      | with_reducible apply State.restartOutputs_kept | with_reducible apply Kept.ite | with_reducible apply Kept.foldl
      | with_reducible apply Kept.foldl_fst | with_reducible apply Kept.foldl_snd | (intro _ _ _) | (intro _ _) | (intro _)
      | (extract_lets +onlyGivenNames x
         first
         | (refine Kept.cut (k := κ) (s := x) ?_ ?_; subst x; rotate_left; intro hx; clear_value x; revert x; intro _ _)
         | (clear_value x; revert x; intro _))
      | dsimp -zeta only | split | simp -zeta only [Kept.mk_iff])

theorem State.droop_kept {κ : Fixed} {s : State} (f : Nat) (n : Nat) (hk : Kept κ s) :
    Kept κ (State.droop s f n) := by
  unfold State.droop
  repeat' (first
      | with_reducible assumption | with_reducible apply State.bump_kept | with_reducible apply State.modField_kept
      | with_reducible apply State.fresh_kept | with_reducible apply Kept.ite | (intro _ _ _) | (intro _ _) | (intro _)
      | refine Kept.of_snd (by with_reducible assumption) ?_ | refine Kept.of_fst (by with_reducible assumption) ?_
      | (extract_lets +onlyGivenNames x
         first
         | (refine Kept.cut (k := κ) (s := x) ?_ ?_; subst x; rotate_left; intro hx; clear_value x; revert x; intro _ _)
         | (refine Kept.cut1 (k := κ) (s := x) ?_ ?_; subst x; rotate_left; intro hx; clear_value x; revert x; intro _ _)
         | (refine Kept.cut2 (k := κ) (s := x) ?_ ?_; subst x; rotate_left; intro hx; clear_value x; revert x; intro _ _)
         | (clear_value x; revert x; intro _))
      | dsimp -zeta only | split | with_reducible refine Kept.mk_time ?_ (Nat.le_max_left _ _)
      | with_reducible refine Kept.mk_time ?_ (Nat.le_add_right _ _) | simp -zeta only [Kept.mk_iff])

theorem State.breezeEntry_kept {κ : Fixed} {s : State} (f : Nat) (hk : Kept κ s) :
    Kept κ (State.breezeEntry s f) := by
  unfold State.breezeEntry
  repeat' (first
      | with_reducible assumption | with_reducible apply State.modField_kept | with_reducible apply State.setPower_kept
      | with_reducible apply State.causeWake_kept | with_reducible apply Kept.ite | (intro _ _ _) | (intro _ _) | (intro _)
      | (extract_lets +onlyGivenNames x
         first
         | (refine Kept.cut (k := κ) (s := x) ?_ ?_; subst x; rotate_left; intro hx; clear_value x; revert x; intro _ _)
         | (clear_value x; revert x; intro _))
      | dsimp -zeta only | split | with_reducible refine Kept.mk_time ?_ (Nat.le_max_left _ _)
      | with_reducible refine Kept.mk_time ?_ (Nat.le_add_right _ _) | simp -zeta only [Kept.mk_iff])

theorem State.lullEntry_kept {κ : Fixed} {s : State} (f : Nat) (hk : Kept κ s) :
    Kept κ (State.lullEntry s f) := by
  unfold State.lullEntry
  repeat' (first
      | with_reducible assumption | with_reducible apply State.modField_kept | with_reducible apply State.setPower_kept
      | with_reducible apply Kept.ite | (intro _ _ _) | (intro _ _) | (intro _)
      | (extract_lets +onlyGivenNames x
         first
         | (refine Kept.cut (k := κ) (s := x) ?_ ?_; subst x; rotate_left; intro hx; clear_value x; revert x; intro _ _)
         | (clear_value x; revert x; intro _))
      | dsimp -zeta only | split | with_reducible refine Kept.mk_time ?_ (Nat.le_max_left _ _)
      | with_reducible refine Kept.mk_time ?_ (Nat.le_add_right _ _) | simp -zeta only [Kept.mk_iff])

theorem State.lullDone_kept {κ : Fixed} {s : State} (f : Nat) (hk : Kept κ s) :
    Kept κ (State.lullDone s f) := by
  unfold State.lullDone
  repeat' (first
      | with_reducible assumption | with_reducible apply State.modField_kept | with_reducible apply State.setPower_kept
      | with_reducible apply Kept.ite | (intro _ _ _) | (intro _ _) | (intro _)
      | (extract_lets +onlyGivenNames x
         first
         | (refine Kept.cut (k := κ) (s := x) ?_ ?_; subst x; rotate_left; intro hx; clear_value x; revert x; intro _ _)
         | (clear_value x; revert x; intro _))
      | dsimp -zeta only | split | with_reducible refine Kept.mk_time ?_ (Nat.le_max_left _ _)
      | with_reducible refine Kept.mk_time ?_ (Nat.le_add_right _ _) | simp -zeta only [Kept.mk_iff])

theorem State.wakeDone_kept {κ : Fixed} {s : State} (f : Nat) (hk : Kept κ s) :
    Kept κ (State.wakeDone s f) := by
  unfold State.wakeDone
  repeat' (first
      | with_reducible assumption | with_reducible apply State.bump_kept | with_reducible apply State.modField_kept
      | with_reducible apply State.countEvent_kept | with_reducible apply State.setPower_kept | with_reducible apply Kept.ite
      | with_reducible apply Kept.foldl | with_reducible apply Kept.foldl_fst | with_reducible apply Kept.foldl_snd | (intro _ _ _)
      | (intro _ _) | (intro _)
      | (extract_lets +onlyGivenNames x
         first
         | (refine Kept.cut (k := κ) (s := x) ?_ ?_; subst x; rotate_left; intro hx; clear_value x; revert x; intro _ _)
         | (clear_value x; revert x; intro _))
      | dsimp -zeta only | split | simp -zeta only [Kept.mk_iff])

theorem State.fieldWake_kept {κ : Fixed} {s : State} (f : Nat) (cause : Nat) (hk : Kept κ s) :
    Kept κ (State.fieldWake s f cause) := by
  unfold State.fieldWake
  repeat' (first
      | with_reducible assumption | with_reducible apply State.causeWake_kept | with_reducible apply State.wakeDone_kept
      | with_reducible apply Kept.ite | dsimp -zeta only | split)

theorem State.wakeAt_kept {κ : Fixed} {s : State} (f : Nat) (arg8 : Nat) (hk : Kept κ s) :
    Kept κ (State.wakeAt s f arg8) := by
  unfold State.wakeAt
  repeat' (first
      | with_reducible assumption | with_reducible apply State.modField_kept | with_reducible apply State.causeWake_kept
      | with_reducible apply Kept.ite | (intro _ _ _) | (intro _ _) | (intro _)
      | (extract_lets +onlyGivenNames x
         first
         | (refine Kept.cut (k := κ) (s := x) ?_ ?_; subst x; rotate_left; intro hx; clear_value x; revert x; intro _ _)
         | (clear_value x; revert x; intro _))
      | dsimp -zeta only | split | simp -zeta only [Kept.mk_iff])

theorem State.wakeHoldEnd_kept {κ : Fixed} {s : State} (f : Nat) (hk : Kept κ s) :
    Kept κ (State.wakeHoldEnd s f) := by
  unfold State.wakeHoldEnd
  repeat' (first
      | with_reducible assumption | with_reducible apply State.modField_kept | with_reducible apply Kept.ite
      | with_reducible apply Kept.foldl | with_reducible apply Kept.foldl_fst | with_reducible apply Kept.foldl_snd | (intro _ _ _)
      | (intro _ _) | (intro _)
      | (extract_lets +onlyGivenNames x
         first
         | (refine Kept.cut (k := κ) (s := x) ?_ ?_; subst x; rotate_left; intro hx; clear_value x; revert x; intro _ _)
         | (clear_value x; revert x; intro _))
      | dsimp -zeta only | split | with_reducible refine Kept.mk_time ?_ (Nat.le_max_left _ _)
      | with_reducible refine Kept.mk_time ?_ (Nat.le_add_right _ _) | simp -zeta only [Kept.mk_iff])

theorem State.atCell_kept {κ : Fixed} {s : State} (c : Coord) (run : State → State) (hrun : ∀ s, Kept κ s → Kept κ (run s)) (hk : Kept κ s) :
    Kept κ (State.atCell s c run) := by
  unfold State.atCell
  repeat' (first
      | with_reducible assumption | with_reducible apply hrun | with_reducible apply State.causeWake_kept
      | with_reducible apply Kept.ite
      | (extract_lets +onlyGivenNames x
         first
         | (refine Kept.cut (k := κ) (s := x) ?_ ?_; subst x; rotate_left; intro hx; clear_value x; revert x; intro _ _)
         | (clear_value x; revert x; intro _))
      | dsimp -zeta only | split)

theorem State.atSig_kept {κ : Fixed} {s : State} (c : Coord) (sg : Signal) (run : State → State) (hrun : ∀ s, Kept κ s → Kept κ (run s)) (hk : Kept κ s) :
    Kept κ (State.atSig s c sg run) := by
  unfold State.atSig
  repeat' (first
      | with_reducible assumption | with_reducible apply hrun | with_reducible apply State.takeSig_kept
      | with_reducible apply State.atCell_kept | with_reducible apply Kept.ite | (intro _ _ _) | (intro _ _) | (intro _)
      | dsimp -zeta only | split | simp -zeta only [Kept.mk_iff])

theorem State.atEject_kept {κ : Fixed} {s : State} (c : Coord) (p : Packet) (run : State) (hrun : Kept κ run) (hk : Kept κ s) :
    Kept κ (State.atEject s c p run) := by
  unfold State.atEject
  repeat' (first
      | with_reducible assumption | with_reducible apply hrun | with_reducible apply State.causeWake_kept
      | with_reducible apply Kept.ite
      | (extract_lets +onlyGivenNames x
         first
         | (refine Kept.cut (k := κ) (s := x) ?_ ?_; subst x; rotate_left; intro hx; clear_value x; revert x; intro _ _)
         | (clear_value x; revert x; intro _))
      | dsimp -zeta only | split)

theorem State.announce_kept {κ : Fixed} {s : State} (st : Nat) (hk : Kept κ s) :
    Kept κ (State.announce s st) := by
  unfold State.announce
  repeat' (first
      | with_reducible assumption | with_reducible apply State.originate322_kept | with_reducible apply Kept.ite | dsimp -zeta only
      | split | simp -zeta only [Kept.mk_iff])

theorem State.watchCalm_kept {κ : Fixed} {s : State} (hk : Kept κ s) :
    Kept κ (State.watchCalm s) := by
  unfold State.watchCalm
  repeat' (first
      | with_reducible assumption | with_reducible apply Kept.ite | dsimp -zeta only | split | simp -zeta only [Kept.mk_iff])

theorem State.stopClocks_kept {κ : Fixed} {s : State} (hk : Kept κ s) :
    Kept κ (State.stopClocks s) := by
  unfold State.stopClocks
  repeat' (first
      | with_reducible assumption | with_reducible apply State.stopClock_kept | with_reducible apply Kept.ite
      | with_reducible apply Kept.foldl | with_reducible apply Kept.foldl_fst | with_reducible apply Kept.foldl_snd | (intro _ _ _)
      | (intro _ _) | (intro _) | dsimp -zeta only | split)

theorem State.dropCaches_kept {κ : Fixed} {s : State} (hk : Kept κ s) :
    Kept κ (State.dropCaches s) := by
  unfold State.dropCaches
  repeat' (first
      | with_reducible assumption | with_reducible apply State.modDrop_kept | with_reducible apply Kept.ite
      | with_reducible apply Kept.foldl | with_reducible apply Kept.foldl_fst | with_reducible apply Kept.foldl_snd | (intro _ _ _)
      | (intro _ _) | (intro _) | dsimp -zeta only | split | simp -zeta only [Kept.mk_iff])

theorem State.calmEntry_kept {κ : Fixed} {s : State} (hk : Kept κ s) :
    Kept κ (State.calmEntry s) := by
  unfold State.calmEntry
  repeat' (first
      | with_reducible assumption | with_reducible apply State.setReg_kept | with_reducible apply State.announce_kept
      | with_reducible apply State.stopClocks_kept | with_reducible apply State.dropCaches_kept | with_reducible apply Kept.ite
      | with_reducible apply KeptOpt.getD
      | (extract_lets +onlyGivenNames x
         first
         | (refine Kept.cut (k := κ) (s := x) ?_ ?_; subst x; rotate_left; intro hx; clear_value x; revert x; intro _ _)
         | (clear_value x; revert x; intro _))
      | dsimp -zeta only | split | with_reducible refine Kept.mk_time ?_ (Nat.le_max_left _ _)
      | with_reducible refine Kept.mk_time ?_ (Nat.le_add_right _ _) | simp -zeta only [Kept.mk_iff])

theorem State.portStill_kept {κ : Fixed} {s : State} (p : Nat) (hk : Kept κ s) :
    Kept κ (State.portStill s p) := by
  unfold State.portStill
  repeat' (first
      | with_reducible assumption | with_reducible apply State.setReg_kept | with_reducible apply State.linkStop_kept
      | with_reducible apply State.setPortState_kept | with_reducible apply State.unroute_kept
      | with_reducible apply State.portClear_kept | with_reducible apply Kept.ite
      | (extract_lets +onlyGivenNames x
         first
         | (refine Kept.cut (k := κ) (s := x) ?_ ?_; subst x; rotate_left; intro hx; clear_value x; revert x; intro _ _)
         | (clear_value x; revert x; intro _))
      | dsimp -zeta only | split)

theorem State.stillEntry_kept {κ : Fixed} {s : State} (hk : Kept κ s) :
    Kept κ (State.stillEntry s) := by
  unfold State.stillEntry
  repeat' (first
      | with_reducible assumption | with_reducible apply State.setReg_kept | with_reducible apply State.msgRun_kept
      | with_reducible apply State.announce_kept | with_reducible apply State.portStill_kept | with_reducible apply Kept.ite
      | with_reducible apply Kept.foldl | with_reducible apply Kept.foldl_fst | with_reducible apply Kept.foldl_snd | (intro _ _ _)
      | (intro _ _) | (intro _)
      | (extract_lets +onlyGivenNames x
         first
         | (refine Kept.cut (k := κ) (s := x) ?_ ?_; subst x; rotate_left; intro hx; clear_value x; revert x; intro _ _)
         | (clear_value x; revert x; intro _))
      | dsimp -zeta only | split)

theorem State.causeEngine_kept {κ : Fixed} {s : State} (cause : Nat) (hk : Kept κ s) :
    Kept κ (State.causeEngine s cause) := by
  unfold State.causeEngine
  repeat' (first
      | with_reducible assumption | with_reducible apply State.setReg_kept | with_reducible apply Kept.ite
      | (extract_lets +onlyGivenNames x
         first
         | (refine Kept.cut (k := κ) (s := x) ?_ ?_; subst x; rotate_left; intro hx; clear_value x; revert x; intro _ _)
         | (clear_value x; revert x; intro _))
      | dsimp -zeta only | split | simp -zeta only [Kept.mk_iff])

theorem State.compInt_kept {κ : Fixed} {s : State} (i : Nat) (hk : Kept κ s) :
    Kept κ (State.compInt s i) := by
  unfold State.compInt
  repeat' (first
      | with_reducible assumption | with_reducible apply State.sendSig_kept | with_reducible apply Kept.ite
      | (extract_lets +onlyGivenNames x
         first
         | (refine Kept.cut (k := κ) (s := x) ?_ ?_; subst x; rotate_left; intro hx; clear_value x; revert x; intro _ _)
         | (clear_value x; revert x; intro _))
      | dsimp -zeta only | split)

theorem State.pllsOn_kept {κ : Fixed} {s : State} (hk : Kept κ s) :
    Kept κ (State.pllsOn s) := by
  unfold State.pllsOn
  repeat' (first
      | with_reducible assumption | with_reducible apply State.faultLive_kept | with_reducible apply State.startClock_kept
      | with_reducible apply Kept.ite | with_reducible apply Kept.foldl | with_reducible apply Kept.foldl_fst
      | with_reducible apply Kept.foldl_snd | (intro _ _ _) | (intro _ _) | (intro _) | dsimp -zeta only | split)

theorem State.engineUp_kept {κ : Fixed} {s : State} (hk : Kept κ s) :
    Kept κ (State.engineUp s) := by
  unfold State.engineUp
  repeat' (first
      | with_reducible assumption | with_reducible apply State.setReg_kept | with_reducible apply State.causeWake_kept
      | with_reducible apply State.rxsEnter_kept | with_reducible apply State.wakeDone_kept | with_reducible apply State.announce_kept
      | with_reducible apply State.compInt_kept | with_reducible apply State.pllsOn_kept | with_reducible apply Kept.ite
      | with_reducible apply Kept.foldl | with_reducible apply Kept.foldl_fst | with_reducible apply Kept.foldl_snd | (intro _ _ _)
      | (intro _ _) | (intro _)
      | (extract_lets +onlyGivenNames x
         first
         | (refine Kept.cut (k := κ) (s := x) ?_ ?_; subst x; rotate_left; intro hx; clear_value x; revert x; intro _ _)
         | (clear_value x; revert x; intro _))
      | dsimp -zeta only | split | simp -zeta only [Kept.mk_iff])

theorem State.engineWake_kept {κ : Fixed} {s : State} (cause : Nat) (hk : Kept κ s) :
    Kept κ (State.engineWake s cause) := by
  unfold State.engineWake
  repeat' (first
      | with_reducible assumption | with_reducible apply State.causeEngine_kept | with_reducible apply State.engineUp_kept
      | with_reducible apply Kept.ite | dsimp -zeta only | split)

theorem State.fantailWindow_kept {κ : Fixed} {s : State} (f : Nat) (hk : Kept κ s) :
    Kept κ (State.fantailWindow s f) := by
  unfold State.fantailWindow
  repeat' (first
      | with_reducible assumption | with_reducible apply State.setReg_kept | with_reducible apply State.bump_kept
      | with_reducible apply State.modField_kept | with_reducible apply State.faultEvent_kept
      | with_reducible apply State.faultLive_kept | with_reducible apply Kept.ite | with_reducible apply Kept.foldl
      | with_reducible apply Kept.foldl_fst | with_reducible apply Kept.foldl_snd | (intro _ _ _) | (intro _ _) | (intro _)
      | (extract_lets +onlyGivenNames x
         first
         | (refine Kept.cut (k := κ) (s := x) ?_ ?_; subst x; rotate_left; intro hx; clear_value x; revert x; intro _ _)
         | (subst x))
      | dsimp -zeta only | split | simp -zeta only [Kept.mk_iff])

theorem State.shareRecompute_kept {κ : Fixed} {s : State} (hk : Kept κ s) :
    Kept κ (State.shareRecompute s) := by
  unfold State.shareRecompute
  repeat' (first
      | with_reducible assumption | with_reducible apply State.modField_kept | with_reducible apply Kept.ite
      | with_reducible apply Kept.foldl | with_reducible apply Kept.foldl_fst | with_reducible apply Kept.foldl_snd | (intro _ _ _)
      | (intro _ _) | (intro _)
      | (extract_lets +onlyGivenNames x
         first
         | (refine Kept.cut (k := κ) (s := x) ?_ ?_; subst x; rotate_left; intro hx; clear_value x; revert x; intro _ _)
         | (clear_value x; revert x; intro _))
      | dsimp -zeta only | split | simp -zeta only [Kept.mk_iff])

theorem State.compFire_kept {κ : Fixed} {s : State} (i : Nat) (hk : Kept κ s) :
    Kept κ (State.compFire s i) := by
  unfold State.compFire
  repeat' (first
      | with_reducible assumption | with_reducible apply State.setReg_kept | with_reducible apply State.bump_kept
      | with_reducible apply State.causeEngine_kept | with_reducible apply State.compInt_kept | with_reducible apply Kept.ite
      | (intro _ _ _) | (intro _ _) | (intro _)
      | (extract_lets +onlyGivenNames x
         first
         | (refine Kept.cut (k := κ) (s := x) ?_ ?_; subst x; rotate_left; intro hx; clear_value x; revert x; intro _ _)
         | (clear_value x; revert x; intro _))
      | dsimp -zeta only | split | with_reducible refine Kept.mk_time ?_ (Nat.le_max_left _ _)
      | with_reducible refine Kept.mk_time ?_ (Nat.le_add_right _ _) | simp -zeta only [Kept.mk_iff])

theorem State.openDiv_kept {κ : Fixed} {s : State} (a : Int) (k : Nat) (hk : Kept κ s) :
    Kept κ (State.openDiv s a k).2 := by
  unfold State.openDiv
  repeat' (first
      | with_reducible assumption | with_reducible apply State.fresh_kept | with_reducible apply Kept.ite
      | with_reducible apply Kept.ite1 | with_reducible apply Kept.ite2 | refine Kept.of_snd (by with_reducible assumption) ?_
      | refine Kept.of_fst (by with_reducible assumption) ?_
      | (extract_lets +onlyGivenNames x
         first
         | (refine Kept.cut (k := κ) (s := x) ?_ ?_; subst x; rotate_left; intro hx; clear_value x; revert x; intro _ _)
         | (refine Kept.cut1 (k := κ) (s := x) ?_ ?_; subst x; rotate_left; intro hx; clear_value x; revert x; intro _ _)
         | (refine Kept.cut2 (k := κ) (s := x) ?_ ?_; subst x; rotate_left; intro hx; clear_value x; revert x; intro _ _)
         | (clear_value x; revert x; intro _))
      | dsimp -zeta only | split)

theorem State.foldTime_kept {κ : Fixed} {s : State} (f : Nat) (hk : Kept κ s) :
    Kept κ (State.foldTime s f) := by
  unfold State.foldTime
  repeat' (first
      | with_reducible assumption | with_reducible apply State.modField_kept | with_reducible apply Kept.ite | (intro _ _ _)
      | (intro _ _) | (intro _) | dsimp -zeta only | split | simp -zeta only [Kept.mk_iff])

theorem State.stepField_kept {κ : Fixed} {s : State} (f : Nat) (d : Int) (hk : Kept κ s) :
    Kept κ (State.stepField s f d) := by
  unfold State.stepField
  repeat' (first
      | with_reducible assumption | with_reducible apply State.bump_kept | with_reducible apply State.modField_kept
      | with_reducible apply State.foldTime_kept | with_reducible apply Kept.ite | (intro _ _ _) | (intro _ _) | (intro _)
      | (extract_lets +onlyGivenNames x
         first
         | (refine Kept.cut (k := κ) (s := x) ?_ ?_; subst x; rotate_left; intro hx; clear_value x; revert x; intro _ _)
         | (clear_value x; revert x; intro _))
      | dsimp -zeta only | split | simp -zeta only [Kept.mk_iff])

theorem State.correct_kept {κ : Fixed} {s : State} (f : Nat) (d : Int) (hk : Kept κ s) :
    Kept κ (State.correct s f d) := by
  unfold State.correct
  repeat' (first
      | with_reducible assumption | with_reducible apply State.modField_kept | with_reducible apply State.foldTime_kept
      | with_reducible apply State.stepField_kept | with_reducible apply Kept.ite | (intro _ _ _) | (intro _ _) | (intro _)
      | dsimp -zeta only | split | simp -zeta only [Kept.mk_iff])

theorem State.beaconOut_kept {κ : Fixed} {s : State} (hk : Kept κ s) :
    Kept κ (State.beaconOut s) := by
  unfold State.beaconOut
  repeat' (first
      | with_reducible assumption | with_reducible apply State.sendSig_kept | with_reducible apply Kept.ite
      | (extract_lets +onlyGivenNames x
         first
         | (refine Kept.cut (k := κ) (s := x) ?_ ?_; subst x; rotate_left; intro hx; clear_value x; revert x; intro _ _)
         | (clear_value x; revert x; intro _))
      | dsimp -zeta only | split | simp -zeta only [Kept.mk_iff])

theorem State.beaconAt_kept {κ : Fixed} {s : State} (f : Nat) (b : Beacon) (hk : Kept κ s) :
    Kept κ (State.beaconAt s f b) := by
  unfold State.beaconAt
  repeat' (first
      | with_reducible assumption | with_reducible apply State.setReg_kept | with_reducible apply State.bump_kept
      | with_reducible apply State.openDiv_kept | with_reducible apply State.stepField_kept | with_reducible apply State.correct_kept
      | with_reducible apply step_kept | with_reducible apply Kept.ite | refine Kept.of_snd (by with_reducible assumption) ?_
      | refine Kept.of_fst (by with_reducible assumption) ?_
      | (extract_lets +onlyGivenNames x
         first
         | (refine Kept.cut (k := κ) (s := x) ?_ ?_; subst x; rotate_left; intro hx; clear_value x; revert x; intro _ _)
         | (refine Kept.cut1 (k := κ) (s := x) ?_ ?_; subst x; rotate_left; intro hx; clear_value x; revert x; intro _ _)
         | (refine Kept.cut2 (k := κ) (s := x) ?_ ?_; subst x; rotate_left; intro hx; clear_value x; revert x; intro _ _)
         | (clear_value x; revert x; intro _))
      | dsimp -zeta only | split)

theorem State.timeFrame_kept {κ : Fixed} {s : State} (p : Nat) (t : TimeBody) (hk : Kept κ s) :
    Kept κ (State.timeFrame s p t) := by
  unfold State.timeFrame
  repeat' (first
      | with_reducible assumption | with_reducible apply State.setReg_kept | with_reducible apply State.bump_kept
      | with_reducible apply State.modField_kept | with_reducible apply State.modPort_kept | with_reducible apply State.fresh_kept
      | with_reducible apply State.openDiv_kept | with_reducible apply State.correct_kept | with_reducible apply Kept.ite
      | with_reducible apply Kept.foldl | with_reducible apply Kept.foldl_fst | with_reducible apply Kept.foldl_snd | (intro _ _ _)
      | (intro _ _) | (intro _) | refine Kept.of_snd (by with_reducible assumption) ?_
      | refine Kept.of_fst (by with_reducible assumption) ?_ | with_reducible apply KeptOpt.foldl
      | exact KeptOpt.of rfl (by with_reducible assumption) | exact KeptPair.of rfl (by with_reducible assumption)
      | with_reducible apply KeptOpt.ite | with_reducible refine KeptOpt.mapState ?_ (fun _ _ => ?_)
      | with_reducible refine KeptOpt.map (fun _ => ?_) | with_reducible apply KeptOpt.some | with_reducible exact KeptOpt.none
      | with_reducible apply KeptPair.ite | with_reducible apply KeptPair.some | with_reducible exact KeptPair.none
      | (extract_lets +onlyGivenNames x
         first
         | (refine Kept.cut (k := κ) (s := x) ?_ ?_; subst x; rotate_left; intro hx; clear_value x; revert x; intro _ _)
         | (refine Kept.cut1 (k := κ) (s := x) ?_ ?_; subst x; rotate_left; intro hx; clear_value x; revert x; intro _ _)
         | (refine Kept.cut2 (k := κ) (s := x) ?_ ?_; subst x; rotate_left; intro hx; clear_value x; revert x; intro _ _)
         | (refine KeptOpt.cut (k := κ) (o := x) ?_ ?_; subst x; rotate_left; intro hx; clear_value x; revert x; intro _ _)
         | (refine KeptPair.cut (k := κ) (o := x) ?_ ?_; subst x; rotate_left; intro hx; clear_value x; revert x; intro _ _)
         | (clear_value x; revert x; intro _))
      | dsimp -zeta only | split | simp -zeta only [Kept.mk_iff])

end Sys2Proof.Machine
end

