-- ==== Sys2Proof/Laws/KeptDictVal.lean ====
section
/-! SUPPORT. Every operation of Machine/DictVal.lean keeps the build, the queue and the canonical form. -/

namespace Sys2Proof.Machine

set_option linter.all false

theorem State.setSelection_kept {κ : Fixed} {s : State} (w : Requester) (n : Node) (idx : Nat) (v : Nat) (hk : Kept κ s) :
    Kept κ (State.setSelection s w n idx v) := by
  unfold State.setSelection
  repeat' (first
      | with_reducible assumption | with_reducible apply Kept.ite | (intro _ _ _) | (intro _ _) | (intro _) | dsimp -zeta only | split
      | simp -zeta only [Kept.mk_iff])

end Sys2Proof.Machine
end

