-- ==== Sys2Proof/Laws/KeptStartOps.lean ====
section
/-! SUPPORT. Every operation of Machine/StartOps.lean keeps the build, the queue and the canonical form. -/

namespace Sys2Proof.Machine

set_option linter.all false

theorem State.stepDone_kept {κ : Fixed} {s : State} (k : Nat) (hk : Kept κ s) :
    Kept κ (State.stepDone s k) := by
  unfold State.stepDone
  repeat' (first
      | with_reducible assumption | with_reducible apply State.setReg_kept | with_reducible apply State.pushRec_kept
      | with_reducible apply Kept.ite
      | (extract_lets +onlyGivenNames x
         first
         | (refine Kept.cut (k := κ) (s := x) ?_ ?_; subst x; rotate_left; intro hx; clear_value x; revert x; intro _ _)
         | (clear_value x; revert x; intro _))
      | dsimp -zeta only | split | simp -zeta only [Kept.mk_iff])

theorem State.bootFail_kept {κ : Fixed} {s : State} (cause : Nat) (fields : List Nat) (hk : Kept κ s) :
    Kept κ (State.bootFail s cause fields) := by
  unfold State.bootFail
  repeat' (first
      | with_reducible assumption | with_reducible apply State.setReg_kept | with_reducible apply State.setTab_kept
      | with_reducible apply Kept.ite
      | (extract_lets +onlyGivenNames x
         first
         | (refine Kept.cut (k := κ) (s := x) ?_ ?_; subst x; rotate_left; intro hx; clear_value x; revert x; intro _ _)
         | (clear_value x; revert x; intro _))
      | dsimp -zeta only | split)

theorem SMap.wf_foldl_put {α : Type} [DecidableEq α] {d : α} {l : SMap α} {f : α → α} {m : SMap α} (h : SMap.wf d m = true) :
    SMap.wf d (l.foldl (fun m e => SMap.put d m e.1 (f e.2)) m) = true := by
  induction l generalizing m with
  | nil => exact h
  | cons a l ih => exact ih (SMap.wf_put h)

theorem State.bringupStart_kept {κ : Fixed} {s : State} (warm : Bool) (hk : Kept κ s) :
    Kept κ (State.bringupStart s warm) := by
  unfold State.bringupStart
  apply State.setReg_kept
  apply State.setReg_kept
  exact ⟨hk.build, hk.pending, hk.time, hk.mem, risingFrom_filter _ hk.regs, SMap.wf_filter _ hk.tabs, rfl,
    SMap.wf_foldl_put (f := keptCell) rfl, SMap.wf_foldl_put (f := keptField warm) rfl, rfl⟩

theorem State.restart_kept {κ : Fixed} {s : State} (hk : Kept κ s) :
    Kept κ (State.restart s) := by
  unfold State.restart
  repeat' (first
      | with_reducible assumption | with_reducible apply State.bringupStart_kept | with_reducible apply Kept.ite | dsimp -zeta only
      | split)

end Sys2Proof.Machine
end

