-- ==== Sys2Proof/Laws/KeptChanOps.lean ====
section
/-! SUPPORT. Every operation of Machine/ChanOps.lean keeps the build, the queue and the canonical form. -/

namespace Sys2Proof.Machine

set_option linter.all false

theorem State.setChan_kept {κ : Fixed} {s : State} (c : Coord) (n : Nat) (sub : Nat) (v : Nat) (hk : Kept κ s) :
    Kept κ (State.setChan s c n sub v) := by
  unfold State.setChan
  repeat' (first
      | with_reducible assumption | with_reducible apply State.setReg_kept | with_reducible apply Kept.ite | dsimp -zeta only | split)

theorem State.setClaims_kept {κ : Fixed} {s : State} (c : Coord) (n : Nat) (l : List Claim) (hk : Kept κ s) :
    Kept κ (State.setClaims s c n l) := by
  unfold State.setClaims
  repeat' (first
      | with_reducible assumption | with_reducible apply State.modCell_kept | with_reducible apply Kept.ite | (intro _ _ _)
      | (intro _ _) | (intro _) | dsimp -zeta only | split | simp -zeta only [Kept.mk_iff])

theorem State.answerChWaits_kept {κ : Fixed} {s : State} (c : Coord) (n : Nat) (hk : Kept κ s) :
    Kept κ (State.answerChWaits s c n) := by
  unfold State.answerChWaits
  repeat' (first
      | with_reducible assumption | with_reducible apply State.modCore_kept | with_reducible apply State.answer_kept
      | with_reducible apply Kept.ite | with_reducible apply Kept.foldl | with_reducible apply Kept.foldl_fst
      | with_reducible apply Kept.foldl_snd | (intro _ _ _) | (intro _ _) | (intro _)
      | (extract_lets +onlyGivenNames x
         first
         | (refine Kept.cut (k := κ) (s := x) ?_ ?_; subst x; rotate_left; intro hx; clear_value x; revert x; intro _ _)
         | (clear_value x; revert x; intro _))
      | dsimp -zeta only | split | simp -zeta only [Kept.mk_iff])

theorem State.chanNack_kept {κ : Fixed} {s : State} (c : Coord) (n : Nat) (p : Packet) (reason : Nat) (chstate : Nat) (var : Nat) (hk : Kept κ s) :
    Kept κ (State.chanNack s c n p reason chstate var) := by
  unfold State.chanNack
  repeat' (first
      | with_reducible assumption | with_reducible apply State.bump_kept | with_reducible apply State.raiseNack_kept
      | with_reducible apply Kept.ite | dsimp -zeta only | split)

theorem State.claimSpace_kept {κ : Fixed} {s : State} (c : Coord) (p : Packet) (t : MessageTail) (hk : Kept κ s) :
    Kept κ (State.claimSpace s c p t) := by
  unfold State.claimSpace
  repeat' (first
      | with_reducible assumption | with_reducible apply State.setChan_kept | with_reducible apply State.setClaims_kept
      | with_reducible apply Kept.ite
      | (extract_lets +onlyGivenNames x
         first
         | (refine Kept.cut (k := κ) (s := x) ?_ ?_; subst x; rotate_left; intro hx; clear_value x; revert x; intro _ _)
         | (clear_value x; revert x; intro _))
      | dsimp -zeta only | split)

theorem State.discardUnits_kept {κ : Fixed} {s : State} (c : Coord) (k : Nat) (hk : Kept κ s) :
    Kept κ (State.discardUnits s c k) := by
  unfold State.discardUnits
  repeat' (first
      | with_reducible assumption | with_reducible apply State.bump_kept | with_reducible apply Kept.ite | dsimp -zeta only | split)

theorem State.sendAdmission_kept {κ : Fixed} {s : State} (c : Coord) (p : Packet) (t : MessageTail) (hk : Kept κ s) :
    Kept κ (State.sendAdmission s c p t) := by
  unfold State.sendAdmission
  repeat' (first
      | with_reducible assumption | with_reducible apply State.modCell_kept | with_reducible apply State.takeDue_kept
      | with_reducible apply State.takePkt_kept | with_reducible apply State.raiseNack_kept | with_reducible apply State.chanNack_kept
      | with_reducible apply State.claimSpace_kept | with_reducible apply State.discardUnits_kept | with_reducible apply Kept.ite
      | (intro _ _ _) | (intro _ _) | (intro _) | dsimp -zeta only | split | simp -zeta only [Kept.mk_iff])

theorem State.publish_kept {κ : Fixed} {s : State} (c : Coord) (n : Nat) (n0 : Nat) (hk : Kept κ s) :
    Kept κ (State.publish s c n n0) := by
  induction n0 generalizing s with
  | zero => exact hk
  | succ n ih =>
    rw [State.publish]
    repeat' (first
      | with_reducible assumption | with_reducible apply ih | with_reducible apply State.bump_kept
      | with_reducible apply State.sendSig_kept | with_reducible apply State.setChan_kept | with_reducible apply State.setClaims_kept
      | with_reducible apply State.done_kept | with_reducible apply Kept.ite
      | (extract_lets +onlyGivenNames x
         first
         | (refine Kept.cut (k := κ) (s := x) ?_ ?_; subst x; rotate_left; intro hx; clear_value x; revert x; intro _ _)
         | (clear_value x; revert x; intro _))
      | dsimp -zeta only | split)

theorem State.publishAll_kept {κ : Fixed} {s : State} (c : Coord) (n : Nat) (hk : Kept κ s) :
    Kept κ (State.publishAll s c n) := by
  unfold State.publishAll
  repeat' (first
      | with_reducible assumption | with_reducible apply State.answerChWaits_kept | with_reducible apply State.publish_kept
      | with_reducible apply Kept.ite | dsimp -zeta only | split)

theorem State.writeSkip_kept {κ : Fixed} {s : State} (c : Coord) (n : Nat) (cl : Claim) (hk : Kept κ s) :
    Kept κ (State.writeSkip s c n cl) := by
  unfold State.writeSkip
  repeat' (first
      | with_reducible assumption | with_reducible apply State.memWriteAs_kept | with_reducible apply Kept.ite | dsimp -zeta only
      | split)

theorem State.sendLanding_kept {κ : Fixed} {s : State} (c : Coord) (p : Packet) (t : MessageTail) (hk : Kept κ s) :
    Kept κ (State.sendLanding s c p t) := by
  unfold State.sendLanding
  repeat' (first
      | with_reducible assumption | with_reducible apply State.modCell_kept | with_reducible apply State.memWriteAs_kept
      | with_reducible apply State.takePkt_kept | with_reducible apply State.faultEvent_kept
      | with_reducible apply State.setClaims_kept | with_reducible apply State.chanNack_kept
      | with_reducible apply State.discardUnits_kept | with_reducible apply State.publishAll_kept
      | with_reducible apply State.writeSkip_kept | with_reducible apply State.done_kept | with_reducible apply Kept.ite
      | (intro _ _ _) | (intro _ _) | (intro _) | exact KeptOpt.of rfl (by with_reducible assumption)
      | exact KeptPair.of rfl (by with_reducible assumption) | with_reducible apply KeptOpt.ite
      | with_reducible refine KeptOpt.mapState ?_ (fun _ _ => ?_) | with_reducible refine KeptOpt.map (fun _ => ?_)
      | with_reducible apply KeptOpt.some | with_reducible exact KeptOpt.none | with_reducible apply KeptPair.ite
      | with_reducible apply KeptPair.some | with_reducible exact KeptPair.none
      | (extract_lets +onlyGivenNames x
         first
         | (refine Kept.cut (k := κ) (s := x) ?_ ?_; subst x; rotate_left; intro hx; clear_value x; revert x; intro _ _)
         | (refine KeptOpt.cut (k := κ) (o := x) ?_ ?_; subst x; rotate_left; intro hx; clear_value x; revert x; intro _ _)
         | (refine KeptPair.cut (k := κ) (o := x) ?_ ?_; subst x; rotate_left; intro hx; clear_value x; revert x; intro _ _)
         | (subst x))
      | dsimp -zeta only | split | simp -zeta only [Kept.mk_iff])

theorem State.enterNack_kept {κ : Fixed} {s : State} (c : Coord) (k : Nack) (hk : Kept κ s) :
    Kept κ (State.enterNack s c k) := by
  unfold State.enterNack
  repeat' (first
      | with_reducible assumption | with_reducible apply State.bump_kept | with_reducible apply State.setRecAt_kept
      | with_reducible apply State.memWriteAs_kept | with_reducible apply State.setChan_kept
      | with_reducible apply State.answerChWaits_kept | with_reducible apply Kept.ite
      | (extract_lets +onlyGivenNames x
         first
         | (refine Kept.cut (k := κ) (s := x) ?_ ?_; subst x; rotate_left; intro hx; clear_value x; revert x; intro _ _)
         | (clear_value x; revert x; intro _))
      | dsimp -zeta only | split)

theorem State.chAdvance_kept {κ : Fixed} {s : State} (c : Coord) (n : Nat) (h : Nat) (g : Nat) (hk : Kept κ s) :
    Kept κ (State.chAdvance s c n h g).2 := by
  unfold State.chAdvance
  repeat' (first
      | with_reducible assumption | with_reducible apply State.bump_kept | with_reducible apply State.setChan_kept
      | with_reducible apply Kept.ite | with_reducible apply Kept.ite1 | with_reducible apply Kept.ite2 | dsimp -zeta only | split)

theorem State.nackClaim_kept {κ : Fixed} {s : State} (c : Coord) (n : Nat) (cl : Claim) (hk : Kept κ s) :
    Kept κ (State.nackClaim s c n cl) := by
  unfold State.nackClaim
  repeat' (first
      | with_reducible assumption | with_reducible apply State.bump_kept | with_reducible apply State.countEvent_kept
      | with_reducible apply State.sendSig_kept | with_reducible apply Kept.ite
      | (extract_lets +onlyGivenNames x
         first
         | (refine Kept.cut (k := κ) (s := x) ?_ ?_; subst x; rotate_left; intro hx; clear_value x; revert x; intro _ _)
         | (clear_value x; revert x; intro _))
      | dsimp -zeta only | split)

theorem State.chanReset_kept {κ : Fixed} {s : State} (c : Coord) (n : Nat) (hk : Kept κ s) :
    Kept κ (State.chanReset s c n) := by
  unfold State.chanReset
  repeat' (first
      | with_reducible assumption | with_reducible apply State.modCell_kept | with_reducible apply State.setChan_kept
      | with_reducible apply State.setClaims_kept | with_reducible apply State.nackClaim_kept | with_reducible apply State.done_kept
      | with_reducible apply Kept.ite | with_reducible apply Kept.foldl | with_reducible apply Kept.foldl_fst
      | with_reducible apply Kept.foldl_snd | (intro _ _ _) | (intro _ _) | (intro _)
      | (extract_lets +onlyGivenNames x
         first
         | (refine Kept.cut (k := κ) (s := x) ?_ ?_; subst x; rotate_left; intro hx; clear_value x; revert x; intro _ _)
         | (clear_value x; revert x; intro _))
      | dsimp -zeta only | split | simp -zeta only [Kept.mk_iff])

theorem State.chanStateWrite_kept {κ : Fixed} {s : State} (c : Coord) (n : Nat) (v : Nat) (hk : Kept κ s) :
    Kept κ (State.chanStateWrite s c n v).2 := by
  unfold State.chanStateWrite
  repeat' (first
      | with_reducible assumption | with_reducible apply State.setChan_kept | with_reducible apply State.answerChWaits_kept
      | with_reducible apply State.chanReset_kept | with_reducible apply Kept.ite | with_reducible apply Kept.ite1
      | with_reducible apply Kept.ite2
      | (extract_lets +onlyGivenNames x
         first
         | (refine Kept.cut (k := κ) (s := x) ?_ ?_; subst x; rotate_left; intro hx; clear_value x; revert x; intro _ _)
         | (refine Kept.cut1 (k := κ) (s := x) ?_ ?_; subst x; rotate_left; intro hx; clear_value x; revert x; intro _ _)
         | (refine Kept.cut2 (k := κ) (s := x) ?_ ?_; subst x; rotate_left; intro hx; clear_value x; revert x; intro _ _)
         | (clear_value x; revert x; intro _))
      | dsimp -zeta only | split)

theorem State.chanHeadWrite_kept {κ : Fixed} {s : State} (c : Coord) (n : Nat) (g : Nat) (hk : Kept κ s) :
    Kept κ (State.chanHeadWrite s c n g).2 := by
  unfold State.chanHeadWrite
  repeat' (first
      | with_reducible assumption | with_reducible apply State.chAdvance_kept | with_reducible apply Kept.ite
      | with_reducible apply Kept.ite1 | with_reducible apply Kept.ite2 | refine Kept.of_snd (by with_reducible assumption) ?_
      | refine Kept.of_fst (by with_reducible assumption) ?_
      | (extract_lets +onlyGivenNames x
         first
         | (refine Kept.cut (k := κ) (s := x) ?_ ?_; subst x; rotate_left; intro hx; clear_value x; revert x; intro _ _)
         | (refine Kept.cut1 (k := κ) (s := x) ?_ ?_; subst x; rotate_left; intro hx; clear_value x; revert x; intro _ _)
         | (refine Kept.cut2 (k := κ) (s := x) ?_ ?_; subst x; rotate_left; intro hx; clear_value x; revert x; intro _ _)
         | (clear_value x; revert x; intro _))
      | dsimp -zeta only | split)

theorem State.resetChannels_kept {κ : Fixed} {s : State} (c : Coord) (hk : Kept κ s) :
    Kept κ (State.resetChannels s c) := by
  unfold State.resetChannels
  repeat' (first
      | with_reducible assumption | with_reducible apply State.chanReset_kept | with_reducible apply Kept.ite
      | with_reducible apply Kept.foldl | with_reducible apply Kept.foldl_fst | with_reducible apply Kept.foldl_snd | (intro _ _ _)
      | (intro _ _) | (intro _) | dsimp -zeta only | split)

end Sys2Proof.Machine
end

