-- ==== Sys2Proof/Laws/KeptDualOps.lean ====
section
/-! SUPPORT. Every operation of Machine/DualOps.lean keeps the build, the queue and the canonical form. -/

namespace Sys2Proof.Machine

set_option linter.all false

theorem State.putHold_kept {κ : Fixed} {s : State} (c : Coord) (h : HoldEnt) (hk : Kept κ s) :
    Kept κ (State.putHold s c h) := by
  unfold State.putHold
  repeat' (first
      | with_reducible assumption | with_reducible apply State.modColl_kept | with_reducible apply Kept.ite | (intro _ _ _)
      | (intro _ _) | (intro _) | dsimp -zeta only | split | simp -zeta only [Kept.mk_iff])

theorem State.dropHold_kept {κ : Fixed} {s : State} (c : Coord) (i : SliceId) (hk : Kept κ s) :
    Kept κ (State.dropHold s c i) := by
  unfold State.dropHold
  repeat' (first
      | with_reducible assumption | with_reducible apply State.modColl_kept | with_reducible apply Kept.ite | (intro _ _ _)
      | (intro _ _) | (intro _) | dsimp -zeta only | split | simp -zeta only [Kept.mk_iff])

theorem State.holdRead_kept {κ : Fixed} {s : State} (c : Coord) (h : HoldEnt) (hk : Kept κ s) :
    Kept κ (State.holdRead s c h).2 := by
  unfold State.holdRead
  repeat' (first
      | with_reducible assumption | with_reducible apply State.issueRead_kept | with_reducible apply Kept.ite
      | with_reducible apply Kept.ite1 | with_reducible apply Kept.ite2 | exact KeptOpt.of rfl (by with_reducible assumption)
      | exact KeptPair.of rfl (by with_reducible assumption) | with_reducible apply KeptOpt.ite
      | with_reducible refine KeptOpt.mapState ?_ (fun _ _ => ?_) | with_reducible refine KeptOpt.map (fun _ => ?_)
      | with_reducible apply KeptOpt.some | with_reducible exact KeptOpt.none | with_reducible apply KeptPair.ite
      | with_reducible apply KeptPair.some | with_reducible exact KeptPair.none
      | (extract_lets +onlyGivenNames x
         first
         | (refine Kept.cut (k := κ) (s := x) ?_ ?_; subst x; rotate_left; intro hx; clear_value x; revert x; intro _ _)
         | (refine Kept.cut1 (k := κ) (s := x) ?_ ?_; subst x; rotate_left; intro hx; clear_value x; revert x; intro _ _)
         | (refine Kept.cut2 (k := κ) (s := x) ?_ ?_; subst x; rotate_left; intro hx; clear_value x; revert x; intro _ _)
         | (refine KeptOpt.cut (k := κ) (o := x) ?_ ?_; subst x; rotate_left; intro hx; clear_value x; revert x; intro _ _)
         | (refine KeptPair.cut (k := κ) (o := x) ?_ ?_; subst x; rotate_left; intro hx; clear_value x; revert x; intro _ _)
         | (clear_value x; revert x; intro _))
      | dsimp -zeta only | split)

theorem State.capture_kept {κ : Fixed} {s : State} (c : Coord) (i : SliceId) (p : Part) (q : Part) (hk : Kept κ s) :
    Kept κ (State.capture s c i p q) := by
  unfold State.capture
  repeat' (first
      | with_reducible assumption | with_reducible apply State.pushRec_kept | with_reducible apply Kept.ite | (intro _ _ _)
      | (intro _ _) | (intro _) | with_reducible apply KeptOpt.getD | exact KeptOpt.of rfl (by with_reducible assumption)
      | exact KeptPair.of rfl (by with_reducible assumption) | with_reducible apply KeptOpt.ite
      | with_reducible refine KeptOpt.mapState ?_ (fun _ _ => ?_) | with_reducible refine KeptOpt.map (fun _ => ?_)
      | with_reducible apply KeptOpt.some | with_reducible exact KeptOpt.none | with_reducible apply KeptPair.ite
      | with_reducible apply KeptPair.some | with_reducible exact KeptPair.none
      | (extract_lets +onlyGivenNames x
         first
         | (refine Kept.cut (k := κ) (s := x) ?_ ?_; subst x; rotate_left; intro hx; clear_value x; revert x; intro _ _)
         | (refine KeptOpt.cut (k := κ) (o := x) ?_ ?_; subst x; rotate_left; intro hx; clear_value x; revert x; intro _ _)
         | (refine KeptPair.cut (k := κ) (o := x) ?_ ?_; subst x; rotate_left; intro hx; clear_value x; revert x; intro _ _)
         | (subst x))
      | dsimp -zeta only | split)

theorem State.captureEnd_kept {κ : Fixed} {s : State} (c : Coord) (i : SliceId) (verdict : Nat) (t : Option Part) (hk : Kept κ s) :
    Kept κ (State.captureEnd s c i verdict t) := by
  unfold State.captureEnd
  repeat' (first
      | with_reducible assumption | with_reducible apply State.setRecs_kept | with_reducible apply Kept.ite | (intro _ _ _)
      | (intro _ _) | (intro _) | exact KeptOpt.of rfl (by with_reducible assumption)
      | exact KeptPair.of rfl (by with_reducible assumption) | with_reducible apply KeptOpt.ite
      | with_reducible refine KeptOpt.mapState ?_ (fun _ _ => ?_) | with_reducible refine KeptOpt.map (fun _ => ?_)
      | with_reducible apply KeptOpt.some | with_reducible exact KeptOpt.none | with_reducible apply KeptPair.ite
      | with_reducible apply KeptPair.some | with_reducible exact KeptPair.none
      | (extract_lets +onlyGivenNames x
         first
         | (refine Kept.cut (k := κ) (s := x) ?_ ?_; subst x; rotate_left; intro hx; clear_value x; revert x; intro _ _)
         | (refine KeptOpt.cut (k := κ) (o := x) ?_ ?_; subst x; rotate_left; intro hx; clear_value x; revert x; intro _ _)
         | (refine KeptPair.cut (k := κ) (o := x) ?_ ?_; subst x; rotate_left; intro hx; clear_value x; revert x; intro _ _)
         | (clear_value x; revert x; intro _))
      | dsimp -zeta only | split)

theorem State.dualStrike_kept {κ : Fixed} {s : State} (c : Coord) (i : SliceId) (e : Option Nat) (hk : Kept κ s) :
    Kept κ (State.dualStrike s c i e) := by
  unfold State.dualStrike
  repeat' (first
      | with_reducible assumption | with_reducible apply State.strikeOr_kept | with_reducible apply Kept.ite
      | exact KeptOpt.of rfl (by with_reducible assumption) | exact KeptPair.of rfl (by with_reducible assumption)
      | with_reducible apply KeptOpt.ite | with_reducible refine KeptOpt.mapState ?_ (fun _ _ => ?_)
      | with_reducible refine KeptOpt.map (fun _ => ?_) | with_reducible apply KeptOpt.some | with_reducible exact KeptOpt.none
      | with_reducible apply KeptPair.ite | with_reducible apply KeptPair.some | with_reducible exact KeptPair.none
      | (extract_lets +onlyGivenNames x
         first
         | (refine Kept.cut (k := κ) (s := x) ?_ ?_; subst x; rotate_left; intro hx; clear_value x; revert x; intro _ _)
         | (refine KeptOpt.cut (k := κ) (o := x) ?_ ?_; subst x; rotate_left; intro hx; clear_value x; revert x; intro _ _)
         | (refine KeptPair.cut (k := κ) (o := x) ?_ ?_; subst x; rotate_left; intro hx; clear_value x; revert x; intro _ _)
         | (clear_value x; revert x; intro _))
      | dsimp -zeta only | split)

theorem State.dualStrike?_kept {κ : Fixed} {s : State} (o : Option Coord) (i : SliceId) (e : Option Nat) (hk : Kept κ s) :
    Kept κ (State.dualStrike? s o i e) := by
  unfold State.dualStrike?
  repeat' (first
      | with_reducible assumption | with_reducible apply State.dualStrike_kept | with_reducible apply Kept.ite | dsimp -zeta only
      | split)

theorem State.unresolved_kept {κ : Fixed} {s : State} (c : Coord) (i : SliceId) (hk : Kept κ s) :
    Kept κ (State.unresolved s c i) := by
  unfold State.unresolved
  repeat' (first
      | with_reducible assumption | with_reducible apply State.setReg_kept | with_reducible apply State.bump_kept
      | with_reducible apply State.suspect_kept | with_reducible apply State.ctxFailure_kept
      | with_reducible apply State.sendResult_kept | with_reducible apply Kept.ite
      | (extract_lets +onlyGivenNames x
         first
         | (refine Kept.cut (k := κ) (s := x) ?_ ?_; subst x; rotate_left; intro hx; clear_value x; revert x; intro _ _)
         | (clear_value x; revert x; intro _))
      | dsimp -zeta only | split)

theorem State.settleHold_kept {κ : Fixed} {s : State} (c : Coord) (i : SliceId) (sub : Nat) (p : Part) (hk : Kept κ s) :
    Kept κ (State.settleHold s c i sub p) := by
  unfold State.settleHold
  repeat' (first
      | with_reducible assumption | with_reducible apply State.bump_kept | with_reducible apply State.emitSlice_kept
      | with_reducible apply State.dropHold_kept | with_reducible apply Kept.ite | dsimp -zeta only | split)

theorem State.lostHold_kept {κ : Fixed} {s : State} (c : Coord) (i : SliceId) (hk : Kept κ s) :
    Kept κ (State.lostHold s c i) := by
  unfold State.lostHold
  repeat' (first
      | with_reducible assumption | with_reducible apply State.fresh_kept | with_reducible apply State.dropHold_kept
      | with_reducible apply State.captureEnd_kept | with_reducible apply State.unresolved_kept | with_reducible apply Kept.ite
      | refine Kept.of_snd (by with_reducible assumption) ?_ | refine Kept.of_fst (by with_reducible assumption) ?_
      | (extract_lets +onlyGivenNames x
         first
         | (refine Kept.cut (k := κ) (s := x) ?_ ?_; subst x; rotate_left; intro hx; clear_value x; revert x; intro _ _)
         | (refine Kept.cut1 (k := κ) (s := x) ?_ ?_; subst x; rotate_left; intro hx; clear_value x; revert x; intro _ _)
         | (refine Kept.cut2 (k := κ) (s := x) ?_ ?_; subst x; rotate_left; intro hx; clear_value x; revert x; intro _ _)
         | (clear_value x; revert x; intro _))
      | dsimp -zeta only | split)

theorem State.noThird_kept {κ : Fixed} {s : State} (c : Coord) (h : HoldEnt) (hk : Kept κ s) :
    Kept κ (State.noThird s c h) := by
  unfold State.noThird
  repeat' (first
      | with_reducible assumption | with_reducible apply State.dropHold_kept | with_reducible apply State.captureEnd_kept
      | with_reducible apply State.dualStrike_kept | with_reducible apply State.dualStrike?_kept
      | with_reducible apply State.unresolved_kept | with_reducible apply Kept.ite
      | (extract_lets +onlyGivenNames x
         first
         | (refine Kept.cut (k := κ) (s := x) ?_ ?_; subst x; rotate_left; intro hx; clear_value x; revert x; intro _ _)
         | (clear_value x; revert x; intro _))
      | dsimp -zeta only | split)

theorem State.recheckNotice_kept {κ : Fixed} {s : State} (c : Coord) (i : SliceId) (hk : Kept κ s) :
    Kept κ (State.recheckNotice s c i) := by
  unfold State.recheckNotice
  repeat' (first
      | with_reducible assumption | with_reducible apply State.sendPkt_kept | with_reducible apply Kept.ite
      | (extract_lets +onlyGivenNames x
         first
         | (refine Kept.cut (k := κ) (s := x) ?_ ?_; subst x; rotate_left; intro hx; clear_value x; revert x; intro _ _)
         | (clear_value x; revert x; intro _))
      | dsimp -zeta only | split)

theorem State.checkVerdict_kept {κ : Fixed} {s : State} (c : Coord) (h : HoldEnt) (hk : Kept κ s) :
    Kept κ (State.checkVerdict s c h) := by
  unfold State.checkVerdict
  repeat' (first
      | with_reducible assumption | with_reducible apply State.putHold_kept | with_reducible apply State.holdRead_kept
      | with_reducible apply State.capture_kept | with_reducible apply State.settleHold_kept
      | with_reducible apply State.lostHold_kept | with_reducible apply State.noThird_kept
      | with_reducible apply State.recheckNotice_kept | with_reducible apply Kept.ite
      | refine Kept.of_snd (by with_reducible assumption) ?_ | refine Kept.of_fst (by with_reducible assumption) ?_
      | exact KeptOpt.of rfl (by with_reducible assumption) | exact KeptPair.of rfl (by with_reducible assumption)
      | with_reducible apply KeptOpt.ite | with_reducible refine KeptOpt.mapState ?_ (fun _ _ => ?_)
      | with_reducible refine KeptOpt.map (fun _ => ?_) | with_reducible apply KeptOpt.some | with_reducible exact KeptOpt.none
      | with_reducible apply KeptPair.ite | with_reducible apply KeptPair.some | with_reducible exact KeptPair.none
      | (extract_lets +onlyGivenNames x
         first
         | (refine Kept.cut (k := κ) (s := x) ?_ ?_; subst x; rotate_left; intro hx; clear_value x; revert x; intro _ _)
         | (refine Kept.cut1 (k := κ) (s := x) ?_ ?_; subst x; rotate_left; intro hx; clear_value x; revert x; intro _ _)
         | (refine Kept.cut2 (k := κ) (s := x) ?_ ?_; subst x; rotate_left; intro hx; clear_value x; revert x; intro _ _)
         | (refine KeptOpt.cut (k := κ) (o := x) ?_ ?_; subst x; rotate_left; intro hx; clear_value x; revert x; intro _ _)
         | (refine KeptPair.cut (k := κ) (o := x) ?_ ?_; subst x; rotate_left; intro hx; clear_value x; revert x; intro _ _)
         | (clear_value x; revert x; intro _))
      | dsimp -zeta only | split | simp -zeta only [Kept.mk_iff])

theorem State.thirdVerdict_kept {κ : Fixed} {s : State} (c : Coord) (h : HoldEnt) (hk : Kept κ s) :
    Kept κ (State.thirdVerdict s c h) := by
  unfold State.thirdVerdict
  repeat' (first
      | with_reducible assumption | with_reducible apply State.dropHold_kept | with_reducible apply State.holdRead_kept
      | with_reducible apply State.captureEnd_kept | with_reducible apply State.dualStrike_kept
      | with_reducible apply State.dualStrike?_kept | with_reducible apply State.unresolved_kept
      | with_reducible apply State.settleHold_kept | with_reducible apply State.lostHold_kept
      | with_reducible apply State.noThird_kept | with_reducible apply Kept.ite | refine Kept.of_snd (by with_reducible assumption) ?_
      | refine Kept.of_fst (by with_reducible assumption) ?_ | exact KeptOpt.of rfl (by with_reducible assumption)
      | exact KeptPair.of rfl (by with_reducible assumption) | with_reducible apply KeptOpt.ite
      | with_reducible refine KeptOpt.mapState ?_ (fun _ _ => ?_) | with_reducible refine KeptOpt.map (fun _ => ?_)
      | with_reducible apply KeptOpt.some | with_reducible exact KeptOpt.none | with_reducible apply KeptPair.ite
      | with_reducible apply KeptPair.some | with_reducible exact KeptPair.none
      | (extract_lets +onlyGivenNames x
         first
         | (refine Kept.cut (k := κ) (s := x) ?_ ?_; subst x; rotate_left; intro hx; clear_value x; revert x; intro _ _)
         | (refine Kept.cut1 (k := κ) (s := x) ?_ ?_; subst x; rotate_left; intro hx; clear_value x; revert x; intro _ _)
         | (refine Kept.cut2 (k := κ) (s := x) ?_ ?_; subst x; rotate_left; intro hx; clear_value x; revert x; intro _ _)
         | (refine KeptOpt.cut (k := κ) (o := x) ?_ ?_; subst x; rotate_left; intro hx; clear_value x; revert x; intro _ _)
         | (refine KeptPair.cut (k := κ) (o := x) ?_ ?_; subst x; rotate_left; intro hx; clear_value x; revert x; intro _ _)
         | (clear_value x; revert x; intro _))
      | dsimp -zeta only | split)

theorem State.partialPiece_kept {κ : Fixed} {s : State} (c : Coord) (third : Bool) (i : SliceId) (q : Part) (last : Bool) (hk : Kept κ s) :
    Kept κ (State.partialPiece s c third i q last) := by
  unfold State.partialPiece
  repeat' (first
      | with_reducible assumption | with_reducible apply State.bump_kept | with_reducible apply State.putHold_kept
      | with_reducible apply State.checkVerdict_kept | with_reducible apply State.thirdVerdict_kept | with_reducible apply Kept.ite
      | (intro _ _ _) | (intro _ _) | (intro _) | exact KeptOpt.of rfl (by with_reducible assumption)
      | exact KeptPair.of rfl (by with_reducible assumption) | with_reducible apply KeptOpt.ite
      | with_reducible refine KeptOpt.mapState ?_ (fun _ _ => ?_) | with_reducible refine KeptOpt.map (fun _ => ?_)
      | with_reducible apply KeptOpt.some | with_reducible exact KeptOpt.none | with_reducible apply KeptPair.ite
      | with_reducible apply KeptPair.some | with_reducible exact KeptPair.none
      | (extract_lets +onlyGivenNames x
         first
         | (refine Kept.cut (k := κ) (s := x) ?_ ?_; subst x; rotate_left; intro hx; clear_value x; revert x; intro _ _)
         | (refine KeptOpt.cut (k := κ) (o := x) ?_ ?_; subst x; rotate_left; intro hx; clear_value x; revert x; intro _ _)
         | (refine KeptPair.cut (k := κ) (o := x) ?_ ?_; subst x; rotate_left; intro hx; clear_value x; revert x; intro _ _)
         | (subst x))
      | dsimp -zeta only | split | simp -zeta only [Kept.mk_iff])

theorem State.partialAt_kept {κ : Fixed} {s : State} (c : Coord) (third : Bool) (p : Packet) (hk : Kept κ s) :
    Kept κ (State.partialAt s c third p) := by
  unfold State.partialAt
  repeat' (first
      | with_reducible assumption | with_reducible apply State.takePkt_kept | with_reducible apply State.checkFault_kept
      | with_reducible apply State.refusePiece_kept | with_reducible apply State.partialPiece_kept | with_reducible apply Kept.ite
      | with_reducible apply Kept.foldl | with_reducible apply Kept.foldl_fst | with_reducible apply Kept.foldl_snd | (intro _ _ _)
      | (intro _ _) | (intro _) | with_reducible apply KeptOpt.foldl | exact KeptOpt.of rfl (by with_reducible assumption)
      | exact KeptPair.of rfl (by with_reducible assumption) | with_reducible apply KeptOpt.ite
      | with_reducible refine KeptOpt.mapState ?_ (fun _ _ => ?_) | with_reducible refine KeptOpt.map (fun _ => ?_)
      | with_reducible apply KeptOpt.some | with_reducible exact KeptOpt.none | with_reducible apply KeptPair.ite
      | with_reducible apply KeptPair.some | with_reducible exact KeptPair.none
      | (extract_lets +onlyGivenNames x
         first
         | (refine Kept.cut (k := κ) (s := x) ?_ ?_; subst x; rotate_left; intro hx; clear_value x; revert x; intro _ _)
         | (refine KeptOpt.cut (k := κ) (o := x) ?_ ?_; subst x; rotate_left; intro hx; clear_value x; revert x; intro _ _)
         | (refine KeptPair.cut (k := κ) (o := x) ?_ ?_; subst x; rotate_left; intro hx; clear_value x; revert x; intro _ _)
         | (clear_value x; revert x; intro _))
      | dsimp -zeta only | split)

theorem State.checkWaitEnd_kept {κ : Fixed} {s : State} (c : Coord) (i : SliceId) (hk : Kept κ s) :
    Kept κ (State.checkWaitEnd s c i) := by
  unfold State.checkWaitEnd
  repeat' (first
      | with_reducible assumption | with_reducible apply State.holdRead_kept | with_reducible apply State.settleHold_kept
      | with_reducible apply State.lostHold_kept | with_reducible apply Kept.ite
      | refine Kept.of_snd (by with_reducible assumption) ?_ | refine Kept.of_fst (by with_reducible assumption) ?_
      | exact KeptOpt.of rfl (by with_reducible assumption) | exact KeptPair.of rfl (by with_reducible assumption)
      | with_reducible apply KeptOpt.ite | with_reducible refine KeptOpt.mapState ?_ (fun _ _ => ?_)
      | with_reducible refine KeptOpt.map (fun _ => ?_) | with_reducible apply KeptOpt.some | with_reducible exact KeptOpt.none
      | with_reducible apply KeptPair.ite | with_reducible apply KeptPair.some | with_reducible exact KeptPair.none
      | (extract_lets +onlyGivenNames x
         first
         | (refine Kept.cut (k := κ) (s := x) ?_ ?_; subst x; rotate_left; intro hx; clear_value x; revert x; intro _ _)
         | (refine Kept.cut1 (k := κ) (s := x) ?_ ?_; subst x; rotate_left; intro hx; clear_value x; revert x; intro _ _)
         | (refine Kept.cut2 (k := κ) (s := x) ?_ ?_; subst x; rotate_left; intro hx; clear_value x; revert x; intro _ _)
         | (refine KeptOpt.cut (k := κ) (o := x) ?_ ?_; subst x; rotate_left; intro hx; clear_value x; revert x; intro _ _)
         | (refine KeptPair.cut (k := κ) (o := x) ?_ ?_; subst x; rotate_left; intro hx; clear_value x; revert x; intro _ _)
         | (clear_value x; revert x; intro _))
      | dsimp -zeta only | split | with_reducible refine Kept.mk_time ?_ (Nat.le_max_left _ _)
      | with_reducible refine Kept.mk_time ?_ (Nat.le_add_right _ _) | simp -zeta only [Kept.mk_iff])

theorem State.thirdWaitEnd_kept {κ : Fixed} {s : State} (c : Coord) (i : SliceId) (hk : Kept κ s) :
    Kept κ (State.thirdWaitEnd s c i) := by
  unfold State.thirdWaitEnd
  repeat' (first
      | with_reducible assumption | with_reducible apply State.noThird_kept | with_reducible apply Kept.ite | dsimp -zeta only | split
      | with_reducible refine Kept.mk_time ?_ (Nat.le_max_left _ _) | with_reducible refine Kept.mk_time ?_ (Nat.le_add_right _ _)
      | simp -zeta only [Kept.mk_iff])

theorem State.recheckOwn_kept {κ : Fixed} {s : State} (c : Coord) (i : SliceId) (hk : Kept κ s) :
    Kept κ (State.recheckOwn s c i) := by
  unfold State.recheckOwn
  repeat' (first
      | with_reducible assumption | with_reducible apply State.modDep_kept | with_reducible apply State.askOwn_kept
      | with_reducible apply Kept.ite | (intro _ _ _) | (intro _ _) | (intro _) | dsimp -zeta only | split
      | simp -zeta only [Kept.mk_iff])

theorem State.thirdRead_kept {κ : Fixed} {s : State} (c : Coord) (tag : Nat) (k : Nat) (bad : Bool) (hk : Kept κ s) :
    Kept κ (State.thirdRead s c tag k bad) := by
  unfold State.thirdRead
  repeat' (first
      | with_reducible assumption | with_reducible apply State.bump_kept | with_reducible apply State.faultEvent_kept
      | with_reducible apply State.modDep_kept | with_reducible apply State.millFlags_kept | with_reducible apply State.sendPart_kept
      | with_reducible apply Kept.ite | with_reducible apply Kept.foldl | with_reducible apply Kept.foldl_fst
      | with_reducible apply Kept.foldl_snd | (intro _ _ _) | (intro _ _) | (intro _) | with_reducible apply KeptOpt.foldl
      | exact KeptOpt.of rfl (by with_reducible assumption) | exact KeptPair.of rfl (by with_reducible assumption)
      | with_reducible apply KeptOpt.ite | with_reducible refine KeptOpt.mapState ?_ (fun _ _ => ?_)
      | with_reducible refine KeptOpt.map (fun _ => ?_) | with_reducible apply KeptOpt.some | with_reducible exact KeptOpt.none
      | with_reducible apply KeptPair.ite | with_reducible apply KeptPair.some | with_reducible exact KeptPair.none
      | (extract_lets +onlyGivenNames x
         first
         | (refine Kept.cut (k := κ) (s := x) ?_ ?_; subst x; rotate_left; intro hx; clear_value x; revert x; intro _ _)
         | (refine KeptOpt.cut (k := κ) (o := x) ?_ ?_; subst x; rotate_left; intro hx; clear_value x; revert x; intro _ _)
         | (refine KeptPair.cut (k := κ) (o := x) ?_ ?_; subst x; rotate_left; intro hx; clear_value x; revert x; intro _ _)
         | (clear_value x; revert x; intro _))
      | dsimp -zeta only | split | simp -zeta only [Kept.mk_iff])

theorem State.recheckAt_kept {κ : Fixed} {s : State} (c : Coord) (p : Packet) (hk : Kept κ s) :
    Kept κ (State.recheckAt s c p) := by
  unfold State.recheckAt
  repeat' (first
      | with_reducible assumption | with_reducible apply State.takePkt_kept | with_reducible apply State.recheckOwn_kept
      | with_reducible apply Kept.ite | with_reducible apply Kept.foldl | with_reducible apply Kept.foldl_fst
      | with_reducible apply Kept.foldl_snd | (intro _ _ _) | (intro _ _) | (intro _)
      | (extract_lets +onlyGivenNames x
         first
         | (refine Kept.cut (k := κ) (s := x) ?_ ?_; subst x; rotate_left; intro hx; clear_value x; revert x; intro _ _)
         | (clear_value x; revert x; intro _))
      | dsimp -zeta only | split)

theorem State.patternShown_kept {κ : Fixed} {s : State} (k : Nat) (e : Nat) (hk : Kept κ s) :
    Kept κ (State.patternShown s k e).2 := by
  unfold State.patternShown
  repeat' (first
      | with_reducible assumption | with_reducible apply State.fresh_kept | with_reducible apply Kept.ite
      | with_reducible apply Kept.ite1 | with_reducible apply Kept.ite2 | (intro _ _ _) | (intro _ _) | (intro _)
      | refine Kept.of_snd (by with_reducible assumption) ?_ | refine Kept.of_fst (by with_reducible assumption) ?_
      | (extract_lets +onlyGivenNames x
         first
         | (refine Kept.cut (k := κ) (s := x) ?_ ?_; subst x; rotate_left; intro hx; clear_value x; revert x; intro _ _)
         | (refine Kept.cut1 (k := κ) (s := x) ?_ ?_; subst x; rotate_left; intro hx; clear_value x; revert x; intro _ _)
         | (refine Kept.cut2 (k := κ) (s := x) ?_ ?_; subst x; rotate_left; intro hx; clear_value x; revert x; intro _ _)
         | (subst x))
      | dsimp -zeta only | split)

theorem State.patternLane_kept {κ : Fixed} {s : State} (c : Coord) (lane : Nat) (k : Nat) (hk : Kept κ s) :
    Kept κ (State.patternLane s c lane k).2 := by
  unfold State.patternLane
  repeat' (first
      | with_reducible assumption | with_reducible apply State.pushRec_kept | with_reducible apply State.fresh_kept
      | with_reducible apply State.takeInject_kept | with_reducible apply State.strikeOr_kept
      | with_reducible apply State.patternShown_kept | with_reducible apply Kept.ite | with_reducible apply Kept.ite1
      | with_reducible apply Kept.ite2 | refine Kept.of_snd (by with_reducible assumption) ?_
      | refine Kept.of_fst (by with_reducible assumption) ?_ | refine KeptPair.of (by with_reducible assumption) ?_
      | exact KeptOpt.of rfl (by with_reducible assumption) | exact KeptPair.of rfl (by with_reducible assumption)
      | with_reducible apply KeptOpt.ite | with_reducible refine KeptOpt.mapState ?_ (fun _ _ => ?_)
      | with_reducible refine KeptOpt.map (fun _ => ?_) | with_reducible apply KeptOpt.some | with_reducible exact KeptOpt.none
      | with_reducible apply KeptPair.ite | with_reducible apply KeptPair.some | with_reducible exact KeptPair.none
      | (extract_lets +onlyGivenNames x
         first
         | (refine Kept.cut (k := κ) (s := x) ?_ ?_; subst x; rotate_left; intro hx; clear_value x; revert x; intro _ _)
         | (refine Kept.cut1 (k := κ) (s := x) ?_ ?_; subst x; rotate_left; intro hx; clear_value x; revert x; intro _ _)
         | (refine Kept.cut2 (k := κ) (s := x) ?_ ?_; subst x; rotate_left; intro hx; clear_value x; revert x; intro _ _)
         | (refine KeptOpt.cut (k := κ) (o := x) ?_ ?_; subst x; rotate_left; intro hx; clear_value x; revert x; intro _ _)
         | (refine KeptPair.cut (k := κ) (o := x) ?_ ?_; subst x; rotate_left; intro hx; clear_value x; revert x; intro _ _)
         | (clear_value x; revert x; intro _))
      | dsimp -zeta only | split)

theorem State.replay_kept {κ : Fixed} {s : State} (c : Coord) (hk : Kept κ s) :
    Kept κ (State.replay s c) := by
  unfold State.replay
  repeat' (first
      | with_reducible assumption | with_reducible apply State.bump_kept | with_reducible apply State.patternLane_kept
      | with_reducible apply Kept.ite | with_reducible apply Kept.foldl | with_reducible apply Kept.foldl_fst
      | with_reducible apply Kept.foldl_snd | with_reducible apply Kept.ite1 | with_reducible apply Kept.ite2 | (intro _ _ _)
      | (intro _ _) | (intro _) | refine Kept.of_snd (by with_reducible assumption) ?_
      | refine Kept.of_fst (by with_reducible assumption) ?_
      | (extract_lets +onlyGivenNames x
         first
         | (refine Kept.cut (k := κ) (s := x) ?_ ?_; subst x; rotate_left; intro hx; clear_value x; revert x; intro _ _)
         | (refine Kept.cut1 (k := κ) (s := x) ?_ ?_; subst x; rotate_left; intro hx; clear_value x; revert x; intro _ _)
         | (refine Kept.cut2 (k := κ) (s := x) ?_ ?_; subst x; rotate_left; intro hx; clear_value x; revert x; intro _ _)
         | (clear_value x; revert x; intro _))
      | dsimp -zeta only | split)

theorem State.patternReplay_kept {κ : Fixed} {s : State} (c : Coord) (hk : Kept κ s) :
    Kept κ (State.patternReplay s c) := by
  unfold State.patternReplay
  repeat' (first
      | with_reducible assumption | with_reducible apply State.replay_kept | with_reducible apply Kept.ite | dsimp -zeta only | split)

end Sys2Proof.Machine
end

