-- ==== Sys2Proof/Laws/KeptDictWrite.lean ====
section
/-! SUPPORT. Every operation of Machine/DictWrite.lean keeps the build, the queue and the canonical form. -/

namespace Sys2Proof.Machine

set_option linter.all false

theorem State.storeReg_kept {κ : Fixed} {s : State} (o : Obj) (v : Nat) (hk : Kept κ s) :
    Kept κ (State.storeReg s o v) := by
  unfold State.storeReg
  repeat' (first
      | with_reducible assumption | with_reducible apply State.setReg_kept | with_reducible apply Kept.ite | dsimp -zeta only | split)

theorem State.storeBlob_kept {κ : Fixed} {s : State} (o : Obj) (a : Nat) (bs : List Byte) (tend : Bool) (hk : Kept κ s) :
    Kept κ (State.storeBlob s o a bs tend) := by
  unfold State.storeBlob
  repeat' (first
      | with_reducible assumption | with_reducible apply State.setReg_kept | with_reducible apply State.setTab_kept
      | with_reducible apply Kept.ite
      | (extract_lets +onlyGivenNames x
         first
         | (refine Kept.cut (k := κ) (s := x) ?_ ?_; subst x; rotate_left; intro hx; clear_value x; revert x; intro _ _)
         | (clear_value x; revert x; intro _))
      | dsimp -zeta only | split)

theorem State.clearStatus_kept {κ : Fixed} {s : State} (n : Node) (idx : Nat) (v : Nat) (hk : Kept κ s) :
    Kept κ (State.clearStatus s n idx v).2 := by
  unfold State.clearStatus
  repeat' (first
      | with_reducible assumption | with_reducible apply State.setReg_kept | with_reducible apply Kept.ite
      | with_reducible apply Kept.ite1 | with_reducible apply Kept.ite2
      | (extract_lets +onlyGivenNames x
         first
         | (refine Kept.cut (k := κ) (s := x) ?_ ?_; subst x; rotate_left; intro hx; clear_value x; revert x; intro _ _)
         | (refine Kept.cut1 (k := κ) (s := x) ?_ ?_; subst x; rotate_left; intro hx; clear_value x; revert x; intro _ _)
         | (refine Kept.cut2 (k := κ) (s := x) ?_ ?_; subst x; rotate_left; intro hx; clear_value x; revert x; intro _ _)
         | (clear_value x; revert x; intro _))
      | dsimp -zeta only | split)

theorem State.enableInts_kept {κ : Fixed} {s : State} (n : Node) (idx : Nat) (v : Nat) (hk : Kept κ s) :
    Kept κ (State.enableInts s n idx v) := by
  unfold State.enableInts
  repeat' (first
      | with_reducible assumption | with_reducible apply State.setReg_kept | with_reducible apply State.faultInt_kept
      | with_reducible apply Kept.ite
      | (extract_lets +onlyGivenNames x
         first
         | (refine Kept.cut (k := κ) (s := x) ?_ ?_; subst x; rotate_left; intro hx; clear_value x; revert x; intro _ _)
         | (clear_value x; revert x; intro _))
      | dsimp -zeta only | split)

theorem State.portFree_kept {κ : Fixed} {s : State} (p : Nat) (hk : Kept κ s) :
    Kept κ (State.portFree s p) := by
  unfold State.portFree
  repeat' (first
      | with_reducible assumption | with_reducible apply State.setPortState_kept | with_reducible apply Kept.ite | dsimp -zeta only
      | split)

theorem State.releasePort_kept {κ : Fixed} {s : State} (p : Nat) (hk : Kept κ s) :
    Kept κ (State.releasePort s p) := by
  unfold State.releasePort
  repeat' (first
      | with_reducible assumption | with_reducible apply State.setReg_kept | with_reducible apply State.faultLive_kept
      | with_reducible apply State.portFree_kept | with_reducible apply Kept.ite
      | (extract_lets +onlyGivenNames x
         first
         | (refine Kept.cut (k := κ) (s := x) ?_ ?_; subst x; rotate_left; intro hx; clear_value x; revert x; intro _ _)
         | (clear_value x; revert x; intro _))
      | dsimp -zeta only | split | simp -zeta only [Kept.mk_iff])

theorem State.writeFence_kept {κ : Fixed} {s : State} (o : Obj) (v : Nat) (hk : Kept κ s) :
    Kept κ (State.writeFence s o v).2 := by
  unfold State.writeFence
  repeat' (first
      | with_reducible assumption | with_reducible apply State.decideFence_kept | with_reducible apply State.settle_kept
      | with_reducible apply State.releasePort_kept | with_reducible apply Kept.ite | with_reducible apply Kept.ite1
      | with_reducible apply Kept.ite2 | exact KeptOpt.of rfl (by with_reducible assumption)
      | exact KeptPair.of rfl (by with_reducible assumption) | with_reducible apply KeptOpt.ite
      | with_reducible refine KeptOpt.mapState ?_ (fun _ _ => ?_) | with_reducible refine KeptOpt.map (fun _ => ?_)
      | with_reducible apply KeptOpt.some | with_reducible exact KeptOpt.none | with_reducible apply KeptPair.ite
      | with_reducible apply KeptPair.some | with_reducible exact KeptPair.none
      | (extract_lets +onlyGivenNames x
         first
         | (refine Kept.cut (k := κ) (s := x) ?_ ?_; subst x; rotate_left; intro hx; clear_value x; revert x; intro _ _)
         | (refine Kept.cut1 (k := κ) (s := x) ?_ ?_; subst x; rotate_left; intro hx; clear_value x; revert x; intro _ _)
         | (refine Kept.cut2 (k := κ) (s := x) ?_ ?_; subst x; rotate_left; intro hx; clear_value x; revert x; intro _ _)
         | (refine KeptOpt.cut (k := κ) (o := x) ?_ ?_; subst x; rotate_left; intro hx; clear_value x; revert x; intro _ _)
         | (refine KeptPair.cut (k := κ) (o := x) ?_ ?_; subst x; rotate_left; intro hx; clear_value x; revert x; intro _ _)
         | (clear_value x; revert x; intro _))
      | dsimp -zeta only | split)

theorem State.releaseQuarantine_kept {κ : Fixed} {s : State} (p : Nat) (hk : Kept κ s) :
    Kept κ (State.releaseQuarantine s p) := by
  unfold State.releaseQuarantine
  repeat' (first
      | with_reducible assumption | with_reducible apply State.setReg_kept | with_reducible apply State.faultLive_kept
      | with_reducible apply State.portFree_kept | with_reducible apply Kept.ite | dsimp -zeta only | split)

theorem State.writeRetrain_kept {κ : Fixed} {s : State} (p : Nat) (v : Nat) (hk : Kept κ s) :
    Kept κ (State.writeRetrain s p v) := by
  unfold State.writeRetrain
  repeat' (first
      | with_reducible assumption | with_reducible apply State.retrain_kept | with_reducible apply State.rekeyStart_kept
      | with_reducible apply Kept.ite | dsimp -zeta only | split)

theorem State.writeRelay_kept {κ : Fixed} {s : State} (p : Nat) (v : Nat) (hk : Kept κ s) :
    KeptOpt κ (State.writeRelay s p v) := by
  unfold State.writeRelay
  repeat' (first
      | with_reducible assumption | with_reducible apply State.relayOn_kept | with_reducible apply State.relayOff_kept
      | with_reducible apply Kept.ite | with_reducible apply KeptOpt.ite | with_reducible refine KeptOpt.mapState ?_ (fun _ _ => ?_)
      | with_reducible refine KeptOpt.map (fun _ => ?_) | with_reducible apply KeptOpt.some | with_reducible exact KeptOpt.none
      | dsimp -zeta only | split)

theorem State.writeRole_kept {κ : Fixed} {s : State} (p : Nat) (v : Nat) (hk : Kept κ s) :
    Kept κ (State.writeRole s p v) := by
  unfold State.writeRole
  repeat' (first
      | with_reducible assumption | with_reducible apply State.setReg_kept | with_reducible apply State.setPortState_kept
      | with_reducible apply Kept.ite
      | (extract_lets +onlyGivenNames x
         first
         | (refine Kept.cut (k := κ) (s := x) ?_ ?_; subst x; rotate_left; intro hx; clear_value x; revert x; intro _ _)
         | (clear_value x; revert x; intro _))
      | dsimp -zeta only | split)

theorem State.restop_kept {κ : Fixed} {s : State} (cells : List Coord) (run : State → State) (hrun : ∀ s, Kept κ s → Kept κ (run s)) (hk : Kept κ s) :
    Kept κ (State.restop s cells run) := by
  unfold State.restop
  repeat' (first
      | with_reducible assumption | with_reducible apply hrun | with_reducible apply State.noteStop_kept
      | with_reducible apply Kept.ite | with_reducible apply Kept.foldl | with_reducible apply Kept.foldl_fst
      | with_reducible apply Kept.foldl_snd | (intro _ _ _) | (intro _ _) | (intro _)
      | (extract_lets +onlyGivenNames x
         first
         | (refine Kept.cut (k := κ) (s := x) ?_ ?_; subst x; rotate_left; intro hx; clear_value x; revert x; intro _ _)
         | (clear_value x; revert x; intro _))
      | dsimp -zeta only | split)

theorem State.writeTolerance_kept {κ : Fixed} {s : State} (f : Nat) (v : Nat) (hk : Kept κ s) :
    Kept κ (State.writeTolerance s f v) := by
  unfold State.writeTolerance
  repeat' (first
      | with_reducible assumption | with_reducible apply State.setReg_kept | with_reducible apply State.causeWake_kept
      | with_reducible apply Kept.ite
      | (extract_lets +onlyGivenNames x
         first
         | (refine Kept.cut (k := κ) (s := x) ?_ ?_; subst x; rotate_left; intro hx; clear_value x; revert x; intro _ _)
         | (clear_value x; revert x; intro _))
      | dsimp -zeta only | split)

theorem State.writeEngTolerance_kept {κ : Fixed} {s : State} (v : Nat) (hk : Kept κ s) :
    Kept κ (State.writeEngTolerance s v) := by
  unfold State.writeEngTolerance
  repeat' (first
      | with_reducible assumption | with_reducible apply State.setReg_kept | with_reducible apply State.causeEngine_kept
      | with_reducible apply Kept.ite
      | (extract_lets +onlyGivenNames x
         first
         | (refine Kept.cut (k := κ) (s := x) ?_ ?_; subst x; rotate_left; intro hx; clear_value x; revert x; intro _ _)
         | (clear_value x; revert x; intro _))
      | dsimp -zeta only | split)

theorem State.writeFreq_kept {κ : Fixed} {s : State} (f : Nat) (r : DictReq) (hk : Kept κ s) :
    Kept κ (State.writeFreq s f r) := by
  unfold State.writeFreq
  repeat' (first
      | with_reducible assumption | with_reducible apply State.setReg_kept | with_reducible apply State.stopClock_kept
      | with_reducible apply Kept.ite
      | (extract_lets +onlyGivenNames x
         first
         | (refine Kept.cut (k := κ) (s := x) ?_ ?_; subst x; rotate_left; intro hx; clear_value x; revert x; intro _ _)
         | (clear_value x; revert x; intro _))
      | dsimp -zeta only | split | simp -zeta only [Kept.mk_iff])

theorem State.pllLoss_kept {κ : Fixed} {s : State} (f : Nat) (hk : Kept κ s) :
    Kept κ (State.pllLoss s f) := by
  unfold State.pllLoss
  repeat' (first
      | with_reducible assumption | with_reducible apply State.faultLive_kept | with_reducible apply State.strike_kept
      | with_reducible apply State.stopClock_kept | with_reducible apply Kept.ite | dsimp -zeta only | split)

theorem State.writeArm_kept {κ : Fixed} {s : State} (n : Node) (v : Nat) (hk : Kept κ s) :
    Kept κ (State.writeArm s n v) := by
  unfold State.writeArm
  repeat' (first
      | with_reducible assumption | with_reducible apply State.setReg_kept | with_reducible apply State.faultEvent_kept
      | with_reducible apply State.faultLive_kept | with_reducible apply State.takeInject_kept
      | with_reducible apply State.settle_kept | with_reducible apply State.stopClock_kept | with_reducible apply State.pllLoss_kept
      | with_reducible apply Kept.ite | refine Kept.of_snd (by with_reducible assumption) ?_
      | refine Kept.of_fst (by with_reducible assumption) ?_ | refine KeptPair.of (by with_reducible assumption) ?_
      | exact KeptOpt.of rfl (by with_reducible assumption) | exact KeptPair.of rfl (by with_reducible assumption)
      | with_reducible apply KeptOpt.ite | with_reducible refine KeptOpt.mapState ?_ (fun _ _ => ?_)
      | with_reducible refine KeptOpt.map (fun _ => ?_) | with_reducible apply KeptOpt.some | with_reducible exact KeptOpt.none
      | with_reducible apply KeptPair.ite | with_reducible apply KeptPair.some | with_reducible exact KeptPair.none
      | (extract_lets +onlyGivenNames x
         first
         | (refine Kept.cut (k := κ) (s := x) ?_ ?_; subst x; rotate_left; intro hx; clear_value x; revert x; intro _ _)
         | (refine Kept.cut1 (k := κ) (s := x) ?_ ?_; subst x; rotate_left; intro hx; clear_value x; revert x; intro _ _)
         | (refine Kept.cut2 (k := κ) (s := x) ?_ ?_; subst x; rotate_left; intro hx; clear_value x; revert x; intro _ _)
         | (refine KeptOpt.cut (k := κ) (o := x) ?_ ?_; subst x; rotate_left; intro hx; clear_value x; revert x; intro _ _)
         | (refine KeptPair.cut (k := κ) (o := x) ?_ ?_; subst x; rotate_left; intro hx; clear_value x; revert x; intro _ _)
         | (clear_value x; revert x; intro _))
      | dsimp -zeta only | split)

theorem State.writeSelect_kept {κ : Fixed} {s : State} (c : Coord) (i : Nat) (v : Nat) (hk : Kept κ s) :
    Kept κ (State.writeSelect s c i v) := by
  unfold State.writeSelect
  repeat' (first
      | with_reducible assumption | with_reducible apply State.setReg_kept | with_reducible apply State.setRecAt_kept
      | with_reducible apply State.accrue_kept | with_reducible apply Kept.ite
      | (extract_lets +onlyGivenNames x
         first
         | (refine Kept.cut (k := κ) (s := x) ?_ ?_; subst x; rotate_left; intro hx; clear_value x; revert x; intro _ _)
         | (clear_value x; revert x; intro _))
      | dsimp -zeta only | split)

theorem State.writeAction_kept {κ : Fixed} {s : State} (o : Obj) (v : Nat) (hk : Kept κ s) :
    Kept κ (State.writeAction s o v) := by
  unfold State.writeAction
  repeat' (first
      | with_reducible assumption | with_reducible apply State.setReg_kept | with_reducible apply State.setRecs_kept
      | with_reducible apply State.storeReg_kept | with_reducible apply Kept.ite | dsimp -zeta only | split)

theorem State.writeHalt_kept {κ : Fixed} {s : State} (g : Nat) (v : Nat) (hk : Kept κ s) :
    Kept κ (State.writeHalt s g v) := by
  unfold State.writeHalt
  repeat' (first
      | with_reducible assumption | with_reducible apply State.setReg_kept | with_reducible apply State.sendHalt_kept
      | with_reducible apply Kept.ite
      | (extract_lets +onlyGivenNames x
         first
         | (refine Kept.cut (k := κ) (s := x) ?_ ?_; subst x; rotate_left; intro hx; clear_value x; revert x; intro _ _)
         | (clear_value x; revert x; intro _))
      | dsimp -zeta only | split)

theorem State.writeFt_kept {κ : Fixed} {s : State} (v : Nat) (hk : Kept κ s) :
    Kept κ (State.writeFt s v) := by
  unfold State.writeFt
  repeat' (first
      | with_reducible assumption | with_reducible apply State.stepField_kept | with_reducible apply Kept.ite
      | (extract_lets +onlyGivenNames x
         first
         | (refine Kept.cut (k := κ) (s := x) ?_ ?_; subst x; rotate_left; intro hx; clear_value x; revert x; intro _ _)
         | (clear_value x; revert x; intro _))
      | dsimp -zeta only | split | simp -zeta only [Kept.mk_iff])

theorem State.writeRing_kept {κ : Fixed} {s : State} (sub : Nat) (v : Nat) (hk : Kept κ s) :
    Kept κ (State.writeRing s sub v) := by
  unfold State.writeRing
  repeat' (first
      | with_reducible assumption | with_reducible apply State.setReg_kept | with_reducible apply Kept.ite
      | (extract_lets +onlyGivenNames x
         first
         | (refine Kept.cut (k := κ) (s := x) ?_ ?_; subst x; rotate_left; intro hx; clear_value x; revert x; intro _ _)
         | (clear_value x; revert x; intro _))
      | dsimp -zeta only | split | simp -zeta only [Kept.mk_iff])

theorem State.writeStart_kept {κ : Fixed} {s : State} (o : Obj) (hk : Kept κ s) :
    Kept κ (State.writeStart s o).2 := by
  unfold State.writeStart
  repeat' (first
      | with_reducible assumption | with_reducible apply State.fresh_kept | with_reducible apply State.strmStart_kept
      | with_reducible apply Kept.ite | with_reducible apply Kept.ite1 | with_reducible apply Kept.ite2
      | refine Kept.of_snd (by with_reducible assumption) ?_ | refine Kept.of_fst (by with_reducible assumption) ?_
      | (extract_lets +onlyGivenNames x
         first
         | (refine Kept.cut (k := κ) (s := x) ?_ ?_; subst x; rotate_left; intro hx; clear_value x; revert x; intro _ _)
         | (refine Kept.cut1 (k := κ) (s := x) ?_ ?_; subst x; rotate_left; intro hx; clear_value x; revert x; intro _ _)
         | (refine Kept.cut2 (k := κ) (s := x) ?_ ?_; subst x; rotate_left; intro hx; clear_value x; revert x; intro _ _)
         | (clear_value x; revert x; intro _))
      | dsimp -zeta only | split)

theorem State.writeClose_kept {κ : Fixed} {s : State} (o : Obj) (r : DictReq) (hk : Kept κ s) :
    Kept κ (State.writeClose s o r).2 := by
  unfold State.writeClose
  repeat' (first
      | with_reducible assumption | with_reducible apply State.closeEpoch_kept | with_reducible apply Kept.ite
      | with_reducible apply Kept.ite1 | with_reducible apply Kept.ite2 | dsimp -zeta only | split)

theorem State.writeRestart_kept {κ : Fixed} {s : State} (hk : Kept κ s) :
    Kept κ (State.writeRestart s).2 := by
  unfold State.writeRestart
  repeat' (first
      | with_reducible assumption | with_reducible apply State.restart_kept | with_reducible apply Kept.ite
      | with_reducible apply Kept.ite1 | with_reducible apply Kept.ite2 | dsimp -zeta only | split)

theorem State.writeDrain_kept {κ : Fixed} {s : State} (hk : Kept κ s) :
    Kept κ (State.writeDrain s).2 := by
  unfold State.writeDrain
  repeat' (first
      | with_reducible assumption | with_reducible apply State.drainStart_kept | with_reducible apply Kept.ite
      | with_reducible apply Kept.ite1 | with_reducible apply Kept.ite2 | dsimp -zeta only | split)

theorem State.writeFault_kept {κ : Fixed} {s : State} (o : Obj) (v : Nat) (hk : Kept κ s) :
    Kept κ (State.writeFault s o v).2 := by
  unfold State.writeFault
  repeat' (first
      | with_reducible assumption | with_reducible apply State.suspect_kept | with_reducible apply State.storeReg_kept
      | with_reducible apply State.clearStatus_kept | with_reducible apply State.enableInts_kept
      | with_reducible apply State.writeFence_kept | with_reducible apply State.writeDrain_kept | with_reducible apply Kept.ite
      | with_reducible apply Kept.ite1 | with_reducible apply Kept.ite2 | refine Kept.of_snd (by with_reducible assumption) ?_
      | refine Kept.of_fst (by with_reducible assumption) ?_ | dsimp -zeta only | split)

theorem State.writeBlob_kept {κ : Fixed} {s : State} (r : DictReq) (o : Obj) (hk : Kept κ s) :
    Kept κ (State.writeBlob s r o).2 := by
  unfold State.writeBlob
  repeat' (first
      | with_reducible assumption | with_reducible apply State.bump_kept | with_reducible apply State.storeBlob_kept
      | with_reducible apply Kept.ite | with_reducible apply Kept.ite1 | with_reducible apply Kept.ite2
      | (extract_lets +onlyGivenNames x
         first
         | (refine Kept.cut (k := κ) (s := x) ?_ ?_; subst x; rotate_left; intro hx; clear_value x; revert x; intro _ _)
         | (refine Kept.cut1 (k := κ) (s := x) ?_ ?_; subst x; rotate_left; intro hx; clear_value x; revert x; intro _ _)
         | (refine Kept.cut2 (k := κ) (s := x) ?_ ?_; subst x; rotate_left; intro hx; clear_value x; revert x; intro _ _)
         | (clear_value x; revert x; intro _))
      | dsimp -zeta only | split)

theorem State.writeCell_kept {κ : Fixed} {s : State} (r : DictReq) (o : Obj) (hk : Kept κ s) :
    Kept κ (State.writeCell s r o).2 := by
  unfold State.writeCell
  repeat' (first
      | with_reducible assumption | with_reducible apply State.setReg_kept | with_reducible apply State.setRecs_kept
      | with_reducible apply State.freezeRing_kept | with_reducible apply State.fresh_kept
      | with_reducible apply State.chanStateWrite_kept | with_reducible apply State.chanHeadWrite_kept
      | with_reducible apply State.replay_kept | with_reducible apply State.storeReg_kept
      | with_reducible apply State.releaseQuarantine_kept | with_reducible apply State.writeRetrain_kept
      | with_reducible apply State.writeRelay_kept | with_reducible apply State.writeRole_kept
      | with_reducible apply State.restop_kept | with_reducible apply State.writeArm_kept
      | with_reducible apply State.writeSelect_kept | with_reducible apply State.writeAction_kept
      | with_reducible apply State.writeClose_kept | with_reducible apply State.writeFault_kept | with_reducible apply Kept.ite
      | with_reducible apply Kept.ite1 | with_reducible apply Kept.ite2 | (intro _ _ _) | (intro _ _) | (intro _)
      | refine Kept.of_snd (by with_reducible assumption) ?_ | refine Kept.of_fst (by with_reducible assumption) ?_
      | refine KeptOpt.of (by with_reducible assumption) ?_ | with_reducible apply KeptOpt.getD
      | exact KeptOpt.of rfl (by with_reducible assumption) | exact KeptPair.of rfl (by with_reducible assumption)
      | with_reducible apply KeptOpt.ite | with_reducible refine KeptOpt.mapState ?_ (fun _ _ => ?_)
      | with_reducible refine KeptOpt.map (fun _ => ?_) | with_reducible apply KeptOpt.some | with_reducible exact KeptOpt.none
      | with_reducible apply KeptPair.ite | with_reducible apply KeptPair.some | with_reducible exact KeptPair.none
      | (extract_lets +onlyGivenNames x
         first
         | (refine Kept.cut (k := κ) (s := x) ?_ ?_; subst x; rotate_left; intro hx; clear_value x; revert x; intro _ _)
         | (refine Kept.cut1 (k := κ) (s := x) ?_ ?_; subst x; rotate_left; intro hx; clear_value x; revert x; intro _ _)
         | (refine Kept.cut2 (k := κ) (s := x) ?_ ?_; subst x; rotate_left; intro hx; clear_value x; revert x; intro _ _)
         | (refine KeptOpt.cut (k := κ) (o := x) ?_ ?_; subst x; rotate_left; intro hx; clear_value x; revert x; intro _ _)
         | (refine KeptPair.cut (k := κ) (o := x) ?_ ?_; subst x; rotate_left; intro hx; clear_value x; revert x; intro _ _)
         | (subst x))
      | dsimp -zeta only | split)

theorem State.writeField_kept {κ : Fixed} {s : State} (r : DictReq) (f : Nat) (o : Obj) (hk : Kept κ s) :
    Kept κ (State.writeField s r f o).2 := by
  unfold State.writeField
  repeat' (first
      | with_reducible assumption | with_reducible apply State.storeReg_kept | with_reducible apply State.restop_kept
      | with_reducible apply State.writeTolerance_kept | with_reducible apply State.writeFreq_kept
      | with_reducible apply State.writeFault_kept | with_reducible apply Kept.ite | with_reducible apply Kept.ite1
      | with_reducible apply Kept.ite2 | (intro _ _ _) | (intro _ _) | (intro _)
      | refine Kept.of_snd (by with_reducible assumption) ?_ | refine Kept.of_fst (by with_reducible assumption) ?_
      | exact KeptOpt.of rfl (by with_reducible assumption) | exact KeptPair.of rfl (by with_reducible assumption)
      | with_reducible apply KeptOpt.ite | with_reducible refine KeptOpt.mapState ?_ (fun _ _ => ?_)
      | with_reducible refine KeptOpt.map (fun _ => ?_) | with_reducible apply KeptOpt.some | with_reducible exact KeptOpt.none
      | with_reducible apply KeptPair.ite | with_reducible apply KeptPair.some | with_reducible exact KeptPair.none
      | (extract_lets +onlyGivenNames x
         first
         | (refine Kept.cut (k := κ) (s := x) ?_ ?_; subst x; rotate_left; intro hx; clear_value x; revert x; intro _ _)
         | (refine Kept.cut1 (k := κ) (s := x) ?_ ?_; subst x; rotate_left; intro hx; clear_value x; revert x; intro _ _)
         | (refine Kept.cut2 (k := κ) (s := x) ?_ ?_; subst x; rotate_left; intro hx; clear_value x; revert x; intro _ _)
         | (refine KeptOpt.cut (k := κ) (o := x) ?_ ?_; subst x; rotate_left; intro hx; clear_value x; revert x; intro _ _)
         | (refine KeptPair.cut (k := κ) (o := x) ?_ ?_; subst x; rotate_left; intro hx; clear_value x; revert x; intro _ _)
         | (subst x))
      | dsimp -zeta only | split)

theorem State.writeEngine_kept {κ : Fixed} {s : State} (r : DictReq) (o : Obj) (hk : Kept κ s) :
    Kept κ (State.writeEngine s r o).2 := by
  unfold State.writeEngine
  repeat' (first
      | with_reducible assumption | with_reducible apply State.setReg_kept | with_reducible apply State.causeEngine_kept
      | with_reducible apply State.sweepEnable_kept | with_reducible apply State.allRings_kept
      | with_reducible apply State.storeReg_kept | with_reducible apply State.writeEngTolerance_kept
      | with_reducible apply State.writeHalt_kept | with_reducible apply State.writeFt_kept
      | with_reducible apply State.writeRing_kept | with_reducible apply State.writeStart_kept
      | with_reducible apply State.writeRestart_kept | with_reducible apply State.writeFault_kept | with_reducible apply Kept.ite
      | with_reducible apply Kept.ite1 | with_reducible apply Kept.ite2 | (intro _ _ _) | (intro _ _) | (intro _)
      | refine Kept.of_snd (by with_reducible assumption) ?_ | refine Kept.of_fst (by with_reducible assumption) ?_
      | exact KeptOpt.of rfl (by with_reducible assumption) | exact KeptPair.of rfl (by with_reducible assumption)
      | with_reducible apply KeptOpt.ite | with_reducible refine KeptOpt.mapState ?_ (fun _ _ => ?_)
      | with_reducible refine KeptOpt.map (fun _ => ?_) | with_reducible apply KeptOpt.some | with_reducible exact KeptOpt.none
      | with_reducible apply KeptPair.ite | with_reducible apply KeptPair.some | with_reducible exact KeptPair.none
      | (extract_lets +onlyGivenNames x
         first
         | (refine Kept.cut (k := κ) (s := x) ?_ ?_; subst x; rotate_left; intro hx; clear_value x; revert x; intro _ _)
         | (refine Kept.cut1 (k := κ) (s := x) ?_ ?_; subst x; rotate_left; intro hx; clear_value x; revert x; intro _ _)
         | (refine Kept.cut2 (k := κ) (s := x) ?_ ?_; subst x; rotate_left; intro hx; clear_value x; revert x; intro _ _)
         | (refine KeptOpt.cut (k := κ) (o := x) ?_ ?_; subst x; rotate_left; intro hx; clear_value x; revert x; intro _ _)
         | (refine KeptPair.cut (k := κ) (o := x) ?_ ?_; subst x; rotate_left; intro hx; clear_value x; revert x; intro _ _)
         | (subst x))
      | dsimp -zeta only | split)

theorem State.writeNow_kept {κ : Fixed} {s : State} (r : DictReq) (o : Obj) (hk : Kept κ s) :
    Kept κ (State.writeNow s r o).2 := by
  unfold State.writeNow
  repeat' (first
      | with_reducible assumption | with_reducible apply State.ringEvent_kept | with_reducible apply State.setSelection_kept
      | with_reducible apply State.writeBlob_kept | with_reducible apply State.writeCell_kept
      | with_reducible apply State.writeField_kept | with_reducible apply State.writeEngine_kept | with_reducible apply Kept.ite
      | with_reducible apply Kept.ite1 | with_reducible apply Kept.ite2 | refine Kept.of_snd (by with_reducible assumption) ?_
      | refine Kept.of_fst (by with_reducible assumption) ?_ | exact KeptOpt.of rfl (by with_reducible assumption)
      | exact KeptPair.of rfl (by with_reducible assumption) | with_reducible apply KeptOpt.ite
      | with_reducible refine KeptOpt.mapState ?_ (fun _ _ => ?_) | with_reducible refine KeptOpt.map (fun _ => ?_)
      | with_reducible apply KeptOpt.some | with_reducible exact KeptOpt.none | with_reducible apply KeptPair.ite
      | with_reducible apply KeptPair.some | with_reducible exact KeptPair.none
      | (extract_lets +onlyGivenNames x
         first
         | (refine Kept.cut (k := κ) (s := x) ?_ ?_; subst x; rotate_left; intro hx; clear_value x; revert x; intro _ _)
         | (refine Kept.cut1 (k := κ) (s := x) ?_ ?_; subst x; rotate_left; intro hx; clear_value x; revert x; intro _ _)
         | (refine Kept.cut2 (k := κ) (s := x) ?_ ?_; subst x; rotate_left; intro hx; clear_value x; revert x; intro _ _)
         | (refine KeptOpt.cut (k := κ) (o := x) ?_ ?_; subst x; rotate_left; intro hx; clear_value x; revert x; intro _ _)
         | (refine KeptPair.cut (k := κ) (o := x) ?_ ?_; subst x; rotate_left; intro hx; clear_value x; revert x; intro _ _)
         | (clear_value x; revert x; intro _))
      | dsimp -zeta only | split)

end Sys2Proof.Machine
end

