-- ==== Sys2Proof/Laws/KeptDictCommit.lean ====
section
/-! SUPPORT. Every operation of Machine/DictCommit.lean keeps the build, the queue and the canonical form. -/

namespace Sys2Proof.Machine

set_option linter.all false

theorem State.dictAnswer_kept {κ : Fixed} {s : State} (r : DictReq) (a : Rsp) (hk : Kept κ s) :
    Kept κ (State.dictAnswer s r a) := by
  unfold State.dictAnswer
  repeat' (first
      | with_reducible assumption | with_reducible apply State.maintSig_kept | with_reducible apply Kept.ite
      | (extract_lets +onlyGivenNames x
         first
         | (refine Kept.cut (k := κ) (s := x) ?_ ?_; subst x; rotate_left; intro hx; clear_value x; revert x; intro _ _)
         | (clear_value x; revert x; intro _))
      | dsimp -zeta only | split)

theorem State.setGroups_kept {κ : Fixed} {s : State} (gs : List Group) (hk : Kept κ s) :
    Kept κ (State.setGroups s gs) := by
  unfold State.setGroups
  repeat' (first
      | with_reducible assumption | with_reducible apply Kept.ite | dsimp -zeta only | split | simp -zeta only [Kept.mk_iff])

theorem State.stage_kept {κ : Fixed} {s : State} (r : DictReq) (o : Obj) (hk : Kept κ s) :
    Kept κ (State.stage s r o).2 := by
  unfold State.stage
  repeat' (first
      | with_reducible assumption | with_reducible apply State.setGroups_kept | with_reducible apply Kept.ite
      | with_reducible apply Kept.foldl | with_reducible apply Kept.foldl_fst | with_reducible apply Kept.foldl_snd
      | with_reducible apply Kept.ite1 | with_reducible apply Kept.ite2 | (intro _ _ _) | (intro _ _) | (intro _)
      | with_reducible apply KeptOpt.getD | with_reducible apply KeptOpt.foldl | exact KeptOpt.of rfl (by with_reducible assumption)
      | exact KeptPair.of rfl (by with_reducible assumption) | with_reducible apply KeptOpt.ite
      | with_reducible refine KeptOpt.mapState ?_ (fun _ _ => ?_) | with_reducible refine KeptOpt.map (fun _ => ?_)
      | with_reducible apply KeptOpt.some | with_reducible exact KeptOpt.none | with_reducible apply KeptPair.ite
      | with_reducible apply KeptPair.some | with_reducible exact KeptPair.none
      | (extract_lets +onlyGivenNames x
         first
         | (refine Kept.cut (k := κ) (s := x) ?_ ?_; subst x; rotate_left; intro hx; clear_value x; revert x; intro _ _)
         | (refine Kept.cut1 (k := κ) (s := x) ?_ ?_; subst x; rotate_left; intro hx; clear_value x; revert x; intro _ _)
         | (refine Kept.cut2 (k := κ) (s := x) ?_ ?_; subst x; rotate_left; intro hx; clear_value x; revert x; intro _ _)
         | (refine KeptOpt.cut (k := κ) (o := x) ?_ ?_; subst x; rotate_left; intro hx; clear_value x; revert x; intro _ _)
         | (refine KeptPair.cut (k := κ) (o := x) ?_ ?_; subst x; rotate_left; intro hx; clear_value x; revert x; intro _ _)
         | (subst x))
      | dsimp -zeta only | split | simp -zeta only [Kept.mk_iff])

theorem State.applyStaged_kept {κ : Fixed} {s : State} (w : Staged) (hk : Kept κ s) :
    Kept κ (State.applyStaged s w) := by
  unfold State.applyStaged
  repeat' (first
      | with_reducible assumption | with_reducible apply State.modOut_kept | with_reducible apply State.storeReg_kept
      | with_reducible apply State.storeBlob_kept | with_reducible apply Kept.ite | (intro _ _ _) | (intro _ _) | (intro _)
      | with_reducible apply KeptOpt.getD | exact KeptOpt.of rfl (by with_reducible assumption)
      | exact KeptPair.of rfl (by with_reducible assumption) | with_reducible apply KeptOpt.ite
      | with_reducible refine KeptOpt.mapState ?_ (fun _ _ => ?_) | with_reducible refine KeptOpt.map (fun _ => ?_)
      | with_reducible apply KeptOpt.some | with_reducible exact KeptOpt.none | with_reducible apply KeptPair.ite
      | with_reducible apply KeptPair.some | with_reducible exact KeptPair.none
      | (extract_lets +onlyGivenNames x
         first
         | (refine Kept.cut (k := κ) (s := x) ?_ ?_; subst x; rotate_left; intro hx; clear_value x; revert x; intro _ _)
         | (refine KeptOpt.cut (k := κ) (o := x) ?_ ?_; subst x; rotate_left; intro hx; clear_value x; revert x; intro _ _)
         | (refine KeptPair.cut (k := κ) (o := x) ?_ ?_; subst x; rotate_left; intro hx; clear_value x; revert x; intro _ _)
         | (clear_value x; revert x; intro _))
      | dsimp -zeta only | split | simp -zeta only [Kept.mk_iff])

theorem State.armCtx_kept {κ : Fixed} {s : State} (k : Nat) (hk : Kept κ s) :
    Kept κ (State.armCtx s k) := by
  unfold State.armCtx
  repeat' (first
      | with_reducible assumption | with_reducible apply State.setReg_kept | with_reducible apply Kept.ite | (intro _ _ _)
      | (intro _ _) | (intro _) | exact KeptOpt.of rfl (by with_reducible assumption)
      | exact KeptPair.of rfl (by with_reducible assumption) | with_reducible apply KeptOpt.ite
      | with_reducible refine KeptOpt.mapState ?_ (fun _ _ => ?_) | with_reducible refine KeptOpt.map (fun _ => ?_)
      | with_reducible apply KeptOpt.some | with_reducible exact KeptOpt.none | with_reducible apply KeptPair.ite
      | with_reducible apply KeptPair.some | with_reducible exact KeptPair.none
      | (extract_lets +onlyGivenNames x
         first
         | (refine Kept.cut (k := κ) (s := x) ?_ ?_; subst x; rotate_left; intro hx; clear_value x; revert x; intro _ _)
         | (refine KeptOpt.cut (k := κ) (o := x) ?_ ?_; subst x; rotate_left; intro hx; clear_value x; revert x; intro _ _)
         | (refine KeptPair.cut (k := κ) (o := x) ?_ ?_; subst x; rotate_left; intro hx; clear_value x; revert x; intro _ _)
         | (subst x))
      | dsimp -zeta only | split | simp -zeta only [Kept.mk_iff])

theorem State.wouldBe_kept {κ : Fixed} {s : State} (g : Group) (hk : Kept κ s) :
    Kept κ (State.wouldBe s g) := by
  unfold State.wouldBe
  repeat' (first
      | with_reducible assumption | with_reducible apply State.applyStaged_kept | with_reducible apply State.armCtx_kept
      | with_reducible apply Kept.ite | with_reducible apply Kept.foldl | with_reducible apply Kept.foldl_fst
      | with_reducible apply Kept.foldl_snd | (intro _ _ _) | (intro _ _) | (intro _) | dsimp -zeta only | split)

theorem State.forgetCtx_kept {κ : Fixed} {s : State} (k : Nat) (hk : Kept κ s) :
    Kept κ (State.forgetCtx s k) :=
  { hk with regs := risingFrom_filter _ hk.regs }

theorem State.armBar_kept {κ : Fixed} {s : State} (old : Coord) (k : Nat) (hk : Kept κ s) :
    Kept κ (State.armBar s old k) := by
  unfold State.armBar
  repeat' (first
      | with_reducible assumption | with_reducible apply State.setReg_kept | with_reducible apply Kept.ite | (intro _ _ _)
      | (intro _ _) | (intro _)
      | (extract_lets +onlyGivenNames x
         first
         | (refine Kept.cut (k := κ) (s := x) ?_ ?_; subst x; rotate_left; intro hx; clear_value x; revert x; intro _ _)
         | (clear_value x; revert x; intro _))
      | dsimp -zeta only | split)

theorem State.armTbl_kept {κ : Fixed} {s : State} (old : Option (Nat × Nat)) (k : Nat) (hk : Kept κ s) :
    Kept κ (State.armTbl s old k) := by
  unfold State.armTbl
  repeat' (first
      | with_reducible assumption | with_reducible apply State.setReg_kept | with_reducible apply Kept.ite
      | exact KeptOpt.of rfl (by with_reducible assumption) | exact KeptPair.of rfl (by with_reducible assumption)
      | with_reducible apply KeptOpt.ite | with_reducible refine KeptOpt.mapState ?_ (fun _ _ => ?_)
      | with_reducible refine KeptOpt.map (fun _ => ?_) | with_reducible apply KeptOpt.some | with_reducible exact KeptOpt.none
      | with_reducible apply KeptPair.ite | with_reducible apply KeptPair.some | with_reducible exact KeptPair.none
      | (extract_lets +onlyGivenNames x
         first
         | (refine Kept.cut (k := κ) (s := x) ?_ ?_; subst x; rotate_left; intro hx; clear_value x; revert x; intro _ _)
         | (refine KeptOpt.cut (k := κ) (o := x) ?_ ?_; subst x; rotate_left; intro hx; clear_value x; revert x; intro _ _)
         | (refine KeptPair.cut (k := κ) (o := x) ?_ ?_; subst x; rotate_left; intro hx; clear_value x; revert x; intro _ _)
         | (clear_value x; revert x; intro _))
      | dsimp -zeta only | split)

theorem State.armAny_kept {κ : Fixed} {s : State} (k : Nat) (hk : Kept κ s) :
    Kept κ (State.armAny s k) := by
  unfold State.armAny
  repeat' (first
      | with_reducible assumption | with_reducible apply Kept.ite | (intro _ _ _) | (intro _ _) | (intro _)
      | (extract_lets +onlyGivenNames x
         first
         | (refine Kept.cut (k := κ) (s := x) ?_ ?_; subst x; rotate_left; intro hx; clear_value x; revert x; intro _ _)
         | (clear_value x; revert x; intro _))
      | dsimp -zeta only | split | simp -zeta only [Kept.mk_iff])

theorem State.applyGroup_kept {κ : Fixed} {s : State} (g : Group) (gen : Nat) (hk : Kept κ s) :
    Kept κ (State.applyGroup s g gen) := by
  unfold State.applyGroup
  repeat' (first
      | with_reducible assumption | with_reducible apply State.ringEvent_kept | with_reducible apply State.applyStaged_kept
      | with_reducible apply State.armCtx_kept | with_reducible apply State.forgetCtx_kept | with_reducible apply State.armBar_kept
      | with_reducible apply State.armTbl_kept | with_reducible apply State.armAny_kept | with_reducible apply Kept.ite
      | with_reducible apply Kept.foldl | with_reducible apply Kept.foldl_fst | with_reducible apply Kept.foldl_snd | (intro _ _ _)
      | (intro _ _) | (intro _)
      | (extract_lets +onlyGivenNames x
         first
         | (refine Kept.cut (k := κ) (s := x) ?_ ?_; subst x; rotate_left; intro hx; clear_value x; revert x; intro _ _)
         | (clear_value x; revert x; intro _))
      | dsimp -zeta only | split)

theorem State.applyRound_kept {κ : Fixed} {s : State} (g : Group) (gen : Nat) (l : List Nat) (hk : Kept κ s) :
    Kept κ (State.applyRound s g gen l) := by
  unfold State.applyRound
  repeat' (first
      | with_reducible assumption | with_reducible apply State.applyGroup_kept | with_reducible apply Kept.ite
      | with_reducible apply Kept.foldl | with_reducible apply Kept.foldl_fst | with_reducible apply Kept.foldl_snd | (intro _ _ _)
      | (intro _ _) | (intro _)
      | (extract_lets +onlyGivenNames x
         first
         | (refine Kept.cut (k := κ) (s := x) ?_ ?_; subst x; rotate_left; intro hx; clear_value x; revert x; intro _ _)
         | (clear_value x; revert x; intro _))
      | dsimp -zeta only | split | simp -zeta only [Kept.mk_iff])

theorem State.nextCommit_kept {κ : Fixed} {s : State} (n0 : Nat) (hk : Kept κ s) :
    Kept κ (State.nextCommit s n0) := by
  induction n0 generalizing s with
  | zero => exact hk
  | succ n ih =>
    rw [State.nextCommit]
    repeat' (first
      | with_reducible assumption | with_reducible apply ih | with_reducible apply State.dictAnswer_kept
      | with_reducible apply Kept.ite | (intro _ _ _) | (intro _ _) | (intro _) | exact KeptOpt.of rfl (by with_reducible assumption)
      | exact KeptPair.of rfl (by with_reducible assumption) | with_reducible apply KeptOpt.ite
      | with_reducible refine KeptOpt.mapState ?_ (fun _ _ => ?_) | with_reducible refine KeptOpt.map (fun _ => ?_)
      | with_reducible apply KeptOpt.some | with_reducible exact KeptOpt.none | with_reducible apply KeptPair.ite
      | with_reducible apply KeptPair.some | with_reducible exact KeptPair.none
      | (extract_lets +onlyGivenNames x
         first
         | (refine Kept.cut (k := κ) (s := x) ?_ ?_; subst x; rotate_left; intro hx; clear_value x; revert x; intro _ _)
         | (refine KeptOpt.cut (k := κ) (o := x) ?_ ?_; subst x; rotate_left; intro hx; clear_value x; revert x; intro _ _)
         | (refine KeptPair.cut (k := κ) (o := x) ?_ ?_; subst x; rotate_left; intro hx; clear_value x; revert x; intro _ _)
         | (clear_value x; revert x; intro _))
      | dsimp -zeta only | split | simp -zeta only [Kept.mk_iff])

theorem State.runCommits_kept {κ : Fixed} {s : State} (hk : Kept κ s) :
    Kept κ (State.runCommits s) := by
  unfold State.runCommits
  repeat' (first
      | with_reducible assumption | with_reducible apply State.nextCommit_kept | with_reducible apply Kept.ite | dsimp -zeta only
      | split)

theorem State.writeCommit_kept {κ : Fixed} {s : State} (r : DictReq) (hk : Kept κ s) :
    Kept κ (State.writeCommit s r).2 := by
  unfold State.writeCommit
  repeat' (first
      | with_reducible assumption | with_reducible apply State.setGroups_kept | with_reducible apply State.runCommits_kept
      | with_reducible apply Kept.ite | with_reducible apply Kept.ite1 | with_reducible apply Kept.ite2 | (intro _ _ _) | (intro _ _)
      | (intro _) | dsimp -zeta only | split | simp -zeta only [Kept.mk_iff])

theorem State.endCommit_kept {κ : Fixed} {s : State} (hk : Kept κ s) :
    Kept κ (State.endCommit s) := by
  unfold State.endCommit
  repeat' (first
      | with_reducible assumption | with_reducible apply State.runCommits_kept | with_reducible apply Kept.ite | dsimp -zeta only
      | split | simp -zeta only [Kept.mk_iff])

theorem State.commitPrepare_kept {κ : Fixed} {s : State} (hk : Kept κ s) :
    Kept κ (State.commitPrepare s) := by
  unfold State.commitPrepare
  repeat' (first
      | with_reducible assumption | with_reducible apply State.setReg_kept | with_reducible apply State.fresh_kept
      | with_reducible apply State.dictAnswer_kept | with_reducible apply State.endCommit_kept | with_reducible apply Kept.ite
      | refine Kept.of_snd (by with_reducible assumption) ?_ | refine Kept.of_fst (by with_reducible assumption) ?_
      | exact KeptOpt.of rfl (by with_reducible assumption) | exact KeptPair.of rfl (by with_reducible assumption)
      | with_reducible apply KeptOpt.ite | with_reducible refine KeptOpt.mapState ?_ (fun _ _ => ?_)
      | with_reducible refine KeptOpt.map (fun _ => ?_) | with_reducible apply KeptOpt.some | with_reducible exact KeptOpt.none
      | with_reducible apply KeptPair.ite | with_reducible apply KeptPair.some | with_reducible exact KeptPair.none
      | (extract_lets +onlyGivenNames x
         first
         | (refine Kept.cut (k := κ) (s := x) ?_ ?_; subst x; rotate_left; intro hx; clear_value x; revert x; intro _ _)
         | (refine Kept.cut1 (k := κ) (s := x) ?_ ?_; subst x; rotate_left; intro hx; clear_value x; revert x; intro _ _)
         | (refine Kept.cut2 (k := κ) (s := x) ?_ ?_; subst x; rotate_left; intro hx; clear_value x; revert x; intro _ _)
         | (refine KeptOpt.cut (k := κ) (o := x) ?_ ?_; subst x; rotate_left; intro hx; clear_value x; revert x; intro _ _)
         | (refine KeptPair.cut (k := κ) (o := x) ?_ ?_; subst x; rotate_left; intro hx; clear_value x; revert x; intro _ _)
         | (clear_value x; revert x; intro _))
      | dsimp -zeta only | split | simp -zeta only [Kept.mk_iff])

theorem State.commitBack_kept {κ : Fixed} {s : State} (gen : Nat) (lagging : List Nat) (hk : Kept κ s) :
    Kept κ (State.commitBack s gen lagging) := by
  unfold State.commitBack
  repeat' (first
      | with_reducible assumption | with_reducible apply State.setReg_kept | with_reducible apply State.setTab_kept
      | with_reducible apply State.endCommit_kept | with_reducible apply Kept.ite
      | (extract_lets +onlyGivenNames x
         first
         | (refine Kept.cut (k := κ) (s := x) ?_ ?_; subst x; rotate_left; intro hx; clear_value x; revert x; intro _ _)
         | (clear_value x; revert x; intro _))
      | dsimp -zeta only | split)

theorem State.commitApplied_kept {κ : Fixed} {s : State} (hk : Kept κ s) :
    Kept κ (State.commitApplied s) := by
  unfold State.commitApplied
  repeat' (first
      | with_reducible assumption | with_reducible apply State.applyRound_kept | with_reducible apply State.commitBack_kept
      | with_reducible apply Kept.ite | dsimp -zeta only | split)

theorem State.commitLimit_kept {κ : Fixed} {s : State} (lagging : List Nat) (hk : Kept κ s) :
    Kept κ (State.commitLimit s lagging) := by
  unfold State.commitLimit
  repeat' (first
      | with_reducible assumption | with_reducible apply State.dictAnswer_kept | with_reducible apply State.applyRound_kept
      | with_reducible apply State.endCommit_kept | with_reducible apply State.commitBack_kept | with_reducible apply Kept.ite
      | exact KeptOpt.of rfl (by with_reducible assumption) | exact KeptPair.of rfl (by with_reducible assumption)
      | with_reducible apply KeptOpt.ite | with_reducible refine KeptOpt.mapState ?_ (fun _ _ => ?_)
      | with_reducible refine KeptOpt.map (fun _ => ?_) | with_reducible apply KeptOpt.some | with_reducible exact KeptOpt.none
      | with_reducible apply KeptPair.ite | with_reducible apply KeptPair.some | with_reducible exact KeptPair.none
      | (extract_lets +onlyGivenNames x
         first
         | (refine Kept.cut (k := κ) (s := x) ?_ ?_; subst x; rotate_left; intro hx; clear_value x; revert x; intro _ _)
         | (refine KeptOpt.cut (k := κ) (o := x) ?_ ?_; subst x; rotate_left; intro hx; clear_value x; revert x; intro _ _)
         | (refine KeptPair.cut (k := κ) (o := x) ?_ ?_; subst x; rotate_left; intro hx; clear_value x; revert x; intro _ _)
         | (clear_value x; revert x; intro _))
      | dsimp -zeta only | split | with_reducible refine Kept.mk_time ?_ (Nat.le_max_left _ _)
      | with_reducible refine Kept.mk_time ?_ (Nat.le_add_right _ _) | simp -zeta only [Kept.mk_iff])

theorem State.groupLease_kept {κ : Fixed} {s : State} (w : Requester) (hk : Kept κ s) :
    Kept κ (State.groupLease s w) := by
  unfold State.groupLease
  repeat' (first
      | with_reducible assumption | with_reducible apply State.setGroups_kept | with_reducible apply Kept.ite | (intro _ _ _)
      | (intro _ _) | (intro _) | dsimp -zeta only | split | with_reducible refine Kept.mk_time ?_ (Nat.le_max_left _ _)
      | with_reducible refine Kept.mk_time ?_ (Nat.le_add_right _ _) | simp -zeta only [Kept.mk_iff])

end Sys2Proof.Machine
end

