-- ==== Sys2Proof/Laws/KeptResetOps.lean ====
section
/-! SUPPORT. Every operation of Machine/ResetOps.lean keeps the build, the queue and the canonical form. -/

namespace Sys2Proof.Machine

set_option linter.all false

theorem State.cellResetAt_kept {κ : Fixed} {s : State} (c : Coord) (hk : Kept κ s) :
    Kept κ (State.cellResetAt s c) := by
  unfold State.cellResetAt
  repeat' (first
      | with_reducible assumption | with_reducible apply State.modCell_kept | with_reducible apply State.modIn_kept
      | with_reducible apply State.collReset_kept | with_reducible apply State.resetChannels_kept
      | with_reducible apply State.setGroups_kept | with_reducible apply Kept.ite | (intro _ _ _) | (intro _ _) | (intro _)
      | (extract_lets +onlyGivenNames x
         first
         | (refine Kept.cut (k := κ) (s := x) ?_ ?_; subst x; rotate_left; intro hx; clear_value x; revert x; intro _ _)
         | (subst x))
      | dsimp -zeta only | split | simp -zeta only [Kept.mk_iff])

theorem State.cellReleaseAt_kept {κ : Fixed} {s : State} (c : Coord) (hk : Kept κ s) :
    Kept κ (State.cellReleaseAt s c) := by
  unfold State.cellReleaseAt
  repeat' (first
      | with_reducible assumption | with_reducible apply State.modCell_kept | with_reducible apply State.modIn_kept
      | with_reducible apply State.setChan_kept | with_reducible apply Kept.ite | (intro _ _ _) | (intro _ _) | (intro _)
      | (extract_lets +onlyGivenNames x
         first
         | (refine Kept.cut (k := κ) (s := x) ?_ ?_; subst x; rotate_left; intro hx; clear_value x; revert x; intro _ _)
         | (clear_value x; revert x; intro _))
      | dsimp -zeta only | split | simp -zeta only [Kept.mk_iff])

theorem State.drainFlush_kept {κ : Fixed} {s : State} (hk : Kept κ s) :
    Kept κ (State.drainFlush s) := by
  unfold State.drainFlush
  repeat' (first
      | with_reducible assumption | with_reducible apply State.closeEpoch_kept | with_reducible apply Kept.ite
      | with_reducible apply Kept.foldl | with_reducible apply Kept.foldl_fst | with_reducible apply Kept.foldl_snd | (intro _ _ _)
      | (intro _ _) | (intro _)
      | (extract_lets +onlyGivenNames x
         first
         | (refine Kept.cut (k := κ) (s := x) ?_ ?_; subst x; rotate_left; intro hx; clear_value x; revert x; intro _ _)
         | (clear_value x; revert x; intro _))
      | dsimp -zeta only | split)

theorem State.setDrain_kept {κ : Fixed} {s : State} (v : Nat) (hk : Kept κ s) :
    Kept κ (State.setDrain s v) := by
  unfold State.setDrain
  repeat' (first
      | with_reducible assumption | with_reducible apply State.setReg_kept | with_reducible apply State.modEng_kept
      | with_reducible apply Kept.ite | (intro _ _ _) | (intro _ _) | (intro _) | dsimp -zeta only | split
      | simp -zeta only [Kept.mk_iff])

theorem State.dropTransit_kept {κ : Fixed} {s : State} (hk : Kept κ s) :
    Kept κ (State.dropTransit s) := by
  unfold State.dropTransit
  repeat' (first
      | with_reducible assumption | with_reducible apply State.modPort_kept | with_reducible apply Kept.ite
      | with_reducible apply Kept.foldl | with_reducible apply Kept.foldl_fst | with_reducible apply Kept.foldl_snd | (intro _ _ _)
      | (intro _ _) | (intro _) | dsimp -zeta only | split | simp -zeta only [Kept.mk_iff])

theorem State.drainAdvance_kept {κ : Fixed} {s : State} (hk : Kept κ s) :
    Kept κ (State.drainAdvance s) := by
  unfold State.drainAdvance
  repeat' (first
      | with_reducible assumption | with_reducible apply State.faultEvent_kept | with_reducible apply State.faultLive_kept
      | with_reducible apply State.originate322_kept | with_reducible apply State.relayOn_kept
      | with_reducible apply State.lvDrain_kept | with_reducible apply State.modEng_kept | with_reducible apply State.drainFlush_kept
      | with_reducible apply State.setDrain_kept | with_reducible apply State.dropTransit_kept | with_reducible apply Kept.ite
      | with_reducible apply Kept.foldl | with_reducible apply Kept.foldl_fst | with_reducible apply Kept.foldl_snd | (intro _ _ _)
      | (intro _ _) | (intro _)
      | (extract_lets +onlyGivenNames x
         first
         | (refine Kept.cut (k := κ) (s := x) ?_ ?_; subst x; rotate_left; intro hx; clear_value x; revert x; intro _ _)
         | (clear_value x; revert x; intro _))
      | dsimp -zeta only | split | simp -zeta only [Kept.mk_iff])

theorem State.drainLimitEnd_kept {κ : Fixed} {s : State} (hk : Kept κ s) :
    Kept κ (State.drainLimitEnd s) := by
  unfold State.drainLimitEnd
  repeat' (first
      | with_reducible assumption | with_reducible apply State.modCore_kept | with_reducible apply State.answer_kept
      | with_reducible apply State.complete_kept | with_reducible apply State.upTo_kept | with_reducible apply Kept.ite
      | with_reducible apply Kept.foldl | with_reducible apply Kept.foldl_fst | with_reducible apply Kept.foldl_snd | (intro _ _ _)
      | (intro _ _) | (intro _)
      | (extract_lets +onlyGivenNames x
         first
         | (refine Kept.cut (k := κ) (s := x) ?_ ?_; subst x; rotate_left; intro hx; clear_value x; revert x; intro _ _)
         | (clear_value x; revert x; intro _))
      | dsimp -zeta only | split | simp -zeta only [Kept.mk_iff])

theorem State.relock_kept {κ : Fixed} {s : State} (f : Nat) (hk : Kept κ s) :
    Kept κ (State.relock s f) := by
  unfold State.relock
  repeat' (first
      | with_reducible assumption | with_reducible apply State.bump_kept | with_reducible apply State.faultLive_kept
      | with_reducible apply State.startClock_kept | with_reducible apply State.sweepResume_kept | with_reducible apply Kept.ite
      | dsimp -zeta only | split)

theorem State.freqDone_kept {κ : Fixed} {s : State} (f : Nat) (hk : Kept κ s) :
    Kept κ (State.freqDone s f) := by
  unfold State.freqDone
  repeat' (first
      | with_reducible assumption | with_reducible apply State.dictAnswer_kept | with_reducible apply State.modEng_kept
      | with_reducible apply State.relock_kept | with_reducible apply Kept.ite | with_reducible apply Kept.foldl
      | with_reducible apply Kept.foldl_fst | with_reducible apply Kept.foldl_snd | (intro _ _ _) | (intro _ _) | (intro _)
      | (extract_lets +onlyGivenNames x
         first
         | (refine Kept.cut (k := κ) (s := x) ?_ ?_; subst x; rotate_left; intro hx; clear_value x; revert x; intro _ _)
         | (clear_value x; revert x; intro _))
      | dsimp -zeta only | split | simp -zeta only [Kept.mk_iff])

theorem State.pllBack_kept {κ : Fixed} {s : State} (f : Nat) (hk : Kept κ s) :
    Kept κ (State.pllBack s f) := by
  unfold State.pllBack
  repeat' (first
      | with_reducible assumption | with_reducible apply State.relock_kept | with_reducible apply Kept.ite | dsimp -zeta only | split)

theorem State.pllDead_kept {κ : Fixed} {s : State} (f : Nat) (hk : Kept κ s) :
    Kept κ (State.pllDead s f) := by
  unfold State.pllDead
  repeat' (first
      | with_reducible assumption | with_reducible apply State.modField_kept | with_reducible apply State.upTo_kept
      | with_reducible apply Kept.ite | (intro _ _ _) | (intro _ _) | (intro _) | dsimp -zeta only | split
      | simp -zeta only [Kept.mk_iff])

theorem State.pgFall_kept {κ : Fixed} {s : State} (f : Nat) (hk : Kept κ s) :
    Kept κ (State.pgFall s f) := by
  unfold State.pgFall
  repeat' (first
      | with_reducible assumption | with_reducible apply State.modField_kept | with_reducible apply State.pllLoss_kept
      | with_reducible apply Kept.ite | (intro _ _ _) | (intro _ _) | (intro _)
      | (extract_lets +onlyGivenNames x
         first
         | (refine Kept.cut (k := κ) (s := x) ?_ ?_; subst x; rotate_left; intro hx; clear_value x; revert x; intro _ _)
         | (clear_value x; revert x; intro _))
      | dsimp -zeta only | split | simp -zeta only [Kept.mk_iff])

theorem State.calmPacket_kept {κ : Fixed} {s : State} (p : Nat) (pk : Packet) (hk : Kept κ s) :
    Kept κ (State.calmPacket s p pk) := by
  unfold State.calmPacket
  repeat' (first
      | with_reducible assumption | with_reducible apply State.modPort_kept | with_reducible apply State.relayPkt_kept
      | with_reducible apply State.causeEngine_kept | with_reducible apply Kept.ite | (intro _ _ _) | (intro _ _) | (intro _)
      | exact KeptOpt.of rfl (by with_reducible assumption) | exact KeptPair.of rfl (by with_reducible assumption)
      | with_reducible apply KeptOpt.ite | with_reducible refine KeptOpt.mapState ?_ (fun _ _ => ?_)
      | with_reducible refine KeptOpt.map (fun _ => ?_) | with_reducible apply KeptOpt.some | with_reducible exact KeptOpt.none
      | with_reducible apply KeptPair.ite | with_reducible apply KeptPair.some | with_reducible exact KeptPair.none
      | (extract_lets +onlyGivenNames x
         first
         | (refine Kept.cut (k := κ) (s := x) ?_ ?_; subst x; rotate_left; intro hx; clear_value x; revert x; intro _ _)
         | (refine KeptOpt.cut (k := κ) (o := x) ?_ ?_; subst x; rotate_left; intro hx; clear_value x; revert x; intro _ _)
         | (refine KeptPair.cut (k := κ) (o := x) ?_ ?_; subst x; rotate_left; intro hx; clear_value x; revert x; intro _ _)
         | (clear_value x; revert x; intro _))
      | dsimp -zeta only | split | simp -zeta only [Kept.mk_iff])

theorem State.calmSignal_kept {κ : Fixed} {s : State} (p : Nat) (sg : Signal) (hk : Kept κ s) :
    Kept κ (State.calmSignal s p sg) := by
  unfold State.calmSignal
  repeat' (first
      | with_reducible assumption | with_reducible apply State.modPort_kept | with_reducible apply State.addSegs_kept
      | with_reducible apply State.freeClass_kept | with_reducible apply State.relaySig_kept
      | with_reducible apply State.sluiceSigDrop_kept | with_reducible apply State.causeEngine_kept
      | with_reducible apply State.dictServe_kept | with_reducible apply Kept.ite | with_reducible apply Kept.foldl
      | with_reducible apply Kept.foldl_fst | with_reducible apply Kept.foldl_snd | (intro _ _ _) | (intro _ _) | (intro _)
      | with_reducible apply KeptOpt.getD | with_reducible apply KeptOpt.foldl | exact KeptOpt.of rfl (by with_reducible assumption)
      | exact KeptPair.of rfl (by with_reducible assumption) | with_reducible apply KeptOpt.ite
      | with_reducible refine KeptOpt.mapState ?_ (fun _ _ => ?_) | with_reducible refine KeptOpt.map (fun _ => ?_)
      | with_reducible apply KeptOpt.some | with_reducible exact KeptOpt.none | with_reducible apply KeptPair.ite
      | with_reducible apply KeptPair.some | with_reducible exact KeptPair.none
      | (extract_lets +onlyGivenNames x
         first
         | (refine Kept.cut (k := κ) (s := x) ?_ ?_; subst x; rotate_left; intro hx; clear_value x; revert x; intro _ _)
         | (refine KeptOpt.cut (k := κ) (o := x) ?_ ?_; subst x; rotate_left; intro hx; clear_value x; revert x; intro _ _)
         | (refine KeptPair.cut (k := κ) (o := x) ?_ ?_; subst x; rotate_left; intro hx; clear_value x; revert x; intro _ _)
         | (subst x))
      | dsimp -zeta only | split | simp -zeta only [Kept.mk_iff])

theorem State.calmItem_kept {κ : Fixed} {s : State} (p : Nat) (i : LinkItem) (hk : Kept κ s) :
    Kept κ (State.calmItem s p i) := by
  unfold State.calmItem
  repeat' (first
      | with_reducible assumption | with_reducible apply State.modPort_kept | with_reducible apply State.causeEngine_kept
      | with_reducible apply State.calmPacket_kept | with_reducible apply State.calmSignal_kept | with_reducible apply Kept.ite
      | (intro _ _ _) | (intro _ _) | (intro _) | dsimp -zeta only | split | simp -zeta only [Kept.mk_iff])

theorem State.testRise_kept {κ : Fixed} {s : State} (hk : Kept κ s) :
    Kept κ (State.testRise s) := by
  unfold State.testRise
  repeat' (first
      | with_reducible assumption | with_reducible apply State.modEng_kept | with_reducible apply Kept.ite | (intro _ _ _)
      | (intro _ _) | (intro _) | dsimp -zeta only | split | simp -zeta only [Kept.mk_iff])

theorem State.testFall_kept {κ : Fixed} {s : State} (hk : Kept κ s) :
    Kept κ (State.testFall s) := by
  unfold State.testFall
  repeat' (first
      | with_reducible assumption | with_reducible apply State.modEng_kept | with_reducible apply Kept.ite
      | with_reducible apply Kept.dropRegs | (intro _ _ _) | (intro _ _) | (intro _)
      | (extract_lets +onlyGivenNames x
         first
         | (refine Kept.cut (k := κ) (s := x) ?_ ?_; subst x; rotate_left; intro hx; clear_value x; revert x; intro _ _)
         | (subst x))
      | dsimp -zeta only | split | simp -zeta only [Kept.mk_iff])

theorem State.modTap_kept {κ : Fixed} {s : State} (f : TapSt → TapSt) (hk : Kept κ s) :
    Kept κ (State.modTap s f) := by
  unfold State.modTap
  repeat' (first
      | with_reducible assumption | with_reducible apply State.modEng_kept | with_reducible apply Kept.ite | (intro _ _ _)
      | (intro _ _) | (intro _) | dsimp -zeta only | split | simp -zeta only [Kept.mk_iff])

theorem State.tapBypass_kept {κ : Fixed} {s : State} (refused : Bool) (hk : Kept κ s) :
    Kept κ (State.tapBypass s refused) := by
  unfold State.tapBypass
  repeat' (first
      | with_reducible assumption | with_reducible apply State.modTap_kept | with_reducible apply Kept.ite | (intro _ _ _)
      | (intro _ _) | (intro _) | dsimp -zeta only | split | simp -zeta only [Kept.mk_iff])

theorem State.tapDrive_kept {κ : Fixed} {s : State} (code : Nat) (update : List Bool) (hk : Kept κ s) :
    Kept κ (State.tapDrive s code update) := by
  unfold State.tapDrive
  repeat' (first
      | with_reducible assumption | with_reducible apply State.modTap_kept | with_reducible apply State.tapBypass_kept
      | with_reducible apply Kept.ite | (intro _ _ _) | (intro _ _) | (intro _) | dsimp -zeta only | split
      | simp -zeta only [Kept.mk_iff])

theorem State.tapSample_kept {κ : Fixed} {s : State} (preload : List Bool) (hk : Kept κ s) :
    Kept κ (State.tapSample s preload) := by
  unfold State.tapSample
  repeat' (first
      | with_reducible assumption | with_reducible apply State.freshBytes_kept | with_reducible apply State.modTap_kept
      | with_reducible apply Kept.ite | (intro _ _ _) | (intro _ _) | (intro _) | refine Kept.of_snd (by with_reducible assumption) ?_
      | refine Kept.of_fst (by with_reducible assumption) ?_
      | (extract_lets +onlyGivenNames x
         first
         | (refine Kept.cut (k := κ) (s := x) ?_ ?_; subst x; rotate_left; intro hx; clear_value x; revert x; intro _ _)
         | (refine Kept.cut1 (k := κ) (s := x) ?_ ?_; subst x; rotate_left; intro hx; clear_value x; revert x; intro _ _)
         | (refine Kept.cut2 (k := κ) (s := x) ?_ ?_; subst x; rotate_left; intro hx; clear_value x; revert x; intro _ _)
         | (clear_value x; revert x; intro _))
      | dsimp -zeta only | split | simp -zeta only [Kept.mk_iff])

theorem State.tapIdcode_kept {κ : Fixed} {s : State} (hk : Kept κ s) :
    Kept κ (State.tapIdcode s) := by
  unfold State.tapIdcode
  repeat' (first
      | with_reducible assumption | with_reducible apply State.modTap_kept | with_reducible apply Kept.ite | (intro _ _ _)
      | (intro _ _) | (intro _) | dsimp -zeta only | split | simp -zeta only [Kept.mk_iff])

theorem State.tapReset_kept {κ : Fixed} {s : State} (hk : Kept κ s) :
    Kept κ (State.tapReset s) := by
  unfold State.tapReset
  repeat' (first
      | with_reducible assumption | with_reducible apply State.tapIdcode_kept | with_reducible apply Kept.ite | dsimp -zeta only
      | split)

end Sys2Proof.Machine
end

