-- ==== Sys2Proof/Laws/KeptPump.lean ====
section
/-! SUPPORT. Every operation of Machine/Pump.lean keeps the build, the queue and the canonical form. -/

namespace Sys2Proof.Machine

set_option linter.all false

theorem State.refusalCode_kept {κ : Fixed} {s : State} (c : Coord) (d : Nat) (hk : Kept κ s) :
    Kept κ (State.refusalCode s c d).2 := by
  unfold State.refusalCode
  repeat' (first
      | with_reducible assumption | with_reducible apply State.fresh_kept | with_reducible apply Kept.ite
      | with_reducible apply Kept.ite1 | with_reducible apply Kept.ite2 | refine Kept.of_snd (by with_reducible assumption) ?_
      | refine Kept.of_fst (by with_reducible assumption) ?_
      | (extract_lets +onlyGivenNames x
         first
         | (refine Kept.cut (k := κ) (s := x) ?_ ?_; subst x; rotate_left; intro hx; clear_value x; revert x; intro _ _)
         | (refine Kept.cut1 (k := κ) (s := x) ?_ ?_; subst x; rotate_left; intro hx; clear_value x; revert x; intro _ _)
         | (refine Kept.cut2 (k := κ) (s := x) ?_ ?_; subst x; rotate_left; intro hx; clear_value x; revert x; intro _ _)
         | (clear_value x; revert x; intro _))
      | dsimp -zeta only | split)

theorem State.awaitReply_kept {κ : Fixed} {s : State} (c : Coord) (m : Cmd) (hk : Kept κ s) :
    Kept κ (State.awaitReply s c m) := by
  unfold State.awaitReply
  repeat' (first
      | with_reducible assumption | with_reducible apply State.modCmd_kept | with_reducible apply Kept.ite | (intro _ _ _)
      | (intro _ _) | (intro _) | dsimp -zeta only | split | simp -zeta only [Kept.mk_iff])

theorem State.readFailed_kept {κ : Fixed} {s : State} (c : Coord) (m : Cmd) (hk : Kept κ s) :
    Kept κ (State.readFailed s c m) := by
  unfold State.readFailed
  repeat' (first
      | with_reducible assumption | with_reducible apply State.faultEvent_kept | with_reducible apply State.complete_kept
      | with_reducible apply Kept.ite | dsimp -zeta only | split)

theorem State.sendStart_kept {κ : Fixed} {s : State} (c : Coord) (m : Cmd) (hk : Kept κ s) :
    Kept κ (State.sendStart s c m) := by
  unfold State.sendStart
  repeat' (first
      | with_reducible assumption | with_reducible apply State.issueRead_kept | with_reducible apply State.sendPkt_kept
      | with_reducible apply State.awaitReply_kept | with_reducible apply Kept.ite
      | (extract_lets +onlyGivenNames x
         first
         | (refine Kept.cut (k := κ) (s := x) ?_ ?_; subst x; rotate_left; intro hx; clear_value x; revert x; intro _ _)
         | (clear_value x; revert x; intro _))
      | dsimp -zeta only | split)

theorem State.barArriveStart_kept {κ : Fixed} {s : State} (c : Coord) (m : Cmd) (hk : Kept κ s) :
    Kept κ (State.barArriveStart s c m) := by
  unfold State.barArriveStart
  repeat' (first
      | with_reducible assumption | with_reducible apply State.sendSig_kept | with_reducible apply State.awaitReply_kept
      | with_reducible apply Kept.ite
      | (extract_lets +onlyGivenNames x
         first
         | (refine Kept.cut (k := κ) (s := x) ?_ ?_; subst x; rotate_left; intro hx; clear_value x; revert x; intro _ _)
         | (clear_value x; revert x; intro _))
      | dsimp -zeta only | split)

theorem State.tallyStart_kept {κ : Fixed} {s : State} (c : Coord) (m : Cmd) (op : Nat) (hk : Kept κ s) :
    Kept κ (State.tallyStart s c m op) := by
  unfold State.tallyStart
  repeat' (first
      | with_reducible assumption | with_reducible apply State.sendSig_kept | with_reducible apply State.awaitReply_kept
      | with_reducible apply Kept.ite
      | (extract_lets +onlyGivenNames x
         first
         | (refine Kept.cut (k := κ) (s := x) ?_ ?_; subst x; rotate_left; intro hx; clear_value x; revert x; intro _ _)
         | (clear_value x; revert x; intro _))
      | dsimp -zeta only | split)

theorem State.intStart_kept {κ : Fixed} {s : State} (c : Coord) (m : Cmd) (hk : Kept κ s) :
    Kept κ (State.intStart s c m) := by
  unfold State.intStart
  repeat' (first
      | with_reducible assumption | with_reducible apply State.sendSig_kept | with_reducible apply State.modCmd_kept
      | with_reducible apply Kept.ite | (intro _ _ _) | (intro _ _) | (intro _) | dsimp -zeta only | split
      | simp -zeta only [Kept.mk_iff])

theorem State.dictGo_kept {κ : Fixed} {s : State} (c : Coord) (m : Cmd) (hk : Kept κ s) :
    Kept κ (State.dictGo s c m) := by
  unfold State.dictGo
  repeat' (first
      | with_reducible assumption | with_reducible apply State.sendSig_kept | with_reducible apply State.awaitReply_kept
      | with_reducible apply Kept.ite
      | (extract_lets +onlyGivenNames x
         first
         | (refine Kept.cut (k := κ) (s := x) ?_ ?_; subst x; rotate_left; intro hx; clear_value x; revert x; intro _ _)
         | (clear_value x; revert x; intro _))
      | dsimp -zeta only | split)

theorem State.dictStart_kept {κ : Fixed} {s : State} (c : Coord) (m : Cmd) (hk : Kept κ s) :
    Kept κ (State.dictStart s c m) := by
  unfold State.dictStart
  repeat' (first
      | with_reducible assumption | with_reducible apply State.issueRead_kept | with_reducible apply State.modCmd_kept
      | with_reducible apply State.dictGo_kept | with_reducible apply Kept.ite | (intro _ _ _) | (intro _ _) | (intro _)
      | dsimp -zeta only | split | simp -zeta only [Kept.mk_iff])

theorem State.watchStart_kept {κ : Fixed} {s : State} (c : Coord) (m : Cmd) (hk : Kept κ s) :
    Kept κ (State.watchStart s c m) := by
  unfold State.watchStart
  repeat' (first
      | with_reducible assumption | with_reducible apply State.issueRead_kept | with_reducible apply State.modCmd_kept
      | with_reducible apply Kept.ite | (intro _ _ _) | (intro _ _) | (intro _) | dsimp -zeta only | split
      | simp -zeta only [Kept.mk_iff])

theorem State.watchGo_kept {κ : Fixed} {s : State} (c : Coord) (m : Cmd) (hk : Kept κ s) :
    Kept κ (State.watchGo s c m) := by
  unfold State.watchGo
  repeat' (first
      | with_reducible assumption | with_reducible apply State.bump_kept | with_reducible apply State.memWriteAs_kept
      | with_reducible apply State.faultEvent_kept | with_reducible apply State.complete_kept | with_reducible apply Kept.ite
      | with_reducible apply Kept.foldl | with_reducible apply Kept.foldl_fst | with_reducible apply Kept.foldl_snd | (intro _ _ _)
      | (intro _ _) | (intro _)
      | (extract_lets +onlyGivenNames x
         first
         | (refine Kept.cut (k := κ) (s := x) ?_ ?_; subst x; rotate_left; intro hx; clear_value x; revert x; intro _ _)
         | (clear_value x; revert x; intro _))
      | dsimp -zeta only | split)

theorem State.watchAttach_kept {κ : Fixed} {s : State} (c : Coord) (m : Cmd) (hk : Kept κ s) :
    Kept κ (State.watchAttach s c m) := by
  unfold State.watchAttach
  repeat' (first
      | with_reducible assumption | with_reducible apply State.modCell_kept | with_reducible apply State.complete_kept
      | with_reducible apply Kept.ite | (intro _ _ _) | (intro _ _) | (intro _)
      | (extract_lets +onlyGivenNames x
         first
         | (refine Kept.cut (k := κ) (s := x) ?_ ?_; subst x; rotate_left; intro hx; clear_value x; revert x; intro _ _)
         | (clear_value x; revert x; intro _))
      | dsimp -zeta only | split | simp -zeta only [Kept.mk_iff])

theorem State.startCmd_kept {κ : Fixed} {s : State} (c : Coord) (m : Cmd) (hk : Kept κ s) :
    Kept κ (State.startCmd s c m) := by
  unfold State.startCmd
  repeat' (first
      | with_reducible assumption | with_reducible apply State.modCmd_kept | with_reducible apply State.depositStart_kept
      | with_reducible apply State.exchSettle_kept | with_reducible apply State.rowsInit_kept
      | with_reducible apply State.dictRead_kept | with_reducible apply State.dictWrite_kept
      | with_reducible apply State.sendStart_kept | with_reducible apply State.barArriveStart_kept
      | with_reducible apply State.tallyStart_kept | with_reducible apply State.intStart_kept
      | with_reducible apply State.dictStart_kept | with_reducible apply State.watchStart_kept
      | with_reducible apply State.watchAttach_kept | with_reducible apply Kept.ite | (intro _ _ _) | (intro _ _) | (intro _)
      | refine Kept.of_snd (by with_reducible assumption) ?_ | refine Kept.of_fst (by with_reducible assumption) ?_
      | (extract_lets +onlyGivenNames x
         first
         | (refine Kept.cut (k := κ) (s := x) ?_ ?_; subst x; rotate_left; intro hx; clear_value x; revert x; intro _ _)
         | (refine Kept.cut1 (k := κ) (s := x) ?_ ?_; subst x; rotate_left; intro hx; clear_value x; revert x; intro _ _)
         | (refine Kept.cut2 (k := κ) (s := x) ?_ ?_; subst x; rotate_left; intro hx; clear_value x; revert x; intro _ _)
         | (clear_value x; revert x; intro _))
      | dsimp -zeta only | split | simp -zeta only [Kept.mk_iff])

theorem State.startAll_kept {κ : Fixed} {s : State} (c : Coord) (hk : Kept κ s) :
    Kept κ (State.startAll s c) := by
  unfold State.startAll
  repeat' (first
      | with_reducible assumption | with_reducible apply State.startCmd_kept | with_reducible apply Kept.ite
      | with_reducible apply Kept.foldl | with_reducible apply Kept.foldl_fst | with_reducible apply Kept.foldl_snd | (intro _ _ _)
      | (intro _ _) | (intro _) | dsimp -zeta only | split)

theorem State.fencesOn_kept {κ : Fixed} {s : State} (c : Coord) (hk : Kept κ s) :
    Kept κ (State.fencesOn s c) := by
  unfold State.fencesOn
  repeat' (first
      | with_reducible assumption | with_reducible apply State.complete_kept | with_reducible apply Kept.ite
      | with_reducible apply Kept.foldl | with_reducible apply Kept.foldl_fst | with_reducible apply Kept.foldl_snd | (intro _ _ _)
      | (intro _ _) | (intro _) | dsimp -zeta only | split)

theorem State.workCmd_kept {κ : Fixed} {s : State} (c : Coord) (tag : Nat) (hk : Kept κ s) :
    Kept κ (State.workCmd s c tag) := by
  unfold State.workCmd
  repeat' (first
      | with_reducible assumption | with_reducible apply State.openAll_kept | with_reducible apply State.finishTransfer_kept
      | with_reducible apply State.resumeGated_kept | with_reducible apply State.scatterGo_kept
      | with_reducible apply State.scatterAll_kept | with_reducible apply State.gatherAll_kept
      | with_reducible apply State.gatherGo_kept | with_reducible apply State.finishRows_kept | with_reducible apply Kept.ite
      | exact KeptOpt.of rfl (by with_reducible assumption) | exact KeptPair.of rfl (by with_reducible assumption)
      | with_reducible apply KeptOpt.ite | with_reducible refine KeptOpt.mapState ?_ (fun _ _ => ?_)
      | with_reducible refine KeptOpt.map (fun _ => ?_) | with_reducible apply KeptOpt.some | with_reducible exact KeptOpt.none
      | with_reducible apply KeptPair.ite | with_reducible apply KeptPair.some | with_reducible exact KeptPair.none
      | (extract_lets +onlyGivenNames x
         first
         | (refine Kept.cut (k := κ) (s := x) ?_ ?_; subst x; rotate_left; intro hx; clear_value x; revert x; intro _ _)
         | (refine KeptOpt.cut (k := κ) (o := x) ?_ ?_; subst x; rotate_left; intro hx; clear_value x; revert x; intro _ _)
         | (refine KeptPair.cut (k := κ) (o := x) ?_ ?_; subst x; rotate_left; intro hx; clear_value x; revert x; intro _ _)
         | (clear_value x; revert x; intro _))
      | dsimp -zeta only | split)

theorem State.pathTidy_kept {κ : Fixed} {s : State} (c : Coord) (hk : Kept κ s) :
    Kept κ (State.pathTidy s c) := by
  unfold State.pathTidy
  repeat' (first
      | with_reducible assumption | with_reducible apply State.modCell_kept | with_reducible apply State.releaseHeld_kept
      | with_reducible apply Kept.ite | (intro _ _ _) | (intro _ _) | (intro _)
      | (extract_lets +onlyGivenNames x
         first
         | (refine Kept.cut (k := κ) (s := x) ?_ ?_; subst x; rotate_left; intro hx; clear_value x; revert x; intro _ _)
         | (clear_value x; revert x; intro _))
      | dsimp -zeta only | split | simp -zeta only [Kept.mk_iff])

theorem State.pumpRound_kept {κ : Fixed} {s : State} (c : Coord) (hk : Kept κ s) :
    Kept κ (State.pumpRound s c) := by
  unfold State.pumpRound
  repeat' (first
      | with_reducible assumption | with_reducible apply State.gatherGo_kept | with_reducible apply State.startAll_kept
      | with_reducible apply State.fencesOn_kept | with_reducible apply State.workCmd_kept | with_reducible apply Kept.ite
      | with_reducible apply Kept.foldl | with_reducible apply Kept.foldl_fst | with_reducible apply Kept.foldl_snd | (intro _ _ _)
      | (intro _ _) | (intro _)
      | (extract_lets +onlyGivenNames x
         first
         | (refine Kept.cut (k := κ) (s := x) ?_ ?_; subst x; rotate_left; intro hx; clear_value x; revert x; intro _ _)
         | (clear_value x; revert x; intro _))
      | dsimp -zeta only | split)

theorem State.pumpRounds_kept {κ : Fixed} {s : State} (c : Coord) (n0 : Nat) (hk : Kept κ s) :
    Kept κ (State.pumpRounds s c n0) := by
  induction n0 generalizing s with
  | zero => exact hk
  | succ n ih =>
    rw [State.pumpRounds]
    repeat' (first
      | with_reducible assumption | with_reducible apply ih | with_reducible apply State.pumpRound_kept
      | with_reducible apply Kept.ite | dsimp -zeta only | split)

theorem State.pump_kept {κ : Fixed} {s : State} (c : Coord) (hk : Kept κ s) :
    Kept κ (State.pump s c) := by
  unfold State.pump
  repeat' (first
      | with_reducible assumption | with_reducible apply State.rootsRetry_kept | with_reducible apply State.segmentsOn_kept
      | with_reducible apply State.traceRetry_kept | with_reducible apply State.sweepRetry_kept
      | with_reducible apply State.pathTidy_kept | with_reducible apply State.pumpRounds_kept | with_reducible apply Kept.ite
      | (intro _ _ _) | (intro _ _) | (intro _)
      | (extract_lets +onlyGivenNames x
         first
         | (refine Kept.cut (k := κ) (s := x) ?_ ?_; subst x; rotate_left; intro hx; clear_value x; revert x; intro _ _)
         | (clear_value x; revert x; intro _))
      | dsimp -zeta only | split)

theorem State.linksRun_kept {κ : Fixed} {s : State} (hk : Kept κ s) :
    Kept κ (State.linksRun s) := by
  unfold State.linksRun
  repeat' (first
      | with_reducible assumption | with_reducible apply State.linkRun_kept | with_reducible apply State.idleNak_kept
      | with_reducible apply Kept.ite | with_reducible apply Kept.foldl | with_reducible apply Kept.foldl_fst
      | with_reducible apply Kept.foldl_snd | (intro _ _ _) | (intro _ _) | (intro _) | dsimp -zeta only | split)

theorem State.intsDone_kept {κ : Fixed} {s : State} (n0 : Nat) (hk : Kept κ s) :
    Kept κ (State.intsDone s n0) := by
  induction n0 generalizing s with
  | zero => exact hk
  | succ n ih =>
    rw [State.intsDone]
    repeat' (first
      | with_reducible assumption | with_reducible apply ih | with_reducible apply State.complete_kept
      | with_reducible apply State.serveNet_kept | with_reducible apply State.pump_kept | with_reducible apply Kept.ite
      | with_reducible apply Kept.foldl | with_reducible apply Kept.foldl_fst | with_reducible apply Kept.foldl_snd | (intro _ _ _)
      | (intro _ _) | (intro _) | with_reducible apply KeptOpt.foldl | exact KeptOpt.of rfl (by with_reducible assumption)
      | exact KeptPair.of rfl (by with_reducible assumption) | with_reducible apply KeptOpt.ite
      | with_reducible refine KeptOpt.mapState ?_ (fun _ _ => ?_) | with_reducible refine KeptOpt.map (fun _ => ?_)
      | with_reducible apply KeptOpt.some | with_reducible exact KeptOpt.none | with_reducible apply KeptPair.ite
      | with_reducible apply KeptPair.some | with_reducible exact KeptPair.none
      | (extract_lets +onlyGivenNames x
         first
         | (refine Kept.cut (k := κ) (s := x) ?_ ?_; subst x; rotate_left; intro hx; clear_value x; revert x; intro _ _)
         | (refine KeptOpt.cut (k := κ) (o := x) ?_ ?_; subst x; rotate_left; intro hx; clear_value x; revert x; intro _ _)
         | (refine KeptPair.cut (k := κ) (o := x) ?_ ?_; subst x; rotate_left; intro hx; clear_value x; revert x; intro _ _)
         | (clear_value x; revert x; intro _))
      | dsimp -zeta only | split)

theorem State.done_kept {κ : Fixed} {s : State} (hk : Kept κ s) :
    Kept κ (State.done s) := by
  unfold State.done
  repeat' (first
      | with_reducible assumption | with_reducible apply State.serveNet_kept | with_reducible apply State.settle_kept
      | with_reducible apply State.watchCalm_kept | with_reducible apply State.linksRun_kept
      | with_reducible apply State.intsDone_kept | with_reducible apply Kept.ite | dsimp -zeta only | split)

theorem State.after_kept {κ : Fixed} {s : State} (c : Coord) (hk : Kept κ s) :
    Kept κ (State.after s c) := by
  unfold State.after
  repeat' (first
      | with_reducible assumption | with_reducible apply State.pump_kept | with_reducible apply State.done_kept
      | with_reducible apply Kept.ite | dsimp -zeta only | split)

theorem State.accepted_kept {κ : Fixed} {s : State} (c : Coord) (m : Cmd) (hk : Kept κ s) :
    Kept κ (State.accepted s c m) := by
  unfold State.accepted
  repeat' (first
      | with_reducible assumption | with_reducible apply State.complete_kept | with_reducible apply Kept.ite
      | (extract_lets +onlyGivenNames x
         first
         | (refine Kept.cut (k := κ) (s := x) ?_ ?_; subst x; rotate_left; intro hx; clear_value x; revert x; intro _ _)
         | (clear_value x; revert x; intro _))
      | dsimp -zeta only | split)

theorem State.accept_kept {κ : Fixed} {s : State} (c : Coord) (k : CmdKind) (hk : Kept κ s) :
    Kept κ (State.accept s c k) := by
  unfold State.accept
  repeat' (first
      | with_reducible assumption | with_reducible apply State.refuse_kept | with_reducible apply State.pickHead_kept
      | with_reducible apply State.takeSlot_kept | with_reducible apply State.popHead_kept
      | with_reducible apply State.refusalCode_kept | with_reducible apply State.after_kept | with_reducible apply State.accepted_kept
      | with_reducible apply Kept.ite | refine Kept.of_snd (by with_reducible assumption) ?_
      | refine Kept.of_fst (by with_reducible assumption) ?_ | exact KeptOpt.of rfl (by with_reducible assumption)
      | exact KeptPair.of rfl (by with_reducible assumption) | with_reducible apply KeptOpt.ite
      | with_reducible refine KeptOpt.mapState ?_ (fun _ _ => ?_) | with_reducible refine KeptOpt.map (fun _ => ?_)
      | with_reducible apply KeptOpt.some | with_reducible exact KeptOpt.none | with_reducible apply KeptPair.ite
      | with_reducible apply KeptPair.some | with_reducible exact KeptPair.none
      | (extract_lets +onlyGivenNames x
         first
         | (refine Kept.cut (k := κ) (s := x) ?_ ?_; subst x; rotate_left; intro hx; clear_value x; revert x; intro _ _)
         | (refine Kept.cut1 (k := κ) (s := x) ?_ ?_; subst x; rotate_left; intro hx; clear_value x; revert x; intro _ _)
         | (refine Kept.cut2 (k := κ) (s := x) ?_ ?_; subst x; rotate_left; intro hx; clear_value x; revert x; intro _ _)
         | (refine KeptOpt.cut (k := κ) (o := x) ?_ ?_; subst x; rotate_left; intro hx; clear_value x; revert x; intro _ _)
         | (refine KeptPair.cut (k := κ) (o := x) ?_ ?_; subst x; rotate_left; intro hx; clear_value x; revert x; intro _ _)
         | (clear_value x; revert x; intro _))
      | dsimp -zeta only | split)

theorem State.rsvNacked_kept {κ : Fixed} {s : State} (c : Coord) (r : SrcRsv) (reason : Nat) (bytes : Nat) (hk : Kept κ s) :
    Kept κ (State.rsvNacked s c r reason bytes) := by
  unfold State.rsvNacked
  repeat' (first
      | with_reducible assumption | with_reducible apply State.endSrcRsv_kept | with_reducible apply State.accounted_kept
      | with_reducible apply State.modLanding_kept | with_reducible apply State.nackRsv_kept
      | with_reducible apply State.routerRsvFailed_kept | with_reducible apply State.segmentEnd_kept
      | with_reducible apply State.scatterEnd_kept | with_reducible apply Kept.ite | (intro _ _ _) | (intro _ _) | (intro _)
      | with_reducible apply KeptOpt.getD | exact KeptOpt.of rfl (by with_reducible assumption)
      | exact KeptPair.of rfl (by with_reducible assumption) | with_reducible apply KeptOpt.ite
      | with_reducible refine KeptOpt.mapState ?_ (fun _ _ => ?_) | with_reducible refine KeptOpt.map (fun _ => ?_)
      | with_reducible apply KeptOpt.some | with_reducible exact KeptOpt.none | with_reducible apply KeptPair.ite
      | with_reducible apply KeptPair.some | with_reducible exact KeptPair.none
      | (extract_lets +onlyGivenNames x
         first
         | (refine Kept.cut (k := κ) (s := x) ?_ ?_; subst x; rotate_left; intro hx; clear_value x; revert x; intro _ _)
         | (refine KeptOpt.cut (k := κ) (o := x) ?_ ?_; subst x; rotate_left; intro hx; clear_value x; revert x; intro _ _)
         | (refine KeptPair.cut (k := κ) (o := x) ?_ ?_; subst x; rotate_left; intro hx; clear_value x; revert x; intro _ _)
         | (clear_value x; revert x; intro _))
      | dsimp -zeta only | split)

theorem State.nackCell_kept {κ : Fixed} {s : State} (c : Coord) (n : Nack) (hk : Kept κ s) :
    Kept κ (State.nackCell s c n) := by
  unfold State.nackCell
  repeat' (first
      | with_reducible assumption | with_reducible apply State.complete_kept | with_reducible apply State.dropQueued_kept
      | with_reducible apply State.collNacked_kept | with_reducible apply State.gatherNack_kept
      | with_reducible apply State.enterNack_kept | with_reducible apply State.rsvNacked_kept | with_reducible apply Kept.ite
      | exact KeptOpt.of rfl (by with_reducible assumption) | exact KeptPair.of rfl (by with_reducible assumption)
      | with_reducible apply KeptOpt.ite | with_reducible refine KeptOpt.mapState ?_ (fun _ _ => ?_)
      | with_reducible refine KeptOpt.map (fun _ => ?_) | with_reducible apply KeptOpt.some | with_reducible exact KeptOpt.none
      | with_reducible apply KeptPair.ite | with_reducible apply KeptPair.some | with_reducible exact KeptPair.none
      | (extract_lets +onlyGivenNames x
         first
         | (refine Kept.cut (k := κ) (s := x) ?_ ?_; subst x; rotate_left; intro hx; clear_value x; revert x; intro _ _)
         | (refine KeptOpt.cut (k := κ) (o := x) ?_ ?_; subst x; rotate_left; intro hx; clear_value x; revert x; intro _ _)
         | (refine KeptPair.cut (k := κ) (o := x) ?_ ?_; subst x; rotate_left; intro hx; clear_value x; revert x; intro _ _)
         | (clear_value x; revert x; intro _))
      | dsimp -zeta only | split)

theorem State.nackAt_kept {κ : Fixed} {s : State} (n : Nack) (hk : Kept κ s) :
    Kept κ (State.nackAt s n) := by
  unfold State.nackAt
  repeat' (first
      | with_reducible assumption | with_reducible apply State.atSig_kept | with_reducible apply State.after_kept
      | with_reducible apply State.nackCell_kept | with_reducible apply Kept.ite | (intro _ _ _) | (intro _ _) | (intro _)
      | (extract_lets +onlyGivenNames x
         first
         | (refine Kept.cut (k := κ) (s := x) ?_ ?_; subst x; rotate_left; intro hx; clear_value x; revert x; intro _ _)
         | (clear_value x; revert x; intro _))
      | dsimp -zeta only | split)

theorem State.deliveredCell_kept {κ : Fixed} {s : State} (c : Coord) (d : Delivered) (hk : Kept κ s) :
    Kept κ (State.deliveredCell s c d) := by
  unfold State.deliveredCell
  repeat' (first
      | with_reducible assumption | with_reducible apply State.bump_kept | with_reducible apply State.complete_kept
      | with_reducible apply State.endSrcRsv_kept | with_reducible apply State.accounted_kept
      | with_reducible apply State.deliveredRsv_kept | with_reducible apply State.segmentEnd_kept
      | with_reducible apply State.scatterEnd_kept | with_reducible apply Kept.ite | (intro _ _ _) | (intro _ _) | (intro _)
      | exact KeptOpt.of rfl (by with_reducible assumption) | exact KeptPair.of rfl (by with_reducible assumption)
      | with_reducible apply KeptOpt.ite | with_reducible refine KeptOpt.mapState ?_ (fun _ _ => ?_)
      | with_reducible refine KeptOpt.map (fun _ => ?_) | with_reducible apply KeptOpt.some | with_reducible exact KeptOpt.none
      | with_reducible apply KeptPair.ite | with_reducible apply KeptPair.some | with_reducible exact KeptPair.none
      | (extract_lets +onlyGivenNames x
         first
         | (refine Kept.cut (k := κ) (s := x) ?_ ?_; subst x; rotate_left; intro hx; clear_value x; revert x; intro _ _)
         | (refine KeptOpt.cut (k := κ) (o := x) ?_ ?_; subst x; rotate_left; intro hx; clear_value x; revert x; intro _ _)
         | (refine KeptPair.cut (k := κ) (o := x) ?_ ?_; subst x; rotate_left; intro hx; clear_value x; revert x; intro _ _)
         | (clear_value x; revert x; intro _))
      | dsimp -zeta only | split)

theorem State.deliveredAt_kept {κ : Fixed} {s : State} (d : Delivered) (hk : Kept κ s) :
    Kept κ (State.deliveredAt s d) := by
  unfold State.deliveredAt
  repeat' (first
      | with_reducible assumption | with_reducible apply State.atSig_kept | with_reducible apply State.after_kept
      | with_reducible apply State.deliveredCell_kept | with_reducible apply Kept.ite | (intro _ _ _) | (intro _ _) | (intro _)
      | (extract_lets +onlyGivenNames x
         first
         | (refine Kept.cut (k := κ) (s := x) ?_ ?_; subst x; rotate_left; intro hx; clear_value x; revert x; intro _ _)
         | (clear_value x; revert x; intro _))
      | dsimp -zeta only | split)

theorem State.replyLate_kept {κ : Fixed} {s : State} (c : Coord) (slot : Nat) (hk : Kept κ s) :
    Kept κ (State.replyLate s c slot) := by
  unfold State.replyLate
  repeat' (first
      | with_reducible assumption | with_reducible apply State.complete_kept | with_reducible apply State.after_kept
      | with_reducible apply Kept.ite | (intro _ _ _) | (intro _ _) | (intro _) | dsimp -zeta only | split
      | with_reducible refine Kept.mk_time ?_ (Nat.le_max_left _ _) | with_reducible refine Kept.mk_time ?_ (Nat.le_add_right _ _)
      | simp -zeta only [Kept.mk_iff])

theorem State.bulkLate_kept {κ : Fixed} {s : State} (c : Coord) (rsv : Nat) (hk : Kept κ s) :
    Kept κ (State.bulkLate s c rsv) := by
  unfold State.bulkLate
  repeat' (first
      | with_reducible assumption | with_reducible apply State.bump_kept | with_reducible apply State.endSrcRsv_kept
      | with_reducible apply State.timeoutRsv_kept | with_reducible apply State.endMcast_kept
      | with_reducible apply State.segmentEnd_kept | with_reducible apply State.scatterEnd_kept
      | with_reducible apply State.after_kept | with_reducible apply Kept.ite | exact KeptOpt.of rfl (by with_reducible assumption)
      | exact KeptPair.of rfl (by with_reducible assumption) | with_reducible apply KeptOpt.ite
      | with_reducible refine KeptOpt.mapState ?_ (fun _ _ => ?_) | with_reducible refine KeptOpt.map (fun _ => ?_)
      | with_reducible apply KeptOpt.some | with_reducible exact KeptOpt.none | with_reducible apply KeptPair.ite
      | with_reducible apply KeptPair.some | with_reducible exact KeptPair.none
      | (extract_lets +onlyGivenNames x
         first
         | (refine Kept.cut (k := κ) (s := x) ?_ ?_; subst x; rotate_left; intro hx; clear_value x; revert x; intro _ _)
         | (refine KeptOpt.cut (k := κ) (o := x) ?_ ?_; subst x; rotate_left; intro hx; clear_value x; revert x; intro _ _)
         | (refine KeptPair.cut (k := κ) (o := x) ?_ ?_; subst x; rotate_left; intro hx; clear_value x; revert x; intro _ _)
         | (clear_value x; revert x; intro _))
      | dsimp -zeta only | split | with_reducible refine Kept.mk_time ?_ (Nat.le_max_left _ _)
      | with_reducible refine Kept.mk_time ?_ (Nat.le_add_right _ _) | simp -zeta only [Kept.mk_iff])

theorem State.grantRecv_kept {κ : Fixed} {s : State} (c : Coord) (p : Packet) (t : TransferTail) (hk : Kept κ s) :
    Kept κ (State.grantRecv s c p t) := by
  unfold State.grantRecv
  repeat' (first
      | with_reducible assumption | with_reducible apply State.accounted_kept | with_reducible apply State.grantAt_kept
      | with_reducible apply State.linkRun_kept | with_reducible apply State.transitGrant_kept
      | with_reducible apply State.segmentGrant_kept | with_reducible apply State.scatterGrant_kept
      | with_reducible apply State.after_kept | with_reducible apply Kept.ite | (intro _ _ _) | (intro _ _) | (intro _)
      | exact KeptOpt.of rfl (by with_reducible assumption) | exact KeptPair.of rfl (by with_reducible assumption)
      | with_reducible apply KeptOpt.ite | with_reducible refine KeptOpt.mapState ?_ (fun _ _ => ?_)
      | with_reducible refine KeptOpt.map (fun _ => ?_) | with_reducible apply KeptOpt.some | with_reducible exact KeptOpt.none
      | with_reducible apply KeptPair.ite | with_reducible apply KeptPair.some | with_reducible exact KeptPair.none
      | (extract_lets +onlyGivenNames x
         first
         | (refine Kept.cut (k := κ) (s := x) ?_ ?_; subst x; rotate_left; intro hx; clear_value x; revert x; intro _ _)
         | (refine KeptOpt.cut (k := κ) (o := x) ?_ ?_; subst x; rotate_left; intro hx; clear_value x; revert x; intro _ _)
         | (refine KeptPair.cut (k := κ) (o := x) ?_ ?_; subst x; rotate_left; intro hx; clear_value x; revert x; intro _ _)
         | (clear_value x; revert x; intro _))
      | dsimp -zeta only | split)

end Sys2Proof.Machine
end

