-- ==== Sys2Proof/Laws/KeptMemOps.lean ====
section
/-! SUPPORT. Every operation of Machine/MemOps.lean keeps the build, the queue and the canonical form. -/

namespace Sys2Proof.Machine

set_option linter.all false

theorem State.fillRead_kept {κ : Fixed} {s : State} (c : Coord) (l : Nat) (lo : Nat) (hi : Nat) (hk : Kept κ s) :
    Kept κ (State.fillRead s c l lo hi) := by
  unfold State.fillRead
  repeat' (first
      | with_reducible assumption | with_reducible apply State.modLane_kept | with_reducible apply Kept.ite
      | with_reducible apply Kept.ite1 | with_reducible apply Kept.ite2 | (intro _ _ _) | (intro _ _) | (intro _)
      | exact KeptOpt.of rfl (by with_reducible assumption) | exact KeptPair.of rfl (by with_reducible assumption)
      | with_reducible apply KeptOpt.ite | with_reducible refine KeptOpt.mapState ?_ (fun _ _ => ?_)
      | with_reducible refine KeptOpt.map (fun _ => ?_) | with_reducible apply KeptOpt.some | with_reducible exact KeptOpt.none
      | with_reducible apply KeptPair.ite | with_reducible apply KeptPair.some | with_reducible exact KeptPair.none
      | (extract_lets +onlyGivenNames x
         first
         | (refine Kept.cut (k := κ) (s := x) ?_ ?_; subst x; rotate_left; intro hx; clear_value x; revert x; intro _ _)
         | (refine KeptOpt.cut (k := κ) (o := x) ?_ ?_; subst x; rotate_left; intro hx; clear_value x; revert x; intro _ _)
         | (refine KeptPair.cut (k := κ) (o := x) ?_ ?_; subst x; rotate_left; intro hx; clear_value x; revert x; intro _ _)
         | (subst x))
      | dsimp -zeta only | split | simp -zeta only [Kept.mk_iff])

theorem State.rowUnread_kept {κ : Fixed} {s : State} (c : Coord) (m : Cmd) (r : SrcRsv) (hk : Kept κ s) :
    Kept κ (State.rowUnread s c m r) := by
  unfold State.rowUnread
  repeat' (first
      | with_reducible assumption | with_reducible apply State.faultEvent_kept | with_reducible apply State.modCmd_kept
      | with_reducible apply State.endSrcRsv_kept | with_reducible apply State.accounted_kept
      | with_reducible apply State.sendRelease_kept | with_reducible apply State.endRow_kept | with_reducible apply Kept.ite
      | (intro _ _ _) | (intro _ _) | (intro _) | exact KeptOpt.of rfl (by with_reducible assumption)
      | exact KeptPair.of rfl (by with_reducible assumption) | with_reducible apply KeptOpt.ite
      | with_reducible refine KeptOpt.mapState ?_ (fun _ _ => ?_) | with_reducible refine KeptOpt.map (fun _ => ?_)
      | with_reducible apply KeptOpt.some | with_reducible exact KeptOpt.none | with_reducible apply KeptPair.ite
      | with_reducible apply KeptPair.some | with_reducible exact KeptPair.none
      | (extract_lets +onlyGivenNames x
         first
         | (refine Kept.cut (k := κ) (s := x) ?_ ?_; subst x; rotate_left; intro hx; clear_value x; revert x; intro _ _)
         | (refine KeptOpt.cut (k := κ) (o := x) ?_ ?_; subst x; rotate_left; intro hx; clear_value x; revert x; intro _ _)
         | (refine KeptPair.cut (k := κ) (o := x) ?_ ?_; subst x; rotate_left; intro hx; clear_value x; revert x; intro _ _)
         | (clear_value x; revert x; intro _))
      | dsimp -zeta only | split | simp -zeta only [Kept.mk_iff])

theorem State.dataUnread_kept {κ : Fixed} {s : State} (c : Coord) (l : Nat) (typ : Nat) (tag : Nat) (n : Nat) (r : SrcRsv) (back : Bool) (hk : Kept κ s) :
    Kept κ (State.dataUnread s c l typ tag n r back) := by
  unfold State.dataUnread
  repeat' (first
      | with_reducible assumption | with_reducible apply State.retract_kept | with_reducible apply State.accounted_kept
      | with_reducible apply State.sendRelease_kept | with_reducible apply State.sourceFail_kept
      | with_reducible apply State.segmentFail_kept | with_reducible apply Kept.ite | (intro _ _ _) | (intro _ _) | (intro _)
      | refine Kept.of_snd (by with_reducible assumption) ?_ | refine Kept.of_fst (by with_reducible assumption) ?_
      | exact KeptOpt.of rfl (by with_reducible assumption) | exact KeptPair.of rfl (by with_reducible assumption)
      | with_reducible apply KeptOpt.ite | with_reducible refine KeptOpt.mapState ?_ (fun _ _ => ?_)
      | with_reducible refine KeptOpt.map (fun _ => ?_) | with_reducible apply KeptOpt.some | with_reducible exact KeptOpt.none
      | with_reducible apply KeptPair.ite | with_reducible apply KeptPair.some | with_reducible exact KeptPair.none
      | (extract_lets +onlyGivenNames x
         first
         | (refine Kept.cut (k := κ) (s := x) ?_ ?_; subst x; rotate_left; intro hx; clear_value x; revert x; intro _ _)
         | (refine Kept.cut1 (k := κ) (s := x) ?_ ?_; subst x; rotate_left; intro hx; clear_value x; revert x; intro _ _)
         | (refine Kept.cut2 (k := κ) (s := x) ?_ ?_; subst x; rotate_left; intro hx; clear_value x; revert x; intro _ _)
         | (refine KeptOpt.cut (k := κ) (o := x) ?_ ?_; subst x; rotate_left; intro hx; clear_value x; revert x; intro _ _)
         | (refine KeptPair.cut (k := κ) (o := x) ?_ ?_; subst x; rotate_left; intro hx; clear_value x; revert x; intro _ _)
         | (subst x))
      | dsimp -zeta only | split)

theorem State.pktUnread_kept {κ : Fixed} {s : State} (c : Coord) (u : ReadUse) (typ : Nat) (cls : Nat) (tag : Nat) (n : Nat) (lo : Nat) (hi : Nat) (hk : Kept κ s) :
    Kept κ (State.pktUnread s c u typ cls tag n lo hi) := by
  unfold State.pktUnread
  repeat' (first
      | with_reducible assumption | with_reducible apply State.faultEvent_kept | with_reducible apply State.modCmd_kept
      | with_reducible apply State.retract_kept | with_reducible apply State.readFailed_kept
      | with_reducible apply State.fillRead_kept | with_reducible apply State.rowUnread_kept
      | with_reducible apply State.dataUnread_kept | with_reducible apply Kept.ite | (intro _ _ _) | (intro _ _) | (intro _)
      | refine Kept.of_snd (by with_reducible assumption) ?_ | refine Kept.of_fst (by with_reducible assumption) ?_
      | exact KeptOpt.of rfl (by with_reducible assumption) | exact KeptPair.of rfl (by with_reducible assumption)
      | with_reducible apply KeptOpt.ite | with_reducible refine KeptOpt.mapState ?_ (fun _ _ => ?_)
      | with_reducible refine KeptOpt.map (fun _ => ?_) | with_reducible apply KeptOpt.some | with_reducible exact KeptOpt.none
      | with_reducible apply KeptPair.ite | with_reducible apply KeptPair.some | with_reducible exact KeptPair.none
      | (extract_lets +onlyGivenNames x
         first
         | (refine Kept.cut (k := κ) (s := x) ?_ ?_; subst x; rotate_left; intro hx; clear_value x; revert x; intro _ _)
         | (refine Kept.cut1 (k := κ) (s := x) ?_ ?_; subst x; rotate_left; intro hx; clear_value x; revert x; intro _ _)
         | (refine Kept.cut2 (k := κ) (s := x) ?_ ?_; subst x; rotate_left; intro hx; clear_value x; revert x; intro _ _)
         | (refine KeptOpt.cut (k := κ) (o := x) ?_ ?_; subst x; rotate_left; intro hx; clear_value x; revert x; intro _ _)
         | (refine KeptPair.cut (k := κ) (o := x) ?_ ?_; subst x; rotate_left; intro hx; clear_value x; revert x; intro _ _)
         | (clear_value x; revert x; intro _))
      | dsimp -zeta only | split | simp -zeta only [Kept.mk_iff])

theorem State.replyUnread_kept {κ : Fixed} {s : State} (c : Coord) (u : ReadUse) (who : SrcAddr) (tag : Nat) (n : Nat) (off : Nat) (lo : Nat) (hi : Nat) (hk : Kept κ s) :
    Kept κ (State.replyUnread s c u who tag n off lo hi) := by
  unfold State.replyUnread
  repeat' (first
      | with_reducible assumption | with_reducible apply State.raiseNack_kept | with_reducible apply State.faultEvent_kept
      | with_reducible apply State.retract_kept | with_reducible apply State.fillRead_kept | with_reducible apply Kept.ite
      | with_reducible apply Kept.foldl | with_reducible apply Kept.foldl_fst | with_reducible apply Kept.foldl_snd | (intro _ _ _)
      | (intro _ _) | (intro _) | refine Kept.of_snd (by with_reducible assumption) ?_
      | refine Kept.of_fst (by with_reducible assumption) ?_
      | (extract_lets +onlyGivenNames x
         first
         | (refine Kept.cut (k := κ) (s := x) ?_ ?_; subst x; rotate_left; intro hx; clear_value x; revert x; intro _ _)
         | (refine Kept.cut1 (k := κ) (s := x) ?_ ?_; subst x; rotate_left; intro hx; clear_value x; revert x; intro _ _)
         | (refine Kept.cut2 (k := κ) (s := x) ?_ ?_; subst x; rotate_left; intro hx; clear_value x; revert x; intro _ _)
         | (subst x))
      | dsimp -zeta only | split)

theorem State.entryUnread_kept {κ : Fixed} {s : State} (c : Coord) (tag : Nat) (j : Nat) (hk : Kept κ s) :
    Kept κ (State.entryUnread s c tag j) := by
  unfold State.entryUnread
  repeat' (first
      | with_reducible assumption | with_reducible apply State.faultEvent_kept | with_reducible apply State.modCmd_kept
      | with_reducible apply State.endSrcRsv_kept | with_reducible apply State.endRow_kept
      | with_reducible apply State.gatherSettle_kept | with_reducible apply Kept.ite | (intro _ _ _) | (intro _ _) | (intro _)
      | refine KeptOpt.foldl_bind (KeptOpt.some ?_) (fun _ _ _ => ?_) | exact KeptOpt.of rfl (by with_reducible assumption)
      | exact KeptPair.of rfl (by with_reducible assumption) | with_reducible apply KeptOpt.ite
      | with_reducible refine KeptOpt.mapState ?_ (fun _ _ => ?_) | with_reducible refine KeptOpt.map (fun _ => ?_)
      | with_reducible apply KeptOpt.some | with_reducible exact KeptOpt.none | with_reducible apply KeptPair.ite
      | with_reducible apply KeptPair.some | with_reducible exact KeptPair.none
      | (extract_lets +onlyGivenNames x
         first
         | (refine Kept.cut (k := κ) (s := x) ?_ ?_; subst x; rotate_left; intro hx; clear_value x; revert x; intro _ _)
         | (refine KeptOpt.cut (k := κ) (o := x) ?_ ?_; subst x; rotate_left; intro hx; clear_value x; revert x; intro _ _)
         | (refine KeptPair.cut (k := κ) (o := x) ?_ ?_; subst x; rotate_left; intro hx; clear_value x; revert x; intro _ _)
         | (clear_value x; revert x; intro _))
      | dsimp -zeta only | split | simp -zeta only [Kept.mk_iff])

theorem State.entryRead_kept {κ : Fixed} {s : State} (c : Coord) (tag : Nat) (j : Nat) (hk : Kept κ s) :
    Kept κ (State.entryRead s c tag j) := by
  unfold State.entryRead
  repeat' (first
      | with_reducible assumption | with_reducible apply State.scatterRow_kept | with_reducible apply State.gatherRow_kept
      | with_reducible apply Kept.ite | (intro _ _ _) | (intro _ _) | (intro _) | dsimp -zeta only | split)

theorem State.wholeRead_kept {κ : Fixed} {s : State} (c : Coord) (tag : Nat) (u : ReadUse) (err : Bool) (go : State → Cmd → State) (hgo : ∀ s a, Kept κ s → Kept κ (go s a)) (hk : Kept κ s) :
    Kept κ (State.wholeRead s c tag u err go) := by
  unfold State.wholeRead
  repeat' (first
      | with_reducible assumption | with_reducible apply hgo | with_reducible apply State.modCell_kept
      | with_reducible apply State.readFailed_kept | with_reducible apply Kept.ite | (intro _ _ _) | (intro _ _) | (intro _)
      | dsimp -zeta only | split | simp -zeta only [Kept.mk_iff])

theorem State.readsIn_kept {κ : Fixed} {s : State} (c : Coord) (typ : Nat) (tag : Nat) (n : Nat) (hk : Kept κ s) :
    Kept κ (State.readsIn s c typ tag n) := by
  unfold State.readsIn
  repeat' (first
      | with_reducible assumption | with_reducible apply State.restartTimer_kept | with_reducible apply State.exchSettle_kept
      | with_reducible apply Kept.ite | (intro _ _ _) | (intro _ _) | (intro _) | exact KeptOpt.of rfl (by with_reducible assumption)
      | exact KeptPair.of rfl (by with_reducible assumption) | with_reducible apply KeptOpt.ite
      | with_reducible refine KeptOpt.mapState ?_ (fun _ _ => ?_) | with_reducible refine KeptOpt.map (fun _ => ?_)
      | with_reducible apply KeptOpt.some | with_reducible exact KeptOpt.none | with_reducible apply KeptPair.ite
      | with_reducible apply KeptPair.some | with_reducible exact KeptPair.none
      | (extract_lets +onlyGivenNames x
         first
         | (refine Kept.cut (k := κ) (s := x) ?_ ?_; subst x; rotate_left; intro hx; clear_value x; revert x; intro _ _)
         | (refine KeptOpt.cut (k := κ) (o := x) ?_ ?_; subst x; rotate_left; intro hx; clear_value x; revert x; intro _ _)
         | (refine KeptPair.cut (k := κ) (o := x) ?_ ?_; subst x; rotate_left; intro hx; clear_value x; revert x; intro _ _)
         | (clear_value x; revert x; intro _))
      | dsimp -zeta only | split)

theorem State.readTaken_kept {κ : Fixed} {s : State} (c : Coord) (r : MemRead) (err : Bool) (hk : Kept κ s) :
    Kept κ (State.readTaken s c r err) := by
  unfold State.readTaken
  repeat' (first
      | with_reducible assumption | with_reducible apply State.depRead_kept | with_reducible apply State.depUnread_kept
      | with_reducible apply State.thirdRead_kept | with_reducible apply State.stage_kept | with_reducible apply State.dictGo_kept
      | with_reducible apply State.watchGo_kept | with_reducible apply State.pktUnread_kept
      | with_reducible apply State.replyUnread_kept | with_reducible apply State.entryUnread_kept
      | with_reducible apply State.entryRead_kept | with_reducible apply State.wholeRead_kept
      | with_reducible apply State.readsIn_kept | with_reducible apply Kept.ite | (intro _ _ _) | (intro _ _) | (intro _)
      | refine Kept.of_snd (by with_reducible assumption) ?_ | refine Kept.of_fst (by with_reducible assumption) ?_ | dsimp -zeta only
      | split)

theorem State.memAnswer_kept {κ : Fixed} {s : State} (c : Coord) (err : Bool) (hk : Kept κ s) :
    Kept κ (State.memAnswer s c err) := by
  unfold State.memAnswer
  repeat' (first
      | with_reducible assumption | with_reducible apply State.bump_kept | with_reducible apply State.modCell_kept
      | with_reducible apply State.countStalls_kept | with_reducible apply State.tidyRouter_kept
      | with_reducible apply State.after_kept | with_reducible apply State.readTaken_kept | with_reducible apply Kept.ite
      | (intro _ _ _) | (intro _ _) | (intro _)
      | (extract_lets +onlyGivenNames x
         first
         | (refine Kept.cut (k := κ) (s := x) ?_ ?_; subst x; rotate_left; intro hx; clear_value x; revert x; intro _ _)
         | (clear_value x; revert x; intro _))
      | dsimp -zeta only | split | simp -zeta only [Kept.mk_iff])

theorem State.memAck_kept {κ : Fixed} {s : State} (c : Coord) (hk : Kept κ s) :
    Kept κ (State.memAck s c) := by
  unfold State.memAck
  repeat' (first
      | with_reducible assumption | with_reducible apply State.modCell_kept | with_reducible apply State.countStalls_kept
      | with_reducible apply Kept.ite | (intro _ _ _) | (intro _ _) | (intro _) | dsimp -zeta only | split
      | simp -zeta only [Kept.mk_iff])

end Sys2Proof.Machine
end

