-- ==== Sys2Proof/Laws/KeptGuard.lean ====
section
/-! SUPPORT. Every operation of Machine/Guard.lean keeps the build, the queue and the canonical form. -/

namespace Sys2Proof.Machine

set_option linter.all false

theorem whenUnit_kept {κ : Fixed} {t : State} (ok : Bool) (what : String) (hk : Kept κ t) :
    KeptOut κ (whenUnit ok what t) := by
  unfold whenUnit
  repeat' (first
      | with_reducible assumption | with_reducible apply Kept.ite | with_reducible apply KeptOut.ite
      | with_reducible apply KeptOut.next | with_reducible exact KeptOut.fault | with_reducible exact KeptOut.refused
      | dsimp -zeta only | split)

theorem State.onCell_kept {κ : Fixed} {t : State} (c : Coord) (hk : Kept κ t) :
    KeptOut κ (State.onCell s c t) := by
  unfold State.onCell
  repeat' (first
      | with_reducible assumption | with_reducible apply whenUnit_kept | with_reducible apply Kept.ite
      | with_reducible apply KeptOut.ite | with_reducible apply KeptOut.next | with_reducible exact KeptOut.fault
      | with_reducible exact KeptOut.refused | dsimp -zeta only | split)

theorem State.onCore_kept {κ : Fixed} {t : State} (c : Coord) (core : Nat) (hk : Kept κ t) :
    KeptOut κ (State.onCore s c core t) := by
  unfold State.onCore
  repeat' (first
      | with_reducible assumption | with_reducible apply whenUnit_kept | with_reducible apply Kept.ite
      | with_reducible apply KeptOut.ite | with_reducible apply KeptOut.next | with_reducible exact KeptOut.fault
      | with_reducible exact KeptOut.refused | dsimp -zeta only | split)

theorem State.onCtr_kept {κ : Fixed} {t : State} (c : Coord) (core : Nat) (k : Nat) (hk : Kept κ t) :
    KeptOut κ (State.onCtr s c core k t) := by
  unfold State.onCtr
  repeat' (first
      | with_reducible assumption | with_reducible apply whenUnit_kept | with_reducible apply Kept.ite
      | with_reducible apply KeptOut.ite | with_reducible apply KeptOut.next | with_reducible exact KeptOut.fault
      | with_reducible exact KeptOut.refused | dsimp -zeta only | split)

theorem State.onChan_kept {κ : Fixed} {t : State} (c : Coord) (core : Nat) (n : Nat) (hk : Kept κ t) :
    KeptOut κ (State.onChan s c core n t) := by
  unfold State.onChan
  repeat' (first
      | with_reducible assumption | with_reducible apply whenUnit_kept | with_reducible apply Kept.ite
      | with_reducible apply KeptOut.ite | with_reducible apply KeptOut.next | with_reducible exact KeptOut.fault
      | with_reducible exact KeptOut.refused | dsimp -zeta only | split)

theorem State.onPort_kept {κ : Fixed} {t : State} (c : Coord) (q : Nat) (hk : Kept κ t) :
    KeptOut κ (State.onPort s c q t) := by
  unfold State.onPort
  repeat' (first
      | with_reducible assumption | with_reducible apply whenUnit_kept | with_reducible apply Kept.ite
      | with_reducible apply KeptOut.ite | with_reducible apply KeptOut.next | with_reducible exact KeptOut.fault
      | with_reducible exact KeptOut.refused | dsimp -zeta only | split)

theorem State.onLinkSide_kept {κ : Fixed} {t : State} (c : Coord) (q : Nat) (hk : Kept κ t) :
    KeptOut κ (State.onLinkSide s c q t) := by
  unfold State.onLinkSide
  repeat' (first
      | with_reducible assumption | with_reducible apply whenUnit_kept | with_reducible apply Kept.ite
      | with_reducible apply KeptOut.ite | with_reducible apply KeptOut.next | with_reducible exact KeptOut.fault
      | with_reducible exact KeptOut.refused | dsimp -zeta only | split)

theorem State.onField_kept {κ : Fixed} {t : State} (f : Nat) (hk : Kept κ t) :
    KeptOut κ (State.onField s f t) := by
  unfold State.onField
  repeat' (first
      | with_reducible assumption | with_reducible apply whenUnit_kept | with_reducible apply Kept.ite
      | with_reducible apply KeptOut.ite | with_reducible apply KeptOut.next | with_reducible exact KeptOut.fault
      | with_reducible exact KeptOut.refused | dsimp -zeta only | split)

theorem State.onDrop_kept {κ : Fixed} {t : State} (st : Nat) (d : Nat) (hk : Kept κ t) :
    KeptOut κ (State.onDrop s st d t) := by
  unfold State.onDrop
  repeat' (first
      | with_reducible assumption | with_reducible apply whenUnit_kept | with_reducible apply Kept.ite
      | with_reducible apply KeptOut.ite | with_reducible apply KeptOut.next | with_reducible exact KeptOut.fault
      | with_reducible exact KeptOut.refused | dsimp -zeta only | split)

theorem State.onLink_kept {κ : Fixed} {t : State} (p : Nat) (hk : Kept κ t) :
    KeptOut κ (State.onLink s p t) := by
  unfold State.onLink
  repeat' (first
      | with_reducible assumption | with_reducible apply whenUnit_kept | with_reducible apply Kept.ite
      | with_reducible apply KeptOut.ite | with_reducible apply KeptOut.next | with_reducible exact KeptOut.fault
      | with_reducible exact KeptOut.refused | dsimp -zeta only | split)

theorem State.onSite_kept {κ : Fixed} {t : State} (x : Site) (hk : Kept κ t) :
    KeptOut κ (State.onSite s x t) := by
  unfold State.onSite
  repeat' (first
      | with_reducible assumption | with_reducible apply State.onCell_kept | with_reducible apply State.onDrop_kept
      | with_reducible apply State.onLink_kept | with_reducible apply Kept.ite | with_reducible apply KeptOut.ite
      | with_reducible apply KeptOut.next | with_reducible exact KeptOut.fault | with_reducible exact KeptOut.refused
      | dsimp -zeta only | split)

end Sys2Proof.Machine
end

