-- ==== Sys2Proof/Laws/KeptCellCmds.lean ====
section
/-! SUPPORT. Every operation of Machine/CellCmds.lean keeps the build, the queue and the canonical form. -/

namespace Sys2Proof.Machine

set_option linter.all false

theorem State.present_kept {κ : Fixed} {s : State} (c : Coord) (core : Nat) (d : Nat) (hk : Kept κ s) :
    Kept κ (State.present s c core d) := by
  unfold State.present
  repeat' (first
      | with_reducible assumption | with_reducible apply State.modCore_kept | with_reducible apply State.causeWake_kept
      | with_reducible apply Kept.ite | (intro _ _ _) | (intro _ _) | (intro _) | dsimp -zeta only | split
      | simp -zeta only [Kept.mk_iff])

theorem execCommandPresent_kept {κ : Fixed} {s : State} (c : Coord) (core : Nat) (d : Descriptor) (hk : Kept κ s) :
    KeptOut κ (execCommandPresent c core d s) := by
  unfold execCommandPresent
  repeat' (first
      | with_reducible assumption | with_reducible apply State.onCore_kept | with_reducible apply State.present_kept
      | with_reducible apply Kept.ite | with_reducible apply KeptOut.ite | with_reducible apply KeptOut.next
      | with_reducible exact KeptOut.fault | with_reducible exact KeptOut.refused | dsimp -zeta only | split)

theorem execPut_kept {κ : Fixed} {s : State} (c : Coord) (hk : Kept κ s) :
    KeptOut κ (execPut c s) := by
  unfold execPut
  repeat' (first
      | with_reducible assumption | with_reducible apply State.accept_kept | with_reducible apply State.onCell_kept
      | with_reducible apply Kept.ite | with_reducible apply KeptOut.ite | with_reducible apply KeptOut.next
      | with_reducible exact KeptOut.fault | with_reducible exact KeptOut.refused | dsimp -zeta only | split)

theorem execGet_kept {κ : Fixed} {s : State} (c : Coord) (hk : Kept κ s) :
    KeptOut κ (execGet c s) := by
  unfold execGet
  repeat' (first
      | with_reducible assumption | with_reducible apply State.accept_kept | with_reducible apply State.onCell_kept
      | with_reducible apply Kept.ite | with_reducible apply KeptOut.ite | with_reducible apply KeptOut.next
      | with_reducible exact KeptOut.fault | with_reducible exact KeptOut.refused | dsimp -zeta only | split)

theorem execPutScatter_kept {κ : Fixed} {s : State} (c : Coord) (hk : Kept κ s) :
    KeptOut κ (execPutScatter c s) := by
  unfold execPutScatter
  repeat' (first
      | with_reducible assumption | with_reducible apply State.accept_kept | with_reducible apply State.onCell_kept
      | with_reducible apply Kept.ite | with_reducible apply KeptOut.ite | with_reducible apply KeptOut.next
      | with_reducible exact KeptOut.fault | with_reducible exact KeptOut.refused | dsimp -zeta only | split)

theorem execGetGather_kept {κ : Fixed} {s : State} (c : Coord) (hk : Kept κ s) :
    KeptOut κ (execGetGather c s) := by
  unfold execGetGather
  repeat' (first
      | with_reducible assumption | with_reducible apply State.accept_kept | with_reducible apply State.onCell_kept
      | with_reducible apply Kept.ite | with_reducible apply KeptOut.ite | with_reducible apply KeptOut.next
      | with_reducible exact KeptOut.fault | with_reducible exact KeptOut.refused | dsimp -zeta only | split)

theorem execSend_kept {κ : Fixed} {s : State} (c : Coord) (hk : Kept κ s) :
    KeptOut κ (execSend c s) := by
  unfold execSend
  repeat' (first
      | with_reducible assumption | with_reducible apply State.accept_kept | with_reducible apply State.onCell_kept
      | with_reducible apply Kept.ite | with_reducible apply KeptOut.ite | with_reducible apply KeptOut.next
      | with_reducible exact KeptOut.fault | with_reducible exact KeptOut.refused | dsimp -zeta only | split)

theorem execMcast_kept {κ : Fixed} {s : State} (c : Coord) (hk : Kept κ s) :
    KeptOut κ (execMcast c s) := by
  unfold execMcast
  repeat' (first
      | with_reducible assumption | with_reducible apply State.accept_kept | with_reducible apply State.onCell_kept
      | with_reducible apply Kept.ite | with_reducible apply KeptOut.ite | with_reducible apply KeptOut.next
      | with_reducible exact KeptOut.fault | with_reducible exact KeptOut.refused | dsimp -zeta only | split)

theorem execDeposit_kept {κ : Fixed} {s : State} (c : Coord) (hk : Kept κ s) :
    KeptOut κ (execDeposit c s) := by
  unfold execDeposit
  repeat' (first
      | with_reducible assumption | with_reducible apply State.accept_kept | with_reducible apply State.onCell_kept
      | with_reducible apply Kept.ite | with_reducible apply KeptOut.ite | with_reducible apply KeptOut.next
      | with_reducible exact KeptOut.fault | with_reducible exact KeptOut.refused | dsimp -zeta only | split)

theorem execSignalBarArrive_kept {κ : Fixed} {s : State} (c : Coord) (hk : Kept κ s) :
    KeptOut κ (execSignalBarArrive c s) := by
  unfold execSignalBarArrive
  repeat' (first
      | with_reducible assumption | with_reducible apply State.accept_kept | with_reducible apply State.onCell_kept
      | with_reducible apply Kept.ite | with_reducible apply KeptOut.ite | with_reducible apply KeptOut.next
      | with_reducible exact KeptOut.fault | with_reducible exact KeptOut.refused | dsimp -zeta only | split)

theorem execSignalTallyAdd_kept {κ : Fixed} {s : State} (c : Coord) (hk : Kept κ s) :
    KeptOut κ (execSignalTallyAdd c s) := by
  unfold execSignalTallyAdd
  repeat' (first
      | with_reducible assumption | with_reducible apply State.accept_kept | with_reducible apply State.onCell_kept
      | with_reducible apply Kept.ite | with_reducible apply KeptOut.ite | with_reducible apply KeptOut.next
      | with_reducible exact KeptOut.fault | with_reducible exact KeptOut.refused | dsimp -zeta only | split)

theorem execSignalTallyMin_kept {κ : Fixed} {s : State} (c : Coord) (hk : Kept κ s) :
    KeptOut κ (execSignalTallyMin c s) := by
  unfold execSignalTallyMin
  repeat' (first
      | with_reducible assumption | with_reducible apply State.accept_kept | with_reducible apply State.onCell_kept
      | with_reducible apply Kept.ite | with_reducible apply KeptOut.ite | with_reducible apply KeptOut.next
      | with_reducible exact KeptOut.fault | with_reducible exact KeptOut.refused | dsimp -zeta only | split)

theorem execSignalTallyMax_kept {κ : Fixed} {s : State} (c : Coord) (hk : Kept κ s) :
    KeptOut κ (execSignalTallyMax c s) := by
  unfold execSignalTallyMax
  repeat' (first
      | with_reducible assumption | with_reducible apply State.accept_kept | with_reducible apply State.onCell_kept
      | with_reducible apply Kept.ite | with_reducible apply KeptOut.ite | with_reducible apply KeptOut.next
      | with_reducible exact KeptOut.fault | with_reducible exact KeptOut.refused | dsimp -zeta only | split)

theorem execSignalTallyRead_kept {κ : Fixed} {s : State} (c : Coord) (hk : Kept κ s) :
    KeptOut κ (execSignalTallyRead c s) := by
  unfold execSignalTallyRead
  repeat' (first
      | with_reducible assumption | with_reducible apply State.accept_kept | with_reducible apply State.onCell_kept
      | with_reducible apply Kept.ite | with_reducible apply KeptOut.ite | with_reducible apply KeptOut.next
      | with_reducible exact KeptOut.fault | with_reducible exact KeptOut.refused | dsimp -zeta only | split)

theorem execSignalTallySwap_kept {κ : Fixed} {s : State} (c : Coord) (hk : Kept κ s) :
    KeptOut κ (execSignalTallySwap c s) := by
  unfold execSignalTallySwap
  repeat' (first
      | with_reducible assumption | with_reducible apply State.accept_kept | with_reducible apply State.onCell_kept
      | with_reducible apply Kept.ite | with_reducible apply KeptOut.ite | with_reducible apply KeptOut.next
      | with_reducible exact KeptOut.fault | with_reducible exact KeptOut.refused | dsimp -zeta only | split)

theorem execSignalTallyTake_kept {κ : Fixed} {s : State} (c : Coord) (hk : Kept κ s) :
    KeptOut κ (execSignalTallyTake c s) := by
  unfold execSignalTallyTake
  repeat' (first
      | with_reducible assumption | with_reducible apply State.accept_kept | with_reducible apply State.onCell_kept
      | with_reducible apply Kept.ite | with_reducible apply KeptOut.ite | with_reducible apply KeptOut.next
      | with_reducible exact KeptOut.fault | with_reducible exact KeptOut.refused | dsimp -zeta only | split)

theorem execSignalInt_kept {κ : Fixed} {s : State} (c : Coord) (hk : Kept κ s) :
    KeptOut κ (execSignalInt c s) := by
  unfold execSignalInt
  repeat' (first
      | with_reducible assumption | with_reducible apply State.accept_kept | with_reducible apply State.onCell_kept
      | with_reducible apply Kept.ite | with_reducible apply KeptOut.ite | with_reducible apply KeptOut.next
      | with_reducible exact KeptOut.fault | with_reducible exact KeptOut.refused | dsimp -zeta only | split)

theorem execSignalWake_kept {κ : Fixed} {s : State} (c : Coord) (hk : Kept κ s) :
    KeptOut κ (execSignalWake c s) := by
  unfold execSignalWake
  repeat' (first
      | with_reducible assumption | with_reducible apply State.accept_kept | with_reducible apply State.onCell_kept
      | with_reducible apply Kept.ite | with_reducible apply KeptOut.ite | with_reducible apply KeptOut.next
      | with_reducible exact KeptOut.fault | with_reducible exact KeptOut.refused | dsimp -zeta only | split)

theorem execFenceIssue_kept {κ : Fixed} {s : State} (c : Coord) (hk : Kept κ s) :
    KeptOut κ (execFenceIssue c s) := by
  unfold execFenceIssue
  repeat' (first
      | with_reducible assumption | with_reducible apply State.accept_kept | with_reducible apply State.onCell_kept
      | with_reducible apply Kept.ite | with_reducible apply KeptOut.ite | with_reducible apply KeptOut.next
      | with_reducible exact KeptOut.fault | with_reducible exact KeptOut.refused | dsimp -zeta only | split)

theorem execFenceDone_kept {κ : Fixed} {s : State} (c : Coord) (hk : Kept κ s) :
    KeptOut κ (execFenceDone c s) := by
  unfold execFenceDone
  repeat' (first
      | with_reducible assumption | with_reducible apply State.accept_kept | with_reducible apply State.onCell_kept
      | with_reducible apply Kept.ite | with_reducible apply KeptOut.ite | with_reducible apply KeptOut.next
      | with_reducible exact KeptOut.fault | with_reducible exact KeptOut.refused | dsimp -zeta only | split)

theorem execFenceCtx_kept {κ : Fixed} {s : State} (c : Coord) (hk : Kept κ s) :
    KeptOut κ (execFenceCtx c s) := by
  unfold execFenceCtx
  repeat' (first
      | with_reducible assumption | with_reducible apply State.accept_kept | with_reducible apply State.onCell_kept
      | with_reducible apply Kept.ite | with_reducible apply KeptOut.ite | with_reducible apply KeptOut.next
      | with_reducible exact KeptOut.fault | with_reducible exact KeptOut.refused | dsimp -zeta only | split)

theorem execDictRead_kept {κ : Fixed} {s : State} (c : Coord) (hk : Kept κ s) :
    KeptOut κ (execDictRead c s) := by
  unfold execDictRead
  repeat' (first
      | with_reducible assumption | with_reducible apply State.dictRead_kept | with_reducible apply State.accept_kept
      | with_reducible apply State.onCell_kept | with_reducible apply Kept.ite | refine Kept.of_snd (by with_reducible assumption) ?_
      | refine Kept.of_fst (by with_reducible assumption) ?_ | with_reducible apply KeptOut.ite | with_reducible apply KeptOut.next
      | with_reducible exact KeptOut.fault | with_reducible exact KeptOut.refused | dsimp -zeta only | split)

theorem execDictWrite_kept {κ : Fixed} {s : State} (c : Coord) (hk : Kept κ s) :
    KeptOut κ (execDictWrite c s) := by
  unfold execDictWrite
  repeat' (first
      | with_reducible assumption | with_reducible apply State.dictWrite_kept | with_reducible apply State.accept_kept
      | with_reducible apply State.onCell_kept | with_reducible apply Kept.ite | refine Kept.of_snd (by with_reducible assumption) ?_
      | refine Kept.of_fst (by with_reducible assumption) ?_ | with_reducible apply KeptOut.ite | with_reducible apply KeptOut.next
      | with_reducible exact KeptOut.fault | with_reducible exact KeptOut.refused | dsimp -zeta only | split)

theorem execWatchBuffer_kept {κ : Fixed} {s : State} (c : Coord) (hk : Kept κ s) :
    KeptOut κ (execWatchBuffer c s) := by
  unfold execWatchBuffer
  repeat' (first
      | with_reducible assumption | with_reducible apply State.accept_kept | with_reducible apply State.onCell_kept
      | with_reducible apply Kept.ite | with_reducible apply KeptOut.ite | with_reducible apply KeptOut.next
      | with_reducible exact KeptOut.fault | with_reducible exact KeptOut.refused | dsimp -zeta only | split)

theorem execWatchContext_kept {κ : Fixed} {s : State} (c : Coord) (hk : Kept κ s) :
    KeptOut κ (execWatchContext c s) := by
  unfold execWatchContext
  repeat' (first
      | with_reducible assumption | with_reducible apply State.accept_kept | with_reducible apply State.onCell_kept
      | with_reducible apply Kept.ite | with_reducible apply KeptOut.ite | with_reducible apply KeptOut.next
      | with_reducible exact KeptOut.fault | with_reducible exact KeptOut.refused | dsimp -zeta only | split)

theorem State.direct_kept {κ : Fixed} {s : State} (c : Coord) (run : State) (hrun : Kept κ run) (hk : Kept κ s) :
    Kept κ (State.direct s c run) := by
  unfold State.direct
  repeat' (first
      | with_reducible assumption | with_reducible apply hrun | with_reducible apply Kept.ite | dsimp -zeta only | split)

theorem execCounterRead_kept {κ : Fixed} {s : State} (c : Coord) (core : Nat) (tag : Nat) (k : Nat) (hk : Kept κ s) :
    KeptOut κ (execCounterRead c core tag k s) := by
  unfold execCounterRead
  repeat' (first
      | with_reducible assumption | with_reducible apply State.answer_kept | with_reducible apply State.onCtr_kept
      | with_reducible apply State.direct_kept | with_reducible apply Kept.ite | with_reducible apply KeptOut.ite
      | with_reducible apply KeptOut.next | with_reducible exact KeptOut.fault | with_reducible exact KeptOut.refused
      | dsimp -zeta only | split)

theorem State.blockingWait_kept {κ : Fixed} {s : State} (c : Coord) (core : Nat) (tag : Nat) (k : Nat) (v : Nat) (hk : Kept κ s) :
    Kept κ (State.blockingWait s c core tag k v) := by
  unfold State.blockingWait
  repeat' (first
      | with_reducible assumption | with_reducible apply State.modCore_kept | with_reducible apply State.answer_kept
      | with_reducible apply Kept.ite | (intro _ _ _) | (intro _ _) | (intro _) | exact KeptOpt.of rfl (by with_reducible assumption)
      | exact KeptPair.of rfl (by with_reducible assumption) | with_reducible apply KeptOpt.ite
      | with_reducible refine KeptOpt.mapState ?_ (fun _ _ => ?_) | with_reducible refine KeptOpt.map (fun _ => ?_)
      | with_reducible apply KeptOpt.some | with_reducible exact KeptOpt.none | with_reducible apply KeptPair.ite
      | with_reducible apply KeptPair.some | with_reducible exact KeptPair.none
      | (extract_lets +onlyGivenNames x
         first
         | (refine Kept.cut (k := κ) (s := x) ?_ ?_; subst x; rotate_left; intro hx; clear_value x; revert x; intro _ _)
         | (refine KeptOpt.cut (k := κ) (o := x) ?_ ?_; subst x; rotate_left; intro hx; clear_value x; revert x; intro _ _)
         | (refine KeptPair.cut (k := κ) (o := x) ?_ ?_; subst x; rotate_left; intro hx; clear_value x; revert x; intro _ _)
         | (clear_value x; revert x; intro _))
      | dsimp -zeta only | split | simp -zeta only [Kept.mk_iff])

theorem execBlockingWait_kept {κ : Fixed} {s : State} (c : Coord) (core : Nat) (tag : Nat) (k : Nat) (v : Nat) (hk : Kept κ s) :
    KeptOut κ (execBlockingWait c core tag k v s) := by
  unfold execBlockingWait
  repeat' (first
      | with_reducible assumption | with_reducible apply State.onCtr_kept | with_reducible apply State.direct_kept
      | with_reducible apply State.blockingWait_kept | with_reducible apply Kept.ite | with_reducible apply KeptOut.ite
      | with_reducible apply KeptOut.next | with_reducible exact KeptOut.fault | with_reducible exact KeptOut.refused
      | dsimp -zeta only | split)

theorem State.waitLate_kept {κ : Fixed} {s : State} (c : Coord) (core : Nat) (k : Nat) (hk : Kept κ s) :
    Kept κ (State.waitLate s c core k) := by
  unfold State.waitLate
  repeat' (first
      | with_reducible assumption | with_reducible apply State.modCore_kept | with_reducible apply State.answer_kept
      | with_reducible apply Kept.ite | (intro _ _ _) | (intro _ _) | (intro _) | exact KeptOpt.of rfl (by with_reducible assumption)
      | exact KeptPair.of rfl (by with_reducible assumption) | with_reducible apply KeptOpt.ite
      | with_reducible refine KeptOpt.mapState ?_ (fun _ _ => ?_) | with_reducible refine KeptOpt.map (fun _ => ?_)
      | with_reducible apply KeptOpt.some | with_reducible exact KeptOpt.none | with_reducible apply KeptPair.ite
      | with_reducible apply KeptPair.some | with_reducible exact KeptPair.none
      | (extract_lets +onlyGivenNames x
         first
         | (refine Kept.cut (k := κ) (s := x) ?_ ?_; subst x; rotate_left; intro hx; clear_value x; revert x; intro _ _)
         | (refine KeptOpt.cut (k := κ) (o := x) ?_ ?_; subst x; rotate_left; intro hx; clear_value x; revert x; intro _ _)
         | (refine KeptPair.cut (k := κ) (o := x) ?_ ?_; subst x; rotate_left; intro hx; clear_value x; revert x; intro _ _)
         | (clear_value x; revert x; intro _))
      | dsimp -zeta only | split | with_reducible refine Kept.mk_time ?_ (Nat.le_max_left _ _)
      | with_reducible refine Kept.mk_time ?_ (Nat.le_add_right _ _) | simp -zeta only [Kept.mk_iff])

theorem execWaitTimeoutExpiry_kept {κ : Fixed} {s : State} (c : Coord) (core : Nat) (k : Nat) (hk : Kept κ s) :
    KeptOut κ (execWaitTimeoutExpiry c core k s) := by
  unfold execWaitTimeoutExpiry
  repeat' (first
      | with_reducible assumption | with_reducible apply State.onCtr_kept | with_reducible apply State.waitLate_kept
      | with_reducible apply Kept.ite | with_reducible apply KeptOut.ite | with_reducible apply KeptOut.next
      | with_reducible exact KeptOut.fault | with_reducible exact KeptOut.refused | dsimp -zeta only | split)

theorem execIntTake_kept {κ : Fixed} {s : State} (c : Coord) (core : Nat) (tag : Nat) (hk : Kept κ s) :
    KeptOut κ (execIntTake c core tag s) := by
  unfold execIntTake
  repeat' (first
      | with_reducible assumption | with_reducible apply State.intTake_kept | with_reducible apply State.onCore_kept
      | with_reducible apply State.direct_kept | with_reducible apply Kept.ite | with_reducible apply KeptOut.ite
      | with_reducible apply KeptOut.next | with_reducible exact KeptOut.fault | with_reducible exact KeptOut.refused
      | dsimp -zeta only | split)

end Sys2Proof.Machine
end

