-- ==== Sys2Proof/Laws/KeptChanCmds.lean ====
section
/-! SUPPORT. Every operation of Machine/ChanCmds.lean keeps the build, the queue and the canonical form. -/

namespace Sys2Proof.Machine

set_option linter.all false

theorem execChPoll_kept {κ : Fixed} {s : State} (c : Coord) (core : Nat) (tag : Nat) (n : Nat) (hk : Kept κ s) :
    KeptOut κ (execChPoll c core tag n s) := by
  unfold execChPoll
  repeat' (first
      | with_reducible assumption | with_reducible apply State.answer_kept | with_reducible apply State.onChan_kept
      | with_reducible apply State.direct_kept | with_reducible apply Kept.ite | with_reducible apply KeptOut.ite
      | with_reducible apply KeptOut.next | with_reducible exact KeptOut.fault | with_reducible exact KeptOut.refused
      | dsimp -zeta only | split)

theorem State.chWait_kept {κ : Fixed} {s : State} (c : Coord) (core : Nat) (tag : Nat) (n : Nat) (hk : Kept κ s) :
    Kept κ (State.chWait s c core tag n) := by
  unfold State.chWait
  repeat' (first
      | with_reducible assumption | with_reducible apply State.modCore_kept | with_reducible apply State.answer_kept
      | with_reducible apply Kept.ite | (intro _ _ _) | (intro _ _) | (intro _) | exact KeptOpt.of rfl (by with_reducible assumption)
      | exact KeptPair.of rfl (by with_reducible assumption) | with_reducible apply KeptOpt.ite
      | with_reducible refine KeptOpt.mapState ?_ (fun _ _ => ?_) | with_reducible refine KeptOpt.map (fun _ => ?_)
      | with_reducible apply KeptOpt.some | with_reducible exact KeptOpt.none | with_reducible apply KeptPair.ite
      | with_reducible apply KeptPair.some | with_reducible exact KeptPair.none
      | (extract_lets +onlyGivenNames x
         first
         | (refine Kept.cut (k := κ) (s := x) ?_ ?_; subst x; rotate_left; intro hx; clear_value x; revert x; intro _ _)
         | (refine KeptOpt.cut (k := κ) (o := x) ?_ ?_; subst x; rotate_left; intro hx; clear_value x; revert x; intro _ _)
         | (refine KeptPair.cut (k := κ) (o := x) ?_ ?_; subst x; rotate_left; intro hx; clear_value x; revert x; intro _ _)
         | (clear_value x; revert x; intro _))
      | dsimp -zeta only | split | simp -zeta only [Kept.mk_iff])

theorem execChWait_kept {κ : Fixed} {s : State} (c : Coord) (core : Nat) (tag : Nat) (n : Nat) (hk : Kept κ s) :
    KeptOut κ (execChWait c core tag n s) := by
  unfold execChWait
  repeat' (first
      | with_reducible assumption | with_reducible apply State.onChan_kept | with_reducible apply State.direct_kept
      | with_reducible apply State.chWait_kept | with_reducible apply Kept.ite | with_reducible apply KeptOut.ite
      | with_reducible apply KeptOut.next | with_reducible exact KeptOut.fault | with_reducible exact KeptOut.refused
      | dsimp -zeta only | split)

theorem State.chWaitLate_kept {κ : Fixed} {s : State} (c : Coord) (core : Nat) (n : Nat) (hk : Kept κ s) :
    Kept κ (State.chWaitLate s c core n) := by
  unfold State.chWaitLate
  repeat' (first
      | with_reducible assumption | with_reducible apply State.modCore_kept | with_reducible apply State.answer_kept
      | with_reducible apply Kept.ite | (intro _ _ _) | (intro _ _) | (intro _) | exact KeptOpt.of rfl (by with_reducible assumption)
      | exact KeptPair.of rfl (by with_reducible assumption) | with_reducible apply KeptOpt.ite
      | with_reducible refine KeptOpt.mapState ?_ (fun _ _ => ?_) | with_reducible refine KeptOpt.map (fun _ => ?_)
      | with_reducible apply KeptOpt.some | with_reducible exact KeptOpt.none | with_reducible apply KeptPair.ite
      | with_reducible apply KeptPair.some | with_reducible exact KeptPair.none
      | (extract_lets +onlyGivenNames x
         first
         | (refine Kept.cut (k := κ) (s := x) ?_ ?_; subst x; rotate_left; intro hx; clear_value x; revert x; intro _ _)
         | (refine KeptOpt.cut (k := κ) (o := x) ?_ ?_; subst x; rotate_left; intro hx; clear_value x; revert x; intro _ _)
         | (refine KeptPair.cut (k := κ) (o := x) ?_ ?_; subst x; rotate_left; intro hx; clear_value x; revert x; intro _ _)
         | (clear_value x; revert x; intro _))
      | dsimp -zeta only | split | with_reducible refine Kept.mk_time ?_ (Nat.le_max_left _ _)
      | with_reducible refine Kept.mk_time ?_ (Nat.le_add_right _ _) | simp -zeta only [Kept.mk_iff])

theorem execChWaitTimeout_kept {κ : Fixed} {s : State} (c : Coord) (core : Nat) (n : Nat) (hk : Kept κ s) :
    KeptOut κ (execChWaitTimeout c core n s) := by
  unfold execChWaitTimeout
  repeat' (first
      | with_reducible assumption | with_reducible apply State.onChan_kept | with_reducible apply State.chWaitLate_kept
      | with_reducible apply Kept.ite | with_reducible apply KeptOut.ite | with_reducible apply KeptOut.next
      | with_reducible exact KeptOut.fault | with_reducible exact KeptOut.refused | dsimp -zeta only | split)

theorem State.chAdvanceOp_kept {κ : Fixed} {s : State} (c : Coord) (core : Nat) (tag : Nat) (n : Nat) (h : Nat) (g : Nat) (hk : Kept κ s) :
    Kept κ (State.chAdvanceOp s c core tag n h g) := by
  unfold State.chAdvanceOp
  repeat' (first
      | with_reducible assumption | with_reducible apply State.answer_kept | with_reducible apply State.chAdvance_kept
      | with_reducible apply Kept.ite | refine Kept.of_snd (by with_reducible assumption) ?_
      | refine Kept.of_fst (by with_reducible assumption) ?_
      | (extract_lets +onlyGivenNames x
         first
         | (refine Kept.cut (k := κ) (s := x) ?_ ?_; subst x; rotate_left; intro hx; clear_value x; revert x; intro _ _)
         | (refine Kept.cut1 (k := κ) (s := x) ?_ ?_; subst x; rotate_left; intro hx; clear_value x; revert x; intro _ _)
         | (refine Kept.cut2 (k := κ) (s := x) ?_ ?_; subst x; rotate_left; intro hx; clear_value x; revert x; intro _ _)
         | (clear_value x; revert x; intro _))
      | dsimp -zeta only | split)

theorem execChAdvance_kept {κ : Fixed} {s : State} (c : Coord) (core : Nat) (tag : Nat) (n : Nat) (h : Nat) (g : Nat) (hk : Kept κ s) :
    KeptOut κ (execChAdvance c core tag n h g s) := by
  unfold execChAdvance
  repeat' (first
      | with_reducible assumption | with_reducible apply State.onChan_kept | with_reducible apply State.direct_kept
      | with_reducible apply State.chAdvanceOp_kept | with_reducible apply Kept.ite | with_reducible apply KeptOut.ite
      | with_reducible apply KeptOut.next | with_reducible exact KeptOut.fault | with_reducible exact KeptOut.refused
      | dsimp -zeta only | split)

theorem execSendAdmission_kept {κ : Fixed} {s : State} (c : Coord) (p : Packet) (hk : Kept κ s) :
    KeptOut κ (execSendAdmission c p s) := by
  unfold execSendAdmission
  repeat' (first
      | with_reducible assumption | with_reducible apply State.atEject_kept | with_reducible apply State.sendAdmission_kept
      | with_reducible apply State.done_kept | with_reducible apply State.onCell_kept | with_reducible apply Kept.ite
      | with_reducible apply KeptOut.ite | with_reducible apply KeptOut.next | with_reducible exact KeptOut.fault
      | with_reducible exact KeptOut.refused | dsimp -zeta only | split)

theorem execSendLanding_kept {κ : Fixed} {s : State} (c : Coord) (p : Packet) (hk : Kept κ s) :
    KeptOut κ (execSendLanding c p s) := by
  unfold execSendLanding
  repeat' (first
      | with_reducible assumption | with_reducible apply State.atEject_kept | with_reducible apply State.sendLanding_kept
      | with_reducible apply State.done_kept | with_reducible apply State.onCell_kept | with_reducible apply Kept.ite
      | with_reducible apply KeptOut.ite | with_reducible apply KeptOut.next | with_reducible exact KeptOut.fault
      | with_reducible exact KeptOut.refused | dsimp -zeta only | split)

theorem execChanStateWrite_kept {κ : Fixed} {s : State} (r : DictReq) (hk : Kept κ s) :
    KeptOut κ (execChanStateWrite r s) := by
  unfold execChanStateWrite
  repeat' (first
      | with_reducible assumption | with_reducible apply State.dictServe_kept | with_reducible apply State.done_kept
      | with_reducible apply Kept.ite | with_reducible apply KeptOut.ite | with_reducible apply KeptOut.next
      | with_reducible exact KeptOut.fault | with_reducible exact KeptOut.refused | dsimp -zeta only | split)

theorem execChanHeadWrite_kept {κ : Fixed} {s : State} (r : DictReq) (hk : Kept κ s) :
    KeptOut κ (execChanHeadWrite r s) := by
  unfold execChanHeadWrite
  repeat' (first
      | with_reducible assumption | with_reducible apply State.dictServe_kept | with_reducible apply State.done_kept
      | with_reducible apply Kept.ite | with_reducible apply KeptOut.ite | with_reducible apply KeptOut.next
      | with_reducible exact KeptOut.fault | with_reducible exact KeptOut.refused | dsimp -zeta only | split)

end Sys2Proof.Machine
end

