-- ==== Sys2Proof/Laws/KeptRouterCmds.lean ====
section
/-! SUPPORT. Every operation of Machine/RouterCmds.lean keeps the build, the queue and the canonical form. -/

namespace Sys2Proof.Machine

set_option linter.all false

theorem State.offWire_kept {κ : Fixed} {s : State} (c : Coord) (q : Nat) (cw : List Byte) (side : Nat) (hk : Kept κ s) :
    Kept κ (State.offWire s c q cw side) := by
  unfold State.offWire
  repeat' (first
      | with_reducible assumption | with_reducible apply Kept.ite | (intro _ _ _) | (intro _ _) | (intro _) | dsimp -zeta only | split
      | simp -zeta only [Kept.mk_iff])

theorem State.beatIn_kept {κ : Fixed} {s : State} (c : Coord) (q : Nat) (cw : List Byte) (side : Nat) (hk : Kept κ s) :
    Kept κ (State.beatIn s c q cw side) := by
  unfold State.beatIn
  repeat' (first
      | with_reducible assumption | with_reducible apply State.tidyRouter_kept | with_reducible apply State.recvBeat_kept
      | with_reducible apply State.done_kept | with_reducible apply State.offWire_kept | with_reducible apply Kept.ite | (intro _ _ _)
      | (intro _ _) | (intro _) | with_reducible apply KeptOpt.getD
      | (extract_lets +onlyGivenNames x
         first
         | (refine Kept.cut (k := κ) (s := x) ?_ ?_; subst x; rotate_left; intro hx; clear_value x; revert x; intro _ _)
         | (clear_value x; revert x; intro _))
      | dsimp -zeta only | split)

theorem State.offMarker_kept {κ : Fixed} {s : State} (c : Coord) (q : Nat) (hk : Kept κ s) :
    Kept κ (State.offMarker s c q) := by
  unfold State.offMarker
  repeat' (first
      | with_reducible assumption | with_reducible apply State.offWire_kept | with_reducible apply Kept.ite | dsimp -zeta only | split)

theorem execDataBeatReceive_kept {κ : Fixed} {s : State} (c : Coord) (port : Nat) (cw : List Byte) (side : Nat) (hk : Kept κ s) :
    KeptOut κ (execDataBeatReceive c port cw side s) := by
  unfold execDataBeatReceive
  repeat' (first
      | with_reducible assumption | with_reducible apply State.clocked_kept | with_reducible apply State.onLinkSide_kept
      | with_reducible apply State.beatIn_kept | with_reducible apply Kept.ite | with_reducible apply KeptOut.ite
      | with_reducible apply KeptOut.next | with_reducible exact KeptOut.fault | with_reducible exact KeptOut.refused
      | dsimp -zeta only | split)

theorem execCreditBeatReceive_kept {κ : Fixed} {s : State} (c : Coord) (port : Nat) (cw : List Byte) (side : Nat) (hk : Kept κ s) :
    KeptOut κ (execCreditBeatReceive c port cw side s) := by
  unfold execCreditBeatReceive
  repeat' (first
      | with_reducible assumption | with_reducible apply State.clocked_kept | with_reducible apply State.onLinkSide_kept
      | with_reducible apply State.beatIn_kept | with_reducible apply Kept.ite | with_reducible apply KeptOut.ite
      | with_reducible apply KeptOut.next | with_reducible exact KeptOut.fault | with_reducible exact KeptOut.refused
      | dsimp -zeta only | split)

theorem execGustDecision_kept {κ : Fixed} {s : State} (c : Coord) (port : Nat) (hk : Kept κ s) :
    KeptOut κ (execGustDecision c port s) := by
  unfold execGustDecision
  repeat' (first
      | with_reducible assumption | with_reducible apply State.clocked_kept | with_reducible apply State.gustDecision_kept
      | with_reducible apply State.done_kept | with_reducible apply State.onPort_kept | with_reducible apply Kept.ite
      | with_reducible apply KeptOut.ite | with_reducible apply KeptOut.next | with_reducible exact KeptOut.fault
      | with_reducible exact KeptOut.refused | dsimp -zeta only | split)

theorem execCreditBeatInsert_kept {κ : Fixed} {s : State} (c : Coord) (port : Nat) (hk : Kept κ s) :
    KeptOut κ (execCreditBeatInsert c port s) := by
  unfold execCreditBeatInsert
  repeat' (first
      | with_reducible assumption | with_reducible apply State.clocked_kept | with_reducible apply State.creditBeatInsert_kept
      | with_reducible apply State.onLinkSide_kept | with_reducible apply Kept.ite | with_reducible apply KeptOut.ite
      | with_reducible apply KeptOut.next | with_reducible exact KeptOut.fault | with_reducible exact KeptOut.refused
      | dsimp -zeta only | split)

theorem execArbWindowBoundary_kept {κ : Fixed} {s : State} (c : Coord) (port : Nat) (hk : Kept κ s) :
    KeptOut κ (execArbWindowBoundary c port s) := by
  unfold execArbWindowBoundary
  repeat' (first
      | with_reducible assumption | with_reducible apply State.clocked_kept | with_reducible apply State.windowBoundary_kept
      | with_reducible apply State.onPort_kept | with_reducible apply Kept.ite | with_reducible apply KeptOut.ite
      | with_reducible apply KeptOut.next | with_reducible exact KeptOut.fault | with_reducible exact KeptOut.refused
      | dsimp -zeta only | split)

theorem execTradeClaimArise_kept {κ : Fixed} {s : State} (c : Coord) (port : Nat) (hk : Kept κ s) :
    KeptOut κ (execTradeClaimArise c port s) := by
  unfold execTradeClaimArise
  repeat' (first
      | with_reducible assumption | with_reducible apply State.clocked_kept | with_reducible apply State.claimArise_kept
      | with_reducible apply State.onPort_kept | with_reducible apply Kept.ite | with_reducible apply KeptOut.ite
      | with_reducible apply KeptOut.next | with_reducible exact KeptOut.fault | with_reducible exact KeptOut.refused
      | dsimp -zeta only | split)

theorem execTradeClaimLapse_kept {κ : Fixed} {s : State} (c : Coord) (port : Nat) (hk : Kept κ s) :
    KeptOut κ (execTradeClaimLapse c port s) := by
  unfold execTradeClaimLapse
  repeat' (first
      | with_reducible assumption | with_reducible apply State.clocked_kept | with_reducible apply State.claimLapse_kept
      | with_reducible apply State.onPort_kept | with_reducible apply Kept.ite | with_reducible apply KeptOut.ite
      | with_reducible apply KeptOut.next | with_reducible exact KeptOut.fault | with_reducible exact KeptOut.refused
      | dsimp -zeta only | split)

theorem execTradeTableApply_kept {κ : Fixed} {s : State} (c : Coord) (port : Nat) (hk : Kept κ s) :
    KeptOut κ (execTradeTableApply c port s) := by
  unfold execTradeTableApply
  repeat' (first
      | with_reducible assumption | with_reducible apply State.clocked_kept | with_reducible apply State.slotApply_kept
      | with_reducible apply State.onPort_kept | with_reducible apply Kept.ite | with_reducible apply KeptOut.ite
      | with_reducible apply KeptOut.next | with_reducible exact KeptOut.fault | with_reducible exact KeptOut.refused
      | dsimp -zeta only | split)

theorem execCreditSyncReqReceive_kept {κ : Fixed} {s : State} (c : Coord) (port : Nat) (hk : Kept κ s) :
    KeptOut κ (execCreditSyncReqReceive c port s) := by
  unfold execCreditSyncReqReceive
  repeat' (first
      | with_reducible assumption | with_reducible apply State.clocked_kept | with_reducible apply State.syncRequest_kept
      | with_reducible apply State.takeLocal_kept | with_reducible apply State.onLinkSide_kept | with_reducible apply Kept.ite
      | with_reducible apply KeptOut.ite | with_reducible apply KeptOut.next | with_reducible exact KeptOut.fault
      | with_reducible exact KeptOut.refused | dsimp -zeta only | split)

theorem execCreditSyncMarkerReceive_kept {κ : Fixed} {s : State} (c : Coord) (port : Nat) (hk : Kept κ s) :
    KeptOut κ (execCreditSyncMarkerReceive c port s) := by
  unfold execCreditSyncMarkerReceive
  repeat' (first
      | with_reducible assumption | with_reducible apply State.clocked_kept | with_reducible apply State.syncMarker_kept
      | with_reducible apply State.onLinkSide_kept | with_reducible apply State.offMarker_kept | with_reducible apply Kept.ite
      | with_reducible apply KeptOut.ite | with_reducible apply KeptOut.next | with_reducible exact KeptOut.fault
      | with_reducible exact KeptOut.refused | dsimp -zeta only | split)

theorem execCreditSyncRspReceive_kept {κ : Fixed} {s : State} (c : Coord) (port : Nat) (counts : List Nat) (hk : Kept κ s) :
    KeptOut κ (execCreditSyncRspReceive c port counts s) := by
  unfold execCreditSyncRspReceive
  repeat' (first
      | with_reducible assumption | with_reducible apply State.clocked_kept | with_reducible apply State.syncReply_kept
      | with_reducible apply State.takeLocal_kept | with_reducible apply State.onLinkSide_kept | with_reducible apply Kept.ite
      | with_reducible apply KeptOut.ite | with_reducible apply KeptOut.next | with_reducible exact KeptOut.fault
      | with_reducible exact KeptOut.refused | dsimp -zeta only | split)

theorem execCreditSyncRetry_kept {κ : Fixed} {s : State} (c : Coord) (port : Nat) (hk : Kept κ s) :
    KeptOut κ (execCreditSyncRetry c port s) := by
  unfold execCreditSyncRetry
  repeat' (first
      | with_reducible assumption | with_reducible apply State.clocked_kept | with_reducible apply State.syncRetry_kept
      | with_reducible apply State.onLinkSide_kept | with_reducible apply Kept.ite | with_reducible apply KeptOut.ite
      | with_reducible apply KeptOut.next | with_reducible exact KeptOut.fault | with_reducible exact KeptOut.refused
      | dsimp -zeta only | split)

theorem execCreditSignalSend_kept {κ : Fixed} {s : State} (c : Coord) (port : Nat) (hk : Kept κ s) :
    KeptOut κ (execCreditSignalSend c port s) := by
  unfold execCreditSignalSend
  repeat' (first
      | with_reducible assumption | with_reducible apply State.clocked_kept | with_reducible apply State.creditSignal_kept
      | with_reducible apply State.onLinkSide_kept | with_reducible apply Kept.ite | with_reducible apply KeptOut.ite
      | with_reducible apply KeptOut.next | with_reducible exact KeptOut.fault | with_reducible exact KeptOut.refused
      | dsimp -zeta only | split)

theorem execCreditSignalReceive_kept {κ : Fixed} {s : State} (c : Coord) (port : Nat) (counts : List Nat) (hk : Kept κ s) :
    KeptOut κ (execCreditSignalReceive c port counts s) := by
  unfold execCreditSignalReceive
  repeat' (first
      | with_reducible assumption | with_reducible apply State.clocked_kept | with_reducible apply State.creditSignalAt_kept
      | with_reducible apply State.takeLocal_kept | with_reducible apply State.onLinkSide_kept | with_reducible apply Kept.ite
      | with_reducible apply KeptOut.ite | with_reducible apply KeptOut.next | with_reducible exact KeptOut.fault
      | with_reducible exact KeptOut.refused | dsimp -zeta only | split)

theorem execRouterFence_kept {κ : Fixed} {s : State} (c : Coord) (hk : Kept κ s) :
    KeptOut κ (execRouterFence c s) := by
  unfold execRouterFence
  repeat' (first
      | with_reducible assumption | with_reducible apply State.fenceUnit_kept | with_reducible apply State.done_kept
      | with_reducible apply State.onCell_kept | with_reducible apply Kept.ite | with_reducible apply KeptOut.ite
      | with_reducible apply KeptOut.next | with_reducible exact KeptOut.fault | with_reducible exact KeptOut.refused
      | dsimp -zeta only | split)

theorem execRingChangeReceive_kept {κ : Fixed} {s : State} (c : Coord) (hole : Coord) (rowByp : Bool) (colByp : Bool) (hk : Kept κ s) :
    KeptOut κ (execRingChangeReceive c hole rowByp colByp s) := by
  unfold execRingChangeReceive
  repeat' (first
      | with_reducible assumption | with_reducible apply State.takeSig_kept | with_reducible apply State.ringChangeAt_kept
      | with_reducible apply State.purgeAt_kept | with_reducible apply State.pump_kept | with_reducible apply State.done_kept
      | with_reducible apply State.onCell_kept | with_reducible apply Kept.ite | with_reducible apply KeptOut.ite
      | with_reducible apply KeptOut.next | with_reducible exact KeptOut.fault | with_reducible exact KeptOut.refused
      | dsimp -zeta only | split)

theorem execRecloseRelease_kept {κ : Fixed} {s : State} (hole : Coord) (hk : Kept κ s) :
    KeptOut κ (execRecloseRelease hole s) := by
  unfold execRecloseRelease
  repeat' (first
      | with_reducible assumption | with_reducible apply State.recloseRelease_kept | with_reducible apply State.done_kept
      | with_reducible apply State.onCell_kept | with_reducible apply Kept.ite | with_reducible apply KeptOut.ite
      | with_reducible apply KeptOut.next | with_reducible exact KeptOut.fault | with_reducible exact KeptOut.refused
      | dsimp -zeta only | split)

theorem State.onGroup_kept {κ : Fixed} {t : State} (g : Nat) (hk : Kept κ t) :
    KeptOut κ (State.onGroup _s g t) := by
  unfold State.onGroup
  repeat' (first
      | with_reducible assumption | with_reducible apply whenUnit_kept | with_reducible apply Kept.ite
      | with_reducible apply KeptOut.ite | with_reducible apply KeptOut.next | with_reducible exact KeptOut.fault
      | with_reducible exact KeptOut.refused | dsimp -zeta only | split)

theorem execAnycastAdvertise_kept {κ : Fixed} {s : State} (g : Nat) (hk : Kept κ s) :
    KeptOut κ (execAnycastAdvertise g s) := by
  unfold execAnycastAdvertise
  repeat' (first
      | with_reducible assumption | with_reducible apply State.anyAdvertise_kept | with_reducible apply State.onGroup_kept
      | with_reducible apply Kept.ite | with_reducible apply KeptOut.ite | with_reducible apply KeptOut.next
      | with_reducible exact KeptOut.fault | with_reducible exact KeptOut.refused | dsimp -zeta only | split)

theorem execAnycastWinnerDecode_kept {κ : Fixed} {s : State} (g : Nat) (hk : Kept κ s) :
    KeptOut κ (execAnycastWinnerDecode g s) := by
  unfold execAnycastWinnerDecode
  repeat' (first
      | with_reducible assumption | with_reducible apply State.anyDecode_kept | with_reducible apply State.onGroup_kept
      | with_reducible apply Kept.ite | with_reducible apply KeptOut.ite | with_reducible apply KeptOut.next
      | with_reducible exact KeptOut.fault | with_reducible exact KeptOut.refused | dsimp -zeta only | split)

theorem execAnyWinReceive_kept {κ : Fixed} {s : State} (c : Coord) (g : Nat) (member : Nat) (noWinner : Bool) (hk : Kept κ s) :
    KeptOut κ (execAnyWinReceive c g member noWinner s) := by
  unfold execAnyWinReceive
  repeat' (first
      | with_reducible assumption | with_reducible apply State.anyWinAt_kept | with_reducible apply State.onCell_kept
      | with_reducible apply Kept.ite | with_reducible apply KeptOut.ite | with_reducible apply KeptOut.next
      | with_reducible exact KeptOut.fault | with_reducible exact KeptOut.refused | dsimp -zeta only | split)

end Sys2Proof.Machine
end

