-- ==== Sys2Proof/Laws/KeptSignalCmds.lean ====
section
/-! SUPPORT. Every operation of Machine/SignalCmds.lean keeps the build, the queue and the canonical form. -/

namespace Sys2Proof.Machine

set_option linter.all false

theorem execSignalBeatReceive_kept {κ : Fixed} {s : State} (c : Coord) (port : Nat) (cw : List Byte) (side : Nat) (hk : Kept κ s) :
    KeptOut κ (execSignalBeatReceive c port cw side s) := by
  unfold execSignalBeatReceive
  repeat' (first
      | with_reducible assumption | with_reducible apply State.serveSignals_kept | with_reducible apply State.recvSigBeat_kept
      | with_reducible apply State.done_kept | with_reducible apply State.onLinkSide_kept | with_reducible apply Kept.ite
      | with_reducible apply KeptOut.ite | with_reducible apply KeptOut.next | with_reducible exact KeptOut.fault
      | with_reducible exact KeptOut.refused | dsimp -zeta only | split)

theorem execSlsyncSend_kept {κ : Fixed} {s : State} (c : Coord) (port : Nat) (hk : Kept κ s) :
    KeptOut κ (execSlsyncSend c port s) := by
  unfold execSlsyncSend
  repeat' (first
      | with_reducible assumption | with_reducible apply State.clocked_kept | with_reducible apply State.slsyncSend_kept
      | with_reducible apply State.onLinkSide_kept | with_reducible apply Kept.ite | with_reducible apply KeptOut.ite
      | with_reducible apply KeptOut.next | with_reducible exact KeptOut.fault | with_reducible exact KeptOut.refused
      | dsimp -zeta only | split)

theorem execSlsyncReceive_kept {κ : Fixed} {s : State} (c : Coord) (port : Nat) (counts : List Nat) (hk : Kept κ s) :
    KeptOut κ (execSlsyncReceive c port counts s) := by
  unfold execSlsyncReceive
  repeat' (first
      | with_reducible assumption | with_reducible apply State.clocked_kept | with_reducible apply State.serveSignals_kept
      | with_reducible apply State.slsyncAt_kept | with_reducible apply State.takeLocal_kept
      | with_reducible apply State.onLinkSide_kept | with_reducible apply Kept.ite | with_reducible apply KeptOut.ite
      | with_reducible apply KeptOut.next | with_reducible exact KeptOut.fault | with_reducible exact KeptOut.refused
      | dsimp -zeta only | split)

theorem State.onBarrier_kept {κ : Fixed} {t : State} (k : Nat) (hk : Kept κ t) :
    KeptOut κ (State.onBarrier _s k t) := by
  unfold State.onBarrier
  repeat' (first
      | with_reducible assumption | with_reducible apply whenUnit_kept | with_reducible apply Kept.ite
      | with_reducible apply KeptOut.ite | with_reducible apply KeptOut.next | with_reducible exact KeptOut.fault
      | with_reducible exact KeptOut.refused | dsimp -zeta only | split)

theorem execBarArriveAtRoot_kept {κ : Fixed} {s : State} (c : Coord) (a : BarArrive) (hk : Kept κ s) :
    KeptOut κ (execBarArriveAtRoot c a s) := by
  unfold execBarArriveAtRoot
  repeat' (first
      | with_reducible assumption | with_reducible apply State.barArriveAt_kept | with_reducible apply whenUnit_kept
      | with_reducible apply Kept.ite | with_reducible apply KeptOut.ite | with_reducible apply KeptOut.next
      | with_reducible exact KeptOut.fault | with_reducible exact KeptOut.refused | dsimp -zeta only | split)

theorem execBarrierPhaseTimeout_kept {κ : Fixed} {s : State} (bctx : Nat) (hk : Kept κ s) :
    KeptOut κ (execBarrierPhaseTimeout bctx s) := by
  unfold execBarrierPhaseTimeout
  repeat' (first
      | with_reducible assumption | with_reducible apply State.barTimeout_kept | with_reducible apply State.onBarrier_kept
      | with_reducible apply Kept.ite | with_reducible apply KeptOut.ite | with_reducible apply KeptOut.next
      | with_reducible exact KeptOut.fault | with_reducible exact KeptOut.refused | dsimp -zeta only | split)

theorem execBarReleaseReceive_kept {κ : Fixed} {s : State} (c : Coord) (r : BarRelease) (hk : Kept κ s) :
    KeptOut κ (execBarReleaseReceive c r s) := by
  unfold execBarReleaseReceive
  repeat' (first
      | with_reducible assumption | with_reducible apply State.barRelease_kept | with_reducible apply State.barReleaseAt_kept
      | with_reducible apply State.xbarRelease_kept | with_reducible apply State.atSig_kept | with_reducible apply State.after_kept
      | with_reducible apply State.onCell_kept | with_reducible apply Kept.ite | (intro _ _ _) | (intro _ _) | (intro _)
      | with_reducible apply KeptOut.ite | with_reducible apply KeptOut.next | with_reducible exact KeptOut.fault
      | with_reducible exact KeptOut.refused | dsimp -zeta only | split)

theorem execTallyRequestAtHome_kept {κ : Fixed} {s : State} (q : TallyReq) (hk : Kept κ s) :
    KeptOut κ (execTallyRequestAtHome q s) := by
  unfold execTallyRequestAtHome
  repeat' (first
      | with_reducible assumption | with_reducible apply State.tallyAt_kept | with_reducible apply whenUnit_kept
      | with_reducible apply Kept.ite | with_reducible apply KeptOut.ite | with_reducible apply KeptOut.next
      | with_reducible exact KeptOut.fault | with_reducible exact KeptOut.refused | dsimp -zeta only | split)

theorem execTallyRspReceive_kept {κ : Fixed} {s : State} (q : TallyRsp) (hk : Kept κ s) :
    KeptOut κ (execTallyRspReceive q s) := by
  unfold execTallyRspReceive
  repeat' (first
      | with_reducible assumption | with_reducible apply State.tallyRspAt_kept | with_reducible apply State.atSig_kept
      | with_reducible apply State.after_kept | with_reducible apply State.onCell_kept | with_reducible apply Kept.ite | (intro _ _ _)
      | (intro _ _) | (intro _) | with_reducible apply KeptOut.ite | with_reducible apply KeptOut.next
      | with_reducible exact KeptOut.fault | with_reducible exact KeptOut.refused | dsimp -zeta only | split)

theorem State.intRecv_kept {κ : Fixed} {s : State} (c : Coord) (core : Nat) (origin : Nat) (arg32 : Nat) (hk : Kept κ s) :
    Kept κ (State.intRecv s c core origin arg32) := by
  unfold State.intRecv
  repeat' (first
      | with_reducible assumption | with_reducible apply State.intAt_kept | with_reducible apply State.atSig_kept
      | with_reducible apply Kept.ite | (intro _ _ _) | (intro _ _) | (intro _) | dsimp -zeta only | split)

theorem execIntReceive_kept {κ : Fixed} {s : State} (c : Coord) (core : Nat) (origin : Nat) (arg32 : Nat) (hk : Kept κ s) :
    KeptOut κ (execIntReceive c core origin arg32 s) := by
  unfold execIntReceive
  repeat' (first
      | with_reducible assumption | with_reducible apply State.onCore_kept | with_reducible apply State.intRecv_kept
      | with_reducible apply Kept.ite | with_reducible apply KeptOut.ite | with_reducible apply KeptOut.next
      | with_reducible exact KeptOut.fault | with_reducible exact KeptOut.refused | dsimp -zeta only | split)

theorem State.wakeRecv_kept {κ : Fixed} {s : State} (f : Nat) (arg8 : Nat) (hk : Kept κ s) :
    Kept κ (State.wakeRecv s f arg8) := by
  unfold State.wakeRecv
  repeat' (first
      | with_reducible assumption | with_reducible apply State.takeSig_kept | with_reducible apply State.wakeAt_kept
      | with_reducible apply Kept.ite | (intro _ _ _) | (intro _ _) | (intro _) | exact KeptOpt.of rfl (by with_reducible assumption)
      | exact KeptPair.of rfl (by with_reducible assumption) | with_reducible apply KeptOpt.ite
      | with_reducible refine KeptOpt.mapState ?_ (fun _ _ => ?_) | with_reducible refine KeptOpt.map (fun _ => ?_)
      | with_reducible apply KeptOpt.some | with_reducible exact KeptOpt.none | with_reducible apply KeptPair.ite
      | with_reducible apply KeptPair.some | with_reducible exact KeptPair.none
      | (extract_lets +onlyGivenNames x
         first
         | (refine Kept.cut (k := κ) (s := x) ?_ ?_; subst x; rotate_left; intro hx; clear_value x; revert x; intro _ _)
         | (refine KeptOpt.cut (k := κ) (o := x) ?_ ?_; subst x; rotate_left; intro hx; clear_value x; revert x; intro _ _)
         | (refine KeptPair.cut (k := κ) (o := x) ?_ ?_; subst x; rotate_left; intro hx; clear_value x; revert x; intro _ _)
         | (subst x))
      | dsimp -zeta only | split)

theorem execWakeReceive_kept {κ : Fixed} {s : State} (f : Nat) (arg8 : Nat) (hk : Kept κ s) :
    KeptOut κ (execWakeReceive f arg8 s) := by
  unfold execWakeReceive
  repeat' (first
      | with_reducible assumption | with_reducible apply State.onField_kept | with_reducible apply State.wakeRecv_kept
      | with_reducible apply Kept.ite | with_reducible apply KeptOut.ite | with_reducible apply KeptOut.next
      | with_reducible exact KeptOut.fault | with_reducible exact KeptOut.refused | dsimp -zeta only | split)

theorem execNackReceive_kept {κ : Fixed} {s : State} (n : Nack) (hk : Kept κ s) :
    KeptOut κ (execNackReceive n s) := by
  unfold execNackReceive
  repeat' (first
      | with_reducible assumption | with_reducible apply State.nackAt_kept | with_reducible apply whenUnit_kept
      | with_reducible apply Kept.ite | with_reducible apply KeptOut.ite | with_reducible apply KeptOut.next
      | with_reducible exact KeptOut.fault | with_reducible exact KeptOut.refused | dsimp -zeta only | split)

theorem execReplyTimeoutExpiry_kept {κ : Fixed} {s : State} (c : Coord) (slot : Nat) (hk : Kept κ s) :
    KeptOut κ (execReplyTimeoutExpiry c slot s) := by
  unfold execReplyTimeoutExpiry
  repeat' (first
      | with_reducible assumption | with_reducible apply State.replyLate_kept | with_reducible apply State.onCell_kept
      | with_reducible apply Kept.ite | with_reducible apply KeptOut.ite | with_reducible apply KeptOut.next
      | with_reducible exact KeptOut.fault | with_reducible exact KeptOut.refused | dsimp -zeta only | split)

theorem execDeliveredReceive_kept {κ : Fixed} {s : State} (d : Delivered) (hk : Kept κ s) :
    KeptOut κ (execDeliveredReceive d s) := by
  unfold execDeliveredReceive
  repeat' (first
      | with_reducible assumption | with_reducible apply State.deliveredAt_kept | with_reducible apply whenUnit_kept
      | with_reducible apply Kept.ite | with_reducible apply KeptOut.ite | with_reducible apply KeptOut.next
      | with_reducible exact KeptOut.fault | with_reducible exact KeptOut.refused | dsimp -zeta only | split)

end Sys2Proof.Machine
end

