-- ==== Sys2Proof/Laws/KeptBulkCmds.lean ====
section
/-! SUPPORT. Every operation of Machine/BulkCmds.lean keeps the build, the queue and the canonical form. -/

namespace Sys2Proof.Machine

set_option linter.all false

theorem State.onTransfer_kept {κ : Fixed} {s : State} (c : Coord) (p : Packet) (typs : List Nat) (f : TransferTail → State) (hf : ∀ a, Kept κ (f a)) (hk : Kept κ s) :
    Kept κ (State.onTransfer s c p typs f) := by
  unfold State.onTransfer
  repeat' (first
      | with_reducible assumption | with_reducible apply hf | with_reducible apply State.atEject_kept | with_reducible apply Kept.ite
      | dsimp -zeta only | split)

theorem State.cellRuns_kept {κ : Fixed} {s : State} (c : Coord) (p : Packet) (run : State) (hrun : Kept κ run) (hk : Kept κ s) :
    Kept κ (State.cellRuns s c p run) := by
  unfold State.cellRuns
  repeat' (first
      | with_reducible assumption | with_reducible apply hrun | with_reducible apply State.resetDrop_kept
      | with_reducible apply Kept.ite | refine KeptOpt.of (by with_reducible assumption) ?_ | with_reducible apply KeptOpt.getD
      | dsimp -zeta only | split)

theorem State.reserveAt_kept {κ : Fixed} {s : State} (x : Site) (p : Packet) (t : TransferTail) (hk : Kept κ s) :
    Kept κ (State.reserveAt s x p t) := by
  unfold State.reserveAt
  repeat' (first
      | with_reducible assumption | with_reducible apply State.reserveReceive_kept | with_reducible apply State.transitReserve_kept
      | with_reducible apply State.dropReserve_kept | with_reducible apply Kept.ite | dsimp -zeta only | split)

theorem execReserveReceive_kept {κ : Fixed} {s : State} (site : Site) (p : Packet) (hk : Kept κ s) :
    KeptOut κ (execReserveReceive site p s) := by
  unfold execReserveReceive
  repeat' (first
      | with_reducible assumption | with_reducible apply State.onSite_kept | with_reducible apply State.onTransfer_kept
      | with_reducible apply State.reserveAt_kept | with_reducible apply Kept.ite | (intro _ _ _) | (intro _ _) | (intro _)
      | with_reducible apply KeptOut.ite | with_reducible apply KeptOut.next | with_reducible exact KeptOut.fault
      | with_reducible exact KeptOut.refused | dsimp -zeta only | split)

theorem State.grantSite_kept {κ : Fixed} {s : State} (x : Site) (hk : Kept κ s) :
    Kept κ (State.grantSite s x) := by
  unfold State.grantSite
  repeat' (first
      | with_reducible assumption | with_reducible apply State.reservationGrant_kept | with_reducible apply State.transitGive_kept
      | with_reducible apply State.dropGrant_kept | with_reducible apply State.done_kept | with_reducible apply State.after_kept
      | with_reducible apply Kept.ite | dsimp -zeta only | split)

theorem execReservationGrant_kept {κ : Fixed} {s : State} (site : Site) (hk : Kept κ s) :
    KeptOut κ (execReservationGrant site s) := by
  unfold execReservationGrant
  repeat' (first
      | with_reducible assumption | with_reducible apply State.onSite_kept | with_reducible apply State.grantSite_kept
      | with_reducible apply Kept.ite | with_reducible apply KeptOut.ite | with_reducible apply KeptOut.next
      | with_reducible exact KeptOut.fault | with_reducible exact KeptOut.refused | dsimp -zeta only | split)

theorem execGrantReceive_kept {κ : Fixed} {s : State} (c : Coord) (p : Packet) (hk : Kept κ s) :
    KeptOut κ (execGrantReceive c p s) := by
  unfold execGrantReceive
  repeat' (first
      | with_reducible assumption | with_reducible apply State.grantRecv_kept | with_reducible apply State.onCell_kept
      | with_reducible apply State.onTransfer_kept | with_reducible apply State.cellRuns_kept | with_reducible apply Kept.ite
      | (intro _ _ _) | (intro _ _) | (intro _) | with_reducible apply KeptOut.ite | with_reducible apply KeptOut.next
      | with_reducible exact KeptOut.fault | with_reducible exact KeptOut.refused | dsimp -zeta only | split)

theorem State.putDataAt_kept {κ : Fixed} {s : State} (x : Site) (p : Packet) (t : TransferTail) (hk : Kept κ s) :
    Kept κ (State.putDataAt s x p t) := by
  unfold State.putDataAt
  repeat' (first
      | with_reducible assumption | with_reducible apply State.putDataCell_kept | with_reducible apply State.landInject_kept
      | with_reducible apply State.dropPutData_kept | with_reducible apply State.cellRuns_kept | with_reducible apply Kept.ite
      | refine Kept.of_snd (by with_reducible assumption) ?_ | refine Kept.of_fst (by with_reducible assumption) ?_
      | (extract_lets +onlyGivenNames x
         first
         | (refine Kept.cut (k := κ) (s := x) ?_ ?_; subst x; rotate_left; intro hx; clear_value x; revert x; intro _ _)
         | (refine Kept.cut1 (k := κ) (s := x) ?_ ?_; subst x; rotate_left; intro hx; clear_value x; revert x; intro _ _)
         | (refine Kept.cut2 (k := κ) (s := x) ?_ ?_; subst x; rotate_left; intro hx; clear_value x; revert x; intro _ _)
         | (clear_value x; revert x; intro _))
      | dsimp -zeta only | split)

theorem execPutDataHeader_kept {κ : Fixed} {s : State} (site : Site) (p : Packet) (hk : Kept κ s) :
    KeptOut κ (execPutDataHeader site p s) := by
  unfold execPutDataHeader
  repeat' (first
      | with_reducible assumption | with_reducible apply State.done_kept | with_reducible apply State.onSite_kept
      | with_reducible apply State.onTransfer_kept | with_reducible apply State.putDataAt_kept | with_reducible apply Kept.ite
      | (intro _ _ _) | (intro _ _) | (intro _) | with_reducible apply KeptOut.ite | with_reducible apply KeptOut.next
      | with_reducible exact KeptOut.fault | with_reducible exact KeptOut.refused | dsimp -zeta only | split)

theorem State.filledAt_kept {κ : Fixed} {s : State} (x : Site) (k : RsvKey) (hk : Kept κ s) :
    Kept κ (State.filledAt s x k) := by
  unfold State.filledAt
  repeat' (first
      | with_reducible assumption | with_reducible apply State.filledCell_kept | with_reducible apply State.noteSegment_kept
      | with_reducible apply State.dropFilled_kept | with_reducible apply State.done_kept | with_reducible apply Kept.ite
      | dsimp -zeta only | split)

theorem execReservationFilled_kept {κ : Fixed} {s : State} (site : Site) (key : RsvKey) (hk : Kept κ s) :
    KeptOut κ (execReservationFilled site key s) := by
  unfold execReservationFilled
  repeat' (first
      | with_reducible assumption | with_reducible apply State.onSite_kept | with_reducible apply State.filledAt_kept
      | with_reducible apply Kept.ite | with_reducible apply KeptOut.ite | with_reducible apply KeptOut.next
      | with_reducible exact KeptOut.fault | with_reducible exact KeptOut.refused | dsimp -zeta only | split)

theorem State.leaseAt_kept {κ : Fixed} {s : State} (x : Site) (k : RsvKey) (hk : Kept κ s) :
    Kept κ (State.leaseAt s x k) := by
  unfold State.leaseAt
  repeat' (first
      | with_reducible assumption | with_reducible apply State.expireCell_kept | with_reducible apply State.expireOwn_kept
      | with_reducible apply State.transitExpiry_kept | with_reducible apply State.expireGather_kept
      | with_reducible apply State.dropExpire_kept | with_reducible apply State.done_kept | with_reducible apply State.after_kept
      | with_reducible apply Kept.ite | (intro _ _ _) | (intro _ _) | (intro _) | dsimp -zeta only | split)

theorem execLandingLeaseExpiry_kept {κ : Fixed} {s : State} (site : Site) (key : RsvKey) (hk : Kept κ s) :
    KeptOut κ (execLandingLeaseExpiry site key s) := by
  unfold execLandingLeaseExpiry
  repeat' (first
      | with_reducible assumption | with_reducible apply State.onSite_kept | with_reducible apply State.leaseAt_kept
      | with_reducible apply Kept.ite | with_reducible apply KeptOut.ite | with_reducible apply KeptOut.next
      | with_reducible exact KeptOut.fault | with_reducible exact KeptOut.refused | dsimp -zeta only | split)

theorem State.releaseSite_kept {κ : Fixed} {s : State} (x : Site) (p : Packet) (t : TransferTail) (hk : Kept κ s) :
    Kept κ (State.releaseSite s x p t) := by
  unfold State.releaseSite
  repeat' (first
      | with_reducible assumption | with_reducible apply State.releaseAt_kept | with_reducible apply State.transitRelease_kept
      | with_reducible apply State.dropRelease_kept | with_reducible apply State.cellRuns_kept | with_reducible apply Kept.ite
      | dsimp -zeta only | split)

theorem execReleaseReceive_kept {κ : Fixed} {s : State} (site : Site) (p : Packet) (hk : Kept κ s) :
    KeptOut κ (execReleaseReceive site p s) := by
  unfold execReleaseReceive
  repeat' (first
      | with_reducible assumption | with_reducible apply State.onSite_kept | with_reducible apply State.onTransfer_kept
      | with_reducible apply State.releaseSite_kept | with_reducible apply Kept.ite | (intro _ _ _) | (intro _ _) | (intro _)
      | with_reducible apply KeptOut.ite | with_reducible apply KeptOut.next | with_reducible exact KeptOut.fault
      | with_reducible exact KeptOut.refused | dsimp -zeta only | split)

theorem State.onRsv_kept {κ : Fixed} {t : State} (c : Coord) (rsv : Nat) (hk : Kept κ t) :
    KeptOut κ (State.onRsv s c rsv t) := by
  unfold State.onRsv
  repeat' (first
      | with_reducible assumption | with_reducible apply whenUnit_kept | with_reducible apply Kept.ite
      | with_reducible apply KeptOut.ite | with_reducible apply KeptOut.next | with_reducible exact KeptOut.fault
      | with_reducible exact KeptOut.refused | dsimp -zeta only | split)

theorem execBulkTimeoutExpiry_kept {κ : Fixed} {s : State} (c : Coord) (rsv : Nat) (hk : Kept κ s) :
    KeptOut κ (execBulkTimeoutExpiry c rsv s) := by
  unfold execBulkTimeoutExpiry
  repeat' (first
      | with_reducible assumption | with_reducible apply State.bulkLate_kept | with_reducible apply State.onRsv_kept
      | with_reducible apply Kept.ite | with_reducible apply KeptOut.ite | with_reducible apply KeptOut.next
      | with_reducible exact KeptOut.fault | with_reducible exact KeptOut.refused | dsimp -zeta only | split)

theorem State.getReqAt_kept {κ : Fixed} {s : State} (x : Site) (p : Packet) (t : TransferTail) (hk : Kept κ s) :
    Kept κ (State.getReqAt s x p t) := by
  unfold State.getReqAt
  repeat' (first
      | with_reducible assumption | with_reducible apply State.getReqCell_kept | with_reducible apply State.dropGetReq_kept
      | with_reducible apply State.done_kept | with_reducible apply Kept.ite | dsimp -zeta only | split)

theorem execGetReqReceive_kept {κ : Fixed} {s : State} (site : Site) (p : Packet) (hk : Kept κ s) :
    KeptOut κ (execGetReqReceive site p s) := by
  unfold execGetReqReceive
  repeat' (first
      | with_reducible assumption | with_reducible apply State.onSite_kept | with_reducible apply State.onTransfer_kept
      | with_reducible apply State.getReqAt_kept | with_reducible apply Kept.ite | (intro _ _ _) | (intro _ _) | (intro _)
      | with_reducible apply KeptOut.ite | with_reducible apply KeptOut.next | with_reducible exact KeptOut.fault
      | with_reducible exact KeptOut.refused | dsimp -zeta only | split)

theorem State.getDataAt_kept {κ : Fixed} {s : State} (c : Coord) (p : Packet) (t : TransferTail) (hk : Kept κ s) :
    Kept κ (State.getDataAt s c p t) := by
  unfold State.getDataAt
  repeat' (first
      | with_reducible assumption | with_reducible apply State.getDataCell_kept | with_reducible apply State.landInject_kept
      | with_reducible apply State.after_kept | with_reducible apply State.cellRuns_kept | with_reducible apply Kept.ite
      | refine Kept.of_snd (by with_reducible assumption) ?_ | refine Kept.of_fst (by with_reducible assumption) ?_
      | with_reducible apply KeptOpt.getD
      | (extract_lets +onlyGivenNames x
         first
         | (refine Kept.cut (k := κ) (s := x) ?_ ?_; subst x; rotate_left; intro hx; clear_value x; revert x; intro _ _)
         | (refine Kept.cut1 (k := κ) (s := x) ?_ ?_; subst x; rotate_left; intro hx; clear_value x; revert x; intro _ _)
         | (refine Kept.cut2 (k := κ) (s := x) ?_ ?_; subst x; rotate_left; intro hx; clear_value x; revert x; intro _ _)
         | (clear_value x; revert x; intro _))
      | dsimp -zeta only | split)

theorem execGetDataReceive_kept {κ : Fixed} {s : State} (c : Coord) (p : Packet) (hk : Kept κ s) :
    KeptOut κ (execGetDataReceive c p s) := by
  unfold execGetDataReceive
  repeat' (first
      | with_reducible assumption | with_reducible apply State.done_kept | with_reducible apply State.onCell_kept
      | with_reducible apply State.onTransfer_kept | with_reducible apply State.getDataAt_kept | with_reducible apply Kept.ite
      | (intro _ _ _) | (intro _ _) | (intro _) | with_reducible apply KeptOut.ite | with_reducible apply KeptOut.next
      | with_reducible exact KeptOut.fault | with_reducible exact KeptOut.refused | with_reducible apply KeptOpt.getD
      | dsimp -zeta only | split)

theorem execMresGrantReceive_kept {κ : Fixed} {s : State} (c : Coord) (g : MresGrant) (hk : Kept κ s) :
    KeptOut κ (execMresGrantReceive c g s) := by
  unfold execMresGrantReceive
  repeat' (first
      | with_reducible assumption | with_reducible apply State.mresGrantAt_kept | with_reducible apply State.atSig_kept
      | with_reducible apply State.onCell_kept | with_reducible apply Kept.ite | (intro _ _ _) | (intro _ _) | (intro _)
      | with_reducible apply KeptOut.ite | with_reducible apply KeptOut.next | with_reducible exact KeptOut.fault
      | with_reducible exact KeptOut.refused | dsimp -zeta only | split)

theorem State.mresRecv_kept {κ : Fixed} {s : State} (a : MresArrive) (hk : Kept κ s) :
    Kept κ (State.mresRecv s a) := by
  unfold State.mresRecv
  repeat' (first
      | with_reducible assumption | with_reducible apply State.takeSig_kept | with_reducible apply State.mresArriveCell_kept
      | with_reducible apply State.strmArrive_kept | with_reducible apply State.atSig_kept | with_reducible apply State.done_kept
      | with_reducible apply State.after_kept | with_reducible apply Kept.ite | (intro _ _ _) | (intro _ _) | (intro _)
      | (extract_lets +onlyGivenNames x
         first
         | (refine Kept.cut (k := κ) (s := x) ?_ ?_; subst x; rotate_left; intro hx; clear_value x; revert x; intro _ _)
         | (clear_value x; revert x; intro _))
      | dsimp -zeta only | split)

theorem execMresArriveReceive_kept {κ : Fixed} {s : State} (a : MresArrive) (hk : Kept κ s) :
    KeptOut κ (execMresArriveReceive a s) := by
  unfold execMresArriveReceive
  repeat' (first
      | with_reducible assumption | with_reducible apply State.onCell_kept | with_reducible apply State.mresRecv_kept
      | with_reducible apply Kept.ite | with_reducible apply KeptOut.ite | with_reducible apply KeptOut.next
      | with_reducible exact KeptOut.fault | with_reducible exact KeptOut.refused | dsimp -zeta only | split)

theorem State.callLate_kept {κ : Fixed} {s : State} (source : SrcAddr) (mid : Nat) (hk : Kept κ s) :
    Kept κ (State.callLate s source mid) := by
  unfold State.callLate
  repeat' (first
      | with_reducible assumption | with_reducible apply State.callLimitCell_kept | with_reducible apply State.strmLimit_kept
      | with_reducible apply State.done_kept | with_reducible apply State.after_kept | with_reducible apply Kept.ite
      | (extract_lets +onlyGivenNames x
         first
         | (refine Kept.cut (k := κ) (s := x) ?_ ?_; subst x; rotate_left; intro hx; clear_value x; revert x; intro _ _)
         | (clear_value x; revert x; intro _))
      | dsimp -zeta only | split)

theorem execCallLimitExpiry_kept {κ : Fixed} {s : State} (source : SrcAddr) (mid : Nat) (hk : Kept κ s) :
    KeptOut κ (execCallLimitExpiry source mid s) := by
  unfold execCallLimitExpiry
  repeat' (first
      | with_reducible assumption | with_reducible apply State.onCell_kept | with_reducible apply State.callLate_kept
      | with_reducible apply Kept.ite | with_reducible apply KeptOut.ite | with_reducible apply KeptOut.next
      | with_reducible exact KeptOut.fault | with_reducible exact KeptOut.refused | dsimp -zeta only | split)

theorem State.mcastRecv_kept {κ : Fixed} {s : State} (c : Coord) (p : Packet) (t : RectTail) (hk : Kept κ s) :
    Kept κ (State.mcastRecv s c p t) := by
  unfold State.mcastRecv
  repeat' (first
      | with_reducible assumption | with_reducible apply State.mcastDataCell_kept | with_reducible apply State.landInject_kept
      | with_reducible apply State.done_kept | with_reducible apply Kept.ite | refine Kept.of_snd (by with_reducible assumption) ?_
      | refine Kept.of_fst (by with_reducible assumption) ?_
      | (extract_lets +onlyGivenNames x
         first
         | (refine Kept.cut (k := κ) (s := x) ?_ ?_; subst x; rotate_left; intro hx; clear_value x; revert x; intro _ _)
         | (refine Kept.cut1 (k := κ) (s := x) ?_ ?_; subst x; rotate_left; intro hx; clear_value x; revert x; intro _ _)
         | (refine Kept.cut2 (k := κ) (s := x) ?_ ?_; subst x; rotate_left; intro hx; clear_value x; revert x; intro _ _)
         | (clear_value x; revert x; intro _))
      | dsimp -zeta only | split)

theorem execMcastDataReceive_kept {κ : Fixed} {s : State} (c : Coord) (p : Packet) (hk : Kept κ s) :
    KeptOut κ (execMcastDataReceive c p s) := by
  unfold execMcastDataReceive
  repeat' (first
      | with_reducible assumption | with_reducible apply State.atEject_kept | with_reducible apply State.onCell_kept
      | with_reducible apply State.mcastRecv_kept | with_reducible apply Kept.ite | with_reducible apply KeptOut.ite
      | with_reducible apply KeptOut.next | with_reducible exact KeptOut.fault | with_reducible exact KeptOut.refused
      | dsimp -zeta only | split)

end Sys2Proof.Machine
end

