-- ==== Sys2Proof/Laws/KeptCollCmds.lean ====
section
/-! SUPPORT. Every operation of Machine/CollCmds.lean keeps the build, the queue and the canonical form. -/

namespace Sys2Proof.Machine

set_option linter.all false

theorem State.onSlice_kept {κ : Fixed} {t : State} (c : Coord) (ctx : Nat) (hk : Kept κ t) :
    KeptOut κ (State.onSlice s c ctx t) := by
  unfold State.onSlice
  repeat' (first
      | with_reducible assumption | with_reducible apply whenUnit_kept | with_reducible apply Kept.ite
      | with_reducible apply KeptOut.ite | with_reducible apply KeptOut.next | with_reducible exact KeptOut.fault
      | with_reducible exact KeptOut.refused | dsimp -zeta only | split)

theorem onColl_kept {κ : Fixed} {s : State} (c : Coord) (p : Packet) (typs : List Nat) (t : State) (ht : Kept κ t) (hk : Kept κ s) :
    Kept κ (onColl c p typs s t) := by
  unfold onColl
  repeat' (first
      | with_reducible assumption | with_reducible apply ht | with_reducible apply State.atEject_kept | with_reducible apply Kept.ite
      | dsimp -zeta only | split)

theorem execSweepOriginate_kept {κ : Fixed} {s : State} (c : Coord) (ctx : Nat) (epoch : Nat) (slice : Nat) (hk : Kept κ s) :
    KeptOut κ (execSweepOriginate c ctx epoch slice s) := by
  unfold execSweepOriginate
  repeat' (first
      | with_reducible assumption | with_reducible apply State.sweepOriginate_kept | with_reducible apply State.after_kept
      | with_reducible apply State.onSlice_kept | with_reducible apply Kept.ite | with_reducible apply KeptOut.ite
      | with_reducible apply KeptOut.next | with_reducible exact KeptOut.fault | with_reducible exact KeptOut.refused
      | dsimp -zeta only | split)

theorem State.sweepRecv_kept {κ : Fixed} {s : State} (c : Coord) (p : Packet) (hk : Kept κ s) :
    Kept κ (State.sweepRecv s c p) := by
  unfold State.sweepRecv
  repeat' (first
      | with_reducible assumption | with_reducible apply State.sweepAt_kept | with_reducible apply State.after_kept
      | with_reducible apply Kept.ite | exact KeptOpt.of rfl (by with_reducible assumption)
      | exact KeptPair.of rfl (by with_reducible assumption) | with_reducible apply KeptOpt.ite
      | with_reducible refine KeptOpt.mapState ?_ (fun _ _ => ?_) | with_reducible refine KeptOpt.map (fun _ => ?_)
      | with_reducible apply KeptOpt.some | with_reducible exact KeptOpt.none | with_reducible apply KeptPair.ite
      | with_reducible apply KeptPair.some | with_reducible exact KeptPair.none
      | (extract_lets +onlyGivenNames x
         first
         | (refine Kept.cut (k := κ) (s := x) ?_ ?_; subst x; rotate_left; intro hx; clear_value x; revert x; intro _ _)
         | (refine KeptOpt.cut (k := κ) (o := x) ?_ ?_; subst x; rotate_left; intro hx; clear_value x; revert x; intro _ _)
         | (refine KeptPair.cut (k := κ) (o := x) ?_ ?_; subst x; rotate_left; intro hx; clear_value x; revert x; intro _ _)
         | (clear_value x; revert x; intro _))
      | dsimp -zeta only | split)

theorem execSweepArrive_kept {κ : Fixed} {s : State} (c : Coord) (p : Packet) (hk : Kept κ s) :
    KeptOut κ (execSweepArrive c p s) := by
  unfold execSweepArrive
  repeat' (first
      | with_reducible assumption | with_reducible apply State.onCell_kept | with_reducible apply onColl_kept
      | with_reducible apply State.sweepRecv_kept | with_reducible apply Kept.ite | with_reducible apply KeptOut.ite
      | with_reducible apply KeptOut.next | with_reducible exact KeptOut.fault | with_reducible exact KeptOut.refused
      | dsimp -zeta only | split)

theorem execSweepWaitBudgetExpiry_kept {κ : Fixed} {s : State} (c : Coord) (ctx : Nat) (epoch : Nat) (slice : Nat) (hk : Kept κ s) :
    KeptOut κ (execSweepWaitBudgetExpiry c ctx epoch slice s) := by
  unfold execSweepWaitBudgetExpiry
  repeat' (first
      | with_reducible assumption | with_reducible apply State.waitExpiry_kept | with_reducible apply State.after_kept
      | with_reducible apply State.onSlice_kept | with_reducible apply Kept.ite | with_reducible apply KeptOut.ite
      | with_reducible apply KeptOut.next | with_reducible exact KeptOut.fault | with_reducible exact KeptOut.refused
      | dsimp -zeta only | split)

theorem execGatheringHoldExpiry_kept {κ : Fixed} {s : State} (c : Coord) (ctx : Nat) (epoch : Nat) (slice : Nat) (hk : Kept κ s) :
    KeptOut κ (execGatheringHoldExpiry c ctx epoch slice s) := by
  unfold execGatheringHoldExpiry
  repeat' (first
      | with_reducible assumption | with_reducible apply State.waitExpiry_kept | with_reducible apply State.after_kept
      | with_reducible apply State.onSlice_kept | with_reducible apply Kept.ite | with_reducible apply KeptOut.ite
      | with_reducible apply KeptOut.next | with_reducible exact KeptOut.fault | with_reducible exact KeptOut.refused
      | dsimp -zeta only | split)

theorem execColumnHalfOriginate_kept {κ : Fixed} {s : State} (c : Coord) (ctx : Nat) (epoch : Nat) (slice : Nat) (hk : Kept κ s) :
    KeptOut κ (execColumnHalfOriginate c ctx epoch slice s) := by
  unfold execColumnHalfOriginate
  repeat' (first
      | with_reducible assumption | with_reducible apply State.columnOriginate_kept | with_reducible apply State.after_kept
      | with_reducible apply State.onSlice_kept | with_reducible apply Kept.ite | with_reducible apply KeptOut.ite
      | with_reducible apply KeptOut.next | with_reducible exact KeptOut.fault | with_reducible exact KeptOut.refused
      | dsimp -zeta only | split)

theorem State.rootRecv_kept {κ : Fixed} {s : State} (c : Coord) (p : Packet) (hk : Kept κ s) :
    Kept κ (State.rootRecv s c p) := by
  unfold State.rootRecv
  repeat' (first
      | with_reducible assumption | with_reducible apply State.rootAt_kept | with_reducible apply State.after_kept
      | with_reducible apply Kept.ite | exact KeptOpt.of rfl (by with_reducible assumption)
      | exact KeptPair.of rfl (by with_reducible assumption) | with_reducible apply KeptOpt.ite
      | with_reducible refine KeptOpt.mapState ?_ (fun _ _ => ?_) | with_reducible refine KeptOpt.map (fun _ => ?_)
      | with_reducible apply KeptOpt.some | with_reducible exact KeptOpt.none | with_reducible apply KeptPair.ite
      | with_reducible apply KeptPair.some | with_reducible exact KeptPair.none
      | (extract_lets +onlyGivenNames x
         first
         | (refine Kept.cut (k := κ) (s := x) ?_ ?_; subst x; rotate_left; intro hx; clear_value x; revert x; intro _ _)
         | (refine KeptOpt.cut (k := κ) (o := x) ?_ ?_; subst x; rotate_left; intro hx; clear_value x; revert x; intro _ _)
         | (refine KeptPair.cut (k := κ) (o := x) ?_ ?_; subst x; rotate_left; intro hx; clear_value x; revert x; intro _ _)
         | (clear_value x; revert x; intro _))
      | dsimp -zeta only | split)

theorem execRootArrival_kept {κ : Fixed} {s : State} (c : Coord) (p : Packet) (hk : Kept κ s) :
    KeptOut κ (execRootArrival c p s) := by
  unfold execRootArrival
  repeat' (first
      | with_reducible assumption | with_reducible apply State.onCell_kept | with_reducible apply onColl_kept
      | with_reducible apply State.rootRecv_kept | with_reducible apply Kept.ite | with_reducible apply KeptOut.ite
      | with_reducible apply KeptOut.next | with_reducible exact KeptOut.fault | with_reducible exact KeptOut.refused
      | dsimp -zeta only | split)

theorem execSpillReadBack_kept {κ : Fixed} {s : State} (c : Coord) (ctx : Nat) (hk : Kept κ s) :
    KeptOut κ (execSpillReadBack c ctx s) := by
  unfold execSpillReadBack
  repeat' (first
      | with_reducible assumption | with_reducible apply State.spillBack_kept | with_reducible apply State.after_kept
      | with_reducible apply State.onSlice_kept | with_reducible apply Kept.ite | with_reducible apply KeptOut.ite
      | with_reducible apply KeptOut.next | with_reducible exact KeptOut.fault | with_reducible exact KeptOut.refused
      | dsimp -zeta only | split)

theorem execSliceLeaseExpiry_kept {κ : Fixed} {s : State} (c : Coord) (ctx : Nat) (epoch : Nat) (slice : Nat) (hk : Kept κ s) :
    KeptOut κ (execSliceLeaseExpiry c ctx epoch slice s) := by
  unfold execSliceLeaseExpiry
  repeat' (first
      | with_reducible assumption | with_reducible apply State.leaseExpiry_kept | with_reducible apply State.after_kept
      | with_reducible apply State.onSlice_kept | with_reducible apply Kept.ite | with_reducible apply KeptOut.ite
      | with_reducible apply KeptOut.next | with_reducible exact KeptOut.fault | with_reducible exact KeptOut.refused
      | dsimp -zeta only | split)

theorem execOrphanExpiry_kept {κ : Fixed} {s : State} (c : Coord) (ctx : Nat) (epoch : Nat) (slice : Nat) (hk : Kept κ s) :
    KeptOut κ (execOrphanExpiry c ctx epoch slice s) := by
  unfold execOrphanExpiry
  repeat' (first
      | with_reducible assumption | with_reducible apply State.orphanExpiry_kept | with_reducible apply State.after_kept
      | with_reducible apply State.onSlice_kept | with_reducible apply Kept.ite | with_reducible apply KeptOut.ite
      | with_reducible apply KeptOut.next | with_reducible exact KeptOut.fault | with_reducible exact KeptOut.refused
      | dsimp -zeta only | split)

theorem execResultArrive_kept {κ : Fixed} {s : State} (c : Coord) (p : Packet) (hk : Kept κ s) :
    KeptOut κ (execResultArrive c p s) := by
  unfold execResultArrive
  repeat' (first
      | with_reducible assumption | with_reducible apply State.resultArrive_kept | with_reducible apply State.after_kept
      | with_reducible apply State.onCell_kept | with_reducible apply onColl_kept | with_reducible apply Kept.ite
      | with_reducible apply KeptOut.ite | with_reducible apply KeptOut.next | with_reducible exact KeptOut.fault
      | with_reducible exact KeptOut.refused | dsimp -zeta only | split)

theorem execAnchorArrive_kept {κ : Fixed} {s : State} (c : Coord) (p : Packet) (hk : Kept κ s) :
    KeptOut κ (execAnchorArrive c p s) := by
  unfold execAnchorArrive
  repeat' (first
      | with_reducible assumption | with_reducible apply State.anchorArrive_kept | with_reducible apply State.after_kept
      | with_reducible apply State.onCell_kept | with_reducible apply onColl_kept | with_reducible apply Kept.ite
      | with_reducible apply KeptOut.ite | with_reducible apply KeptOut.next | with_reducible exact KeptOut.fault
      | with_reducible exact KeptOut.refused | dsimp -zeta only | split)

theorem execAnchorPassOrphanExpiry_kept {κ : Fixed} {s : State} (c : Coord) (ctx : Nat) (epoch : Nat) (slice : Nat) (hk : Kept κ s) :
    KeptOut κ (execAnchorPassOrphanExpiry c ctx epoch slice s) := by
  unfold execAnchorPassOrphanExpiry
  repeat' (first
      | with_reducible assumption | with_reducible apply State.anchorExpiry_kept | with_reducible apply State.after_kept
      | with_reducible apply State.onSlice_kept | with_reducible apply Kept.ite | with_reducible apply KeptOut.ite
      | with_reducible apply KeptOut.next | with_reducible exact KeptOut.fault | with_reducible exact KeptOut.refused
      | dsimp -zeta only | split)

theorem execMemberDeadlineExpiry_kept {κ : Fixed} {s : State} (c : Coord) (ctx : Nat) (epoch : Nat) (slice : Nat) (hk : Kept κ s) :
    KeptOut κ (execMemberDeadlineExpiry c ctx epoch slice s) := by
  unfold execMemberDeadlineExpiry
  repeat' (first
      | with_reducible assumption | with_reducible apply State.memberDeadline_kept | with_reducible apply State.exchDeadline_kept
      | with_reducible apply State.after_kept | with_reducible apply State.onSlice_kept | with_reducible apply Kept.ite
      | with_reducible apply KeptOut.ite | with_reducible apply KeptOut.next | with_reducible exact KeptOut.fault
      | with_reducible exact KeptOut.refused | dsimp -zeta only | split)

theorem execExchangeSegmentSend_kept {κ : Fixed} {s : State} (c : Coord) (ctx : Nat) (epoch : Nat) (dst : Nat) (hk : Kept κ s) :
    KeptOut κ (execExchangeSegmentSend c ctx epoch dst s) := by
  unfold execExchangeSegmentSend
  repeat' (first
      | with_reducible assumption | with_reducible apply State.segmentSend_kept | with_reducible apply State.after_kept
      | with_reducible apply State.onSlice_kept | with_reducible apply Kept.ite | with_reducible apply KeptOut.ite
      | with_reducible apply KeptOut.next | with_reducible exact KeptOut.fault | with_reducible exact KeptOut.refused
      | dsimp -zeta only | split)

theorem execCheckPartialArrive_kept {κ : Fixed} {s : State} (c : Coord) (p : Packet) (hk : Kept κ s) :
    KeptOut κ (execCheckPartialArrive c p s) := by
  unfold execCheckPartialArrive
  repeat' (first
      | with_reducible assumption | with_reducible apply State.partialAt_kept | with_reducible apply State.after_kept
      | with_reducible apply State.onCell_kept | with_reducible apply onColl_kept | with_reducible apply Kept.ite
      | with_reducible apply KeptOut.ite | with_reducible apply KeptOut.next | with_reducible exact KeptOut.fault
      | with_reducible exact KeptOut.refused | dsimp -zeta only | split)

theorem execThirdPartialArrive_kept {κ : Fixed} {s : State} (c : Coord) (p : Packet) (hk : Kept κ s) :
    KeptOut κ (execThirdPartialArrive c p s) := by
  unfold execThirdPartialArrive
  repeat' (first
      | with_reducible assumption | with_reducible apply State.partialAt_kept | with_reducible apply State.after_kept
      | with_reducible apply State.onCell_kept | with_reducible apply onColl_kept | with_reducible apply Kept.ite
      | with_reducible apply KeptOut.ite | with_reducible apply KeptOut.next | with_reducible exact KeptOut.fault
      | with_reducible exact KeptOut.refused | dsimp -zeta only | split)

theorem execCheckWaitExpiry_kept {κ : Fixed} {s : State} (c : Coord) (ctx : Nat) (epoch : Nat) (slice : Nat) (hk : Kept κ s) :
    KeptOut κ (execCheckWaitExpiry c ctx epoch slice s) := by
  unfold execCheckWaitExpiry
  repeat' (first
      | with_reducible assumption | with_reducible apply State.checkWaitEnd_kept | with_reducible apply State.after_kept
      | with_reducible apply State.onSlice_kept | with_reducible apply Kept.ite | with_reducible apply KeptOut.ite
      | with_reducible apply KeptOut.next | with_reducible exact KeptOut.fault | with_reducible exact KeptOut.refused
      | dsimp -zeta only | split)

theorem execThirdWaitExpiry_kept {κ : Fixed} {s : State} (c : Coord) (ctx : Nat) (epoch : Nat) (slice : Nat) (hk : Kept κ s) :
    KeptOut κ (execThirdWaitExpiry c ctx epoch slice s) := by
  unfold execThirdWaitExpiry
  repeat' (first
      | with_reducible assumption | with_reducible apply State.thirdWaitEnd_kept | with_reducible apply State.after_kept
      | with_reducible apply State.onSlice_kept | with_reducible apply Kept.ite | with_reducible apply KeptOut.ite
      | with_reducible apply KeptOut.next | with_reducible exact KeptOut.fault | with_reducible exact KeptOut.refused
      | dsimp -zeta only | split)

theorem execRecheckNoticeReceive_kept {κ : Fixed} {s : State} (c : Coord) (p : Packet) (hk : Kept κ s) :
    KeptOut κ (execRecheckNoticeReceive c p s) := by
  unfold execRecheckNoticeReceive
  repeat' (first
      | with_reducible assumption | with_reducible apply State.recheckAt_kept | with_reducible apply State.after_kept
      | with_reducible apply State.onCell_kept | with_reducible apply onColl_kept | with_reducible apply Kept.ite
      | with_reducible apply KeptOut.ite | with_reducible apply KeptOut.next | with_reducible exact KeptOut.fault
      | with_reducible exact KeptOut.refused | dsimp -zeta only | split)

theorem execPatternReplay_kept {κ : Fixed} {s : State} (c : Coord) (hk : Kept κ s) :
    KeptOut κ (execPatternReplay c s) := by
  unfold execPatternReplay
  repeat' (first
      | with_reducible assumption | with_reducible apply State.patternReplay_kept | with_reducible apply State.done_kept
      | with_reducible apply State.onCell_kept | with_reducible apply Kept.ite | with_reducible apply KeptOut.ite
      | with_reducible apply KeptOut.next | with_reducible exact KeptOut.fault | with_reducible exact KeptOut.refused
      | dsimp -zeta only | split)

theorem execReplayNow_kept {κ : Fixed} {s : State} (r : DictReq) (hk : Kept κ s) :
    KeptOut κ (execReplayNow r s) := by
  unfold execReplayNow
  repeat' (first
      | with_reducible assumption | with_reducible apply State.dictServe_kept | with_reducible apply State.done_kept
      | with_reducible apply Kept.ite | with_reducible apply KeptOut.ite | with_reducible apply KeptOut.next
      | with_reducible exact KeptOut.fault | with_reducible exact KeptOut.refused | dsimp -zeta only | split)

end Sys2Proof.Machine
end

