-- ==== Sys2Proof/Laws/KeptMemCmds.lean ====
section
/-! SUPPORT. Every operation of Machine/MemCmds.lean keeps the build, the queue and the canonical form. -/

namespace Sys2Proof.Machine

set_option linter.all false

theorem State.onTable_kept {κ : Fixed} {s : State} (c : Coord) (p : Packet) (typ : Nat) (f : TableTail → State) (hf : ∀ a, Kept κ (f a)) (hk : Kept κ s) :
    Kept κ (State.onTable s c p typ f) := by
  unfold State.onTable
  repeat' (first
      | with_reducible assumption | with_reducible apply hf | with_reducible apply State.atEject_kept | with_reducible apply Kept.ite
      | dsimp -zeta only | split)

theorem execGatherReqReceive_kept {κ : Fixed} {s : State} (st : Nat) (d : Nat) (p : Packet) (hk : Kept κ s) :
    KeptOut κ (execGatherReqReceive st d p s) := by
  unfold execGatherReqReceive
  repeat' (first
      | with_reducible assumption | with_reducible apply State.gatherReq_kept | with_reducible apply State.done_kept
      | with_reducible apply State.onDrop_kept | with_reducible apply State.onTable_kept | with_reducible apply Kept.ite
      | (intro _ _ _) | (intro _ _) | (intro _) | with_reducible apply KeptOut.ite | with_reducible apply KeptOut.next
      | with_reducible exact KeptOut.fault | with_reducible exact KeptOut.refused | dsimp -zeta only | split)

theorem State.onTableAt_kept {κ : Fixed} {t : State} (st : Nat) (tdesc : Nat) (hk : Kept κ t) :
    KeptOut κ (State.onTableAt s st tdesc t) := by
  unfold State.onTableAt
  repeat' (first
      | with_reducible assumption | with_reducible apply whenUnit_kept | with_reducible apply Kept.ite
      | with_reducible apply KeptOut.ite | with_reducible apply KeptOut.next | with_reducible exact KeptOut.fault
      | with_reducible exact KeptOut.refused | dsimp -zeta only | split)

theorem execCoalescerReply_kept {κ : Fixed} {s : State} (st : Nat) (tdesc : Nat) (row : Nat) (hk : Kept κ s) :
    KeptOut κ (execCoalescerReply st tdesc row s) := by
  unfold execCoalescerReply
  repeat' (first
      | with_reducible assumption | with_reducible apply State.coalescerReply_kept | with_reducible apply State.done_kept
      | with_reducible apply State.onTableAt_kept | with_reducible apply Kept.ite | with_reducible apply KeptOut.ite
      | with_reducible apply KeptOut.next | with_reducible exact KeptOut.fault | with_reducible exact KeptOut.refused
      | dsimp -zeta only | split)

theorem State.gatherDataAt_kept {κ : Fixed} {s : State} (c : Coord) (p : Packet) (t : TableTail) (hk : Kept κ s) :
    Kept κ (State.gatherDataAt s c p t) := by
  unfold State.gatherDataAt
  repeat' (first
      | with_reducible assumption | with_reducible apply State.landInject_kept | with_reducible apply State.gatherData_kept
      | with_reducible apply State.after_kept | with_reducible apply State.cellRuns_kept | with_reducible apply Kept.ite
      | refine Kept.of_snd (by with_reducible assumption) ?_ | refine Kept.of_fst (by with_reducible assumption) ?_
      | (extract_lets +onlyGivenNames x
         first
         | (refine Kept.cut (k := κ) (s := x) ?_ ?_; subst x; rotate_left; intro hx; clear_value x; revert x; intro _ _)
         | (refine Kept.cut1 (k := κ) (s := x) ?_ ?_; subst x; rotate_left; intro hx; clear_value x; revert x; intro _ _)
         | (refine Kept.cut2 (k := κ) (s := x) ?_ ?_; subst x; rotate_left; intro hx; clear_value x; revert x; intro _ _)
         | (clear_value x; revert x; intro _))
      | dsimp -zeta only | split)

theorem execGatherDataReceive_kept {κ : Fixed} {s : State} (c : Coord) (p : Packet) (hk : Kept κ s) :
    KeptOut κ (execGatherDataReceive c p s) := by
  unfold execGatherDataReceive
  repeat' (first
      | with_reducible assumption | with_reducible apply State.done_kept | with_reducible apply State.onCell_kept
      | with_reducible apply State.onTable_kept | with_reducible apply State.gatherDataAt_kept | with_reducible apply Kept.ite
      | (intro _ _ _) | (intro _ _) | (intro _) | with_reducible apply KeptOut.ite | with_reducible apply KeptOut.next
      | with_reducible exact KeptOut.fault | with_reducible exact KeptOut.refused | dsimp -zeta only | split)

theorem State.onTag_kept {κ : Fixed} {t : State} (st : Nat) (d : Nat) (tag : Nat) (hk : Kept κ t) :
    KeptOut κ (State.onTag s st d tag t) := by
  unfold State.onTag
  repeat' (first
      | with_reducible assumption | with_reducible apply whenUnit_kept | with_reducible apply Kept.ite
      | with_reducible apply KeptOut.ite | with_reducible apply KeptOut.next | with_reducible exact KeptOut.fault
      | with_reducible exact KeptOut.refused | dsimp -zeta only | split)

theorem execRdataReceive_kept {κ : Fixed} {s : State} (st : Nat) (d : Nat) (tag : Nat) (cw0 : List Byte) (cw1 : List Byte) (err : Bool) (parityOk : Bool) (hk : Kept κ s) :
    KeptOut κ (execRdataReceive st d tag cw0 cw1 err parityOk s) := by
  unfold execRdataReceive
  repeat' (first
      | with_reducible assumption | with_reducible apply State.rdata_kept | with_reducible apply State.done_kept
      | with_reducible apply State.onTag_kept | with_reducible apply Kept.ite | with_reducible apply KeptOut.ite
      | with_reducible apply KeptOut.next | with_reducible exact KeptOut.fault | with_reducible exact KeptOut.refused
      | dsimp -zeta only | split)

theorem execWackReceive_kept {κ : Fixed} {s : State} (st : Nat) (d : Nat) (tag : Nat) (err : Bool) (parityOk : Bool) (hk : Kept κ s) :
    KeptOut κ (execWackReceive st d tag err parityOk s) := by
  unfold execWackReceive
  repeat' (first
      | with_reducible assumption | with_reducible apply State.wack_kept | with_reducible apply State.done_kept
      | with_reducible apply State.onTag_kept | with_reducible apply Kept.ite | with_reducible apply KeptOut.ite
      | with_reducible apply KeptOut.next | with_reducible exact KeptOut.fault | with_reducible exact KeptOut.refused
      | dsimp -zeta only | split)

theorem execTxnTimeoutExpiry_kept {κ : Fixed} {s : State} (st : Nat) (d : Nat) (tag : Nat) (hk : Kept κ s) :
    KeptOut κ (execTxnTimeoutExpiry st d tag s) := by
  unfold execTxnTimeoutExpiry
  repeat' (first
      | with_reducible assumption | with_reducible apply State.txnTimeout_kept | with_reducible apply State.done_kept
      | with_reducible apply State.onTag_kept | with_reducible apply Kept.ite | with_reducible apply KeptOut.ite
      | with_reducible apply KeptOut.next | with_reducible exact KeptOut.fault | with_reducible exact KeptOut.refused
      | dsimp -zeta only | split)

theorem State.scatterDataAt_kept {κ : Fixed} {s : State} (st : Nat) (d : Nat) (p : Packet) (hk : Kept κ s) :
    Kept κ (State.scatterDataAt s st d p) := by
  unfold State.scatterDataAt
  repeat' (first
      | with_reducible assumption | with_reducible apply State.landInject_kept | with_reducible apply State.scatterData_kept
      | with_reducible apply State.done_kept | with_reducible apply Kept.ite | refine Kept.of_snd (by with_reducible assumption) ?_
      | refine Kept.of_fst (by with_reducible assumption) ?_
      | (extract_lets +onlyGivenNames x
         first
         | (refine Kept.cut (k := κ) (s := x) ?_ ?_; subst x; rotate_left; intro hx; clear_value x; revert x; intro _ _)
         | (refine Kept.cut1 (k := κ) (s := x) ?_ ?_; subst x; rotate_left; intro hx; clear_value x; revert x; intro _ _)
         | (refine Kept.cut2 (k := κ) (s := x) ?_ ?_; subst x; rotate_left; intro hx; clear_value x; revert x; intro _ _)
         | (clear_value x; revert x; intro _))
      | dsimp -zeta only | split)

theorem execScatterDataReceive_kept {κ : Fixed} {s : State} (st : Nat) (d : Nat) (p : Packet) (hk : Kept κ s) :
    KeptOut κ (execScatterDataReceive st d p s) := by
  unfold execScatterDataReceive
  repeat' (first
      | with_reducible assumption | with_reducible apply State.onDrop_kept | with_reducible apply State.onTable_kept
      | with_reducible apply State.scatterDataAt_kept | with_reducible apply Kept.ite | (intro _ _ _) | (intro _ _) | (intro _)
      | with_reducible apply KeptOut.ite | with_reducible apply KeptOut.next | with_reducible exact KeptOut.fault
      | with_reducible exact KeptOut.refused | dsimp -zeta only | split)

theorem execTblCloseWrite_kept {κ : Fixed} {s : State} (r : DictReq) (hk : Kept κ s) :
    KeptOut κ (execTblCloseWrite r s) := by
  unfold execTblCloseWrite
  repeat' (first
      | with_reducible assumption | with_reducible apply State.dictServe_kept | with_reducible apply State.done_kept
      | with_reducible apply Kept.ite | with_reducible apply KeptOut.ite | with_reducible apply KeptOut.next
      | with_reducible exact KeptOut.fault | with_reducible exact KeptOut.refused | dsimp -zeta only | split)

theorem execFlushReqReceive_kept {κ : Fixed} {s : State} (st : Nat) (d : Nat) (p : Packet) (hk : Kept κ s) :
    KeptOut κ (execFlushReqReceive st d p s) := by
  unfold execFlushReqReceive
  repeat' (first
      | with_reducible assumption | with_reducible apply State.flushReq_kept | with_reducible apply State.done_kept
      | with_reducible apply State.onDrop_kept | with_reducible apply State.onTable_kept | with_reducible apply Kept.ite
      | (intro _ _ _) | (intro _ _) | (intro _) | with_reducible apply KeptOut.ite | with_reducible apply KeptOut.next
      | with_reducible exact KeptOut.fault | with_reducible exact KeptOut.refused | dsimp -zeta only | split)

theorem State.onDropTable_kept {κ : Fixed} {t : State} (st : Nat) (d : Nat) (tdesc : Nat) (hk : Kept κ t) :
    KeptOut κ (State.onDropTable s st d tdesc t) := by
  unfold State.onDropTable
  repeat' (first
      | with_reducible assumption | with_reducible apply whenUnit_kept | with_reducible apply Kept.ite
      | with_reducible apply KeptOut.ite | with_reducible apply KeptOut.next | with_reducible exact KeptOut.fault
      | with_reducible exact KeptOut.refused | dsimp -zeta only | split)

theorem execFlushWriteback_kept {κ : Fixed} {s : State} (st : Nat) (d : Nat) (tdesc : Nat) (hk : Kept κ s) :
    KeptOut κ (execFlushWriteback st d tdesc s) := by
  unfold execFlushWriteback
  repeat' (first
      | with_reducible assumption | with_reducible apply State.flushWriteback_kept | with_reducible apply State.done_kept
      | with_reducible apply State.onDropTable_kept | with_reducible apply Kept.ite | with_reducible apply KeptOut.ite
      | with_reducible apply KeptOut.next | with_reducible exact KeptOut.fault | with_reducible exact KeptOut.refused
      | dsimp -zeta only | split)

theorem answerClose_kept {κ : Fixed} {s : State} (r : DictReq) (hk : Kept κ s) :
    Kept κ (answerClose s r) := by
  unfold answerClose
  repeat' (first
      | with_reducible assumption | with_reducible apply State.dictAnswer_kept | with_reducible apply Kept.ite | dsimp -zeta only
      | split)

theorem execFlushAnswerReceive_kept {κ : Fixed} {s : State} (d : Delivered) (hk : Kept κ s) :
    KeptOut κ (execFlushAnswerReceive d s) := by
  unfold execFlushAnswerReceive
  repeat' (first
      | with_reducible assumption | with_reducible apply State.flushAnswer_kept | with_reducible apply State.done_kept
      | with_reducible apply whenUnit_kept | with_reducible apply answerClose_kept | with_reducible apply Kept.ite
      | with_reducible apply KeptOut.ite | with_reducible apply KeptOut.next | with_reducible exact KeptOut.fault
      | with_reducible exact KeptOut.refused | dsimp -zeta only | split)

theorem execFlushLimitExpiry_kept {κ : Fixed} {s : State} (tdesc : Nat) (hk : Kept κ s) :
    KeptOut κ (execFlushLimitExpiry tdesc s) := by
  unfold execFlushLimitExpiry
  repeat' (first
      | with_reducible assumption | with_reducible apply State.flushLimit_kept | with_reducible apply State.done_kept
      | with_reducible apply whenUnit_kept | with_reducible apply answerClose_kept | with_reducible apply Kept.ite
      | with_reducible apply KeptOut.ite | with_reducible apply KeptOut.next | with_reducible exact KeptOut.fault
      | with_reducible exact KeptOut.refused | dsimp -zeta only | split)

theorem execMemStreamStart_kept {κ : Fixed} {s : State} (r : DictReq) (hk : Kept κ s) :
    KeptOut κ (execMemStreamStart r s) := by
  unfold execMemStreamStart
  repeat' (first
      | with_reducible assumption | with_reducible apply State.dictServe_kept | with_reducible apply State.done_kept
      | with_reducible apply Kept.ite | with_reducible apply KeptOut.ite | with_reducible apply KeptOut.next
      | with_reducible exact KeptOut.fault | with_reducible exact KeptOut.refused | dsimp -zeta only | split)

theorem execDropFence_kept {κ : Fixed} {s : State} (st : Nat) (d : Nat) (hk : Kept κ s) :
    KeptOut κ (execDropFence st d s) := by
  unfold execDropFence
  repeat' (first
      | with_reducible assumption | with_reducible apply State.dropFenced_kept | with_reducible apply State.done_kept
      | with_reducible apply State.onDrop_kept | with_reducible apply Kept.ite | with_reducible apply KeptOut.ite
      | with_reducible apply KeptOut.next | with_reducible exact KeptOut.fault | with_reducible exact KeptOut.refused
      | dsimp -zeta only | split)

end Sys2Proof.Machine
end

