-- ==== Sys2Proof/Laws/KeptLinkCmds.lean ====
section
/-! SUPPORT. Every operation of Machine/LinkCmds.lean keeps the build, the queue and the canonical form. -/

namespace Sys2Proof.Machine

set_option linter.all false

theorem State.onLevel_kept {κ : Fixed} {t : State} (p : Nat) (l : Nat) (ctx : Nat) (hk : Kept κ t) :
    KeptOut κ (State.onLevel s p l ctx t) := by
  unfold State.onLevel
  repeat' (first
      | with_reducible assumption | with_reducible apply whenUnit_kept | with_reducible apply Kept.ite
      | with_reducible apply KeptOut.ite | with_reducible apply KeptOut.next | with_reducible exact KeptOut.fault
      | with_reducible exact KeptOut.refused | dsimp -zeta only | split)

theorem execExchangeJoin_kept {κ : Fixed} {s : State} (ctx : Nat) (epoch : Nat) (hk : Kept κ s) :
    KeptOut κ (execExchangeJoin ctx epoch s) := by
  unfold execExchangeJoin
  repeat' (first
      | with_reducible assumption | with_reducible apply State.exchangeJoin_kept | with_reducible apply State.done_kept
      | with_reducible apply whenUnit_kept | with_reducible apply Kept.ite | with_reducible apply KeptOut.ite
      | with_reducible apply KeptOut.next | with_reducible exact KeptOut.fault | with_reducible exact KeptOut.refused
      | dsimp -zeta only | split)

theorem execLevelPacketArrive_kept {κ : Fixed} {s : State} (port : Nat) (p : Packet) (hk : Kept κ s) :
    KeptOut κ (execLevelPacketArrive port p s) := by
  unfold execLevelPacketArrive
  repeat' (first
      | with_reducible assumption | with_reducible apply State.levelAt_kept | with_reducible apply State.done_kept
      | with_reducible apply State.onLink_kept | with_reducible apply onColl_kept | with_reducible apply Kept.ite
      | with_reducible apply KeptOut.ite | with_reducible apply KeptOut.next | with_reducible exact KeptOut.fault
      | with_reducible exact KeptOut.refused | dsimp -zeta only | split)

theorem execStationCarrierConvert_kept {κ : Fixed} {s : State} (port : Nat) (ctx : Nat) (epoch : Nat) (slice : Nat) (hk : Kept κ s) :
    KeptOut κ (execStationCarrierConvert port ctx epoch slice s) := by
  unfold execStationCarrierConvert
  repeat' (first
      | with_reducible assumption | with_reducible apply State.lvConvert_kept | with_reducible apply State.done_kept
      | with_reducible apply State.onLevel_kept | with_reducible apply Kept.ite | with_reducible apply KeptOut.ite
      | with_reducible apply KeptOut.next | with_reducible exact KeptOut.fault | with_reducible exact KeptOut.refused
      | dsimp -zeta only | split)

theorem execLevelWaitExpiry_kept {κ : Fixed} {s : State} (port : Nat) (level : Nat) (ctx : Nat) (epoch : Nat) (slice : Nat) (hk : Kept κ s) :
    KeptOut κ (execLevelWaitExpiry port level ctx epoch slice s) := by
  unfold execLevelWaitExpiry
  repeat' (first
      | with_reducible assumption | with_reducible apply State.lvWaitExpiry_kept | with_reducible apply State.done_kept
      | with_reducible apply State.onLevel_kept | with_reducible apply Kept.ite | with_reducible apply KeptOut.ite
      | with_reducible apply KeptOut.next | with_reducible exact KeptOut.fault | with_reducible exact KeptOut.refused
      | dsimp -zeta only | split)

theorem execLevelOrphanExpiry_kept {κ : Fixed} {s : State} (port : Nat) (level : Nat) (ctx : Nat) (epoch : Nat) (slice : Nat) (hk : Kept κ s) :
    KeptOut κ (execLevelOrphanExpiry port level ctx epoch slice s) := by
  unfold execLevelOrphanExpiry
  repeat' (first
      | with_reducible assumption | with_reducible apply State.lvOrphan_kept | with_reducible apply State.done_kept
      | with_reducible apply State.onLevel_kept | with_reducible apply Kept.ite | with_reducible apply KeptOut.ite
      | with_reducible apply KeptOut.next | with_reducible exact KeptOut.fault | with_reducible exact KeptOut.refused
      | dsimp -zeta only | split)

theorem execLevelLeaseExpiry_kept {κ : Fixed} {s : State} (port : Nat) (level : Nat) (ctx : Nat) (epoch : Nat) (slice : Nat) (hk : Kept κ s) :
    KeptOut κ (execLevelLeaseExpiry port level ctx epoch slice s) := by
  unfold execLevelLeaseExpiry
  repeat' (first
      | with_reducible assumption | with_reducible apply State.lvLeaseExpiry_kept | with_reducible apply State.done_kept
      | with_reducible apply State.onLevel_kept | with_reducible apply Kept.ite | with_reducible apply KeptOut.ite
      | with_reducible apply KeptOut.next | with_reducible exact KeptOut.fault | with_reducible exact KeptOut.refused
      | dsimp -zeta only | split)

theorem execLevelAnchorPassExpiry_kept {κ : Fixed} {s : State} (port : Nat) (level : Nat) (ctx : Nat) (epoch : Nat) (slice : Nat) (hk : Kept κ s) :
    KeptOut κ (execLevelAnchorPassExpiry port level ctx epoch slice s) := by
  unfold execLevelAnchorPassExpiry
  repeat' (first
      | with_reducible assumption | with_reducible apply State.lvAnchorExpiry_kept | with_reducible apply State.done_kept
      | with_reducible apply State.onLevel_kept | with_reducible apply Kept.ite | with_reducible apply KeptOut.ite
      | with_reducible apply KeptOut.next | with_reducible exact KeptOut.fault | with_reducible exact KeptOut.refused
      | dsimp -zeta only | split)

theorem execLevelResultDescend_kept {κ : Fixed} {s : State} (port : Nat) (p : Packet) (hk : Kept κ s) :
    KeptOut κ (execLevelResultDescend port p s) := by
  unfold execLevelResultDescend
  repeat' (first
      | with_reducible assumption | with_reducible apply State.resultDescend_kept | with_reducible apply State.done_kept
      | with_reducible apply State.onLink_kept | with_reducible apply onColl_kept | with_reducible apply Kept.ite
      | with_reducible apply KeptOut.ite | with_reducible apply KeptOut.next | with_reducible exact KeptOut.fault
      | with_reducible exact KeptOut.refused | dsimp -zeta only | split)

theorem execFrameReceive_kept {κ : Fixed} {s : State} (port : Nat) (f : Frame) (fec : Fec) (hk : Kept κ s) :
    KeptOut κ (execFrameReceive port f fec s) := by
  unfold execFrameReceive
  repeat' (first
      | with_reducible assumption | with_reducible apply State.frameAt_kept | with_reducible apply State.done_kept
      | with_reducible apply State.onLink_kept | with_reducible apply Kept.ite | with_reducible apply KeptOut.ite
      | with_reducible apply KeptOut.next | with_reducible exact KeptOut.fault | with_reducible exact KeptOut.refused
      | dsimp -zeta only | split)

theorem execNakRepeat_kept {κ : Fixed} {s : State} (port : Nat) (hk : Kept κ s) :
    KeptOut κ (execNakRepeat port s) := by
  unfold execNakRepeat
  repeat' (first
      | with_reducible assumption | with_reducible apply State.nakRepeat_kept | with_reducible apply State.done_kept
      | with_reducible apply State.onLink_kept | with_reducible apply Kept.ite | with_reducible apply KeptOut.ite
      | with_reducible apply KeptOut.next | with_reducible exact KeptOut.fault | with_reducible exact KeptOut.refused
      | dsimp -zeta only | split)

theorem execReplayTimeoutExpiry_kept {κ : Fixed} {s : State} (port : Nat) (hk : Kept κ s) :
    KeptOut κ (execReplayTimeoutExpiry port s) := by
  unfold execReplayTimeoutExpiry
  repeat' (first
      | with_reducible assumption | with_reducible apply State.replayTimeout_kept | with_reducible apply State.done_kept
      | with_reducible apply State.onLink_kept | with_reducible apply Kept.ite | with_reducible apply KeptOut.ite
      | with_reducible apply KeptOut.next | with_reducible exact KeptOut.fault | with_reducible exact KeptOut.refused
      | dsimp -zeta only | split)

theorem execCreditUnitSend_kept {κ : Fixed} {s : State} (port : Nat) (hk : Kept κ s) :
    KeptOut κ (execCreditUnitSend port s) := by
  unfold execCreditUnitSend
  repeat' (first
      | with_reducible assumption | with_reducible apply State.creditUnit_kept | with_reducible apply State.onLink_kept
      | with_reducible apply Kept.ite | with_reducible apply KeptOut.ite | with_reducible apply KeptOut.next
      | with_reducible exact KeptOut.fault | with_reducible exact KeptOut.refused | dsimp -zeta only | split)

theorem execLinkPacketEnter_kept {κ : Fixed} {s : State} (port : Nat) (p : Packet) (hk : Kept κ s) :
    KeptOut κ (execLinkPacketEnter port p s) := by
  unfold execLinkPacketEnter
  repeat' (first
      | with_reducible assumption | with_reducible apply State.packetEnter_kept | with_reducible apply State.done_kept
      | with_reducible apply State.onLink_kept | with_reducible apply Kept.ite | with_reducible apply KeptOut.ite
      | with_reducible apply KeptOut.next | with_reducible exact KeptOut.fault | with_reducible exact KeptOut.refused
      | dsimp -zeta only | split)

theorem execTransitPacketArrive_kept {κ : Fixed} {s : State} (port : Nat) (p : Packet) (hk : Kept κ s) :
    KeptOut κ (execTransitPacketArrive port p s) := by
  unfold execTransitPacketArrive
  repeat' (first
      | with_reducible assumption | with_reducible apply State.transitEnter_kept | with_reducible apply State.done_kept
      | with_reducible apply State.onLink_kept | with_reducible apply Kept.ite | with_reducible apply KeptOut.ite
      | with_reducible apply KeptOut.next | with_reducible exact KeptOut.fault | with_reducible exact KeptOut.refused
      | dsimp -zeta only | split)

theorem execPortTrainingStart_kept {κ : Fixed} {s : State} (port : Nat) (hk : Kept κ s) :
    KeptOut κ (execPortTrainingStart port s) := by
  unfold execPortTrainingStart
  repeat' (first
      | with_reducible assumption | with_reducible apply State.trainingStart_kept | with_reducible apply State.done_kept
      | with_reducible apply State.onLink_kept | with_reducible apply Kept.ite | with_reducible apply KeptOut.ite
      | with_reducible apply KeptOut.next | with_reducible exact KeptOut.fault | with_reducible exact KeptOut.refused
      | dsimp -zeta only | split)

theorem execTrainingLock_kept {κ : Fixed} {s : State} (port : Nat) (own : Nat) (partner : Nat) (hk : Kept κ s) :
    KeptOut κ (execTrainingLock port own partner s) := by
  unfold execTrainingLock
  repeat' (first
      | with_reducible assumption | with_reducible apply State.trainingLock_kept | with_reducible apply State.done_kept
      | with_reducible apply State.onLink_kept | with_reducible apply Kept.ite | with_reducible apply KeptOut.ite
      | with_reducible apply KeptOut.next | with_reducible exact KeptOut.fault | with_reducible exact KeptOut.refused
      | dsimp -zeta only | split)

theorem execTrainingTimeout_kept {κ : Fixed} {s : State} (port : Nat) (hk : Kept κ s) :
    KeptOut κ (execTrainingTimeout port s) := by
  unfold execTrainingTimeout
  repeat' (first
      | with_reducible assumption | with_reducible apply State.trainingTimeout_kept | with_reducible apply State.done_kept
      | with_reducible apply State.onLink_kept | with_reducible apply Kept.ite | with_reducible apply KeptOut.ite
      | with_reducible apply KeptOut.next | with_reducible exact KeptOut.fault | with_reducible exact KeptOut.refused
      | dsimp -zeta only | split)

theorem execHelloReceive_kept {κ : Fixed} {s : State} (port : Nat) (h : Hello) (hk : Kept κ s) :
    KeptOut κ (execHelloReceive port h s) := by
  unfold execHelloReceive
  repeat' (first
      | with_reducible assumption | with_reducible apply State.helloAt_kept | with_reducible apply State.done_kept
      | with_reducible apply State.onLink_kept | with_reducible apply Kept.ite | with_reducible apply KeptOut.ite
      | with_reducible apply KeptOut.next | with_reducible exact KeptOut.fault | with_reducible exact KeptOut.refused
      | dsimp -zeta only | split)

theorem execCertReceive_kept {κ : Fixed} {s : State} (port : Nat) (chain : List Byte) (hk : Kept κ s) :
    KeptOut κ (execCertReceive port chain s) := by
  unfold execCertReceive
  repeat' (first
      | with_reducible assumption | with_reducible apply State.certAt_kept | with_reducible apply State.done_kept
      | with_reducible apply State.onLink_kept | with_reducible apply Kept.ite | with_reducible apply KeptOut.ite
      | with_reducible apply KeptOut.next | with_reducible exact KeptOut.fault | with_reducible exact KeptOut.refused
      | dsimp -zeta only | split)

theorem execProofReceive_kept {κ : Fixed} {s : State} (port : Nat) (sig : List Byte) (hk : Kept κ s) :
    KeptOut κ (execProofReceive port sig s) := by
  unfold execProofReceive
  repeat' (first
      | with_reducible assumption | with_reducible apply State.proofAt_kept | with_reducible apply State.done_kept
      | with_reducible apply State.onLink_kept | with_reducible apply Kept.ite | with_reducible apply KeptOut.ite
      | with_reducible apply KeptOut.next | with_reducible exact KeptOut.fault | with_reducible exact KeptOut.refused
      | dsimp -zeta only | split)

theorem execFinishReceive_kept {κ : Fixed} {s : State} (port : Nat) (mac : List Byte) (hk : Kept κ s) :
    KeptOut κ (execFinishReceive port mac s) := by
  unfold execFinishReceive
  repeat' (first
      | with_reducible assumption | with_reducible apply State.finishAt_kept | with_reducible apply State.done_kept
      | with_reducible apply State.onLink_kept | with_reducible apply Kept.ite | with_reducible apply KeptOut.ite
      | with_reducible apply KeptOut.next | with_reducible exact KeptOut.fault | with_reducible exact KeptOut.refused
      | dsimp -zeta only | split)

theorem execHelloTimeout_kept {κ : Fixed} {s : State} (port : Nat) (hk : Kept κ s) :
    KeptOut κ (execHelloTimeout port s) := by
  unfold execHelloTimeout
  repeat' (first
      | with_reducible assumption | with_reducible apply State.helloTimeout_kept | with_reducible apply State.done_kept
      | with_reducible apply State.onLink_kept | with_reducible apply Kept.ite | with_reducible apply KeptOut.ite
      | with_reducible apply KeptOut.next | with_reducible exact KeptOut.fault | with_reducible exact KeptOut.refused
      | dsimp -zeta only | split)

theorem execRekeyStart_kept {κ : Fixed} {s : State} (port : Nat) (random : List Byte) (epub : List Byte) (hk : Kept κ s) :
    KeptOut κ (execRekeyStart port random epub s) := by
  unfold execRekeyStart
  repeat' (first
      | with_reducible assumption | with_reducible apply State.rekeyExpiry_kept | with_reducible apply State.done_kept
      | with_reducible apply State.onLink_kept | with_reducible apply Kept.ite | with_reducible apply KeptOut.ite
      | with_reducible apply KeptOut.next | with_reducible exact KeptOut.fault | with_reducible exact KeptOut.refused
      | dsimp -zeta only | split)

theorem execRekeyReceive_kept {κ : Fixed} {s : State} (port : Nat) (random : List Byte) (epub : List Byte) (hk : Kept κ s) :
    KeptOut κ (execRekeyReceive port random epub s) := by
  unfold execRekeyReceive
  repeat' (first
      | with_reducible assumption | with_reducible apply State.rekeyAt_kept | with_reducible apply State.done_kept
      | with_reducible apply State.onLink_kept | with_reducible apply Kept.ite | with_reducible apply KeptOut.ite
      | with_reducible apply KeptOut.next | with_reducible exact KeptOut.fault | with_reducible exact KeptOut.refused
      | dsimp -zeta only | split)

theorem execOldKeyPhaseExpiry_kept {κ : Fixed} {s : State} (port : Nat) (hk : Kept κ s) :
    KeptOut κ (execOldKeyPhaseExpiry port s) := by
  unfold execOldKeyPhaseExpiry
  repeat' (first
      | with_reducible assumption | with_reducible apply State.oldKeyEnd_kept | with_reducible apply State.onLink_kept
      | with_reducible apply Kept.ite | with_reducible apply KeptOut.ite | with_reducible apply KeptOut.next
      | with_reducible exact KeptOut.fault | with_reducible exact KeptOut.refused | dsimp -zeta only | split)

theorem execHoldDownExpiry_kept {κ : Fixed} {s : State} (port : Nat) (hk : Kept κ s) :
    KeptOut κ (execHoldDownExpiry port s) := by
  unfold execHoldDownExpiry
  repeat' (first
      | with_reducible assumption | with_reducible apply State.holdEnd_kept | with_reducible apply State.onLink_kept
      | with_reducible apply Kept.ite | with_reducible apply KeptOut.ite | with_reducible apply KeptOut.next
      | with_reducible exact KeptOut.fault | with_reducible exact KeptOut.refused | dsimp -zeta only | split)

theorem execUpHoldElapsed_kept {κ : Fixed} {s : State} (port : Nat) (hk : Kept κ s) :
    KeptOut κ (execUpHoldElapsed port s) := by
  unfold execUpHoldElapsed
  repeat' (first
      | with_reducible assumption | with_reducible apply State.upHold_kept | with_reducible apply State.onLink_kept
      | with_reducible apply Kept.ite | with_reducible apply KeptOut.ite | with_reducible apply KeptOut.next
      | with_reducible exact KeptOut.fault | with_reducible exact KeptOut.refused | dsimp -zeta only | split)

theorem execLaneDegrade_kept {κ : Fixed} {s : State} (port : Nat) (lane : Nat) (hk : Kept κ s) :
    KeptOut κ (execLaneDegrade port lane s) := by
  unfold execLaneDegrade
  repeat' (first
      | with_reducible assumption | with_reducible apply State.laneLost_kept | with_reducible apply State.done_kept
      | with_reducible apply whenUnit_kept | with_reducible apply Kept.ite | with_reducible apply KeptOut.ite
      | with_reducible apply KeptOut.next | with_reducible exact KeptOut.fault | with_reducible exact KeptOut.refused
      | dsimp -zeta only | split)

theorem execLinkLockLoss_kept {κ : Fixed} {s : State} (port : Nat) (lane : Nat) (hk : Kept κ s) :
    KeptOut κ (execLinkLockLoss port lane s) := by
  unfold execLinkLockLoss
  repeat' (first
      | with_reducible assumption | with_reducible apply State.laneLost_kept | with_reducible apply State.done_kept
      | with_reducible apply whenUnit_kept | with_reducible apply Kept.ite | with_reducible apply KeptOut.ite
      | with_reducible apply KeptOut.next | with_reducible exact KeptOut.fault | with_reducible exact KeptOut.refused
      | dsimp -zeta only | split)

theorem execWidthChangeDone_kept {κ : Fixed} {s : State} (port : Nat) (hk : Kept κ s) :
    KeptOut κ (execWidthChangeDone port s) := by
  unfold execWidthChangeDone
  repeat' (first
      | with_reducible assumption | with_reducible apply State.widthDone_kept | with_reducible apply State.done_kept
      | with_reducible apply State.onLink_kept | with_reducible apply Kept.ite | with_reducible apply KeptOut.ite
      | with_reducible apply KeptOut.next | with_reducible exact KeptOut.fault | with_reducible exact KeptOut.refused
      | dsimp -zeta only | split)

theorem execNoteReceive_kept {κ : Fixed} {s : State} (port : Nat) (n : Note) (hk : Kept κ s) :
    KeptOut κ (execNoteReceive port n s) := by
  unfold execNoteReceive
  repeat' (first
      | with_reducible assumption | with_reducible apply State.noteAt322_kept | with_reducible apply State.done_kept
      | with_reducible apply State.onLink_kept | with_reducible apply Kept.ite | with_reducible apply KeptOut.ite
      | with_reducible apply KeptOut.next | with_reducible exact KeptOut.fault | with_reducible exact KeptOut.refused
      | dsimp -zeta only | split)

theorem execNoteOriginate_kept {κ : Fixed} {s : State} (hk : Kept κ s) :
    KeptOut κ (execNoteOriginate s) := by
  unfold execNoteOriginate
  repeat' (first
      | with_reducible assumption | with_reducible apply State.originate322_kept | with_reducible apply State.done_kept
      | with_reducible apply Kept.ite | with_reducible apply KeptOut.ite | with_reducible apply KeptOut.next
      | with_reducible exact KeptOut.fault | with_reducible exact KeptOut.refused | dsimp -zeta only | split)

theorem execNoteExpiry_kept {κ : Fixed} {s : State} (origin : Nat) (hk : Kept κ s) :
    KeptOut κ (execNoteExpiry origin s) := by
  unfold execNoteExpiry
  repeat' (first
      | with_reducible assumption | with_reducible apply State.noteExpiry_kept | with_reducible apply whenUnit_kept
      | with_reducible apply Kept.ite | with_reducible apply KeptOut.ite | with_reducible apply KeptOut.next
      | with_reducible exact KeptOut.fault | with_reducible exact KeptOut.refused | dsimp -zeta only | split)

theorem execEngineRouteRecompute_kept {κ : Fixed} {s : State} (hk : Kept κ s) :
    KeptOut κ (execEngineRouteRecompute s) := by
  unfold execEngineRouteRecompute
  repeat' (first
      | with_reducible assumption | with_reducible apply State.routeRecompute_kept | with_reducible apply Kept.ite
      | with_reducible apply KeptOut.ite | with_reducible apply KeptOut.next | with_reducible exact KeptOut.fault
      | with_reducible exact KeptOut.refused | dsimp -zeta only | split)

theorem execDeadTimeExpiry_kept {κ : Fixed} {s : State} (port : Nat) (hk : Kept κ s) :
    KeptOut κ (execDeadTimeExpiry port s) := by
  unfold execDeadTimeExpiry
  repeat' (first
      | with_reducible assumption | with_reducible apply State.deadTime_kept | with_reducible apply State.done_kept
      | with_reducible apply State.onLink_kept | with_reducible apply Kept.ite | with_reducible apply KeptOut.ite
      | with_reducible apply KeptOut.next | with_reducible exact KeptOut.fault | with_reducible exact KeptOut.refused
      | dsimp -zeta only | split)

theorem execStallTimeExpiry_kept {κ : Fixed} {s : State} (port : Nat) (hk : Kept κ s) :
    KeptOut κ (execStallTimeExpiry port s) := by
  unfold execStallTimeExpiry
  repeat' (first
      | with_reducible assumption | with_reducible apply State.stallTime_kept | with_reducible apply State.done_kept
      | with_reducible apply State.onLink_kept | with_reducible apply Kept.ite | with_reducible apply KeptOut.ite
      | with_reducible apply KeptOut.next | with_reducible exact KeptOut.fault | with_reducible exact KeptOut.refused
      | dsimp -zeta only | split)

theorem execQuarantineRelease_kept {κ : Fixed} {s : State} (r : DictReq) (hk : Kept κ s) :
    KeptOut κ (execQuarantineRelease r s) := by
  unfold execQuarantineRelease
  repeat' (first
      | with_reducible assumption | with_reducible apply State.dictServe_kept | with_reducible apply State.done_kept
      | with_reducible apply Kept.ite | with_reducible apply KeptOut.ite | with_reducible apply KeptOut.next
      | with_reducible exact KeptOut.fault | with_reducible exact KeptOut.refused | dsimp -zeta only | split)

theorem execRetrainFull_kept {κ : Fixed} {s : State} (r : DictReq) (hk : Kept κ s) :
    KeptOut κ (execRetrainFull r s) := by
  unfold execRetrainFull
  repeat' (first
      | with_reducible assumption | with_reducible apply State.dictServe_kept | with_reducible apply State.done_kept
      | with_reducible apply Kept.ite | with_reducible apply KeptOut.ite | with_reducible apply KeptOut.next
      | with_reducible exact KeptOut.fault | with_reducible exact KeptOut.refused | dsimp -zeta only | split)

theorem execRetrainKeyUpdate_kept {κ : Fixed} {s : State} (r : DictReq) (hk : Kept κ s) :
    KeptOut κ (execRetrainKeyUpdate r s) := by
  unfold execRetrainKeyUpdate
  repeat' (first
      | with_reducible assumption | with_reducible apply State.dictServe_kept | with_reducible apply State.done_kept
      | with_reducible apply Kept.ite | with_reducible apply KeptOut.ite | with_reducible apply KeptOut.next
      | with_reducible exact KeptOut.fault | with_reducible exact KeptOut.refused | dsimp -zeta only | split)

theorem execRelayEnable_kept {κ : Fixed} {s : State} (r : DictReq) (hk : Kept κ s) :
    KeptOut κ (execRelayEnable r s) := by
  unfold execRelayEnable
  repeat' (first
      | with_reducible assumption | with_reducible apply State.dictServe_kept | with_reducible apply State.done_kept
      | with_reducible apply Kept.ite | with_reducible apply KeptOut.ite | with_reducible apply KeptOut.next
      | with_reducible exact KeptOut.fault | with_reducible exact KeptOut.refused | dsimp -zeta only | split)

theorem execRelayDisable_kept {κ : Fixed} {s : State} (r : DictReq) (hk : Kept κ s) :
    KeptOut κ (execRelayDisable r s) := by
  unfold execRelayDisable
  repeat' (first
      | with_reducible assumption | with_reducible apply State.dictServe_kept | with_reducible apply State.done_kept
      | with_reducible apply Kept.ite | with_reducible apply KeptOut.ite | with_reducible apply KeptOut.next
      | with_reducible exact KeptOut.fault | with_reducible exact KeptOut.refused | dsimp -zeta only | split)

theorem execFlapDoublingReset_kept {κ : Fixed} {s : State} (port : Nat) (hk : Kept κ s) :
    KeptOut κ (execFlapDoublingReset port s) := by
  unfold execFlapDoublingReset
  repeat' (first
      | with_reducible assumption | with_reducible apply State.flapReset_kept | with_reducible apply State.onLink_kept
      | with_reducible apply Kept.ite | with_reducible apply KeptOut.ite | with_reducible apply KeptOut.next
      | with_reducible exact KeptOut.fault | with_reducible exact KeptOut.refused | dsimp -zeta only | split)

theorem execTimeFrameSend_kept {κ : Fixed} {s : State} (port : Nat) (hk : Kept κ s) :
    KeptOut κ (execTimeFrameSend port s) := by
  unfold execTimeFrameSend
  repeat' (first
      | with_reducible assumption | with_reducible apply State.timeSend_kept | with_reducible apply State.done_kept
      | with_reducible apply State.onLink_kept | with_reducible apply Kept.ite | with_reducible apply KeptOut.ite
      | with_reducible apply KeptOut.next | with_reducible exact KeptOut.fault | with_reducible exact KeptOut.refused
      | dsimp -zeta only | split)

theorem execTimeFrameReceive_kept {κ : Fixed} {s : State} (port : Nat) (t : TimeBody) (hk : Kept κ s) :
    KeptOut κ (execTimeFrameReceive port t s) := by
  unfold execTimeFrameReceive
  repeat' (first
      | with_reducible assumption | with_reducible apply State.timeFrame_kept | with_reducible apply State.onLink_kept
      | with_reducible apply Kept.ite | with_reducible apply KeptOut.ite | with_reducible apply KeptOut.next
      | with_reducible exact KeptOut.fault | with_reducible exact KeptOut.refused | dsimp -zeta only | split)

end Sys2Proof.Machine
end

