-- ==== Sys2Proof/Laws/KeptDictCmds.lean ====
section
/-! SUPPORT. Every operation of Machine/DictCmds.lean keeps the build, the queue and the canonical form. -/

namespace Sys2Proof.Machine

set_option linter.all false

theorem State.served_kept {κ : Fixed} {s : State} (r : DictReq) (hk : Kept κ s) :
    Kept κ (State.served s r) := by
  unfold State.served
  repeat' (first
      | with_reducible assumption | with_reducible apply State.dictServe_kept | with_reducible apply State.done_kept
      | with_reducible apply Kept.ite | dsimp -zeta only | split)

theorem execDictRequestReceive_kept {κ : Fixed} {s : State} (r : DictReq) (hk : Kept κ s) :
    KeptOut κ (execDictRequestReceive r s) := by
  unfold execDictRequestReceive
  repeat' (first
      | with_reducible assumption | with_reducible apply State.served_kept | with_reducible apply Kept.ite
      | with_reducible apply KeptOut.ite | with_reducible apply KeptOut.next | with_reducible exact KeptOut.fault
      | with_reducible exact KeptOut.refused | dsimp -zeta only | split)

theorem execDictSegmentTimeout_kept {κ : Fixed} {s : State} (f : Nat) (who : Requester) (tag : Nat) (hk : Kept κ s) :
    KeptOut κ (execDictSegmentTimeout f who tag s) := by
  unfold execDictSegmentTimeout
  repeat' (first
      | with_reducible assumption | with_reducible apply State.dictSegmentEnd_kept | with_reducible apply State.onField_kept
      | with_reducible apply Kept.ite | with_reducible apply KeptOut.ite | with_reducible apply KeptOut.next
      | with_reducible exact KeptOut.fault | with_reducible exact KeptOut.refused | dsimp -zeta only | split)

theorem State.replyRecv_kept {κ : Fixed} {s : State} (r : DictRsp) (hk : Kept κ s) :
    Kept κ (State.replyRecv s r) := by
  unfold State.replyRecv
  repeat' (first
      | with_reducible assumption | with_reducible apply State.takeSig_kept | with_reducible apply State.atSig_kept
      | with_reducible apply State.dictReply_kept | with_reducible apply State.done_kept | with_reducible apply State.after_kept
      | with_reducible apply Kept.ite | (intro _ _ _) | (intro _ _) | (intro _)
      | (extract_lets +onlyGivenNames x
         first
         | (refine Kept.cut (k := κ) (s := x) ?_ ?_; subst x; rotate_left; intro hx; clear_value x; revert x; intro _ _)
         | (clear_value x; revert x; intro _))
      | dsimp -zeta only | split)

theorem execDictRspReceive_kept {κ : Fixed} {s : State} (r : DictRsp) (hk : Kept κ s) :
    KeptOut κ (execDictRspReceive r s) := by
  unfold execDictRspReceive
  repeat' (first
      | with_reducible assumption | with_reducible apply State.onCell_kept | with_reducible apply State.replyRecv_kept
      | with_reducible apply Kept.ite | with_reducible apply KeptOut.ite | with_reducible apply KeptOut.next
      | with_reducible exact KeptOut.fault | with_reducible exact KeptOut.refused | dsimp -zeta only | split)

theorem execStatusClear_kept {κ : Fixed} {s : State} (r : DictReq) (hk : Kept κ s) :
    KeptOut κ (execStatusClear r s) := by
  unfold execStatusClear
  repeat' (first
      | with_reducible assumption | with_reducible apply State.served_kept | with_reducible apply Kept.ite
      | with_reducible apply KeptOut.ite | with_reducible apply KeptOut.next | with_reducible exact KeptOut.fault
      | with_reducible exact KeptOut.refused | dsimp -zeta only | split)

theorem execIntEnableWrite_kept {κ : Fixed} {s : State} (r : DictReq) (hk : Kept κ s) :
    KeptOut κ (execIntEnableWrite r s) := by
  unfold execIntEnableWrite
  repeat' (first
      | with_reducible assumption | with_reducible apply State.served_kept | with_reducible apply Kept.ite
      | with_reducible apply KeptOut.ite | with_reducible apply KeptOut.next | with_reducible exact KeptOut.fault
      | with_reducible exact KeptOut.refused | dsimp -zeta only | split)

theorem execFenceWrite_kept {κ : Fixed} {s : State} (r : DictReq) (hk : Kept κ s) :
    KeptOut κ (execFenceWrite r s) := by
  unfold execFenceWrite
  repeat' (first
      | with_reducible assumption | with_reducible apply State.served_kept | with_reducible apply Kept.ite
      | with_reducible apply KeptOut.ite | with_reducible apply KeptOut.next | with_reducible exact KeptOut.fault
      | with_reducible exact KeptOut.refused | dsimp -zeta only | split)

theorem execLinkFenceRelease_kept {κ : Fixed} {s : State} (r : DictReq) (hk : Kept κ s) :
    KeptOut κ (execLinkFenceRelease r s) := by
  unfold execLinkFenceRelease
  repeat' (first
      | with_reducible assumption | with_reducible apply State.served_kept | with_reducible apply Kept.ite
      | with_reducible apply KeptOut.ite | with_reducible apply KeptOut.next | with_reducible exact KeptOut.fault
      | with_reducible exact KeptOut.refused | dsimp -zeta only | split)

theorem execRaiseSuspect_kept {κ : Fixed} {s : State} (r : DictReq) (hk : Kept κ s) :
    KeptOut κ (execRaiseSuspect r s) := by
  unfold execRaiseSuspect
  repeat' (first
      | with_reducible assumption | with_reducible apply State.served_kept | with_reducible apply Kept.ite
      | with_reducible apply KeptOut.ite | with_reducible apply KeptOut.next | with_reducible exact KeptOut.fault
      | with_reducible exact KeptOut.refused | dsimp -zeta only | split)

theorem execDrain_kept {κ : Fixed} {s : State} (r : DictReq) (hk : Kept κ s) :
    KeptOut κ (execDrain r s) := by
  unfold execDrain
  repeat' (first
      | with_reducible assumption | with_reducible apply State.served_kept | with_reducible apply Kept.ite
      | with_reducible apply KeptOut.ite | with_reducible apply KeptOut.next | with_reducible exact KeptOut.fault
      | with_reducible exact KeptOut.refused | dsimp -zeta only | split)

theorem execDrainStepAdvance_kept {κ : Fixed} {s : State} (hk : Kept κ s) :
    KeptOut κ (execDrainStepAdvance s) := by
  unfold execDrainStepAdvance
  repeat' (first
      | with_reducible assumption | with_reducible apply State.drainAdvance_kept | with_reducible apply State.done_kept
      | with_reducible apply Kept.ite | with_reducible apply KeptOut.ite | with_reducible apply KeptOut.next
      | with_reducible exact KeptOut.fault | with_reducible exact KeptOut.refused | dsimp -zeta only | split)

theorem execDrainLimitExpiry_kept {κ : Fixed} {s : State} (hk : Kept κ s) :
    KeptOut κ (execDrainLimitExpiry s) := by
  unfold execDrainLimitExpiry
  repeat' (first
      | with_reducible assumption | with_reducible apply State.drainLimitEnd_kept | with_reducible apply State.done_kept
      | with_reducible apply Kept.ite | with_reducible apply KeptOut.ite | with_reducible apply KeptOut.next
      | with_reducible exact KeptOut.fault | with_reducible exact KeptOut.refused | dsimp -zeta only | split)

theorem execFaultInjectArm_kept {κ : Fixed} {s : State} (r : DictReq) (hk : Kept κ s) :
    KeptOut κ (execFaultInjectArm r s) := by
  unfold execFaultInjectArm
  repeat' (first
      | with_reducible assumption | with_reducible apply State.served_kept | with_reducible apply Kept.ite
      | with_reducible apply KeptOut.ite | with_reducible apply KeptOut.next | with_reducible exact KeptOut.fault
      | with_reducible exact KeptOut.refused | dsimp -zeta only | split)

theorem execCommit_kept {κ : Fixed} {s : State} (r : DictReq) (hk : Kept κ s) :
    KeptOut κ (execCommit r s) := by
  unfold execCommit
  repeat' (first
      | with_reducible assumption | with_reducible apply State.served_kept | with_reducible apply Kept.ite
      | with_reducible apply KeptOut.ite | with_reducible apply KeptOut.next | with_reducible exact KeptOut.fault
      | with_reducible exact KeptOut.refused | dsimp -zeta only | split)

theorem execAbandon_kept {κ : Fixed} {s : State} (r : DictReq) (hk : Kept κ s) :
    KeptOut κ (execAbandon r s) := by
  unfold execAbandon
  repeat' (first
      | with_reducible assumption | with_reducible apply State.served_kept | with_reducible apply Kept.ite
      | with_reducible apply KeptOut.ite | with_reducible apply KeptOut.next | with_reducible exact KeptOut.fault
      | with_reducible exact KeptOut.refused | dsimp -zeta only | split)

theorem execCommitPrepareDone_kept {κ : Fixed} {s : State} (hk : Kept κ s) :
    KeptOut κ (execCommitPrepareDone s) := by
  unfold execCommitPrepareDone
  repeat' (first
      | with_reducible assumption | with_reducible apply State.commitPrepare_kept | with_reducible apply State.done_kept
      | with_reducible apply Kept.ite | with_reducible apply KeptOut.ite | with_reducible apply KeptOut.next
      | with_reducible exact KeptOut.fault | with_reducible exact KeptOut.refused | dsimp -zeta only | split)

theorem execCommitApplyDone_kept {κ : Fixed} {s : State} (hk : Kept κ s) :
    KeptOut κ (execCommitApplyDone s) := by
  unfold execCommitApplyDone
  repeat' (first
      | with_reducible assumption | with_reducible apply State.commitApplied_kept | with_reducible apply State.done_kept
      | with_reducible apply Kept.ite | with_reducible apply KeptOut.ite | with_reducible apply KeptOut.next
      | with_reducible exact KeptOut.fault | with_reducible exact KeptOut.refused | dsimp -zeta only | split)

theorem execCommitLimitExpiry_kept {κ : Fixed} {s : State} (lagging : List Nat) (hk : Kept κ s) :
    KeptOut κ (execCommitLimitExpiry lagging s) := by
  unfold execCommitLimitExpiry
  repeat' (first
      | with_reducible assumption | with_reducible apply State.commitLimit_kept | with_reducible apply State.done_kept
      | with_reducible apply Kept.ite | with_reducible apply KeptOut.ite | with_reducible apply KeptOut.next
      | with_reducible exact KeptOut.fault | with_reducible exact KeptOut.refused | dsimp -zeta only | split)

theorem execGroupLeaseExpiry_kept {κ : Fixed} {s : State} (who : Requester) (hk : Kept κ s) :
    KeptOut κ (execGroupLeaseExpiry who s) := by
  unfold execGroupLeaseExpiry
  repeat' (first
      | with_reducible assumption | with_reducible apply State.groupLease_kept | with_reducible apply Kept.ite
      | with_reducible apply KeptOut.ite | with_reducible apply KeptOut.next | with_reducible exact KeptOut.fault
      | with_reducible exact KeptOut.refused | dsimp -zeta only | split)

theorem execMgmtRequest_kept {κ : Fixed} {s : State} (m : MgmtReq) (hk : Kept κ s) :
    KeptOut κ (execMgmtRequest m s) := by
  unfold execMgmtRequest
  repeat' (first
      | with_reducible assumption | with_reducible apply State.mgmtRequest_kept | with_reducible apply State.done_kept
      | with_reducible apply Kept.ite | with_reducible apply KeptOut.ite | with_reducible apply KeptOut.next
      | with_reducible exact KeptOut.fault | with_reducible exact KeptOut.refused | dsimp -zeta only | split)

theorem execMgmtReplyTimeout_kept {κ : Fixed} {s : State} (mtag : Nat) (hk : Kept κ s) :
    KeptOut κ (execMgmtReplyTimeout mtag s) := by
  unfold execMgmtReplyTimeout
  repeat' (first
      | with_reducible assumption | with_reducible apply State.mgmtTimeout_kept | with_reducible apply Kept.ite
      | with_reducible apply KeptOut.ite | with_reducible apply KeptOut.next | with_reducible exact KeptOut.fault
      | with_reducible exact KeptOut.refused | dsimp -zeta only | split)

theorem execMctpControlRequest_kept {κ : Fixed} {s : State} (m : MctpControl) (hk : Kept κ s) :
    KeptOut κ (execMctpControlRequest m s) := by
  unfold execMctpControlRequest
  repeat' (first
      | with_reducible assumption | with_reducible apply State.mctpControl_kept | with_reducible apply Kept.ite
      | with_reducible apply KeptOut.ite | with_reducible apply KeptOut.next | with_reducible exact KeptOut.fault
      | with_reducible exact KeptOut.refused | dsimp -zeta only | split)

theorem execDynamicAddressAssignment_kept {κ : Fixed} {s : State} (addr : Nat) (hk : Kept κ s) :
    KeptOut κ (execDynamicAddressAssignment addr s) := by
  unfold execDynamicAddressAssignment
  repeat' (first
      | with_reducible assumption | with_reducible apply State.mgmtAddress_kept | with_reducible apply Kept.ite
      | with_reducible apply KeptOut.ite | with_reducible apply KeptOut.next | with_reducible exact KeptOut.fault
      | with_reducible exact KeptOut.refused | dsimp -zeta only | split)

theorem execDefectMapAdd_kept {κ : Fixed} {s : State} (r : DictReq) (hk : Kept κ s) :
    KeptOut κ (execDefectMapAdd r s) := by
  unfold execDefectMapAdd
  repeat' (first
      | with_reducible assumption | with_reducible apply State.served_kept | with_reducible apply Kept.ite
      | with_reducible apply KeptOut.ite | with_reducible apply KeptOut.next | with_reducible exact KeptOut.fault
      | with_reducible exact KeptOut.refused | dsimp -zeta only | split)

end Sys2Proof.Machine
end

