-- ==== Sys2Proof/Laws/KeptPowerCmds.lean ====
section
/-! SUPPORT. Every operation of Machine/PowerCmds.lean keeps the build, the queue and the canonical form. -/

namespace Sys2Proof.Machine

set_option linter.all false

theorem execFreqWrite_kept {κ : Fixed} {s : State} (r : DictReq) (hk : Kept κ s) :
    KeptOut κ (execFreqWrite r s) := by
  unfold execFreqWrite
  repeat' (first
      | with_reducible assumption | with_reducible apply State.served_kept | with_reducible apply Kept.ite
      | with_reducible apply KeptOut.ite | with_reducible apply KeptOut.next | with_reducible exact KeptOut.fault
      | with_reducible exact KeptOut.refused | dsimp -zeta only | split)

theorem execFreqRelockDone_kept {κ : Fixed} {s : State} (f : Nat) (hk : Kept κ s) :
    KeptOut κ (execFreqRelockDone f s) := by
  unfold execFreqRelockDone
  repeat' (first
      | with_reducible assumption | with_reducible apply State.freqDone_kept | with_reducible apply State.done_kept
      | with_reducible apply State.onField_kept | with_reducible apply Kept.ite | with_reducible apply KeptOut.ite
      | with_reducible apply KeptOut.next | with_reducible exact KeptOut.fault | with_reducible exact KeptOut.refused
      | dsimp -zeta only | split)

theorem execPllUnlock_kept {κ : Fixed} {s : State} (f : Nat) (hk : Kept κ s) :
    KeptOut κ (execPllUnlock f s) := by
  unfold execPllUnlock
  repeat' (first
      | with_reducible assumption | with_reducible apply State.pllLoss_kept | with_reducible apply State.done_kept
      | with_reducible apply State.onField_kept | with_reducible apply Kept.ite | with_reducible apply KeptOut.ite
      | with_reducible apply KeptOut.next | with_reducible exact KeptOut.fault | with_reducible exact KeptOut.refused
      | dsimp -zeta only | split)

theorem execPllRelock_kept {κ : Fixed} {s : State} (f : Nat) (hk : Kept κ s) :
    KeptOut κ (execPllRelock f s) := by
  unfold execPllRelock
  repeat' (first
      | with_reducible assumption | with_reducible apply State.pllBack_kept | with_reducible apply State.done_kept
      | with_reducible apply State.onField_kept | with_reducible apply Kept.ite | with_reducible apply KeptOut.ite
      | with_reducible apply KeptOut.next | with_reducible exact KeptOut.fault | with_reducible exact KeptOut.refused
      | dsimp -zeta only | split)

theorem execPllRelockFail_kept {κ : Fixed} {s : State} (f : Nat) (hk : Kept κ s) :
    KeptOut κ (execPllRelockFail f s) := by
  unfold execPllRelockFail
  repeat' (first
      | with_reducible assumption | with_reducible apply State.pllDead_kept | with_reducible apply State.done_kept
      | with_reducible apply State.onField_kept | with_reducible apply Kept.ite | with_reducible apply KeptOut.ite
      | with_reducible apply KeptOut.next | with_reducible exact KeptOut.fault | with_reducible exact KeptOut.refused
      | dsimp -zeta only | split)

theorem execDroopStretch_kept {κ : Fixed} {s : State} (f : Nat) (n : Nat) (hk : Kept κ s) :
    KeptOut κ (execDroopStretch f n s) := by
  unfold execDroopStretch
  repeat' (first
      | with_reducible assumption | with_reducible apply State.droop_kept | with_reducible apply State.onField_kept
      | with_reducible apply Kept.ite | with_reducible apply KeptOut.ite | with_reducible apply KeptOut.next
      | with_reducible exact KeptOut.fault | with_reducible exact KeptOut.refused | dsimp -zeta only | split)

theorem execBreezeEntry_kept {κ : Fixed} {s : State} (f : Nat) (hk : Kept κ s) :
    KeptOut κ (execBreezeEntry f s) := by
  unfold execBreezeEntry
  repeat' (first
      | with_reducible assumption | with_reducible apply State.breezeEntry_kept | with_reducible apply State.onField_kept
      | with_reducible apply Kept.ite | with_reducible apply KeptOut.ite | with_reducible apply KeptOut.next
      | with_reducible exact KeptOut.fault | with_reducible exact KeptOut.refused | dsimp -zeta only | split)

theorem execLullEntry_kept {κ : Fixed} {s : State} (f : Nat) (hk : Kept κ s) :
    KeptOut κ (execLullEntry f s) := by
  unfold execLullEntry
  repeat' (first
      | with_reducible assumption | with_reducible apply State.lullEntry_kept | with_reducible apply State.onField_kept
      | with_reducible apply Kept.ite | with_reducible apply KeptOut.ite | with_reducible apply KeptOut.next
      | with_reducible exact KeptOut.fault | with_reducible exact KeptOut.refused | dsimp -zeta only | split)

theorem execLullEntryDone_kept {κ : Fixed} {s : State} (f : Nat) (hk : Kept κ s) :
    KeptOut κ (execLullEntryDone f s) := by
  unfold execLullEntryDone
  repeat' (first
      | with_reducible assumption | with_reducible apply State.lullDone_kept | with_reducible apply State.watchCalm_kept
      | with_reducible apply State.onField_kept | with_reducible apply Kept.ite | with_reducible apply KeptOut.ite
      | with_reducible apply KeptOut.next | with_reducible exact KeptOut.fault | with_reducible exact KeptOut.refused
      | dsimp -zeta only | split)

theorem execFieldWake_kept {κ : Fixed} {s : State} (f : Nat) (cause : Nat) (hk : Kept κ s) :
    KeptOut κ (execFieldWake f cause s) := by
  unfold execFieldWake
  repeat' (first
      | with_reducible assumption | with_reducible apply State.fieldWake_kept | with_reducible apply State.onField_kept
      | with_reducible apply Kept.ite | with_reducible apply KeptOut.ite | with_reducible apply KeptOut.next
      | with_reducible exact KeptOut.fault | with_reducible exact KeptOut.refused | dsimp -zeta only | split)

theorem execWakeHoldExpiry_kept {κ : Fixed} {s : State} (f : Nat) (hk : Kept κ s) :
    KeptOut κ (execWakeHoldExpiry f s) := by
  unfold execWakeHoldExpiry
  repeat' (first
      | with_reducible assumption | with_reducible apply State.wakeHoldEnd_kept | with_reducible apply State.onField_kept
      | with_reducible apply Kept.ite | with_reducible apply KeptOut.ite | with_reducible apply KeptOut.next
      | with_reducible exact KeptOut.fault | with_reducible exact KeptOut.refused | dsimp -zeta only | split)

theorem execFieldToleranceWrite_kept {κ : Fixed} {s : State} (r : DictReq) (hk : Kept κ s) :
    KeptOut κ (execFieldToleranceWrite r s) := by
  unfold execFieldToleranceWrite
  repeat' (first
      | with_reducible assumption | with_reducible apply State.served_kept | with_reducible apply Kept.ite
      | with_reducible apply KeptOut.ite | with_reducible apply KeptOut.next | with_reducible exact KeptOut.fault
      | with_reducible exact KeptOut.refused | dsimp -zeta only | split)

theorem execCalmEntry_kept {κ : Fixed} {s : State} (hk : Kept κ s) :
    KeptOut κ (execCalmEntry s) := by
  unfold execCalmEntry
  repeat' (first
      | with_reducible assumption | with_reducible apply State.calmEntry_kept | with_reducible apply State.done_kept
      | with_reducible apply Kept.ite | with_reducible apply KeptOut.ite | with_reducible apply KeptOut.next
      | with_reducible exact KeptOut.fault | with_reducible exact KeptOut.refused | dsimp -zeta only | split)

theorem execStillEntry_kept {κ : Fixed} {s : State} (hk : Kept κ s) :
    KeptOut κ (execStillEntry s) := by
  unfold execStillEntry
  repeat' (first
      | with_reducible assumption | with_reducible apply State.stillEntry_kept | with_reducible apply State.done_kept
      | with_reducible apply Kept.ite | with_reducible apply KeptOut.ite | with_reducible apply KeptOut.next
      | with_reducible exact KeptOut.fault | with_reducible exact KeptOut.refused | dsimp -zeta only | split)

theorem execEngineWake_kept {κ : Fixed} {s : State} (cause : Nat) (hk : Kept κ s) :
    KeptOut κ (execEngineWake cause s) := by
  unfold execEngineWake
  repeat' (first
      | with_reducible assumption | with_reducible apply State.engineWake_kept | with_reducible apply State.done_kept
      | with_reducible apply Kept.ite | with_reducible apply KeptOut.ite | with_reducible apply KeptOut.next
      | with_reducible exact KeptOut.fault | with_reducible exact KeptOut.refused | dsimp -zeta only | split)

theorem execEngineWakeWrite_kept {κ : Fixed} {s : State} (r : DictReq) (hk : Kept κ s) :
    KeptOut κ (execEngineWakeWrite r s) := by
  unfold execEngineWakeWrite
  repeat' (first
      | with_reducible assumption | with_reducible apply State.served_kept | with_reducible apply Kept.ite
      | with_reducible apply KeptOut.ite | with_reducible apply KeptOut.next | with_reducible exact KeptOut.fault
      | with_reducible exact KeptOut.refused | dsimp -zeta only | split)

theorem execEngineToleranceWrite_kept {κ : Fixed} {s : State} (r : DictReq) (hk : Kept κ s) :
    KeptOut κ (execEngineToleranceWrite r s) := by
  unfold execEngineToleranceWrite
  repeat' (first
      | with_reducible assumption | with_reducible apply State.served_kept | with_reducible apply Kept.ite
      | with_reducible apply KeptOut.ite | with_reducible apply KeptOut.next | with_reducible exact KeptOut.fault
      | with_reducible exact KeptOut.refused | dsimp -zeta only | split)

theorem execWakeNFall_kept {κ : Fixed} {s : State} (hk : Kept κ s) :
    KeptOut κ (execWakeNFall s) := by
  unfold execWakeNFall
  repeat' (first
      | with_reducible assumption | with_reducible apply State.causeEngine_kept | with_reducible apply Kept.ite
      | with_reducible apply KeptOut.ite | with_reducible apply KeptOut.next | with_reducible exact KeptOut.fault
      | with_reducible exact KeptOut.refused | dsimp -zeta only | split)

theorem execCalmLinkArrival_kept {κ : Fixed} {s : State} (port : Nat) (i : LinkItem) (hk : Kept κ s) :
    KeptOut κ (execCalmLinkArrival port i s) := by
  unfold execCalmLinkArrival
  repeat' (first
      | with_reducible assumption | with_reducible apply State.calmItem_kept | with_reducible apply State.done_kept
      | with_reducible apply State.onLink_kept | with_reducible apply Kept.ite | with_reducible apply KeptOut.ite
      | with_reducible apply KeptOut.next | with_reducible exact KeptOut.fault | with_reducible exact KeptOut.refused
      | dsimp -zeta only | split)

theorem execFantailWindow_kept {κ : Fixed} {s : State} (f : Nat) (hk : Kept κ s) :
    KeptOut κ (execFantailWindow f s) := by
  unfold execFantailWindow
  repeat' (first
      | with_reducible assumption | with_reducible apply State.fantailWindow_kept | with_reducible apply State.onField_kept
      | with_reducible apply Kept.ite | with_reducible apply KeptOut.ite | with_reducible apply KeptOut.next
      | with_reducible exact KeptOut.fault | with_reducible exact KeptOut.refused | dsimp -zeta only | split)

theorem execFantailShareRecompute_kept {κ : Fixed} {s : State} (hk : Kept κ s) :
    KeptOut κ (execFantailShareRecompute s) := by
  unfold execFantailShareRecompute
  repeat' (first
      | with_reducible assumption | with_reducible apply State.shareRecompute_kept | with_reducible apply Kept.ite
      | with_reducible apply KeptOut.ite | with_reducible apply KeptOut.next | with_reducible exact KeptOut.fault
      | with_reducible exact KeptOut.refused | dsimp -zeta only | split)

theorem execComparatorFire_kept {κ : Fixed} {s : State} (i : Nat) (hk : Kept κ s) :
    KeptOut κ (execComparatorFire i s) := by
  unfold execComparatorFire
  repeat' (first
      | with_reducible assumption | with_reducible apply State.compFire_kept | with_reducible apply State.done_kept
      | with_reducible apply whenUnit_kept | with_reducible apply Kept.ite | with_reducible apply KeptOut.ite
      | with_reducible apply KeptOut.next | with_reducible exact KeptOut.fault | with_reducible exact KeptOut.refused
      | dsimp -zeta only | split)

theorem execComparatorTimeWrite_kept {κ : Fixed} {s : State} (r : DictReq) (hk : Kept κ s) :
    KeptOut κ (execComparatorTimeWrite r s) := by
  unfold execComparatorTimeWrite
  repeat' (first
      | with_reducible assumption | with_reducible apply State.served_kept | with_reducible apply Kept.ite
      | with_reducible apply KeptOut.ite | with_reducible apply KeptOut.next | with_reducible exact KeptOut.fault
      | with_reducible exact KeptOut.refused | dsimp -zeta only | split)

theorem execFtSetWrite_kept {κ : Fixed} {s : State} (r : DictReq) (hk : Kept κ s) :
    KeptOut κ (execFtSetWrite r s) := by
  unfold execFtSetWrite
  repeat' (first
      | with_reducible assumption | with_reducible apply State.served_kept | with_reducible apply Kept.ite
      | with_reducible apply KeptOut.ite | with_reducible apply KeptOut.next | with_reducible exact KeptOut.fault
      | with_reducible exact KeptOut.refused | dsimp -zeta only | split)

theorem execBeaconOriginate_kept {κ : Fixed} {s : State} (hk : Kept κ s) :
    KeptOut κ (execBeaconOriginate s) := by
  unfold execBeaconOriginate
  repeat' (first
      | with_reducible assumption | with_reducible apply State.beaconOut_kept | with_reducible apply Kept.ite
      | with_reducible apply KeptOut.ite | with_reducible apply KeptOut.next | with_reducible exact KeptOut.fault
      | with_reducible exact KeptOut.refused | dsimp -zeta only | split)

theorem execBeaconReceive_kept {κ : Fixed} {s : State} (f : Nat) (b : Beacon) (hk : Kept κ s) :
    KeptOut κ (execBeaconReceive f b s) := by
  unfold execBeaconReceive
  repeat' (first
      | with_reducible assumption | with_reducible apply State.beaconAt_kept | with_reducible apply State.onField_kept
      | with_reducible apply Kept.ite | with_reducible apply KeptOut.ite | with_reducible apply KeptOut.next
      | with_reducible exact KeptOut.fault | with_reducible exact KeptOut.refused | dsimp -zeta only | split)

end Sys2Proof.Machine
end

