-- ==== Sys2Proof/Laws/KeptObsCmds.lean ====
section
/-! SUPPORT. Every operation of Machine/ObsCmds.lean keeps the build, the queue and the canonical form. -/

namespace Sys2Proof.Machine

set_option linter.all false

theorem execFreezeAllRings_kept {κ : Fixed} {s : State} (r : DictReq) (hk : Kept κ s) :
    KeptOut κ (execFreezeAllRings r s) := by
  unfold execFreezeAllRings
  repeat' (first
      | with_reducible assumption | with_reducible apply State.served_kept | with_reducible apply Kept.ite
      | with_reducible apply KeptOut.ite | with_reducible apply KeptOut.next | with_reducible exact KeptOut.fault
      | with_reducible exact KeptOut.refused | dsimp -zeta only | split)

theorem execUnfreezeAllRings_kept {κ : Fixed} {s : State} (r : DictReq) (hk : Kept κ s) :
    KeptOut κ (execUnfreezeAllRings r s) := by
  unfold execUnfreezeAllRings
  repeat' (first
      | with_reducible assumption | with_reducible apply State.served_kept | with_reducible apply Kept.ite
      | with_reducible apply KeptOut.ite | with_reducible apply KeptOut.next | with_reducible exact KeptOut.fault
      | with_reducible exact KeptOut.refused | dsimp -zeta only | split)

theorem execEventRingFrozenWrite_kept {κ : Fixed} {s : State} (r : DictReq) (hk : Kept κ s) :
    KeptOut κ (execEventRingFrozenWrite r s) := by
  unfold execEventRingFrozenWrite
  repeat' (first
      | with_reducible assumption | with_reducible apply State.served_kept | with_reducible apply Kept.ite
      | with_reducible apply KeptOut.ite | with_reducible apply KeptOut.next | with_reducible exact KeptOut.fault
      | with_reducible exact KeptOut.refused | dsimp -zeta only | split)

theorem execCounterSelectWrite_kept {κ : Fixed} {s : State} (r : DictReq) (hk : Kept κ s) :
    KeptOut κ (execCounterSelectWrite r s) := by
  unfold execCounterSelectWrite
  repeat' (first
      | with_reducible assumption | with_reducible apply State.served_kept | with_reducible apply Kept.ite | (intro _ _ _)
      | (intro _ _) | (intro _) | with_reducible apply KeptOut.ite | with_reducible apply KeptOut.next
      | with_reducible exact KeptOut.fault | with_reducible exact KeptOut.refused | dsimp -zeta only | split)

theorem execProbeActionWrite_kept {κ : Fixed} {s : State} (r : DictReq) (hk : Kept κ s) :
    KeptOut κ (execProbeActionWrite r s) := by
  unfold execProbeActionWrite
  repeat' (first
      | with_reducible assumption | with_reducible apply State.served_kept | with_reducible apply Kept.ite
      | with_reducible apply KeptOut.ite | with_reducible apply KeptOut.next | with_reducible exact KeptOut.fault
      | with_reducible exact KeptOut.refused | dsimp -zeta only | split)

theorem execTraceInput_kept {κ : Fixed} {s : State} (c : Coord) (core : Nat) (data : List Byte) (hk : Kept κ s) :
    KeptOut κ (execTraceInput c core data s) := by
  unfold execTraceInput
  repeat' (first
      | with_reducible assumption | with_reducible apply State.traceInput_kept | with_reducible apply State.onCore_kept
      | with_reducible apply Kept.ite | with_reducible apply KeptOut.ite | with_reducible apply KeptOut.next
      | with_reducible exact KeptOut.fault | with_reducible exact KeptOut.refused | dsimp -zeta only | split)

theorem State.chunkSend_kept {κ : Fixed} {s : State} (c : Coord) (source : Nat) (hk : Kept κ s) :
    Kept κ (State.chunkSend s c source) := by
  unfold State.chunkSend
  repeat' (first
      | with_reducible assumption | with_reducible apply State.traceSend_kept | with_reducible apply State.done_kept
      | with_reducible apply Kept.ite | dsimp -zeta only | split)

theorem execTraceChunkSend_kept {κ : Fixed} {s : State} (c : Coord) (source : Nat) (hk : Kept κ s) :
    KeptOut κ (execTraceChunkSend c source s) := by
  unfold execTraceChunkSend
  repeat' (first
      | with_reducible assumption | with_reducible apply State.onCell_kept | with_reducible apply State.chunkSend_kept
      | with_reducible apply Kept.ite | with_reducible apply KeptOut.ite | with_reducible apply KeptOut.next
      | with_reducible exact KeptOut.fault | with_reducible exact KeptOut.refused | dsimp -zeta only | split)

theorem execSweepSample_kept {κ : Fixed} {s : State} (c : Coord) (hk : Kept κ s) :
    KeptOut κ (execSweepSample c s) := by
  unfold execSweepSample
  repeat' (first
      | with_reducible assumption | with_reducible apply State.sweepSample_kept | with_reducible apply State.done_kept
      | with_reducible apply State.onCell_kept | with_reducible apply Kept.ite | with_reducible apply KeptOut.ite
      | with_reducible apply KeptOut.next | with_reducible exact KeptOut.fault | with_reducible exact KeptOut.refused
      | dsimp -zeta only | split)

theorem execSweepEnableWrite_kept {κ : Fixed} {s : State} (r : DictReq) (hk : Kept κ s) :
    KeptOut κ (execSweepEnableWrite r s) := by
  unfold execSweepEnableWrite
  repeat' (first
      | with_reducible assumption | with_reducible apply State.served_kept | with_reducible apply Kept.ite
      | with_reducible apply KeptOut.ite | with_reducible apply KeptOut.next | with_reducible exact KeptOut.fault
      | with_reducible exact KeptOut.refused | dsimp -zeta only | split)

theorem execBreakpoint_kept {κ : Fixed} {s : State} (c : Coord) (core : Nat) (hk : Kept κ s) :
    KeptOut κ (execBreakpoint c core s) := by
  unfold execBreakpoint
  repeat' (first
      | with_reducible assumption | with_reducible apply State.breakAt_kept | with_reducible apply State.onCore_kept
      | with_reducible apply Kept.ite | with_reducible apply KeptOut.ite | with_reducible apply KeptOut.next
      | with_reducible exact KeptOut.fault | with_reducible exact KeptOut.refused | dsimp -zeta only | split)

theorem execHaltStateWrite_kept {κ : Fixed} {s : State} (r : DictReq) (hk : Kept κ s) :
    KeptOut κ (execHaltStateWrite r s) := by
  unfold execHaltStateWrite
  repeat' (first
      | with_reducible assumption | with_reducible apply State.served_kept | with_reducible apply Kept.ite
      | with_reducible apply KeptOut.ite | with_reducible apply KeptOut.next | with_reducible exact KeptOut.fault
      | with_reducible exact KeptOut.refused | dsimp -zeta only | split)

theorem execHaltReceive_kept {κ : Fixed} {s : State} (c : Coord) (h : Halt) (hk : Kept κ s) :
    KeptOut κ (execHaltReceive c h s) := by
  unfold execHaltReceive
  repeat' (first
      | with_reducible assumption | with_reducible apply State.haltAt_kept | with_reducible apply State.onCell_kept
      | with_reducible apply Kept.ite | with_reducible apply KeptOut.ite | with_reducible apply KeptOut.next
      | with_reducible exact KeptOut.fault | with_reducible exact KeptOut.refused | dsimp -zeta only | split)

end Sys2Proof.Machine
end

