-- ==== Sys2Proof/Laws/KeptBootCmds.lean ====
section
/-! SUPPORT. Every operation of Machine/BootCmds.lean keeps the build, the queue and the canonical form. -/

namespace Sys2Proof.Machine

set_option linter.all false

theorem execColdBringup_kept {κ : Fixed} {s : State} (hk : Kept κ s) :
    KeptOut κ (execColdBringup s) := by
  unfold execColdBringup
  repeat' (first
      | with_reducible assumption | with_reducible apply State.coldStart_kept | with_reducible apply Kept.ite
      | with_reducible apply KeptOut.ite | with_reducible apply KeptOut.next | with_reducible exact KeptOut.fault
      | with_reducible exact KeptOut.refused | dsimp -zeta only | split)

theorem execRestart_kept {κ : Fixed} {s : State} (r : DictReq) (hk : Kept κ s) :
    KeptOut κ (execRestart r s) := by
  unfold execRestart
  repeat' (first
      | with_reducible assumption | with_reducible apply State.served_kept | with_reducible apply Kept.ite
      | with_reducible apply KeptOut.ite | with_reducible apply KeptOut.next | with_reducible exact KeptOut.fault
      | with_reducible exact KeptOut.refused | dsimp -zeta only | split)

theorem execBringupAon_kept {κ : Fixed} {s : State} (refclkOk : Bool) (hk : Kept κ s) :
    KeptOut κ (execBringupAon refclkOk s) := by
  unfold execBringupAon
  repeat' (first
      | with_reducible assumption | with_reducible apply State.bootAon_kept | with_reducible apply Kept.ite
      | with_reducible apply KeptOut.ite | with_reducible apply KeptOut.next | with_reducible exact KeptOut.fault
      | with_reducible exact KeptOut.refused | dsimp -zeta only | split)

theorem execRefclkRetry_kept {κ : Fixed} {s : State} (hk : Kept κ s) :
    KeptOut κ (execRefclkRetry s) := by
  unfold execRefclkRetry
  repeat' (first
      | with_reducible assumption | with_reducible apply State.bootRetry_kept | with_reducible apply Kept.ite
      | with_reducible apply KeptOut.ite | with_reducible apply KeptOut.next | with_reducible exact KeptOut.fault
      | with_reducible exact KeptOut.refused | dsimp -zeta only | split)

theorem execBringupAgents_kept {κ : Fixed} {s : State} (nvOk : Bool) (failed : List Nat) (hk : Kept κ s) :
    KeptOut κ (execBringupAgents nvOk failed s) := by
  unfold execBringupAgents
  repeat' (first
      | with_reducible assumption | with_reducible apply State.bootAgents_kept | with_reducible apply Kept.ite
      | with_reducible apply KeptOut.ite | with_reducible apply KeptOut.next | with_reducible exact KeptOut.fault
      | with_reducible exact KeptOut.refused | dsimp -zeta only | split)

theorem execBringupClocks_kept {κ : Fixed} {s : State} (hk : Kept κ s) :
    KeptOut κ (execBringupClocks s) := by
  unfold execBringupClocks
  repeat' (first
      | with_reducible assumption | with_reducible apply State.bootClocks_kept | with_reducible apply Kept.ite
      | with_reducible apply KeptOut.ite | with_reducible apply KeptOut.next | with_reducible exact KeptOut.fault
      | with_reducible exact KeptOut.refused | dsimp -zeta only | split)

theorem execFieldWaveStart_kept {κ : Fixed} {s : State} (f : Nat) (hk : Kept κ s) :
    KeptOut κ (execFieldWaveStart f s) := by
  unfold execFieldWaveStart
  repeat' (first
      | with_reducible assumption | with_reducible apply State.bootWave_kept | with_reducible apply State.onField_kept
      | with_reducible apply Kept.ite | with_reducible apply KeptOut.ite | with_reducible apply KeptOut.next
      | with_reducible exact KeptOut.fault | with_reducible exact KeptOut.refused | dsimp -zeta only | split)

theorem execBringupHoles_kept {κ : Fixed} {s : State} (hk : Kept κ s) :
    KeptOut κ (execBringupHoles s) := by
  unfold execBringupHoles
  repeat' (first
      | with_reducible assumption | with_reducible apply State.bootHoles_kept | with_reducible apply Kept.ite
      | with_reducible apply KeptOut.ite | with_reducible apply KeptOut.next | with_reducible exact KeptOut.fault
      | with_reducible exact KeptOut.refused | dsimp -zeta only | split)

theorem execBringupSelftest_kept {κ : Fixed} {s : State} (t : SelfTest) (hk : Kept κ s) :
    KeptOut κ (execBringupSelftest t s) := by
  unfold execBringupSelftest
  repeat' (first
      | with_reducible assumption | with_reducible apply State.bootSelftest_kept | with_reducible apply Kept.ite
      | with_reducible apply KeptOut.ite | with_reducible apply KeptOut.next | with_reducible exact KeptOut.fault
      | with_reducible exact KeptOut.refused | dsimp -zeta only | split)

theorem execBringupSignal_kept {κ : Fixed} {s : State} (ok : Bool) (hk : Kept κ s) :
    KeptOut κ (execBringupSignal ok s) := by
  unfold execBringupSignal
  repeat' (first
      | with_reducible assumption | with_reducible apply State.bootSignal_kept | with_reducible apply Kept.ite
      | with_reducible apply KeptOut.ite | with_reducible apply KeptOut.next | with_reducible exact KeptOut.fault
      | with_reducible exact KeptOut.refused | dsimp -zeta only | split)

theorem execBringupImage_kept {κ : Fixed} {s : State} (hk : Kept κ s) :
    KeptOut κ (execBringupImage s) := by
  unfold execBringupImage
  repeat' (first
      | with_reducible assumption | with_reducible apply State.bootImage_kept | with_reducible apply Kept.ite
      | with_reducible apply KeptOut.ite | with_reducible apply KeptOut.next | with_reducible exact KeptOut.fault
      | with_reducible exact KeptOut.refused | dsimp -zeta only | split)

theorem execBringupDrops_kept {κ : Fixed} {s : State} (hk : Kept κ s) :
    KeptOut κ (execBringupDrops s) := by
  unfold execBringupDrops
  repeat' (first
      | with_reducible assumption | with_reducible apply State.bootDrops_kept | with_reducible apply State.done_kept
      | with_reducible apply Kept.ite | with_reducible apply KeptOut.ite | with_reducible apply KeptOut.next
      | with_reducible exact KeptOut.fault | with_reducible exact KeptOut.refused | dsimp -zeta only | split)

theorem execBringupLinks_kept {κ : Fixed} {s : State} (hk : Kept κ s) :
    KeptOut κ (execBringupLinks s) := by
  unfold execBringupLinks
  repeat' (first
      | with_reducible assumption | with_reducible apply State.bootLinks_kept | with_reducible apply State.done_kept
      | with_reducible apply Kept.ite | with_reducible apply KeptOut.ite | with_reducible apply KeptOut.next
      | with_reducible exact KeptOut.fault | with_reducible exact KeptOut.refused | dsimp -zeta only | split)

theorem execBringupDone_kept {κ : Fixed} {s : State} (hk : Kept κ s) :
    KeptOut κ (execBringupDone s) := by
  unfold execBringupDone
  repeat' (first
      | with_reducible assumption | with_reducible apply State.bootDone_kept | with_reducible apply State.done_kept
      | with_reducible apply Kept.ite | with_reducible apply KeptOut.ite | with_reducible apply KeptOut.next
      | with_reducible exact KeptOut.fault | with_reducible exact KeptOut.refused | dsimp -zeta only | split)

theorem execAonPgFall_kept {κ : Fixed} {s : State} (hk : Kept κ s) :
    KeptOut κ (execAonPgFall s) := by
  unfold execAonPgFall
  repeat' (first
      | with_reducible assumption | with_reducible apply State.powerFall_kept | with_reducible apply Kept.ite
      | with_reducible apply KeptOut.ite | with_reducible apply KeptOut.next | with_reducible exact KeptOut.fault
      | with_reducible exact KeptOut.refused | dsimp -zeta only | split)

theorem execFieldPgFall_kept {κ : Fixed} {s : State} (f : Nat) (hk : Kept κ s) :
    KeptOut κ (execFieldPgFall f s) := by
  unfold execFieldPgFall
  repeat' (first
      | with_reducible assumption | with_reducible apply State.pgFall_kept | with_reducible apply State.done_kept
      | with_reducible apply State.onField_kept | with_reducible apply Kept.ite | with_reducible apply KeptOut.ite
      | with_reducible apply KeptOut.next | with_reducible exact KeptOut.fault | with_reducible exact KeptOut.refused
      | dsimp -zeta only | split)

theorem execFieldPgRise_kept {κ : Fixed} {s : State} (f : Nat) (hk : Kept κ s) :
    KeptOut κ (execFieldPgRise f s) := by
  unfold execFieldPgRise
  repeat' (first
      | with_reducible assumption | with_reducible apply State.pgRise_kept | with_reducible apply State.onField_kept
      | with_reducible apply Kept.ite | with_reducible apply KeptOut.ite | with_reducible apply KeptOut.next
      | with_reducible exact KeptOut.fault | with_reducible exact KeptOut.refused | dsimp -zeta only | split)

theorem execFieldPllLock_kept {κ : Fixed} {s : State} (f : Nat) (hk : Kept κ s) :
    KeptOut κ (execFieldPllLock f s) := by
  unfold execFieldPllLock
  repeat' (first
      | with_reducible assumption | with_reducible apply State.bootLock_kept | with_reducible apply State.onField_kept
      | with_reducible apply Kept.ite | with_reducible apply KeptOut.ite | with_reducible apply KeptOut.next
      | with_reducible exact KeptOut.fault | with_reducible exact KeptOut.refused | dsimp -zeta only | split)

theorem execBaseRdyRise_kept {κ : Fixed} {s : State} (st : Nat) (hk : Kept κ s) :
    KeptOut κ (execBaseRdyRise st s) := by
  unfold execBaseRdyRise
  repeat' (first
      | with_reducible assumption | with_reducible apply State.baseReady_kept | with_reducible apply whenUnit_kept
      | with_reducible apply Kept.ite | with_reducible apply KeptOut.ite | with_reducible apply KeptOut.next
      | with_reducible exact KeptOut.fault | with_reducible exact KeptOut.refused | dsimp -zeta only | split)

theorem execCellReset_kept {κ : Fixed} {s : State} (c : Coord) (hk : Kept κ s) :
    KeptOut κ (execCellReset c s) := by
  unfold execCellReset
  repeat' (first
      | with_reducible assumption | with_reducible apply State.cellResetAt_kept | with_reducible apply State.done_kept
      | with_reducible apply State.onCell_kept | with_reducible apply Kept.ite | with_reducible apply KeptOut.ite
      | with_reducible apply KeptOut.next | with_reducible exact KeptOut.fault | with_reducible exact KeptOut.refused
      | dsimp -zeta only | split)

theorem execCellResetRelease_kept {κ : Fixed} {s : State} (c : Coord) (hk : Kept κ s) :
    KeptOut κ (execCellResetRelease c s) := by
  unfold execCellResetRelease
  repeat' (first
      | with_reducible assumption | with_reducible apply State.cellReleaseAt_kept | with_reducible apply State.onCell_kept
      | with_reducible apply Kept.ite | with_reducible apply KeptOut.ite | with_reducible apply KeptOut.next
      | with_reducible exact KeptOut.fault | with_reducible exact KeptOut.refused | dsimp -zeta only | split)

theorem execMemReadAnswer_kept {κ : Fixed} {s : State} (c : Coord) (err : Bool) (hk : Kept κ s) :
    KeptOut κ (execMemReadAnswer c err s) := by
  unfold execMemReadAnswer
  repeat' (first
      | with_reducible assumption | with_reducible apply State.memAnswer_kept | with_reducible apply State.onCell_kept
      | with_reducible apply Kept.ite | with_reducible apply KeptOut.ite | with_reducible apply KeptOut.next
      | with_reducible exact KeptOut.fault | with_reducible exact KeptOut.refused | dsimp -zeta only | split)

theorem execMemWriteAck_kept {κ : Fixed} {s : State} (c : Coord) (hk : Kept κ s) :
    KeptOut κ (execMemWriteAck c s) := by
  unfold execMemWriteAck
  repeat' (first
      | with_reducible assumption | with_reducible apply State.memAck_kept | with_reducible apply State.onCell_kept
      | with_reducible apply Kept.ite | with_reducible apply KeptOut.ite | with_reducible apply KeptOut.next
      | with_reducible exact KeptOut.fault | with_reducible exact KeptOut.refused | dsimp -zeta only | split)

theorem execTestModeRise_kept {κ : Fixed} {s : State} (hk : Kept κ s) :
    KeptOut κ (execTestModeRise s) := by
  unfold execTestModeRise
  repeat' (first
      | with_reducible assumption | with_reducible apply State.testRise_kept | with_reducible apply Kept.ite
      | with_reducible apply KeptOut.ite | with_reducible apply KeptOut.next | with_reducible exact KeptOut.fault
      | with_reducible exact KeptOut.refused | dsimp -zeta only | split)

theorem execTestModeFall_kept {κ : Fixed} {s : State} (hk : Kept κ s) :
    KeptOut κ (execTestModeFall s) := by
  unfold execTestModeFall
  repeat' (first
      | with_reducible assumption | with_reducible apply State.testFall_kept | with_reducible apply Kept.ite
      | with_reducible apply KeptOut.ite | with_reducible apply KeptOut.next | with_reducible exact KeptOut.fault
      | with_reducible exact KeptOut.refused | dsimp -zeta only | split)

theorem execExtest_kept {κ : Fixed} {s : State} (update : List Bool) (hk : Kept κ s) :
    KeptOut κ (execExtest update s) := by
  unfold execExtest
  repeat' (first
      | with_reducible assumption | with_reducible apply State.tapDrive_kept | with_reducible apply Kept.ite
      | with_reducible apply KeptOut.ite | with_reducible apply KeptOut.next | with_reducible exact KeptOut.fault
      | with_reducible exact KeptOut.refused | dsimp -zeta only | split)

theorem execSamplePreload_kept {κ : Fixed} {s : State} (preload : List Bool) (hk : Kept κ s) :
    KeptOut κ (execSamplePreload preload s) := by
  unfold execSamplePreload
  repeat' (first
      | with_reducible assumption | with_reducible apply State.tapSample_kept | with_reducible apply Kept.ite
      | with_reducible apply KeptOut.ite | with_reducible apply KeptOut.next | with_reducible exact KeptOut.fault
      | with_reducible exact KeptOut.refused | dsimp -zeta only | split)

theorem execIdcode_kept {κ : Fixed} {s : State} (hk : Kept κ s) :
    KeptOut κ (execIdcode s) := by
  unfold execIdcode
  repeat' (first
      | with_reducible assumption | with_reducible apply State.tapIdcode_kept | with_reducible apply Kept.ite
      | with_reducible apply KeptOut.ite | with_reducible apply KeptOut.next | with_reducible exact KeptOut.fault
      | with_reducible exact KeptOut.refused | dsimp -zeta only | split)

theorem execExtestPulse_kept {κ : Fixed} {s : State} (update : List Bool) (hk : Kept κ s) :
    KeptOut κ (execExtestPulse update s) := by
  unfold execExtestPulse
  repeat' (first
      | with_reducible assumption | with_reducible apply State.tapDrive_kept | with_reducible apply Kept.ite
      | with_reducible apply KeptOut.ite | with_reducible apply KeptOut.next | with_reducible exact KeptOut.fault
      | with_reducible exact KeptOut.refused | dsimp -zeta only | split)

theorem execExtestTrain_kept {κ : Fixed} {s : State} (update : List Bool) (hk : Kept κ s) :
    KeptOut κ (execExtestTrain update s) := by
  unfold execExtestTrain
  repeat' (first
      | with_reducible assumption | with_reducible apply State.tapDrive_kept | with_reducible apply Kept.ite
      | with_reducible apply KeptOut.ite | with_reducible apply KeptOut.next | with_reducible exact KeptOut.fault
      | with_reducible exact KeptOut.refused | dsimp -zeta only | split)

theorem execBypass_kept {κ : Fixed} {s : State} (hk : Kept κ s) :
    KeptOut κ (execBypass s) := by
  unfold execBypass
  repeat' (first
      | with_reducible assumption | with_reducible apply State.tapBypass_kept | with_reducible apply Kept.ite
      | with_reducible apply KeptOut.ite | with_reducible apply KeptOut.next | with_reducible exact KeptOut.fault
      | with_reducible exact KeptOut.refused | dsimp -zeta only | split)

theorem execTapReset_kept {κ : Fixed} {s : State} (hk : Kept κ s) :
    KeptOut κ (execTapReset s) := by
  unfold execTapReset
  repeat' (first
      | with_reducible assumption | with_reducible apply State.tapReset_kept | with_reducible apply Kept.ite
      | with_reducible apply KeptOut.ite | with_reducible apply KeptOut.next | with_reducible exact KeptOut.fault
      | with_reducible exact KeptOut.refused | dsimp -zeta only | split)

end Sys2Proof.Machine
end

