-- ==== Sys2Proof/Laws/State.lean ====
section
/-! SUPPORT. What each single update of the state leaves in each field: the field it names holds the new value, every other field is as it
was. All hold by definition. -/

namespace Sys2Proof.Machine

/-! ### setReg: store in a register -/

@[simp] theorem State.setReg_build (s : State) (n : Node) (inst idx sub v : Nat) :
    (s.setReg n inst idx sub v).build = s.build := rfl

@[simp] theorem State.setReg_time (s : State) (n : Node) (inst idx sub v : Nat) :
    (s.setReg n inst idx sub v).time = s.time := rfl

@[simp] theorem State.setReg_regs (s : State) (n : Node) (inst idx sub v : Nat) :
    (s.setReg n inst idx sub v).regs = SMap.put (objDefault idx sub) s.regs (regKey n inst idx sub) v := rfl

@[simp] theorem State.setReg_tabs (s : State) (n : Node) (inst idx sub v : Nat) :
    (s.setReg n inst idx sub v).tabs = s.tabs := rfl

@[simp] theorem State.setReg_recs (s : State) (n : Node) (inst idx sub v : Nat) :
    (s.setReg n inst idx sub v).recs = s.recs := rfl

@[simp] theorem State.setReg_strikes (s : State) (n : Node) (inst idx sub v : Nat) :
    (s.setReg n inst idx sub v).strikes = s.strikes := rfl

@[simp] theorem State.setReg_cells (s : State) (n : Node) (inst idx sub v : Nat) :
    (s.setReg n inst idx sub v).cells = s.cells := rfl

@[simp] theorem State.setReg_cellMem (s : State) (n : Node) (inst idx sub v : Nat) :
    (s.setReg n inst idx sub v).cellMem = s.cellMem := rfl

@[simp] theorem State.setReg_fields (s : State) (n : Node) (inst idx sub v : Nat) :
    (s.setReg n inst idx sub v).fields = s.fields := rfl

@[simp] theorem State.setReg_holes (s : State) (n : Node) (inst idx sub v : Nat) :
    (s.setReg n inst idx sub v).holes = s.holes := rfl

@[simp] theorem State.setReg_badTracks (s : State) (n : Node) (inst idx sub v : Nat) :
    (s.setReg n inst idx sub v).badTracks = s.badTracks := rfl

@[simp] theorem State.setReg_badStops (s : State) (n : Node) (inst idx sub v : Nat) :
    (s.setReg n inst idx sub v).badStops = s.badStops := rfl

@[simp] theorem State.setReg_rtrs (s : State) (n : Node) (inst idx sub v : Nat) :
    (s.setReg n inst idx sub v).rtrs = s.rtrs := rfl

@[simp] theorem State.setReg_wires (s : State) (n : Node) (inst idx sub v : Nat) :
    (s.setReg n inst idx sub v).wires = s.wires := rfl

@[simp] theorem State.setReg_sigWires (s : State) (n : Node) (inst idx sub v : Nat) :
    (s.setReg n inst idx sub v).sigWires = s.sigWires := rfl

@[simp] theorem State.setReg_recloses (s : State) (n : Node) (inst idx sub v : Nat) :
    (s.setReg n inst idx sub v).recloses = s.recloses := rfl

@[simp] theorem State.setReg_fences (s : State) (n : Node) (inst idx sub v : Nat) :
    (s.setReg n inst idx sub v).fences = s.fences := rfl

@[simp] theorem State.setReg_bars (s : State) (n : Node) (inst idx sub v : Nat) :
    (s.setReg n inst idx sub v).bars = s.bars := rfl

@[simp] theorem State.setReg_route (s : State) (n : Node) (inst idx sub v : Nat) :
    (s.setReg n inst idx sub v).route = s.route := rfl

@[simp] theorem State.setReg_armed (s : State) (n : Node) (inst idx sub v : Nat) :
    (s.setReg n inst idx sub v).armed = s.armed := rfl

@[simp] theorem State.setReg_colls (s : State) (n : Node) (inst idx sub v : Nat) :
    (s.setReg n inst idx sub v).colls = s.colls := rfl

@[simp] theorem State.setReg_drops (s : State) (n : Node) (inst idx sub v : Nat) :
    (s.setReg n inst idx sub v).drops = s.drops := rfl

@[simp] theorem State.setReg_ports (s : State) (n : Node) (inst idx sub v : Nat) :
    (s.setReg n inst idx sub v).ports = s.ports := rfl

@[simp] theorem State.setReg_linkOut (s : State) (n : Node) (inst idx sub v : Nat) :
    (s.setReg n inst idx sub v).linkOut = s.linkOut := rfl

@[simp] theorem State.setReg_eng (s : State) (n : Node) (inst idx sub v : Nat) :
    (s.setReg n inst idx sub v).eng = s.eng := rfl

@[simp] theorem State.setReg_flight (s : State) (n : Node) (inst idx sub v : Nat) :
    (s.setReg n inst idx sub v).flight = s.flight := rfl

@[simp] theorem State.setReg_sigs (s : State) (n : Node) (inst idx sub v : Nat) :
    (s.setReg n inst idx sub v).sigs = s.sigs := rfl

@[simp] theorem State.setReg_answers (s : State) (n : Node) (inst idx sub v : Nat) :
    (s.setReg n inst idx sub v).answers = s.answers := rfl

@[simp] theorem State.setReg_freeCtr (s : State) (n : Node) (inst idx sub v : Nat) :
    (s.setReg n inst idx sub v).freeCtr = s.freeCtr := rfl

@[simp] theorem State.setReg_pending (s : State) (n : Node) (inst idx sub v : Nat) :
    (s.setReg n inst idx sub v).pending = s.pending := rfl

/-! ### bump: counter step -/

@[simp] theorem State.bump_build (s : State) (n : Node) (inst idx sub k : Nat) :
    (s.bump n inst idx sub k).build = s.build := rfl

@[simp] theorem State.bump_time (s : State) (n : Node) (inst idx sub k : Nat) :
    (s.bump n inst idx sub k).time = s.time := rfl

@[simp] theorem State.bump_regs (s : State) (n : Node) (inst idx sub k : Nat) :
    (s.bump n inst idx sub k).regs = SMap.put (objDefault idx sub) s.regs (regKey n inst idx sub) ((s.reg n inst idx sub + k) % 2 ^ objWidth idx sub) := rfl

@[simp] theorem State.bump_tabs (s : State) (n : Node) (inst idx sub k : Nat) :
    (s.bump n inst idx sub k).tabs = s.tabs := rfl

@[simp] theorem State.bump_recs (s : State) (n : Node) (inst idx sub k : Nat) :
    (s.bump n inst idx sub k).recs = s.recs := rfl

@[simp] theorem State.bump_strikes (s : State) (n : Node) (inst idx sub k : Nat) :
    (s.bump n inst idx sub k).strikes = s.strikes := rfl

@[simp] theorem State.bump_cells (s : State) (n : Node) (inst idx sub k : Nat) :
    (s.bump n inst idx sub k).cells = s.cells := rfl

@[simp] theorem State.bump_cellMem (s : State) (n : Node) (inst idx sub k : Nat) :
    (s.bump n inst idx sub k).cellMem = s.cellMem := rfl

@[simp] theorem State.bump_fields (s : State) (n : Node) (inst idx sub k : Nat) :
    (s.bump n inst idx sub k).fields = s.fields := rfl

@[simp] theorem State.bump_holes (s : State) (n : Node) (inst idx sub k : Nat) :
    (s.bump n inst idx sub k).holes = s.holes := rfl

@[simp] theorem State.bump_badTracks (s : State) (n : Node) (inst idx sub k : Nat) :
    (s.bump n inst idx sub k).badTracks = s.badTracks := rfl

@[simp] theorem State.bump_badStops (s : State) (n : Node) (inst idx sub k : Nat) :
    (s.bump n inst idx sub k).badStops = s.badStops := rfl

@[simp] theorem State.bump_rtrs (s : State) (n : Node) (inst idx sub k : Nat) :
    (s.bump n inst idx sub k).rtrs = s.rtrs := rfl

@[simp] theorem State.bump_wires (s : State) (n : Node) (inst idx sub k : Nat) :
    (s.bump n inst idx sub k).wires = s.wires := rfl

@[simp] theorem State.bump_sigWires (s : State) (n : Node) (inst idx sub k : Nat) :
    (s.bump n inst idx sub k).sigWires = s.sigWires := rfl

@[simp] theorem State.bump_recloses (s : State) (n : Node) (inst idx sub k : Nat) :
    (s.bump n inst idx sub k).recloses = s.recloses := rfl

@[simp] theorem State.bump_fences (s : State) (n : Node) (inst idx sub k : Nat) :
    (s.bump n inst idx sub k).fences = s.fences := rfl

@[simp] theorem State.bump_bars (s : State) (n : Node) (inst idx sub k : Nat) :
    (s.bump n inst idx sub k).bars = s.bars := rfl

@[simp] theorem State.bump_route (s : State) (n : Node) (inst idx sub k : Nat) :
    (s.bump n inst idx sub k).route = s.route := rfl

@[simp] theorem State.bump_armed (s : State) (n : Node) (inst idx sub k : Nat) :
    (s.bump n inst idx sub k).armed = s.armed := rfl

@[simp] theorem State.bump_colls (s : State) (n : Node) (inst idx sub k : Nat) :
    (s.bump n inst idx sub k).colls = s.colls := rfl

@[simp] theorem State.bump_drops (s : State) (n : Node) (inst idx sub k : Nat) :
    (s.bump n inst idx sub k).drops = s.drops := rfl

@[simp] theorem State.bump_ports (s : State) (n : Node) (inst idx sub k : Nat) :
    (s.bump n inst idx sub k).ports = s.ports := rfl

@[simp] theorem State.bump_linkOut (s : State) (n : Node) (inst idx sub k : Nat) :
    (s.bump n inst idx sub k).linkOut = s.linkOut := rfl

@[simp] theorem State.bump_eng (s : State) (n : Node) (inst idx sub k : Nat) :
    (s.bump n inst idx sub k).eng = s.eng := rfl

@[simp] theorem State.bump_flight (s : State) (n : Node) (inst idx sub k : Nat) :
    (s.bump n inst idx sub k).flight = s.flight := rfl

@[simp] theorem State.bump_sigs (s : State) (n : Node) (inst idx sub k : Nat) :
    (s.bump n inst idx sub k).sigs = s.sigs := rfl

@[simp] theorem State.bump_answers (s : State) (n : Node) (inst idx sub k : Nat) :
    (s.bump n inst idx sub k).answers = s.answers := rfl

@[simp] theorem State.bump_freeCtr (s : State) (n : Node) (inst idx sub k : Nat) :
    (s.bump n inst idx sub k).freeCtr = s.freeCtr := rfl

@[simp] theorem State.bump_pending (s : State) (n : Node) (inst idx sub k : Nat) :
    (s.bump n inst idx sub k).pending = s.pending := rfl

/-! ### setTab: store of a table -/

@[simp] theorem State.setTab_build (s : State) (n : Node) (inst idx sub : Nat) (m : Memory) :
    (s.setTab n inst idx sub m).build = s.build := rfl

@[simp] theorem State.setTab_time (s : State) (n : Node) (inst idx sub : Nat) (m : Memory) :
    (s.setTab n inst idx sub m).time = s.time := rfl

@[simp] theorem State.setTab_regs (s : State) (n : Node) (inst idx sub : Nat) (m : Memory) :
    (s.setTab n inst idx sub m).regs = s.regs := rfl

@[simp] theorem State.setTab_tabs (s : State) (n : Node) (inst idx sub : Nat) (m : Memory) :
    (s.setTab n inst idx sub m).tabs = SMap.put [] s.tabs (regKey n inst idx sub) m := rfl

@[simp] theorem State.setTab_recs (s : State) (n : Node) (inst idx sub : Nat) (m : Memory) :
    (s.setTab n inst idx sub m).recs = s.recs := rfl

@[simp] theorem State.setTab_strikes (s : State) (n : Node) (inst idx sub : Nat) (m : Memory) :
    (s.setTab n inst idx sub m).strikes = s.strikes := rfl

@[simp] theorem State.setTab_cells (s : State) (n : Node) (inst idx sub : Nat) (m : Memory) :
    (s.setTab n inst idx sub m).cells = s.cells := rfl

@[simp] theorem State.setTab_cellMem (s : State) (n : Node) (inst idx sub : Nat) (m : Memory) :
    (s.setTab n inst idx sub m).cellMem = s.cellMem := rfl

@[simp] theorem State.setTab_fields (s : State) (n : Node) (inst idx sub : Nat) (m : Memory) :
    (s.setTab n inst idx sub m).fields = s.fields := rfl

@[simp] theorem State.setTab_holes (s : State) (n : Node) (inst idx sub : Nat) (m : Memory) :
    (s.setTab n inst idx sub m).holes = s.holes := rfl

@[simp] theorem State.setTab_badTracks (s : State) (n : Node) (inst idx sub : Nat) (m : Memory) :
    (s.setTab n inst idx sub m).badTracks = s.badTracks := rfl

@[simp] theorem State.setTab_badStops (s : State) (n : Node) (inst idx sub : Nat) (m : Memory) :
    (s.setTab n inst idx sub m).badStops = s.badStops := rfl

@[simp] theorem State.setTab_rtrs (s : State) (n : Node) (inst idx sub : Nat) (m : Memory) :
    (s.setTab n inst idx sub m).rtrs = s.rtrs := rfl

@[simp] theorem State.setTab_wires (s : State) (n : Node) (inst idx sub : Nat) (m : Memory) :
    (s.setTab n inst idx sub m).wires = s.wires := rfl

@[simp] theorem State.setTab_sigWires (s : State) (n : Node) (inst idx sub : Nat) (m : Memory) :
    (s.setTab n inst idx sub m).sigWires = s.sigWires := rfl

@[simp] theorem State.setTab_recloses (s : State) (n : Node) (inst idx sub : Nat) (m : Memory) :
    (s.setTab n inst idx sub m).recloses = s.recloses := rfl

@[simp] theorem State.setTab_fences (s : State) (n : Node) (inst idx sub : Nat) (m : Memory) :
    (s.setTab n inst idx sub m).fences = s.fences := rfl

@[simp] theorem State.setTab_bars (s : State) (n : Node) (inst idx sub : Nat) (m : Memory) :
    (s.setTab n inst idx sub m).bars = s.bars := rfl

@[simp] theorem State.setTab_route (s : State) (n : Node) (inst idx sub : Nat) (m : Memory) :
    (s.setTab n inst idx sub m).route = s.route := rfl

@[simp] theorem State.setTab_armed (s : State) (n : Node) (inst idx sub : Nat) (m : Memory) :
    (s.setTab n inst idx sub m).armed = s.armed := rfl

@[simp] theorem State.setTab_colls (s : State) (n : Node) (inst idx sub : Nat) (m : Memory) :
    (s.setTab n inst idx sub m).colls = s.colls := rfl

@[simp] theorem State.setTab_drops (s : State) (n : Node) (inst idx sub : Nat) (m : Memory) :
    (s.setTab n inst idx sub m).drops = s.drops := rfl

@[simp] theorem State.setTab_ports (s : State) (n : Node) (inst idx sub : Nat) (m : Memory) :
    (s.setTab n inst idx sub m).ports = s.ports := rfl

@[simp] theorem State.setTab_linkOut (s : State) (n : Node) (inst idx sub : Nat) (m : Memory) :
    (s.setTab n inst idx sub m).linkOut = s.linkOut := rfl

@[simp] theorem State.setTab_eng (s : State) (n : Node) (inst idx sub : Nat) (m : Memory) :
    (s.setTab n inst idx sub m).eng = s.eng := rfl

@[simp] theorem State.setTab_flight (s : State) (n : Node) (inst idx sub : Nat) (m : Memory) :
    (s.setTab n inst idx sub m).flight = s.flight := rfl

@[simp] theorem State.setTab_sigs (s : State) (n : Node) (inst idx sub : Nat) (m : Memory) :
    (s.setTab n inst idx sub m).sigs = s.sigs := rfl

@[simp] theorem State.setTab_answers (s : State) (n : Node) (inst idx sub : Nat) (m : Memory) :
    (s.setTab n inst idx sub m).answers = s.answers := rfl

@[simp] theorem State.setTab_freeCtr (s : State) (n : Node) (inst idx sub : Nat) (m : Memory) :
    (s.setTab n inst idx sub m).freeCtr = s.freeCtr := rfl

@[simp] theorem State.setTab_pending (s : State) (n : Node) (inst idx sub : Nat) (m : Memory) :
    (s.setTab n inst idx sub m).pending = s.pending := rfl

/-! ### setRecs: store of a record list -/

@[simp] theorem State.setRecs_build (s : State) (n : Node) (inst idx sub : Nat) (l : List Nat) :
    (s.setRecs n inst idx sub l).build = s.build := rfl

@[simp] theorem State.setRecs_time (s : State) (n : Node) (inst idx sub : Nat) (l : List Nat) :
    (s.setRecs n inst idx sub l).time = s.time := rfl

@[simp] theorem State.setRecs_regs (s : State) (n : Node) (inst idx sub : Nat) (l : List Nat) :
    (s.setRecs n inst idx sub l).regs = s.regs := rfl

@[simp] theorem State.setRecs_tabs (s : State) (n : Node) (inst idx sub : Nat) (l : List Nat) :
    (s.setRecs n inst idx sub l).tabs = s.tabs := rfl

@[simp] theorem State.setRecs_recs (s : State) (n : Node) (inst idx sub : Nat) (l : List Nat) :
    (s.setRecs n inst idx sub l).recs = SMap.put [] s.recs (regKey n inst idx sub) l := rfl

@[simp] theorem State.setRecs_strikes (s : State) (n : Node) (inst idx sub : Nat) (l : List Nat) :
    (s.setRecs n inst idx sub l).strikes = s.strikes := rfl

@[simp] theorem State.setRecs_cells (s : State) (n : Node) (inst idx sub : Nat) (l : List Nat) :
    (s.setRecs n inst idx sub l).cells = s.cells := rfl

@[simp] theorem State.setRecs_cellMem (s : State) (n : Node) (inst idx sub : Nat) (l : List Nat) :
    (s.setRecs n inst idx sub l).cellMem = s.cellMem := rfl

@[simp] theorem State.setRecs_fields (s : State) (n : Node) (inst idx sub : Nat) (l : List Nat) :
    (s.setRecs n inst idx sub l).fields = s.fields := rfl

@[simp] theorem State.setRecs_holes (s : State) (n : Node) (inst idx sub : Nat) (l : List Nat) :
    (s.setRecs n inst idx sub l).holes = s.holes := rfl

@[simp] theorem State.setRecs_badTracks (s : State) (n : Node) (inst idx sub : Nat) (l : List Nat) :
    (s.setRecs n inst idx sub l).badTracks = s.badTracks := rfl

@[simp] theorem State.setRecs_badStops (s : State) (n : Node) (inst idx sub : Nat) (l : List Nat) :
    (s.setRecs n inst idx sub l).badStops = s.badStops := rfl

@[simp] theorem State.setRecs_rtrs (s : State) (n : Node) (inst idx sub : Nat) (l : List Nat) :
    (s.setRecs n inst idx sub l).rtrs = s.rtrs := rfl

@[simp] theorem State.setRecs_wires (s : State) (n : Node) (inst idx sub : Nat) (l : List Nat) :
    (s.setRecs n inst idx sub l).wires = s.wires := rfl

@[simp] theorem State.setRecs_sigWires (s : State) (n : Node) (inst idx sub : Nat) (l : List Nat) :
    (s.setRecs n inst idx sub l).sigWires = s.sigWires := rfl

@[simp] theorem State.setRecs_recloses (s : State) (n : Node) (inst idx sub : Nat) (l : List Nat) :
    (s.setRecs n inst idx sub l).recloses = s.recloses := rfl

@[simp] theorem State.setRecs_fences (s : State) (n : Node) (inst idx sub : Nat) (l : List Nat) :
    (s.setRecs n inst idx sub l).fences = s.fences := rfl

@[simp] theorem State.setRecs_bars (s : State) (n : Node) (inst idx sub : Nat) (l : List Nat) :
    (s.setRecs n inst idx sub l).bars = s.bars := rfl

@[simp] theorem State.setRecs_route (s : State) (n : Node) (inst idx sub : Nat) (l : List Nat) :
    (s.setRecs n inst idx sub l).route = s.route := rfl

@[simp] theorem State.setRecs_armed (s : State) (n : Node) (inst idx sub : Nat) (l : List Nat) :
    (s.setRecs n inst idx sub l).armed = s.armed := rfl

@[simp] theorem State.setRecs_colls (s : State) (n : Node) (inst idx sub : Nat) (l : List Nat) :
    (s.setRecs n inst idx sub l).colls = s.colls := rfl

@[simp] theorem State.setRecs_drops (s : State) (n : Node) (inst idx sub : Nat) (l : List Nat) :
    (s.setRecs n inst idx sub l).drops = s.drops := rfl

@[simp] theorem State.setRecs_ports (s : State) (n : Node) (inst idx sub : Nat) (l : List Nat) :
    (s.setRecs n inst idx sub l).ports = s.ports := rfl

@[simp] theorem State.setRecs_linkOut (s : State) (n : Node) (inst idx sub : Nat) (l : List Nat) :
    (s.setRecs n inst idx sub l).linkOut = s.linkOut := rfl

@[simp] theorem State.setRecs_eng (s : State) (n : Node) (inst idx sub : Nat) (l : List Nat) :
    (s.setRecs n inst idx sub l).eng = s.eng := rfl

@[simp] theorem State.setRecs_flight (s : State) (n : Node) (inst idx sub : Nat) (l : List Nat) :
    (s.setRecs n inst idx sub l).flight = s.flight := rfl

@[simp] theorem State.setRecs_sigs (s : State) (n : Node) (inst idx sub : Nat) (l : List Nat) :
    (s.setRecs n inst idx sub l).sigs = s.sigs := rfl

@[simp] theorem State.setRecs_answers (s : State) (n : Node) (inst idx sub : Nat) (l : List Nat) :
    (s.setRecs n inst idx sub l).answers = s.answers := rfl

@[simp] theorem State.setRecs_freeCtr (s : State) (n : Node) (inst idx sub : Nat) (l : List Nat) :
    (s.setRecs n inst idx sub l).freeCtr = s.freeCtr := rfl

@[simp] theorem State.setRecs_pending (s : State) (n : Node) (inst idx sub : Nat) (l : List Nat) :
    (s.setRecs n inst idx sub l).pending = s.pending := rfl

/-! ### setCell: store of a cell -/

@[simp] theorem State.setCell_build (s : State) (c : Coord) (v : CellSt) :
    (s.setCell c v).build = s.build := rfl

@[simp] theorem State.setCell_time (s : State) (c : Coord) (v : CellSt) :
    (s.setCell c v).time = s.time := rfl

@[simp] theorem State.setCell_regs (s : State) (c : Coord) (v : CellSt) :
    (s.setCell c v).regs = s.regs := rfl

@[simp] theorem State.setCell_tabs (s : State) (c : Coord) (v : CellSt) :
    (s.setCell c v).tabs = s.tabs := rfl

@[simp] theorem State.setCell_recs (s : State) (c : Coord) (v : CellSt) :
    (s.setCell c v).recs = s.recs := rfl

@[simp] theorem State.setCell_strikes (s : State) (c : Coord) (v : CellSt) :
    (s.setCell c v).strikes = s.strikes := rfl

@[simp] theorem State.setCell_cells (s : State) (c : Coord) (v : CellSt) :
    (s.setCell c v).cells = SMap.put CellSt.init s.cells (cellKey c) v := rfl

@[simp] theorem State.setCell_cellMem (s : State) (c : Coord) (v : CellSt) :
    (s.setCell c v).cellMem = s.cellMem := rfl

@[simp] theorem State.setCell_fields (s : State) (c : Coord) (v : CellSt) :
    (s.setCell c v).fields = s.fields := rfl

@[simp] theorem State.setCell_holes (s : State) (c : Coord) (v : CellSt) :
    (s.setCell c v).holes = s.holes := rfl

@[simp] theorem State.setCell_badTracks (s : State) (c : Coord) (v : CellSt) :
    (s.setCell c v).badTracks = s.badTracks := rfl

@[simp] theorem State.setCell_badStops (s : State) (c : Coord) (v : CellSt) :
    (s.setCell c v).badStops = s.badStops := rfl

@[simp] theorem State.setCell_rtrs (s : State) (c : Coord) (v : CellSt) :
    (s.setCell c v).rtrs = s.rtrs := rfl

@[simp] theorem State.setCell_wires (s : State) (c : Coord) (v : CellSt) :
    (s.setCell c v).wires = s.wires := rfl

@[simp] theorem State.setCell_sigWires (s : State) (c : Coord) (v : CellSt) :
    (s.setCell c v).sigWires = s.sigWires := rfl

@[simp] theorem State.setCell_recloses (s : State) (c : Coord) (v : CellSt) :
    (s.setCell c v).recloses = s.recloses := rfl

@[simp] theorem State.setCell_fences (s : State) (c : Coord) (v : CellSt) :
    (s.setCell c v).fences = s.fences := rfl

@[simp] theorem State.setCell_bars (s : State) (c : Coord) (v : CellSt) :
    (s.setCell c v).bars = s.bars := rfl

@[simp] theorem State.setCell_route (s : State) (c : Coord) (v : CellSt) :
    (s.setCell c v).route = s.route := rfl

@[simp] theorem State.setCell_armed (s : State) (c : Coord) (v : CellSt) :
    (s.setCell c v).armed = s.armed := rfl

@[simp] theorem State.setCell_colls (s : State) (c : Coord) (v : CellSt) :
    (s.setCell c v).colls = s.colls := rfl

@[simp] theorem State.setCell_drops (s : State) (c : Coord) (v : CellSt) :
    (s.setCell c v).drops = s.drops := rfl

@[simp] theorem State.setCell_ports (s : State) (c : Coord) (v : CellSt) :
    (s.setCell c v).ports = s.ports := rfl

@[simp] theorem State.setCell_linkOut (s : State) (c : Coord) (v : CellSt) :
    (s.setCell c v).linkOut = s.linkOut := rfl

@[simp] theorem State.setCell_eng (s : State) (c : Coord) (v : CellSt) :
    (s.setCell c v).eng = s.eng := rfl

@[simp] theorem State.setCell_flight (s : State) (c : Coord) (v : CellSt) :
    (s.setCell c v).flight = s.flight := rfl

@[simp] theorem State.setCell_sigs (s : State) (c : Coord) (v : CellSt) :
    (s.setCell c v).sigs = s.sigs := rfl

@[simp] theorem State.setCell_answers (s : State) (c : Coord) (v : CellSt) :
    (s.setCell c v).answers = s.answers := rfl

@[simp] theorem State.setCell_freeCtr (s : State) (c : Coord) (v : CellSt) :
    (s.setCell c v).freeCtr = s.freeCtr := rfl

@[simp] theorem State.setCell_pending (s : State) (c : Coord) (v : CellSt) :
    (s.setCell c v).pending = s.pending := rfl

/-! ### modCell: change of a cell -/

@[simp] theorem State.modCell_build (s : State) (c : Coord) (f : CellSt → CellSt) :
    (s.modCell c f).build = s.build := rfl

@[simp] theorem State.modCell_time (s : State) (c : Coord) (f : CellSt → CellSt) :
    (s.modCell c f).time = s.time := rfl

@[simp] theorem State.modCell_regs (s : State) (c : Coord) (f : CellSt → CellSt) :
    (s.modCell c f).regs = s.regs := rfl

@[simp] theorem State.modCell_tabs (s : State) (c : Coord) (f : CellSt → CellSt) :
    (s.modCell c f).tabs = s.tabs := rfl

@[simp] theorem State.modCell_recs (s : State) (c : Coord) (f : CellSt → CellSt) :
    (s.modCell c f).recs = s.recs := rfl

@[simp] theorem State.modCell_strikes (s : State) (c : Coord) (f : CellSt → CellSt) :
    (s.modCell c f).strikes = s.strikes := rfl

@[simp] theorem State.modCell_cells (s : State) (c : Coord) (f : CellSt → CellSt) :
    (s.modCell c f).cells = SMap.put CellSt.init s.cells (cellKey c) (f (s.cell c)) := rfl

@[simp] theorem State.modCell_cellMem (s : State) (c : Coord) (f : CellSt → CellSt) :
    (s.modCell c f).cellMem = s.cellMem := rfl

@[simp] theorem State.modCell_fields (s : State) (c : Coord) (f : CellSt → CellSt) :
    (s.modCell c f).fields = s.fields := rfl

@[simp] theorem State.modCell_holes (s : State) (c : Coord) (f : CellSt → CellSt) :
    (s.modCell c f).holes = s.holes := rfl

@[simp] theorem State.modCell_badTracks (s : State) (c : Coord) (f : CellSt → CellSt) :
    (s.modCell c f).badTracks = s.badTracks := rfl

@[simp] theorem State.modCell_badStops (s : State) (c : Coord) (f : CellSt → CellSt) :
    (s.modCell c f).badStops = s.badStops := rfl

@[simp] theorem State.modCell_rtrs (s : State) (c : Coord) (f : CellSt → CellSt) :
    (s.modCell c f).rtrs = s.rtrs := rfl

@[simp] theorem State.modCell_wires (s : State) (c : Coord) (f : CellSt → CellSt) :
    (s.modCell c f).wires = s.wires := rfl

@[simp] theorem State.modCell_sigWires (s : State) (c : Coord) (f : CellSt → CellSt) :
    (s.modCell c f).sigWires = s.sigWires := rfl

@[simp] theorem State.modCell_recloses (s : State) (c : Coord) (f : CellSt → CellSt) :
    (s.modCell c f).recloses = s.recloses := rfl

@[simp] theorem State.modCell_fences (s : State) (c : Coord) (f : CellSt → CellSt) :
    (s.modCell c f).fences = s.fences := rfl

@[simp] theorem State.modCell_bars (s : State) (c : Coord) (f : CellSt → CellSt) :
    (s.modCell c f).bars = s.bars := rfl

@[simp] theorem State.modCell_route (s : State) (c : Coord) (f : CellSt → CellSt) :
    (s.modCell c f).route = s.route := rfl

@[simp] theorem State.modCell_armed (s : State) (c : Coord) (f : CellSt → CellSt) :
    (s.modCell c f).armed = s.armed := rfl

@[simp] theorem State.modCell_colls (s : State) (c : Coord) (f : CellSt → CellSt) :
    (s.modCell c f).colls = s.colls := rfl

@[simp] theorem State.modCell_drops (s : State) (c : Coord) (f : CellSt → CellSt) :
    (s.modCell c f).drops = s.drops := rfl

@[simp] theorem State.modCell_ports (s : State) (c : Coord) (f : CellSt → CellSt) :
    (s.modCell c f).ports = s.ports := rfl

@[simp] theorem State.modCell_linkOut (s : State) (c : Coord) (f : CellSt → CellSt) :
    (s.modCell c f).linkOut = s.linkOut := rfl

@[simp] theorem State.modCell_eng (s : State) (c : Coord) (f : CellSt → CellSt) :
    (s.modCell c f).eng = s.eng := rfl

@[simp] theorem State.modCell_flight (s : State) (c : Coord) (f : CellSt → CellSt) :
    (s.modCell c f).flight = s.flight := rfl

@[simp] theorem State.modCell_sigs (s : State) (c : Coord) (f : CellSt → CellSt) :
    (s.modCell c f).sigs = s.sigs := rfl

@[simp] theorem State.modCell_answers (s : State) (c : Coord) (f : CellSt → CellSt) :
    (s.modCell c f).answers = s.answers := rfl

@[simp] theorem State.modCell_freeCtr (s : State) (c : Coord) (f : CellSt → CellSt) :
    (s.modCell c f).freeCtr = s.freeCtr := rfl

@[simp] theorem State.modCell_pending (s : State) (c : Coord) (f : CellSt → CellSt) :
    (s.modCell c f).pending = s.pending := rfl

/-! ### modCore: change of a core -/

@[simp] theorem State.modCore_build (s : State) (c : Coord) (i : Nat) (f : CoreSt → CoreSt) :
    (s.modCore c i f).build = s.build := rfl

@[simp] theorem State.modCore_time (s : State) (c : Coord) (i : Nat) (f : CoreSt → CoreSt) :
    (s.modCore c i f).time = s.time := rfl

@[simp] theorem State.modCore_regs (s : State) (c : Coord) (i : Nat) (f : CoreSt → CoreSt) :
    (s.modCore c i f).regs = s.regs := rfl

@[simp] theorem State.modCore_tabs (s : State) (c : Coord) (i : Nat) (f : CoreSt → CoreSt) :
    (s.modCore c i f).tabs = s.tabs := rfl

@[simp] theorem State.modCore_recs (s : State) (c : Coord) (i : Nat) (f : CoreSt → CoreSt) :
    (s.modCore c i f).recs = s.recs := rfl

@[simp] theorem State.modCore_strikes (s : State) (c : Coord) (i : Nat) (f : CoreSt → CoreSt) :
    (s.modCore c i f).strikes = s.strikes := rfl

@[simp] theorem State.modCore_cells (s : State) (c : Coord) (i : Nat) (f : CoreSt → CoreSt) :
    (s.modCore c i f).cells = SMap.put CellSt.init s.cells (cellKey c) { s.cell c with cores := setAt (s.cell c).cores i (f ((s.cell c).coreSt i)) } := rfl

@[simp] theorem State.modCore_cellMem (s : State) (c : Coord) (i : Nat) (f : CoreSt → CoreSt) :
    (s.modCore c i f).cellMem = s.cellMem := rfl

@[simp] theorem State.modCore_fields (s : State) (c : Coord) (i : Nat) (f : CoreSt → CoreSt) :
    (s.modCore c i f).fields = s.fields := rfl

@[simp] theorem State.modCore_holes (s : State) (c : Coord) (i : Nat) (f : CoreSt → CoreSt) :
    (s.modCore c i f).holes = s.holes := rfl

@[simp] theorem State.modCore_badTracks (s : State) (c : Coord) (i : Nat) (f : CoreSt → CoreSt) :
    (s.modCore c i f).badTracks = s.badTracks := rfl

@[simp] theorem State.modCore_badStops (s : State) (c : Coord) (i : Nat) (f : CoreSt → CoreSt) :
    (s.modCore c i f).badStops = s.badStops := rfl

@[simp] theorem State.modCore_rtrs (s : State) (c : Coord) (i : Nat) (f : CoreSt → CoreSt) :
    (s.modCore c i f).rtrs = s.rtrs := rfl

@[simp] theorem State.modCore_wires (s : State) (c : Coord) (i : Nat) (f : CoreSt → CoreSt) :
    (s.modCore c i f).wires = s.wires := rfl

@[simp] theorem State.modCore_sigWires (s : State) (c : Coord) (i : Nat) (f : CoreSt → CoreSt) :
    (s.modCore c i f).sigWires = s.sigWires := rfl

@[simp] theorem State.modCore_recloses (s : State) (c : Coord) (i : Nat) (f : CoreSt → CoreSt) :
    (s.modCore c i f).recloses = s.recloses := rfl

@[simp] theorem State.modCore_fences (s : State) (c : Coord) (i : Nat) (f : CoreSt → CoreSt) :
    (s.modCore c i f).fences = s.fences := rfl

@[simp] theorem State.modCore_bars (s : State) (c : Coord) (i : Nat) (f : CoreSt → CoreSt) :
    (s.modCore c i f).bars = s.bars := rfl

@[simp] theorem State.modCore_route (s : State) (c : Coord) (i : Nat) (f : CoreSt → CoreSt) :
    (s.modCore c i f).route = s.route := rfl

@[simp] theorem State.modCore_armed (s : State) (c : Coord) (i : Nat) (f : CoreSt → CoreSt) :
    (s.modCore c i f).armed = s.armed := rfl

@[simp] theorem State.modCore_colls (s : State) (c : Coord) (i : Nat) (f : CoreSt → CoreSt) :
    (s.modCore c i f).colls = s.colls := rfl

@[simp] theorem State.modCore_drops (s : State) (c : Coord) (i : Nat) (f : CoreSt → CoreSt) :
    (s.modCore c i f).drops = s.drops := rfl

@[simp] theorem State.modCore_ports (s : State) (c : Coord) (i : Nat) (f : CoreSt → CoreSt) :
    (s.modCore c i f).ports = s.ports := rfl

@[simp] theorem State.modCore_linkOut (s : State) (c : Coord) (i : Nat) (f : CoreSt → CoreSt) :
    (s.modCore c i f).linkOut = s.linkOut := rfl

@[simp] theorem State.modCore_eng (s : State) (c : Coord) (i : Nat) (f : CoreSt → CoreSt) :
    (s.modCore c i f).eng = s.eng := rfl

@[simp] theorem State.modCore_flight (s : State) (c : Coord) (i : Nat) (f : CoreSt → CoreSt) :
    (s.modCore c i f).flight = s.flight := rfl

@[simp] theorem State.modCore_sigs (s : State) (c : Coord) (i : Nat) (f : CoreSt → CoreSt) :
    (s.modCore c i f).sigs = s.sigs := rfl

@[simp] theorem State.modCore_answers (s : State) (c : Coord) (i : Nat) (f : CoreSt → CoreSt) :
    (s.modCore c i f).answers = s.answers := rfl

@[simp] theorem State.modCore_freeCtr (s : State) (c : Coord) (i : Nat) (f : CoreSt → CoreSt) :
    (s.modCore c i f).freeCtr = s.freeCtr := rfl

@[simp] theorem State.modCore_pending (s : State) (c : Coord) (i : Nat) (f : CoreSt → CoreSt) :
    (s.modCore c i f).pending = s.pending := rfl

/-! ### answer: answer to a core -/

@[simp] theorem State.answer_build (s : State) (c : Coord) (core tag value outcome : Nat) :
    (s.answer c core tag value outcome).build = s.build := rfl

@[simp] theorem State.answer_time (s : State) (c : Coord) (core tag value outcome : Nat) :
    (s.answer c core tag value outcome).time = s.time := rfl

@[simp] theorem State.answer_regs (s : State) (c : Coord) (core tag value outcome : Nat) :
    (s.answer c core tag value outcome).regs = s.regs := rfl

@[simp] theorem State.answer_tabs (s : State) (c : Coord) (core tag value outcome : Nat) :
    (s.answer c core tag value outcome).tabs = s.tabs := rfl

@[simp] theorem State.answer_recs (s : State) (c : Coord) (core tag value outcome : Nat) :
    (s.answer c core tag value outcome).recs = s.recs := rfl

@[simp] theorem State.answer_strikes (s : State) (c : Coord) (core tag value outcome : Nat) :
    (s.answer c core tag value outcome).strikes = s.strikes := rfl

@[simp] theorem State.answer_cells (s : State) (c : Coord) (core tag value outcome : Nat) :
    (s.answer c core tag value outcome).cells = s.cells := rfl

@[simp] theorem State.answer_cellMem (s : State) (c : Coord) (core tag value outcome : Nat) :
    (s.answer c core tag value outcome).cellMem = s.cellMem := rfl

@[simp] theorem State.answer_fields (s : State) (c : Coord) (core tag value outcome : Nat) :
    (s.answer c core tag value outcome).fields = s.fields := rfl

@[simp] theorem State.answer_holes (s : State) (c : Coord) (core tag value outcome : Nat) :
    (s.answer c core tag value outcome).holes = s.holes := rfl

@[simp] theorem State.answer_badTracks (s : State) (c : Coord) (core tag value outcome : Nat) :
    (s.answer c core tag value outcome).badTracks = s.badTracks := rfl

@[simp] theorem State.answer_badStops (s : State) (c : Coord) (core tag value outcome : Nat) :
    (s.answer c core tag value outcome).badStops = s.badStops := rfl

@[simp] theorem State.answer_rtrs (s : State) (c : Coord) (core tag value outcome : Nat) :
    (s.answer c core tag value outcome).rtrs = s.rtrs := rfl

@[simp] theorem State.answer_wires (s : State) (c : Coord) (core tag value outcome : Nat) :
    (s.answer c core tag value outcome).wires = s.wires := rfl

@[simp] theorem State.answer_sigWires (s : State) (c : Coord) (core tag value outcome : Nat) :
    (s.answer c core tag value outcome).sigWires = s.sigWires := rfl

@[simp] theorem State.answer_recloses (s : State) (c : Coord) (core tag value outcome : Nat) :
    (s.answer c core tag value outcome).recloses = s.recloses := rfl

@[simp] theorem State.answer_fences (s : State) (c : Coord) (core tag value outcome : Nat) :
    (s.answer c core tag value outcome).fences = s.fences := rfl

@[simp] theorem State.answer_bars (s : State) (c : Coord) (core tag value outcome : Nat) :
    (s.answer c core tag value outcome).bars = s.bars := rfl

@[simp] theorem State.answer_route (s : State) (c : Coord) (core tag value outcome : Nat) :
    (s.answer c core tag value outcome).route = s.route := rfl

@[simp] theorem State.answer_armed (s : State) (c : Coord) (core tag value outcome : Nat) :
    (s.answer c core tag value outcome).armed = s.armed := rfl

@[simp] theorem State.answer_colls (s : State) (c : Coord) (core tag value outcome : Nat) :
    (s.answer c core tag value outcome).colls = s.colls := rfl

@[simp] theorem State.answer_drops (s : State) (c : Coord) (core tag value outcome : Nat) :
    (s.answer c core tag value outcome).drops = s.drops := rfl

@[simp] theorem State.answer_ports (s : State) (c : Coord) (core tag value outcome : Nat) :
    (s.answer c core tag value outcome).ports = s.ports := rfl

@[simp] theorem State.answer_linkOut (s : State) (c : Coord) (core tag value outcome : Nat) :
    (s.answer c core tag value outcome).linkOut = s.linkOut := rfl

@[simp] theorem State.answer_eng (s : State) (c : Coord) (core tag value outcome : Nat) :
    (s.answer c core tag value outcome).eng = s.eng := rfl

@[simp] theorem State.answer_flight (s : State) (c : Coord) (core tag value outcome : Nat) :
    (s.answer c core tag value outcome).flight = s.flight := rfl

@[simp] theorem State.answer_sigs (s : State) (c : Coord) (core tag value outcome : Nat) :
    (s.answer c core tag value outcome).sigs = s.sigs := rfl

@[simp] theorem State.answer_answers (s : State) (c : Coord) (core tag value outcome : Nat) :
    (s.answer c core tag value outcome).answers = s.answers ++ [⟨c, core, tag, value, outcome⟩] := rfl

@[simp] theorem State.answer_freeCtr (s : State) (c : Coord) (core tag value outcome : Nat) :
    (s.answer c core tag value outcome).freeCtr = s.freeCtr := rfl

@[simp] theorem State.answer_pending (s : State) (c : Coord) (core tag value outcome : Nat) :
    (s.answer c core tag value outcome).pending = s.pending := rfl

/-! ### modField: change of a field -/

@[simp] theorem State.modField_build (s : State) (f : Nat) (g : FieldSt → FieldSt) :
    (s.modField f g).build = s.build := rfl

@[simp] theorem State.modField_time (s : State) (f : Nat) (g : FieldSt → FieldSt) :
    (s.modField f g).time = s.time := rfl

@[simp] theorem State.modField_regs (s : State) (f : Nat) (g : FieldSt → FieldSt) :
    (s.modField f g).regs = s.regs := rfl

@[simp] theorem State.modField_tabs (s : State) (f : Nat) (g : FieldSt → FieldSt) :
    (s.modField f g).tabs = s.tabs := rfl

@[simp] theorem State.modField_recs (s : State) (f : Nat) (g : FieldSt → FieldSt) :
    (s.modField f g).recs = s.recs := rfl

@[simp] theorem State.modField_strikes (s : State) (f : Nat) (g : FieldSt → FieldSt) :
    (s.modField f g).strikes = s.strikes := rfl

@[simp] theorem State.modField_cells (s : State) (f : Nat) (g : FieldSt → FieldSt) :
    (s.modField f g).cells = s.cells := rfl

@[simp] theorem State.modField_cellMem (s : State) (f : Nat) (g : FieldSt → FieldSt) :
    (s.modField f g).cellMem = s.cellMem := rfl

@[simp] theorem State.modField_fields (s : State) (f : Nat) (g : FieldSt → FieldSt) :
    (s.modField f g).fields = SMap.put FieldSt.init s.fields f (g (s.field f)) := rfl

@[simp] theorem State.modField_holes (s : State) (f : Nat) (g : FieldSt → FieldSt) :
    (s.modField f g).holes = s.holes := rfl

@[simp] theorem State.modField_badTracks (s : State) (f : Nat) (g : FieldSt → FieldSt) :
    (s.modField f g).badTracks = s.badTracks := rfl

@[simp] theorem State.modField_badStops (s : State) (f : Nat) (g : FieldSt → FieldSt) :
    (s.modField f g).badStops = s.badStops := rfl

@[simp] theorem State.modField_rtrs (s : State) (f : Nat) (g : FieldSt → FieldSt) :
    (s.modField f g).rtrs = s.rtrs := rfl

@[simp] theorem State.modField_wires (s : State) (f : Nat) (g : FieldSt → FieldSt) :
    (s.modField f g).wires = s.wires := rfl

@[simp] theorem State.modField_sigWires (s : State) (f : Nat) (g : FieldSt → FieldSt) :
    (s.modField f g).sigWires = s.sigWires := rfl

@[simp] theorem State.modField_recloses (s : State) (f : Nat) (g : FieldSt → FieldSt) :
    (s.modField f g).recloses = s.recloses := rfl

@[simp] theorem State.modField_fences (s : State) (f : Nat) (g : FieldSt → FieldSt) :
    (s.modField f g).fences = s.fences := rfl

@[simp] theorem State.modField_bars (s : State) (f : Nat) (g : FieldSt → FieldSt) :
    (s.modField f g).bars = s.bars := rfl

@[simp] theorem State.modField_route (s : State) (f : Nat) (g : FieldSt → FieldSt) :
    (s.modField f g).route = s.route := rfl

@[simp] theorem State.modField_armed (s : State) (f : Nat) (g : FieldSt → FieldSt) :
    (s.modField f g).armed = s.armed := rfl

@[simp] theorem State.modField_colls (s : State) (f : Nat) (g : FieldSt → FieldSt) :
    (s.modField f g).colls = s.colls := rfl

@[simp] theorem State.modField_drops (s : State) (f : Nat) (g : FieldSt → FieldSt) :
    (s.modField f g).drops = s.drops := rfl

@[simp] theorem State.modField_ports (s : State) (f : Nat) (g : FieldSt → FieldSt) :
    (s.modField f g).ports = s.ports := rfl

@[simp] theorem State.modField_linkOut (s : State) (f : Nat) (g : FieldSt → FieldSt) :
    (s.modField f g).linkOut = s.linkOut := rfl

@[simp] theorem State.modField_eng (s : State) (f : Nat) (g : FieldSt → FieldSt) :
    (s.modField f g).eng = s.eng := rfl

@[simp] theorem State.modField_flight (s : State) (f : Nat) (g : FieldSt → FieldSt) :
    (s.modField f g).flight = s.flight := rfl

@[simp] theorem State.modField_sigs (s : State) (f : Nat) (g : FieldSt → FieldSt) :
    (s.modField f g).sigs = s.sigs := rfl

@[simp] theorem State.modField_answers (s : State) (f : Nat) (g : FieldSt → FieldSt) :
    (s.modField f g).answers = s.answers := rfl

@[simp] theorem State.modField_freeCtr (s : State) (f : Nat) (g : FieldSt → FieldSt) :
    (s.modField f g).freeCtr = s.freeCtr := rfl

@[simp] theorem State.modField_pending (s : State) (f : Nat) (g : FieldSt → FieldSt) :
    (s.modField f g).pending = s.pending := rfl

/-! ### modPort: change of a link port -/

@[simp] theorem State.modPort_build (s : State) (p : Nat) (f : PortSt → PortSt) :
    (s.modPort p f).build = s.build := rfl

@[simp] theorem State.modPort_time (s : State) (p : Nat) (f : PortSt → PortSt) :
    (s.modPort p f).time = s.time := rfl

@[simp] theorem State.modPort_regs (s : State) (p : Nat) (f : PortSt → PortSt) :
    (s.modPort p f).regs = s.regs := rfl

@[simp] theorem State.modPort_tabs (s : State) (p : Nat) (f : PortSt → PortSt) :
    (s.modPort p f).tabs = s.tabs := rfl

@[simp] theorem State.modPort_recs (s : State) (p : Nat) (f : PortSt → PortSt) :
    (s.modPort p f).recs = s.recs := rfl

@[simp] theorem State.modPort_strikes (s : State) (p : Nat) (f : PortSt → PortSt) :
    (s.modPort p f).strikes = s.strikes := rfl

@[simp] theorem State.modPort_cells (s : State) (p : Nat) (f : PortSt → PortSt) :
    (s.modPort p f).cells = s.cells := rfl

@[simp] theorem State.modPort_cellMem (s : State) (p : Nat) (f : PortSt → PortSt) :
    (s.modPort p f).cellMem = s.cellMem := rfl

@[simp] theorem State.modPort_fields (s : State) (p : Nat) (f : PortSt → PortSt) :
    (s.modPort p f).fields = s.fields := rfl

@[simp] theorem State.modPort_holes (s : State) (p : Nat) (f : PortSt → PortSt) :
    (s.modPort p f).holes = s.holes := rfl

@[simp] theorem State.modPort_badTracks (s : State) (p : Nat) (f : PortSt → PortSt) :
    (s.modPort p f).badTracks = s.badTracks := rfl

@[simp] theorem State.modPort_badStops (s : State) (p : Nat) (f : PortSt → PortSt) :
    (s.modPort p f).badStops = s.badStops := rfl

@[simp] theorem State.modPort_rtrs (s : State) (p : Nat) (f : PortSt → PortSt) :
    (s.modPort p f).rtrs = s.rtrs := rfl

@[simp] theorem State.modPort_wires (s : State) (p : Nat) (f : PortSt → PortSt) :
    (s.modPort p f).wires = s.wires := rfl

@[simp] theorem State.modPort_sigWires (s : State) (p : Nat) (f : PortSt → PortSt) :
    (s.modPort p f).sigWires = s.sigWires := rfl

@[simp] theorem State.modPort_recloses (s : State) (p : Nat) (f : PortSt → PortSt) :
    (s.modPort p f).recloses = s.recloses := rfl

@[simp] theorem State.modPort_fences (s : State) (p : Nat) (f : PortSt → PortSt) :
    (s.modPort p f).fences = s.fences := rfl

@[simp] theorem State.modPort_bars (s : State) (p : Nat) (f : PortSt → PortSt) :
    (s.modPort p f).bars = s.bars := rfl

@[simp] theorem State.modPort_route (s : State) (p : Nat) (f : PortSt → PortSt) :
    (s.modPort p f).route = s.route := rfl

@[simp] theorem State.modPort_armed (s : State) (p : Nat) (f : PortSt → PortSt) :
    (s.modPort p f).armed = s.armed := rfl

@[simp] theorem State.modPort_colls (s : State) (p : Nat) (f : PortSt → PortSt) :
    (s.modPort p f).colls = s.colls := rfl

@[simp] theorem State.modPort_drops (s : State) (p : Nat) (f : PortSt → PortSt) :
    (s.modPort p f).drops = s.drops := rfl

@[simp] theorem State.modPort_ports (s : State) (p : Nat) (f : PortSt → PortSt) :
    (s.modPort p f).ports = SMap.put PortSt.init s.ports p (f (s.port p)) := rfl

@[simp] theorem State.modPort_linkOut (s : State) (p : Nat) (f : PortSt → PortSt) :
    (s.modPort p f).linkOut = s.linkOut := rfl

@[simp] theorem State.modPort_eng (s : State) (p : Nat) (f : PortSt → PortSt) :
    (s.modPort p f).eng = s.eng := rfl

@[simp] theorem State.modPort_flight (s : State) (p : Nat) (f : PortSt → PortSt) :
    (s.modPort p f).flight = s.flight := rfl

@[simp] theorem State.modPort_sigs (s : State) (p : Nat) (f : PortSt → PortSt) :
    (s.modPort p f).sigs = s.sigs := rfl

@[simp] theorem State.modPort_answers (s : State) (p : Nat) (f : PortSt → PortSt) :
    (s.modPort p f).answers = s.answers := rfl

@[simp] theorem State.modPort_freeCtr (s : State) (p : Nat) (f : PortSt → PortSt) :
    (s.modPort p f).freeCtr = s.freeCtr := rfl

@[simp] theorem State.modPort_pending (s : State) (p : Nat) (f : PortSt → PortSt) :
    (s.modPort p f).pending = s.pending := rfl

/-! ### modRtr: change of a router -/

@[simp] theorem State.modRtr_build (s : State) (c : Coord) (f : RtrSt → RtrSt) :
    (s.modRtr c f).build = s.build := rfl

@[simp] theorem State.modRtr_time (s : State) (c : Coord) (f : RtrSt → RtrSt) :
    (s.modRtr c f).time = s.time := rfl

@[simp] theorem State.modRtr_regs (s : State) (c : Coord) (f : RtrSt → RtrSt) :
    (s.modRtr c f).regs = s.regs := rfl

@[simp] theorem State.modRtr_tabs (s : State) (c : Coord) (f : RtrSt → RtrSt) :
    (s.modRtr c f).tabs = s.tabs := rfl

@[simp] theorem State.modRtr_recs (s : State) (c : Coord) (f : RtrSt → RtrSt) :
    (s.modRtr c f).recs = s.recs := rfl

@[simp] theorem State.modRtr_strikes (s : State) (c : Coord) (f : RtrSt → RtrSt) :
    (s.modRtr c f).strikes = s.strikes := rfl

@[simp] theorem State.modRtr_cells (s : State) (c : Coord) (f : RtrSt → RtrSt) :
    (s.modRtr c f).cells = s.cells := rfl

@[simp] theorem State.modRtr_cellMem (s : State) (c : Coord) (f : RtrSt → RtrSt) :
    (s.modRtr c f).cellMem = s.cellMem := rfl

@[simp] theorem State.modRtr_fields (s : State) (c : Coord) (f : RtrSt → RtrSt) :
    (s.modRtr c f).fields = s.fields := rfl

@[simp] theorem State.modRtr_holes (s : State) (c : Coord) (f : RtrSt → RtrSt) :
    (s.modRtr c f).holes = s.holes := rfl

@[simp] theorem State.modRtr_badTracks (s : State) (c : Coord) (f : RtrSt → RtrSt) :
    (s.modRtr c f).badTracks = s.badTracks := rfl

@[simp] theorem State.modRtr_badStops (s : State) (c : Coord) (f : RtrSt → RtrSt) :
    (s.modRtr c f).badStops = s.badStops := rfl

@[simp] theorem State.modRtr_rtrs (s : State) (c : Coord) (f : RtrSt → RtrSt) :
    (s.modRtr c f).rtrs = SMap.put RtrSt.init s.rtrs (cellKey c) (f (s.rtr c)) := rfl

@[simp] theorem State.modRtr_wires (s : State) (c : Coord) (f : RtrSt → RtrSt) :
    (s.modRtr c f).wires = s.wires := rfl

@[simp] theorem State.modRtr_sigWires (s : State) (c : Coord) (f : RtrSt → RtrSt) :
    (s.modRtr c f).sigWires = s.sigWires := rfl

@[simp] theorem State.modRtr_recloses (s : State) (c : Coord) (f : RtrSt → RtrSt) :
    (s.modRtr c f).recloses = s.recloses := rfl

@[simp] theorem State.modRtr_fences (s : State) (c : Coord) (f : RtrSt → RtrSt) :
    (s.modRtr c f).fences = s.fences := rfl

@[simp] theorem State.modRtr_bars (s : State) (c : Coord) (f : RtrSt → RtrSt) :
    (s.modRtr c f).bars = s.bars := rfl

@[simp] theorem State.modRtr_route (s : State) (c : Coord) (f : RtrSt → RtrSt) :
    (s.modRtr c f).route = s.route := rfl

@[simp] theorem State.modRtr_armed (s : State) (c : Coord) (f : RtrSt → RtrSt) :
    (s.modRtr c f).armed = s.armed := rfl

@[simp] theorem State.modRtr_colls (s : State) (c : Coord) (f : RtrSt → RtrSt) :
    (s.modRtr c f).colls = s.colls := rfl

@[simp] theorem State.modRtr_drops (s : State) (c : Coord) (f : RtrSt → RtrSt) :
    (s.modRtr c f).drops = s.drops := rfl

@[simp] theorem State.modRtr_ports (s : State) (c : Coord) (f : RtrSt → RtrSt) :
    (s.modRtr c f).ports = s.ports := rfl

@[simp] theorem State.modRtr_linkOut (s : State) (c : Coord) (f : RtrSt → RtrSt) :
    (s.modRtr c f).linkOut = s.linkOut := rfl

@[simp] theorem State.modRtr_eng (s : State) (c : Coord) (f : RtrSt → RtrSt) :
    (s.modRtr c f).eng = s.eng := rfl

@[simp] theorem State.modRtr_flight (s : State) (c : Coord) (f : RtrSt → RtrSt) :
    (s.modRtr c f).flight = s.flight := rfl

@[simp] theorem State.modRtr_sigs (s : State) (c : Coord) (f : RtrSt → RtrSt) :
    (s.modRtr c f).sigs = s.sigs := rfl

@[simp] theorem State.modRtr_answers (s : State) (c : Coord) (f : RtrSt → RtrSt) :
    (s.modRtr c f).answers = s.answers := rfl

@[simp] theorem State.modRtr_freeCtr (s : State) (c : Coord) (f : RtrSt → RtrSt) :
    (s.modRtr c f).freeCtr = s.freeCtr := rfl

@[simp] theorem State.modRtr_pending (s : State) (c : Coord) (f : RtrSt → RtrSt) :
    (s.modRtr c f).pending = s.pending := rfl

/-! ### modDrop: change of a drop -/

@[simp] theorem State.modDrop_build (s : State) (st d : Nat) (f : DropSt → DropSt) :
    (s.modDrop st d f).build = s.build := rfl

@[simp] theorem State.modDrop_time (s : State) (st d : Nat) (f : DropSt → DropSt) :
    (s.modDrop st d f).time = s.time := rfl

@[simp] theorem State.modDrop_regs (s : State) (st d : Nat) (f : DropSt → DropSt) :
    (s.modDrop st d f).regs = s.regs := rfl

@[simp] theorem State.modDrop_tabs (s : State) (st d : Nat) (f : DropSt → DropSt) :
    (s.modDrop st d f).tabs = s.tabs := rfl

@[simp] theorem State.modDrop_recs (s : State) (st d : Nat) (f : DropSt → DropSt) :
    (s.modDrop st d f).recs = s.recs := rfl

@[simp] theorem State.modDrop_strikes (s : State) (st d : Nat) (f : DropSt → DropSt) :
    (s.modDrop st d f).strikes = s.strikes := rfl

@[simp] theorem State.modDrop_cells (s : State) (st d : Nat) (f : DropSt → DropSt) :
    (s.modDrop st d f).cells = s.cells := rfl

@[simp] theorem State.modDrop_cellMem (s : State) (st d : Nat) (f : DropSt → DropSt) :
    (s.modDrop st d f).cellMem = s.cellMem := rfl

@[simp] theorem State.modDrop_fields (s : State) (st d : Nat) (f : DropSt → DropSt) :
    (s.modDrop st d f).fields = s.fields := rfl

@[simp] theorem State.modDrop_holes (s : State) (st d : Nat) (f : DropSt → DropSt) :
    (s.modDrop st d f).holes = s.holes := rfl

@[simp] theorem State.modDrop_badTracks (s : State) (st d : Nat) (f : DropSt → DropSt) :
    (s.modDrop st d f).badTracks = s.badTracks := rfl

@[simp] theorem State.modDrop_badStops (s : State) (st d : Nat) (f : DropSt → DropSt) :
    (s.modDrop st d f).badStops = s.badStops := rfl

@[simp] theorem State.modDrop_rtrs (s : State) (st d : Nat) (f : DropSt → DropSt) :
    (s.modDrop st d f).rtrs = s.rtrs := rfl

@[simp] theorem State.modDrop_wires (s : State) (st d : Nat) (f : DropSt → DropSt) :
    (s.modDrop st d f).wires = s.wires := rfl

@[simp] theorem State.modDrop_sigWires (s : State) (st d : Nat) (f : DropSt → DropSt) :
    (s.modDrop st d f).sigWires = s.sigWires := rfl

@[simp] theorem State.modDrop_recloses (s : State) (st d : Nat) (f : DropSt → DropSt) :
    (s.modDrop st d f).recloses = s.recloses := rfl

@[simp] theorem State.modDrop_fences (s : State) (st d : Nat) (f : DropSt → DropSt) :
    (s.modDrop st d f).fences = s.fences := rfl

@[simp] theorem State.modDrop_bars (s : State) (st d : Nat) (f : DropSt → DropSt) :
    (s.modDrop st d f).bars = s.bars := rfl

@[simp] theorem State.modDrop_route (s : State) (st d : Nat) (f : DropSt → DropSt) :
    (s.modDrop st d f).route = s.route := rfl

@[simp] theorem State.modDrop_armed (s : State) (st d : Nat) (f : DropSt → DropSt) :
    (s.modDrop st d f).armed = s.armed := rfl

@[simp] theorem State.modDrop_colls (s : State) (st d : Nat) (f : DropSt → DropSt) :
    (s.modDrop st d f).colls = s.colls := rfl

@[simp] theorem State.modDrop_drops (s : State) (st d : Nat) (f : DropSt → DropSt) :
    (s.modDrop st d f).drops = SMap.put DropSt.init s.drops (32 * st + d) (f (s.drop st d)) := rfl

@[simp] theorem State.modDrop_ports (s : State) (st d : Nat) (f : DropSt → DropSt) :
    (s.modDrop st d f).ports = s.ports := rfl

@[simp] theorem State.modDrop_linkOut (s : State) (st d : Nat) (f : DropSt → DropSt) :
    (s.modDrop st d f).linkOut = s.linkOut := rfl

@[simp] theorem State.modDrop_eng (s : State) (st d : Nat) (f : DropSt → DropSt) :
    (s.modDrop st d f).eng = s.eng := rfl

@[simp] theorem State.modDrop_flight (s : State) (st d : Nat) (f : DropSt → DropSt) :
    (s.modDrop st d f).flight = s.flight := rfl

@[simp] theorem State.modDrop_sigs (s : State) (st d : Nat) (f : DropSt → DropSt) :
    (s.modDrop st d f).sigs = s.sigs := rfl

@[simp] theorem State.modDrop_answers (s : State) (st d : Nat) (f : DropSt → DropSt) :
    (s.modDrop st d f).answers = s.answers := rfl

@[simp] theorem State.modDrop_freeCtr (s : State) (st d : Nat) (f : DropSt → DropSt) :
    (s.modDrop st d f).freeCtr = s.freeCtr := rfl

@[simp] theorem State.modDrop_pending (s : State) (st d : Nat) (f : DropSt → DropSt) :
    (s.modDrop st d f).pending = s.pending := rfl

/-! ### modColl: change of a router's slices -/

@[simp] theorem State.modColl_build (s : State) (c : Coord) (f : CollSt → CollSt) :
    (s.modColl c f).build = s.build := rfl

@[simp] theorem State.modColl_time (s : State) (c : Coord) (f : CollSt → CollSt) :
    (s.modColl c f).time = s.time := rfl

@[simp] theorem State.modColl_regs (s : State) (c : Coord) (f : CollSt → CollSt) :
    (s.modColl c f).regs = s.regs := rfl

@[simp] theorem State.modColl_tabs (s : State) (c : Coord) (f : CollSt → CollSt) :
    (s.modColl c f).tabs = s.tabs := rfl

@[simp] theorem State.modColl_recs (s : State) (c : Coord) (f : CollSt → CollSt) :
    (s.modColl c f).recs = s.recs := rfl

@[simp] theorem State.modColl_strikes (s : State) (c : Coord) (f : CollSt → CollSt) :
    (s.modColl c f).strikes = s.strikes := rfl

@[simp] theorem State.modColl_cells (s : State) (c : Coord) (f : CollSt → CollSt) :
    (s.modColl c f).cells = s.cells := rfl

@[simp] theorem State.modColl_cellMem (s : State) (c : Coord) (f : CollSt → CollSt) :
    (s.modColl c f).cellMem = s.cellMem := rfl

@[simp] theorem State.modColl_fields (s : State) (c : Coord) (f : CollSt → CollSt) :
    (s.modColl c f).fields = s.fields := rfl

@[simp] theorem State.modColl_holes (s : State) (c : Coord) (f : CollSt → CollSt) :
    (s.modColl c f).holes = s.holes := rfl

@[simp] theorem State.modColl_badTracks (s : State) (c : Coord) (f : CollSt → CollSt) :
    (s.modColl c f).badTracks = s.badTracks := rfl

@[simp] theorem State.modColl_badStops (s : State) (c : Coord) (f : CollSt → CollSt) :
    (s.modColl c f).badStops = s.badStops := rfl

@[simp] theorem State.modColl_rtrs (s : State) (c : Coord) (f : CollSt → CollSt) :
    (s.modColl c f).rtrs = s.rtrs := rfl

@[simp] theorem State.modColl_wires (s : State) (c : Coord) (f : CollSt → CollSt) :
    (s.modColl c f).wires = s.wires := rfl

@[simp] theorem State.modColl_sigWires (s : State) (c : Coord) (f : CollSt → CollSt) :
    (s.modColl c f).sigWires = s.sigWires := rfl

@[simp] theorem State.modColl_recloses (s : State) (c : Coord) (f : CollSt → CollSt) :
    (s.modColl c f).recloses = s.recloses := rfl

@[simp] theorem State.modColl_fences (s : State) (c : Coord) (f : CollSt → CollSt) :
    (s.modColl c f).fences = s.fences := rfl

@[simp] theorem State.modColl_bars (s : State) (c : Coord) (f : CollSt → CollSt) :
    (s.modColl c f).bars = s.bars := rfl

@[simp] theorem State.modColl_route (s : State) (c : Coord) (f : CollSt → CollSt) :
    (s.modColl c f).route = s.route := rfl

@[simp] theorem State.modColl_armed (s : State) (c : Coord) (f : CollSt → CollSt) :
    (s.modColl c f).armed = s.armed := rfl

@[simp] theorem State.modColl_colls (s : State) (c : Coord) (f : CollSt → CollSt) :
    (s.modColl c f).colls = SMap.put CollSt.init s.colls (cellKey c) (f (s.coll c)) := rfl

@[simp] theorem State.modColl_drops (s : State) (c : Coord) (f : CollSt → CollSt) :
    (s.modColl c f).drops = s.drops := rfl

@[simp] theorem State.modColl_ports (s : State) (c : Coord) (f : CollSt → CollSt) :
    (s.modColl c f).ports = s.ports := rfl

@[simp] theorem State.modColl_linkOut (s : State) (c : Coord) (f : CollSt → CollSt) :
    (s.modColl c f).linkOut = s.linkOut := rfl

@[simp] theorem State.modColl_eng (s : State) (c : Coord) (f : CollSt → CollSt) :
    (s.modColl c f).eng = s.eng := rfl

@[simp] theorem State.modColl_flight (s : State) (c : Coord) (f : CollSt → CollSt) :
    (s.modColl c f).flight = s.flight := rfl

@[simp] theorem State.modColl_sigs (s : State) (c : Coord) (f : CollSt → CollSt) :
    (s.modColl c f).sigs = s.sigs := rfl

@[simp] theorem State.modColl_answers (s : State) (c : Coord) (f : CollSt → CollSt) :
    (s.modColl c f).answers = s.answers := rfl

@[simp] theorem State.modColl_freeCtr (s : State) (c : Coord) (f : CollSt → CollSt) :
    (s.modColl c f).freeCtr = s.freeCtr := rfl

@[simp] theorem State.modColl_pending (s : State) (c : Coord) (f : CollSt → CollSt) :
    (s.modColl c f).pending = s.pending := rfl

/-! ### takeSig: signal taken -/

@[simp] theorem State.takeSig_build (s : State) (sg : Signal) :
    (s.takeSig sg).build = s.build := rfl

@[simp] theorem State.takeSig_time (s : State) (sg : Signal) :
    (s.takeSig sg).time = s.time := rfl

@[simp] theorem State.takeSig_regs (s : State) (sg : Signal) :
    (s.takeSig sg).regs = s.regs := rfl

@[simp] theorem State.takeSig_tabs (s : State) (sg : Signal) :
    (s.takeSig sg).tabs = s.tabs := rfl

@[simp] theorem State.takeSig_recs (s : State) (sg : Signal) :
    (s.takeSig sg).recs = s.recs := rfl

@[simp] theorem State.takeSig_strikes (s : State) (sg : Signal) :
    (s.takeSig sg).strikes = s.strikes := rfl

@[simp] theorem State.takeSig_cells (s : State) (sg : Signal) :
    (s.takeSig sg).cells = s.cells := rfl

@[simp] theorem State.takeSig_cellMem (s : State) (sg : Signal) :
    (s.takeSig sg).cellMem = s.cellMem := rfl

@[simp] theorem State.takeSig_fields (s : State) (sg : Signal) :
    (s.takeSig sg).fields = s.fields := rfl

@[simp] theorem State.takeSig_holes (s : State) (sg : Signal) :
    (s.takeSig sg).holes = s.holes := rfl

@[simp] theorem State.takeSig_badTracks (s : State) (sg : Signal) :
    (s.takeSig sg).badTracks = s.badTracks := rfl

@[simp] theorem State.takeSig_badStops (s : State) (sg : Signal) :
    (s.takeSig sg).badStops = s.badStops := rfl

@[simp] theorem State.takeSig_rtrs (s : State) (sg : Signal) :
    (s.takeSig sg).rtrs = s.rtrs := rfl

@[simp] theorem State.takeSig_wires (s : State) (sg : Signal) :
    (s.takeSig sg).wires = s.wires := rfl

@[simp] theorem State.takeSig_sigWires (s : State) (sg : Signal) :
    (s.takeSig sg).sigWires = s.sigWires := rfl

@[simp] theorem State.takeSig_recloses (s : State) (sg : Signal) :
    (s.takeSig sg).recloses = s.recloses := rfl

@[simp] theorem State.takeSig_fences (s : State) (sg : Signal) :
    (s.takeSig sg).fences = s.fences := rfl

@[simp] theorem State.takeSig_bars (s : State) (sg : Signal) :
    (s.takeSig sg).bars = s.bars := rfl

@[simp] theorem State.takeSig_route (s : State) (sg : Signal) :
    (s.takeSig sg).route = s.route := rfl

@[simp] theorem State.takeSig_armed (s : State) (sg : Signal) :
    (s.takeSig sg).armed = s.armed := rfl

@[simp] theorem State.takeSig_colls (s : State) (sg : Signal) :
    (s.takeSig sg).colls = s.colls := rfl

@[simp] theorem State.takeSig_drops (s : State) (sg : Signal) :
    (s.takeSig sg).drops = s.drops := rfl

@[simp] theorem State.takeSig_ports (s : State) (sg : Signal) :
    (s.takeSig sg).ports = s.ports := rfl

@[simp] theorem State.takeSig_linkOut (s : State) (sg : Signal) :
    (s.takeSig sg).linkOut = s.linkOut := rfl

@[simp] theorem State.takeSig_eng (s : State) (sg : Signal) :
    (s.takeSig sg).eng = s.eng := rfl

@[simp] theorem State.takeSig_flight (s : State) (sg : Signal) :
    (s.takeSig sg).flight = s.flight := rfl

@[simp] theorem State.takeSig_sigs (s : State) (sg : Signal) :
    (s.takeSig sg).sigs = s.sigs.erase sg := rfl

@[simp] theorem State.takeSig_answers (s : State) (sg : Signal) :
    (s.takeSig sg).answers = s.answers := rfl

@[simp] theorem State.takeSig_freeCtr (s : State) (sg : Signal) :
    (s.takeSig sg).freeCtr = s.freeCtr := rfl

@[simp] theorem State.takeSig_pending (s : State) (sg : Signal) :
    (s.takeSig sg).pending = s.pending := rfl

/-! ### takeDue: ejection over -/

@[simp] theorem State.takeDue_build (s : State) (p : Packet) :
    (s.takeDue p).build = s.build := rfl

@[simp] theorem State.takeDue_time (s : State) (p : Packet) :
    (s.takeDue p).time = s.time := rfl

@[simp] theorem State.takeDue_regs (s : State) (p : Packet) :
    (s.takeDue p).regs = s.regs := rfl

@[simp] theorem State.takeDue_tabs (s : State) (p : Packet) :
    (s.takeDue p).tabs = s.tabs := rfl

@[simp] theorem State.takeDue_recs (s : State) (p : Packet) :
    (s.takeDue p).recs = s.recs := rfl

@[simp] theorem State.takeDue_strikes (s : State) (p : Packet) :
    (s.takeDue p).strikes = s.strikes := rfl

@[simp] theorem State.takeDue_cells (s : State) (p : Packet) :
    (s.takeDue p).cells = s.cells := rfl

@[simp] theorem State.takeDue_cellMem (s : State) (p : Packet) :
    (s.takeDue p).cellMem = s.cellMem := rfl

@[simp] theorem State.takeDue_fields (s : State) (p : Packet) :
    (s.takeDue p).fields = s.fields := rfl

@[simp] theorem State.takeDue_holes (s : State) (p : Packet) :
    (s.takeDue p).holes = s.holes := rfl

@[simp] theorem State.takeDue_badTracks (s : State) (p : Packet) :
    (s.takeDue p).badTracks = s.badTracks := rfl

@[simp] theorem State.takeDue_badStops (s : State) (p : Packet) :
    (s.takeDue p).badStops = s.badStops := rfl

@[simp] theorem State.takeDue_rtrs (s : State) (p : Packet) :
    (s.takeDue p).rtrs = SMap.put RtrSt.init s.rtrs (cellKey ⟨p.dest.x, p.dest.y⟩) { s.rtr ⟨p.dest.x, p.dest.y⟩ with due := (s.rtr ⟨p.dest.x, p.dest.y⟩).due.erase (bareHeader p) } := rfl

@[simp] theorem State.takeDue_wires (s : State) (p : Packet) :
    (s.takeDue p).wires = s.wires := rfl

@[simp] theorem State.takeDue_sigWires (s : State) (p : Packet) :
    (s.takeDue p).sigWires = s.sigWires := rfl

@[simp] theorem State.takeDue_recloses (s : State) (p : Packet) :
    (s.takeDue p).recloses = s.recloses := rfl

@[simp] theorem State.takeDue_fences (s : State) (p : Packet) :
    (s.takeDue p).fences = s.fences := rfl

@[simp] theorem State.takeDue_bars (s : State) (p : Packet) :
    (s.takeDue p).bars = s.bars := rfl

@[simp] theorem State.takeDue_route (s : State) (p : Packet) :
    (s.takeDue p).route = s.route := rfl

@[simp] theorem State.takeDue_armed (s : State) (p : Packet) :
    (s.takeDue p).armed = s.armed := rfl

@[simp] theorem State.takeDue_colls (s : State) (p : Packet) :
    (s.takeDue p).colls = s.colls := rfl

@[simp] theorem State.takeDue_drops (s : State) (p : Packet) :
    (s.takeDue p).drops = s.drops := rfl

@[simp] theorem State.takeDue_ports (s : State) (p : Packet) :
    (s.takeDue p).ports = s.ports := rfl

@[simp] theorem State.takeDue_linkOut (s : State) (p : Packet) :
    (s.takeDue p).linkOut = s.linkOut := rfl

@[simp] theorem State.takeDue_eng (s : State) (p : Packet) :
    (s.takeDue p).eng = s.eng := rfl

@[simp] theorem State.takeDue_flight (s : State) (p : Packet) :
    (s.takeDue p).flight = s.flight := rfl

@[simp] theorem State.takeDue_sigs (s : State) (p : Packet) :
    (s.takeDue p).sigs = s.sigs := rfl

@[simp] theorem State.takeDue_answers (s : State) (p : Packet) :
    (s.takeDue p).answers = s.answers := rfl

@[simp] theorem State.takeDue_freeCtr (s : State) (p : Packet) :
    (s.takeDue p).freeCtr = s.freeCtr := rfl

@[simp] theorem State.takeDue_pending (s : State) (p : Packet) :
    (s.takeDue p).pending = s.pending := rfl

/-! ### takePkt: packet taken -/

@[simp] theorem State.takePkt_build (s : State) (p : Packet) :
    (s.takePkt p).build = s.build := rfl

@[simp] theorem State.takePkt_time (s : State) (p : Packet) :
    (s.takePkt p).time = s.time := rfl

@[simp] theorem State.takePkt_regs (s : State) (p : Packet) :
    (s.takePkt p).regs = s.regs := rfl

@[simp] theorem State.takePkt_tabs (s : State) (p : Packet) :
    (s.takePkt p).tabs = s.tabs := rfl

@[simp] theorem State.takePkt_recs (s : State) (p : Packet) :
    (s.takePkt p).recs = s.recs := rfl

@[simp] theorem State.takePkt_strikes (s : State) (p : Packet) :
    (s.takePkt p).strikes = s.strikes := rfl

@[simp] theorem State.takePkt_cells (s : State) (p : Packet) :
    (s.takePkt p).cells = s.cells := rfl

@[simp] theorem State.takePkt_cellMem (s : State) (p : Packet) :
    (s.takePkt p).cellMem = s.cellMem := rfl

@[simp] theorem State.takePkt_fields (s : State) (p : Packet) :
    (s.takePkt p).fields = s.fields := rfl

@[simp] theorem State.takePkt_holes (s : State) (p : Packet) :
    (s.takePkt p).holes = s.holes := rfl

@[simp] theorem State.takePkt_badTracks (s : State) (p : Packet) :
    (s.takePkt p).badTracks = s.badTracks := rfl

@[simp] theorem State.takePkt_badStops (s : State) (p : Packet) :
    (s.takePkt p).badStops = s.badStops := rfl

@[simp] theorem State.takePkt_rtrs (s : State) (p : Packet) :
    (s.takePkt p).rtrs = (s.takeDue p).rtrs := rfl

@[simp] theorem State.takePkt_wires (s : State) (p : Packet) :
    (s.takePkt p).wires = s.wires := rfl

@[simp] theorem State.takePkt_sigWires (s : State) (p : Packet) :
    (s.takePkt p).sigWires = s.sigWires := rfl

@[simp] theorem State.takePkt_recloses (s : State) (p : Packet) :
    (s.takePkt p).recloses = s.recloses := rfl

@[simp] theorem State.takePkt_fences (s : State) (p : Packet) :
    (s.takePkt p).fences = s.fences := rfl

@[simp] theorem State.takePkt_bars (s : State) (p : Packet) :
    (s.takePkt p).bars = s.bars := rfl

@[simp] theorem State.takePkt_route (s : State) (p : Packet) :
    (s.takePkt p).route = s.route := rfl

@[simp] theorem State.takePkt_armed (s : State) (p : Packet) :
    (s.takePkt p).armed = s.armed := rfl

@[simp] theorem State.takePkt_colls (s : State) (p : Packet) :
    (s.takePkt p).colls = s.colls := rfl

@[simp] theorem State.takePkt_drops (s : State) (p : Packet) :
    (s.takePkt p).drops = s.drops := rfl

@[simp] theorem State.takePkt_ports (s : State) (p : Packet) :
    (s.takePkt p).ports = s.ports := rfl

@[simp] theorem State.takePkt_linkOut (s : State) (p : Packet) :
    (s.takePkt p).linkOut = s.linkOut := rfl

@[simp] theorem State.takePkt_eng (s : State) (p : Packet) :
    (s.takePkt p).eng = s.eng := rfl

@[simp] theorem State.takePkt_flight (s : State) (p : Packet) :
    (s.takePkt p).flight = s.flight.erase p := rfl

@[simp] theorem State.takePkt_sigs (s : State) (p : Packet) :
    (s.takePkt p).sigs = s.sigs := rfl

@[simp] theorem State.takePkt_answers (s : State) (p : Packet) :
    (s.takePkt p).answers = s.answers := rfl

@[simp] theorem State.takePkt_freeCtr (s : State) (p : Packet) :
    (s.takePkt p).freeCtr = s.freeCtr := rfl

@[simp] theorem State.takePkt_pending (s : State) (p : Packet) :
    (s.takePkt p).pending = s.pending := rfl

/-! ### modEng: change of the engine -/

@[simp] theorem State.modEng_build (s : State) (f : EngSt → EngSt) :
    (s.modEng f).build = s.build := rfl

@[simp] theorem State.modEng_time (s : State) (f : EngSt → EngSt) :
    (s.modEng f).time = s.time := rfl

@[simp] theorem State.modEng_regs (s : State) (f : EngSt → EngSt) :
    (s.modEng f).regs = s.regs := rfl

@[simp] theorem State.modEng_tabs (s : State) (f : EngSt → EngSt) :
    (s.modEng f).tabs = s.tabs := rfl

@[simp] theorem State.modEng_recs (s : State) (f : EngSt → EngSt) :
    (s.modEng f).recs = s.recs := rfl

@[simp] theorem State.modEng_strikes (s : State) (f : EngSt → EngSt) :
    (s.modEng f).strikes = s.strikes := rfl

@[simp] theorem State.modEng_cells (s : State) (f : EngSt → EngSt) :
    (s.modEng f).cells = s.cells := rfl

@[simp] theorem State.modEng_cellMem (s : State) (f : EngSt → EngSt) :
    (s.modEng f).cellMem = s.cellMem := rfl

@[simp] theorem State.modEng_fields (s : State) (f : EngSt → EngSt) :
    (s.modEng f).fields = s.fields := rfl

@[simp] theorem State.modEng_holes (s : State) (f : EngSt → EngSt) :
    (s.modEng f).holes = s.holes := rfl

@[simp] theorem State.modEng_badTracks (s : State) (f : EngSt → EngSt) :
    (s.modEng f).badTracks = s.badTracks := rfl

@[simp] theorem State.modEng_badStops (s : State) (f : EngSt → EngSt) :
    (s.modEng f).badStops = s.badStops := rfl

@[simp] theorem State.modEng_rtrs (s : State) (f : EngSt → EngSt) :
    (s.modEng f).rtrs = s.rtrs := rfl

@[simp] theorem State.modEng_wires (s : State) (f : EngSt → EngSt) :
    (s.modEng f).wires = s.wires := rfl

@[simp] theorem State.modEng_sigWires (s : State) (f : EngSt → EngSt) :
    (s.modEng f).sigWires = s.sigWires := rfl

@[simp] theorem State.modEng_recloses (s : State) (f : EngSt → EngSt) :
    (s.modEng f).recloses = s.recloses := rfl

@[simp] theorem State.modEng_fences (s : State) (f : EngSt → EngSt) :
    (s.modEng f).fences = s.fences := rfl

@[simp] theorem State.modEng_bars (s : State) (f : EngSt → EngSt) :
    (s.modEng f).bars = s.bars := rfl

@[simp] theorem State.modEng_route (s : State) (f : EngSt → EngSt) :
    (s.modEng f).route = s.route := rfl

@[simp] theorem State.modEng_armed (s : State) (f : EngSt → EngSt) :
    (s.modEng f).armed = s.armed := rfl

@[simp] theorem State.modEng_colls (s : State) (f : EngSt → EngSt) :
    (s.modEng f).colls = s.colls := rfl

@[simp] theorem State.modEng_drops (s : State) (f : EngSt → EngSt) :
    (s.modEng f).drops = s.drops := rfl

@[simp] theorem State.modEng_ports (s : State) (f : EngSt → EngSt) :
    (s.modEng f).ports = s.ports := rfl

@[simp] theorem State.modEng_linkOut (s : State) (f : EngSt → EngSt) :
    (s.modEng f).linkOut = s.linkOut := rfl

@[simp] theorem State.modEng_eng (s : State) (f : EngSt → EngSt) :
    (s.modEng f).eng = f s.eng := rfl

@[simp] theorem State.modEng_flight (s : State) (f : EngSt → EngSt) :
    (s.modEng f).flight = s.flight := rfl

@[simp] theorem State.modEng_sigs (s : State) (f : EngSt → EngSt) :
    (s.modEng f).sigs = s.sigs := rfl

@[simp] theorem State.modEng_answers (s : State) (f : EngSt → EngSt) :
    (s.modEng f).answers = s.answers := rfl

@[simp] theorem State.modEng_freeCtr (s : State) (f : EngSt → EngSt) :
    (s.modEng f).freeCtr = s.freeCtr := rfl

@[simp] theorem State.modEng_pending (s : State) (f : EngSt → EngSt) :
    (s.modEng f).pending = s.pending := rfl

end Sys2Proof.Machine
end

