-- ==== Sys2Proof/Laws/Reads.lean ====
section
/-! SUPPORT. Reading after one update: what an update does not name reads as before; what it names reads the new value, where the state is
in canonical form. -/

namespace Sys2Proof.Machine

@[simp] theorem State.tab_setReg (s : State) (n : Node) (inst idx sub v : Nat) (n0 : Node) (i0 x0 u0 : Nat) :
    (s.setReg n inst idx sub v).tab n0 i0 x0 u0 = s.tab n0 i0 x0 u0 := rfl

@[simp] theorem State.recList_setReg (s : State) (n : Node) (inst idx sub v : Nat) (n0 : Node) (i0 x0 u0 : Nat) :
    (s.setReg n inst idx sub v).recList n0 i0 x0 u0 = s.recList n0 i0 x0 u0 := rfl

@[simp] theorem State.cell_setReg (s : State) (n : Node) (inst idx sub v : Nat) (c0 : Coord) :
    (s.setReg n inst idx sub v).cell c0 = s.cell c0 := rfl

@[simp] theorem State.core_setReg (s : State) (n : Node) (inst idx sub v : Nat) (c0 : Coord) (j0 : Nat) :
    (s.setReg n inst idx sub v).core c0 j0 = s.core c0 j0 := rfl

@[simp] theorem State.mem_setReg (s : State) (n : Node) (inst idx sub v : Nat) (c0 : Coord) :
    (s.setReg n inst idx sub v).mem c0 = s.mem c0 := rfl

@[simp] theorem State.field_setReg (s : State) (n : Node) (inst idx sub v : Nat) (g0 : Nat) :
    (s.setReg n inst idx sub v).field g0 = s.field g0 := rfl

@[simp] theorem State.rtr_setReg (s : State) (n : Node) (inst idx sub v : Nat) (c0 : Coord) :
    (s.setReg n inst idx sub v).rtr c0 = s.rtr c0 := rfl

@[simp] theorem State.drop_setReg (s : State) (n : Node) (inst idx sub v : Nat) (st0 d0 : Nat) :
    (s.setReg n inst idx sub v).drop st0 d0 = s.drop st0 d0 := rfl

@[simp] theorem State.port_setReg (s : State) (n : Node) (inst idx sub v : Nat) (q : Nat) :
    (s.setReg n inst idx sub v).port q = s.port q := rfl

@[simp] theorem State.coll_setReg (s : State) (n : Node) (inst idx sub v : Nat) (c0 : Coord) :
    (s.setReg n inst idx sub v).coll c0 = s.coll c0 := rfl

@[simp] theorem State.tab_bump (s : State) (n : Node) (inst idx sub k : Nat) (n0 : Node) (i0 x0 u0 : Nat) :
    (s.bump n inst idx sub k).tab n0 i0 x0 u0 = s.tab n0 i0 x0 u0 := rfl

@[simp] theorem State.recList_bump (s : State) (n : Node) (inst idx sub k : Nat) (n0 : Node) (i0 x0 u0 : Nat) :
    (s.bump n inst idx sub k).recList n0 i0 x0 u0 = s.recList n0 i0 x0 u0 := rfl

@[simp] theorem State.cell_bump (s : State) (n : Node) (inst idx sub k : Nat) (c0 : Coord) :
    (s.bump n inst idx sub k).cell c0 = s.cell c0 := rfl

@[simp] theorem State.core_bump (s : State) (n : Node) (inst idx sub k : Nat) (c0 : Coord) (j0 : Nat) :
    (s.bump n inst idx sub k).core c0 j0 = s.core c0 j0 := rfl

@[simp] theorem State.mem_bump (s : State) (n : Node) (inst idx sub k : Nat) (c0 : Coord) :
    (s.bump n inst idx sub k).mem c0 = s.mem c0 := rfl

@[simp] theorem State.field_bump (s : State) (n : Node) (inst idx sub k : Nat) (g0 : Nat) :
    (s.bump n inst idx sub k).field g0 = s.field g0 := rfl

@[simp] theorem State.rtr_bump (s : State) (n : Node) (inst idx sub k : Nat) (c0 : Coord) :
    (s.bump n inst idx sub k).rtr c0 = s.rtr c0 := rfl

@[simp] theorem State.drop_bump (s : State) (n : Node) (inst idx sub k : Nat) (st0 d0 : Nat) :
    (s.bump n inst idx sub k).drop st0 d0 = s.drop st0 d0 := rfl

@[simp] theorem State.port_bump (s : State) (n : Node) (inst idx sub k : Nat) (q : Nat) :
    (s.bump n inst idx sub k).port q = s.port q := rfl

@[simp] theorem State.coll_bump (s : State) (n : Node) (inst idx sub k : Nat) (c0 : Coord) :
    (s.bump n inst idx sub k).coll c0 = s.coll c0 := rfl

@[simp] theorem State.reg_setTab (s : State) (n : Node) (inst idx sub : Nat) (m : Memory) (n0 : Node) (i0 x0 u0 : Nat) :
    (s.setTab n inst idx sub m).reg n0 i0 x0 u0 = s.reg n0 i0 x0 u0 := rfl

@[simp] theorem State.recList_setTab (s : State) (n : Node) (inst idx sub : Nat) (m : Memory) (n0 : Node) (i0 x0 u0 : Nat) :
    (s.setTab n inst idx sub m).recList n0 i0 x0 u0 = s.recList n0 i0 x0 u0 := rfl

@[simp] theorem State.cell_setTab (s : State) (n : Node) (inst idx sub : Nat) (m : Memory) (c0 : Coord) :
    (s.setTab n inst idx sub m).cell c0 = s.cell c0 := rfl

@[simp] theorem State.core_setTab (s : State) (n : Node) (inst idx sub : Nat) (m : Memory) (c0 : Coord) (j0 : Nat) :
    (s.setTab n inst idx sub m).core c0 j0 = s.core c0 j0 := rfl

@[simp] theorem State.mem_setTab (s : State) (n : Node) (inst idx sub : Nat) (m : Memory) (c0 : Coord) :
    (s.setTab n inst idx sub m).mem c0 = s.mem c0 := rfl

@[simp] theorem State.field_setTab (s : State) (n : Node) (inst idx sub : Nat) (m : Memory) (g0 : Nat) :
    (s.setTab n inst idx sub m).field g0 = s.field g0 := rfl

@[simp] theorem State.rtr_setTab (s : State) (n : Node) (inst idx sub : Nat) (m : Memory) (c0 : Coord) :
    (s.setTab n inst idx sub m).rtr c0 = s.rtr c0 := rfl

@[simp] theorem State.drop_setTab (s : State) (n : Node) (inst idx sub : Nat) (m : Memory) (st0 d0 : Nat) :
    (s.setTab n inst idx sub m).drop st0 d0 = s.drop st0 d0 := rfl

@[simp] theorem State.port_setTab (s : State) (n : Node) (inst idx sub : Nat) (m : Memory) (q : Nat) :
    (s.setTab n inst idx sub m).port q = s.port q := rfl

@[simp] theorem State.coll_setTab (s : State) (n : Node) (inst idx sub : Nat) (m : Memory) (c0 : Coord) :
    (s.setTab n inst idx sub m).coll c0 = s.coll c0 := rfl

@[simp] theorem State.reg_setRecs (s : State) (n : Node) (inst idx sub : Nat) (l : List Nat) (n0 : Node) (i0 x0 u0 : Nat) :
    (s.setRecs n inst idx sub l).reg n0 i0 x0 u0 = s.reg n0 i0 x0 u0 := rfl

@[simp] theorem State.tab_setRecs (s : State) (n : Node) (inst idx sub : Nat) (l : List Nat) (n0 : Node) (i0 x0 u0 : Nat) :
    (s.setRecs n inst idx sub l).tab n0 i0 x0 u0 = s.tab n0 i0 x0 u0 := rfl

@[simp] theorem State.cell_setRecs (s : State) (n : Node) (inst idx sub : Nat) (l : List Nat) (c0 : Coord) :
    (s.setRecs n inst idx sub l).cell c0 = s.cell c0 := rfl

@[simp] theorem State.core_setRecs (s : State) (n : Node) (inst idx sub : Nat) (l : List Nat) (c0 : Coord) (j0 : Nat) :
    (s.setRecs n inst idx sub l).core c0 j0 = s.core c0 j0 := rfl

@[simp] theorem State.mem_setRecs (s : State) (n : Node) (inst idx sub : Nat) (l : List Nat) (c0 : Coord) :
    (s.setRecs n inst idx sub l).mem c0 = s.mem c0 := rfl

@[simp] theorem State.field_setRecs (s : State) (n : Node) (inst idx sub : Nat) (l : List Nat) (g0 : Nat) :
    (s.setRecs n inst idx sub l).field g0 = s.field g0 := rfl

@[simp] theorem State.rtr_setRecs (s : State) (n : Node) (inst idx sub : Nat) (l : List Nat) (c0 : Coord) :
    (s.setRecs n inst idx sub l).rtr c0 = s.rtr c0 := rfl

@[simp] theorem State.drop_setRecs (s : State) (n : Node) (inst idx sub : Nat) (l : List Nat) (st0 d0 : Nat) :
    (s.setRecs n inst idx sub l).drop st0 d0 = s.drop st0 d0 := rfl

@[simp] theorem State.port_setRecs (s : State) (n : Node) (inst idx sub : Nat) (l : List Nat) (q : Nat) :
    (s.setRecs n inst idx sub l).port q = s.port q := rfl

@[simp] theorem State.coll_setRecs (s : State) (n : Node) (inst idx sub : Nat) (l : List Nat) (c0 : Coord) :
    (s.setRecs n inst idx sub l).coll c0 = s.coll c0 := rfl

@[simp] theorem State.reg_setCell (s : State) (c : Coord) (v : CellSt) (n0 : Node) (i0 x0 u0 : Nat) :
    (s.setCell c v).reg n0 i0 x0 u0 = s.reg n0 i0 x0 u0 := rfl

@[simp] theorem State.tab_setCell (s : State) (c : Coord) (v : CellSt) (n0 : Node) (i0 x0 u0 : Nat) :
    (s.setCell c v).tab n0 i0 x0 u0 = s.tab n0 i0 x0 u0 := rfl

@[simp] theorem State.recList_setCell (s : State) (c : Coord) (v : CellSt) (n0 : Node) (i0 x0 u0 : Nat) :
    (s.setCell c v).recList n0 i0 x0 u0 = s.recList n0 i0 x0 u0 := rfl

@[simp] theorem State.mem_setCell (s : State) (c : Coord) (v : CellSt) (c0 : Coord) :
    (s.setCell c v).mem c0 = s.mem c0 := rfl

@[simp] theorem State.field_setCell (s : State) (c : Coord) (v : CellSt) (g0 : Nat) :
    (s.setCell c v).field g0 = s.field g0 := rfl

@[simp] theorem State.rtr_setCell (s : State) (c : Coord) (v : CellSt) (c0 : Coord) :
    (s.setCell c v).rtr c0 = s.rtr c0 := rfl

@[simp] theorem State.drop_setCell (s : State) (c : Coord) (v : CellSt) (st0 d0 : Nat) :
    (s.setCell c v).drop st0 d0 = s.drop st0 d0 := rfl

@[simp] theorem State.port_setCell (s : State) (c : Coord) (v : CellSt) (q : Nat) :
    (s.setCell c v).port q = s.port q := rfl

@[simp] theorem State.coll_setCell (s : State) (c : Coord) (v : CellSt) (c0 : Coord) :
    (s.setCell c v).coll c0 = s.coll c0 := rfl

@[simp] theorem State.reg_modCell (s : State) (c : Coord) (f : CellSt → CellSt) (n0 : Node) (i0 x0 u0 : Nat) :
    (s.modCell c f).reg n0 i0 x0 u0 = s.reg n0 i0 x0 u0 := rfl

@[simp] theorem State.tab_modCell (s : State) (c : Coord) (f : CellSt → CellSt) (n0 : Node) (i0 x0 u0 : Nat) :
    (s.modCell c f).tab n0 i0 x0 u0 = s.tab n0 i0 x0 u0 := rfl

@[simp] theorem State.recList_modCell (s : State) (c : Coord) (f : CellSt → CellSt) (n0 : Node) (i0 x0 u0 : Nat) :
    (s.modCell c f).recList n0 i0 x0 u0 = s.recList n0 i0 x0 u0 := rfl

@[simp] theorem State.mem_modCell (s : State) (c : Coord) (f : CellSt → CellSt) (c0 : Coord) :
    (s.modCell c f).mem c0 = s.mem c0 := rfl

@[simp] theorem State.field_modCell (s : State) (c : Coord) (f : CellSt → CellSt) (g0 : Nat) :
    (s.modCell c f).field g0 = s.field g0 := rfl

@[simp] theorem State.rtr_modCell (s : State) (c : Coord) (f : CellSt → CellSt) (c0 : Coord) :
    (s.modCell c f).rtr c0 = s.rtr c0 := rfl

@[simp] theorem State.drop_modCell (s : State) (c : Coord) (f : CellSt → CellSt) (st0 d0 : Nat) :
    (s.modCell c f).drop st0 d0 = s.drop st0 d0 := rfl

@[simp] theorem State.port_modCell (s : State) (c : Coord) (f : CellSt → CellSt) (q : Nat) :
    (s.modCell c f).port q = s.port q := rfl

@[simp] theorem State.coll_modCell (s : State) (c : Coord) (f : CellSt → CellSt) (c0 : Coord) :
    (s.modCell c f).coll c0 = s.coll c0 := rfl

@[simp] theorem State.reg_modCore (s : State) (c : Coord) (i : Nat) (f : CoreSt → CoreSt) (n0 : Node) (i0 x0 u0 : Nat) :
    (s.modCore c i f).reg n0 i0 x0 u0 = s.reg n0 i0 x0 u0 := rfl

@[simp] theorem State.tab_modCore (s : State) (c : Coord) (i : Nat) (f : CoreSt → CoreSt) (n0 : Node) (i0 x0 u0 : Nat) :
    (s.modCore c i f).tab n0 i0 x0 u0 = s.tab n0 i0 x0 u0 := rfl

@[simp] theorem State.recList_modCore (s : State) (c : Coord) (i : Nat) (f : CoreSt → CoreSt) (n0 : Node) (i0 x0 u0 : Nat) :
    (s.modCore c i f).recList n0 i0 x0 u0 = s.recList n0 i0 x0 u0 := rfl

@[simp] theorem State.mem_modCore (s : State) (c : Coord) (i : Nat) (f : CoreSt → CoreSt) (c0 : Coord) :
    (s.modCore c i f).mem c0 = s.mem c0 := rfl

@[simp] theorem State.field_modCore (s : State) (c : Coord) (i : Nat) (f : CoreSt → CoreSt) (g0 : Nat) :
    (s.modCore c i f).field g0 = s.field g0 := rfl

@[simp] theorem State.rtr_modCore (s : State) (c : Coord) (i : Nat) (f : CoreSt → CoreSt) (c0 : Coord) :
    (s.modCore c i f).rtr c0 = s.rtr c0 := rfl

@[simp] theorem State.drop_modCore (s : State) (c : Coord) (i : Nat) (f : CoreSt → CoreSt) (st0 d0 : Nat) :
    (s.modCore c i f).drop st0 d0 = s.drop st0 d0 := rfl

@[simp] theorem State.port_modCore (s : State) (c : Coord) (i : Nat) (f : CoreSt → CoreSt) (q : Nat) :
    (s.modCore c i f).port q = s.port q := rfl

@[simp] theorem State.coll_modCore (s : State) (c : Coord) (i : Nat) (f : CoreSt → CoreSt) (c0 : Coord) :
    (s.modCore c i f).coll c0 = s.coll c0 := rfl

@[simp] theorem State.reg_answer (s : State) (c : Coord) (core tag value outcome : Nat) (n0 : Node) (i0 x0 u0 : Nat) :
    (s.answer c core tag value outcome).reg n0 i0 x0 u0 = s.reg n0 i0 x0 u0 := rfl

@[simp] theorem State.tab_answer (s : State) (c : Coord) (core tag value outcome : Nat) (n0 : Node) (i0 x0 u0 : Nat) :
    (s.answer c core tag value outcome).tab n0 i0 x0 u0 = s.tab n0 i0 x0 u0 := rfl

@[simp] theorem State.recList_answer (s : State) (c : Coord) (core tag value outcome : Nat) (n0 : Node) (i0 x0 u0 : Nat) :
    (s.answer c core tag value outcome).recList n0 i0 x0 u0 = s.recList n0 i0 x0 u0 := rfl

@[simp] theorem State.cell_answer (s : State) (c : Coord) (core tag value outcome : Nat) (c0 : Coord) :
    (s.answer c core tag value outcome).cell c0 = s.cell c0 := rfl

@[simp] theorem State.core_answer (s : State) (c : Coord) (core tag value outcome : Nat) (c0 : Coord) (j0 : Nat) :
    (s.answer c core tag value outcome).core c0 j0 = s.core c0 j0 := rfl

@[simp] theorem State.mem_answer (s : State) (c : Coord) (core tag value outcome : Nat) (c0 : Coord) :
    (s.answer c core tag value outcome).mem c0 = s.mem c0 := rfl

@[simp] theorem State.field_answer (s : State) (c : Coord) (core tag value outcome : Nat) (g0 : Nat) :
    (s.answer c core tag value outcome).field g0 = s.field g0 := rfl

@[simp] theorem State.rtr_answer (s : State) (c : Coord) (core tag value outcome : Nat) (c0 : Coord) :
    (s.answer c core tag value outcome).rtr c0 = s.rtr c0 := rfl

@[simp] theorem State.drop_answer (s : State) (c : Coord) (core tag value outcome : Nat) (st0 d0 : Nat) :
    (s.answer c core tag value outcome).drop st0 d0 = s.drop st0 d0 := rfl

@[simp] theorem State.port_answer (s : State) (c : Coord) (core tag value outcome : Nat) (q : Nat) :
    (s.answer c core tag value outcome).port q = s.port q := rfl

@[simp] theorem State.coll_answer (s : State) (c : Coord) (core tag value outcome : Nat) (c0 : Coord) :
    (s.answer c core tag value outcome).coll c0 = s.coll c0 := rfl

@[simp] theorem State.reg_modField (s : State) (f : Nat) (g : FieldSt → FieldSt) (n0 : Node) (i0 x0 u0 : Nat) :
    (s.modField f g).reg n0 i0 x0 u0 = s.reg n0 i0 x0 u0 := rfl

@[simp] theorem State.tab_modField (s : State) (f : Nat) (g : FieldSt → FieldSt) (n0 : Node) (i0 x0 u0 : Nat) :
    (s.modField f g).tab n0 i0 x0 u0 = s.tab n0 i0 x0 u0 := rfl

@[simp] theorem State.recList_modField (s : State) (f : Nat) (g : FieldSt → FieldSt) (n0 : Node) (i0 x0 u0 : Nat) :
    (s.modField f g).recList n0 i0 x0 u0 = s.recList n0 i0 x0 u0 := rfl

@[simp] theorem State.cell_modField (s : State) (f : Nat) (g : FieldSt → FieldSt) (c0 : Coord) :
    (s.modField f g).cell c0 = s.cell c0 := rfl

@[simp] theorem State.core_modField (s : State) (f : Nat) (g : FieldSt → FieldSt) (c0 : Coord) (j0 : Nat) :
    (s.modField f g).core c0 j0 = s.core c0 j0 := rfl

@[simp] theorem State.mem_modField (s : State) (f : Nat) (g : FieldSt → FieldSt) (c0 : Coord) :
    (s.modField f g).mem c0 = s.mem c0 := rfl

@[simp] theorem State.rtr_modField (s : State) (f : Nat) (g : FieldSt → FieldSt) (c0 : Coord) :
    (s.modField f g).rtr c0 = s.rtr c0 := rfl

@[simp] theorem State.drop_modField (s : State) (f : Nat) (g : FieldSt → FieldSt) (st0 d0 : Nat) :
    (s.modField f g).drop st0 d0 = s.drop st0 d0 := rfl

@[simp] theorem State.port_modField (s : State) (f : Nat) (g : FieldSt → FieldSt) (q : Nat) :
    (s.modField f g).port q = s.port q := rfl

@[simp] theorem State.coll_modField (s : State) (f : Nat) (g : FieldSt → FieldSt) (c0 : Coord) :
    (s.modField f g).coll c0 = s.coll c0 := rfl

@[simp] theorem State.reg_modPort (s : State) (p : Nat) (f : PortSt → PortSt) (n0 : Node) (i0 x0 u0 : Nat) :
    (s.modPort p f).reg n0 i0 x0 u0 = s.reg n0 i0 x0 u0 := rfl

@[simp] theorem State.tab_modPort (s : State) (p : Nat) (f : PortSt → PortSt) (n0 : Node) (i0 x0 u0 : Nat) :
    (s.modPort p f).tab n0 i0 x0 u0 = s.tab n0 i0 x0 u0 := rfl

@[simp] theorem State.recList_modPort (s : State) (p : Nat) (f : PortSt → PortSt) (n0 : Node) (i0 x0 u0 : Nat) :
    (s.modPort p f).recList n0 i0 x0 u0 = s.recList n0 i0 x0 u0 := rfl

@[simp] theorem State.cell_modPort (s : State) (p : Nat) (f : PortSt → PortSt) (c0 : Coord) :
    (s.modPort p f).cell c0 = s.cell c0 := rfl

@[simp] theorem State.core_modPort (s : State) (p : Nat) (f : PortSt → PortSt) (c0 : Coord) (j0 : Nat) :
    (s.modPort p f).core c0 j0 = s.core c0 j0 := rfl

@[simp] theorem State.mem_modPort (s : State) (p : Nat) (f : PortSt → PortSt) (c0 : Coord) :
    (s.modPort p f).mem c0 = s.mem c0 := rfl

@[simp] theorem State.field_modPort (s : State) (p : Nat) (f : PortSt → PortSt) (g0 : Nat) :
    (s.modPort p f).field g0 = s.field g0 := rfl

@[simp] theorem State.rtr_modPort (s : State) (p : Nat) (f : PortSt → PortSt) (c0 : Coord) :
    (s.modPort p f).rtr c0 = s.rtr c0 := rfl

@[simp] theorem State.drop_modPort (s : State) (p : Nat) (f : PortSt → PortSt) (st0 d0 : Nat) :
    (s.modPort p f).drop st0 d0 = s.drop st0 d0 := rfl

@[simp] theorem State.coll_modPort (s : State) (p : Nat) (f : PortSt → PortSt) (c0 : Coord) :
    (s.modPort p f).coll c0 = s.coll c0 := rfl

@[simp] theorem State.reg_modRtr (s : State) (c : Coord) (f : RtrSt → RtrSt) (n0 : Node) (i0 x0 u0 : Nat) :
    (s.modRtr c f).reg n0 i0 x0 u0 = s.reg n0 i0 x0 u0 := rfl

@[simp] theorem State.tab_modRtr (s : State) (c : Coord) (f : RtrSt → RtrSt) (n0 : Node) (i0 x0 u0 : Nat) :
    (s.modRtr c f).tab n0 i0 x0 u0 = s.tab n0 i0 x0 u0 := rfl

@[simp] theorem State.recList_modRtr (s : State) (c : Coord) (f : RtrSt → RtrSt) (n0 : Node) (i0 x0 u0 : Nat) :
    (s.modRtr c f).recList n0 i0 x0 u0 = s.recList n0 i0 x0 u0 := rfl

@[simp] theorem State.cell_modRtr (s : State) (c : Coord) (f : RtrSt → RtrSt) (c0 : Coord) :
    (s.modRtr c f).cell c0 = s.cell c0 := rfl

@[simp] theorem State.core_modRtr (s : State) (c : Coord) (f : RtrSt → RtrSt) (c0 : Coord) (j0 : Nat) :
    (s.modRtr c f).core c0 j0 = s.core c0 j0 := rfl

@[simp] theorem State.mem_modRtr (s : State) (c : Coord) (f : RtrSt → RtrSt) (c0 : Coord) :
    (s.modRtr c f).mem c0 = s.mem c0 := rfl

@[simp] theorem State.field_modRtr (s : State) (c : Coord) (f : RtrSt → RtrSt) (g0 : Nat) :
    (s.modRtr c f).field g0 = s.field g0 := rfl

@[simp] theorem State.drop_modRtr (s : State) (c : Coord) (f : RtrSt → RtrSt) (st0 d0 : Nat) :
    (s.modRtr c f).drop st0 d0 = s.drop st0 d0 := rfl

@[simp] theorem State.port_modRtr (s : State) (c : Coord) (f : RtrSt → RtrSt) (q : Nat) :
    (s.modRtr c f).port q = s.port q := rfl

@[simp] theorem State.coll_modRtr (s : State) (c : Coord) (f : RtrSt → RtrSt) (c0 : Coord) :
    (s.modRtr c f).coll c0 = s.coll c0 := rfl

@[simp] theorem State.reg_modDrop (s : State) (st d : Nat) (f : DropSt → DropSt) (n0 : Node) (i0 x0 u0 : Nat) :
    (s.modDrop st d f).reg n0 i0 x0 u0 = s.reg n0 i0 x0 u0 := rfl

@[simp] theorem State.tab_modDrop (s : State) (st d : Nat) (f : DropSt → DropSt) (n0 : Node) (i0 x0 u0 : Nat) :
    (s.modDrop st d f).tab n0 i0 x0 u0 = s.tab n0 i0 x0 u0 := rfl

@[simp] theorem State.recList_modDrop (s : State) (st d : Nat) (f : DropSt → DropSt) (n0 : Node) (i0 x0 u0 : Nat) :
    (s.modDrop st d f).recList n0 i0 x0 u0 = s.recList n0 i0 x0 u0 := rfl

@[simp] theorem State.cell_modDrop (s : State) (st d : Nat) (f : DropSt → DropSt) (c0 : Coord) :
    (s.modDrop st d f).cell c0 = s.cell c0 := rfl

@[simp] theorem State.core_modDrop (s : State) (st d : Nat) (f : DropSt → DropSt) (c0 : Coord) (j0 : Nat) :
    (s.modDrop st d f).core c0 j0 = s.core c0 j0 := rfl

@[simp] theorem State.mem_modDrop (s : State) (st d : Nat) (f : DropSt → DropSt) (c0 : Coord) :
    (s.modDrop st d f).mem c0 = s.mem c0 := rfl

@[simp] theorem State.field_modDrop (s : State) (st d : Nat) (f : DropSt → DropSt) (g0 : Nat) :
    (s.modDrop st d f).field g0 = s.field g0 := rfl

@[simp] theorem State.rtr_modDrop (s : State) (st d : Nat) (f : DropSt → DropSt) (c0 : Coord) :
    (s.modDrop st d f).rtr c0 = s.rtr c0 := rfl

@[simp] theorem State.port_modDrop (s : State) (st d : Nat) (f : DropSt → DropSt) (q : Nat) :
    (s.modDrop st d f).port q = s.port q := rfl

@[simp] theorem State.coll_modDrop (s : State) (st d : Nat) (f : DropSt → DropSt) (c0 : Coord) :
    (s.modDrop st d f).coll c0 = s.coll c0 := rfl

@[simp] theorem State.reg_modColl (s : State) (c : Coord) (f : CollSt → CollSt) (n0 : Node) (i0 x0 u0 : Nat) :
    (s.modColl c f).reg n0 i0 x0 u0 = s.reg n0 i0 x0 u0 := rfl

@[simp] theorem State.tab_modColl (s : State) (c : Coord) (f : CollSt → CollSt) (n0 : Node) (i0 x0 u0 : Nat) :
    (s.modColl c f).tab n0 i0 x0 u0 = s.tab n0 i0 x0 u0 := rfl

@[simp] theorem State.recList_modColl (s : State) (c : Coord) (f : CollSt → CollSt) (n0 : Node) (i0 x0 u0 : Nat) :
    (s.modColl c f).recList n0 i0 x0 u0 = s.recList n0 i0 x0 u0 := rfl

@[simp] theorem State.cell_modColl (s : State) (c : Coord) (f : CollSt → CollSt) (c0 : Coord) :
    (s.modColl c f).cell c0 = s.cell c0 := rfl

@[simp] theorem State.core_modColl (s : State) (c : Coord) (f : CollSt → CollSt) (c0 : Coord) (j0 : Nat) :
    (s.modColl c f).core c0 j0 = s.core c0 j0 := rfl

@[simp] theorem State.mem_modColl (s : State) (c : Coord) (f : CollSt → CollSt) (c0 : Coord) :
    (s.modColl c f).mem c0 = s.mem c0 := rfl

@[simp] theorem State.field_modColl (s : State) (c : Coord) (f : CollSt → CollSt) (g0 : Nat) :
    (s.modColl c f).field g0 = s.field g0 := rfl

@[simp] theorem State.rtr_modColl (s : State) (c : Coord) (f : CollSt → CollSt) (c0 : Coord) :
    (s.modColl c f).rtr c0 = s.rtr c0 := rfl

@[simp] theorem State.drop_modColl (s : State) (c : Coord) (f : CollSt → CollSt) (st0 d0 : Nat) :
    (s.modColl c f).drop st0 d0 = s.drop st0 d0 := rfl

@[simp] theorem State.port_modColl (s : State) (c : Coord) (f : CollSt → CollSt) (q : Nat) :
    (s.modColl c f).port q = s.port q := rfl

@[simp] theorem State.reg_takeSig (s : State) (sg : Signal) (n0 : Node) (i0 x0 u0 : Nat) :
    (s.takeSig sg).reg n0 i0 x0 u0 = s.reg n0 i0 x0 u0 := rfl

@[simp] theorem State.tab_takeSig (s : State) (sg : Signal) (n0 : Node) (i0 x0 u0 : Nat) :
    (s.takeSig sg).tab n0 i0 x0 u0 = s.tab n0 i0 x0 u0 := rfl

@[simp] theorem State.recList_takeSig (s : State) (sg : Signal) (n0 : Node) (i0 x0 u0 : Nat) :
    (s.takeSig sg).recList n0 i0 x0 u0 = s.recList n0 i0 x0 u0 := rfl

@[simp] theorem State.cell_takeSig (s : State) (sg : Signal) (c0 : Coord) :
    (s.takeSig sg).cell c0 = s.cell c0 := rfl

@[simp] theorem State.core_takeSig (s : State) (sg : Signal) (c0 : Coord) (j0 : Nat) :
    (s.takeSig sg).core c0 j0 = s.core c0 j0 := rfl

@[simp] theorem State.mem_takeSig (s : State) (sg : Signal) (c0 : Coord) :
    (s.takeSig sg).mem c0 = s.mem c0 := rfl

@[simp] theorem State.field_takeSig (s : State) (sg : Signal) (g0 : Nat) :
    (s.takeSig sg).field g0 = s.field g0 := rfl

@[simp] theorem State.rtr_takeSig (s : State) (sg : Signal) (c0 : Coord) :
    (s.takeSig sg).rtr c0 = s.rtr c0 := rfl

@[simp] theorem State.drop_takeSig (s : State) (sg : Signal) (st0 d0 : Nat) :
    (s.takeSig sg).drop st0 d0 = s.drop st0 d0 := rfl

@[simp] theorem State.port_takeSig (s : State) (sg : Signal) (q : Nat) :
    (s.takeSig sg).port q = s.port q := rfl

@[simp] theorem State.coll_takeSig (s : State) (sg : Signal) (c0 : Coord) :
    (s.takeSig sg).coll c0 = s.coll c0 := rfl

@[simp] theorem State.reg_takeDue (s : State) (p : Packet) (n0 : Node) (i0 x0 u0 : Nat) :
    (s.takeDue p).reg n0 i0 x0 u0 = s.reg n0 i0 x0 u0 := rfl

@[simp] theorem State.tab_takeDue (s : State) (p : Packet) (n0 : Node) (i0 x0 u0 : Nat) :
    (s.takeDue p).tab n0 i0 x0 u0 = s.tab n0 i0 x0 u0 := rfl

@[simp] theorem State.recList_takeDue (s : State) (p : Packet) (n0 : Node) (i0 x0 u0 : Nat) :
    (s.takeDue p).recList n0 i0 x0 u0 = s.recList n0 i0 x0 u0 := rfl

@[simp] theorem State.cell_takeDue (s : State) (p : Packet) (c0 : Coord) :
    (s.takeDue p).cell c0 = s.cell c0 := rfl

@[simp] theorem State.core_takeDue (s : State) (p : Packet) (c0 : Coord) (j0 : Nat) :
    (s.takeDue p).core c0 j0 = s.core c0 j0 := rfl

@[simp] theorem State.mem_takeDue (s : State) (p : Packet) (c0 : Coord) :
    (s.takeDue p).mem c0 = s.mem c0 := rfl

@[simp] theorem State.field_takeDue (s : State) (p : Packet) (g0 : Nat) :
    (s.takeDue p).field g0 = s.field g0 := rfl

@[simp] theorem State.drop_takeDue (s : State) (p : Packet) (st0 d0 : Nat) :
    (s.takeDue p).drop st0 d0 = s.drop st0 d0 := rfl

@[simp] theorem State.port_takeDue (s : State) (p : Packet) (q : Nat) :
    (s.takeDue p).port q = s.port q := rfl

@[simp] theorem State.coll_takeDue (s : State) (p : Packet) (c0 : Coord) :
    (s.takeDue p).coll c0 = s.coll c0 := rfl

@[simp] theorem State.reg_takePkt (s : State) (p : Packet) (n0 : Node) (i0 x0 u0 : Nat) :
    (s.takePkt p).reg n0 i0 x0 u0 = s.reg n0 i0 x0 u0 := rfl

@[simp] theorem State.tab_takePkt (s : State) (p : Packet) (n0 : Node) (i0 x0 u0 : Nat) :
    (s.takePkt p).tab n0 i0 x0 u0 = s.tab n0 i0 x0 u0 := rfl

@[simp] theorem State.recList_takePkt (s : State) (p : Packet) (n0 : Node) (i0 x0 u0 : Nat) :
    (s.takePkt p).recList n0 i0 x0 u0 = s.recList n0 i0 x0 u0 := rfl

@[simp] theorem State.cell_takePkt (s : State) (p : Packet) (c0 : Coord) :
    (s.takePkt p).cell c0 = s.cell c0 := rfl

@[simp] theorem State.core_takePkt (s : State) (p : Packet) (c0 : Coord) (j0 : Nat) :
    (s.takePkt p).core c0 j0 = s.core c0 j0 := rfl

@[simp] theorem State.mem_takePkt (s : State) (p : Packet) (c0 : Coord) :
    (s.takePkt p).mem c0 = s.mem c0 := rfl

@[simp] theorem State.field_takePkt (s : State) (p : Packet) (g0 : Nat) :
    (s.takePkt p).field g0 = s.field g0 := rfl

@[simp] theorem State.drop_takePkt (s : State) (p : Packet) (st0 d0 : Nat) :
    (s.takePkt p).drop st0 d0 = s.drop st0 d0 := rfl

@[simp] theorem State.port_takePkt (s : State) (p : Packet) (q : Nat) :
    (s.takePkt p).port q = s.port q := rfl

@[simp] theorem State.coll_takePkt (s : State) (p : Packet) (c0 : Coord) :
    (s.takePkt p).coll c0 = s.coll c0 := rfl

@[simp] theorem State.reg_modEng (s : State) (f : EngSt → EngSt) (n0 : Node) (i0 x0 u0 : Nat) :
    (s.modEng f).reg n0 i0 x0 u0 = s.reg n0 i0 x0 u0 := rfl

@[simp] theorem State.tab_modEng (s : State) (f : EngSt → EngSt) (n0 : Node) (i0 x0 u0 : Nat) :
    (s.modEng f).tab n0 i0 x0 u0 = s.tab n0 i0 x0 u0 := rfl

@[simp] theorem State.recList_modEng (s : State) (f : EngSt → EngSt) (n0 : Node) (i0 x0 u0 : Nat) :
    (s.modEng f).recList n0 i0 x0 u0 = s.recList n0 i0 x0 u0 := rfl

@[simp] theorem State.cell_modEng (s : State) (f : EngSt → EngSt) (c0 : Coord) :
    (s.modEng f).cell c0 = s.cell c0 := rfl

@[simp] theorem State.core_modEng (s : State) (f : EngSt → EngSt) (c0 : Coord) (j0 : Nat) :
    (s.modEng f).core c0 j0 = s.core c0 j0 := rfl

@[simp] theorem State.mem_modEng (s : State) (f : EngSt → EngSt) (c0 : Coord) :
    (s.modEng f).mem c0 = s.mem c0 := rfl

@[simp] theorem State.field_modEng (s : State) (f : EngSt → EngSt) (g0 : Nat) :
    (s.modEng f).field g0 = s.field g0 := rfl

@[simp] theorem State.rtr_modEng (s : State) (f : EngSt → EngSt) (c0 : Coord) :
    (s.modEng f).rtr c0 = s.rtr c0 := rfl

@[simp] theorem State.drop_modEng (s : State) (f : EngSt → EngSt) (st0 d0 : Nat) :
    (s.modEng f).drop st0 d0 = s.drop st0 d0 := rfl

@[simp] theorem State.port_modEng (s : State) (f : EngSt → EngSt) (q : Nat) :
    (s.modEng f).port q = s.port q := rfl

@[simp] theorem State.coll_modEng (s : State) (f : EngSt → EngSt) (c0 : Coord) :
    (s.modEng f).coll c0 = s.coll c0 := rfl

/-! ### Reading back -/

theorem State.reg_setReg_same {s : State} (h : risingFrom 0 s.regs = true) (n : Node) (inst idx sub v : Nat) :
    (s.setReg n inst idx sub v).reg n inst idx sub = v := SMap.get_put_same h

theorem State.reg_setReg_other (s : State) {n m : Node} {inst idx sub jnst jdx tub : Nat} (v : Nat)
    (h : regKey m jnst jdx tub ≠ regKey n inst idx sub) : (s.setReg n inst idx sub v).reg m jnst jdx tub = s.reg m jnst jdx tub :=
  SMap.get_put_other h

theorem State.reg_bump_same {s : State} (h : risingFrom 0 s.regs = true) (n : Node) (inst idx sub k : Nat) :
    (s.bump n inst idx sub k).reg n inst idx sub = (s.reg n inst idx sub + k) % 2 ^ objWidth idx sub := SMap.get_put_same h

theorem State.reg_bump_other (s : State) {n m : Node} {inst idx sub jnst jdx tub : Nat} (k : Nat)
    (h : regKey m jnst jdx tub ≠ regKey n inst idx sub) : (s.bump n inst idx sub k).reg m jnst jdx tub = s.reg m jnst jdx tub :=
  SMap.get_put_other h

theorem State.tab_setTab_same {s : State} (h : SMap.wf [] s.tabs = true) (n : Node) (inst idx sub : Nat) (m : Memory) :
    (s.setTab n inst idx sub m).tab n inst idx sub = m := SMap.get_put_same (SMap.wfFrom_rising h)

theorem State.tab_setTab_other (s : State) {n m : Node} {inst idx sub jnst jdx tub : Nat} (v : Memory)
    (h : regKey m jnst jdx tub ≠ regKey n inst idx sub) : (s.setTab n inst idx sub v).tab m jnst jdx tub = s.tab m jnst jdx tub :=
  SMap.get_put_other h

theorem State.recList_setRecs_same {s : State} (h : SMap.wf [] s.recs = true) (n : Node) (inst idx sub : Nat) (l : List Nat) :
    (s.setRecs n inst idx sub l).recList n inst idx sub = l := SMap.get_put_same (SMap.wfFrom_rising h)

theorem State.recList_setRecs_other (s : State) {n m : Node} {inst idx sub jnst jdx tub : Nat} (l : List Nat)
    (h : regKey m jnst jdx tub ≠ regKey n inst idx sub) :
    (s.setRecs n inst idx sub l).recList m jnst jdx tub = s.recList m jnst jdx tub := SMap.get_put_other h

theorem State.cell_setCell_same {s : State} (h : SMap.wf CellSt.init s.cells = true) (c : Coord) (v : CellSt) :
    (s.setCell c v).cell c = v := SMap.get_put_same (SMap.wfFrom_rising h)

theorem State.cell_setCell_other (s : State) {c d : Coord} (v : CellSt) (h : cellKey d ≠ cellKey c) :
    (s.setCell c v).cell d = s.cell d := SMap.get_put_other h

theorem State.cell_modCell_same {s : State} (h : SMap.wf CellSt.init s.cells = true) (c : Coord) (f : CellSt → CellSt) :
    (s.modCell c f).cell c = f (s.cell c) := SMap.get_put_same (SMap.wfFrom_rising h)

theorem State.cell_modCell_other (s : State) {c d : Coord} (f : CellSt → CellSt) (h : cellKey d ≠ cellKey c) :
    (s.modCell c f).cell d = s.cell d := SMap.get_put_other h

theorem State.cell_modCore_same {s : State} (h : SMap.wf CellSt.init s.cells = true) (c : Coord) (i : Nat) (f : CoreSt → CoreSt) :
    (s.modCore c i f).cell c = { s.cell c with cores := setAt (s.cell c).cores i (f ((s.cell c).coreSt i)) } :=
  SMap.get_put_same (SMap.wfFrom_rising h)

theorem State.cell_modCore_other (s : State) {c d : Coord} (i : Nat) (f : CoreSt → CoreSt) (h : cellKey d ≠ cellKey c) :
    (s.modCore c i f).cell d = s.cell d := SMap.get_put_other h

theorem State.field_modField_same {s : State} (h : SMap.wf FieldSt.init s.fields = true) (f : Nat) (g : FieldSt → FieldSt) :
    (s.modField f g).field f = g (s.field f) := SMap.get_put_same (SMap.wfFrom_rising h)

theorem State.field_modField_other (s : State) {f f' : Nat} (g : FieldSt → FieldSt) (h : f' ≠ f) :
    (s.modField f g).field f' = s.field f' := SMap.get_put_other h

theorem State.drop_modDrop_same {s : State} (h : SMap.wf DropSt.init s.drops = true) (st d : Nat) (f : DropSt → DropSt) :
    (s.modDrop st d f).drop st d = f (s.drop st d) := SMap.get_put_same (SMap.wfFrom_rising h)

theorem State.drop_modDrop_other (s : State) {st d st' d' : Nat} (f : DropSt → DropSt) (h : 32 * st' + d' ≠ 32 * st + d) :
    (s.modDrop st d f).drop st' d' = s.drop st' d' := SMap.get_put_other h

/-- Storing the value an object already holds keeps every read. -/
theorem State.reg_setReg_mem (s : State) (n : Node) (inst idx sub v : Nat) (c : Coord) (a k : Nat) :
    (s.setReg n inst idx sub v).memRead c a k = s.memRead c a k := rfl

/-- The memories of all cells after a store. -/
theorem State.cellMem_memWrite (s : State) (c : Coord) (a : Nat) (bs : List Byte) :
    (s.memWrite c a bs).cellMem = SMap.put [] s.cellMem (cellKey c) (Memory.writeN 0 (s.mem c) a bs) := by
  unfold State.memWrite State.memWriteAs State.portStart State.modCell State.setCell
  dsimp only
  split <;> rfl

/-- The stored cell's memory after a store. -/
theorem State.mem_memWrite (s : State) (c : Coord) (a : Nat) (bs : List Byte) (hm : s.memOk = true) :
    (s.memWrite c a bs).mem c = Memory.writeN 0 (s.mem c) a bs := by
  simp only [State.memOk, Bool.and_eq_true] at hm
  unfold State.mem
  rw [State.cellMem_memWrite]
  exact SMap.get_put_same (SMap.wfFrom_rising hm.1)

/-- A byte outside a stored range of the same cell reads as before. -/
theorem State.memWrite_other (s : State) (c : Coord) (a b : Nat) (bs : List Byte) (h : b < a ∨ a + bs.length ≤ b) (hm : s.memOk = true) :
    SMap.get 0 ((s.memWrite c a bs).mem c) b = SMap.get 0 (s.mem c) b := by
  rw [State.mem_memWrite s c a bs hm, Memory.get_writeN_other h]

/-- A store leaves every other cell's memory as it was. -/
theorem State.memWrite_other_cell (s : State) {c d : Coord} (a : Nat) (bs : List Byte) (h : cellKey d ≠ cellKey c) :
    (s.memWrite c a bs).mem d = s.mem d := by
  unfold State.mem
  rw [State.cellMem_memWrite]
  exact SMap.get_put_other h

/-- A stored byte string reads back. -/
theorem State.memRead_memWrite (s : State) (c : Coord) (a : Nat) (bs : List Byte) (hm : s.memOk = true) :
    (s.memWrite c a bs).memRead c a bs.length = bs := by
  unfold State.memRead
  rw [State.mem_memWrite s c a bs hm]
  exact Memory.readN_writeN (State.memOk_mem hm c)

end Sys2Proof.Machine
end

