-- ==== Sys2Proof/Tests/Slice0.lean ====
section
/-! SUPPORT. Tests: small states, the worked examples of the spec, ill-formed operands that the checks of WellFormed refuse, and for
every statement of Certificates/Slice0/Obligations.lean with hypotheses a state and operands that meet them together, clause by
clause. -/

namespace Sys2Proof.Tests

open Sys2Proof Sys2Proof.Machine

set_option maxRecDepth 200000
set_option Elab.async false
set_option linter.all false

/-! ### Small states -/

/-- A block of 4 by 4 fields with one stack and 20 link ports, before its first rise of AON_PG. -/
def w0 : State := { State.reset with build := ⟨4, 4, 1, 0x05050505, 64⟩ }

/-- That block in service: bring-up at step 10. -/
def w1 : State := w0.setReg .engine 0 0x1008 1 10

/-- Cell (0, 0). -/
def c0 : Coord := ⟨0, 0⟩

/-- The address of cell (1, 0)'s core 0 as a source. -/
def src1 : SrcAddr := ⟨0, 1, 0, 0, false⟩

/-- A packet of one unit of zeros from cell (1, 0) to cell (0, 0); the check is that of R39. -/
def pkt (typ cls : Nat) (t : Tail) : Packet :=
  ⟨typ, cls, 1, 0, false, true, ⟨0, 0, 0, 0⟩, src1, 5, ⟨0, false, 0⟩, 0x8A9136AA, t, zeros 32, false⟩

/-- A Transfer tail of reservation 3 for 32 bytes. -/
def xfer : TransferTail := ⟨0, 32, 3, 0, 0, 0, 0, 0⟩

/-- A Collective tail of context 5, epoch 0, slice 0. -/
def coll : CollTail := ⟨5, 0, 0, 1, 1, 0x0A, 0, 0, false, false, false, false⟩

/-- Block `w0` with core 3 of cell (0, 0) as `f` leaves it. -/
def wCore (f : CoreSt → CoreSt) : State := w0.modCore c0 3 f

/-- Block `w0` with cell (0, 0) as `f` leaves it. -/
def wCell (f : CellSt → CellSt) : State := w0.modCell c0 f

/-- A live command of TAG 5 with descriptor `d`. -/
def cmd (d : Nat) : Cmd := ⟨5, 0, 0, d, 1, 1, 0, 0, [], 0, true, true, some 100, [], none⟩

/-- A reservation 3 of TAG 5 at its source in state `st`. -/
def rsv (st : SrcSt) : SrcRsv := ⟨.cmd, [], 3, 5, 0, 0, 0, 32, 0, ⟨0, 1, 0, 0⟩, st, 100, 0, 0, 0, 0, 0, 9⟩

/-- A landing reservation of the key of `pkt` and `xfer`. -/
def land (k : LKind) (st : LSt) (written : Nat) : LRsv := ⟨⟨src1, 3, 5⟩, 32, k, [some 0], st, 100, 20, written⟩

/-- A landing buffer that holds one reservation. -/
def landing1 (r : LRsv) : Landing := ⟨[1, 2, 3, 4, 5, 6, 7, 8, 9, 10, 11, 12, 13, 14, 15], [], [r]⟩

/-- Context 5 armed for INT32 SUM over cells (0, 0) and (1, 0), with the router of cell (0, 0) as `f` leaves it. -/
def wCtx (f : CollSt → CollSt) : State :=
  let s : State := { w0 with armed := [(5, some ⟨[], 0, 0, 0, 0⟩)] }
  let s := s.setTab .engine 5 0x5000 3 (Memory.writeN (objEmpty 0x5000 3) [] 0 (leBytes 8 (2 ^ 18)))
  let s := s.setReg .engine 5 0x5000 3 8
  (((s.setReg .engine 5 0x5000 7 0x0A0A0A0A).setReg .engine 5 0x5000 0x1F 2).setReg .engine 5 0x5000 0x0D 2).modColl c0 f

/-- A contribution to slice 0 of epoch 0 of context 5. -/
def dep : Dep := ⟨5, 5, 0, 0, 0, 0, none, [], [], [0], [], false, false, false, false, false, false, false, false, false, false, none, false, false, false⟩

/-- A pond slot of slice 0. -/
def slot (ph : Nat) (k : SlotKind) : PSlot := ⟨ph, 5, 0, 0, 0, k, ⟨[none], 0⟩, false, 0, false, src1, 5, 50, 0, 100, none⟩

/-- Link port 0 in state `st`, with its private part as `f` leaves it. -/
def wPort (st : Nat) (f : PortSt → PortSt) : State := (w1.setReg (w1.portNode 0) 0 0x7010 6 st).modPort 0 f

/-- Drop 31 of stack 0, live, as `f` leaves it. -/
def wDrop (f : DropSt → DropSt) : State := (w1.setReg .engine 0 0x6010 1 (2 ^ 31)).modDrop 0 31 f

/-- A step of bring-up under way. -/
def wBoot (k : Nat) : State := w0.setReg .engine 0 0x1008 1 k

/-- Field 15 as `f` leaves it. -/
def wField (f : FieldSt → FieldSt) : State := w1.modField 15 f

/-- The engine agent as `f` leaves it. -/
def wEng (f : EngSt → EngSt) : State := w1.modEng f


/-- The management port's requester, and a write of one object at a node by it. -/
def mg : Requester := ⟨0, 12, 10, 0, true⟩

/-- A write of a scalar at a node. -/
def wr (n : Node) (index sub value : Nat) : DictReq :=
  match n with
  | .engine => ⟨mg, 0xFF00, true, index, sub, 0, 0, 0, 0, 0, false, value, [], true⟩
  | .field f => ⟨mg, 0xFF00, true, index, sub, 0, 1 + 4 * f, 0, 0, 0, false, value, [], true⟩
  | .cell x y => ⟨mg, 0xFF00, true, index, sub, 0, 2, x + 512 * y, 0, 0, false, value, [], true⟩

/-- A read of a scalar at the engine node. -/
def rd (index sub : Nat) : DictReq := ⟨mg, 0xFF00, false, index, sub, 0, 0, 0, 0, 0, false, 0, [], true⟩

/-- Every field frozen. -/
def wFrozen : State := (List.range 16).foldl (fun s f => s.setReg (.field f) 0 0x3010 1 1) w1

/-- Table 0 in stack 0 with 8 rows; drop 31 is its lead. -/
def wTbl : State := ((wDrop id).setReg .engine 0 0x6000 2 1).setReg .engine 0 0x6000 4 8

/-- Core 0 of cell (0, 0) with descriptor `d` at its queue head and a completion ring. -/
def wHead (d : Nat) : State := (w1.setReg (cellNode c0) 0 0x4004 2 64).modCore c0 0 (fun k => { k with queue := [d] })

/-- The state that a command leaves. -/
def left (i : Instr) (s : State) : State :=
  match exec i s with
  | .next t => t
  | _ => s

/-- A descriptor of each row of `acceptRows`, in order. -/
def heads : List Nat :=
  [65 + 32 * 2 ^ 168, 66 + 32 * 2 ^ 168, 1025 + 2 ^ 178, 1026 + 2 ^ 178, 67 + 8 * 2 ^ 142, 4 + 5 * 2 ^ 61 + 32 * 2 ^ 164, 5 + 2 ^ 168,
   6 + 0x20 * 2 ^ 128, 6 + 0x10 * 2 ^ 128, 6 + 0x11 * 2 ^ 128, 6 + 0x12 * 2 ^ 128, 6 + 0x13 * 2 ^ 128, 6 + 0x14 * 2 ^ 128,
   6 + 0x15 * 2 ^ 128, 6 + 0x0B * 2 ^ 128, 6 + 0x1C * 2 ^ 128, 7, 1031, 2055, 8, 8 + 2 ^ 179, 9, 1033]

/-- The node of link port 0, and the node of drop 31 of stack 0. -/
def p0 : Node := w1.portNode 0

/-- An engine with an open group of the management port. -/
def wGroup : State := wEng (fun e => { e with groups := [⟨mg, 0, []⟩] })

/-- A state and a request of each row of `writeRows`, in order. -/
def writes : List (State × DictReq) :=
  [(w1, wr (cellNode c0) 0x4101 1 0), (w1, wr (cellNode c0) 0x413F 9 0), (w1, wr (cellNode c0) 0x8020 0xD 1),
   (wTbl, wr (cellNode (dropCell 0 31)) 0x6000 0xC 0),
   (((wDrop id).setReg .engine 0 0x6100 2 31).setReg .engine 0 0x6100 4 64, wr .engine 0x6100 9 1),
   (wPort 7 id, wr p0 0x7030 0xE 0), (wPort 5 id, wr p0 0x7010 0xE 1), (wPort 5 id, wr p0 0x7010 0xE 2),
   (wPort 5 id, wr p0 0x7010 4 1), (wPort 5 id, wr p0 0x7010 4 0)] ++
  [(w1, wr .engine 0x8140 1 1), (w1, wr (.field 3) 0x8110 8 1), (w1, wr (cellNode c0) 0x8100 0xB 1), (wPort 8 id, wr p0 0x8130 0xB 0),
   (w1, wr .engine 0x8140 0x11 1), (w1, wr .engine 0x8140 0x13 1),
   (wEng (fun e => { e with testMode := true }), wr (cellNode c0) 0xF010 5 1), (wGroup, wr .engine 0x2001 1 1),
   (wGroup, wr .engine 0x2001 1 2), (wFrozen, { wr .engine 0x1005 2 0 with tlen := 4, data := [1, 0, 0, 0] })] ++
  [(wFrozen, wr (.field 3) 0xA001 1 1000), (w1, wr (.field 3) 0xA010 1 20), (w1, wr .engine 0xA011 5 1), (w1, wr .engine 0xA011 1 0),
   (w1, wr .engine 0xA100 1 5), (wFrozen, wr .engine 0xA030 2 5), (w1, wr .engine 0x9000 2 1), (w1, wr .engine 0x9000 2 2),
   (w1, wr (cellNode c0) 0x9040 3 1), (w1, wr (cellNode c0) 0x9020 1 1), (w1, wr (cellNode c0) 0x9010 8 1),
   (w1, wr .engine 0x9030 1 1), (w1, wr .engine 0x9060 3 1), (wFrozen, wr .engine 0x1008 8 1)]

/-- Does a write pass its checks and end OK, at once or by a later event? -/
def completes (s : State) (r : DictReq) : Bool :=
  match (arrived s r).checkReq r false with
  | .ok o =>
    match ((arrived s r).dictWrite r o).1 with
    | some x => decide (x.status = 0)
    | none => true
  | .error _ => false

/-- A packet of a row of `packetRows` to cell (0, 0). -/
def rowPkt (typ : Nat) (isKind : Tail → Bool) : Packet :=
  pkt typ 1 (([.transfer xfer, .message ⟨1, 0, 32⟩, .rect ⟨1, 1, 64, 9, 0, 32⟩, .table ⟨1023, 7, 0, 0, 0, 3, 0⟩, .coll coll].find? isKind).getD
    (.transfer xfer))

/-- Field 0 in Lull. -/
def wLull : State := w0.setReg (.field 0) 0 0xA010 5 2

/-- A message of 32 bytes to channel 1, and its claim of ring space. -/
def msg1 : Packet := pkt 0x12 1 (.message ⟨1, 0, 32⟩)

/-- The claim of `msg1`. -/
def claim1 : Claim := ⟨0, 40, 0, 32, 1, src1, 5, 0x12, false, false, false⟩

/-- Channel 1 of cell (0, 0) open. -/
def wOpen : State :=
  (((w0.setReg (cellNode c0) 0 0x4101 1 1).setReg (cellNode c0) 0 0x4101 4 10).setReg (cellNode c0) 0 0x4101 5 64).setReg (cellNode c0) 0 0x4101 6 1

/-- Field 15 in Run where its tolerance lets it go to Breeze, and then at the end of its idle time. -/
def wTol : State := w1.setReg (.field 15) 0 0xA010 1 20

/-- `wTol` once the field has been idle for BREEZE_IDLE. -/
def wTol2 : State :=
  { wTol with time := max wTol.time (wTol.fcAfter 15 (wTol.field 15).idleSince (wTol.reg (.field 15) 0 0xA010 2)) }

/-- Field 15 entering Lull, and then at the end of that. -/
def wEntering : State := w1.setReg (.field 15) 0 0xA010 5 3

/-- `wEntering` when the entry is due to end. -/
def wEntered : State := { wEntering with time := max wEntering.time (wEntering.field 15).lullDue }

/-! ### Worked examples of the spec -/

/-- *Encoding a data unit* (chapter 2): check bytes 0x81, 0xC3, 0x32. -/
theorem test_unit_code_example : rsCheck (zeros 29 ++ [0x12, 0x34, 0x56]) = [0x81, 0xC3, 0x32] := by decide +kernel

/-- *Correcting one byte* (chapter 2): byte 30 arrives as 0x74 and is put right. -/
theorem test_unit_correction_example :
    rsDecode (zeros 29 ++ [0x12, 0x74, 0x56, 0x81, 0xC3, 0x32]) = .corrected (zeros 29 ++ [0x12, 0x34, 0x56, 0x81, 0xC3, 0x32]) := by
  decide +kernel

/-- The three check values of R39. -/
theorem test_block_check_values :
    crc32c [0x31, 0x32, 0x33, 0x34, 0x35, 0x36, 0x37, 0x38, 0x39] = 0xE3069283 ∧ crc32c (zeros 32) = 0x8A9136AA ∧
      crc32c ((List.range 32).map (BitVec.ofNat 8)) = 0x46DD794E := by
  decide +kernel

/-- *A measured BF16 sum* (chapter 9): member anchors reduce to E = 5, and −18,669,568 leaves as 0xC20E with INEXACT alone. -/
theorem test_bf16_sum_example :
    elemOut ⟨16, 8, 7, 127, 0x7F7F, true, some 0x7FC0⟩ false false (786432 - 21102592 + 1646592) (5 - 24) 0 = (0xC20E, 4) := by decide +kernel

/-- *Declared anchors* (chapter 9): 40.0 saturates at the anchor with AEX and INEXACT, and the FP16 output is 0x5190 with INEXACT. -/
theorem test_fp16_declared_example :
    toAcc false 5 3 0x83 24 = (0x01FFFFFF, 16 + 4) ∧
      elemOut ⟨16, 5, 10, 15, 0x7BFF, true, some 0x7E00⟩ false false (0x00C80000 + 0x01FFFFFF) (4 - 24) 0 = (0x5190, 4) := by
  decide +kernel

/-- *Direct mode and arrival order* (chapter 9): 2^24 + 1 ties to even with INEXACT, and 1 − 2^24 is exact. -/
theorem test_fp32_direct_example :
    fp32Add 0x4B800000 0x3F800000 = (0x4B800000, 4) ∧ fp32Add 0x3F800000 0xCB800000 = (0xCB7FFFFF, 0) := by decide +kernel

/-- *Finding the home of a row* (chapter 12): row 5,000,000 of table 17 is in stack 3 at 0x2_2625_A000. -/
theorem test_row_place_example :
    (⟨2 ^ 3 + 2 ^ 15, 0x200000000, 6000000, 256, 0, 0, false, 0⟩ : Tbl).place 5000000 = (3, 2500000, 0x22625A000) := by decide +kernel

/-- The same example: its home is drop 13 at cell (278, 48), and drop 25 at cell (270, 56) where drop 13 is fenced. -/
theorem test_row_home_example :
    homeDrop ((State.reset.setReg .engine 0 0x6013 1 (2 ^ 32 - 1)).liveDrops 3) 0x08989680 = some 13 ∧ dropCell 3 13 = ⟨278, 48⟩ ∧
      homeDrop ((State.reset.setReg .engine 0 0x6013 1 (2 ^ 32 - 1 - 2 ^ 13)).liveDrops 3) 0x08989680 = some 25 ∧ dropCell 3 25 = ⟨270, 56⟩ := by
  decide +kernel

/-- *From an odd column and an odd row* (chapter 3): both legs go express, the row leg by stops 0 and 16, the column leg by row 0. -/
theorem test_route_example :
    (⟨480, 320, [], [], []⟩ : RingMap).planLeg ⟨16, true⟩ .row 57 (ringPos 480 233) (ringPos 480 20) false =
        .express 0 true true (ringPos 480 16) ∧
      (⟨480, 320, [], [], []⟩ : RingMap).planLeg ⟨16, true⟩ .col 20 (ringPos 320 57) (ringPos 320 200) false =
        .express 0 true false (ringPos 320 200) := by
  decide +kernel

/-! ### A wrap with a skip marker (chapter 6) -/

/-- Cell (130, 66). -/
def cMsg : Coord := ⟨130, 66⟩

/-- Channel 9 of that example. -/
def wMsg : State :=
  let n := cellNode cMsg
  (((((((((State.reset.setReg n 0 0x4109 1 1).setReg n 0 0x4109 2 3).setReg n 0 0x4109 3 0x20000).setReg n 0 0x4109 4 10).setReg n 0 0x4109 5
    496).setReg n 0 0x4109 6 1).setReg n 0 0x4109 9 0x1310).setReg n 0 0x4109 0xA 0x1398).setReg n 0 0x4109 0xB 0x1398)

/-- Its message of 300 bytes of zeros. -/
def msgPkt (mlen : Nat) : Packet :=
  ⟨0x12, 1, cdiv mlen 32, 0, false, true, ⟨0, 130, 66, 0⟩, ⟨5, 233, 57, 1, false⟩, 7, ⟨0, false, 0⟩, crc32c (zeros (32 * cdiv mlen 32)),
    .message ⟨9, 3, mlen⟩, zeros (32 * cdiv mlen 32), false⟩

/-- The source word of the example. -/
theorem test_source_word_example : srcWord ⟨5, 233, 57, 1, false⟩ = 0x23974805 := by decide +kernel

/-- Admission claims the skip marker and the message: C becomes 0x1538. -/
theorem test_send_admission : (left (.sendAdmission cMsg (msgPkt 300)) wMsg).chan cMsg 9 0xB = 0x1538 := by decide +kernel

/-- The message lands: its header and the skip marker are as written there, and T becomes 0x1538. -/
theorem test_send_landing :
    (left (.sendLanding cMsg (msgPkt 300)) (left (.sendAdmission cMsg (msgPkt 300)) wMsg)).memRead cMsg 0x20000 8 =
        [0xC0, 0x12, 0x27, 0x00, 0x05, 0x48, 0x97, 0x23] ∧
      (left (.sendLanding cMsg (msgPkt 300)) (left (.sendAdmission cMsg (msgPkt 300)) wMsg)).memRead cMsg 0x20398 8 =
        [1, 0, 0x0D, 0, 0, 0, 0, 0] ∧
      (left (.sendLanding cMsg (msgPkt 300)) (left (.sendAdmission cMsg (msgPkt 300)) wMsg)).chan cMsg 9 0xA = 0x1538 := by
  decide +kernel

/-- A second message of 496 bytes is refused with NOSPACE (1), and the NACK carries 472 free bytes. -/
theorem test_send_nospace :
    (left (.sendAdmission cMsg (msgPkt 300)) wMsg).admission cMsg (msgPkt 496) ⟨9, 3, 496⟩ = some (1, 0, 472) := by decide +kernel

/-! ### Single commands -/

/-- A step takes the front command; what stands behind it stays. -/
theorem test_step_front : (match step { w1 with pending := [.idcode, .bypass] } with | .next t => t.pending | _ => []) = [.bypass] := by decide +kernel

/-- IDCODE (R460) selects instruction 0x02. -/
theorem test_idcode : (left .idcode w1).eng.tap.ir = 2 := by decide +kernel

/-- An add to a tally counter wraps at 2^64 (R155). -/
theorem test_tally_add_wraps :
    (left (.tallyRequestAtHome ⟨0x10, 0, 0, 7, 0, 0, 0, 2⟩) (w1.setTally 0 7 (2 ^ 64 - 1))).tally 0 7 = 1 := by decide +kernel

/-- A take of more than the counter holds leaves it (R155). -/
theorem test_tally_take_fails :
    (left (.tallyRequestAtHome ⟨0x15, 0, 0, 7, 0, 0, 0, 3⟩) (w1.setTally 0 7 2)).tally 0 7 = 2 := by decide +kernel

/-- A NAK that is due leaves at once in an IDLE frame where no frame with items waits (R304, R308). -/
theorem test_nak_goes_in_idle_frame :
    (left (.nakRepeat 0) (wPort 4 (fun q => { q with nakAt := 1 }))).linkOut.map (fun g => (g.frame.kind, g.frame.nak)) = [(2, true)] := by
  decide +kernel

/-- A released cell has channel 63 open (R450). -/
theorem test_cell_release : (left (.cellResetRelease c0) (left (.cellReset c0) w1)).chan c0 63 1 = 1 := by decide +kernel

/-- A unit that the build lacks stops the step by name. -/
theorem test_missing_field : exec (.pllUnlock 16) w1 = .fault (.noSuchUnit "field") := rfl

/-- The table of commands gives its rows no bits: no word spells a command. -/
theorem test_no_word_spells_a_command : decodeTableWord 16 1 = none := rfl

/-- A commit of WINDOW at cells (0, 0) and (30, 0), of fields 0 and 1, in its apply round. -/
def wApply : State :=
  let w := fun (c : Coord) => (⟨cellNode c, 0, 0x4030, 2, 128, false, 0, [], false⟩ : Staged)
  w1.modEng (fun e => { e with commit := some ⟨⟨mg, 0, [w c0, w ⟨30, 0⟩]⟩, wr .engine 0x2001 1 1, 0, some 1⟩ })

/-- A field that lags keeps its values, and the others have the group's (R383 step 5). -/
theorem test_lagging_field :
    (left (.commitLimitExpiry [0]) wApply).reg (cellNode c0) 0 0x4030 2 = 256 ∧
      (left (.commitLimitExpiry [0]) wApply).reg (cellNode ⟨30, 0⟩) 0 0x4030 2 = 128 := by decide +kernel

/-! ### Ill-formed operands, which the checks of WellFormed refuse -/

theorem smoke_coord :
    let b : Coord := ⟨1, 2⟩
    b.wf = true ∧ ∀ a ∈ ([
     { b with x := 2 ^ 9 }, { b with y := 2 ^ 9 }] : List Coord), a.wf = false := by decide +kernel

theorem smoke_addr :
    let b : Addr := ⟨0, 1, 2, 0⟩
    b.wf = true ∧ ∀ a ∈ ([
     { b with eng := 2 ^ 11 }, { b with x := 2 ^ 9 }, { b with y := 2 ^ 9 }, { b with tgt := 2 ^ 3 }] : List Addr), a.wf = false := by decide +kernel

theorem smoke_srcAddr :
    let b : SrcAddr := src1
    b.wf = true ∧ ∀ a ∈ ([
     { b with eng := 2 ^ 11 }, { b with x := 2 ^ 9 }, { b with y := 2 ^ 9 }, { b with core := 2 ^ 2 }] : List SrcAddr), a.wf = false := by decide +kernel

theorem smoke_barArrive :
    let b : BarArrive := ⟨1, 0, 1, 0, 0, 0, 0, false⟩
    b.wf = true ∧ ∀ a ∈ ([
     { b with bctx := 2 ^ 12 }, { b with gen := 2 ^ 8 }, { b with count := 2 ^ 20 }, { b with rx := 2 ^ 9 },
     { b with ry := 2 ^ 9 }, { b with value := 2 ^ 64 }, { b with hi := 2 ^ 64 }] : List BarArrive), a.wf = false := by decide +kernel

theorem smoke_barRelease :
    let b : BarRelease := ⟨1, 0, 1, false, 0, 0, 1, 1, 0⟩
    b.wf = true ∧ ∀ a ∈ ([
     { b with bctx := 2 ^ 12 }, { b with gen := 2 ^ 8 }, { b with count := 2 ^ 20 }, { b with x0 := 2 ^ 9 },
     { b with y0 := 2 ^ 9 }, { b with x1 := 2 ^ 9 }, { b with y1 := 2 ^ 9 }, { b with value := 2 ^ 64 }] : List BarRelease), a.wf = false := by decide +kernel

theorem smoke_tallyReq :
    let b : TallyReq := ⟨0x10, 0, 0, 0, 0, 0, 0, 0⟩
    b.wf = true ∧ ∀ a ∈ ([
     { b with tag := 2 ^ 16 }, { b with f := 2 ^ 9 }, { b with k := 2 ^ 8 }, { b with x := 2 ^ 9 }, { b with y := 2 ^ 9 },
     { b with core := 2 ^ 2 }, { b with v := 2 ^ 64 }, { b with op := 0x0F }, { b with op := 0x16 }] : List TallyReq), a.wf = false := by decide +kernel

theorem smoke_tallyRsp :
    let b : TallyRsp := ⟨0, 0, 0, 0, 0⟩
    b.wf = true ∧ ∀ a ∈ ([
     { b with tag := 2 ^ 16 }, { b with x := 2 ^ 9 }, { b with y := 2 ^ 9 }, { b with core := 2 ^ 2 }, { b with old := 2 ^ 64 }] : List TallyRsp), a.wf = false := by decide +kernel

theorem smoke_nack :
    let b : Nack := ⟨1, 5, src1, src1, 0x12, 0, 0, 0⟩
    b.wf = true ∧ ∀ a ∈ ([
     { b with reason := 2 ^ 8 }, { b with tag := 2 ^ 16 }, { b with typ := 2 ^ 6 }, { b with chan := 2 ^ 6 },
     { b with chstate := 2 ^ 2 }, { b with var := 2 ^ 18 }, { b with target := { src1 with core := 4 } },
     { b with raiser := { src1 with core := 4 } }, { b with target := { src1 with stream := true } }] : List Nack), a.wf = false := by decide +kernel

theorem smoke_delivered :
    let b : Delivered := ⟨0, 5, src1, src1, 0⟩
    b.wf = true ∧ ∀ a ∈ ([
     { b with arg8 := 2 ^ 8 }, { b with tag := 2 ^ 16 }, { b with arg32 := 2 ^ 32 },
     { b with target := { src1 with core := 4 } }, { b with origin := { src1 with core := 4 } },
     { b with target := { src1 with stream := true } }] : List Delivered), a.wf = false := by decide +kernel

theorem smoke_rsvKey :
    let b : RsvKey := ⟨src1, 3, 5⟩
    b.wf = true ∧ ∀ a ∈ ([
     { b with rsv := 2 ^ 12 }, { b with tag := 2 ^ 16 }, { b with src := { src1 with core := 4 } }] : List RsvKey), a.wf = false := by decide +kernel

theorem smoke_mresGrant :
    let b : MresGrant := ⟨9, 32, 0, src1, 5, 64, 0, 0, 1, 1⟩
    b.wf = true ∧ ∀ a ∈ ([
     { b with mid := 2 ^ 12 }, { b with size := 2 ^ 15 }, { b with lease := 2 ^ 14 }, { b with tag := 2 ^ 16 },
     { b with addr := 2 ^ 18 }, { b with x := 2 ^ 9 }, { b with y := 2 ^ 9 }, { b with x1 := 2 ^ 9 }, { b with y1 := 2 ^ 9 },
     { b with source := { src1 with core := 4 } }] : List MresGrant), a.wf = false := by decide +kernel

theorem smoke_mresArrive :
    let b : MresArrive := ⟨9, 0, 0, 1, 0, src1⟩
    b.wf = true ∧ ∀ a ∈ ([
     { b with mid := 2 ^ 12 }, { b with phase := 2 ^ 1 }, { b with reasons := 2 ^ 5 }, { b with ok := 2 ^ 18 },
     { b with fail := 2 ^ 18 }, { b with source := { src1 with core := 4 } }] : List MresArrive), a.wf = false := by decide +kernel

theorem smoke_requester :
    let b : Requester := mg
    b.wf = true ∧ ∀ a ∈ ([
     { b with eng := 2 ^ 11 }, { b with x := 2 ^ 9 }, { b with y := 2 ^ 9 }, { b with core := 2 ^ 2 }] : List Requester), a.wf = false := by decide +kernel

theorem smoke_dictReq :
    let b : DictReq := rd 0x1001 1
    b.wf = true ∧ ∀ a ∈ ([
     { b with tag := 2 ^ 16 }, { b with index := 2 ^ 16 }, { b with sub := 2 ^ 8 }, { b with eng := 2 ^ 11 },
     { b with node := 2 ^ 16 }, { b with cell := 2 ^ 18 }, { b with toff := 2 ^ 16 }, { b with value := 2 ^ 64 },
     { b with who := { mg with core := 4 } }, { b with tlen := 4097, wr := false }, { b with data := [0] }] : List DictReq), a.wf = false := by decide +kernel

theorem smoke_dictRsp :
    let b : DictRsp := ⟨mg, 5, true, 0x4000, 2, 0, 0, 0, 0, 0, 0, 0, true, 0, [], true⟩
    b.wf = true ∧ ∀ a ∈ ([
     { b with tag := 2 ^ 16 }, { b with index := 2 ^ 16 }, { b with sub := 2 ^ 8 }, { b with eng := 2 ^ 11 },
     { b with node := 2 ^ 16 }, { b with cell := 2 ^ 18 }, { b with status := 2 ^ 8 }, { b with detail := 2 ^ 8 },
     { b with toff := 2 ^ 16 }, { b with value := 2 ^ 64 }, { b with who := { mg with core := 4 } }, { b with tlen := 4097 },
     { b with data := [0] }] : List DictRsp), a.wf = false := by decide +kernel

theorem smoke_portRec :
    let b : PortRec := ⟨1, true, 0, 0, false, false, 0, 1, 0⟩
    b.wf = true ∧ ∀ a ∈ ([
     { b with port := 2 ^ 7 }, { b with dim := 2 ^ 2 }, { b with dir := 2 ^ 1 }, { b with relayPair := 2 ^ 7 },
     { b with partner := 2 ^ 11 }, { b with partnerPort := 2 ^ 7 }] : List PortRec), a.wf = false := by decide +kernel

theorem smoke_timeBody :
    let b : TimeBody := ⟨0, 0, 0, false, false, false, false⟩
    b.wf = true ∧ ∀ a ∈ ([
     { b with ttx := 2 ^ 64 }, { b with techo := 2 ^ 64 }, { b with trx := 2 ^ 64 }] : List TimeBody), a.wf = false := by decide +kernel

theorem smoke_beacon :
    let b : Beacon := ⟨0, false, 0, 0⟩
    b.wf = true ∧ ∀ a ∈ ([
     { b with seq := 2 ^ 8 }, { b with res := 2 ^ 40 }, { b with tsend := 2 ^ 64 }] : List Beacon), a.wf = false := by decide +kernel

theorem smoke_halt :
    let b : Halt := ⟨0, true, src1, 1⟩
    b.wf = true ∧ ∀ a ∈ ([
     { b with group := 2 ^ 4 }, { b with t := 2 ^ 64 }, { b with origin := { src1 with core := 4 } }] : List Halt), a.wf = false := by decide +kernel

theorem smoke_hello :
    let b : Hello := ⟨0x100, 0, 1, 0, 0, 255, 0, 0, 255, zeros 32, zeros 97, List.replicate 12 64⟩
    b.wf = true ∧ ∀ a ∈ ([
     { b with version := 2 ^ 16 }, { b with features := 2 ^ 32 }, { b with engine := 2 ^ 11 }, { b with port := 2 ^ 8 },
     { b with role := 2 ^ 8 }, { b with lanesOk := 2 ^ 8 }, { b with conf := 2 ^ 8 }, { b with state := 2 ^ 8 },
     { b with pair := 2 ^ 8 }, { b with random := [] }, { b with epub := zeros 96 }, { b with rxbuf := [] },
     { b with rxbuf := List.replicate 12 65536 }] : List Hello), a.wf = false := by decide +kernel

theorem smoke_note :
    let b : Note := ⟨1, 0, 0, 0, [], zeros 97, zeros 96⟩
    b.wf = true ∧ ∀ a ∈ ([
     { b with origin := 2 ^ 11 }, { b with state := 2 ^ 8 }, { b with nseq := 2 ^ 32 }, { b with ft := 2 ^ 64 },
     { b with ports := List.replicate 97 ⟨1, true, 0, 0, false, false, 0, 1, 0⟩ },
     { b with ports := [{ (⟨1, true, 0, 0, false, false, 0, 1, 0⟩ : PortRec) with port := 128 }] }, { b with key := [] },
     { b with sig := [] }] : List Note), a.wf = false := by decide +kernel

theorem smoke_frame :
    let b : Frame := ⟨1, false, false, false, 0, 0, 0, [], zeros 16⟩
    b.wf = true ∧ ∀ a ∈ ([
     { b with kind := 2 ^ 4 }, { b with seq := 2 ^ 16 }, { b with ack := 2 ^ 16 }, { b with txl := 2 ^ 8 },
     { b with body := List.replicate 17 (zeros 36) }, { b with body := [zeros 35] }, { b with tag := zeros 15 }] : List Frame), a.wf = false := by decide +kernel

theorem smoke_packet :
    let b : Packet := pkt 0x10 1 (.transfer xfer)
    b.wf = true ∧ ∀ a ∈ ([
     { b with tail := .message ⟨1, 0, 32⟩ }, { b with cls := 0 }, { b with len := 0 }, { b with len := 65 },
     { b with tail := .transfer { xfer with addr := 2 ^ 40 } }, { b with hmin := 16 }, { b with dest := ⟨2048, 0, 0, 0⟩ },
     { b with src := { src1 with core := 4 } }, { b with tag := 2 ^ 16 }, { b with route := ⟨2, false, 0⟩ },
     { b with route := ⟨0, false, 4⟩ }, { b with bcheck := 2 ^ 32 }, { b with payload := zeros 33 }, { b with payload := [] }] : List Packet), a.wf = false := by decide +kernel

theorem smoke_mgmtReq :
    let b : MgmtReq := ⟨[]⟩
    b.wf = true ∧ ∀ a ∈ ([
     ⟨zeros 4137⟩] : List MgmtReq), a.wf = false := by decide +kernel

theorem smoke_transferTail :
    let t : TransferTail := xfer
    (Tail.transfer t).wf = true ∧ ∀ a ∈ ([
     { t with addr := 2 ^ 40 }, { t with size := 2 ^ 16 }, { t with rsv := 2 ^ 6 }, { t with rclass := 2 ^ 2 },
     { t with lease := 2 ^ 14 }, { t with off := 2 ^ 9 }, { t with tdx := 2 ^ 1 }, { t with sopx := 2 ^ 1 }] : List TransferTail), (Tail.transfer a).wf = false := by decide +kernel

theorem smoke_messageTail :
    let t : MessageTail := ⟨1, 0, 32⟩
    (Tail.message t).wf = true ∧ ∀ a ∈ ([
     { t with chan := 2 ^ 6 }, { t with epoch := 2 ^ 8 }, { t with mlen := 2 ^ 12 }] : List MessageTail), (Tail.message a).wf = false := by decide +kernel

theorem smoke_rectTail :
    let t : RectTail := ⟨1, 1, 64, 9, 0, 32⟩
    (Tail.rect t).wf = true ∧ ∀ a ∈ ([
     { t with x1 := 2 ^ 9 }, { t with y1 := 2 ^ 9 }, { t with addr := 2 ^ 18 }, { t with mid := 2 ^ 12 },
     { t with off := 2 ^ 9 }, { t with size := 2 ^ 12 }] : List RectTail), (Tail.rect a).wf = false := by decide +kernel

theorem smoke_tableTail :
    let t : TableTail := ⟨1023, 7, 0, 0, 0, 3, 0⟩
    (Tail.table t).wf = true ∧ ∀ a ∈ ([
     { t with tdesc := 2 ^ 10 }, { t with row := 2 ^ 36 }, { t with fep := 2 ^ 8 }, { t with op := 2 ^ 2 },
     { t with fmt := 2 ^ 5 }, { t with rsv := 2 ^ 6 }, { t with off := 2 ^ 9 }] : List TableTail), (Tail.table a).wf = false := by decide +kernel

theorem smoke_collTail :
    let t : CollTail := coll
    (Tail.coll t).wf = true ∧ ∀ a ∈ ([
     { t with ctx := 2 ^ 12 }, { t with epoch := 2 ^ 8 }, { t with slice := 2 ^ 20 }, { t with nsl := 2 ^ 7 },
     { t with count := 2 ^ 20 }, { t with fmt := 2 ^ 5 }, { t with level := 2 ^ 2 }, { t with phase := 2 ^ 1 }] : List CollTail), (Tail.coll a).wf = false := by decide +kernel

theorem smoke_commands_1 :
    ∀ i ∈ ([
     .put ⟨512, 0⟩, .counterRead c0 (2 ^ 2) 0 0, .counterRead c0 0 (2 ^ 8) 0, .counterRead c0 0 0 (2 ^ 4),
     .blockingWait c0 0 0 0 (2 ^ 32), .chPoll c0 0 0 (2 ^ 6), .chAdvance c0 0 0 0 (2 ^ 32) 0, .chAdvance c0 0 0 0 0 (2 ^ 32),
     .dataBeatReceive c0 9 (zeros 35) 0, .dataBeatReceive c0 0 [] 0, .dataBeatReceive c0 0 (zeros 35) (2 ^ 8),
     .creditSyncRspReceive c0 0 [], .anycastAdvertise (2 ^ 8), .anyWinReceive c0 0 (2 ^ 8) false, .signalBeatReceive c0 0 [] 0,
     .signalBeatReceive c0 0 (zeros 19) (2 ^ 10), .slsyncReceive c0 0 [], .creditSignalReceive c0 0 [],
     .barArriveAtRoot c0 ⟨4096, 0, 1, 0, 0, 0, 0, false⟩, .barrierPhaseTimeout (2 ^ 12),
     .barReleaseReceive c0 ⟨4096, 0, 1, false, 0, 0, 1, 1, 0⟩, .tallyRequestAtHome ⟨0x16, 0, 0, 0, 0, 0, 0, 0⟩,
     .tallyRspReceive ⟨65536, 0, 0, 0, 0⟩, .intReceive c0 0 (2 ^ 32) 0] : List Instr), i.wellFormed = false := by decide +kernel

theorem smoke_commands_2 :
    ∀ i ∈ ([
     .intReceive c0 0 0 (2 ^ 32), .wakeReceive (2 ^ 9) 0, .wakeReceive 0 (2 ^ 8),
     .nackReceive ⟨256, 5, src1, src1, 0x12, 0, 0, 0⟩, .deliveredReceive ⟨256, 5, src1, src1, 0⟩, .replyTimeoutExpiry c0 (2 ^ 8),
     .sendAdmission c0 (pkt 0x10 0 (.transfer xfer)), .chanStateWrite (wr .engine (2 ^ 16) 1 0),
     .reserveReceive (.port 96) (pkt 0x10 1 (.transfer xfer)), .reservationFilled (.router c0) ⟨src1, 4096, 5⟩,
     .bulkTimeoutExpiry c0 (2 ^ 6), .mresGrantReceive c0 ⟨4096, 32, 0, src1, 5, 64, 0, 0, 1, 1⟩,
     .mresArriveReceive ⟨4096, 0, 0, 1, 0, src1⟩, .callLimitExpiry { src1 with core := 4 } 0, .callLimitExpiry src1 (2 ^ 12),
     .sweepOriginate c0 (2 ^ 12) 0 0, .sweepOriginate c0 0 (2 ^ 8) 0, .sweepOriginate c0 0 0 (2 ^ 20),
     .exchangeSegmentSend c0 0 0 (2 ^ 20), .levelPacketArrive 96 (pkt 0x10 1 (.transfer xfer)), .levelWaitExpiry 0 (2 ^ 2) 0 0 0,
     .gatherReqReceive 24 0 (pkt 0x10 1 (.transfer xfer)), .gatherReqReceive 0 (2 ^ 5) (pkt 0x10 1 (.transfer xfer)),
     .coalescerReply 0 (2 ^ 10) 0] : List Instr), i.wellFormed = false := by decide +kernel

theorem smoke_commands_3 :
    ∀ i ∈ ([
     .coalescerReply 0 0 (2 ^ 36), .rdataReceive 0 0 0 [] (zeros 35) false false, .rdataReceive 0 0 0 (zeros 35) [] false false,
     .frameReceive 0 ⟨16, false, false, false, 0, 0, 0, [], zeros 16⟩ .clean, .trainingLock 0 (2 ^ 8) 0,
     .trainingLock 0 0 (2 ^ 8), .helloReceive 0 ⟨65536, 0, 1, 0, 0, 255, 0, 0, 255, zeros 32, zeros 97, List.replicate 12 64⟩,
     .certReceive 0 (zeros 6153), .proofReceive 0 [], .finishReceive 0 [], .rekeyStart 0 [] (zeros 97),
     .rekeyStart 0 (zeros 32) [], .laneDegrade 0 (2 ^ 3), .noteReceive 0 ⟨2048, 0, 0, 0, [], zeros 97, zeros 96⟩,
     .noteExpiry (2 ^ 11), .timeFrameReceive 0 ⟨2 ^ 64, 0, 0, false, false, false, false⟩, .commitLimitExpiry [512],
     .groupLeaseExpiry { mg with core := 4 }, .dictSegmentTimeout 0 mg (2 ^ 16),
     .dictRspReceive ⟨mg, 65536, true, 0x4000, 2, 0, 0, 0, 0, 0, 0, 0, true, 0, [], true⟩, .mgmtRequest ⟨zeros 4137⟩,
     .droopStretch 0 (2 ^ 7), .fieldWake 0 (2 ^ 8), .calmLinkArrival 0 (.note ⟨2048, 0, 0, 0, [], zeros 97, zeros 96⟩)] : List Instr), i.wellFormed = false := by decide +kernel

theorem smoke_commands_4 :
    ∀ i ∈ ([
     .comparatorFire (2 ^ 5), .beaconReceive 0 ⟨256, false, 0, 0⟩, .traceInput c0 0 [], .traceChunkSend c0 (2 ^ 4),
     .haltReceive c0 ⟨16, true, src1, 1⟩, .bringupAgents false [512],
     .bringupSelftest { routers := [⟨512, 0⟩], links := [], bypasses := [], lanes := [] }, .extest (List.replicate 65536 false),
     .mgmtReplyTimeout (2 ^ 8), .mctpControlRequest (.setEndpointId 256), .dynamicAddressAssignment (2 ^ 7),
     .frameReceive 0 ⟨1, false, false, false, 0, 0, 0, [], zeros 16⟩ (.corrected 0)] : List Instr), i.wellFormed = false := by decide +kernel

theorem smoke_well_formed_commands :
    ∀ i ∈ ([.put c0, .counterRead c0 3 7 15, .dataBeatReceive c0 0 (zeros 35) 0, .intReceive c0 0 0 0, .dictRequestReceive (rd 0x1001 1),
      .reserveReceive (.router c0) (pkt 0x10 1 (.transfer xfer)), .gatherReqReceive 0 31 (pkt 0x10 1 (.transfer xfer)), .idcode] : List Instr),
      i.wellFormed = true := by decide +kernel

theorem smoke_signals :
    (Signal.int { src1 with stream := true } src1 0).wf = false ∧ (Signal.wake { src1 with stream := true } src1 0).wf = false ∧
      (Signal.int src1 src1 (2 ^ 32)).wf = false ∧ (Signal.wake src1 src1 256).wf = false ∧ (Signal.anyWin 256 0 false).wf = false ∧
      (Signal.anyWin 0 256 false).wf = false ∧ (Signal.ringChange ⟨512, 0⟩ false false).wf = false ∧
      (Signal.credit c0 9 [0, 0, 0, 0]).wf = false ∧ (Signal.credit c0 0 [0, 0, 0, 256]).wf = false ∧
      (Signal.creditSyncReq c0 9).wf = false ∧ (Signal.creditSyncRsp c0 0 []).wf = false ∧ (Signal.slsync c0 0 []).wf = false := by decide +kernel

theorem smoke_sites_and_findings :
    (Site.drop 24 0).wf = false ∧ (Site.drop 0 32).wf = false ∧ (Site.port 96).wf = false ∧ (Site.router ⟨0, 512⟩).wf = false ∧
      (SelfTest.mk [] [(c0, 9)] [] []).wf = false ∧ (SelfTest.mk [] [] [(c0, 9)] []).wf = false ∧
      (SelfTest.mk [] [] [] [(c0, 2)]).wf = false ∧ (MctpControl.getVersionSupport 256).wf = false ∧
      (MctpControl.getVendorSupport 256).wf = false ∧ shapeOk 3 1 0 = false ∧ shapeOk 3 0 1 = false ∧ shapeOk 0x13 3 1 = false ∧
      shapeOk 0x20 1 1 = false := by decide +kernel

/-! ### Witnesses of the hypotheses of the statements -/

/-- The hypotheses of `StepRunsFrontCommand` can be met. -/
theorem witness_StepRunsFrontCommand :
  ∃ (s : State) (c : Instr) (rest : List Instr), s.pending = c :: rest :=
  ⟨{ w0 with pending := [.idcode] }, .idcode, [], by decide +kernel⟩

/-- The hypotheses of `EmptyQueueIdles` can be met. -/
theorem witness_EmptyQueueIdles :
  ∃ (s : State), s.pending = [] :=
  ⟨w0, by decide +kernel⟩

/-- The hypotheses of `MissingUnitStops` can be met. -/
theorem witness_MissingUnitStops :
  (∃ (s : State) (c : Coord), s.inGrid c = false) ∧
  (∃ (s : State) (c : Coord) (core : Nat), (s.inGrid c = false ∨ 4 ≤ core)) ∧
  (∃ (s : State) (c : Coord) (core : Nat) (k : Nat), (s.inGrid c = false ∨ 4 ≤ core ∨ 16 ≤ k)) ∧
  (∃ (s : State) (c : Coord) (core : Nat) (n : Nat), (s.inGrid c = false ∨ 4 ≤ core ∨ 64 ≤ n)) ∧
  (∃ (s : State) (c : Coord) (p : Nat), (s.inGrid c = false ∨ hasPort c p = false)) ∧
  (∃ (s : State) (f : Nat), s.nFields ≤ f) ∧
  (∃ (s : State) (st : Nat) (d : Nat), (s.stackFitted st = false ∨ 32 ≤ d)) ∧
  (∃ (s : State) (p : Nat), s.nPorts ≤ p) :=
  ⟨⟨w0, ⟨96, 0⟩, by decide +kernel⟩,
   ⟨w0, c0, 4, by decide +kernel⟩,
   ⟨w0, c0, 3, 16, by decide +kernel⟩,
   ⟨w0, c0, 3, 64, by decide +kernel⟩,
   ⟨w0, c0, 9, by decide +kernel⟩,
   ⟨w0, 16, by decide +kernel⟩,
   ⟨w0, 0, 32, by decide +kernel⟩,
   ⟨w0, 20, by decide +kernel⟩⟩

/-- The hypotheses of `PresentJoinsQueue` can be met. -/
theorem witness_PresentJoinsQueue :
  ∃ (s : State) (c : Coord) (core : Nat), s.inGrid c = true ∧ core < 4 ∧ (s.cell c).inReset = false ∧ (s.core c
    core).queue.length < 64 :=
  ⟨w0, ⟨95, 79⟩, 3, by decide +kernel⟩

/-- Every row of `acceptRows` has a head that is accepted, and one that is refused (with a reserved bit set). -/
theorem witness_HeadIsAcceptedOrRefused :
    (acceptRows.zip heads).length = acceptRows.length ∧ ∀ x ∈ acceptRows.zip heads, ∀ d ∈ [x.2, x.2 + 2 ^ 104],
      (wHead d).inGrid c0 = true ∧ (wHead d).portOpen c0 = true ∧
      ((wHead d).pickHead c0 4 ((((wHead d).cell c0).last + 1) % 4)).1 = some (0, d) ∧ kindOf d = x.1.2 ∧
      ((((wHead d).pickHead c0 4 ((((wHead d).cell c0).last + 1) % 4)).2.popHead c0 0).refusalCode c0 d).1 = if d = x.2 then 0 else 2 := by
  decide +kernel

/-- The hypotheses of `CounterOperations` can be met. -/
theorem witness_CounterOperations :
  (∃ (s : State) (c : Coord) (core : Nat) (k : Nat), s.inGrid c = true ∧ core < 4 ∧ k < 16 ∧ (s.cell c).inReset = false) ∧
  (∃ (s : State) (c : Coord) (core : Nat) (k : Nat) (v : Nat), s.inGrid c = true ∧ core < 4 ∧ k < 16 ∧ (s.cell c).inReset =
    false ∧ (s.core c core).waits.find? (fun w => w.k == k) = none ∧ atOrPast32 (s.counter c core k) v = true) ∧
  (∃ (s : State) (c : Coord) (core : Nat) (k : Nat) (v : Nat), s.inGrid c = true ∧ core < 4 ∧ k < 16 ∧ (s.cell c).inReset =
    false ∧ (s.core c core).waits.find? (fun w => w.k == k) = none ∧ atOrPast32 (s.counter c core k) v = false) ∧
  (∃ (s : State) (c : Coord) (core : Nat) (k : Nat) (w : Wait), s.inGrid c = true ∧ core < 4 ∧ k < 16 ∧ (s.core c
    core).waits.find? (fun w => w.k == k) = some w) ∧
  (∃ (s : State) (c : Coord) (core : Nat) (e : Nat) (rest : List Nat), s.inGrid c = true ∧ core < 4 ∧ (s.cell c).inReset = false
    ∧ (s.core c core).intq = e :: rest) ∧
  (∃ (s : State) (c : Coord) (core : Nat), s.inGrid c = true ∧ core < 4 ∧ (s.cell c).inReset = false ∧ (s.core c core).intq =
    []) :=
  ⟨⟨w0, c0, 3, 15, by decide +kernel⟩,
   ⟨w0, c0, 3, 15, 2 ^ 31 + 1, by decide +kernel⟩,
   ⟨w0, c0, 3, 15, 2 ^ 31, by decide +kernel⟩,
   ⟨wCore (fun q => { q with waits := [⟨15, 7, 5, 100⟩] }), c0, 3, 15, ⟨15, 7, 5, 100⟩, by decide +kernel⟩,
   ⟨wCore (fun q => { q with intq := [7] }), c0, 3, 7, [], by decide +kernel⟩,
   ⟨w0, c0, 3, by decide +kernel⟩⟩

/-- The hypotheses of `ChannelOperations` can be met. -/
theorem witness_ChannelOperations :
  (∃ (s : State) (c : Coord) (core : Nat) (n : Nat), s.inGrid c = true ∧ core < 4 ∧ n < 64 ∧ (s.cell c).inReset = false) ∧
  (∃ (s : State) (c : Coord) (core : Nat) (n : Nat), s.inGrid c = true ∧ core < 4 ∧ n < 64 ∧ (s.cell c).inReset = false ∧
    (s.core c core).chWaits.find? (fun w => w.n == n) = none ∧ s.chanReady c n = true) ∧
  (∃ (s : State) (c : Coord) (core : Nat) (n : Nat), s.inGrid c = true ∧ core < 4 ∧ n < 64 ∧ (s.cell c).inReset = false ∧
    (s.core c core).chWaits.find? (fun w => w.n == n) = none ∧ s.chanReady c n = false) ∧
  (∃ (s : State) (c : Coord) (core : Nat) (n : Nat) (w : ChWait), s.inGrid c = true ∧ core < 4 ∧ n < 64 ∧ (s.core c
    core).chWaits.find? (fun w => w.n == n) = some w) ∧
  (∃ (s : State) (c : Coord) (core : Nat) (n : Nat) (h : Nat) (g : Nat), s.canonical = true ∧ s.inGrid c = true ∧ core < 4 ∧ n <
    64 ∧ (s.cell c).inReset = false ∧ s.advanceCode c n (h % 2 ^ 32) (g % 2 ^ 32) = 0) :=
  ⟨⟨w0, c0, 3, 63, by decide +kernel⟩,
   ⟨w0, c0, 3, 0, by decide +kernel⟩,
   ⟨w0, c0, 3, 63, by decide +kernel⟩,
   ⟨wCore (fun q => { q with chWaits := [⟨63, 7, 100⟩] }), c0, 3, 63, ⟨63, 7, 100⟩, by decide +kernel⟩,
   ⟨w0.setReg (cellNode c0) 0 0x413F 0x0A 64, c0, 3, 63, 0, 64, by decide +kernel⟩⟩

/-- The hypotheses of `MessagesArrive` can be met: for the first clause by a message behind another of its flow, for the second by every row
in a field in Lull, for the last two by a message to an open channel and one that has its claim. -/
theorem witness_MessagesArrive :
    ({ w0 with flight := [{ msg1 with tag := 4 }, msg1] } : State).overtakes msg1 = true ∧
      (∀ r ∈ packetRows, wLull.inGrid c0 = true ∧ (rowPkt r.2.1 r.2.2).typ = r.2.1 ∧ r.2.2 (rowPkt r.2.1 r.2.2).tail = true ∧
        wLull.overtakes (rowPkt r.2.1 r.2.2) = false ∧ wLull.cellAwake c0 = false) ∧
      (wOpen.inGrid c0 = true ∧ wOpen.cellAwake c0 = true ∧ wOpen.overtakes msg1 = false ∧ (wOpen.cell c0).inReset = false ∧
        (wOpen.cell c0).msgUsed + 32 * msg1.len ≤ msgBuffer ∧ wOpen.admission c0 msg1 ⟨1, 0, 32⟩ = none) ∧
      (((wCell (fun q => { q with claims := [(1, [claim1])] })).takePkt msg1).chanClaims c0 1).find? (fun k =>
        k.src == msg1.src && k.tag == msg1.tag && ! k.done) = some claim1 ∧ payloadOk msg1 = true := by
  decide +kernel


/-- The hypotheses of `BeatsAndGusts` can be met. -/
theorem witness_BeatsAndGusts :
  (∃ (s : State) (c : Coord) (p : Nat) (cw : List Byte) (side : Nat) (b : Bool), s.inGrid c = true ∧ hasPort c p = true ∧ p < 8
    ∧ s.clockRuns (s.fieldOf c) = true ∧ (s.offWire c p cw side).isHole c = false ∧ ((s.wires.find? (fun w => w.isAt c p cw
    side)).map WireBeat.copy).getD false = b) ∧
  (∃ (s : State) (c : Coord) (p : Nat) (cw : List Byte) (side : Nat), s.inGrid c = true ∧ hasPort c p = true ∧ p < 8 ∧
    s.clockRuns (s.fieldOf c) = true ∧ (s.offWire c p cw side).isHole c = true) ∧
  (∃ (s : State) (c : Coord) (p : Nat) (cw : List Byte) (side : Nat) (b : Bool), s.inGrid c = true ∧ hasPort c p = true ∧ p < 8
    ∧ s.clockRuns (s.fieldOf c) = true ∧ bits side 0 4 = 0xE ∧ (s.offWire c p cw side).isHole c = false ∧ ((s.wires.find? (fun w
    => w.isAt c p cw side)).map WireBeat.copy).getD false = b) ∧
  (∃ (s : State) (c : Coord) (p : Nat), s.inGrid c = true ∧ hasPort c p = true ∧ s.clockRuns (s.fieldOf c) = true ∧ s.isHole c =
    false ∧ (s.outp c p).gust = none ∧ s.reg (cellNode c) 0 (0x4030 + p) 1 = 0) ∧
  (∃ (s : State) (c : Coord) (p : Nat), s.inGrid c = true ∧ hasPort c p = true ∧ s.clockRuns (s.fieldOf c) = true ∧ s.isHole c =
    false ∧ (s.outp c p).gust = none ∧ s.reg (cellNode c) 0 (0x4030 + p) 1 = 1) ∧
  (∃ (s : State) (c : Coord) (p : Nat) (l : Nat) (ls : List Nat), s.inGrid c = true ∧ hasPort c p = true ∧ p < 8 ∧ s.clockRuns
    (s.fieldOf c) = true ∧ beatLanes.filter (fun l => (s.lane c p l).freed != 0) = l :: ls) :=
  ⟨⟨w0, c0, 7, zeros 35, 0, false, by decide +kernel⟩,
   ⟨{ w0 with holes := [⟨⟨1, 0⟩, 2, 1, false⟩] }, ⟨1, 0⟩, 7, zeros 35, 0, by decide +kernel⟩,
   ⟨w0, c0, 7, zeros 35, 0xE, false, by decide +kernel⟩,
   ⟨((w1.inject c0 { pkt 0x10 1 (.transfer xfer) with dest := ⟨0, 1, 0, 0⟩, src := ⟨0, 0, 0, 0, false⟩ }).modField 0 (fun q =>
     { q with permits := [(cellKey c0, ⟨10 ^ 6, 0, 0, 0, []⟩)] })).setReg (cellNode c0) 0 0x4031 1 0, c0, 1, by decide +kernel⟩,
   ⟨((w1.inject c0 { pkt 0x10 1 (.transfer xfer) with dest := ⟨0, 1, 0, 0⟩, src := ⟨0, 0, 0, 0, false⟩ }).modField 0 (fun q =>
     { q with permits := [(cellKey c0, ⟨10 ^ 6, 0, 0, 0, []⟩)] })).setReg (cellNode c0) 0 0x4031 1 1, c0, 1, by decide +kernel⟩,
   ⟨w0.modLane c0 7 0 (fun l => { l with freed := 1 }), c0, 7, 0, [], by decide +kernel⟩⟩

/-- The hypotheses of `ArbitrationWindows` can be met. -/
theorem witness_ArbitrationWindows :
  (∃ (s : State) (c : Coord) (p : Nat), s.inGrid c = true ∧ hasPort c p = true ∧ s.clockRuns (s.fieldOf c) = true) ∧
  (∃ (s : State) (c : Coord) (p : Nat) (k : Nat) (own : Nat) (t : Nat), s.inGrid c = true ∧ hasPort c p = true ∧ s.clockRuns
    (s.fieldOf c) = true ∧ k = max (cdiv (s.fcCount (s.fieldOf c)) 4) (s.outp c p).claimed ∧ t = max s.time (s.fcTime (s.fieldOf
    c) (4 * k)) ∧ ({ s with time := t } : State).slotOwner c p k = own ∧ own ≤ 8) ∧
  (∃ (s : State) (c : Coord) (p : Nat), s.inGrid c = true ∧ hasPort c p = true ∧ s.clockRuns (s.fieldOf c) = true ∧ (List.range
    9).any (fun i => ! ((s.outp c p).req (5 * i + 2)).claims.isEmpty) = true) ∧
  (∃ (s : State) (c : Coord) (p : Nat) (t : List Byte), s.inGrid c = true ∧ hasPort c p = true ∧ s.clockRuns (s.fieldOf c) =
    true ∧ s.power (s.fieldOf c) ≠ 2 ∧ (s.outp c p).slots = some t) ∧
  (∃ (s : State) (c : Coord) (p : Nat), s.inGrid c = true ∧ hasPort c p = true ∧ s.clockRuns (s.fieldOf c) = false) :=
  ⟨⟨w0, c0, 8, by decide +kernel⟩,
   ⟨w0.setTab (cellNode c0) 0 0x4048 1 (Memory.writeN (objEmpty 0x4040 1) [] 0 [8]), c0, 8, 0, 8, (w0.setTab (cellNode c0) 0
     0x4048 1 (Memory.writeN (objEmpty 0x4040 1) [] 0 [8])).fcTime 0 0, by decide +kernel⟩,
   ⟨w0.modOut c0 8 (fun o => o.setReq 42 { o.req 42 with claims := [⟨0, false, false⟩] }), c0, 8, by decide +kernel⟩,
   ⟨w0.modOut c0 8 (fun o => { o with slots := some [3] }), c0, 8, [3], by decide +kernel⟩,
   ⟨w0.modField 0 (fun q => { q with stopped := true }), c0, 8, by decide +kernel⟩⟩

/-- The hypotheses of `CreditExchanges` can be met. -/
theorem witness_CreditExchanges :
  (∃ (s : State) (u : State) (c : Coord) (p : Nat), s.inGrid c = true ∧ hasPort c p = true ∧ p < 8 ∧ s.clockRuns (s.fieldOf c) =
    true) ∧
  (∃ (s : State) (c : Coord) (p : Nat), s.inGrid c = true ∧ hasPort c p = true ∧ p < 8 ∧ s.clockRuns (s.fieldOf c) = true ∧
    (s.outp c p).sync.isSome = true) ∧
  (∃ (s : State) (c : Coord) (p : Nat), s.inGrid c = true ∧ hasPort c p = true ∧ p < 8 ∧ s.clockRuns (s.fieldOf c) = true ∧
    (s.outp c p).sync.isSome = true) ∧
  (∃ (s : State) (c : Coord) (p : Nat) (y : SyncSt), s.inGrid c = true ∧ hasPort c p = true ∧ p < 8 ∧ s.clockRuns (s.fieldOf c)
    = true ∧ (s.outp c p).sync = some y) ∧
  (∃ (s : State) (c : Coord) (p : Nat), s.inGrid c = true ∧ hasPort c p = true ∧ p < 8 ∧ s.clockRuns (s.fieldOf c) = true ∧
    sigLanes.all (fun l => (s.lane c p l).freed == 0) = false) ∧
  (∃ (s : State) (c : Coord) (p : Nat), s.inGrid c = true ∧ hasPort c p = true ∧ p < 8 ∧ s.clockRuns (s.fieldOf c) = true) ∧
  (∃ (s : State) (c : Coord) (p : Nat), s.inGrid c = true ∧ hasPort c p = true ∧ p < 8) ∧
  (∃ (s : State) (c : Coord) (p : Nat), s.inGrid c = true ∧ hasPort c p = true ∧ p < 8 ∧ s.clockRuns (s.fieldOf c) = true) ∧
  (∃ (s : State) (c : Coord) (p : Nat), s.inGrid c = true ∧ hasPort c p = true ∧ p < 8 ∧ s.clockRuns (s.fieldOf c) = true) ∧
  (∃ (s : State) (c : Coord) (p : Nat), s.inGrid c = true ∧ hasPort c p = true ∧ p < 8 ∧ s.clockRuns (s.fieldOf c) = false) :=
  ⟨⟨w0, w0.takeLocal c0 7 (.creditSyncReq c0 7), c0, 7, by decide +kernel⟩,
   ⟨w0.modOut c0 7 (fun o => { o with sync := some ⟨0, none, none⟩ }), c0, 7, by decide +kernel⟩,
   ⟨w0.modOut c0 7 (fun o => { o with sync := some ⟨0, none, none⟩ }), c0, 7, by decide +kernel⟩,
   ⟨w0.modOut c0 7 (fun o => { o with sync := some ⟨0, none, none⟩ }), c0, 7, ⟨0, none, none⟩, by decide +kernel⟩,
   ⟨w0.modLane c0 7 2 (fun l => { l with freed := 1 }), c0, 7, by decide +kernel⟩,
   ⟨w0, c0, 7, by decide +kernel⟩,
   ⟨w0, c0, 7, by decide +kernel⟩,
   ⟨w0, c0, 7, by decide +kernel⟩,
   ⟨w0, c0, 7, by decide +kernel⟩,
   ⟨w0.modField 0 (fun q => { q with stopped := true }), c0, 7, by decide +kernel⟩⟩

/-- The hypotheses of `RecloseCompletes` can be met. -/
theorem witness_RecloseCompletes :
  (∃ (s : State) (c : Coord), s.inGrid c = true ∧ s.fences.contains (routerBlock c) = true ∧ s.isHole c = false) ∧
  (∃ (s : State) (c : Coord) (rb : Bool) (cb : Bool) (h : Coord), s.inGrid c = true ∧ s.holes.any (fun x => x.c == h && !
    s.bootHole x) = true ∧ (s.rtr c).applied.contains h = false) ∧
  (∃ (s : State) (h : Coord) (r : Reclose), s.inGrid h = true ∧ s.recloses.find? (fun r => r.hole == h) = some r) :=
  ⟨⟨{ w0 with fences := [routerBlock c0] }, c0, by decide +kernel⟩,
   ⟨{ w0 with holes := [⟨⟨1, 0⟩, 2, 1, false⟩] }, c0, false, false, ⟨1, 0⟩, by decide +kernel⟩,
   ⟨{ w0 with recloses := [⟨⟨1, 0⟩, [(c0, 0)]⟩] }, ⟨1, 0⟩, ⟨⟨1, 0⟩, [(c0, 0)]⟩, by decide +kernel⟩⟩

/-- The hypotheses of `AnycastSelection` can be met. -/
theorem witness_AnycastSelection :
  (∃ (s : State) (g : Nat), g < 256 ∧ s.anyMembers g ≠ []) ∧
  (∃ (s : State) (g : Nat), g < 256 ∧ s.reg .engine 0 (0x2100 + g) 1 ≠ 0 ∧ s.anyPeriod ≠ 0 ∧ s.tally (s.reg .engine 0 (0x2100 +
    g) 3) (254 + (s.anyPeriod - 1) % 2) = 0) ∧
  (∃ (s : State) (g : Nat) (v : Nat), g < 256 ∧ s.reg .engine 0 (0x2100 + g) 1 ≠ 0 ∧ s.anyPeriod ≠ 0 ∧ s.tally (s.reg .engine 0
    (0x2100 + g) 3) (254 + (s.anyPeriod - 1) % 2) = v ∧ v ≠ 0) ∧
  (∃ (s : State) (c : Coord), s.inGrid c = true) :=
  ⟨⟨({ w0 with time := 10 ^ 9 } : State).setReg .engine 0 0x21FF 1 1, 255, by decide +kernel⟩,
   ⟨({ w0 with time := 10 ^ 9 } : State).setReg .engine 0 0x21FF 1 1, 255, by decide +kernel⟩,
   ⟨(({ w0 with time := 10 ^ 9 } : State).setReg .engine 0 0x21FF 1 1).setTally 0 (254 + ((({ w0 with time := 10 ^ 9 } :
     State).setReg .engine 0 0x21FF 1 1).anyPeriod - 1) % 2) 300, 255, 300, by decide +kernel⟩,
   ⟨w0, ⟨95, 79⟩, by decide +kernel⟩⟩

/-- The hypotheses of `BarrierCompletes` can be met. -/
theorem witness_BarrierCompletes :
  (∃ (s : State) (c : Coord) (a : BarArrive), s.inGrid c = true ∧ a.bctx < 4096 ∧ s.bar c a.bctx 0x0A = 2 ∧ a.gen = s.bar c
    a.bctx 9 ∧ s.bar c a.bctx 0x0B + a.count ≤ s.bar c a.bctx 8 ∧ s.isHole c = false ∧ s.clockRuns (s.fieldOf c) = true) ∧
  (∃ (s : State) (k : Nat), k < 4096 ∧ s.isHole (s.barRoot k) = false ∧ s.bar (s.barRoot k) k 0x0A = 2) ∧
  (∃ (s : State) (c : Coord), s.inGrid c = true ∧ s.cellAwake c = true) :=
  ⟨⟨(w0.setReg (cellNode c0) 4095 0x2200 0x0A 2).setReg (cellNode c0) 4095 0x2200 8 1, c0, ⟨4095, 0, 1, 0, 0, 0, 0, false⟩,
    by decide +kernel⟩,
   ⟨(w0.setReg (cellNode c0) 4095 0x2200 0x0A 2).setReg (cellNode c0) 4095 0x2200 8 1, 4095, by decide +kernel⟩,
   ⟨w0, c0, by decide +kernel⟩⟩

/-- The hypotheses of `TallyAndInterrupts` can be met. -/
theorem witness_TallyAndInterrupts :
  (∃ (s : State) (q : TallyReq), q.f < s.nFields ∧ q.k < 256 ∧ 0x10 ≤ q.op ∧ q.op ≤ 0x15 ∧ s.isHole (s.tallyHome q.f q.k) =
    false ∧ s.clockRuns (s.fieldOf (s.tallyHome q.f q.k)) = true) ∧
  (∃ (s : State) (q : TallyReq), q.f < s.nFields ∧ q.k < 256 ∧ 0x10 ≤ q.op ∧ q.op ≤ 0x15 ∧ s.isHole (s.tallyHome q.f q.k) =
    true) ∧
  (∃ (s : State) (q : TallyRsp) (m : Cmd), s.inGrid ⟨q.x, q.y⟩ = true ∧ s.cellAwake ⟨q.x, q.y⟩ = true ∧ s.cmd? ⟨q.x, q.y⟩ q.tag
    = some m ∧ isTally m.desc = true) ∧
  (∃ (s : State) (c : Coord) (core : Nat) (origin : Nat) (arg : Nat), s.inGrid c = true ∧ core < 4 ∧ s.cellAwake c = true ∧
    s.isHole c = false ∧ (s.cell c).inReset = false ∧ (s.core c core).intq.length < 16) ∧
  (∃ (s : State) (c : Coord) (core : Nat) (origin : Nat) (arg : Nat), s.inGrid c = true ∧ core < 4 ∧ s.cellAwake c = false ∧
    s.sigs.contains (.int ⟨s.engine, c.x, c.y, core, false⟩ (srcAddrOf origin) arg) = true) ∧
  (∃ (s : State) (f : Nat) (arg : Nat), f < s.nFields ∧ arg ≤ 1) :=
  ⟨⟨w0, ⟨0x15, 0, 15, 255, 0, 0, 0, 0⟩, by decide +kernel⟩,
   ⟨{ w0 with holes := [⟨w0.tallyHome 15 255, 2, 1, false⟩] }, ⟨0x15, 0, 15, 255, 0, 0, 0, 0⟩, by decide +kernel⟩,
   ⟨wCell (fun q => { q with cmds := [cmd (6 + 2 ^ 128 * 0x15)] }), ⟨5, 0, 0, 0, 0⟩, cmd (6 + 2 ^ 128 * 0x15),
     by decide +kernel⟩,
   ⟨wCore (fun q => { q with intq := List.replicate 15 0 }), c0, 3, 7, 9, by decide +kernel⟩,
   ⟨{ (w0.setReg (.field 0) 0 0xA010 5 2) with sigs := [.int ⟨0, 0, 0, 3, false⟩ (srcAddrOf 7) 9] }, c0, 3, 7, 9,
     by decide +kernel⟩,
   ⟨w0, 15, 1, by decide +kernel⟩⟩

/-- The hypotheses of `RepliesComplete` can be met. -/
theorem witness_RepliesComplete :
  (∃ (s : State) (n : Nack), s.inGrid (srcCell n.target) = true ∧ n.target.eng = s.engine ∧ s.cellAwake (srcCell n.target) =
    true) ∧
  (∃ (s : State) (d : Delivered) (m : Cmd), s.inGrid (srcCell d.target) = true ∧ d.target.eng = s.engine ∧ s.cellAwake (srcCell
    d.target) = true ∧ s.cmd? (srcCell d.target) d.tag = some m ∧ kindOf m.desc = .send) ∧
  (∃ (s : State) (r : DictRsp) (m : Cmd), s.inGrid ⟨r.who.x, r.who.y⟩ = true ∧ r.who.mgmt = false ∧ r.who.eng = s.engine ∧
    r.whole = true ∧ s.cellAwake ⟨r.who.x, r.who.y⟩ = true ∧ s.cmd? ⟨r.who.x, r.who.y⟩ r.tag = some m ∧ kindOf m.desc =
    .dictWrite ∧ r.wr = true) ∧
  (∃ (s : State) (c : Coord) (slot : Nat) (m : Cmd) (t : Nat), s.inGrid c = true ∧ (s.cell c).cmds.find? (fun m => m.slot ==
    slot) = some m ∧ m.deadline = some t) :=
  ⟨⟨w0, ⟨1, 5, ⟨0, 95, 79, 3, false⟩, src1, 0x12, 0, 0, 0⟩, by decide +kernel⟩,
   ⟨wCell (fun q => { q with cmds := [cmd 3] }), ⟨0, 5, ⟨0, 0, 0, 0, false⟩, src1, 0⟩, cmd 3, by decide +kernel⟩,
   ⟨wCell (fun q => { q with cmds := [cmd (8 + 2 ^ 179)] }), ⟨⟨0, 0, 0, 0, false⟩, 5, true, 0x4000, 2, 0, 0, 0, 0, 0, 0, 0,
     true, 0, [], true⟩, cmd (8 + 2 ^ 179), by decide +kernel⟩,
   ⟨wCell (fun q => { q with cmds := [cmd 3] }), c0, 5, cmd 3, 100, by decide +kernel⟩⟩

/-- The hypotheses of `ReservationsProceed` can be met. -/
theorem witness_ReservationsProceed :
  (∃ (s : State) (c : Coord) (p : Packet) (t : TransferTail), s.inGrid c = true ∧ s.cellAwake c = true ∧ s.overtakes p = false ∧
    p.typ = 1 ∧ p.tail = .transfer t ∧ (s.cell c).inReset = false ∧ (s.landing (.router c)).queue.length < 256) ∧
  (∃ (s : State) (p : Nat) (pk : Packet) (t : TransferTail), p < s.nPorts ∧ s.cellAwake (s.siteCell (.port p)) = true ∧
    s.overtakes pk = false ∧ pk.typ = 1 ∧ pk.tail = .transfer t ∧ (s.port p).treq.length < 256) ∧
  (∃ (s : State) (c : Coord), s.inGrid c = true ∧ (s.landing (.router c)).ready = true) ∧
  (∃ (s : State) (c : Coord) (p : Packet) (t : TransferTail) (r : SrcRsv) (m : Cmd), s.inGrid c = true ∧ s.cellAwake c = true ∧
    s.overtakes p = false ∧ p.typ = 2 ∧ p.tail = .transfer t ∧ s.srcRsv? c t.rsv = some r ∧ r.use = .cmd ∧ r.tag = p.tag ∧ r.st
    = .asked ∧ s.cmd? c r.tag = some m ∧ kindOf m.desc = .put) ∧
  (∃ (s : State) (c : Coord) (p : Packet) (t : TransferTail), s.inGrid c = true ∧ s.cellAwake c = true ∧ s.overtakes p = false ∧
    p.typ = 3 ∧ p.tail = .transfer t ∧ (s.cell c).inReset = false ∧ ((s.takePkt p).landing (.router c)).queued ⟨keySrc p, t.rsv,
    p.tag⟩ = true) ∧
  (∃ (s : State) (c : Coord) (rsv : Nat) (r : SrcRsv), s.inGrid c = true ∧ rsv < 64 ∧ s.srcRsv? c rsv = some r ∧ (r.st = .asked
    ∨ r.st = .awaiting)) :=
  ⟨⟨w0, c0, pkt 1 0 (.transfer xfer), xfer, by decide +kernel⟩,
   ⟨w0, 19, pkt 1 0 (.transfer xfer), xfer, by decide +kernel⟩,
   ⟨wCell (fun q => { q with landing := ⟨[7], [⟨⟨src1, 3, 5⟩, 32, 0, ⟨0, 0, 0, 0⟩, .put 0⟩], []⟩ }), c0, by decide +kernel⟩,
   ⟨wCell (fun q => { q with rsvs := [rsv .asked], cmds := [cmd 1] }), c0, pkt 2 0 (.transfer xfer), xfer, rsv .asked, cmd 1,
     by decide +kernel⟩,
   ⟨wCell (fun q => { q with landing := ⟨[], [⟨⟨src1, 3, 5⟩, 32, 0, ⟨0, 0, 0, 0⟩, .put 0⟩], []⟩ }), c0, pkt 3 0 (.transfer
     xfer), xfer, by decide +kernel⟩,
   ⟨wCell (fun q => { q with rsvs := [Tests.rsv .awaiting] }), c0, 3, Tests.rsv .awaiting, by decide +kernel⟩⟩

/-- The hypotheses of `PayloadsLand` can be met. -/
theorem witness_PayloadsLand :
  (∃ (s : State) (c : Coord) (p : Packet) (t : TransferTail) (r : LRsv) (a : Nat), s.inGrid c = true ∧ s.cellAwake c = true ∧
    s.overtakes p = false ∧ p.typ = 0x10 ∧ p.tail = .transfer t ∧ (s.cell c).inReset = false ∧ s.landInject (.router c) p = (p,
    s) ∧ s.landCase (.router c) ⟨keySrc p, t.rsv, p.tag⟩ t.off t.size p = .lands r ∧ r.kind = .put a) ∧
  (∃ (s : State) (c : Coord) (k : RsvKey) (r : LRsv) (a : Nat), s.inGrid c = true ∧ (s.landing (.router c)).find k = some r ∧
    r.st = .filling ∧ r.size ≤ r.written ∧ r.kind = .put a ∧ s.segmentOf r a = none) ∧
  (∃ (s : State) (u : State) (c : Coord) (k : RsvKey) (r : LRsv) (a : Nat), s.inGrid c = true ∧ (s.landing (.router c)).find k =
    some r ∧ r.st = .filling ∧ r.written < r.size ∧ r.kind = .put a ∧ u = ((((s.awaitFt (s.siteField (.router c))
    r.expiry).modLanding (.router c) (fun l => l.finish k)).ringEvent c 8 0 (k.rsv + 64 * k.tag)).bumpLanding (.router c) 5)) ∧
  (∃ (s : State) (p : Nat) (k : RsvKey) (g : TransitGrant), p < s.nPorts ∧ (s.port p).ledger.find? (fun g => sameKey g.key k) =
    some g) ∧
  (∃ (s : State) (c : Coord) (p : Packet) (t : TransferTail), s.inGrid c = true ∧ s.cellAwake c = true ∧ s.overtakes p = false ∧
    p.typ = 4 ∧ p.tail = .transfer t ∧ (s.cell c).inReset = false) ∧
  (∃ (s : State) (c : Coord) (p : Packet) (t : TransferTail) (r : SrcRsv), s.inGrid c = true ∧ s.cellAwake c = true ∧
    s.overtakes p = false ∧ p.typ = 0x11 ∧ p.tail = .transfer t ∧ (s.cell c).inReset = false ∧ s.landInject (.router c) p = (p,
    s) ∧ s.srcRsv? c t.rsv = some r ∧ r.tag = p.tag ∧ r.st = .own) :=
  ⟨⟨wCell (fun q => { q with landing := landing1 (land (.put 64) .granted 0) }), c0, pkt 0x10 1 (.transfer xfer), xfer, land
    (.put 64) .granted 0, 64, by decide +kernel⟩,
   ⟨wCell (fun q => { q with landing := landing1 (land (.put 64) .filling 32) }), c0, ⟨src1, 3, 5⟩, land (.put 64) .filling 32,
     64, by decide +kernel⟩,
   ⟨wCell (fun q => { q with landing := landing1 (land (.put 64) .filling 31) }),
     (((({ wCell (fun q => { q with landing := landing1 (land (.put 64) .filling 31) }) with time := max 0 100 } :
     State).modLanding (.router c0) (fun l => l.finish ⟨src1, 3, 5⟩)).ringEvent c0 8 0 (3 + 64 * 5)).bumpLanding (.router c0)
     5), c0, ⟨src1, 3, 5⟩, land (.put 64) .filling 31, 64, by decide +kernel⟩,
   ⟨w0.modPort 19 (fun q => { q with ledger := [⟨⟨src1, 3, 5⟩, 1, 0, 8, 100⟩] }), 19, ⟨src1, 3, 5⟩, ⟨⟨src1, 3, 5⟩, 1, 0, 8,
     100⟩, by decide +kernel⟩,
   ⟨w0, c0, pkt 4 0 (.transfer xfer), xfer, by decide +kernel⟩,
   ⟨wCell (fun q => { q with rsvs := [rsv .own] }), c0, pkt 0x11 1 (.transfer xfer), xfer, rsv .own, by decide +kernel⟩⟩

/-- The hypotheses of `MulticastProceeds` can be met. -/
theorem witness_MulticastProceeds :
  (∃ (s : State) (c : Coord) (g : MresGrant), s.inGrid c = true ∧ g.x ≤ c.x ∧ c.x ≤ g.x1 ∧ g.y ≤ c.y ∧ c.y ≤ g.y1 ∧ s.cellAwake
    c = true ∧ (s.cell c).inReset = false ∧ (s.cell c).landing.queue.length < 256) ∧
  (∃ (s : State) (a : MresArrive), s.inGrid (srcCell a.source) = true ∧ a.source.stream = false ∧ s.cellAwake (srcCell a.source)
    = true) ∧
  (∃ (s : State) (src : SrcAddr) (mid : Nat) (r : SrcRsv), s.inGrid (srcCell src) = true ∧ src.stream = false ∧ (s.cell (srcCell
    src)).rsvs.find? (fun r => r.mid == mid && r.st == .call) = some r) ∧
  (∃ (s : State) (c : Coord) (p : Packet) (t : RectTail) (r : LRsv) (a : Nat) (g : MresGrant), s.inGrid c = true ∧ s.cellAwake c
    = true ∧ s.overtakes p = false ∧ s.rectOvertakes c p = false ∧ p.typ = 0x13 ∧ p.tail = .rect t ∧ (s.cell c).inReset = false
    ∧ s.landInject (.router c) p = (p, s) ∧ s.landCase (.router c) ⟨keySrc p, t.mid, p.tag⟩ t.off t.size p = .lands r ∧ r.kind =
    .mcast a g) ∧
  (∃ (s : State) (c : Coord) (p : Packet) (t : RectTail), s.inGrid c = true ∧ s.cellAwake c = true ∧ p.typ = 0x13 ∧ p.tail =
    .rect t ∧ s.rectOvertakes c p = true) :=
  ⟨⟨w0, ⟨1, 1⟩, ⟨9, 32, 0, src1, 5, 64, 0, 0, 1, 1⟩, by decide +kernel⟩,
   ⟨w0, ⟨9, 0, 0, 1, 0, src1⟩, by decide +kernel⟩,
   ⟨wCell (fun q => { q with rsvs := [rsv .call] }), ⟨0, 0, 0, 0, false⟩, 9, rsv .call, by decide +kernel⟩,
   ⟨wCell (fun q =>
     { q with landing := ⟨[], [], [{ land (.mcast 64 ⟨9, 32, 0, src1, 5, 64, 0, 0, 1, 1⟩) .granted 0 with key := ⟨src1, 9, 5⟩ }]⟩ }),
     c0, pkt 0x13 1 (.rect ⟨1, 1, 64, 9, 0, 32⟩), ⟨1, 1, 64, 9, 0, 32⟩,
     { land (.mcast 64 ⟨9, 32, 0, src1, 5, 64, 0, 0, 1, 1⟩) .granted 0 with key := ⟨src1, 9, 5⟩ }, 64, ⟨9, 32, 0, src1, 5, 64,
     0, 0, 1, 1⟩, by decide +kernel⟩,

     ⟨{ wCell (fun q => { q with landing := ⟨[], [], [{ land (.mcast 64 ⟨9, 32, 0, src1, 5, 64, 0, 0, 1, 1⟩) .granted 0 with key := ⟨src1, 9, 5⟩, size := 2080, grains := [some 0, some 1], expiry := 9 }]⟩ }) with flight := [{ pkt 0x13 1 (.rect ⟨1, 1, 64, 9, 0, 2048⟩) with dest := ⟨0, 1, 1, 5⟩ }, { pkt 0x13 1 (.rect ⟨1, 1, 2112, 9, 64, 32⟩) with dest := ⟨0, 1, 1, 5⟩ }] },
     c0, { pkt 0x13 1 (.rect ⟨1, 1, 2112, 9, 64, 32⟩) with dest := ⟨0, 1, 1, 5⟩ }, ⟨1, 1, 2112, 9, 64, 32⟩, by decide +kernel⟩⟩

/-- The hypotheses of `SweepsProceed` can be met. -/
theorem witness_SweepsProceed :
  (∃ (s : State) (c : Coord) (ctx : Nat) (e : Nat) (k : Nat) (d : Dep), s.inGrid c = true ∧ ctx < 4096 ∧ (s.spec ctx).measured =
    false ∧ s.dep? c ⟨ctx, e, k⟩ = some d ∧ s.ownState c 1 ⟨ctx, e, k⟩ = .pending) ∧
  (∃ (s : State) (c : Coord) (p : Packet) (t : CollTail), s.inGrid c = true ∧ s.cellAwake c = true ∧ s.overtakes p = false ∧
    p.typ = 0x21 ∧ p.tail = .coll t ∧ t.pass = false ∧ s.rootFor (packetPh p) t.ctx t.epoch t.slice ≠ some c ∧ (s.arm?
    t.ctx).isSome = true ∧ payloadOk p = true) ∧
  (∃ (s : State) (c : Coord) (ctx : Nat) (e : Nat) (k : Nat) (w : PSlot), s.inGrid c = true ∧ ctx < 4096 ∧ s.slot? c 1 ⟨ctx, e,
    k⟩ [.half, .col, .row] = some w ∧ w.wait ≠ 0) ∧
  (∃ (s : State) (c : Coord) (ctx : Nat) (e : Nat) (k : Nat) (w : PSlot), s.inGrid c = true ∧ ctx < 4096 ∧ s.slot? c 1 ⟨ctx, e,
    k⟩ [.col] = some w ∧ w.wait ≠ 0) ∧
  (∃ (s : State) (c : Coord) (ctx : Nat) (e : Nat) (k : Nat), s.inGrid c = true ∧ ctx < 4096 ∧ (s.spec ctx).measured = false ∧
    (s.gath c 1 ⟨ctx, e, k⟩).passed = false) :=
  ⟨⟨wCtx (fun q => { q with deps := [{ dep with read := true }] }), c0, 5, 0, 0, { dep with read := true }, by decide +kernel⟩,
   ⟨wCtx id, ⟨1, 0⟩, pkt 0x21 2 (.coll coll), coll, by decide +kernel⟩,
   ⟨wCtx (fun q => { q with slots := [slot 1 .half] }), c0, 5, 0, 0, slot 1 .half, by decide +kernel⟩,
   ⟨wCtx (fun q => { q with slots := [slot 1 .col] }), c0, 5, 0, 0, slot 1 .col, by decide +kernel⟩,
   ⟨wCtx id, c0, 5, 0, 0, by decide +kernel⟩⟩

/-- The hypotheses of `RootsProceed` can be met. -/
theorem witness_RootsProceed :
  (∃ (s : State) (c : Coord) (p : Packet) (t : CollTail), s.inGrid c = true ∧ s.cellAwake c = true ∧ s.overtakes p = false ∧
    p.typ = 0x21 ∧ p.tail = .coll t ∧ s.rootFor 1 t.ctx t.epoch t.slice = some c ∧ (s.arm? t.ctx).isSome = true ∧ payloadOk p =
    true) ∧
  (∃ (s : State) (c : Coord) (ctx : Nat) (w : PSlot) (r : Nat) (p : Part) (s1 : State), s.inGrid c = true ∧ ctx < 4096 ∧ (s.coll
    c).slots.find? (fun w => w.ctx == ctx && w.spill.isSome) = some w ∧ s.canTake c ctx false = true ∧ w.spill = some r ∧
    s.spillRead c ctx r = (some p, s1)) ∧
  (∃ (s : State) (c : Coord) (ctx : Nat) (e : Nat) (k : Nat) (w : PSlot), s.inGrid c = true ∧ ctx < 4096 ∧ s.slot? c 1 ⟨ctx, e,
    k⟩ [.root] = some w) ∧
  (∃ (s : State) (c : Coord) (ctx : Nat) (e : Nat) (k : Nat) (d : Dep), s.inGrid c = true ∧ ctx < 4096 ∧ s.dep? c ⟨ctx, e, k⟩ =
    some d ∧ d.vLeft ≠ []) ∧
  (∃ (s : State) (c : Coord) (ctx : Nat) (e : Nat) (k : Nat) (d : Dep), s.inGrid c = true ∧ ctx < 4096 ∧ s.dep? c ⟨ctx, e, k⟩ =
    some d ∧ (s.geo ctx).lands c k = true ∧ d.landed = false) ∧
  (∃ (s : State) (c : Coord) (p : Packet) (t : CollTail), s.inGrid c = true ∧ s.cellAwake c = true ∧ s.overtakes p = false ∧
    p.typ = 0x23 ∧ p.tail = .coll t ∧ t.level = 0) ∧
  (∃ (s : State) (c : Coord) (p : Packet) (t : CollTail), s.inGrid c = true ∧ s.cellAwake c = true ∧ s.overtakes p = false ∧
    p.typ = 0x20 ∧ p.tail = .coll t ∧ t.level = 0 ∧ s.ctx t.ctx 2 ≠ 5) ∧
  (∃ (s : State) (c : Coord) (ctx : Nat) (e : Nat) (k : Nat), s.inGrid c = true ∧ ctx < 4096 ∧ (s.slot? c 0 ⟨ctx, e, k⟩
    [.root]).isSome = true) :=
  ⟨⟨wCtx id, c0, pkt 0x21 2 (.coll coll), coll, by decide +kernel⟩,
   ⟨(wCtx (fun q => { q with slots := [{ slot 1 .root with spill := some 0 }] })).spillWrite c0
     ({ slot 1 .root with spill := some 0 }) ⟨[], 0⟩ 0, c0, 5, { slot 1 .root with spill := some 0 }, 0, (((wCtx (fun q =>
     { q with slots := [{ slot 1 .root with spill := some 0 }] })).spillWrite c0 ({ slot 1 .root with spill := some 0 }) ⟨[], 0⟩
     0).spillRead c0 5 0).1.getD ⟨[], 0⟩, (((wCtx (fun q =>
     { q with slots := [{ slot 1 .root with spill := some 0 }] })).spillWrite c0 ({ slot 1 .root with spill := some 0 }) ⟨[], 0⟩
     0).spillRead c0 5 0).2, by decide +kernel⟩,
   ⟨wCtx (fun q => { q with slots := [slot 1 .root] }), c0, 5, 0, 0, slot 1 .root, by decide +kernel⟩,
   ⟨wCtx (fun q => { q with deps := [{ dep with read := true }] }), c0, 5, 0, 0, { dep with read := true }, by decide +kernel⟩,
   ⟨wCtx (fun q => { q with deps := [{ dep with read := true }] }), c0, 5, 0, 0, { dep with read := true }, by decide +kernel⟩,
   ⟨wCtx id, c0, pkt 0x23 2 (.coll coll), coll, by decide +kernel⟩,
   ⟨wCtx id, c0, pkt 0x20 2 (.coll coll), coll, by decide +kernel⟩,
   ⟨wCtx (fun q => { q with slots := [slot 0 .root] }), c0, 5, 0, 0, by decide +kernel⟩⟩

/-- The hypotheses of `ExchangeAndDual` can be met. -/
theorem witness_ExchangeAndDual :
  (∃ (s : State) (c : Coord) (ctx : Nat) (e : Nat) (dst : Nat) (x : ExSt) (a : Addr), s.inGrid c = true ∧ ctx < 4096 ∧ s.exch? c
    ctx e = some x ∧ x.local_ = 1 ∧ s.segDest ctx dst = some a) ∧
  (∃ (s : State) (ctx : Nat) (e : Nat) (m : Coord) (x : ExSt), ctx < 4096 ∧ s.ctx ctx 2 = 5 ∧ s.levels ctx ≠ 0 ∧ m ∈ (s.geo
    ctx).members ∧ s.exch? m ctx e = some x ∧ x.local_ = 1) ∧
  (∃ (s : State) (c : Coord) (p : Packet) (t : CollTail), s.inGrid c = true ∧ s.cellAwake c = true ∧ s.overtakes p = false ∧
    p.typ = 0x24 ∧ p.tail = .coll t ∧ s.checkRoot t.ctx t.epoch t.slice = some (srcCell p.src) ∧ s.rootFor 1 t.ctx t.epoch
    t.slice = some c ∧ s.slicesDone c t = true) ∧
  (∃ (s : State) (c : Coord) (p : Packet) (t : CollTail), s.inGrid c = true ∧ s.cellAwake c = true ∧ s.overtakes p = false ∧
    p.typ = 0x24 ∧ p.tail = .coll t ∧ s.thirdMill t.ctx t.epoch t.slice = some (srcCell p.src) ∧ s.rootFor 1 t.ctx t.epoch
    t.slice = some c ∧ s.slicesDone c t = true) ∧
  (∃ (s : State) (c : Coord) (ctx : Nat) (e : Nat) (k : Nat) (h : HoldEnt) (p : Part) (s1 : State), s.inGrid c = true ∧ ctx <
    4096 ∧ s.hold? c ⟨ctx, e, k⟩ = some h ∧ h.third = false ∧ ({ s with time := max s.time h.deadline } : State).holdRead c h =
    (some p, s1)) ∧
  (∃ (s : State) (c : Coord) (ctx : Nat) (e : Nat) (k : Nat) (h : HoldEnt), s.inGrid c = true ∧ ctx < 4096 ∧ s.hold? c ⟨ctx, e,
    k⟩ = some h ∧ h.third = true) ∧
  (∃ (s : State) (c : Coord) (p : Packet) (t : CollTail), s.inGrid c = true ∧ s.cellAwake c = true ∧ s.overtakes p = false ∧
    p.typ = 0x23 ∧ p.tail = .coll t ∧ t.pass = true ∧ (s.arm? t.ctx).isSome = true) ∧
  (∃ (s : State) (c : Coord), s.inGrid c = true ∧ s.power (s.fieldOf c) = 1 ∧ s.reg .engine 0 0x8001 6 = 1 ∧ s.isHole c = false) :=
  ⟨⟨(wCtx (fun q => { q with exch := [⟨5, 0, 0, 1, 0, []⟩] })).setReg .engine 5 0x5000 2 5, c0, 5, 0, 1, ⟨5, 0, 0, 1, 0, []⟩,
    ⟨0, 1, 0, 0⟩, by decide +kernel⟩,
   ⟨(((wCtx (fun q => { q with exch := [⟨5, 0, 0, 1, 0, []⟩] })).setReg .engine 5 0x5000 2 5).setReg .engine 5 0x5000 0x16
     16).setTab .engine 5 0x5000 0x16 (Memory.writeN (objEmpty 0x5000 0x16) [] 0 (leBytes 16 1)), 5, 0, c0, ⟨5, 0, 0, 1, 0, []⟩,
     by decide +kernel⟩,
   ⟨((wCtx (fun q => { q with done := [(1, ⟨5, 0, 1⟩)] })).setReg .engine 5 0x5000 0x15 1), c0,
     { pkt 0x24 2 (.coll { coll with slice := 1 }) with src := ⟨0, 72, 20, 0, false⟩ }, { coll with slice := 1 },
     by decide +kernel⟩,
   ⟨((wCtx (fun q => { q with done := [(1, ⟨5, 0, 1⟩)] })).setReg .engine 5 0x5000 0x15 1), c0,
     { pkt 0x24 2 (.coll { coll with slice := 1 }) with src := ⟨0, 72, 60, 0, false⟩ }, { coll with slice := 1 },
     by decide +kernel⟩,

     ⟨({ ((wCtx (fun q => { q with holds := [⟨⟨5, 0, 0⟩, 0, false, 100, ⟨[], 0⟩, ⟨[], 0⟩, none⟩] })).memWrite c0 0 (partRecord ((wCtx id).spec 5) 0 0 ⟨[], 0⟩)) with armed := [(5, some ⟨[], 0, 0, 0, 1⟩)] }),
     c0, 5, 0, 0, ⟨⟨5, 0, 0⟩, 0, false, 100, ⟨[], 0⟩, ⟨[], 0⟩, none⟩,
     (({ ({ ((wCtx (fun q => { q with holds := [⟨⟨5, 0, 0⟩, 0, false, 100, ⟨[], 0⟩, ⟨[], 0⟩, none⟩] })).memWrite c0 0 (partRecord ((wCtx id).spec 5) 0 0 ⟨[], 0⟩)) with armed := [(5, some ⟨[], 0, 0, 0, 1⟩)] }) with time := max 0 100 }
     : State).holdRead c0 ⟨⟨5, 0, 0⟩, 0, false, 100, ⟨[], 0⟩, ⟨[], 0⟩, none⟩).1.getD ⟨[], 0⟩,
     (({ ({ ((wCtx (fun q => { q with holds := [⟨⟨5, 0, 0⟩, 0, false, 100, ⟨[], 0⟩, ⟨[], 0⟩, none⟩] })).memWrite c0 0 (partRecord ((wCtx id).spec 5) 0 0 ⟨[], 0⟩)) with armed := [(5, some ⟨[], 0, 0, 0, 1⟩)] }) with time := max 0 100 }
     : State).holdRead c0 ⟨⟨5, 0, 0⟩, 0, false, 100, ⟨[], 0⟩, ⟨[], 0⟩, none⟩).2, by decide +kernel⟩,
   ⟨wCtx (fun q => { q with holds := [⟨⟨5, 0, 0⟩, 0, true, 100, ⟨[], 0⟩, ⟨[], 0⟩, none⟩] }), c0, 5, 0, 0, ⟨⟨5, 0, 0⟩, 0, true,
     100, ⟨[], 0⟩, ⟨[], 0⟩, none⟩, by decide +kernel⟩,
   ⟨wCtx id, c0, pkt 0x23 2 (.coll { coll with pass := true }), { coll with pass := true }, by decide +kernel⟩,
   ⟨(w0.setReg (.field 0) 0 0xA010 5 1).setReg .engine 0 0x8001 6 1, c0, by decide +kernel⟩⟩

/-- The hypotheses of `LevelsProceed` can be met. -/
theorem witness_LevelsProceed :
  (∃ (s : State) (p : Nat) (pk : Packet) (t : CollTail), p < s.nPorts ∧ s.cellAwake (s.siteCell (.port p)) = true ∧ s.overtakes
    pk = false ∧ pk.typ = 0x21 ∧ pk.cls = 2 ∧ pk.tail = .coll t ∧ s.armedFor t.ctx t.epoch = true ∧ payloadOk pk = true) ∧
  (∃ (s : State) (p : Nat) (ctx : Nat) (e : Nat) (k : Nat) (o : LvOwn) (q : Part), p < s.nPorts ∧ ctx < 4096 ∧ s.lvOwn? p 1 1
    ⟨ctx, e, k⟩ = some o ∧ o.part = some q ∧ o.carrier = false ∧ (s.spec ctx).carried = true ∧ (s.spec ctx).measured = false) ∧
  (∃ (s : State) (p : Nat) (l : Nat) (ctx : Nat) (e : Nat) (k : Nat) (w : LvSlot), p < s.nPorts ∧ l ≤ 3 ∧ ctx < 4096 ∧ s.lvSlot?
    p 1 l ⟨ctx, e, k⟩ false = some w ∧ w.wait ≠ 0) ∧
  (∃ (s : State) (p : Nat) (l : Nat) (ctx : Nat) (e : Nat) (k : Nat) (o : LvOwn) (q : Part), p < s.nPorts ∧ l ≤ 3 ∧ ctx < 4096 ∧
    s.lvOwn? p 1 l ⟨ctx, e, k⟩ = some o ∧ o.part = some q) ∧
  (∃ (s : State) (p : Nat) (l : Nat) (ctx : Nat) (e : Nat) (k : Nat) (w : LvSlot), p < s.nPorts ∧ l ≤ 3 ∧ ctx < 4096 ∧ s.ctx ctx
    2 ≠ 5 ∧ s.lvSlot? p 1 l ⟨ctx, e, k⟩ true = some w) ∧
  (∃ (s : State) (p : Nat) (l : Nat) (ctx : Nat) (e : Nat) (k : Nat) (w : LvSlot), p < s.nPorts ∧ l ≤ 3 ∧ ctx < 4096 ∧ s.ctx ctx
    2 ≠ 5 ∧ s.lvSlot? p 0 l ⟨ctx, e, k⟩ true = some w) ∧
  (∃ (s : State) (p : Nat) (pk : Packet) (t : CollTail), p < s.nPorts ∧ s.cellAwake (s.siteCell (.port p)) = true ∧ s.overtakes
    pk = false ∧ pk.typ = 0x23 ∧ pk.cls = 2 ∧ pk.tail = .coll t ∧ t.level ≠ 0 ∧ s.armedFor t.ctx t.epoch = true ∧ t.level ≤
    s.levels t.ctx) :=
  ⟨⟨wCtx id, 19, pkt 0x21 2 (.coll { coll with level := 1 }), { coll with level := 1 }, by decide +kernel⟩,
   ⟨(((wCtx id).setReg .engine 5 0x5000 7 0x13000000).setReg .engine 5 0x5000 6 1).modPort 19 (fun q =>
     { q with lv := { q.lv with owns := [⟨1, 1, ⟨5, 0, 0⟩, some ⟨[], 0⟩, false, 0, false⟩] } }), 19, 5, 0, 0, ⟨1, 1, ⟨5, 0, 0⟩,
     some ⟨[], 0⟩, false, 0, false⟩, ⟨[], 0⟩, by decide +kernel⟩,
   ⟨w0.modPort 19 (fun q => { q with lv := { q.lv with slots := [⟨1, 3, ⟨5, 0, 0⟩, false, 0, ⟨[], 0⟩, 50, 100, src1⟩] } }), 19,
     3, 5, 0, 0, ⟨1, 3, ⟨5, 0, 0⟩, false, 0, ⟨[], 0⟩, 50, 100, src1⟩, by decide +kernel⟩,
   ⟨w0.modPort 19 (fun q => { q with lv := { q.lv with owns := [⟨1, 3, ⟨5, 0, 0⟩, some ⟨[], 0⟩, false, 0, false⟩] } }), 19, 3,
     5, 0, 0, ⟨1, 3, ⟨5, 0, 0⟩, some ⟨[], 0⟩, false, 0, false⟩, ⟨[], 0⟩, by decide +kernel⟩,
   ⟨w0.modPort 19 (fun q => { q with lv := { q.lv with slots := [⟨1, 3, ⟨5, 0, 0⟩, true, 0, ⟨[], 0⟩, 50, 100, src1⟩] } }), 19,
     3, 5, 0, 0, ⟨1, 3, ⟨5, 0, 0⟩, true, 0, ⟨[], 0⟩, 50, 100, src1⟩, by decide +kernel⟩,
   ⟨w0.modPort 19 (fun q => { q with lv := { q.lv with slots := [⟨0, 3, ⟨5, 0, 0⟩, true, 0, ⟨[], 0⟩, 50, 100, src1⟩] } }), 19,
     3, 5, 0, 0, ⟨0, 3, ⟨5, 0, 0⟩, true, 0, ⟨[], 0⟩, 50, 100, src1⟩, by decide +kernel⟩,
   ⟨((wCtx id).setReg .engine 5 0x5000 0x16 16).setTab .engine 5 0x5000 0x16 (Memory.writeN (objEmpty 0x5000 0x16) [] 0 (leBytes
     16 1)), 19, pkt 0x23 2 (.coll { coll with level := 1 }), { coll with level := 1 }, by decide +kernel⟩⟩

/-- The hypotheses of `TablesProceed` can be met. -/
theorem witness_TablesProceed :
  (∃ (s : State) (st : Nat) (d : Nat) (p : Packet) (t : TableTail), s.stackFitted st = true ∧ d < 32 ∧ s.cellAwake (dropCell st
    d) = true ∧ s.overtakes p = false ∧ p.typ = 5 ∧ p.tail = .table t ∧ s.dropLive st d = true ∧ (s.tbl t.tdesc).loaded = true ∧
    (s.tbl t.tdesc).beyond st t.row = false ∧ (s.drop st d).queueUsed < 1024) ∧
  (∃ (s : State) (st : Nat) (td : Nat) (row : Nat) (d : Nat) (e : Coal), s.stackFitted st = true ∧ td < 1024 ∧ d < 32 ∧
    (List.range 32).findSome? (fun d => ((s.drop st d).ents.find? (fun e => e.tdesc == td && e.row == row && e.ready)).map (fun
    e => (d, e))) = some (d, e) ∧ e.pooled = true ∧ e.err = false) ∧
  (∃ (s : State) (c : Coord) (p : Packet) (t : TableTail) (m : Cmd) (r : SrcRsv), s.inGrid c = true ∧ s.cellAwake c = true ∧
    s.overtakes p = false ∧ p.typ = 0x14 ∧ p.tail = .table t ∧ (s.cell c).inReset = false ∧ s.landInject (.router c) p = (p, s)
    ∧ s.cmd? c p.tag = some m ∧ s.srcRsv? c t.rsv = some r ∧ r.tag = p.tag ∧ kindOf m.desc = .getGather) ∧
  (∃ (s : State) (st : Nat) (d : Nat) (p : Packet) (t : TableTail) (r : LRsv), s.stackFitted st = true ∧ d < 32 ∧ s.cellAwake
    (dropCell st d) = true ∧ s.overtakes p = false ∧ p.typ = 0x15 ∧ p.tail = .table t ∧ s.landInject (.drop st d) p = (p, s) ∧
    (s.landing (.drop st d)).find ⟨keySrc p, t.rsv, p.tag⟩ = some r ∧ s.ft (s.siteField (.drop st d)) < r.expiry ∧ r.st ≠
    .failed) ∧
  (∃ (s : State) (st : Nat) (d : Nat) (p : Packet) (t : TableTail), s.stackFitted st = true ∧ d < 32 ∧ s.cellAwake (dropCell st
    d) = true ∧ s.overtakes p = false ∧ p.typ = 6 ∧ p.tail = .table t ∧ s.dropLive st d = true ∧ (s.drop st d).queueUsed < 1024
    ∧ (s.drop st d).flushes.any (fun f => f.tdesc == t.tdesc) = false) ∧
  (∃ (s : State) (st : Nat) (d : Nat) (td : Nat) (f : DropFlush), s.stackFitted st = true ∧ d < 32 ∧ td < 1024 ∧ (s.drop st
    d).flushes.find? (fun f => f.tdesc == td) = some f ∧ f.busy = false ∧ f.wait.any (fun k => ((s.drop st d).landing.find
    k).isSome) = false) ∧
  (∃ (s : State) (a : Delivered) (st : Nat) (d : Nat) (l : LeadFlush), s.inGrid (srcCell a.target) = true ∧ a.target.eng =
    s.engine ∧ s.dropAt (srcCell a.target) = some (st, d) ∧ (s.drop st d).leads.find? (fun l => l.tdesc == bits a.arg32 0 10 &&
    decide (l.epoch = bits a.arg32 10 8) && l.tag == a.tag && l.open_.contains (srcCell a.origin)) = some l) ∧
  (∃ (s : State) (td : Nat) (i : Nat) (l : LeadFlush), td < 1024 ∧ (List.range 768).findSome? (fun i => ((s.drop (i / 32) (i %
    32)).leads.find? (fun l => l.tdesc == td)).map (fun l => (i, l))) = some (i, l)) :=
  ⟨⟨((wDrop id).setReg .engine 1023 0x6000 2 1).setReg .engine 1023 0x6000 4 8, 0, 31, pkt 5 0 (.table ⟨1023, 7, 0, 0, 0, 3,
    0⟩), ⟨1023, 7, 0, 0, 0, 3, 0⟩, by decide +kernel⟩,
   ⟨wDrop (fun q =>
     { q with ents := [⟨1, 1023, ⟨1, 0, 8, 32, 0, 0, false, 0⟩, 7, [], false, 0, [], true, false, false, false⟩] }), 0, 1023, 7,
     31, ⟨1, 1023, ⟨1, 0, 8, 32, 0, 0, false, 0⟩, 7, [], false, 0, [], true, false, false, false⟩, by decide +kernel⟩,
   ⟨wCell (fun q => { q with cmds := [cmd (2 + 2 ^ 10)], rsvs := [rsv .own] }), c0, pkt 0x14 1 (.table ⟨1023, 7, 0, 0, 0, 3,
     0⟩), ⟨1023, 7, 0, 0, 0, 3, 0⟩, cmd (2 + 2 ^ 10), rsv .own, by decide +kernel⟩,
   ⟨wDrop (fun q => { q with landing := landing1 (land (.scatter 0 1023 0) .granted 0) }), 0, 31, pkt 0x15 1 (.table ⟨1023, 7,
     0, 0, 0, 3, 0⟩), ⟨1023, 7, 0, 0, 0, 3, 0⟩, land (.scatter 0 1023 0) .granted 0, by decide +kernel⟩,
   ⟨wDrop id, 0, 31, pkt 6 0 (.table ⟨1023, 7, 0, 0, 0, 3, 0⟩), ⟨1023, 7, 0, 0, 0, 3, 0⟩, by decide +kernel⟩,
   ⟨wDrop (fun q =>
     { q with flushes := [⟨1023, 0, pkt 6 0 (.table ⟨1023, 7, 0, 0, 0, 3, 0⟩), [], false, none, [], false, [], 0, false, false⟩] }),
     0, 31, 1023, ⟨1023, 0, pkt 6 0 (.table ⟨1023, 7, 0, 0, 0, 3, 0⟩), [], false, none, [], false, [], 0, false, false⟩,
     by decide +kernel⟩,
   ⟨wDrop (fun q =>
     { q with leads := [⟨1023, 0, 5, 0, [⟨1, 0⟩], 0, 0, ⟨⟨0, 0, 0, 0, false⟩, 5, true, 0x6000, 0x0C, 0, 0, 0, 0, 0, false, 0, [], true⟩⟩] }),
     ⟨0, 5, ⟨0, 66, 56, 0, false⟩, src1, 1023⟩, 0, 31, ⟨1023, 0, 5, 0, [⟨1, 0⟩], 0, 0, ⟨⟨0, 0, 0, 0, false⟩, 5, true, 0x6000,
     0x0C, 0, 0, 0, 0, 0, false, 0, [], true⟩⟩, by decide +kernel⟩,
   ⟨wDrop (fun q =>
     { q with leads := [⟨1023, 0, 5, 0, [⟨1, 0⟩], 0, 0, ⟨⟨0, 0, 0, 0, false⟩, 5, true, 0x6000, 0x0C, 0, 0, 0, 0, 0, false, 0, [], true⟩⟩] }),
     1023, 31, ⟨1023, 0, 5, 0, [⟨1, 0⟩], 0, 0, ⟨⟨0, 0, 0, 0, false⟩, 5, true, 0x6000, 0x0C, 0, 0, 0, 0, 0, false, 0, [], true⟩⟩,
     by decide +kernel⟩⟩

/-- The hypotheses of `DropTransactions` can be met. -/
theorem witness_DropTransactions :
  (∃ (s : State) (st : Nat) (d : Nat) (tag : Nat) (t : Txn), s.stackFitted st = true ∧ d < 32 ∧ tag < 256 ∧ (s.drop st
    d).txns.find? (fun t => t.tag == tag && (t.code == 1 || t.code == 3)) = some t) ∧
  (∃ (s : State) (st : Nat) (d : Nat) (tag : Nat) (t : Txn), s.stackFitted st = true ∧ d < 32 ∧ tag < 256 ∧ s.eng.testMode =
    false ∧ (s.drop st d).txns.find? (fun t => t.tag == tag && (t.code == 2 || t.code == 4)) = some t ∧ t.late = false) ∧
  (∃ (s : State) (st : Nat) (d : Nat) (tag : Nat) (t : Txn), s.stackFitted st = true ∧ d < 32 ∧ tag < 256 ∧ (s.drop st
    d).txns.find? (fun t => t.tag == tag && ! t.late && t.use != .boot) = some t) ∧
  (∃ (s : State) (st : Nat) (d : Nat), s.stackFitted st = true ∧ d < 32 ∧ s.fences.contains (dropBlock st d) = true ∧ s.dropLive
    st d = true) :=
  ⟨⟨wDrop (fun q => { q with txns := [⟨1, 0, [], [], .get 1, 0, 255, 0, false⟩] }), 0, 31, 255, ⟨1, 0, [], [], .get 1, 0, 255,
    0, false⟩, by decide +kernel⟩,
   ⟨wDrop (fun q => { q with txns := [⟨2, 0, [], [], .get 1, 0, 255, 0, false⟩] }), 0, 31, 255, ⟨2, 0, [], [], .get 1, 0, 255,
     0, false⟩, by decide +kernel⟩,
   ⟨wDrop (fun q => { q with txns := [⟨1, 0, [], [], .get 1, 0, 255, 0, false⟩] }), 0, 31, 255, ⟨1, 0, [], [], .get 1, 0, 255,
     0, false⟩, by decide +kernel⟩,
   ⟨{ (wDrop id) with fences := [dropBlock 0 31] }, 0, 31, by decide +kernel⟩⟩

/-- The hypotheses of `FramesAndPackets` can be met. -/
theorem witness_FramesAndPackets :
  (∃ (s : State) (p : Nat) (fec : Fec), p < s.nPorts ∧ s.portState p = 4 ∧ (s.port p).widening = false ∧ fec ≠ .bad) ∧
  (∃ (s : State) (p : Nat), p < s.nPorts ∧ s.portState p = 4 ∧ (s.port p).widening = false) ∧
  (∃ (s : State) (p : Nat), p < s.nPorts ∧ (s.port p).widening = true) ∧
  (∃ (s : State) (p : Nat), p < s.nPorts ∧ s.portUp p = true ∧ (s.port p).nakAt ≠ 0) ∧
  (∃ (s : State) (p : Nat), p < s.nPorts ∧ (s.port p).replay ≠ []) ∧
  (∃ (s : State) (p : Nat), p < s.nPorts ∧ s.portUp p = true ∧ (s.port p).freed ≠ (s.port p).told) ∧
  (∃ (s : State) (p : Nat) (pk : Packet), p < s.nPorts ∧ s.mayEnter p pk = true ∧ pk.dest.eng = s.engine ∧ s.levelEntry pk =
    none ∧ s.isDescent pk = false ∧ s.entrySluice p pk = none ∧ s.reg .engine 0 0x8140 0x14 = 0 ∧ s.strayLevel pk = false) ∧
  (∃ (s : State) (p : Nat) (pk : Packet), p < s.nPorts ∧ s.mayEnter p pk = true ∧ pk.dest.eng = s.engine ∧ s.entrySluice p pk =
    none ∧ s.reg .engine 0 0x8140 0x14 = 0 ∧ s.strayLevel pk = true) ∧
  (∃ (s : State) (p : Nat) (pk : Packet), p < s.nPorts ∧ s.portUp p = true ∧ pk.dest.eng ≠ s.engine ∧ s.levelEntry pk = none ∧
    s.isDescent pk = false ∧ s.sluicePkt p pk = none) :=
  ⟨⟨wPort 4 id, 0, .corrected 3, by decide +kernel⟩,
   ⟨wPort 4 id, 0, by decide +kernel⟩,
   ⟨wPort 4 (fun q => { q with widening := true }), 0, by decide +kernel⟩,
   ⟨wPort 5 (fun q => { q with nakAt := 1 }), 0, by decide +kernel⟩,
   ⟨wPort 4 (fun q => { q with replay := [⟨0, 0, [], 0, []⟩] }), 0, by decide +kernel⟩,
   ⟨wPort 4 (fun q => { q with freed := List.replicate 12 1 }), 0, by decide +kernel⟩,
   ⟨(((((((wPort 4 id).setReg (w1.portNode 0) 0 0x7010 3 1).setReg (w1.portNode 0) 0 0x7030 2 15).setReg (w1.portNode 0) 0
     0x7030 4 15)).setTab (w1.portNode 0) 0 0x7030 1 (Memory.writeN (objEmpty 0x7030 1) [] 0 [3])).setTab (w1.portNode 0) 0
     0x7030 3 (Memory.writeN (objEmpty 0x7030 3) [] 0 (zeros 8))).setReg (w1.portNode 0) 0 0x7030 3 8, 0, pkt 0x10 1 (.transfer
     xfer), by decide +kernel⟩,
   ⟨((((((((wPort 4 id).setReg (w1.portNode 0) 0 0x7010 3 1).setReg (w1.portNode 0) 0 0x7030 2 15).setReg (w1.portNode 0) 0
     0x7030 4 15)).setTab (w1.portNode 0) 0 0x7030 1 (Memory.writeN (objEmpty 0x7030 1) [] 0 [3])).setTab (w1.portNode 0) 0
     0x7030 3 (Memory.writeN (objEmpty 0x7030 3) [] 0 (zeros 8))).setReg (w1.portNode 0) 0 0x7030 3 8).setReg (w1.portNode 0) 0
     0x7030 7 4095, 0, { pkt 0x21 2 (.coll { coll with level := 1 }) with dest := ⟨0, 0, 0, 3⟩ }, by decide +kernel⟩,
   ⟨((((((((wPort 4 id).setReg (w1.portNode 0) 0 0x7010 3 1).setReg (w1.portNode 0) 0 0x7030 2 15).setReg (w1.portNode 0) 0
     0x7030 4 15)).setTab (w1.portNode 0) 0 0x7030 1 (Memory.writeN (objEmpty 0x7030 1) [] 0 [3])).setTab (w1.portNode 0) 0
     0x7030 3 (Memory.writeN (objEmpty 0x7030 3) [] 0 (zeros 8))).setReg (w1.portNode 0) 0 0x7030 3 8).setReg (w1.portNode 0) 0
     0x7030 9 1, 0, { pkt 0x10 1 (.transfer xfer) with dest := ⟨1, 0, 0, 0⟩ }, by decide +kernel⟩⟩

/-- The hypotheses of `TrainingAndHandshake` can be met. -/
theorem witness_TrainingAndHandshake :
  (∃ (s : State) (p : Nat), p < s.nPorts ∧ s.mayTrain = true ∧ s.portState p = 1 ∧ s.reg .engine 0 0x8140 0x14 = 0 ∧ s.reg
    .engine 0 0xA011 4 ≠ 2) ∧
  (∃ (s : State) (p : Nat) (a : Nat) (b : Nat), p < s.nPorts ∧ s.mayTrain = true ∧ s.portState p = 2 ∧ s.widthFor p (s.reg
    .engine 0 0x7001 8) (((a % 256) &&& s.liveLanes p) &&& (b % 256)) ≠ 0) ∧
  (∃ (s : State) (p : Nat), p < s.nPorts ∧ s.portState p = 2) ∧
  (∃ (s : State) (p : Nat) (h : Hello), p < s.nPorts ∧ s.portState p = 3 ∧ (s.port p).hs.partner = none ∧ (s.port p).hs.own.any
    (fun a => a.random == h.random) = false) ∧
  (∃ (s : State) (p : Nat), p < s.nPorts ∧ s.portState p = 3 ∧ (s.port p).hs.partner.isSome = true ∧ (s.port p).hs.partnerCert =
    none) ∧
  (∃ (s : State) (p : Nat) (a : Hello) (b : Hello), p < s.nPorts ∧ s.portState p = 3 ∧ (s.port p).hs.own = some a ∧ (s.port
    p).hs.partner = some b ∧ (s.port p).hs.leaf ≠ [] ∧ (s.port p).hs.proofPartner = none) ∧
  (∃ (s : State) (p : Nat) (a : Hello) (b : Hello) (sig : List Byte), p < s.nPorts ∧ s.portState p = 3 ∧ (s.port p).hs.own =
    some a ∧ (s.port p).hs.partner = some b ∧ (s.port p).hs.proofPartner = some sig) ∧
  (∃ (s : State) (p : Nat), p < s.nPorts ∧ s.portState p = 3) ∧
  (∃ (s : State) (p : Nat), p < s.nPorts ∧ s.portUp p = true ∧ (s.port p).rekey = none ∧ 2 ^ s.reg .engine 0 0x7002 0x0B ≤
    (s.port p).tx.count) ∧
  (∃ (s : State) (p : Nat), p < s.nPorts ∧ s.portUp p = true) ∧
  (∃ (s : State) (p : Nat) (k : KeySt) (due : Nat), p < s.nPorts ∧ (s.port p).rxOld = some (k, due)) :=
  ⟨⟨wPort 1 id, 0, by decide +kernel⟩,
   ⟨wPort 2 id, 0, 255, 255, by decide +kernel⟩,
   ⟨wPort 2 id, 0, by decide +kernel⟩,
   ⟨wPort 3 id, 0, ⟨0x100, 0, 1, 0, 0, 255, 0, 0, 255, zeros 32, [], List.replicate 12 64⟩, by decide +kernel⟩,
   ⟨wPort 3 (fun q =>
     { q with hs := { q.hs with partner := some ⟨0x100, 0, 1, 0, 0, 255, 0, 0, 255, zeros 32, [], List.replicate 12 64⟩ } }), 0,
     by decide +kernel⟩,
   ⟨wPort 3 (fun q =>
     { q with hs := { q.hs with own := some ⟨0x100, 0, 1, 0, 0, 255, 0, 0, 255, zeros 32, [], List.replicate 12 64⟩, partner := some ⟨0x100, 0, 1, 0, 0, 255, 0, 0, 255, zeros 32, [], List.replicate 12 64⟩, leaf := [1] } }),
     0, ⟨0x100, 0, 1, 0, 0, 255, 0, 0, 255, zeros 32, [], List.replicate 12 64⟩, ⟨0x100, 0, 1, 0, 0, 255, 0, 0, 255, zeros 32,
     [], List.replicate 12 64⟩, by decide +kernel⟩,
   ⟨wPort 3 (fun q =>
     { q with hs := { q.hs with own := some ⟨0x100, 0, 1, 0, 0, 255, 0, 0, 255, zeros 32, [], List.replicate 12 64⟩, partner := some ⟨0x100, 0, 1, 0, 0, 255, 0, 0, 255, zeros 32, [], List.replicate 12 64⟩, proofPartner := some [1] } }),
     0, ⟨0x100, 0, 1, 0, 0, 255, 0, 0, 255, zeros 32, [], List.replicate 12 64⟩, ⟨0x100, 0, 1, 0, 0, 255, 0, 0, 255, zeros 32,
     [], List.replicate 12 64⟩, [1], by decide +kernel⟩,
   ⟨wPort 3 id, 0, by decide +kernel⟩,
   ⟨wPort 4 (fun q => { q with tx := { q.tx with count := 2 ^ 40 } }), 0, by decide +kernel⟩,
   ⟨wPort 5 id, 0, by decide +kernel⟩,
   ⟨wPort 4 (fun q => { q with rxOld := some (KeySt.null, 9) }), 0, KeySt.null, 9, by decide +kernel⟩⟩

/-- The hypotheses of `PortsInService` can be met. -/
theorem witness_PortsInService :
  (∃ (s : State) (p : Nat), p < s.nPorts ∧ s.portState p = 6 ∧ s.lport p 0x0D ≠ 11) ∧
  (∃ (s : State) (p : Nat), p < s.nPorts ∧ s.portUp p = true) ∧
  (∃ (s : State) (p : Nat) (lane : Nat), p < s.nPorts ∧ lane < 8 ∧ s.portUp p = true ∧ clrBit (s.lport p 8) lane ≠ s.lport p 8 ∧
    s.widthFor p (s.lport p 0x0B) (clrBit (s.lport p 8) lane) = 0) ∧
  (∃ (s : State) (p : Nat) (lane : Nat), p < s.nPorts ∧ lane < 8 ∧ s.portUp p = true ∧ clrBit (s.lport p 8) lane ≠ s.lport p 8 ∧
    s.widthFor p (s.lport p 0x0B) (clrBit (s.lport p 8) lane) ≠ 0) ∧
  (∃ (s : State) (p : Nat), p < s.nPorts ∧ s.portUp p = true ∧ (s.port p).widening = true) ∧
  (∃ (s : State) (p : Nat), p < s.nPorts ∧ s.portUp p = true) ∧
  (∃ (s : State) (p : Nat) (d : Nat) (ds : List Nat), p < s.nPorts ∧ s.portUp p = true ∧ s.stallDues p = d :: ds) ∧
  (∃ (s : State) (p : Nat), p < s.nPorts ∧ s.stallDues p = []) ∧
  (∃ (s : State) (p : Nat), p < s.nPorts ∧ s.portUp p = true) :=
  ⟨⟨wPort 6 id, 0, by decide +kernel⟩,
   ⟨wPort 4 id, 0, by decide +kernel⟩,
   ⟨(wPort 4 id).setReg (w1.portNode 0) 0 0x7010 8 0x80, 0, 7, by decide +kernel⟩,
   ⟨(wPort 4 id).setReg (w1.portNode 0) 0 0x7010 8 0xFF, 0, 7, by decide +kernel⟩,
   ⟨wPort 4 (fun q => { q with widening := true }), 0, by decide +kernel⟩,
   ⟨wPort 4 id, 0, by decide +kernel⟩,
   ⟨wPort 4 (fun q => { q with replay := [⟨0, 0, [], 0, []⟩], progAt := 7 }), 0, 7 + (wPort 4 id).linkTimer 2 1000, [],
     by decide +kernel⟩,
   ⟨wPort 4 id, 0, by decide +kernel⟩,
   ⟨wPort 4 id, 0, by decide +kernel⟩⟩

/-- The hypotheses of `NotesRoutesTime` can be met. -/
theorem witness_NotesRoutesTime :
  (∃ (s : State) (p : Nat), p < s.nPorts ∧ s.portUp p = true) ∧
  (∃ (s : State) (o : Nat) (e : NoteEnt), o < 2048 ∧ s.eng.notes.find? (fun e => e.note.origin == o) = some e) ∧
  (∃ (s : State) (p : Nat), p < s.nPorts ∧ s.portUp p = true ∧ bit (s.lport p 0x0B) 1 = true ∧ (s.port p).widening = false) ∧
  (∃ (s : State) (p : Nat), p < s.nPorts ∧ s.portUp p = true ∧ bit (s.lport p 0x0B) 1 = true) :=
  ⟨⟨wPort 4 id, 0, by decide +kernel⟩,
   ⟨wEng (fun e => { e with notes := [⟨⟨2047, 0, 0, 0, [], [], []⟩, 0⟩] }), 2047, ⟨⟨2047, 0, 0, 0, [], [], []⟩, 0⟩,
     by decide +kernel⟩,
   ⟨(wPort 4 id).setReg (w1.portNode 0) 0 0x7010 0x0B 2, 0, by decide +kernel⟩,
   ⟨(wPort 4 id).setReg (w1.portNode 0) 0 0x7010 0x0B 2, 0, by decide +kernel⟩⟩

/-- Every row of `writeRows` has a request that passes its checks and is answered OK at once or by a later event; a request for a cell of a
field in Lull has its row too. -/
theorem witness_DictionaryWritesComplete :
    (writeRows.zip writes).length = writeRows.length ∧ (∀ x ∈ writeRows.zip writes,
      x.1.2 x.2.2 = true ∧ x.2.2.eng = x.2.1.engine ∧ x.2.2.whole = true ∧ x.2.1.dictAsleep x.2.2 = none ∧ completes x.2.1 x.2.2 = true) ∧
    (writeRows.any (fun w => w.2 (wr (cellNode c0) 0x4101 1 0)) = true ∧
      (w1.setReg (.field 0) 0 0xA010 5 2).dictAsleep (wr (cellNode c0) 0x4101 1 0) = some 0) := by
  decide +kernel

/-- The hypotheses of `DictionaryAnswers` can be met. -/
theorem witness_DictionaryAnswers :
  (∃ (s : State) (r : DictReq) (e : Nat × Nat), r.eng = s.engine ∧ r.whole = true ∧ s.dictAsleep r = none ∧ (arrived s
    r).checkReq r false = .error e) ∧
  (∃ (s : State) (u : State) (r : DictReq) (o : Obj) (q : ObjRow), r.eng = s.engine ∧ r.whole = true ∧ r.wr = false ∧
    s.dictAsleep r = none ∧ (arrived s r).checkReq r false = .ok o ∧ objRow o.idx o.sub = some q ∧ q.ty.isBlob = false ∧
    (arrived s r).freshen o = u) :=
  ⟨⟨w1, { wr (.field 0) 0xA001 1 1000 with value := 1001 }, (2, 0x12), by (repeat' apply And.intro) <;> first | decide +kernel |
    rfl⟩,
   ⟨w1, (arrived w1 (rd 0x1001 1)).freshen ⟨.engine, 0, 0x1001, 1⟩, rd 0x1001 1, ⟨.engine, 0, 0x1001, 1⟩, (objRow 0x1001 1).getD
     ⟨0, .bool, .ro, .none, 0, .any, 0⟩, by (repeat' apply And.intro) <;> first | decide +kernel | rfl⟩⟩

/-- The hypotheses of `CommitsAndDrain` can be met. -/
theorem witness_CommitsAndDrain :
  (∃ (s : State) (u : State) (g : Group) (r : DictReq) (a : Nat) (gen : Nat), s.eng.commit = some ⟨g, r, a, none⟩ ∧
    s.firstRefused g = none ∧ gen = (s.reg .engine 0 0x2002 2 + 1) % 2 ^ 32 ∧ u = ((s.setReg .engine 0 0x2002 2 gen).dictAnswer
    r ⟨0, 0, gen, []⟩)) ∧
  (∃ (s : State) (g : Group) (r : DictReq) (a : Nat) (w : Staged) (code : Nat), s.eng.commit = some ⟨g, r, a, none⟩ ∧
    s.firstRefused g = some (w, code) ∧ code < 256) ∧
  (∃ (s : State) (g : Group) (r : DictReq) (a : Nat) (gen : Nat), s.eng.commit = some ⟨g, r, a, some gen⟩) ∧
  (∃ (s : State) (m : Commit) (gen : Nat), s.eng.commit = some m ∧ m.gen = some gen) ∧
  (∃ (s : State) (w : Requester) (g : Group), s.group? w = some g) ∧
  (∃ (s : State) (f : Nat) (w : Requester) (tag : Nat) (p : PartReq), f < s.nFields ∧ s.eng.partials.find? (fun p => p.f == f &&
    p.req.who == w && p.req.tag == tag) = some p) ∧
  (∃ (s : State), s.reg .engine 0 0x8140 0x14 = 1) ∧
  (∃ (s : State), s.reg .engine 0 0x8140 0x14 = 2) :=
  ⟨⟨wEng (fun e => { e with commit := some ⟨⟨mg, 0, []⟩, wr .engine 0x2001 1 1, 0, none⟩ }), (((wEng (fun e =>
    { e with commit := some ⟨⟨mg, 0, []⟩, wr .engine 0x2001 1 1, 0, none⟩ })).setReg .engine 0 0x2002 2 1).dictAnswer (wr
    .engine 0x2001 1 1) ⟨0, 0, 1, []⟩), ⟨mg, 0, []⟩, wr .engine 0x2001 1 1, 0, 1, by decide +kernel⟩,
   ⟨(wEng (fun e =>
     { e with commit := some ⟨⟨mg, 0, [⟨.engine, 0, 0x2013, 2, 0, false, 0, [], false⟩]⟩, wr .engine 0x2001 1 1, 0, none⟩ })).setReg
     .engine 0 0x2013 1 5, ⟨mg, 0, [⟨.engine, 0, 0x2013, 2, 0, false, 0, [], false⟩]⟩, wr .engine 0x2001 1 1, 0, ⟨.engine, 0,
     0x2013, 2, 0, false, 0, [], false⟩, 0x12, by decide +kernel⟩,
   ⟨wEng (fun e => { e with commit := some ⟨⟨mg, 0, []⟩, wr .engine 0x2001 1 1, 0, some 7⟩ }), ⟨mg, 0, []⟩, wr .engine 0x2001 1
     1, 0, 7, by decide +kernel⟩,
   ⟨wEng (fun e => { e with commit := some ⟨⟨mg, 0, []⟩, wr .engine 0x2001 1 1, 0, some 7⟩ }), ⟨⟨mg, 0, []⟩, wr .engine 0x2001 1
     1, 0, some 7⟩, 7, by decide +kernel⟩,
   ⟨wEng (fun e => { e with groups := [⟨mg, 0, []⟩] }), mg, ⟨mg, 0, []⟩, by decide +kernel⟩,
   ⟨wEng (fun e => { e with partials := [⟨15, { wr (.field 15) 0x3020 1 0 with whole := false }, 0⟩] }), 15, mg, 0xFF00, ⟨15,
     { wr (.field 15) 0x3020 1 0 with whole := false }, 0⟩, by decide +kernel⟩,
   ⟨w1.setReg .engine 0 0x8140 0x14 1, by decide +kernel⟩,
   ⟨w1.setReg .engine 0 0x8140 0x14 2, by decide +kernel⟩⟩

/-- The hypotheses of `ManagementPort` can be met. -/
theorem witness_ManagementPort :
  (∃ (s : State) (m : MgmtReq), msgNat m.bytes 0 1 = 0x7F ∧ beNat ((m.bytes.drop 1).take 4) = s.reg .engine 0 0x1001 1 ∧ 32 ≤
    m.bytes.length ∧ m.bytes.length ≤ 4136 ∧ (msgNat m.bytes 5 1 = 1 ∨ msgNat m.bytes 5 1 = 2) ∧ s.eng.mgmt.length < 8 ∧
    s.asleep = false) ∧
  (∃ (s : State) (mtag : Nat) (m : MgmtOut), s.eng.mgmt.find? (fun m => leNat ((m.head.drop 6).take 1) = mtag) = some m) :=
  ⟨⟨wEng (fun e => { e with mgmt := List.replicate 7 ⟨[], 0⟩ }), ⟨leBytes 1 0x7F ++ beBytes 4 ((w1).reg .engine 0 0x1001 1) ++
    leBytes 1 2 ++ zeros 26⟩, by decide +kernel⟩,
   ⟨wEng (fun e => { e with mgmt := [⟨[0, 0, 0, 0, 0, 0, 255, 0], 9⟩] }), 255, ⟨[0, 0, 0, 0, 0, 0, 255, 0], 9⟩,
     by decide +kernel⟩⟩

/-- The hypotheses of `FieldClocks` can be met. -/
theorem witness_FieldClocks :
  (∃ (s : State) (f : Nat), f < s.nFields ∧ s.eng.freqReqs.filter (fun q => q.1 == f) ≠ [] ∧ s.enginePower = 0) ∧
  (∃ (s : State) (f : Nat), f < s.nFields ∧ (s.field f).stopped = false) ∧
  (∃ (s : State) (f : Nat), f < s.nFields ∧ s.unlocked f = true) ∧
  (∃ (s : State) (f : Nat), f < s.nFields ∧ s.unlocked f = true) ∧
  (∃ (s : State) (u : State) (f : Nat) (n : Nat), s.canonical = true ∧ f < s.nFields ∧ (s.bump (.field f) 0 0xA001 4 (min n
    64)).bump (.field f) 0 0xA001 5 1 = u) :=
  ⟨⟨wEng (fun e => { e with freqReqs := [(15, wr (.field 15) 0xA001 1 1000)] }), 15, by decide +kernel⟩,
   ⟨w1, 15, by decide +kernel⟩,
   ⟨wField (fun q => { q with stopped := true }), 15, by decide +kernel⟩,
   ⟨wField (fun q => { q with stopped := true }), 15, by decide +kernel⟩,
   ⟨w1, (w1.bump (.field 15) 0 0xA001 4 64).bump (.field 15) 0 0xA001 5 1, 15, 65, by decide +kernel⟩⟩

/-- The hypotheses of `FieldPowerStates` can be met. -/
theorem witness_FieldPowerStates :
  (∃ (s : State) (u : State) (v : State) (f : Nat), f < s.nFields ∧ s.inService = true ∧ s.power f = 0 ∧ (s.field f).stopped =
    false ∧ s.target f ≠ 0 ∧ ({ s with time := max s.time (s.fcAfter f (s.field f).idleSince (s.reg (.field f) 0 0xA010 2)) } :
    State) = u ∧ (u.setPower f 1).modField f (fun q => { q with breezeSince := (u.setPower f 1).time }) = v) ∧
  (∃ (s : State) (f : Nat), f < s.nFields ∧ s.power f = 1 ∧ s.target f = 2) ∧
  (∃ (s : State) (u : State) (f : Nat), f < s.nFields ∧ s.power f = 3 ∧ ({ s with time := max s.time (s.field f).lullDue } :
    State) = u) ∧
  (∃ (s : State) (f : Nat) (cause : Nat), f < s.nFields ∧ 1 ≤ cause ∧ cause ≤ 8) ∧
  (∃ (s : State) (f : Nat) (h : Nat × Nat) (hs : List (Nat × Nat)), s.canonical = true ∧ f < s.nFields ∧ (s.field f).wakeHolds =
    h :: hs) :=
  ⟨⟨wTol, wTol2, (wTol2.setPower 15 1).modField 15 (fun q => { q with breezeSince := (wTol2.setPower 15 1).time }), 15,
    by refine ⟨by decide +kernel, by decide +kernel, by decide +kernel, by decide +kernel, by decide +kernel, rfl, rfl⟩⟩,
   ⟨(w1.setReg (.field 15) 0 0xA010 1 2000).setReg (.field 15) 0 0xA010 5 1, 15, by decide +kernel⟩,
   ⟨wEntering, wEntered, 15, by decide +kernel⟩,
   ⟨w1.setReg (.field 15) 0 0xA010 5 2, 15, 8, by decide +kernel⟩,
   ⟨wField (fun q => { q with wakeHolds := [(0, 100), (1, 50)] }), 15, (0, 100), [(1, 50)], by decide +kernel⟩⟩

/-- The hypotheses of `EnginePowerStates` can be met. -/
theorem witness_EnginePowerStates :
  (∃ (s : State), s.calmReady = true) ∧
  (∃ (s : State), s.enginePower = 1 ∧ s.reg .engine 0 0xA011 2 = 1 ∧ 5000 ≤ s.reg .engine 0 0xA011 1) ∧
  (∃ (s : State) (cause : Nat), 1 ≤ cause ∧ cause ≤ 5 ∧ (s.enginePower = 1 ∨ s.enginePower = 2)) ∧
  (∃ (s : State), s.enginePower = 2) ∧
  (∃ (s : State), s.canonical = true ∧ (s.enginePower = 1 ∨ s.enginePower = 2)) ∧
  (∃ (s : State) (p : Nat), p < s.nPorts ∧ s.enginePower = 1) ∧
  (∃ (s : State) (f : Nat), f < s.nFields) :=
  ⟨⟨({ (w1.setReg (.field 0) 0 0xA010 5 2).setReg .engine 0 0xA011 1 150 with build := ⟨1, 1, 1, 1, 64⟩ } : State),
    by decide +kernel⟩,
   ⟨((w1.setReg .engine 0 0xA011 4 1).setReg .engine 0 0xA011 2 1).setReg .engine 0 0xA011 1 5000, by decide +kernel⟩,
   ⟨w1.setReg .engine 0 0xA011 4 2, 5, by decide +kernel⟩,
   ⟨w1.setReg .engine 0 0xA011 4 2, by decide +kernel⟩,
   ⟨w1.setReg .engine 0 0xA011 4 1, by decide +kernel⟩,
   ⟨w1.setReg .engine 0 0xA011 4 1, 19, by decide +kernel⟩,
   ⟨w1, 15, by decide +kernel⟩⟩

/-- The hypotheses of `FabricTime` can be met. -/
theorem witness_FabricTime :
  (∃ (s : State) (i : Nat), i < 32 ∧ s.reg .engine 0 (0xA100 + i) 5 = 1) ∧
  (∃ (s : State), s.enginePower = 0 ∧ 6 ≤ s.reg .engine 0 0x1008 1) ∧
  (∃ (s : State) (f : Nat), f < s.nFields) :=
  ⟨⟨w1.setReg .engine 0 0xA11F 5 1, 31, by decide +kernel⟩,
   ⟨wBoot 6, by decide +kernel⟩,
   ⟨w1, 15, by decide +kernel⟩⟩

/-- The hypotheses of `ObservationProceeds` can be met. -/
theorem witness_ObservationProceeds :
  (∃ (s : State) (c : Coord) (core : Nat) (data : List Byte), s.inGrid c = true ∧ core < 4 ∧ bit (s.reg (cellNode c) 0 0x9050 4)
    core = true ∧ SMap.get [] (s.cell c).traceWait core = [] ∧ (s.traceAdd c core (padTo 8 (data.take 8))).1 = true) ∧
  (∃ (s : State) (c : Coord) (src : Nat) (t : TraceBuf), s.inGrid c = true ∧ (s.cell c).trace.find? (fun t => t.source == src) =
    some t) ∧
  (∃ (s : State) (c : Coord) (k : Nat), s.inGrid c = true ∧ s.sweepIndex c = some k ∧ s.swp 1 = 1) ∧
  (∃ (s : State) (c : Coord) (core : Nat), s.inGrid c = true ∧ core < 4 ∧ bit (bits (s.reg (cellNode c) 0 0x9050 8) (5 * core)
    5) 4 = true ∧ (s.cell c).inReset = false) ∧
  (∃ (s : State) (c : Coord) (h : Halt), s.inGrid c = true ∧ (SMap.get (⟨false, 0⟩ : HaltSt) (s.rtr c).halts h.group).t < h.t) :=
  ⟨⟨(w1.setReg (cellNode c0) 0 0x9050 4 8).setReg (cellNode c0) 0 0x9050 1 1, c0, 3, zeros 8, by decide +kernel⟩,
   ⟨w1.modCell c0 (fun q => { q with trace := [⟨3, zeros 8, 9, 0, 0, 0⟩] }), c0, 3, ⟨3, zeros 8, 9, 0, 0, 0⟩,
     by decide +kernel⟩,
   ⟨w1.setReg .engine 0 0x9030 1 1, c0, 0, by decide +kernel⟩,
   ⟨w1.setReg (cellNode c0) 0 0x9050 8 (2 ^ 19), c0, 3, by decide +kernel⟩,
   ⟨w1, c0, ⟨15, true, src1, 1⟩, by decide +kernel⟩⟩

/-- The hypotheses of `BringUpSteps` can be met. -/
theorem witness_BringUpSteps :
  (∃ (s : State), s.eng.powered = false) ∧
  (∃ (s : State), s.bootStep = 1) ∧
  (∃ (s : State), s.bootStep = 1 ∧ s.reg .engine 0 0x1008 3 = 1) ∧
  (∃ (s : State), s.bootStep = 2) ∧
  (∃ (s : State), s.bootStep = 3 ∧ (List.range s.nFields).all (fun f => (s.field f).boot == 3) = true) ∧
  (∃ (s : State) (f : Nat), s.canonical = true ∧ f < s.nFields ∧ s.bootStep = 3 ∧ (s.field f).boot = 0) ∧
  (∃ (s : State), s.bootStep = 4) ∧
  (∃ (s : State), s.bootStep = 5) ∧
  (∃ (s : State), s.bootStep = 6) ∧
  (∃ (s : State), s.bootStep = 7) ∧
  (∃ (s : State), s.bootStep = 8) ∧
  (∃ (s : State), s.bootStep = 9 ∧ s.stepsDone < 9) ∧
  (∃ (s : State), s.bootStep = 9 ∧ s.stepsDone = 9) ∧
  (∃ (s : State) (f : Nat), s.canonical = true ∧ f < s.nFields) ∧
  (∃ (s : State) (f : Nat), f < s.nFields ∧ s.bootStep = 3 ∧ (s.field f).boot = 2) ∧
  (∃ (s : State) (st : Nat), s.stackFitted st = true ∧ s.bootStep = 8) :=
  ⟨⟨w0, by decide +kernel⟩,
   ⟨wBoot 1, by decide +kernel⟩,
   ⟨(wBoot 1).setReg .engine 0 0x1008 3 1, by decide +kernel⟩,
   ⟨wBoot 2, by decide +kernel⟩,
   ⟨(List.range 16).foldl (fun (s : State) f => s.modField f (fun q => { q with boot := 3 })) (wBoot 3), by decide +kernel⟩,
   ⟨wBoot 3, 15, by decide +kernel⟩,
   ⟨wBoot 4, by decide +kernel⟩,
   ⟨wBoot 5, by decide +kernel⟩,
   ⟨wBoot 6, by decide +kernel⟩,
   ⟨wBoot 7, by decide +kernel⟩,
   ⟨wBoot 8, by decide +kernel⟩,
   ⟨wBoot 9, by decide +kernel⟩,
   ⟨(wBoot 9).setRecs .engine 0 0x1008 5 (List.replicate 9 0), by decide +kernel⟩,
   ⟨w0, 15, by decide +kernel⟩,
   ⟨(wBoot 3).modField 15 (fun q => { q with boot := 2 }), 15, by decide +kernel⟩,
   ⟨wBoot 8, 0, by decide +kernel⟩⟩

/-- The hypotheses of `PowerAndResets` can be met. -/
theorem witness_PowerAndResets :
  (∃ (s : State), s.canonical = true) ∧
  (∃ (s : State) (f : Nat), f < s.nFields) ∧
  (∃ (s : State) (c : Coord), s.inGrid c = true ∧ (s.cell c).inReset = false) ∧
  (∃ (s : State) (c : Coord), s.canonical = true ∧ s.inGrid c = true ∧ (s.cell c).inReset = true) ∧
  (∃ (s : State) (u : State) (c : Coord) (r : MemRead) (rest : List MemRead), s.inGrid c = true ∧ s.countStalls c = u ∧ (u.cell
    c).mrd = r :: rest) ∧
  (∃ (s : State) (u : State) (c : Coord), s.inGrid c = true ∧ s.countStalls c = u ∧ (u.cell c).mrd = []) ∧
  (∃ (s : State) (u : State) (c : Coord), s.inGrid c = true ∧ s.countStalls c = u) :=
  ⟨⟨w1, by decide +kernel⟩,
   ⟨w1, 15, by decide +kernel⟩,
   ⟨w1, c0, by decide +kernel⟩,
   ⟨w1.modCell c0 (fun q => { q with inReset := true }), c0, by decide +kernel⟩,
   ⟨w1.modCell c0 (fun q => { q with mrd := [⟨5, .other, 0, 64⟩] }), (w1.modCell c0 (fun q =>
     { q with mrd := [⟨5, .other, 0, 64⟩] })).countStalls c0, c0, ⟨5, .other, 0, 64⟩, [], by decide +kernel⟩,
   ⟨w1, w1.countStalls c0, c0, by decide +kernel⟩,
   ⟨w1, w1.countStalls c0, c0, by decide +kernel⟩⟩

/-- The hypotheses of `TestPortInstructions` can be met. -/
theorem witness_TestPortInstructions :
  (∃ (s : State), s.tapAllowed = true) ∧
  (∃ (s : State), s.tapAllowed = true) ∧
  (∃ (s : State), s.tapAllowed = true) :=
  ⟨⟨wEng (fun e => { e with testMode := true }), by decide +kernel⟩,
   ⟨wEng (fun e => { e with testMode := true }), by decide +kernel⟩,
   ⟨wEng (fun e => { e with testMode := true }), by decide +kernel⟩⟩

/-- The hypotheses of `UnitCodeDecodes` can be met. -/
theorem witness_UnitCodeDecodes :
  (∃ (pl : List Byte), (pl.length = 32 ∨ pl.length = 16)) ∧
  (∃ (pl : List Byte), pl.length = 32) :=
  ⟨⟨zeros 16, by decide +kernel⟩,
   ⟨zeros 32, by decide +kernel⟩⟩

/-- The hypotheses of `UnitCodeCorrects` can be met. -/
theorem witness_UnitCodeCorrects :
  ∃ (pl : List Byte) (i : Nat) (e : Byte), (pl.length = 32 ∨ pl.length = 16) ∧ i < pl.length + 3 ∧ e ≠ 0 :=
  ⟨zeros 32, 34, 255, by decide +kernel⟩

/-- The hypotheses of `HeaderRoundTrip` can be met. -/
theorem witness_HeaderRoundTrip :
  ∃ (p : Packet), p.headWf = true :=
  ⟨pkt 0x10 1 (.transfer xfer), by decide +kernel⟩

/-- The hypotheses of `SignalRoundTrip` can be met. -/
theorem witness_SignalRoundTrip :
  ∃ (g : Signal), g.wf = true ∧ plainSignal g = true :=
  ⟨.nack ⟨1, 5, ⟨0, 95, 79, 3, false⟩, src1, 0x12, 0, 0, 0⟩, by decide +kernel⟩

/-- The hypotheses of `IntegerSumOutput` can be met. -/
theorem witness_IntegerSumOutput :
  ∃ (w : Nat) (sat : Bool) (A : Int), (w = 32 ∨ w = 8) :=
  ⟨8, false, 127, by decide +kernel⟩

/-- The hypotheses of `RowPlace` can be met. -/
theorem witness_RowPlace :
  ∃ (t : Tbl) (r : Nat), t.loaded = true ∧ t.stackBits < 2 ^ 24 :=
  ⟨⟨5, 0, 9, 64, 0, 0, false, 0⟩, 9, by decide +kernel⟩

/-- The hypotheses of `GroupsEnd` can be met. -/
theorem witness_GroupsEnd :
  (∃ (s : State) (r : DictReq), s.group? r.who = none) ∧
  (∃ (s : State) (r : DictReq), (s.group? r.who).isSome = true ∧ r.value = 2) ∧
  (∃ (s : State) (c : Coord) (core : Nat), (s.cell c).inReset = false) :=
  ⟨⟨w1, wr .engine 0x2001 1 1, by decide +kernel⟩,
   ⟨wEng (fun e => { e with groups := [⟨mg, 0, []⟩] }), wr .engine 0x2001 1 2, by decide +kernel⟩,
   ⟨w1, c0, 3, by decide +kernel⟩⟩

/-- The hypotheses of `TallyOperations` can be met. -/
theorem witness_TallyOperations :
  (∃ (s : State) (q : TallyReq), s.canonical = true ∧ Memory.wf 0 (s.tab (.field q.f) 0 0x3020 1) = true ∧ q.f < s.nFields ∧
    q.wf = true ∧ s.isHole (s.tallyHome q.f q.k) = false ∧ s.clockRuns (s.fieldOf (s.tallyHome q.f q.k)) = true) ∧
  (∃ (s : State) (q : TallyReq), q.wf = true ∧ q.f < s.nFields ∧ (s.isHole (s.tallyHome q.f q.k) = true ∨ s.clockRuns (s.fieldOf
    (s.tallyHome q.f q.k)) = false)) :=
  ⟨⟨w1, ⟨0x15, 0, 15, 255, 0, 0, 0, 0⟩, by decide +kernel⟩,
   ⟨{ w1 with holes := [⟨w1.tallyHome 15 255, 2, 1, false⟩] }, ⟨0x15, 0, 15, 255, 0, 0, 0, 0⟩, by decide +kernel⟩⟩

/-- The hypotheses of `FaultPinFollowsStatus` can be met. -/
theorem witness_FaultPinFollowsStatus :
  (∃ (s : State), s.eng.powered = false) ∧
  (∃ (s : State), s.eng.powered = true ∧ s.eng.tap.driven = false ∧ s.bootStep ≠ 10) ∧
  (∃ (s : State), s.eng.powered = true ∧ s.eng.tap.driven = false ∧ s.bootStep = 10) ∧
  (∃ (s : State) (n : Node) (idx : Nat), isFault idx = true ∧ s.reg n 0 idx 1 ≠ 0) :=
  ⟨⟨w0, by decide +kernel⟩,
   ⟨(w1.modEng (fun e => { e with powered := true })).setReg .engine 0 0x1008 1 9, by decide +kernel⟩,
   ⟨w1.modEng (fun e => { e with powered := true }), by decide +kernel⟩,
   ⟨w1.setReg (.field 15) 0 0x8110 1 1, .field 15, 0x8110, by decide +kernel⟩⟩

/-- The hypotheses of `MemoryStores` can be met. -/
theorem witness_MemoryStores :
  (∃ (s : State), s.memOk = true) ∧
  (∃ (s : State) (a : Nat) (b : Nat) (bs : List Byte), s.memOk = true ∧ (b < a ∨ a + bs.length ≤ b)) ∧
  (∃ (s : State) (c : Coord) (d : Coord), cellKey c ≠ cellKey d) ∧
  (∃ (s : State) (c : Coord) (core : Nat) (a : Nat) (d : Coord), s.memOk = true ∧ (cellKey d ≠ cellKey c ∨ a < s.reg (cellNode
    c) 0 (0x4004 + core) 1 + 32 * ((s.core c core).prod % s.reg (cellNode c) 0 (0x4004 + core) 2) ∨ s.reg (cellNode c) 0 (0x4004
    + core) 1 + 32 * ((s.core c core).prod % s.reg (cellNode c) 0 (0x4004 + core) 2) + 32 ≤ a)) :=
  ⟨⟨w1, by decide +kernel⟩,
   ⟨w1, 64, 96, zeros 32, by decide +kernel⟩,
   ⟨w1, c0, ⟨95, 79⟩, by decide +kernel⟩,
   ⟨w1.setReg (cellNode c0) 0 0x4004 2 64, c0, 0, 32, c0, by decide +kernel⟩⟩

/-- The hypotheses of `NoStoreFrame` can be met. -/
theorem witness_NoStoreFrame :
  ∃ (i : Instr) (s : State) (t : State), storesNothing i = true ∧ exec i s = .next t :=
  ⟨.counterRead c0 3 7 15, w1, left (.counterRead c0 3 7 15) w1, by refine ⟨by decide +kernel, rfl⟩⟩

/-- The hypotheses of `DirectOperationFrame` can be met. -/
theorem witness_DirectOperationFrame :
  (∃ (i : Instr) (s : State) (t : State) (c : Coord) (core : Nat) (tag : Nat) (k : Nat) (v : Nat), s.canonical = true ∧ (i =
    .counterRead c core tag k ∨ i = .blockingWait c core tag k v ∨ i = .waitTimeoutExpiry c core k ∨ i = .chPoll c core tag k ∨
    i = .chWait c core tag k ∨ i = .chWaitTimeout c core k ∨ i = .intTake c core tag) ∧ exec i s = .next t) ∧
  (∃ (s : State) (t : State) (c : Coord) (core : Nat) (tag : Nat) (n : Nat) (h : Nat) (g : Nat), exec (.chAdvance c core tag n h
    g) s = .next t) :=
  ⟨⟨.blockingWait c0 3 7 15 9, w1, left (.blockingWait c0 3 7 15 9) w1, c0, 3, 7, 15, 9, by refine ⟨by decide +kernel,
    by decide +kernel, rfl⟩⟩,
   ⟨w1, left (.chAdvance c0 3 7 63 0 64) w1, c0, 3, 7, 63, 0, 64, rfl⟩⟩

/-- The hypotheses of `ArbitrationFrame` can be met. -/
theorem witness_ArbitrationFrame :
  ∃ (i : Instr) (s : State) (t : State) (c : Coord) (p : Nat) (g : Nat) (member : Nat) (no : Bool), (i = .arbWindowBoundary c p
    ∨ i = .tradeClaimArise c p ∨ i = .tradeClaimLapse c p ∨ i = .anyWinReceive c g member no) ∧ exec i s = .next t :=
  ⟨.tradeClaimArise c0 8, w1, left (.tradeClaimArise c0 8) w1, c0, 8, 0, 0, false, by refine ⟨by decide +kernel, rfl⟩⟩

/-- The hypotheses of `TestPortFrame` can be met. -/
theorem witness_TestPortFrame :
  ∃ (i : Instr) (s : State) (t : State) (u : List Bool), (i = .testModeRise ∨ i = .extest u ∨ i = .samplePreload u ∨ i = .idcode
    ∨ i = .extestPulse u ∨ i = .extestTrain u ∨ i = .bypass ∨ i = .tapReset) ∧ exec i s = .next t :=
  ⟨.bypass, w1, left .bypass w1, [], by refine ⟨by decide +kernel, rfl⟩⟩

/-- The hypotheses of `StepKeepsCanonical` can be met. -/
theorem witness_StepKeepsCanonical :
  ∃ (s : State) (t : State), s.canonical = true ∧ step s = .next t :=
  ⟨{ w1 with pending := [.idcode, .bypass] }, left .idcode { w1 with pending := [.bypass] }, by refine ⟨by decide +kernel, rfl⟩⟩

/-- The hypotheses of `StepKeepsBuildTimeQueue` can be met. -/
theorem witness_StepKeepsBuildTimeQueue :
  ∃ (s : State) (t : State), step s = .next t :=
  ⟨{ w1 with pending := [.idcode, .bypass] }, left .idcode { w1 with pending := [.bypass] }, rfl⟩

end Sys2Proof.Tests
end

section
/-! SUPPORT. The guard of a command's unit (Machine/Guard.lean), where the build lacks the unit: whatever the command would do, it stops by
name. -/

namespace Sys2Proof.Machine

theorem whenUnit_lacking {ok : Bool} (h : ok = false) (what : String) (t : State) :
    whenUnit ok what t = .fault (.noSuchUnit what) := by
  simp [whenUnit, h]

section
variable {s : State} {c : Coord}

theorem State.onCell_lacking (h : s.inGrid c = false) (t : State) : s.onCell c t = .fault (.noSuchUnit "cell") :=
  whenUnit_lacking h _ _

theorem State.onCore_lacking {core : Nat} (h : s.inGrid c = false ∨ 4 ≤ core) (t : State) :
    s.onCore c core t = .fault (.noSuchUnit "core") :=
  whenUnit_lacking (by rcases h with h | h <;> simp [h]) _ _

theorem State.onCtr_lacking {core k : Nat} (h : s.inGrid c = false ∨ 4 ≤ core ∨ 16 ≤ k) (t : State) :
    s.onCtr c core k t = .fault (.noSuchUnit "counter") :=
  whenUnit_lacking (by
    rcases h with h | h | h
    · simp [h]
    · simp [Nat.not_lt.mpr h]
    · simp [h]) _ _

theorem State.onChan_lacking {core n : Nat} (h : s.inGrid c = false ∨ 4 ≤ core ∨ 64 ≤ n) (t : State) :
    s.onChan c core n t = .fault (.noSuchUnit "channel") :=
  whenUnit_lacking (by
    rcases h with h | h | h
    · simp [h]
    · simp [Nat.not_lt.mpr h]
    · simp [h]) _ _

theorem State.onPort_lacking {q : Nat} (h : s.inGrid c = false ∨ hasPort c q = false) (t : State) :
    s.onPort c q t = .fault (.noSuchUnit "port") :=
  whenUnit_lacking (by rcases h with h | h <;> simp [h]) _ _

theorem State.onField_lacking {f : Nat} (h : s.nFields ≤ f) (t : State) : s.onField f t = .fault (.noSuchUnit "field") :=
  whenUnit_lacking (by simp [h]) _ _

theorem State.onDrop_lacking {st d : Nat} (h : s.stackFitted st = false ∨ 32 ≤ d) (t : State) :
    s.onDrop st d t = .fault (.noSuchUnit "drop") :=
  whenUnit_lacking (by rcases h with h | h <;> simp [h]) _ _

theorem State.onLink_lacking {p : Nat} (h : s.nPorts ≤ p) (t : State) : s.onLink p t = .fault (.noSuchUnit "link port") :=
  whenUnit_lacking (by simp [h]) _ _

end

/-- Settles O3: the arm of each of these commands is its unit's guard around what the command would do. -/
theorem missingUnitStops : Obligations.MissingUnitStops :=
  ⟨fun _ _ h => State.onCell_lacking h _, fun _ _ _ _ h => State.onCore_lacking h _, fun _ _ _ _ _ h => State.onCtr_lacking h _,
    fun _ _ _ _ _ h => State.onChan_lacking h _, fun _ _ _ h => State.onPort_lacking h _, fun _ _ h => State.onField_lacking h _,
    fun _ _ _ h => State.onDrop_lacking h _, fun _ _ h => State.onLink_lacking h _⟩

end Sys2Proof.Machine
end

section
/-! SUPPORT. What every operation does to the build, the queue of waiting commands and the time, of ANY state, canonical or not: nearly all
leave the three as they are, which is one equation for each operation; those that wait for a moment move the time on. Obligation O60
follows. -/

namespace Sys2Proof.Machine

/-- The build, the queue and the time of a state. -/
def State.fixed (s : State) : Fixed := ⟨s.build, s.pending, s.time⟩

/-! ### Operations that leave the three as they are

Each operation has one equation `(s.op …).fixed = s.fixed`. Marked `↓`, it rewrites before `simp` enters the operation's arguments, so that
a chain of operations is peeled off from the outside. The single updates of the state are proved by `Eq.refl _`: as plain rewriting rules
they also serve in the side goal of a fold. -/

@[simp ↓] theorem State.fixed_mk {s : State} {x_regs : SMap Nat} {x_tabs : SMap Memory} {x_recs : SMap (List Nat)}
    {x_strikes : SMap (List Nat)} {x_cells : SMap CellSt} {x_cellMem : SMap Memory} {x_fields : SMap FieldSt} {x_holes : List HoleRec}
    {x_badTracks x_badStops : List (Axis × Coord)} {x_rtrs : SMap RtrSt} {x_wires : List WireBeat} {x_sigWires : List WireSig}
    {x_recloses : List Reclose} {x_fences : List FaultBlock} {x_bars : SMap BarSt} {x_route : RouteView} {x_armed : SMap (Option ArmSt)}
    {x_colls : SMap CollSt} {x_drops : SMap DropSt} {x_ports : SMap PortSt} {x_linkOut : List SentFrame} {x_eng : EngSt}
    {x_flight : List Packet} {x_sigs : List Signal} {x_answers : List Answer} {x_freeCtr : Nat} :
    (State.mk s.build s.time x_regs x_tabs x_recs x_strikes x_cells x_cellMem x_fields x_holes x_badTracks x_badStops x_rtrs x_wires
      x_sigWires x_recloses x_fences x_bars x_route x_armed x_colls x_drops x_ports x_linkOut x_eng x_flight x_sigs x_answers x_freeCtr
      s.pending).fixed = s.fixed := Eq.refl _

@[simp ↓] theorem State.fixed_ite (p : Prop) [Decidable p] (a b : State) :
    (if p then a else b).fixed = if p then a.fixed else b.fixed := apply_ite _ _ _ _

@[simp ↓] theorem State.fixed_snd_ite {α : Type} (p : Prop) [Decidable p] (a b : α × State) :
    (if p then a else b).2.fixed = if p then a.2.fixed else b.2.fixed := by
  split <;> rfl

/-! Loops: what every round leaves as it is, the loop does too. -/

@[simp] theorem State.fixed_foldl {α : Type} {f : State → α → State} (hf : ∀ s a, (f s a).fixed = s.fixed) (l : List α) (s : State) :
    (l.foldl f s).fixed = s.fixed := by
  induction l generalizing s with
  | nil => rfl
  | cons a l ih => exact (ih _).trans (hf s a)

@[simp] theorem State.fixed_foldl_fst {α β : Type} {f : State × β → α → State × β} (hf : ∀ x a, (f x a).1.fixed = x.1.fixed)
    (l : List α) (x : State × β) : (l.foldl f x).1.fixed = x.1.fixed := by
  induction l generalizing x with
  | nil => rfl
  | cons a l ih => exact (ih _).trans (hf x a)

@[simp] theorem State.fixed_foldl_snd {α β : Type} {f : β × State → α → β × State} (hf : ∀ x a, (f x a).2.fixed = x.2.fixed)
    (l : List α) (x : β × State) : (l.foldl f x).2.fixed = x.2.fixed := by
  induction l generalizing x with
  | nil => rfl
  | cons a l ih => exact (ih _).trans (hf x a)

/-! Operations that may give no state: `∀ t ∈ s.op …, t.fixed = s.fixed`. -/

theorem State.fixed_foldl_option {α : Type} {k : Fixed} {f : Option State → α → Option State}
    (hf : ∀ o a, (∀ t ∈ o, t.fixed = k) → ∀ t ∈ f o a, t.fixed = k) (l : List α) {o : Option State} (ho : ∀ t ∈ o, t.fixed = k) :
    ∀ t ∈ l.foldl f o, t.fixed = k := by
  induction l generalizing o with
  | nil => exact ho
  | cons a l ih => exact ih (hf o a ho)

theorem State.fixed_bind {k : Fixed} {o : Option State} {f : State → Option State} (ho : ∀ s ∈ o, s.fixed = k)
    (hf : ∀ s, ∀ t ∈ f s, t.fixed = s.fixed) : ∀ t ∈ o.bind f, t.fixed = k := by
  intro t ht
  obtain ⟨s, hs, hst⟩ := Option.bind_eq_some_iff.mp ht
  exact (hf s t hst).trans (ho s hs)

theorem State.fixed_getD {k : Fixed} {o : Option State} {s : State} (ho : ∀ t ∈ o, t.fixed = k) (hs : s.fixed = k) :
    (o.getD s).fixed = k := by
  cases o with
  | none => exact hs
  | some t => exact ho t rfl

/-! #### The single updates -/

@[simp ↓] theorem State.setReg_fixed (s : State) (n : Node) (inst idx sub v : Nat) : (s.setReg n inst idx sub v).fixed = s.fixed := Eq.refl _

@[simp ↓] theorem State.setTab_fixed (s : State) (n : Node) (inst idx sub : Nat) (m : Memory) :
    (s.setTab n inst idx sub m).fixed = s.fixed := Eq.refl _

@[simp ↓] theorem State.setRecs_fixed (s : State) (n : Node) (inst idx sub : Nat) (l : List Nat) :
    (s.setRecs n inst idx sub l).fixed = s.fixed := Eq.refl _

@[simp ↓] theorem State.setCell_fixed (s : State) (c : Coord) (v : CellSt) : (s.setCell c v).fixed = s.fixed := Eq.refl _

@[simp ↓] theorem State.modField_fixed (s : State) (f : Nat) (g : FieldSt → FieldSt) : (s.modField f g).fixed = s.fixed := Eq.refl _

@[simp ↓] theorem State.modDrop_fixed (s : State) (st d : Nat) (g : DropSt → DropSt) : (s.modDrop st d g).fixed = s.fixed := Eq.refl _

@[simp ↓] theorem State.memWriteAs_fixed (s : State) (c : Coord) (rank a : Nat) (bs : List Byte) :
    (s.memWriteAs c rank a bs).fixed = s.fixed := by
  simp [State.memWriteAs, State.portStart, State.modCell]

/-! #### Machine/Ops.lean -/

@[simp ↓] theorem State.bump_fixed (s : State) (n : Node) (inst idx sub k : Nat) : (s.bump n inst idx sub k).fixed = s.fixed := by
  simp [State.bump]

@[simp ↓] theorem State.setRecAt_fixed (s : State) (n : Node) (inst idx sub len i v : Nat) : (s.setRecAt n inst idx sub len i v).fixed = s.fixed := by
  simp [State.setRecAt]

@[simp ↓] theorem State.pushRec_fixed (s : State) (n : Node) (inst idx sub cap v : Nat) : (s.pushRec n inst idx sub cap v).fixed = s.fixed := by
  simp [State.pushRec]

@[simp ↓] theorem State.modCell_fixed (s : State) (c : Coord) (f : CellSt → CellSt) : (s.modCell c f).fixed = s.fixed := by
  simp [State.modCell]

@[simp ↓] theorem State.modCore_fixed (s : State) (c : Coord) (i : Nat) (f : CoreSt → CoreSt) : (s.modCore c i f).fixed = s.fixed := by
  simp [State.modCore]

@[simp ↓] theorem State.answer_fixed (s : State) (c : Coord) (core tag value outcome : Nat) :
    (s.answer c core tag value outcome).fixed = s.fixed := by
  simp [State.answer]

@[simp ↓] theorem State.portStart_fixed (s : State) (c : Coord) : (s.portStart c).fixed = s.fixed := by
  simp [State.portStart]

@[simp ↓] theorem State.issueReadAt_fixed (s : State) (c : Coord) (a n at_ : Nat) (use : ReadUse) :
    (s.issueReadAt c a n at_ use).fixed = s.fixed := by
  simp [State.issueReadAt]

@[simp ↓] theorem State.issueRead_fixed (s : State) (c : Coord) (a n : Nat) (use : ReadUse) : (s.issueRead c a n use).fixed = s.fixed := by
  simp [State.issueRead]

@[simp ↓] theorem State.memWrite_fixed (s : State) (c : Coord) (a : Nat) (bs : List Byte) : (s.memWrite c a bs).fixed = s.fixed := by
  simp [State.memWrite]

@[simp ↓] theorem State.countStalls_fixed (s : State) (c : Coord) : (s.countStalls c).fixed = s.fixed := by
  simp [State.countStalls]

@[simp ↓] theorem State.countRing_fixed (s : State) (c : Coord) (core : Nat) (still : Bool) : (s.countRing c core still).fixed = s.fixed := by
  unfold State.countRing
  split <;> simp

@[simp ↓] theorem State.clocked_fixed {s t : State} (h : t.fixed = s.fixed) (c : Coord) : (s.clocked c t).fixed = s.fixed := by
  simp [State.clocked, h]

@[simp ↓] theorem State.countEvent_fixed (s : State) (c : Coord) (ev q lane k : Nat) : (s.countEvent c ev q lane k).fixed = s.fixed := by
  simp [State.countEvent]

@[simp ↓] theorem State.ringEvent_fixed (s : State) (c : Coord) (ev whr detail : Nat) : (s.ringEvent c ev whr detail).fixed = s.fixed := by
  simp [State.ringEvent]

@[simp ↓] theorem State.freezeRing_fixed (s : State) (c : Coord) (cause : Nat) : (s.freezeRing c cause).fixed = s.fixed := by
  simp [State.freezeRing]

@[simp ↓] theorem State.modPort_fixed (s : State) (p : Nat) (f : PortSt → PortSt) : (s.modPort p f).fixed = s.fixed := by
  simp [State.modPort]

theorem State.exitSig_fixed {s : State} {sg : Signal} {a : SrcAddr} {o : Option SrcAddr} {arr : Option (Nat × Nat)} {transit : Bool} :
    ∀ t ∈ s.exitSig sg a o arr transit, t.fixed = s.fixed := by
  unfold State.exitSig
  dsimp only
  (repeat' split) <;> simp

@[simp ↓] theorem State.exitSig_getD_fixed (s : State) {u : State} (hu : u.fixed = s.fixed) (sg : Signal) (a : SrcAddr)
    (o : Option SrcAddr) (arr : Option (Nat × Nat)) (transit : Bool) : ((s.exitSig sg a o arr transit).getD u).fixed = s.fixed := by
  cases h : s.exitSig sg a o arr transit with
  | none => exact hu
  | some t => exact State.exitSig_fixed t h

@[simp ↓] theorem State.modRtr_fixed (s : State) (c : Coord) (f : RtrSt → RtrSt) : (s.modRtr c f).fixed = s.fixed := by
  simp [State.modRtr]

@[simp ↓] theorem State.sendSig_fixed (s : State) (c : Coord) (sg : Signal) : (s.sendSig c sg).fixed = s.fixed := by
  simp [State.sendSig]

@[simp ↓] theorem State.takeSig_fixed (s : State) (sg : Signal) : (s.takeSig sg).fixed = s.fixed := by
  simp [State.takeSig]

@[simp ↓] theorem State.takeDue_fixed (s : State) (p : Packet) : (s.takeDue p).fixed = s.fixed := by
  simp [State.takeDue]

@[simp ↓] theorem State.takePkt_fixed (s : State) (p : Packet) : (s.takePkt p).fixed = s.fixed := by
  simp [State.takePkt]

@[simp ↓] theorem State.raiseNack_fixed (s : State) (c : Coord) (raiser : SrcAddr) (p : Packet) (reason chstate var : Nat) :
    (s.raiseNack c raiser p reason chstate var).fixed = s.fixed := by
  simp [State.raiseNack]

@[simp ↓] theorem State.faultInt_fixed (s : State) (b : FaultBlock) : (s.faultInt b).fixed = s.fixed := by
  simp [State.faultInt]

@[simp ↓] theorem State.faultEvent_fixed (s : State) (b : FaultBlock) (cause whr detail : Nat) :
    (s.faultEvent b cause whr detail).fixed = s.fixed := by
  unfold State.faultEvent
  dsimp only
  split <;> simp

@[simp ↓] theorem State.faultLive_fixed (s : State) (b : FaultBlock) (cause : Nat) (on : Bool) : (s.faultLive b cause on).fixed = s.fixed := by
  simp [State.faultLive]

@[simp ↓] theorem State.fresh_fixed (s : State) : s.fresh.2.fixed = s.fixed := by
  simp [State.fresh]

@[simp ↓] theorem State.takeInject_fixed (s : State) (n : Node) (kind whr : Nat) : (s.takeInject n kind whr).2.fixed = s.fixed := by
  simp [State.takeInject]

theorem State.takeInject_eq_fixed {s t : State} {n : Node} {kind whr : Nat} {o : Option (Nat × Bool)}
    (h : s.takeInject n kind whr = (o, t)) : t.fixed = s.fixed := by
  rw [← State.takeInject_fixed s n kind whr, h]

@[simp ↓] theorem State.wear_fixed (s : State) (b : FaultBlock) (k : Nat) : (s.wear b k).fixed = s.fixed := by
  simp [State.wear]

/-! #### Machine/CellOps.lean -/

@[simp ↓] theorem State.modCmd_fixed (s : State) (c : Coord) (tag : Nat) (f : Cmd → Cmd) : (s.modCmd c tag f).fixed = s.fixed := by
  simp [State.modCmd]

@[simp ↓] theorem State.writeRecord_fixed (s : State) (c : Coord) (core op kind status utag slot reuse detail value : Nat) :
    (s.writeRecord c core op kind status utag slot reuse detail value).fixed = s.fixed := by
  simp [State.writeRecord]

@[simp ↓] theorem State.incCounter_fixed (s : State) (c : Coord) (core k : Nat) : (s.incCounter c core k).fixed = s.fixed := by
  unfold State.incCounter
  dsimp only
  split <;> simp

@[simp ↓] theorem State.complete_fixed (s : State) (c : Coord) (m : Cmd) (status detail value : Nat) :
    (s.complete c m status detail value).fixed = s.fixed := by
  simp [State.complete]

@[simp ↓] theorem State.takenRecord_fixed (s : State) (c : Coord) (m : Cmd) : (s.takenRecord c m).fixed = s.fixed := by
  simp [State.takenRecord]

@[simp ↓] theorem State.refuse_fixed (s : State) (c : Coord) (core d code : Nat) : (s.refuse c core d code).fixed = s.fixed := by
  simp [State.refuse]

@[simp ↓] theorem State.ringRoom_fixed (s : State) (c : Coord) (core need : Nat) : (s.ringRoom c core need).2.fixed = s.fixed := by
  simp [State.ringRoom]

@[simp ↓] theorem State.pickHead_fixed (s : State) (c : Coord) (fuel n1 : Nat) : (s.pickHead c fuel n1).2.fixed = s.fixed := by
  induction fuel generalizing s n1 with
  | zero => rfl
  | succ fuel ih =>
    unfold State.pickHead
    (repeat' split) <;> simp [ih]

@[simp ↓] theorem State.takeSlot_fixed (s : State) (c : Coord) (core d : Nat) : (s.takeSlot c core d).2.fixed = s.fixed := by
  simp [State.takeSlot]

@[simp ↓] theorem State.popHead_fixed (s : State) (c : Coord) (core : Nat) : (s.popHead c core).fixed = s.fixed := by
  simp [State.popHead]

@[simp ↓] theorem State.modSrcRsv_fixed (s : State) (c : Coord) (rsv : Nat) (f : SrcRsv → SrcRsv) : (s.modSrcRsv c rsv f).fixed = s.fixed := by
  simp [State.modSrcRsv]

@[simp ↓] theorem State.endSrcRsv_fixed (s : State) (c : Coord) (rsv : Nat) : (s.endSrcRsv c rsv).fixed = s.fixed := by
  simp [State.endSrcRsv]

@[simp ↓] theorem State.failRsv_fixed (s : State) (c : Coord) (r : SrcRsv) (status detail : Nat) : (s.failRsv c r status detail).fixed = s.fixed := by
  simp [State.failRsv]

/-! #### Machine/Router.lean -/

@[simp ↓] theorem State.modIn_fixed (s : State) (c : Coord) (q : Nat) (f : PortIn → PortIn) : (s.modIn c q f).fixed = s.fixed := by
  simp [State.modIn]

@[simp ↓] theorem State.modLane_fixed (s : State) (c : Coord) (q l : Nat) (f : LaneIn → LaneIn) : (s.modLane c q l f).fixed = s.fixed := by
  simp [State.modLane]

@[simp ↓] theorem State.modOut_fixed (s : State) (c : Coord) (p : Nat) (f : OutSt → OutSt) : (s.modOut c p f).fixed = s.fixed := by
  simp [State.modOut]

@[simp ↓] theorem State.routeChange_fixed (s : State) : s.routeChange.fixed = s.fixed := by
  simp [State.routeChange]

@[simp ↓] theorem State.decideFence_fixed (s : State) (b : FaultBlock) : (s.decideFence b).fixed = s.fixed := by
  unfold State.decideFence
  split <;> simp

@[simp ↓] theorem State.strike_fixed (s : State) (b : FaultBlock) (cause whr detail : Nat) : (s.strike b cause whr detail).fixed = s.fixed := by
  simp [State.strike]

@[simp ↓] theorem State.memInject_fixed (s : State) (b : FaultBlock) (whr cause detail : Nat) :
    (s.memInject b whr cause detail).2.fixed = s.fixed := by
  unfold State.memInject
  (repeat' split) <;> simp [State.takeInject_eq_fixed ‹_›]

theorem State.memInject_eq_fixed {s t : State} {b : FaultBlock} {whr cause detail : Nat} {hit : Bool}
    (h : s.memInject b whr cause detail = (hit, t)) : t.fixed = s.fixed := by
  rw [← State.memInject_fixed s b whr cause detail, h]

@[simp ↓] theorem State.noteStop_fixed (s : State) (c : Coord) (p old : Nat) : (s.noteStop c p old).fixed = s.fixed := by
  simp [State.noteStop]

@[simp ↓] theorem State.traceAdd_fixed (s : State) (c : Coord) (source : Nat) (bs : List Byte) : (s.traceAdd c source bs).2.fixed = s.fixed := by
  unfold State.traceAdd
  dsimp only
  (repeat' split) <;> simp

@[simp ↓] theorem State.probeOne_fixed (s : State) (c : Coord) (i source site : Nat) (outbound : Bool) (hdr lane : Nat) :
    (s.probeOne c i source site outbound hdr lane).fixed = s.fixed := by
  simp [State.probeOne]

@[simp ↓] theorem State.probe_fixed (s : State) (c : Coord) (site : Nat) (outbound : Bool) (hdr lane : Nat) :
    (s.probe c site outbound hdr lane).fixed = s.fixed := by
  simp [State.probe]

@[simp ↓] theorem State.accrue_fixed (s : State) (f : Nat) : (s.accrue f).fixed = s.fixed := by
  simp [State.accrue]

@[simp ↓] theorem State.setPower_fixed (s : State) (f st : Nat) : (s.setPower f st).fixed = s.fixed := by
  simp [State.setPower]

@[simp ↓] theorem State.causeWake_fixed (s : State) (f cause : Nat) : (s.causeWake f cause).fixed = s.fixed := by
  simp [State.causeWake]

@[simp ↓] theorem State.headerWake_fixed (s : State) (c : Coord) (q l : Nat) (p : Packet) (copy : Bool) :
    (s.headerWake c q l p copy).fixed = s.fixed := by
  simp [State.headerWake]

@[simp ↓] theorem State.freeUnits_fixed (s : State) (c : Coord) (q l k : Nat) : (s.freeUnits c q l k).fixed = s.fixed := by
  simp [State.freeUnits]

@[simp ↓] theorem State.putBeat_fixed (s : State) (c : Coord) (p : Nat) (cw : List Byte) (side : Nat) (copy : Bool) :
    (s.putBeat c p cw side copy).fixed = s.fixed := by
  unfold State.putBeat
  split <;> simp

@[simp ↓] theorem State.sendCreditBeat_fixed (s : State) (c : Coord) (p : Nat) : (s.sendCreditBeat c p).fixed = s.fixed := by
  simp [State.sendCreditBeat]

@[simp ↓] theorem State.linkLocal_fixed (s : State) (c : Coord) (p : Nat) (mk : Coord → Nat → Signal) : (s.linkLocal c p mk).fixed = s.fixed := by
  unfold State.linkLocal
  split <;> simp

@[simp ↓] theorem State.startSync_fixed (s : State) (c : Coord) (p : Nat) : (s.startSync c p).fixed = s.fixed := by
  unfold State.startSync
  split <;> simp

@[simp ↓] theorem State.finishSync_fixed (s : State) (c : Coord) (p : Nat) : (s.finishSync c p).fixed = s.fixed := by
  unfold State.finishSync
  split <;> simp

@[simp ↓] theorem State.takeCreditBeat_fixed (s : State) (c : Coord) (q : Nat) (cw : List Byte) : (s.takeCreditBeat c q cw).fixed = s.fixed := by
  unfold State.takeCreditBeat
  split <;> simp

@[simp ↓] theorem State.trimLane_fixed (s : State) (c : Coord) (q l : Nat) : (s.trimLane c q l).fixed = s.fixed := by
  unfold State.trimLane
  dsimp only
  split <;> simp

@[simp ↓] theorem State.sendUnit_fixed (s : State) (c : Coord) (p : Nat) (k : CurPkt) (g : OutLeg) (n : Nat) (u : BufUnit) :
    (s.sendUnit c p k g n u).fixed = s.fixed := by
  simp [State.sendUnit]

@[simp ↓] theorem State.lose_fixed (s : State) (p : Packet) : (s.lose p).fixed = s.fixed := by
  simp [State.lose]

@[simp ↓] theorem State.cutBegun_fixed (s : State) (c : Coord) (p : Nat) : (s.cutBegun c p).fixed = s.fixed := by
  simp [State.cutBegun]

@[simp ↓] theorem State.tidyLane_fixed (s : State) (c : Coord) (q l fuel : Nat) : (s.tidyLane c q l fuel).fixed = s.fixed := by
  induction fuel generalizing s with
  | zero => rfl
  | succ fuel ih =>
    unfold State.tidyLane
    dsimp only
    (repeat' split) <;> simp [ih]

@[simp ↓] theorem State.exitPkt_fixed (s : State) (c : Coord) (p : Nat) (pk : Packet) : (s.exitPkt c p pk).fixed = s.fixed := by
  simp [State.exitPkt]

@[simp ↓] theorem State.arrive_fixed (s : State) (c : Coord) (hdr : Nat) (us : List BufUnit) : (s.arrive c hdr us).fixed = s.fixed := by
  unfold State.arrive
  (repeat' split) <;> simp

@[simp ↓] theorem State.sendMarker_fixed (s : State) (c : Coord) (q : Nat) : (s.sendMarker c q).fixed = s.fixed := by
  simp [State.sendMarker]

@[simp ↓] theorem State.insertBeat_fixed (s : State) (c : Coord) (p : Nat) : (s.insertBeat c p).fixed = s.fixed := by
  simp [State.insertBeat]

@[simp ↓] theorem State.betweenGusts_fixed (s : State) (c : Coord) (p : Nat) : (s.betweenGusts c p).fixed = s.fixed := by
  simp [State.betweenGusts]

@[simp ↓] theorem State.pushUnits_fixed (s : State) (c : Coord) (p : Nat) : (s.pushUnits c p).fixed = s.fixed := by
  unfold State.pushUnits
  dsimp only
  (repeat' split) <;> simp

@[simp ↓] theorem State.tidyRouter_fixed (s : State) (c : Coord) : (s.tidyRouter c).fixed = s.fixed := by
  unfold State.tidyRouter
  apply State.clocked_fixed
  rw [State.fixed_foldl (by simp), State.fixed_foldl (by simp)]

@[simp ↓] theorem State.fillOpen_fixed (s : State) (c : Coord) (q l : Nat) : (s.fillOpen c q l).fixed = s.fixed := by
  unfold State.fillOpen
  dsimp only
  split <;> simp

@[simp ↓] theorem State.violation_fixed (s : State) (c : Coord) (q : Nat) (l : Option Nat) (hdr : Option Packet) :
    (s.violation c q l hdr).fixed = s.fixed := by
  unfold State.violation
  dsimp only
  split <;> simp

@[simp ↓] theorem State.decodeUnit_fixed (s : State) (c : Coord) (cw : List Byte) : (s.decodeUnit c cw).2.2.fixed = s.fixed := by
  unfold State.decodeUnit
  split <;> simp

@[simp ↓] theorem State.recvUnit_fixed (s : State) (c : Coord) (q l : Nat) (first last gust copy : Bool) (cw : List Byte) :
    (s.recvUnit c q l first last gust copy cw).fixed = s.fixed := by
  unfold State.recvUnit
  dsimp only
  (repeat' split) <;> simp

@[simp ↓] theorem State.beatCore_fixed (s : State) (c : Coord) (q : Nat) (cw : List Byte) (side : Nat) (copy : Bool) :
    (s.beatCore c q cw side copy).fixed = s.fixed := by
  unfold State.beatCore
  (repeat' split) <;> simp

@[simp ↓] theorem State.noStrikes_fixed (s t : State) (b : FaultBlock) : (s.noStrikes t b).fixed = t.fixed := by
  simp [State.noStrikes]

@[simp ↓] theorem State.recvBeat_fixed (s : State) (c : Coord) (q : Nat) (cw : List Byte) (side : Nat) (copy : Bool) :
    (s.recvBeat c q cw side copy).fixed = s.fixed := by
  unfold State.recvBeat
  extract_lets b lane unit
  have hflip {o : Option (Nat × Bool)} {t : State} (h : (if unit then s.takeInject b.node 1 q else (none, s)) = (o, t)) :
      t.fixed = s.fixed := by
    split at h
    · exact State.takeInject_eq_fixed h
    · cases h; rfl
  split
  · next h => simp [hflip h]
  · next t h =>
    rw [← hflip h]
    split
    · next h => simp [State.takeInject_eq_fixed h]
    · next u h =>
      rw [← State.takeInject_eq_fixed h]
      split
      · simp
      · dsimp only
        split
        · next h => simp [State.memInject_eq_fixed h]
        · next h => split <;> simp [State.memInject_eq_fixed h]

@[simp ↓] theorem State.modPermit_fixed (s : State) (c : Coord) (f : Permit → Permit) : (s.modPermit c f).fixed = s.fixed := by
  simp [State.modPermit]

@[simp ↓] theorem State.markClaims_fixed (s : State) (c : Coord) (p : Nat) (l : List Cand) (power : Bool) :
    (s.markClaims c p l power).fixed = s.fixed := by
  simp [State.markClaims]

@[simp ↓] theorem State.account_fixed (s : State) (c : Coord) (p : Nat) (x : Cand) (claim sat : Bool) :
    (s.account c p x claim sat).fixed = s.fixed := by
  simp [State.account]

@[simp ↓] theorem State.chargeGust_fixed (s : State) (c : Coord) (p : Nat) (x : Cand) (claim : Bool) :
    (s.chargeGust c p x claim).fixed = s.fixed := by
  simp [State.chargeGust]

@[simp ↓] theorem State.noteDue_fixed (s : State) (c : Coord) (hdr : Nat) : (s.noteDue c hdr).fixed = s.fixed := by
  unfold State.noteDue
  split <;> simp

@[simp ↓] theorem State.startGust_fixed (s : State) (c : Coord) (p : Nat) (x : Cand) : (s.startGust c p x).fixed = s.fixed := by
  simp [State.startGust]

@[simp ↓] theorem State.deny_fixed (s : State) (c : Coord) (p : Nat) (l : List Cand) : (s.deny c p l).fixed = s.fixed := by
  simp [State.deny]

@[simp ↓] theorem State.grantGust_fixed (s : State) (c : Coord) (p : Nat) (l : List Cand) (x : Cand) (claim sat : Bool) :
    (s.grantGust c p l x claim sat).fixed = s.fixed := by
  simp [State.grantGust]

@[simp ↓] theorem State.sampleOut_fixed (s : State) (c : Coord) (p : Nat) : (s.sampleOut c p).fixed = s.fixed := by
  simp [State.sampleOut]

@[simp ↓] theorem State.noteWaits_fixed (s : State) (c : Coord) (p : Nat) : (s.noteWaits c p).fixed = s.fixed := by
  simp [State.noteWaits]

@[simp ↓] theorem State.tailBeat_fixed (s : State) (c : Coord) (p : Nat) : (s.tailBeat c p).fixed = s.fixed := by
  unfold State.tailBeat
  dsimp only
  split <;> simp

@[simp ↓] theorem State.inject_fixed (s : State) (c : Coord) (p : Packet) : (s.inject c p).fixed = s.fixed := by
  simp [State.inject]

@[simp ↓] theorem State.retract_fixed (s : State) (c : Coord) (l : Nat) (which : Packet → Bool) : (s.retract c l which).1.fixed = s.fixed := by
  simp [State.retract]

@[simp ↓] theorem State.dropQueued_fixed (s : State) (c : Coord) (r : SrcRsv) : (s.dropQueued c r).fixed = s.fixed := by
  simp [State.dropQueued]

@[simp ↓] theorem State.injectOut_fixed (s : State) (c : Coord) (p : Packet) (flow : Nat) (own : Bool) :
    (s.injectOut c p flow own).fixed = s.fixed := by
  simp [State.injectOut]

@[simp ↓] theorem State.sendPkt_fixed (s : State) (c : Coord) (p : Packet) (own : Bool) : (s.sendPkt c p own).fixed = s.fixed := by
  unfold State.sendPkt
  split <;> simp

@[simp ↓] theorem State.accounted_fixed (s : State) (c : Coord) (tag : Nat) (rsv : Option Nat) (controlOnly : Bool) :
    (s.accounted c tag rsv controlOnly).fixed = s.fixed := by
  simp [State.accounted]

@[simp ↓] theorem State.restartTimer_fixed (s : State) (c : Coord) (which : SrcRsv → Bool) : (s.restartTimer c which).fixed = s.fixed := by
  simp [State.restartTimer]

@[simp ↓] theorem State.releaseHeld_fixed (s : State) (c : Coord) : (s.releaseHeld c).fixed = s.fixed := by
  unfold State.releaseHeld
  dsimp only
  rw [State.fixed_foldl (by simp), State.fixed_foldl_fst, State.modCell_fixed]
  intro x h
  (repeat' split) <;> simp

@[simp ↓] theorem State.dropCopies_fixed (s : State) (c : Coord) (typ tag mid : Nat) : (s.dropCopies c typ tag mid).fixed = s.fixed := by
  simp [State.dropCopies]

/-! #### Machine/FaultOps.lean -/

@[simp ↓] theorem State.strikeOr_fixed (s : State) (noStrike : Bool) (b : FaultBlock) (cause whr detail : Nat) :
    (s.strikeOr noStrike b cause whr detail).fixed = s.fixed := by
  simp [State.strikeOr]

@[simp ↓] theorem State.drainStart_fixed (s : State) : s.drainStart.fixed = s.fixed := by
  unfold State.drainStart
  dsimp only
  split <;> simp

@[simp ↓] theorem State.suspect_fixed (s : State) (cause : Nat) : (s.suspect cause).fixed = s.fixed := by
  simp [State.suspect]

/-! #### Machine/BulkOps.lean -/

@[simp ↓] theorem State.writeCheck_fixed (s : State) (c : Coord) (a v : Nat) : (s.writeCheck c a v).fixed = s.fixed := by
  simp [State.writeCheck]

@[simp ↓] theorem State.recheck_fixed (s : State) (c : Coord) (a n : Nat) : (s.recheck c a n).fixed = s.fixed := by
  simp [State.recheck]

@[simp ↓] theorem State.modLanding_fixed (s : State) (x : Site) (f : Landing → Landing) : (s.modLanding x f).fixed = s.fixed := by
  unfold State.modLanding
  split <;> simp

@[simp ↓] theorem State.bumpLanding_fixed (s : State) (x : Site) (sub : Nat) : (s.bumpLanding x sub).fixed = s.fixed := by
  simp [State.bumpLanding]

@[simp ↓] theorem State.enterQueue_fixed (s : State) (x : Site) (q : LReq) : (s.enterQueue x q).fixed = s.fixed := by
  simp [State.enterQueue]

@[simp ↓] theorem State.reserveReceive_fixed (s : State) (x : Site) (kind : LKind) (p : Packet) (t : TransferTail) :
    (s.reserveReceive x kind p t).fixed = s.fixed := by
  simp [State.reserveReceive]

@[simp ↓] theorem State.sendGrant_fixed (s : State) (x : Site) (r : LRsv) : (s.sendGrant x r).fixed = s.fixed := by
  simp [State.sendGrant]

@[simp ↓] theorem State.mresAnswer_fixed (s : State) (c : Coord) (g : MresGrant) (phase reasons ok fail : Nat) :
    (s.mresAnswer c g phase reasons ok fail).fixed = s.fixed := by
  simp [State.mresAnswer]

@[simp ↓] theorem State.latePkt_fixed (s : State) (x : Site) (p : Packet) (off : Nat) (nack : Bool) : (s.latePkt x p off nack).fixed = s.fixed := by
  simp [State.latePkt]

@[simp ↓] theorem State.noteSpan_fixed (s : State) (c : Coord) (r : LRsv) (base a n : Nat) (fin : Bool) :
    (s.noteSpan c r base a n fin).fixed = s.fixed := by
  simp [State.noteSpan]

@[simp ↓] theorem State.landBytes_fixed (s : State) (c : Coord) (r : LRsv) (base off size : Nat) (p : Packet) :
    (s.landBytes c r base off size p).fixed = s.fixed := by
  simp [State.landBytes]

@[simp ↓] theorem State.checkFault_fixed (s : State) (c : Coord) (p : Packet) : (s.checkFault c p).fixed = s.fixed := by
  simp [State.checkFault]

@[simp ↓] theorem State.addRsv_fixed (s : State) (c : Coord) (r : SrcRsv) : (s.addRsv c r).fixed = s.fixed := by
  simp [State.addRsv]

@[simp ↓] theorem State.sendReserve_fixed (s : State) (c : Coord) (core : Nat) (r : SrcRsv) (own : Bool) :
    (s.sendReserve c core r own).fixed = s.fixed := by
  simp [State.sendReserve]

@[simp ↓] theorem State.openOne_fixed (s : State) (c : Coord) (m : Cmd) : (s.openOne c m).2.fixed = s.fixed := by
  unfold State.openOne
  split <;> simp

@[simp ↓] theorem State.openAll_fixed (s : State) (c : Coord) (tag fuel : Nat) : (s.openAll c tag fuel).fixed = s.fixed := by
  induction fuel generalizing s with
  | zero => rfl
  | succ fuel ih =>
    unfold State.openAll
    (repeat' split) <;> simp [ih]

@[simp ↓] theorem State.sendRelease_fixed (s : State) (c : Coord) (core : Nat) (r : SrcRsv) : (s.sendRelease c core r).fixed = s.fixed := by
  simp [State.sendRelease]

@[simp ↓] theorem State.sourceFail_fixed (s : State) (c : Coord) (r : SrcRsv) (code : Nat) (left : Bool) :
    (s.sourceFail c r code left).fixed = s.fixed := by
  simp [State.sourceFail]

@[simp ↓] theorem State.sendData_fixed (s : State) (c : Coord) (m : Cmd) (r : SrcRsv) (num : Nat) (mk : Nat → Nat → Bool → List Byte → Option Nat → Packet) (fuel n1 : Nat) :
    (s.sendData c m r num mk fuel n1).fixed = s.fixed := by
  induction fuel generalizing s n1 with
  | zero => rfl
  | succ fuel ih =>
    simp [State.sendData, ih]

@[simp ↓] theorem State.dataSent_fixed (s : State) (c : Coord) (rsv : Nat) : (s.dataSent c rsv).fixed = s.fixed := by
  simp [State.dataSent]

@[simp ↓] theorem State.sendPut_fixed (s : State) (c : Coord) (m : Cmd) (r : SrcRsv) : (s.sendPut c m r).fixed = s.fixed := by
  simp [State.sendPut]

@[simp ↓] theorem State.sendMcast_fixed (s : State) (c : Coord) (m : Cmd) (r : SrcRsv) : (s.sendMcast c m r).fixed = s.fixed := by
  simp [State.sendMcast]

@[simp ↓] theorem State.dataGo_fixed (s : State) (c : Coord) (m : Cmd) (r : SrcRsv) : (s.dataGo c m r).fixed = s.fixed := by
  simp [State.dataGo]

@[simp ↓] theorem State.finishTransfer_fixed (s : State) (c : Coord) (tag : Nat) : (s.finishTransfer c tag).fixed = s.fixed := by
  unfold State.finishTransfer
  split <;> simp

@[simp ↓] theorem State.nackRsv_fixed (s : State) (c : Coord) (r : SrcRsv) (reason bytes : Nat) : (s.nackRsv c r reason bytes).fixed = s.fixed := by
  simp [State.nackRsv]

@[simp ↓] theorem State.routerRsvFailed_fixed (s : State) (c : Coord) (r : SrcRsv) : (s.routerRsvFailed c r).fixed = s.fixed := by
  unfold State.routerRsvFailed
  split <;> simp

theorem State.routerTransfer_fixed {s : State} {c : Coord} {use : SrcUse} {dest : Addr} {raddr base size : Nat} {data : List Byte} :
    ∀ t ∈ s.routerTransfer c use dest raddr base size data, t.fixed = s.fixed := by
  unfold State.routerTransfer
  split <;> simp

@[simp ↓] theorem State.sendOwn_fixed (s : State) (c : Coord) (r : SrcRsv) : (s.sendOwn c r).fixed = s.fixed := by
  simp [State.sendOwn]

@[simp ↓] theorem State.replyAddr_fixed (s : State) : s.replyAddr.2.fixed = s.fixed := by
  simp [State.replyAddr]

@[simp ↓] theorem State.replyGet_fixed (s : State) (c : Coord) (p : Packet) (t : TransferTail) (fuel n1 : Nat) :
    (s.replyGet c p t fuel n1).fixed = s.fixed := by
  induction fuel generalizing s n1 with
  | zero => rfl
  | succ fuel ih =>
    simp [State.replyGet, ih]

/-! #### Machine/LandOps.lean -/

theorem State.resetDrop_fixed {s : State} {c : Coord} {p : Packet} : ∀ t ∈ s.resetDrop c p, t.fixed = s.fixed := by
  unfold State.resetDrop
  split <;> simp

@[simp ↓] theorem State.sendGetReq_fixed (s : State) (c : Coord) (k : RsvKey) : (s.sendGetReq c k).fixed = s.fixed := by
  unfold State.sendGetReq
  split <;> simp

@[simp ↓] theorem State.grantHead_fixed (s : State) (x : Site) : (s.grantHead x).fixed = s.fixed := by
  unfold State.grantHead
  dsimp only
  (repeat' split) <;> simp

@[simp ↓] theorem State.reservationGrant_fixed (s : State) (x : Site) : (s.reservationGrant x).fixed = s.fixed := by
  simp [State.reservationGrant]

@[simp ↓] theorem State.failLanding_fixed (s : State) (x : Site) (r : LRsv) : (s.failLanding x r).fixed = s.fixed := by
  simp [State.failLanding]

@[simp ↓] theorem State.putDataCell_fixed (s : State) (c : Coord) (p : Packet) (t : TransferTail) : (s.putDataCell c p t).fixed = s.fixed := by
  unfold State.putDataCell
  dsimp only
  (repeat' split) <;> simp

@[simp ↓] theorem State.sendDelivered_fixed (s : State) (x : Site) (r : LRsv) : (s.sendDelivered x r).fixed = s.fixed := by
  simp [State.sendDelivered]

@[simp ↓] theorem State.filledCell_fixed (s : State) (c : Coord) (k : RsvKey) : (s.filledCell c k).fixed = s.fixed := by
  unfold State.filledCell
  dsimp only
  (repeat' split) <;> simp

@[simp ↓] theorem State.releaseAt_fixed (s : State) (x : Site) (p : Packet) (t : TransferTail) : (s.releaseAt x p t).fixed = s.fixed := by
  unfold State.releaseAt
  dsimp only
  (repeat' split) <;> simp

@[simp ↓] theorem State.answerRelease_fixed (s : State) (c : Coord) (p : Packet) (t : TransferTail) : (s.answerRelease c p t).fixed = s.fixed := by
  unfold State.answerRelease
  split <;> simp

@[simp ↓] theorem State.grantAt_fixed (s : State) (c : Coord) (p : Packet) (t : TransferTail) {rows segs : State → SrcRsv → State}
    (hrows : ∀ s r, (rows s r).fixed = s.fixed) (hsegs : ∀ s r, (segs s r).fixed = s.fixed) :
    (s.grantAt c p t rows segs).fixed = s.fixed := by
  unfold State.grantAt
  dsimp only
  (repeat' split) <;> simp [hrows, hsegs]

@[simp ↓] theorem State.resumeGated_fixed (s : State) (c : Coord) (tag : Nat) : (s.resumeGated c tag).fixed = s.fixed := by
  unfold State.resumeGated
  apply State.fixed_foldl
  intro s a
  (repeat' split) <;> simp

@[simp ↓] theorem State.deliveredRsv_fixed (s : State) (c : Coord) (r : SrcRsv) (d : Delivered) : (s.deliveredRsv c r d).fixed = s.fixed := by
  simp [State.deliveredRsv]

@[simp ↓] theorem State.getReqCell_fixed (s : State) (c : Coord) (p : Packet) (t : TransferTail) :
    (s.getReqCell c p t).fixed = s.fixed := by
  unfold State.getReqCell
  split
  · next u hu => exact State.resetDrop_fixed u hu
  · simp

@[simp ↓] theorem State.getDataCell_fixed (s : State) (c : Coord) (p : Packet) (t : TransferTail) : (s.getDataCell c p t).fixed = s.fixed := by
  unfold State.getDataCell
  dsimp only
  (repeat' split) <;> simp

@[simp ↓] theorem State.expireOwn_fixed (s : State) (c : Coord) (q : LRsv) : (s.expireOwn c q).fixed = s.fixed := by
  unfold State.expireOwn
  split <;> simp

@[simp ↓] theorem State.mresEnter_fixed (s : State) (c : Coord) (g : MresGrant) : (s.mresEnter c g).fixed = s.fixed := by
  simp [State.mresEnter]

@[simp ↓] theorem State.mresHoles_fixed (s : State) (c : Coord) (g : MresGrant) (holes : List Coord) : (s.mresHoles c g holes).fixed = s.fixed := by
  simp [State.mresHoles]

@[simp ↓] theorem State.mresGrantAt_fixed (s : State) (c : Coord) (g : MresGrant) : (s.mresGrantAt c g).fixed = s.fixed := by
  simp [State.mresGrantAt]

@[simp ↓] theorem State.endMcast_fixed (s : State) (c : Coord) (r : SrcRsv) (extra : List (Nat × Nat)) : (s.endMcast c r extra).fixed = s.fixed := by
  simp [State.endMcast]

@[simp ↓] theorem State.noteCheck_fixed (s : State) (g : MresGrant) : (s.noteCheck g).fixed = s.fixed := by
  simp [State.noteCheck]

@[simp ↓] theorem State.mresArriveCell_fixed (s : State) (a : MresArrive) : (s.mresArriveCell a).fixed = s.fixed := by
  unfold State.mresArriveCell
  dsimp only
  (repeat' split) <;> simp

@[simp ↓] theorem State.mcastDataCell_fixed (s : State) (c : Coord) (p : Packet) (t : RectTail) : (s.mcastDataCell c p t).fixed = s.fixed := by
  unfold State.mcastDataCell
  dsimp only
  (repeat' split) <;> simp

/-! #### Machine/RingOps.lean -/

@[simp ↓] theorem State.startWindow_fixed (s : State) (c : Coord) (p at_ : Nat) : (s.startWindow c p at_).fixed = s.fixed := by
  simp [State.startWindow]

@[simp ↓] theorem State.restartOutputs_fixed (s : State) (f : Nat) : (s.restartOutputs f).fixed = s.fixed := by
  simp [State.restartOutputs]

@[simp ↓] theorem State.syncRequest_fixed (s : State) (c : Coord) (q : Nat) : (s.syncRequest c q).fixed = s.fixed := by
  simp [State.syncRequest]

@[simp ↓] theorem State.syncMarker_fixed (s : State) (c : Coord) (p : Nat) : (s.syncMarker c p).fixed = s.fixed := by
  simp [State.syncMarker]

@[simp ↓] theorem State.syncReply_fixed (s : State) (c : Coord) (p : Nat) (counts : List Nat) : (s.syncReply c p counts).fixed = s.fixed := by
  simp [State.syncReply]

@[simp ↓] theorem State.creditSignalAt_fixed (s : State) (c : Coord) (p : Nat) (counts : List Nat) :
    (s.creditSignalAt c p counts).fixed = s.fixed := by
  simp [State.creditSignalAt]

@[simp ↓] theorem State.hardStop_fixed (s : State) (c : Coord) (p : Nat) (on : Bool) : (s.hardStop c p on).fixed = s.fixed := by
  simp [State.hardStop]

@[simp ↓] theorem State.fenceNacks_fixed (s : State) (c : Coord) (p : Nat) : (s.fenceNacks c p).fixed = s.fixed := by
  unfold State.fenceNacks
  apply State.fixed_foldl
  intro s a
  (repeat' split) <;> simp

@[simp ↓] theorem State.addHole_fixed (s : State) (h : Coord) (origin : Nat) : (s.addHole h origin).fixed = s.fixed := by
  simp [State.addHole]

@[simp ↓] theorem State.abandonCell_fixed (s : State) (c : Coord) : (s.abandonCell c).fixed = s.fixed := by
  simp [State.abandonCell]

@[simp ↓] theorem State.loseRouter_fixed (s : State) (h : Coord) : (s.loseRouter h).fixed = s.fixed := by
  simp [State.loseRouter]

@[simp ↓] theorem State.takeFrom_fixed (s : State) (ns : List (Coord × Nat)) : (s.takeFrom ns).fixed = s.fixed := by
  simp [State.takeFrom]

@[simp ↓] theorem State.recloseStart_fixed (s : State) (h : Coord) (origin : Nat) : (s.recloseStart h origin).fixed = s.fixed := by
  simp [State.recloseStart]

@[simp ↓] theorem State.fenceCell_fixed (s : State) (h : Coord) (origin : Nat) : (s.fenceCell h origin).fixed = s.fixed := by
  unfold State.fenceCell
  dsimp only
  split <;> simp

@[simp ↓] theorem State.fenceStranded_fixed (s : State) (h : Coord) (n : Nat) : (s.fenceStranded h n).fixed = s.fixed := by
  induction n generalizing s h with
  | zero => rfl
  | succ n ih => simp [State.fenceStranded, ih]

@[simp ↓] theorem State.fenceRouter_fixed (s : State) (h : Coord) : (s.fenceRouter h).fixed = s.fixed := by
  simp [State.fenceRouter]

@[simp ↓] theorem State.ringChangeAt_fixed (s : State) (c h : Coord) : (s.ringChangeAt c h).fixed = s.fixed := by
  simp [State.ringChangeAt]

@[simp ↓] theorem State.rejoin_fixed (s : State) (c : Coord) (p : Nat) : (s.rejoin c p).fixed = s.fixed := by
  unfold State.rejoin
  split <;> simp

@[simp ↓] theorem State.recloseRelease_fixed (s : State) (h : Coord) : (s.recloseRelease h).fixed = s.fixed := by
  unfold State.recloseRelease
  split <;> simp

@[simp ↓] theorem State.setTally_fixed (s : State) (f k v : Nat) : (s.setTally f k v).fixed = s.fixed := by
  simp [State.setTally]

@[simp ↓] theorem State.anyAdvertise_fixed (s : State) (g : Nat) : (s.anyAdvertise g).fixed = s.fixed := by
  simp [State.anyAdvertise]

@[simp ↓] theorem State.anyDecode_fixed (s : State) (g : Nat) : (s.anyDecode g).fixed = s.fixed := by
  simp [State.anyDecode]

@[simp ↓] theorem State.anyWinAt_fixed (s : State) (c : Coord) (g member : Nat) (no : Bool) : (s.anyWinAt c g member no).fixed = s.fixed := by
  simp [State.anyWinAt]

/-! #### Machine/SigOps.lean -/

@[simp ↓] theorem State.modSin_fixed (s : State) (c : Coord) (q : Nat) (f : SigIn → SigIn) : (s.modSin c q f).fixed = s.fixed := by
  simp [State.modSin]

@[simp ↓] theorem State.modSout_fixed (s : State) (c : Coord) (p : Nat) (f : SigOut → SigOut) : (s.modSout c p f).fixed = s.fixed := by
  simp [State.modSout]

@[simp ↓] theorem State.setSigLane_fixed (s : State) (c : Coord) (q lane : Nat) (l : List BufSig) : (s.setSigLane c q lane l).fixed = s.fixed := by
  simp [State.setSigLane]

@[simp ↓] theorem State.putSigBeat_fixed (s : State) (c : Coord) (p : Nat) (cw : List Byte) (side : Nat) (route : RouteBits) (org : Coord) (copy : Bool) :
    (s.putSigBeat c p cw side route org copy).fixed = s.fixed := by
  unfold State.putSigBeat
  split <;> simp

@[simp ↓] theorem State.freeSig_fixed (s : State) (c : Coord) (q lane : Nat) : (s.freeSig c q lane).fixed = s.fixed := by
  simp [State.freeSig]

@[simp ↓] theorem State.discardSig_fixed (s : State) (c : Coord) : (s.discardSig c).fixed = s.fixed := by
  simp [State.discardSig]

@[simp ↓] theorem State.emitSig_fixed (s : State) (c : Coord) (g : OutLeg) (beats : List Nat) (org : Coord) :
    (s.emitSig c g beats org).fixed = s.fixed := by
  simp [State.emitSig]

@[simp ↓] theorem State.maintSig_fixed (s : State) (c : Coord) (sg : Signal) : (s.maintSig c sg).fixed = s.fixed := by
  unfold State.maintSig
  (repeat' split) <;> simp

@[simp ↓] theorem State.sinkSig_fixed (s : State) (c : Coord) (sg : Signal) : (s.sinkSig c sg).fixed = s.fixed := by
  unfold State.sinkSig
  split <;> simp

@[simp ↓] theorem State.addSeg_fixed (s : State) (c : Coord) (a b : Nat) : (s.addSeg c a b).fixed = s.fixed := by
  unfold State.addSeg
  dsimp only
  split <;> simp

@[simp ↓] theorem State.addSegs_fixed (s : State) (c : Coord) (fuel : Nat) : (s.addSegs c fuel).fixed = s.fixed := by
  induction fuel generalizing s with
  | zero => rfl
  | succ fuel ih =>
    unfold State.addSegs
    (repeat' split) <;> simp [ih]

@[simp ↓] theorem State.takeSegment_fixed (s : State) (c : Coord) (a b : Nat) : (s.takeSegment c a b).fixed = s.fixed := by
  simp [State.takeSegment]

@[simp ↓] theorem State.deliverSig_fixed (s : State) (c : Coord) (b : BufSig) : (s.deliverSig c b).fixed = s.fixed := by
  unfold State.deliverSig
  (repeat' split) <;> simp

@[simp ↓] theorem State.callHoles_fixed (s : State) (c : Coord) (q lane : Nat) (b : BufSig) : (s.callHoles c q lane b).fixed = s.fixed := by
  unfold State.callHoles
  split <;> simp

@[simp ↓] theorem State.settleSig_fixed (s : State) (c : Coord) (q lane fuel : Nat) : (s.settleSig c q lane fuel).fixed = s.fixed := by
  induction fuel generalizing s with
  | zero => rfl
  | succ fuel ih =>
    unfold State.settleSig
    (repeat' split) <;> simp [ih]

@[simp ↓] theorem State.settleSigs_fixed (s : State) (c : Coord) : (s.settleSigs c).fixed = s.fixed := by
  simp [State.settleSigs]

@[simp ↓] theorem State.serveOutput_fixed (s : State) (c : Coord) (p fuel : Nat) : (s.serveOutput c p fuel).fixed = s.fixed := by
  induction fuel generalizing s with
  | zero => rfl
  | succ fuel ih =>
    unfold State.serveOutput
    dsimp only
    (repeat' split) <;> simp [ih]

@[simp ↓] theorem State.combine_fixed (s : State) (c : Coord) (q lane : Nat) (b : BufSig) (rest : List BufSig) (g : OutLeg) (sg : Signal) :
    (s.combine c q lane b rest g sg).fixed = s.fixed := by
  unfold State.combine
  dsimp only
  split <;> simp

@[simp ↓] theorem State.combineHeads_fixed (s : State) (c : Coord) : (s.combineHeads c).fixed = s.fixed := by
  unfold State.combineHeads
  apply State.fixed_foldl
  intro s a
  (repeat' split) <;> simp

@[simp ↓] theorem State.rerouteTable_fixed (s : State) (c : Coord) : (s.rerouteTable c).fixed = s.fixed := by
  unfold State.rerouteTable
  apply State.fixed_foldl
  intro s w
  dsimp only
  (repeat' split) <;> simp

@[simp ↓] theorem State.serveTable_fixed (s : State) (c : Coord) : (s.serveTable c).fixed = s.fixed := by
  simp [State.serveTable]

@[simp ↓] theorem State.serveLocal_fixed (s : State) (c : Coord) (p : Nat) : (s.serveLocal c p).fixed = s.fixed := by
  simp [State.serveLocal]

@[simp ↓] theorem State.serveRounds_fixed (s : State) (c : Coord) (fuel : Nat) : (s.serveRounds c fuel).fixed = s.fixed := by
  induction fuel generalizing s with
  | zero => rfl
  | succ fuel ih =>
    simp [State.serveRounds, ih]

@[simp ↓] theorem State.serveSignals_fixed (s : State) (c : Coord) : (s.serveSignals c).fixed = s.fixed := by
  simp [State.serveSignals]

@[simp ↓] theorem State.serveNet_fixed (s : State) : s.serveNet.fixed = s.fixed := by
  simp [State.serveNet]

@[simp ↓] theorem State.sigViolation_fixed (s : State) (c : Coord) (q : Nat) : (s.sigViolation c q).fixed = s.fixed := by
  simp [State.sigViolation]

@[simp ↓] theorem State.takeLaned_fixed (s : State) (c : Coord) (q lane : Nat) (b : BufSig) : (s.takeLaned c q lane b).fixed = s.fixed := by
  simp [State.takeLaned]

@[simp ↓] theorem State.slsyncAt_fixed (s : State) (c : Coord) (p : Nat) (counts : List Nat) : (s.slsyncAt c p counts).fixed = s.fixed := by
  simp [State.slsyncAt]

@[simp ↓] theorem State.slsyncSend_fixed (s : State) (c : Coord) (q : Nat) : (s.slsyncSend c q).fixed = s.fixed := by
  simp [State.slsyncSend]

@[simp ↓] theorem State.takeLinkLocal_fixed (s : State) (c : Coord) (q w : Nat) : (s.takeLinkLocal c q w).fixed = s.fixed := by
  unfold State.takeLinkLocal
  split <;> simp

@[simp ↓] theorem State.takeCrl_fixed (s : State) (c : Coord) (q side : Nat) : (s.takeCrl c q side).fixed = s.fixed := by
  simp [State.takeCrl]

@[simp ↓] theorem State.takeLocal_fixed (s : State) (c : Coord) (q : Nat) (sg : Signal) : (s.takeLocal c q sg).fixed = s.fixed := by
  unfold State.takeLocal
  dsimp only
  split <;> simp

@[simp ↓] theorem State.loseBeat_fixed (s : State) (c : Coord) (q lane : Nat) (pair : Bool) : (s.loseBeat c q lane pair).fixed = s.fixed := by
  simp [State.loseBeat]

@[simp ↓] theorem State.lanedBeat_fixed (s : State) (c : Coord) (q lane : Nat) (pair : Bool) (w : Nat) (route : RouteBits) (org : Coord) (copy : Bool) :
    (s.lanedBeat c q lane pair w route org copy).fixed = s.fixed := by
  unfold State.lanedBeat
  (repeat' split) <;> simp

@[simp ↓] theorem State.dropBeat_fixed (s : State) (c : Coord) (q lane : Nat) (pair : Bool) : (s.dropBeat c q lane pair).fixed = s.fixed := by
  unfold State.dropBeat
  split <;> simp

@[simp ↓] theorem State.badSigBeat_fixed (s : State) (c : Coord) (q lane : Nat) (pair : Bool) : (s.badSigBeat c q lane pair).fixed = s.fixed := by
  simp [State.badSigBeat]

@[simp ↓] theorem State.cutHalf_fixed (s : State) (c : Coord) (q : Nat) : (s.cutHalf c q).fixed = s.fixed := by
  unfold State.cutHalf
  split <;> simp

@[simp ↓] theorem State.sigBeatCore_fixed (s : State) (c : Coord) (q : Nat) (cw : List Byte) (side : Nat) (route : RouteBits) (org : Coord) (copy : Bool) :
    (s.sigBeatCore c q cw side route org copy).fixed = s.fixed := by
  unfold State.sigBeatCore
  (repeat' split) <;> simp

@[simp ↓] theorem State.recvSigBeat_fixed (s : State) (c : Coord) (q : Nat) (cw : List Byte) (side : Nat) :
    (s.recvSigBeat c q cw side).fixed = s.fixed := by
  unfold State.recvSigBeat
  dsimp only
  split
  · rfl
  · split
    · split <;> simp
    · split
      · simp
      · split
        · next h => simp [State.takeInject_eq_fixed h]
        · next h => split <;> simp [State.takeInject_eq_fixed h]

@[simp ↓] theorem State.setBar_fixed (s : State) (c : Coord) (k sub v : Nat) : (s.setBar c k sub v).fixed = s.fixed := by
  simp [State.setBar]

@[simp ↓] theorem State.barRelease_fixed (s : State) (c : Coord) (k : Nat) (timeout : Bool) : (s.barRelease c k timeout).fixed = s.fixed := by
  simp [State.barRelease]

@[simp ↓] theorem State.atRouter_fixed (s : State) (c : Coord) (sg : Signal) {run : State → State}
    (hrun : ∀ s, (run s).fixed = s.fixed) : (s.atRouter c sg run).fixed = s.fixed := by
  simp [State.atRouter, hrun]

@[simp ↓] theorem State.barArriveRoot_fixed (s : State) (c : Coord) (a : BarArrive) : (s.barArriveRoot c a).fixed = s.fixed := by
  simp [State.barArriveRoot]

@[simp ↓] theorem State.barArriveAt_fixed (s : State) (c : Coord) (a : BarArrive) : (s.barArriveAt c a).fixed = s.fixed := by
  simp [State.barArriveAt]

@[simp ↓] theorem State.barReleaseAt_fixed (s : State) (c : Coord) (r : BarRelease) : (s.barReleaseAt c r).fixed = s.fixed := by
  simp [State.barReleaseAt]

@[simp ↓] theorem State.tallyOp_fixed (s : State) (q : TallyReq) : (s.tallyOp q).fixed = s.fixed := by
  simp [State.tallyOp]

@[simp ↓] theorem State.tallyAt_fixed (s : State) (q : TallyReq) : (s.tallyAt q).fixed = s.fixed := by
  simp [State.tallyAt]

@[simp ↓] theorem State.tallyRspAt_fixed (s : State) (q : TallyRsp) : (s.tallyRspAt q).fixed = s.fixed := by
  unfold State.tallyRspAt
  dsimp only
  split <;> simp

@[simp ↓] theorem State.intAt_fixed (s : State) (c : Coord) (core origin arg32 : Nat) : (s.intAt c core origin arg32).fixed = s.fixed := by
  simp [State.intAt]

@[simp ↓] theorem State.intTake_fixed (s : State) (c : Coord) (core tag : Nat) : (s.intTake c core tag).fixed = s.fixed := by
  unfold State.intTake
  split <;> simp

/-! #### Machine/PortOps.lean -/

@[simp ↓] theorem State.bumpLink_fixed (s : State) (p sub k : Nat) : (s.bumpLink p sub k).fixed = s.fixed := by
  simp [State.bumpLink]

@[simp ↓] theorem State.linkStop_fixed (s : State) (p : Nat) (on : Bool) : (s.linkStop p on).fixed = s.fixed := by
  simp [State.linkStop]

@[simp ↓] theorem State.setPortState_fixed (s : State) (p st : Nat) : (s.setPortState p st).fixed = s.fixed := by
  simp [State.setPortState]

@[simp ↓] theorem State.freshBytes_fixed (s : State) (n : Nat) : (s.freshBytes n).2.fixed = s.fixed := by
  simp [State.freshBytes]

@[simp ↓] theorem State.transmit_fixed (s : State) (p kind seq : Nat) (body : List (List Byte)) : (s.transmit p kind seq body).fixed = s.fixed := by
  simp [State.transmit]

@[simp ↓] theorem State.sendSeq_fixed (s : State) (p kind : Nat) (body : List (List Byte)) (heads : List Packet) :
    (s.sendSeq p kind body heads).fixed = s.fixed := by
  simp [State.sendSeq]

@[simp ↓] theorem State.msgRun_fixed (s : State) (p fuel : Nat) : (s.msgRun p fuel).fixed = s.fixed := by
  induction fuel generalizing s with
  | zero => rfl
  | succ fuel ih =>
    unfold State.msgRun
    (repeat' split) <;> simp [ih]

@[simp ↓] theorem State.sendMsg_fixed (s : State) (p mtype : Nat) (bs : List Byte) : (s.sendMsg p mtype bs).fixed = s.fixed := by
  simp [State.sendMsg]

@[simp ↓] theorem State.freeClass_fixed (s : State) (p k n : Nat) : (s.freeClass p k n).fixed = s.fixed := by
  simp [State.freeClass]

@[simp ↓] theorem State.freeOrigin_fixed (s : State) (o : Option (Nat × Nat)) (n : Nat) : (s.freeOrigin o n).fixed = s.fixed := by
  unfold State.freeOrigin
  split <;> simp

@[simp ↓] theorem State.unroute_fixed (s : State) (p : Nat) : (s.unroute p).fixed = s.fixed := by
  simp [State.unroute]

@[simp ↓] theorem State.openDone_fixed (s : State) (p : Nat) : (s.openDone p).fixed = s.fixed := by
  simp [State.openDone]

@[simp ↓] theorem State.portDrop_fixed (s : State) (p : Nat) : (s.portDrop p).fixed = s.fixed := by
  unfold State.portDrop
  dsimp only
  rw [State.modPort_fixed, State.openDone_fixed, State.fixed_foldl, State.fixed_foldl (by simp)]
  intro s i
  split <;> simp

@[simp ↓] theorem State.portClear_fixed (s : State) (p : Nat) : (s.portClear p).fixed = s.fixed := by
  simp [State.portClear]

@[simp ↓] theorem State.leftService_fixed (s : State) (p cause : Nat) : (s.leftService p cause).2.fixed = s.fixed := by
  simp [State.leftService]

@[simp ↓] theorem State.portDown_fixed (s : State) (p st cause : Nat) : (s.portDown p st cause).fixed = s.fixed := by
  simp [State.portDown]

@[simp ↓] theorem State.retrain_fixed (s : State) (p cause : Nat) : (s.retrain p cause).fixed = s.fixed := by
  simp [State.retrain]

@[simp ↓] theorem State.violationAt_fixed (s : State) (p check eng typ : Nat) : (s.violationAt p check eng typ).fixed = s.fixed := by
  unfold State.violationAt
  extract_lets n w s1 s2 s3 b l s4 s5
  have h3 : s3.fixed = s.fixed := by simp [s3, s2, s1]
  have h5 : s5.fixed = s3.fixed := by simp [s5, s4, l]
  split
  · simp [h5, h3]
  · exact h3

@[simp ↓] theorem State.violationEvent_fixed (s : State) (p : Nat) : (s.violationEvent p).fixed = s.fixed := by
  simp [State.violationEvent]

@[simp ↓] theorem State.linkViolation_fixed (s : State) (p : Nat) : (s.linkViolation p).fixed = s.fixed := by
  simp [State.linkViolation]

@[simp ↓] theorem State.takeAck_fixed (s : State) (p ack : Nat) : (s.takeAck p ack).fixed = s.fixed := by
  unfold State.takeAck
  dsimp only
  split <;> simp

@[simp ↓] theorem State.retransmit_fixed (s : State) (p : Nat) : (s.retransmit p).fixed = s.fixed := by
  simp [State.retransmit]

@[simp ↓] theorem State.linkWindow_fixed (s : State) (p : Nat) : (s.linkWindow p).fixed = s.fixed := by
  simp [State.linkWindow]

@[simp ↓] theorem State.headEvents_fixed (s : State) (p : Nat) (heads : List Packet) : (s.headEvents p heads).fixed = s.fixed := by
  simp [State.headEvents]

theorem State.relayStep_fixed {s : State} {p room : Nat} : ∀ x ∈ s.relayStep p room, x.2.fixed = s.fixed := by
  unfold State.relayStep
  dsimp only
  (repeat' split) <;> simp

@[simp ↓] theorem State.fillStep_fixed (s : State) (p : Nat) (items : List (List Byte)) (heads : List Packet) :
    (s.fillStep p items heads).2.2.2.fixed = s.fixed := by
  unfold State.fillStep
  extract_lets s1 q s2
  have hs1 : s1.fixed = s.fixed := by simp [s1]
  have hs2 : s2.fixed = s.fixed := by simp [s2, hs1]
  split
  · simp [hs1]
  · split
    · split
      · exact hs2
      · next x hx => simp [State.relayStep_fixed x hx, hs2]
    · extract_lets x
      split <;> simp [hs2]

@[simp ↓] theorem State.fillFrame_fixed (s : State) (p fuel : Nat) (n1 : List (List Byte)) (n2 : List Packet) :
    (s.fillFrame p fuel n1 n2).2.2.fixed = s.fixed := by
  induction fuel generalizing s n1 n2 with
  | zero => rfl
  | succ fuel ih =>
    unfold State.fillFrame
    dsimp only
    (repeat' split) <;> simp [ih]

@[simp ↓] theorem State.creditItem_fixed (s : State) (p : Nat) : (s.creditItem p).2.fixed = s.fixed := by
  simp [State.creditItem]

@[simp ↓] theorem State.stallMark_fixed (s : State) (p : Nat) : (s.stallMark p).fixed = s.fixed := by
  simp [State.stallMark]

@[simp ↓] theorem State.linkRun_fixed (s : State) (p fuel : Nat) : (s.linkRun p fuel).fixed = s.fixed := by
  induction fuel generalizing s with
  | zero => rfl
  | succ fuel ih =>
    simp [State.linkRun, ih]

@[simp ↓] theorem State.idleNak_fixed (s : State) (p : Nat) : (s.idleNak p).fixed = s.fixed := by
  simp [State.idleNak]

/-! #### Machine/LinkOps.lean -/

@[simp ↓] theorem State.enterHello_fixed (s : State) (p : Nat) : (s.enterHello p).fixed = s.fixed := by
  simp [State.enterHello]

@[simp ↓] theorem State.trainingStart_fixed (s : State) (p : Nat) : (s.trainingStart p).fixed = s.fixed := by
  simp [State.trainingStart]

@[simp ↓] theorem State.trainingLock_fixed (s : State) (p own partner : Nat) : (s.trainingLock p own partner).fixed = s.fixed := by
  simp [State.trainingLock]

@[simp ↓] theorem State.hsRefuse_fixed (s : State) (p cause : Nat) : (s.hsRefuse p cause).fixed = s.fixed := by
  simp [State.hsRefuse]

@[simp ↓] theorem State.hsCheck_fixed (s : State) (p : Nat) : (s.hsCheck p).fixed = s.fixed := by
  unfold State.hsCheck
  dsimp only
  (repeat' split) <;> simp

@[simp ↓] theorem State.outOfOrder_fixed (s : State) (p : Nat) : (s.outOfOrder p).fixed = s.fixed := by
  simp [State.outOfOrder]

@[simp ↓] theorem State.helloAt_fixed (s : State) (p : Nat) (h : Hello) : (s.helloAt p h).fixed = s.fixed := by
  simp [State.helloAt]

@[simp ↓] theorem State.certAt_fixed (s : State) (p : Nat) (chain : List Byte) : (s.certAt p chain).fixed = s.fixed := by
  simp [State.certAt]

@[simp ↓] theorem State.proofAt_fixed (s : State) (p : Nat) (sig : List Byte) : (s.proofAt p sig).fixed = s.fixed := by
  unfold State.proofAt
  dsimp only
  (repeat' split) <;> simp

@[simp ↓] theorem State.tryUp_fixed (s : State) (p : Nat) : (s.tryUp p).fixed = s.fixed := by
  simp [State.tryUp]

@[simp ↓] theorem State.finishAt_fixed (s : State) (p : Nat) (mac : List Byte) : (s.finishAt p mac).fixed = s.fixed := by
  unfold State.finishAt
  dsimp only
  (repeat' split) <;> simp

@[simp ↓] theorem State.sendRekey_fixed (s : State) (p : Nat) (pub : Option (List Byte × List Byte)) : (s.sendRekey p pub).fixed = s.fixed := by
  simp [State.sendRekey]

@[simp ↓] theorem State.rekeyStart_fixed (s : State) (p : Nat) (pub : Option (List Byte × List Byte)) : (s.rekeyStart p pub).fixed = s.fixed := by
  simp [State.rekeyStart]

@[simp ↓] theorem State.rekeyExpiry_fixed (s : State) (p : Nat) (random epub : List Byte) : (s.rekeyExpiry p random epub).fixed = s.fixed := by
  simp [State.rekeyExpiry]

@[simp ↓] theorem State.rekeyAt_fixed (s : State) (p : Nat) (random epub : List Byte) : (s.rekeyAt p random epub).fixed = s.fixed := by
  unfold State.rekeyAt
  dsimp only
  (repeat' split) <;> simp

@[simp ↓] theorem State.routeRecompute_fixed (s : State) : s.routeRecompute.fixed = s.fixed := by
  simp [State.routeRecompute]

@[simp ↓] theorem State.relayPut_fixed (s : State) (p : Nat) (i : RelayItem) : (s.relayPut p i).fixed = s.fixed := by
  simp [State.relayPut]

@[simp ↓] theorem State.relayPkt_fixed (s : State) (p lane : Nat) (pk : Packet) (o : Option (Nat × Nat)) :
    (s.relayPkt p lane pk o).fixed = s.fixed := by
  simp [State.relayPkt]

@[simp ↓] theorem State.relaySig_fixed (s : State) (p : Nat) (beats : List Nat) (b : Bool) (o : Option (Nat × Nat)) :
    (s.relaySig p beats b o).fixed = s.fixed := by
  simp [State.relaySig]

@[simp ↓] theorem State.rxPacket_fixed (s : State) (p lane : Nat) (pk : Packet) : (s.rxPacket p lane pk).fixed = s.fixed := by
  simp [State.rxPacket]

@[simp ↓] theorem State.enterSig_fixed (s : State) (p : Nat) (beats : List Nat) : (s.enterSig p beats).fixed = s.fixed := by
  simp [State.enterSig]

@[simp ↓] theorem State.sluiceSigDrop_fixed (s : State) (p k : Nat) (sg : Signal) (o : Option SrcAddr) :
    (s.sluiceSigDrop p k sg o).fixed = s.fixed := by
  simp [State.sluiceSigDrop]

@[simp ↓] theorem State.rxSegment_fixed (s : State) (p a b : Nat) (laneB : Bool) : (s.rxSegment p a b laneB).fixed = s.fixed := by
  unfold State.rxSegment
  dsimp only
  (repeat' split) <;> simp

@[simp ↓] theorem State.sigEnter_fixed (s : State) (p : Nat) (sg : Signal) : (s.sigEnter p sg).fixed = s.fixed := by
  unfold State.sigEnter
  split
  · rfl
  · split
    · simp
    · split
      · simp
      · split
        · next u hu => exact State.exitSig_fixed u hu
        · simp

@[simp ↓] theorem State.rxSignal_fixed (s : State) (p : Nat) (sg : Signal) (b : Bool) : (s.rxSignal p sg b).fixed = s.fixed := by
  simp [State.rxSignal]

@[simp ↓] theorem State.rxsEnter_fixed (s : State) (p : Nat) : (s.rxsEnter p).fixed = s.fixed := by
  simp [State.rxsEnter]

theorem State.takeClass_fixed {s : State} {p k : Nat} : ∀ t ∈ s.takeClass p k, t.fixed = s.fixed := by
  unfold State.takeClass
  dsimp only
  split <;> simp

theorem State.rxUnit_fixed {s : State} {p lane : Nat} {first last unusable : Bool} {data : List Byte} :
    ∀ t ∈ s.rxUnit p lane first last unusable data, t.fixed = s.fixed := by
  unfold State.rxUnit
  dsimp only
  (repeat' split) <;> simp

theorem State.rxItem_fixed {s : State} {p : Nat} {item : List Byte} : ∀ t ∈ s.rxItem p item, t.fixed = s.fixed := by
  unfold State.rxItem
  extract_lets side lane code d data s1 unusable
  clear_value d
  have hwear : s1.fixed = s.fixed := by
    unfold s1
    split <;> simp
  clear_value s1
  rw [← hwear]
  split
  · simp
  · split
    · (repeat' split) <;> simp
    · split
      · split
        · simp
        · split
          · split
            · intro t ht
              obtain ⟨u, hu, rfl⟩ := Option.map_eq_some_iff.mp ht
              simp [State.takeClass_fixed u hu]
            · simp
          · intro t ht
            obtain ⟨l, -, ht⟩ := Option.bind_eq_some_iff.mp ht
            refine State.fixed_foldl_option (fun o x ho => State.fixed_bind ho ?_) l (by simp) t ht
            intro u t ht
            obtain ⟨v, hv, rfl⟩ := Option.map_eq_some_iff.mp ht
            simp [State.takeClass_fixed v hv]
      · split
        · simp
        · split
          · simp
          · next u hu =>
            rw [← State.takeClass_fixed u hu]
            exact State.rxUnit_fixed

@[simp ↓] theorem State.rxData_fixed (s : State) (p : Nat) (items : List (List Byte)) : (s.rxData p items).fixed = s.fixed := by
  have hall : ∀ t ∈ items.foldl (fun (o : Option State) i => o.bind (fun s => s.rxItem p i)) (some s), t.fixed = s.fixed :=
    State.fixed_foldl_option (fun o i ho => State.fixed_bind ho (fun _ => State.rxItem_fixed)) _ (by simp)
  unfold State.rxData
  split
  · next t ht => exact hall t ht
  · simp

@[simp ↓] theorem State.rxMsg_fixed (s : State) (p : Nat) (body : List Byte) : (s.rxMsg p body).fixed = s.fixed := by
  simp [State.rxMsg]

@[simp ↓] theorem State.huntOn_fixed (s : State) (p n : Nat) : (s.huntOn p n).fixed = s.fixed := by
  simp [State.huntOn]

@[simp ↓] theorem State.frameBad_fixed (s : State) (p : Nat) : (s.frameBad p).fixed = s.fixed := by
  unfold State.frameBad
  dsimp only
  split <;> simp

@[simp ↓] theorem State.frameTaken_fixed (s : State) (p : Nat) (f : Frame) (items : List (List Byte)) : (s.frameTaken p f items).fixed = s.fixed := by
  simp [State.frameTaken]

@[simp ↓] theorem State.frameAt_fixed (s : State) (p : Nat) (f : Frame) (fec : Fec) : (s.frameAt p f fec).fixed = s.fixed := by
  unfold State.frameAt
  dsimp only
  (repeat' split) <;> simp

@[simp ↓] theorem State.rxTake_fixed (s : State) (p : Nat) (pk : Packet) : (s.rxTake p pk).fixed = s.fixed := by
  unfold State.rxTake
  split <;> simp

@[simp ↓] theorem State.sluiceDrop_fixed (s : State) (p k : Nat) (pk : Packet) : (s.sluiceDrop p k pk).fixed = s.fixed := by
  simp [State.sluiceDrop]

@[simp ↓] theorem State.askTransit_fixed (s : State) (p exit lane : Nat) : (s.askTransit p exit lane).fixed = s.fixed := by
  unfold State.askTransit
  dsimp only
  split <;> simp

@[simp ↓] theorem State.transitGrant_fixed (s : State) (c : Coord) (r : SrcRsv) (t : TransferTail) : (s.transitGrant c r t).fixed = s.fixed := by
  unfold State.transitGrant
  split <;> simp

@[simp ↓] theorem State.transitAt_fixed (s : State) (p : Nat) (pk : Packet) : (s.transitAt p pk).fixed = s.fixed := by
  unfold State.transitAt
  (repeat' split) <;> simp

@[simp ↓] theorem State.transitReserve_fixed (s : State) (p : Nat) (pk : Packet) (t : TransferTail) : (s.transitReserve p pk t).fixed = s.fixed := by
  simp [State.transitReserve]

@[simp ↓] theorem State.transitGive_fixed (s : State) (p : Nat) : (s.transitGive p).fixed = s.fixed := by
  unfold State.transitGive
  split <;> simp

@[simp ↓] theorem State.transitRelease_fixed (s : State) (p : Nat) (pk : Packet) (t : TransferTail) : (s.transitRelease p pk t).fixed = s.fixed := by
  simp [State.transitRelease]

@[simp ↓] theorem State.laneLost_fixed (s : State) (p lane : Nat) : (s.laneLost p lane).fixed = s.fixed := by
  simp [State.laneLost]

@[simp ↓] theorem State.widthDone_fixed (s : State) (p : Nat) : (s.widthDone p).fixed = s.fixed := by
  simp [State.widthDone]

@[simp ↓] theorem State.relayOn_fixed (s : State) (p : Nat) : (s.relayOn p).fixed = s.fixed := by
  simp [State.relayOn]

@[simp ↓] theorem State.relayOff_fixed (s : State) (p : Nat) : (s.relayOff p).fixed = s.fixed := by
  simp [State.relayOff]

@[simp ↓] theorem State.timeSend_fixed (s : State) (p : Nat) : (s.timeSend p).fixed = s.fixed := by
  simp [State.timeSend]

/-! #### Machine/CollOps.lean -/

@[simp ↓] theorem State.modColl_fixed (s : State) (c : Coord) (f : CollSt → CollSt) : (s.modColl c f).fixed = s.fixed := by
  simp [State.modColl]

@[simp ↓] theorem State.modDep_fixed (s : State) (c : Coord) (i : SliceId) (f : Dep → Dep) : (s.modDep c i f).fixed = s.fixed := by
  simp [State.modDep]

@[simp ↓] theorem State.dropSlot_fixed (s : State) (c : Coord) (w : PSlot) : (s.dropSlot c w).fixed = s.fixed := by
  simp [State.dropSlot]

@[simp ↓] theorem State.addSlot_fixed (s : State) (c : Coord) (w : PSlot) : (s.addSlot c w).fixed = s.fixed := by
  simp [State.addSlot]

@[simp ↓] theorem State.putSlot_fixed (s : State) (c : Coord) (old new : PSlot) : (s.putSlot c old new).fixed = s.fixed := by
  simp [State.putSlot]

@[simp ↓] theorem State.beginEpoch_fixed (s : State) (c : Coord) (ctx epoch : Nat) : (s.beginEpoch c ctx epoch).fixed = s.fixed := by
  simp [State.beginEpoch]

@[simp ↓] theorem State.ctxFailure_fixed (s : State) (c : Coord) (ctx cause : Nat) : (s.ctxFailure c ctx cause).fixed = s.fixed := by
  simp [State.ctxFailure]

@[simp ↓] theorem State.absent_fixed (s : State) (c : Coord) (i : SliceId) (reason : Nat) : (s.absent c i reason).fixed = s.fixed := by
  simp [State.absent]

@[simp ↓] theorem State.millFlags_fixed (s : State) (c : Coord) (fl : Nat) : (s.millFlags c fl).fixed = s.fixed := by
  simp [State.millFlags]

@[simp ↓] theorem State.refusePiece_fixed (s : State) (c : Coord) (anchors : Bool) : (s.refusePiece c anchors).fixed = s.fixed := by
  simp [State.refusePiece]

theorem State.mergeIn_fixed {s : State} {c : Coord} {ph : Nat} {i : SliceId} {p q : Part} :
    ∀ x ∈ s.mergeIn c ph i p q, x.2.fixed = s.fixed := by
  unfold State.mergeIn
  dsimp only
  split
  · simp
  · simp only [Option.mem_def, Option.some.injEq, forall_eq']
    rw [State.fixed_foldl_snd, State.millFlags_fixed]
    intro x j
    (repeat' split) <;> simp

@[simp ↓] theorem State.merged_fixed (s : State) (c : Coord) : (s.merged c).fixed = s.fixed := by
  simp [State.merged]

@[simp ↓] theorem State.depProgress_fixed (s : State) (c : Coord) (tag : Nat) : (s.depProgress c tag).fixed = s.fixed := by
  unfold State.depProgress
  split <;> simp

@[simp ↓] theorem State.noteTaken_fixed (s : State) (c : Coord) (i : SliceId) : (s.noteTaken c i).fixed = s.fixed := by
  unfold State.noteTaken
  split <;> simp

@[simp ↓] theorem State.failDep_fixed (s : State) (c : Coord) (i : SliceId) (reason : Nat) : (s.failDep c i reason).fixed = s.fixed := by
  simp [State.failDep]

@[simp ↓] theorem State.askOwn_fixed (s : State) (c : Coord) (i : SliceId) (staged pulled : Bool) : (s.askOwn c i staged pulled).fixed = s.fixed := by
  unfold State.askOwn
  split <;> simp

@[simp ↓] theorem State.watchDep_fixed (s : State) (c : Coord) (i : SliceId) (raw : List Byte) : (s.watchDep c i raw).fixed = s.fixed := by
  unfold State.watchDep
  split <;> simp

@[simp ↓] theorem State.takeBytes_fixed (s : State) (c : Coord) (ph : Nat) (i : SliceId) (js : List Nat) (raw : List Byte) :
    (s.takeBytes c ph i js raw).2.fixed = s.fixed := by
  unfold State.takeBytes
  split <;> simp

@[simp ↓] theorem State.takeOwn_fixed (s : State) (c : Coord) (ph : Nat) (i : SliceId) (js : List Nat) : (s.takeOwn c ph i js).2.fixed = s.fixed := by
  unfold State.takeOwn
  split <;> simp

@[simp ↓] theorem State.owe_fixed (s : State) (c : Coord) (ph : Nat) (i : SliceId) : (s.owe c ph i).fixed = s.fixed := by
  unfold State.owe
  dsimp only
  split <;> simp

@[simp ↓] theorem State.sendColl_fixed (s : State) (c : Coord) (late : Bool) (pk : Packet) : (s.sendColl c late pk).fixed = s.fixed := by
  simp [State.sendColl]

@[simp ↓] theorem State.sendLate_fixed (s : State) (c : Coord) (late : Bool) (h : CollHdr) (fmt k : Nat) (p : Part) :
    (s.sendLate c late h fmt k p).fixed = s.fixed := by
  unfold State.sendLate
  split <;> simp

@[simp ↓] theorem State.sendPart_fixed (s : State) (c : Coord) (h : CollHdr) (fmt k : Nat) (p : Part) : (s.sendPart c h fmt k p).fixed = s.fixed := by
  simp [State.sendPart]

@[simp ↓] theorem State.together_fixed (s : State) (c : Coord) {f : State → State} (hf : ∀ s, (f s).fixed = s.fixed) :
    (s.together c f).fixed = s.fixed := by
  simp [State.together, hf]

@[simp ↓] theorem State.sweepOn_fixed (s : State) (c : Coord) (ph : Nat) (i : SliceId) (p : Part) (src : SrcAddr) (tag phase : Nat) :
    (s.sweepOn c ph i p src tag phase).fixed = s.fixed := by
  unfold State.sweepOn
  split <;> simp

@[simp ↓] theorem State.toRoot_fixed (s : State) (c : Coord) (ph : Nat) (i : SliceId) (p : Part) (src : SrcAddr) (tag : Nat) (late : Bool) (fmt : Nat) :
    (s.toRoot c ph i p src tag late fmt).fixed = s.fixed := by
  unfold State.toRoot
  split <;> simp

@[simp ↓] theorem State.lateAnchors_fixed (s : State) (c : Coord) (i : SliceId) (d : Dep) (raw : List Byte) :
    (s.lateAnchors c i d raw).fixed = s.fixed := by
  unfold State.lateAnchors
  dsimp only
  (repeat' split) <;> simp

@[simp ↓] theorem State.lateOwn_fixed (s : State) (c : Coord) (i : SliceId) : (s.lateOwn c i).fixed = s.fixed := by
  unfold State.lateOwn
  dsimp only
  split
  · rfl
  · split
    · simp
    · rw [State.fixed_foldl, State.lateAnchors_fixed]
      intro s ph
      split
      · rfl
      · split
        · rfl
        · split
          · split <;> simp
          · simp

@[simp ↓] theorem State.sendResult_fixed (s : State) (c : Coord) (i : SliceId) (fmt n : Nat) (bs : List Blk) (flags : Nat) (poison : Bool) :
    (s.sendResult c i fmt n bs flags poison).fixed = s.fixed := by
  simp [State.sendResult]

@[simp ↓] theorem State.noteDone_fixed (s : State) (c : Coord) (i : SliceId) (flags : Nat) (inc : Bool) (missing : Nat) :
    (s.noteDone c i flags inc missing).fixed = s.fixed := by
  simp [State.noteDone]

@[simp ↓] theorem State.emitSlice_fixed (s : State) (c : Coord) (i : SliceId) (p : Part) : (s.emitSlice c i p).fixed = s.fixed := by
  unfold State.emitSlice
  dsimp only
  (repeat' split) <;> simp

@[simp ↓] theorem State.spreadAnchors_fixed (s : State) (c : Coord) (i : SliceId) (bytes : List Nat) (n flags : Nat) :
    (s.spreadAnchors c i bytes n flags).fixed = s.fixed := by
  simp [State.spreadAnchors]

@[simp ↓] theorem State.holdOrEmit_fixed (s : State) (c : Coord) (w : PSlot) (p : Part) : (s.holdOrEmit c w p).fixed = s.fixed := by
  unfold State.holdOrEmit
  dsimp only
  (repeat' split) <;> simp

@[simp ↓] theorem State.toPrimary_fixed (s : State) (c : Coord) (i : SliceId) (p : Part) : (s.toPrimary c i p).fixed = s.fixed := by
  simp [State.toPrimary]

@[simp ↓] theorem State.finishRoot_fixed (s : State) (c : Coord) (w : PSlot) (inc : Bool) : (s.finishRoot c w inc).fixed = s.fixed := by
  unfold State.finishRoot
  dsimp only
  (repeat' split) <;> simp

@[simp ↓] theorem State.spillWrite_fixed (s : State) (c : Coord) (w : PSlot) (p : Part) (r : Nat) : (s.spillWrite c w p r).fixed = s.fixed := by
  simp [State.spillWrite]

@[simp ↓] theorem State.spillRead_fixed (s : State) (c : Coord) (ctx r : Nat) : (s.spillRead c ctx r).2.fixed = s.fixed := by
  simp [State.spillRead]

@[simp ↓] theorem State.loseRoot_fixed (s : State) (c : Coord) (w : PSlot) : (s.loseRoot c w).fixed = s.fixed := by
  simp [State.loseRoot]

@[simp ↓] theorem State.rootSlot_fixed (s : State) (c : Coord) (ph : Nat) (i : SliceId) : (s.rootSlot c ph i).2.fixed = s.fixed := by
  unfold State.rootSlot
  dsimp only
  (repeat' split) <;> simp

@[simp ↓] theorem State.keepRoot_fixed (s : State) (c : Coord) (old new : PSlot) : (s.keepRoot c old new).fixed = s.fixed := by
  unfold State.keepRoot
  split <;> simp

@[simp ↓] theorem State.collNack_fixed (s : State) (c : Coord) (p : Packet) : (s.collNack c p).fixed = s.fixed := by
  simp [State.collNack]

@[simp ↓] theorem State.rootOwn_fixed (s : State) (c : Coord) (ph : Nat) (i : SliceId) : (s.rootOwn c ph i).fixed = s.fixed := by
  unfold State.rootOwn
  dsimp only
  split
  · rfl
  · split
    · simp
    · split
      · rfl
      · split
        · split
          · simp
          · split
            · simp
            · split
              · next z hz => simp [State.mergeIn_fixed z hz]
              · simp
        · rfl

@[simp ↓] theorem State.rootCheck_fixed (s : State) (c : Coord) (ph : Nat) (i : SliceId) : (s.rootCheck c ph i).fixed = s.fixed := by
  unfold State.rootCheck
  dsimp only
  (repeat' split) <;> simp

theorem State.openRoot_fixed {s : State} {c : Coord} {ph : Nat} {i : SliceId} {src : SrcAddr} :
    ∀ t ∈ s.openRoot c ph i src, t.fixed = s.fixed := by
  unfold State.openRoot
  dsimp only
  (repeat' split) <;> simp

theorem State.rootMerge_fixed {s : State} {c : Coord} {ph : Nat} {i : SliceId} {q : Part} {p : Packet} :
    ∀ t ∈ s.rootMerge c ph i q p, t.fixed = s.fixed := by
  unfold State.rootMerge
  extract_lets s1 s2 opened half
  have hs1 : s1.fixed = s.fixed := by simp [s1]
  have hopened : ∀ t ∈ opened, t.fixed = s1.fixed := by
    unfold opened
    split
    · simp
    · intro t ht
      obtain ⟨u, hu, rfl⟩ := Option.map_eq_some_iff.mp ht
      simp [State.openRoot_fixed u hu]
  clear_value opened
  rw [← hs1]
  split
  · simp [s2]
  · split
    · simp
    · next u =>
      rw [← hopened u rfl]
      extract_lets x again
      have hx : x.2.fixed = u.fixed := by simp [x]
      have hagain : ∀ t ∈ again, t.fixed = u.fixed := by
        unfold again
        split
        · simpa using hx
        · rw [← hx]
          exact State.openRoot_fixed
      clear_value again
      split
      · simp
      · next v =>
        rw [← hagain v rfl]
        split
        · split
          · simp
          · split
            · simp
            · next z hz => simp [State.mergeIn_fixed z hz]
        · simp

theorem State.pieceAt_fixed {s : State} {c : Coord} {ph : Nat} {i : SliceId} {fmt n : Nat} {pc : Piece} :
    ∀ x ∈ s.pieceAt c ph i fmt n pc, x.2.fixed = s.fixed := by
  unfold State.pieceAt
  dsimp only
  (repeat' split) <;> simp

@[simp ↓] theorem State.setGath_fixed (s : State) (c : Coord) (x : Gath) : (s.setGath c x).fixed = s.fixed := by
  simp [State.setGath]

@[simp ↓] theorem State.mergeOwn_fixed (s : State) (c : Coord) (ph : Nat) (i : SliceId) (p : Part) (whole : Bool) :
    (s.mergeOwn c ph i p whole).2.fixed = s.fixed := by
  unfold State.mergeOwn
  split
  · rfl
  · dsimp only
    split
    · rfl
    · split
      · simp
      · split
        · simp
        · split
          · next z hz => simp [State.mergeIn_fixed z hz]
          · simp

@[simp ↓] theorem State.passJoin_fixed (s : State) (c : Coord) (w : PSlot) (gather : Bool) :
    (s.passJoin c w gather).2.fixed = s.fixed := by
  unfold State.passJoin
  split
  · rfl
  · dsimp only
    split
    · next z hz => simp [State.mergeIn_fixed z hz]
    · simp

@[simp ↓] theorem State.passOn_fixed (s : State) (c : Coord) (w : PSlot) (isOver gather : Bool) (root : Coord) :
    (s.passOn c w isOver gather root).fixed = s.fixed := by
  unfold State.passOn
  dsimp only
  split <;> simp

@[simp ↓] theorem State.passHalf_fixed (s : State) (c : Coord) (w : PSlot) (isOver : Bool) : (s.passHalf c w isOver).fixed = s.fixed := by
  unfold State.passHalf
  dsimp only
  (repeat' split) <;> simp

@[simp ↓] theorem State.rowWaits_fixed (s : State) (c : Coord) (ph : Nat) (i : SliceId) (root : Coord) :
    (s.rowWaits c ph i root).fixed = s.fixed := by
  unfold State.rowWaits
  split <;> simp

@[simp ↓] theorem State.rowOwn_fixed (s : State) (c : Coord) (ph : Nat) (i : SliceId) : (s.rowOwn c ph i).fixed = s.fixed := by
  unfold State.rowOwn
  dsimp only
  (repeat' split) <;> simp

@[simp ↓] theorem State.rowArrive_fixed (s : State) (c : Coord) (ph : Nat) (i : SliceId) (q : Part) (p : Packet) (root : Coord) :
    (s.rowArrive c ph i q p root).fixed = s.fixed := by
  unfold State.rowArrive
  dsimp only
  split
  · simp
  · split
    · split
      · next z hz => simp [State.mergeIn_fixed z hz]
      · simp
    · simp
      split
      · split
        · next z hz => simp [State.mergeIn_fixed z hz]
        · simp
      · simp

@[simp ↓] theorem State.sweepPiece_fixed (s : State) (c : Coord) (ph : Nat) (i : SliceId) (q : Part) (p : Packet) :
    (s.sweepPiece c ph i q p).fixed = s.fixed := by
  unfold State.sweepPiece
  dsimp only
  (repeat' split) <;> simp

@[simp ↓] theorem State.sweepAt_fixed (s : State) (c : Coord) (p : Packet) : (s.sweepAt c p).fixed = s.fixed := by
  unfold State.sweepAt
  dsimp only
  split
  · simp
  · split
    · simp
    · split
      · simp
      · rw [State.together_fixed, State.takePkt_fixed]
        intro s
        apply State.fixed_foldl
        intro s kp
        split <;> simp

theorem State.rootPieces_fixed {s : State} {c : Coord} {ph : Nat} {only : Option Nat} {p : Packet} :
    ∀ t ∈ s.rootPieces c ph only p, t.fixed = s.fixed := by
  unfold State.rootPieces
  apply State.fixed_foldl_option
  · intro o kp ho
    apply State.fixed_bind ho
    intro s
    split
    · simp
    · dsimp only
      split
      · simp
      · next q u hu =>
        rw [← State.pieceAt_fixed _ hu]
        exact State.rootMerge_fixed
  · simp

@[simp ↓] theorem State.rootAt_fixed (s : State) (c : Coord) (ph : Nat) (p : Packet) : (s.rootAt c ph p).fixed = s.fixed := by
  unfold State.rootAt
  dsimp only
  split
  · simp
  · split
    · simp
    · refine State.fixed_getD (fun t ht => ?_) rfl
      simp [State.rootPieces_fixed t ht]

@[simp ↓] theorem State.rawsReady_fixed (s : State) (c : Coord) (i : SliceId) : (s.rawsReady c i).fixed = s.fixed := by
  unfold State.rawsReady
  apply State.fixed_foldl
  intro s x
  refine State.fixed_getD (fun t ht => ?_) rfl
  simp [State.rootPieces_fixed t ht]

/-! #### Machine/CollEvents.lean -/

@[simp ↓] theorem State.available_fixed (s : State) (c : Coord) (i : SliceId) : (s.available c i).fixed = s.fixed := by
  unfold State.available
  apply State.fixed_foldl
  intro s ph
  split
  · rfl
  · extract_lets s1 s2
    have h2 : s2.fixed = s.fixed := by
      unfold s2
      rw [State.fixed_foldl, State.rowOwn_fixed]
      intro s kind
      split <;> simp
    split <;> simp [h2]

@[simp ↓] theorem State.rootAlone_fixed (s : State) (c : Coord) (ph : Nat) (i : SliceId) : (s.rootAlone c ph i).fixed = s.fixed := by
  unfold State.rootAlone
  dsimp only
  split
  · rfl
  · split
    · simp
    · split
      · next u hu => simp [State.openRoot_fixed u hu]
      · rfl

@[simp ↓] theorem State.rootsAlone_fixed (s : State) (c : Coord) (i : SliceId) : (s.rootsAlone c i).fixed = s.fixed := by
  simp [State.rootsAlone]

@[simp ↓] theorem State.rootsRetry_fixed (s : State) (c : Coord) : (s.rootsRetry c).fixed = s.fixed := by
  simp [State.rootsRetry]

@[simp ↓] theorem State.depRecord_fixed (s : State) (c : Coord) (m : Cmd) (ctx epoch k addr : Nat) :
    (s.depRecord c m ctx epoch k addr).fixed = s.fixed := by
  simp [State.depRecord]

@[simp ↓] theorem State.emitOwn_fixed (s : State) (c : Coord) (i : SliceId) (raw : List Byte) : (s.emitOwn c i raw).fixed = s.fixed := by
  unfold State.emitOwn
  dsimp only
  (repeat' split) <;> simp

@[simp ↓] theorem State.depositSlice_fixed (s : State) (c : Coord) (i : SliceId) : (s.depositSlice c i).fixed = s.fixed := by
  unfold State.depositSlice
  (repeat' split) <;> simp

@[simp ↓] theorem State.stageRead_fixed (s : State) (c : Coord) (i : SliceId) (d : Dep) : (s.stageRead c i d).2.fixed = s.fixed := by
  simp [State.stageRead]

@[simp ↓] theorem State.depRead_fixed (s : State) (c : Coord) (tag k : Nat) : (s.depRead c tag k).fixed = s.fixed := by
  unfold State.depRead
  split <;> simp

@[simp ↓] theorem State.depUnread_fixed (s : State) (c : Coord) (tag k : Nat) : (s.depUnread c tag k).fixed = s.fixed := by
  unfold State.depUnread
  split <;> simp

@[simp ↓] theorem State.depositStart_fixed (s : State) (c : Coord) (m : Cmd) : (s.depositStart c m).fixed = s.fixed := by
  simp [State.depositStart]

@[simp ↓] theorem State.originate_fixed (s : State) (c : Coord) (ph : Nat) (i : SliceId) : (s.originate c ph i).fixed = s.fixed := by
  unfold State.originate
  dsimp only
  (repeat' split) <;> simp

@[simp ↓] theorem State.sweepOriginate_fixed (s : State) (c : Coord) (i : SliceId) : (s.sweepOriginate c i).fixed = s.fixed := by
  simp [State.sweepOriginate]

@[simp ↓] theorem State.spillBack_fixed (s : State) (c : Coord) (ctx : Nat) : (s.spillBack c ctx).fixed = s.fixed := by
  unfold State.spillBack
  dsimp only
  (repeat' split) <;> simp

@[simp ↓] theorem State.learnAnchors_fixed (s : State) (c : Coord) (i : SliceId) (bytes : List Nat) : (s.learnAnchors c i bytes).fixed = s.fixed := by
  simp [State.learnAnchors]

@[simp ↓] theorem State.anchorPiece_fixed (s : State) (c : Coord) (i : SliceId) (pc : Piece) : (s.anchorPiece c i pc).2.fixed = s.fixed := by
  simp [State.anchorPiece]

@[simp ↓] theorem State.anchorAt_fixed (s : State) (c : Coord) (p : Packet) : (s.anchorAt c p).fixed = s.fixed := by
  unfold State.anchorAt
  dsimp only
  split
  · split
    · simp
    · split
      · simp
      · rw [State.fixed_foldl, State.takePkt_fixed]
        intro s kp
        split
        · split <;> simp
        · simp
  · (repeat' split) <;> simp

@[simp ↓] theorem State.markLand_fixed (s : State) (c : Coord) (l : LandEnt) : (s.markLand c l).fixed = s.fixed := by
  simp [State.markLand]

@[simp ↓] theorem State.afterLand_fixed (s : State) (c : Coord) (i : SliceId) (inc aex : Bool) : (s.afterLand c i inc aex).fixed = s.fixed := by
  unfold State.afterLand
  dsimp only
  split <;> simp

@[simp ↓] theorem State.noteEnded_fixed (s : State) (c : Coord) (i : SliceId) (inc aex : Bool) : (s.noteEnded c i inc aex).fixed = s.fixed := by
  simp [State.noteEnded]

@[simp ↓] theorem State.landSlice_fixed (s : State) (c : Coord) (i : SliceId) (pc : Piece) : (s.landSlice c i pc).fixed = s.fixed := by
  simp [State.landSlice]

@[simp ↓] theorem State.noResult_fixed (s : State) (c : Coord) (i : SliceId) : (s.noResult c i).fixed = s.fixed := by
  simp [State.noResult]

@[simp ↓] theorem State.resultAt_fixed (s : State) (c : Coord) (p : Packet) : (s.resultAt c p).fixed = s.fixed := by
  unfold State.resultAt
  dsimp only
  split
  · simp
  · split
    · simp
    · split
      · simp
      · split
        · simp
        · rw [State.fixed_foldl, State.beginEpoch_fixed, State.takePkt_fixed]
          intro s kp
          (repeat' split) <;> simp

@[simp ↓] theorem State.collNacked_fixed (s : State) (c : Coord) (n : Nack) : (s.collNacked c n).fixed = s.fixed := by
  unfold State.collNacked
  split <;> simp

@[simp ↓] theorem State.collReset_fixed (s : State) (c : Coord) : (s.collReset c).fixed = s.fixed := by
  simp [State.collReset]

/-! #### Machine/ExchOps.lean -/

@[simp ↓] theorem State.modExch_fixed (s : State) (c : Coord) (ctx epoch : Nat) (f : ExSt → ExSt) : (s.modExch c ctx epoch f).fixed = s.fixed := by
  simp [State.modExch]

@[simp ↓] theorem State.segOpen_fixed (s : State) (c : Coord) (ctx epoch dst n : Nat) :
    (s.segOpen c ctx epoch dst n).fixed = s.fixed := by
  induction n generalizing s with
  | zero => rfl
  | succ n ih =>
    unfold State.segOpen
    split
    · rfl
    · dsimp only
      split
      · rfl
      · split
        · rfl
        · next u hu => simp [ih, State.routerTransfer_fixed u hu]

@[simp ↓] theorem State.exchSettle_fixed (s : State) (c : Coord) (ctx epoch : Nat) : (s.exchSettle c ctx epoch).fixed = s.fixed := by
  unfold State.exchSettle
  split <;> simp

@[simp ↓] theorem State.segmentSend_fixed (s : State) (c : Coord) (ctx epoch dst : Nat) : (s.segmentSend c ctx epoch dst).fixed = s.fixed := by
  unfold State.segmentSend
  (repeat' split) <;> simp

@[simp ↓] theorem State.segmentsOn_fixed (s : State) (c : Coord) : (s.segmentsOn c).fixed = s.fixed := by
  simp [State.segmentsOn]

@[simp ↓] theorem State.segmentEnd_fixed (s : State) (c : Coord) (r : SrcRsv) (ok : Bool) : (s.segmentEnd c r ok).fixed = s.fixed := by
  unfold State.segmentEnd
  split <;> simp

@[simp ↓] theorem State.segmentFail_fixed (s : State) (c : Coord) (r : SrcRsv) (code : Nat) (left : Bool) (is : List SliceId) :
    (s.segmentFail c r code left is).fixed = s.fixed := by
  unfold State.segmentFail
  split <;> simp

@[simp ↓] theorem State.segmentPacket_fixed (s : State) (c : Coord) (r : SrcRsv) (ctx epoch dst o : Nat) :
    (s.segmentPacket c r ctx epoch dst o).2.fixed = s.fixed := by
  simp [State.segmentPacket]

@[simp ↓] theorem State.segmentGrant_fixed (s : State) (c : Coord) (r : SrcRsv) : (s.segmentGrant c r).fixed = s.fixed := by
  unfold State.segmentGrant
  split <;> simp

@[simp ↓] theorem State.noteSegment_fixed (s : State) (c : Coord) (k : RsvKey) : (s.noteSegment c k).fixed = s.fixed := by
  unfold State.noteSegment
  (repeat' split) <;> simp

@[simp ↓] theorem State.xbarRelease_fixed (s : State) (c : Coord) (r : BarRelease) : (s.xbarRelease c r).fixed = s.fixed := by
  simp [State.xbarRelease]

@[simp ↓] theorem State.systemRelease_fixed (s : State) (c : Coord) (ctx epoch : Nat) (inc : Bool) :
    (s.systemRelease c ctx epoch inc).fixed = s.fixed := by
  unfold State.systemRelease
  split <;> simp

/-! #### Machine/LevelOps.lean -/

@[simp ↓] theorem State.modLv_fixed (s : State) (p : Nat) (f : LvSt → LvSt) : (s.modLv p f).fixed = s.fixed := by
  simp [State.modLv]

@[simp ↓] theorem State.bumpLv_fixed (s : State) (p sub : Nat) : (s.bumpLv p sub).fixed = s.fixed := by
  simp [State.bumpLv]

@[simp ↓] theorem State.lvOwe_fixed (s : State) (p ph l : Nat) (i : SliceId) : (s.lvOwe p ph l i).fixed = s.fixed := by
  unfold State.lvOwe
  dsimp only
  split <;> simp

@[simp ↓] theorem State.lvBegin_fixed (s : State) (p ctx epoch : Nat) : (s.lvBegin p ctx epoch).fixed = s.fixed := by
  simp [State.lvBegin]

@[simp ↓] theorem State.setLvOwn_fixed (s : State) (p : Nat) (o : LvOwn) : (s.setLvOwn p o).fixed = s.fixed := by
  simp [State.setLvOwn]

@[simp ↓] theorem State.dropLv_fixed (s : State) (p : Nat) (w : LvSlot) : (s.dropLv p w).fixed = s.fixed := by
  simp [State.dropLv]

@[simp ↓] theorem State.addLv_fixed (s : State) (p : Nat) (w : LvSlot) : (s.addLv p w).fixed = s.fixed := by
  simp [State.addLv]

@[simp ↓] theorem State.noteHaltHeld_fixed (s : State) (p l : Nat) (i : SliceId) : (s.noteHaltHeld p l i).fixed = s.fixed := by
  simp [State.noteHaltHeld]

@[simp ↓] theorem State.lvQueue_fixed (s : State) (p dim dir : Nat) (pk : Packet) : (s.lvQueue p dim dir pk).fixed = s.fixed := by
  unfold State.lvQueue
  dsimp only
  split <;> simp

@[simp ↓] theorem State.lvOnward_fixed (s : State) (p ph l : Nat) (i : SliceId) (part : Part) (src : SrcAddr) :
    (s.lvOnward p ph l i part src).fixed = s.fixed := by
  simp [State.lvOnward]

@[simp ↓] theorem State.lvToRoot_fixed (s : State) (p ph l : Nat) (i : SliceId) (part : Part) (src : SrcAddr) (late : Bool) :
    (s.lvToRoot p ph l i part src late).fixed = s.fixed := by
  simp [State.lvToRoot]

@[simp ↓] theorem State.lvRawLate_fixed (s : State) (p : Nat) (i : SliceId) (part : Part) : (s.lvRawLate p i part).fixed = s.fixed := by
  simp [State.lvRawLate]

@[simp ↓] theorem State.lvConverted_fixed (s : State) (p l : Nat) (i : SliceId) (r : Part × Nat × Nat) : (s.lvConverted p l i r).fixed = s.fixed := by
  simp [State.lvConverted]

theorem State.lvJoin_fixed {s : State} {p ph l : Nat} {i : SliceId} {x y : Part} :
    ∀ z ∈ s.lvJoin p ph l i x y, z.2.fixed = s.fixed := by
  unfold State.lvJoin
  cases x.join (s.lvSpec i.ctx) ph y <;> simp

@[simp ↓] theorem State.lvOwnLate_fixed (s : State) (p ph l : Nat) (i : SliceId) (q : Part) (raw : Bool) :
    (s.lvOwnLate p ph l i q raw).fixed = s.fixed := by
  unfold State.lvOwnLate
  (repeat' split) <;> simp

@[simp ↓] theorem State.ringSend_fixed (s : State) (l : Nat) (pk : Packet) : (s.ringSend l pk).fixed = s.fixed := by
  simp [State.ringSend]

@[simp ↓] theorem State.lvLearn_fixed (s : State) (i : SliceId) (bytes : List Nat) : (s.lvLearn i bytes).fixed = s.fixed := by
  simp [State.lvLearn]

@[simp ↓] theorem State.descend_fixed (s : State) (from_ : Coord) (pk : Packet) (fuel : Nat) : (s.descend from_ pk fuel).fixed = s.fixed := by
  induction fuel generalizing s with
  | zero => rfl
  | succ fuel ih =>
    simp [State.descend, ih]

@[simp ↓] theorem State.takeDescent_fixed (s : State) (c : Coord) (pk : Packet) (l : Nat) :
    (s.takeDescent c pk l).fixed = s.fixed := by
  unfold State.takeDescent
  dsimp only
  rw [State.descend_fixed]
  split
  · rfl
  · split
    · simp
    · apply State.fixed_foldl
      intro s kp
      split
      · split <;> simp
      · simp

@[simp ↓] theorem State.lvTop_fixed (s : State) (p ph : Nat) (i : SliceId) (part : Part) : (s.lvTop p ph i part).fixed = s.fixed := by
  simp [State.lvTop]

@[simp ↓] theorem State.lvFinish_fixed (s : State) (p ph l : Nat) (i : SliceId) (part : Part) (byLease : Bool) :
    (s.lvFinish p ph l i part byLease).fixed = s.fixed := by
  unfold State.lvFinish
  dsimp only
  (repeat' split) <;> simp

@[simp ↓] theorem State.lvCheck_fixed (s : State) (p ph l : Nat) (i : SliceId) : (s.lvCheck p ph l i).fixed = s.fixed := by
  unfold State.lvCheck
  split <;> simp

theorem State.lvRootMerge_fixed {s : State} {p ph l : Nat} {i : SliceId} {q : Part} {src : SrcAddr} {pk : Option Packet} :
    ∀ t ∈ s.lvRootMerge p ph l i q src pk, t.fixed = s.fixed := by
  unfold State.lvRootMerge
  dsimp only
  split
  · simp
  · split
    · (repeat' split) <;> simp
    · split
      · simp
      · split
        · simp
        · split
          · simp
          · next z hz => split <;> simp [State.lvJoin_fixed z hz]

@[simp ↓] theorem State.lvLack_fixed (s : State) (p : Nat) (w : LvSlot) (isOver : Bool) : (s.lvLack p w isOver).fixed = s.fixed := by
  simp [State.lvLack]

@[simp ↓] theorem State.lvHalf_fixed (s : State) (p : Nat) (w : LvSlot) (isOver : Bool) : (s.lvHalf p w isOver).fixed = s.fixed := by
  unfold State.lvHalf
  dsimp only
  split
  · simp
  · split
    · split
      · split
        · simp
        · split
          · next z hz => simp [State.lvJoin_fixed z hz]
          · simp
      · split <;> simp
    · split <;> simp

@[simp ↓] theorem State.lvAvail_fixed (s : State) (p ph l : Nat) (i : SliceId) : (s.lvAvail p ph l i).fixed = s.fixed := by
  unfold State.lvAvail
  dsimp only
  split
  · rfl
  · split
    · rfl
    · split
      · rfl
      · split
        · rfl
        · split
          · split
            · next u hu => simp [State.lvRootMerge_fixed u hu]
            · rfl
          · (repeat' split) <;> simp

@[simp ↓] theorem State.lvConvert_fixed (s : State) (p : Nat) (i : SliceId) : (s.lvConvert p i).fixed = s.fixed := by
  unfold State.lvConvert
  (repeat' split) <;> simp

theorem State.lvStage_fixed {s : State} {p ph l : Nat} {i : SliceId} {q : Part} : ∀ t ∈ s.lvStage p ph l i q, t.fixed = s.fixed := by
  have merge (o : LvOwn) (x : Part) (src : SrcAddr) :
      ∀ t ∈ (s.setLvOwn p o).lvRootMerge p ph l i x src none, t.fixed = s.fixed := by
    rw [← State.setLvOwn_fixed s p o]
    exact State.lvRootMerge_fixed
  unfold State.lvStage
  dsimp only
  repeat' split
  case h_2.isFalse.isFalse.isTrue.isFalse => exact merge _ _ _
  all_goals simp

@[simp ↓] theorem State.lvHalfPiece_fixed (s : State) (p ph l : Nat) (i : SliceId) (q : Part) (src : SrcAddr) :
    (s.lvHalfPiece p ph l i q src).fixed = s.fixed := by
  unfold State.lvHalfPiece
  dsimp only
  split
  · split
    · next z hz => simp [State.lvJoin_fixed z hz]
    · simp
  · simp

theorem State.lvArrive_fixed {s : State} {p l : Nat} {i : SliceId} {q : Part} {pk : Packet} :
    ∀ t ∈ s.lvArrive p l i q pk, t.fixed = s.fixed := by
  unfold State.lvArrive
  split
  · intro t ht
    obtain ⟨eg, -, ht⟩ := Option.bind_eq_some_iff.mp ht
    simp [State.lvRootMerge_fixed t ht]
  · exact State.lvRootMerge_fixed

@[simp ↓] theorem State.levelAt_fixed (s : State) (p : Nat) (pk : Packet) : (s.levelAt p pk).fixed = s.fixed := by
  unfold State.levelAt
  extract_lets t c ph own l s1 a0 first fmts a r
  have hs1 : s1.fixed = s.fixed := State.takePkt_fixed ..
  have hr : ∀ u ∈ r, u.fixed = s.fixed := by
    apply State.fixed_foldl_option
    · intro o kp ho
      split
      · simp
      · next u =>
        rw [← ho u rfl]
        extract_lets i s2 x
        have h2 : s2.fixed = u.fixed := by simp [s2]
        have hx : x.2.fixed = u.fixed := by simp [x, h2]
        split
        · simp [h2]
        · split
          · split
            · simp [hx]
            · rw [← hx]
              exact State.lvStage_fixed
          · split
            · rw [← h2]
              exact State.lvArrive_fixed
            · split <;> simp [h2]
    · simpa using hs1
  split
  · rfl
  · split
    · simp [hs1]
    · split
      · simp [hs1]
      · exact State.fixed_getD hr rfl

@[simp ↓] theorem State.lvDrain_fixed (s : State) : s.lvDrain.fixed = s.fixed := by
  unfold State.lvDrain
  apply State.fixed_foldl
  intro s p
  dsimp only
  rw [State.modLv_fixed, State.fixed_foldl (by simp), State.fixed_foldl]
  intro s o
  split <;> simp

@[simp ↓] theorem State.descentOn_fixed (s : State) (p : Nat) (pk : Packet) (l : Nat) : (s.descentOn p pk l).fixed = s.fixed := by
  unfold State.descentOn
  split <;> simp

@[simp ↓] theorem State.resultDescend_fixed (s : State) (p : Nat) (pk : Packet) : (s.resultDescend p pk).fixed = s.fixed := by
  simp [State.resultDescend]

@[simp ↓] theorem State.levelDown_fixed (s : State) (c : Coord) (pk : Packet) : (s.levelDown c pk).fixed = s.fixed := by
  simp [State.levelDown]

@[simp ↓] theorem State.anchorArrive_fixed (s : State) (c : Coord) (pk : Packet) : (s.anchorArrive c pk).fixed = s.fixed := by
  simp [State.anchorArrive]

@[simp ↓] theorem State.resultArrive_fixed (s : State) (c : Coord) (pk : Packet) : (s.resultArrive c pk).fixed = s.fixed := by
  simp [State.resultArrive]

@[simp ↓] theorem State.exchangeJoin_fixed (s : State) (ctx epoch : Nat) : (s.exchangeJoin ctx epoch).fixed = s.fixed := by
  unfold State.exchangeJoin
  dsimp only
  (repeat' split) <;> simp

@[simp ↓] theorem State.packetEnter_fixed (s : State) (p : Nat) (pk : Packet) : (s.packetEnter p pk).fixed = s.fixed := by
  unfold State.packetEnter
  dsimp only
  (repeat' split) <;> simp

@[simp ↓] theorem State.transitEnter_fixed (s : State) (p : Nat) (pk : Packet) : (s.transitEnter p pk).fixed = s.fixed := by
  simp [State.transitEnter]

/-! #### Machine/FenceOps.lean -/

@[simp ↓] theorem State.fenceLane_fixed (s : State) (b : FaultBlock) : (s.fenceLane b).fixed = s.fixed := by
  simp [State.fenceLane]

@[simp ↓] theorem State.fencePort_fixed (s : State) (b : FaultBlock) (p : Nat) : (s.fencePort b p).fixed = s.fixed := by
  simp [State.fencePort]

@[simp ↓] theorem State.fieldThreshold_fixed (s : State) (b : FaultBlock) : (s.fieldThreshold b).fixed = s.fixed := by
  simp [State.fieldThreshold]

@[simp ↓] theorem State.fenceOne_fixed (s : State) (b : FaultBlock) : (s.fenceOne b).fixed = s.fixed := by
  unfold State.fenceOne
  dsimp only
  (repeat' split) <;> simp

@[simp ↓] theorem State.settle_fixed (s : State) : s.settle.fixed = s.fixed := by
  simp [State.settle]

@[simp ↓] theorem State.landInject_fixed (s : State) (x : Site) (p : Packet) : (s.landInject x p).2.fixed = s.fixed := by
  unfold State.landInject
  extract_lets c b r
  have hr : r.2.fixed = s.fixed := State.memInject_fixed ..
  split <;> simp [hr]

@[simp ↓] theorem State.fenceUnit_fixed (s : State) (h : Coord) : (s.fenceUnit h).fixed = s.fixed := by
  simp [State.fenceUnit]

/-! #### Machine/TableOps.lean -/

@[simp ↓] theorem State.modRow_fixed (s : State) (c : Coord) (tag j : Nat) (f : RowSt → RowSt) : (s.modRow c tag j f).fixed = s.fixed := by
  simp [State.modRow]

@[simp ↓] theorem State.endRow_fixed (s : State) (c : Coord) (tag j outcome : Nat) : (s.endRow c tag j outcome).fixed = s.fixed := by
  simp [State.endRow]

@[simp ↓] theorem State.readEntry_fixed (s : State) (c : Coord) (m : Cmd) (j : Nat) : (s.readEntry c m j).fixed = s.fixed := by
  simp [State.readEntry]

@[simp ↓] theorem State.rowsInit_fixed (s : State) (c : Coord) (m : Cmd) : (s.rowsInit c m).fixed = s.fixed := by
  simp [State.rowsInit]

@[simp ↓] theorem State.scatterOne_fixed (s : State) (c : Coord) (m : Cmd) : (s.scatterOne c m).2.fixed = s.fixed := by
  unfold State.scatterOne
  split <;> simp

@[simp ↓] theorem State.scatterAsk_fixed (s : State) (c : Coord) (m : Cmd) (r : SrcRsv) : (s.scatterAsk c m r).fixed = s.fixed := by
  simp [State.scatterAsk]

@[simp ↓] theorem State.scatterRow_fixed (s : State) (c : Coord) (m : Cmd) (j : Nat) : (s.scatterRow c m j).fixed = s.fixed := by
  unfold State.scatterRow
  dsimp only
  (repeat' split) <;> simp

@[simp ↓] theorem State.scatterGo_fixed (s : State) (c : Coord) (m : Cmd) : (s.scatterGo c m).fixed = s.fixed := by
  simp [State.scatterGo]

@[simp ↓] theorem State.scatterAll_fixed (s : State) (c : Coord) (tag fuel : Nat) : (s.scatterAll c tag fuel).fixed = s.fixed := by
  induction fuel generalizing s with
  | zero => rfl
  | succ fuel ih =>
    unfold State.scatterAll
    (repeat' split) <;> simp [ih]

@[simp ↓] theorem State.scatterGrant_fixed (s : State) (c : Coord) (r : SrcRsv) : (s.scatterGrant c r).fixed = s.fixed := by
  unfold State.scatterGrant
  split <;> simp

@[simp ↓] theorem State.scatterEnd_fixed (s : State) (c : Coord) (r : SrcRsv) (outcome : Nat) : (s.scatterEnd c r outcome).fixed = s.fixed := by
  simp [State.scatterEnd]

@[simp ↓] theorem State.gatherOne_fixed (s : State) (c : Coord) (m : Cmd) : (s.gatherOne c m).2.fixed = s.fixed := by
  unfold State.gatherOne
  split <;> simp

@[simp ↓] theorem State.gatherAll_fixed (s : State) (c : Coord) (tag fuel : Nat) : (s.gatherAll c tag fuel).fixed = s.fixed := by
  induction fuel generalizing s with
  | zero => rfl
  | succ fuel ih =>
    unfold State.gatherAll
    (repeat' split) <;> simp [ih]

@[simp ↓] theorem State.gatherSettle_fixed (s : State) (c : Coord) (tag rsv : Nat) : (s.gatherSettle c tag rsv).fixed = s.fixed := by
  unfold State.gatherSettle
  split <;> simp

@[simp ↓] theorem State.gatherAsk_fixed (s : State) (c : Coord) (m : Cmd) (r : SrcRsv) : (s.gatherAsk c m r).fixed = s.fixed := by
  simp [State.gatherAsk]

@[simp ↓] theorem State.gatherRow_fixed (s : State) (c : Coord) (m : Cmd) (j : Nat) : (s.gatherRow c m j).fixed = s.fixed := by
  unfold State.gatherRow
  dsimp only
  (repeat' split) <;> simp

@[simp ↓] theorem State.gatherGo_fixed (s : State) (c : Coord) : (s.gatherGo c).fixed = s.fixed := by
  unfold State.gatherGo
  apply State.fixed_foldl
  intro s a
  (repeat' split) <;> simp

@[simp ↓] theorem State.gatherData_fixed (s : State) (c : Coord) (p : Packet) (t : TableTail) : (s.gatherData c p t).fixed = s.fixed := by
  unfold State.gatherData
  dsimp only
  (repeat' split) <;> simp

@[simp ↓] theorem State.expireGather_fixed (s : State) (c : Coord) (q : LRsv) : (s.expireGather c q).fixed = s.fixed := by
  unfold State.expireGather
  split <;> simp

@[simp ↓] theorem State.gatherNack_fixed (s : State) (c : Coord) (m : Cmd) (n : Nack) : (s.gatherNack c m n).fixed = s.fixed := by
  unfold State.gatherNack
  split <;> simp

@[simp ↓] theorem State.finishRows_fixed (s : State) (c : Coord) (tag : Nat) : (s.finishRows c tag).fixed = s.fixed := by
  unfold State.finishRows
  split <;> simp

/-! #### Machine/DropOps.lean -/

@[simp ↓] theorem State.bumpDrop_fixed (s : State) (st d sub k : Nat) : (s.bumpDrop st d sub k).fixed = s.fixed := by
  simp [State.bumpDrop]

@[simp ↓] theorem State.bumpStack_fixed (s : State) (st sub k : Nat) : (s.bumpStack st sub k).fixed = s.fixed := by
  simp [State.bumpStack]

@[simp ↓] theorem State.countTagWaits_fixed (s : State) (st d : Nat) : (s.countTagWaits st d).fixed = s.fixed := by
  simp [State.countTagWaits]

@[simp ↓] theorem State.issue_fixed (s : State) (st d : Nat) (ts : List Txn) : (s.issue st d ts).fixed = s.fixed := by
  simp [State.issue]

@[simp ↓] theorem State.dropGetSend_fixed (s : State) (st d : Nat) (g : DropGet) : (s.dropGetSend st d g).fixed = s.fixed := by
  unfold State.dropGetSend
  split <;> simp

@[simp ↓] theorem State.dropGetReq_fixed (s : State) (st d : Nat) (p : Packet) (t : TransferTail) : (s.dropGetReq st d p t).fixed = s.fixed := by
  simp [State.dropGetReq]

@[simp ↓] theorem State.dropReserve_fixed (s : State) (st d : Nat) (p : Packet) (t : TransferTail) : (s.dropReserve st d p t).fixed = s.fixed := by
  simp [State.dropReserve]

@[simp ↓] theorem State.dropGrant_fixed (s : State) (st d : Nat) : (s.dropGrant st d).fixed = s.fixed := by
  unfold State.dropGrant
  split <;> simp

@[simp ↓] theorem State.dropPutData_fixed (s : State) (st d : Nat) (p : Packet) (t : TransferTail) : (s.dropPutData st d p t).fixed = s.fixed := by
  unfold State.dropPutData
  dsimp only
  (repeat' split) <;> simp

@[simp ↓] theorem State.dropFilled_fixed (s : State) (st d : Nat) (k : RsvKey) : (s.dropFilled st d k).fixed = s.fixed := by
  unfold State.dropFilled
  dsimp only
  split <;> simp

@[simp ↓] theorem State.coalRead_fixed (s : State) (st d : Nat) (e : Coal) : (s.coalRead st d e).fixed = s.fixed := by
  unfold State.coalRead
  dsimp only
  split <;> simp

@[simp ↓] theorem State.gatherReq_fixed (s : State) (st d : Nat) (p : Packet) : (s.gatherReq st d p).fixed = s.fixed := by
  unfold State.gatherReq
  dsimp only
  (repeat' split) <;> simp

@[simp ↓] theorem State.cacheRow_fixed (s : State) (st d tdesc row : Nat) (data : List Byte) : (s.cacheRow st d tdesc row data).fixed = s.fixed := by
  simp [State.cacheRow]

@[simp ↓] theorem State.coalReply_fixed (s : State) (st d : Nat) (e : Coal) : (s.coalReply st d e).fixed = s.fixed := by
  unfold State.coalReply
  extract_lets c t data inj s1 s2 s3
  have h2 : s2.fixed = s.fixed := by
    unfold s2
    split
    · simp [s1, inj]
    · rw [State.fixed_foldl, State.memInject_fixed]
      intro s p
      split <;> simp
  have h3 : s3.fixed = s.fixed := by simp [s3, h2]
  simp [h3]

@[simp ↓] theorem State.scatterData_fixed (s : State) (st d : Nat) (p : Packet) : (s.scatterData st d p).fixed = s.fixed := by
  unfold State.scatterData
  dsimp only
  (repeat' split) <;> simp

@[simp ↓] theorem State.modFlush_fixed (s : State) (st d tdesc : Nat) (f : DropFlush → DropFlush) : (s.modFlush st d tdesc f).fixed = s.fixed := by
  simp [State.modFlush]

@[simp ↓] theorem State.flushBegin_fixed (s : State) (st d : Nat) (p : Packet) (t : TableTail) : (s.flushBegin st d p t).fixed = s.fixed := by
  simp [State.flushBegin]

@[simp ↓] theorem State.flushReq_fixed (s : State) (st d : Nat) (p : Packet) : (s.flushReq st d p).fixed = s.fixed := by
  unfold State.flushReq
  split <;> simp

@[simp ↓] theorem State.releaseRow_fixed (s : State) (st d tdesc row : Nat) : (s.releaseRow st d tdesc row).fixed = s.fixed := by
  simp [State.releaseRow]

@[simp ↓] theorem State.flushEnd_fixed (s : State) (st d : Nat) (f : DropFlush) : (s.flushEnd st d f).fixed = s.fixed := by
  unfold State.flushEnd
  dsimp only
  (repeat' split) <;> simp

@[simp ↓] theorem State.flushNext_fixed (s : State) (st d tdesc : Nat) : (s.flushNext st d tdesc).fixed = s.fixed := by
  unfold State.flushNext
  (repeat' split) <;> simp

@[simp ↓] theorem State.flushWriteback_fixed (s : State) (st d tdesc : Nat) : (s.flushWriteback st d tdesc).fixed = s.fixed := by
  unfold State.flushWriteback
  split <;> simp

@[simp ↓] theorem State.flushWrite_fixed (s : State) (st d tdesc : Nat) (bad : Bool) : (s.flushWrite st d tdesc bad).fixed = s.fixed := by
  unfold State.flushWrite
  (repeat' split) <;> simp

@[simp ↓] theorem State.flushRowDone_fixed (s : State) (st d tdesc : Nat) : (s.flushRowDone st d tdesc).fixed = s.fixed := by
  unfold State.flushRowDone
  (repeat' split) <;> simp

@[simp ↓] theorem State.closeEpoch_fixed (s : State) (st d tdesc e : Nat) (r : DictReq) : (s.closeEpoch st d tdesc e r).fixed = s.fixed := by
  simp [State.closeEpoch]

@[simp ↓] theorem State.leadEnd_fixed (s : State) (st d : Nat) (l : LeadFlush) {answer : State → DictReq → State}
    (ha : ∀ s r, (answer s r).fixed = s.fixed) : (s.leadEnd st d l answer).fixed = s.fixed := by
  simp [State.leadEnd, ha]

@[simp ↓] theorem State.flushAnswer_fixed (s : State) (a : Delivered) {answer : State → DictReq → State}
    (ha : ∀ s r, (answer s r).fixed = s.fixed) : (s.flushAnswer a answer).fixed = s.fixed := by
  unfold State.flushAnswer
  dsimp only
  (repeat' split) <;> simp [ha]

@[simp ↓] theorem State.modStrm_fixed (s : State) (st d m : Nat) (f : StreamSt → StreamSt) : (s.modStrm st d m f).fixed = s.fixed := by
  simp [State.modStrm]

@[simp ↓] theorem State.strmCall_fixed (s : State) (st d m fuel : Nat) : (s.strmCall st d m fuel).fixed = s.fixed := by
  induction fuel generalizing s with
  | zero => rfl
  | succ fuel ih =>
    unfold State.strmCall
    (repeat' split) <;> simp [ih]

@[simp ↓] theorem State.strmEnd_fixed (s : State) (st d m : Nat) : (s.strmEnd st d m).fixed = s.fixed := by
  unfold State.strmEnd
  split <;> simp

@[simp ↓] theorem State.strmRsvEnd_fixed (s : State) (st d m k reasons : Nat) : (s.strmRsvEnd st d m k reasons).fixed = s.fixed := by
  simp [State.strmRsvEnd]

@[simp ↓] theorem State.strmStart_fixed (s : State) (m : Nat) : (s.strmStart m).fixed = s.fixed := by
  simp [State.strmStart]

@[simp ↓] theorem State.strmArrive_fixed (s : State) (a : MresArrive) : (s.strmArrive a).fixed = s.fixed := by
  unfold State.strmArrive
  dsimp only
  (repeat' split) <;> simp

@[simp ↓] theorem State.strmSend_fixed (s : State) (st d m k : Nat) : (s.strmSend st d m k).fixed = s.fixed := by
  unfold State.strmSend
  split <;> simp

@[simp ↓] theorem State.granIn_fixed (s : State) (st d : Nat) (t : Txn) (data : Option (List Byte)) : (s.granIn st d t data).fixed = s.fixed := by
  unfold State.granIn
  (repeat' split) <;> simp

@[simp ↓] theorem State.writeDone_fixed (s : State) (st d : Nat) (t : Txn) (ok : Bool) : (s.writeDone st d t ok).fixed = s.fixed := by
  unfold State.writeDone
  dsimp only
  (repeat' split) <;> simp

@[simp ↓] theorem State.freeTag_fixed (s : State) (st d : Nat) (t : Txn) : (s.freeTag st d t).fixed = s.fixed := by
  simp [State.freeTag]

@[simp ↓] theorem State.ifError_fixed (s : State) (st d : Nat) : (s.ifError st d).fixed = s.fixed := by
  simp [State.ifError]

@[simp ↓] theorem State.rerr_fixed (s : State) (st d tag : Nat) : (s.rerr st d tag).fixed = s.fixed := by
  simp [State.rerr]

@[simp ↓] theorem State.dropWord_fixed (s : State) (st d : Nat) (cw : List Byte) : (s.dropWord st d cw).2.fixed = s.fixed := by
  unfold State.dropWord
  split <;> simp

@[simp ↓] theorem State.rdata_fixed (s : State) (st d tag : Nat) (cw0 cw1 : List Byte) (err parityOk : Bool) :
    (s.rdata st d tag cw0 cw1 err parityOk).fixed = s.fixed := by
  unfold State.rdata
  dsimp only
  (repeat' split) <;> simp

@[simp ↓] theorem State.wack_fixed (s : State) (st d tag : Nat) (err parityOk : Bool) : (s.wack st d tag err parityOk).fixed = s.fixed := by
  unfold State.wack
  (repeat' split) <;> simp

@[simp ↓] theorem State.purgeMoved_fixed (s : State) (st k : Nat) : (s.purgeMoved st k).fixed = s.fixed := by
  simp [State.purgeMoved]

@[simp ↓] theorem State.purgeAt_fixed (s : State) (c : Coord) : (s.purgeAt c).fixed = s.fixed := by
  unfold State.purgeAt
  split <;> simp

@[simp ↓] theorem State.dropRelease_fixed (s : State) (st d : Nat) (p : Packet) (t : TransferTail) : (s.dropRelease st d p t).fixed = s.fixed := by
  simp [State.dropRelease]

@[simp ↓] theorem State.dropFenced_fixed (s : State) (st d : Nat) : (s.dropFenced st d).fixed = s.fixed := by
  unfold State.dropFenced
  dsimp only
  split
  · rfl
  · rw [State.fixed_foldl]
    · simp
    · intro s kl
      (repeat' split) <;> simp

/-! #### Machine/PowerOps.lean -/

@[simp ↓] theorem State.stopClock_fixed (s : State) (f : Nat) : (s.stopClock f).fixed = s.fixed := by
  simp [State.stopClock]

@[simp ↓] theorem State.startClock_fixed (s : State) (f : Nat) : (s.startClock f).fixed = s.fixed := by
  simp [State.startClock]

@[simp ↓] theorem State.wakeDone_fixed (s : State) (f : Nat) : (s.wakeDone f).fixed = s.fixed := by
  simp [State.wakeDone]

@[simp ↓] theorem State.fieldWake_fixed (s : State) (f cause : Nat) : (s.fieldWake f cause).fixed = s.fixed := by
  simp [State.fieldWake]

@[simp ↓] theorem State.wakeAt_fixed (s : State) (f arg8 : Nat) : (s.wakeAt f arg8).fixed = s.fixed := by
  simp [State.wakeAt]

@[simp ↓] theorem State.atCell_fixed (s : State) (c : Coord) {run : State → State} (hrun : ∀ s, (run s).fixed = s.fixed) :
    (s.atCell c run).fixed = s.fixed := by
  simp [State.atCell, hrun]

@[simp ↓] theorem State.atSig_fixed (s : State) (c : Coord) (sg : Signal) {run : State → State}
    (hrun : ∀ s, (run s).fixed = s.fixed) : (s.atSig c sg run).fixed = s.fixed := by
  simp [State.atSig, hrun]

@[simp ↓] theorem State.atEject_fixed {s run : State} (hrun : run.fixed = s.fixed) (c : Coord) (p : Packet) :
    (s.atEject c p run).fixed = s.fixed := by
  simp [State.atEject, hrun]

@[simp ↓] theorem State.watchCalm_fixed (s : State) : s.watchCalm.fixed = s.fixed := by
  unfold State.watchCalm
  split <;> simp

@[simp ↓] theorem State.stopClocks_fixed (s : State) : s.stopClocks.fixed = s.fixed := by
  simp [State.stopClocks]

@[simp ↓] theorem State.dropCaches_fixed (s : State) : s.dropCaches.fixed = s.fixed := by
  simp [State.dropCaches]

@[simp ↓] theorem State.portStill_fixed (s : State) (p : Nat) : (s.portStill p).fixed = s.fixed := by
  simp [State.portStill]

@[simp ↓] theorem State.causeEngine_fixed (s : State) (cause : Nat) : (s.causeEngine cause).fixed = s.fixed := by
  simp [State.causeEngine]

@[simp ↓] theorem State.compInt_fixed (s : State) (i : Nat) : (s.compInt i).fixed = s.fixed := by
  simp [State.compInt]

@[simp ↓] theorem State.pllsOn_fixed (s : State) : s.pllsOn.fixed = s.fixed := by
  simp [State.pllsOn]

@[simp ↓] theorem State.fantailWindow_fixed (s : State) (f : Nat) : (s.fantailWindow f).fixed = s.fixed := by
  simp [State.fantailWindow]

@[simp ↓] theorem State.shareRecompute_fixed (s : State) : s.shareRecompute.fixed = s.fixed := by
  simp [State.shareRecompute]

@[simp ↓] theorem State.openDiv_fixed (s : State) (a : Int) (k : Nat) : (s.openDiv a k).2.fixed = s.fixed := by
  simp [State.openDiv]

@[simp ↓] theorem State.foldTime_fixed (s : State) (f : Nat) : (s.foldTime f).fixed = s.fixed := by
  simp [State.foldTime]

@[simp ↓] theorem State.stepField_fixed (s : State) (f : Nat) (d : Int) : (s.stepField f d).fixed = s.fixed := by
  simp [State.stepField]

@[simp ↓] theorem State.correct_fixed (s : State) (f : Nat) (d : Int) : (s.correct f d).fixed = s.fixed := by
  simp [State.correct]

@[simp ↓] theorem State.beaconOut_fixed (s : State) : s.beaconOut.fixed = s.fixed := by
  simp [State.beaconOut]

@[simp ↓] theorem State.beaconAt_fixed (s : State) (f : Nat) (b : Beacon) : (s.beaconAt f b).fixed = s.fixed := by
  simp [State.beaconAt]

@[simp ↓] theorem State.timeFrame_fixed (s : State) (p : Nat) (t : TimeBody) : (s.timeFrame p t).fixed = s.fixed := by
  unfold State.timeFrame
  dsimp only
  split
  · rfl
  · split
    · simp
    · split
      · simp
      · split
        · simp
        · rw [State.fixed_foldl (by simp)]
          simp

/-! #### Machine/ObsOps.lean -/

@[simp ↓] theorem State.traceInput_fixed (s : State) (c : Coord) (core : Nat) (bs : List Byte) : (s.traceInput c core bs).fixed = s.fixed := by
  simp [State.traceInput]

@[simp ↓] theorem State.traceRetry_fixed (s : State) (c : Coord) : (s.traceRetry c).fixed = s.fixed := by
  simp [State.traceRetry]

@[simp ↓] theorem State.takeSample_fixed (s : State) (c : Coord) (k : Nat) (held : Bool) : (s.takeSample c k held).fixed = s.fixed := by
  unfold State.takeSample
  split
  · rfl
  · dsimp only
    split
    · simp
    · split
      · next u hu => simp [State.routerTransfer_fixed u hu]
      · simp

@[simp ↓] theorem State.sweepRetry_fixed (s : State) (c : Coord) : (s.sweepRetry c).fixed = s.fixed := by
  unfold State.sweepRetry
  split <;> simp

@[simp ↓] theorem State.sweepResume_fixed (s : State) (f : Nat) : (s.sweepResume f).fixed = s.fixed := by
  simp [State.sweepResume]

@[simp ↓] theorem State.sweepEnable_fixed (s : State) (on : Bool) : (s.sweepEnable on).fixed = s.fixed := by
  simp [State.sweepEnable]

@[simp ↓] theorem State.allRings_fixed (s : State) (freeze : Bool) : (s.allRings freeze).fixed = s.fixed := by
  simp [State.allRings]

@[simp ↓] theorem State.sendHalt_fixed (s : State) (c : Coord) (g : Nat) (on : Bool) (origin : SrcAddr) :
    (s.sendHalt c g on origin).fixed = s.fixed := by
  simp [State.sendHalt]

@[simp ↓] theorem State.breakAt_fixed (s : State) (c : Coord) (core : Nat) : (s.breakAt c core).fixed = s.fixed := by
  simp [State.breakAt]

@[simp ↓] theorem State.haltAt_fixed (s : State) (c : Coord) (h : Halt) : (s.haltAt c h).fixed = s.fixed := by
  simp [State.haltAt]

/-! #### Machine/DictVal.lean -/

@[simp ↓] theorem State.setSelection_fixed (s : State) (w : Requester) (n : Node) (idx v : Nat) : (s.setSelection w n idx v).fixed = s.fixed := by
  simp [State.setSelection]

/-! #### Machine/StartOps.lean -/

@[simp ↓] theorem State.stepDone_fixed (s : State) (k : Nat) : (s.stepDone k).fixed = s.fixed := by
  simp [State.stepDone]

@[simp ↓] theorem State.bootFail_fixed (s : State) (cause : Nat) (fields : List Nat) : (s.bootFail cause fields).fixed = s.fixed := by
  simp [State.bootFail]

@[simp ↓] theorem State.bringupStart_fixed (s : State) (warm : Bool) : (s.bringupStart warm).fixed = s.fixed := by
  simp [State.bringupStart]

@[simp ↓] theorem State.restart_fixed (s : State) : s.restart.fixed = s.fixed := by
  simp [State.restart]

/-! #### Machine/ChanOps.lean -/

@[simp ↓] theorem State.setChan_fixed (s : State) (c : Coord) (n sub v : Nat) : (s.setChan c n sub v).fixed = s.fixed := by
  simp [State.setChan]

@[simp ↓] theorem State.setClaims_fixed (s : State) (c : Coord) (n : Nat) (l : List Claim) : (s.setClaims c n l).fixed = s.fixed := by
  simp [State.setClaims]

@[simp ↓] theorem State.answerChWaits_fixed (s : State) (c : Coord) (n : Nat) : (s.answerChWaits c n).fixed = s.fixed := by
  simp [State.answerChWaits]

@[simp ↓] theorem State.chanNack_fixed (s : State) (c : Coord) (n : Nat) (p : Packet) (reason chstate var : Nat) :
    (s.chanNack c n p reason chstate var).fixed = s.fixed := by
  simp [State.chanNack]

@[simp ↓] theorem State.claimSpace_fixed (s : State) (c : Coord) (p : Packet) (t : MessageTail) : (s.claimSpace c p t).fixed = s.fixed := by
  simp [State.claimSpace]

@[simp ↓] theorem State.discardUnits_fixed (s : State) (c : Coord) (k : Nat) : (s.discardUnits c k).fixed = s.fixed := by
  simp [State.discardUnits]

@[simp ↓] theorem State.sendAdmission_fixed (s : State) (c : Coord) (p : Packet) (t : MessageTail) : (s.sendAdmission c p t).fixed = s.fixed := by
  unfold State.sendAdmission
  (repeat' split) <;> simp

@[simp ↓] theorem State.publish_fixed (s : State) (c : Coord) (n fuel : Nat) : (s.publish c n fuel).fixed = s.fixed := by
  induction fuel generalizing s with
  | zero => rfl
  | succ fuel ih =>
    unfold State.publish
    (repeat' split) <;> simp [ih]

@[simp ↓] theorem State.publishAll_fixed (s : State) (c : Coord) (n : Nat) : (s.publishAll c n).fixed = s.fixed := by
  simp [State.publishAll]

@[simp ↓] theorem State.writeSkip_fixed (s : State) (c : Coord) (n : Nat) (cl : Claim) : (s.writeSkip c n cl).fixed = s.fixed := by
  simp [State.writeSkip]

@[simp ↓] theorem State.sendLanding_fixed (s : State) (c : Coord) (p : Packet) (t : MessageTail) : (s.sendLanding c p t).fixed = s.fixed := by
  unfold State.sendLanding
  dsimp only
  split <;> simp

@[simp ↓] theorem State.enterNack_fixed (s : State) (c : Coord) (k : Nack) : (s.enterNack c k).fixed = s.fixed := by
  simp [State.enterNack]

@[simp ↓] theorem State.chAdvance_fixed (s : State) (c : Coord) (n h g : Nat) : (s.chAdvance c n h g).2.fixed = s.fixed := by
  unfold State.chAdvance
  split <;> simp

@[simp ↓] theorem State.nackClaim_fixed (s : State) (c : Coord) (n : Nat) (cl : Claim) : (s.nackClaim c n cl).fixed = s.fixed := by
  simp [State.nackClaim]

@[simp ↓] theorem State.chanReset_fixed (s : State) (c : Coord) (n : Nat) : (s.chanReset c n).fixed = s.fixed := by
  simp [State.chanReset]

@[simp ↓] theorem State.chanStateWrite_fixed (s : State) (c : Coord) (n v : Nat) : (s.chanStateWrite c n v).2.fixed = s.fixed := by
  simp [State.chanStateWrite]

@[simp ↓] theorem State.chanHeadWrite_fixed (s : State) (c : Coord) (n g : Nat) : (s.chanHeadWrite c n g).2.fixed = s.fixed := by
  simp [State.chanHeadWrite]

@[simp ↓] theorem State.resetChannels_fixed (s : State) (c : Coord) : (s.resetChannels c).fixed = s.fixed := by
  simp [State.resetChannels]

/-! #### Machine/DualOps.lean -/

@[simp ↓] theorem State.putHold_fixed (s : State) (c : Coord) (h : HoldEnt) : (s.putHold c h).fixed = s.fixed := by
  simp [State.putHold]

@[simp ↓] theorem State.dropHold_fixed (s : State) (c : Coord) (i : SliceId) : (s.dropHold c i).fixed = s.fixed := by
  simp [State.dropHold]

@[simp ↓] theorem State.holdRead_fixed (s : State) (c : Coord) (h : HoldEnt) : (s.holdRead c h).2.fixed = s.fixed := by
  unfold State.holdRead
  split <;> simp

@[simp ↓] theorem State.capture_fixed (s : State) (c : Coord) (i : SliceId) (p q : Part) : (s.capture c i p q).fixed = s.fixed := by
  simp [State.capture]

@[simp ↓] theorem State.captureEnd_fixed (s : State) (c : Coord) (i : SliceId) (verdict : Nat) (t : Option Part) :
    (s.captureEnd c i verdict t).fixed = s.fixed := by
  simp [State.captureEnd]

@[simp ↓] theorem State.dualStrike_fixed (s : State) (c : Coord) (i : SliceId) (e : Option Nat) : (s.dualStrike c i e).fixed = s.fixed := by
  unfold State.dualStrike
  split <;> simp

@[simp ↓] theorem State.dualStrike?_fixed (s : State) (o : Option Coord) (i : SliceId) (e : Option Nat) : (s.dualStrike? o i e).fixed = s.fixed := by
  unfold State.dualStrike?
  split <;> simp

@[simp ↓] theorem State.unresolved_fixed (s : State) (c : Coord) (i : SliceId) : (s.unresolved c i).fixed = s.fixed := by
  simp [State.unresolved]

@[simp ↓] theorem State.settleHold_fixed (s : State) (c : Coord) (i : SliceId) (sub : Nat) (p : Part) : (s.settleHold c i sub p).fixed = s.fixed := by
  simp [State.settleHold]

@[simp ↓] theorem State.lostHold_fixed (s : State) (c : Coord) (i : SliceId) : (s.lostHold c i).fixed = s.fixed := by
  simp [State.lostHold]

@[simp ↓] theorem State.noThird_fixed (s : State) (c : Coord) (h : HoldEnt) : (s.noThird c h).fixed = s.fixed := by
  simp [State.noThird]

@[simp ↓] theorem State.recheckNotice_fixed (s : State) (c : Coord) (i : SliceId) : (s.recheckNotice c i).fixed = s.fixed := by
  simp [State.recheckNotice]

@[simp ↓] theorem State.checkVerdict_fixed (s : State) (c : Coord) (h : HoldEnt) : (s.checkVerdict c h).fixed = s.fixed := by
  unfold State.checkVerdict
  dsimp only
  (repeat' split) <;> simp

@[simp ↓] theorem State.thirdVerdict_fixed (s : State) (c : Coord) (h : HoldEnt) : (s.thirdVerdict c h).fixed = s.fixed := by
  unfold State.thirdVerdict
  dsimp only
  (repeat' split) <;> simp

@[simp ↓] theorem State.partialPiece_fixed (s : State) (c : Coord) (third : Bool) (i : SliceId) (q : Part) (last : Bool) :
    (s.partialPiece c third i q last).fixed = s.fixed := by
  unfold State.partialPiece
  split <;> simp

@[simp ↓] theorem State.partialAt_fixed (s : State) (c : Coord) (third : Bool) (p : Packet) : (s.partialAt c third p).fixed = s.fixed := by
  unfold State.partialAt
  extract_lets t a from_ s1
  split
  · rfl
  · split
    · simp [s1]
    · rw [State.fixed_foldl, State.takePkt_fixed]
      intro s kp
      split <;> simp

@[simp ↓] theorem State.recheckOwn_fixed (s : State) (c : Coord) (i : SliceId) : (s.recheckOwn c i).fixed = s.fixed := by
  unfold State.recheckOwn
  split <;> simp

@[simp ↓] theorem State.thirdRead_fixed (s : State) (c : Coord) (tag k : Nat) (bad : Bool) : (s.thirdRead c tag k bad).fixed = s.fixed := by
  unfold State.thirdRead
  dsimp only
  (repeat' split) <;> simp

@[simp ↓] theorem State.recheckAt_fixed (s : State) (c : Coord) (p : Packet) : (s.recheckAt c p).fixed = s.fixed := by
  simp [State.recheckAt]

@[simp ↓] theorem State.patternShown_fixed (s : State) (k e : Nat) : (s.patternShown k e).2.fixed = s.fixed := by
  simp [State.patternShown]

@[simp ↓] theorem State.patternLane_fixed (s : State) (c : Coord) (lane k : Nat) : (s.patternLane c lane k).2.fixed = s.fixed := by
  unfold State.patternLane
  dsimp only
  (repeat' split) <;> simp

@[simp ↓] theorem State.replay_fixed (s : State) (c : Coord) : (s.replay c).fixed = s.fixed := by
  simp [State.replay]

@[simp ↓] theorem State.patternReplay_fixed (s : State) (c : Coord) : (s.patternReplay c).fixed = s.fixed := by
  simp [State.patternReplay]

/-! #### Machine/DictWrite.lean -/

@[simp ↓] theorem State.storeReg_fixed (s : State) (o : Obj) (v : Nat) : (s.storeReg o v).fixed = s.fixed := by
  simp [State.storeReg]

@[simp ↓] theorem State.storeBlob_fixed (s : State) (o : Obj) (a : Nat) (bs : List Byte) (tend : Bool) :
    (s.storeBlob o a bs tend).fixed = s.fixed := by
  simp [State.storeBlob]

@[simp ↓] theorem State.clearStatus_fixed (s : State) (n : Node) (idx v : Nat) : (s.clearStatus n idx v).2.fixed = s.fixed := by
  simp [State.clearStatus]

@[simp ↓] theorem State.enableInts_fixed (s : State) (n : Node) (idx v : Nat) : (s.enableInts n idx v).fixed = s.fixed := by
  simp [State.enableInts]

@[simp ↓] theorem State.portFree_fixed (s : State) (p : Nat) : (s.portFree p).fixed = s.fixed := by
  simp [State.portFree]

@[simp ↓] theorem State.releasePort_fixed (s : State) (p : Nat) : (s.releasePort p).fixed = s.fixed := by
  simp [State.releasePort]

@[simp ↓] theorem State.writeFence_fixed (s : State) (o : Obj) (v : Nat) : (s.writeFence o v).2.fixed = s.fixed := by
  unfold State.writeFence
  (repeat' split) <;> simp

@[simp ↓] theorem State.releaseQuarantine_fixed (s : State) (p : Nat) : (s.releaseQuarantine p).fixed = s.fixed := by
  simp [State.releaseQuarantine]

@[simp ↓] theorem State.writeRetrain_fixed (s : State) (p v : Nat) : (s.writeRetrain p v).fixed = s.fixed := by
  simp [State.writeRetrain]

theorem State.writeRelay_fixed {s : State} {p v : Nat} : ∀ t ∈ s.writeRelay p v, t.fixed = s.fixed := by
  unfold State.writeRelay
  (repeat' split) <;> simp

@[simp ↓] theorem State.writeRole_fixed (s : State) (p v : Nat) : (s.writeRole p v).fixed = s.fixed := by
  simp [State.writeRole]

@[simp ↓] theorem State.restop_fixed (s : State) (cells : List Coord) (run : State → State) :
    (s.restop cells run).fixed = (run s).fixed := by
  simp [State.restop]

@[simp ↓] theorem State.writeTolerance_fixed (s : State) (f v : Nat) : (s.writeTolerance f v).fixed = s.fixed := by
  simp [State.writeTolerance]

@[simp ↓] theorem State.writeEngTolerance_fixed (s : State) (v : Nat) : (s.writeEngTolerance v).fixed = s.fixed := by
  simp [State.writeEngTolerance]

@[simp ↓] theorem State.writeFreq_fixed (s : State) (f : Nat) (r : DictReq) : (s.writeFreq f r).fixed = s.fixed := by
  simp [State.writeFreq]

@[simp ↓] theorem State.pllLoss_fixed (s : State) (f : Nat) : (s.pllLoss f).fixed = s.fixed := by
  simp [State.pllLoss]

@[simp ↓] theorem State.writeArm_fixed (s : State) (n : Node) (v : Nat) : (s.writeArm n v).fixed = s.fixed := by
  unfold State.writeArm
  dsimp only
  split
  · next h => (repeat' split) <;> simp [State.takeInject_eq_fixed h]
  · next h => simp [State.takeInject_eq_fixed h]

@[simp ↓] theorem State.writeSelect_fixed (s : State) (c : Coord) (i v : Nat) : (s.writeSelect c i v).fixed = s.fixed := by
  simp [State.writeSelect]

@[simp ↓] theorem State.writeAction_fixed (s : State) (o : Obj) (v : Nat) : (s.writeAction o v).fixed = s.fixed := by
  simp [State.writeAction]

@[simp ↓] theorem State.writeHalt_fixed (s : State) (g v : Nat) : (s.writeHalt g v).fixed = s.fixed := by
  simp [State.writeHalt]

@[simp ↓] theorem State.writeFt_fixed (s : State) (v : Nat) : (s.writeFt v).fixed = s.fixed := by
  simp [State.writeFt]

@[simp ↓] theorem State.writeRing_fixed (s : State) (sub v : Nat) : (s.writeRing sub v).fixed = s.fixed := by
  simp [State.writeRing]

@[simp ↓] theorem State.writeStart_fixed (s : State) (o : Obj) : (s.writeStart o).2.fixed = s.fixed := by
  unfold State.writeStart
  dsimp only
  (repeat' split) <;> simp

@[simp ↓] theorem State.writeClose_fixed (s : State) (o : Obj) (r : DictReq) : (s.writeClose o r).2.fixed = s.fixed := by
  unfold State.writeClose
  split <;> simp

@[simp ↓] theorem State.writeRestart_fixed (s : State) : s.writeRestart.2.fixed = s.fixed := by
  simp [State.writeRestart]

@[simp ↓] theorem State.writeDrain_fixed (s : State) : s.writeDrain.2.fixed = s.fixed := by
  simp [State.writeDrain]

@[simp ↓] theorem State.writeFault_fixed (s : State) (o : Obj) (v : Nat) : (s.writeFault o v).2.fixed = s.fixed := by
  unfold State.writeFault
  split <;> simp

@[simp ↓] theorem State.writeBlob_fixed (s : State) (r : DictReq) (o : Obj) : (s.writeBlob r o).2.fixed = s.fixed := by
  simp [State.writeBlob]

@[simp ↓] theorem State.writeCell_fixed (s : State) (r : DictReq) (o : Obj) : (s.writeCell r o).2.fixed = s.fixed := by
  unfold State.writeCell
  dsimp only
  split
  · simp
  · split
    case h_8 =>
      split
      · next t ht => exact State.writeRelay_fixed t ht
      · simp
    all_goals simp

@[simp ↓] theorem State.writeField_fixed (s : State) (r : DictReq) (f : Nat) (o : Obj) : (s.writeField r f o).2.fixed = s.fixed := by
  unfold State.writeField
  dsimp only
  (repeat' split) <;> simp

@[simp ↓] theorem State.writeEngine_fixed (s : State) (r : DictReq) (o : Obj) : (s.writeEngine r o).2.fixed = s.fixed := by
  unfold State.writeEngine
  dsimp only
  (repeat' split) <;> simp

@[simp ↓] theorem State.writeNow_fixed (s : State) (r : DictReq) (o : Obj) : (s.writeNow r o).2.fixed = s.fixed := by
  unfold State.writeNow
  dsimp only
  (repeat' split) <;> simp

/-! #### Machine/DictCommit.lean -/

@[simp ↓] theorem State.dictAnswer_fixed (s : State) (r : DictReq) (a : Rsp) : (s.dictAnswer r a).fixed = s.fixed := by
  simp [State.dictAnswer]

@[simp ↓] theorem State.setGroups_fixed (s : State) (gs : List Group) : (s.setGroups gs).fixed = s.fixed := by
  simp [State.setGroups]

@[simp ↓] theorem State.stage_fixed (s : State) (r : DictReq) (o : Obj) : (s.stage r o).2.fixed = s.fixed := by
  simp [State.stage]

@[simp ↓] theorem State.applyStaged_fixed (s : State) (w : Staged) : (s.applyStaged w).fixed = s.fixed := by
  simp [State.applyStaged]

@[simp ↓] theorem State.armCtx_fixed (s : State) (k : Nat) : (s.armCtx k).fixed = s.fixed := by
  simp [State.armCtx]

@[simp ↓] theorem State.armTbl_fixed (s : State) (old : Option (Nat × Nat)) (k : Nat) : (s.armTbl old k).fixed = s.fixed := by
  unfold State.armTbl
  dsimp only
  (repeat' split) <;> simp

@[simp ↓] theorem State.armAny_fixed (s : State) (k : Nat) : (s.armAny k).fixed = s.fixed := by
  simp [State.armAny]

@[simp ↓] theorem State.forgetCtx_fixed (s : State) (k : Nat) : (s.forgetCtx k).fixed = s.fixed := by
  simp [State.forgetCtx]

@[simp ↓] theorem State.armBar_fixed (s : State) (old : Coord) (k : Nat) : (s.armBar old k).fixed = s.fixed := by
  simp [State.armBar]

@[simp ↓] theorem State.applyGroup_fixed (s : State) (g : Group) (gen : Nat) : (s.applyGroup g gen).fixed = s.fixed := by
  unfold State.applyGroup
  dsimp only
  rw [State.fixed_foldl]
  · simp
  · intro s o
    split <;> simp

@[simp ↓] theorem State.applyRound_fixed (s : State) (g : Group) (gen : Nat) (l : List Nat) : (s.applyRound g gen l).fixed = s.fixed := by
  simp [State.applyRound]

@[simp ↓] theorem State.nextCommit_fixed (s : State) (fuel : Nat) : (s.nextCommit fuel).fixed = s.fixed := by
  induction fuel generalizing s with
  | zero => rfl
  | succ fuel ih =>
    unfold State.nextCommit
    dsimp only
    (repeat' split) <;> simp [ih]

@[simp ↓] theorem State.runCommits_fixed (s : State) : s.runCommits.fixed = s.fixed := by
  simp [State.runCommits]

@[simp ↓] theorem State.writeCommit_fixed (s : State) (r : DictReq) : (s.writeCommit r).2.fixed = s.fixed := by
  unfold State.writeCommit
  split <;> simp

@[simp ↓] theorem State.endCommit_fixed (s : State) : s.endCommit.fixed = s.fixed := by
  simp [State.endCommit]

@[simp ↓] theorem State.commitPrepare_fixed (s : State) : s.commitPrepare.fixed = s.fixed := by
  unfold State.commitPrepare
  (repeat' split) <;> simp

@[simp ↓] theorem State.commitBack_fixed (s : State) (gen : Nat) (lagging : List Nat) : (s.commitBack gen lagging).fixed = s.fixed := by
  simp [State.commitBack]

@[simp ↓] theorem State.commitApplied_fixed (s : State) : s.commitApplied.fixed = s.fixed := by
  unfold State.commitApplied
  split <;> simp

/-! #### Machine/DictServe.lean -/

@[simp ↓] theorem State.freshen_fixed (s : State) (o : Obj) : (s.freshen o).fixed = s.fixed := by
  unfold State.freshen
  dsimp only
  (repeat' split) <;> simp

@[simp ↓] theorem State.dictRead_fixed (s : State) (r : DictReq) (o : Obj) : (s.dictRead r o).2.fixed = s.fixed := by
  unfold State.dictRead
  split <;> simp

@[simp ↓] theorem State.dictWrite_fixed (s : State) (r : DictReq) (o : Obj) : (s.dictWrite r o).2.fixed = s.fixed := by
  unfold State.dictWrite
  split <;> simp

@[simp ↓] theorem State.dropPartial_fixed (s : State) (w : Requester) (tag : Nat) : (s.dropPartial w tag).fixed = s.fixed := by
  simp [State.dropPartial]

@[simp ↓] theorem State.keepPartial_fixed (s : State) (r : DictReq) : (s.keepPartial r).fixed = s.fixed := by
  simp [State.keepPartial]

@[simp ↓] theorem State.dictWait_fixed (s : State) (r : DictReq) (f : Nat) : (s.dictWait r f).fixed = s.fixed := by
  simp [State.dictWait]

@[simp ↓] theorem State.dictAct_fixed (s : State) (r : DictReq) : (s.dictAct r).fixed = s.fixed := by
  unfold State.dictAct
  dsimp only
  (repeat' split) <;> simp

@[simp ↓] theorem State.dictServe_fixed (s : State) (r : DictReq) : (s.dictServe r).fixed = s.fixed := by
  unfold State.dictServe
  (repeat' split) <;> simp

@[simp ↓] theorem State.mgmtSend_fixed (s : State) (bs : List Byte) : (s.mgmtSend bs).fixed = s.fixed := by
  simp [State.mgmtSend]

@[simp ↓] theorem State.mctpControl_fixed (s : State) (m : MctpControl) : (s.mctpControl m).fixed = s.fixed := by
  unfold State.mctpControl
  split <;> simp

@[simp ↓] theorem State.mgmtAddress_fixed (s : State) (addr : Nat) : (s.mgmtAddress addr).fixed = s.fixed := by
  simp [State.mgmtAddress]

@[simp ↓] theorem State.mgmtRequest_fixed (s : State) (m : MgmtReq) : (s.mgmtRequest m).fixed = s.fixed := by
  simp [State.mgmtRequest]

@[simp ↓] theorem State.mgmtReply_fixed (s : State) (r : DictRsp) : (s.mgmtReply r).fixed = s.fixed := by
  unfold State.mgmtReply
  split <;> simp

@[simp ↓] theorem State.dictReply_fixed (s : State) (r : DictRsp) : (s.dictReply r).fixed = s.fixed := by
  unfold State.dictReply
  dsimp only
  (repeat' split) <;> simp

/-! #### Machine/BootOps.lean -/

@[simp ↓] theorem State.modEng_fixed (s : State) (f : EngSt → EngSt) : (s.modEng f).fixed = s.fixed := by
  simp [State.modEng]

@[simp ↓] theorem State.coldStart_fixed (s : State) : s.coldStart.fixed = s.fixed := by
  simp [State.coldStart]

@[simp ↓] theorem State.bootAon_fixed (s : State) (ok : Bool) : (s.bootAon ok).fixed = s.fixed := by
  simp [State.bootAon]

@[simp ↓] theorem State.loadCerts_fixed (s : State) : s.loadCerts.fixed = s.fixed := by
  simp [State.loadCerts]

@[simp ↓] theorem State.bootAgents_fixed (s : State) (nvOk : Bool) (failed : List Nat) : (s.bootAgents nvOk failed).fixed = s.fixed := by
  simp [State.bootAgents]

@[simp ↓] theorem State.pgRise_fixed (s : State) (f : Nat) : (s.pgRise f).fixed = s.fixed := by
  simp [State.pgRise]

@[simp ↓] theorem State.bootLock_fixed (s : State) (f : Nat) : (s.bootLock f).fixed = s.fixed := by
  simp [State.bootLock]

@[simp ↓] theorem State.bootClocks_fixed (s : State) : s.bootClocks.fixed = s.fixed := by
  simp [State.bootClocks]

@[simp ↓] theorem State.defect_fixed (s : State) (w : Nat) : (s.defect w).fixed = s.fixed := by
  unfold State.defect
  dsimp only
  (repeat' split) <;> simp

@[simp ↓] theorem State.mapsDone_fixed (s : State) : s.mapsDone.fixed = s.fixed := by
  unfold State.mapsDone
  apply State.fixed_foldl
  intro s a
  (repeat' split) <;> simp

@[simp ↓] theorem State.bootHoles_fixed (s : State) : s.bootHoles.fixed = s.fixed := by
  simp [State.bootHoles]

@[simp ↓] theorem State.bootStranded_fixed (s : State) (fuel : Nat) : (s.bootStranded fuel).fixed = s.fixed := by
  induction fuel generalizing s with
  | zero => rfl
  | succ fuel ih =>
    unfold State.bootStranded
    (repeat' split) <;> simp [ih]

@[simp ↓] theorem State.bootSelftest_fixed (s : State) (t : SelfTest) : (s.bootSelftest t).fixed = s.fixed := by
  unfold State.bootSelftest
  extract_lets before s1 s2 stops s3 tracks s4 s5 s6
  have h2 : s2.fixed = s.fixed := by
    unfold s2
    rw [State.fixed_foldl]
    · simp [s1]
    · intro s l
      split <;> simp
  have h4 : s4.fixed = s.fixed := h2
  split
  · rfl
  · simp [s6, s5, h4]

@[simp ↓] theorem State.imageRun_fixed (s : State) (l : List ImageRec) : (s.imageRun l).1.fixed = s.fixed := by
  unfold State.imageRun
  split
  · rfl
  · next r rest =>
    dsimp only
    split
    · rfl
    · next o _ =>
      have hw := State.dictWrite_fixed s (s.imageReq (r :: rest) r) o
      split
      · next h =>
        rw [h] at hw
        split
        · exact hw
        · rfl
      · next h =>
        rw [h] at hw
        exact hw

@[simp ↓] theorem State.imageCommit_fixed (s : State) : s.imageCommit.fixed = s.fixed := by
  unfold State.imageCommit
  dsimp only
  (repeat' split) <;> simp

@[simp ↓] theorem State.bootImage_fixed (s : State) : s.bootImage.fixed = s.fixed := by
  simp [State.bootImage]

@[simp ↓] theorem State.baseReady_fixed (s : State) (st : Nat) : (s.baseReady st).fixed = s.fixed := by
  simp [State.baseReady]

@[simp ↓] theorem State.bootDone_fixed (s : State) : s.bootDone.fixed = s.fixed := by
  simp [State.bootDone]

@[simp ↓] theorem State.powerFall_fixed (s : State) : s.powerFall.fixed = s.fixed := by
  simp [State.powerFall]

/-! #### Machine/ResetOps.lean -/

@[simp ↓] theorem State.cellResetAt_fixed (s : State) (c : Coord) : (s.cellResetAt c).fixed = s.fixed := by
  simp [State.cellResetAt]

@[simp ↓] theorem State.cellReleaseAt_fixed (s : State) (c : Coord) : (s.cellReleaseAt c).fixed = s.fixed := by
  simp [State.cellReleaseAt]

@[simp ↓] theorem State.drainFlush_fixed (s : State) : s.drainFlush.fixed = s.fixed := by
  simp [State.drainFlush]

@[simp ↓] theorem State.setDrain_fixed (s : State) (v : Nat) : (s.setDrain v).fixed = s.fixed := by
  simp [State.setDrain]

@[simp ↓] theorem State.dropTransit_fixed (s : State) : s.dropTransit.fixed = s.fixed := by
  simp [State.dropTransit]

@[simp ↓] theorem State.relock_fixed (s : State) (f : Nat) : (s.relock f).fixed = s.fixed := by
  simp [State.relock]

@[simp ↓] theorem State.freqDone_fixed (s : State) (f : Nat) : (s.freqDone f).fixed = s.fixed := by
  simp [State.freqDone]

@[simp ↓] theorem State.pllBack_fixed (s : State) (f : Nat) : (s.pllBack f).fixed = s.fixed := by
  simp [State.pllBack]

@[simp ↓] theorem State.pgFall_fixed (s : State) (f : Nat) : (s.pgFall f).fixed = s.fixed := by
  simp [State.pgFall]

@[simp ↓] theorem State.calmPacket_fixed (s : State) (p : Nat) (pk : Packet) : (s.calmPacket p pk).fixed = s.fixed := by
  unfold State.calmPacket
  dsimp only
  (repeat' split) <;> simp

@[simp ↓] theorem State.calmSignal_fixed (s : State) (p : Nat) (sg : Signal) : (s.calmSignal p sg).fixed = s.fixed := by
  unfold State.calmSignal
  dsimp only
  (repeat' split) <;> simp

@[simp ↓] theorem State.calmItem_fixed (s : State) (p : Nat) (i : LinkItem) : (s.calmItem p i).fixed = s.fixed := by
  unfold State.calmItem
  (repeat' split) <;> simp

@[simp ↓] theorem State.testRise_fixed (s : State) : s.testRise.fixed = s.fixed := by
  simp [State.testRise]

@[simp ↓] theorem State.testFall_fixed (s : State) : s.testFall.fixed = s.fixed := by
  simp [State.testFall]

@[simp ↓] theorem State.modTap_fixed (s : State) (f : TapSt → TapSt) : (s.modTap f).fixed = s.fixed := by
  simp [State.modTap]

@[simp ↓] theorem State.tapBypass_fixed (s : State) (refused : Bool) : (s.tapBypass refused).fixed = s.fixed := by
  simp [State.tapBypass]

@[simp ↓] theorem State.tapDrive_fixed (s : State) (code : Nat) (update : List Bool) : (s.tapDrive code update).fixed = s.fixed := by
  simp [State.tapDrive]

@[simp ↓] theorem State.tapSample_fixed (s : State) (preload : List Bool) : (s.tapSample preload).fixed = s.fixed := by
  simp [State.tapSample]

@[simp ↓] theorem State.tapIdcode_fixed (s : State) : s.tapIdcode.fixed = s.fixed := by
  simp [State.tapIdcode]

@[simp ↓] theorem State.tapReset_fixed (s : State) : s.tapReset.fixed = s.fixed := by
  simp [State.tapReset]

/-! #### Machine/Pump.lean -/

@[simp ↓] theorem State.refusalCode_fixed (s : State) (c : Coord) (d : Nat) : (s.refusalCode c d).2.fixed = s.fixed := by
  simp [State.refusalCode]

@[simp ↓] theorem State.awaitReply_fixed (s : State) (c : Coord) (m : Cmd) : (s.awaitReply c m).fixed = s.fixed := by
  simp [State.awaitReply]

@[simp ↓] theorem State.readFailed_fixed (s : State) (c : Coord) (m : Cmd) : (s.readFailed c m).fixed = s.fixed := by
  simp [State.readFailed]

@[simp ↓] theorem State.sendStart_fixed (s : State) (c : Coord) (m : Cmd) : (s.sendStart c m).fixed = s.fixed := by
  simp [State.sendStart]

@[simp ↓] theorem State.barArriveStart_fixed (s : State) (c : Coord) (m : Cmd) : (s.barArriveStart c m).fixed = s.fixed := by
  simp [State.barArriveStart]

@[simp ↓] theorem State.tallyStart_fixed (s : State) (c : Coord) (m : Cmd) (op : Nat) : (s.tallyStart c m op).fixed = s.fixed := by
  simp [State.tallyStart]

@[simp ↓] theorem State.intStart_fixed (s : State) (c : Coord) (m : Cmd) : (s.intStart c m).fixed = s.fixed := by
  simp [State.intStart]

@[simp ↓] theorem State.dictGo_fixed (s : State) (c : Coord) (m : Cmd) : (s.dictGo c m).fixed = s.fixed := by
  simp [State.dictGo]

@[simp ↓] theorem State.dictStart_fixed (s : State) (c : Coord) (m : Cmd) : (s.dictStart c m).fixed = s.fixed := by
  simp [State.dictStart]

@[simp ↓] theorem State.watchStart_fixed (s : State) (c : Coord) (m : Cmd) : (s.watchStart c m).fixed = s.fixed := by
  simp [State.watchStart]

@[simp ↓] theorem State.watchGo_fixed (s : State) (c : Coord) (m : Cmd) : (s.watchGo c m).fixed = s.fixed := by
  simp [State.watchGo]

@[simp ↓] theorem State.watchAttach_fixed (s : State) (c : Coord) (m : Cmd) : (s.watchAttach c m).fixed = s.fixed := by
  simp [State.watchAttach]

@[simp ↓] theorem State.startCmd_fixed (s : State) (c : Coord) (m : Cmd) : (s.startCmd c m).fixed = s.fixed := by
  unfold State.startCmd
  split <;> simp

@[simp ↓] theorem State.startAll_fixed (s : State) (c : Coord) : (s.startAll c).fixed = s.fixed := by
  simp [State.startAll]

@[simp ↓] theorem State.fencesOn_fixed (s : State) (c : Coord) : (s.fencesOn c).fixed = s.fixed := by
  simp [State.fencesOn]

@[simp ↓] theorem State.workCmd_fixed (s : State) (c : Coord) (tag : Nat) : (s.workCmd c tag).fixed = s.fixed := by
  unfold State.workCmd
  dsimp only
  (repeat' split) <;> simp

@[simp ↓] theorem State.pathTidy_fixed (s : State) (c : Coord) : (s.pathTidy c).fixed = s.fixed := by
  simp [State.pathTidy]

@[simp ↓] theorem State.pumpRound_fixed (s : State) (c : Coord) : (s.pumpRound c).fixed = s.fixed := by
  simp [State.pumpRound]

@[simp ↓] theorem State.pumpRounds_fixed (s : State) (c : Coord) (fuel : Nat) : (s.pumpRounds c fuel).fixed = s.fixed := by
  induction fuel generalizing s with
  | zero => rfl
  | succ fuel ih =>
    simp [State.pumpRounds, ih]

@[simp ↓] theorem State.pump_fixed (s : State) (c : Coord) : (s.pump c).fixed = s.fixed := by
  simp [State.pump]

@[simp ↓] theorem State.linksRun_fixed (s : State) : s.linksRun.fixed = s.fixed := by
  simp [State.linksRun]

@[simp ↓] theorem State.intsDone_fixed (s : State) (fuel : Nat) : (s.intsDone fuel).fixed = s.fixed := by
  induction fuel generalizing s with
  | zero => rfl
  | succ fuel ih =>
    simp [State.intsDone, ih]

@[simp ↓] theorem State.done_fixed (s : State) : s.done.fixed = s.fixed := by
  simp [State.done]

@[simp ↓] theorem State.after_fixed (s : State) (c : Coord) : (s.after c).fixed = s.fixed := by
  simp [State.after]

@[simp ↓] theorem State.accepted_fixed (s : State) (c : Coord) (m : Cmd) : (s.accepted c m).fixed = s.fixed := by
  simp [State.accepted]

@[simp ↓] theorem State.accept_fixed (s : State) (c : Coord) (k : CmdKind) : (s.accept c k).fixed = s.fixed := by
  unfold State.accept
  dsimp only
  (repeat' split) <;> simp

@[simp ↓] theorem State.rsvNacked_fixed (s : State) (c : Coord) (r : SrcRsv) (reason bytes : Nat) :
    (s.rsvNacked c r reason bytes).fixed = s.fixed := by
  unfold State.rsvNacked
  dsimp only
  (repeat' split) <;> simp

@[simp ↓] theorem State.nackCell_fixed (s : State) (c : Coord) (n : Nack) : (s.nackCell c n).fixed = s.fixed := by
  unfold State.nackCell
  dsimp only
  (repeat' split) <;> simp

@[simp ↓] theorem State.nackAt_fixed (s : State) (n : Nack) : (s.nackAt n).fixed = s.fixed := by
  simp [State.nackAt]

@[simp ↓] theorem State.deliveredCell_fixed (s : State) (c : Coord) (d : Delivered) : (s.deliveredCell c d).fixed = s.fixed := by
  unfold State.deliveredCell
  dsimp only
  (repeat' split) <;> simp

@[simp ↓] theorem State.deliveredAt_fixed (s : State) (d : Delivered) : (s.deliveredAt d).fixed = s.fixed := by
  simp [State.deliveredAt]

@[simp ↓] theorem State.grantRecv_fixed (s : State) (c : Coord) (p : Packet) (t : TransferTail) : (s.grantRecv c p t).fixed = s.fixed := by
  unfold State.grantRecv
  dsimp only
  rw [State.after_fixed, State.grantAt_fixed, State.accounted_fixed]
  · simp
  · intro s r
    split <;> simp

/-! #### Machine/MemOps.lean -/

@[simp ↓] theorem State.fillRead_fixed (s : State) (c : Coord) (l lo hi : Nat) : (s.fillRead c l lo hi).fixed = s.fixed := by
  unfold State.fillRead
  split <;> simp

@[simp ↓] theorem State.rowUnread_fixed (s : State) (c : Coord) (m : Cmd) (r : SrcRsv) : (s.rowUnread c m r).fixed = s.fixed := by
  simp [State.rowUnread]

@[simp ↓] theorem State.dataUnread_fixed (s : State) (c : Coord) (l typ tag n : Nat) (r : SrcRsv) (back : Bool) :
    (s.dataUnread c l typ tag n r back).fixed = s.fixed := by
  unfold State.dataUnread
  dsimp only
  (repeat' split) <;> simp

@[simp ↓] theorem State.pktUnread_fixed (s : State) (c : Coord) (u : ReadUse) (typ cls tag n lo hi : Nat) :
    (s.pktUnread c u typ cls tag n lo hi).fixed = s.fixed := by
  unfold State.pktUnread
  dsimp only
  (repeat' split) <;> simp

@[simp ↓] theorem State.replyUnread_fixed (s : State) (c : Coord) (u : ReadUse) (who : SrcAddr) (tag n off lo hi : Nat) :
    (s.replyUnread c u who tag n off lo hi).fixed = s.fixed := by
  simp [State.replyUnread]

@[simp ↓] theorem State.entryUnread_fixed (s : State) (c : Coord) (tag j : Nat) : (s.entryUnread c tag j).fixed = s.fixed := by
  unfold State.entryUnread
  dsimp only
  (repeat' split) <;> simp

@[simp ↓] theorem State.entryRead_fixed (s : State) (c : Coord) (tag j : Nat) : (s.entryRead c tag j).fixed = s.fixed := by
  unfold State.entryRead
  split <;> simp

@[simp ↓] theorem State.wholeRead_fixed (s : State) (c : Coord) (tag : Nat) (u : ReadUse) (err : Bool) {go : State → Cmd → State}
    (hgo : ∀ s m, (go s m).fixed = s.fixed) : (s.wholeRead c tag u err go).fixed = s.fixed := by
  unfold State.wholeRead
  (repeat' split) <;> simp [hgo]

@[simp ↓] theorem State.readsIn_fixed (s : State) (c : Coord) (typ tag n : Nat) : (s.readsIn c typ tag n).fixed = s.fixed := by
  unfold State.readsIn
  (repeat' split) <;> simp

@[simp ↓] theorem State.readTaken_fixed (s : State) (c : Coord) (r : MemRead) (err : Bool) : (s.readTaken c r err).fixed = s.fixed := by
  unfold State.readTaken
  split <;> simp

@[simp ↓] theorem State.memAnswer_fixed (s : State) (c : Coord) (err : Bool) : (s.memAnswer c err).fixed = s.fixed := by
  unfold State.memAnswer
  dsimp only
  split <;> simp

@[simp ↓] theorem State.memAck_fixed (s : State) (c : Coord) : (s.memAck c).fixed = s.fixed := by
  simp [State.memAck]

/-! #### Machine/CellCmds.lean -/

@[simp ↓] theorem State.present_fixed (s : State) (c : Coord) (core d : Nat) : (s.present c core d).fixed = s.fixed := by
  simp [State.present]

@[simp ↓] theorem State.direct_fixed {s run : State} (hrun : run.fixed = s.fixed) (c : Coord) : (s.direct c run).fixed = s.fixed := by
  simp [State.direct, hrun]

@[simp ↓] theorem State.blockingWait_fixed (s : State) (c : Coord) (core tag k v : Nat) : (s.blockingWait c core tag k v).fixed = s.fixed := by
  unfold State.blockingWait
  split <;> simp

/-! #### Machine/ChanCmds.lean -/

@[simp ↓] theorem State.chWait_fixed (s : State) (c : Coord) (core tag n : Nat) : (s.chWait c core tag n).fixed = s.fixed := by
  unfold State.chWait
  split <;> simp

@[simp ↓] theorem State.chAdvanceOp_fixed (s : State) (c : Coord) (core tag n h g : Nat) : (s.chAdvanceOp c core tag n h g).fixed = s.fixed := by
  simp [State.chAdvanceOp]

/-! #### Machine/RouterCmds.lean -/

@[simp ↓] theorem State.offWire_fixed (s : State) (c : Coord) (q : Nat) (cw : List Byte) (side : Nat) : (s.offWire c q cw side).fixed = s.fixed := by
  simp [State.offWire]

@[simp ↓] theorem State.beatIn_fixed (s : State) (c : Coord) (q : Nat) (cw : List Byte) (side : Nat) : (s.beatIn c q cw side).fixed = s.fixed := by
  simp [State.beatIn]

@[simp ↓] theorem State.offMarker_fixed (s : State) (c : Coord) (q : Nat) : (s.offMarker c q).fixed = s.fixed := by
  simp [State.offMarker]

/-! #### Machine/SignalCmds.lean -/

@[simp ↓] theorem State.intRecv_fixed (s : State) (c : Coord) (core origin arg32 : Nat) : (s.intRecv c core origin arg32).fixed = s.fixed := by
  simp [State.intRecv]

@[simp ↓] theorem State.wakeRecv_fixed (s : State) (f arg8 : Nat) : (s.wakeRecv f arg8).fixed = s.fixed := by
  unfold State.wakeRecv
  dsimp only
  split <;> simp

/-! #### Machine/BulkCmds.lean -/

@[simp ↓] theorem State.onTransfer_fixed {s : State} {f : TransferTail → State} (hf : ∀ t, (f t).fixed = s.fixed) (c : Coord)
    (p : Packet) (typs : List Nat) : (s.onTransfer c p typs f).fixed = s.fixed := by
  unfold State.onTransfer
  split <;> simp [hf]

@[simp ↓] theorem State.cellRuns_fixed {s run : State} (hrun : run.fixed = s.fixed) (c : Coord) (p : Packet) :
    (s.cellRuns c p run).fixed = s.fixed :=
  State.fixed_getD State.resetDrop_fixed hrun

@[simp ↓] theorem State.reserveAt_fixed (s : State) (x : Site) (p : Packet) (t : TransferTail) : (s.reserveAt x p t).fixed = s.fixed := by
  unfold State.reserveAt
  split <;> simp

@[simp ↓] theorem State.grantSite_fixed (s : State) (x : Site) : (s.grantSite x).fixed = s.fixed := by
  unfold State.grantSite
  split <;> simp

@[simp ↓] theorem State.putDataAt_fixed (s : State) (x : Site) (p : Packet) (t : TransferTail) : (s.putDataAt x p t).fixed = s.fixed := by
  unfold State.putDataAt
  split <;> simp

@[simp ↓] theorem State.filledAt_fixed (s : State) (x : Site) (k : RsvKey) : (s.filledAt x k).fixed = s.fixed := by
  unfold State.filledAt
  split <;> simp

@[simp ↓] theorem State.releaseSite_fixed (s : State) (x : Site) (p : Packet) (t : TransferTail) : (s.releaseSite x p t).fixed = s.fixed := by
  unfold State.releaseSite
  split <;> simp

@[simp ↓] theorem State.getReqAt_fixed (s : State) (x : Site) (p : Packet) (t : TransferTail) : (s.getReqAt x p t).fixed = s.fixed := by
  unfold State.getReqAt
  split <;> simp

@[simp ↓] theorem State.getDataAt_fixed (s : State) (c : Coord) (p : Packet) (t : TransferTail) : (s.getDataAt c p t).fixed = s.fixed := by
  simp [State.getDataAt]

@[simp ↓] theorem State.mresRecv_fixed (s : State) (a : MresArrive) : (s.mresRecv a).fixed = s.fixed := by
  simp [State.mresRecv]

@[simp ↓] theorem State.mcastRecv_fixed (s : State) (c : Coord) (p : Packet) (t : RectTail) : (s.mcastRecv c p t).fixed = s.fixed := by
  simp [State.mcastRecv]

/-! #### Machine/CollCmds.lean -/

@[simp ↓] theorem onColl_fixed {s t : State} (ht : t.fixed = s.fixed) (c : Coord) (p : Packet) (typs : List Nat) :
    (onColl c p typs s t).fixed = s.fixed := by
  unfold onColl
  split <;> simp [ht]

@[simp ↓] theorem State.sweepRecv_fixed (s : State) (c : Coord) (p : Packet) : (s.sweepRecv c p).fixed = s.fixed := by
  simp [State.sweepRecv]

@[simp ↓] theorem State.rootRecv_fixed (s : State) (c : Coord) (p : Packet) : (s.rootRecv c p).fixed = s.fixed := by
  simp [State.rootRecv]

/-! #### Machine/MemCmds.lean -/

@[simp ↓] theorem State.onTable_fixed {s : State} {f : TableTail → State} (hf : ∀ t, (f t).fixed = s.fixed) (c : Coord) (p : Packet)
    (typ : Nat) : (s.onTable c p typ f).fixed = s.fixed := by
  unfold State.onTable
  split <;> simp [hf]

@[simp ↓] theorem State.gatherDataAt_fixed (s : State) (c : Coord) (p : Packet) (t : TableTail) : (s.gatherDataAt c p t).fixed = s.fixed := by
  simp [State.gatherDataAt]

@[simp ↓] theorem State.scatterDataAt_fixed (s : State) (st d : Nat) (p : Packet) : (s.scatterDataAt st d p).fixed = s.fixed := by
  simp [State.scatterDataAt]

@[simp ↓] theorem answerClose_fixed (s : State) (r : DictReq) : (answerClose s r).fixed = s.fixed := by
  simp [answerClose]

/-! #### Machine/DictCmds.lean -/

@[simp ↓] theorem State.served_fixed (s : State) (r : DictReq) : (s.served r).fixed = s.fixed := by
  simp [State.served]

@[simp ↓] theorem State.replyRecv_fixed (s : State) (r : DictRsp) : (s.replyRecv r).fixed = s.fixed := by
  simp [State.replyRecv]

/-! ### Operations that let time pass -/

/-- The build and the queue as they were, and the time not earlier. -/
def Fixed.Onward (k l : Fixed) : Prop := l.build = k.build ∧ l.queue = k.queue ∧ k.time ≤ l.time

@[simp] theorem Fixed.onward_refl (k : Fixed) : k.Onward k := ⟨rfl, rfl, Nat.le_refl _⟩

theorem Fixed.Onward.trans {k l m : Fixed} (h : k.Onward l) (h' : l.Onward m) : k.Onward m :=
  ⟨h'.1.trans h.1, h'.2.1.trans h.2.1, Nat.le_trans h.2.2 h'.2.2⟩

@[simp] theorem Fixed.onward_ite {k l m : Fixed} {p : Prop} [Decidable p] :
    k.Onward (if p then l else m) ↔ if p then k.Onward l else k.Onward m := by
  split <;> rfl

/-- To wait for a moment never takes the time back. -/
@[simp] theorem State.time_le_max (s : State) (moment : Nat) : s.time ≤ max s.time moment := Nat.le_max_left _ _

/-- The clock of the state is moved on, and what is no part of `State.fixed` may change with it. -/
@[simp ↓] theorem State.onward_mk {k : Fixed} {s : State} {x_time : Nat} {x_regs : SMap Nat} {x_tabs : SMap Memory}
    {x_recs : SMap (List Nat)} {x_strikes : SMap (List Nat)} {x_cells : SMap CellSt} {x_cellMem : SMap Memory} {x_fields : SMap FieldSt}
    {x_holes : List HoleRec} {x_badTracks x_badStops : List (Axis × Coord)} {x_rtrs : SMap RtrSt} {x_wires : List WireBeat}
    {x_sigWires : List WireSig} {x_recloses : List Reclose} {x_fences : List FaultBlock} {x_bars : SMap BarSt} {x_route : RouteView}
    {x_armed : SMap (Option ArmSt)} {x_colls : SMap CollSt} {x_drops : SMap DropSt} {x_ports : SMap PortSt} {x_linkOut : List SentFrame}
    {x_eng : EngSt} {x_flight : List Packet} {x_sigs : List Signal} {x_answers : List Answer} {x_freeCtr : Nat}
    (hk : k.Onward s.fixed) (ht : s.time ≤ x_time) :
    k.Onward (State.mk s.build x_time x_regs x_tabs x_recs x_strikes x_cells x_cellMem x_fields x_holes x_badTracks x_badStops x_rtrs
      x_wires x_sigWires x_recloses x_fences x_bars x_route x_armed x_colls x_drops x_ports x_linkOut x_eng x_flight x_sigs x_answers
      x_freeCtr s.pending).fixed :=
  hk.trans ⟨rfl, rfl, ht⟩

theorem State.onward_foldl {α : Type} {k : Fixed} {f : State → α → State} (hf : ∀ s a, k.Onward s.fixed → k.Onward (f s a).fixed)
    (l : List α) {s : State} (hk : k.Onward s.fixed) : k.Onward (l.foldl f s).fixed := by
  induction l generalizing s with
  | nil => exact hk
  | cons a l ih =>
    rw [List.foldl_cons]
    exact ih (hf s a hk)

@[simp] theorem State.clocked_onward {k : Fixed} {s t : State} (hs : k.Onward s.fixed) (ht : k.Onward t.fixed) (c : Coord) :
    k.Onward (s.clocked c t).fixed := by
  simp [State.clocked, hs, ht]

/-! #### Machine/Ops.lean -/

@[simp] theorem State.awaitFt_onward {k : Fixed} {s : State} (hk : k.Onward s.fixed) (f g : Nat) : k.Onward (s.awaitFt f g).fixed := by
  simp [State.awaitFt, hk]

/-! #### Machine/Router.lean -/

@[simp] theorem State.lookahead_onward {k : Fixed} {s : State} (hk : k.Onward s.fixed) (c : Coord) (p : Nat) :
    k.Onward (s.lookahead c p).fixed := by
  unfold State.lookahead
  extract_lets f s1 o held t s2 sample l
  have h2 : k.Onward s2.fixed := by
    have h1 : k.Onward s1.fixed := by simp [s1, hk]
    unfold s2
    split
    · exact h1
    · exact State.onward_mk (by simp [t, h1]) (Nat.le_max_left _ _)
  split
  · simp [h2]
  · split <;> simp [h2]

@[simp] theorem State.gustDecision_onward {k : Fixed} {s : State} (hk : k.Onward s.fixed) (c : Coord) (p : Nat) :
    k.Onward (s.gustDecision c p).fixed := by
  simp [State.gustDecision, hk]

/-! #### Machine/LandOps.lean -/

@[simp] theorem State.expireCell_onward {k : Fixed} {s : State} (hk : k.Onward s.fixed) (c : Coord) (key : RsvKey)
    {endOwn : State → LRsv → State} (he : ∀ s r, (endOwn s r).fixed = s.fixed) : k.Onward (s.expireCell c key endOwn).fixed := by
  unfold State.expireCell
  dsimp only
  (repeat' split) <;> simp [hk, he]

@[simp] theorem State.timeoutRsv_onward {k : Fixed} {s : State} (hk : k.Onward s.fixed) (c : Coord) (r : SrcRsv) :
    k.Onward (s.timeoutRsv c r).fixed := by
  unfold State.timeoutRsv
  split <;> simp [hk]

@[simp] theorem State.callLimitCell_onward {k : Fixed} {s : State} (hk : k.Onward s.fixed) (c : Coord) (mid : Nat) :
    k.Onward (s.callLimitCell c mid).fixed := by
  unfold State.callLimitCell
  split <;> simp [hk]

/-! #### Machine/RingOps.lean -/

@[simp] theorem State.creditBeatInsert_onward {k : Fixed} {s : State} (hk : k.Onward s.fixed) (c : Coord) (p : Nat) :
    k.Onward (s.creditBeatInsert c p).fixed := by
  unfold State.creditBeatInsert
  split <;> simp [hk]

@[simp] theorem State.windowBoundary_onward {k : Fixed} {s : State} (hk : k.Onward s.fixed) (c : Coord) (p : Nat) :
    k.Onward (s.windowBoundary c p).fixed := by
  simp [State.windowBoundary, hk]

@[simp] theorem State.claimArise_onward {k : Fixed} {s : State} (hk : k.Onward s.fixed) (c : Coord) (p : Nat) :
    k.Onward (s.claimArise c p).fixed := by
  simp [State.claimArise, hk]

@[simp] theorem State.claimLapse_onward {k : Fixed} {s : State} (hk : k.Onward s.fixed) (c : Coord) (p : Nat) :
    k.Onward (s.claimLapse c p).fixed := by
  unfold State.claimLapse
  dsimp only
  split <;> simp [hk]

@[simp] theorem State.slotApply_onward {k : Fixed} {s : State} (hk : k.Onward s.fixed) (c : Coord) (p : Nat) : k.Onward (s.slotApply c p).fixed := by
  unfold State.slotApply
  split <;> simp [hk]

@[simp] theorem State.syncRetry_onward {k : Fixed} {s : State} (hk : k.Onward s.fixed) (c : Coord) (p : Nat) : k.Onward (s.syncRetry c p).fixed := by
  unfold State.syncRetry
  split <;> simp [hk]

@[simp] theorem State.creditSignal_onward {k : Fixed} {s : State} (hk : k.Onward s.fixed) (c : Coord) (q : Nat) :
    k.Onward (s.creditSignal c q).fixed := by
  unfold State.creditSignal
  dsimp only
  split <;> simp [hk]

/-! #### Machine/SigOps.lean -/

@[simp] theorem State.barTimeout_onward {κ : Fixed} {s : State} (hk : κ.Onward s.fixed) (k : Nat) : κ.Onward (s.barTimeout k).fixed := by
  simp [State.barTimeout, hk]

/-! #### Machine/PortOps.lean -/

@[simp] theorem State.creditUnit_onward {k : Fixed} {s : State} (hk : k.Onward s.fixed) (p : Nat) : k.Onward (s.creditUnit p).fixed := by
  simp [State.creditUnit, hk]

/-! #### Machine/LinkOps.lean -/

@[simp] theorem State.trainingTimeout_onward {k : Fixed} {s : State} (hk : k.Onward s.fixed) (p : Nat) : k.Onward (s.trainingTimeout p).fixed := by
  simp [State.trainingTimeout, hk]

@[simp] theorem State.helloTimeout_onward {k : Fixed} {s : State} (hk : k.Onward s.fixed) (p : Nat) : k.Onward (s.helloTimeout p).fixed := by
  simp [State.helloTimeout, hk]

@[simp] theorem State.oldKeyEnd_onward {k : Fixed} {s : State} (hk : k.Onward s.fixed) (p : Nat) : k.Onward (s.oldKeyEnd p).fixed := by
  unfold State.oldKeyEnd
  split <;> simp [hk]

@[simp] theorem State.originate322_onward {k : Fixed} {s : State} (hk : k.Onward s.fixed) (atOnce : Bool) :
    k.Onward (s.originate322 atOnce).fixed := by
  simp [State.originate322, hk]

@[simp] theorem State.noteAt322_onward {k : Fixed} {s : State} (hk : k.Onward s.fixed) (p : Nat) (n : Note) : k.Onward (s.noteAt322 p n).fixed := by
  unfold State.noteAt322
  split <;> simp [hk]

@[simp] theorem State.noteExpiry_onward {k : Fixed} {s : State} (hk : k.Onward s.fixed) (origin : Nat) : k.Onward (s.noteExpiry origin).fixed := by
  unfold State.noteExpiry
  split <;> simp [hk]

@[simp] theorem State.nakRepeat_onward {k : Fixed} {s : State} (hk : k.Onward s.fixed) (p : Nat) : k.Onward (s.nakRepeat p).fixed := by
  simp [State.nakRepeat, hk]

@[simp] theorem State.replayTimeout_onward {k : Fixed} {s : State} (hk : k.Onward s.fixed) (p : Nat) : k.Onward (s.replayTimeout p).fixed := by
  simp [State.replayTimeout, hk]

@[simp] theorem State.transitExpiry_onward {κ : Fixed} {s : State} (hk : κ.Onward s.fixed) (p : Nat) (k : RsvKey) :
    κ.Onward (s.transitExpiry p k).fixed := by
  unfold State.transitExpiry
  split <;> simp [hk]

@[simp] theorem State.holdEnd_onward {k : Fixed} {s : State} (hk : k.Onward s.fixed) (p : Nat) : k.Onward (s.holdEnd p).fixed := by
  simp [State.holdEnd, hk]

@[simp] theorem State.upHold_onward {k : Fixed} {s : State} (hk : k.Onward s.fixed) (p : Nat) : k.Onward (s.upHold p).fixed := by
  simp [State.upHold, hk]

@[simp] theorem State.flapReset_onward {k : Fixed} {s : State} (hk : k.Onward s.fixed) (p : Nat) : k.Onward (s.flapReset p).fixed := by
  simp [State.flapReset, hk]

@[simp] theorem State.deadTime_onward {k : Fixed} {s : State} (hk : k.Onward s.fixed) (p : Nat) : k.Onward (s.deadTime p).fixed := by
  simp [State.deadTime, hk]

@[simp] theorem State.stallTime_onward {k : Fixed} {s : State} (hk : k.Onward s.fixed) (p : Nat) : k.Onward (s.stallTime p).fixed := by
  unfold State.stallTime
  split <;> simp [hk]

/-! #### Machine/CollEvents.lean -/

@[simp] theorem State.colOriginate_onward {k : Fixed} {s : State} (hk : k.Onward s.fixed) (c : Coord) (ph : Nat) (i : SliceId) :
    k.Onward (s.colOriginate c ph i).fixed := by
  unfold State.colOriginate
  dsimp only
  (repeat' split) <;> simp [hk]

@[simp] theorem State.columnOriginate_onward {k : Fixed} {s : State} (hk : k.Onward s.fixed) (c : Coord) (i : SliceId) :
    k.Onward (s.columnOriginate c i).fixed := by
  simp [State.columnOriginate, hk]

@[simp] theorem State.waitExpiry_onward {k : Fixed} {s : State} (hk : k.Onward s.fixed) (c : Coord) (i : SliceId) (ks : List SlotKind) :
    k.Onward (s.waitExpiry c i ks).fixed := by
  unfold State.waitExpiry
  refine State.onward_foldl (fun s ph hk => ?_) _ hk
  (repeat' split) <;> simp [hk]

@[simp] theorem State.orphanExpiry_onward {k : Fixed} {s : State} (hk : k.Onward s.fixed) (c : Coord) (i : SliceId) :
    k.Onward (s.orphanExpiry c i).fixed := by
  unfold State.orphanExpiry
  refine State.onward_foldl (fun s ph hk => ?_) _ ?_
  · split <;> simp [hk]
  · (repeat' split) <;> simp [hk]

@[simp] theorem State.rootExpiry_onward {k : Fixed} {s : State} (hk : k.Onward s.fixed) (c : Coord) (ph : Nat) (i : SliceId) :
    k.Onward (s.rootExpiry c ph i).fixed := by
  unfold State.rootExpiry
  dsimp only
  (repeat' split) <;> simp [hk]

@[simp] theorem State.leaseExpiry_onward {k : Fixed} {s : State} (hk : k.Onward s.fixed) (c : Coord) (i : SliceId) :
    k.Onward (s.leaseExpiry c i).fixed :=
  State.rootExpiry_onward (State.rootExpiry_onward (State.rootExpiry_onward hk c 1 i) c 2 i) c 3 i

@[simp] theorem State.anchorExpiry_onward {k : Fixed} {s : State} (hk : k.Onward s.fixed) (c : Coord) (i : SliceId) :
    k.Onward (s.anchorExpiry c i).fixed := by
  simp [State.anchorExpiry, hk]

@[simp] theorem State.memberDeadline_onward {k : Fixed} {s : State} (hk : k.Onward s.fixed) (c : Coord) (i : SliceId) :
    k.Onward (s.memberDeadline c i).fixed := by
  unfold State.memberDeadline
  split <;> simp [hk]

/-! #### Machine/ExchOps.lean -/

@[simp] theorem State.exchDeadline_onward {k : Fixed} {s : State} (hk : k.Onward s.fixed) (c : Coord) (i : SliceId) :
    k.Onward (s.exchDeadline c i).fixed := by
  unfold State.exchDeadline
  split <;> simp [hk]

/-! #### Machine/LevelOps.lean -/

@[simp] theorem State.lvWaitExpiry_onward {k : Fixed} {s : State} (hk : k.Onward s.fixed) (p l : Nat) (i : SliceId) :
    k.Onward (s.lvWaitExpiry p l i).fixed := by
  unfold State.lvWaitExpiry
  refine State.onward_foldl (fun s ph hk => ?_) _ hk
  (repeat' split) <;> simp [hk]

@[simp] theorem State.lvOrphan_onward {k : Fixed} {s : State} (hk : k.Onward s.fixed) (p l : Nat) (i : SliceId) :
    k.Onward (s.lvOrphan p l i).fixed := by
  unfold State.lvOrphan
  refine State.onward_foldl (fun s ph hk => ?_) _ hk
  dsimp only
  (repeat' split) <;> simp [hk]

@[simp] theorem State.lvRootExpiry_onward {k : Fixed} {s : State} (hk : k.Onward s.fixed) (p ph l : Nat) (i : SliceId) :
    k.Onward (s.lvRootExpiry p ph l i).fixed := by
  unfold State.lvRootExpiry
  split <;> simp [hk]

@[simp] theorem State.lvLeaseExpiry_onward {k : Fixed} {s : State} (hk : k.Onward s.fixed) (p l : Nat) (i : SliceId) :
    k.Onward (s.lvLeaseExpiry p l i).fixed := by
  simp [State.lvLeaseExpiry, hk]

@[simp] theorem State.lvAnchorExpiry_onward {k : Fixed} {s : State} (hk : k.Onward s.fixed) (p l : Nat) (i : SliceId) :
    k.Onward (s.lvAnchorExpiry p l i).fixed := by
  simp [State.lvAnchorExpiry, hk]

/-! #### Machine/DropOps.lean -/

@[simp] theorem State.dropExpire_onward {κ : Fixed} {s : State} (hk : κ.Onward s.fixed) (st d : Nat) (k : RsvKey) :
    κ.Onward (s.dropExpire st d k).fixed := by
  unfold State.dropExpire
  dsimp only
  split <;> simp [hk]

@[simp] theorem State.coalescerReply_onward {k : Fixed} {s : State} (hk : k.Onward s.fixed) (st tdesc row : Nat) :
    k.Onward (s.coalescerReply st tdesc row).fixed := by
  unfold State.coalescerReply
  dsimp only
  split <;> simp [hk]

@[simp] theorem State.flushLimit_onward {k : Fixed} {s : State} (hk : k.Onward s.fixed) (tdesc : Nat)
    {answer : State → DictReq → State} (ha : ∀ s r, (answer s r).fixed = s.fixed) :
    k.Onward (s.flushLimit tdesc answer).fixed := by
  unfold State.flushLimit
  split <;> simp [hk, ha]

@[simp] theorem State.strmLimit_onward {k : Fixed} {s : State} (hk : k.Onward s.fixed) (src : SrcAddr) (mid : Nat) :
    k.Onward (s.strmLimit src mid).fixed := by
  unfold State.strmLimit
  (repeat' split) <;> simp [hk]

@[simp] theorem State.txnTimeout_onward {k : Fixed} {s : State} (hk : k.Onward s.fixed) (st d tag : Nat) :
    k.Onward (s.txnTimeout st d tag).fixed := by
  unfold State.txnTimeout
  split <;> simp [hk]

/-! #### Machine/PowerOps.lean -/

@[simp] theorem State.droop_onward {k : Fixed} {s : State} (hk : k.Onward s.fixed) (f n : Nat) : k.Onward (s.droop f n).fixed := by
  simp [State.droop, hk]

@[simp] theorem State.breezeEntry_onward {k : Fixed} {s : State} (hk : k.Onward s.fixed) (f : Nat) : k.Onward (s.breezeEntry f).fixed := by
  simp [State.breezeEntry, hk]

@[simp] theorem State.lullEntry_onward {k : Fixed} {s : State} (hk : k.Onward s.fixed) (f : Nat) : k.Onward (s.lullEntry f).fixed := by
  simp [State.lullEntry, hk]

@[simp] theorem State.lullDone_onward {k : Fixed} {s : State} (hk : k.Onward s.fixed) (f : Nat) : k.Onward (s.lullDone f).fixed := by
  simp [State.lullDone, hk]

@[simp] theorem State.wakeHoldEnd_onward {k : Fixed} {s : State} (hk : k.Onward s.fixed) (f : Nat) : k.Onward (s.wakeHoldEnd f).fixed := by
  unfold State.wakeHoldEnd
  split <;> simp [hk]

@[simp] theorem State.announce_onward {k : Fixed} {s : State} (hk : k.Onward s.fixed) (st : Nat) : k.Onward (s.announce st).fixed := by
  simp [State.announce, hk]

@[simp] theorem State.calmEntry_onward {k : Fixed} {s : State} (hk : k.Onward s.fixed) : k.Onward s.calmEntry.fixed := by
  simp [State.calmEntry, hk]

@[simp] theorem State.stillEntry_onward {k : Fixed} {s : State} (hk : k.Onward s.fixed) : k.Onward s.stillEntry.fixed := by
  simp [State.stillEntry, hk]

@[simp] theorem State.engineUp_onward {k : Fixed} {s : State} (hk : k.Onward s.fixed) : k.Onward s.engineUp.fixed := by
  simp [State.engineUp, hk]

@[simp] theorem State.engineWake_onward {k : Fixed} {s : State} (hk : k.Onward s.fixed) (cause : Nat) : k.Onward (s.engineWake cause).fixed := by
  simp [State.engineWake, hk]

@[simp] theorem State.compFire_onward {k : Fixed} {s : State} (hk : k.Onward s.fixed) (i : Nat) : k.Onward (s.compFire i).fixed := by
  simp [State.compFire, hk]

/-! #### Machine/ObsOps.lean -/

@[simp] theorem State.traceSend_onward {k : Fixed} {s : State} (hk : k.Onward s.fixed) (c : Coord) (source : Nat) :
    k.Onward (s.traceSend c source).fixed := by
  unfold State.traceSend
  split
  · exact hk
  · extract_lets n s1 seq size
    have h1 : k.Onward s1.fixed := by simp [s1, hk]
    split
    · exact h1
    · next u hu => simp [State.routerTransfer_fixed u hu, h1]

@[simp] theorem State.sweepSample_onward {k : Fixed} {s : State} (hk : k.Onward s.fixed) (c : Coord) : k.Onward (s.sweepSample c).fixed := by
  unfold State.sweepSample
  split <;> simp [hk]

/-! #### Machine/DualOps.lean -/

@[simp] theorem State.checkWaitEnd_onward {k : Fixed} {s : State} (hk : k.Onward s.fixed) (c : Coord) (i : SliceId) :
    k.Onward (s.checkWaitEnd c i).fixed := by
  unfold State.checkWaitEnd
  dsimp only
  (repeat' split) <;> simp [hk]

@[simp] theorem State.thirdWaitEnd_onward {k : Fixed} {s : State} (hk : k.Onward s.fixed) (c : Coord) (i : SliceId) :
    k.Onward (s.thirdWaitEnd c i).fixed := by
  unfold State.thirdWaitEnd
  split <;> simp [hk]

/-! #### Machine/DictCommit.lean -/

@[simp] theorem State.commitLimit_onward {k : Fixed} {s : State} (hk : k.Onward s.fixed) (lagging : List Nat) :
    k.Onward (s.commitLimit lagging).fixed := by
  unfold State.commitLimit
  (repeat' split) <;> simp [hk]

@[simp] theorem State.groupLease_onward {k : Fixed} {s : State} (hk : k.Onward s.fixed) (w : Requester) : k.Onward (s.groupLease w).fixed := by
  unfold State.groupLease
  split <;> simp [hk]

/-! #### Machine/DictServe.lean -/

@[simp] theorem State.dictSegmentEnd_onward {k : Fixed} {s : State} (hk : k.Onward s.fixed) (f : Nat) (w : Requester) (tag : Nat) :
    k.Onward (s.dictSegmentEnd f w tag).fixed := by
  unfold State.dictSegmentEnd
  split <;> simp [hk]

@[simp] theorem State.mgmtTimeout_onward {k : Fixed} {s : State} (hk : k.Onward s.fixed) (mtag : Nat) : k.Onward (s.mgmtTimeout mtag).fixed := by
  unfold State.mgmtTimeout
  split <;> simp [hk]

/-! #### Machine/BootOps.lean -/

@[simp] theorem State.upTo_onward {k : Fixed} {s : State} (hk : k.Onward s.fixed) (t : Nat) : k.Onward (s.upTo t).fixed := by
  simp [State.upTo, hk]

@[simp] theorem State.bootRetry_onward {k : Fixed} {s : State} (hk : k.Onward s.fixed) : k.Onward s.bootRetry.fixed := by
  simp [State.bootRetry, hk]

@[simp] theorem State.bootWave_onward {k : Fixed} {s : State} (hk : k.Onward s.fixed) (f : Nat) : k.Onward (s.bootWave f).fixed := by
  unfold State.bootWave
  dsimp only
  (repeat' split) <;> simp [hk]

@[simp] theorem State.bootSignal_onward {k : Fixed} {s : State} (hk : k.Onward s.fixed) (ok : Bool) : k.Onward (s.bootSignal ok).fixed := by
  simp [State.bootSignal, hk]

@[simp] theorem State.bootDrops_onward {k : Fixed} {s : State} (hk : k.Onward s.fixed) : k.Onward s.bootDrops.fixed := by
  unfold State.bootDrops
  extract_lets late asked due s1 s2
  have h1 : k.Onward s1.fixed := State.onward_foldl (fun s t hk => State.upTo_onward hk t) _ hk
  have h2 : s2.fixed = s1.fixed := by simp [s2]
  split
  · exact hk
  · simp [h2, h1]

@[simp] theorem State.bootLinks_onward {k : Fixed} {s : State} (hk : k.Onward s.fixed) : k.Onward s.bootLinks.fixed := by
  simp [State.bootLinks, hk]

/-! #### Machine/ResetOps.lean -/

@[simp] theorem State.drainAdvance_onward {k : Fixed} {s : State} (hk : k.Onward s.fixed) : k.Onward s.drainAdvance.fixed := by
  unfold State.drainAdvance
  split <;> simp [hk]

@[simp] theorem State.drainLimitEnd_onward {k : Fixed} {s : State} (hk : k.Onward s.fixed) : k.Onward s.drainLimitEnd.fixed := by
  unfold State.drainLimitEnd
  dsimp only
  split
  · exact hk
  · rw [State.fixed_foldl]
    · simp [hk]
    · intro s e
      rw [State.fixed_foldl (by simp), State.fixed_foldl (by simp)]

@[simp] theorem State.pllDead_onward {k : Fixed} {s : State} (hk : k.Onward s.fixed) (f : Nat) : k.Onward (s.pllDead f).fixed := by
  simp [State.pllDead, hk]

/-! #### Machine/Pump.lean -/

@[simp] theorem State.replyLate_onward {k : Fixed} {s : State} (hk : k.Onward s.fixed) (c : Coord) (slot : Nat) :
    k.Onward (s.replyLate c slot).fixed := by
  unfold State.replyLate
  (repeat' split) <;> simp [hk]

@[simp] theorem State.bulkLate_onward {k : Fixed} {s : State} (hk : k.Onward s.fixed) (c : Coord) (rsv : Nat) :
    k.Onward (s.bulkLate c rsv).fixed := by
  unfold State.bulkLate
  (repeat' split) <;> simp [hk]

/-! #### Machine/CellCmds.lean -/

@[simp] theorem State.waitLate_onward {κ : Fixed} {s : State} (hk : κ.Onward s.fixed) (c : Coord) (core k : Nat) :
    κ.Onward (s.waitLate c core k).fixed := by
  unfold State.waitLate
  split <;> simp [hk]

/-! #### Machine/ChanCmds.lean -/

@[simp] theorem State.chWaitLate_onward {k : Fixed} {s : State} (hk : k.Onward s.fixed) (c : Coord) (core n : Nat) :
    k.Onward (s.chWaitLate c core n).fixed := by
  unfold State.chWaitLate
  split <;> simp [hk]

/-! #### Machine/BulkCmds.lean -/

@[simp] theorem State.leaseAt_onward {κ : Fixed} {s : State} (hk : κ.Onward s.fixed) (x : Site) (k : RsvKey) :
    κ.Onward (s.leaseAt x k).fixed := by
  have own (c : Coord) (s : State) (r : LRsv) : (match r.kind with
      | .gather _ => s.expireGather c r
      | _ => s.expireOwn c r).fixed = s.fixed := by
    split <;> simp
  unfold State.leaseAt
  split
  · rw [State.after_fixed]
    exact State.expireCell_onward hk _ _ (own _)
  · simp [hk]
  · simp [hk]

@[simp] theorem State.callLate_onward {k : Fixed} {s : State} (hk : k.Onward s.fixed) (source : SrcAddr) (mid : Nat) :
    k.Onward (s.callLate source mid).fixed := by
  simp [State.callLate, hk]

/-! #### Machine/ObsCmds.lean -/

@[simp] theorem State.chunkSend_onward {k : Fixed} {s : State} (hk : k.Onward s.fixed) (c : Coord) (source : Nat) :
    k.Onward (s.chunkSend c source).fixed := by
  simp [State.chunkSend, hk]

/-! ### Commands and steps -/

/-- The next state an outcome answers, if it answers one, is onward. -/
def OutOnward (k : Fixed) (o : Out) : Prop := ∀ t, o = .next t → k.Onward t.fixed

theorem OutOnward.next {k : Fixed} {t : State} (h : k.Onward t.fixed) : OutOnward k (.next t) := by
  rintro u ⟨⟩
  exact h

theorem OutOnward.whenUnit {k : Fixed} {t : State} (h : k.Onward t.fixed) (ok : Bool) (what : String) :
    OutOnward k (whenUnit ok what t) := by
  rintro u hu
  unfold Machine.whenUnit at hu
  split at hu
  · exact OutOnward.next h u hu
  · cases hu

theorem OutOnward.onSite {k : Fixed} {s t : State} (h : k.Onward t.fixed) (x : Site) : OutOnward k (s.onSite x t) := by
  cases x <;> exact OutOnward.whenUnit h _ _

/-- Every command keeps the build and the queue, and time does not go back: most commands act where their unit exists, some at a site, and
those that name no unit always. -/
theorem exec_onward (i : Instr) (s : State) : OutOnward s.fixed (exec i s) := by
  cases i
  case sendAdmission | sendLanding =>
    refine OutOnward.whenUnit ?_ _ _
    split <;> simp
  case mcastDataReceive =>
    refine OutOnward.whenUnit ?_ _ _
    split <;> simp
  case reserveReceive | reservationGrant | putDataHeader | reservationFilled | landingLeaseExpiry | releaseReceive | getReqReceive =>
    exact OutOnward.onSite (by simp) _
  case chanStateWrite | chanHeadWrite | tblCloseWrite | memStreamStart | noteOriginate | engineRouteRecompute | quarantineRelease |
      retrainFull | retrainKeyUpdate | relayEnable | relayDisable | replayNow | statusClear | intEnableWrite | fenceWrite |
      linkFenceRelease | raiseSuspect | drain | drainStepAdvance | drainLimitExpiry | faultInjectArm | commit | abandon |
      commitPrepareDone | commitApplyDone | commitLimitExpiry | groupLeaseExpiry | dictRequestReceive | mgmtRequest | defectMapAdd |
      freqWrite | fieldToleranceWrite | calmEntry | stillEntry | engineWake | engineWakeWrite | engineToleranceWrite | wakeNFall |
      fantailShareRecompute | comparatorTimeWrite | ftSetWrite | beaconOriginate | freezeAllRings | unfreezeAllRings |
      eventRingFrozenWrite | counterSelectWrite | probeActionWrite | sweepEnableWrite | haltStateWrite | coldBringup | restart |
      bringupAon | refclkRetry | bringupAgents | bringupClocks | bringupHoles | bringupSelftest | bringupSignal | bringupImage |
      bringupDrops | bringupLinks | bringupDone | aonPgFall | testModeRise | testModeFall | extest | samplePreload | idcode |
      extestPulse | extestTrain | bypass | mgmtReplyTimeout | mctpControlRequest | dynamicAddressAssignment | tapReset =>
    exact OutOnward.next (by simp)
  all_goals exact OutOnward.whenUnit (by simp) _ _

@[simp ↓] theorem State.idlePort_fixed (s : State) (c : Coord) (p : Nat) : (s.idlePort c p).fixed = s.fixed := by
  simp [State.idlePort]

@[simp ↓] theorem State.idleRouter_fixed (s : State) (c : Coord) : (s.idleRouter c).fixed = s.fixed := by
  simp [State.idleRouter]

theorem State.tick_onward (s : State) : s.fixed.Onward s.tick.fixed := by
  simp [State.tick]

/-- Settles O60: on an empty queue 1 ns passes; else the front command runs on the state with the queue's rest, which it keeps. -/
theorem stepKeepsBuildTimeQueue : Obligations.StepKeepsBuildTimeQueue := by
  intro s t h
  unfold step at h
  split at h
  · next hq =>
    cases h
    obtain ⟨hbuild, hqueue, htime⟩ := s.tick_onward
    exact ⟨⟨hbuild, htime⟩, hqueue.trans (by simp [State.fixed, hq])⟩
  · next c rest hq =>
    obtain ⟨hbuild, hqueue, htime⟩ := exec_onward c { s with pending := rest } t h
    exact ⟨⟨hbuild, htime⟩, hqueue.trans (by simp [State.fixed, hq])⟩

end Sys2Proof.Machine
end

section
/-! SUPPORT. The unit code (R35 to R37, R141), of payloads of any length: doubling and multiplication in GF(2^8) as operations on bytes,
the syndromes of a codeword as values that one changed byte shifts, and what the decoder answers to them. Obligations O42 and O43 follow. -/

namespace Sys2Proof.Machine

/-! ### Doubling in GF(2^8) -/

theorem byte_xor_left_comm (a b c : Byte) : a ^^^ (b ^^^ c) = b ^^^ (a ^^^ c) := by ac_rfl

theorem byte_xor_cancel_left (a b : Byte) : a ^^^ (a ^^^ b) = b := by
  rw [← BitVec.xor_assoc, BitVec.xor_self, BitVec.zero_xor]

/-- Multiplication of a byte by α. -/
def byteDouble (a : Byte) : Byte := (a <<< 1) ^^^ (if a.msb then 0x1D else 0)

/-- The byte α^n · a. -/
def byteShift : Nat → Byte → Byte
  | 0, a => a
  | n + 1, a => byteDouble (byteShift n a)

theorem gfDouble_toNat : ∀ a : Byte, gfDouble a.toNat = (byteDouble a).toNat := by decide +kernel

@[simp] theorem byteDouble_zero : byteDouble 0#8 = 0#8 := rfl

theorem byteDouble_xor (a b : Byte) : byteDouble (a ^^^ b) = byteDouble a ^^^ byteDouble b := by
  unfold byteDouble
  rw [BitVec.shiftLeft_xor_distrib, BitVec.msb_xor]
  cases a.msb <;> cases b.msb <;> simp [BitVec.xor_assoc, BitVec.xor_comm, byte_xor_left_comm]

@[simp] theorem byteShift_none (a : Byte) : byteShift 0 a = a := rfl

theorem byteShift_succ (n : Nat) (a : Byte) : byteShift (n + 1) a = byteDouble (byteShift n a) :=
  rfl

theorem byteShift_byteShift (m n : Nat) (a : Byte) : byteShift m (byteShift n a) = byteShift (m + n) a := by
  induction m with
  | zero => rw [Nat.zero_add, byteShift_none]
  | succ m ih => rw [Nat.succ_add, byteShift_succ, byteShift_succ, ih]

theorem byteShift_zero (n : Nat) : byteShift n 0#8 = 0#8 := by
  induction n with
  | zero => rfl
  | succ n ih => rw [byteShift_succ, ih, byteDouble_zero]

theorem byteShift_xor (n : Nat) (a b : Byte) : byteShift n (a ^^^ b) = byteShift n a ^^^ byteShift n b := by
  induction n with
  | zero => rfl
  | succ n ih => simp only [byteShift_succ, ih, byteDouble_xor]

theorem gfPow2_eq_byteShift (n : Nat) : gfPow2 n = (byteShift n 1).toNat := by
  induction n with
  | zero => rfl
  | succ n ih => rw [gfPow2, ih, gfDouble_toNat, byteShift_succ]

/-! ### Multiplication in GF(2^8) -/

/-- The product of a byte with the low `k` bits of a number. -/
def byteMul : Nat → Byte → Nat → Byte
  | 0, _, _ => 0#8
  | k + 1, a, b => (if b % 2 = 1 then a else 0#8) ^^^ byteMul k (byteDouble a) (b / 2)

theorem gfMulBits_toNat (k : Nat) (a : Byte) (b : Nat) : gfMulBits k a.toNat b = (byteMul k a b).toNat := by
  induction k generalizing a b with
  | zero => rfl
  | succ k ih =>
    rw [gfMulBits, byteMul, gfDouble_toNat, ih, BitVec.toNat_xor, apply_ite BitVec.toNat]
    rfl

theorem gfMul_toNat (a : Byte) (b : Nat) : gfMul a.toNat b = (byteMul 8 a b).toNat := gfMulBits_toNat 8 a b

theorem byteMul_byteDouble (k : Nat) (a : Byte) (b : Nat) : byteMul k (byteDouble a) b = byteDouble (byteMul k a b) := by
  induction k generalizing a b with
  | zero => simp [byteMul]
  | succ k ih => rw [byteMul, byteMul, byteDouble_xor, ih, apply_ite byteDouble, byteDouble_zero]

theorem byteMul_xor (k : Nat) (a : Byte) (b c : Nat) : byteMul k a (b ^^^ c) = byteMul k a b ^^^ byteMul k a c := by
  induction k generalizing a b c with
  | zero => simp [byteMul]
  | succ k ih =>
    have hodd : (b ^^^ c) % 2 = (b % 2) ^^^ (c % 2) := Nat.xor_mod_two_pow (n := 1)
    rw [byteMul, byteMul, byteMul, Nat.xor_div_two, ih, hodd]
    rcases Nat.mod_two_eq_zero_or_one b with hb | hb <;> rcases Nat.mod_two_eq_zero_or_one c with hc | hc <;>
      simp [hb, hc, BitVec.xor_assoc, byte_xor_left_comm, byte_xor_cancel_left]

theorem byteMul_bits_succ (k : Nat) (a : Byte) (b : Nat) (hb : b < 2 ^ k) : byteMul (k + 1) a b = byteMul k a b := by
  induction k generalizing a b with
  | zero => simp [byteMul, Nat.lt_one_iff.mp hb]
  | succ k ih => rw [byteMul, ih _ _ (by omega), byteMul]

theorem byteMul_two_mul (k : Nat) (a : Byte) (b : Nat) : byteMul (k + 1) a (2 * b) = byteDouble (byteMul k a b) := by
  simp [byteMul, byteMul_byteDouble]

/-- The field polynomial vanishes at α. -/
theorem byteMul_polynomial : ∀ a : Byte, byteMul 9 a 0x11D = 0#8 := by decide +kernel

theorem byteMul_gfDouble (a b : Byte) : byteMul 8 a (gfDouble b.toNat) = byteDouble (byteMul 8 a b.toNat) := by
  have hlt : gfDouble b.toNat < 2 ^ 8 := gfDouble_toNat b ▸ (byteDouble b).isLt
  rw [← byteMul_bits_succ 8 a _ hlt, gfDouble]
  split
  · exact byteMul_two_mul 8 a _
  · rw [byteMul_xor, byteMul_polynomial, byteMul_two_mul]
    exact BitVec.xor_zero

theorem byteMul_one (a : Byte) : byteMul 8 a 1 = a := by simp [byteMul]

theorem byteMul_byteShift_left (n : Nat) (a : Byte) (b : Nat) : byteMul 8 (byteShift n a) b = byteShift n (byteMul 8 a b) := by
  induction n with
  | zero => rfl
  | succ n ih => rw [byteShift_succ, byteMul_byteDouble, ih, byteShift_succ]

theorem byteMul_byteShift_right (n : Nat) (a b : Byte) :
    byteMul 8 a (byteShift n b).toNat = byteShift n (byteMul 8 a b.toNat) := by
  induction n with
  | zero => rfl
  | succ n ih => rw [byteShift_succ, ← gfDouble_toNat, byteMul_gfDouble, ih, byteShift_succ]

theorem byteMul_gfPow2 (n : Nat) (a : Byte) : byteMul 8 a (gfPow2 n) = byteShift n a := by
  rw [gfPow2_eq_byteShift, byteMul_byteShift_right]
  exact congrArg _ (byteMul_one a)

theorem gfMul_gfPow2 (n : Nat) (a : Byte) : gfMul a.toNat (gfPow2 n) = (byteShift n a).toNat := by
  rw [gfMul_toNat, byteMul_gfPow2]

/-! ### The order of α -/

theorem byteShift_255 (a : Byte) : byteShift 255 a = a := by
  have hone : gfPow2 255 = 1 := by decide +kernel
  rw [← byteMul_gfPow2, hone, byteMul_one]

theorem byteShift_injective (n : Nat) {a b : Byte} (h : byteShift n a = byteShift n b) : a = b := by
  induction n with
  | zero => exact h
  | succ n ih =>
    have hback (x : Byte) : byteShift 254 (byteShift (n + 1) x) = byteShift n x := by
      rw [byteShift_byteShift, Nat.add_comm n 1, ← Nat.add_assoc, ← byteShift_byteShift, byteShift_255]
    exact ih (by rw [← hback a, h, hback b])

theorem byteShift_eq_zero {n : Nat} {a : Byte} : byteShift n a = 0#8 ↔ a = 0#8 :=
  ⟨fun h => byteShift_injective n (h.trans (byteShift_zero n).symm), fun h => h ▸ byteShift_zero n⟩

/-- Where α^k is 1 plus another power of α, multiplying by α^k moves every byte but 0. -/
theorem byteShift_eq_self {k t : Nat} (hk : gfPow2 k ^^^ 1 = gfPow2 t) {a : Byte} (h : byteShift k a = a) : a = 0#8 := by
  have hsum : byteMul 8 a (gfPow2 k ^^^ 1) = 0#8 := by
    rw [byteMul_xor, byteMul_gfPow2, byteMul_one, h]
    exact BitVec.xor_self
  rwa [hk, byteMul_gfPow2, byteShift_eq_zero] at hsum

/-- Every proper divisor of 255 = 3 · 5 · 17 divides the product of two of the primes. -/
theorem proper_divisor_255 : ∀ m < 255, m ∣ 255 → m ∣ 15 ∨ m ∣ 51 ∨ m ∣ 85 := by decide +kernel

theorem byteShift_mul_of_period {n : Nat} {a : Byte} (h : byteShift n a = a) (t : Nat) : byteShift (n * t) a = a := by
  induction t with
  | zero => rfl
  | succ t ih => rw [Nat.mul_succ, ← byteShift_byteShift, h, ih]

theorem byteShift_gcd_of_periods {m n : Nat} {a : Byte} (hm : byteShift m a = a) (hn : byteShift n a = a) :
    byteShift (Nat.gcd m n) a = a := by
  induction m, n using Nat.gcd.induction with
  | H0 n => rwa [Nat.gcd_zero_left]
  | H1 m n hpos ih =>
    have hmod : byteShift (n % m) a = a := by
      rw [← Nat.mod_add_div n m, ← byteShift_byteShift, byteShift_mul_of_period hm] at hn
      exact hn
    rw [Nat.gcd_rec]
    exact ih hmod hm

/-- α generates the 255 bytes that are not 0: it has no smaller period on any of them. -/
theorem byteShift_ne_self {d : Nat} (hd : 0 < d) (hlt : d < 255) {a : Byte} (ha : a ≠ 0#8) : byteShift d a ≠ a := by
  intro hperiod
  have hgcd : byteShift (Nat.gcd d 255) a = a := byteShift_gcd_of_periods hperiod (byteShift_255 a)
  have hle : Nat.gcd d 255 ≤ d := Nat.gcd_le_left 255 hd
  have moves {k t : Nat} (hk : gfPow2 k ^^^ 1 = gfPow2 t) : ¬ Nat.gcd d 255 ∣ k := by
    rintro ⟨q, rfl⟩
    exact ha (byteShift_eq_self hk (byteShift_mul_of_period hgcd q))
  have h15 : gfPow2 15 ^^^ 1 = gfPow2 33 := by decide +kernel
  have h51 : gfPow2 51 ^^^ 1 = gfPow2 238 := by decide +kernel
  have h85 : gfPow2 85 ^^^ 1 = gfPow2 170 := by decide +kernel
  rcases proper_divisor_255 _ (by omega) (Nat.gcd_dvd_right d 255) with h | h | h
  · exact moves h15 h
  · exact moves h51 h
  · exact moves h85 h

theorem byteShift_ne_of_lt {a : Byte} (ha : a ≠ 0#8) {j k : Nat} (hjk : j < k) (hk : k < 255) : byteShift j a ≠ byteShift k a := by
  intro h
  have hsplit : byteShift k a = byteShift j (byteShift (k - j) a) := by
    rw [byteShift_byteShift, Nat.add_sub_cancel' (Nat.le_of_lt hjk)]
  exact byteShift_ne_self (by omega) (by omega) ha (byteShift_injective j (h.trans hsplit)).symm

/-! ### Syndromes -/

/-- One step of Horner's rule at α^m. -/
def hornerStep (m : Nat) (s b : Byte) : Byte := byteShift m s ^^^ b

/-- The received polynomial at α^m: the syndrome S_m of a codeword (R35). -/
def syndrome (m : Nat) (cw : List Byte) : Byte := cw.foldl (hornerStep m) 0

theorem rsEval_gfPow2 (m : Nat) (cw : List Byte) : rsEval (gfPow2 m) cw = (syndrome m cw).toNat :=
  List.foldl_hom BitVec.toNat (init := 0) fun s b => by
    rw [gfMul_gfPow2, hornerStep, BitVec.toNat_xor]

theorem syndrome_append_singleton (m : Nat) (cw : List Byte) (b : Byte) :
    syndrome m (cw ++ [b]) = byteShift m (syndrome m cw) ^^^ b := by
  simp [syndrome, hornerStep]

/-- What is in error before the bytes `cw` comes out of them multiplied by α^m for each of them. -/
theorem foldl_hornerStep_xor (m : Nat) (cw : List Byte) (s e : Byte) :
    cw.foldl (hornerStep m) (s ^^^ e) = cw.foldl (hornerStep m) s ^^^ byteShift (m * cw.length) e := by
  induction cw generalizing s e with
  | nil => rfl
  | cons b cw ih =>
    have hstep : hornerStep m (s ^^^ e) b = hornerStep m s b ^^^ byteShift m e := by
      rw [hornerStep, hornerStep, byteShift_xor]
      ac_rfl
    rw [List.foldl_cons, List.foldl_cons, hstep, ih, byteShift_byteShift, List.length_cons, Nat.mul_succ]

/-- A codeword with `e` XORed into its byte `i`. -/
def xorAt (cw : List Byte) (i : Nat) (e : Byte) : List Byte := setAt cw i (nth cw i 0 ^^^ e)

@[simp] theorem xorAt_length (cw : List Byte) (i : Nat) (e : Byte) : (xorAt cw i e).length = cw.length := by
  simp [xorAt, setAt]

theorem xorAt_xorAt (cw : List Byte) {i : Nat} (e : Byte) (hi : i < cw.length) : xorAt (xorAt cw i e) i e = cw := by
  simp [xorAt, setAt, nth, hi, BitVec.xor_assoc]

theorem foldl_hornerStep_xorAt (m : Nat) (cw : List Byte) (i : Nat) (s e : Byte) (hi : i < cw.length) :
    (xorAt cw i e).foldl (hornerStep m) s = cw.foldl (hornerStep m) s ^^^ byteShift (m * (cw.length - 1 - i)) e := by
  induction cw generalizing i s with
  | nil => simp at hi
  | cons b cw ih =>
    cases i with
    | zero =>
      have hstep : hornerStep m s (b ^^^ e) = hornerStep m s b ^^^ e := (BitVec.xor_assoc ..).symm
      change cw.foldl (hornerStep m) (hornerStep m s (b ^^^ e)) = _
      rw [hstep]
      exact foldl_hornerStep_xor m cw _ e
    | succ i =>
      have hi' : i < cw.length := by simpa using hi
      have hdist : (b :: cw).length - 1 - (i + 1) = cw.length - 1 - i := by simp; omega
      rw [hdist]
      exact ih i _ hi'

/-- One changed byte shifts the syndrome S_m by the change, multiplied by α^m for each byte after it. -/
theorem syndrome_xorAt (m : Nat) (cw : List Byte) (i : Nat) (e : Byte) (hi : i < cw.length) :
    syndrome m (xorAt cw i e) = syndrome m cw ^^^ byteShift (m * (cw.length - 1 - i)) e :=
  foldl_hornerStep_xorAt m cw i 0 e hi

/-! ### Encoding -/

theorem byteMul_seven (f : Byte) : byteMul 8 f 0x07 = byteShift 2 f ^^^ byteShift 1 f ^^^ f := by
  change byteMul 8 f (gfPow2 2 ^^^ gfPow2 1 ^^^ gfPow2 0) = _
  simp only [byteMul_xor, byteMul_gfPow2, byteShift_none]

theorem byteMul_fourteen (f : Byte) : byteMul 8 f 0x0E = byteShift 3 f ^^^ byteShift 2 f ^^^ byteShift 1 f := by
  change byteMul 8 f (gfPow2 3 ^^^ gfPow2 2 ^^^ gfPow2 1) = _
  simp only [byteMul_xor, byteMul_gfPow2]

theorem byteMul_eight (f : Byte) : byteMul 8 f 0x08 = byteShift 3 f := byteMul_gfPow2 3 f

/-- The generator vanishes at 1, α and α^2, the roots of the code (R35). -/
theorem generator_root (f : Byte) {m : Nat} (hm : m < 3) :
    byteShift (3 * m) f = byteShift (2 * m) (byteMul 8 f 0x07) ^^^ byteShift m (byteMul 8 f 0x0E) ^^^ byteMul 8 f 0x08 := by
  rw [byteMul_seven, byteMul_fourteen, byteMul_eight]
  match m, hm with
  | 0, _ | 1, _ | 2, _ =>
    simp [byteShift_xor, byteShift_byteShift, BitVec.xor_assoc, byte_xor_left_comm, byte_xor_cancel_left]

/-- The remainder of a payload in three bytes: at each root of the code it takes the value of m(x)·x^3 (R35). -/
structure IsRemainder (payload : List Byte) (k0 k1 k2 : Byte) : Prop where
  fold : payload.foldl rsStep (0, 0, 0) = (k0.toNat, k1.toNat, k2.toNat)
  root : ∀ m < 3, byteShift (3 * m) (syndrome m payload) = byteShift (2 * m) k0 ^^^ byteShift m k1 ^^^ k2

theorem exists_isRemainder_reverse (payload : List Byte) : ∃ k0 k1 k2, IsRemainder payload.reverse k0 k1 k2 := by
  induction payload with
  | nil => exact ⟨0#8, 0#8, 0#8, rfl, fun m _ => by simp [syndrome, byteShift_zero]⟩
  | cons b payload ih =>
    obtain ⟨k0, k1, k2, hfold, hroot⟩ := ih
    rw [List.reverse_cons]
    generalize payload.reverse = payload at hfold hroot
    refine ⟨k1 ^^^ byteMul 8 (b ^^^ k0) 0x07, k2 ^^^ byteMul 8 (b ^^^ k0) 0x0E, byteMul 8 (b ^^^ k0) 0x08, ?_, fun m hm => ?_⟩
    · rw [List.foldl_append, hfold]
      simp only [List.foldl_cons, List.foldl_nil, rsStep, ← BitVec.toNat_xor, gfMul_toNat]
    · calc byteShift (3 * m) (syndrome m (payload ++ [b]))
        _ = byteShift m (byteShift (3 * m) (syndrome m payload)) ^^^ byteShift (3 * m) b := by
          rw [syndrome_append_singleton, byteShift_xor, byteShift_byteShift, byteShift_byteShift, Nat.add_comm]
        _ = byteShift (3 * m) (b ^^^ k0) ^^^ byteShift (2 * m) k1 ^^^ byteShift m k2 := by
          have h3 : m + 2 * m = 3 * m := by omega
          have h2 : m + m = 2 * m := by omega
          simp only [hroot m hm, byteShift_xor, byteShift_byteShift, h3, h2]
          ac_rfl
        _ = byteShift (2 * m) (k1 ^^^ byteMul 8 (b ^^^ k0) 0x07) ^^^ byteShift m (k2 ^^^ byteMul 8 (b ^^^ k0) 0x0E) ^^^
            byteMul 8 (b ^^^ k0) 0x08 := by
          rw [generator_root _ hm, byteShift_xor, byteShift_xor]
          ac_rfl

theorem exists_isRemainder (payload : List Byte) : ∃ k0 k1 k2, IsRemainder payload k0 k1 k2 :=
  payload.reverse_reverse ▸ exists_isRemainder_reverse payload.reverse

theorem rsEncode_of_isRemainder {payload : List Byte} {k0 k1 k2 : Byte} (h : IsRemainder payload k0 k1 k2) :
    rsEncode payload = payload ++ [k0, k1, k2] := by
  simp [rsEncode, rsCheck, h.fold]

/-- Every root of the code is a root of an encoded payload. -/
theorem syndrome_rsEncode (payload : List Byte) {m : Nat} (hm : m < 3) : syndrome m (rsEncode payload) = 0#8 := by
  obtain ⟨k0, k1, k2, h⟩ := exists_isRemainder payload
  have hsplit : payload ++ [k0, k1, k2] = payload ++ [k0] ++ [k1] ++ [k2] := by simp
  have h3 : m + 2 * m = 3 * m := by omega
  have h2 : m + m = 2 * m := by omega
  rw [rsEncode_of_isRemainder h, hsplit]
  simp only [syndrome_append_singleton, byteShift_xor, byteShift_byteShift, h2, h3]
  rw [h.root m hm]
  simp [BitVec.xor_assoc, byte_xor_left_comm]

@[simp] theorem rsEncode_length (payload : List Byte) : (rsEncode payload).length = payload.length + 3 := by
  simp [rsEncode, rsCheck]

/-- Poison changes the check bytes k1 and k2 (R37). -/
theorem rsPoison_eq_xorAt (payload : List Byte) :
    rsPoison payload = xorAt (xorAt (rsEncode payload) (payload.length + 1) 1) (payload.length + 2) 1 := by
  simp [rsPoison, rsEncode, rsCheck, xorAt, setAt, nth]

/-! ### Decoding -/

@[simp] theorem rsEval_one (cw : List Byte) : rsEval 1 cw = (syndrome 0 cw).toNat := rsEval_gfPow2 0 cw

@[simp] theorem rsEval_two (cw : List Byte) : rsEval 2 cw = (syndrome 1 cw).toNat := rsEval_gfPow2 1 cw

@[simp] theorem rsEval_four (cw : List Byte) : rsEval 4 cw = (syndrome 2 cw).toNat := rsEval_gfPow2 2 cw

section
variable {cw : List Byte}

theorem rsDecode_clean (h0 : syndrome 0 cw = 0#8) (h1 : syndrome 1 cw = 0#8) (h2 : syndrome 2 cw = 0#8) : rsDecode cw = .clean := by
  simp [rsDecode, h0, h1, h2]

theorem rsDecode_poison (h0 : syndrome 0 cw = 0#8) (h1 : syndrome 1 cw = 3#8) (h2 : syndrome 2 cw = 5#8) : rsDecode cw = .poison := by
  simp [rsDecode, h0, h1, h2]

theorem rsDecode_corrected {s0 s1 s2 : Byte} {j : Nat} (h0 : syndrome 0 cw = s0) (h1 : syndrome 1 cw = s1) (h2 : syndrome 2 cw = s2)
    (hs0 : s0 ≠ 0#8) (hs1 : s1 ≠ 0#8) (hs2 : s2 ≠ 0#8) (hsquare : byteMul 8 s1 s1.toNat = byteMul 8 s0 s2.toNat)
    (hlocate : rsLocate cw.length 0 s0.toNat s1.toNat = some j) : rsDecode cw = .corrected (xorAt cw (cw.length - 1 - j) s0) := by
  have nonzero {a : Byte} (ha : a ≠ 0#8) : a.toNat ≠ 0 := mt (BitVec.eq_of_toNat_eq (y := 0#8)) ha
  simp [rsDecode, h0, h1, h2, nonzero hs0, nonzero hs1, nonzero hs2, gfMul_toNat, hsquare, hlocate, xorAt]

end

theorem rsLocate_eq_some {a : Byte} (ha : a ≠ 0#8) {j n k : Nat} (hk : k ≤ j) (hn : j < k + n) (hj : j < 255) :
    rsLocate n k a.toNat (byteShift j a).toNat = some j := by
  induction n generalizing k with
  | zero => omega
  | succ n ih =>
    rw [rsLocate, gfMul_gfPow2]
    rcases Nat.eq_or_lt_of_le hk with rfl | hlt
    · exact if_pos rfl
    · rw [if_neg (mt BitVec.eq_of_toNat_eq (byteShift_ne_of_lt ha hlt hj))]
      exact ih hlt (by omega)

/-- A codeword of at most 255 bytes with one of them in error is corrected. -/
theorem rsDecode_xorAt {cw : List Byte} (h : ∀ m < 3, syndrome m cw = 0#8) (hlen : cw.length ≤ 255) {i : Nat} (hi : i < cw.length)
    {e : Byte} (he : e ≠ 0#8) : rsDecode (xorAt cw i e) = .corrected cw := by
  have hsyn : ∀ m < 3, syndrome m (xorAt cw i e) = byteShift (m * (cw.length - 1 - i)) e := fun m hm => by
    rw [syndrome_xorAt m cw i e hi, h m hm]
    exact BitVec.zero_xor
  generalize hj : cw.length - 1 - i = j at hsyn
  have hplace : cw.length - 1 - j = i := by omega
  have h0 : syndrome 0 (xorAt cw i e) = e := by simpa using hsyn 0
  have h1 : syndrome 1 (xorAt cw i e) = byteShift j e := by simpa using hsyn 1
  have h2 : syndrome 2 (xorAt cw i e) = byteShift (j + j) e := by simpa [Nat.two_mul] using hsyn 2
  have hsquare : byteMul 8 (byteShift j e) (byteShift j e).toNat = byteMul 8 e (byteShift (j + j) e).toNat := by
    rw [byteMul_byteShift_left, byteMul_byteShift_right, byteMul_byteShift_right, byteShift_byteShift]
  have hlocate : rsLocate (xorAt cw i e).length 0 e.toNat (byteShift j e).toNat = some j :=
    rsLocate_eq_some he (Nat.zero_le _) (by rw [xorAt_length]; omega) (by omega)
  have hshift (n : Nat) : byteShift n e ≠ 0#8 := mt byteShift_eq_zero.mp he
  rw [rsDecode_corrected h0 h1 h2 he (hshift _) (hshift _) hsquare hlocate, xorAt_length, hplace, xorAt_xorAt cw e hi]

theorem rsDecode_rsEncode (payload : List Byte) : rsDecode (rsEncode payload) = .clean :=
  rsDecode_clean (syndrome_rsEncode payload (by decide)) (syndrome_rsEncode payload (by decide))
    (syndrome_rsEncode payload (by decide))

theorem syndrome_rsPoison (payload : List Byte) {m : Nat} (hm : m < 3) : syndrome m (rsPoison payload) = byteShift m 1 ^^^ 1 := by
  rw [rsPoison_eq_xorAt, syndrome_xorAt _ _ _ _ (by simp), syndrome_xorAt _ _ _ _ (by simp), syndrome_rsEncode payload hm]
  simp

theorem rsDecode_rsPoison (payload : List Byte) : rsDecode (rsPoison payload) = .poison :=
  rsDecode_poison (syndrome_rsPoison payload (by decide)) (syndrome_rsPoison payload (by decide))
    (syndrome_rsPoison payload (by decide))

/-- Settles O42: the encoder's remainder makes every syndrome 0, and poison shifts them to 0x00, 0x03 and 0x05. -/
theorem unitCodeDecodes : Obligations.UnitCodeDecodes :=
  ⟨fun payload _ => rsDecode_rsEncode payload, fun payload _ => rsDecode_rsPoison payload⟩

/-- Settles O43: the ratio of the shifted syndromes S1 / S0 gives the place of the changed byte, S0 the change. -/
theorem unitCodeCorrects : Obligations.UnitCodeCorrects := by
  intro payload i e hlen hi he
  have hlen' : (rsEncode payload).length ≤ 255 := by
    rw [rsEncode_length]
    omega
  exact rsDecode_xorAt (fun _ => syndrome_rsEncode payload) hlen' (by rwa [rsEncode_length]) he

end Sys2Proof.Machine
end

section
/-! SUPPORT. The rows of the data ports of a router (chapters 2 to 4), at a port the build has and with the fabric clock running: beats that
arrive (R24, R57), gust decisions (R81, R95) and inserted credit beats (R90). Obligation O9 follows. -/

namespace Sys2Proof.Machine

/-! ### The guards of the rows -/

section
variable {s : State} {c : Coord} {p : Nat}

theorem State.onPort_present (hc : s.inGrid c = true) (hp : hasPort c p = true) (t : State) : s.onPort c p t = .next t := by
  simp [State.onPort, whenUnit, hc, hp]

theorem State.onLinkSide_present (hc : s.inGrid c = true) (hp : hasPort c p = true) (hlink : p < 8) (t : State) :
    s.onLinkSide c p t = .next t := by
  simp [State.onLinkSide, whenUnit, hc, hp, hlink]

theorem State.clocked_running (hrun : s.clockRuns (s.fieldOf c) = true) (t : State) : s.clocked c t = t := if_pos hrun

/-! ### What arrives and what leaves -/

theorem State.beatIn_hole {cw : List Byte} {side : Nat} (hhole : (s.offWire c p cw side).isHole c = true) :
    s.beatIn c p cw side = s.offWire c p cw side := if_pos hhole

theorem State.beatIn_live {cw : List Byte} {side : Nat} {copy : Bool} (hlive : (s.offWire c p cw side).isHole c = false)
    (hcopy : ((s.wires.find? (fun w => w.isAt c p cw side)).map WireBeat.copy).getD false = copy) :
    s.beatIn c p cw side = (((s.offWire c p cw side).recvBeat c p cw side copy).tidyRouter c).done := by
  simp [State.beatIn, hlive, hcopy]

theorem State.gustDecision_tailBeat (hlive : s.isHole c = false) (hfree : (s.outp c p).gust = none)
    (hmode : s.reg (cellNode c) 0 (0x4030 + p) 1 = 0) : s.gustDecision c p = s.tailBeat c p := by
  simp [State.gustDecision, hlive, hfree, hmode]

theorem State.gustDecision_lookahead (hlive : s.isHole c = false) (hfree : (s.outp c p).gust = none)
    (hmode : s.reg (cellNode c) 0 (0x4030 + p) 1 = 1) : s.gustDecision c p = s.lookahead c p := by
  simp [State.gustDecision, hlive, hfree, hmode]

/-- Lanes that have freed places to credit send them 32 fc after the first of them was freed. -/
theorem State.creditBeatInsert_freed {l : Nat} {ls : List Nat}
    (hfreed : beatLanes.filter (fun l => (s.lane c p l).freed != 0) = l :: ls) :
    s.creditBeatInsert c p =
      (({ s with time := max s.time (s.fcAfter (s.fieldOf c)
          (minimum (s.lane c p l).freedAt (ls.map (fun l => (s.lane c p l).freedAt))) 32) } : State).modOut c p
        (fun o => { o with insert := true })).betweenGusts c p := by
  simp [State.creditBeatInsert, hfreed]

/-! ### The rows -/

theorem runs_dataBeatReceive (hc : s.inGrid c = true) (hp : hasPort c p = true) (hlink : p < 8)
    (hrun : s.clockRuns (s.fieldOf c) = true) (cw : List Byte) (side : Nat) :
    Runs (.dataBeatReceive c p cw side) s (s.beatIn c p cw side) := by
  change s.onLinkSide c p (s.clocked c (s.beatIn c p cw side)) = _
  rw [State.clocked_running hrun, State.onLinkSide_present hc hp hlink]

theorem runs_creditBeatReceive (hc : s.inGrid c = true) (hp : hasPort c p = true) (hlink : p < 8)
    (hrun : s.clockRuns (s.fieldOf c) = true) (cw : List Byte) {side : Nat} (hside : bits side 0 4 = 0xE) :
    Runs (.creditBeatReceive c p cw side) s (s.beatIn c p cw side) := by
  change s.onLinkSide c p (s.clocked c (if bits side 0 4 = 0xE then s.beatIn c p cw side else s)) = _
  rw [if_pos hside, State.clocked_running hrun, State.onLinkSide_present hc hp hlink]

theorem runs_gustDecision (hc : s.inGrid c = true) (hp : hasPort c p = true) (hrun : s.clockRuns (s.fieldOf c) = true) :
    Runs (.gustDecision c p) s ((s.gustDecision c p).done) := by
  change s.onPort c p (s.clocked c ((s.gustDecision c p).done)) = _
  rw [State.clocked_running hrun, State.onPort_present hc hp]

theorem runs_creditBeatInsert (hc : s.inGrid c = true) (hp : hasPort c p = true) (hlink : p < 8)
    (hrun : s.clockRuns (s.fieldOf c) = true) : Runs (.creditBeatInsert c p) s (s.creditBeatInsert c p) := by
  change s.onLinkSide c p (s.clocked c (s.creditBeatInsert c p)) = _
  rw [State.clocked_running hrun, State.onLinkSide_present hc hp hlink]

end

/-- Settles O9: each row runs its operation, which goes by whether the router is a hole (beats), by the MODE of the output (gusts) and by
the lanes with freed places (credits). -/
theorem beatsAndGusts : Obligations.BeatsAndGusts := by
  refine ⟨?_, ?_, ?_, ?_, ?_, ?_⟩
  · intro s c p cw side copy hc hp hlink hrun hlive hcopy
    exact State.beatIn_live hlive hcopy ▸ runs_dataBeatReceive hc hp hlink hrun cw side
  · intro s c p cw side hc hp hlink hrun hhole
    exact State.beatIn_hole hhole ▸ runs_dataBeatReceive hc hp hlink hrun cw side
  · intro s c p cw side copy hc hp hlink hrun hside hlive hcopy
    exact State.beatIn_live hlive hcopy ▸ runs_creditBeatReceive hc hp hlink hrun cw hside
  · intro s c p hc hp hrun hlive hfree hmode
    exact State.gustDecision_tailBeat hlive hfree hmode ▸ runs_gustDecision hc hp hrun
  · intro s c p hc hp hrun hlive hfree hmode
    exact State.gustDecision_lookahead hlive hfree hmode ▸ runs_gustDecision hc hp hrun
  · intro s c p l ls hc hp hlink hrun hfreed
    exact State.creditBeatInsert_freed hfreed ▸ runs_creditBeatInsert hc hp hlink hrun

end Sys2Proof.Machine
end

section
/-! SUPPORT. The reclose of a fenced router (R66, R67) and the anycast groups (R72, R73): what each operation does in the case a statement
names, and the row that runs it. Obligations O12 and O13 follow. -/

namespace Sys2Proof.Machine

/-! ### The guards of the rows -/

section
variable {s : State}

theorem State.onCell_present {c : Coord} (hc : s.inGrid c = true) (t : State) : s.onCell c t = .next t := by
  simp [State.onCell, whenUnit, hc]

theorem State.onGroup_present {g : Nat} (hg : g < 256) (t : State) : s.onGroup g t = .next t := by
  simp [State.onGroup, whenUnit, hg]

end

/-! ### The reclose -/

@[simp] theorem State.takeSig_rtr (s : State) (sg : Signal) (c : Coord) : (s.takeSig sg).rtr c = s.rtr c := rfl

@[simp] theorem State.takeSig_bootHole (s : State) (sg : Signal) (x : HoleRec) : (s.takeSig sg).bootHole x = s.bootHole x := rfl

section
variable {s : State} {c h : Coord}

/-- A router that knows neither the hole from bring-up nor from an earlier RING_CHANGE applies it. -/
theorem State.ringChangeAt_new (hhole : s.holes.any (fun x => x.c == h && ! s.bootHole x) = true)
    (hnew : (s.rtr c).applied.contains h = false) :
    s.ringChangeAt c h = (s.modRtr c (fun r => { r.rerouteSigs with applied := r.applied ++ [h] })).tidyRouter c :=
  if_neg (by rw [hhole, hnew]; decide)

theorem State.recloseRelease_found {r : Reclose} (hfind : s.recloses.find? (fun r => r.hole == h) = some r) :
    s.recloseRelease h =
      r.frozen.foldl (fun (s : State) n => ((s.hardStop n.1 n.2 false).rejoin n.1 n.2).tidyRouter n.1)
        { s with recloses := s.recloses.filter (fun x => x.hole != h) } := by
  simp [State.recloseRelease, hfind]

theorem runs_routerFence (hc : s.inGrid c = true) (hdecided : s.fences.contains (routerBlock c) = true) :
    Runs (.routerFence c) s ((s.fenceUnit c).done) := by
  change s.onCell c (if s.fences.contains (routerBlock c) then (s.fenceUnit c).done else s) = _
  rw [if_pos hdecided, State.onCell_present hc]

theorem runs_ringChangeReceive (hc : s.inGrid c = true) (h : Coord) (rb cb : Bool) :
    Runs (.ringChangeReceive c h rb cb) s
      (((((s.takeSig (.ringChange h rb cb)).ringChangeAt c h).purgeAt c).pump c).done) :=
  State.onCell_present hc _

theorem runs_recloseRelease (hh : s.inGrid h = true) : Runs (.recloseRelease h) s ((s.recloseRelease h).done) :=
  State.onCell_present hh _

end

/-- Settles O12: a decided fence is carried out, a RING_CHANGE of a hole the router does not know is applied, and a reclose under way
releases the neighbours it froze. -/
theorem recloseCompletes : Obligations.RecloseCompletes := by
  refine ⟨?_, ?_, ?_⟩
  · intro s c hc hdecided _
    exact runs_routerFence hc hdecided
  · intro s c h rb cb hc hhole hnew
    have happlied := State.ringChangeAt_new (s := s.takeSig (.ringChange h rb cb)) (by simpa using hhole) (by simpa using hnew)
    exact happlied ▸ runs_ringChangeReceive hc h rb cb
  · intro s h r hh hfind
    exact State.recloseRelease_found hfind ▸ runs_recloseRelease hh

/-! ### Anycast -/

section
variable {s : State} {g : Nat}

/-- A counter of 0 holds no advertisement of the period before: the broadcast says that the group has no winner. -/
theorem State.anyDecode_noWinner (hcount : s.reg .engine 0 (0x2100 + g) 1 ≠ 0) (hperiod : s.anyPeriod ≠ 0)
    (htally : s.tally (s.reg .engine 0 (0x2100 + g) 3) (254 + (s.anyPeriod - 1) % 2) = 0) :
    s.anyDecode g =
      (s.setTally (s.reg .engine 0 (0x2100 + g) 3) (254 + (s.anyPeriod - 1) % 2) 0).sendSig
        (s.tallyHome (s.reg .engine 0 (0x2100 + g) 3) (254 + (s.anyPeriod - 1) % 2)) (.anyWin g 0 true) := by
  simp [State.anyDecode, hcount, hperiod, htally]

/-- A counter that is not 0 names the winner by its low byte, shifted by the number of that period, and its free space by the bytes above. -/
theorem State.anyDecode_winner {v : Nat} (hcount : s.reg .engine 0 (0x2100 + g) 1 ≠ 0) (hperiod : s.anyPeriod ≠ 0)
    (htally : s.tally (s.reg .engine 0 (0x2100 + g) 3) (254 + (s.anyPeriod - 1) % 2) = v) (hv : v ≠ 0) :
    s.anyDecode g =
      ((s.setTally (s.reg .engine 0 (0x2100 + g) 3) (254 + (s.anyPeriod - 1) % 2) 0).setReg .engine 0 (0x2100 + g) 4
        ((255 - v % 256 + (s.anyPeriod - 1)) % s.reg .engine 0 (0x2100 + g) 1 % 256 + 256 * ((v / 256 - 1) % 256))).sendSig
          (s.tallyHome (s.reg .engine 0 (0x2100 + g) 3) (254 + (s.anyPeriod - 1) % 2))
          (.anyWin g ((255 - v % 256 + (s.anyPeriod - 1)) % s.reg .engine 0 (0x2100 + g) 1) false) := by
  simp [State.anyDecode, hcount, hperiod, htally, hv]

theorem runs_anycastAdvertise (hg : g < 256) : Runs (.anycastAdvertise g) s (s.anyAdvertise g) :=
  State.onGroup_present (s := s) hg _

theorem runs_anycastWinnerDecode (hg : g < 256) : Runs (.anycastWinnerDecode g) s (s.anyDecode g) :=
  State.onGroup_present (s := s) hg _

theorem runs_anyWinReceive {c : Coord} (hc : s.inGrid c = true) (g member : Nat) (no : Bool) :
    Runs (.anyWinReceive c g member no) s (s.anyWinAt c g member no) :=
  State.onCell_present hc _

end

/-- Settles O13: each row runs its operation; the decoder goes by whether the counter of the period before is 0. -/
theorem anycastSelection : Obligations.AnycastSelection := by
  refine ⟨?_, ?_, ?_, ?_⟩
  · intro s g hg _
    exact runs_anycastAdvertise hg
  · intro s g hg hcount hperiod htally
    exact State.anyDecode_noWinner hcount hperiod htally ▸ runs_anycastWinnerDecode hg
  · intro s g v hg hcount hperiod htally hv
    exact State.anyDecode_winner hcount hperiod htally hv ▸ runs_anycastWinnerDecode hg
  · intro s c g member no hc
    exact runs_anyWinReceive hc g member no

end Sys2Proof.Machine
end

section
/-! SUPPORT. A router's arbitration (chapter 4): what its rows may change in the state, its windows, slot periods and claims (R79, R85, R86),
and the exchange of credits (R91, R142, R145). Obligations O56, O10 and O11 follow. -/

namespace Sys2Proof.Machine

/-! ### What a row of one router may change -/

/-- From `s` to `t` only the time, the registers and what router `c` holds may have changed. -/
def RouterAlone (c : Coord) (s t : State) : Prop :=
  t = { s with time := t.time, regs := t.regs, rtrs := t.rtrs } ∧ ∀ d, cellKey d ≠ cellKey c → t.rtr d = s.rtr d

theorem State.rtr_modRtr_other (s : State) {c d : Coord} (f : RtrSt → RtrSt) (h : cellKey d ≠ cellKey c) :
    (s.modRtr c f).rtr d = s.rtr d :=
  SMap.get_put_other h

section
variable {c : Coord} {s t u : State}

theorem RouterAlone.refl (c : Coord) (s : State) : RouterAlone c s s := ⟨rfl, fun _ _ => rfl⟩

theorem RouterAlone.trans (hst : RouterAlone c s t) (htu : RouterAlone c t u) : RouterAlone c s u := by
  obtain ⟨hst, hrtr⟩ := hst
  obtain ⟨htu, hrtr'⟩ := htu
  refine ⟨htu.trans ?_, fun d hd => (hrtr' d hd).trans (hrtr d hd)⟩
  rw [hst]

theorem RouterAlone.atTime (h : RouterAlone c s t) (now : Nat) : RouterAlone c s { t with time := now } :=
  h.trans ⟨rfl, fun _ _ => rfl⟩

theorem RouterAlone.bump (h : RouterAlone c s t) (n : Node) (inst idx sub k : Nat) : RouterAlone c s (t.bump n inst idx sub k) :=
  h.trans ⟨rfl, fun _ _ => rfl⟩

theorem RouterAlone.modRtr (h : RouterAlone c s t) (f : RtrSt → RtrSt) : RouterAlone c s (t.modRtr c f) :=
  h.trans ⟨rfl, fun _ hd => t.rtr_modRtr_other f hd⟩

theorem RouterAlone.modOut (h : RouterAlone c s t) (p : Nat) (f : OutSt → OutSt) : RouterAlone c s (t.modOut c p f) := h.modRtr _

theorem RouterAlone.startWindow (h : RouterAlone c s t) (p first : Nat) : RouterAlone c s (t.startWindow c p first) := by
  unfold State.startWindow
  exact h.modOut p _

/-- With the clock stopped the row changes nothing. -/
theorem RouterAlone.clocked (h : RouterAlone c s t) (d : Coord) : RouterAlone c s (s.clocked d t) := by
  unfold State.clocked
  split
  · exact h
  · exact .refl c s

/-- A row that answers a next state answers the one under its guard. -/
theorem RouterAlone.of_whenUnit {ok : Bool} {what : String} (h : RouterAlone c s u) (hnext : whenUnit ok what u = .next t) :
    RouterAlone c s t := by
  unfold whenUnit at hnext
  split at hnext
  · cases hnext
    exact h
  · cases hnext

end

/-! ### The arbitration rows change their router alone -/

section
variable (s : State) (c : Coord)

theorem State.windowBoundary_routerAlone (p : Nat) : RouterAlone c s (s.windowBoundary c p) :=
  ((RouterAlone.refl c s).atTime _).startWindow p _

theorem State.claimArise_routerAlone (p : Nat) : RouterAlone c s (s.claimArise c p) := by
  unfold State.claimArise
  dsimp only
  split
  · exact ((RouterAlone.refl c s).atTime _).modOut p _
  · exact (((RouterAlone.refl c s).atTime _).modOut p _).modOut p _

theorem State.claimLapse_routerAlone (p : Nat) : RouterAlone c s (s.claimLapse c p) := by
  unfold State.claimLapse
  dsimp only
  split
  · exact .refl c s
  · exact ((((RouterAlone.refl c s).atTime _).modOut p _).bump _ _ _ _ _).bump _ _ _ _ _

theorem State.anyWinAt_routerAlone (g member : Nat) (no : Bool) : RouterAlone c s (s.anyWinAt c g member no) :=
  (RouterAlone.refl c s).modRtr _

end

theorem exec_arbitration_routerAlone {i : Instr} {s t : State} {c : Coord} {p g member : Nat} {no : Bool}
    (hi : i = .arbWindowBoundary c p ∨ i = .tradeClaimArise c p ∨ i = .tradeClaimLapse c p ∨ i = .anyWinReceive c g member no)
    (hnext : exec i s = .next t) : RouterAlone c s t := by
  rcases hi with rfl | rfl | rfl | rfl
  · exact ((s.windowBoundary_routerAlone c p).clocked c).of_whenUnit hnext
  · exact ((s.claimArise_routerAlone c p).clocked c).of_whenUnit hnext
  · exact ((s.claimLapse_routerAlone c p).clocked c).of_whenUnit hnext
  · exact (s.anyWinAt_routerAlone c g member no).of_whenUnit hnext

/-- Settles O56: each row is a chain of updates of the time, of a counter and of the router it names. -/
theorem arbitrationFrame : Obligations.ArbitrationFrame := by
  intro i s t c p g member no hi hnext
  obtain ⟨hrest, hrtr⟩ := exec_arbitration_routerAlone hi hnext
  refine ⟨?_, ?_, ?_, ?_, ?_, ?_, ?_, ?_, ?_, ?_, ?_, ?_, hrtr⟩
  all_goals rw [hrest]

/-! ### Rows that the clock of the router's field drives -/

section
variable {s : State} {c : Coord} {p : Nat}

theorem State.clocked_stopped (hstop : s.clockRuns (s.fieldOf c) = false) (t : State) : s.clocked c t = s := by
  simp [State.clocked, hstop]

theorem State.onPort_running (hc : s.inGrid c = true) (hp : hasPort c p = true) (hrun : s.clockRuns (s.fieldOf c) = true) (t : State) :
    s.onPort c p (s.clocked c t) = .next t := by
  rw [State.clocked_running hrun, State.onPort_present hc hp]

theorem State.onPort_stopped (hc : s.inGrid c = true) (hp : hasPort c p = true) (hstop : s.clockRuns (s.fieldOf c) = false)
    (t : State) : s.onPort c p (s.clocked c t) = .next s := by
  rw [State.clocked_stopped hstop, State.onPort_present hc hp]

theorem State.onLinkSide_running (hc : s.inGrid c = true) (hp : hasPort c p = true) (hlink : p < 8)
    (hrun : s.clockRuns (s.fieldOf c) = true) (t : State) : s.onLinkSide c p (s.clocked c t) = .next t := by
  rw [State.clocked_running hrun, State.onLinkSide_present hc hp hlink]

theorem State.onLinkSide_stopped (hc : s.inGrid c = true) (hp : hasPort c p = true) (hlink : p < 8)
    (hstop : s.clockRuns (s.fieldOf c) = false) (t : State) : s.onLinkSide c p (s.clocked c t) = .next s := by
  rw [State.clocked_stopped hstop, State.onLinkSide_present hc hp hlink]

/-! ### Slot periods and slot tables -/

/-- A period with an owner gives it a claim: that of the period that begins, or of the next one where its claim has arisen. -/
theorem State.claimArise_owned {k own t : Nat} (hk : k = max (cdiv (s.fcCount (s.fieldOf c)) 4) (s.outp c p).claimed)
    (ht : t = max s.time (s.fcTime (s.fieldOf c) (4 * k))) (hslot : ({ s with time := t } : State).slotOwner c p k = own)
    (hown : own ≤ 8) :
    s.claimArise c p =
      (({ s with time := t } : State).modOut c p (fun o => { o with claimed := k + 1 })).modOut c p (fun o =>
        o.setReq (5 * own + 2) { o.req (5 * own + 2) with claims := (o.req (5 * own + 2)).claims ++ [⟨k, false, false⟩] }) := by
  subst hk ht hslot
  exact if_neg (Nat.not_lt.mpr hown)

theorem State.slotApply_committed {t : List Byte} (hpower : s.power (s.fieldOf c) ≠ 2) (hslots : (s.outp c p).slots = some t) :
    s.slotApply c p =
      (({ s with time := max s.time (s.outp c p).slotsAt } : State).setTab (cellNode c) 0 (0x4040 + p) 1
        (Memory.writeN (objEmpty 0x4040 1) [] 0 t)).modOut c p (fun o => { o with slots := none }) := by
  simp [State.slotApply, hpower, hslots]

/-! ### Credit sync -/

theorem State.syncRetry_underway {y : SyncSt} (hsync : (s.outp c p).sync = some y) :
    s.syncRetry c p =
      (({ s with time := max s.time (s.fcAfter (s.fieldOf c) y.start 256) } : State).modOut c p
        (fun o => { o with sync := some ⟨max s.time (s.fcAfter (s.fieldOf c) y.start 256), none, none⟩ })).linkLocal c p
          (fun d q => .creditSyncReq d q) := by
  simp [State.syncRetry, hsync]

/-! ### The rows whose operation a statement gives case by case -/

theorem runs_tradeClaimArise (hc : s.inGrid c = true) (hp : hasPort c p = true) (hrun : s.clockRuns (s.fieldOf c) = true) :
    Runs (.tradeClaimArise c p) s (s.claimArise c p) :=
  State.onPort_running hc hp hrun _

theorem runs_tradeTableApply (hc : s.inGrid c = true) (hp : hasPort c p = true) (hrun : s.clockRuns (s.fieldOf c) = true) :
    Runs (.tradeTableApply c p) s (s.slotApply c p) :=
  State.onPort_running hc hp hrun _

theorem runs_creditSyncRetry (hc : s.inGrid c = true) (hp : hasPort c p = true) (hlink : p < 8)
    (hrun : s.clockRuns (s.fieldOf c) = true) : Runs (.creditSyncRetry c p) s (s.syncRetry c p) :=
  State.onLinkSide_running hc hp hlink hrun _

end

/-- Settles O10: while the clock runs each row runs its operation, which for a claim goes by the owner of the slot and for a table by
whether one waits; while it stands no row changes anything. -/
theorem arbitrationWindows : Obligations.ArbitrationWindows := by
  refine ⟨?_, ?_, ?_, ?_, ?_⟩
  · intro s c p hc hp hrun
    exact State.onPort_running hc hp hrun _
  · intro s c p k own t hc hp hrun hk ht hslot hown
    exact State.claimArise_owned hk ht hslot hown ▸ runs_tradeClaimArise hc hp hrun
  · intro s c p hc hp hrun _
    exact State.onPort_running hc hp hrun _
  · intro s c p t hc hp hrun hpower hslots
    exact State.slotApply_committed hpower hslots ▸ runs_tradeTableApply hc hp hrun
  · intro s c p hc hp hstop
    have hwaits := State.onPort_stopped hc hp hstop
    simp only [List.forall_mem_cons]
    exact ⟨hwaits _, hwaits _, hwaits _, hwaits _, hwaits _, List.forall_mem_nil _⟩

/-- Settles O11: while the clock runs each row runs its operation, the retry that of the sync under way; while it stands what has arrived
waits. A signal beat's own operation looks at the clock. -/
theorem creditExchanges : Obligations.CreditExchanges := by
  refine ⟨?_, ?_, ?_, ?_, ?_, ?_, ?_, ?_, ?_, ?_⟩
  · intro s c p hc hp hlink hrun
    exact State.onLinkSide_running hc hp hlink hrun _
  · intro s c p hc hp hlink hrun _
    exact State.onLinkSide_running hc hp hlink hrun _
  · intro s c p counts hc hp hlink hrun _
    exact State.onLinkSide_running hc hp hlink hrun _
  · intro s c p y hc hp hlink hrun hsync
    exact State.syncRetry_underway hsync ▸ runs_creditSyncRetry hc hp hlink hrun
  · intro s c p hc hp hlink hrun _
    exact State.onLinkSide_running hc hp hlink hrun _
  · intro s c p counts hc hp hlink hrun
    exact State.onLinkSide_running hc hp hlink hrun _
  · intro s c p cw side hc hp hlink
    exact State.onLinkSide_present hc hp hlink _
  · intro s c p hc hp hlink hrun
    exact State.onLinkSide_running hc hp hlink hrun _
  · intro s c p counts hc hp hlink hrun
    exact State.onLinkSide_running hc hp hlink hrun _
  · intro s c p hc hp hlink hstop
    have hwaits := State.onLinkSide_stopped hc hp hlink hstop
    simp only [List.forall_mem_cons]
    exact ⟨hwaits _, hwaits _, hwaits _, hwaits _, hwaits _, hwaits _, List.forall_mem_nil _⟩

end Sys2Proof.Machine
end

section
/-! SUPPORT. The direct operations of a core (R115, R133 to R135, R158): what they may change in the state, and what those on completion
counters and on the interrupt queue do case by case. Obligations O55 and O6 follow. -/

namespace Sys2Proof.Machine

/-! ### A change of one core -/

theorem CellSt.coreSt_setAt_other (q : CellSt) {i j : Nat} (v : CoreSt) (h : j ≠ i) :
    ({ q with cores := setAt q.cores i v } : CellSt).coreSt j = q.coreSt j := by
  simp [CellSt.coreSt, nth, setAt, h.symm]

/-- A cell that holds no core of this number stays as it is. -/
theorem CellSt.coreSt_setAt_same (q : CellSt) (i : Nat) (v : CoreSt) :
    ({ q with cores := setAt q.cores i v } : CellSt).coreSt i = v ∨
      ({ q with cores := setAt q.cores i v } : CellSt).coreSt i = q.coreSt i := by
  by_cases h : i < q.cores.length
  · left
    simp [CellSt.coreSt, nth, setAt, h]
  · right
    simp [CellSt.coreSt, nth, setAt, h]

section
variable {s : State} (hwf : SMap.wf CellSt.init s.cells = true)
include hwf

theorem State.core_modCore_other (c : Coord) {i j : Nat} (f : CoreSt → CoreSt) (h : j ≠ i) :
    (s.modCore c i f).core c j = s.core c j := by
  unfold State.core
  rw [State.cell_modCore_same hwf]
  exact (s.cell c).coreSt_setAt_other _ h

theorem State.core_modCore_same (c : Coord) (i : Nat) (f : CoreSt → CoreSt) :
    (s.modCore c i f).core c i = f (s.core c i) ∨ (s.modCore c i f).core c i = s.core c i := by
  unfold State.core
  rw [State.cell_modCore_same hwf]
  exact (s.cell c).coreSt_setAt_same i _

end

/-! ### What a direct operation may change -/

/-- From `k` to `k'` only the waits and the interrupt queue of a core may have changed. -/
def CoreSt.WaitsAlone (k k' : CoreSt) : Prop := k' = { k with waits := k'.waits, chWaits := k'.chWaits, intq := k'.intq }

/-- From `s` to `t` only the time, the answers, and the waits and the interrupt queue of one core may have changed. -/
structure DirectAlone (c : Coord) (core : Nat) (s t : State) : Prop where
  rest : t = { s with time := t.time, cells := t.cells, answers := t.answers }
  cellsWf : SMap.wf CellSt.init t.cells = true
  otherCells : ∀ d, cellKey d ≠ cellKey c → t.cell d = s.cell d
  cell : t.cell c = { s.cell c with cores := (t.cell c).cores }
  otherCores : ∀ j, j ≠ core → t.core c j = s.core c j
  core : (s.core c core).WaitsAlone (t.core c core)

theorem CoreSt.WaitsAlone.trans {k k' k'' : CoreSt} (h : k.WaitsAlone k') (h' : k'.WaitsAlone k'') : k.WaitsAlone k'' := by
  refine Eq.trans h' ?_
  rw [h]

section
variable {c : Coord} {core : Nat} {s t u : State}

theorem DirectAlone.refl (c : Coord) (core : Nat) (hwf : SMap.wf CellSt.init s.cells = true) : DirectAlone c core s s :=
  ⟨rfl, hwf, fun _ _ => rfl, rfl, fun _ _ => rfl, rfl⟩

theorem DirectAlone.trans (hst : DirectAlone c core s t) (htu : DirectAlone c core t u) : DirectAlone c core s u where
  rest := htu.rest.trans (by rw [hst.rest])
  cellsWf := htu.cellsWf
  otherCells := fun d hd => (htu.otherCells d hd).trans (hst.otherCells d hd)
  cell := htu.cell.trans (by rw [hst.cell])
  otherCores := fun j hj => (htu.otherCores j hj).trans (hst.otherCores j hj)
  core := hst.core.trans htu.core

theorem DirectAlone.answer (h : DirectAlone c core s t) (tag value outcome : Nat) :
    DirectAlone c core s (t.answer c core tag value outcome) :=
  h.trans ⟨rfl, h.cellsWf, fun _ _ => rfl, rfl, fun _ _ => rfl, rfl⟩

theorem DirectAlone.atTime (h : DirectAlone c core s t) (now : Nat) : DirectAlone c core s { t with time := now } :=
  h.trans ⟨rfl, h.cellsWf, fun _ _ => rfl, rfl, fun _ _ => rfl, rfl⟩

theorem DirectAlone.modCore (h : DirectAlone c core s t) {f : CoreSt → CoreSt} (hf : ∀ k, CoreSt.WaitsAlone k (f k)) :
    DirectAlone c core s (t.modCore c core f) :=
  h.trans
    { rest := rfl
      cellsWf := SMap.wf_put h.cellsWf
      otherCells := fun _ hd => t.cell_modCore_other core f hd
      cell := by rw [State.cell_modCore_same h.cellsWf]
      otherCores := fun _ hj => State.core_modCore_other h.cellsWf c f hj
      core := by
        rcases State.core_modCore_same h.cellsWf c core f with hcore | hcore <;> rw [hcore]
        · exact hf _
        · rfl }

end

/-! ### The guards of the rows -/

/-- A row that answers a next state answers the one under its guard. -/
theorem whenUnit_next {P : State → Prop} {ok : Bool} {what : String} {t u : State} (hu : P u) (hnext : whenUnit ok what u = .next t) :
    P t := by
  unfold whenUnit at hnext
  split at hnext
  · cases hnext
    exact hu
  · cases hnext

section
variable {s run : State} {c : Coord} {core k : Nat}

theorem State.direct_elim {P : State → Prop} (hs : P s) (hrun : P run) (c : Coord) : P (s.direct c run) := by
  unfold State.direct
  split
  · exact hs
  · exact hrun

theorem State.direct_served (hup : (s.cell c).inReset = false) (run : State) : s.direct c run = run := by
  simp [State.direct, hup]

theorem State.onCore_present (hc : s.inGrid c = true) (hcore : core < 4) (t : State) : s.onCore c core t = .next t := by
  simp [State.onCore, whenUnit, hc, hcore]

theorem State.onCtr_present (hc : s.inGrid c = true) (hcore : core < 4) (hk : k < 16) (t : State) :
    s.onCtr c core k t = .next t := by
  simp [State.onCtr, whenUnit, hc, hcore, hk]

theorem State.onCore_served (hc : s.inGrid c = true) (hcore : core < 4) (hup : (s.cell c).inReset = false) (run : State) :
    s.onCore c core (s.direct c run) = .next run := by
  rw [State.direct_served hup, State.onCore_present hc hcore]

theorem State.onCtr_served (hc : s.inGrid c = true) (hcore : core < 4) (hk : k < 16) (hup : (s.cell c).inReset = false) (run : State) :
    s.onCtr c core k (s.direct c run) = .next run := by
  rw [State.direct_served hup, State.onCtr_present hc hcore hk]

end

/-! ### The direct operations change their core alone -/

section
variable {s : State} (hwf : SMap.wf CellSt.init s.cells = true) (c : Coord) (core : Nat)
include hwf

theorem State.blockingWait_directAlone (tag k v : Nat) : DirectAlone c core s (s.blockingWait c core tag k v) := by
  have hs := DirectAlone.refl c core hwf
  unfold State.blockingWait
  dsimp only
  split
  · have hreplaced := fun old => (hs.modCore (f := fun q => { q with waits := q.waits.filter (fun x => x.k != k) })
      (fun _ => rfl)).answer old (s.counter c core k) 1
    split
    · exact (hreplaced _).answer _ _ _
    · exact (hreplaced _).modCore (fun _ => rfl)
  · split
    · exact hs.answer _ _ _
    · exact hs.modCore (fun _ => rfl)

theorem State.waitLate_directAlone (k : Nat) : DirectAlone c core s (s.waitLate c core k) := by
  have hs := DirectAlone.refl c core hwf
  unfold State.waitLate
  split
  · exact hs
  · refine ((hs.atTime _).modCore ?_).answer _ _ _
    exact fun _ => rfl

theorem State.chWait_directAlone (tag n : Nat) : DirectAlone c core s (s.chWait c core tag n) := by
  have hs := DirectAlone.refl c core hwf
  unfold State.chWait
  dsimp only
  split
  · have hreplaced := fun old => (hs.modCore (f := fun q => { q with chWaits := q.chWaits.filter (fun x => x.n != n) })
      (fun _ => rfl)).answer old (s.chanWord c n) 0
    split
    · exact (hreplaced _).answer _ _ _
    · exact (hreplaced _).modCore (fun _ => rfl)
  · split
    · exact hs.answer _ _ _
    · exact hs.modCore (fun _ => rfl)

theorem State.chWaitLate_directAlone (n : Nat) : DirectAlone c core s (s.chWaitLate c core n) := by
  have hs := DirectAlone.refl c core hwf
  unfold State.chWaitLate
  split
  · exact hs
  · refine ((hs.atTime _).modCore ?_).answer _ _ _
    exact fun _ => rfl

theorem State.intTake_directAlone (tag : Nat) : DirectAlone c core s (s.intTake c core tag) := by
  have hs := DirectAlone.refl c core hwf
  unfold State.intTake
  split
  · refine (hs.modCore ?_).answer _ _ _
    exact fun _ => rfl
  · exact hs.answer _ _ _

theorem exec_direct_directAlone {i : Instr} {t : State} {tag k v : Nat}
    (hi : i = .counterRead c core tag k ∨ i = .blockingWait c core tag k v ∨ i = .waitTimeoutExpiry c core k ∨
      i = .chPoll c core tag k ∨ i = .chWait c core tag k ∨ i = .chWaitTimeout c core k ∨ i = .intTake c core tag)
    (hnext : exec i s = .next t) : DirectAlone c core s t := by
  have hs := DirectAlone.refl c core hwf
  have served := fun run (hrun : DirectAlone c core s run) => State.direct_elim hs hrun c
  rcases hi with rfl | rfl | rfl | rfl | rfl | rfl | rfl
  · exact whenUnit_next (served _ (hs.answer tag (s.counter c core k) 0)) hnext
  · exact whenUnit_next (served _ (State.blockingWait_directAlone hwf c core tag k v)) hnext
  · exact whenUnit_next (State.waitLate_directAlone hwf c core k) hnext
  · exact whenUnit_next (served _ (hs.answer tag (s.chanWord c k) 0)) hnext
  · exact whenUnit_next (served _ (State.chWait_directAlone hwf c core tag k)) hnext
  · exact whenUnit_next (State.chWaitLate_directAlone hwf c core k) hnext
  · exact whenUnit_next (served _ (State.intTake_directAlone hwf c core tag)) hnext

end

/-! ### CH_ADVANCE changes its channel's HEAD, or the count of refused advances -/

/-- From `s` to `t` only the answers, the HEAD of a channel and BAD_ADVANCE of its cell may have changed. -/
def HeadAlone (c : Coord) (n : Nat) (s t : State) : Prop :=
  t = { s with regs := t.regs, answers := t.answers } ∧
    ∀ k, k ≠ regKey (cellNode c) 0 (0x4100 + n) 9 → k ≠ regKey (cellNode c) 0 0x4180 6 →
      ∀ d, SMap.get d t.regs k = SMap.get d s.regs k

theorem HeadAlone.refl (c : Coord) (n : Nat) (s : State) : HeadAlone c n s s := ⟨rfl, fun _ _ _ _ => rfl⟩

theorem HeadAlone.answer {c : Coord} {n : Nat} {s t : State} (h : HeadAlone c n s t) (core tag value outcome : Nat) :
    HeadAlone c n s (t.answer c core tag value outcome) := by
  obtain ⟨hrest, hregs⟩ := h
  refine ⟨?_, hregs⟩
  rw [hrest]
  rfl

theorem State.chAdvance_headAlone (s : State) (c : Coord) (n h g : Nat) : HeadAlone c n s (s.chAdvance c n h g).2 := by
  unfold State.chAdvance
  split
  · exact ⟨rfl, fun k hhead _ _ => SMap.get_put_other hhead⟩
  · exact .refl c n s
  · exact ⟨rfl, fun k _ hcount _ => SMap.get_put_other hcount⟩

theorem exec_chAdvance_headAlone {s t : State} {c : Coord} {core tag n h g : Nat}
    (hnext : exec (.chAdvance c core tag n h g) s = .next t) : HeadAlone c n s t :=
  have hrun : HeadAlone c n s (s.chAdvanceOp c core tag n h g) := (s.chAdvance_headAlone c n _ _).answer core tag _ _
  whenUnit_next (State.direct_elim (.refl c n s) hrun c) hnext

/-- Settles O55: each operation is a chain of answers and of changes of the waits or the interrupt queue of its core; CH_ADVANCE stores in
one register at most. -/
theorem directOperationFrame : Obligations.DirectOperationFrame := by
  refine ⟨?_, ?_⟩
  · intro i s t c core tag k v hcanon hi hnext
    have h := exec_direct_directAlone (Kept.start hcanon).cells c core hi hnext
    have hcore : t.core c core = _ := h.core
    refine ⟨?_, ?_, ?_, ?_, ?_, ?_, ?_, ?_, ?_, ?_, ?_, ?_, ?_, ?_, ?_, ?_, h.otherCells, h.otherCores, by rw [hcore], by rw [hcore]⟩
    all_goals rw [h.rest]
  · intro s t c core tag n h g hnext
    obtain ⟨hrest, hregs⟩ := exec_chAdvance_headAlone hnext
    refine ⟨?_, ?_, ?_, ?_, ?_, ?_, hregs⟩
    all_goals rw [hrest]

/-! ### Completion counters and the interrupt queue, case by case -/

section
variable {s : State} {c : Coord} {core k : Nat}

theorem State.blockingWait_reached {v : Nat} (hnone : (s.core c core).waits.find? (fun w => w.k == k) = none)
    (hpast : atOrPast32 (s.counter c core k) v = true) (tag : Nat) :
    s.blockingWait c core tag k v = s.answer c core tag (s.counter c core k) 0 := by
  simp [State.blockingWait, hnone, hpast]

theorem State.blockingWait_joins {v : Nat} (hnone : (s.core c core).waits.find? (fun w => w.k == k) = none)
    (hshort : atOrPast32 (s.counter c core k) v = false) (tag : Nat) :
    s.blockingWait c core tag k v = s.modCore c core (fun q => { q with
      waits := q.waits ++ [⟨k, v % 2 ^ 32, tag, s.time + us (s.reg (cellNode c) 0 0x4000 2)⟩] }) := by
  simp [State.blockingWait, hnone, hshort]

theorem State.waitLate_waiting {w : Wait} (hwait : (s.core c core).waits.find? (fun w => w.k == k) = some w) :
    s.waitLate c core k =
      (({ s with time := max s.time w.deadline } : State).modCore c core (fun q => { q with
        waits := q.waits.filter (fun x => x.k != k) })).answer c core w.tag (s.counter c core k) 1 := by
  unfold State.waitLate
  rw [hwait]
  rfl

theorem State.intTake_entry {e : Nat} {rest : List Nat} (hintq : (s.core c core).intq = e :: rest) (tag : Nat) :
    s.intTake c core tag = (s.modCore c core (fun k => { k with intq := rest })).answer c core tag e 0 := by
  simp [State.intTake, hintq]

theorem State.intTake_empty (hintq : (s.core c core).intq = []) (tag : Nat) :
    s.intTake c core tag = s.answer c core tag 0 1 := by
  simp [State.intTake, hintq]

section
variable (hc : s.inGrid c = true) (hcore : core < 4) (hup : (s.cell c).inReset = false)
include hc hcore hup

theorem runs_counterRead (hk : k < 16) (tag : Nat) :
    Runs (.counterRead c core tag k) s (s.answer c core tag (s.counter c core k) 0) := State.onCtr_served hc hcore hk hup _

theorem runs_blockingWait (hk : k < 16) (tag v : Nat) : Runs (.blockingWait c core tag k v) s (s.blockingWait c core tag k v) :=
  State.onCtr_served hc hcore hk hup _

theorem runs_intTake (tag : Nat) : Runs (.intTake c core tag) s (s.intTake c core tag) := State.onCore_served hc hcore hup _

end

theorem runs_waitTimeoutExpiry (hc : s.inGrid c = true) (hcore : core < 4) (hk : k < 16) :
    Runs (.waitTimeoutExpiry c core k) s (s.waitLate c core k) := State.onCtr_present hc hcore hk _

end

/-- Settles O6: each row runs its operation, which goes by whether the counter has reached the value waited for, by the wait held, and by
the interrupt queue. -/
theorem counterOperations : Obligations.CounterOperations := by
  refine ⟨?_, ?_, ?_, ?_, ?_, ?_⟩
  · intro s c core tag k hc hcore hk hup
    exact runs_counterRead hc hcore hup hk tag
  · intro s c core tag k v hc hcore hk hup hnone hpast
    exact State.blockingWait_reached hnone hpast tag ▸ runs_blockingWait hc hcore hup hk tag v
  · intro s c core tag k v hc hcore hk hup hnone hshort
    exact State.blockingWait_joins hnone hshort tag ▸ runs_blockingWait hc hcore hup hk tag v
  · intro s c core k w hc hcore hk hwait
    exact ⟨_, State.waitLate_waiting hwait ▸ runs_waitTimeoutExpiry hc hcore hk, Nat.le_max_right _ _, rfl⟩
  · intro s c core tag e rest hc hcore hup hintq
    exact State.intTake_entry hintq tag ▸ runs_intTake hc hcore hup tag
  · intro s c core tag hc hcore hup hintq
    exact State.intTake_empty hintq tag ▸ runs_intTake hc hcore hup tag

end Sys2Proof.Machine
end

section
/-! SUPPORT. The queues of a cell port (R99, R100, R102): a descriptor that joins one, and the head that the port accepts or refuses.
Obligations O4 and O5 follow. -/

namespace Sys2Proof.Machine

theorem State.present_joins {s : State} {c : Coord} {core : Nat} (hup : (s.cell c).inReset = false)
    (hroom : (s.core c core).queue.length < 64) (d : Nat) :
    s.present c core d = (s.modCore c core (fun k => { k with queue := k.queue ++ [d] })).causeWake (s.fieldOf c) 3 :=
  if_neg (by simp [hup, hroom])

theorem runs_commandPresent {s : State} {c : Coord} {core : Nat} (hc : s.inGrid c = true) (hcore : core < 4) (d : Descriptor) :
    Runs (.commandPresent c core d) s (s.present c core d.toNat) := State.onCore_present hc hcore _

/-- Settles O4: the row runs its operation, which a full queue or a reset alone would stop. -/
theorem presentJoinsQueue : Obligations.PresentJoinsQueue := by
  intro s c core d hc hcore hup hroom
  exact State.present_joins hup hroom d.toNat ▸ runs_commandPresent hc hcore d

section
variable {s s1 s2 : State} {c : Coord} {core d code : Nat} {kind : CmdKind} (hopen : s.portOpen c = true)
  (hpick : s.pickHead c 4 (((s.cell c).last + 1) % 4) = (some (core, d), s1)) (hkind : kindOf d = kind)
include hopen hpick hkind

theorem State.accept_valid (hcode : (s1.popHead c core).refusalCode c d = (0, s2)) :
    s.accept c kind = ((s2.takeSlot c core d).2.accepted c (s2.takeSlot c core d).1).after c := by
  simp [State.accept, hopen, hpick, hkind, hcode]

theorem State.accept_invalid (hcode : (s1.popHead c core).refusalCode c d = (code, s2)) (hbad : code ≠ 0) :
    s.accept c kind = s2.refuse c core d code := by
  simp [State.accept, hopen, hpick, hkind, hcode, hbad]

end

/-- Every row that accepts a head is the cell's guard around the acceptance of its kind. -/
theorem exec_acceptRow (s : State) (c : Coord) : ∀ r ∈ acceptRows, exec (r.1 c) s = s.onCell c (s.accept c r.2) := by
  simp only [acceptRows, List.forall_mem_cons]
  exact ⟨rfl, rfl, rfl, rfl, rfl, rfl, rfl, rfl, rfl, rfl, rfl, rfl, rfl, rfl, rfl, rfl, rfl, rfl, rfl, rfl, rfl, rfl, rfl,
    List.forall_mem_nil _⟩

theorem runs_acceptRow {s : State} {c : Coord} {r : (Coord → Instr) × CmdKind} (hr : r ∈ acceptRows) (hc : s.inGrid c = true) :
    Runs (r.1 c) s (s.accept c r.2) := (exec_acceptRow s c r hr).trans (State.onCell_present hc _)

/-- Settles O5: each row runs the acceptance of its kind, which goes by the code of the head's refusal. -/
theorem headIsAcceptedOrRefused : Obligations.HeadIsAcceptedOrRefused := by
  intro r hr s s1 s2 c core d code hc hopen hpick hkind hcode
  refine ⟨fun hvalid => ?_, fun hbad => ?_⟩
  · subst hvalid
    exact State.accept_valid hopen hpick hkind hcode ▸ runs_acceptRow hr hc
  · exact State.accept_invalid hopen hpick hkind hcode hbad ▸ runs_acceptRow hr hc

end Sys2Proof.Machine
end

section
/-! SUPPORT. Stores into the cell memories (R112, R119): which bytes a store, and the record of a completion, leave as they were. Obligation
O53 follows. -/

namespace Sys2Proof.Machine

/-! ### Stores of any rank -/

section
variable {s t : State}

theorem State.memRead_congr (h : t.cellMem = s.cellMem) (d : Coord) (a n : Nat) : t.memRead d a n = s.memRead d a n := by
  unfold State.memRead State.mem
  rw [h]

/-- The rank of a store orders its writes at the port; the bytes it stores are the same (R119). -/
theorem State.cellMem_memWriteAs (s : State) (c : Coord) (rank a : Nat) (bs : List Byte) :
    (s.memWriteAs c rank a bs).cellMem = (s.memWrite c a bs).cellMem := by
  rw [State.cellMem_memWrite]
  unfold State.memWriteAs State.portStart
  dsimp only
  split <;> rfl

theorem State.mem_sameKey {c d : Coord} (h : cellKey d = cellKey c) : s.mem d = s.mem c := by
  unfold State.mem
  rw [h]

/-- A byte of another cell, or outside the stored range, reads as before. -/
theorem State.memRead_memWrite_outside {c d : Coord} {a b : Nat} {bs : List Byte} (hm : s.memOk = true)
    (h : cellKey d ≠ cellKey c ∨ b < a ∨ a + bs.length ≤ b) : (s.memWrite c a bs).memRead d b 1 = s.memRead d b 1 := by
  unfold State.memRead Memory.readN
  by_cases hkey : cellKey d = cellKey c
  · have hrange := h.resolve_left (not_not_intro hkey)
    rw [State.mem_sameKey hkey, State.mem_sameKey hkey, State.memWrite_other s c a b bs hrange hm]
    rfl
  · rw [State.memWrite_other_cell s a bs hkey]

end

/-! ### Completion records -/

theorem leBytes_length (k n : Nat) : (leBytes k n).length = k := by
  induction k generalizing n with
  | zero => rfl
  | succ k ih => rw [leBytes, List.length_cons, ih]

theorem recordBytes_length (r : Record) : (recordBytes r).length = 32 := leBytes_length 32 _

/-- The address of entry (prod mod entries) of a core's completion ring, which the next record takes (R112). -/
def State.recordAddr (s : State) (c : Coord) (core : Nat) : Nat :=
  s.reg (cellNode c) 0 (0x4004 + core) 1 + 32 * ((s.core c core).prod % s.reg (cellNode c) 0 (0x4004 + core) 2)

/-- A completion record stores the bytes of one record at its address. -/
theorem State.cellMem_writeRecord (s : State) (c : Coord) (core op kind status utag slot reuse detail value : Nat) :
    ∃ r, (s.writeRecord c core op kind status utag slot reuse detail value).cellMem =
      (s.memWrite c (s.recordAddr c core) (recordBytes r)).cellMem :=
  ⟨_, State.cellMem_memWriteAs s c 1 (s.recordAddr c core) _⟩

/-- Settles O53: a store keeps every byte outside its range, and a completion record is one store of 32 bytes. -/
theorem memoryStores : Obligations.MemoryStores := by
  refine ⟨?_, ?_, ?_, ?_⟩
  · intro s c a bs hm
    exact State.memRead_memWrite s c a bs hm
  · intro s c a b bs hm hrange
    exact State.memRead_memWrite_outside hm (.inr hrange)
  · intro s c d a b bs hkey
    unfold State.memRead
    rw [State.memWrite_other_cell s a bs hkey.symm]
  · intro s c core op kind st utag slot reuse detail value a d hm houtside
    obtain ⟨r, hstore⟩ := s.cellMem_writeRecord c core op kind st utag slot reuse detail value
    exact (State.memRead_congr hstore d a 1).trans (State.memRead_memWrite_outside hm (by rwa [recordBytes_length]))

end Sys2Proof.Machine
end

section
/-! SUPPORT. The direct operations of a core on a message channel (R133 to R135): what each does in the case a statement names, and the row
that runs it. Obligation O7 follows. -/

namespace Sys2Proof.Machine

section
variable {s : State} {c : Coord} {core n : Nat}

/-! ### The guards of the rows -/

theorem State.onChan_present (hc : s.inGrid c = true) (hcore : core < 4) (hn : n < 64) (t : State) : s.onChan c core n t = .next t := by
  simp [State.onChan, whenUnit, hc, hcore, hn]

theorem State.onChan_served (hc : s.inGrid c = true) (hcore : core < 4) (hn : n < 64) (hup : (s.cell c).inReset = false) (run : State) :
    s.onChan c core n (s.direct c run) = .next run := by
  rw [State.direct_served hup, State.onChan_present hc hcore hn]

/-! ### The operations, case by case -/

theorem State.chWait_ready (hnone : (s.core c core).chWaits.find? (fun w => w.n == n) = none) (hready : s.chanReady c n = true)
    (tag : Nat) : s.chWait c core tag n = s.answer c core tag (s.chanWord c n) 0 := by
  simp [State.chWait, hnone, hready]

theorem State.chWait_joins (hnone : (s.core c core).chWaits.find? (fun w => w.n == n) = none) (hempty : s.chanReady c n = false)
    (tag : Nat) :
    s.chWait c core tag n = s.modCore c core (fun q => { q with
      chWaits := q.chWaits ++ [⟨n, tag, s.time + us (s.reg (cellNode c) 0 0x4180 1)⟩] }) := by
  simp [State.chWait, hnone, hempty]

/-- A wait held past its deadline leaves the core, and is answered with the channel's word. -/
theorem State.chWaitLate_waiting {w : ChWait} (hwait : (s.core c core).chWaits.find? (fun w => w.n == n) = some w) :
    s.chWaitLate c core n =
      (({ s with time := max s.time w.deadline } : State).modCore c core (fun q => { q with
        chWaits := q.chWaits.filter (fun x => x.n != n) })).answer c core w.tag (s.chanWord c n) 0 := by
  unfold State.chWaitLate
  rw [hwait]
  rfl

theorem State.chan_setChan_same (hregs : risingFrom 0 s.regs = true) (c : Coord) (n sub v : Nat) :
    (s.setChan c n sub v).chan c n sub = v := State.reg_setReg_same hregs _ _ _ _ _

/-- An advance that is DONE answers the HEAD that it stores. -/
theorem State.chAdvanceOp_done {h g : Nat} (hregs : risingFrom 0 s.regs = true)
    (hdone : s.advanceCode c n (h % 2 ^ 32) (g % 2 ^ 32) = 0) (core tag : Nat) :
    s.chAdvanceOp c core tag n h g = (s.setChan c n 9 (g % 2 ^ 32)).answer c core tag (g % 2 ^ 32) 0 := by
  simp only [State.chAdvanceOp, State.chAdvance, hdone, State.chan_setChan_same hregs]

/-! ### The rows -/

theorem runs_chWaitTimeout (hc : s.inGrid c = true) (hcore : core < 4) (hn : n < 64) :
    Runs (.chWaitTimeout c core n) s (s.chWaitLate c core n) := State.onChan_present hc hcore hn _

section
variable (hc : s.inGrid c = true) (hcore : core < 4) (hn : n < 64) (hup : (s.cell c).inReset = false)
include hc hcore hn hup

theorem runs_chPoll (tag : Nat) : Runs (.chPoll c core tag n) s (s.answer c core tag (s.chanWord c n) 0) :=
  State.onChan_served hc hcore hn hup _

theorem runs_chWait (tag : Nat) : Runs (.chWait c core tag n) s (s.chWait c core tag n) := State.onChan_served hc hcore hn hup _

theorem runs_chAdvance (tag h g : Nat) : Runs (.chAdvance c core tag n h g) s (s.chAdvanceOp c core tag n h g) :=
  State.onChan_served hc hcore hn hup _

end

end

/-- Settles O7: each row runs its operation, which goes by whether the channel must be answered now, by the wait held, and by the code of
the advance. -/
theorem channelOperations : Obligations.ChannelOperations := by
  refine ⟨?_, ?_, ?_, ?_, ?_⟩
  · intro s c core tag n hc hcore hn hup
    exact runs_chPoll hc hcore hn hup tag
  · intro s c core tag n hc hcore hn hup hnone hready
    exact State.chWait_ready hnone hready tag ▸ runs_chWait hc hcore hn hup tag
  · intro s c core tag n hc hcore hn hup hnone hempty
    exact State.chWait_joins hnone hempty tag ▸ runs_chWait hc hcore hn hup tag
  · intro s c core n w hc hcore hn hwait
    exact ⟨_, State.chWaitLate_waiting hwait ▸ runs_chWaitTimeout hc hcore hn, Nat.le_max_right _ _, rfl⟩
  · intro s c core tag n h g hcanon hc hcore hn hup hdone
    exact State.chAdvanceOp_done (Kept.start hcanon).regs hdone core tag ▸ runs_chAdvance hc hcore hn hup tag h g

end Sys2Proof.Machine
end

section
/-! SUPPORT. DELIVERED at the cell it names (R106, R168): it ends a transfer of the router's own where one awaits it with the same TAG and
RSV. Obligation O16 follows. -/

namespace Sys2Proof.Machine

section
variable {s : State} {c : Coord}

theorem State.atSig_awake (hawake : s.cellAwake c = true) (sg : Signal) (run : State → State) : s.atSig c sg run = run (s.takeSig sg) :=
  if_pos hawake

theorem State.deliveredAt_awake {d : Delivered} (hawake : s.cellAwake (srcCell d.target) = true) :
    s.deliveredAt d = ((s.takeSig (.delivered d)).deliveredCell (srcCell d.target) d).after (srcCell d.target) := by
  rw [State.deliveredAt, State.atSig_awake hawake]

theorem runs_deliveredReceive {d : Delivered} (hc : s.inGrid (srcCell d.target) = true) (heng : d.target.eng = s.engine) :
    Runs (.deliveredReceive d) s (s.deliveredAt d) := if_pos (by simp [hc, heng])

/-- A transfer of the router's own that awaits this DELIVERED takes it, whatever command of the cell holds the same TAG. -/
theorem State.deliveredCell_traceAwaits {d : Delivered} {r : SrcRsv} (hrsv : s.srcRsv? c (bits d.arg32 0 6) = some r)
    (huse : r.use = .trace) (htag : r.tag = d.tag) (hst : r.st = .awaiting) (horigin : srcCell d.origin = destCell r.dest) :
    s.deliveredCell c d = (s.accounted c r.tag (some r.rsv) false).endSrcRsv c r.rsv := by
  simp [State.deliveredCell, hrsv, huse, htag, hst, horigin]

end

/-! ### A SEND and a trace chunk that one DELIVERED may name -/

/-- A live SEND of cell (0, 0) to cell (1, 0) in slot 0, whose reuse count has come round to 0: its TAG is 0. -/
def sendOfTagZero : Cmd := ⟨0, 0, 0, 3 + 2 ^ 43, 0, 1, 0, 0, [], 0, true, true, some 100, [], none⟩

/-- A trace chunk of cell (0, 0) to cell (1, 0) that awaits its DELIVERED. `State.routerTransfer` gives every transfer of the router's own
TAG 0. -/
def chunkOfTagZero : SrcRsv := ⟨.trace, zeros 64, 0, 0, 0, 0, 0, 64, 0, ⟨0, 1, 0, 0⟩, .awaiting, 100, 0, 0, 0, 0, 0, 0⟩

/-- A block in which cell (0, 0) holds both. -/
def sendBesideChunk : State :=
  ({ State.reset with build := ⟨4, 4, 1, 0x05050505, 64⟩ } : State).modCell ⟨0, 0⟩ (fun q => { q with
    cmds := [sendOfTagZero], rsvs := [chunkOfTagZero] })

/-- The DELIVERED that cell (1, 0) sends for the SEND: a channel's epoch, TAG 0 and ARG32 0, of which bits [5:0] are a reservation's RSV. -/
def deliveredOfTagZero : Delivered := ⟨7, 0, ⟨0, 0, 0, 0, false⟩, ⟨0, 1, 0, 0, false⟩, 0⟩

/-- At its cell the DELIVERED ends the chunk's reservation. -/
theorem deliveredAt_sendBesideChunk :
    sendBesideChunk.deliveredAt deliveredOfTagZero =
      (((sendBesideChunk.takeSig (.delivered deliveredOfTagZero)).accounted ⟨0, 0⟩ 0 (some 0) false).endSrcRsv ⟨0, 0⟩ 0).after ⟨0, 0⟩ := by
  have hawaits : (sendBesideChunk.takeSig (.delivered deliveredOfTagZero)).srcRsv? (srcCell deliveredOfTagZero.target)
      (bits deliveredOfTagZero.arg32 0 6) = some chunkOfTagZero := by decide +kernel
  rw [State.deliveredAt_awake (by decide +kernel), State.deliveredCell_traceAwaits hawaits rfl rfl rfl rfl]
  rfl

/-- Refutes O16 in its second clause, which leaves out that a DELIVERED may name a transfer of the router's own: in `sendBesideChunk` the
DELIVERED ends the trace chunk of TAG 0, and the SEND of TAG 0 stays live. -/
theorem not_repliesComplete : ¬ Obligations.RepliesComplete := by
  rintro ⟨-, hdelivered, -, -⟩
  have hcompletes := hdelivered sendBesideChunk deliveredOfTagZero sendOfTagZero (by decide +kernel) rfl (by decide +kernel)
    (by decide +kernel) (by decide +kernel)
  have hruns := runs_deliveredReceive (s := sendBesideChunk) (d := deliveredOfTagZero) (by decide +kernel) rfl
  rw [deliveredAt_sendBesideChunk] at hruns
  have hcmds := congrArg (fun t : State => (t.cell ⟨0, 0⟩).cmds) (Host.Outcome.next.inj (hruns.symm.trans hcompletes))
  exact absurd hcmds (by decide +kernel)

end Sys2Proof.Machine
end

section
/-! SUPPORT. Words packed from fields (R8) read back field by field, and the beats of a signal read back the signal (R144). Obligation O45
follows. -/

namespace Sys2Proof.Machine

/-! ### Words packed from fields -/

/-- Each field lies above the one before it, from bit `start` on, and its value fits its width. -/
def FieldsFit : Nat → List (Nat × Nat × Nat) → Prop
  | _, [] => True
  | start, (lo, w, v) :: fs => start ≤ lo ∧ fits w v = true ∧ FieldsFit (lo + w) fs

/-- The word holds the value of every field in its place. -/
def Reads (word : Nat) : List (Nat × Nat × Nat) → Prop
  | [] => True
  | (lo, w, v) :: fs => bits word lo w = v ∧ Reads word fs

theorem fits_iff {w v : Nat} : fits w v = true ↔ v < 2 ^ w := decide_eq_true_iff

section
variable {n lo w v : Nat} (hn : n < 2 ^ lo) (hv : fits w v = true)
include hn hv

theorem place_lt : place n lo w v < 2 ^ (lo + w) := by
  have hv := fits_iff.mp hv
  calc place n lo w v
    _ = n + v * 2 ^ lo := by rw [place, Nat.mod_eq_of_lt hv]
    _ < 2 ^ lo + v * 2 ^ lo := Nat.add_lt_add_right hn _
    _ = (v + 1) * 2 ^ lo := by rw [Nat.succ_mul, Nat.add_comm]
    _ ≤ 2 ^ w * 2 ^ lo := Nat.mul_le_mul_right _ hv
    _ = 2 ^ (lo + w) := by rw [Nat.pow_add, Nat.mul_comm]

theorem bits_place_same : bits (place n lo w v) lo w = v := by
  rw [bits, place, Nat.add_mul_div_right _ _ (Nat.two_pow_pos lo), Nat.div_eq_of_lt hn, Nat.zero_add, Nat.mod_mod,
    Nat.mod_eq_of_lt (fits_iff.mp hv)]

end

/-- A field placed above does not reach the bits below it. -/
theorem bits_place_below {lo w lo' : Nat} (h : lo + w ≤ lo') (n w' v : Nat) : bits (place n lo' w' v) lo w = bits n lo w := by
  obtain ⟨k, rfl⟩ := Nat.exists_eq_add_of_le h
  have hmul : v % 2 ^ w' * 2 ^ (lo + w + k) = (v % 2 ^ w' * 2 ^ k * 2 ^ w) * 2 ^ lo := by
    rw [Nat.pow_add, Nat.pow_add]
    ac_rfl
  rw [bits, bits, place, hmul, Nat.add_mul_div_right _ _ (Nat.two_pow_pos lo), Nat.add_mul_mod_self_right]

/-- The fields placed on a word that ends below them. -/
def packOn (n : Nat) (fs : List (Nat × Nat × Nat)) : Nat := fs.foldl (fun n f => place n f.1 f.2.1 f.2.2) n

theorem packOn_zero (fs : List (Nat × Nat × Nat)) : packOn 0 fs = pack fs := rfl

theorem packOn_cons (n lo w v : Nat) (fs : List (Nat × Nat × Nat)) :
    packOn n ((lo, w, v) :: fs) = packOn (place n lo w v) fs := rfl

theorem bits_packOn_below {fs : List (Nat × Nat × Nat)} {lo w start : Nat} (hfit : FieldsFit start fs) (h : lo + w ≤ start) (n : Nat) :
    bits (packOn n fs) lo w = bits n lo w := by
  induction fs generalizing n start with
  | nil => rfl
  | cons f fs ih =>
    obtain ⟨hstart, -, hfit⟩ := hfit
    rw [packOn_cons, ih hfit (by omega), bits_place_below (by omega)]

theorem reads_packOn {fs : List (Nat × Nat × Nat)} {start n : Nat} (hfit : FieldsFit start fs) (hn : n < 2 ^ start) :
    Reads (packOn n fs) fs := by
  induction fs generalizing n start with
  | nil => trivial
  | cons f fs ih =>
    obtain ⟨lo, w, v⟩ := f
    obtain ⟨hstart, hv, hfit⟩ := hfit
    have hn : n < 2 ^ lo := Nat.lt_of_lt_of_le hn (Nat.pow_le_pow_right Nat.two_pos hstart)
    rw [packOn_cons]
    exact ⟨(bits_packOn_below hfit (Nat.le_refl _) _).trans (bits_place_same hn hv), ih hfit (place_lt hn hv)⟩

theorem reads_pack {fs : List (Nat × Nat × Nat)} (hfit : FieldsFit 0 fs) : Reads (pack fs) fs :=
  packOn_zero fs ▸ reads_packOn hfit Nat.one_pos

theorem packOn_lt {fs : List (Nat × Nat × Nat)} {start n top : Nat} (hfit : FieldsFit start fs) (hn : n < 2 ^ start) (hstart : start ≤ top)
    (htop : ∀ f ∈ fs, f.1 + f.2.1 ≤ top) : packOn n fs < 2 ^ top := by
  induction fs generalizing n start with
  | nil => exact Nat.lt_of_lt_of_le hn (Nat.pow_le_pow_right Nat.two_pos hstart)
  | cons f fs ih =>
    obtain ⟨lo, w, v⟩ := f
    obtain ⟨hlo, hv, hfit⟩ := hfit
    obtain ⟨hend, htop⟩ := List.forall_mem_cons.mp htop
    have hn : n < 2 ^ lo := Nat.lt_of_lt_of_le hn (Nat.pow_le_pow_right Nat.two_pos hlo)
    exact ih hfit (place_lt hn hv) hend htop

theorem fits_pack {fs : List (Nat × Nat × Nat)} {top : Nat} (hfit : FieldsFit 0 fs) (htop : ∀ f ∈ fs, f.1 + f.2.1 ≤ top) :
    fits top (pack fs) = true :=
  fits_iff.mpr (packOn_zero fs ▸ packOn_lt hfit Nat.one_pos (Nat.zero_le top) htop)

@[simp] theorem fits_b2n (b : Bool) : fits 1 (b2n b) = true := by cases b <;> rfl

theorem bit_eq_bits (word i : Nat) : bit word i = decide (bits word i 1 = 1) := rfl

@[simp] theorem b2n_eq_one (b : Bool) : b2n b = 1 ↔ b = true := by cases b <;> decide

/-! ### Address words (R26, R144) -/

section
variable {a : SrcAddr} (hwf : a.wf = true)
include hwf

theorem fieldsFit_targetWord : FieldsFit 0 [(0, 11, a.eng), (11, 9, a.x), (20, 9, a.y), (29, 2, a.core)] := by
  simp only [SrcAddr.wf, Bool.and_eq_true] at hwf
  simp [FieldsFit, hwf]

theorem fieldsFit_srcWord :
    FieldsFit 0 [(0, 11, a.eng), (11, 9, a.x), (20, 9, a.y), (29, 2, a.core), (31, 1, b2n a.stream)] := by
  simp only [SrcAddr.wf, Bool.and_eq_true] at hwf
  simp [FieldsFit, hwf]

@[simp] theorem fits_targetWord : fits 31 (targetWord a) = true := fits_pack (fieldsFit_targetWord hwf) (by simp)

@[simp] theorem fits_srcWord : fits 32 (srcWord a) = true := fits_pack (fieldsFit_srcWord hwf) (by simp)

@[simp] theorem targetOf_targetWord (hstream : a.stream = false) : targetOf (targetWord a) = a := by
  have hreads : Reads (targetWord a) _ := reads_pack (fieldsFit_targetWord hwf)
  simp only [Reads, and_true] at hreads
  simp [targetOf, hreads, ← hstream]

@[simp] theorem srcAddrOf_srcWord : srcAddrOf (srcWord a) = a := by
  have hreads : Reads (srcWord a) _ := reads_pack (fieldsFit_srcWord hwf)
  simp only [Reads, and_true] at hreads
  simp [srcAddrOf, bit_eq_bits, hreads]

end

/-! ### Signals (R144) -/

/-- The beats of the signal read back the signal. -/
def SignalReadsBack (g : Signal) : Prop :=
  sigOf (nth (sigBeats g) 0 0) (nth (sigBeats g) 1 0) (decide ((sigBeats g).length = 2)) = some g

/-- A SOP is a field of six bits. -/
@[simp] theorem fits_sop {n : Nat} (h : n < 64) : fits 6 n = true := fits_iff.mpr h

section
variable {g : Signal} {fs fs' : List (Nat × Nat × Nat)}

/-- One beat reads back where every word that holds its fields does. -/
theorem readsBack_oneBeat (hbeats : sigBeats g = [pack fs]) (hfit : FieldsFit 0 fs)
    (hread : ∀ a, Reads a fs → sigOf a 0 false = some g) : SignalReadsBack g := by
  rw [SignalReadsBack, hbeats]
  exact hread _ (reads_pack hfit)

/-- Two beats read back where every two words that hold their fields do. -/
theorem readsBack_twoBeats (hbeats : sigBeats g = [pack fs, pack fs']) (hfit : FieldsFit 0 fs) (hfit' : FieldsFit 0 fs')
    (hread : ∀ a b, Reads a fs → Reads b fs' → sigOf a b true = some g) : SignalReadsBack g := by
  rw [SignalReadsBack, hbeats]
  exact hread _ _ (reads_pack hfit) (reads_pack hfit')

end

theorem readsBack_nack {n : Nack} (h : n.wf = true) : SignalReadsBack (.nack n) := by
  simp only [Nack.wf, Bool.and_eq_true, Bool.not_eq_true'] at h
  exact readsBack_oneBeat rfl (by simp [FieldsFit, h]) (by simp +contextual [Reads, sigOf, h])

theorem readsBack_delivered {d : Delivered} (h : d.wf = true) : SignalReadsBack (.delivered d) := by
  simp only [Delivered.wf, Bool.and_eq_true, Bool.not_eq_true'] at h
  exact readsBack_oneBeat rfl (by simp [FieldsFit, h]) (by simp +contextual [Reads, sigOf, h])

theorem readsBack_tallyRsp {q : TallyRsp} (h : q.wf = true) : SignalReadsBack (.tallyRsp q) := by
  simp only [TallyRsp.wf, Bool.and_eq_true] at h
  exact readsBack_oneBeat rfl (by simp [FieldsFit, h]) (by simp +contextual [Reads, sigOf])

theorem readsBack_int {t o : SrcAddr} {arg : Nat} (h : (Signal.int t o arg).wf = true) : SignalReadsBack (.int t o arg) := by
  simp only [Signal.wf, Bool.and_eq_true, Bool.not_eq_true'] at h
  exact readsBack_oneBeat rfl (by simp [FieldsFit, h]) (by simp +contextual [Reads, sigOf, h])

theorem readsBack_wake {t o : SrcAddr} {arg : Nat} (h : (Signal.wake t o arg).wf = true) : SignalReadsBack (.wake t o arg) := by
  simp only [Signal.wf, Bool.and_eq_true, Bool.not_eq_true'] at h
  exact readsBack_oneBeat rfl (by simp [FieldsFit, h]) (by simp +contextual [Reads, sigOf, h])

theorem tallyOp_cases {op : Nat} (hlo : 0x10 ≤ op) (hhi : op ≤ 0x15) :
    op = 0x10 ∨ op = 0x11 ∨ op = 0x12 ∨ op = 0x13 ∨ op = 0x14 ∨ op = 0x15 := by
  omega

/-- The SOPs 0x10 to 0x15 are those of the tally requests. -/
theorem sigOf_tallyOp {a op : Nat} (hsop : bits a 0 6 = op) (hlo : 0x10 ≤ op) (hhi : op ≤ 0x15) (b : Nat) (two : Bool) :
    sigOf a b two = some (.tallyReq ⟨op, bits a 8 16, bits a 24 9, bits a 33 8, bits a 41 9, bits a 50 9, bits a 59 2, bits a 64 64⟩) := by
  simp only [sigOf, hsop]
  rcases tallyOp_cases hlo hhi with rfl | rfl | rfl | rfl | rfl | rfl <;> rfl

theorem readsBack_tallyReq {q : TallyReq} (h : q.wf = true) : SignalReadsBack (.tallyReq q) := by
  simp only [TallyReq.wf, Bool.and_eq_true, decide_eq_true_eq] at h
  have hsop : q.op < 64 := by omega
  refine readsBack_oneBeat rfl (by simp [FieldsFit, h, hsop]) fun a hreads => ?_
  simp only [Reads, and_true] at hreads
  obtain ⟨hop, hreads⟩ := hreads
  rw [sigOf_tallyOp hop (by simp [h]) (by simp [h])]
  simp [hreads]

theorem readsBack_barArrive {a : BarArrive} (h : a.wf = true) (hplain : a.two = true ∨ a.hi = 0) : SignalReadsBack (.barArrive a) := by
  obtain ⟨bctx, gen, count, rx, ry, value, hi, two⟩ := a
  simp only [BarArrive.wf, Bool.and_eq_true] at h
  cases two with
  | true => exact readsBack_twoBeats rfl (by simp [FieldsFit, h]) (by simp [FieldsFit, h]) (by simp +contextual [Reads, sigOf])
  | false =>
    obtain rfl : hi = 0 := hplain.resolve_left Bool.false_ne_true
    exact readsBack_oneBeat rfl (by simp [FieldsFit, h]) (by simp +contextual [Reads, sigOf, bits])

theorem readsBack_barRelease {r : BarRelease} (h : r.wf = true) : SignalReadsBack (.barRelease r) := by
  simp only [BarRelease.wf, Bool.and_eq_true] at h
  exact readsBack_twoBeats rfl (by simp [FieldsFit, h]) (by simp [FieldsFit, h])
    (by simp +contextual [Reads, sigOf, bit_eq_bits])

theorem readsBack_mresGrant {g : MresGrant} (h : g.wf = true) : SignalReadsBack (.mresGrant g) := by
  simp only [MresGrant.wf, Bool.and_eq_true] at h
  exact readsBack_twoBeats rfl (by simp [FieldsFit, h]) (by simp [FieldsFit, h]) (by simp +contextual [Reads, sigOf, h])

theorem readsBack_mresArrive {a : MresArrive} (h : a.wf = true) : SignalReadsBack (.mresArrive a) := by
  simp only [MresArrive.wf, Bool.and_eq_true] at h
  exact readsBack_oneBeat rfl (by simp [FieldsFit, h]) (by simp +contextual [Reads, sigOf, h])

theorem readsBack_ringChange {hole : Coord} (h : hole.wf = true) (row col : Bool) : SignalReadsBack (.ringChange hole row col) := by
  simp only [Coord.wf, Bool.and_eq_true] at h
  exact readsBack_oneBeat rfl (by simp [FieldsFit, h]) (by simp +contextual [Reads, sigOf, bit_eq_bits])

theorem readsBack_anyWin {g member : Nat} (hg : fits 8 g = true) (hmember : fits 8 member = true) (no : Bool) :
    SignalReadsBack (.anyWin g member no) :=
  readsBack_oneBeat rfl (by simp [FieldsFit, hg, hmember]) (by simp +contextual [Reads, sigOf, bit_eq_bits])

theorem readsBack_beacon {b : Beacon} (h : b.wf = true) : SignalReadsBack (.beacon b) := by
  simp only [Beacon.wf, Bool.and_eq_true] at h
  exact readsBack_oneBeat rfl (by simp [FieldsFit, h]) (by simp +contextual [Reads, sigOf, bit_eq_bits])

theorem readsBack_halt {h : Halt} (hwf : h.wf = true) : SignalReadsBack (.halt h) := by
  simp only [Halt.wf, Bool.and_eq_true] at hwf
  exact readsBack_oneBeat rfl (by simp [FieldsFit, hwf]) (by simp +contextual [Reads, sigOf, bit_eq_bits, hwf])

/-- Settles O45: the fields of each beat fit their widths and do not overlap, so that each reads back, and the SOP names the signal. -/
theorem signalRoundTrip : Obligations.SignalRoundTrip := by
  intro g hwf hplain
  change SignalReadsBack g
  cases g with
  | nack n => exact readsBack_nack hwf
  | delivered d => exact readsBack_delivered hwf
  | int t o arg => exact readsBack_int hwf
  | wake t o arg => exact readsBack_wake hwf
  | tallyReq q => exact readsBack_tallyReq hwf
  | tallyRsp q => exact readsBack_tallyRsp hwf
  | barArrive a => exact readsBack_barArrive hwf (by simpa [plainSignal] using hplain)
  | barRelease r => exact readsBack_barRelease hwf
  | mresGrant g => exact readsBack_mresGrant hwf
  | mresArrive a => exact readsBack_mresArrive hwf
  | ringChange hole row col => exact readsBack_ringChange hwf row col
  | anyWin g member no =>
    obtain ⟨hg, hmember⟩ := Bool.and_eq_true_iff.mp hwf
    exact readsBack_anyWin hg hmember no
  | beacon b => exact readsBack_beacon hwf
  | halt h => exact readsBack_halt hwf
  | credit | creditSyncReq | creditSyncRsp | slsync | dictReq | dictRsp => exact absurd hplain Bool.false_ne_true

end Sys2Proof.Machine
end

section
/-! SUPPORT. Tally counters (R155, R156): little-endian numbers in a table of the dictionary, and what a request does to the counters of its
field. Obligation O50 follows. -/

namespace Sys2Proof.Machine

/-! ### Numbers in tables -/

theorem leNat_leBytes (k n : Nat) : leNat (leBytes k n) = n % 256 ^ k := by
  induction k generalizing n with
  | zero => rw [leBytes, leNat, Nat.pow_zero, Nat.mod_one]
  | succ k ih => rw [leBytes, leNat, ih, BitVec.toNat_ofNat, Nat.pow_succ' (m := 256), Nat.mod_mul]

theorem leNat_lt (bs : List Byte) : leNat bs < 256 ^ bs.length := by
  induction bs with
  | nil => exact Nat.one_pos
  | cons b bs ih =>
    have hb := b.isLt
    rw [leNat, List.length_cons, Nat.pow_succ']
    omega

theorem Memory.readN_length (d : Byte) (m : Memory) (a n : Nat) : (Memory.readN d m a n).length = n := by
  induction n generalizing a with
  | zero => rfl
  | succ n ih => rw [Memory.readN, List.length_cons, ih]

/-- A range outside a stored one reads as before. -/
theorem Memory.readN_writeN_other {d e : Byte} {m : Memory} {a b n : Nat} {bs : List Byte} (h : b + n ≤ a ∨ a + bs.length ≤ b) :
    Memory.readN e (Memory.writeN d m a bs) b n = Memory.readN e m b n := by
  induction n generalizing b with
  | zero => rfl
  | succ n ih => rw [Memory.readN, Memory.readN, ih (by omega), Memory.get_writeN_other (by omega)]

/-! ### The counters of a field -/

section
variable {s t : State} {f : Nat}

theorem State.tally_eq (s : State) (f k : Nat) :
    s.tally f k = leNat (Memory.readN 0 (s.tab (.field f) 0 0x3020 1) (8 * k) 8) := rfl

theorem State.tally_congr (h : t.tab (.field f) 0 0x3020 1 = s.tab (.field f) 0 0x3020 1) (k : Nat) : t.tally f k = s.tally f k := by
  rw [State.tally_eq, State.tally_eq, h]

theorem State.tally_lt (s : State) (f k : Nat) : s.tally f k < 2 ^ 64 := by
  have h := leNat_lt (Memory.readN 0 (s.tab (.field f) 0 0x3020 1) (8 * k) 8)
  rwa [Memory.readN_length] at h

section
variable (htabs : SMap.wf [] s.tabs = true)
include htabs

theorem State.tab_setTally (f k v : Nat) :
    (s.setTally f k v).tab (.field f) 0 0x3020 1 = Memory.writeN 0 (s.tab (.field f) 0 0x3020 1) (8 * k) (leBytes 8 v) :=
  State.tab_setTab_same htabs _ _ _ _ _

theorem State.tally_setTally_same (hmem : Memory.wf 0 (s.tab (.field f) 0 0x3020 1) = true) (k v : Nat) :
    (s.setTally f k v).tally f k = v % 2 ^ 64 := by
  rw [State.tally_eq, State.tab_setTally htabs]
  exact (congrArg leNat (Memory.readN_writeN hmem)).trans (leNat_leBytes 8 v)

theorem State.tally_setTally_other {j k : Nat} (hjk : j ≠ k) (v : Nat) : (s.setTally f k v).tally f j = s.tally f j := by
  rw [State.tally_eq, State.tally_eq, State.tab_setTally htabs, Memory.readN_writeN_other]
  rw [leBytes_length]
  omega

end

/-! ### What an operation does -/

/-- The new value of a counter is one of 64 bits. -/
theorem tallyNew_lt {old v : Nat} (hold : old < 2 ^ 64) (hv : v < 2 ^ 64) (op : Nat) : tallyNew op old v < 2 ^ 64 := by
  unfold tallyNew
  (repeat' split) <;> omega

/-- The operations 0x10 to 0x15 one by one. -/
theorem tallyNew_eq {op : Nat} (hlo : 0x10 ≤ op) (hhi : op ≤ 0x15) (old v : Nat) :
    tallyNew op old v = if op = 0x10 then (old + v) % 2 ^ 64 else if op = 0x11 then min old v else if op = 0x12 then max old v
      else if op = 0x13 then old else if op = 0x14 then v else if v ≤ old then old - v else old := by
  rcases tallyOp_cases hlo hhi with rfl | rfl | rfl | rfl | rfl | rfl <;> rfl

/-- OPS of TALLY is no counter of a cell. -/
theorem State.reg_discardSig_ops (s : State) (c : Coord) (f : Nat) :
    (s.discardSig c).reg (.field f) 0 0x3020 2 = s.reg (.field f) 0 0x3020 2 := by
  refine State.reg_bump_other s 1 ?_
  simp only [regKey, Node.key, cellNode]
  omega

@[simp] theorem State.reg_sendSig (s : State) (c : Coord) (sg : Signal) (n : Node) (inst idx sub : Nat) :
    (s.sendSig c sg).reg n inst idx sub = s.reg n inst idx sub := rfl

@[simp] theorem State.reg_setTally (s : State) (f k v : Nat) (n : Node) (inst idx sub : Nat) :
    (s.setTally f k v).reg n inst idx sub = s.reg n inst idx sub := rfl

theorem objWidth_tallyOps : objWidth 0x3020 2 = 64 := by decide

theorem regKey_tallyOps_ne (f : Nat) : regKey (.field f) 0 0x3020 2 ≠ regKey (.field f) 0 0x3020 3 := by
  simp only [regKey]
  omega

section
variable {q : TallyReq}

/-- Of the tables an operation stores in its counter alone. -/
theorem State.tab_tallyOp (s : State) (q : TallyReq) (n : Node) (inst idx sub : Nat) :
    (s.tallyOp q).tab n inst idx sub = (s.setTally q.f q.k (tallyNew q.op (s.tally q.f q.k) q.v)).tab n inst idx sub := by
  unfold State.tallyOp
  dsimp only
  split <;> rfl

/-- An operation is counted in OPS; a take that fails is counted elsewhere as well. -/
theorem State.tallyOp_ops (hregs : risingFrom 0 s.regs = true) (q : TallyReq) :
    (s.tallyOp q).reg (.field q.f) 0 0x3020 2 = (s.reg (.field q.f) 0 0x3020 2 + 1) % 2 ^ 64 := by
  have hops := State.reg_bump_same (s := s.setTally q.f q.k (tallyNew q.op (s.tally q.f q.k) q.v)) hregs (.field q.f) 0 0x3020 2 1
  rw [objWidth_tallyOps, State.reg_setTally] at hops
  rw [State.tallyOp, State.reg_sendSig]
  split
  · exact (State.reg_bump_other _ 1 (regKey_tallyOps_ne q.f)).trans hops
  · exact hops

theorem State.tallyOp_same (hcanon : s.canonical = true) (hmem : Memory.wf 0 (s.tab (.field q.f) 0 0x3020 1) = true) (hv : q.v < 2 ^ 64) :
    (s.tallyOp q).tally q.f q.k = tallyNew q.op (s.tally q.f q.k) q.v := by
  rw [State.tally_congr (s.tab_tallyOp q _ _ _ _), State.tally_setTally_same (Kept.start hcanon).tabs hmem,
    Nat.mod_eq_of_lt (tallyNew_lt (s.tally_lt q.f q.k) hv q.op)]

theorem State.tallyOp_other (hcanon : s.canonical = true) {k : Nat} (hk : k ≠ q.k) : (s.tallyOp q).tally q.f k = s.tally q.f k := by
  rw [State.tally_congr (s.tab_tallyOp q _ _ _ _), State.tally_setTally_other (Kept.start hcanon).tabs hk]

end

end

/-! ### The row -/

section
variable {s : State} {c : Coord} {q : TallyReq}

theorem State.atRouter_hole (hhole : s.isHole c = true) (sg : Signal) (run : State → State) :
    s.atRouter c sg run = (s.takeSig sg).discardSig c := if_pos hhole

theorem State.atRouter_running (hlive : s.isHole c = false) (hrun : s.clockRuns (s.fieldOf c) = true) (sg : Signal)
    (run : State → State) : s.atRouter c sg run = run (s.takeSig sg) := by
  simp [State.atRouter, hlive, hrun]

theorem State.atRouter_stopped (hlive : s.isHole c = false) (hstop : s.clockRuns (s.fieldOf c) = false) (sg : Signal)
    (run : State → State) : s.atRouter c sg run = { s with sigs := if s.sigs.contains sg then s.sigs else s.sigs ++ [sg] } := by
  simp [State.atRouter, hlive, hstop]

theorem runs_tallyRequestAtHome (hf : q.f < s.nFields) (hk : q.k < 256) (hlo : 0x10 ≤ q.op) (hhi : q.op ≤ 0x15) :
    Runs (.tallyRequestAtHome q) s (s.tallyAt q) := if_pos (by simp [hf, hk, hlo, hhi])

theorem tallyReq_bounds (hwf : q.wf = true) : 0x10 ≤ q.op ∧ q.op ≤ 0x15 ∧ q.k < 256 ∧ q.v < 2 ^ 64 := by
  simp only [TallyReq.wf, Bool.and_eq_true, decide_eq_true_eq, fits] at hwf
  obtain ⟨⟨⟨⟨⟨⟨⟨⟨hlo, hhi⟩, -⟩, -⟩, hk⟩, -⟩, -⟩, -⟩, hv⟩ := hwf
  exact ⟨hlo, hhi, hk, hv⟩

/-- A request that finds no running home router changes neither the tables nor OPS. -/
theorem State.tallyAt_unserved (h : s.isHole (s.tallyHome q.f q.k) = true ∨ s.clockRuns (s.fieldOf (s.tallyHome q.f q.k)) = false) :
    (s.tallyAt q).tabs = s.tabs ∧ (s.tallyAt q).reg (.field q.f) 0 0x3020 2 = s.reg (.field q.f) 0 0x3020 2 := by
  rw [State.tallyAt]
  cases hhole : s.isHole (s.tallyHome q.f q.k) with
  | true =>
    rw [State.atRouter_hole hhole]
    exact ⟨rfl, State.reg_discardSig_ops _ _ q.f⟩
  | false =>
    have hstop := h.resolve_left (by simp [hhole])
    rw [State.atRouter_stopped hhole hstop]
    exact ⟨rfl, rfl⟩

end

/-- Settles O50: at a running home a request sets its counter to the new value of its operation and counts in OPS; elsewhere it waits or is
discarded. -/
theorem tallyOperations : Obligations.TallyOperations := by
  refine ⟨?_, ?_⟩
  · intro s q hcanon hmem hf hwf hlive hrun
    obtain ⟨hlo, hhi, hk, hv⟩ := tallyReq_bounds hwf
    have hserved : s.tallyAt q = (s.takeSig (.tallyReq q)).tallyOp q := State.atRouter_running hlive hrun _ _
    have hcanon' : (s.takeSig (.tallyReq q)).canonical = true := hcanon
    refine ⟨_, hserved ▸ runs_tallyRequestAtHome hf hk hlo hhi, ?_, fun k _ hne => ?_, ?_⟩
    · exact (State.tallyOp_same hcanon' hmem hv).trans (tallyNew_eq hlo hhi _ _)
    · exact State.tallyOp_other hcanon' hne
    · exact State.tallyOp_ops (Kept.start hcanon').regs q
  · intro s q hwf hf hunserved
    obtain ⟨hlo, hhi, hk, -⟩ := tallyReq_bounds hwf
    exact ⟨_, runs_tallyRequestAtHome hf hk hlo hhi, State.tallyAt_unserved hunserved⟩

end Sys2Proof.Machine
end

section
/-! SUPPORT. Barriers, replies and interrupts of the signal net (R149 to R159): what each row does in the case a statement names. Obligations
O14 and O15 follow. -/

namespace Sys2Proof.Machine

section
variable {s : State} {c : Coord}

/-! ### Barriers -/

theorem runs_barArriveAtRoot {a : BarArrive} (hc : s.inGrid c = true) (ha : a.bctx < 4096) :
    Runs (.barArriveAtRoot c a) s (s.barArriveAt c a) := if_pos (by simp [hc, ha])

theorem State.barTimeout_open {k : Nat} (hlive : s.isHole (s.barRoot k) = false) (hopen : s.bar (s.barRoot k) k 0x0A = 2) :
    s.barTimeout k =
      ({ s with time := max s.time (SMap.get BarSt.init s.bars k).deadline } : State).barRelease (s.barRoot k) k true :=
  if_pos ⟨hopen, hlive⟩

theorem runs_barrierPhaseTimeout {k : Nat} (hk : k < 4096) : Runs (.barrierPhaseTimeout k) s (s.barTimeout k) :=
  if_pos (decide_eq_true hk)

theorem runs_barReleaseReceive (hc : s.inGrid c = true) (hawake : s.cellAwake c = true) (r : BarRelease) :
    Runs (.barReleaseReceive c r) s ((((s.takeSig (.barRelease r)).barReleaseAt c r).xbarRelease c r).after c) :=
  (State.onCell_present hc _).trans (congrArg _ (State.atSig_awake hawake _ _))

/-! ### Replies of tally counters -/

theorem State.tallyRspAt_found {q : TallyRsp} {m : Cmd} (hcmd : s.cmd? ⟨q.x, q.y⟩ q.tag = some m) (htally : isTally m.desc = true) :
    s.tallyRspAt q = s.complete ⟨q.x, q.y⟩ m 0 0 q.old := by
  simp [State.tallyRspAt, hcmd, htally]

theorem runs_tallyRspReceive {q : TallyRsp} (hc : s.inGrid ⟨q.x, q.y⟩ = true) (hawake : s.cellAwake ⟨q.x, q.y⟩ = true) :
    Runs (.tallyRspReceive q) s (((s.takeSig (.tallyRsp q)).tallyRspAt q).after ⟨q.x, q.y⟩) :=
  (State.onCell_present hc _).trans (congrArg _ (State.atSig_awake hawake _ _))

/-! ### Interrupts and wakes -/

theorem State.intAt_room {core : Nat} (hlive : s.isHole c = false) (hup : (s.cell c).inReset = false)
    (hroom : (s.core c core).intq.length < 16) (origin arg : Nat) :
    s.intAt c core origin arg = s.modCore c core (fun k => { k with intq := k.intq ++ [origin % 2 ^ 32 + 2 ^ 32 * (arg % 2 ^ 32)] }) := by
  simp [State.intAt, hlive, hup, Nat.not_le.mpr hroom]

/-- A signal that stands at a cell asleep stays there, and wakes the field from Lull. -/
theorem State.atSig_asleep {sg : Signal} (hasleep : s.cellAwake c = false) (hheld : s.sigs.contains sg = true) (run : State → State) :
    s.atSig c sg run = if s.power (s.fieldOf c) = 2 ∨ s.power (s.fieldOf c) = 3 then s.causeWake (s.fieldOf c) 4 else s := by
  have hasleep : ¬ s.cellAwake c = true := by simp [hasleep]
  rw [State.atSig, if_neg hasleep, if_pos hheld]
  exact if_neg hasleep

theorem runs_intReceive {core : Nat} (hc : s.inGrid c = true) (hcore : core < 4) (origin arg : Nat) :
    Runs (.intReceive c core origin arg) s (s.intRecv c core origin arg) := State.onCore_present hc hcore _

theorem runs_wakeReceive {f : Nat} (hf : f < s.nFields) (arg : Nat) : Runs (.wakeReceive f arg) s (s.wakeRecv f arg) :=
  if_pos (decide_eq_true hf)

end

/-- Settles O14: at a live root the arrival is counted, a lease that ends finds the phase open, and an awake cell takes the release. -/
theorem barrierCompletes : Obligations.BarrierCompletes := by
  refine ⟨?_, ?_, ?_⟩
  · intro s c a hc ha _ _ _ hlive hrun
    have hcounted : s.barArriveAt c a = _ := State.atRouter_running hlive hrun _ _
    exact hcounted ▸ runs_barArriveAtRoot hc ha
  · intro s k hk hlive hopen
    exact State.barTimeout_open hlive hopen ▸ runs_barrierPhaseTimeout hk
  · intro s c r hc hawake
    exact runs_barReleaseReceive hc hawake r

/-- Settles O15: a request goes by whether its home router is a hole, an INT by whether its cell is awake, and a reply by the command it
answers. -/
theorem tallyAndInterrupts : Obligations.TallyAndInterrupts := by
  refine ⟨?_, ?_, ?_, ?_, ?_, ?_⟩
  · intro s q hf hk hlo hhi hlive hrun
    have hserved : s.tallyAt q = _ := State.atRouter_running hlive hrun _ _
    exact hserved ▸ runs_tallyRequestAtHome hf hk hlo hhi
  · intro s q hf hk hlo hhi hhole
    have hdiscarded : s.tallyAt q = _ := State.atRouter_hole hhole _ _
    exact hdiscarded ▸ runs_tallyRequestAtHome hf hk hlo hhi
  · intro s q m hc hawake hcmd htally
    have hcmd' : (s.takeSig (.tallyRsp q)).cmd? ⟨q.x, q.y⟩ q.tag = some m := hcmd
    exact State.tallyRspAt_found hcmd' htally ▸ runs_tallyRspReceive hc hawake
  · intro s c core origin arg hc hcore hawake hlive hup hroom
    have hjoins : s.intRecv c core origin arg = _ :=
      (State.atSig_awake hawake _ _).trans (State.intAt_room (s := s.takeSig _) hlive hup hroom origin arg)
    exact hjoins ▸ runs_intReceive hc hcore origin arg
  · intro s c core origin arg hc hcore hasleep hheld
    have hwaits : s.intRecv c core origin arg = _ := State.atSig_asleep hasleep hheld _
    exact hwaits ▸ runs_intReceive hc hcore origin arg
  · intro s f arg hf _
    exact runs_wakeReceive hf arg

end Sys2Proof.Machine
end

section
/-! SUPPORT. Bulk transfers and multicast (chapter 8): what each operation does in the case a statement names, and the row that runs it.
Obligations O17, O18 and O19 follow. -/

namespace Sys2Proof.Machine

/-! ### The guards of the rows -/

section
variable {s : State} {c : Coord} {p : Packet}

theorem State.onLink_present {q : Nat} (hq : q < s.nPorts) (t : State) : s.onLink q t = .next t := by
  simp [State.onLink, whenUnit, hq]

theorem State.onRsv_present {rsv : Nat} (hc : s.inGrid c = true) (hrsv : rsv < 64) (t : State) : s.onRsv c rsv t = .next t := by
  simp [State.onRsv, whenUnit, hc, hrsv]

theorem State.cellRuns_up (hup : (s.cell c).inReset = false) (p : Packet) (run : State) : s.cellRuns c p run = run := by
  simp [State.cellRuns, State.resetDrop, hup]

theorem State.atEject_awake (horder : s.overtakes p = false) (hawake : s.cellAwake c = true) (run : State) : s.atEject c p run = run := by
  simp [State.atEject, horder, hawake]

/-- Where a packet finds nothing to do, its place in its flow does not matter (R74). -/
theorem State.atEject_idle (hawake : s.cellAwake c = true) (p : Packet) : s.atEject c p s = s := by
  simp [State.atEject, hawake]

theorem State.onTransfer_taken {typs : List Nat} {t : TransferTail} (hawake : s.cellAwake c = true) (horder : s.overtakes p = false)
    (htyp : typs.contains p.typ = true) (htail : p.tail = .transfer t) (f : TransferTail → State) : s.onTransfer c p typs f = f t := by
  rw [State.onTransfer, htail]
  exact (if_pos htyp).trans (State.atEject_awake horder hawake _)

end

/-! ### Rows that receive a packet with a Transfer tail -/

section
variable {s : State} {c : Coord} {p : Packet} {t : TransferTail} (hc : s.inGrid c = true) (hawake : s.cellAwake c = true)
  (horder : s.overtakes p = false) (htail : p.tail = .transfer t)
include hc hawake horder htail

theorem State.onCell_transfer {typs : List Nat} (htyp : typs.contains p.typ = true) (f : TransferTail → State) :
    s.onCell c (s.onTransfer c p typs f) = .next (f t) := by
  rw [State.onTransfer_taken hawake horder htyp htail, State.onCell_present hc]

theorem runs_reserveReceive_router (htyp : p.typ = 1) : Runs (.reserveReceive (.router c) p) s (s.reserveAt (.router c) p t) :=
  State.onCell_transfer hc hawake horder htail (by simp [htyp]) _

theorem runs_grantReceive_held {r : SrcRsv} (htyp : p.typ = 2) (hheld : s.srcRsv? c t.rsv = some r) :
    Runs (.grantReceive c p) s (s.grantRecv c p t) :=
  (State.onCell_transfer hc hawake horder htail (by simp [htyp]) _).trans (congrArg _ (if_pos (by simp [hheld])))

theorem runs_releaseReceive_router (htyp : p.typ = 3) : Runs (.releaseReceive (.router c) p) s (s.releaseSite (.router c) p t) :=
  State.onCell_transfer hc hawake horder htail (by simp [htyp]) _

theorem runs_getReqReceive_router (htyp : p.typ = 4) : Runs (.getReqReceive (.router c) p) s ((s.getReqCell c p t).done) :=
  State.onCell_transfer hc hawake horder htail (by simp [htyp]) _

theorem runs_putDataHeader_router (htyp : p.typ = 0x10) : Runs (.putDataHeader (.router c) p) s ((s.putDataAt (.router c) p t).done) :=
  State.onCell_transfer hc hawake horder htail (by simp [htyp]) _

theorem runs_getDataReceive (htyp : p.typ = 0x11) : Runs (.getDataReceive c p) s ((s.getDataAt c p t).done) :=
  State.onCell_transfer hc hawake horder htail (by simp [htyp]) _

end

/-! ### Requests and grants (R163 to R165, R168) -/

section
variable {s : State} {c : Coord} {p : Packet} {t : TransferTail}

theorem State.reserveAt_router_room (hup : (s.cell c).inReset = false) (hroom : (s.landing (.router c)).queue.length < 256) :
    s.reserveAt (.router c) p t =
      (s.takePkt p).enterQueue (.router c) ⟨⟨keySrc p, t.rsv, p.tag⟩, t.size, t.lease, p.dest, .put t.addr⟩ := by
  have hup' : ¬ (true && (s.cell c).inReset) = true := by rw [hup]; exact Bool.false_ne_true
  exact (if_neg hup').trans (if_neg (Nat.not_le.mpr hroom))

theorem State.transitReserve_room {q : Nat} (hroom : (s.port q).treq.length < 256) :
    s.transitReserve q p t = (s.takePkt p).modPort q (fun x => { x with
      treq := x.treq ++ [⟨⟨keySrc p, t.rsv, p.tag⟩, t.size, t.lease, p.dest, .transit (t.addr % 2)⟩] }) :=
  if_neg (Nat.not_le.mpr hroom)

theorem runs_reserveReceive_port {q : Nat} (hq : q < s.nPorts) (hawake : s.cellAwake (s.siteCell (.port q)) = true)
    (horder : s.overtakes p = false) (htyp : p.typ = 1) (htail : p.tail = .transfer t) :
    Runs (.reserveReceive (.port q) p) s (s.transitReserve q p t) :=
  (State.onLink_present hq _).trans (congrArg _ (State.onTransfer_taken hawake horder (by simp [htyp]) htail _))

theorem State.reservationGrant_ready {x : Site} (hready : (s.landing x).ready = true) : s.reservationGrant x = s.grantHead x :=
  if_pos hready

theorem runs_reservationGrant_router (hc : s.inGrid c = true) :
    Runs (.reservationGrant (.router c)) s ((s.reservationGrant (.router c)).after c) := State.onCell_present hc _

theorem State.releaseAt_queued {x : Site} (hqueued : ((s.takePkt p).landing x).queued ⟨keySrc p, t.rsv, p.tag⟩ = true) :
    s.releaseAt x p t = ((s.takePkt p).modLanding x (fun l => l.unqueue ⟨keySrc p, t.rsv, p.tag⟩)).bumpLanding x 7 := if_pos hqueued

theorem State.releaseSite_router_up (hup : (s.cell c).inReset = false) : s.releaseSite (.router c) p t = s.releaseAt (.router c) p t :=
  State.cellRuns_up hup p _

theorem runs_bulkTimeoutExpiry {rsv : Nat} (hc : s.inGrid c = true) (hrsv : rsv < 64) :
    Runs (.bulkTimeoutExpiry c rsv) s (s.bulkLate c rsv) := State.onRsv_present hc hrsv _

end

/-- Settles O17: each row runs its operation, which takes the packet in its place in its flow; a queue with room takes a RESERVE, a head
that fits is granted, and a queued request leaves with its RELEASE. -/
theorem reservationsProceed : Obligations.ReservationsProceed := by
  refine ⟨?_, ?_, ?_, ?_, ?_, ?_⟩
  · intro s c p t hc hawake horder htyp htail hup hroom
    exact State.reserveAt_router_room hup hroom ▸ runs_reserveReceive_router hc hawake horder htail htyp
  · intro s q p t hq hawake horder htyp htail hroom
    exact State.transitReserve_room hroom ▸ runs_reserveReceive_port hq hawake horder htyp htail
  · intro s c hc hready
    exact State.reservationGrant_ready hready ▸ runs_reservationGrant_router hc
  · intro s c p t r m hc hawake horder htyp htail hheld _ _ _ _ _
    exact runs_grantReceive_held hc hawake horder htail htyp hheld
  · intro s c p t hc hawake horder htyp htail hup hqueued
    exact State.releaseAt_queued hqueued ▸ State.releaseSite_router_up hup ▸ runs_releaseReceive_router hc hawake horder htail htyp
  · intro s c rsv r hc hrsv _ _
    exact runs_bulkTimeoutExpiry hc hrsv

/-! ### Payloads and leases (R165 to R167, R171) -/

section
variable {s : State} {c : Coord} {p : Packet} {r : LRsv} {a : Nat} {k : RsvKey}

theorem State.putDataCell_lands {t : TransferTail} (hcase : s.landCase (.router c) ⟨keySrc p, t.rsv, p.tag⟩ t.off t.size p = .lands r)
    (hkind : r.kind = .put a) : s.putDataCell c p t = (s.takePkt p).landBytes c r a t.off t.size p := by
  simp [State.putDataCell, hcase, hkind]

theorem State.putDataAt_router_up {t : TransferTail} (hup : (s.cell c).inReset = false)
    (hinject : s.landInject (.router c) p = (p, s)) : s.putDataAt (.router c) p t = s.putDataCell c p t := by
  simp only [State.putDataAt, hinject]
  exact State.cellRuns_up hup p _

theorem State.getDataAt_up {t : TransferTail} (hup : (s.cell c).inReset = false) (hinject : s.landInject (.router c) p = (p, s)) :
    s.getDataAt c p t = (s.getDataCell c p t).after c := by
  simp only [State.getDataAt, hinject]
  exact State.cellRuns_up hup p _

theorem State.getReqCell_up {t : TransferTail} (hup : (s.cell c).inReset = false) :
    s.getReqCell c p t = (s.takePkt p).replyGet c p t 9 0 := by
  simp [State.getReqCell, State.resetDrop, hup]

section
variable (hfind : (s.landing (.router c)).find k = some r) (hkind : r.kind = .put a)
include hfind hkind

theorem State.noteSegment_noSegment (hnone : s.segmentOf r a = none) : s.noteSegment c k = s := by
  simp [State.noteSegment, hfind, hkind, hnone]

variable (hfilling : r.st = .filling)
include hfilling

theorem State.filledCell_put (hfull : r.size ≤ r.written) :
    s.filledCell c k = (s.modLanding (.router c) (fun l => l.finish k)).sendDelivered (.router c) r := by
  simp [State.filledCell, hfind, hfilling, hfull, hkind]

/-- A lease that ends frees the grains and is recorded; the source of a PUT that was landing is told the bytes written (R167). -/
theorem State.leaseAt_router_put {u : State} (hshort : r.written < r.size)
    (hu : u = (((s.awaitFt (s.siteField (.router c)) r.expiry).modLanding (.router c) (fun l => l.finish k)).ringEvent c 8 0
      (k.rsv + 64 * k.tag)).bumpLanding (.router c) 5) :
    s.leaseAt (.router c) k =
      ((u.sendSig c (.nack ⟨8, k.tag, k.src, u.srcOf c 0, 1, k.rsv, 0, r.written⟩)).countEvent c 9 0 0 1).after c := by
  subst hu
  simp [State.leaseAt, State.expireCell, hfind, hfilling, hkind, Nat.not_le.mpr hshort]

end

theorem runs_reservationFilled_router (hc : s.inGrid c = true) (k : RsvKey) :
    Runs (.reservationFilled (.router c) k) s (((s.noteSegment c k).filledCell c k).done) := State.onCell_present hc _

theorem runs_landingLeaseExpiry_router (hc : s.inGrid c = true) (k : RsvKey) :
    Runs (.landingLeaseExpiry (.router c) k) s (s.leaseAt (.router c) k) := State.onCell_present hc _

theorem State.gatewayCell_awaitFt (s : State) (f g q i : Nat) : (s.awaitFt f g).gatewayCell q i = s.gatewayCell q i := by
  unfold State.awaitFt
  split <;> rfl

theorem State.transitExpiry_held {q : Nat} {g : TransitGrant} (hheld : (s.port q).ledger.find? (fun g => sameKey g.key k) = some g) :
    s.transitExpiry q k =
      ((s.awaitFt (s.fieldOf (s.gatewayCell q 0)) g.expiry).modPort q (fun x => { x with ledger := x.ledger.erase g })).ringEvent
        (s.gatewayCell q 0) 8 0 (k.tag + 2 ^ 16 * k.rsv + 2 ^ 22 * 3) := by
  simp [State.transitExpiry, hheld, State.gatewayCell_awaitFt]

theorem runs_landingLeaseExpiry_port {q : Nat} (hq : q < s.nPorts) (k : RsvKey) :
    Runs (.landingLeaseExpiry (.port q) k) s (s.transitExpiry q k) := State.onLink_present hq _

end

/-- Settles O18: a cell that runs takes the payload or the request, a PUT reservation ends with its last byte or with its lease, and a
lease at a link port returns its units. -/
theorem payloadsLand : Obligations.PayloadsLand := by
  refine ⟨?_, ?_, ?_, ?_, ?_, ?_⟩
  · intro s c p t r a hc hawake horder htyp htail hup hinject hcase hkind
    have hlands := (State.putDataAt_router_up hup hinject).trans (State.putDataCell_lands hcase hkind)
    exact hlands ▸ runs_putDataHeader_router hc hawake horder htail htyp
  · intro s c k r a hc hfind hfilling hfull hkind hnone
    have hnote := State.noteSegment_noSegment hfind hkind hnone
    have hruns := runs_reservationFilled_router hc k
    rwa [hnote, State.filledCell_put hfind hkind hfilling hfull] at hruns
  · intro s u c k r a hc hfind hfilling hshort hkind hu
    exact State.leaseAt_router_put hfind hkind hfilling hshort hu ▸ runs_landingLeaseExpiry_router hc k
  · intro s q k g hq hheld
    exact State.transitExpiry_held hheld ▸ runs_landingLeaseExpiry_port hq k
  · intro s c p t hc hawake horder htyp htail hup
    exact State.getReqCell_up hup ▸ runs_getReqReceive_router hc hawake horder htail htyp
  · intro s c p t r hc hawake horder htyp htail hup hinject _ _ _
    exact State.getDataAt_up hup hinject ▸ runs_getDataReceive hc hawake horder htail htyp

/-! ### Multicast (R74, R174, R175) -/

section
variable {s : State} {c : Coord} {p : Packet} {g : MresGrant}

theorem State.mresEnter_room (hup : (s.cell c).inReset = false) (hroom : (s.cell c).landing.queue.length < 256) :
    s.mresEnter c g =
      s.enterQueue (.router c) ⟨⟨g.source, g.mid, g.tag⟩, g.size, g.lease, ⟨s.engine, g.x, g.y, 5⟩, .mcast g.addr g⟩ :=
  (if_neg (Bool.not_eq_true _ ▸ hup)).trans (if_neg (Nat.not_le.mpr hroom))

/-- A member is a cell of the call's rectangle. -/
theorem runs_mresGrantReceive (hc : s.inGrid c = true) (hin : g.x ≤ c.x ∧ c.x ≤ g.x1 ∧ g.y ≤ c.y ∧ c.y ≤ g.y1)
    (hawake : s.cellAwake c = true) : Runs (.mresGrantReceive c g) s ((s.takeSig (.mresGrant g)).mresEnter c g) :=
  (State.onCell_present hc _).trans (congrArg _ ((if_pos hin).trans (State.atSig_awake hawake _ _)))

theorem State.mresRecv_cell {a : MresArrive} (hcell : a.source.stream = false) (hawake : s.cellAwake (srcCell a.source) = true) :
    s.mresRecv a = ((s.takeSig (.mresArrive a)).mresArriveCell a).after (srcCell a.source) :=
  (if_neg (by simp [hcell])).trans (State.atSig_awake hawake _ _)

theorem runs_mresArriveReceive {a : MresArrive} (hc : s.inGrid (srcCell a.source) = true) :
    Runs (.mresArriveReceive a) s (s.mresRecv a) := State.onCell_present hc _

theorem State.callLimitCell_called {mid : Nat} {r : SrcRsv}
    (hcalled : (s.cell c).rsvs.find? (fun r => r.mid == mid && r.st == .call) = some r) :
    s.callLimitCell c mid = ({ s with time := max s.time r.deadline } : State).endMcast c r [(1, 8)] := by
  simp [State.callLimitCell, hcalled]

theorem runs_callLimitExpiry_cell {src : SrcAddr} (hc : s.inGrid (srcCell src) = true) (hcell : src.stream = false) (mid : Nat) :
    Runs (.callLimitExpiry src mid) s ((s.callLimitCell (srcCell src) mid).after (srcCell src)) :=
  (State.onCell_present hc _).trans (congrArg _ (if_neg (by simp [hcell])))

section
variable {t : RectTail}

theorem State.mcastRecv_up (hup : (s.cell c).inReset = false) (hinject : s.landInject (.router c) p = (p, s)) :
    s.mcastRecv c p t = (s.mcastDataCell c p t).done := by
  simp [State.mcastRecv, hup, hinject]

theorem State.mcastDataCell_lands {r : LRsv} {a : Nat} (hcase : s.landCase (.router c) ⟨keySrc p, t.mid, p.tag⟩ t.off t.size p = .lands r)
    (hkind : r.kind = .mcast a g) : s.mcastDataCell c p t = s.landBytes c r a t.off t.size p := by
  simp [State.mcastDataCell, hcase, hkind]

variable (hc : s.inGrid c = true) (htyp : p.typ = 0x13) (htail : p.tail = .rect t)
include hc htyp htail

/-- The row is the cell's guard around what the ejection makes of the packet. -/
theorem exec_mcastDataReceive_rect :
    exec (.mcastDataReceive c p) s = .next (s.atEject c p (if s.rectOvertakes c p then s else s.mcastRecv c p t)) := by
  rw [exec, execMcastDataReceive, htail, State.onCell_present hc]
  exact congrArg _ (if_pos (.inl htyp))

variable (hawake : s.cellAwake c = true)
include hawake

theorem runs_mcastDataReceive_inOrder (horder : s.overtakes p = false) (hrect : s.rectOvertakes c p = false) :
    Runs (.mcastDataReceive c p) s (s.mcastRecv c p t) := by
  rw [Runs, exec_mcastDataReceive_rect hc htyp htail, State.atEject_awake horder hawake, if_neg (by simp [hrect])]

theorem runs_mcastDataReceive_overtaking (hrect : s.rectOvertakes c p = true) : Runs (.mcastDataReceive c p) s s := by
  rw [Runs, exec_mcastDataReceive_rect hc htyp htail, if_pos hrect, State.atEject_idle hawake]

end

end

/-- Settles O19: a member that runs enters the call and lands its data in their order, the source counts an answer, and a call that is not
answered ends with reason LEASE. -/
theorem multicastProceeds : Obligations.MulticastProceeds := by
  refine ⟨?_, ?_, ?_, ?_, ?_⟩
  · intro s c g hc hx hx1 hy hy1 hawake hup hroom
    have henters := State.mresEnter_room (s := s.takeSig (.mresGrant g)) (g := g) hup hroom
    exact henters ▸ runs_mresGrantReceive hc ⟨hx, hx1, hy, hy1⟩ hawake
  · intro s a hc hcell hawake
    exact State.mresRecv_cell hcell hawake ▸ runs_mresArriveReceive hc
  · intro s src mid r hc hcell hcalled
    exact State.callLimitCell_called hcalled ▸ runs_callLimitExpiry_cell hc hcell mid
  · intro s c p t r a g hc hawake horder hrect htyp htail hup hinject hcase hkind
    have hlands := State.mcastDataCell_lands hcase hkind
    exact hlands ▸ State.mcastRecv_up hup hinject ▸ runs_mcastDataReceive_inOrder hc htyp htail hawake horder hrect
  · intro s c p t hc hawake htyp htail hrect
    exact runs_mcastDataReceive_overtaking hc htyp htail hawake hrect

end Sys2Proof.Machine
end

section
/-! SUPPORT. The two's complement words of the model are the library's bit vectors, and an integer SUM's output is the word of A, of a limit
of the range, or of A modulo 2^w (R208). Obligation O46 follows. -/

namespace Sys2Proof.Machine

/-! ### Two's complement words -/

/-- The model's word of an integer is that of the library. -/
theorem ofSigned_eq_toNat_ofInt (w : Nat) (i : Int) : ofSigned w i = (BitVec.ofInt w i).toNat := by
  rw [ofSigned, BitVec.toNat_ofInt]

/-- Read back from the library's bit vector, the model's two's complement value is the bit vector's own; a word has a sign bit. -/
theorem toSigned_toNat {w : Nat} (hw : 0 < w) (x : BitVec w) : toSigned w x.toNat = x.toInt := by
  have hhalf : x.toNat < 2 ^ (w - 1) ↔ 2 * x.toNat < 2 ^ w := by
    rw [← Nat.two_pow_pred_mul_two hw]
    omega
  simp only [toSigned, BitVec.toInt_eq_toNat_cond, BitVec.toNat_mod_cancel, hhalf]

theorem toSigned_ofSigned {w : Nat} {i : Int} (hw : 0 < w) (hlo : -2 ^ (w - 1) ≤ i) (hhi : i < 2 ^ (w - 1)) :
    toSigned w (ofSigned w i) = i := by
  rw [ofSigned_eq_toNat_ofInt, toSigned_toNat hw, BitVec.toInt_ofInt_eq_self hw hlo hhi]

theorem cast_ofSigned (w : Nat) (i : Int) : (ofSigned w i : Int) = i % 2 ^ w := by
  have hpos : (0 : Int) < 2 ^ w := Int.pow_pos (by decide)
  rw [ofSigned, Int.toNat_of_nonneg (by push_cast; exact Int.emod_nonneg _ (Int.ne_of_gt hpos))]
  push_cast
  rfl

/-! ### What an integer SUM writes -/

section
variable {w : Nat} {A : Int}

theorem intOut_within (sat : Bool) (hlo : -(2 : Int) ^ (w - 1) ≤ A) (hhi : A < (2 : Int) ^ (w - 1)) :
    intOut w sat A = (ofSigned w A, 0) := by
  rw [intOut, if_pos (by push_cast; exact ⟨hlo, hhi⟩)]

theorem intOut_beyond (sat : Bool) (hout : A < -(2 : Int) ^ (w - 1) ∨ (2 : Int) ^ (w - 1) ≤ A) :
    intOut w sat A =
      (ofSigned w (if sat then (if A < 0 then -(2 : Int) ^ (w - 1) else (2 : Int) ^ (w - 1) - 1) else A), 1 + 4) := by
  rw [intOut, if_neg (by push_cast; omega)]
  push_cast
  rfl

theorem intOut_below_sat (hlo : A < -(2 : Int) ^ (w - 1)) : intOut w true A = (ofSigned w (-(2 : Int) ^ (w - 1)), 1 + 4) := by
  have hpos : (0 : Int) < 2 ^ (w - 1) := Int.pow_pos (by decide)
  rw [intOut_beyond true (.inl hlo), if_pos rfl, if_pos (by omega)]

theorem intOut_above_sat (hhi : (2 : Int) ^ (w - 1) ≤ A) : intOut w true A = (ofSigned w ((2 : Int) ^ (w - 1) - 1), 1 + 4) := by
  have hpos : (0 : Int) < 2 ^ (w - 1) := Int.pow_pos (by decide)
  rw [intOut_beyond true (.inr hhi), if_pos rfl, if_neg (by omega)]

theorem intOut_beyond_noSat (hout : A < -(2 : Int) ^ (w - 1) ∨ (2 : Int) ^ (w - 1) ≤ A) :
    intOut w false A = (ofSigned w A, 1 + 4) :=
  intOut_beyond false hout

end

/-- Settles O46: the output is the word of A within the range, of the limit on A's side under SAT, and of A modulo 2^w without it; the word
of a number in the range reads back as that number. -/
theorem integerSumOutput : Obligations.IntegerSumOutput := by
  intro w sat A hwidth
  have hw : 0 < w := by omega
  have hpos : (0 : Int) < 2 ^ (w - 1) := Int.pow_pos (by decide)
  refine ⟨?_, ?_, ?_, ?_⟩
  · rintro ⟨hlo, hhi⟩
    rw [intOut_within sat hlo hhi]
    exact ⟨rfl, toSigned_ofSigned hw hlo hhi⟩
  · intro hlo
    rw [intOut_below_sat hlo]
    exact ⟨rfl, toSigned_ofSigned hw (Int.le_refl _) (by omega)⟩
  · intro hhi
    rw [intOut_above_sat hhi]
    exact ⟨rfl, toSigned_ofSigned hw (by omega) (by omega)⟩
  · intro hout
    rw [intOut_beyond_noSat hout]
    exact ⟨rfl, cast_ofSigned w A⟩

end Sys2Proof.Machine
end

section
/-! SUPPORT. The members of a context (R215): which cells they are, that their list rises row by row, and so the index and the slices of each.
Obligation O48 follows. -/

namespace Sys2Proof.Machine

section
variable {g : Geo}

/-- The hint for a row leaves no member out: a member lies in a listed rectangle, or in a field of a map that is then not 0. -/
theorem Geo.rowHint_of_member {x y : Nat} (hmember : g.member ⟨x, y⟩ = true) : g.rowHint y = true := by
  simp only [Geo.member, Bool.and_eq_true, Bool.or_eq_true, List.any_eq_true] at hmember
  rw [Geo.rowHint, Bool.or_eq_true, List.any_eq_true]
  obtain ⟨⟨w, hw, hrect⟩ | hfield, -⟩ := hmember
  · simp only [inRect, Bool.and_eq_true, decide_eq_true_eq] at hrect
    obtain ⟨⟨⟨-, hlo⟩, -⟩, hhi⟩ := hrect
    exact .inl ⟨w, hw, by simp [hlo, hhi]⟩
  · refine .inr (decide_eq_true fun hzero => ?_)
    simp [bit, hzero] at hfield

@[simp] theorem Geo.mem_rowMembers {x y : Nat} : x ∈ g.rowMembers y ↔ x < g.nx ∧ g.member ⟨x, y⟩ = true := by
  rw [Geo.rowMembers]
  split
  next => simp
  next hhint => simpa using fun _ => mt Geo.rowHint_of_member hhint

theorem Geo.pairwise_rowMembers (g : Geo) (y : Nat) : (g.rowMembers y).Pairwise (· < ·) := by
  rw [Geo.rowMembers]
  split
  next => exact List.pairwise_lt_range.filter _
  next => exact .nil

@[simp] theorem Geo.mem_members {c : Coord} : c ∈ g.members ↔ c.x < g.nx ∧ c.y < g.ny ∧ g.member c = true := by
  obtain ⟨x, y⟩ := c
  simp only [Geo.members, List.mem_flatMap, List.mem_range, List.mem_map, Geo.mem_rowMembers, Coord.mk.injEq]
  constructor
  · rintro ⟨_, hy, _, ⟨hx, hmember⟩, rfl, rfl⟩
    exact ⟨hx, hy, hmember⟩
  · rintro ⟨hx, hy, hmember⟩
    exact ⟨y, hy, x, ⟨hx, hmember⟩, rfl, rfl⟩

/-- Rows follow one another by y, and the cells of a row by x. -/
theorem Geo.pairwise_members (g : Geo) : g.members.Pairwise (fun a b => a.y < b.y ∨ (a.y = b.y ∧ a.x < b.x)) := by
  rw [Geo.members, List.pairwise_flatMap]
  constructor
  · intro y _
    exact List.pairwise_map.mpr ((g.pairwise_rowMembers y).imp fun hx => .inr ⟨rfl, hx⟩)
  · refine List.pairwise_lt_range.imp fun hy a ha b hb => .inl ?_
    obtain ⟨_, -, rfl⟩ := List.mem_map.mp ha
    obtain ⟨_, -, rfl⟩ := List.mem_map.mp hb
    exact hy

theorem Geo.nodup_members (g : Geo) : g.members.Nodup :=
  g.pairwise_members.imp fun hlt heq => by
    subst heq
    omega

theorem Geo.not_mem_members_of_hole {c : Coord} (hhole : c ∈ g.holes) : c ∉ g.members := by
  simp [Geo.member, hhole]

/-- No cell stands twice in the list, so that the first place of a member is its place. -/
theorem Geo.index_getElem? {j : Nat} {c : Coord} (hj : g.members[j]? = some c) : g.index c = j := by
  obtain ⟨hlt, rfl⟩ := List.getElem?_eq_some_iff.mp hj
  have hfirst : g.members.findIdx? (· == g.members[j]) = some j :=
    List.findIdx?_eq_some_iff_getElem.mpr ⟨hlt, beq_self_eq_true _, fun i hij => by
      simpa using List.pairwise_iff_getElem.mp g.nodup_members i j (Nat.lt_trans hij hlt) hlt hij⟩
  simp [Geo.index, hfirst]

/-- Slices jQ to (j + 1)Q - 1 are those whose quotient by Q is j. -/
theorem Geo.owner_of_slice {j k : Nat} {c : Coord} (hj : g.members[j]? = some c) (hlo : j * g.q ≤ k) (hhi : k < (j + 1) * g.q) :
    g.owner k = c := by
  rw [Geo.owner, Nat.div_eq_of_lt_le hlo hhi, nth, List.getD_eq_getElem?_getD, hj, Option.getD_some]

end

/-- The hypotheses of the last clause of `MemberOrder` can be met: a grid of two cells, the first a hole, and 4 slices. -/
theorem witness_MemberOrder_owner : ∃ (g : Geo) (j k : Nat) (c : Coord),
    g.n = g.members.length ∧ g.members[j]? = some c ∧ j * (g.slices / g.n) ≤ k ∧ k < (j + 1) * (g.slices / g.n) :=
  ⟨⟨2, 1, 1, [2 ^ 18], 0, [⟨0, 0⟩], 2, false, 0, ⟨1, 0⟩, 4, 1, true⟩, 0, 3, ⟨1, 0⟩, by decide⟩

/-- Settles O48: the list of members rises by row and then by column, and the slice a member owns gives the member's place back when it is
divided by Q. -/
theorem memberOrder : Obligations.MemberOrder := by
  intro g
  refine ⟨g.pairwise_members, fun c => Geo.mem_members, fun c => Geo.not_mem_members_of_hole, ?_, ?_⟩
  · intro j c hj
    exact Geo.index_getElem? hj
  · intro j k c _ hj hlo hhi
    exact Geo.owner_of_slice hj hlo hhi

end Sys2Proof.Machine
end

section
/-! SUPPORT. Collectives on one engine (chapters 10, 11 and 14): what each operation does in the case a statement names, and the row that runs
it. Obligations O20, O21 and O22 follow. -/

namespace Sys2Proof.Machine

/-! ### The guards of the rows -/

section
variable {s : State} {c : Coord} {p : Packet} {t : CollTail}

theorem State.onSlice_present {ctx : Nat} (hc : s.inGrid c = true) (hctx : ctx < 4096) (u : State) : s.onSlice c ctx u = .next u := by
  simp [State.onSlice, whenUnit, hc, hctx]

theorem collTail_coll (htail : p.tail = .coll t) : collTail p = t := by
  rw [collTail, htail]

theorem State.onCell_coll {typs : List Nat} (hc : s.inGrid c = true) (hawake : s.cellAwake c = true) (horder : s.overtakes p = false)
    (htail : p.tail = .coll t) (htyp : p.typ ∈ typs) (u : State) : s.onCell c (onColl c p typs s u) = .next u := by
  rw [State.onCell_present hc, onColl, htail]
  exact congrArg _ ((if_pos (List.contains_iff_mem.mpr htyp)).trans (State.atEject_awake horder hawake u))

end

/-! ### Sweeps (R222 to R224, R236) -/

section
variable {s : State} {c : Coord} {p : Packet} {t : CollTail} {i : SliceId}

/-- Outside measured mode there is no anchor half to send first. -/
theorem State.sweepOriginate_unmeasured (hplain : (s.spec i.ctx).measured = false) :
    s.sweepOriginate c i = (s.originate c 1 i).originate c 2 i :=
  if_neg (by simp [hplain])

theorem State.columnOriginate_unmeasured (hplain : (s.spec i.ctx).measured = false) :
    s.columnOriginate c i = (s.colOriginate c 1 i).colOriginate c 2 i :=
  if_neg (by simp [hplain])

/-- A sweep acts at each router on its arc but the root of its computation. -/
theorem State.sweepRecv_underway (htail : p.tail = .coll t) (hpass : t.pass = false)
    (hroot : s.rootFor (packetPh p) t.ctx t.epoch t.slice ≠ some c) : s.sweepRecv c p = (s.sweepAt c p).after c := by
  rw [State.sweepRecv, collTail_coll htail]
  exact if_neg (by simp [hpass, hroot])

end

/-- Settles O20: outside measured mode a slice sends the halves of its value and check reductions, a sweep acts short of its root, and both
expiries end the waits of their kinds of slot. -/
theorem sweepsProceed : Obligations.SweepsProceed := by
  refine ⟨?_, ?_, ?_, ?_, ?_⟩
  · intro s c ctx e k d hc hctx hplain _ _
    have horiginates := State.sweepOriginate_unmeasured (c := c) (i := ⟨ctx, e, k⟩) hplain
    exact horiginates ▸ State.onSlice_present hc hctx _
  · intro s c p t hc hawake horder htyp htail hpass hroot _ _
    exact State.sweepRecv_underway htail hpass hroot ▸ State.onCell_coll hc hawake horder htail (by simp [htyp]) _
  · intro s c ctx e k w hc hctx _ _
    exact State.onSlice_present hc hctx _
  · intro s c ctx e k w hc hctx _ _
    exact State.onSlice_present hc hctx _
  · intro s c ctx e k hc hctx hplain _
    have horiginates := State.columnOriginate_unmeasured (c := c) (i := ⟨ctx, e, k⟩) hplain
    exact horiginates ▸ State.onSlice_present hc hctx _

/-! ### Roots, results and anchors (R225, R226, R229, R234, R238, R239, R241) -/

section
variable {s : State} {c : Coord} {p : Packet} {t : CollTail} {i : SliceId}

/-- A SWEEP at the root of its slice's value reduction merges there. -/
theorem State.rootRecv_value (htail : p.tail = .coll t) (htyp : p.typ = 0x21) (hroot : s.rootFor 1 t.ctx t.epoch t.slice = some c) :
    s.rootRecv c p = (s.rootAt c 1 p).after c := by
  rw [State.rootRecv, collTail_coll htail]
  exact (if_neg (by simp [htyp])).trans (if_pos (decide_eq_true hroot))

/-- A spilled slice whose record reads back well moves into a slot that is free for it. -/
theorem State.spillBack_read {ctx r : Nat} {w : PSlot} {q : Part} {s1 : State}
    (hspilled : (s.coll c).slots.find? (fun w => w.ctx == ctx && w.spill.isSome) = some w) (hroom : s.canTake c ctx false = true)
    (hrec : w.spill = some r) (hread : s.spillRead c ctx r = (some q, s1)) :
    s.spillBack c ctx = s1.putSlot c w { w with part := q.recount w.part, spill := none } := by
  simp [State.spillBack, hspilled, hroom, hrec, hread]

/-- A member that is to land the slice, and has not, gives its output up at its deadline. -/
theorem State.memberDeadline_output {d : Dep} (hdep : s.dep? c i = some d) (hlands : (s.geo i.ctx).lands c i.k = true)
    (hopen : d.landed = false) :
    s.memberDeadline c i =
      ({ s with time := max s.time (d.at_ + 2 * us (s.ctx i.ctx 0x14 + s.levelLeases i.ctx)) } : State).noResult c i := by
  simp [State.memberDeadline, hdep, hlands, hopen]

theorem State.resultArrive_level0 (htail : p.tail = .coll t) (hlevel : t.level = 0) : s.resultArrive c p = s.resultAt c p := by
  rw [State.resultArrive, collTail_coll htail]
  exact if_pos hlevel

theorem State.anchorArrive_level0 (htail : p.tail = .coll t) (hlevel : t.level = 0) (hpattern : s.ctx t.ctx 2 ≠ 5) :
    s.anchorArrive c p = s.anchorAt c p := by
  rw [State.anchorArrive, collTail_coll htail]
  exact (if_neg (not_not_intro hlevel)).trans (if_neg hpattern)

/-- An anchor pass that is held at its root ends, and frees the contributions that waited for its anchors. -/
theorem State.anchorExpiry_held (hheld : (s.slot? c 0 i [.root]).isSome = true) :
    s.anchorExpiry c i = (((s.rootExpiry c 0 i).available c i).rootsAlone c i).rawsReady c i :=
  if_neg (by simp [Option.isSome_iff_ne_none.mp hheld])

end

/-- Settles O21: each packet merges, lands or is max-reduced where its root, its level and its pattern say, a spilled slice that reads back
takes its slot again, and each deadline ends what it finds held or not landed. -/
theorem rootsProceed : Obligations.RootsProceed := by
  refine ⟨?_, ?_, ?_, ?_, ?_, ?_, ?_, ?_⟩
  · intro s c p t hc hawake horder htyp htail hroot _ _
    exact State.rootRecv_value htail htyp hroot ▸ State.onCell_coll hc hawake horder htail (by simp [htyp]) _
  · intro s c ctx w r q s1 hc hctx hspilled hroom hrec hread
    exact State.spillBack_read hspilled hroom hrec hread ▸ State.onSlice_present hc hctx _
  · intro s c ctx e k w hc hctx _
    exact State.onSlice_present hc hctx _
  · intro s c ctx e k d hc hctx _ _
    exact State.onSlice_present hc hctx _
  · intro s c ctx e k d hc hctx hdep hlands hopen
    exact State.memberDeadline_output hdep hlands hopen ▸ State.onSlice_present hc hctx _
  · intro s c p t hc hawake horder htyp htail hlevel
    exact State.resultArrive_level0 htail hlevel ▸ State.onCell_coll hc hawake horder htail (by simp [htyp]) _
  · intro s c p t hc hawake horder htyp htail hlevel hpattern
    exact State.anchorArrive_level0 htail hlevel hpattern ▸ State.onCell_coll hc hawake horder htail (by simp [htyp]) _
  · intro s c ctx e k hc hctx hheld
    exact State.anchorExpiry_held hheld ▸ State.onSlice_present hc hctx _

/-! ### Exchanges and the dual reduction (R245, R268, R346, R347, R352) -/

section
variable {s : State} {c : Coord} {p : Packet} {t : CollTail} {i : SliceId}

theorem runs_exchangeJoin {ctx : Nat} (hctx : ctx < 4096) (epoch : Nat) :
    Runs (.exchangeJoin ctx epoch) s ((s.exchangeJoin ctx epoch).done) := if_pos (decide_eq_true hctx)

section
variable {h : HoldEnt} (hheld : s.hold? c i = some h)
include hheld

/-- A wait for the check partial that ends settles the slice on the held one, if its record reads back well. -/
theorem State.checkWaitEnd_read {q : Part} {s1 : State} (hcheck : h.third = false)
    (hread : ({ s with time := max s.time h.deadline } : State).holdRead c h = (some q, s1)) :
    s.checkWaitEnd c i = s1.settleHold c i 3 q := by
  simp [State.checkWaitEnd, hheld, hcheck, hread]

theorem State.thirdWaitEnd_held (hthird : h.third = true) :
    s.thirdWaitEnd c i = ({ s with time := max s.time h.deadline } : State).noThird c h := by
  simp [State.thirdWaitEnd, hheld, hthird]

end

/-- A member of an armed context reads again what a recheck notice names. -/
theorem State.recheckAt_notice (htail : p.tail = .coll t) (htyp : p.typ = 0x23) (hpass : t.pass = true) (harmed : (s.arm? t.ctx).isSome = true) :
    s.recheckAt c p =
      (List.range t.nsl).foldl (fun (u : State) j => u.recheckOwn c ⟨t.ctx, t.epoch, t.slice + j⟩) (s.takePkt p) := by
  rw [State.recheckAt, collTail_coll htail]
  exact if_neg (by simp [htyp, hpass, Option.isSome_iff_ne_none.mp harmed])

theorem State.patternReplay_breeze (hpower : s.power (s.fieldOf c) = 1) (henabled : s.reg .engine 0 0x8001 6 = 1)
    (hlive : s.isHole c = false) : s.patternReplay c = s.replay c :=
  if_pos (by simp [hpower, henabled, hlive])

end

/-- Settles O22: a row runs its operation at its router or for its context, a hold entry says which of the two waits ended, a notice is read
by its members, and a live router in Breeze replays the library where that is enabled. -/
theorem exchangeAndDual : Obligations.ExchangeAndDual := by
  refine ⟨?_, ?_, ?_, ?_, ?_, ?_, ?_, ?_⟩
  · intro s c ctx e dst x a hc hctx _ _ _
    exact State.onSlice_present hc hctx _
  · intro s ctx e m x hctx _ _ _ _ _
    exact runs_exchangeJoin hctx e
  · intro s c p t hc hawake horder htyp htail _ _ _
    exact State.onCell_coll hc hawake horder htail (by simp [htyp]) _
  · intro s c p t hc hawake horder htyp htail _ _ _
    exact State.onCell_coll hc hawake horder htail (by simp [htyp]) _
  · intro s c ctx e k h q s1 hc hctx hheld hcheck hread
    exact State.checkWaitEnd_read hheld hcheck hread ▸ State.onSlice_present hc hctx _
  · intro s c ctx e k h hc hctx hheld hthird
    exact State.thirdWaitEnd_held hheld hthird ▸ State.onSlice_present hc hctx _
  · intro s c p t hc hawake horder htyp htail hpass harmed
    exact State.recheckAt_notice htail htyp hpass harmed ▸ State.onCell_coll hc hawake horder htail (by simp [htyp]) _
  · intro s c hc hpower henabled hlive
    exact State.patternReplay_breeze hpower henabled hlive ▸ State.onCell_present hc _

end Sys2Proof.Machine
end

section
/-! SUPPORT. Collectives across engines (chapter 11): the guards of the rows that run at a link port's level station, and what the operation of
each does in the case a statement names. Obligation O23 follows. -/

namespace Sys2Proof.Machine

/-! ### The guards of the rows -/

section
variable {s : State} {p : Nat}

theorem State.onLevel_present {l ctx : Nat} (hp : p < s.nPorts) (hl : l ≤ 3) (hctx : ctx < 4096) (u : State) :
    s.onLevel p l ctx u = .next u := by
  simp [State.onLevel, whenUnit, hp, hl, hctx]

/-- A Collective packet is taken in its turn at the live gateway cell of its port (R74, R256). -/
theorem State.onLink_coll {typs : List Nat} {pk : Packet} {t : CollTail} (hp : p < s.nPorts)
    (hawake : s.cellAwake (s.siteCell (.port p)) = true) (horder : s.overtakes pk = false) (htail : pk.tail = .coll t)
    (htyp : pk.typ ∈ typs) (u : State) : s.onLink p (onColl (s.siteCell (.port p)) pk typs s u) = .next u := by
  rw [State.onLink_present hp, onColl, htail]
  exact congrArg _ ((if_pos (List.contains_iff_mem.mpr htyp)).trans (State.atEject_awake horder hawake u))

end

/-! ### Conversion and expiries at a station (R257, R258, R262) -/

section
variable {s : State} {p l : Nat} {i : SliceId}

/-- With declared anchors a partial carries the system anchors of its slice itself, so that no pass has to deliver them (R257). -/
theorem State.lvEg_declared (hdeclared : (s.spec i.ctx).measured = false) (q : Part) :
    s.lvEg p i q = some (fun j => (q.blk j).a) := if_neg (by simp [hdeclared])

/-- A level-0 partial staged in a context with a carrier is converted on the anchors known for it, and is available from then on. -/
theorem State.lvConvert_staged {o : LvOwn} {q : Part} {eg : Nat → Nat} (hown : s.lvOwn? p 1 1 i = some o) (hpart : o.part = some q)
    (heg : s.lvEg p i q = some eg) (hraw : o.carrier = false) (hcarried : (s.spec i.ctx).carried = true) :
    s.lvConvert p i = ((s.lvConverted p 1 i (s.toCarrier i.ctx q eg)).setLvOwn p
      { o with part := some (s.toCarrier i.ctx q eg).1, carrier := true }).lvAvail p 1 1 i := by
  simp [State.lvConvert, hown, hpart, heg, hraw, hcarried]

/-- Outside EXCHANGE a level root holds a value slice alone, and no join beside it, which its lease would end too (R268). -/
theorem State.lvLeaseExpiry_value (hpattern : s.ctx i.ctx 2 ≠ 5) : s.lvLeaseExpiry p l i = s.lvRootExpiry p 1 l i := if_neg hpattern

/-- Outside EXCHANGE what a level root holds in the anchor phase is an anchor pass, and no join (R257, R268). -/
theorem State.lvAnchorExpiry_pass (hpattern : s.ctx i.ctx 2 ≠ 5) : s.lvAnchorExpiry p l i = s.lvRootExpiry p 0 l i := if_neg hpattern

end

/-- Settles O23: a level packet in its turn runs its operation at its port, a staged partial with declared anchors becomes a carrier, and
each expiry ends what its station holds of the value or of the anchor pass. -/
theorem levelsProceed : Obligations.LevelsProceed := by
  refine ⟨?_, ?_, ?_, ?_, ?_, ?_, ?_⟩
  · intro s p pk t hp hawake horder htyp _ htail _ _
    exact State.onLink_coll hp hawake horder htail (by simp [htyp]) _
  · intro s p ctx e k o q hp hctx hown hpart hraw hcarried hdeclared
    have hanchors := State.lvEg_declared (p := p) (i := ⟨ctx, e, k⟩) hdeclared q
    exact State.lvConvert_staged hown hpart hanchors hraw hcarried ▸ State.onLevel_present hp (by decide) hctx _
  · intro s p l ctx e k w hp hl hctx _ _
    exact State.onLevel_present hp hl hctx _
  · intro s p l ctx e k o q hp hl hctx _ _
    exact State.onLevel_present hp hl hctx _
  · intro s p l ctx e k w hp hl hctx hpattern _
    have hvalue := State.lvLeaseExpiry_value (p := p) (l := l) (i := ⟨ctx, e, k⟩) hpattern
    exact hvalue ▸ State.onLevel_present hp hl hctx _
  · intro s p l ctx e k w hp hl hctx hpattern _
    have hpass := State.lvAnchorExpiry_pass (p := p) (l := l) (i := ⟨ctx, e, k⟩) hpattern
    exact hpass ▸ State.onLevel_present hp hl hctx _
  · intro s p pk t hp hawake horder htyp _ htail _ _ _
    exact State.onLink_coll hp hawake horder htail (by simp [htyp]) _

end Sys2Proof.Machine
end

section
/-! SUPPORT. The canonical form of the state (R376) along the block's steps: each command keeps it, and so does an idle step. Obligation O59
follows. -/

namespace Sys2Proof.Machine

/-! ### An idle step -/

section
variable {k : Fixed} {s : State}

theorem State.idlePort_kept (c : Coord) (p : Nat) (hk : Kept k s) : Kept k (s.idlePort c p) :=
  Kept.ite (State.sendCreditBeat_kept c p hk) hk

theorem State.idleRouter_kept (c : Coord) (hk : Kept k s) : Kept k (s.idleRouter c) :=
  Kept.foldl hk fun _ p h => State.idlePort_kept c p h

theorem State.tick_kept (hk : Kept k s) : Kept k s.tick :=
  Kept.foldl (Kept.mk_time hk (Nat.le_succ _)) fun _ e h => State.idleRouter_kept (coordOfKey e.1) h

/-! ### The commands -/

/-- Every command keeps the canonical form, by the law of its own row. -/
theorem exec_kept (i : Instr) (hk : Kept k s) : KeptOut k (exec i s) :=
  match i with
  | .commandPresent c core d => execCommandPresent_kept c core d hk
  | .put c => execPut_kept c hk
  | .get c => execGet_kept c hk
  | .putScatter c => execPutScatter_kept c hk
  | .getGather c => execGetGather_kept c hk
  | .send c => execSend_kept c hk
  | .mcast c => execMcast_kept c hk
  | .deposit c => execDeposit_kept c hk
  | .signalBarArrive c => execSignalBarArrive_kept c hk
  | .signalTallyAdd c => execSignalTallyAdd_kept c hk
  | .signalTallyMin c => execSignalTallyMin_kept c hk
  | .signalTallyMax c => execSignalTallyMax_kept c hk
  | .signalTallyRead c => execSignalTallyRead_kept c hk
  | .signalTallySwap c => execSignalTallySwap_kept c hk
  | .signalTallyTake c => execSignalTallyTake_kept c hk
  | .signalInt c => execSignalInt_kept c hk
  | .signalWake c => execSignalWake_kept c hk
  | .fenceIssue c => execFenceIssue_kept c hk
  | .fenceDone c => execFenceDone_kept c hk
  | .fenceCtx c => execFenceCtx_kept c hk
  | .dictRead c => execDictRead_kept c hk
  | .dictWrite c => execDictWrite_kept c hk
  | .watchBuffer c => execWatchBuffer_kept c hk
  | .watchContext c => execWatchContext_kept c hk
  | .counterRead c core tag k => execCounterRead_kept c core tag k hk
  | .blockingWait c core tag k v => execBlockingWait_kept c core tag k v hk
  | .waitTimeoutExpiry c core k => execWaitTimeoutExpiry_kept c core k hk
  | .chPoll c core tag n => execChPoll_kept c core tag n hk
  | .chWait c core tag n => execChWait_kept c core tag n hk
  | .chWaitTimeout c core n => execChWaitTimeout_kept c core n hk
  | .chAdvance c core tag n h g => execChAdvance_kept c core tag n h g hk
  | .intTake c core tag => execIntTake_kept c core tag hk
  | .dataBeatReceive c port cw side => execDataBeatReceive_kept c port cw side hk
  | .creditBeatReceive c port cw side => execCreditBeatReceive_kept c port cw side hk
  | .gustDecision c port => execGustDecision_kept c port hk
  | .creditBeatInsert c port => execCreditBeatInsert_kept c port hk
  | .arbWindowBoundary c port => execArbWindowBoundary_kept c port hk
  | .tradeClaimArise c port => execTradeClaimArise_kept c port hk
  | .tradeClaimLapse c port => execTradeClaimLapse_kept c port hk
  | .tradeTableApply c port => execTradeTableApply_kept c port hk
  | .creditSyncReqReceive c port => execCreditSyncReqReceive_kept c port hk
  | .creditSyncMarkerReceive c port => execCreditSyncMarkerReceive_kept c port hk
  | .creditSyncRspReceive c port counts => execCreditSyncRspReceive_kept c port counts hk
  | .creditSyncRetry c port => execCreditSyncRetry_kept c port hk
  | .routerFence c => execRouterFence_kept c hk
  | .ringChangeReceive c hole rowByp colByp => execRingChangeReceive_kept c hole rowByp colByp hk
  | .recloseRelease hole => execRecloseRelease_kept hole hk
  | .anycastAdvertise g => execAnycastAdvertise_kept g hk
  | .anycastWinnerDecode g => execAnycastWinnerDecode_kept g hk
  | .anyWinReceive c g member noWinner => execAnyWinReceive_kept c g member noWinner hk
  | .signalBeatReceive c port cw side => execSignalBeatReceive_kept c port cw side hk
  | .slsyncSend c port => execSlsyncSend_kept c port hk
  | .slsyncReceive c port counts => execSlsyncReceive_kept c port counts hk
  | .creditSignalSend c port => execCreditSignalSend_kept c port hk
  | .creditSignalReceive c port counts => execCreditSignalReceive_kept c port counts hk
  | .barArriveAtRoot c a => execBarArriveAtRoot_kept c a hk
  | .barrierPhaseTimeout bctx => execBarrierPhaseTimeout_kept bctx hk
  | .barReleaseReceive c r => execBarReleaseReceive_kept c r hk
  | .tallyRequestAtHome q => execTallyRequestAtHome_kept q hk
  | .tallyRspReceive q => execTallyRspReceive_kept q hk
  | .intReceive c core origin arg32 => execIntReceive_kept c core origin arg32 hk
  | .wakeReceive f arg8 => execWakeReceive_kept f arg8 hk
  | .nackReceive n => execNackReceive_kept n hk
  | .deliveredReceive d => execDeliveredReceive_kept d hk
  | .replyTimeoutExpiry c slot => execReplyTimeoutExpiry_kept c slot hk
  | .sendAdmission c p => execSendAdmission_kept c p hk
  | .sendLanding c p => execSendLanding_kept c p hk
  | .chanStateWrite r => execChanStateWrite_kept r hk
  | .chanHeadWrite r => execChanHeadWrite_kept r hk
  | .reserveReceive site p => execReserveReceive_kept site p hk
  | .reservationGrant site => execReservationGrant_kept site hk
  | .grantReceive c p => execGrantReceive_kept c p hk
  | .putDataHeader site p => execPutDataHeader_kept site p hk
  | .reservationFilled site key => execReservationFilled_kept site key hk
  | .landingLeaseExpiry site key => execLandingLeaseExpiry_kept site key hk
  | .releaseReceive site p => execReleaseReceive_kept site p hk
  | .bulkTimeoutExpiry c rsv => execBulkTimeoutExpiry_kept c rsv hk
  | .getReqReceive site p => execGetReqReceive_kept site p hk
  | .getDataReceive c p => execGetDataReceive_kept c p hk
  | .mresGrantReceive c g => execMresGrantReceive_kept c g hk
  | .mresArriveReceive a => execMresArriveReceive_kept a hk
  | .callLimitExpiry source mid => execCallLimitExpiry_kept source mid hk
  | .mcastDataReceive c p => execMcastDataReceive_kept c p hk
  | .sweepOriginate c ctx epoch slice => execSweepOriginate_kept c ctx epoch slice hk
  | .sweepArrive c p => execSweepArrive_kept c p hk
  | .sweepWaitBudgetExpiry c ctx epoch slice => execSweepWaitBudgetExpiry_kept c ctx epoch slice hk
  | .columnHalfOriginate c ctx epoch slice => execColumnHalfOriginate_kept c ctx epoch slice hk
  | .rootArrival c p => execRootArrival_kept c p hk
  | .spillReadBack c ctx => execSpillReadBack_kept c ctx hk
  | .sliceLeaseExpiry c ctx epoch slice => execSliceLeaseExpiry_kept c ctx epoch slice hk
  | .orphanExpiry c ctx epoch slice => execOrphanExpiry_kept c ctx epoch slice hk
  | .resultArrive c p => execResultArrive_kept c p hk
  | .anchorArrive c p => execAnchorArrive_kept c p hk
  | .anchorPassOrphanExpiry c ctx epoch slice => execAnchorPassOrphanExpiry_kept c ctx epoch slice hk
  | .memberDeadlineExpiry c ctx epoch slice => execMemberDeadlineExpiry_kept c ctx epoch slice hk
  | .exchangeSegmentSend c ctx epoch dst => execExchangeSegmentSend_kept c ctx epoch dst hk
  | .exchangeJoin ctx epoch => execExchangeJoin_kept ctx epoch hk
  | .levelPacketArrive port p => execLevelPacketArrive_kept port p hk
  | .stationCarrierConvert port ctx epoch slice => execStationCarrierConvert_kept port ctx epoch slice hk
  | .levelWaitExpiry port level ctx epoch slice => execLevelWaitExpiry_kept port level ctx epoch slice hk
  | .levelOrphanExpiry port level ctx epoch slice => execLevelOrphanExpiry_kept port level ctx epoch slice hk
  | .levelLeaseExpiry port level ctx epoch slice => execLevelLeaseExpiry_kept port level ctx epoch slice hk
  | .levelResultDescend port p => execLevelResultDescend_kept port p hk
  | .gatherReqReceive st d p => execGatherReqReceive_kept st d p hk
  | .coalescerReply st tdesc row => execCoalescerReply_kept st tdesc row hk
  | .gatherDataReceive c p => execGatherDataReceive_kept c p hk
  | .rdataReceive st d tag cw0 cw1 err parityOk => execRdataReceive_kept st d tag cw0 cw1 err parityOk hk
  | .wackReceive st d tag err parityOk => execWackReceive_kept st d tag err parityOk hk
  | .txnTimeoutExpiry st d tag => execTxnTimeoutExpiry_kept st d tag hk
  | .scatterDataReceive st d p => execScatterDataReceive_kept st d p hk
  | .tblCloseWrite r => execTblCloseWrite_kept r hk
  | .flushReqReceive st d p => execFlushReqReceive_kept st d p hk
  | .flushWriteback st d tdesc => execFlushWriteback_kept st d tdesc hk
  | .flushAnswerReceive d => execFlushAnswerReceive_kept d hk
  | .flushLimitExpiry tdesc => execFlushLimitExpiry_kept tdesc hk
  | .memStreamStart r => execMemStreamStart_kept r hk
  | .dropFence st d => execDropFence_kept st d hk
  | .frameReceive port f fec => execFrameReceive_kept port f fec hk
  | .nakRepeat port => execNakRepeat_kept port hk
  | .replayTimeoutExpiry port => execReplayTimeoutExpiry_kept port hk
  | .creditUnitSend port => execCreditUnitSend_kept port hk
  | .linkPacketEnter port p => execLinkPacketEnter_kept port p hk
  | .transitPacketArrive port p => execTransitPacketArrive_kept port p hk
  | .portTrainingStart port => execPortTrainingStart_kept port hk
  | .trainingLock port own partner => execTrainingLock_kept port own partner hk
  | .trainingTimeout port => execTrainingTimeout_kept port hk
  | .helloReceive port h => execHelloReceive_kept port h hk
  | .certReceive port chain => execCertReceive_kept port chain hk
  | .proofReceive port sig => execProofReceive_kept port sig hk
  | .finishReceive port mac => execFinishReceive_kept port mac hk
  | .helloTimeout port => execHelloTimeout_kept port hk
  | .rekeyStart port random epub => execRekeyStart_kept port random epub hk
  | .rekeyReceive port random epub => execRekeyReceive_kept port random epub hk
  | .oldKeyPhaseExpiry port => execOldKeyPhaseExpiry_kept port hk
  | .holdDownExpiry port => execHoldDownExpiry_kept port hk
  | .upHoldElapsed port => execUpHoldElapsed_kept port hk
  | .laneDegrade port lane => execLaneDegrade_kept port lane hk
  | .widthChangeDone port => execWidthChangeDone_kept port hk
  | .noteReceive port n => execNoteReceive_kept port n hk
  | .noteOriginate => execNoteOriginate_kept hk
  | .noteExpiry origin => execNoteExpiry_kept origin hk
  | .engineRouteRecompute => execEngineRouteRecompute_kept hk
  | .deadTimeExpiry port => execDeadTimeExpiry_kept port hk
  | .stallTimeExpiry port => execStallTimeExpiry_kept port hk
  | .quarantineRelease r => execQuarantineRelease_kept r hk
  | .retrainFull r => execRetrainFull_kept r hk
  | .retrainKeyUpdate r => execRetrainKeyUpdate_kept r hk
  | .relayEnable r => execRelayEnable_kept r hk
  | .relayDisable r => execRelayDisable_kept r hk
  | .timeFrameSend port => execTimeFrameSend_kept port hk
  | .timeFrameReceive port t => execTimeFrameReceive_kept port t hk
  | .checkPartialArrive c p => execCheckPartialArrive_kept c p hk
  | .thirdPartialArrive c p => execThirdPartialArrive_kept c p hk
  | .checkWaitExpiry c ctx epoch slice => execCheckWaitExpiry_kept c ctx epoch slice hk
  | .thirdWaitExpiry c ctx epoch slice => execThirdWaitExpiry_kept c ctx epoch slice hk
  | .recheckNoticeReceive c p => execRecheckNoticeReceive_kept c p hk
  | .patternReplay c => execPatternReplay_kept c hk
  | .replayNow r => execReplayNow_kept r hk
  | .statusClear r => execStatusClear_kept r hk
  | .intEnableWrite r => execIntEnableWrite_kept r hk
  | .fenceWrite r => execFenceWrite_kept r hk
  | .linkFenceRelease r => execLinkFenceRelease_kept r hk
  | .raiseSuspect r => execRaiseSuspect_kept r hk
  | .drain r => execDrain_kept r hk
  | .drainStepAdvance => execDrainStepAdvance_kept hk
  | .drainLimitExpiry => execDrainLimitExpiry_kept hk
  | .faultInjectArm r => execFaultInjectArm_kept r hk
  | .commit r => execCommit_kept r hk
  | .abandon r => execAbandon_kept r hk
  | .commitPrepareDone => execCommitPrepareDone_kept hk
  | .commitApplyDone => execCommitApplyDone_kept hk
  | .commitLimitExpiry lagging => execCommitLimitExpiry_kept lagging hk
  | .groupLeaseExpiry who => execGroupLeaseExpiry_kept who hk
  | .dictRequestReceive r => execDictRequestReceive_kept r hk
  | .dictSegmentTimeout f who tag => execDictSegmentTimeout_kept f who tag hk
  | .dictRspReceive r => execDictRspReceive_kept r hk
  | .mgmtRequest m => execMgmtRequest_kept m hk
  | .defectMapAdd r => execDefectMapAdd_kept r hk
  | .freqWrite r => execFreqWrite_kept r hk
  | .freqRelockDone f => execFreqRelockDone_kept f hk
  | .pllUnlock f => execPllUnlock_kept f hk
  | .pllRelock f => execPllRelock_kept f hk
  | .pllRelockFail f => execPllRelockFail_kept f hk
  | .droopStretch f n => execDroopStretch_kept f n hk
  | .breezeEntry f => execBreezeEntry_kept f hk
  | .lullEntry f => execLullEntry_kept f hk
  | .lullEntryDone f => execLullEntryDone_kept f hk
  | .fieldWake f cause => execFieldWake_kept f cause hk
  | .wakeHoldExpiry f => execWakeHoldExpiry_kept f hk
  | .fieldToleranceWrite r => execFieldToleranceWrite_kept r hk
  | .calmEntry => execCalmEntry_kept hk
  | .stillEntry => execStillEntry_kept hk
  | .engineWake cause => execEngineWake_kept cause hk
  | .engineWakeWrite r => execEngineWakeWrite_kept r hk
  | .engineToleranceWrite r => execEngineToleranceWrite_kept r hk
  | .wakeNFall => execWakeNFall_kept hk
  | .calmLinkArrival port item => execCalmLinkArrival_kept port item hk
  | .fantailWindow f => execFantailWindow_kept f hk
  | .fantailShareRecompute => execFantailShareRecompute_kept hk
  | .comparatorFire k => execComparatorFire_kept k hk
  | .comparatorTimeWrite r => execComparatorTimeWrite_kept r hk
  | .ftSetWrite r => execFtSetWrite_kept r hk
  | .beaconOriginate => execBeaconOriginate_kept hk
  | .beaconReceive f b => execBeaconReceive_kept f b hk
  | .freezeAllRings r => execFreezeAllRings_kept r hk
  | .unfreezeAllRings r => execUnfreezeAllRings_kept r hk
  | .eventRingFrozenWrite r => execEventRingFrozenWrite_kept r hk
  | .counterSelectWrite r => execCounterSelectWrite_kept r hk
  | .probeActionWrite r => execProbeActionWrite_kept r hk
  | .traceInput c core data => execTraceInput_kept c core data hk
  | .traceChunkSend c source => execTraceChunkSend_kept c source hk
  | .sweepSample c => execSweepSample_kept c hk
  | .sweepEnableWrite r => execSweepEnableWrite_kept r hk
  | .breakpoint c core => execBreakpoint_kept c core hk
  | .haltStateWrite r => execHaltStateWrite_kept r hk
  | .haltReceive c h => execHaltReceive_kept c h hk
  | .coldBringup => execColdBringup_kept hk
  | .restart r => execRestart_kept r hk
  | .bringupAon refclkOk => execBringupAon_kept refclkOk hk
  | .refclkRetry => execRefclkRetry_kept hk
  | .bringupAgents nvOk failed => execBringupAgents_kept nvOk failed hk
  | .bringupClocks => execBringupClocks_kept hk
  | .fieldWaveStart f => execFieldWaveStart_kept f hk
  | .bringupHoles => execBringupHoles_kept hk
  | .bringupSelftest t => execBringupSelftest_kept t hk
  | .bringupSignal ok => execBringupSignal_kept ok hk
  | .bringupImage => execBringupImage_kept hk
  | .bringupDrops => execBringupDrops_kept hk
  | .bringupLinks => execBringupLinks_kept hk
  | .bringupDone => execBringupDone_kept hk
  | .aonPgFall => execAonPgFall_kept hk
  | .fieldPgFall f => execFieldPgFall_kept f hk
  | .cellReset c => execCellReset_kept c hk
  | .cellResetRelease c => execCellResetRelease_kept c hk
  | .memReadAnswer c err => execMemReadAnswer_kept c err hk
  | .memWriteAck c => execMemWriteAck_kept c hk
  | .linkLockLoss port lane => execLinkLockLoss_kept port lane hk
  | .testModeRise => execTestModeRise_kept hk
  | .testModeFall => execTestModeFall_kept hk
  | .extest update => execExtest_kept update hk
  | .samplePreload preload => execSamplePreload_kept preload hk
  | .idcode => execIdcode_kept hk
  | .extestPulse update => execExtestPulse_kept update hk
  | .extestTrain update => execExtestTrain_kept update hk
  | .bypass => execBypass_kept hk
  | .levelAnchorPassExpiry port level ctx epoch slice => execLevelAnchorPassExpiry_kept port level ctx epoch slice hk
  | .gatheringHoldExpiry c ctx epoch slice => execGatheringHoldExpiry_kept c ctx epoch slice hk
  | .flapDoublingReset port => execFlapDoublingReset_kept port hk
  | .mgmtReplyTimeout mtag => execMgmtReplyTimeout_kept mtag hk
  | .mctpControlRequest m => execMctpControlRequest_kept m hk
  | .dynamicAddressAssignment addr => execDynamicAddressAssignment_kept addr hk
  | .tapReset => execTapReset_kept hk
  | .fieldPgRise f => execFieldPgRise_kept f hk
  | .fieldPllLock f => execFieldPllLock_kept f hk
  | .baseRdyRise st => execBaseRdyRise_kept st hk

end

/-- Settles O59: an idle step and every command keep the canonical form, which does not speak of the queue of waiting commands. -/
theorem stepKeepsCanonical : Obligations.StepKeepsCanonical := by
  intro s t hs hstep
  unfold step at hstep
  split at hstep
  · cases hstep
    exact (State.tick_kept (Kept.start hs)).canonical
  · next c rest _ =>
    exact ((exec_kept c (Kept.start (s := { s with pending := rest }) hs)).at_next t hstep).canonical

end Sys2Proof.Machine
end

section
/-! SUPPORT. The place of a row of a table (R281): the listed stacks in rising order, the row's stack and stack address, and the row that a
stack's local index stands for. Obligation O47 follows. -/

namespace Sys2Proof.Machine

theorem bit_eq_testBit (n i : Nat) : bit n i = n.testBit i := Nat.testBit_eq_decide_div_mod_eq.symm

section
variable {t : Tbl}

/-! ### The listed stacks -/

theorem Tbl.list_rising (t : Tbl) : t.list.Pairwise (· < ·) := List.Pairwise.filter _ List.pairwise_lt_range

theorem Tbl.mem_list (hpositions : t.stackBits < 2 ^ 24) (i : Nat) : i ∈ t.list ↔ bit t.stackBits i = true := by
  have hbelow : bit t.stackBits i = true → i < 24 := fun hi =>
    (Nat.pow_lt_pow_iff_right (by decide)).mp (Nat.lt_of_le_of_lt (Nat.ge_two_pow_of_testBit (bit_eq_testBit _ _ ▸ hi)) hpositions)
  simpa [Tbl.list] using hbelow

theorem Tbl.length_list_pos (hloaded : t.loaded = true) (hpositions : t.stackBits < 2 ^ 24) : 0 < t.list.length := by
  obtain ⟨i, hi⟩ := Nat.exists_testBit_of_ne_zero (of_decide_eq_true hloaded)
  exact List.length_pos_of_mem ((Tbl.mem_list hpositions i).mpr (bit_eq_testBit _ _ ▸ hi))

/-! ### The place of a row -/

theorem Tbl.place_eq (hlisted : 0 < t.list.length) (r : Nat) :
    t.place r = (nth t.list (r % t.list.length) 0, r / t.list.length, t.base + r / t.list.length * t.rowBytes) := by
  simp [Tbl.place, Nat.max_eq_right hlisted]

theorem nth_of_lt {α : Type} {l : List α} {i : Nat} (d : α) (hi : i < l.length) : nth l i d = l[i] := List.getD_eq_getElem _ _ hi

/-- A listed stack stands once in the list, at its own place. -/
theorem Tbl.findIdx?_nth {i : Nat} (hi : i < t.list.length) : t.list.findIdx? (· == nth t.list i 0) = some i := by
  have hnth := nth_of_lt 0 hi
  refine List.findIdx?_eq_some_iff_getElem.mpr ⟨hi, by simp [hnth], fun j hj => ?_⟩
  have hlt : t.list[j] < t.list[i] := List.pairwise_iff_getElem.mp t.list_rising j i _ hi hj
  simpa [hnth] using Nat.ne_of_lt hlt

/-- The local index of a row, in the row's stack, stands for the row. -/
theorem Tbl.global_place (hlisted : 0 < t.list.length) (r : Nat) : t.global (t.place r).1 (t.place r).2.1 = r := by
  simp only [Tbl.place_eq hlisted, Tbl.global, Tbl.findIdx?_nth (Nat.mod_lt r hlisted), Option.getD_some]
  exact Nat.div_add_mod' r _

theorem Tbl.place_mem (hlisted : 0 < t.list.length) (r : Nat) : (t.place r).1 ∈ t.list := by
  rw [Tbl.place_eq hlisted, nth_of_lt 0 (Nat.mod_lt r hlisted)]
  exact List.getElem_mem _

theorem Tbl.beyond_place (hlisted : 0 < t.list.length) (r : Nat) :
    t.beyond (t.place r).1 (t.place r).2.1 = true ↔ t.rows ≤ r := by
  simp [Tbl.beyond, Tbl.place_mem hlisted, Tbl.global_place hlisted]

end

/-- Settles O47: a loaded table lists at least one stack, each once, so that a row is the one its stack and local index stand for. -/
theorem rowPlace : Obligations.RowPlace := by
  intro t r hloaded hpositions
  have hlisted := Tbl.length_list_pos hloaded hpositions
  exact ⟨t.list_rising, Tbl.mem_list hpositions, hlisted, Tbl.place_eq hlisted r, Tbl.beyond_place hlisted r⟩

end Sys2Proof.Machine
end

section
/-! SUPPORT. TEST_MODE and the test access port (R458, R460, R461): what its rows may change in the state, and the registers that its
instructions select. Obligations O57 and O41 follow. -/

namespace Sys2Proof.Machine

/-! ### What a row of the test access port may change -/

/-- From `s` to `t` only the pin TEST_MODE, the test access port and the count of free values may have changed. -/
def TestPortAlone (s t : State) : Prop :=
  t = { s with eng := { s.eng with testMode := t.eng.testMode, tap := t.eng.tap }, freeCtr := t.freeCtr }

section
variable {s t u : State}

theorem TestPortAlone.refl (s : State) : TestPortAlone s s := rfl

theorem TestPortAlone.trans (hst : TestPortAlone s t) (htu : TestPortAlone t u) : TestPortAlone s u := by
  unfold TestPortAlone at hst htu ⊢
  rw [htu, hst]

theorem TestPortAlone.modTap (h : TestPortAlone s t) (f : TapSt → TapSt) : TestPortAlone s (t.modTap f) := h.trans rfl

theorem TestPortAlone.testRise (s : State) : TestPortAlone s s.testRise := rfl

/-- Drawing unstated values advances their count alone. -/
theorem TestPortAlone.freshBytes (s : State) (n : Nat) : TestPortAlone s (s.freshBytes n).2 := by
  unfold State.freshBytes
  generalize List.range n = draws
  suffices ∀ r : List Byte × State, TestPortAlone s r.2 →
      TestPortAlone s (draws.foldl (fun r _ => let f := r.2.fresh; (r.1 ++ leBytes 8 f.1, f.2)) r).2 from this _ (.refl s)
  induction draws with
  | nil => exact fun _ h => h
  | cons _ draws ih => exact fun r h => ih _ (h.trans rfl)

theorem TestPortAlone.tapDrive (s : State) (code : Nat) (update : List Bool) : TestPortAlone s (s.tapDrive code update) := by
  unfold State.tapDrive
  split
  · exact (TestPortAlone.refl s).modTap _
  · exact (TestPortAlone.refl s).modTap _

theorem TestPortAlone.tapSample (s : State) (preload : List Bool) : TestPortAlone s (s.tapSample preload) := by
  unfold State.tapSample
  exact (TestPortAlone.freshBytes s _).modTap _

theorem TestPortAlone.tapIdcode (s : State) : TestPortAlone s s.tapIdcode := (TestPortAlone.refl s).modTap _

theorem TestPortAlone.tapBypass (s : State) : TestPortAlone s (s.tapBypass false) := (TestPortAlone.refl s).modTap _

end

/-! ### What the instructions select -/

section
variable {s : State}

/-- An allowed drive instruction is selected and drives the pins from the values given. -/
theorem State.tapDrive_allowed (h : s.tapAllowed = true) (code : Nat) (update : List Bool) :
    (s.tapDrive code update).eng.tap.driven = true ∧ (s.tapDrive code update).eng.tap.boundary = update ∧
      (s.tapDrive code update).eng.tap.ir = code := by
  rw [State.tapDrive, if_pos h]
  exact ⟨rfl, rfl, rfl⟩

/-- The IDCODE register ends in a 1 and names part 0xB480, whatever the vendor's identity. -/
theorem State.tapIdcode_reads (s : State) :
    Reads s.tapIdcode.eng.tap.dr [(0, 1, 1), (1, 11, Config.jedecId.toNat), (12, 16, 0xB480), (28, 4, 1)] :=
  reads_pack ⟨by decide, rfl, by decide, fits_iff.mpr Config.jedecId.isLt, by decide, rfl, by decide, rfl, trivial⟩

end

/-- Settles O57: each row is a change of the pin or of the port, after SAMPLE/PRELOAD has drawn what it captures. -/
theorem testPortFrame : Obligations.TestPortFrame := by
  intro i s t u hrow hnext
  have halone : TestPortAlone s t := by
    rcases hrow with rfl | rfl | rfl | rfl | rfl | rfl | rfl | rfl <;> cases hnext
    · exact .testRise s
    · exact .tapDrive s _ u
    · exact .tapSample s u
    · exact .tapIdcode s
    · exact .tapDrive s _ u
    · exact .tapDrive s _ u
    · exact .tapBypass s
    · exact .tapIdcode s
  rw [halone]
  exact ⟨rfl, rfl, rfl, rfl, rfl, rfl, rfl, rfl, rfl, rfl, rfl, rfl, rfl, rfl, rfl, rfl⟩

/-- Settles O41: each row answers the state its instruction leaves; a drive instruction takes the pins where TEST_MODE and the ports allow
it. -/
theorem testPortInstructions : Obligations.TestPortInstructions := by
  refine ⟨?_, ?_, ?_, ?_, ?_, ?_, ?_, ?_, ?_⟩
  · exact fun s => ⟨s.testRise, rfl, rfl⟩
  · exact fun s => ⟨s.testFall, rfl, rfl⟩
  · exact fun s u h => ⟨s.tapDrive 0 u, rfl, State.tapDrive_allowed h _ u⟩
  · exact fun s u h => ⟨s.tapDrive 0x0C u, rfl, State.tapDrive_allowed h _ u⟩
  · exact fun s u h => ⟨s.tapDrive 0x0D u, rfl, State.tapDrive_allowed h _ u⟩
  · exact fun s u => ⟨s.tapSample u, rfl, rfl, rfl⟩
  · intro s
    obtain ⟨hlast, -, hpart, -⟩ := s.tapIdcode_reads
    exact ⟨s.tapIdcode, rfl, rfl, hlast, hpart⟩
  · exact fun s => ⟨s.tapBypass false, rfl, rfl, rfl⟩
  · exact fun s => ⟨s.tapReset, rfl, rfl, rfl⟩

end Sys2Proof.Machine
end

section
/-! SUPPORT. The end of commit groups (R384): a COMMIT object written with no group open, an abandon, and the reset of a requester's cell.
Obligation O49 follows. -/

namespace Sys2Proof.Machine

section
variable {s : State} {r : DictReq} {w : Requester}

/-! ### The groups that stay open -/

/-- Where the groups of a requester are closed, it has none. -/
theorem State.group?_closed {p : Group → Bool} (hclosed : ∀ g : Group, g.who = w → p g = false) :
    (s.setGroups (s.eng.groups.filter p)).group? w = none := by
  refine List.find?_eq_none.mpr fun g hg hwho => ?_
  have hopen := (List.mem_filter.mp hg).2
  exact absurd hopen (by simp [hclosed g (beq_iff_eq.mp hwho)])

/-- Where the groups of a requester stay open, it has the one it had. -/
theorem State.group?_open {p : Group → Bool} (hopen : ∀ g : Group, g.who = w → p g = true) :
    (s.setGroups (s.eng.groups.filter p)).group? w = s.group? w := by
  refine List.find?_filter.trans (congrArg (s.eng.groups.find? ·) (funext fun g => ?_))
  by_cases hwho : g.who = w
  · simp [hopen g hwho, beq_eq_decide]
  · simp [hwho]

/-! ### Writes of COMMIT -/

theorem State.writeCommit_noGroup (h : s.group? r.who = none) : s.writeCommit r = (some (rspRef 0x1B), s) := by
  simp [State.writeCommit, h]

theorem State.writeCommit_abandon (hgroup : (s.group? r.who).isSome = true) (habandon : r.value = 2) :
    s.writeCommit r = (some rspOk, s.setGroups (s.eng.groups.filter (fun g => g.who != r.who))) := by
  obtain ⟨g, hg⟩ := Option.isSome_iff_exists.mp hgroup
  simp [State.writeCommit, hg, habandon]

/-! ### The reset of a cell -/

@[simp] theorem State.engine_setGroups (s : State) (gs : List Group) : (s.setGroups gs).engine = s.engine := rfl

@[simp] theorem State.engine_modIn (s : State) (c : Coord) (q : Nat) (f : PortIn → PortIn) : (s.modIn c q f).engine = s.engine := rfl

/-- A cell that runs loses the groups of its own requesters at its reset; the router's ports come after them. -/
theorem State.cellResetAt_groups {c : Coord} (hruns : (s.cell c).inReset = false) (core : Nat) :
    (s.cellResetAt c).group? ⟨(s.cellResetAt c).engine, c.x, c.y, core, false⟩ = none := by
  unfold State.cellResetAt
  rw [if_neg (by simp [hruns])]
  dsimp only
  generalize ((s.collReset c).resetChannels c).modCell c _ = u
  apply State.group?_closed (s := u)
  rintro g hwho
  simp [hwho]

end

/-- Settles O49: without a group a write of COMMIT is refused, and an abandon or the reset of the requester's cell closes its groups and
leaves those of others. -/
theorem groupsEnd : Obligations.GroupsEnd := by
  refine ⟨fun s r h => State.writeCommit_noGroup h, fun s r hgroup habandon => ?_, fun s c core h => State.cellResetAt_groups h core⟩
  refine ⟨_, State.writeCommit_abandon hgroup habandon, State.group?_closed (by simp), fun w hw => State.group?_open ?_⟩
  rintro g rfl
  simpa using hw

end Sys2Proof.Machine
end

section
/-! SUPPORT. The block as a whole: its step, what reset leaves (R376, R436), and the pin FAULT_N (R364, R443, R456, R461). Obligations O1, O2,
O52, O58 and O51 follow. -/

namespace Sys2Proof.Machine

/-! ### The step of the block -/

/-- Settles O1: the queue's front matches the second arm of the step. -/
theorem stepRunsFrontCommand : Obligations.StepRunsFrontCommand := by
  intro s c rest hqueue
  simp [step, hqueue]

/-- What a state holds beside the routers and the wires between them. -/
def State.besideBeats (s : State) : State := { s with rtrs := [], wires := [] }

/-- What every round of a loop leaves as it is, the loop does too. -/
theorem foldl_keeps {σ α β : Type} {π : σ → β} {f : σ → α → σ} (hf : ∀ s a, π (f s a) = π s) (l : List α) (s : σ) :
    π (l.foldl f s) = π s := by
  induction l generalizing s with
  | nil => rfl
  | cons a l ih => exact (ih _).trans (hf s a)

theorem State.putBeat_besideBeats (s : State) (c : Coord) (p : Nat) (cw : List Byte) (side : Nat) (copy : Bool) :
    (s.putBeat c p cw side copy).besideBeats = s.besideBeats := by
  unfold State.putBeat
  split <;> rfl

theorem State.sendCreditBeat_besideBeats (s : State) (c : Coord) (p : Nat) : (s.sendCreditBeat c p).besideBeats = s.besideBeats := by
  refine (State.putBeat_besideBeats _ _ _ _ _ _).trans ?_
  refine foldl_keeps ?_ _ _
  exact fun _ _ => rfl

theorem State.idlePort_besideBeats (s : State) (c : Coord) (p : Nat) : (s.idlePort c p).besideBeats = s.besideBeats := by
  unfold State.idlePort
  split
  · exact s.sendCreditBeat_besideBeats c p
  · rfl

/-- While the block idles 1 ns passes, and only routers and wires change beside. -/
theorem State.tick_besideBeats (s : State) : s.tick.besideBeats = ({ s with time := s.time + 1 } : State).besideBeats :=
  foldl_keeps (fun t e => foldl_keeps (fun t p => t.idlePort_besideBeats (coordOfKey e.1) p) _ t) _ _

/-- Settles O2: the idle step is the tick. -/
theorem emptyQueueIdles : Obligations.EmptyQueueIdles := by
  intro s hqueue
  have htick := s.tick_besideBeats
  refine ⟨s.tick, by simp [step, hqueue], (congrArg State.time htick :), (congrArg State.cellMem htick :), (congrArg State.regs htick :),
    (congrArg State.cells htick :), ?_⟩
  exact (congrArg State.pending htick :).trans hqueue

/-! ### Reset -/

theorem Memory.readN_nil (d : Byte) (a n : Nat) : Memory.readN d [] a n = List.replicate n d := by
  induction n generalizing a with
  | zero => rfl
  | succ n ih => exact congrArg (d :: ·) (ih (a + 1))

theorem CellSt.coreSt_init (core : Nat) : CellSt.init.coreSt core = CoreSt.init := List.getElem?_getD_replicate_default_eq _ 4 core

/-- Settles O52: at reset every container is empty and reads its default. -/
theorem resetHoldsDefaults : Obligations.ResetHoldsDefaults :=
  ⟨fun _ _ _ _ => rfl, fun _ core => CellSt.coreSt_init core, fun _ a n => Memory.readN_nil 0 a n, rfl, rfl, rfl, rfl, rfl⟩

/-- Settles O58: an empty container is in canonical form. -/
theorem resetCanonical : Obligations.ResetCanonical := rfl

/-! ### FAULT_N -/

/-- A map reads its default, or a value that it lists under the key. -/
theorem SMap.get_eq_or_mem {α : Type} (d : α) (m : SMap α) (k : Nat) : SMap.get d m k = d ∨ (k, SMap.get d m k) ∈ m := by
  induction m with
  | nil => exact .inl rfl
  | cons e m ih =>
    obtain ⟨a, v⟩ := e
    simp only [SMap.get]
    split
    · next h => exact .inr (h ▸ List.mem_cons_self)
    · exact ih.imp_right (List.mem_cons_of_mem _)

theorem isFault_cases {idx : Nat} (h : isFault idx = true) :
    idx ∈ [0x8100, 0x8101, 0x8102, 0x8110, 0x8120, 0x8130, 0x8140] := List.contains_iff_mem.mp h

/-- STATUS is 0 by default. -/
theorem objDefault_status {idx : Nat} (h : isFault idx = true) : objDefault idx 1 = 0 :=
  (by decide : ∀ i ∈ [0x8100, 0x8101, 0x8102, 0x8110, 0x8120, 0x8130, 0x8140], objDefault i 1 = 0) idx (isFault_cases h)

theorem regKey_sub (n : Node) (inst idx : Nat) {sub : Nat} (h : sub < 256) : regKey n inst idx sub % 256 = sub := by
  unfold regKey
  omega

theorem regKey_idx (n : Node) (inst : Nat) {idx sub : Nat} (hidx : idx < 65536) (hsub : sub < 256) :
    regKey n inst idx sub / 256 % 65536 = idx := by
  unfold regKey
  omega

/-- A STATUS other than 0 is listed, and so seen. -/
theorem State.anyFault_of_status {s : State} {n : Node} {idx : Nat} (h : isFault idx = true) (hset : s.reg n 0 idx 1 ≠ 0) :
    s.anyFault = true := by
  have hlisted : (regKey n 0 idx 1, s.reg n 0 idx 1) ∈ s.regs :=
    (SMap.get_eq_or_mem _ s.regs _).resolve_left (fun hdefault => hset (hdefault.trans (objDefault_status h)))
  have hidx : idx < 65536 := (by decide : ∀ i ∈ [0x8100, 0x8101, 0x8102, 0x8110, 0x8120, 0x8130, 0x8140], i < 65536) idx (isFault_cases h)
  refine List.any_eq_true.mpr ⟨_, hlisted, ?_⟩
  simp only [regKey_sub n 0 idx (by decide : 1 < 256), regKey_idx n 0 hidx (by decide : 1 < 256)]
  simp [hset, isFault_cases h]

/-- Settles O51: the pin's definition takes the four conditions in turn, and a STATUS bit is seen wherever it is set. -/
theorem faultPinFollowsStatus : Obligations.FaultPinFollowsStatus := by
  refine ⟨?_, ?_, ?_, fun s n idx h hset => State.anyFault_of_status h hset⟩
  · intro s hdown
    simp [State.faultN, hdown]
  · intro s hup hfunctional hboot
    simp [State.faultN, hup, hfunctional, hboot]
  · intro s hup hfunctional hdone
    simp [State.faultN, hup, hfunctional, hdone]

end Sys2Proof.Machine
end

section
/-! SUPPORT. Tables and the memory transactions of drops (chapter 12): the guards of the rows, and what the operation of each does in the case
a statement names. Obligations O24 and O25 follow. -/

namespace Sys2Proof.Machine

/-! ### The guards of the rows -/

section
variable {s : State} {st d : Nat}

theorem State.onDrop_present (hst : s.stackFitted st = true) (hd : d < 32) (u : State) : s.onDrop st d u = .next u := by
  simp [State.onDrop, whenUnit, hst, hd]

theorem State.onTag_present {tag : Nat} (hst : s.stackFitted st = true) (hd : d < 32) (htag : tag < 256) (u : State) :
    s.onTag st d tag u = .next u := by
  simp [State.onTag, whenUnit, hst, hd, htag]

theorem State.onTableAt_present {td : Nat} (hst : s.stackFitted st = true) (htd : td < 1024) (u : State) :
    s.onTableAt st td u = .next u := by
  simp [State.onTableAt, whenUnit, hst, htd]

theorem State.onDropTable_present {td : Nat} (hst : s.stackFitted st = true) (hd : d < 32) (htd : td < 1024) (u : State) :
    s.onDropTable st d td u = .next u := by
  simp [State.onDropTable, whenUnit, hst, hd, htd]

/-- A packet with a Table tail acts in its turn at a router whose field is awake (R74, R403). -/
theorem State.onTable_taken {c : Coord} {p : Packet} {typ : Nat} {t : TableTail} (hawake : s.cellAwake c = true)
    (horder : s.overtakes p = false) (htyp : p.typ = typ) (htail : p.tail = .table t) (f : TableTail → State) :
    s.onTable c p typ f = f t := by
  rw [State.onTable, htail]
  exact (if_pos htyp).trans (State.atEject_awake horder hawake _)

end

/-! ### Gathers (R283, R285, R287) -/

section
variable {s : State} {c : Coord} {p : Packet} {t : TableTail}

theorem State.coalescerReply_pooled {st td row d : Nat} {e : Coal}
    (hready : (List.range 32).findSome? (fun d => ((s.drop st d).ents.find? (fun e =>
      e.tdesc == td && e.row == row && e.ready)).map (fun e => (d, e))) = some (d, e))
    (hpooled : e.pooled = true) (hread : e.err = false) :
    s.coalescerReply st td row = ({ s with time := max s.time (e.opened + e.arm.window) } : State).coalReply st d e := by
  simp [State.coalescerReply, hready, hpooled, hread]

theorem State.gatherDataAt_plain (hup : (s.cell c).inReset = false) (hplain : s.landInject (.router c) p = (p, s)) :
    s.gatherDataAt c p t = (s.gatherData c p t).after c := by
  simp only [State.gatherDataAt, hplain]
  exact State.cellRuns_up hup p _

/-! ### Scatters and flushes (R290, R292, R293) -/

theorem State.scatterDataAt_plain {st d : Nat} (hplain : s.landInject (.drop st d) p = (p, s)) :
    s.scatterDataAt st d p = (s.scatterData st d p).done := by
  simp only [State.scatterDataAt, hplain]

theorem State.flushReq_begins {st d : Nat} (htyp : p.typ = 6) (htail : p.tail = .table t) (hlive : s.dropLive st d = true)
    (hroom : (s.drop st d).queueUsed < 1024) (hidle : (s.drop st d).flushes.any (fun f => f.tdesc == t.tdesc) = false) :
    s.flushReq st d p = (s.takePkt p).flushBegin st d p t := by
  simp only [State.flushReq, htail]
  rw [if_neg (not_not_intro htyp), if_neg (by simp [hlive]), if_neg (Nat.not_le.mpr hroom), if_neg (by simp [hidle])]

theorem State.flushWriteback_begins {st d td : Nat} {f : DropFlush}
    (hflush : (s.drop st d).flushes.find? (fun f => f.tdesc == td) = some f) (hidle : f.busy = false)
    (hended : f.wait.any (fun k => ((s.drop st d).landing.find k).isSome) = false) :
    s.flushWriteback st d td = (s.modFlush st d td (fun f => { f with busy := true })).flushNext st d td := by
  simp only [State.flushWriteback, hflush]
  exact if_neg (by simp [hidle, hended])

theorem State.flushLimit_lead {td i : Nat} {l : LeadFlush} {answer : State → DictReq → State}
    (hlead : (List.range 768).findSome? (fun i =>
      ((s.drop (i / 32) (i % 32)).leads.find? (fun l => l.tdesc == td)).map (fun l => (i, l))) = some (i, l)) :
    s.flushLimit td answer =
      ({ s with time := max s.time (l.start + us (s.reg .engine 0 0x6001 2)) } : State).leadEnd (i / 32) (i % 32) l answer := by
  unfold State.flushLimit
  rw [hlead]

end

/-- Settles O24: each row runs its operation, which takes a packet in its turn; a pooled entry replies after its window, an idle table takes a
flush, and a flush begins its write-back once the rows it waited for have landed. -/
theorem tablesProceed : Obligations.TablesProceed := by
  refine ⟨?_, ?_, ?_, ?_, ?_, ?_, ?_, ?_⟩
  · intro s st d p t hst hd hawake horder htyp htail _ _ _ _
    exact (State.onDrop_present hst hd _).trans (congrArg _ (State.onTable_taken hawake horder htyp htail _))
  · intro s st td row d e hst htd _ hready hpooled hread
    exact State.coalescerReply_pooled hready hpooled hread ▸ State.onTableAt_present hst htd _
  · intro s c p t m r hc hawake horder htyp htail hup hplain _ _ _ _
    rw [← State.gatherDataAt_plain hup hplain]
    exact (State.onCell_present hc _).trans (congrArg _ (State.onTable_taken hawake horder htyp htail _))
  · intro s st d p t r hst hd hawake horder htyp htail hplain _ _ _
    rw [← State.scatterDataAt_plain hplain]
    exact (State.onDrop_present hst hd _).trans (congrArg _ (State.onTable_taken hawake horder htyp htail _))
  · intro s st d p t hst hd hawake horder htyp htail hlive hroom hidle
    rw [← State.flushReq_begins htyp htail hlive hroom hidle]
    exact (State.onDrop_present hst hd _).trans (congrArg _ (State.onTable_taken hawake horder htyp htail _))
  · intro s st d td f hst hd htd hflush hidle hended
    exact State.flushWriteback_begins hflush hidle hended ▸ State.onDropTable_present hst hd htd _
  · intro s a st d l hc heng _ _
    exact if_pos (by simp [hc, heng])
  · intro s td i l htd hlead
    exact State.flushLimit_lead hlead ▸ if_pos (decide_eq_true htd)

/-! ### Memory transactions (R275, R276) -/

section
variable {s : State} {st d : Nat}

/-- With TEST_MODE low no injection is taken (R373). -/
theorem State.takeInject_functional (hfunctional : s.eng.testMode = false) (n : Node) (kind whr : Nat) :
    s.takeInject n kind whr = (none, s) := by
  simp [State.takeInject, hfunctional]

/-- A write that the base die acknowledges in time frees its tag, and then what it served goes on. -/
theorem State.wack_acknowledged {tag : Nat} {t : Txn} (hfunctional : s.eng.testMode = false)
    (hheld : (s.drop st d).txns.find? (fun t => t.tag == tag && (t.code == 2 || t.code == 4)) = some t) (hintime : t.late = false) :
    s.wack st d tag false true = (s.freeTag st d t).writeDone st d t true := by
  simp [State.wack, hheld, State.takeInject_functional hfunctional, hintime]

end

/-- Settles O25: each row runs its operation at its tag or its drop; an acknowledge goes by TEST_MODE and by whether its tag has timed
out. -/
theorem dropTransactions : Obligations.DropTransactions := by
  refine ⟨?_, ?_, ?_, ?_⟩
  · intro s st d tag a b err t hst hd htag _
    exact State.onTag_present hst hd htag _
  · intro s st d tag t hst hd htag hfunctional hheld hintime
    exact State.wack_acknowledged hfunctional hheld hintime ▸ State.onTag_present hst hd htag _
  · intro s st d tag t hst hd htag _
    exact State.onTag_present hst hd htag _
  · intro s st d hst hd hdecided _
    exact (State.onDrop_present hst hd _).trans (congrArg _ (if_pos hdecided))

end Sys2Proof.Machine
end

section
/-! SUPPORT. Link ports (chapter 13): the frames and packets of a port, its training and handshake, a port in service, and the notes, routes
and TIME frames of the engine; what the operation of each row does in the case a statement names. Obligations O26, O27, O28 and O29 follow. -/

namespace Sys2Proof.Machine

/-! ### Frames (R307, R308, R314) -/

section
variable {s : State} {p : Nat}

theorem State.frameAt_bad (hup : s.portState p = 4) (hsteady : (s.port p).widening = false) (f : Frame) :
    s.frameAt p f .bad = s.frameBad p := by
  unfold State.frameAt
  exact if_neg (by simp [hup, hsteady])

/-- During a width change no frame moves (R314). -/
theorem State.frameAt_widening (hwidening : (s.port p).widening = true) (f : Frame) (fec : Fec) : s.frameAt p f fec = s := by
  unfold State.frameAt
  exact if_pos (.inr hwidening)

theorem State.nakRepeat_due (hup : s.portUp p = true) (hnak : (s.port p).nakAt ≠ 0) :
    s.nakRepeat p =
      ({ s with time := max s.time ((s.port p).nakAt + 2000) } : State).modPort p (fun q => { q with wantNak := true }) :=
  if_neg (by simp [hup, hnak])

theorem State.replayTimeout_due (hreplay : (s.port p).replay ≠ []) :
    s.replayTimeout p = ({ s with time := max s.time ((s.port p).ackAt + s.linkTimer 3 1000) } : State).retransmit p :=
  if_neg (by simp [hreplay])

theorem State.creditUnit_due (hup : s.portUp p = true) (hchanged : (s.port p).freed ≠ (s.port p).told) :
    s.creditUnit p =
      (if 4 ≤ (s.port p).dataSince then s else ({ s with time := max s.time ((s.port p).freedAt + 100) } : State)).linkRun p 512 :=
  if_neg (by simp [hup, hchanged])

end

/-! ### Packets (R252, R311, R312) -/

section
variable {s : State} {p : Nat} {pk : Packet}

section
variable (henter : s.mayEnter p pk = true) (hhere : pk.dest.eng = s.engine) (hsluice : s.entrySluice p pk = none)
  (hserving : s.reg .engine 0 0x8140 0x14 = 0)
include henter hhere hsluice hserving

/-- A packet for this engine that the sluice lets pass goes on by whether it is a stray level packet, a descending copy or an entry of a
level. -/
theorem State.packetEnter_passed : s.packetEnter p pk =
    if s.strayLevel pk then (s.rxTake p pk).bumpLv p 0x0B
    else if s.isDescent pk then { s.rxTake p pk with flight := (s.rxTake p pk).flight ++ [pk] }
    else match s.levelEntry pk with
      | some d => (s.rxTake p pk).sendPkt (s.entryCell p pk) { pk with dest := d } false
      | none => (s.rxTake p pk).sendPkt (s.entryCell p pk) pk false := by
  simp only [State.packetEnter, hsluice]
  rw [if_neg (by simp [henter, hhere]), if_neg (by simp [hserving])] <;> rfl

theorem State.packetEnter_stray (hstray : s.strayLevel pk = true) : s.packetEnter p pk = (s.rxTake p pk).bumpLv p 0x0B := by
  rw [State.packetEnter_passed henter hhere hsluice hserving, if_pos hstray]

theorem State.packetEnter_plain (hplain : s.strayLevel pk = false) (hlevel : s.levelEntry pk = none) (hdescent : s.isDescent pk = false) :
    s.packetEnter p pk = (s.rxTake p pk).sendPkt (s.entryCell p pk) pk false := by
  rw [State.packetEnter_passed henter hhere hsluice hserving, if_neg (by simp [hplain]), if_neg (by simp [hdescent]), hlevel]

end

theorem State.transitEnter_through (hlevel : s.levelEntry pk = none) (hdescent : s.isDescent pk = false) :
    s.transitEnter p pk = s.transitAt p pk :=
  if_neg (by simp [hlevel, hdescent])

end

/-- Settles O26: each row runs its operation at its port; a frame goes by the port's width and by its codewords, and a packet that passes the
sluice by what it is for this engine. -/
theorem framesAndPackets : Obligations.FramesAndPackets := by
  refine ⟨?_, ?_, ?_, ?_, ?_, ?_, ?_, ?_, ?_⟩
  · intro s p f fec hp _ _ _
    exact State.onLink_present hp _
  · intro s p f hp hup hsteady
    exact State.frameAt_bad hup hsteady f ▸ State.onLink_present hp _
  · intro s p f fec hp hwidening
    exact (State.onLink_present hp _).trans (by rw [State.frameAt_widening hwidening])
  · intro s p hp hup hnak
    exact State.nakRepeat_due hup hnak ▸ State.onLink_present hp _
  · intro s p hp hreplay
    exact State.replayTimeout_due hreplay ▸ State.onLink_present hp _
  · intro s p hp hup hchanged
    exact State.creditUnit_due hup hchanged ▸ State.onLink_present hp _
  · intro s p pk hp henter hhere hlevel hdescent hsluice hserving hplain
    exact State.packetEnter_plain henter hhere hsluice hserving hplain hlevel hdescent ▸ State.onLink_present hp _
  · intro s p pk hp henter hhere hsluice hserving hstray
    exact State.packetEnter_stray henter hhere hsluice hserving hstray ▸ State.onLink_present hp _
  · intro s p pk hp _ _ hlevel hdescent _
    exact State.transitEnter_through hlevel hdescent ▸ State.onLink_present hp _

/-! ### Training and the handshake (R313, R314, R317 to R319) -/

section
variable {s : State} {p : Nat}

theorem State.trainingStart_down (hdown : s.portState p = 1) (hserving : s.reg .engine 0 0x8140 0x14 = 0)
    (hawake : s.reg .engine 0 0xA011 4 ≠ 2) : s.trainingStart p = s.setPortState p 2 :=
  if_pos (by simp [hdown, hserving, hawake])

theorem State.trainingLock_locked {a b : Nat} (htraining : s.portState p = 2)
    (hwidth : s.widthFor p (s.reg .engine 0 0x7001 8) (((a % 256) &&& s.liveLanes p) &&& (b % 256)) ≠ 0) :
    s.trainingLock p a b =
      (((s.modPort p (fun q => { q with ownLanes := (a % 256) &&& s.liveLanes p, partnerLanes := b % 256 })).setReg (s.portNode p) 0
        0x7010 7 (s.widthFor p (s.reg .engine 0 0x7001 8) (((a % 256) &&& s.liveLanes p) &&& (b % 256)))).setReg (s.portNode p) 0 0x7010 8
          (((a % 256) &&& s.liveLanes p) &&& (b % 256))).enterHello p :=
  if_neg (by simp [htraining, hwidth])

theorem State.trainingTimeout_training (htraining : s.portState p = 2) :
    s.trainingTimeout p = ({ s with time := max s.time ((s.port p).since + ms 100) } : State).portDown p 1 12 := if_pos htraining

theorem State.certAt_awaited (hhello : s.portState p = 3) (hpartner : (s.port p).hs.partner.isSome = true)
    (hfirst : (s.port p).hs.partnerCert = none) (chain : List Byte) :
    s.certAt p chain =
      (s.modPort p (fun q => { q with inbox := q.inbox.erase (2, chain), hs := { q.hs with partnerCert := some chain } })).hsCheck p := by
  unfold State.certAt
  rw [if_neg (not_not_intro hhello)]
  exact if_neg (by simp [hfirst, Option.isSome_iff_ne_none.mp hpartner])

theorem State.helloTimeout_hello (hhello : s.portState p = 3) :
    s.helloTimeout p = ({ s with time := max s.time ((s.port p).since + ms 100) } : State).portDown p 1 (s.lport p 0x0D) :=
  if_pos hhello

theorem State.rekeyExpiry_due (hup : s.portUp p = true) (hidle : (s.port p).rekey = none)
    (hworn : 2 ^ s.reg .engine 0 0x7002 0x0B ≤ (s.port p).tx.count) (random epub : List Byte) :
    s.rekeyExpiry p random epub = s.sendRekey p (some (random, epub)) := by
  unfold State.rekeyExpiry
  rw [if_neg (Nat.not_lt.mpr hworn)]
  exact if_neg (by simp [hup, hidle])

theorem State.oldKeyEnd_held {k : KeySt} {due : Nat} (hheld : (s.port p).rxOld = some (k, due)) :
    s.oldKeyEnd p = ({ s with time := max s.time due } : State).modPort p (fun q => { q with rxOld := none }) := by
  simp [State.oldKeyEnd, hheld]

end

/-- Settles O27: each row runs its operation at its port; ports train from step LINKS of bring-up on, a message is taken where the handshake
awaits it, and a timeout ends the state it runs in. -/
theorem trainingAndHandshake : Obligations.TrainingAndHandshake := by
  refine ⟨?_, ?_, ?_, ?_, ?_, ?_, ?_, ?_, ?_, ?_, ?_⟩
  · intro s p hp hmay hdown hserving hawake
    rw [← State.trainingStart_down hdown hserving hawake]
    exact (State.onLink_present hp _).trans (congrArg _ (if_pos hmay))
  · intro s p a b hp hmay htraining hwidth
    rw [← State.trainingLock_locked htraining hwidth]
    exact (State.onLink_present hp _).trans (congrArg _ (if_pos hmay))
  · intro s p hp htraining
    exact State.trainingTimeout_training htraining ▸ State.onLink_present hp _
  · intro s p h hp _ _ _
    exact State.onLink_present hp _
  · intro s p chain hp hhello hpartner hfirst
    exact State.certAt_awaited hhello hpartner hfirst chain ▸ State.onLink_present hp _
  · intro s p sig a b hp _ _ _ _ _
    exact State.onLink_present hp _
  · intro s p mac a b sig hp _ _ _ _
    exact State.onLink_present hp _
  · intro s p hp hhello
    exact State.helloTimeout_hello hhello ▸ State.onLink_present hp _
  · intro s p r e hp hup hidle hworn
    exact State.rekeyExpiry_due hup hidle hworn r e ▸ State.onLink_present hp _
  · intro s p r e hp _
    exact State.onLink_present hp _
  · intro s p k due hp hheld
    exact State.oldKeyEnd_held hheld ▸ State.onLink_present hp _

/-! ### A port in service (R313 to R315, R331, R452) -/

section
variable {s : State} {p : Nat}

theorem State.holdEnd_noFlap (hheld : s.portState p = 6) (hcause : s.lport p 0x0D ≠ 11) :
    s.holdEnd p = ({ s with time := max s.time ((s.port p).since + s.holdTime p) } : State).setPortState p 1 := by
  unfold State.holdEnd
  rw [if_neg (not_not_intro hheld)]
  exact congrArg (State.setPortState · p 1) (if_neg hcause)

theorem State.upHold_up (hup : s.portUp p = true) :
    s.upHold p = ({ s with time := max s.time ((s.port p).upAt + s.linkTimer 4 1000000) } : State).modPort p
      (fun q => { q with announced := true }) :=
  if_neg (by simp [hup])

/-- A lane in use is lost: the width that the others give is taken, or the port goes down where there is none. -/
theorem State.laneLost_used {lane : Nat} (hlane : lane < 8) (hup : s.portUp p = true)
    (hused : clrBit (s.lport p 8) lane ≠ s.lport p 8) :
    s.laneLost p lane =
      if s.widthFor p (s.lport p 0x0B) (clrBit (s.lport p 8) lane) = 0 then s.portDown p 1 1
      else (((s.modPort p (fun q => { q with ownLanes := clrBit q.ownLanes lane, widening := true })).setReg (s.portNode p) 0 0x7010 8
        (clrBit (s.lport p 8) lane)).setReg (s.portNode p) 0 0x7010 7 (s.widthFor p (s.lport p 0x0B) (clrBit (s.lport p 8) lane))).bumpLink
          p 0x0A 1 := by
  unfold State.laneLost
  rw [if_neg (by simp [hup, hlane])]
  exact if_neg hused

/-- A degraded lane and a lost lock are the same loss of a lane (R314, R452). -/
theorem runs_laneLost {lane : Nat} {t : State} (hp : p < s.nPorts) (hlane : lane < 8) (hlost : s.laneLost p lane = t) :
    Runs (.laneDegrade p lane) s t.done ∧ Runs (.linkLockLoss p lane) s t.done :=
  hlost ▸ ⟨if_pos (by simp [hp, hlane]), if_pos (by simp [hp, hlane])⟩

theorem State.widthDone_widening (hup : s.portUp p = true) (hwidening : (s.port p).widening = true) :
    s.widthDone p = (s.modPort p (fun q => { q with widening := false })).retransmit p :=
  if_neg (by simp [hup, hwidening])

theorem State.deadTime_up (hup : s.portUp p = true) :
    s.deadTime p = ({ s with time := max s.time ((s.port p).lastRx + s.linkTimer 1 1000) } : State).portDown p 1 1 := if_pos hup

theorem State.stallTime_due {d : Nat} {ds : List Nat} (hup : s.portUp p = true) (hdue : s.stallDues p = d :: ds) :
    s.stallTime p = ({ s with time := max s.time (minimum d ds) } : State).portDown p 1 2 := by
  simp only [State.stallTime, hdue]
  exact if_pos hup

theorem State.stallTime_idle (hidle : s.stallDues p = []) : s.stallTime p = s := by
  simp [State.stallTime, hidle]

theorem State.flapReset_up (hup : s.portUp p = true) :
    s.flapReset p = ({ s with time := max s.time ((s.port p).upAt + 10 * s.linkTimer 6 1000000) } : State).modPort p
      (fun q => { q with holdMul := 1 }) :=
  if_neg (by simp [hup])

end

/-- Settles O28: each row runs its operation at its port, which goes by the port's state, by the width that its lanes still give, and by
what waits in it. -/
theorem portsInService : Obligations.PortsInService := by
  refine ⟨?_, ?_, ?_, ?_, ?_, ?_, ?_, ?_, ?_⟩
  · intro s p hp hheld hcause
    exact State.holdEnd_noFlap hheld hcause ▸ State.onLink_present hp _
  · intro s p hp hup
    exact State.upHold_up hup ▸ State.onLink_present hp _
  · intro s p lane hp hlane hup hused hnone
    exact runs_laneLost hp hlane ((State.laneLost_used hlane hup hused).trans (if_pos hnone))
  · intro s p lane hp hlane hup hused hsome
    exact ⟨_, rfl, runs_laneLost hp hlane ((State.laneLost_used hlane hup hused).trans (if_neg hsome))⟩
  · intro s p hp hup hwidening
    exact State.widthDone_widening hup hwidening ▸ State.onLink_present hp _
  · intro s p hp hup
    exact State.deadTime_up hup ▸ State.onLink_present hp _
  · intro s p d ds hp hup hdue
    exact State.stallTime_due hup hdue ▸ State.onLink_present hp _
  · intro s p hp hidle
    exact (State.onLink_present hp _).trans (by rw [State.stallTime_idle hidle])
  · intro s p hp hup
    exact State.flapReset_up hup ▸ State.onLink_present hp _

/-! ### Notes, routes and TIME frames (R322, R324, R335, R420) -/

theorem State.noteExpiry_held {s : State} {o : Nat} {e : NoteEnt} (hheld : s.eng.notes.find? (fun e => e.note.origin == o) = some e) :
    s.noteExpiry o = { s with
      time := max s.time (e.at_ + ms (4 * s.reg .engine 0 0x7002 8))
      eng := { s.eng with notes := s.eng.notes.filter (fun x => x.note.origin != o) } } := by
  unfold State.noteExpiry
  rw [hheld]

theorem State.routeRecompute_route (s : State) :
    s.routeRecompute.route.notes = s.eng.notes.map NoteEnt.note ∧ s.routeRecompute.route.own = s.ownRecs := ⟨rfl, rfl⟩

/-- Settles O29: each row runs its operation; a note that expires leaves the store at its time, and the table that is computed holds the
stored notes and this engine's own ports. -/
theorem notesRoutesTime : Obligations.NotesRoutesTime := by
  refine ⟨?_, fun _ => rfl, ?_, fun s => ⟨s.routeRecompute, rfl, s.routeRecompute_route⟩, ?_, ?_⟩
  · intro s p n hp _
    exact State.onLink_present hp _
  · intro s o e ho hheld
    refine ⟨_, if_pos (decide_eq_true ho), ?_⟩
    rw [State.noteExpiry_held hheld]
    exact ⟨rfl, Nat.le_max_right _ _⟩
  · intro s p hp _ _ _
    exact State.onLink_present hp _
  · intro s p t hp _ _
    exact State.onLink_present hp _

end Sys2Proof.Machine
end

section
/-! SUPPORT. The object dictionary (chapter 16) and the management port: how an agent serves a request, the rows that are one write, commits
and their rounds, DRAIN (R372), and the messages of the management port. Obligations O30, O31, O32 and O33 follow. -/

namespace Sys2Proof.Machine

/-! ### Serving a request (R387, R388, R390, R408) -/

section
variable {s : State} {r : DictReq} (hhere : r.eng = s.engine) (hwhole : r.whole = true)
include hhere hwhole

/-- A request for a node of a field in Lull waits for its field. -/
theorem State.served_asleep {f : Nat} (hasleep : s.dictAsleep r = some f) :
    s.served r = ((s.dropPartial r.who r.tag).dictWait r f).done := by
  simp [State.served, State.dictServe, hhere, hwhole, hasleep]

/-- A request for an awake node is taken and acted on. -/
theorem State.served_awake (hawake : s.dictAsleep r = none) : s.served r = ((arrived s r).dictAct r).done := by
  simp [State.served, State.dictServe, hhere, hwhole, hawake, arrived]

end

section
variable {s t : State} {r : DictReq} {o : Obj}

theorem State.dictAct_refused {e : Nat × Nat} (hcheck : s.checkReq r false = .error e) :
    s.dictAct r = s.dictAnswer r ⟨e.1, e.2, 0, []⟩ := by
  simp [State.dictAct, hcheck]

theorem State.dictAct_written {a : Option Rsp} (hwrite : r.wr = true) (hcheck : s.checkReq r false = .ok o)
    (heffect : s.dictWrite r o = (a, t)) : s.dictAct r = a.elim t (t.dictAnswer r) := by
  simp only [State.dictAct, hcheck, hwrite, heffect]
  cases a <;> rfl

/-- A scalar is read once the counts it may show are up to date, and an RC object is cleared (R376, R377). -/
theorem State.dictAct_scalar {u : State} {q : ObjRow} (hread : r.wr = false) (hcheck : s.checkReq r false = .ok o)
    (hrow : objRow o.idx o.sub = some q) (hscalar : q.ty.isBlob = false) (hfresh : s.freshen o = u) :
    s.dictAct r =
      (if q.acc = .rc then u.setReg o.node o.inst o.idx o.sub 0 else u).dictAnswer r ⟨0, 0, u.scalar r.who o, []⟩ := by
  simp [State.dictAct, hcheck, hread, State.dictRead, hrow, hscalar, hfresh]

end

/-! ### The rows that are one write -/

/-- Every row of a write serves a request for that write, and no other. -/
theorem exec_writeRow (s : State) (r : DictReq) :
    ∀ w ∈ writeRows, exec (w.1 r) s = .next (if w.2 r then s.served r else s) := by
  simp only [writeRows, List.forall_mem_cons, Bool.and_eq_true, decide_eq_true_eq, and_assoc]
  exact ⟨rfl, rfl, rfl, rfl, rfl, rfl, rfl, rfl, rfl, rfl, rfl, rfl, rfl, rfl, rfl, rfl, rfl, rfl, rfl, rfl, rfl, rfl, rfl, rfl, rfl,
    rfl, rfl, rfl, rfl, rfl, rfl, rfl, rfl, rfl, List.forall_mem_nil _⟩

theorem writeRow_wr (r : DictReq) : ∀ w ∈ writeRows, w.2 r = true → r.wr = true := by
  simp only [writeRows, List.forall_mem_cons, DictReq.writes, DictReq.writesFault, Bool.and_eq_true, and_imp]
  simp +contextual

theorem runs_writeRow {w : (DictReq → Instr) × (DictReq → Bool)} {r : DictReq} (hw : w ∈ writeRows) (hwrite : w.2 r = true) {s t : State}
    (hserved : s.served r = t) : Runs (w.1 r) s t ∧ Runs (.dictRequestReceive r) s t := by
  subst hserved
  exact ⟨(exec_writeRow s r w hw).trans (congrArg _ (if_pos hwrite)), rfl⟩

/-- Settles O30: a row's write is served as the request itself, which waits while its field sleeps; else it is taken, checked and written, and
answered where the write gives an answer. -/
theorem dictionaryWritesComplete : Obligations.DictionaryWritesComplete := by
  refine ⟨?_, ?_⟩
  · intro w hw s r f hwrite hhere hwhole hasleep
    exact runs_writeRow hw hwrite (State.served_asleep hhere hwhole hasleep)
  · intro w hw s r o a t hwrite hhere hwhole hawake hcheck heffect
    have hserved := (State.served_awake hhere hwhole hawake).trans
      (congrArg State.done (State.dictAct_written (writeRow_wr r w hw hwrite) hcheck heffect))
    refine ⟨?_, ?_⟩
    · rintro x rfl -
      exact runs_writeRow hw hwrite hserved
    · rintro rfl
      exact runs_writeRow hw hwrite hserved

/-- Settles O31: a request that is taken is answered with the reason of the check that fails, or with the value that its object reads. -/
theorem dictionaryAnswers : Obligations.DictionaryAnswers := by
  refine ⟨?_, ?_⟩
  · intro s r e hhere hwhole hawake hcheck
    rw [← State.dictAct_refused hcheck, ← State.served_awake hhere hwhole hawake]
    rfl
  · intro s u r o q hhere hwhole hread hawake hcheck hrow hscalar hfresh
    rw [← State.dictAct_scalar hread hcheck hrow hscalar hfresh, ← State.served_awake hhere hwhole hawake]
    rfl

/-! ### Commits (R382, R383) and DRAIN (R372) -/

section
variable {s : State} {g : Group} {r : DictReq} {a : Nat}

theorem State.commitPrepare_accepted {u : State} {gen : Nat} (hcommit : s.eng.commit = some ⟨g, r, a, none⟩)
    (hvalid : s.firstRefused g = none) (hgen : gen = (s.reg .engine 0 0x2002 2 + 1) % 2 ^ 32)
    (hanswered : u = (s.setReg .engine 0 0x2002 2 gen).dictAnswer r ⟨0, 0, gen, []⟩) :
    s.commitPrepare = { u with eng := { u.eng with commit := some ⟨g, r, u.time, some gen⟩ } } := by
  subst hgen hanswered
  simp [State.commitPrepare, hcommit, hvalid]

theorem State.commitPrepare_refused {w : Staged} {code : Nat} (hcommit : s.eng.commit = some ⟨g, r, a, none⟩)
    (hrefused : s.firstRefused g = some (w, code)) (hnamed : code < 256) :
    s.commitPrepare = ((s.setReg .engine 0 0x2001 3 (refusedWord r.who w code)).dictAnswer r (rspRef 0x19)).endCommit := by
  simp [State.commitPrepare, hcommit, hrefused, Nat.ne_of_lt hnamed, Nat.mod_eq_of_lt hnamed]

theorem State.commitApplied_answered {gen : Nat} (hcommit : s.eng.commit = some ⟨g, r, a, some gen⟩) :
    s.commitApplied = (s.applyRound g gen []).commitBack gen [] := by
  simp [State.commitApplied, hcommit]

theorem State.commitLimit_applying {m : Commit} {gen : Nat} (hcommit : s.eng.commit = some m) (hgen : m.gen = some gen)
    (lagging : List Nat) :
    s.commitLimit lagging =
      (({ s with time := max s.time (m.start + 1000 * s.reg .engine 0 0x2003 4) } : State).applyRound m.group gen lagging).commitBack gen
        lagging := by
  simp [State.commitLimit, hcommit, hgen]

theorem State.groupLease_open {w : Requester} (hopen : s.group? w = some g) :
    s.groupLease w = ({ s with time := max s.time (g.at_ + 1000 * s.reg .engine 0 0x2003 3) } : State).setGroups
      (s.eng.groups.filter (fun x => x.who != w)) := by
  simp [State.groupLease, hopen]

theorem State.dictSegmentEnd_partial {f tag : Nat} {w : Requester} {p : PartReq}
    (hpartial : s.eng.partials.find? (fun p => p.f == f && p.req.who == w && p.req.tag == tag) = some p) :
    s.dictSegmentEnd f w tag = ({ s with time := max s.time (p.at_ + 10000) } : State).dropPartial w tag := by
  unfold State.dictSegmentEnd
  rw [hpartial]

theorem State.drainAdvance_first (hstep : s.reg .engine 0 0x8140 0x14 = 1) : s.drainAdvance = (s.setDrain 2).lvDrain := by
  unfold State.drainAdvance
  rw [hstep]
  rfl

end

/-- Settles O32: each row runs its operation, which goes by the commit under way and its round, by the group or the incomplete request held,
and by the step of DRAIN. -/
theorem commitsAndDrain : Obligations.CommitsAndDrain := by
  refine ⟨?_, ?_, ?_, ?_, ?_, ?_, ?_, fun _ _ => rfl⟩
  · intro s u g r a gen hcommit hvalid hgen hanswered
    rw [← State.commitPrepare_accepted hcommit hvalid hgen hanswered]
    rfl
  · intro s g r a w code hcommit hrefused hnamed
    rw [← State.commitPrepare_refused hcommit hrefused hnamed]
    rfl
  · intro s g r a gen hcommit
    rw [← State.commitApplied_answered hcommit]
    rfl
  · intro s m gen l hcommit hgen
    rw [← State.commitLimit_applying hcommit hgen l]
    rfl
  · intro s w g hopen
    rw [← State.groupLease_open hopen]
    rfl
  · intro s f w tag p hf hpartial
    exact State.dictSegmentEnd_partial hpartial ▸ if_pos (decide_eq_true hf)
  · intro s hstep
    rw [← State.drainAdvance_first hstep]
    rfl

/-! ### The management port (R392, R393, R459) -/

section
variable {s : State}

theorem State.mgmtRequest_relayed {m : MgmtReq} (hvendor : msgNat m.bytes 0 1 = 0x7F)
    (hours : beNat ((m.bytes.drop 1).take 4) = s.reg .engine 0 0x1001 1) (hmin : 32 ≤ m.bytes.length) (hmax : m.bytes.length ≤ 4136)
    (hop : msgNat m.bytes 5 1 = 1 ∨ msgNat m.bytes 5 1 = 2) (hroom : s.eng.mgmt.length < 8) (hawake : s.asleep = false) :
    s.mgmtRequest m = ({ s with eng := { s.eng with mgmt := s.eng.mgmt ++ [⟨m.bytes.take 8, s.time⟩] } } : State).sendSig (s.agentAt 0)
      (.dictReq (s.mgmtDict m.bytes)) := by
  unfold State.mgmtRequest
  rw [if_neg (by simp [hvendor, ← hours, hmin, hmax]), if_neg (by tauto), if_neg (Nat.not_le.mpr hroom)]
  exact if_neg (ne_true_of_eq_false hawake)

theorem State.mgmtTimeout_open {mtag : Nat} {m : MgmtOut}
    (hopen : s.eng.mgmt.find? (fun m => leNat ((m.head.drop 6).take 1) = mtag) = some m) :
    s.mgmtTimeout mtag = ({ s with
      eng := { s.eng with mgmt := s.eng.mgmt.erase m }
      time := max s.time (m.at_ + 1000 * s.reg .engine 0 0x2012 1) } : State).mgmtSend (mgmtResponse m.head 9 0 0 []) := by
  simp [State.mgmtTimeout, hopen]

end

/-- Settles O33: a request of the vendor's form is relayed while the port has room, and the timeout of one that waits answers it. -/
theorem managementPort : Obligations.ManagementPort := by
  refine ⟨?_, ?_, fun s e => ⟨s.mctpControl (.setEndpointId e), rfl, rfl⟩, fun _ _ => rfl, fun s a => ⟨s.mgmtAddress a, rfl, rfl⟩⟩
  · intro s m hvendor hours hmin hmax hop hroom hawake
    rw [← State.mgmtRequest_relayed hvendor hours hmin hmax hop hroom hawake]
    rfl
  · intro s mtag m hopen
    refine ⟨s.mgmtTimeout mtag, rfl, ?_⟩
    rw [State.mgmtTimeout_open hopen]
    exact ⟨rfl, rfl, Nat.le_max_right _ _⟩

end Sys2Proof.Machine
end

section
/-! SUPPORT. Clocks, power states, time and observation (chapters 17 and 18): the row of a field that exists, and what the operation of each
row does in the case a statement names. Obligations O34 to O38 follow. -/

namespace Sys2Proof.Machine

section
variable {s : State} {f : Nat}

/-- A row of a field acts where the field exists (R6). -/
theorem State.onField_present (hf : f < s.nFields) (u : State) : s.onField f u = .next u := if_pos (decide_eq_true hf)

theorem State.setPower_time (s : State) (f st : Nat) : (s.setPower f st).time = s.time := congrArg Fixed.time (s.setPower_fixed f st)

theorem State.startClock_time (s : State) (f : Nat) : (s.startClock f).time = s.time := congrArg Fixed.time (s.startClock_fixed f)

/-! ### The clock of a field (R398 to R400) -/

theorem State.pllLoss_running (hrun : (s.field f).stopped = false) :
    s.pllLoss f = ((s.stopClock f).faultLive (s.fieldBlock f) 0 true).strike (s.fieldBlock f) 0 0 0 :=
  if_neg (by simp [hrun])

theorem State.pllBack_unlocked (h : s.unlocked f = true) : s.pllBack f = s.relock f := if_pos h

theorem State.pllDead_unlocked (h : s.unlocked f = true) :
    s.pllDead f = (s.upTo ((s.field f).stopAt + 100000)).modField f (fun q => { q with dead := true }) := if_pos h

/-- A droop ends after the stretched fc and at most as much again: how much is a free value (R400). -/
theorem State.field_droop_stretchEnd (hfields : SMap.wf FieldSt.init s.fields = true) (n : Nat) :
    ((s.droop f n).field f).stretchEnd = max s.time (s.field f).stretchEnd + (s.droop f n).fcNs f (min n 64) +
      s.fresh.1 % ((s.droop f n).fcNs f (min n 64) + 1) := by
  unfold State.droop
  rw [State.field_modField_same (by exact hfields)]
  rfl

end

/-- Settles O34: each row of a field that exists runs its operation; a droop marks the end of the stretch it makes. -/
theorem fieldClocks : Obligations.FieldClocks := by
  refine ⟨?_, ?_, ?_, ?_, ?_⟩
  · intro s f hf _ _
    exact State.onField_present hf _
  · intro s f hf hrun
    exact State.pllLoss_running hrun ▸ State.onField_present hf _
  · intro s f hf hlost
    exact State.pllBack_unlocked hlost ▸ State.onField_present hf _
  · intro s f hf hlost
    exact State.pllDead_unlocked hlost ▸ State.onField_present hf _
  · rintro s _ f n hs hf rfl
    exact ⟨s.droop f n, _, State.onField_present hf _, rfl, Nat.lt_succ_iff.mp (Nat.mod_lt _ (Nat.succ_pos _)),
      State.field_droop_stretchEnd (Kept.start hs).fields n⟩

/-! ### The power states of a field (R406, R408) -/

section
variable {s : State} {f : Nat}

theorem State.breezeEntry_ready {u v : State} (hservice : s.inService = true) (hrun : s.power f = 0) (hclock : (s.field f).stopped = false)
    (hdeep : s.target f ≠ 0)
    (hu : ({ s with time := max s.time (s.fcAfter f (s.field f).idleSince (s.reg (.field f) 0 0xA010 2)) } : State) = u)
    (hv : (u.setPower f 1).modField f (fun q => { q with breezeSince := (u.setPower f 1).time }) = v) :
    s.breezeEntry f =
      if (v.fieldCells f).any (fun c => (v.cell c).cores.any (fun k => ! k.queue.isEmpty)) then v.causeWake f 3 else v := by
  subst hv
  rw [State.setPower_time]
  unfold State.breezeEntry
  rw [if_neg (by simp [hservice, hrun, hclock, hdeep]), hu]

theorem State.lullEntry_ready (hbreeze : s.power f = 1) (hlull : s.target f = 2) :
    s.lullEntry f = (({ s with time := max s.time ((s.field f).breezeSince + s.reg (.field f) 0 0xA010 3) } : State).setPower f
      3).modField f (fun q => { q with lullDue := max s.time ((s.field f).breezeSince + s.reg (.field f) 0 0xA010 3) + 200 }) := by
  unfold State.lullEntry
  rw [if_neg (by simp [hbreeze, hlull])]

theorem State.lullDone_due {u : State} (hentering : s.power f = 3)
    (hu : ({ s with time := max s.time (s.field f).lullDue } : State) = u) :
    s.lullDone f =
      if u.target f = 2 then u.setPower f 2 else (u.setPower f 1).modField f (fun q => { q with breezeSince := (u.setPower f 1).time }) := by
  rw [State.setPower_time]
  unfold State.lullDone
  rw [if_neg (not_not_intro hentering), hu]

theorem State.fieldWake_cause {cause : Nat} (hlow : 1 ≤ cause) (hhigh : cause ≤ 8) :
    s.fieldWake f cause = (s.causeWake f cause).wakeDone f := if_neg (by omega)

/-- The hold of a list that ends first, as WAKE_HOLD_EXPIRY picks it. -/
theorem foldl_pick_mem {α : Type} (p : α → α → Prop) [DecidableRel p] (h : α) (hs : List α) :
    hs.foldl (fun a b => if p b a then b else a) h ∈ h :: hs := by
  induction hs generalizing h with
  | nil => exact List.mem_singleton.mpr rfl
  | cons b hs ih =>
    rw [List.foldl_cons]
    split
    · exact List.mem_cons_of_mem _ (ih b)
    · exact List.cons_subset_cons h (List.subset_cons_self b hs) (ih h)

/-- The hold that ends first goes, once its time has come. -/
theorem State.wakeHoldEnd_holds (hfields : SMap.wf FieldSt.init s.fields = true) {h : Nat × Nat} {hs : List (Nat × Nat)}
    (hheld : (s.field f).wakeHolds = h :: hs) :
    ∃ e ∈ h :: hs, ((s.wakeHoldEnd f).field f).wakeHolds = (h :: hs).erase e ∧ e.2 ≤ (s.wakeHoldEnd f).time := by
  refine ⟨_, foldl_pick_mem (fun b a : Nat × Nat => b.2 < a.2) h hs, ?_⟩
  unfold State.wakeHoldEnd
  rw [hheld]
  refine ⟨?_, Nat.le_max_right _ _⟩
  dsimp only
  rw [State.field_modField_same (by exact hfields)]
  exact congrArg (List.erase · _) hheld

end

/-- Settles O35: each row of a field that exists runs its operation in the state it starts from; of the holds, one that is held ends. -/
theorem fieldPowerStates : Obligations.FieldPowerStates := by
  refine ⟨?_, ?_, ?_, ?_, ?_⟩
  · intro s u v f hf hservice hrun hclock hdeep hu hv
    exact State.breezeEntry_ready hservice hrun hclock hdeep hu hv ▸ State.onField_present hf _
  · intro s f hf hbreeze hlull
    exact State.lullEntry_ready hbreeze hlull ▸ State.onField_present hf _
  · intro s u f hf hentering hu
    exact State.lullDone_due hentering hu ▸ State.onField_present hf _
  · intro s f cause hf hlow hhigh
    exact State.fieldWake_cause hlow hhigh ▸ State.onField_present hf _
  · intro s f h hs hcanonical hf hheld
    obtain ⟨e, hmem, hleft, htime⟩ := State.wakeHoldEnd_holds (Kept.start hcanonical).fields hheld
    exact ⟨s.wakeHoldEnd f, e, State.onField_present hf _, hmem, hleft, htime⟩

/-! ### The power states of the engine (R407, R409) -/

section
variable {s : State}

theorem State.calmEntry_ready (h : s.calmReady = true) :
    s.calmEntry =
      ((({ s with time := max s.time (s.eng.calmSince.getD s.time + us (s.reg .engine 0 0xA011 3)) } : State).stopClocks.dropCaches).setReg
        .engine 0 0xA011 4 1).announce 2 := if_pos h

theorem State.engineWake_cause {cause : Nat} (hlow : 1 ≤ cause) (hhigh : cause ≤ 5) :
    s.engineWake cause = (s.causeEngine cause).engineUp := if_neg (by omega)

/-- In Still an item on a link wakes nothing (R409, R457). -/
theorem State.engineWake_still_link (hstill : s.enginePower = 2) : s.engineWake 4 = s := by
  have hcause : s.causeEngine 4 = s := if_neg (by simp [hstill])
  rw [State.engineWake_cause (by decide) (by decide), hcause]
  exact if_pos (by simp [hstill])

/-- A cause that wakes the engine leaves it waking (R409). -/
theorem State.causeEngine_wakes {cause : Nat} (hasleep : s.enginePower = 1 ∨ (s.enginePower = 2 ∧ cause ≠ 4)) :
    s.causeEngine cause =
      (({ s with eng := { s.eng with wakeFrom := s.enginePower } } : State).setReg .engine 0 0xA011 4 4).setReg .engine 0 0xA011 6 cause :=
  if_pos hasleep

theorem State.reg_causeEngine (hregs : risingFrom 0 s.regs = true) {cause : Nat}
    (hasleep : s.enginePower = 1 ∨ (s.enginePower = 2 ∧ cause ≠ 4)) :
    (s.causeEngine cause).enginePower = 4 ∧ (s.causeEngine cause).reg .engine 0 0xA011 6 = cause := by
  rw [State.causeEngine_wakes hasleep]
  constructor
  · exact (State.reg_setReg_other _ _ (by decide)).trans (State.reg_setReg_same (by exact hregs) _ _ _ _ _)
  · exact State.reg_setReg_same (risingFrom_put (Nat.zero_le _) (by exact hregs)) _ _ _ _ _

end

/-- Settles O36: each row runs its operation in the state of the engine it starts from. -/
theorem enginePowerStates : Obligations.EnginePowerStates := by
  refine ⟨?_, ?_, ?_, ?_, ?_, ?_, ?_, ?_⟩
  · intro s hready
    rw [← State.calmEntry_ready hready]
    rfl
  · intro s _ _ _
    rfl
  · intro s cause hlow hhigh _
    rw [← State.engineWake_cause hlow hhigh]
    rfl
  · intro s hstill
    rw [← congrArg State.done (State.engineWake_still_link hstill)]
    rfl
  · intro s hs hasleep
    obtain ⟨hpower, hcause⟩ := State.reg_causeEngine (Kept.start hs).regs (cause := 1) (hasleep.imp_right (⟨·, by decide⟩))
    exact ⟨s.causeEngine 1, rfl, hpower, hcause⟩
  · intro s p i hp _
    exact State.onLink_present hp _
  · intro s f hf
    exact State.onField_present hf _
  · intro s
    rfl

/-! ### Fabric time (R417, R419) -/

/-- A beacon leaves, and the next one takes the next number (R419). -/
theorem State.beaconOut_sent {s : State} (hrun : s.enginePower = 0) (hstep : 6 ≤ s.reg .engine 0 0x1008 1) :
    s.beaconOut = (({ s with eng := { s.eng with beaconSeq := s.eng.beaconSeq + 1, beaconStep := false } } : State).sendSig (s.agentAt 0)
      (.beacon ⟨s.eng.beaconSeq % 256, s.eng.beaconStep, 0, s.ft 0⟩)) :=
  if_neg (by omega)

/-- Settles O37: a comparator and a field that exist run their rows, and a beacon leaves with its number. -/
theorem fabricTime : Obligations.FabricTime := by
  refine ⟨?_, ?_, ?_⟩
  · intro s i hi _
    exact if_pos (decide_eq_true hi)
  · intro s hrun hstep
    refine ⟨s.beaconOut, rfl, ?_⟩
    rw [State.beaconOut_sent hrun hstep]
    exact ⟨rfl, rfl⟩
  · intro s f b hf
    exact State.onField_present hf _

/-! ### Observation (R428, R433) -/

section
variable {s : State} {c : Coord} {core : Nat}

theorem State.traceInput_taken {data : List Byte} (hmode : bit (s.reg (cellNode c) 0 0x9050 4) core = true)
    (hfree : SMap.get [] (s.cell c).traceWait core = []) (hroom : (s.traceAdd c core (padTo 8 (data.take 8))).1 = true) :
    s.traceInput c core data = (s.traceAdd c core (padTo 8 (data.take 8))).2 := by
  unfold State.traceInput
  rw [if_neg (by simp [hmode, hfree])]
  exact if_pos hroom

theorem State.breakAt_enabled (henabled : bit (bits (s.reg (cellNode c) 0 0x9050 8) (5 * core) 5) 4 = true)
    (hup : (s.cell c).inReset = false) :
    s.breakAt c core = s.sendHalt c (bits (s.reg (cellNode c) 0 0x9050 8) (5 * core) 5 % 16) true (s.srcOf c core) :=
  if_pos (by simp [henabled, hup])

end

/-- Settles O38: each row of a cell or core that exists runs its operation. -/
theorem observationProceeds : Obligations.ObservationProceeds := by
  refine ⟨?_, ?_, ?_, ?_, ?_⟩
  · intro s c core data hc hcore hmode hfree hroom
    exact State.traceInput_taken hmode hfree hroom ▸ State.onCore_present hc hcore _
  · intro s c src t hc _
    exact State.onCell_present hc _
  · intro s c k hc _ _
    exact State.onCell_present hc _
  · intro s c core hc hcore henabled hup
    exact State.breakAt_enabled henabled hup ▸ State.onCore_present hc hcore _
  · intro s c h hc _
    exact State.onCell_present hc _

end Sys2Proof.Machine
end

section
/-! SUPPORT. Bring-up, resets and the memory's answers (chapters 19 and 20): what the operation of each row does in the case a statement
names. Obligations O39 and O40 follow. -/

namespace Sys2Proof.Machine

/-! ### The steps of bring-up (R436, R440 to R446) -/

section
variable {s : State}

theorem State.coldStart_down (hdown : s.eng.powered = false) : s.coldStart = s.bringupStart false := if_neg (by simp [hdown])

theorem State.bootAgents_started (hstep : s.bootStep = 2) :
    s.bootAgents true [] =
      (List.range s.nFields).foldl (fun (s : State) f => s.setReg (.field f) 0 0x3010 1 1) (s.loadCerts.stepDone 2) := by
  unfold State.bootAgents
  rw [if_neg (not_not_intro hstep)]
  rfl

theorem State.bootClocks_locked (hstep : s.bootStep = 3) (hlocked : (List.range s.nFields).all (fun f => (s.field f).boot == 3) = true) :
    s.bootClocks = s.stepDone 3 := if_pos ⟨hstep, hlocked⟩

theorem State.bootWave_first {f : Nat} (hstep : s.bootStep = 3) (hwaits : (s.field f).boot = 0) :
    s.bootWave f = (s.upTo (s.eng.stepAt + us (s.reg .engine 0 0x1008 0x0B) * (f / s.build.fx))).modField f (fun q => { q with
      boot := if q.pg then 2 else 1,
      bootAt := (s.upTo (s.eng.stepAt + us (s.reg .engine 0 0x1008 0x0B) * (f / s.build.fx))).time }) := by
  unfold State.bootWave
  rw [if_neg (not_not_intro hstep), hwaits]
  rfl

/-- In its wave a field that has its supply starts its PLL, and one that has not waits for it (R442). -/
theorem State.field_bootWave_boot (hfields : SMap.wf FieldSt.init s.fields = true) {f : Nat} (hstep : s.bootStep = 3)
    (hwaits : (s.field f).boot = 0) : ((s.bootWave f).field f).boot = if (s.field f).pg then 2 else 1 := by
  rw [State.bootWave_first hstep hwaits, State.field_modField_same (by exact hfields)]
  rfl

theorem State.bootHoles_step (hstep : s.bootStep = 4) : s.bootHoles = ((s.defects.foldl State.defect s).mapsDone).stepDone 4 :=
  if_pos hstep

theorem State.bootSignal_released (hstep : s.bootStep = 6) :
    s.bootSignal true = (s.modEng (fun e => { e with beaconSeq := e.beaconSeq + 2 })).stepDone 6 := if_neg (not_not_intro hstep)

theorem State.field_pgRise_pg (hfields : SMap.wf FieldSt.init s.fields = true) (f : Nat) : ((s.pgRise f).field f).pg = true := by
  unfold State.pgRise
  rw [State.field_modField_same hfields]
  dsimp only
  split <;> rfl

/-- The routers of a field leave reset as its PLL locks (R442), at the time at which its clock starts. -/
theorem State.bootLock_waits {f : Nat} (hstep : s.bootStep = 3) (hwaits : (s.field f).boot = 2) :
    s.bootLock f = (s.startClock f).modField f (fun q => { q with boot := 3, bootAt := (s.startClock f).time }) := by
  rw [State.startClock_time]
  exact if_pos ⟨hstep, hwaits⟩

end

/-- Settles O39: each step runs its operation where bring-up stands at it, and each row of a field or stack where that exists. -/
theorem bringUpSteps : Obligations.BringUpSteps := by
  refine ⟨?_, ?_, ?_, ?_, ?_, ?_, ?_, ?_, ?_, ?_, ?_, ?_, ?_, ?_, ?_, ?_⟩
  · intro s hdown
    rw [← State.coldStart_down hdown]
    rfl
  · intro s _
    rfl
  · intro s _ _
    rfl
  · intro s hstep
    rw [← State.bootAgents_started hstep]
    rfl
  · intro s hstep hlocked
    rw [← State.bootClocks_locked hstep hlocked]
    rfl
  · intro s f hs hf hstep hwaits
    exact ⟨s.bootWave f, State.onField_present hf _, State.field_bootWave_boot (Kept.start hs).fields hstep hwaits⟩
  · intro s hstep
    rw [← State.bootHoles_step hstep]
    rfl
  · intro s x _
    rfl
  · intro s hstep
    rw [← State.bootSignal_released hstep]
    rfl
  · intro s _
    rfl
  · intro s _
    rfl
  · intro s _ _
    rfl
  · intro s _ _
    rfl
  · intro s f hs hf
    exact ⟨s.pgRise f, State.onField_present hf _, State.field_pgRise_pg (Kept.start hs).fields f⟩
  · intro s f hf hstep hwaits
    exact State.bootLock_waits hstep hwaits ▸ State.onField_present hf _
  · intro s st hst _
    exact if_pos hst

/-! ### Power and cell resets (R120, R450, R453) -/

section
variable {s : State} {c : Coord}

/-- Without AON_PG no bring-up stands at a step (R453). -/
theorem State.bootStep_powerFall (hs : s.canonical = true) : s.powerFall.bootStep = 0 :=
  State.reg_setReg_same (State.bringupStart_kept false (Kept.start hs)).regs _ _ _ _ _

theorem State.cellReleaseAt_held (hheld : (s.cell c).inReset = true) :
    s.cellReleaseAt c = (((s.modCell c (fun q => { q with
      inReset := false, cores := q.cores.map (fun k => { k with prod := 0, cons := 0, ctrs := [] }) })).modIn c 8
        (fun i => { i with masked := false })).setChan c 63 1 1) := if_neg (by simp [hheld])

/-- The release of a cell ends its reset and opens CH63 (R450). -/
theorem State.cellReleaseAt_resumes (hs : s.canonical = true) (hheld : (s.cell c).inReset = true) :
    ((s.cellReleaseAt c).cell c).inReset = false ∧ (s.cellReleaseAt c).chan c 63 1 = 1 := by
  have hkept := Kept.start hs
  rw [State.cellReleaseAt_held hheld]
  constructor
  · rw [State.setChan, State.cell_setReg, State.modIn, State.cell_modRtr, State.cell_modCell_same hkept.cells]
  · exact State.reg_setReg_same (by exact hkept.regs) _ _ _ _ _

/-! ### The answers of the cell memory (R118, R119, R448) -/

theorem State.memAnswer_read {u : State} {r : MemRead} {rest : List MemRead} (hu : s.countStalls c = u) (hread : (u.cell c).mrd = r :: rest)
    (err : Bool) :
    s.memAnswer c err =
      (((if err then (u.modCell c (fun q => { q with
          mrd := rest, portAt := u.nextFc (u.fieldOf c),
          bad := q.bad.filter (fun g => g != r.gran) ++ (if err then [r.gran] else []) })).bump (cellNode c) 0 0x4000 8 1
        else u.modCell c (fun q => { q with
          mrd := rest, portAt := u.nextFc (u.fieldOf c),
          bad := q.bad.filter (fun g => g != r.gran) ++ (if err then [r.gran] else []) })).readTaken c r err).tidyRouter c).after c := by
  unfold State.memAnswer
  rw [hu]
  dsimp only
  rw [hread]

theorem State.memAnswer_stray (hstray : ((s.countStalls c).cell c).mrd = []) (err : Bool) : s.memAnswer c err = s.countStalls c := by
  unfold State.memAnswer
  dsimp only
  rw [hstray]

/-- The stalls of a cell-memory port that are counted leave the field's clock as it is. -/
theorem State.nextFc_countStalls (s : State) (c : Coord) (f : Nat) : (s.countStalls c).nextFc f = s.nextFc f := by
  have hkey : regKey (.field f) 0 0xA001 1 ≠ regKey (cellNode c) 0 0x4000 7 := fun h =>
    absurd (congrArg (· % 256) h) (by simp [regKey_sub])
  unfold State.countStalls
  dsimp only
  split
  · rfl
  · exact congrArg (fun k => s.time + cdiv 1000 k) (State.reg_bump_other s _ hkey)

theorem State.fieldOf_countStalls (s : State) (c d : Coord) : (s.countStalls c).fieldOf d = s.fieldOf d := by
  unfold State.countStalls
  dsimp only
  split <;> rfl

theorem State.memAck_served {u : State} (hu : s.countStalls c = u) :
    s.memAck c = u.modCell c (fun q => { q with mwr := q.mwr.drop 1, portAt := u.nextFc (u.fieldOf c) }) := by
  subst hu
  rw [State.nextFc_countStalls, State.fieldOf_countStalls]
  rfl

end

/-- Settles O40: each row runs its operation; a fall of power and a release read back what they set, and an answer goes to the read that the
port serves, if there is one. -/
theorem powerAndResets : Obligations.PowerAndResets := by
  refine ⟨?_, ?_, ?_, ?_, ?_, ?_, ?_⟩
  · intro s hs
    exact ⟨s.powerFall, rfl, rfl, State.bootStep_powerFall hs⟩
  · intro s f hf
    exact State.onField_present hf _
  · intro s c hc _
    exact State.onCell_present hc _
  · intro s c hs hc hheld
    obtain ⟨hup, hopen⟩ := State.cellReleaseAt_resumes hs hheld
    exact ⟨s.cellReleaseAt c, State.onCell_present hc _, hup, hopen⟩
  · intro s u c r rest hc hu hread
    exact ⟨State.memAnswer_read hu hread false ▸ State.onCell_present hc _,
      State.memAnswer_read hu hread true ▸ State.onCell_present hc _⟩
  · rintro s _ c e hc rfl hstray
    exact State.memAnswer_stray hstray e ▸ State.onCell_present hc _
  · intro s u c hc hu
    exact State.memAck_served hu ▸ State.onCell_present hc _

end Sys2Proof.Machine
end

section
/-! SUPPORT. What leaves every cell memory as it is (R448): one equation for each operation that a row of the frame runs. Obligation O54
follows. -/

namespace Sys2Proof.Machine

/-! ### Operations that store nothing

Each operation has one equation `(s.op …).cellMem = s.cellMem`. Marked `↓`, it rewrites before `simp` enters the operation's arguments, so
that a chain of operations is peeled off from the outside. The single updates are proved by `Eq.refl _`: as plain rewriting rules they also
serve in the side goal of a loop. -/

@[simp ↓] theorem State.cellMem_ite (p : Prop) [Decidable p] (a b : State) :
    (if p then a else b).cellMem = if p then a.cellMem else b.cellMem := apply_ite _ _ _ _

@[simp ↓] theorem State.cellMem_snd_ite {α : Type} (p : Prop) [Decidable p] (a b : α × State) :
    (if p then a else b).2.cellMem = if p then a.2.cellMem else b.2.cellMem := by
  split <;> rfl

@[simp] theorem State.cellMem_foldl {α : Type} {f : State → α → State} (hf : ∀ s a, (f s a).cellMem = s.cellMem) (l : List α)
    (s : State) : (l.foldl f s).cellMem = s.cellMem := foldl_keeps hf l s

/-! #### Cells, rings, faults and signals -/

@[simp ↓] theorem State.pushRec_cellMem (s : State) (n : Node) (inst idx sub cap v : Nat) :
    (s.pushRec n inst idx sub cap v).cellMem = s.cellMem := Eq.refl _

@[simp ↓] theorem State.countStalls_cellMem (s : State) (c : Coord) : (s.countStalls c).cellMem = s.cellMem := by
  unfold State.countStalls
  dsimp only
  (repeat' split) <;> rfl

@[simp ↓] theorem State.clocked_cellMem {s t : State} (h : t.cellMem = s.cellMem) (c : Coord) : (s.clocked c t).cellMem = s.cellMem := by
  simp [State.clocked, h]

@[simp ↓] theorem State.countEvent_cellMem (s : State) (c : Coord) (ev q lane k : Nat) :
    (s.countEvent c ev q lane k).cellMem = s.cellMem := by
  simp [State.countEvent]

@[simp ↓] theorem State.ringEvent_cellMem (s : State) (c : Coord) (ev whr detail : Nat) :
    (s.ringEvent c ev whr detail).cellMem = s.cellMem := by
  simp [State.ringEvent]

@[simp ↓] theorem State.freezeRing_cellMem (s : State) (c : Coord) (cause : Nat) : (s.freezeRing c cause).cellMem = s.cellMem := Eq.refl _

@[simp ↓] theorem State.sendSig_cellMem (s : State) (c : Coord) (sg : Signal) : (s.sendSig c sg).cellMem = s.cellMem := Eq.refl _

@[simp ↓] theorem State.raiseNack_cellMem (s : State) (c : Coord) (raiser : SrcAddr) (p : Packet) (reason chstate var : Nat) :
    (s.raiseNack c raiser p reason chstate var).cellMem = s.cellMem := by
  simp [State.raiseNack]

@[simp ↓] theorem State.faultInt_cellMem (s : State) (b : FaultBlock) : (s.faultInt b).cellMem = s.cellMem := by
  unfold State.faultInt
  dsimp only
  (repeat' split) <;> rfl

@[simp ↓] theorem State.faultEvent_cellMem (s : State) (b : FaultBlock) (cause whr detail : Nat) :
    (s.faultEvent b cause whr detail).cellMem = s.cellMem := by
  unfold State.faultEvent
  dsimp only
  split <;> simp

@[simp ↓] theorem State.faultLive_cellMem (s : State) (b : FaultBlock) (cause : Nat) (on : Bool) :
    (s.faultLive b cause on).cellMem = s.cellMem := Eq.refl _

@[simp ↓] theorem State.fresh_cellMem (s : State) : s.fresh.2.cellMem = s.cellMem := Eq.refl _

@[simp ↓] theorem State.takeInject_cellMem (s : State) (n : Node) (kind whr : Nat) : (s.takeInject n kind whr).2.cellMem = s.cellMem := by
  unfold State.takeInject
  dsimp only
  (repeat' split) <;> rfl

@[simp ↓] theorem State.wear_cellMem (s : State) (b : FaultBlock) (k : Nat) : (s.wear b k).cellMem = s.cellMem := Eq.refl _

@[simp ↓] theorem State.chAdvance_cellMem (s : State) (c : Coord) (n h g : Nat) : (s.chAdvance c n h g).2.cellMem = s.cellMem := by
  unfold State.chAdvance
  split <;> rfl

/-! #### Routers -/

@[simp ↓] theorem State.modLane_cellMem (s : State) (c : Coord) (q l : Nat) (f : LaneIn → LaneIn) :
    (s.modLane c q l f).cellMem = s.cellMem := Eq.refl _

@[simp ↓] theorem State.modOut_cellMem (s : State) (c : Coord) (p : Nat) (f : OutSt → OutSt) :
    (s.modOut c p f).cellMem = s.cellMem := Eq.refl _

@[simp ↓] theorem State.routeChange_cellMem (s : State) : s.routeChange.cellMem = s.cellMem := Eq.refl _

@[simp ↓] theorem State.decideFence_cellMem (s : State) (b : FaultBlock) : (s.decideFence b).cellMem = s.cellMem := by
  unfold State.decideFence
  split <;> rfl

@[simp ↓] theorem State.strike_cellMem (s : State) (b : FaultBlock) (cause whr detail : Nat) :
    (s.strike b cause whr detail).cellMem = s.cellMem := by
  simp [State.strike]

@[simp ↓] theorem State.memInject_cellMem (s : State) (b : FaultBlock) (whr cause detail : Nat) :
    (s.memInject b whr cause detail).2.cellMem = s.cellMem := by
  have hinject := s.takeInject_cellMem b.node 4 whr
  unfold State.memInject
  split
  · next t h =>
    rw [h] at hinject
    exact hinject
  · next pat quiet t h =>
    rw [h] at hinject
    (repeat' split) <;> simp [← hinject]

@[simp ↓] theorem State.noteStop_cellMem (s : State) (c : Coord) (p old : Nat) : (s.noteStop c p old).cellMem = s.cellMem := by
  simp [State.noteStop]

@[simp ↓] theorem State.accrue_cellMem (s : State) (f : Nat) : (s.accrue f).cellMem = s.cellMem := by
  simp [State.accrue]

@[simp ↓] theorem State.setPower_cellMem (s : State) (f st : Nat) : (s.setPower f st).cellMem = s.cellMem := by
  simp [State.setPower]

@[simp ↓] theorem State.causeWake_cellMem (s : State) (f cause : Nat) : (s.causeWake f cause).cellMem = s.cellMem := by
  simp [State.causeWake]

@[simp ↓] theorem State.freeUnits_cellMem (s : State) (c : Coord) (q l k : Nat) : (s.freeUnits c q l k).cellMem = s.cellMem := by
  unfold State.freeUnits
  split <;> rfl

@[simp ↓] theorem State.putBeat_cellMem (s : State) (c : Coord) (p : Nat) (cw : List Byte) (side : Nat) (copy : Bool) :
    (s.putBeat c p cw side copy).cellMem = s.cellMem := by
  unfold State.putBeat
  split <;> rfl

@[simp ↓] theorem State.sendCreditBeat_cellMem (s : State) (c : Coord) (p : Nat) : (s.sendCreditBeat c p).cellMem = s.cellMem := by
  simp [State.sendCreditBeat]

@[simp ↓] theorem State.linkLocal_cellMem (s : State) (c : Coord) (p : Nat) (mk : Coord → Nat → Signal) :
    (s.linkLocal c p mk).cellMem = s.cellMem := by
  unfold State.linkLocal
  split <;> rfl

@[simp ↓] theorem State.finishSync_cellMem (s : State) (c : Coord) (p : Nat) : (s.finishSync c p).cellMem = s.cellMem := by
  unfold State.finishSync
  split <;> rfl

@[simp ↓] theorem State.trimLane_cellMem (s : State) (c : Coord) (q l : Nat) : (s.trimLane c q l).cellMem = s.cellMem := by
  unfold State.trimLane
  dsimp only
  split <;> simp

@[simp ↓] theorem State.sendUnit_cellMem (s : State) (c : Coord) (p : Nat) (k : CurPkt) (g : OutLeg) (n : Nat) (u : BufUnit) :
    (s.sendUnit c p k g n u).cellMem = s.cellMem := by
  simp [State.sendUnit]

@[simp ↓] theorem State.lose_cellMem (s : State) (p : Packet) : (s.lose p).cellMem = s.cellMem := Eq.refl _

@[simp ↓] theorem State.cutBegun_cellMem (s : State) (c : Coord) (p : Nat) : (s.cutBegun c p).cellMem = s.cellMem := Eq.refl _

@[simp ↓] theorem State.tidyLane_cellMem (s : State) (c : Coord) (q l : Nat) (fuel : Nat) :
    (s.tidyLane c q l fuel).cellMem = s.cellMem := by
  induction fuel generalizing s with
  | zero => rfl
  | succ fuel ih =>
    unfold State.tidyLane
    dsimp only
    (repeat' split) <;> simp [ih]

@[simp ↓] theorem State.exitPkt_cellMem (s : State) (c : Coord) (p : Nat) (pk : Packet) : (s.exitPkt c p pk).cellMem = s.cellMem := by
  simp [State.exitPkt]

@[simp ↓] theorem State.arrive_cellMem (s : State) (c : Coord) (hdr : Nat) (us : List BufUnit) :
    (s.arrive c hdr us).cellMem = s.cellMem := by
  unfold State.arrive
  (repeat' split) <;> simp

@[simp ↓] theorem State.sendMarker_cellMem (s : State) (c : Coord) (q : Nat) : (s.sendMarker c q).cellMem = s.cellMem := by
  simp [State.sendMarker]

@[simp ↓] theorem State.insertBeat_cellMem (s : State) (c : Coord) (p : Nat) : (s.insertBeat c p).cellMem = s.cellMem := by
  simp [State.insertBeat]

@[simp ↓] theorem State.betweenGusts_cellMem (s : State) (c : Coord) (p : Nat) : (s.betweenGusts c p).cellMem = s.cellMem := by
  simp [State.betweenGusts]

@[simp ↓] theorem State.pushUnits_cellMem (s : State) (c : Coord) (p : Nat) : (s.pushUnits c p).cellMem = s.cellMem := by
  unfold State.pushUnits
  dsimp only
  (repeat' split) <;> simp

@[simp ↓] theorem State.tidyRouter_cellMem (s : State) (c : Coord) : (s.tidyRouter c).cellMem = s.cellMem := by
  refine State.clocked_cellMem ?_ c
  rw [State.cellMem_foldl (by simp), State.cellMem_foldl (by simp)]

/-! #### Landing queues -/

@[simp ↓] theorem State.modLanding_cellMem (s : State) (x : Site) (f : Landing → Landing) : (s.modLanding x f).cellMem = s.cellMem := by
  unfold State.modLanding
  split <;> rfl

@[simp ↓] theorem State.enterQueue_cellMem (s : State) (x : Site) (q : LReq) : (s.enterQueue x q).cellMem = s.cellMem := by
  simp [State.enterQueue]

@[simp ↓] theorem State.mresAnswer_cellMem (s : State) (c : Coord) (g : MresGrant) (phase reasons ok fail : Nat) :
    (s.mresAnswer c g phase reasons ok fail).cellMem = s.cellMem := Eq.refl _

@[simp ↓] theorem State.mresEnter_cellMem (s : State) (c : Coord) (g : MresGrant) : (s.mresEnter c g).cellMem = s.cellMem := by
  simp [State.mresEnter]

@[simp ↓] theorem State.mresGrantAt_cellMem (s : State) (c : Coord) (g : MresGrant) : (s.mresGrantAt c g).cellMem = s.cellMem := by
  simp [State.mresGrantAt]

/-! #### Credits, anycast, barriers, tallies and interrupts -/

@[simp ↓] theorem State.creditBeatInsert_cellMem (s : State) (c : Coord) (p : Nat) : (s.creditBeatInsert c p).cellMem = s.cellMem := by
  unfold State.creditBeatInsert
  dsimp only
  split <;> simp

@[simp ↓] theorem State.slotApply_cellMem (s : State) (c : Coord) (p : Nat) : (s.slotApply c p).cellMem = s.cellMem := by
  unfold State.slotApply
  split <;> rfl

@[simp ↓] theorem State.syncRequest_cellMem (s : State) (c : Coord) (q : Nat) : (s.syncRequest c q).cellMem = s.cellMem := by
  simp [State.syncRequest]

@[simp ↓] theorem State.syncMarker_cellMem (s : State) (c : Coord) (p : Nat) : (s.syncMarker c p).cellMem = s.cellMem := by
  simp [State.syncMarker]

@[simp ↓] theorem State.syncReply_cellMem (s : State) (c : Coord) (p : Nat) (counts : List Nat) :
    (s.syncReply c p counts).cellMem = s.cellMem := by
  simp [State.syncReply]

@[simp ↓] theorem State.syncRetry_cellMem (s : State) (c : Coord) (p : Nat) : (s.syncRetry c p).cellMem = s.cellMem := by
  unfold State.syncRetry
  dsimp only
  split <;> simp

@[simp ↓] theorem State.creditSignal_cellMem (s : State) (c : Coord) (q : Nat) : (s.creditSignal c q).cellMem = s.cellMem := by
  unfold State.creditSignal
  dsimp only
  split <;> simp

@[simp ↓] theorem State.creditSignalAt_cellMem (s : State) (c : Coord) (p : Nat) (counts : List Nat) :
    (s.creditSignalAt c p counts).cellMem = s.cellMem := Eq.refl _

@[simp ↓] theorem State.hardStop_cellMem (s : State) (c : Coord) (p : Nat) (on : Bool) : (s.hardStop c p on).cellMem = s.cellMem := by
  simp [State.hardStop]

@[simp ↓] theorem State.setTally_cellMem (s : State) (f k v : Nat) : (s.setTally f k v).cellMem = s.cellMem := Eq.refl _

@[simp ↓] theorem State.anyAdvertise_cellMem (s : State) (g : Nat) : (s.anyAdvertise g).cellMem = s.cellMem := by
  simp [State.anyAdvertise]

@[simp ↓] theorem State.anyDecode_cellMem (s : State) (g : Nat) : (s.anyDecode g).cellMem = s.cellMem := by
  simp [State.anyDecode]

@[simp ↓] theorem State.discardSig_cellMem (s : State) (c : Coord) : (s.discardSig c).cellMem = s.cellMem := Eq.refl _

@[simp ↓] theorem State.slsyncSend_cellMem (s : State) (c : Coord) (q : Nat) : (s.slsyncSend c q).cellMem = s.cellMem := by
  simp [State.slsyncSend]

@[simp ↓] theorem State.takeCrl_cellMem (s : State) (c : Coord) (q side : Nat) : (s.takeCrl c q side).cellMem = s.cellMem := by
  unfold State.takeCrl
  dsimp only
  split <;> rfl

@[simp ↓] theorem State.takeLocal_cellMem (s : State) (c : Coord) (q : Nat) (sg : Signal) : (s.takeLocal c q sg).cellMem = s.cellMem := by
  unfold State.takeLocal
  dsimp only
  split <;> simp

@[simp ↓] theorem State.setBar_cellMem (s : State) (c : Coord) (k sub v : Nat) : (s.setBar c k sub v).cellMem = s.cellMem := Eq.refl _

@[simp ↓] theorem State.barRelease_cellMem (s : State) (c : Coord) (k : Nat) (timeout : Bool) :
    (s.barRelease c k timeout).cellMem = s.cellMem := by
  simp [State.barRelease]

@[simp ↓] theorem State.atRouter_cellMem (s : State) (c : Coord) (sg : Signal) {run : State → State}
    (hrun : ∀ s, (run s).cellMem = s.cellMem) : (s.atRouter c sg run).cellMem = s.cellMem := by
  simp [State.atRouter, hrun]

@[simp ↓] theorem State.barArriveRoot_cellMem (s : State) (c : Coord) (a : BarArrive) : (s.barArriveRoot c a).cellMem = s.cellMem := by
  simp [State.barArriveRoot]

@[simp ↓] theorem State.barArriveAt_cellMem (s : State) (c : Coord) (a : BarArrive) : (s.barArriveAt c a).cellMem = s.cellMem := by
  simp [State.barArriveAt]

@[simp ↓] theorem State.barTimeout_cellMem (s : State) (k : Nat) : (s.barTimeout k).cellMem = s.cellMem := by
  simp [State.barTimeout]

@[simp ↓] theorem State.tallyOp_cellMem (s : State) (q : TallyReq) : (s.tallyOp q).cellMem = s.cellMem := by
  simp [State.tallyOp]

@[simp ↓] theorem State.tallyAt_cellMem (s : State) (q : TallyReq) : (s.tallyAt q).cellMem = s.cellMem := by
  simp [State.tallyAt]

@[simp ↓] theorem State.intAt_cellMem (s : State) (c : Coord) (core origin arg32 : Nat) :
    (s.intAt c core origin arg32).cellMem = s.cellMem := by
  unfold State.intAt
  (repeat' split) <;> rfl

@[simp ↓] theorem State.intTake_cellMem (s : State) (c : Coord) (core tag : Nat) : (s.intTake c core tag).cellMem = s.cellMem := by
  unfold State.intTake
  split <;> rfl

/-! #### Link ports and routes -/

@[simp ↓] theorem State.linkStop_cellMem (s : State) (p : Nat) (on : Bool) : (s.linkStop p on).cellMem = s.cellMem := by
  simp [State.linkStop]

@[simp ↓] theorem State.setPortState_cellMem (s : State) (p st : Nat) : (s.setPortState p st).cellMem = s.cellMem := by
  simp [State.setPortState]

@[simp ↓] theorem State.oldKeyEnd_cellMem (s : State) (p : Nat) : (s.oldKeyEnd p).cellMem = s.cellMem := by
  unfold State.oldKeyEnd
  split <;> rfl

@[simp ↓] theorem State.noteExpiry_cellMem (s : State) (origin : Nat) : (s.noteExpiry origin).cellMem = s.cellMem := by
  unfold State.noteExpiry
  split <;> rfl

@[simp ↓] theorem State.routeRecompute_cellMem (s : State) : s.routeRecompute.cellMem = s.cellMem := by
  simp [State.routeRecompute]

@[simp ↓] theorem State.holdEnd_cellMem (s : State) (p : Nat) : (s.holdEnd p).cellMem = s.cellMem := by
  simp [State.holdEnd]

@[simp ↓] theorem State.upHold_cellMem (s : State) (p : Nat) : (s.upHold p).cellMem = s.cellMem := by
  unfold State.upHold
  split <;> rfl

@[simp ↓] theorem State.flapReset_cellMem (s : State) (p : Nat) : (s.flapReset p).cellMem = s.cellMem := by
  unfold State.flapReset
  split <;> rfl

/-! #### Clocks, power states and observation -/

@[simp ↓] theorem State.droop_cellMem (s : State) (f n : Nat) : (s.droop f n).cellMem = s.cellMem := Eq.refl _

@[simp ↓] theorem State.breezeEntry_cellMem (s : State) (f : Nat) : (s.breezeEntry f).cellMem = s.cellMem := by
  simp [State.breezeEntry]

@[simp ↓] theorem State.lullEntry_cellMem (s : State) (f : Nat) : (s.lullEntry f).cellMem = s.cellMem := by
  simp [State.lullEntry]

@[simp ↓] theorem State.lullDone_cellMem (s : State) (f : Nat) : (s.lullDone f).cellMem = s.cellMem := by
  simp [State.lullDone]

@[simp ↓] theorem State.wakeAt_cellMem (s : State) (f arg8 : Nat) : (s.wakeAt f arg8).cellMem = s.cellMem := by
  simp [State.wakeAt]

@[simp ↓] theorem State.wakeHoldEnd_cellMem (s : State) (f : Nat) : (s.wakeHoldEnd f).cellMem = s.cellMem := by
  unfold State.wakeHoldEnd
  split <;> rfl

@[simp ↓] theorem State.atCell_cellMem (s : State) (c : Coord) {run : State → State}
    (hrun : ∀ s, (run s).cellMem = s.cellMem) : (s.atCell c run).cellMem = s.cellMem := by
  simp [State.atCell, hrun]

@[simp ↓] theorem State.atSig_cellMem (s : State) (c : Coord) (sg : Signal) {run : State → State}
    (hrun : ∀ s, (run s).cellMem = s.cellMem) : (s.atSig c sg run).cellMem = s.cellMem := by
  simp [State.atSig, hrun]

@[simp ↓] theorem State.watchCalm_cellMem (s : State) : s.watchCalm.cellMem = s.cellMem := by
  unfold State.watchCalm
  split <;> rfl

@[simp ↓] theorem State.causeEngine_cellMem (s : State) (cause : Nat) : (s.causeEngine cause).cellMem = s.cellMem := by
  unfold State.causeEngine
  dsimp only
  (repeat' split) <;> rfl

@[simp ↓] theorem State.fantailWindow_cellMem (s : State) (f : Nat) : (s.fantailWindow f).cellMem = s.cellMem := by
  simp [State.fantailWindow]

@[simp ↓] theorem State.shareRecompute_cellMem (s : State) : s.shareRecompute.cellMem = s.cellMem := by
  apply State.cellMem_foldl
  exact fun _ _ => rfl

@[simp ↓] theorem State.beaconOut_cellMem (s : State) : s.beaconOut.cellMem = s.cellMem := by
  simp [State.beaconOut]

@[simp ↓] theorem State.breakAt_cellMem (s : State) (c : Coord) (core : Nat) : (s.breakAt c core).cellMem = s.cellMem := by
  unfold State.breakAt
  dsimp only
  (repeat' split) <;> rfl

@[simp ↓] theorem State.haltAt_cellMem (s : State) (c : Coord) (h : Halt) : (s.haltAt c h).cellMem = s.cellMem := by
  simp [State.haltAt]

/-! #### Commit groups, the management port and bring-up -/

@[simp ↓] theorem State.stepDone_cellMem (s : State) (k : Nat) : (s.stepDone k).cellMem = s.cellMem := by
  simp [State.stepDone]

@[simp ↓] theorem State.groupLease_cellMem (s : State) (w : Requester) : (s.groupLease w).cellMem = s.cellMem := by
  unfold State.groupLease
  split <;> rfl

@[simp ↓] theorem State.dictSegmentEnd_cellMem (s : State) (f : Nat) (w : Requester) (tag : Nat) :
    (s.dictSegmentEnd f w tag).cellMem = s.cellMem := by
  unfold State.dictSegmentEnd
  split <;> rfl

@[simp ↓] theorem State.mgmtTimeout_cellMem (s : State) (mtag : Nat) : (s.mgmtTimeout mtag).cellMem = s.cellMem := by
  unfold State.mgmtTimeout
  split <;> rfl

@[simp ↓] theorem State.mctpControl_cellMem (s : State) (m : MctpControl) : (s.mctpControl m).cellMem = s.cellMem := by
  unfold State.mctpControl
  split <;> rfl

@[simp ↓] theorem State.mgmtAddress_cellMem (s : State) (addr : Nat) : (s.mgmtAddress addr).cellMem = s.cellMem := Eq.refl _

@[simp ↓] theorem State.coldStart_cellMem (s : State) : s.coldStart.cellMem = s.cellMem := by
  unfold State.coldStart
  split <;> rfl

@[simp ↓] theorem State.bootAon_cellMem (s : State) (ok : Bool) : (s.bootAon ok).cellMem = s.cellMem := by
  unfold State.bootAon
  (repeat' split)
  · rfl
  · rfl
  · refine (State.stepDone_cellMem _ 1).trans ?_
    refine (State.cellMem_foldl ?_ _ _).trans (Eq.refl _)
    exact fun _ _ => rfl

@[simp ↓] theorem State.bootRetry_cellMem (s : State) : s.bootRetry.cellMem = s.cellMem := by
  unfold State.bootRetry
  dsimp only
  (repeat' split) <;> rfl

@[simp ↓] theorem State.pgRise_cellMem (s : State) (f : Nat) : (s.pgRise f).cellMem = s.cellMem := Eq.refl _

@[simp ↓] theorem State.powerFall_cellMem (s : State) : s.powerFall.cellMem = s.cellMem := Eq.refl _

/-! #### The rows of a cell and its cores -/

@[simp ↓] theorem State.memAck_cellMem (s : State) (c : Coord) : (s.memAck c).cellMem = s.cellMem := by
  simp [State.memAck]

@[simp ↓] theorem State.present_cellMem (s : State) (c : Coord) (core d : Nat) : (s.present c core d).cellMem = s.cellMem := by
  simp [State.present]

theorem State.direct_cellMem {s t : State} (h : t.cellMem = s.cellMem) (c : Coord) : (s.direct c t).cellMem = s.cellMem := by
  simp [State.direct, h]

@[simp ↓] theorem State.blockingWait_cellMem (s : State) (c : Coord) (core tag k v : Nat) :
    (s.blockingWait c core tag k v).cellMem = s.cellMem := by
  unfold State.blockingWait
  dsimp only
  (repeat' split) <;> rfl

@[simp ↓] theorem State.waitLate_cellMem (s : State) (c : Coord) (core k : Nat) : (s.waitLate c core k).cellMem = s.cellMem := by
  unfold State.waitLate
  split <;> rfl

@[simp ↓] theorem State.chWait_cellMem (s : State) (c : Coord) (core tag n : Nat) : (s.chWait c core tag n).cellMem = s.cellMem := by
  rw [State.chWait]
  split <;> split <;> rfl

@[simp ↓] theorem State.chWaitLate_cellMem (s : State) (c : Coord) (core n : Nat) : (s.chWaitLate c core n).cellMem = s.cellMem := by
  unfold State.chWaitLate
  split <;> rfl

@[simp ↓] theorem State.chAdvanceOp_cellMem (s : State) (c : Coord) (core tag n h g : Nat) :
    (s.chAdvanceOp c core tag n h g).cellMem = s.cellMem := s.chAdvance_cellMem c n _ _

@[simp ↓] theorem State.offMarker_cellMem (s : State) (c : Coord) (q : Nat) : (s.offMarker c q).cellMem = s.cellMem := Eq.refl _

@[simp ↓] theorem State.intRecv_cellMem (s : State) (c : Coord) (core origin arg32 : Nat) :
    (s.intRecv c core origin arg32).cellMem = s.cellMem := by
  simp [State.intRecv]

@[simp ↓] theorem State.wakeRecv_cellMem (s : State) (f arg8 : Nat) : (s.wakeRecv f arg8).cellMem = s.cellMem := by
  unfold State.wakeRecv
  dsimp only
  split <;> simp

theorem RouterAlone.cellMem {c : Coord} {s t : State} (h : RouterAlone c s t) : t.cellMem = s.cellMem := by
  rw [h.1]

theorem TestPortAlone.cellMem {s t : State} (h : TestPortAlone s t) : t.cellMem = s.cellMem := by
  rw [h]

/-! ### Rows that store nothing -/

/-- A row that answers a next state leaves the cell memories of `s` in it. -/
def OutStoresNothing (s : State) (o : Out) : Prop := ∀ t, o = .next t → t.cellMem = s.cellMem

section
variable {s u : State}

theorem OutStoresNothing.next (h : u.cellMem = s.cellMem) : OutStoresNothing s (.next u) := by
  intro t hnext
  cases hnext
  exact h

theorem OutStoresNothing.whenUnit (h : u.cellMem = s.cellMem) (ok : Bool) (what : String) :
    OutStoresNothing s (whenUnit ok what u) := by
  unfold Machine.whenUnit
  split
  · exact .next h
  · exact fun _ hnext => nomatch hnext

end

/-- Each row of the frame runs an operation that stores nothing, under its guard. -/
theorem exec_storesNothing {i : Instr} (hi : storesNothing i = true) (s : State) : OutStoresNothing s (exec i s) := by
  cases i with
  | counterRead c core tag k => exact .whenUnit (State.direct_cellMem (s.answer_cellMem ..) c) _ _
  | blockingWait c core tag k v => exact .whenUnit (State.direct_cellMem (s.blockingWait_cellMem ..) c) _ _
  | waitTimeoutExpiry c core k => exact .whenUnit (s.waitLate_cellMem ..) _ _
  | chPoll c core tag n => exact .whenUnit (State.direct_cellMem (s.answer_cellMem ..) c) _ _
  | chWait c core tag n => exact .whenUnit (State.direct_cellMem (s.chWait_cellMem ..) c) _ _
  | chWaitTimeout c core n => exact .whenUnit (s.chWaitLate_cellMem ..) _ _
  | chAdvance c core tag n h g => exact .whenUnit (State.direct_cellMem (s.chAdvanceOp_cellMem ..) c) _ _
  | intTake c core tag => exact .whenUnit (State.direct_cellMem (s.intTake_cellMem ..) c) _ _
  | commandPresent c core d => exact .whenUnit (s.present_cellMem ..) _ _
  | arbWindowBoundary c p => exact .whenUnit (State.clocked_cellMem (s.windowBoundary_routerAlone c p).cellMem c) _ _
  | tradeClaimArise c p => exact .whenUnit (State.clocked_cellMem (s.claimArise_routerAlone c p).cellMem c) _ _
  | tradeClaimLapse c p => exact .whenUnit (State.clocked_cellMem (s.claimLapse_routerAlone c p).cellMem c) _ _
  | tradeTableApply c p => exact .whenUnit (State.clocked_cellMem (s.slotApply_cellMem ..) c) _ _
  | creditSyncReqReceive c p => exact .whenUnit (State.clocked_cellMem (by simp) c) _ _
  | creditSyncMarkerReceive c p => exact .whenUnit (State.clocked_cellMem (by simp) c) _ _
  | creditSyncRspReceive c p counts => exact .whenUnit (State.clocked_cellMem (by simp) c) _ _
  | creditSyncRetry c p => exact .whenUnit (State.clocked_cellMem (s.syncRetry_cellMem ..) c) _ _
  | creditSignalSend c p => exact .whenUnit (State.clocked_cellMem (s.creditSignal_cellMem ..) c) _ _
  | creditSignalReceive c p counts => exact .whenUnit (State.clocked_cellMem (by simp) c) _ _
  | creditBeatInsert c p => exact .whenUnit (State.clocked_cellMem (s.creditBeatInsert_cellMem ..) c) _ _
  | slsyncSend c p => exact .whenUnit (State.clocked_cellMem (s.slsyncSend_cellMem ..) c) _ _
  | anycastAdvertise g => exact .whenUnit (s.anyAdvertise_cellMem ..) _ _
  | anycastWinnerDecode g => exact .whenUnit (s.anyDecode_cellMem ..) _ _
  | anyWinReceive c g member no => exact .whenUnit (s.anyWinAt_routerAlone c g member no).cellMem _ _
  | barArriveAtRoot c a => exact .whenUnit (s.barArriveAt_cellMem ..) _ _
  | barrierPhaseTimeout k => exact .whenUnit (s.barTimeout_cellMem ..) _ _
  | tallyRequestAtHome q => exact .whenUnit (s.tallyAt_cellMem ..) _ _
  | intReceive c core origin arg32 => exact .whenUnit (s.intRecv_cellMem ..) _ _
  | wakeReceive f arg8 => exact .whenUnit (s.wakeRecv_cellMem ..) _ _
  | mresGrantReceive c g => exact .whenUnit (by simp) _ _
  | oldKeyPhaseExpiry p => exact .whenUnit (s.oldKeyEnd_cellMem ..) _ _
  | holdDownExpiry p => exact .whenUnit (s.holdEnd_cellMem ..) _ _
  | upHoldElapsed p => exact .whenUnit (s.upHold_cellMem ..) _ _
  | flapDoublingReset p => exact .whenUnit (s.flapReset_cellMem ..) _ _
  | noteExpiry origin => exact .whenUnit (s.noteExpiry_cellMem ..) _ _
  | engineRouteRecompute => exact .next s.routeRecompute_cellMem
  | dictSegmentTimeout f who tag => exact .whenUnit (s.dictSegmentEnd_cellMem ..) _ _
  | groupLeaseExpiry who => exact .next (s.groupLease_cellMem ..)
  | mgmtReplyTimeout mtag => exact .next (s.mgmtTimeout_cellMem ..)
  | mctpControlRequest m => exact .next (s.mctpControl_cellMem ..)
  | dynamicAddressAssignment addr => exact .next (s.mgmtAddress_cellMem ..)
  | droopStretch f n => exact .whenUnit (s.droop_cellMem ..) _ _
  | breezeEntry f => exact .whenUnit (s.breezeEntry_cellMem ..) _ _
  | lullEntry f => exact .whenUnit (s.lullEntry_cellMem ..) _ _
  | lullEntryDone f => exact .whenUnit ((s.lullDone f).watchCalm_cellMem.trans (s.lullDone_cellMem f)) _ _
  | wakeHoldExpiry f => exact .whenUnit (s.wakeHoldEnd_cellMem ..) _ _
  | wakeNFall => exact .next (s.causeEngine_cellMem ..)
  | fantailWindow f => exact .whenUnit (s.fantailWindow_cellMem ..) _ _
  | fantailShareRecompute => exact .next s.shareRecompute_cellMem
  | beaconOriginate => exact .next s.beaconOut_cellMem
  | breakpoint c core => exact .whenUnit (s.breakAt_cellMem ..) _ _
  | haltReceive c h => exact .whenUnit (s.haltAt_cellMem ..) _ _
  | coldBringup => exact .next s.coldStart_cellMem
  | refclkRetry => exact .next s.bootRetry_cellMem
  | bringupAon ok => exact .next (s.bootAon_cellMem ..)
  | fieldPgRise f => exact .whenUnit (s.pgRise_cellMem ..) _ _
  | aonPgFall => exact .next s.powerFall_cellMem
  | memWriteAck c => exact .whenUnit (s.memAck_cellMem ..) _ _
  | testModeRise => exact .next (TestPortAlone.testRise s).cellMem
  | testModeFall => exact .next (Eq.refl s.cellMem)
  | extest update => exact .next (TestPortAlone.tapDrive s 0 update).cellMem
  | samplePreload preload => exact .next (TestPortAlone.tapSample s preload).cellMem
  | idcode => exact .next (TestPortAlone.tapIdcode s).cellMem
  | extestPulse update => exact .next (TestPortAlone.tapDrive s 0x0C update).cellMem
  | extestTrain update => exact .next (TestPortAlone.tapDrive s 0x0D update).cellMem
  | bypass => exact .next (TestPortAlone.tapBypass s).cellMem
  | tapReset => exact .next (TestPortAlone.tapIdcode s).cellMem
  | _ => exact absurd hi Bool.false_ne_true

/-- Settles O54: a byte reads as before where the cell memories are as before. -/
theorem noStoreFrame : Obligations.NoStoreFrame := by
  intro i s t hi hnext c a
  exact State.memRead_congr (exec_storesNothing hi s t hnext) c a 1

end Sys2Proof.Machine
end
